-- ==== Sys2Proof/Word.lean ====
section
/-! DEFINITION. The widths of the machine and the one sparse map that registers and memories share. -/

namespace Sys2Proof

/-- A 32-bit word: an instruction word, a register lane, a memory word (01 R7, 03 R83). -/
abbrev Word := BitVec 32
/-- One byte: the location of 08 R239. -/
abbrev Byte := BitVec 8
/-- A 64-bit byte address (01 R7, 06 R175). -/
abbrev Addr := BitVec 64

/-- A map from numbers to values as plain data: keys strictly rising, absent keys take a default where they are read. -/
abbrev SMap (α : Type) := List (Nat × α)

/-- The value listed at key k, if any. -/
def SMap.find? {α : Type} : SMap α → Nat → Option α
  | [], _ => none
  | (k, v) :: m, j => if k = j then some v else SMap.find? m j

/-- The value at key j, or the default of an unlisted key. -/
def SMap.get {α : Type} (m : SMap α) (d : α) (j : Nat) : α := (m.find? j).getD d

/-- List value v at key j, keeping the keys rising. -/
def SMap.put {α : Type} : SMap α → Nat → α → SMap α
  | [], j, v => [(j, v)]
  | (k, u) :: m, j, v =>
    if j < k then (j, v) :: (k, u) :: m
    else if k = j then (j, v) :: m
    else (k, u) :: SMap.put m j v

/-- Unlist key j. -/
def SMap.del {α : Type} (m : SMap α) (j : Nat) : SMap α := m.filter (fun p => p.1 != j)

/-- List v at j unless it is the default: the canonical write (equal maps are equal lists). -/
def SMap.set {α : Type} [DecidableEq α] (m : SMap α) (d : α) (j : Nat) (v : α) : SMap α :=
  if v = d then m.del j else m.put j v

/-- Keys strictly rising. -/
def SMap.rising {α : Type} : SMap α → Bool
  | [] => true
  | [_] => true
  | (k, _) :: (j, v) :: m => decide (k < j) && SMap.rising ((j, v) :: m)

/-- The canonical form: keys strictly rising and no entry equal to the default. -/
def SMap.canonical {α : Type} [DecidableEq α] (m : SMap α) (d : α) : Bool :=
  m.rising && m.all (fun p => decide (p.2 ≠ d))

/-- Change the value at key j where one is listed. -/
def SMap.modify {α : Type} (m : SMap α) (j : Nat) (f : α → α) : SMap α :=
  m.map (fun p => if p.1 = j then (p.1, f p.2) else p)

/-- The lane numbers 0 to 31 (01 R8). -/
def laneNums : List Nat := List.range 32

/-- The lanes of a mask, ascending (01 R15). -/
def lanesOf (m : Word) : List Nat := laneNums.filter (fun l => m.getLsbD l)

/-- The mask of one lane. -/
def laneBit (l : Nat) : Word := BitVec.ofNat 32 (2 ^ l)

/-- The bytes of a word, low byte first (00 R3). -/
def bytesOf (n : Nat) (v : Nat) : List Byte := (List.range n).map (fun i => BitVec.ofNat 8 (v / 256 ^ i))

/-- The number whose little-endian bytes are given (00 R3). -/
def ofBytes : List Byte → Nat
  | [] => 0
  | b :: bs => b.toNat + 256 * ofBytes bs

end Sys2Proof
end

