-- ==== Sys2Proof/Machine/Codec.lean ====
section
/-! DEFINITION. The lossless block codec: 256-byte blocks of 64 words (09 R278 to R281). A stream is one number, bit k of the stream its
bit k. -/

namespace Sys2Proof.Machine

/-- The signed 32-bit difference x - x0 (09 R279). -/
def wordDelta (x x0 : Nat) : Int :=
  let d : Nat := (x + 2 ^ 32 - x0) % 2 ^ 32
  if d < 2 ^ 31 then (d : Int) else (d : Int) - 2 ^ 32

/-- The smallest number of signed bits that hold d; 0 for 0. -/
def signedWidth (d : Int) : Nat :=
  if d = 0 then 0 else if d > 0 then Nat.log2 d.toNat + 2 else if d = -1 then 1 else Nat.log2 (-d - 1).toNat + 2

/-- Sign extension of a w-bit field to 32 bits; width 0 is 0 (09 R279). -/
def extendField (w v : Nat) : Nat :=
  if w = 0 then 0 else if v < 2 ^ (w - 1) then v else (v + 2 ^ 32 - 2 ^ w) % 2 ^ 32

/-- Fields of (width, value) written one after another, least significant first. -/
def packStream : List (Nat × Nat) → Nat
  | [] => 0
  | (w, v) :: fs => v % 2 ^ w + 2 ^ w * packStream fs

/-- A delta as a w-bit field. -/
def fieldOf (w : Nat) (d : Int) : Nat × Nat := (w, (d % (2 ^ w : Nat)).toNat)

/-- The 64 words of a block. -/
def blockWords (bs : List Byte) : List Nat := (List.range 64).map (fun i => ofBytes ((bs.drop (4 * i)).take 4))

/-- The bytes of 64 words. -/
def wordsBlock (ws : List Nat) : List Byte := ws.flatMap (fun w => bytesOf 4 w)

/-- The canonical coding of a block: format byte and coded bytes (09 R281). -/
def encodeBlock (bs : List Byte) : Nat × List Byte :=
  let ws := blockWords bs
  let x0 := ws.headD 0
  let ds := ws.map (fun x => wordDelta x x0)
  if ds.all (fun d => d == 0) then (0x40, bytesOf 4 x0)
  else
    let w := ds.foldl (fun m d => max m (signedWidth d)) 0
    let wg := (List.range 8).map (fun g => ((ds.drop (8 * g)).take 8).foldl (fun m d => max m (signedWidth d)) 0)
    let n2 := if w ≤ 31 then 4 + (63 * w + 7) / 8 else 256
    let n3 := 10 + wg.sum
    if 256 ≤ min n2 n3 then (0, bs)
    else if n2 ≤ n3 then
      (0x80 + w, bytesOf n2 (packStream ((32, x0) :: (ds.drop 1).map (fieldOf w))))
    else
      (0xC0, bytesOf n3 (packStream ((32, x0) :: (wg.map (fun g => (6, g)) ++
        (List.range 64).map (fun i => fieldOf (wg.getD (i / 8) 0) (ds.getD i 0))))))

/-- The number of coded bytes of a block that no decoder rejects (09 R279 to R281). -/
def codedLength (fmt : Nat) (bs : List Byte) : Nat :=
  let mode := fmt / 64 % 4
  if mode = 0 then 256
  else if mode = 1 then 4
  else if mode = 2 then 4 + (63 * (fmt % 64) + 7) / 8
  else 10 + ((List.range 8).map (fun g => ofBytes (bs.take 256) / 2 ^ (32 + 6 * g) % 64)).sum

/-- Expand a coded block; none where R280 rejects the format byte or the stream. -/
def decodeBlock (fmt : Nat) (bs : List Byte) : Option (List Byte) :=
  let mode := fmt / 64 % 4
  let w := fmt % 64
  if mode = 0 then (if w ≠ 0 then none else some (bs.take 256))
  else
    let n := ofBytes (bs.take 256)
    let x0 := n % 2 ^ 32
    if mode = 1 then (if w ≠ 0 then none else some (wordsBlock (List.replicate 64 x0)))
    else if mode = 2 then
      if w = 0 ∨ 32 ≤ w then none
      else some (wordsBlock ((List.range 64).map (fun i =>
        if i = 0 then x0 else (x0 + extendField w (n / 2 ^ (32 + w * (i - 1)) % 2 ^ w)) % 2 ^ 32)))
    else
      let wg := (List.range 8).map (fun g => n / 2 ^ (32 + 6 * g) % 64)
      if w ≠ 0 ∨ wg.any (fun g => 32 < g) ∨ 256 ≤ 10 + wg.sum then none
      else some (wordsBlock ((List.range 64).map (fun i =>
        let g := i / 8
        let wi := wg.getD g 0
        let pos := 80 + 8 * (wg.take g).sum + wi * (i % 8)
        (x0 + extendField wi (n / 2 ^ pos % 2 ^ wi)) % 2 ^ 32)))

end Sys2Proof.Machine
end

