-- ==== Sys2Proof/Config.lean ====
section
/-! DEFINITION. What an implementation fixes, the free values of the spec's undefined and bounded results, and the names of
device registers and storages. -/

namespace Sys2Proof.Config

/-- FREE VALUE: an undefined vector register cell of the wave born as number n, epoch e, cell i (01 R10, R11, R33, R52). Log entry 4. -/
opaque undefCell : Nat → Nat → Nat → BitVec 32
/-- FREE VALUE: an undefined scalar register (01 R11). Log entry 4. -/
opaque undefScalar : Nat → Nat → Nat → BitVec 32
/-- FREE VALUE: an undefined byte of a scratchpad, by epoch and offset (06 R176, 09 R271, R275). Log entry 4. -/
opaque undefByte : Nat → Nat → BitVec 8
/-- FREE VALUE: a byte a destination holds that the spec leaves undefined (07 R207, R209, R210), by fresh number. Log entry 4. -/
opaque freeByte : Nat → BitVec 8
/-- FREE VALUE: a boundary element the spec does not state (12 R351, R360), by its place. Log entry 4. -/
opaque freeWord : Nat → BitVec 32
/-- FREE VALUE: the result an implementation returns for an approximated function on an input pattern (05 R147, R169).
The model takes it only where it lies within the stated bound. Log entry 8. -/
opaque approx : Nat → BitVec 32 → BitVec 32
/-- FREE VALUE: SHAKE256 of a byte string, n bytes out (14 R398, R399); the spec names the function and does not define it. Log entry 9. -/
opaque shake256 : Nat → List (BitVec 8) → List (BitVec 8)
/-- FREE VALUE: SLH-DSA-SHAKE-256s verification of a signature over a digest under a key (14 R398). Log entry 9. -/
opaque slhVerify : List (BitVec 8) → List (BitVec 8) → List (BitVec 8) → Bool
/-- FREE VALUE: SLH-DSA-SHAKE-128s signature with the attestation key (14 R399). Log entry 9. -/
opaque slhSign : List (BitVec 8) → List (BitVec 8)

/-- Bytes of memory behind each device, 248 GiB (09 R276). -/
def deviceBytes : Nat := 248 * 2 ^ 30

end Sys2Proof.Config

namespace Sys2Proof

/-- A register that control cores or the host write or read by name (09 R268, R282; 10 R296; 13 R367, R375; 14 R388, R396).
The spec gives no addresses for them in BAR0, so a name stands for the address (log entry 17). -/
inductive Reg where
  | lqring (n : Nat) | lqctx (n : Nat) | lqbell (n : Nat)
  | mdbase | mdspan
  | tqerr | trapreply | ctxctl | ctxaddr | ctxstat
  | inval
  | domain | linkctl (n : Nat) | linkstat (n : Nat)
  | introute (n : Nat)
  | ccestat (ctx cl : Nat) | gsestat (ctx cl : Nat) | trstat (ctx cl : Nat)
  | cceretired (cl : Nat)
  | clkstep | ecclog
  | raydrop (ctx : Nat)
  | ctxHeader (ctx : Nat) (off : Nat)
  deriving DecidableEq, Repr

/-- A storage that a soft error strikes (14 R401). -/
inductive Site where
  | memory (key : Nat)
  | register (wave cell : Nat)
  | latch (wave entry lane : Nat)
  | scalar (wave reg : Nat)
  | scratch (group cid off : Nat)
  | cluster (group off : Nat)
  | chip (off : Nat)
  | engineMemory (ctx cl : Nat)
  | pool (ray : Nat)
  | l1 (cid line : Nat)
  | l2 (line : Nat)
  | treelet (cl line : Nat)
  deriving DecidableEq, Repr

end Sys2Proof
end

