-- ==== Sys2Proof/Machine/Number.lean ====
section
/-! DEFINITION. Number formats, exact values, rounding and exact sums (02 R51 to R79). -/

namespace Sys2Proof.Machine

/-- Sticky flags as FSR orders them: 0 invalid, 1 divide-by-zero, 2 overflow, 3 underflow, 4 inexact (01 R43). -/
abbrev Flags := BitVec 5

def Flags.invalid : Flags := 1
def Flags.divZero : Flags := 2
def Flags.overflow : Flags := 4
def Flags.underflow : Flags := 8
def Flags.inexact : Flags := 16

/-- The flag f when the condition holds. -/
def Flags.when (c : Bool) (f : Flags) : Flags := if c then f else 0

/-- Rounding modes in the code order of FSR.RM (01 R43, 02 R65). -/
inductive RM where
  | rne | rtz | rup | rdn
  deriving DecidableEq, Repr

/-- The mode that FSR.RM names (01 R43). -/
def rmOf (n : Nat) : RM := if n % 4 = 0 then .rne else if n % 4 = 1 then .rtz else if n % 4 = 2 then .rup else .rdn

/-- An exact value: NaN, an infinity, or (-1)^neg x mag x 2^e with a signed zero (02 R54, R76). -/
inductive XR where
  | nan
  | inf (neg : Bool)
  | fin (neg : Bool) (mag : Nat) (e : Int)
  deriving DecidableEq, Repr

def XR.isNan : XR → Bool
  | .nan => true
  | .inf _ => false
  | .fin _ _ _ => false

def XR.isInf : XR → Bool
  | .nan => false
  | .inf _ => true
  | .fin _ _ _ => false

def XR.isFinite : XR → Bool
  | .nan => false
  | .inf _ => false
  | .fin _ _ _ => true

def XR.isZero : XR → Bool
  | .nan => false
  | .inf _ => false
  | .fin _ m _ => m == 0

/-- The sign, false for NaN. -/
def XR.neg : XR → Bool
  | .nan => false
  | .inf s => s
  | .fin s _ _ => s

/-- The value with its sign inverted (05 R146 FNEG). -/
def XR.flip : XR → XR
  | .nan => .nan
  | .inf s => .inf !s
  | .fin s m e => .fin (!s) m e

def XR.abs : XR → XR
  | .nan => .nan
  | .inf _ => .inf false
  | .fin _ m e => .fin false m e

def XR.ofInt (i : Int) : XR := .fin (i < 0) i.natAbs 0

/-- The numerator of a finite value over 2^(-e0), for e0 at most its exponent. -/
def XR.scaled (e0 : Int) : XR → Int
  | .nan => 0
  | .inf _ => 0
  | .fin s m e => (if s then -1 else 1) * (m * 2 ^ (e - e0).toNat : Nat)

/-- The exponent of a finite value, 0 for the rest. -/
def XR.expo : XR → Int
  | .nan => 0
  | .inf _ => 0
  | .fin _ _ e => e

/-- Compare two numbers; none when either is NaN; zeros are equal (04 R123). -/
def XR.cmp (a b : XR) : Option Ordering :=
  match a, b with
  | .nan, _ => none
  | _, .nan => none
  | .inf s, .inf t => some (if s = t then .eq else if s then .lt else .gt)
  | .inf s, .fin _ _ _ => some (if s then .lt else .gt)
  | .fin _ _ _, .inf t => some (if t then .gt else .lt)
  | .fin s m e, .fin t n f =>
    let e0 := min e f
    some (compare ((XR.fin s m e).scaled e0) ((XR.fin t n f).scaled e0))

/-- a less than b as numbers, with -0 below +0 (02 R73). -/
def XR.below (a b : XR) : Bool :=
  a.cmp b == some .lt || (a.cmp b == some .eq && a.neg && !b.neg)

/-- The exact product and whether it is invalid (02 R72, R73, R76). -/
def XR.mul (a b : XR) : XR × Bool :=
  match a, b with
  | .nan, _ => (.nan, false)
  | _, .nan => (.nan, false)
  | .inf s, .inf t => (.inf (s != t), false)
  | .inf s, .fin t n _ => if n = 0 then (.nan, true) else (.inf (s != t), false)
  | .fin s m _, .inf t => if m = 0 then (.nan, true) else (.inf (s != t), false)
  | .fin s m e, .fin t n f => (.fin (s != t) (m * n) (e + f), false)

/-- ExactSum (02 R76) with the sign of an exact zero for the mode that consumes it (R73), and whether it is invalid. -/
def exactSum (rm : RM) (ts : List XR) : XR × Bool :=
  let pinf := ts.any (fun t => t == .inf false)
  let ninf := ts.any (fun t => t == .inf true)
  if pinf && ninf then (.nan, true)
  else if ts.any XR.isNan then (.nan, false)
  else if pinf then (.inf false, false)
  else if ninf then (.inf true, false)
  else
    let e0 := ts.foldl (fun acc t => min acc t.expo) 0
    let total := ts.foldl (fun (acc : Int) t => acc + t.scaled e0) 0
    if total = 0 then
      let allNeg := ts.all XR.neg && !ts.isEmpty && ts.all XR.isZero
      let allPos := ts.all (fun t => !t.neg && t.isZero)
      (.fin (allNeg || (rm == .rdn && !allPos)) 0 0, false)
    else (.fin (total < 0) total.natAbs e0, false)

/-- A binary floating format: precision with the implicit bit, bias, position of the sign bit (none when unsigned), largest finite
code, infinity code, canonical NaN, and whether it has a negative zero (02 R54, R58, R59, R71). -/
structure Fmt where
  p : Nat
  bias : Int
  sign : Option Nat
  maxCode : Nat
  infCode : Option Nat
  nanCode : Nat
  negZero : Bool
  deriving DecidableEq, Repr

def Fmt.f32 : Fmt := ⟨24, 127, some 31, 0x7F7FFFFF, some 0x7F800000, 0x7FC00000, true⟩
def Fmt.f16 : Fmt := ⟨11, 15, some 15, 0x7BFF, some 0x7C00, 0x7E00, true⟩
def Fmt.bf16 : Fmt := ⟨8, 127, some 15, 0x7F7F, some 0x7F80, 0x7FC0, true⟩
/-- Signed binary8pP, with infinities or extended finite (02 R58). -/
def Fmt.s8 (p : Nat) (inf : Bool) : Fmt :=
  ⟨p, 2 ^ (7 - p), some 7, if inf then 0x7E else 0x7F, if inf then some 0x7F else none, 0x80, false⟩
/-- Unsigned binary8pP, with infinity or finite (02 R59). -/
def Fmt.u8 (p : Nat) (inf : Bool) : Fmt :=
  ⟨p, 2 ^ (8 - p), none, if inf then 0xFD else 0xFE, if inf then some 0xFE else none, 0xFF, false⟩

/-- The value of a code (02 R54, R58, R59). -/
def Fmt.value (f : Fmt) (c : Nat) : XR :=
  let s := match f.sign with
    | some k => c / 2 ^ k % 2 == 1
    | none => false
  let m := match f.sign with
    | some k => c % 2 ^ k
    | none => c
  if c = f.nanCode then .nan
  else if f.infCode = some m then .inf s
  else if m > f.maxCode then .nan
  else
    let eb := m / 2 ^ (f.p - 1)
    let t := m % 2 ^ (f.p - 1)
    if eb = 0 then .fin s t (1 - f.bias - (f.p - 1 : Nat))
    else .fin s (t + 2 ^ (f.p - 1)) (eb - f.bias - (f.p - 1 : Nat))

/-- A code's magnitude with a sign. -/
def Fmt.signed (f : Fmt) (neg : Bool) (m : Nat) : Nat :=
  match f.sign with
  | some k => if neg then m + 2 ^ k else m
  | none => m

/-- Round a non-zero magnitude to the format's spacing with an unbounded exponent: the code it would have, and whether it is
inexact (02 R65). Ties go to the even code. -/
def Fmt.roundMag (f : Fmt) (rm : RM) (neg : Bool) (mag : Nat) (e : Int) : Nat × Bool :=
  let top : Int := Nat.log2 mag + e
  let q : Int := max top (1 - f.bias) - (f.p - 1 : Nat)
  let base : Int := (q + (f.p - 1 : Nat) + f.bias - 1) * (2 ^ (f.p - 1) : Nat)
  if q ≤ e then ((base + (mag * 2 ^ (e - q).toNat : Nat)).toNat, false)
  else
    let k := (q - e).toNat
    let n := mag / 2 ^ k
    let r := mag % 2 ^ k
    let c := (base + (n : Int)).toNat
    let up := match rm with
      | .rne => 2 ^ k < 2 * r || (2 * r == 2 ^ k && c % 2 == 1)
      | .rtz => false
      | .rup => r != 0 && !neg
      | .rdn => r != 0 && neg
    (if up then c + 1 else c, r != 0)

/-- The magnitude is below the format's smallest normal (02 R67). -/
def Fmt.tiny (f : Fmt) (mag : Nat) (e : Int) : Bool := (Nat.log2 mag : Int) + e < 1 - f.bias

/-- An overflowing result (02 R66). -/
def Fmt.overflowed (f : Fmt) (rm : RM) (sat neg : Bool) : Nat :=
  let largest := f.signed neg f.maxCode
  if sat then largest
  else match f.infCode with
    | none => f.nanCode
    | some i =>
      match rm with
      | .rne => f.signed neg i
      | .rtz => largest
      | .rup => if neg then largest else f.signed neg i
      | .rdn => if neg then f.signed neg i else largest

/-- Round(x, fmt, rm, sat) (02 R65 to R68). -/
def Fmt.round (f : Fmt) (rm : RM) (sat : Bool) (x : XR) : Nat × Flags :=
  match x with
  | .nan => (f.nanCode, 0)
  | .inf s =>
    if s && f.sign.isNone then (if sat then (0, .inexact) else (f.nanCode, .invalid))
    else match f.infCode with
      | some i => (f.signed s i, 0)
      | none => if sat then (f.signed s f.maxCode, .inexact) else (f.nanCode, .invalid)
  | .fin s mag e =>
    if mag = 0 then (if f.negZero then f.signed s 0 else 0, 0)
    else
      let (c, inx) := f.roundMag rm s mag e
      let fl := Flags.when inx .inexact ||| Flags.when (inx && f.tiny mag e) .underflow
      if s && f.sign.isNone && c != 0 then (if sat then (0, .inexact) else (f.nanCode, .invalid))
      else if c > f.maxCode then (f.overflowed rm sat s, .overflow ||| .inexact)
      else if c = 0 then (if f.negZero then f.signed s 0 else 0, fl)
      else (f.signed s c, fl)

/-- Round an exact value to an integer; whether it was inexact (02 R70). -/
def roundInt (rm : RM) (neg : Bool) (mag : Nat) (e : Int) : Int × Bool :=
  if 0 ≤ e then ((if neg then -1 else 1) * (mag * 2 ^ e.toNat : Nat), false)
  else
    let k := (-e).toNat
    let n := mag / 2 ^ k
    let r := mag % 2 ^ k
    let up := match rm with
      | .rne => 2 ^ k < 2 * r || (2 * r == 2 ^ k && n % 2 == 1)
      | .rtz => false
      | .rup => r != 0 && !neg
      | .rdn => r != 0 && neg
    ((if neg then -1 else 1) * ((if up then n + 1 else n : Nat) : Int), r != 0)

/-- Conversion to an integer range, always saturating (02 R70). -/
def toIntRange (rm : RM) (lo hi : Int) (x : XR) : Int × Flags :=
  match x with
  | .nan => (0, .invalid)
  | .inf s => (if s then lo else hi, .invalid)
  | .fin s m e =>
    let (n, inx) := roundInt rm s m e
    if n < lo then (lo, .invalid)
    else if n > hi then (hi, .invalid)
    else (n, Flags.when inx .inexact)

/-- Conversion to a half-step level: the 4-bit code (02 R64, R69). -/
def toHalfStep (signed : Bool) (x : XR) : Nat × Flags :=
  let lo : Int := if signed then -8 else 0
  let hi : Int := if signed then 7 else 15
  let code (n : Int) : Nat := (n % 16).toNat
  match x with
  | .nan => (0, .invalid)
  | .inf s => (code (if s then lo else hi), .overflow ||| .inexact)
  | .fin s m e =>
    let e0 := min e 0
    let den : Int := (2 ^ (-e0).toNat : Nat)
    let num := (XR.fin s m e).scaled e0
    if 2 * num < (2 * lo + 1) * den then (code lo, .overflow ||| .inexact)
    else if 2 * num > (2 * hi + 1) * den then (code hi, .overflow ||| .inexact)
    else
      let n := (2 * num - den) / (2 * den)
      let r := (2 * num - den) % (2 * den)
      if r = 0 then (code n, 0)
      else if r < den ∨ (r = den ∧ n % 2 = 0) then (code n, .inexact)
      else (code (n + 1), .inexact)

/-- A half-step code's level n + 1/2 (02 R64). -/
def halfStepValue (signed : Bool) (c : Nat) : XR :=
  let n : Int := if signed && c ≥ 8 then (c : Int) - 16 else c
  .fin (2 * n + 1 < 0) (2 * n + 1).natAbs (-1)

/-- The element formats a register's tag names (02 R51). -/
inductive Elem where
  | bin (f : Fmt)
  | int (signed : Bool)
  | half (signed : Bool)
  deriving DecidableEq, Repr

/-- The element format of a tag: kind, bits of an element; none for X32, C32, POISON and reserved codes (02 R51, R56, R62 to R64). -/
def elemOf (tag : BitVec 6) : Option (Elem × Nat) :=
  let t := tag.toNat
  if t = 1 then some (.bin Fmt.f32, 32)
  else if t = 2 then some (.bin Fmt.f16, 16)
  else if t = 3 then some (.bin Fmt.bf16, 16)
  else if 16 ≤ t ∧ t ≤ 22 then some (.bin (Fmt.s8 (t - 15) true), 8)
  else if 24 ≤ t ∧ t ≤ 30 then some (.bin (Fmt.s8 (t - 23) false), 8)
  else if 32 ≤ t ∧ t ≤ 38 then some (.bin (Fmt.u8 (t - 31) true), 8)
  else if 40 ≤ t ∧ t ≤ 46 then some (.bin (Fmt.u8 (t - 39) false), 8)
  else if t = 48 then some (.int true, 8)
  else if t = 49 then some (.int false, 8)
  else if t = 50 then some (.half true, 4)
  else if t = 51 then some (.half false, 4)
  else none

/-- Binary8 tags (02 R51). -/
def isB8 (tag : BitVec 6) : Bool := 16 ≤ tag.toNat && tag.toNat < 48 && tagOk tag
where
  tagOk (t : BitVec 6) : Bool := t.toNat % 8 != 7

/-- I8x4 and N8x4 (02 R63). -/
def isInt8 (tag : BitVec 6) : Bool := tag == 48 || tag == 49
/-- H4Sx8 and H4Nx8 (02 R64). -/
def isHalf (tag : BitVec 6) : Bool := tag == 50 || tag == 51
/-- F16x2 and BF16x2 (02 R56). -/
def is16 (tag : BitVec 6) : Bool := tag == 2 || tag == 3

/-- The value of element code c. -/
def Elem.value (k : Elem) (c : Nat) : XR :=
  match k with
  | .bin f => f.value c
  | .int s => .ofInt (if s && c ≥ 128 then (c : Int) - 256 else c)
  | .half s => halfStepValue s c

/-- Convert an exact value into an element code (02 R65 to R70). -/
def Elem.convert (k : Elem) (rm : RM) (sat : Bool) (x : XR) : Nat × Flags :=
  match k with
  | .bin f => f.round rm sat x
  | .int s =>
    let (n, fl) := if s then toIntRange rm (-128) 127 x else toIntRange rm 0 255 x
    ((n % 256).toNat, fl)
  | .half s => toHalfStep s x

/-- Element e of a register whose elements have w bits (02 R56, R62, R64). -/
def elemCode (w e : Nat) (v : Word) : Nat := v.toNat / 2 ^ (w * e) % 2 ^ w

/-- A register packed from element codes of w bits, element 0 lowest. -/
def packCodes (w : Nat) : List Nat → Nat
  | [] => 0
  | c :: cs => c % 2 ^ w + 2 ^ w * packCodes w cs

/-- The exact value of an F32 word. -/
def f32 (w : Word) : XR := Fmt.f32.value w.toNat

/-- RoundF32 (02 R65). -/
def roundF32 (rm : RM) (x : XR) : Word × Flags :=
  let (c, fl) := Fmt.f32.round rm false x
  (BitVec.ofNat 32 c, fl)

/-- RoundF32(ExactSum(ts), rm), with the invalid products the caller found (02 R72, R76, R77). -/
def sumF32 (rm : RM) (bad : Bool) (ts : List XR) : Word × Flags :=
  let (x, inv) := exactSum rm ts
  let (w, fl) := roundF32 rm x
  (w, fl ||| Flags.when (inv || bad) .invalid)

/-- The sum of products a x b and addends c as one rounding to F32 (02 R77). -/
def dotF32 (rm : RM) (ps : List (XR × XR)) (cs : List XR) : Word × Flags :=
  let ms := ps.map (fun p => p.1.mul p.2)
  sumF32 rm (ms.any Prod.snd) (ms.map Prod.fst ++ cs)

/-- 1.0 and canonical NaN as words. -/
def one32 : Word := 0x3F800000
def nan32 : Word := 0x7FC00000

def fadd (rm : RM) (a b : Word) : Word × Flags := sumF32 rm false [f32 a, f32 b]
def fsub (rm : RM) (a b : Word) : Word × Flags := sumF32 rm false [f32 a, (f32 b).flip]
def fmul (rm : RM) (a b : Word) : Word × Flags :=
  let (x, bad) := (f32 a).mul (f32 b)
  let (w, fl) := roundF32 rm x
  (w, fl ||| Flags.when bad .invalid)
def ffma (rm : RM) (a b c : Word) : Word × Flags := dotF32 rm [(f32 a, f32 b)] [f32 c]

/-- FMIN: unrounded, canonical NaN, -0 below +0 (05 R145). -/
def fmin (a b : Word) : Word :=
  if (f32 a).isNan || (f32 b).isNan then nan32 else if (f32 b).below (f32 a) then b else a
def fmax (a b : Word) : Word :=
  if (f32 a).isNan || (f32 b).isNan then nan32 else if (f32 a).below (f32 b) then b else a
/-- FCLAMP: FMIN(FMAX(c, a), b) (05 R144). -/
def fclamp (a b c : Word) : Word := fmin (fmax c a) b

/-- The square root of n, rounded down, by its bits from bit i. -/
def isqrtBits : Nat → Nat → Nat → Nat
  | 0, _, r => r
  | i + 1, n, r => if (r + 2 ^ i) * (r + 2 ^ i) ≤ n then isqrtBits i n (r + 2 ^ i) else isqrtBits i n r

/-- The square root of n, rounded down. -/
def isqrt (n : Nat) : Nat := isqrtBits (Nat.log2 n / 2 + 1) n 0

/-- A quotient carried far enough, with a sticky low bit, that every rounding to a format of this chapter is correct. -/
def quotient (neg : Bool) (n d : Nat) (e : Int) : XR :=
  let k := Nat.log2 d + 96
  .fin neg (2 * (n * 2 ^ k / d) + (if n * 2 ^ k % d = 0 then 0 else 1)) (e - k - 1)

/-- FRCP (05 R146). -/
def frcp (rm : RM) (a : Word) : Word × Flags :=
  match f32 a with
  | .nan => (nan32, 0)
  | .inf s => roundF32 rm (.fin s 0 0)
  | .fin s m e =>
    if m = 0 then ((roundF32 rm (.inf s)).1, .divZero)
    else roundF32 rm (quotient s 1 m (-e))

/-- The square root of m x 2^e with a sticky low bit. -/
def rootOf (m : Nat) (e : Int) : XR :=
  let n := if e % 2 = 0 then m * 2 ^ 160 else m * 2 ^ 161
  let h := if e % 2 = 0 then e / 2 else (e - 1) / 2
  let r := isqrt n
  .fin false (2 * r + (if r * r = n then 0 else 1)) (h - 81)

/-- FSQRT (05 R146). -/
def fsqrt (rm : RM) (a : Word) : Word × Flags :=
  match f32 a with
  | .nan => (nan32, 0)
  | .inf s => if s then (nan32, .invalid) else (a, 0)
  | .fin s m e =>
    if m = 0 then (a, 0)
    else if s then (nan32, .invalid)
    else roundF32 rm (rootOf m e)

/-- An F32 value rounded to an integer in a mode, keeping the sign of zero (05 R146). -/
def toIntegral (rm : RM) (a : Word) : Word × Bool :=
  match f32 a with
  | .nan => (nan32, false)
  | .inf _ => (a, false)
  | .fin s m e =>
    let (n, inx) := roundInt rm s m e
    ((roundF32 .rne (.fin s n.natAbs 0)).1, inx)

/-- FFRACT: RoundF32(a - FFLOOR(a), RTZ) (05 R146). -/
def ffract (a : Word) : Word × Flags :=
  match f32 a with
  | .nan => (nan32, 0)
  | .inf _ => (nan32, .invalid)
  | .fin s m e =>
    let (fl, _) := roundInt .rdn s m e
    let (x, _) := exactSum .rne [.fin s m e, .ofInt (-fl)]
    roundF32 .rtz (if x.isZero then .fin false 0 0 else x)

/-- FSIGN (05 R146). -/
def fsign (a : Word) : Word :=
  match f32 a with
  | .nan => nan32
  | .inf s => if s then 0xBF800000 else one32
  | .fin s m _ => if m = 0 then (if s then 0x80000000 else 0) else if s then 0xBF800000 else one32

/-- Two packed F16 elements computed separately; the lane's flags are their union (02 R56). -/
def map2x16 (f : Nat → Nat → Nat → Nat × Flags) (a b c : Word) : Word × Flags :=
  let (x, fx) := f (elemCode 16 0 a) (elemCode 16 0 b) (elemCode 16 0 c)
  let (y, fy) := f (elemCode 16 1 a) (elemCode 16 1 b) (elemCode 16 1 c)
  (BitVec.ofNat 32 (packCodes 16 [x, y]), fx ||| fy)

/-- A dot of F16 values rounded once to F16 (05 R148). -/
def dotF16 (rm : RM) (ps : List (XR × XR)) (cs : List XR) : Nat × Flags :=
  let ms := ps.map (fun p => p.1.mul p.2)
  let (x, inv) := exactSum rm (ms.map Prod.fst ++ cs)
  let (w, fl) := Fmt.f16.round rm false x
  (w, fl ||| Flags.when (inv || ms.any Prod.snd) .invalid)

/-- The product of two F16 elements: a product keeps the sign rule of a product (02 R73). -/
def mulF16 (rm : RM) (a b : Nat) : Nat × Flags :=
  let (x, bad) := (Fmt.f16.value a).mul (Fmt.f16.value b)
  let (w, fl) := Fmt.f16.round rm false x
  (w, fl ||| Flags.when bad .invalid)

/-- The smaller or larger of two F16 elements (05 R148). -/
def minF16 (wantMax : Bool) (a b : Nat) : Nat :=
  let x := Fmt.f16.value a
  let y := Fmt.f16.value b
  if x.isNan || y.isNan then Fmt.f16.nanCode
  else if wantMax then (if x.below y then b else a) else (if y.below x then b else a)

/-- The exact product of an element and its scale (02 R74). -/
def scaled (el s : XR) : XR × Bool := el.mul s

/-- SInt of a word (04 R114). -/
def sint (w : Word) : Int := w.toInt

/-- SatS32 (04 R114). -/
def satS32 (y : Int) : Word :=
  if y < -2147483648 then 0x80000000 else if y > 2147483647 then 0x7FFFFFFF else BitVec.ofInt 32 y

end Sys2Proof.Machine
end

