-- ==== Sys2Proof/Syntax.lean ====
section
/-! DEFINITION. The instructions and events of spec/opcode_table.json, one constructor per row (03 R93, R94; 95). -/

namespace Sys2Proof

/-- One constructor per row of spec/opcode_table.json.
A word's constructor carries the row's fields as the table names them, at every value the bits can hold.
IMX carries its field and the word it precedes (03 R92).
An event's constructor carries the objects it acts on and the data an outside agent brings. -/
inductive Instr where
  /-- IADD (R114). -/
  | iadd (d : BitVec 7) (a : BitVec 7) (b : BitVec 7) (g : BitVec 2) (h : BitVec 2)
  /-- IADDS (R114). -/
  | iadds (d : BitVec 7) (a : BitVec 7) (b : BitVec 7) (g : BitVec 2) (h : BitVec 2)
  /-- ISUB (R114). -/
  | isub (d : BitVec 7) (a : BitVec 7) (b : BitVec 7) (g : BitVec 2) (h : BitVec 2)
  /-- ISUBS (R114). -/
  | isubs (d : BitVec 7) (a : BitVec 7) (b : BitVec 7) (g : BitVec 2) (h : BitVec 2)
  /-- IMUL (R114). -/
  | imul (d : BitVec 7) (a : BitVec 7) (b : BitVec 7) (g : BitVec 2) (h : BitVec 2)
  /-- IMULH (R114). -/
  | imulh (d : BitVec 7) (a : BitVec 7) (b : BitVec 7) (g : BitVec 2) (h : BitVec 2)
  /-- IMULHU (R114). -/
  | imulhu (d : BitVec 7) (a : BitVec 7) (b : BitVec 7) (g : BitVec 2) (h : BitVec 2)
  /-- IMAD (R116). -/
  | imad (d : BitVec 7) (a : BitVec 7) (b : BitVec 7) (g : BitVec 2) (h : BitVec 2)
  /-- AND (R114). -/
  | land (d : BitVec 7) (a : BitVec 7) (b : BitVec 7) (g : BitVec 2) (h : BitVec 2)
  /-- OR (R114). -/
  | lor (d : BitVec 7) (a : BitVec 7) (b : BitVec 7) (g : BitVec 2) (h : BitVec 2)
  /-- XOR (R114). -/
  | lxor (d : BitVec 7) (a : BitVec 7) (b : BitVec 7) (g : BitVec 2) (h : BitVec 2)
  /-- ANDN (R114). -/
  | andn (d : BitVec 7) (a : BitVec 7) (b : BitVec 7) (g : BitVec 2) (h : BitVec 2)
  /-- SHL (R115). -/
  | shl (d : BitVec 7) (a : BitVec 7) (b : BitVec 7) (g : BitVec 2) (h : BitVec 2)
  /-- SHR (R115). -/
  | shr (d : BitVec 7) (a : BitVec 7) (b : BitVec 7) (g : BitVec 2) (h : BitVec 2)
  /-- SAR (R115). -/
  | sar (d : BitVec 7) (a : BitVec 7) (b : BitVec 7) (g : BitVec 2) (h : BitVec 2)
  /-- IMIN (R114). -/
  | imin (d : BitVec 7) (a : BitVec 7) (b : BitVec 7) (g : BitVec 2) (h : BitVec 2)
  /-- IMAX (R114). -/
  | imax (d : BitVec 7) (a : BitVec 7) (b : BitVec 7) (g : BitVec 2) (h : BitVec 2)
  /-- UMIN (R114). -/
  | umin (d : BitVec 7) (a : BitVec 7) (b : BitVec 7) (g : BitVec 2) (h : BitVec 2)
  /-- UMAX (R114). -/
  | umax (d : BitVec 7) (a : BitVec 7) (b : BitVec 7) (g : BitVec 2) (h : BitVec 2)
  /-- LEA2 (R117). -/
  | lea2 (d : BitVec 7) (a : BitVec 7) (b : BitVec 7) (g : BitVec 2)
  /-- LEA3 (R117). -/
  | lea3 (d : BitVec 7) (a : BitVec 7) (b : BitVec 7) (g : BitVec 2)
  /-- MOV (R118). -/
  | mov (d : BitVec 7) (a : BitVec 7) (g : BitVec 2) (h : BitVec 2)
  /-- NOT (R118). -/
  | lnot (d : BitVec 7) (a : BitVec 7) (g : BitVec 2) (h : BitVec 2)
  /-- NEG (R118). -/
  | neg (d : BitVec 7) (a : BitVec 7) (g : BitVec 2) (h : BitVec 2)
  /-- IABS (R118). -/
  | iabs (d : BitVec 7) (a : BitVec 7) (g : BitVec 2) (h : BitVec 2)
  /-- POPC (R118). -/
  | popc (d : BitVec 7) (a : BitVec 7) (g : BitVec 2) (h : BitVec 2)
  /-- CLZ (R118). -/
  | clz (d : BitVec 7) (a : BitVec 7) (g : BitVec 2) (h : BitVec 2)
  /-- CTZ (R118). -/
  | ctz (d : BitVec 7) (a : BitVec 7) (g : BitVec 2) (h : BitVec 2)
  /-- BREV (R118). -/
  | brev (d : BitVec 7) (a : BitVec 7) (g : BitVec 2) (h : BitVec 2)
  /-- BSWAP (R118). -/
  | bswap (d : BitVec 7) (a : BitVec 7) (g : BitVec 2) (h : BitVec 2)
  /-- LANEID (R118). -/
  | laneid (d : BitVec 7) (g : BitVec 2) (h : BitVec 2)
  /-- FIBID (R118). -/
  | fibid (d : BitVec 7) (g : BitVec 2) (h : BitVec 2)
  /-- SMOVI (R121). -/
  | smovi (d : BitVec 7) (i : BitVec 18)
  /-- IADDI (R120). -/
  | iaddi (d : BitVec 7) (a : BitVec 7) (i : BitVec 11)
  /-- IMULI (R120). -/
  | imuli (d : BitVec 7) (a : BitVec 7) (i : BitVec 11)
  /-- ANDI (R120). -/
  | andi (d : BitVec 7) (a : BitVec 7) (i : BitVec 11)
  /-- ORI (R120). -/
  | ori (d : BitVec 7) (a : BitVec 7) (i : BitVec 11)
  /-- XORI (R120). -/
  | xori (d : BitVec 7) (a : BitVec 7) (i : BitVec 11)
  /-- SHLI (R120). -/
  | shli (d : BitVec 7) (a : BitVec 7) (n : BitVec 5)
  /-- SHRI (R120). -/
  | shri (d : BitVec 7) (a : BitVec 7) (n : BitVec 5)
  /-- SARI (R120). -/
  | sari (d : BitVec 7) (a : BitVec 7) (n : BitVec 5)
  /-- ICMP (R122). -/
  | icmp (c : BitVec 4) (p : BitVec 3) (a : BitVec 7) (b : BitVec 7) (g : BitVec 2)
  /-- UCMP (R122). -/
  | ucmp (c : BitVec 4) (p : BitVec 3) (a : BitVec 7) (b : BitVec 7) (g : BitVec 2)
  /-- FCMP (R124). -/
  | fcmp (c : BitVec 4) (p : BitVec 3) (a : BitVec 7) (b : BitVec 7) (g : BitVec 2)
  /-- HCMP (R124). -/
  | hcmp (c : BitVec 4) (p : BitVec 3) (a : BitVec 7) (b : BitVec 7) (g : BitVec 2)
  /-- ICMPI (R122). -/
  | icmpi (c : BitVec 4) (p : BitVec 3) (a : BitVec 7) (i : BitVec 11)
  /-- PLOG (R125). -/
  | plog (d : BitVec 3) (n : BitVec 1) (a : BitVec 3) (o : BitVec 2) (m : BitVec 1) (b : BitVec 3) (g : BitVec 2)
  /-- PMOV (R126). -/
  | pmov (d : BitVec 7) (a : BitVec 7) (m : BitVec 2) (g : BitVec 2)
  /-- VOTE (R127). -/
  | vote (d : BitVec 7) (n : BitVec 1) (a : BitVec 3) (m : BitVec 2) (g : BitVec 2)
  /-- FADD (R144). -/
  | fadd (d : BitVec 7) (a : BitVec 7) (b : BitVec 7) (g : BitVec 2) (h : BitVec 2)
  /-- FSUB (R144). -/
  | fsub (d : BitVec 7) (a : BitVec 7) (b : BitVec 7) (g : BitVec 2) (h : BitVec 2)
  /-- FMUL (R144). -/
  | fmul (d : BitVec 7) (a : BitVec 7) (b : BitVec 7) (g : BitVec 2) (h : BitVec 2)
  /-- FFMA (R144). -/
  | ffma (d : BitVec 7) (a : BitVec 7) (b : BitVec 7) (g : BitVec 2) (h : BitVec 2)
  /-- FMIN (R145). -/
  | fmin (d : BitVec 7) (a : BitVec 7) (b : BitVec 7) (g : BitVec 2) (h : BitVec 2)
  /-- FMAX (R145). -/
  | fmax (d : BitVec 7) (a : BitVec 7) (b : BitVec 7) (g : BitVec 2) (h : BitVec 2)
  /-- FCLAMP (R145). -/
  | fclamp (d : BitVec 7) (a : BitVec 7) (b : BitVec 7) (g : BitVec 2) (h : BitVec 2)
  /-- FMOV (R146). -/
  | fmov (d : BitVec 7) (a : BitVec 7) (g : BitVec 2) (h : BitVec 2)
  /-- FNEG (R146). -/
  | fneg (d : BitVec 7) (a : BitVec 7) (g : BitVec 2) (h : BitVec 2)
  /-- FABS (R146). -/
  | fabs (d : BitVec 7) (a : BitVec 7) (g : BitVec 2) (h : BitVec 2)
  /-- FRCP (R146). -/
  | frcp (d : BitVec 7) (a : BitVec 7) (g : BitVec 2) (h : BitVec 2)
  /-- FRSQ (R146). -/
  | frsq (d : BitVec 7) (a : BitVec 7) (g : BitVec 2) (h : BitVec 2)
  /-- FSQRT (R146). -/
  | fsqrt (d : BitVec 7) (a : BitVec 7) (g : BitVec 2) (h : BitVec 2)
  /-- FEXP2 (R146). -/
  | fexp2 (d : BitVec 7) (a : BitVec 7) (g : BitVec 2) (h : BitVec 2)
  /-- FLOG2 (R146). -/
  | flog2 (d : BitVec 7) (a : BitVec 7) (g : BitVec 2) (h : BitVec 2)
  /-- FSIN (R146). -/
  | fsin (d : BitVec 7) (a : BitVec 7) (g : BitVec 2) (h : BitVec 2)
  /-- FCOS (R146). -/
  | fcos (d : BitVec 7) (a : BitVec 7) (g : BitVec 2) (h : BitVec 2)
  /-- FFLOOR (R146). -/
  | ffloor (d : BitVec 7) (a : BitVec 7) (g : BitVec 2) (h : BitVec 2)
  /-- FCEIL (R146). -/
  | fceil (d : BitVec 7) (a : BitVec 7) (g : BitVec 2) (h : BitVec 2)
  /-- FTRUNC (R146). -/
  | ftrunc (d : BitVec 7) (a : BitVec 7) (g : BitVec 2) (h : BitVec 2)
  /-- FRINT (R146). -/
  | frint (d : BitVec 7) (a : BitVec 7) (g : BitVec 2) (h : BitVec 2)
  /-- FFRACT (R146). -/
  | ffract (d : BitVec 7) (a : BitVec 7) (g : BitVec 2) (h : BitVec 2)
  /-- FSIGN (R146). -/
  | fsign (d : BitVec 7) (a : BitVec 7) (g : BitVec 2) (h : BitVec 2)
  /-- HADD2 (R148). -/
  | hadd2 (d : BitVec 7) (a : BitVec 7) (b : BitVec 7) (g : BitVec 2) (h : BitVec 2)
  /-- HSUB2 (R148). -/
  | hsub2 (d : BitVec 7) (a : BitVec 7) (b : BitVec 7) (g : BitVec 2) (h : BitVec 2)
  /-- HMUL2 (R148). -/
  | hmul2 (d : BitVec 7) (a : BitVec 7) (b : BitVec 7) (g : BitVec 2) (h : BitVec 2)
  /-- HFMA2 (R148). -/
  | hfma2 (d : BitVec 7) (a : BitVec 7) (b : BitVec 7) (g : BitVec 2) (h : BitVec 2)
  /-- HMIN2 (R148). -/
  | hmin2 (d : BitVec 7) (a : BitVec 7) (b : BitVec 7) (g : BitVec 2) (h : BitVec 2)
  /-- HMAX2 (R148). -/
  | hmax2 (d : BitVec 7) (a : BitVec 7) (b : BitVec 7) (g : BitVec 2) (h : BitVec 2)
  /-- DOT2H (R149). -/
  | dot2h (d : BitVec 7) (a : BitVec 7) (b : BitVec 7) (g : BitVec 2) (h : BitVec 2)
  /-- DOT4Q (R150). -/
  | dot4q (d : BitVec 7) (a : BitVec 7) (b : BitVec 7) (g : BitVec 2) (h : BitVec 2)
  /-- CADD (R152). -/
  | cadd (d : BitVec 7) (a : BitVec 7) (b : BitVec 7) (g : BitVec 2)
  /-- CSUB (R152). -/
  | csub (d : BitVec 7) (a : BitVec 7) (b : BitVec 7) (g : BitVec 2)
  /-- CMUL (R79). -/
  | cmul (d : BitVec 7) (a : BitVec 7) (b : BitVec 7) (g : BitVec 2)
  /-- CFMA (R152). -/
  | cfma (d : BitVec 7) (a : BitVec 7) (b : BitVec 7) (g : BitVec 2)
  /-- CCMUL (R79). -/
  | ccmul (d : BitVec 7) (a : BitVec 7) (b : BitVec 7) (g : BitVec 2)
  /-- CMAG2 (R152). -/
  | cmag2 (d : BitVec 7) (a : BitVec 7) (g : BitVec 2)
  /-- CEXPI (R152). -/
  | cexpi (d : BitVec 7) (a : BitVec 7) (g : BitVec 2)
  /-- CSCALE (R152). -/
  | cscale (d : BitVec 7) (a : BitVec 7) (b : BitVec 7) (g : BitVec 2)
  /-- CVT (R154). -/
  | cvt (d : BitVec 7) (a : BitVec 7) (s : BitVec 1) (t : BitVec 6) (g : BitVec 2) (h : BitVec 2)
  /-- PACK (R155). -/
  | pack (d : BitVec 7) (a : BitVec 7) (s : BitVec 1) (t : BitVec 6) (g : BitVec 2) (h : BitVec 2)
  /-- UNPACK_WIDEN (R156). -/
  | unpackWiden (d : BitVec 7) (a : BitVec 7) (k : BitVec 2) (g : BitVec 2) (h : BitVec 2)
  /-- UNPACK_BLOCK (R157). -/
  | unpackBlock (d : BitVec 7) (a : BitVec 7) (g : BitVec 2)
  /-- SETTAG (R158). -/
  | settag (d : BitVec 7) (a : BitVec 7) (t : BitVec 6) (g : BitVec 2) (h : BitVec 2)
  /-- GETTAG (R158). -/
  | gettag (d : BitVec 7) (a : BitVec 7) (g : BitVec 2) (h : BitVec 2)
  /-- SHFL (R159). -/
  | shfl (d : BitVec 7) (a : BitVec 7) (b : BitVec 7) (g : BitVec 2) (h : BitVec 2)
  /-- XBAR (R163). -/
  | xbar (d : BitVec 7) (a : BitVec 7) (n : BitVec 4) (g : BitVec 2) (h : BitVec 2)
  /-- XPTL (R161). -/
  | xptl (n : BitVec 4) (a : BitVec 7) (g : BitVec 2)
  /-- TMMA (R166). -/
  | tmma (d : BitVec 7) (a : BitVec 7) (b : BitVec 7) (m : BitVec 2)
  /-- TMMAT (R166). -/
  | tmmat (d : BitVec 7) (a : BitVec 7) (b : BitVec 7) (m : BitVec 2)
  /-- TZERO (R167). -/
  | tzero (d : BitVec 7) (m : BitVec 2)
  /-- TTRN_FRAGMENT (R168). -/
  | ttrnFragment (d : BitVec 7) (a : BitVec 7) (m : BitVec 2)
  /-- TTRN_ACCUMULATOR (R168). -/
  | ttrnAccumulator (d : BitVec 7) (a : BitVec 7) (m : BitVec 2)
  /-- TACT (R169). -/
  | tact (d : BitVec 7) (a : BitVec 7) (f : BitVec 3) (m : BitVec 2)
  /-- TCVT (R170). -/
  | tcvt (d : BitVec 7) (a : BitVec 7) (s : BitVec 1) (t : BitVec 6) (m : BitVec 2)
  /-- TRED (R171). -/
  | tred (d : BitVec 7) (a : BitVec 7) (o : BitVec 2) (m : BitVec 2)
  /-- TBIAS (R172). -/
  | tbias (d : BitVec 7) (a : BitVec 7) (b : BitVec 7) (m : BitVec 2)
  /-- LDB (R184). -/
  | ldb (d : BitVec 7) (a : BitVec 7) (i : BitVec 11)
  /-- LDH (R184). -/
  | ldh (d : BitVec 7) (a : BitVec 7) (i : BitVec 11)
  /-- LDW (R184). -/
  | ldw (d : BitVec 7) (a : BitVec 7) (i : BitVec 11)
  /-- LDD (R184). -/
  | ldd (d : BitVec 7) (a : BitVec 7) (i : BitVec 11)
  /-- LDQ (R184). -/
  | ldq (d : BitVec 7) (a : BitVec 7) (i : BitVec 11)
  /-- STB (R184). -/
  | stb (d : BitVec 7) (a : BitVec 7) (i : BitVec 11)
  /-- STH (R184). -/
  | sth (d : BitVec 7) (a : BitVec 7) (i : BitVec 11)
  /-- STW (R184). -/
  | stw (d : BitVec 7) (a : BitVec 7) (i : BitVec 11)
  /-- STD (R184). -/
  | std (d : BitVec 7) (a : BitVec 7) (i : BitVec 11)
  /-- STQ (R184). -/
  | stq (d : BitVec 7) (a : BitVec 7) (i : BitVec 11)
  /-- LDV (R185). -/
  | ldv (d : BitVec 7) (a : BitVec 7) (i : BitVec 11)
  /-- LDF (R186). -/
  | ldf (d : BitVec 7) (a : BitVec 7) (t : BitVec 6) (g : BitVec 2)
  /-- LDE (R187). -/
  | lde (d : BitVec 7) (a : BitVec 7) (t : BitVec 5) (g : BitVec 2)
  /-- ACCB (R191). -/
  | accb (d : BitVec 7) (a : BitVec 7) (i : BitVec 11)
  /-- TLD (R190). -/
  | tld (d : BitVec 7) (a : BitVec 7) (b : BitVec 7) (m : BitVec 2)
  /-- TST (R190). -/
  | tst (d : BitVec 7) (a : BitVec 7) (b : BitVec 7) (m : BitVec 2)
  /-- AADD (R192). -/
  | aadd (d : BitVec 7) (a : BitVec 7) (b : BitVec 7) (c : BitVec 2)
  /-- AADD_NR (R194). -/
  | aaddNr (a : BitVec 7) (b : BitVec 7) (c : BitVec 2)
  /-- AFADD (R192). -/
  | afadd (d : BitVec 7) (a : BitVec 7) (b : BitVec 7) (c : BitVec 2)
  /-- AFADD_NR (R194). -/
  | afaddNr (a : BitVec 7) (b : BitVec 7) (c : BitVec 2)
  /-- AMIN (R192). -/
  | amin (d : BitVec 7) (a : BitVec 7) (b : BitVec 7) (c : BitVec 2)
  /-- AMIN_NR (R194). -/
  | aminNr (a : BitVec 7) (b : BitVec 7) (c : BitVec 2)
  /-- AMAX (R192). -/
  | amax (d : BitVec 7) (a : BitVec 7) (b : BitVec 7) (c : BitVec 2)
  /-- AMAX_NR (R194). -/
  | amaxNr (a : BitVec 7) (b : BitVec 7) (c : BitVec 2)
  /-- AUMIN (R192). -/
  | aumin (d : BitVec 7) (a : BitVec 7) (b : BitVec 7) (c : BitVec 2)
  /-- AUMIN_NR (R194). -/
  | auminNr (a : BitVec 7) (b : BitVec 7) (c : BitVec 2)
  /-- AUMAX (R192). -/
  | aumax (d : BitVec 7) (a : BitVec 7) (b : BitVec 7) (c : BitVec 2)
  /-- AUMAX_NR (R194). -/
  | aumaxNr (a : BitVec 7) (b : BitVec 7) (c : BitVec 2)
  /-- AAND (R192). -/
  | aand (d : BitVec 7) (a : BitVec 7) (b : BitVec 7) (c : BitVec 2)
  /-- AAND_NR (R194). -/
  | aandNr (a : BitVec 7) (b : BitVec 7) (c : BitVec 2)
  /-- AOR (R192). -/
  | aor (d : BitVec 7) (a : BitVec 7) (b : BitVec 7) (c : BitVec 2)
  /-- AOR_NR (R194). -/
  | aorNr (a : BitVec 7) (b : BitVec 7) (c : BitVec 2)
  /-- AXOR (R192). -/
  | axor (d : BitVec 7) (a : BitVec 7) (b : BitVec 7) (c : BitVec 2)
  /-- AXOR_NR (R194). -/
  | axorNr (a : BitVec 7) (b : BitVec 7) (c : BitVec 2)
  /-- AXCHG (R192). -/
  | axchg (d : BitVec 7) (a : BitVec 7) (b : BitVec 7) (c : BitVec 2)
  /-- AXCHG_NR (R194). -/
  | axchgNr (a : BitVec 7) (b : BitVec 7) (c : BitVec 2)
  /-- ACAS (R192). -/
  | acas (d : BitVec 7) (a : BitVec 7) (b : BitVec 7) (c : BitVec 2)
  /-- ACAS_NR (R194). -/
  | acasNr (a : BitVec 7) (b : BitVec 7) (c : BitVec 2)
  /-- ENQ (R196). -/
  | enq (d : BitVec 7) (a : BitVec 7) (b : BitVec 7) (c : BitVec 2)
  /-- DEQ (R196). -/
  | deq (d : BitVec 7) (a : BitVec 7) (b : BitVec 7) (c : BitVec 2)
  /-- MONW (R197). -/
  | monw (k : BitVec 4) (a : BitVec 7) (b : BitVec 7) (c : BitVec 2)
  /-- PHASE (R198). -/
  | phase (c : BitVec 2)
  /-- BAR (R199). -/
  | bar (c : BitVec 1)
  /-- BR (R131). -/
  | br (p : BitVec 3) (n : BitVec 1) (m : BitVec 2) (s : BitVec 19)
  /-- BRX (R133). -/
  | brx (a : BitVec 7) (g : BitVec 2)
  /-- CALL (R134). -/
  | call (d : BitVec 7) (i : BitVec 18)
  /-- RET (R133). -/
  | ret (a : BitVec 7) (g : BitVec 2)
  /-- FORK (R135). -/
  | fork (d : BitVec 7) (i : BitVec 18)
  /-- FEND (R137). -/
  | fend (g : BitVec 2)
  /-- JOIN (R138). -/
  | join (n : BitVec 8)
  /-- WAITC (R139). -/
  | waitc (x : BitVec 4) (c : BitVec 4) (s : BitVec 4) (l : BitVec 4)
  /-- SADD (R128). -/
  | sadd (d : BitVec 7) (a : BitVec 7) (b : BitVec 7)
  /-- SSUB (R128). -/
  | ssub (d : BitVec 7) (a : BitVec 7) (b : BitVec 7)
  /-- SMUL (R128). -/
  | smul (d : BitVec 7) (a : BitVec 7) (b : BitVec 7)
  /-- SMULH (R128). -/
  | smulh (d : BitVec 7) (a : BitVec 7) (b : BitVec 7)
  /-- SAND (R128). -/
  | sand (d : BitVec 7) (a : BitVec 7) (b : BitVec 7)
  /-- SOR (R128). -/
  | sor (d : BitVec 7) (a : BitVec 7) (b : BitVec 7)
  /-- SXOR (R128). -/
  | sxor (d : BitVec 7) (a : BitVec 7) (b : BitVec 7)
  /-- SSHL (R128). -/
  | sshl (d : BitVec 7) (a : BitVec 7) (b : BitVec 7)
  /-- SSHR (R128). -/
  | sshr (d : BitVec 7) (a : BitVec 7) (b : BitVec 7)
  /-- SSAR (R128). -/
  | ssar (d : BitVec 7) (a : BitVec 7) (b : BitVec 7)
  /-- SMIN (R128). -/
  | smin (d : BitVec 7) (a : BitVec 7) (b : BitVec 7)
  /-- SMAX (R128). -/
  | smax (d : BitVec 7) (a : BitVec 7) (b : BitVec 7)
  /-- SUMIN (R128). -/
  | sumin (d : BitVec 7) (a : BitVec 7) (b : BitVec 7)
  /-- SUMAX (R128). -/
  | sumax (d : BitVec 7) (a : BitVec 7) (b : BitVec 7)
  /-- SMOV (R128). -/
  | smov (d : BitVec 7) (a : BitVec 7)
  /-- SSLT (R128). -/
  | sslt (d : BitVec 7) (a : BitVec 7) (b : BitVec 7)
  /-- SFADD (R151). -/
  | sfadd (d : BitVec 7) (a : BitVec 7) (b : BitVec 7)
  /-- SFSUB (R151). -/
  | sfsub (d : BitVec 7) (a : BitVec 7) (b : BitVec 7)
  /-- SFMUL (R151). -/
  | sfmul (d : BitVec 7) (a : BitVec 7) (b : BitVec 7)
  /-- SFFMA (R151). -/
  | sffma (d : BitVec 7) (a : BitVec 7) (b : BitVec 7)
  /-- SFMIN (R151). -/
  | sfmin (d : BitVec 7) (a : BitVec 7) (b : BitVec 7)
  /-- SFMAX (R151). -/
  | sfmax (d : BitVec 7) (a : BitVec 7) (b : BitVec 7)
  /-- SFRCP (R151). -/
  | sfrcp (d : BitVec 7) (a : BitVec 7)
  /-- SFRSQ (R151). -/
  | sfrsq (d : BitVec 7) (a : BitVec 7)
  /-- SFSQRT (R151). -/
  | sfsqrt (d : BitVec 7) (a : BitVec 7)
  /-- SCVTFI (R151). -/
  | scvtfi (d : BitVec 7) (a : BitVec 7)
  /-- SCVTIF (R151). -/
  | scvtif (d : BitVec 7) (a : BitVec 7)
  /-- SFCMPLT (R151). -/
  | sfcmplt (d : BitVec 7) (a : BitVec 7) (b : BitVec 7)
  /-- SADDI (R129). -/
  | saddi (d : BitVec 7) (a : BitVec 7) (i : BitVec 11)
  /-- VMOVI (R121). -/
  | vmovi (d : BitVec 7) (i : BitVec 18)
  /-- IMX (R90). -/
  | imx (v : BitVec 25) (next : Word)
  /-- CPLIN (R209). -/
  | cplin (d : BitVec 7) (a : BitVec 7) (q : BitVec 4)
  /-- CP2D (R209). -/
  | cp2d (d : BitVec 7) (a : BitVec 7) (q : BitVec 4)
  /-- CPGATH (R209). -/
  | cpgath (d : BitVec 7) (a : BitVec 7) (q : BitVec 4)
  /-- CPSCAT (R209). -/
  | cpscat (d : BitVec 7) (a : BitVec 7) (q : BitVec 4)
  /-- CPEXP (R209). -/
  | cpexp (d : BitVec 7) (a : BitVec 7) (q : BitVec 4)
  /-- CPCMP (R209). -/
  | cpcmp (d : BitVec 7) (a : BitVec 7) (q : BitVec 4)
  /-- RCARM (R211). -/
  | rcarm (d : BitVec 7) (a : BitVec 7) (q : BitVec 4)
  /-- RCWAIT (R212). -/
  | rcwait (d : BitVec 7) (a : BitVec 7) (q : BitVec 4)
  /-- GTOPK (R214). -/
  | gtopk (d : BitVec 7) (a : BitVec 7) (q : BitVec 4)
  /-- GBUCK (R215). -/
  | gbuck (d : BitVec 7) (a : BitVec 7) (q : BitVec 4)
  /-- GMERGE (R215). -/
  | gmerge (d : BitVec 7) (a : BitVec 7) (q : BitVec 4)
  /-- GHIST (R215). -/
  | ghist (d : BitVec 7) (a : BitVec 7) (q : BitVec 4)
  /-- GSCAN (R215). -/
  | gscan (d : BitVec 7) (a : BitVec 7) (q : BitVec 4)
  /-- GPERM (R215). -/
  | gperm (d : BitVec 7) (a : BitVec 7) (q : BitVec 4)
  /-- CXFORK (R217). -/
  | cxfork (d : BitVec 7) (a : BitVec 7) (q : BitVec 4)
  /-- CXRDV (R219). -/
  | cxrdv (d : BitVec 7) (a : BitVec 7) (q : BitVec 4)
  /-- CXBOND (R216). -/
  | cxbond (d : BitVec 7) (a : BitVec 7) (q : BitVec 4)
  /-- CXDENSE (R218). -/
  | cxdense (d : BitVec 7) (a : BitVec 7) (q : BitVec 4)
  /-- QFENCE (R220). -/
  | qfence (d : BitVec 7) (a : BitVec 7) (q : BitVec 4)
  /-- QSTAT (R221). -/
  | qstat (d : BitVec 7) (a : BitVec 7) (q : BitVec 4)
  /-- GENRAY (R225). -/
  | genray (d : BitVec 7) (a : BitVec 7) (g : BitVec 2)
  /-- TRACE (R227). -/
  | trace (g : BitVec 2)
  /-- ACCEPT (R228). -/
  | accept (g : BitVec 2)
  /-- IGNORE (R228). -/
  | ignore (g : BitVec 2)
  /-- TERMRAY (R228). -/
  | termray (g : BitVec 2)
  /-- SPAWN (R229). -/
  | spawn (d : BitVec 7) (a : BitVec 7) (g : BitVec 2)
  /-- RAYLD (R230). -/
  | rayld (d : BitVec 7) (c : BitVec 2) (w : BitVec 5) (g : BitVec 2)
  /-- RAYST (R231). -/
  | rayst (d : BitVec 7) (c : BitVec 2) (w : BitVec 5) (g : BitVec 2)
  /-- RAYDONE (R232). -/
  | raydone (g : BitVec 2)
  /-- BINKEY (R233). -/
  | binkey (d : BitVec 7) (g : BitVec 2)
  /-- CHILDQ (R232). -/
  | childq (d : BitVec 7) (g : BitVec 2)
  /-- ITEM (R234). -/
  | item (c : BitVec 5) (a : BitVec 7) (g : BitVec 2)
  /-- LAUNCH (R235). -/
  | launch (d : BitVec 7) (a : BitVec 7) (g : BitVec 2)
  /-- NOP (R237). -/
  | nop
  /-- TRAP (R237). -/
  | trap (n : BitVec 7) (g : BitVec 2)
  /-- BKPT (R237). -/
  | bkpt (n : BitVec 7) (g : BitVec 2)
  /-- GETSR (R42). -/
  | getsr (d : BitVec 7) (e : BitVec 7) (s : BitVec 1) (g : BitVec 2)
  /-- SETSR (R237). -/
  | setsr (e : BitVec 7) (a : BitVec 7) (g : BitVec 2)
  /-- RDCYC (R49). -/
  | rdcyc (d : BitVec 7) (g : BitVec 2)
  /-- YIELD (R18). -/
  | yield
  /-- REGION (R46). -/
  | region
  /-- WINB (R238). -/
  | winb (n : BitVec 5)
  /-- SWINB (R238). -/
  | swinb (n : BitVec 1)
  /-- REGREQ (R33). -/
  | regreq (n : BitVec 7)
  /-- REGREL (R33). -/
  | regrel (n : BitVec 7)
  /-- RDLANE (R237). -/
  | rdlane (d : BitVec 7) (a : BitVec 7) (g : BitVec 2)
  /-- WRLANE (R237). -/
  | wrlane (d : BitVec 7) (a : BitVec 7) (g : BitVec 2)
  /-- BCAST (R237). -/
  | bcast (d : BitVec 7) (a : BitVec 7) (s : BitVec 1) (g : BitVec 2)
  /-- PREFH (R237). -/
  | prefh (a : BitVec 7) (g : BitVec 2)
  /-- PARKC (R237). -/
  | parkc (n : BitVec 7)
  /-- TILE_OP_COMPLETE (R173). -/
  | tileOpComplete (wave : Nat)
  /-- ILLEGAL_ENCODING (R97). -/
  | illegalEncoding (word : Word)
  /-- FETCH_FAULT (R132). -/
  | fetchFault (va : Addr)
  /-- QUEUED_COMMAND_START (R206). -/
  | queuedCommandStart (ctx : Nat) (q : Nat)
  /-- COPY_UNIT (R209). -/
  | copyUnit (ctx : Nat) (q : Nat)
  /-- GSE_ROW (R215). -/
  | gseRow (ctx : Nat) (q : Nat)
  /-- MAC_RUN (R359). -/
  | macRun (ctx : Nat) (cl : Nat) (mism : Nat) (tile : Nat)
  /-- QUEUED_COMMAND_COMPLETE (R206). -/
  | queuedCommandComplete (ctx : Nat) (q : Nat)
  /-- LOADB (R352). -/
  | loadb (ctx : Nat) (cl : Nat)
  /-- CONTRACT (R353). -/
  | contract (ctx : Nat) (cl : Nat)
  /-- DENSE (R352). -/
  | dense (ctx : Nat) (cl : Nat)
  /-- CONV3 (R355). -/
  | conv3 (ctx : Nat) (cl : Nat)
  /-- UPS2 (R355). -/
  | ups2 (ctx : Nat) (cl : Nat)
  /-- ACT (R352). -/
  | act (ctx : Nat) (cl : Nat)
  /-- PERM (R352). -/
  | perm (ctx : Nat) (cl : Nat)
  /-- STOREB (R352). -/
  | storeb (ctx : Nat) (cl : Nat)
  /-- SPLIT (R356). -/
  | splitParts (ctx : Nat) (cl : Nat)
  /-- ENDSPLIT (R356). -/
  | endSplit (ctx : Nat) (cl : Nat)
  /-- ENV (R358). -/
  | env (ctx : Nat) (cl : Nat)
  /-- END (R352). -/
  | endProg (ctx : Nat) (cl : Nat)
  /-- PARKC_TIMEOUT (R237). -/
  | parkcTimeout (wave : Nat)
  /-- LOAD_LANDS (R37). -/
  | loadLands (wave : Nat) (idx : Nat)
  /-- STORE_PERFORMED (R44). -/
  | storePerformed (wave : Nat) (idx : Nat)
  /-- MONW_RECHECK (R252). -/
  | monwRecheck (slice : Nat)
  /-- REGION_JOIN (R260). -/
  | regionJoin (tile : Nat)
  /-- DRAIN_COMBINE (R264). -/
  | drainCombine (idx : Nat)
  /-- DRAIN_ACK (R261). -/
  | drainAck (idx : Nat)
  /-- REGION_READ (R263). -/
  | regionRead (tile : Nat)
  /-- L1_EVICT (R272). -/
  | l1Evict (cid : Nat) (line : Nat)
  /-- WAVE_RETIRE (R25). -/
  | waveRetire (wave : Nat)
  /-- REGREQ_GRANT (R33). -/
  | regreqGrant (cid : Nat) (part : Nat)
  /-- SPILL_WAVE (R34). -/
  | spillWave (cid : Nat) (part : Nat)
  /-- SPILL_RETURN (R34). -/
  | spillReturn (wave : Nat)
  /-- MONW_SPILL (R315). -/
  | monwSpill (wave : Nat)
  /-- WAVE_EXCHANGE (R313). -/
  | waveExchange (cid : Nat) (part : Nat)
  /-- WAVE_AGE_BOOST (R314). -/
  | waveAgeBoost (wave : Nat)
  /-- LQBELL (R296). -/
  | lqbell (n : Nat)
  /-- LAUNCH_ACCEPT (R297). -/
  | launchAccept (n : Nat)
  /-- GROUP_PLACE (R307). -/
  | groupPlace
  /-- PLACEMENT_RESERVE (R309). -/
  | placementReserve (lid : Nat)
  /-- LAUNCH_COMPLETE (R302). -/
  | launchComplete (lid : Nat)
  /-- RAY_TRAVERSE (R330). -/
  | rayTraverse (ray : Nat)
  /-- BIN_AGE_FLUSH (R340). -/
  | binAgeFlush (bin : Nat)
  /-- RAY_REFILL (R325). -/
  | rayRefill (cl : Nat) (ctx : Nat)
  /-- GROUP_HALT_COMPLETE (R373). -/
  | groupHaltComplete (group : Nat)
  /-- RESUME (R374). -/
  | resume (ctx : Nat) (seq : Nat)
  /-- SKIP (R374). -/
  | skip (ctx : Nat) (seq : Nat)
  /-- CANCEL (R374). -/
  | cancel (ctx : Nat) (seq : Nat)
  /-- KILL (R374). -/
  | kill (ctx : Nat) (seq : Nat)
  /-- TRAPREPLY_INVALID (R374). -/
  | trapreplyInvalid (value : Addr)
  /-- TQERR_CLEAR (R367). -/
  | tqerrClear (value : Word)
  /-- ENGINE_STATUS_CLEAR (R363). -/
  | engineStatusClear (reg : Reg) (value : Word)
  /-- CTX_NONE (R375). -/
  | ctxNone (ctx : Nat)
  /-- SWITCH_IN (R379). -/
  | switchIn (ctx : Nat)
  /-- SWITCH_OUT (R376). -/
  | switchOut (ctx : Nat)
  /-- KILL_CONTEXT (R386). -/
  | killContext (ctx : Nat)
  /-- KILL_LAUNCH (R385). -/
  | killLaunch (ctx : Nat)
  /-- HALT_CONTEXT (R375). -/
  | haltContext (ctx : Nat)
  /-- CTX_RESERVED_OP (R375). -/
  | ctxReservedOp (ctx : Nat) (op : Nat)
  /-- CONTEXT_OP_COMPLETE (R375). -/
  | contextOpComplete
  /-- INVALIDATION_REQUEST (R295). -/
  | invalidationRequest (ctx : Nat) (lo : Nat) (hi : Nat)
  /-- INVALIDATION_COMPLETE (R295). -/
  | invalidationComplete
  /-- DOMAIN_WRITE (R388). -/
  | domainWrite (value : Word)
  /-- LINKCTL_WRITE (R388). -/
  | linkctlWrite (n : Nat) (value : Word)
  /-- REGISTER_WRITE (R268). -/
  | registerWrite (reg : Reg) (value : Addr)
  /-- LINK_UP (R389). -/
  | linkUp (port : Nat) (did : Nat)
  /-- FLIT_RECEIVE (R392). -/
  | flitReceive (port : Nat) (flit : List Byte)
  /-- NAK_RECEIVE (R392). -/
  | nakReceive (port : Nat) (ack : Nat)
  /-- LINK_READ (R391). -/
  | linkRead (port : Nat)
  /-- LINK_WRITE (R391). -/
  | linkWrite (port : Nat)
  /-- LINK_ATOMIC (R393). -/
  | linkAtomic (port : Nat)
  /-- LINK_ENQ (R393). -/
  | linkEnq (port : Nat)
  /-- LINK_DEQ (R393). -/
  | linkDeq (port : Nat)
  /-- LINK_MONW (R393). -/
  | linkMonw (port : Nat)
  /-- LINK_INVALIDATE (R249). -/
  | linkInvalidate (port : Nat)
  /-- LINK_DRAIN (R391). -/
  | linkDrain (port : Nat)
  /-- LINK_RESPONSE (R391). -/
  | linkResponse (port : Nat)
  /-- LINK_WAKE (R391). -/
  | linkWake (port : Nat)
  /-- LINK_LOST (R394). -/
  | linkLost (peer : Nat)
  /-- HOST_READ (R395). -/
  | hostRead (reg : Option Reg) (addr : Nat) (len : Nat)
  /-- HOST_WRITE (R395). -/
  | hostWrite (reg : Option Reg) (value : Addr) (addr : Nat) (data : List Byte)
  /-- DEVICE_RESET (R398). -/
  | deviceReset (image : List Byte) (key : List Byte) (sig : List Byte) (keyidx : Nat) (version : Nat)
  /-- EXTEND (R398). -/
  | extend (pcm : Nat) (data : List Byte)
  /-- QUOTE (R399). -/
  | quote (nonce : List Byte)
  /-- ALARM (R400). -/
  | alarm (sources : BitVec 6)
  /-- CLOCK_STEP_DOWN (R402). -/
  | clockStepDown
  /-- CLOCK_STEP_UP (R402). -/
  | clockStepUp
  /-- CONTROL_CORE_READ (R251). -/
  | controlCoreRead (addr : Nat) (len : Nat)
  /-- CONTROL_CORE_WRITE (R284). -/
  | controlCoreWrite (addr : Nat) (data : List Byte)
  /-- SOFT_ERROR (R401). -/
  | softError (site : Site) (correctable : Bool)
  deriving DecidableEq, Repr

end Sys2Proof
end

