-- ==== Sys2Proof/Machine/State.lean ====
section
/-! DEFINITION. The state of the device as plain data: fibres, waves, groups, launches, contexts, engines, rays, caches, memory,
links, registers and Zephyr; the reasons a step can stop; the state right after reset. -/

namespace Sys2Proof.Machine

/-- The reasons the model itself stops. A trap of the spec is no stop: it is a next state (13 R365 to R373). -/
inductive Fault where
  /-- Raised by exec of a wave's instruction when no issue is under way (field cur is none) or the issue names no wave.
  Safe: the step sets cur before it runs an instruction, so no run reaches it. -/
  | noIssue
  deriving DecidableEq, Repr

/-- Instructions without a meaning in the model. Safe: no run goes on from a refusal. -/
inductive Refusal where
  /-- Raised by the arm of an instruction that has no meaning yet. Safe. -/
  | notModelled (mnemonic : String)
  deriving DecidableEq, Repr

/-- Cause codes of a trap record (13 R369). -/
inductive Cause where
  | illegalOp | reservedField | illegalOperand | formatMismatch | misaligned | xlateNotPresent | xlatePermission
  | aperture | imxSequence | software | breakpoint | rayQuota | launchDepth | queueControl | boundaryOverflow
  | chainShape | engineXlate | engineCommand | regionDescriptor | eccUncorrectable | computeCheck | alarm
  deriving DecidableEq, Repr

/-- One lane's copy of a vector register: 32 bits, a format tag, the EMPTY bit (01 R36). -/
structure VCell where
  val : Word
  tag : BitVec 6
  empty : Bool
  deriving DecidableEq, Repr

/-- A value kept in a latch lane, with its tag (01 R39). -/
structure LCell where
  val : Word
  tag : BitVec 6
  deriving DecidableEq, Repr

/-- A latch entry: its lanes (unlisted lanes are undefined) and its validity count (01 R39). -/
structure LatchEntry where
  lanes : SMap LCell
  count : Nat
  deriving DecidableEq, Repr

/-- What a fibre is bound to: nothing, a ray slot or an item slot, by ray id (01 R7, R13; 07 R224, R225). -/
inductive Bound where
  | none
  | ray (id : Nat)
  | item (id : Nat)
  deriving DecidableEq, Repr

/-- The state of one lane slot's fibre (01 R7, R8, R17, R18; 07 R224, R226). -/
structure Fibre where
  live : Bool
  pc : Addr
  region : Addr
  preds : BitVec 8
  gen : BitVec 11
  /-- The n of the JOIN the fibre is parked at (R17). -/
  join : Option Nat
  /-- The lanes whose yield marked the fibre owed: they are held back until it runs (R18). -/
  owed : Word
  bound : Bound
  /-- Event kind of the episode; 0 for placement and for a FORK child (R11, R224). -/
  kind : Nat
  forked : Bool
  /-- GENRAY bound the ray after the fibre's region entry was last set (R226). -/
  fresh : Bool
  deriving DecidableEq, Repr

/-- A lane slot that never held a fibre. -/
def Fibre.dead : Fibre :=
  { live := false, pc := 0, region := 0, preds := 1, gen := 0, join := none, owed := 0,
    bound := .none, kind := 0, forked := false, fresh := false }

/-- The issue under way: the wave, its batch, the PC of the instruction (of its IMX), its length in bytes, its word and the V field of
its IMX (01 R15, 03 R90, R92). -/
structure Issue where
  wave : Nat
  batch : Word
  pc : Addr
  len : Nat
  word : Word
  ext : Option (BitVec 25)
  deriving DecidableEq, Repr

/-- A register cell that a landing load writes. -/
structure LWrite where
  cell : Nat
  val : Word
  tag : BitVec 6
  deriving DecidableEq, Repr

/-- One addition of an ACCB that has not entered a delta tile: tile key, element, value, and what its context's region and page say of
the tile (06 R191). -/
structure Add where
  tile : Nat
  elem : Nat
  val : Word
  ctx : Nat
  limit : Word
  coded : Bool
  /-- The traffic class of its wave (14 R393). -/
  cls : Nat := 0
  deriving DecidableEq, Repr

/-- A transaction of another device that is answered later: the device, its tag, class and address (14 R391). -/
structure Asker where
  did : Nat
  tag : Nat
  cls : Nat
  addr : Nat
  deriving DecidableEq, Repr

/-- What a counted operation is (01 R44; 13 R371 names the loads a trap discards). -/
inductive OpKind where
  | load | ret | store | accb | tile
  | command (q seq : Nat)
  | immediate
  deriving DecidableEq, Repr

/-- An operation counted by LD, ST, CP or TX, in the order of R140. -/
structure Op where
  uid : Nat
  kind : OpKind
  iss : Issue
  /-- Register cells written when the data lands. -/
  writes : List LWrite
  /-- Physical registers a tile instruction has not finished writing (05 R173), or the memory keys of a store. -/
  busy : List Nat
  /-- Tokens of answers still to come: link transactions, region reads, drains. -/
  waits : List Nat
  adds : List Add
  done : Bool
  /-- A lane whose data came back poisoned, with its address: consumed when the load lands (09 R277). -/
  bad : Option (Nat × Addr) := none
  deriving DecidableEq, Repr

/-- A MONW that a wave is parked on (06 R197): its issue, the lane and the address it names; the word by its key, whether its page is CODED;
value and condition; the cycle. -/
structure Parked where
  iss : Issue
  lane : Nat
  va : Addr
  key : Nat
  coded : Bool
  val : Word
  cond : Nat
  since : Nat
  deriving DecidableEq, Repr

/-- Why a wave does not go on (01 R16). A retry wait issues its instruction again; the others have issued. -/
inductive Wait where
  | retry
  /-- BAR, arrived; PCs are past the BAR (06 R199, 13 R371). -/
  | bar (batch : Word)
  /-- MONW, parked; PCs are past the MONW (06 R197). -/
  | monw (p : Parked)
  /-- PARKC n with the sum of the counters at issue; the PC is the PARKC (07 R237). -/
  | parkc (iss : Issue) (until_ : Option Nat)
  /-- REGREQ with its F'; PCs are past it (01 R33). -/
  | regreq (need : Nat)
  deriving DecidableEq, Repr

/-- A wave's place in a halt (13 R370 to R374). -/
inductive Run where
  | running
  /-- The halt reached the wave, which may issue that many further instructions. -/
  | skid (left : Nat)
  | stopped
  /-- The wave trapped: the record's SEQ, the batch, and the other lanes that return to their region entry (01 R48). -/
  | faulted (seq : Nat) (iss : Issue) (others : Word)
  deriving DecidableEq, Repr

/-- An ENQ or DEQ to be performed at the home of its block on another device (06 R196): the block, the values its check found there, the
pages of its entries, the entry index that the home is asked to perform at, and whether it has been asked. -/
structure RingAsk where
  enq : Bool
  scope : Nat
  key : Nat
  base : Nat
  log2cap : Nat
  pages : List (Nat × Bool)
  value : Word
  index : Nat
  sent : Bool
  deriving DecidableEq, Repr

/-- A lane of an atomic, ENQ or DEQ that another device performs: its address, the cell its value goes to, the transaction, the answer.
A lane performed here has its value at once. -/
structure Reply where
  lane : Nat
  va : Addr
  cell : Nat
  token : Nat
  value : Option Word
  failed : Bool
  ring : Option RingAsk := none
  deriving DecidableEq, Repr

/-- A wave (01 R14). Its key in State.waves is (CID x 6 + partition) x 48 + slot. -/
structure Wave where
  uid : Nat
  ctx : Nat
  lid : Nat
  group : Nat
  wid : Nat
  depth : Nat
  gx : Word
  gy : Word
  gz : Word
  prio : Nat
  age : Nat
  need : Nat
  sneed : Nat
  wb : Nat
  sb : Nat
  /-- Cell 32 x n + lane of physical register n; an unlisted cell is undefined (01 R11, R52). -/
  regs : SMap VCell
  /-- Numbers the undefined values of the unlisted cells: the model's own field. -/
  epoch : Nat
  scalars : SMap Word
  fibres : SMap Fibre
  latch : SMap LatchEntry
  lp : Nat
  fsr : Word
  patterns : SMap Addr
  ld : List Op
  st : List Op
  cp : List Op
  tx : List Op
  wait : Option Wait
  run : Run
  skid : Nat
  /-- Lanes that a waiting GENRAY, ITEM or LAUNCH has performed (10 R311, 13 R371). -/
  doneLanes : Word
  /-- Lanes of the instruction that waits for other devices' answers (14 R393, R394). -/
  asked : List Reply
  active : Bool
  resident : Bool
  /-- Spilled for being long parked on MONW: it returns only when it is woken (10 R315). -/
  longParked : Bool
  /-- Bytes of the lane-private windows written since their fibre started, by lane x 65,536 + offset: the model's own field (06 R176). -/
  priv : SMap Bool
  /-- Cycles marked for R313 and R314: last issue, last cycle in which it was ready, last cycle in which it was not, last attempt. -/
  lastIssue : Nat
  stallSince : Nat
  readySince : Nat
  tried : Nat
  boosted : Bool
  deriving DecidableEq, Repr

/-- A trap record before it is written (13 R368); its SKIDMAX is known when its halt is complete. -/
structure TrapRec where
  ctx : Nat
  seq : Nat
  cause : Cause
  source : Nat
  groupHalt : Bool
  instr : Word
  pc : Addr
  region : Addr
  faddr : Addr
  lid : Word
  group : Word
  who : Word
  progress : List Word
  deriving DecidableEq, Repr

/-- A group (01 R21, 06 R199, 13 R384), keyed by its placement number. -/
structure Group where
  ctx : Nat
  lid : Nat
  index : Word
  waves : Nat
  cores : List Nat
  /-- Wave keys by WID. -/
  members : List Nat
  retired : List Nat
  scratch : Nat
  cluster : Nat
  eddy : Bool
  arrived : List Nat
  generation : Nat
  halted : Bool
  haltSeq : Option Nat
  /-- The largest skid of the waves that have retired in this halt (13 R368). -/
  skidGone : Nat
  /-- SEQs of the wave records of the halt that are not answered. -/
  unanswered : List Nat
  recorded : Bool
  /-- Records of the halt that wait until every wave has stopped (13 R373). -/
  records : List TrapRec
  scratchMem : SMap (SMap Byte)
  clusterMem : SMap Byte
  epoch : Nat
  /-- Contributions to its cluster-shared memory that a change of mode has made undefined, with the number of the change (09 R271). -/
  lost : SMap Nat
  deriving DecidableEq, Repr

/-- A shader record (10 R299). -/
structure Shader where
  entry : Addr
  vn : Nat
  sn : Nat
  kind : Nat
  scratch : Nat
  deriving DecidableEq, Repr

/-- The fields of a launch record (10 R298). -/
structure LaunchRecord where
  entry : Addr
  args : Addr
  dimx : Nat
  dimy : Nat
  dimz : Nat
  waves : Nat
  vn : Nat
  sn : Nat
  split : Nat
  prio : Nat
  after : Bool
  scratch : Nat
  cluster : Nat
  shtab : Addr
  flush : Nat
  scene : List Word
  cell : Word
  evq : Addr
  tagw : Addr
  deriving DecidableEq, Repr

/-- A launch (10 R297 to R309), keyed by its launch id. -/
structure Launch where
  ctx : Nat
  order : Nat
  parent : Option Nat
  depth : Nat
  prio : Nat
  queue : Option Nat
  previous : Option Nat
  record : LaunchRecord
  shaders : List Shader
  root : Addr
  placed : Nat
  live : Nat
  retired : Nat
  status : Nat
  killed : Bool
  waitingSince : Option Nat
  reserved : List Nat
  /-- A number that orders completions; none before the launch is complete (10 R302). -/
  completed : Option Nat
  /-- The record's first unreadable byte, where its event queue was not read: a trap record stands in (10 R300). -/
  silent : Option Addr
  /-- The trap record that stands for the completion record, until it is written (13 R366). -/
  told : Option Nat
  deriving DecidableEq, Repr

/-- A command in an engine queue (13 R383) with what the engine holds for it (12 R364). -/
structure QEntry where
  seq : Nat
  sub : Nat
  state : Nat
  prio : Nat
  wave : Nat
  uid : Nat
  who : Word
  lid : Nat
  block : List Word
  progress : List Nat
  /-- Counts and positions the engine holds, and the partly done work: GBUCK, GHIST, GPERM (R364). -/
  held : List Nat
  /-- Tokens of writes sent to other devices and not acknowledged. -/
  waits : List Nat
  /-- Everything it has to do is done; completion may be reported. -/
  finished : Bool
  /-- The issuing wave's group, whose scratchpads the command may address (06 R176). -/
  group : Nat
  /-- The queues the command entered and its sequence number in each, its own queue first: several for a QFENCE (07 R220, R222). -/
  tickets : List (Nat × Nat)
  /-- The ranges a copy reads, once it has begun: destination bytes in them are undefined (07 R209). -/
  sources : Option (List (Nat × Nat)) := none
  /-- The unit or row in progress waits for a line of another device: the engine does not yield there (10 R316). -/
  midUnit : Bool := false
  deriving DecidableEq, Repr

/-- An engine queue of a context (07 R203, R204, R223). -/
structure Queue where
  count : Nat
  used : Nat
  entries : List QEntry
  /-- States of the most recent commands by sequence number: 2 completed, 4 cancelled. -/
  history : List (Nat × Nat)
  deriving DecidableEq, Repr

/-- Kinds of boundary (12 R351). -/
inductive BKind where
  | none | chain | matrix | image
  deriving DecidableEq, Repr

/-- A boundary (12 R351): its modes with their sizes, ascending; matrix columns or image channels in cols, rows of a batch entry of a
matrix or pixels of an image row in width; its elements in flattened order, each rounded to BFMT and kept as the F32 of that value. -/
structure Boundary where
  kind : BKind
  tr : Bool
  batch : Nat
  remaining : List (Nat × Nat)
  produced : List (Nat × Nat)
  bond : Nat
  cols : Nat
  width : Nat
  data : List Word
  deriving DecidableEq, Repr

/-- No boundary (12 R351). -/
def Boundary.absent : Boundary :=
  { kind := .none, tr := false, batch := 0, remaining := [], produced := [], bond := 0, cols := 0, width := 0, data := [] }

/-- A program step or a CXDENSE under way (12 R359): its bytes and its descriptor's; whether it has stopped and begins again; its
result's shape; the committed elements in Accumulator Memory by their place in the flattened result. -/
structure Job where
  bytes : List Byte
  stopped : Bool
  result : Boundary
  rows : Nat
  cols : Nat
  acc : SMap Word
  deriving DecidableEq, Repr

/-- The registers and boundary of a context on one cluster's CCE (12 R345, R351, R356). -/
structure Cce where
  chi : SMap Nat
  modei : SMap Nat
  modej : SMap Nat
  prog : Addr
  step : Nat
  part : Nat
  tilei : Nat
  tilej : Nat
  batchn : Nat
  bboff : Nat
  bbcap : Nat
  cxsave : Addr
  stat : Word
  bnd : Boundary
  parent : Option Boundary
  splitStep : Option Nat
  partSize : Nat
  job : Option Job
  lastq : Nat
  /-- The number and the count of the bytes that a switch-out wrote to the save area (12 R346): the model's own field. -/
  saved : Option (Nat × Nat)
  deriving DecidableEq, Repr

/-- A new context's engine registers: CHI and MODE read 1, the others 0 (12 R345). -/
def Cce.fresh : Cce :=
  { chi := [], modei := [], modej := [], prog := 0, step := 0, part := 0, tilei := 0, tilej := 0, batchn := 0, bboff := 0,
    bbcap := 0, cxsave := 0, stat := 0, bnd := Boundary.absent, parent := none, splitStep := none, partSize := 0, job := none,
    lastq := 11, saved := none }

/-- A region descriptor (08 R256). -/
structure Region where
  base : Addr
  tiles : Nat
  limit : Word
  faulty : Bool
  deriving DecidableEq, Repr

/-- A trap record that is not answered (13 R368, R374). -/
structure Pending where
  seq : Nat
  cause : Cause
  source : Nat
  wave : Nat
  uid : Nat
  group : Nat
  lid : Nat
  /-- Queue index and sequence number of an engine's command. -/
  queue : Nat
  cmd : Nat
  ray : Nat
  answer : Option Nat
  deriving DecidableEq, Repr

/-- A committed or candidate hit (11 R330): t, primitive, instance, u, v and HOFF + GOFF. -/
structure Hit where
  t : Word
  prim : Word
  iid : Word
  u : Word
  v : Word
  off : Nat
  deriving DecidableEq, Repr

/-- A space that a ray is in: the structure's base, the ray's origin and direction there, and the instance's address, index and flags
(11 R328, R333, R336). -/
structure Space where
  base : Nat
  o : List Word
  d : List Word
  inst : Option (Nat × Word × Nat)
  deriving DecidableEq, Repr

/-- What traversal visits next: a node, an instance, or a leaf block, at an address in a space. -/
inductive Visit where
  | node (a : Nat) (sp : Space)
  | inst (a : Nat) (sp : Space)
  | leaf (a : Nat) (sp : Space)
  deriving DecidableEq, Repr

/-- Where a pool record stands (11 R318 to R340). -/
inductive RayPlace where
  | bound
  | queued
  | inBin (bin : Nat)
  | formed
  | retained
  /-- In traversal, which waits for a line of another device (R330; 13 R378). -/
  | traversing
  /-- Stopped by a geometry fault whose record has this SEQ (R332). -/
  | stopped (seq : Nat)
  deriving DecidableEq, Repr

/-- A pool record: a ray or a work item (11 R318, R322, R324), keyed by ray id. -/
structure Ray where
  ctx : Nat
  lid : Nat
  item : Bool
  place : RayPlace
  words : SMap Word
  root : Option Nat
  descendants : Nat
  commit : Option Hit
  cand : Option Hit
  /-- Triangles presented in this TRACE: leaf block and instance (R330). -/
  seen : List (Nat × Nat)
  /-- Where traversal stopped: what is left to visit and the nodes tested; none before it begins (R330, R332). -/
  walk : Option (List Visit × Nat)
  ended : Bool
  event : Nat
  shader : Nat
  pc : Addr
  key : Word
  entered : Nat
  deriving DecidableEq, Repr

/-- A context (09 R268, 11 R323, 12 R345, 13 R382). -/
structure Ctx where
  image : Addr
  /-- STATE of the image header, and 3 while a switch-out is under way (13 R376). -/
  state : Nat
  ptbase : Addr
  privbase : Addr
  spillbase : Addr
  csbase : Nat
  cssize : Nat
  rtbase : Addr
  tqring : Addr
  poolmin : Nat
  poolcap : Nat
  ringsize : Nat
  ringbase : Addr
  raydrop : Word
  trapseq : Word
  /-- The cycle and the place of the latest record: within a cycle waves' come first, in the order of their slots (13 R365). -/
  raised : Option (Nat × Nat)
  regions : List Region
  /-- The table address whose read failed, while the whole table is faulty (08 R258). -/
  regionFault : Option Addr
  cce : SMap Cce
  gsestat : SMap Word
  trstat : SMap Word
  queues : SMap Queue
  pending : List Pending
  /-- Records held back while the trap queue is full, with their SKIDMAX (13 R366). -/
  backlog : List (TrapRec × Nat)
  /-- Halted by a trap-queue failure, operation 5 or an alarm: groups wait for switch-out and switch-in. -/
  frozen : Bool
  /-- The trap queue failed: no record is written until the context is switched in again (13 R366). -/
  tqfail : Bool
  switchedIn : Nat
  /-- Per cluster: entries ever read from and written to the spill ring (11 R325). -/
  ringHead : SMap Nat
  ringTail : SMap Nat
  /-- What the device keeps of each record in a ring, oldest first: its cluster and the record; none once its launch was killed. -/
  ringHeld : List (Nat × Option Ray)
  deriving DecidableEq, Repr

/-- An open shader bin (11 R339), keyed by a number of the model. -/
structure Bin where
  cluster : Nat
  lid : Nat
  item : Bool
  binkey : Word
  event : Nat
  shader : Nat
  pc : Addr
  key : Word
  members : List Nat
  opened : Nat
  deriving DecidableEq, Repr

/-- A wave the Eddy has formed and that awaits placement (11 R340). -/
structure Formed where
  cluster : Nat
  ctx : Nat
  lid : Nat
  item : Bool
  event : Nat
  shader : Nat
  key : Word
  members : List Nat
  order : Nat
  deriving DecidableEq, Repr

/-- A dirty byte of an L1, the waves whose stores it holds and their contexts (09 R272). -/
structure DByte where
  val : Byte
  owners : List Nat
  ctxs : List Nat
  coded : Bool
  /-- The traffic class of the stores it holds (14 R393). -/
  cls : Nat
  /-- An uncorrectable error struck it (14 R401). -/
  bad : Bool := false
  deriving DecidableEq, Repr

/-- An Update-only copy of a line, with the contexts whose operations it gathers (08 R247, R266). -/
structure Upd where
  line : Nat
  ctxs : List Nat
  kind : Nat
  words : SMap Word
  /-- The traffic class of the operations it gathers (14 R393). -/
  cls : Nat
  /-- An uncorrectable error struck it (14 R401). -/
  bad : Bool := false
  deriving DecidableEq, Repr

/-- A region holder's tile (08 R259): the contexts whose additions it gathers; the delta's unlisted elements are -0; its share is the
limit times 2 to the minus share. -/
structure Holder where
  tile : Nat
  ctxs : List Nat
  coded : Bool
  limit : Word
  delta : SMap Word
  m : Word
  share : Nat
  /-- The drain the holder waits for. -/
  draining : Option Nat
  leaving : Bool
  /-- An uncorrectable error struck it (14 R401). -/
  bad : Bool := false
  /-- The traffic class of the additions it gathers (14 R393). -/
  cls : Nat := 0
  /-- Requests of the tile's home, on another device, that are answered when the drain is acknowledged (log entry 19). -/
  owed : List Asker := []
  deriving DecidableEq, Repr

/-- An invariant copy of a line for a context (08 R249); no bytes where an uncorrectable error struck it (14 R401). -/
structure Inv where
  line : Nat
  ctx : Nat
  bytes : List Byte
  deriving DecidableEq, Repr

/-- A core's L1 by state of its lines (09 R272). -/
structure L1 where
  clean : SMap (List Byte)
  inv : List Inv
  dirty : SMap DByte
  excl : List Nat
  upd : List Upd
  hold : List Holder
  deriving DecidableEq, Repr

/-- A row counter (07 R211, 13 R381). -/
structure RowCounter where
  val : Word
  owner : Option Nat
  named : Bool
  deriving DecidableEq, Repr

/-- A translation held by a TLB (09 R294): context, page number, physical key of the page, permissions, CODED. -/
structure TlbEntry where
  ctx : Nat
  page : Nat
  frame : Nat
  r : Bool
  w : Bool
  x : Bool
  coded : Bool
  deriving DecidableEq, Repr

/-- An upper-level entry held by a cluster's walkers (09 R294): context, the level of the table it points to, the part of the address
that leads there, the table. -/
structure WalkEntry where
  ctx : Nat
  level : Nat
  part : Nat
  table : Nat
  deriving DecidableEq, Repr

/-- A core: its split mode, L1, row counters, TLB, and what its partitions keep (01 R35, 09 R269). -/
structure Core where
  split : Nat
  l1 : L1
  rows : SMap RowCounter
  tlb : List TlbEntry
  /-- Pattern tables cached by context and address (05 R160). -/
  patterns : List (Nat × Addr × List Byte)
  /-- Per partition: the cycle of the last exchange and the waves issued in the present cycle (10 R312, R313). -/
  exchange : SMap Nat
  issued : SMap (List (Nat × Nat))
  deriving DecidableEq, Repr

/-- An empty L1 (at reset nothing is cached). -/
def L1.none : L1 := { clean := [], inv := [], dirty := [], excl := [], upd := [], hold := [] }

/-- A core right after reset: split mode 0 is log entry 2's choice. -/
def Core.fresh : Core := { split := 0, l1 := L1.none, rows := [], tlb := [], patterns := [], exchange := [], issued := [] }

/-- A monitor entry, or a place on the re-check list (08 R252). -/
structure Mon where
  ctx : Nat
  wave : Nat
  uid : Nat
  /-- The requesting device, its transaction tag and class when the wave is on another device. -/
  peer : Option (Nat × Nat × Nat)
  key : Nat
  /-- The word lies on a CODED page (09 R283). -/
  coded : Bool
  val : Word
  cond : Nat
  deriving DecidableEq, Repr

/-- The monitors of a home slice (08 R252). -/
structure Slice where
  entries : List Mon
  relist : List Mon
  checked : Nat
  deriving DecidableEq, Repr

/-- A holder's share as the home keeps it (08 R259): the limit times 2 to the minus share. -/
structure Share where
  did : Nat
  cid : Nat
  share : Nat
  deriving DecidableEq, Repr

/-- A read of a region tile that the home has not answered (08 R263). -/
structure TileRead where
  wave : Nat
  uid : Nat
  op : Nat
  token : Nat
  cell : Nat
  tag : BitVec 6
  /-- Key of the first byte, number of bytes, whether the page is CODED, the address as issued. -/
  key : Nat
  size : Nat
  coded : Bool
  va : Addr
  tol : Nat
  /-- Drains requested for it and not combined; none before the first look. -/
  drains : Option (List Nat)
  /-- The device that reads, where that is another one. -/
  peer : Option Asker := none
  deriving DecidableEq, Repr

/-- A core's request to hold a tile (08 R260). -/
structure Join where
  cid : Nat
  ctx : Nat
  coded : Bool
  cls : Nat := 0
  /-- The device of the core, where that is another one. -/
  peer : Option Asker := none
  deriving DecidableEq, Repr

/-- A halving under way: the joiner, the share that it and the holder halved will have, the drain it waits for (08 R260). -/
structure Halving where
  joiner : Join
  share : Nat
  drain : Nat
  deriving DecidableEq, Repr

/-- A region tile at its home (08 R259, R260, R263). -/
structure HomeTile where
  limit : Word
  shares : List Share
  reads : List TileRead
  joins : List Join
  halving : Option Halving
  deriving DecidableEq, Repr

/-- A delta tile on its way to the home, or combined and not acknowledged (08 R261, R264). -/
structure Drain where
  id : Nat
  tile : Nat
  ctxs : List Nat
  cid : Nat
  coded : Bool
  delta : SMap Word
  /-- A refused join's single addition: no holder waits for it (R260). -/
  single : Bool
  combined : Bool
  /-- It comes from a holder that an uncorrectable error struck (14 R401). -/
  bad : Bool := false
  deriving DecidableEq, Repr

/-- A link transaction (14 R391). -/
structure LinkTx where
  op : Nat
  tag : Nat
  cls : Nat
  scope : Nat
  addr : Nat
  data : List Byte
  mask : Option (List Byte)
  deriving DecidableEq, Repr

/-- What a transaction of this device serves (14 R391, R393): a line it asked for; a line whose answer has become too old to be kept; a
lane of an instruction that returns a value; an engine's write; an invalidation of a line's copies; a MONW; a store, a no-return
operation or a single drain. Of a region tile (08 R260, R261, R263; log entry 19): a core's join for an addition, and the share that it has been
halved to on the way; a half of a core's delta tile, with which it may leave; what the home asks of a core of another device, to leave or not;
the halving of such a core's share; an element read at its home. The addresses are virtual. -/
inductive Purpose where
  | fill (line : Nat)
  | stale
  | ret (uid : Nat) (iss : Issue) (lane : Nat) (va : Addr)
  | engine (va : Addr)
  | invalidate (line : Nat)
  | monw (uid : Nat) (iss : Issue) (lane : Nat) (va : Addr)
  | other
  | join (a : Add) (cid least : Nat)
  | delta (tile cid : Nat) (leave : Bool)
  | ask (tile did cid : Nat) (leave : Bool)
  | halve (tile : Nat)
  | element (r : TileRead)
  deriving DecidableEq, Repr

/-- A transaction sent and not answered. -/
structure Txn where
  /-- The number its waiters hold; the tag on the link is its low 16 bits. -/
  token : Nat
  peer : Nat
  addr : Nat
  purpose : Purpose
  deriving DecidableEq, Repr

/-- A link port (14 R388 to R392). -/
structure Port where
  en : Bool
  expect : Nat
  up : Bool
  peer : Nat
  down : Bool
  mismatch : Bool
  lost : Nat
  replays : Nat
  txSeq : Nat
  rxSeq : Nat
  sent : List (Nat × List Byte)
  /-- Flits put on the wire, oldest first: what the peer will receive. -/
  wire : List (List Byte)
  out : List LinkTx
  inbox : List LinkTx
  refusals : Nat
  refused : Nat
  deriving DecidableEq, Repr

/-- A port right after reset (log entry 2). -/
def Port.fresh : Port :=
  { en := false, expect := 0, up := false, peer := 0, down := false, mismatch := false, lost := 0, replays := 0, txSeq := 0,
    rxSeq := 0, sent := [], wire := [], out := [], inbox := [], refusals := 0, refused := 0 }

/-- A launch queue's registers and service state (10 R296, R297). -/
structure LaunchQueue where
  ring : Addr
  ctxReg : Word
  tail : Word
  /-- HEAD as last read or written. -/
  head : Word := 0
  stopped : Bool
  last : Option Nat
  /-- A check of the block waits for a line of another device. -/
  bell : Bool := false
  deriving DecidableEq, Repr

/-- An engine's service: the command in service and the context last served (10 R316). Keys: 0 to 63 Copy Engines,
64 to 71 Gate and Select Engines, 72 to 79 Chain Contraction Engines. -/
structure Engine where
  serving : Option (Nat × Nat)
  lastCtx : Nat
  retiredTiles : Word
  deriving DecidableEq, Repr

/-- An invalidation under way (09 R295). -/
structure Invalidation where
  ctx : Nat
  lo : Nat
  hi : Nat
  deriving DecidableEq, Repr

/-- Device registers (09 R282; 10 R296; 13 R367, R375; 14 R388, R396, R401, R403). -/
structure Regs where
  mdbase : Addr
  mdspan : Addr
  tqerr : Word
  ctxctl : Word
  ctxaddr : Addr
  busy : Bool
  result : Nat
  /-- The result that the operation under way will write, once it is known (13 R375): the model's own field. -/
  outcome : Option Nat
  inval : Option Invalidation
  domain : Word
  domainSet : Bool
  interrupts : List Nat
  /-- By interrupt number, the control core that the latest one was steered to; the MSI-X vectors raised (14 R396). -/
  steered : SMap Nat
  msix : List Nat
  routing : SMap Word
  ecclog : Nat
  clkstep : Nat
  deriving DecidableEq, Repr

/-- Zephyr (14 R398 to R400). -/
structure Zephyr where
  booted : Bool
  pcm : SMap (List Byte)
  digests : List (List Byte)
  rollback : Nat
  serial : List Byte
  policy : List Nat
  hostreg : Bool
  provisioned : Bool
  log : List Nat
  quotes : List (List Byte)
  halted : Bool
  deriving DecidableEq, Repr

/-- A store or reduction of a wave that has retired, which goes on: its launch, context, core (01 R24, R25). -/
structure Late where
  lid : Nat
  ctx : Nat
  cid : Nat
  op : Op
  deriving DecidableEq, Repr

/-- Whose turn the step performs: a wave's issue, an event of the table, clock cycles passing, or the key store being provisioned
(14 R400). -/
inductive Turn where
  | issue (wave : Nat)
  | event (i : Instr)
  | tick (n : Nat)
  | provision
  deriving DecidableEq, Repr

/-- The device. The model's own fields are cur, agenda, choices, fresh and reply (log entries 1, 4, 15). -/
structure State where
  waves : SMap Wave
  /-- Waves of switched-out contexts with their recorded slot; their registers are in their spill areas (13 R376). -/
  away : List (Nat × Wave)
  groups : SMap Group
  launches : SMap Launch
  nextLid : Nat
  placements : Nat
  formed : List Formed
  ctxs : SMap Ctx
  cores : SMap Core
  engines : SMap Engine
  rays : SMap Ray
  bins : SMap Bin
  queues : SMap LaunchQueue
  lastQueue : Nat
  mem : List Host.Cell
  poison : List Nat
  /-- Uncorrectable errors in storages other than memory (14 R401): a register, latch or scalar site is keyed by the wave's uid; a
  scratchpad offset counts 8-byte words. -/
  spoiled : List Site
  chip : SMap Byte
  /-- Grants of the chip scratchpad, newest first: context, base, size and a number for its undefined bytes (09 R275). -/
  grants : List (Nat × Nat × Nat × Nat)
  /-- By cluster: the L2 TLB and what its walkers cache (09 R294). -/
  tlb2 : SMap (List TlbEntry)
  walks : SMap (List WalkEntry)
  /-- The own L2's copies of other devices' lines; no bytes where an uncorrectable error struck the copy (14 R401). -/
  l2 : SMap (List Byte)
  /-- By cluster: the treelet cache's invariant copies; those of the Launch Unit under 8 (11 R342, R343). -/
  treelets : SMap (List Inv)
  /-- By cluster: the number of the wave that the Eddy formed last (11 R340). -/
  eddy : SMap Nat
  marks : SMap (List Nat)
  slices : SMap Slice
  tiles : SMap HomeTile
  drains : List Drain
  txns : List Txn
  /-- What retired waves' stores and reductions still wait for (01 R24, R25). -/
  owing : List Late
  ports : SMap Port
  regs : Regs
  zephyr : Zephyr
  cycle : Nat
  cur : Option Issue
  agenda : List Turn
  choices : List Nat
  fresh : Nat
  reply : Option (List Byte)
  deriving DecidableEq, Repr

/-- Registers right after reset (log entries 2 and 13). -/
def Regs.reset : Regs :=
  { mdbase := 0, mdspan := 0, tqerr := 0, ctxctl := 0, ctxaddr := 0, busy := false, result := 0, outcome := none, inval := none,
    domain := 0x100, domainSet := false, interrupts := [], steered := [], msix := [], routing := [], ecclog := 0, clkstep := 0 }

/-- Zephyr right after reset: every PCM zero (14 R398); the fuses are log entry 2's. -/
def Zephyr.reset : Zephyr :=
  { booted := false, pcm := [], digests := [], rollback := 0, serial := [], policy := [], hostreg := false, provisioned := true,
    log := [], quotes := [], halted := false }

/-- The device right after reset (01 R9, R49; 10 R297; 14 R398). -/
def State.reset : State :=
  { waves := [], away := [], groups := [], launches := [], nextLid := 0, placements := 0, formed := [], ctxs := [], cores := [],
    engines := [], rays := [], bins := [], queues := [], lastQueue := 15, mem := [], poison := [], spoiled := [], chip := [], grants := [], tlb2 := [],
    walks := [], l2 := [], treelets := [], eddy := [], marks := [], slices := [], tiles := [], drains := [], txns := [], owing := [], ports := [], regs := Regs.reset,
    zephyr := Zephyr.reset, cycle := 0, cur := none, agenda := [], choices := [], fresh := 0, reply := none }

end Sys2Proof.Machine
end

