-- ==== Sys2Proof/Machine/Operands.lean ====
section
/-! DEFINITION. Registers, lanes, latch, predicates and fibres of one wave: every operand form, its checks and its waits
(01 R15 to R18, R31 to R41; 03 R84 to R90, R98, R99). -/

namespace Sys2Proof.Machine

/-- The cell of physical register n in lane l. -/
def cellAt (n l : Nat) : Nat := 32 * n + l

/-- What an undefined cell reads as: a free value tagged POISON (02 R52, log entry 4). -/
def Wave.undefined (w : Wave) (i : Nat) : VCell := ⟨Config.undefCell w.uid w.epoch i, 0x3F, false⟩

/-- A register cell (01 R36). -/
def Wave.cell (w : Wave) (i : Nat) : VCell := w.regs.get (w.undefined i) i

/-- Write a register cell (01 R36). -/
def Wave.setCell (w : Wave) (i : Nat) (c : VCell) : Wave := { w with regs := w.regs.put i c }

/-- Make every cell that p selects undefined (02 R52): a new epoch numbers their free values. -/
def Wave.dropCells (w : Wave) (p : Nat → Bool) : Wave :=
  { w with regs := w.regs.filter (fun c => !p c.1), epoch := w.epoch + 1 }

/-- Make the listed cells undefined (02 R52). -/
def Wave.dropList (w : Wave) (cells : List Nat) : Wave := if cells.isEmpty then w else w.dropCells cells.contains

/-- A scalar register by physical number; an unwritten one is undefined (01 R11). -/
def Wave.scalar (w : Wave) (n : Nat) : Word := w.scalars.get (Config.undefScalar w.uid w.epoch n) n

/-- Scalar field value n names register SB + n (01 R32). -/
def Wave.sget (w : Wave) (n : Nat) : Word := w.scalar (w.sb + n)

def Wave.sset (w : Wave) (n : Nat) (v : Word) : Wave := { w with scalars := w.scalars.put (w.sb + n) v }

/-- A scalar pair: low word in the first register (00 R3, 01 R38). -/
def Wave.spair (w : Wave) (n : Nat) : Addr := w.sget (n + 1) ++ w.sget n

/-- The fibre of a lane slot. -/
def Wave.fib (w : Wave) (l : Nat) : Fibre := w.fibres.get Fibre.dead l

def Wave.setFib (w : Wave) (l : Nat) (f : Fibre) : Wave := { w with fibres := w.fibres.put l f }

/-- Change the fibre of every lane of a mask. -/
def Wave.mapFibs (w : Wave) (m : Word) (f : Nat → Fibre → Fibre) : Wave :=
  (lanesOf m).foldl (fun w l => w.setFib l (f l (w.fib l))) w

/-- The mask of the lanes whose fibre satisfies p. -/
def Wave.lanesWhere (w : Wave) (p : Fibre → Bool) : Word :=
  laneNums.foldl (fun m l => if p (w.fib l) then m ||| laneBit l else m) 0

/-- The live lane slots (01 R8). -/
def Wave.liveMask (w : Wave) : Word := w.lanesWhere (fun f => f.live)

/-- Predicate n of a lane; p0 reads 1 (01 R41). -/
def Fibre.pred (f : Fibre) (n : Nat) : Bool := n == 0 || f.preds.getLsbD n

/-- Write predicate n; writes to p0 are discarded (01 R41). -/
def Fibre.setPred (f : Fibre) (n : Nat) (v : Bool) : Fibre :=
  if n = 0 then f
  else { f with preds := if v then f.preds ||| BitVec.ofNat 8 (2 ^ n) else f.preds &&& ~~~(BitVec.ofNat 8 (2 ^ n)) }

/-- The lanes of a mask whose guard predicate is 1 (01 R41). -/
def Wave.guarded (w : Wave) (batch : Word) (g : Nat) : Word :=
  (lanesOf batch).foldl (fun m l => if (w.fib l).pred g then m ||| laneBit l else m) 0

/-- The lowest lane of a mask, 0 for none. -/
def lowest (m : Word) : Nat := ((lanesOf m).head?).getD 0

/-- The lowest lane of a mask that fails a test. -/
def firstLane (m : Word) (p : Nat → Bool) : Option Nat := (lanesOf m).find? p

/-! ### The latch (01 R39) -/

def LatchEntry.invalid : LatchEntry := { lanes := [], count := 0 }

def Wave.entry (w : Wave) (k : Nat) : LatchEntry := w.latch.get LatchEntry.invalid k

/-- A latch lane; an unlisted lane is undefined (02 R52). -/
def Wave.latchCell (w : Wave) (k l : Nat) : LCell :=
  ((w.entry k).lanes.find? l).getD ⟨Config.undefCell w.uid w.epoch (8192 + 32 * k + l), 0x3F⟩

/-- Lower every non-zero validity count by one (R39). -/
def Wave.ageLatch (w : Wave) : Wave :=
  { w with latch := w.latch.map (fun p => (p.1, { p.2 with count := p.2.count - 1 })) }

/-- Invalidate the latch (01 R40). -/
def Wave.clearLatch (w : Wave) : Wave :=
  { w with latch := w.latch.map (fun p => (p.1, { p.2 with count := 0 })) }

/-- Keep a value per lane of the active mask in entry L[LP], validity 2, and advance LP (R39). -/
def Wave.keep (w : Wave) (batch : Word) (v : Nat → LCell) : Wave :=
  { w with
    latch := w.latch.put w.lp { lanes := (lanesOf batch).map (fun l => (l, v l)), count := 2 }
    lp := (w.lp + 1) % 3 }

/-! ### Sources and operand forms -/

/-- Field value n of a vector source in lane l: a register of the window, or a latch entry from 125 on (01 R31). -/
def Wave.src (w : Wave) (f : BitVec 7) (l : Nat) : LCell :=
  if f.toNat < 125 then
    let c := w.cell (cellAt (w.wb + f.toNat) l)
    ⟨c.val, c.tag⟩
  else w.latchCell (f.toNat - 125) l

/-- Register field + j of a group in lane l (03 R84); as it stands where a load is on its way to it (log entry 12). -/
def Wave.grp (w : Wave) (f : BitVec 7) (j l : Nat) : LCell :=
  let c := w.cell (cellAt (w.wb + f.toNat + j) l)
  ⟨c.val, c.tag⟩

/-- A vector pair as 64 bits, low word in the first register (00 R3, 01 R38). -/
def Wave.pair (w : Wave) (f : BitVec 7) (l : Nat) : Addr := (w.grp f 1 l).val ++ (w.grp f 0 l).val

/-- The forms of register operands (03 R84). -/
inductive Opnd where
  /-- A vector register or a latch entry, read. -/
  | src (f : BitVec 7)
  /-- A group of k vector registers whose first is a multiple of al; never a latch entry. -/
  | vec (f : BitVec 7) (k al : Nat)
  /-- A group of k scalar registers. -/
  | scl (f : BitVec 7) (k : Nat)
  deriving DecidableEq, Repr

/-- A window, group, alignment or latch-validity fault of one operand: ILLEGAL_OPERAND (01 R31, R32, R38, R39; 03 R84). -/
def Opnd.bad (w : Wave) : Opnd → Bool
  | .src f => if f.toNat < 125 then w.need ≤ w.wb + f.toNat else (w.entry (f.toNat - 125)).count == 0
  | .vec f k al => f.toNat % al != 0 || 125 < f.toNat + k || w.need < w.wb + f.toNat + k
  | .scl f k => w.sneed < w.sb + f.toNat + k

/-- The physical vector registers an operand names. -/
def Opnd.regs (w : Wave) : Opnd → List Nat
  | .src f => if f.toNat < 125 then [w.wb + f.toNat] else []
  | .vec f k _ => (List.range k).map (fun j => w.wb + f.toNat + j)
  | .scl _ _ => []

/-- Some named register is EMPTY in some lane of the mask (01 R37). -/
def Wave.emptyIn (w : Wave) (ops : List Opnd) (m : Word) : Bool :=
  ops.any (fun o => (o.regs w).any (fun n => (lanesOf m).any (fun l => (w.cell (cellAt n l)).empty)))

/-- The registers that tile instructions have not finished writing (05 R173). -/
def Wave.tileBusy (w : Wave) : List Nat := w.tx.flatMap (fun o => if o.done then [] else o.busy)

/-- The four counters (01 R44). -/
inductive Ctr where
  | ld | st | cp | tx
  deriving DecidableEq, Repr

def Wave.ops (w : Wave) : Ctr → List Op
  | .ld => w.ld
  | .st => w.st
  | .cp => w.cp
  | .tx => w.tx

def Wave.setOps (w : Wave) (c : Ctr) (os : List Op) : Wave :=
  match c with
  | .ld => { w with ld := os }
  | .st => { w with st := os }
  | .cp => { w with cp := os }
  | .tx => { w with tx := os }

/-- A counter's value (01 R44). -/
def Wave.counter (w : Wave) (c : Ctr) : Nat := (w.ops c).length

/-- Count an operation at issue (01 R44). -/
def Wave.count (w : Wave) (c : Ctr) (o : Op) : Wave := w.setOps c (w.ops c ++ [o])

/-- Remove the leading operations whose event has occurred: decrements take effect in issue order (04 R140). -/
def dropDone : List Op → List Op
  | [] => []
  | o :: os => if o.done then dropDone os else o :: os

/-- What an instruction asks before it executes: its guard, whether a field is reserved, its operands, further operand faults, its
tag check, its counter, whether it is a tile instruction, and what it reads in other lanes (03 R98, R99; 14 R401). -/
structure Pre where
  guard : Option Nat := some 0
  reserved : Bool := false
  ops : List Opnd := []
  badOperand : Wave → Bool := fun _ => false
  tags : Wave → Word → Option Nat := fun _ _ => none
  counter : Option Ctr := none
  tile : Bool := false
  /-- Storage it reads outside the lanes that pass the guard. -/
  reach : Wave → List Site := fun _ => []

/-- The lanes of source registers that are read in all lane slots under M = 00 (05 R164; 14 R401). -/
def allSlots (m : BitVec 2) (ops : List Opnd) (w : Wave) : List Site :=
  if m = 0 then ops.flatMap (fun o => (o.regs w).flatMap (fun n => laneNums.map (fun l => Site.register w.uid (cellAt n l)))) else []

/-- How an issue begins: no lane passes the guard, it runs in some lanes, it waits, or it traps in a lane. -/
inductive Entry where
  | skip
  | run (lanes : Word)
  | wait
  | trap (c : Cause) (lane : Nat)
  deriving DecidableEq, Repr

/-- The checks and waits before an instruction's effect, in the order of R98 (03 R98, R99; 01 R37, R45; 05 R173); R2's limit of outstanding
requests is not among them (log entry 10). -/
def Wave.enter (w : Wave) (p : Pre) (batch : Word) : Entry :=
  let lanes := match p.guard with
    | some g => w.guarded batch g
    | none => batch
  let full := match p.counter with
    | some c => decide (63 ≤ w.counter c)
    | none => false
  if lanes = 0 then (if full then .wait else .skip)
  else if p.reserved then .trap .reservedField (lowest batch)
  else if p.ops.any (Opnd.bad w) || p.badOperand w then .trap .illegalOperand (lowest batch)
  else if full then .wait
  else if w.emptyIn p.ops batch then .wait
  else if !p.tile && p.ops.any (fun o => (o.regs w).any w.tileBusy.contains) then .wait
  else match p.tags w lanes with
    | some l => .trap .formatMismatch l
    | none => .run lanes

/-- A tag check with a fixed format: that tag or X32 in every checked lane (02 R53). -/
def tagFixed (t : BitVec 6) (c : LCell) : Bool := c.tag == t || c.tag == 0

/-- Check a source field, in the lanes that pass the guard, against a fixed format. -/
def checkSrc (f : BitVec 7) (t : BitVec 6) (w : Wave) (m : Word) : Option Nat :=
  firstLane m (fun l => !tagFixed t (w.src f l))

/-- Check a register group of k against a fixed format. -/
def checkGrp (f : BitVec 7) (k : Nat) (t : BitVec 6) (w : Wave) (m : Word) : Option Nat :=
  firstLane m (fun l => (List.range k).any (fun j => !tagFixed t (w.grp f j l)))

/-- The lowest failing lane of several checks (02 R53). -/
def allChecks (cs : List (Wave → Word → Option Nat)) (w : Wave) (m : Word) : Option Nat :=
  cs.foldl (fun acc c => match acc, c w m with
    | none, r => r
    | some a, none => some a
    | some a, some b => some (min a b)) none

/-- Write one register in the lanes of a mask: value and tag per lane, EMPTY clear (01 R36). -/
def Wave.writeReg (w : Wave) (n : Nat) (m : Word) (f : Nat → LCell) : Wave :=
  (lanesOf m).foldl (fun w l => w.setCell (cellAt n l) ⟨(f l).val, (f l).tag, false⟩) w

/-- Write register field d. -/
def Wave.writeField (w : Wave) (d : BitVec 7) (m : Word) (f : Nat → LCell) : Wave := w.writeReg (w.wb + d.toNat) m f

/-- Write a pair with one tag, low word in the first register (00 R3). -/
def Wave.writePair (w : Wave) (d : BitVec 7) (m : Word) (tag : BitVec 6) (f : Nat → Addr) : Wave :=
  (w.writeReg (w.wb + d.toNat) m (fun l => ⟨(f l).setWidth 32, tag⟩)).writeReg (w.wb + d.toNat + 1) m
    (fun l => ⟨((f l) >>> 32).setWidth 32, tag⟩)

/-! ### Program counters, batches, JOIN and yielding (01 R15 to R18) -/

/-- Held back: its batch yielded, and a fibre that this marked owed has not run since (R18; log entry 40). -/
def Wave.heldBack (w : Wave) (l : Nat) : Bool := laneNums.any (fun k => (w.fib k).live && (w.fib k).owed.getLsbD l)

/-- A fibre that may be selected (R15). -/
def Wave.eligible (w : Wave) (l : Nat) : Bool := (w.fib l).live && (w.fib l).join.isNone && !w.heldBack l

/-- The smallest PC among the eligible fibres and the fibres at it (R15). -/
def Wave.batch (w : Wave) : Option (Addr × Word) :=
  let ls := laneNums.filter w.eligible
  match ls with
  | [] => none
  | l :: rest =>
    let pc := rest.foldl (fun (p : Addr) k => if (w.fib k).pc.toNat < p.toNat then (w.fib k).pc else p) (w.fib l).pc
    some (pc, ls.foldl (fun m k => if (w.fib k).pc = pc then m ||| laneBit k else m) 0)

/-- The address after the issue's instruction (03 R92). -/
def Issue.next (i : Issue) : Addr := i.pc + BitVec.ofNat 64 i.len

/-- Move the fibres of the batch past the instruction and clear their owed marks (R18). -/
def Wave.advance (w : Wave) (i : Issue) : Wave :=
  w.mapFibs i.batch (fun _ f => { f with pc := i.next, owed := 0 })

/-- What every completed issue does: the latch ages (R39), the batch moves on. -/
def Wave.finish (w : Wave) (i : Issue) : Wave :=
  { (w.ageLatch.advance i) with wait := none }

/-- Set the region entry of the batch to the next instruction (01 R46); GENRAYs before it are kept from now on (07 R226). -/
def Wave.endRegion (w : Wave) (i : Issue) : Wave :=
  w.mapFibs i.batch (fun _ f => { f with region := i.next, fresh := false })

/-- A batch issued a yielding instruction: every other live fibre that is not parked is owed to it (R18). -/
def Wave.yieldFrom (w : Wave) (batch : Word) : Wave :=
  w.mapFibs (w.liveMask &&& ~~~batch) (fun _ f => if f.join.isNone then { f with owed := f.owed ||| batch } else f)

/-- A PARKC ends: its batch moves on and yields (01 R18, 07 R237). -/
def Wave.endPark (w : Wave) : Wave :=
  match w.wait with
  | some (.parkc iss _) => (w.finish iss).yieldFrom iss.batch
  | some .retry => w
  | some (.bar _) => w
  | some (.monw _) => w
  | some (.regreq _) => w
  | none => w

/-- Mark an operation's event as occurred and let the counter fall as R140 allows; a fall ends a PARKC (07 R237). -/
def Wave.opDone (w : Wave) (c : Ctr) (uid : Nat) : Wave :=
  let w1 := w.setOps c (dropDone ((w.ops c).map (fun o => if o.uid = uid then { o with done := true } else o)))
  if w1.counter c < w.counter c then w1.endPark else w1

/-- Release the fibres parked at the largest n when every live fibre is parked (01 R17). -/
def Wave.releaseJoin (w : Wave) : Wave :=
  let live := laneNums.filter (fun l => (w.fib l).live)
  if live.isEmpty || live.any (fun l => (w.fib l).join.isNone) then w
  else
    let n := live.foldl (fun n l => max n ((w.fib l).join.getD 0)) 0
    live.foldl (fun w l =>
      let f := w.fib l
      if f.join = some n then w.setFib l { f with join := none, region := f.pc, fresh := false } else w) w

/-- End the fibres of a mask (01 R10): they issue nothing further and their lane slots' registers become undefined, those that a load is on
its way to EMPTY still (01 R37; 02 R52); they are of no load's batch any more (01 R48). -/
def Wave.endFibres (w : Wave) (m : Word) : Wave :=
  let w1 := w.mapFibs m (fun _ f => { f with live := false, join := none, owed := 0, bound := .none })
  let w2 : Wave := { w1 with
    epoch := w1.epoch + 1
    ld := w1.ld.map (fun o => { o with iss := { o.iss with batch := o.iss.batch &&& ~~~m } }) }
  let left (c : Nat × VCell) : Option (Nat × VCell) :=
    if m.getLsbD (c.1 % 32) then (if c.2.empty then some (c.1, { w2.undefined c.1 with empty := true }) else none) else some c
  ({ w2 with regs := w2.regs.filterMap left }).releaseJoin

/-- The lane's fibre identifier (01 R8). -/
def Wave.fibId (w : Wave) (l : Nat) : Word := BitVec.ofNat 32 (l + 32 * (w.fib l).gen.toNat)

end Sys2Proof.Machine
end

