-- ==== Sys2Proof/Machine/Flags.lean ====
section
/-! DEFINITION. The wave's floating-point status: sticky flags and rounding mode (01 R43; 02 R67, R82). -/

namespace Sys2Proof.Machine

/-- FSR.RM (01 R43). -/
def Wave.rm (w : Wave) : RM := rmOf (w.fsr.toNat / 256)

/-- OR flags into FSR[4:0] (01 R43). -/
def Wave.raise (w : Wave) (f : Flags) : Wave := { w with fsr := w.fsr ||| f.setWidth 32 }

/-- The bits of FSR that software can write; the others read zero (00 R4, 01 R43). -/
def fsrMask : Word := 0x31F

/-- SETSR of FSR (01 R43, 07 R237). -/
def Wave.setFsr (w : Wave) (v : Word) : Wave := { w with fsr := v &&& fsrMask }

/-- The union of the flags that the lanes of a mask raise (01 R43). -/
def flagsOver (m : Word) (f : Nat → Flags) : Flags := (lanesOf m).foldl (fun acc l => acc ||| f l) 0

end Sys2Proof.Machine
end

