-- ==== Sys2Proof/Machine/Wire.lean ====
section
/-! DEFINITION. Velile Link flits: CRC, layout, transaction units, and a port's sending side (14 R390 to R392). -/

namespace Sys2Proof.Machine

/-- One bit step of CRC-64 ECMA-182, not reflected (14 R390). -/
def crcBit (c : Nat) : Nat :=
  if 2 ^ 63 ≤ c then (2 * c % 2 ^ 64).xor 0x42F0E1EBA9EA3693 else 2 * c

/-- One byte of the CRC. -/
def crcByte (c : Nat) (b : Byte) : Nat :=
  let x := c.xor (b.toNat * 2 ^ 56)
  crcBit (crcBit (crcBit (crcBit (crcBit (crcBit (crcBit (crcBit x)))))))

/-- CRC-64 over bytes, initial value 0 (14 R390). -/
def crc64 (bs : List Byte) : Nat := bs.foldl crcByte 0

/-- Bytes padded with zeros to a length. -/
def padTo (n : Nat) (bs : List Byte) : List Byte := (bs ++ List.replicate (n - bs.length) 0).take n

/-- A transaction's units: header, data units, mask unit (14 R391). -/
def LinkTx.units (t : LinkTx) : List Byte :=
  let n := (t.data.length + 15) / 16
  let hdr := bytesOf 1 t.op ++ bytesOf 1 n ++ bytesOf 2 t.tag ++ bytesOf 1 t.scope ++
    bytesOf 1 (if t.mask.isSome then 1 else 0) ++ bytesOf 2 0 ++ bytesOf 8 t.addr
  hdr ++ padTo (16 * n) t.data ++ (match t.mask with
    | some m => padTo 16 m
    | none => [])

/-- A flit of a kind with its sequence fields and payload (14 R390). -/
def flitBytes (seq ack kind cls did : Nat) (payload : List Byte) : List Byte :=
  let body := bytesOf 2 seq ++ bytesOf 2 ack ++ bytesOf 1 kind ++ bytesOf 1 cls ++ bytesOf 1 did ++ [0] ++ padTo 240 payload
  body ++ bytesOf 8 (crc64 body)

/-- Send waiting transactions while fewer than 64 flits are held, highest class first, oldest first in a class (14 R392, R393). -/
def Port.pump (did : Nat) : Nat → Port → Port
  | 0, p => p
  | fuel + 1, p =>
    if !p.up || 64 ≤ p.sent.length then p
    else
      let best := p.out.foldl (fun m t => max m t.cls) 0
      match p.out.find? (fun t => t.cls == best) with
      | none => p
      | some t =>
        let f := flitBytes p.txSeq p.rxSeq 1 t.cls did t.units
        Port.pump did fuel { p with
          out := p.out.erase t
          sent := p.sent ++ [(p.txSeq, f)]
          wire := p.wire ++ [f]
          txSeq := (p.txSeq + 1) % 65536 }

/-- Queue a transaction on a port and send what can be sent. -/
def Port.send (did : Nat) (p : Port) (t : LinkTx) : Port :=
  Port.pump did (p.out.length + 1) { p with out := p.out ++ [t] }

/-- The transactions of a payload, by its units; a unit of zeros is unused; a header of a reserved form is discarded with its units and
counted (14 R391; log entry 29). -/
def parseUnits : Nat → List Byte → List LinkTx → Nat → List LinkTx × Nat
  | 0, _, acc, bad => (acc, bad)
  | fuel + 1, bs, acc, bad =>
    if bs.length < 16 then (acc, bad)
    else
      let byteAt (i : Nat) : Nat := (bs.getD i 0).toNat
      let op := byteAt 0
      if (bs.take 16).all (fun b => b == 0) then parseUnits fuel (bs.drop 16) acc bad
      else
        let n := byteAt 1
        let masked := byteAt 5
        let maskable := op = 2 ∨ op = 8
        let used := 16 + 16 * n + (if masked = 1 then 16 else 0)
        let other := byteAt 6 + byteAt 7
        if op = 0 ∨ 10 < op ∨ 8 < n ∨ 1 < masked ∨ (masked = 1 ∧ ¬ maskable) ∨ other ≠ 0 then parseUnits fuel (bs.drop used) acc (bad + 1)
        else
          let t : LinkTx := {
            op := op
            tag := ofBytes ((bs.drop 2).take 2)
            cls := 0
            scope := byteAt 4
            addr := ofBytes ((bs.drop 8).take 8)
            data := (bs.drop 16).take (16 * n)
            mask := if masked = 1 then some ((bs.drop (16 + 16 * n)).take 16) else none }
          parseUnits fuel (bs.drop used) (acc ++ [t]) bad

end Sys2Proof.Machine
end

