-- ==== Sys2Proof/Machine/Memory.lean ====
section
/-! DEFINITION. Memory as bytes at physical keys, coded blocks, link transactions, writes performed at the home with their monitors
and invalidations, and Update-only copies (08 R247 to R254; 09 R273 to R284; 14 R391 to R394). -/

namespace Sys2Proof.Machine

/-! ### Named parts of the state -/

def State.core (s : State) (cid : Nat) : Core := s.cores.get Core.fresh cid
def State.setCore (s : State) (cid : Nat) (c : Core) : State := { s with cores := s.cores.put cid c }
def State.setL1 (s : State) (cid : Nat) (l : L1) : State := s.setCore cid { s.core cid with l1 := l }
def State.setWave (s : State) (k : Nat) (w : Wave) : State := { s with waves := s.waves.put k w }
def State.modWave (s : State) (k : Nat) (f : Wave → Wave) : State := { s with waves := s.waves.modify k f }
def State.setCtx (s : State) (c : Nat) (x : Ctx) : State := { s with ctxs := s.ctxs.put c x }
def State.modCtx (s : State) (c : Nat) (f : Ctx → Ctx) : State := { s with ctxs := s.ctxs.modify c f }
def State.port (s : State) (n : Nat) : Port := s.ports.get Port.fresh n
def State.setPort (s : State) (n : Nat) (p : Port) : State := { s with ports := s.ports.put n p }
def State.slice (s : State) (n : Nat) : Slice := s.slices.get { entries := [], relist := [], checked := 0 } n
def State.setSlice (s : State) (n : Nat) (x : Slice) : State := { s with slices := s.slices.put n x }
def State.setMem (s : State) (m : List Host.Cell) : State := { s with mem := m }
def State.tick1 (s : State) : State := { s with fresh := s.fresh + 1 }

/-- The core, partition and slot of a wave key (09 R286). -/
def cidOf (k : Nat) : Nat := k / 288
def partOf (k : Nat) : Nat := k / 48 % 6
def slotOf (k : Nat) : Nat := k % 48
/-- The cluster of a core (01 R42). -/
def clusterOf (cid : Nat) : Nat := cid / 8

/-- An implementation's free choice among n: the next number of the choices, 0 when none are left (log entry 1). -/
def State.pick (s : State) (n : Nat) : State × Nat :=
  match s.choices with
  | [] => (s, 0)
  | c :: cs => ({ s with choices := cs }, c % n)

/-- A list with a number in it. -/
def listed (n : Nat) (ns : List Nat) : List Nat := if ns.contains n then ns else ns ++ [n]

/-- The own device's index in the domain (14 R388). -/
def State.did (s : State) : Nat := s.regs.domain.toNat % 8

/-! ### Bytes -/

/-- The key of a physical address of a target: 0 to 7 a device, 8 host memory (09 R291). -/
def physKey (target pa : Nat) : Nat := target * 2 ^ 48 + pa
def targetOf (key : Nat) : Nat := key / 2 ^ 48
def paOf (key : Nat) : Nat := key % 2 ^ 48
def lineOf (key : Nat) : Nat := key / 128
def tileOf (key : Nat) : Nat := key / 256

/-- The byte lies behind this device's memory controllers or its PCIe endpoint. -/
def State.isLocal (s : State) (key : Nat) : Bool := targetOf key == s.did || targetOf key == 8

/-- One byte of memory; an unlisted one reads 0x00 (log entry 3). -/
def State.byte (s : State) (key : Nat) : Byte := SMap.get s.mem 0 key

/-- Write one byte, keeping the canonical form. -/
def State.setByte (s : State) (key : Nat) (b : Byte) : State := s.setMem (SMap.set s.mem 0 key b)

/-- Memory's canonical form: addresses strictly rising and no entry equal to what an unlisted address reads as. -/
def memoryWf (m : List Host.Cell) : Bool := SMap.canonical m 0

def State.bytes (s : State) (key n : Nat) : List Byte := (List.range n).map (fun i => s.byte (key + i))

/-- A little-endian number of n bytes (00 R3). -/
def State.load (s : State) (key n : Nat) : Nat := ofBytes (s.bytes key n)

/-- Write cells of (key, byte). -/
def State.putCells (s : State) (cs : List (Nat × Byte)) : State := cs.foldl (fun s c => s.setByte c.1 c.2) s

/-- The cells of bytes laid from a key upward. -/
def cellsAt (key : Nat) (bs : List Byte) : List (Nat × Byte) := (List.range bs.length).map (fun i => (key + i, bs.getD i 0))

/-- Write bytes from a key upward. -/
def State.putBytes (s : State) (key : Nat) (bs : List Byte) : State := s.putCells (cellsAt key bs)

/-! ### Coded blocks (09 R282 to R284) -/

/-- Where the shadow entry of a block of own memory lies, for frames below MDSPAN (R282). -/
def State.shadowKey (s : State) (key : Nat) : Option Nat :=
  if targetOf key = s.did ∧ paOf key < s.regs.mdspan.toNat then
    some (physKey s.did (s.regs.mdbase.toNat + 2 * (paOf key / 256)))
  else none

def State.shadow (s : State) (key : Nat) : Nat :=
  match s.shadowKey key with
  | some k => s.load k 2
  | none => 0

/-- A block of own memory that is coded as its shadow entry says; control cores, the host and other devices give physical addresses
(R283; log entry 27). -/
def State.codedAt (s : State) (key : Nat) : Bool := s.shadow key != 0

/-- The 256 bytes a reader of any level but registers sees of the block at a key; none when the codec rejects it, or
its shadow entry's reserved bits are not zero (00 R4; R280, R282, R283). -/
def State.blockView (s : State) (key : Nat) (coded : Bool) : Option (List Byte) :=
  let base := key / 256 * 256
  let raw := s.bytes base 256
  let sh := s.shadow key
  if coded && 1024 ≤ sh then none
  else if coded && sh / 256 % 4 != 3 then decodeBlock (sh % 256) raw else some raw

/-- n bytes within one block, expanded where the page is coded. -/
def State.view (s : State) (key n : Nat) (coded : Bool) : Option (List Byte) :=
  if coded then (s.blockView key true).map (fun b => (b.drop (key % 256)).take n) else some (s.bytes key n)

/-- Write cells of one block of a coded page: merge, code canonically and keep the EP; EP 3 takes the bytes as they are (R284);
so does a block that the codec rejects (log entry 59), and one that no shadow entry governs (log entry 27). -/
def State.putCoded (s : State) (base : Nat) (cs : List (Nat × Byte)) : State :=
  let sh := s.shadow base
  if sh / 256 % 4 = 3 then s.putCells cs
  else
    match s.blockView base true with
    | none => s.putCells cs
    | some b =>
      let coded := encodeBlock (cs.foldl (fun (b : List Byte) c => b.set (c.1 % 256) c.2) b)
      match s.shadowKey base with
      | some k => (s.putBytes base coded.2).putBytes k (bytesOf 2 (sh / 256 * 256 + coded.1))
      | none => s.putCells cs

/-- Write cells, through the codec where the page is coded. -/
def State.putView (s : State) (cs : List (Nat × Byte)) (coded : Bool) : State :=
  if coded then
    ((cs.map (fun c => c.1 / 256)).dedup).foldl
      (fun s b => s.putCoded (256 * b) (cs.filter (fun c => c.1 / 256 == b))) s
  else s.putCells cs

/-- Zero a range of bytes (13 R376). -/
def State.zeroRange (s : State) (key n : Nat) : State := s.setMem (s.mem.filter (fun c => c.1 < key || key + n ≤ c.1))

/-- Put a range of bytes. -/
def State.putRange (s : State) (key : Nat) (bs : List Byte) : State :=
  s.setMem (s.mem.filter (fun c => c.1 < key) ++ (cellsAt key bs).filter (fun c => c.2 != 0) ++
    s.mem.filter (fun c => key + bs.length ≤ c.1))

/-! ### Links as seen by accesses (14 R388, R391 to R394) -/

/-- The lowest port that is up to a peer. -/
def State.portTo (s : State) (peer : Nat) : Option Nat :=
  (List.range 8).find? (fun n => (s.port n).up && (s.port n).peer == peer)

/-- Count an operation lost for want of a link on the lowest port whose LINKCTL names the peer (14 R388, R394). -/
def State.countLost (s : State) (peer : Nat) : State :=
  match (List.range 8).find? (fun n => (s.port n).expect == peer) with
  | some n => s.setPort n { s.port n with lost := min 255 ((s.port n).lost + 1) }
  | none => s

/-- The traffic class of a request: its own, or the priority of the wave whose issue is under way (14 R393). -/
def State.requestClass (s : State) (cls : Nat) : Nat :=
  match s.cur.bind (fun i => s.waves.find? i.wave) with
  | some w => max cls (w.prio % 4)
  | none => cls

/-- The operation changes memory at its home: write, atomic, ENQ, DEQ, drain (14 R391; log entry 19). -/
def LinkTx.alters (t : LinkTx) : Bool :=
  t.op == 2 || t.op == 3 || t.op == 4 || t.op == 5 || (t.op == 8 && (t.scope < 16 || 64 ≤ t.scope))

/-- A transaction that was sent to change memory at another device. -/
def Txn.alters (t : Txn) : Bool :=
  match t.purpose with
  | .fill _ => false
  | .stale => false
  | .monw _ _ _ _ => false
  | .invalidate _ => false
  | .ret _ _ _ _ => true
  | .engine _ => true
  | .other => true
  | .join _ _ _ => false
  | .delta _ _ _ => true
  | .ask _ _ _ _ => false
  | .halve _ => false
  | .element _ => false

/-- A fill that has not been answered brings back bytes that are too old to be kept. -/
def Txn.age (p : Nat → Bool) (t : Txn) : Txn :=
  match t.purpose with
  | .fill line => if p line then { t with purpose := .stale } else t
  | _ => t

/-- The own L2 forgets lines of other devices, those on their way included (06 R181, R198; 08 R244, R245). -/
def State.forgetLines (s : State) (p : Nat → Bool) : State :=
  { s with l2 := s.l2.filter (fun (l : Nat × List Byte) => !p l.1), txns := s.txns.map (Txn.age p) }

/-- Send a transaction to a peer that has a link up; its token is the fresh number. The own L2 forgets a line that it changes. -/
def State.sendTo (s : State) (peer : Nat) (t : LinkTx) (p : Purpose) : Option (State × Nat) :=
  match s.portTo peer with
  | none => none
  | some n =>
    let token := s.fresh
    let s1 := s.tick1.setPort n ((s.port n).send s.did { t with tag := token % 65536, cls := s.requestClass t.cls })
    let s2 := if t.alters then s1.forgetLines (fun l => l == lineOf (physKey peer t.addr)) else s1
    some ({ s2 with txns := s2.txns ++ [⟨token, peer, t.addr, p⟩] }, token)

/-- A change of a line of another device has been sent and not answered: reads of the line wait for it (06 R181). -/
def State.altering (s : State) (line : Nat) : Bool := s.txns.any (fun t => t.alters && lineOf (physKey t.peer t.addr) == line)

/-- A transaction unit with no data. -/
def LinkTx.of (op cls scope addr : Nat) (data : List Byte) (mask : Option (List Byte)) : LinkTx :=
  { op := op, tag := 0, cls := cls, scope := scope, addr := addr, data := data, mask := mask }

/-- Change the operations of every wave and of retired waves, counted on ST or LD; what has nothing left to wait for after its wave has
retired is gone. -/
def State.mapOps (s : State) (f : Op → Op) : State :=
  let wave (w : Wave) : Wave := { w with ld := w.ld.map f, st := w.st.map f }
  { s with
    waves := s.waves.map (fun p => (p.1, wave p.2))
    away := s.away.map (fun p => (p.1, wave p.2))
    owing := (s.owing.map (fun x => { x with op := f x.op })).filter (fun x => !(x.op.waits.isEmpty && x.op.adds.isEmpty)) }

/-- Forget a token that operations and commands wait for. -/
def State.clearToken (s : State) (token : Nat) : State :=
  let entry (e : QEntry) : QEntry := { e with waits := e.waits.filter (· != token) }
  let s1 := s.mapOps (fun o => { o with waits := o.waits.filter (· != token) })
  { s1 with
    ctxs := s1.ctxs.map (fun c => (c.1, { c.2 with
      queues := c.2.queues.map (fun q => (q.1, { q.2 with entries := q.2.entries.map entry })) })) }

/-- The stores that wrote some of these bytes wait for the answers of the writes that carry them away (01 R44; 06 R198). -/
def State.attach (s : State) (keys tokens : List Nat) : State :=
  if tokens.isEmpty then s
  else s.mapOps (fun o => if o.busy.any keys.contains && o.kind == .store then { o with waits := o.waits ++ tokens } else o)

/-- Answer a transaction that another device sent earlier, with a status and the returned bytes (14 R391). -/
def State.answerPeer (s : State) (a : Asker) (status : Nat) (data : List Byte) : State :=
  match s.portTo a.did with
  | some n => s.setPort n ((s.port n).send s.did { LinkTx.of 9 a.cls status a.addr data none with tag := a.tag })
  | none => s

/-! ### Monitors (06 R197, 08 R252 to R254) -/

/-- A MONW condition on the word m and the value b (06 R197). -/
def monHolds (cond : Nat) (m b : Word) : Bool :=
  if cond = 0 then m == b
  else if cond = 1 then m != b
  else if cond = 2 then m.slt b
  else if cond = 3 then m.sle b
  else if cond = 4 then b.slt m
  else if cond = 5 then b.sle m
  else if cond = 6 then m.ult b
  else if cond = 7 then m.ule b
  else if cond = 8 then b.ult m
  else if cond = 9 then b.ule m
  else false

/-- The home slice of a physical address (09 R273). -/
def sliceOf (pa : Nat) : Nat :=
  let h := pa / 256
  ((((h % 4096).xor (h / 2 ^ 12 % 4096)).xor (h / 2 ^ 24 % 4096)).xor (h / 2 ^ 36 % 16)) % 192

/-- A wave parked on MONW goes on: its batch starts a region at the next instruction (06 R197, 01 R46). -/
def Wave.wakeMon (w : Wave) : Wave :=
  match w.wait with
  | some (.monw p) =>
    { w.mapFibs p.iss.batch (fun _ f => { f with region := f.pc, fresh := false }) with wait := none }
  | _ => w

/-- Set a wave's bit in its switched-out context's wake vector (08 R254, 13 R381). -/
def State.setWakeBit (s : State) (ctx k : Nat) : State :=
  match s.ctxs.find? ctx with
  | none => s
  | some c =>
    let key := physKey s.did (c.image.toNat + 0x1000 + k / 8)
    s.setByte key (s.byte key ||| BitVec.ofNat 8 (2 ^ (k % 8)))

/-- Wake the wave of a monitor entry: here, in the wake vector of a switched-out context, or on another device (R253, R254). -/
def State.wake (s : State) (m : Mon) : State :=
  match m.peer with
  | some (d, tag, cls) =>
    match s.portTo d with
    | some n => s.setPort n ((s.port n).send s.did { LinkTx.of 10 cls 0 (paOf m.key) [] none with tag := tag })
    | none => s
  | none =>
    let go (p : Nat × Wave) : Nat × Wave := if p.2.uid = m.uid then (p.1, p.2.wakeMon) else p
    let out : Bool := match s.ctxs.find? m.ctx with
      | some c => c.state == 0
      | none => false
    if out then s.setWakeBit m.ctx m.wave
    else { s.modWave m.wave (fun w => if w.uid = m.uid then w.wakeMon else w) with away := s.away.map go }

/-- The word of a monitor entry, expanded on a CODED page, meets its condition (R253; 09 R283). -/
def State.monMet (s : State) (m : Mon) : Bool :=
  match s.view m.key 4 (if m.peer.isSome then s.codedAt m.key else m.coded) with
  | some bs => monHolds m.cond (BitVec.ofNat 32 (ofBytes bs)) m.val
  | none => false

/-- Wake and free the entries of a word whose condition the word now meets (R253). -/
def State.notify (s : State) (key : Nat) : State :=
  let n := sliceOf (paOf key)
  let sl := s.slice n
  let hit (m : Mon) : Bool := m.key == key && s.monMet m
  if sl.entries.any hit then
    (sl.entries.filter hit).foldl State.wake (s.setSlice n { sl with entries := sl.entries.filter (fun m => !hit m) })
  else s

/-! ### Invariant copies and poison (08 R249, 09 R277) -/

/-- Drop the invariant copies of a line on this device and send an invalidation to every other marked device (R249). -/
def State.invalidateMarks (s : State) (line : Nat) : State :=
  match s.marks.find? line with
  | none => s
  | some devs =>
    let s1 := { s with
      marks := s.marks.del line
      cores := s.cores.map (fun c => (c.1, { c.2 with l1 := { c.2.l1 with inv := c.2.l1.inv.filter (fun i => i.line != line) } }))
      treelets := s.treelets.map (fun t => (t.1, t.2.filter (fun i => i.line != line))) }
    (devs.filter (· != s.did)).foldl (fun s d =>
      match s.sendTo d (LinkTx.of 7 0 3 (paOf (128 * line)) [] none) (.invalidate line) with
      | some (s', _) => s'
      | none => s) s1

/-- Mark a line as perhaps copied by a device (R249). -/
def State.mark (s : State) (line d : Nat) : State :=
  let devs := s.marks.get [] line
  if devs.contains d then s else { s with marks := s.marks.put line (devs ++ [d]) }

/-- A store that overwrites a whole line clears its poison (09 R277). -/
def State.clearPoison (s : State) (cs : List (Nat × Byte)) : State :=
  { s with poison := s.poison.filter (fun l => ((cs.filter (fun c => lineOf c.1 == l)).length < 128)) }

/-- The lines of a slot that hold the coded bytes of its block (09 R280, R282). -/
def State.slotLines (s : State) (key : Nat) : List Nat :=
  let first := key / 256 * 2
  if codedLength (s.shadow key % 256) (s.bytes (key / 256 * 256) 256) ≤ 128 then [first] else [first, first + 1]

/-- The lines of memory that a reader of a byte consumes: those of a coded block that a level expands, else the byte's own. -/
def State.linesRead (s : State) (key : Nat) (coded : Bool) : List Nat :=
  let sh := s.shadow key
  if coded && sh / 256 % 4 != 3 && sh / 64 % 4 != 0 then s.slotLines key else [lineOf key]

/-- A read of the byte consumes poison (09 R277). -/
def State.poisoned (s : State) (key : Nat) (coded : Bool) : Bool := (s.linesRead key coded).any s.poison.contains

/-- Perform cells at their home on this device: bytes, invalidations, monitors (R241, R249, R253). -/
def State.homePut (s : State) (cs : List (Nat × Byte)) (coded : Bool) : State :=
  let s2 := ((cs.map (fun c => lineOf c.1)).dedup).foldl State.invalidateMarks (s.putView cs coded)
  ((cs.map (fun c => c.1 / 4 * 4)).dedup).foldl State.notify s2

/-- Perform a store's cells at their home: a line that they overwrite wholly loses its poison (09 R277). -/
def State.homeWrite (s : State) (cs : List (Nat × Byte)) (coded : Bool) : State := (s.clearPoison cs).homePut cs coded

/-! ### Atomic functions and Update-only copies (06 R192, 08 R247, R248) -/

/-- The new value of an atomic by its opcode's offset from 0x60 (R192). -/
def atomicFn (kind : Nat) (m b c : Word) : Word :=
  if kind = 0 then m + b
  else if kind = 1 then (fadd .rne m b).1
  else if kind = 2 then (if b.slt m then b else m)
  else if kind = 3 then (if m.slt b then b else m)
  else if kind = 4 then (if b.ult m then b else m)
  else if kind = 5 then (if m.ult b then b else m)
  else if kind = 6 then m &&& b
  else if kind = 7 then m ||| b
  else if kind = 8 then m ^^^ b
  else if kind = 9 then b
  else if m = b then c else m

/-- The identity an Update-only copy starts at (R247). -/
def updIdentity (kind : Nat) : Word :=
  if kind = 1 then 0x80000000
  else if kind = 2 then 0x7FFFFFFF
  else if kind = 3 then 0x80000000
  else if kind = 4 ∨ kind = 6 then 0xFFFFFFFF
  else 0

/-- The words of a line. -/
def State.lineWords (s : State) (line : Nat) : List Word :=
  (List.range 32).map (fun i => BitVec.ofNat 32 (s.load (128 * line + 4 * i) 4))

/-- A line whose contents an error has made unknown is poisoned at its home; what went to another device is lost (14 R401; log entry 67). -/
def State.spoilLine (s : State) (line : Nat) : State :=
  if !s.isLocal (128 * line) then s.countLost (targetOf (128 * line))
  else if s.poison.contains line then s else { s with poison := s.poison ++ [line] }

/-- Combine an Update-only copy into its home line, word by word (R248); a line of another device takes it as a transaction (14 R391). -/
def State.combineUpd (s : State) (u : Upd) : State :=
  if u.bad then s.spoilLine u.line
  else if s.isLocal (128 * u.line) then
    let ws := (s.lineWords u.line).mapIdx (fun i w => atomicFn u.kind w (u.words.get (updIdentity u.kind) i) 0)
    s.homePut (cellsAt (128 * u.line) (ws.flatMap (fun w => bytesOf 4 w.toNat))) false
  else
    let data := (List.range 32).flatMap (fun i => bytesOf 4 (u.words.get (updIdentity u.kind) i).toNat)
    match s.sendTo (targetOf (128 * u.line)) (LinkTx.of 8 u.cls u.kind (paOf (128 * u.line)) data none) .other with
    | some (s', _) => s'
    | none => s.countLost (targetOf (128 * u.line))

/-- Send a core's Update-only copies of the lines p selects to their homes and drop them (R248, R266). -/
def State.sendUpd (s : State) (cid : Nat) (p : Upd → Bool) : State :=
  let l := (s.core cid).l1
  (l.upd.filter p).foldl State.combineUpd (s.setL1 cid { l with upd := l.upd.filter (fun u => !p u) })

/-- Recall every Update-only copy of a line, in ascending CID (R194, R248), and every Exclusive grant of it (R246). -/
def State.recallLine (s : State) (line : Nat) : State :=
  (s.cores.map Prod.fst).foldl (fun s cid =>
    let l := (s.core cid).l1
    let s1 := if l.upd.any (fun u => u.line == line) then s.sendUpd cid (fun u => u.line == line) else s
    let l1 := (s1.core cid).l1
    if l1.excl.contains line then s1.setL1 cid { l1 with excl := l1.excl.filter (· != line) } else s1) s

end Sys2Proof.Machine
end

