-- ==== Sys2Proof/Machine/Tiles.lean ====
section
/-! DEFINITION. Value-bounded regions between the cores' delta tiles and the home: shares, joins, additions, drains, leaving, and reads
within a tolerance (06 R188, R191; 08 R259 to R266). -/

namespace Sys2Proof.Machine

/-- x before the first element that must not precede it. -/
def insertBy {α : Type} (le : α → α → Bool) (x : α) : List α → List α
  | [] => [x]
  | y :: ys => if le x y then x :: y :: ys else y :: insertBy le x ys
/-- The elements of a list in the order of le; those that le does not separate keep their order. -/
def sortBy {α : Type} (le : α → α → Bool) (xs : List α) : List α := xs.foldr (insertBy le) []

/-! ### Combination at the home (R264) -/

/-- The value every element of a delta tile starts at (R259). -/
def negZero : Word := 0x80000000

/-- The 64 elements of a tile as its readers see them; none where the codec rejects its block (09 R280). -/
def State.tileWords (s : State) (tile : Nat) (coded : Bool) : Option (List Word) :=
  (s.view (256 * tile) 256 coded).map (fun bs => (List.range 64).map (fun i => BitVec.ofNat 32 (ofBytes ((bs.drop (4 * i)).take 4))))

/-- Combine a delta tile element by element at the home; a tile whose block the codec rejects keeps its bytes (R264; log entry 59). -/
def State.combineDelta (s : State) (tile : Nat) (delta : SMap Word) (coded : Bool) : State :=
  match s.tileWords tile coded with
  | none => s
  | some ws =>
    let new := ws.mapIdx (fun i w => (fadd .rne w (delta.get negZero i)).1)
    s.homePut (cellsAt (256 * tile) (new.flatMap (fun w => bytesOf 4 w.toNat))) coded

/-- Combine a drain that is under way (R264); a tile that an error struck poisons its lines (14 R401). -/
def State.combineDrain (s : State) (d : Drain) : State :=
  if d.combined then s
  else
    let s1 := if d.bad then (s.spoilLine (2 * d.tile)).spoilLine (2 * d.tile + 1) else s.combineDelta d.tile d.delta d.coded
    { s1 with drains := s1.drains.map (fun x => if x.id = d.id then { x with combined := true } else x) }

/-! ### Holders and additions (06 R191; R259, R261) -/

/-- L x 2^(-k) as an exact value. -/
def shareValue (limit : Word) (k : Nat) : XR :=
  match f32 limit with
  | .fin s m e => .fin s m (e - k)
  | .inf s => .inf s
  | .nan => .nan

/-- A tracker m exceeds a share (R261). -/
def exceeds (m limit : Word) (k : Nat) : Bool := (f32 m).cmp (shareValue limit k) == some .gt

/-- One addition in a holder's delta tile and tracker (06 R191). -/
def Holder.enter (h : Holder) (elem : Nat) (x : Word) : Holder :=
  { h with
    delta := h.delta.put elem (fadd .rne (h.delta.get negZero elem) x).1
    m := if (f32 x).isFinite then (sumF32 .rup false [f32 h.m, (f32 x).abs]).1 else 0x7F800000 }

/-- The holder gathers an addition's context and class. -/
def Holder.serve (h : Holder) (a : Add) : Holder := { h with ctxs := listed a.ctx h.ctxs, cls := max h.cls a.cls }

/-- A core's hold on a tile. -/
def State.holder (s : State) (cid tile : Nat) : Option Holder := (s.core cid).l1.hold.find? (fun h => h.tile == tile)

def State.setHolder (s : State) (cid : Nat) (h : Holder) : State :=
  let l := (s.core cid).l1
  s.setL1 cid { l with hold := l.hold.map (fun x => if x.tile = h.tile then h else x) }

/-- The holders of a tile on this device, in the order of the cores. -/
def State.holders (s : State) (tile : Nat) : List (Nat × Holder) :=
  s.cores.flatMap (fun c => (c.2.l1.hold.filter (fun h => h.tile == tile)).map (fun h => (c.1, h)))

/-- Change an operation by its number. -/
def State.modOp (s : State) (uid : Nat) (f : Op → Op) : State := s.mapOps (fun o => if o.uid = uid then f o else o)

/-- The additions of an operation that wait for a tile, each with the operation's number. -/
def Op.waiting (o : Op) (tile : Nat) : List (Nat × Add) := (o.adds.filter (fun a => a.tile == tile)).map (fun a => (o.uid, a))

/-- The additions of a core's waves that wait for a tile, in issue order; those of spilled and of retired waves go on (01 R25; 09 R286). -/
def State.waitingAdds (s : State) (cid tile : Nat) : List (Nat × Add) :=
  let of (ws : List (Nat × Wave)) : List (Nat × Add) :=
    ws.flatMap (fun p => if cidOf p.1 = cid then p.2.st.flatMap (fun o => o.waiting tile) else [])
  sortBy (fun x y => x.1 ≤ y.1)
    (of s.waves ++ of s.away ++ s.owing.flatMap (fun x => if x.cid = cid then x.op.waiting tile else []))

/-- A core holds a tile no more. -/
def State.dropHolder (s : State) (cid tile : Nat) : State :=
  let l := (s.core cid).l1
  s.setL1 cid { l with hold := l.hold.filter (fun x => x.tile != tile) }

/-- A core loses a tile whose home no link reaches: what it holds and what waits for it is lost and counted (14 R394). -/
def State.loseTile (s : State) (cid tile : Nat) : State :=
  let s1 := match s.holder cid tile with
    | none => s
    | some h =>
      let s1 := (s.dropHolder cid tile).countLost (targetOf (256 * tile))
      match h.draining with
      | some id => s1.clearToken id
      | none => s1
  (s.waitingAdds cid tile).foldl (fun s x =>
    (s.countLost (targetOf (256 * tile))).modOp x.1 (fun o => { o with adds := o.adds.erase x.2 })) s1

/-! ### Drains (R261; log entry 19 for a home on another device) -/

/-- A message of the region protocol between a tile's home and a core of another device (log entry 19). -/
def regionTx (code cls tile : Nat) (words : List Nat) : LinkTx :=
  LinkTx.of 8 cls code (paOf (256 * tile)) (words.flatMap (bytesOf 4)) none

/-- Half a holder's delta tile as data; a tile that an error struck gives nothing (14 R401). -/
def Holder.half (h : Holder) (i : Nat) : List Byte :=
  (List.range 32).flatMap (fun j => bytesOf 4 (if h.bad then negZero else h.delta.get negZero (32 * i + j)).toNat)

/-- Send a holder's delta tile to its home on another device, in two halves; the number of the drain. Without a link it is lost (14 R394). -/
def State.sendDelta (s : State) (cid : Nat) (h : Holder) (leaving : Bool) : State × List Nat :=
  let half (i code : Nat) (s : State) : Option (State × Nat) :=
    s.sendTo (targetOf (256 * h.tile)) (LinkTx.of 8 h.cls (code + cid) (paOf (256 * h.tile) + 128 * i) (h.half i) none)
      (.delta h.tile cid leaving)
  match (half 0 64 s).bind (fun r => half 1 (if leaving then 192 else 128) r.1) with
  | none => (s.loseTile cid h.tile, [])
  | some (s1, id) =>
    ((if h.bad then s1.countLost (targetOf (256 * h.tile)) else s1).setHolder cid { h with draining := some id, leaving := leaving }, [id])

/-- A holder sends its delta tile and tracker to the home and adds nothing until it is acknowledged (R261); the drain's number. -/
def State.startDrain (s : State) (cid : Nat) (h : Holder) (leaving : Bool) : State × List Nat :=
  if s.isLocal (256 * h.tile) then
    let id := s.fresh
    let d : Drain :=
      { id := id, tile := h.tile, ctxs := h.ctxs, cid := cid, coded := h.coded, delta := h.delta, single := false, combined := false, bad := h.bad }
    let s1 := { s.tick1 with drains := s.drains ++ [d] }
    (s1.setHolder cid { h with draining := some id, leaving := leaving }, [id])
  else s.sendDelta cid h leaving

/-- Enter one addition where the core holds the tile and is not draining; the drain it causes. none where it must wait (06 R191). -/
def State.tryAdd (s : State) (cid : Nat) (a : Add) : Option (State × List Nat) :=
  match s.holder cid a.tile with
  | none => none
  | some h =>
    if h.draining.isSome then none
    else
      let h1 := (h.serve a).enter a.elem a.val
      let s1 := s.setHolder cid h1
      some (if exceeds h1.m h1.limit h1.share then s1.startDrain cid h1 false else (s1, []))

/-- A tile nobody holds, waits for or reads has the limit that the one who touches it brings (log entry 60). -/
def State.home (s : State) (tile : Nat) (limit : Word) : HomeTile :=
  let t := s.tiles.get { limit := limit, shares := [], reads := [], joins := [], halving := none } tile
  if t.shares.isEmpty && t.reads.isEmpty && t.joins.isEmpty then { t with limit := limit } else t

/-- The transaction is a core's join of a tile. -/
def Txn.joins (cid tile : Nat) (t : Txn) : Bool :=
  match t.purpose with
  | .join a c _ => c == cid && a.tile == tile
  | _ => false

/-- A core asks to hold the tile of an addition, once (R260). -/
def State.requestJoin (s : State) (cid : Nat) (a : Add) : State :=
  if s.isLocal (256 * a.tile) then
    let h := s.home a.tile a.limit
    if h.joins.any (fun j => j.cid == cid && j.peer.isNone) then s
    else { s with tiles := s.tiles.put a.tile { h with joins := h.joins ++ [{ cid := cid, ctx := a.ctx, coded := a.coded, cls := a.cls }] } }
  else if s.txns.any (fun t => t.joins cid a.tile) then s
  else match s.sendTo (targetOf (256 * a.tile)) (regionTx 16 a.cls a.tile [cid, a.limit.toNat]) (.join a cid 0) with
    | some (s1, _) => s1
    | none => s.loseTile cid a.tile

/-- Enter the waiting additions as far as the holder takes them; where the core no longer holds the tile it joins again (R260, R261). -/
def State.pushAdds (s : State) (cid tile : Nat) : State :=
  let s1 := ((s.waitingAdds cid tile).foldl (fun (r : State × Bool) x =>
    if r.2 then
      match r.1.tryAdd cid x.2 with
      | none => (r.1, false)
      | some (s1, ids) => (s1.modOp x.1 (fun o => { o with adds := o.adds.erase x.2, waits := o.waits ++ ids }), true)
    else r) (s, true)).1
  match s1.holder cid tile, (s1.waitingAdds cid tile).head? with
  | none, some x => s1.requestJoin cid x.2
  | _, _ => s1

/-! ### Joins (R260) -/

/-- Send one addition to the home of its tile as a drain of its own (R260, step 3; log entry 19 for a tile of another device). -/
def State.singleDrain (s : State) (cid : Nat) (a : Add) : State × List Nat :=
  if s.isLocal (256 * a.tile) then
    let d : Drain :=
      { id := s.fresh, tile := a.tile, ctxs := [a.ctx], cid := cid, coded := a.coded, delta := [(a.elem, a.val)], single := true,
        combined := false }
    ({ s.tick1 with drains := s.drains ++ [d] }, [s.fresh])
  else
    let half := a.elem / 32
    let data := (List.range 32).flatMap (fun i => bytesOf 4 (if i = a.elem % 32 then a.val else negZero).toNat)
    match s.sendTo (targetOf (256 * a.tile)) (LinkTx.of 8 a.cls 1 (paOf (256 * a.tile) + 128 * half) data none) .other with
    | some (s1, t) => (s1, [t])
    | none => (s.countLost (targetOf (256 * a.tile)), [])

/-- The oldest ACCB that waits for a tile goes to the home, an addition at a time (R260, step 3). -/
def State.sendOldest (s : State) (cid tile : Nat) : State :=
  match (s.waitingAdds cid tile).head? with
  | none => s
  | some (uid, _) =>
    let mine := ((s.waitingAdds cid tile).filter (fun x => x.1 == uid)).map Prod.snd
    let (s1, ids) := mine.foldl (fun (r : State × List Nat) a =>
      let (s', i) := r.1.singleDrain cid a
      (s', r.2 ++ i)) (s, [])
    s1.modOp uid (fun o => { o with adds := o.adds.filter (fun a => a.tile != tile), waits := o.waits ++ ids })

/-- A core holds a tile with a share, and its waiting additions go in (R260). -/
def State.holdTile (s : State) (cid ctx tile share : Nat) (coded : Bool) (limit : Word) : State :=
  let h : Holder :=
    { tile := tile, ctxs := [ctx], coded := coded, limit := limit, delta := [], m := 0, share := share, draining := none, leaving := false }
  let l := (s.core cid).l1
  (s.setL1 cid { l with hold := l.hold ++ [h] }).pushAdds cid tile

/-- The device of a joiner. -/
def State.joinDid (s : State) (j : Join) : Nat := (j.peer.map Asker.did).getD s.did

/-- Give a core a share of a tile (R260); a core of another device is told so (log entry 19). -/
def State.grantShare (s : State) (j : Join) (tile k : Nat) : State :=
  match s.tiles.find? tile with
  | none => s
  | some t =>
    let did := s.joinDid j
    let t1 : HomeTile :=
      { t with
        shares := t.shares.filter (fun x => !(x.did == did && x.cid == j.cid)) ++ [⟨did, j.cid, k⟩]
        joins := t.joins.filter (· != j)
        halving := none }
    let s1 := { s with tiles := s.tiles.put tile t1 }
    match j.peer with
    | none => s1.holdTile j.cid j.ctx tile k j.coded t.limit
    | some a => s1.answerPeer a 0 (bytesOf 4 k)

/-- The unassigned remainder U in units of L x 2^(-16) (R259). -/
def HomeTile.remainder (t : HomeTile) : Nat := 2 ^ 16 - (t.shares.map (fun x => 2 ^ (16 - x.share))).sum

/-- The holders of a tile by descending share, ties by device and core (R259, R263). -/
def HomeTile.byShare (t : HomeTile) : List Share :=
  sortBy (fun x y => x.share < y.share ||
    (x.share == y.share && (x.did < y.did || (x.did == y.did && x.cid ≤ y.cid)))) t.shares

/-- A share of a tile returns to U (R262). -/
def State.freeShare (s : State) (did cid tile : Nat) : State :=
  { s with tiles := s.tiles.modify tile (fun t => { t with shares := t.shares.filter (fun x => !(x.cid == cid && x.did == did)) }) }

/-- The halving of step 2 of R260: the holder adopts the half, drains where its m exceeds it, and acknowledges; then the joiner receives the
other. -/
def State.halve (s : State) (t : HomeTile) (tile : Nat) (j : Join) (b : Share) : State :=
  let k := b.share + 1
  let shares := t.shares.map (fun x => if x = b then { x with share := k } else x)
  let s1 := { s with tiles := s.tiles.put tile { t with shares := shares } }
  let wait (id : Nat) (s : State) : State := { s with tiles := s.tiles.modify tile (fun t => { t with halving := some ⟨j, k, id⟩ }) }
  if b.did ≠ s.did then
    match s1.sendTo b.did (regionTx 19 j.cls tile [b.cid, k]) (.halve tile) with
    | some (s2, id) => wait id s2
    | none => s1.freeShare b.did b.cid tile
  else match s1.holder b.cid tile with
  | none => s1.grantShare j tile k
  | some h =>
    let s2 := s1.setHolder b.cid { h with share := k }
    if exceeds h.m h.limit k then
      match h.draining with
      | some id => wait id s2
      | none =>
        let (s3, ids) := s2.startDrain b.cid { h with share := k } false
        ids.foldl (fun s id => wait id s) s3
    else s2.grantShare j tile k

/-- The refusal of step 3 of R260: the joiner's oldest waiting ACCB goes to the home, and its next one joins again; a joiner of another device
is told so (log entry 19). -/
def State.refuseJoin (s : State) (t : HomeTile) (tile : Nat) (j : Join) : State :=
  let rest := t.joins.filter (· != j)
  match j.peer with
  | some a => ({ s with tiles := s.tiles.put tile { t with joins := rest } }).answerPeer a 0 (bytesOf 4 17)
  | none =>
    let s1 := s.sendOldest j.cid tile
    let joins := if (s1.waitingAdds j.cid tile).isEmpty then rest else rest ++ [j]
    { s1 with tiles := s1.tiles.put tile { t with joins := joins } }

/-- Answer the first join of a tile when nothing else is being answered there (R260). -/
def State.answerJoin (s : State) (tile : Nat) : State :=
  match s.tiles.find? tile with
  | none => s
  | some t =>
    match t.joins with
    | [] => s
    | j :: rest =>
      if !t.reads.isEmpty || t.halving.isSome then s
      else if j.peer.isNone && (s.holder j.cid tile).isSome then ({ s with tiles := s.tiles.put tile { t with joins := rest } }).pushAdds j.cid tile
      else if 1 ≤ t.remainder then s.grantShare j tile (16 - Nat.log2 t.remainder)
      else
        match t.byShare.head? with
        | none => s
        | some b => if b.share ≤ 15 then s.halve t tile j b else s.refuseJoin t tile j

/-! ### Acknowledgement and leaving (R261, R262) -/

/-- A core of this device leaves a tile: its share returns to U (R262). -/
def State.dropShare (s : State) (cid tile : Nat) : State := (s.dropHolder cid tile).freeShare s.did cid tile

/-- The halving that waited for a drain goes on (R260). -/
def State.endHalving (s : State) (tile id : Nat) : State :=
  match (s.tiles.find? tile).bind HomeTile.halving with
  | some v => if v.drain = id then s.grantShare v.joiner tile v.share else s
  | none => s

/-- Acknowledge a combined drain: its waiters go on, a leaver's share returns, a halving is finished (R261, R262). -/
def State.ackDrain (s : State) (d : Drain) : State :=
  let s1 := ({ s with drains := s.drains.filter (fun x => x.id != d.id) }).clearToken d.id
  if d.single then s1
  else
    let s2 := match s1.holder d.cid d.tile with
      | none => s1
      | some h =>
        if h.leaving then s1.dropShare d.cid d.tile
        else s1.setHolder d.cid { h with delta := [], m := 0, draining := none, bad := false }
    (s2.endHalving d.tile d.id).pushAdds d.cid d.tile

/-- Combine and acknowledge a drain at once (log entry 43). -/
def State.finishDrain (s : State) (id : Nat) : State :=
  match s.drains.find? (fun d => d.id == id) with
  | none => s
  | some d => (s.combineDrain d).ackDrain { d with combined := true }

/-- A core drains a tile and leaves, at once where the home is here (R262, R266; log entry 43). -/
def State.leaveTile (s : State) (cid tile : Nat) : State :=
  match s.holder cid tile with
  | none => s
  | some h =>
    match h.draining with
    | some id => (s.setHolder cid { h with leaving := true }).finishDrain id
    | none =>
      let (s1, ids) := s.startDrain cid h true
      ids.foldl State.finishDrain s1

/-- Every holder that gathers additions of a context drains and leaves (R258, R266). -/
def State.leaveTiles (s : State) (ctx : Nat) : State :=
  (s.cores.flatMap (fun c => (c.2.l1.hold.filter (fun h => h.ctxs.contains ctx)).map (fun h => (c.1, h.tile)))).foldl
    (fun s x => s.leaveTile x.1 x.2) s

/-- Before a store, an atomic or an engine's write in a tile: what is on its way is combined, every holder drains and leaves (06 R188;
R262). -/
def State.recallTile (s : State) (tile : Nat) : State :=
  let ds := s.drains.filter (fun d => d.tile == tile)
  let hs := s.holders tile
  if ds.isEmpty && hs.isEmpty then s
  else hs.foldl (fun s h => s.leaveTile h.1 tile) (ds.foldl State.combineDrain s)

/-! ### A core that holds a tile of another device (log entry 19) -/

/-- The home's answer to a join: a share, k up to 16, or 17 for a refusal (R260). A core whose additions are gone leaves at once. -/
def State.joined (s : State) (a : Add) (cid least k : Nat) : State :=
  if k < 17 then
    let s1 := s.holdTile cid a.ctx a.tile (max least k) a.coded a.limit
    if (s.waitingAdds cid a.tile).isEmpty then s1.leaveTile cid a.tile else s1
  else (s.sendOldest cid a.tile).pushAdds cid a.tile

/-- The transaction is half a delta tile of a core. -/
def Txn.drains (cid tile : Nat) (t : Txn) : Bool :=
  match t.purpose with
  | .delta x c _ => c == cid && x == tile
  | _ => false

/-- The home has acknowledged half a delta tile: with the other half too the drain is acknowledged, and what waited for it goes on; a holder
that was asked to leave meanwhile drains once more (R261, R262). -/
def State.deltaDone (s : State) (tile cid : Nat) (leave : Bool) : State :=
  if s.txns.any (fun t => t.drains cid tile) then s
  else match s.holder cid tile with
    | none => s
    | some h =>
      let h1 := { h with delta := [], m := 0, draining := none, bad := false, owed := [] }
      let s1 := match h.draining with
        | some id => s.clearToken id
        | none => s
      let s2 := if leave then s1.dropHolder cid tile else if h.leaving then (s1.startDrain cid h1 true).1 else s1.setHolder cid h1
      (h.owed.foldl (fun s a => s.answerPeer a 0 []) s2).pushAdds cid tile

/-- The home of a tile on another device asks a core to drain, and perhaps to leave: it is answered when that is done (R261, R263). -/
def State.askedDrain (s : State) (a : Asker) (tile cid : Nat) (leave : Bool) : State :=
  match s.holder cid tile with
  | none => s.answerPeer a 0 []
  | some h =>
    let h1 := { h with owed := h.owed ++ [a] }
    if h.draining.isSome then s.setHolder cid { h1 with leaving := h.leaving || leave } else (s.startDrain cid h1 leave).1

/-- The home of a tile on another device halves a core's share: the core adopts the half, drains where its m exceeds it, and acknowledges; a
share that is still on its way is halved when it comes (R260). -/
def State.askedHalf (s : State) (a : Asker) (tile cid k : Nat) : State :=
  match s.holder cid tile with
  | none =>
    let least (t : Txn) : Txn := match t.purpose with
      | .join x c m => if c = cid ∧ x.tile = tile then { t with purpose := .join x c (max m k) } else t
      | _ => t
    ({ s with txns := s.txns.map least }).answerPeer a 0 []
  | some h =>
    let h1 := { h with share := max h.share k }
    if !exceeds h.m h.limit h1.share then (s.setHolder cid h1).answerPeer a 0 []
    else if h.draining.isSome then s.setHolder cid { h1 with owed := h.owed ++ [a] }
    else (s.startDrain cid { h1 with owed := h.owed ++ [a] } false).1

/-! ### Reads (R263) -/

/-- The holders that a read with tolerance code t must drain. -/
def drainsFor (tol : Nat) : List Share → Nat → List Share
  | [], _ => []
  | h :: hs, sum =>
    let eps := if tol = 31 then 0 else 2 ^ (32 - tol)
    if sum ≤ eps then [] else h :: drainsFor tol hs (sum - 2 ^ (32 - h.share))

/-- The sum of all shares in units of L x 2^(-32). -/
def HomeTile.total (t : HomeTile) : Nat := (t.shares.map (fun x => 2 ^ (32 - x.share))).sum

/-- Ask holders to drain, in a traffic class; the numbers of their drains, or of the requests to other devices (log entry 19). -/
def State.requestDrains (s : State) (tile cls : Nat) (hs : List Share) : State × List Nat :=
  hs.foldl (fun (r : State × List Nat) x =>
    if x.did ≠ s.did then
      match r.1.sendTo x.did (regionTx 17 cls tile [x.cid]) (.ask tile x.did x.cid false) with
      | some (s', id) => (s', r.2 ++ [id])
      | none => r
    else match r.1.holder x.cid tile with
    | none => r
    | some h =>
      match h.draining with
      | some id => (r.1, r.2 ++ [id])
      | none =>
        let (s', ids) := r.1.startDrain x.cid h false
        (s', r.2 ++ ids)) (s, [])

/-- What a read of bytes within one line at their home gives: bytes, poison, or nothing yet (a line of another device is on its way). -/
inductive Got where
  | ok (bs : List Byte)
  | poison
  | miss
  deriving DecidableEq, Repr

/-- Bytes of own or host memory as a reader sees them: poison, and what the codec rejects, is poison (09 R277, R280, R283). -/
def State.homeBytes (s : State) (key n : Nat) (coded : Bool) : Got :=
  if s.poisoned key coded then .poison
  else match s.view key n coded with
    | some bs => .ok bs
    | none => .poison

/-- A value that a home has answered lands with its operation's other values; poison is consumed then (09 R277). -/
def Op.answered (o : Op) (r : TileRead) (g : Got) : Op :=
  match g with
  | .ok bs => { o with writes := o.writes ++ [⟨r.cell, BitVec.ofNat 32 (ofBytes bs), r.tag⟩] }
  | .poison => { o with bad := o.bad.orElse (fun _ => some (r.cell % 32, r.va)) }
  | .miss => o

/-- The traffic class of a read (14 R393). -/
def State.readClass (s : State) (r : TileRead) : Nat :=
  match r.peer with
  | some a => a.cls
  | none => ((s.waves.find? r.wave).map (fun w => w.prio % 4)).getD 0

/-- A drain that a read waits for is not combined. -/
def State.undrained (s : State) (ids : List Nat) : Bool :=
  s.drains.any (fun d => ids.contains d.id && !d.combined) || s.txns.any (fun t => ids.contains t.token)

/-- Give a read its answer: it lands with its operation's other values, or goes to the device that asked. -/
def State.landRead (s : State) (r : TileRead) (g : Got) : State :=
  match r.peer, g with
  | none, _ => (s.modOp r.op (fun o => o.answered r g)).clearToken r.token
  | some a, .ok bs => s.answerPeer a 0 bs
  | some a, _ => s.answerPeer a 1 []

/-- Answer the oldest read of a tile: first its drains are requested, then, all combined, the home's element (R263). -/
def State.answerRead (s : State) (tile : Nat) : State :=
  match s.tiles.find? tile with
  | none => s
  | some t =>
    match t.reads with
    | [] => s
    | r :: rest =>
      match r.drains with
      | none =>
        let (s1, ids) := s.requestDrains tile (s.readClass r) (drainsFor r.tol t.byShare t.total)
        { s1 with tiles := s1.tiles.modify tile (fun t => { t with reads := { r with drains := some ids } :: rest }) }
      | some ids =>
        if s.undrained ids then s
        else
          let s1 := s.recallLine (lineOf r.key)
          let s2 := { s1 with tiles := s1.tiles.modify tile (fun t => { t with reads := rest }) }
          s2.landRead r (s1.homeBytes r.key r.size (if r.peer.isSome then s1.codedAt r.key else r.coded))

/-- Request a tile's drains, and combine and acknowledge them at once (log entry 43). -/
def State.drainNow (s : State) (tile tol : Nat) : State :=
  match s.tiles.find? tile with
  | none => s
  | some t =>
    let (s1, ids) := s.requestDrains tile 0 (drainsFor tol t.byShare t.total)
    ids.foldl State.finishDrain s1

/-- Answer the reads of a tile that came before, in their order (R263). -/
def State.answerReads : Nat → State → Nat → State
  | 0, s, _ => s
  | fuel + 1, s, tile =>
    match (s.tiles.find? tile).bind (fun t => t.reads.head?) with
    | none => s
    | some r => State.answerReads fuel (((s.drainNow tile r.tol).answerRead tile).answerRead tile) tile

/-- Bring a tile within a tolerance at once, for a read that is answered in one step (06 R188; 07 R206; R251, R263). -/
def State.settleTile (s : State) (key tol : Nat) : State :=
  match s.tiles.find? (tileOf key) with
  | none => s
  | some t => (State.answerReads t.reads.length s (tileOf key)).drainNow (tileOf key) tol

/-! ### Holders on other devices at the home (R262, R263; log entry 43) -/

/-- A core of another device holds the tile. -/
def State.heldAfar (s : State) (tile : Nat) : Bool := ((s.tiles.find? tile).map (fun t => t.shares.any (fun x => x.did != s.did))).getD false

/-- A read within a tolerance must wait for a core of another device: its own drains, or an earlier read's (R263). -/
def State.drainsAfar (s : State) (tile tol : Nat) : Bool :=
  match s.tiles.find? tile with
  | none => false
  | some t =>
    (tol :: t.reads.map TileRead.tol).any (fun x => (drainsFor x t.byShare t.total).any (fun h => h.did != s.did)) ||
    t.reads.any (fun r => s.txns.any (fun x => (r.drains.getD []).contains x.token))

/-- Ask the holders of a tile on other devices to drain and leave, each once (log entry 43). -/
def State.askLeave (s : State) (tile : Nat) : State :=
  (((s.tiles.find? tile).map HomeTile.shares).getD []).foldl (fun s x =>
    let asked (t : Txn) : Bool := t.purpose == .ask tile x.did x.cid true
    if x.did = s.did ∨ s.txns.any asked = true then s
    else match s.sendTo x.did (regionTx 18 0 tile [x.cid]) (.ask tile x.did x.cid true) with
      | some (s1, _) => s1
      | none => s) s

/-- Before bytes here are changed no core of another device holds their tiles: those that do are asked to leave; whether none is left
(R262). -/
def State.clearAfar (s : State) (keys : List Nat) : State × Bool :=
  let held := (((keys.filter s.isLocal).map tileOf).dedup).filter s.heldAfar
  (held.foldl State.askLeave s, held.isEmpty)

end Sys2Proof.Machine
end

