-- ==== Sys2Proof/Machine/Home.lean ====
section
/-! DEFINITION. Writes performed at the homes of their bytes, here or on another device, and reads at the home (06 R188, R194;
08 R246, R251; 09 R273, R283, R284; 14 R391 to R394). -/

namespace Sys2Proof.Machine

/-! ### Writes -/

/-- Before a write at the home: the tile's holders drain and leave, and copies of the line are recalled (06 R188, R194; 08 R246, R262). -/
def State.recall (s : State) (key : Nat) : State := (s.recallTile (tileOf key)).recallLine (lineOf key)

/-- Recall for every line that cells touch. -/
def State.recallCells (s : State) (cs : List (Nat × Byte)) : State :=
  ((cs.map (fun c => lineOf c.1)).dedup).foldl (fun s l => s.recall (128 * l)) s

/-- Perform cells of one line at another device's home: one masked write (14 R391); lost when no link is up (R394). -/
def State.remoteLine (s : State) (cls line : Nat) (cs : List (Nat × Byte)) (p : Purpose) : State × List Nat :=
  let at_ (i : Nat) : Option (Nat × Byte) := cs.find? (fun c => c.1 == 128 * line + i)
  let data := (List.range 128).map (fun i => match at_ i with
    | some c => c.2
    | none => 0)
  let bits := (List.range 128).foldl (fun n i => if (at_ i).isSome then n + 2 ^ i else n) 0
  match s.sendTo (targetOf (128 * line)) (LinkTx.of 2 cls 3 (paOf (128 * line)) data (some (bytesOf 16 bits))) p with
  | some (s', t) => (s', [t])
  | none => (s.countLost (targetOf (128 * line)), [])

/-- Perform a write at the homes of its bytes, in a traffic class; the tokens of writes on their way to other devices. -/
def State.writeAs (s : State) (cls : Nat) (cs : List (Nat × Byte)) (coded : Bool) (p : Purpose) : State × List Nat :=
  let here := cs.filter (fun c => s.isLocal c.1)
  let away := cs.filter (fun c => !s.isLocal c.1)
  let s1 := if here.isEmpty then s else (s.recallCells here).homeWrite here coded
  ((away.map (fun c => lineOf c.1)).dedup).foldl (fun (r : State × List Nat) l =>
    let (s', ts) := r.1.remoteLine cls l (away.filter (fun c => lineOf c.1 == l)) p
    (s', r.2 ++ ts)) (s1, [])

/-- Such a write in the lowest class, or that of the wave whose issue is under way. -/
def State.write (s : State) (cs : List (Nat × Byte)) (coded : Bool) (p : Purpose) : State × List Nat := s.writeAs 0 cs coded p

/-! ### Reads at the home -/

/-- Ask another device for a line, once (14 R391), in a traffic class; while a change of it is on its way, after that (06 R181). -/
def State.requestFill (s : State) (line cls : Nat) : State × Got :=
  if s.altering line || s.txns.any (fun t => t.purpose == .fill line) then (s, .miss)
  else match s.sendTo (targetOf (128 * line)) (LinkTx.of 1 cls 3 (paOf (128 * line)) [] none) (.fill line) with
    | some (s', _) => (s', .miss)
    | none => (s, .poison)

/-- Read bytes within one line at its home, after recalling the line's copies (R194, R273); a line of another device through the own
L2's copy, or the error response its read received (14 R394). -/
def State.homeReadAs (s : State) (cls key n : Nat) (coded : Bool) : State × Got :=
  let s1 := s.recallLine (lineOf key)
  if s1.isLocal key then (s1, s1.homeBytes key n coded)
  else if s1.poison.contains (lineOf key) then ({ s1 with poison := s1.poison.filter (· != lineOf key) }, .poison)
  else match s1.l2.find? (lineOf key) with
    | some line => (s1, if line.isEmpty then .poison else .ok ((line.drop (key % 128)).take n))
    | none => s1.requestFill (lineOf key) cls

/-- Such a read in the lowest class, or that of the wave whose issue is under way. -/
def State.homeRead (s : State) (key n : Nat) (coded : Bool) : State × Got := s.homeReadAs 0 key n coded

/-- Read bytes within one line of a tile within a tolerance, for a read that is answered in one step; where a core of another device must drain,
it is asked to leave, and the read waits (06 R188; 08 R263; log entry 43). -/
def State.tileReadAs (s : State) (cls tol key n : Nat) (coded : Bool) : State × Got :=
  if s.isLocal key && s.drainsAfar (tileOf key) tol then (s.askLeave (tileOf key), .miss)
  else (s.settleTile key tol).homeReadAs cls key n coded

/-- An exact read of local bytes by physical key, line by line (08 R251): nothing where a line is poisoned; it waits as above. -/
def State.exactRead : Nat → State → Nat → Nat → List Byte → State × Got
  | 0, s, _, _, got => (s, .ok got)
  | fuel + 1, s, key, n, got =>
    if n = 0 then (s, .ok got)
    else
      let m := min n (128 - key % 128)
      match s.tileReadAs 0 31 key m (s.codedAt key) with
      | (s1, .ok bs) => State.exactRead fuel s1 (key + m) (n - m) (got ++ bs)
      | (s1, .poison) => (s1, .poison)
      | (s1, .miss) => (s1, .miss)

end Sys2Proof.Machine
end

