-- ==== Sys2Proof/Machine/Translate.lean ====
section
/-! DEFINITION. Translation, TLBs, address classes, region lookup and the access checks (06 R176 to R178; 08 R256 to R258;
09 R289 to R295). -/

namespace Sys2Proof.Machine

/-- What an access asks of a page (06 R178, 09 R291). -/
inductive Perm where
  | r | w | rw | x
  deriving DecidableEq, Repr

/-- A translated page: the key of its 4 KiB frame, permissions, CODED. -/
structure Leaf where
  frame : Nat
  r : Bool
  w : Bool
  x : Bool
  coded : Bool
  deriving DecidableEq, Repr

/-- The member mask of DOMAIN names a device (14 R388). -/
def State.member (s : State) (d : Nat) : Bool := s.regs.domain.toNat / 2 ^ (8 + d) % 2 == 1

/-- Bit i of an entry. -/
def ebit (e i : Nat) : Bool := e / 2 ^ i % 2 == 1

/-- FRAME of an entry as a physical address (09 R291). -/
def eframe (e : Nat) : Nat := e / 2 ^ 12 % 2 ^ 36 * 2 ^ 12
def etarget (e : Nat) : Nat := e / 2 ^ 48 % 16

/-- A pointer entry that R293 does not call faulty. -/
def State.pointerOk (s : State) (e : Nat) : Bool :=
  ebit e 0 && !ebit e 1 && e / 4 % 64 == 0 && e / 2 ^ 52 == 0 && etarget e == s.did && eframe e + 4096 ≤ Config.deviceBytes

/-- A leaf at a level that R293 does not call faulty: size aligned, target known and a member, frame inside the target's memory. -/
def State.leafOk (s : State) (level e : Nat) : Bool :=
  let size := 2 ^ (12 + 9 * level)
  ebit e 0 && ebit e 1 && !ebit e 7 && e / 2 ^ 52 == 0 && (level == 0 || !ebit e 5) && eframe e % size == 0 &&
  (if etarget e < 8 then s.member (etarget e) && eframe e + size ≤ Config.deviceBytes else etarget e == 8) &&
  (!ebit e 6 || eframe e + size ≤ s.regs.mdspan.toNat)

/-- The leaf of an entry for the page that holds va. -/
def leafAt (level e va : Nat) : Leaf :=
  { frame := physKey (etarget e) (eframe e + va % 2 ^ (12 + 9 * level) / 4096 * 4096),
    r := ebit e 2, w := ebit e 3, x := ebit e 4, coded := ebit e 6 }

/-- A table entry in local memory; the bytes of a poisoned line are used as they stand (log entry 61). -/
def State.entryAt (s : State) (table idx : Nat) : Nat := s.load (physKey s.did (table + 8 * idx)) 8

/-- The sixteen entries of a CONT group agree: equal apart from FRAME, frames consecutive from a 64 KiB start (09 R292). -/
def contAgrees (es : List Nat) : Bool :=
  let e0 := es.headD 0
  eframe e0 % 65536 == 0 &&
  (List.range 16).all (fun i =>
    let e := es.getD i 0
    eframe e == eframe e0 + 4096 * i && e - eframe e % 2 ^ 48 == e0 - eframe e0 % 2 ^ 48)

/-- The level-0 translation of va in a table, with the CONT rule (09 R292): entries that disagree may each translate the range. -/
def State.level0 (s : State) (table va : Nat) : State × Option Leaf :=
  let i := va / 4096 % 512
  let e := s.entryAt table i
  let plain (s : State) (e : Nat) : Option Leaf := if s.leafOk 0 e then some (leafAt 0 e va) else none
  let g := i / 16 * 16
  let es := (List.range 16).map (fun j => s.entryAt table (g + j))
  if es.any (fun e => ebit e 0 && ebit e 5) && !contAgrees es then
    let (s1, c) := s.pick 17
    if c = 0 then (s1, plain s1 e)
    else
      let e' := es.getD (c - 1) 0
      (s1, (plain s1 e').map (fun l => { l with frame := l.frame / 65536 * 65536 + va / 4096 % 16 * 4096 }))
  else (s, plain s e)

/-- The part of an address that leads to a table of a level (09 R290). -/
def walkPart (level va : Nat) : Nat := va / 2 ^ (21 + 9 * level)

/-- What a walk found: the leaf, none for a not-present or faulty entry (R293), and the tables it went through. -/
abbrev Walked := Option Leaf × List WalkEntry

/-- The table walk of R290 from a table of a level down. -/
def State.walk (ctx va : Nat) : Nat → State → Nat → State × Walked
  | 0, s, base =>
    let (s1, l) := s.level0 base va
    (s1, l, [])
  | n + 1, s, base =>
    let level := n + 1
    let e := s.entryAt base (va / 2 ^ (12 + 9 * level) % 512)
    if level < 3 ∧ ebit e 1 = true then (s, if s.leafOk level e then some (leafAt level e va) else none, [])
    else if !s.pointerOk e then (s, none, [])
    else
      let (s1, l, seen) := State.walk ctx va n s (eframe e)
      (s1, l, ⟨ctx, n, walkPart n va, eframe e⟩ :: seen)

/-! ### CODED blocks named by a physical address (09 R282, R284) -/

/-- The entries of a table that are not zero. -/
def State.tableEntries (s : State) (table : Nat) : List Nat :=
  let base := physKey s.did table
  let held := s.mem.filter (fun c => base ≤ c.1 && c.1 < base + 4096)
  ((held.map (fun c => (c.1 - base) / 8)).dedup).map (s.entryAt table)

/-- A CODED leaf in a table of a level, or below it, maps a frame of own memory. -/
def State.mapsCoded (s : State) (pa : Nat) : Nat → Nat → Bool
  | 0, table => (s.tableEntries table).any (fun e =>
      s.leafOk 0 e && ebit e 6 && etarget e == s.did && eframe e / 4096 == pa / 4096)
  | n + 1, table => (s.tableEntries table).any (fun e =>
      if n < 2 ∧ ebit e 1 = true then
        s.leafOk (n + 1) e && ebit e 6 && etarget e == s.did && eframe e / 2 ^ (21 + 9 * n) == pa / 2 ^ (21 + 9 * n)
      else s.pointerOk e && State.mapsCoded s pa n (eframe e))

/-- A block of own memory that a write by physical address finds coded: its shadow entry says so, or a context's CODED leaf maps it
(R284; log entry 27). -/
def State.codedFor (s : State) (key : Nat) : Bool :=
  s.codedAt key ||
  ((s.shadowKey key).isSome && s.ctxs.any (fun c => c.2.state != 2 && s.mapsCoded (paOf key) 3 (c.2.ptbase.toNat % 2 ^ 48)))

/-- A write of local cells by physical key, block by block, with every effect of a write at the home (09 R284). -/
def State.physWrite (s : State) (cs : List (Nat × Byte)) : State :=
  ((cs.map (fun c => c.1 / 256)).dedup).foldl (fun s b =>
    let here := cs.filter (fun c => c.1 / 256 == b)
    (s.write here (s.codedFor (256 * b)) .other).1) s

/-- Ways to translate an address: a held translation, or a walk from a table. -/
inductive Way where
  | held (l : Leaf)
  | walk (level table : Nat)
  deriving DecidableEq, Repr

/-- A held translation as a leaf. -/
def TlbEntry.leaf (e : TlbEntry) : Leaf := ⟨e.frame, e.r, e.w, e.x, e.coded⟩

/-- A TLB with a translation put in. -/
def tlbPut (es : List TlbEntry) (ctx page : Nat) (l : Leaf) : List TlbEntry :=
  ⟨ctx, page, l.frame, l.r, l.w, l.x, l.coded⟩ :: es.filter (fun e => !(e.ctx == ctx && e.page == page))

/-- The ways a unit may translate an address: through its own TLB, its cluster's L2 TLB, a table its cluster's walkers hold, or from
the context's PTBASE (09 R294, R295). -/
def State.ways (s : State) (tlb ctx va : Nat) (ptbase : Addr) : List Way :=
  let held (es : List TlbEntry) : List Way :=
    ((es.find? (fun e => e.ctx == ctx && e.page == va / 4096)).map (fun e => Way.held e.leaf)).toList
  held (s.core tlb).tlb ++ held (s.tlb2.get [] (clusterOf tlb)) ++
  ((s.walks.get [] (clusterOf tlb)).filter (fun e => e.ctx == ctx && e.part == walkPart e.level va)).map (fun e => .walk e.level e.table) ++
  [.walk 3 (ptbase.toNat % 2 ^ 48)]

/-- Keep a translation in a unit's TLB and its cluster's, for its 4 KiB page, and the tables of its walk (09 R294, R295; log entry 18). -/
def State.keepWalk (s : State) (tlb ctx va : Nat) (l : Leaf) (seen : List WalkEntry) : State :=
  let cl := clusterOf tlb
  let core := s.core tlb
  let old := (s.walks.get [] cl).filter (fun e => !seen.any (fun x => x.ctx == e.ctx && x.level == e.level && x.part == e.part))
  let s1 := s.setCore tlb { core with tlb := tlbPut core.tlb ctx (va / 4096) l }
  { s1 with
    tlb2 := s1.tlb2.put cl (tlbPut (s1.tlb2.get [] cl) ctx (va / 4096) l)
    walks := s1.walks.put cl (seen ++ old) }

/-- Translate a virtual address for a unit, in one of the ways it has; none is a not-present or faulty entry (R293). -/
def State.translate (s : State) (tlb ctx va : Nat) : State × Option Leaf :=
  match s.ctxs.find? ctx with
  | none => (s, none)
  | some c =>
    let ways := s.ways tlb ctx va c.ptbase
    let (s1, n) := if ways.length = 1 then (s, 0) else s.pick ways.length
    match ways[n]? with
    | some (.held l) => (s1, some l)
    | some (.walk level table) =>
      match State.walk ctx va level s1 table with
      | (s2, none, _) => (s2, none)
      | (s2, some l, seen) => (s2.keepWalk tlb ctx va l seen, some l)
    | none => (s1, none)

/-- The leaf grants a permission (06 R178). -/
def Leaf.grants (l : Leaf) : Perm → Bool
  | .r => l.r
  | .w => l.w
  | .rw => l.r && l.w
  | .x => l.x

/-- Where an access lies: a physical key, or an offset in one of the scratchpads (06 R176). -/
inductive Loc where
  | mem (key : Nat) (coded : Bool)
  | core (off : Nat)
  | cluster (off : Nat)
  | chip (off : Nat)
  deriving DecidableEq, Repr

/-- A virtual address through translation and permission. -/
def State.virtual (s : State) (tlb ctx va : Nat) (p : Perm) : State × Except Cause Loc :=
  match s.translate tlb ctx va with
  | (s1, none) => (s1, .error .xlateNotPresent)
  | (s1, some l) =>
    if l.grants p then (s1, .ok (.mem (l.frame + va % 4096) l.coded)) else (s1, .error .xlatePermission)

/-- The aperture class of an address at or above 2^48: its code in bits [47:32] and its offset (06 R176). -/
def apertureOf (a : Nat) : Option (Nat × Nat) :=
  if a / 2 ^ 40 = 0xFFFFFF then some (a / 2 ^ 32 % 256, a % 2 ^ 32) else none

/-- Address class and valid offset for n bytes of an access (06 R176): scratch and cluster sizes of the group, the context's grant. -/
def State.classify (s : State) (tlb ctx : Nat) (g : Group) (lane : Nat) (wave : Nat) (a n : Nat) (lanePrivate scratch : Bool)
    (p : Perm) : State × Except Cause Loc :=
  if a < 2 ^ 48 then s.virtual tlb ctx a p
  else match apertureOf a, s.ctxs.find? ctx with
    | some (0, o), some _ => (s, if scratch && o + n ≤ g.scratch then .ok (.core o) else .error .aperture)
    | some (1, o), some _ => (s, if scratch && o + n ≤ g.cluster then .ok (.cluster o) else .error .aperture)
    | some (2, o), some c => (s, if scratch && o + n ≤ c.cssize then .ok (.chip (c.csbase + o)) else .error .aperture)
    | some (16, o), some c =>
      if lanePrivate && o + n ≤ 65536 then s.virtual tlb ctx (c.privbase.toNat + (wave * 32 + lane) * 65536 + o) p
      else (s, .error .aperture)
    | _, _ => (s, .error .aperture)

/-! ### Regions (08 R256 to R258) -/

/-- What a region lookup finds at a virtual address. -/
inductive InRegion where
  | none
  | tile (limit : Word)
  | faulty
  /-- The whole table is faulty: ACCB and LDE fault with the table's address (R258). -/
  | unreadable (a : Addr)
  deriving DecidableEq, Repr

/-- The region that covers a virtual address. -/
def Ctx.regionAt (c : Ctx) (va : Nat) : InRegion :=
  match c.regionFault with
  | some a => .unreadable a
  | none =>
    let hit (r : Region) : Bool := r.tiles != 0 && r.base.toNat ≤ va && va < r.base.toNat + 256 * r.tiles
    match c.regions.find? hit with
    | some r => if r.faulty then .faulty else .tile r.limit
    | none => .none

/-- The first of n bytes at a virtual address that lies in a faulty descriptor's range (R257). -/
def Ctx.faultyIn (c : Ctx) (va n : Nat) : Option Nat :=
  if c.regionFault.isSome then none
  else (List.range n).findSome? (fun i => if c.regionAt (va + i) = InRegion.faulty then some (va + i) else none)

/-- A faulty descriptor's BASE is 2^48 or more (R257). -/
def Ctx.farFaulty (c : Ctx) : Bool := c.regions.any (fun r => r.tiles != 0 && r.faulty && 2 ^ 48 ≤ r.base.toNat)

/-- Parse the table's 64 descriptors and mark the faulty ones (R256, R257). -/
def parseRegions (bs : List Byte) : List Region :=
  let raw := (List.range 64).map (fun i =>
    let d := bs.drop (16 * i)
    (ofBytes (d.take 8), ofBytes ((d.drop 8).take 4), ofBytes ((d.drop 12).take 4)))
  raw.mapIdx (fun i r =>
    let (base, tiles, limit) := r
    let normal := limit < 2 ^ 31 && limit / 2 ^ 23 != 0 && limit / 2 ^ 23 != 255
    let overlaps := (List.range 64).any (fun j =>
      let o := raw.getD j (0, 0, 0)
      j != i && o.2.1 != 0 && base < o.1 + 256 * o.2.1 && o.1 < base + 256 * tiles)
    { base := BitVec.ofNat 64 base, tiles := tiles, limit := BitVec.ofNat 32 limit,
      faulty := tiles != 0 && (base % 256 != 0 || 2 ^ 48 ≤ base || 2 ^ 24 < tiles || !normal || 2 ^ 48 < base + 256 * tiles || overlaps) })

/-! ### Reads and writes of a context's virtual memory by the device itself (rings, records, tables) -/

/-- Why such an access fails: a cause with the first failing address, or a line of another device that is still on its way. -/
inductive Bad where
  | fault (c : Cause) (a : Nat)
  | miss
  deriving DecidableEq, Repr

/-- Translate every byte's page of a range for a permission: the pieces (key, length, coded) or the first failing address. -/
def State.range (s : State) (tlb ctx : Nat) (p : Perm) : Nat → Nat → Nat → List (Nat × Nat × Bool) →
    State × Except Bad (List (Nat × Nat × Bool))
  | 0, _, _, acc => (s, .ok acc)
  | fuel + 1, va, n, acc =>
    if n = 0 then (s, .ok acc)
    else if 2 ^ 48 ≤ va then (s, .error (.fault .aperture va))
    else
      let m := min n (128 - va % 128)
      match s.virtual tlb ctx va p with
      | (s1, .ok (.mem key coded)) => State.range s1 tlb ctx p fuel (va + m) (n - m) (acc ++ [(key, m, coded)])
      | (s1, .ok _) => (s1, .error (.fault .aperture va))
      | (s1, .error c) => (s1, .error (.fault c va))

/-- Read n bytes of virtual memory exactly, in a traffic class (14 R393); the cause and the first failing address on a fault (08 R251). The own L2 keeps no copy of
another device's line that it went through, so that the next such read sees the home again. -/
def State.readVirtual (s : State) (tlb ctx va n : Nat) (cls : Nat := 0) : State × Except Bad (List Byte) :=
  match s.range tlb ctx .r (n / 128 + 2) va n [] with
  | (s1, .error e) => (s1, .error e)
  | (s1, .ok ps) =>
    let r := ps.foldl (fun (r : State × Except Bad (List Byte)) p =>
      match r.2 with
      | .error _ => r
      | .ok bs =>
        match r.1.tileReadAs cls 31 p.1 p.2.1 p.2.2 with
        | (s', .ok b) => (s', .ok (bs ++ b))
        | (s', .poison) => (s', .error (.fault .eccUncorrectable (va + bs.length)))
        | (s', .miss) => (s', .error .miss)) (s1, .ok [])
    match r with
    | (s2, .ok bs) => (if ps.all (fun p => s2.isLocal p.1) then s2 else s2.forgetLines (fun l => ps.any (fun p => lineOf p.1 == l)), .ok bs)
    | (s2, .error e) => (s2, .error e)

/-- Write bytes of virtual memory at the home, in a traffic class; the cause and address on a fault, else the tokens of writes on their way to other
devices. -/
def State.writeVirtual (s : State) (tlb ctx va : Nat) (bs : List Byte) (cls : Nat := 0) : State × Except Bad (List Nat) :=
  match s.range tlb ctx .w (bs.length / 128 + 2) va bs.length [] with
  | (s1, .error e) => (s1, .error e)
  | (s1, .ok ps) =>
    let r := ps.foldl (fun (r : (State × List Nat) × Nat) p =>
      let (s', ts) := r.1.1.writeAs cls (cellsAt p.1 ((bs.drop r.2).take p.2.1)) p.2.2 .other
      ((s', r.1.2 ++ ts), r.2 + p.2.1)) ((s1, []), 0)
    (r.1.1, .ok r.1.2)

/-! ### Ring control blocks (06 R195) -/

/-- A ring block's fields. -/
structure Ring where
  base : Nat
  log2cap : Nat
  head : Nat
  tail : Nat
  deriving DecidableEq, Repr

def Ring.cap (r : Ring) : Nat := 2 ^ r.log2cap
def Ring.used (r : Ring) : Nat := (r.tail + 2 ^ 32 - r.head) % 2 ^ 32

/-- A valid ring block from its 32 bytes, with entries aligned as R195 asks and LOG2CAP at most the given limit. -/
def parseRing (limit : Nat) (bs : List Byte) : Option Ring :=
  let f (o n : Nat) : Nat := ofBytes ((bs.drop o).take n)
  let r : Ring := { base := f 0 8, log2cap := f 8 4, head := f 16 4, tail := f 20 4 }
  if r.base % 128 = 0 ∧ r.base < 2 ^ 48 ∧ r.log2cap ≤ limit ∧ f 12 4 = 0 ∧ f 24 8 = 0 ∧ r.used ≤ r.cap then some r else none

end Sys2Proof.Machine
end

