-- ==== Sys2Proof/WellFormed.lean ====
section
/-! DEFINITION. Which values of an instruction's fields the spec does not reserve (03 R85, R95 to R97, R143 and the instruction rules). -/

namespace Sys2Proof

/-- The opcodes whose row of R90 says that they accept IMX (03 R90, R91). -/
def imxOpcodes : List Nat :=
  [0x18, 0x19, 0x1A, 0x1B, 0x1C, 0x24, 0x7A, 0x7B, 0x17, 0x50, 0x51, 0x52, 0x53, 0x54, 0x5A,
   0x55, 0x56, 0x57, 0x58, 0x59, 0x5D, 0x72, 0x74]

/-- A follower that IMX may precede (03 R91) with no reserved field: I18[17:11] zero in F-C (R90), a defined condition in ICMPI. -/
def imxAccepts (w : Word) : Bool :=
  let op := w.toNat / 2 ^ 25
  imxOpcodes.contains op &&
  (!(op == 0x17 || op == 0x7B || op == 0x72 || op == 0x74) || w.toNat / 2 ^ 11 % 128 == 0) &&
  (op != 0x24 || w.toNat / 2 ^ 21 % 16 < 6)

/-- A tag code that R51 defines (02 R51, R52). -/
def tagDefined (t : BitVec 6) : Bool :=
  let n := t.toNat
  n < 5 || (16 ≤ n && n < 48 && n % 8 != 7) || (48 ≤ n && n < 52) || n == 63

/-- PMOV: the mode and the fields it leaves unused (04 R126). -/
def pmovOk (d a : BitVec 7) (m : BitVec 2) : Bool :=
  if m = 0 then d.toNat < 8 && a.toNat < 16
  else if m = 1 then a == 0
  else if m = 2 then d == 0
  else false

/-- CVT: targets and flags that are not reserved at decode (05 R153); a reserved tag code is an operand fault, not a reserved field. -/
def cvtOk (s : BitVec 1) (t : BitVec 6) : Bool :=
  t != 4 && t != 63 && !(s == 1 && (t == 0 || t == 50 || t == 51))

/-- PACK: as cvtOk (05 R155). -/
def packOk (s : BitVec 1) (t : BitVec 6) : Bool :=
  t != 0 && t != 1 && t != 4 && t != 63 && !(s == 1 && (t == 50 || t == 51))

/-- TCVT: the target is F16x2 or BF16x2; a reserved code is an operand fault (05 R170). -/
def tcvtOk (t : BitVec 6) : Bool := !tagDefined t || t == 2 || t == 3

/-- No field of the instruction holds a reserved value (03 R97); events are well formed. -/
def Instr.wf : Instr → Bool
  | .iadd _ _ _ _ _ => true
  | .iadds _ _ _ _ _ => true
  | .isub _ _ _ _ _ => true
  | .isubs _ _ _ _ _ => true
  | .imul _ _ _ _ _ => true
  | .imulh _ _ _ _ _ => true
  | .imulhu _ _ _ _ _ => true
  | .imad _ _ _ _ _ => true
  | .land _ _ _ _ _ => true
  | .lor _ _ _ _ _ => true
  | .lxor _ _ _ _ _ => true
  | .andn _ _ _ _ _ => true
  | .shl _ _ _ _ _ => true
  | .shr _ _ _ _ _ => true
  | .sar _ _ _ _ _ => true
  | .imin _ _ _ _ _ => true
  | .imax _ _ _ _ _ => true
  | .umin _ _ _ _ _ => true
  | .umax _ _ _ _ _ => true
  | .lea2 _ _ _ _ => true
  | .lea3 _ _ _ _ => true
  | .mov _ _ _ h => h != 2
  | .lnot _ _ _ h => h != 2
  | .neg _ _ _ h => h != 2
  | .iabs _ _ _ h => h != 2
  | .popc _ _ _ h => h != 2
  | .clz _ _ _ h => h != 2
  | .ctz _ _ _ h => h != 2
  | .brev _ _ _ h => h != 2
  | .bswap _ _ _ h => h != 2
  | .laneid _ _ h => h != 2 && h != 1
  | .fibid _ _ h => h != 2 && h != 1
  | .smovi _ _ => true
  | .iaddi _ _ _ => true
  | .imuli _ _ _ => true
  | .andi _ _ _ => true
  | .ori _ _ _ => true
  | .xori _ _ _ => true
  | .shli _ _ _ => true
  | .shri _ _ _ => true
  | .sari _ _ _ => true
  | .icmp c _ _ _ _ => c.toNat < 6
  | .ucmp c _ _ _ _ => c.toNat < 6
  | .fcmp c _ _ _ _ => c.toNat < 13
  | .hcmp c _ _ _ _ => c.toNat < 13
  | .icmpi c _ _ _ => c.toNat < 6
  | .plog _ _ _ o _ _ _ => o != 3
  | .pmov d a m _ => pmovOk d a m
  | .vote d _ _ m _ => (m == 2 || d.toNat < 8)
  | .fadd _ _ _ _ _ => true
  | .fsub _ _ _ _ _ => true
  | .fmul _ _ _ _ _ => true
  | .ffma _ _ _ _ _ => true
  | .fmin _ _ _ _ _ => true
  | .fmax _ _ _ _ _ => true
  | .fclamp _ _ _ _ _ => true
  | .fmov _ _ _ h => h != 2
  | .fneg _ _ _ h => h != 2
  | .fabs _ _ _ h => h != 2
  | .frcp _ _ _ h => h != 2
  | .frsq _ _ _ h => h != 2
  | .fsqrt _ _ _ h => h != 2
  | .fexp2 _ _ _ h => h != 2
  | .flog2 _ _ _ h => h != 2
  | .fsin _ _ _ h => h != 2
  | .fcos _ _ _ h => h != 2
  | .ffloor _ _ _ h => h != 2
  | .fceil _ _ _ h => h != 2
  | .ftrunc _ _ _ h => h != 2
  | .frint _ _ _ h => h != 2
  | .ffract _ _ _ h => h != 2
  | .fsign _ _ _ h => h != 2
  | .hadd2 _ _ _ _ _ => true
  | .hsub2 _ _ _ _ _ => true
  | .hmul2 _ _ _ _ _ => true
  | .hfma2 _ _ _ _ _ => true
  | .hmin2 _ _ _ _ _ => true
  | .hmax2 _ _ _ _ _ => true
  | .dot2h _ _ _ _ _ => true
  | .dot4q _ _ _ _ _ => true
  | .cadd _ _ _ _ => true
  | .csub _ _ _ _ => true
  | .cmul _ _ _ _ => true
  | .cfma _ _ _ _ => true
  | .ccmul _ _ _ _ => true
  | .cmag2 _ _ _ => true
  | .cexpi _ _ _ => true
  | .cscale _ _ _ _ => true
  | .cvt _ _ s t _ h => h != 2 && cvtOk s t
  | .pack _ _ s t _ h => h != 2 && h != 1 && packOk s t
  | .unpackWiden _ _ k _ h => h != 2 && h != 3 && k != 3
  | .unpackBlock _ _ _ => true
  | .settag _ _ _ _ h => h != 2
  | .gettag _ _ _ h => h != 2
  | .shfl _ _ _ _ _ => true
  | .xbar _ _ _ _ h => h != 2 && h != 1
  | .xptl _ _ _ => true
  | .tmma _ _ _ m => m.toNat < 2
  | .tmmat _ _ _ m => m.toNat < 2
  | .tzero _ m => m.toNat < 2
  | .ttrnFragment _ _ m => m.toNat < 2
  | .ttrnAccumulator _ _ m => m.toNat < 2
  | .tact _ _ f m => m.toNat < 2 && f.toNat < 6
  | .tcvt _ _ _ t m => tcvtOk t && m.toNat < 2
  | .tred _ _ o m => m.toNat < 2 && o != 3
  | .tbias _ _ _ m => m.toNat < 2
  | .ldb _ _ _ => true
  | .ldh _ _ _ => true
  | .ldw _ _ _ => true
  | .ldd _ _ _ => true
  | .ldq _ _ _ => true
  | .stb _ _ _ => true
  | .sth _ _ _ => true
  | .stw _ _ _ => true
  | .std _ _ _ => true
  | .stq _ _ _ => true
  | .ldv _ _ _ => true
  | .ldf _ _ _ _ => true
  | .lde _ _ _ _ => true
  | .accb _ _ _ => true
  | .tld _ _ _ m => m.toNat < 2
  | .tst _ _ _ m => m.toNat < 2
  | .aadd _ _ _ _ => true
  | .aaddNr _ _ _ => true
  | .afadd _ _ _ _ => true
  | .afaddNr _ _ _ => true
  | .amin _ _ _ _ => true
  | .aminNr _ _ _ => true
  | .amax _ _ _ _ => true
  | .amaxNr _ _ _ => true
  | .aumin _ _ _ _ => true
  | .auminNr _ _ _ => true
  | .aumax _ _ _ _ => true
  | .aumaxNr _ _ _ => true
  | .aand _ _ _ _ => true
  | .aandNr _ _ _ => true
  | .aor _ _ _ _ => true
  | .aorNr _ _ _ => true
  | .axor _ _ _ _ => true
  | .axorNr _ _ _ => true
  | .axchg _ _ _ _ => true
  | .axchgNr _ _ _ => true
  | .acas _ _ _ _ => true
  | .acasNr _ _ _ => true
  | .enq _ _ _ _ => true
  | .deq _ _ _ _ => true
  | .monw k _ _ _ => k.toNat < 10
  | .phase _ => true
  | .bar _ => true
  | .br _ _ _ _ => true
  | .brx _ _ => true
  | .call _ _ => true
  | .ret _ _ => true
  | .fork _ _ => true
  | .fend _ => true
  | .join _ => true
  | .waitc _ _ _ _ => true
  | .sadd _ _ _ => true
  | .ssub _ _ _ => true
  | .smul _ _ _ => true
  | .smulh _ _ _ => true
  | .sand _ _ _ => true
  | .sor _ _ _ => true
  | .sxor _ _ _ => true
  | .sshl _ _ _ => true
  | .sshr _ _ _ => true
  | .ssar _ _ _ => true
  | .smin _ _ _ => true
  | .smax _ _ _ => true
  | .sumin _ _ _ => true
  | .sumax _ _ _ => true
  | .smov _ _ => true
  | .sslt _ _ _ => true
  | .sfadd _ _ _ => true
  | .sfsub _ _ _ => true
  | .sfmul _ _ _ => true
  | .sffma _ _ _ => true
  | .sfmin _ _ _ => true
  | .sfmax _ _ _ => true
  | .sfrcp _ _ => true
  | .sfrsq _ _ => true
  | .sfsqrt _ _ => true
  | .scvtfi _ _ => true
  | .scvtif _ _ => true
  | .sfcmplt _ _ _ => true
  | .saddi _ _ _ => true
  | .vmovi _ _ => true
  | .imx _ next => imxAccepts next
  | .cplin _ _ q => q.toNat < 4
  | .cp2d _ _ q => q.toNat < 4
  | .cpgath _ _ q => q.toNat < 4
  | .cpscat _ _ q => q.toNat < 4
  | .cpexp _ _ q => q.toNat < 4
  | .cpcmp _ _ q => q.toNat < 4
  | .rcarm _ _ q => q.toNat < 4
  | .rcwait _ _ q => q.toNat < 4
  | .gtopk _ _ q => (4 <= q.toNat && q.toNat < 8)
  | .gbuck _ _ q => (4 <= q.toNat && q.toNat < 8)
  | .gmerge _ _ q => (4 <= q.toNat && q.toNat < 8)
  | .ghist _ _ q => (4 <= q.toNat && q.toNat < 8)
  | .gscan _ _ q => (4 <= q.toNat && q.toNat < 8)
  | .gperm _ _ q => (4 <= q.toNat && q.toNat < 8)
  | .cxfork _ _ q => (8 <= q.toNat && q.toNat < 12)
  | .cxrdv _ _ q => (8 <= q.toNat && q.toNat < 12)
  | .cxbond _ _ q => (8 <= q.toNat && q.toNat < 12)
  | .cxdense _ _ q => (8 <= q.toNat && q.toNat < 12)
  | .qfence _ _ q => q.toNat < 12
  | .qstat _ _ q => q.toNat < 12
  | .genray _ _ _ => true
  | .trace _ => true
  | .accept _ => true
  | .ignore _ => true
  | .termray _ => true
  | .spawn _ _ _ => true
  | .rayld _ c _ _ => c != 3
  | .rayst _ c _ _ => c != 3
  | .raydone _ => true
  | .binkey _ _ => true
  | .childq _ _ => true
  | .item c _ _ => c.toNat < 17
  | .launch _ _ _ => true
  | .nop => true
  | .trap _ _ => true
  | .bkpt _ _ => true
  | .getsr _ _ _ _ => true
  | .setsr _ _ _ => true
  | .rdcyc _ _ => true
  | .yield => true
  | .region => true
  | .winb _ => true
  | .swinb _ => true
  | .regreq _ => true
  | .regrel _ => true
  | .rdlane _ _ _ => true
  | .wrlane _ _ _ => true
  | .bcast _ _ _ _ => true
  | .prefh _ _ => true
  | .parkc _ => true
  | .tileOpComplete _ => true
  | .illegalEncoding _ => true
  | .fetchFault _ => true
  | .queuedCommandStart _ _ => true
  | .copyUnit _ _ => true
  | .gseRow _ _ => true
  | .macRun _ _ _ _ => true
  | .queuedCommandComplete _ _ => true
  | .loadb _ _ => true
  | .contract _ _ => true
  | .dense _ _ => true
  | .conv3 _ _ => true
  | .ups2 _ _ => true
  | .act _ _ => true
  | .perm _ _ => true
  | .storeb _ _ => true
  | .splitParts _ _ => true
  | .endSplit _ _ => true
  | .env _ _ => true
  | .endProg _ _ => true
  | .parkcTimeout _ => true
  | .loadLands _ _ => true
  | .storePerformed _ _ => true
  | .monwRecheck _ => true
  | .regionJoin _ => true
  | .drainCombine _ => true
  | .drainAck _ => true
  | .regionRead _ => true
  | .l1Evict _ _ => true
  | .waveRetire _ => true
  | .regreqGrant _ _ => true
  | .spillWave _ _ => true
  | .spillReturn _ => true
  | .monwSpill _ => true
  | .waveExchange _ _ => true
  | .waveAgeBoost _ => true
  | .lqbell _ => true
  | .launchAccept _ => true
  | .groupPlace => true
  | .placementReserve _ => true
  | .launchComplete _ => true
  | .rayTraverse _ => true
  | .binAgeFlush _ => true
  | .rayRefill _ _ => true
  | .groupHaltComplete _ => true
  | .resume _ _ => true
  | .skip _ _ => true
  | .cancel _ _ => true
  | .kill _ _ => true
  | .trapreplyInvalid _ => true
  | .tqerrClear _ => true
  | .engineStatusClear _ _ => true
  | .ctxNone _ => true
  | .switchIn _ => true
  | .switchOut _ => true
  | .killContext _ => true
  | .killLaunch _ => true
  | .haltContext _ => true
  | .ctxReservedOp _ _ => true
  | .contextOpComplete => true
  | .invalidationRequest _ _ _ => true
  | .invalidationComplete => true
  | .domainWrite _ => true
  | .linkctlWrite _ _ => true
  | .registerWrite _ _ => true
  | .linkUp _ _ => true
  | .flitReceive _ _ => true
  | .nakReceive _ _ => true
  | .linkRead _ => true
  | .linkWrite _ => true
  | .linkAtomic _ => true
  | .linkEnq _ => true
  | .linkDeq _ => true
  | .linkMonw _ => true
  | .linkInvalidate _ => true
  | .linkDrain _ => true
  | .linkResponse _ => true
  | .linkWake _ => true
  | .linkLost _ => true
  | .hostRead _ _ _ => true
  | .hostWrite _ _ _ _ => true
  | .deviceReset _ _ _ _ _ => true
  | .extend _ _ => true
  | .quote _ => true
  | .alarm _ => true
  | .clockStepDown => true
  | .clockStepUp => true
  | .controlCoreRead _ _ => true
  | .controlCoreWrite _ _ => true
  | .softError _ _ => true

end Sys2Proof
end

