-- ==== Sys2Proof/Machine/Ops.lean ====
section
/-! DEFINITION. Issuing an instruction, taking an exception and returning from one (13 R365 to R374), shared by every meaning. -/

namespace Sys2Proof.Machine

/-- The code of a cause (13 R369). -/
def Cause.code : Cause → Nat
  | .illegalOp => 0x01
  | .reservedField => 0x02
  | .illegalOperand => 0x03
  | .formatMismatch => 0x04
  | .misaligned => 0x05
  | .xlateNotPresent => 0x06
  | .xlatePermission => 0x07
  | .aperture => 0x08
  | .imxSequence => 0x09
  | .software => 0x0A
  | .breakpoint => 0x0B
  | .rayQuota => 0x10
  | .launchDepth => 0x11
  | .queueControl => 0x12
  | .boundaryOverflow => 0x18
  | .chainShape => 0x19
  | .engineXlate => 0x1A
  | .engineCommand => 0x1B
  | .regionDescriptor => 0x20
  | .eccUncorrectable => 0x30
  | .computeCheck => 0x31
  | .alarm => 0x3F

/-- The TLB that the Launch Unit, the trap machinery and the Eddy use: the model's key for it (log entry 18). -/
def deviceTlb : Nat := 96

/-! ### Interrupts and TQERR (13 R367; 14 R396) -/

/-- Raise an interrupt toward the control core that its routing register names, and as an MSI-X vector while HOSTREG is 1 (14 R396; log
entry 68). -/
def State.interrupt (s : State) (n : Nat) : State :=
  { s with regs := { s.regs with
      interrupts := listed n s.regs.interrupts
      steered := s.regs.steered.put n ((s.regs.routing.get 0 n).toNat % 16)
      msix := if s.zephyr.hostreg then listed n s.regs.msix else s.regs.msix } }

def State.setTqerr (s : State) (v : Word) : State := { s with regs := { s.regs with tqerr := v } }

/-! ### Halting (13 R370, R371) -/

/-- A sibling that the halt has reached stops at an instruction boundary in a wave-level wait, with no eligible fibre, or after its
skid (R370), but not within an instruction some of whose lanes are performed (R371). An immediate engine command that waits is not performed: its count is taken back (R371). -/
def Wave.stopCheck (w : Wave) : Wave :=
  match w.run with
  | .skid left =>
    if w.doneLanes = 0 && w.asked.isEmpty && (left = 0 || w.wait.isSome || w.batch.isNone) then
      let dropImm (os : List Op) : List Op := os.filter (fun o => !(o.kind == .immediate && !o.done))
      let wait := match w.wait with
        | some .retry => none
        | some (.parkc _ _) => none
        | some (.bar b) => some (.bar b)
        | some (.monw p) => some (.monw p)
        | some (.regreq n) => some (.regreq n)
        | none => none
      { w with run := .stopped, cp := dropImm w.cp, tx := dropImm w.tx, wait := wait }
    else w
  | .running => w
  | .stopped => w
  | .faulted _ _ _ => w

/-- The halt reaches a wave: it may issue at most 4 further instructions (R370). -/
def Wave.halt (w : Wave) : Wave :=
  match w.run with
  | .running => { w with run := .skid 4, skid := 0 }.stopCheck
  | .skid _ => w.stopCheck
  | .stopped => w
  | .faulted _ _ _ => w

def Wave.isStopped (w : Wave) : Bool :=
  match w.run with
  | .running => false
  | .skid _ => false
  | .stopped => true
  | .faulted _ _ _ => true

/-- A stopped wave's state is complete: its tile instructions have finished and its loads have landed (R371). -/
def Wave.isQuiet (w : Wave) : Bool :=
  w.isStopped && w.ld.isEmpty && w.tx.all (fun o => o.done || o.kind != .tile)

def State.group (s : State) (g : Nat) : Option Group := s.groups.find? g
def State.setGroup (s : State) (g : Nat) (x : Group) : State := { s with groups := s.groups.put g x }
def State.modGroup (s : State) (g : Nat) (f : Group → Group) : State := { s with groups := s.groups.modify g f }

/-- Halt the waves of a group (R370). -/
def State.haltGroup (s : State) (g : Nat) : State :=
  let s1 := { s with waves := s.waves.map (fun (p : Nat × Wave) => (p.1, if p.2.group = g then p.2.halt else p.2)) }
  s1.modGroup g (fun x => if x.halted then x else { x with halted := true, recorded := false, skidGone := 0 })

/-! ### Trap records (13 R365 to R368) -/

/-- The WAVE field of a record (R368). -/
def packWave (k lane wid : Nat) : Word :=
  BitVec.ofNat 32 (cidOf k + partOf k * 2 ^ 6 + slotOf k * 2 ^ 9 + lane * 2 ^ 15 + wid * 2 ^ 20)

/-- The 64 bytes of a record (R368). -/
def TrapRec.bytes (r : TrapRec) (skidMax : Nat) : List Byte :=
  bytesOf 1 r.cause.code ++ bytesOf 1 r.source ++ bytesOf 1 (if r.groupHalt then 1 else 0) ++ bytesOf 1 skidMax ++
  bytesOf 4 r.seq ++ bytesOf 4 r.instr.toNat ++ bytesOf 8 r.pc.toNat ++ bytesOf 8 r.region.toNat ++ bytesOf 8 r.faddr.toNat ++
  bytesOf 4 r.lid.toNat ++ bytesOf 4 r.group.toNat ++ bytesOf 4 r.who.toNat ++
  (List.range 4).flatMap (fun i => bytesOf 4 ((r.progress.getD i 0).toNat))

/-- A trap-queue failure: the context's groups halt, TQERR records it (R366, R367). -/
def State.trapQueueFailure (s : State) (ctx : Nat) : State :=
  let gs := (s.groups.filter (fun g => g.2.ctx == ctx)).map Prod.fst
  let s1 := (gs.foldl State.haltGroup s).modCtx ctx (fun c => { c with frozen := true, tqfail := true })
  let old := s1.regs.tqerr
  if old.getLsbD 31 then
    (if old.getLsbD 29 then s1 else (s1.setTqerr (old ||| 0x20000000)).interrupt 1)
  else (s1.setTqerr ((old &&& 0xFFFFF000) ||| 0x80000000 ||| BitVec.ofNat 32 (ctx % 4096))).interrupt 1

/-- Try to write one record: done, the queue is full, or the queue failed (R365, R366). -/
def State.tryRecord (s : State) (r : TrapRec) (skidMax : Nat) : State × Option Bool :=
  match s.ctxs.find? r.ctx with
  | none => (s, some true)
  | some c =>
    match s.readVirtual deviceTlb r.ctx c.tqring.toNat 32 with
    | (s1, .error .miss) => (s1, none)
    | (s1, .error (.fault _ _)) => (s1, some false)
    | (s1, .ok bs) =>
      match parseRing 16 bs with
      | none => (s1, some false)
      | some ring =>
        if c.tqring.toNat % 32 ≠ 0 then (s1, some false)
        else if ring.used = ring.cap then (s1, none)
        else
          match s1.writeVirtual deviceTlb r.ctx (ring.base + 64 * (ring.tail % ring.cap)) (r.bytes skidMax) with
          | (s2, .error _) => (s2, some false)
          | (s2, .ok _) =>
            match s2.writeVirtual deviceTlb r.ctx (c.tqring.toNat + 20) (bytesOf 4 ((ring.tail + 1) % 2 ^ 32)) with
            | (s3, .error _) => (s3, some false)
            | (s3, .ok _) => (s3.interrupt 0, some true)

/-- How long ago a context's record was numbered, in records. -/
def Ctx.seniority (c : Ctx) (seq : Nat) : Nat := (c.trapseq.toNat + 2 ^ 32 - seq) % 2 ^ 32

/-- A record raised earlier waits for its halt to be complete (R365, R373). -/
def State.earlierWaits (s : State) (ctx : Nat) (c : Ctx) (seq : Nat) : Bool :=
  s.groups.any (fun (g : Nat × Group) => g.2.ctx == ctx && g.2.records.any (fun r => decide (c.seniority seq < c.seniority r.seq)))

/-- Write the records that wait, in the order in which they were raised, as far as the queue has room; where it fails they wait until the
context is switched in again, and the context halts (R365, R366; log entry 24). -/
def State.flushBacklog : Nat → State → Nat → State
  | 0, s, _ => s
  | fuel + 1, s, ctx =>
    match s.ctxs.find? ctx with
    | none => s
    | some c =>
      match c.backlog with
      | [] => s
      | (r, m) :: rest =>
        if c.tqfail || s.earlierWaits ctx c r.seq then s
        else match s.tryRecord r m with
          | (s1, some true) => State.flushBacklog fuel (s1.modCtx ctx (fun c => { c with backlog := rest })) ctx
          | (s1, none) => s1
          | (s1, some false) => s1.trapQueueFailure ctx

/-- A record takes its place among those that wait, and they are written as far as they can be (R365, R366). No record of a killed
context is written (R386). -/
def State.putRecord (s : State) (r : TrapRec) (skidMax : Nat) : State :=
  match s.ctxs.find? r.ctx with
  | none => s
  | some c =>
    if c.state = 2 then s
    else
      let le (x y : TrapRec × Nat) : Bool := decide (c.seniority y.1.seq ≤ c.seniority x.1.seq)
      (s.modCtx r.ctx (fun c => { c with backlog := insertBy le (r, skidMax) c.backlog })).flushBacklog (c.backlog.length + 1) r.ctx

/-- The record has been written, so that it can be answered (R365, R366). -/
def State.recordWritten (s : State) (ctx seq : Nat) : Bool :=
  !s.groups.any (fun (g : Nat × Group) => g.2.ctx == ctx && g.2.records.any (fun r => r.seq == seq)) &&
  !(((s.ctxs.find? ctx).map Ctx.backlog).getD []).any (fun r => r.1.seq == seq)

/-- The place of a record that no wave raised among the records of one cycle: after every wave's (R365). -/
def otherSource : Nat := 2 ^ 20

/-- A record may be raised in this cycle by a wave, or by another source: none of a later place has been (R365). -/
def State.inOrder (s : State) (ctx place : Nat) : Bool :=
  match (s.ctxs.find? ctx).bind Ctx.raised with
  | some (t, p) => t != s.cycle || p ≤ place
  | none => true

/-- The next SEQ of a context's records; the image of a switched-out context follows it (R365, R382). -/
def State.nextSeq (s : State) (ctx place : Nat) : State × Nat :=
  match s.ctxs.find? ctx with
  | none => (s, 0)
  | some c =>
    let s1 := s.modCtx ctx (fun c => { c with trapseq := c.trapseq + 1, raised := some (s.cycle, place) })
    (if c.state = 0 then s1.putBytes (physKey s.did (c.image.toNat + 76)) (bytesOf 4 (c.trapseq + 1).toNat) else s1, c.trapseq.toNat)

/-- Remember a record that awaits its answer (R374). -/
def State.addPending (s : State) (ctx : Nat) (p : Pending) : State :=
  s.modCtx ctx (fun c => { c with pending := c.pending ++ [p] })

/-- A record with everything zero but its context, number, cause and source (R368). -/
def TrapRec.blank (ctx seq : Nat) (cause : Cause) (source : Nat) : TrapRec :=
  { ctx := ctx, seq := seq, cause := cause, source := source, groupHalt := false, instr := 0, pc := 0, region := 0, faddr := 0,
    lid := 0, group := 0, who := 0, progress := [] }

/-- A fault of a unit that halts no wave: number it, remember it and write it (R365, R372). -/
def State.unitFault (s : State) (ctx : Nat) (cause : Cause) (source : Nat) (fill : TrapRec → TrapRec) (pend : Pending → Pending) :
    State × Nat :=
  let (s1, seq) := s.nextSeq ctx otherSource
  let p : Pending :=
    { seq := seq, cause := cause, source := source, wave := 0, uid := 0, group := 0, lid := 0, queue := 0, cmd := 0,
      ray := 0, answer := none }
  ((s1.addPending ctx (pend p)).putRecord (fill (TrapRec.blank ctx seq cause source)) 0, seq)

/-! ### The group record of the context image (13 R384) -/

/-- The largest skid of the waves of a halt, those that trapped or retired during theirs included (R368, R372). -/
def State.skidMax (s : State) (g : Nat) : Nat :=
  s.waves.foldl (fun m p => if p.2.group = g then max m p.2.skid else m) (((s.group g).map Group.skidGone).getD 0)

/-- The wave of a group that has a WID, in its slot or away from it (R379). -/
def State.memberWave (s : State) (x : Group) (wid : Nat) : Option Wave :=
  let k := x.members.getD wid 0
  let its (w : Wave) : Bool := w.ctx == x.ctx && w.lid == x.lid && w.wid == wid
  match (s.waves.find? k).filter its with
  | some w => some w
  | none => (s.away.find? (fun p => p.1 == k && its p.2)).map Prod.snd

/-- A wave's SKID nibble: its skid, 15 for a faulting wave and for retired waves (R384). -/
def State.skidNibble (s : State) (x : Group) (wid : Nat) : Nat :=
  if x.retired.contains wid then 15
  else match s.memberWave x wid with
    | none => 15
    | some w => match w.run with
      | .faulted _ _ _ => 15
      | .running => w.skid
      | .skid _ => w.skid
      | .stopped => w.skid

/-- The 256 bytes of a group record (R384). -/
def State.groupRecord (s : State) (x : Group) : List Byte :=
  let cores := x.cores ++ List.replicate (4 - x.cores.length) 0xFF
  let flags := 1 + (if x.halted then 2 else 0) + (if 1 < x.cores.length then 4 else 0) + 8 * (x.generation % 2)
  bytesOf 4 x.lid ++ bytesOf 4 x.index.toNat ++ bytesOf 2 x.waves ++ bytesOf 2 x.arrived.length ++ bytesOf 1 flags ++ bytesOf 3 0 ++
  cores.flatMap (bytesOf 1) ++ bytesOf 4 (x.haltSeq.getD 0xFFFFFFFF) ++ List.replicate 40 0 ++
  (List.range 192).flatMap (fun i => bytesOf 1
    (if 2 * i < x.waves then s.skidNibble x (2 * i) + 16 * (if 2 * i + 1 < x.waves then s.skidNibble x (2 * i + 1) else 0) else 0))

/-- Write a group's record at the index of its first wave's slot (R373, R384). -/
def State.writeGroupRecord (s : State) (x : Group) : State :=
  match s.ctxs.find? x.ctx with
  | none => s
  | some c => s.putBytes (physKey s.did (c.image.toNat + 0x14E000 + 256 * (x.members.headD 0))) (s.groupRecord x)

/-- When every wave of a halted group has stopped: its group record, then the records of the halt (R365, R373). -/
def State.completeHalt (s : State) (g : Nat) : State :=
  match s.group g with
  | none => s
  | some x =>
    if x.halted && !x.recorded && s.waves.all (fun p => p.2.group != g || p.2.isQuiet) then
      let m := s.skidMax g
      let s1 := (s.writeGroupRecord x).modGroup g (fun x => { x with recorded := true, records := [] })
      x.records.foldl (fun s r => s.putRecord r m) s1
    else s

/-! ### Taking an exception (13 R370 to R373) -/

/-- The lanes of a mask of cells. -/
def lanesOfCells (cs : List Nat) : Word := cs.foldl (fun m c => m ||| laneBit (c % 32)) 0

/-- Discard the loads in flight: their registers become undefined with EMPTY clear (01 R48, 13 R371); the lanes that had one. -/
def Wave.discardLoads (w : Wave) : Wave × Word :=
  let lost := (w.ld.filter (fun (o : Op) => o.kind == OpKind.load && !o.done)).flatMap (fun o => o.busy)
  let w1 := { w with ld := dropDone (w.ld.filter (fun (o : Op) => !(o.kind == OpKind.load && !o.done))) }
  (w1.dropList lost, lanesOfCells lost &&& w.liveMask)

/-- What a wave goes on waiting for once the fibres of a mask go elsewhere: what the others are parked for (13 R371, R374). -/
def Wave.staysParked (w : Wave) (m : Word) : Option Wait :=
  match w.wait with
  | some (.bar b) => if b &&& ~~~m = 0 then none else some (.bar (b &&& ~~~m))
  | some (.monw p) =>
    if p.iss.batch &&& ~~~m = 0 then none else some (.monw { p with iss := { p.iss with batch := p.iss.batch &&& ~~~m } })
  | some (.regreq n) => some (.regreq n)
  | some .retry => none
  | some (.parkc _ _) => none
  | none => none

/-- TAKING AN EXCEPTION, the one shared operation (13 R368, R370 to R373; 01 R48): the wave issues nothing further, its loads in
flight are discarded, a record is made and numbered, and its group is halted. The fibres keep their PCs until the record is answered. -/
def State.takeTrap (s : State) (iss : Issue) (cause : Cause) (faddr : Addr) (lane : Nat) : State :=
  match s.waves.find? iss.wave with
  | none => s
  | some w =>
    let (s1, seq) := s.nextSeq w.ctx iss.wave
    let (w1, lost) := w.discardLoads
    let w2 := { w1 with run := .faulted seq iss (lost &&& ~~~iss.batch), wait := w1.staysParked 0, asked := [] }
    let first := match s1.group w.group with
      | some x => !x.halted
      | none => true
    let index := ((s1.group w.group).map Group.index).getD 0
    let r : TrapRec := { TrapRec.blank w.ctx seq cause 0 with
      groupHalt := first, instr := iss.word, pc := iss.pc, region := (w.fib (lowest iss.batch)).region, faddr := faddr,
      lid := BitVec.ofNat 32 w.lid, group := index, who := packWave iss.wave lane w.wid }
    let s2 := (s1.setWave iss.wave w2).modGroup w.group (fun x => { x with
      records := x.records ++ [r], unanswered := x.unanswered ++ [seq], recorded := false,
      haltSeq := if first then some seq else x.haltSeq })
    let p : Pending :=
      { seq := seq, cause := cause, source := 0, wave := iss.wave, uid := w.uid, group := w.group, lid := w.lid,
        queue := 0, cmd := 0, ray := 0, answer := none }
    ((s2.addPending w.ctx p).haltGroup w.group).completeHalt w.group

/-- RETURNING FROM AN EXCEPTION with RESUME: the faulting batch and the fibres with a discarded load go to their region entries and
the latch is made invalid; rays bound by GENRAY since then are handed back by the caller (01 R40, R48; 07 R226; 13 R374). -/
def Wave.resumeTrap (w : Wave) (iss : Issue) (others : Word) : Wave :=
  let m := (iss.batch ||| others) &&& w.liveMask
  let w1 := w.mapFibs m (fun _ f =>
    { f with pc := f.region, join := none, owed := 0, bound := if f.fresh then .none else f.bound, fresh := false })
  { w1.clearLatch with run := .running, skid := 0, doneLanes := 0, wait := w.staysParked m }

/-- Returning with SKIP: the faulting batch goes on after the instruction, no fibre returns to its region entry (13 R374). -/
def Wave.skipTrap (w : Wave) (iss : Issue) : Wave :=
  let m := iss.batch &&& w.liveMask
  { w.mapFibs m (fun _ f => { f with pc := iss.next, owed := 0 }) with
    run := .running, skid := 0, doneLanes := 0, wait := w.staysParked m }

/-- A stopped sibling goes on at its resumption PCs (13 R371, R374). -/
def Wave.resumeStopped (w : Wave) : Wave :=
  match w.run with
  | .stopped => { w with run := .running, skid := 0 }
  | .running => w
  | .skid _ => w
  | .faulted _ _ _ => w

/-! ### Issuing -/

/-- What an instruction's own part gives: it completed, it waits, or it traps with a fault address in a lane. -/
inductive Out where
  | done (s : State)
  | wait (s : State)
  | trap (s : State) (c : Cause) (faddr : Addr) (lane : Nat)

/-- One issue counted against a skid (R370). -/
def Wave.countSkid (w : Wave) : Wave :=
  match w.run with
  | .skid left => { w with run := .skid (left - 1), skid := w.skid + 1 }.stopCheck
  | .running => w
  | .stopped => w
  | .faulted _ _ _ => w

/-- Put back a wave whose issue has completed. -/
def State.retire (s : State) (iss : Issue) (w : Wave) : State :=
  s.setWave iss.wave { w.countSkid with lastIssue := s.cycle, boosted := false }

/-- A wave-level wait: the instruction is issued again later (01 R16). -/
def State.waitIssue (s : State) (iss : Issue) : State :=
  s.modWave iss.wave (fun w => { w with wait := some .retry, tried := s.cycle + 1 }.stopCheck)

/-- A counted operation that has nothing to do (01 R44, 03 R99). -/
def Op.nothing (uid : Nat) (kind : OpKind) (iss : Issue) : Op :=
  { uid := uid, kind := kind, iss := iss, writes := [], busy := [], waits := [], adds := [], done := true }

/-- Count an operation whose event has occurred at once. -/
def Wave.countDone (w : Wave) (c : Ctr) (uid : Nat) (iss : Issue) : Wave :=
  let w1 := w.count c (Op.nothing uid .store iss)
  w1.setOps c (dropDone (w1.ops c))

/-- No fibre passes the guard: the issue counts, moves on and does nothing else (03 R99). -/
def State.skipIssue (s : State) (p : Pre) (iss : Issue) (w : Wave) : State :=
  match p.counter with
  | some c => s.tick1.retire iss ((w.countDone c s.fresh iss).finish iss)
  | none => s.retire iss (w.finish iss)

/-- Run f on the issue under way and its wave. -/
def withIssue (s : State) (f : Issue → Wave → State) : Host.Outcome State Fault Refusal :=
  match s.cur with
  | none => .fault .noIssue
  | some iss =>
    match s.waves.find? iss.wave with
    | none => .fault .noIssue
    | some w => .next (f iss w)

/-- The lowest lane of a mask in which an operand lies in a register lane or latch lane with an uncorrectable error; a scalar's error counts
for the lowest lane, and so does one in a lane that is read for another (14 R401). A destination is read for its EMPTY bit. -/
def State.spoiledLane (s : State) (p : Pre) (w : Wave) (lanes : Word) : Option Nat :=
  if s.spoiled.isEmpty then none
  else
    let bad (l : Nat) (o : Opnd) : Bool :=
      (o.regs w).any (fun n => s.spoiled.contains (.register w.uid (cellAt n l))) || (match o with
        | .src f => decide (125 ≤ f.toNat) && s.spoiled.contains (.latch w.uid (f.toNat - 125) l)
        | .vec _ _ _ => false
        | .scl f k => l == lowest lanes && (List.range k).any (fun j => s.spoiled.contains (.scalar w.uid (w.sb + f.toNat + j))))
    if (p.reach w).any s.spoiled.contains then some (lowest lanes) else firstLane lanes (fun l => p.ops.any (bad l))

/-- What an issue does once its entry is known, for an instruction of the whole state. -/
def State.perform (s : State) (p : Pre) (iss : Issue) (w : Wave) (body : Word → Out) : State :=
  match w.enter p iss.batch with
  | .skip => s.skipIssue p iss w
  | .wait => s.waitIssue iss
  | .trap c l => s.takeTrap iss c 0 l
  | .run lanes =>
    match s.spoiledLane p w lanes with
    | some l => s.takeTrap iss .eccUncorrectable 0xFFFFFFFFFFFFFFFF l
    | none =>
      match body lanes with
      | .done s' => s'
      | .wait s' => s'.waitIssue iss
      | .trap s' c a l => s'.takeTrap iss c a l

/-- The values H keeps, from the wave before and after the effect (01 R39): nothing, operand A, operand B, the result. -/
def holdValue (h : BitVec 2) (a b : Wave → Nat → LCell) (d : Wave → Nat → LCell) (old new : Wave) : Option (Nat → LCell) :=
  if h = 1 then some (a old) else if h = 2 then some (b old) else if h = 3 then some (d new) else none

/-- Complete an issue of an instruction with a hold field: operands read, latch aged, value kept, batch advanced (01 R39). -/
def Wave.finishKeep (w : Wave) (iss : Issue) (k : Option (Nat → LCell)) : Wave :=
  match k with
  | none => w.finish iss
  | some v => { (w.ageLatch.keep iss.batch v).advance iss with wait := none }

/-- An instruction of one wave with a hold field: effect, then latch and PCs. -/
def runHold (p : Pre) (hold : Wave → Wave → Option (Nat → LCell)) (effect : Issue → Word → Wave → Wave) (s : State) :
    Host.Outcome State Fault Refusal :=
  withIssue s fun iss w => s.perform p iss w fun lanes =>
    let w' := effect iss lanes w
    .done (s.retire iss (w'.finishKeep iss (hold w w')))

/-- An instruction of one wave that keeps nothing. -/
def runWave (p : Pre) (effect : Issue → Word → Wave → Wave) (s : State) : Host.Outcome State Fault Refusal :=
  withIssue s fun iss w => s.perform p iss w fun lanes => .done (s.retire iss ((effect iss lanes w).finish iss))

/-- An instruction of one wave that sets PCs itself: its effect comes after the batch has moved on. -/
def runPc (p : Pre) (effect : Issue → Word → Wave → Wave) (s : State) : Host.Outcome State Fault Refusal :=
  withIssue s fun iss w => s.perform p iss w fun lanes => .done (s.retire iss (effect iss lanes (w.finish iss)))

/-- An instruction of the whole state. -/
def runState (p : Pre) (body : State → Issue → Word → Wave → Out) (s : State) : Host.Outcome State Fault Refusal :=
  withIssue s fun iss w => s.perform p iss w (fun lanes => body s iss lanes w)

/-- An event: it always gives a next state, unchanged where the event cannot occur. -/
def event (f : State → State) (s : State) : Host.Outcome State Fault Refusal := .next (f s)

/-- An event of the control cores: they run only once Zephyr has verified their firmware (14 R398). -/
def controlEvent (f : State → State) (s : State) : Host.Outcome State Fault Refusal := .next (if s.zephyr.booted then f s else s)

/-! ### Immediates (03 R90) -/

/-- V : low11 sign-extended, as a 64-bit value. -/
def immExt (v : BitVec 25) (low : BitVec 11) : Addr := ((v ++ low : BitVec 36)).signExtend 64

/-- The F-B immediate. -/
def Issue.immB (i : Issue) (f : BitVec 11) : Addr :=
  match i.ext with
  | some v => immExt v f
  | none => f.signExtend 64

/-- The F-C immediate. -/
def Issue.immC (i : Issue) (f : BitVec 18) : Addr :=
  match i.ext with
  | some v => immExt v (f.setWidth 11)
  | none => f.signExtend 64

end Sys2Proof.Machine
end

