-- ==== Sys2Proof/Machine/L1.lean ====
section
/-! DEFINITION. The L1 of a core: reads, stores, flushing, invariant copies; scratchpad bytes; phase boundaries
(06 R176, R181, R198; 08 R240 to R249; 09 R272). -/

namespace Sys2Proof.Machine

def State.l1 (s : State) (cid : Nat) : L1 := (s.core cid).l1

/-- Perform the Dirty bytes of a core that p selects at their homes (08 R241). The core's Clean copies of their lines are dropped, so that
its waves read their own stores (06 R181); stores whose bytes go to another device wait for the answer (06 R198); bytes that an error
struck poison their line (14 R401). -/
def State.flushDirty (s : State) (cid : Nat) (p : Nat → DByte → Bool) : State :=
  let l := s.l1 cid
  let out := l.dirty.filter (fun d => p d.1 d.2)
  if out.isEmpty then s
  else
    let lines := (out.map (fun d => lineOf d.1)).dedup
    let s1 := s.setL1 cid { l with
      dirty := l.dirty.filter (fun d => !p d.1 d.2)
      clean := l.clean.filter (fun c => !lines.contains c.1) }
    let cells (coded : Bool) : List (Nat × Byte) :=
      (out.filter (fun d => d.2.coded == coded && !d.2.bad)).map (fun d => (d.1, d.2.val))
    let bad := ((out.filter (fun d => d.2.bad)).map (fun d => lineOf d.1)).dedup
    let cls := (out.map (fun d => d.2.cls)).foldl max 0
    let (s2, t1) := s1.writeAs cls (cells false) false .other
    let (s3, t2) := s2.writeAs cls (cells true) true .other
    (bad.foldl State.spoilLine s3).attach (out.map Prod.fst) (t1 ++ t2)

/-- Flush one line of a core. -/
def State.flushLine (s : State) (cid line : Nat) : State := s.flushDirty cid (fun k _ => lineOf k == line)

/-- Drop the Clean lines of a core, as an eviction may at any time (09 R272). -/
def State.dropClean (s : State) (cid : Nat) : State := s.setL1 cid { s.l1 cid with clean := [] }

/-- The line a load of a core reads below its Dirty bytes: a Clean copy, or the home, which leaves one (09 R272). -/
def State.cleanLine (s : State) (cid line : Nat) (coded : Bool) : State × Got :=
  match (s.l1 cid).clean.find? line with
  | some bs => (s, if bs.isEmpty then .poison else .ok bs)
  | none =>
    match s.homeRead (128 * line) 128 coded with
    | (s1, .ok bs) => (s1.setL1 cid { s1.l1 cid with clean := (s1.l1 cid).clean.put line bs }, .ok bs)
    | (s1, .poison) => (s1, .poison)
    | (s1, .miss) => (s1, .miss)

/-- A plain load's bytes within one line: the core's own Dirty bytes over its Clean line; an own Update-only copy goes home first
(06 R181; 08 R245, R247). -/
def State.plainLoad (s : State) (cid key n : Nat) (coded : Bool) : State × Got :=
  let line := lineOf key
  let s1 := if (s.l1 cid).upd.any (fun u => u.line == line) then s.sendUpd cid (fun u => u.line == line) else s
  let ks := (List.range n).map (fun i => key + i)
  let dirty := (s1.l1 cid).dirty
  if ks.any (fun k => (dirty.find? k).any DByte.bad) then (s1, .poison)
  else if ks.all (fun k => (dirty.find? k).isSome) then (s1, .ok (ks.map (fun k => ((dirty.find? k).map DByte.val).getD 0)))
  else
    match s1.cleanLine cid line coded with
    | (s2, .ok bs) => (s2, .ok (ks.map (fun k => ((dirty.find? k).map DByte.val).getD (bs.getD (k % 128) 0))))
    | (s2, .poison) => (s2, .poison)
    | (s2, .miss) => (s2, .miss)

/-- LDV: the context's invariant copy, or a new one from the home, which marks the line (06 R185, 08 R249). -/
def State.invariantLoad (s : State) (cid ctx key n : Nat) (coded : Bool) : State × Got :=
  let line := lineOf key
  let s1 := if (s.l1 cid).upd.any (fun u => u.line == line) then s.sendUpd cid (fun u => u.line == line) else s
  match (s1.l1 cid).inv.find? (fun i => i.line == line && i.ctx == ctx) with
  | some i => (s1, if i.bytes.isEmpty then .poison else .ok ((i.bytes.drop (key % 128)).take n))
  | none =>
    match s1.homeRead (128 * line) 128 coded with
    | (s2, .ok bs) =>
      let s3 := if s2.isLocal key then s2.mark line s2.did else s2
      (s3.setL1 cid { s3.l1 cid with inv := (s3.l1 cid).inv ++ [⟨line, ctx, bs⟩] }, .ok ((bs.drop (key % 128)).take n))
    | (s2, .poison) => (s2, .poison)
    | (s2, .miss) => (s2, .miss)

/-- A plain store's bytes become Dirty in the core's L1; an own Update-only copy of the line goes home first (08 R247, 09 R272). -/
def State.storeDirty (s : State) (cid ctx uid prio key : Nat) (bs : List Byte) (coded : Bool) : State :=
  let line := lineOf key
  let s1 := if (s.l1 cid).upd.any (fun u => u.line == line) then s.sendUpd cid (fun u => u.line == line) else s
  let l := s1.l1 cid
  let put (m : SMap DByte) (c : Nat × Byte) : SMap DByte :=
    m.put c.1
      { val := c.2, owners := listed uid (((m.find? c.1).map DByte.owners).getD []),
        ctxs := listed ctx (((m.find? c.1).map DByte.ctxs).getD []), coded := coded,
        cls := max (prio % 4) (((m.find? c.1).map DByte.cls).getD 0) }
  s1.setL1 cid { l with dirty := (cellsAt key bs).foldl put l.dirty }

/-! ### Scratchpads (06 R176, 09 R271, R275) -/

/-- The part of an undefined byte's number that tells the scratchpads of a group apart. -/
def scratchPlace (space cid off : Nat) : Nat := (space * 256 + cid) * 2 ^ 32 + off

/-- The number of the undefined bytes of the grant that holds a byte of the chip scratchpad (09 R275). -/
def State.grantEpoch (s : State) (off : Nat) : Nat :=
  ((s.grants.find? (fun g => g.2.1 ≤ off && off < g.2.1 + g.2.2.1)).map (fun g => g.2.2.2)).getD 0

/-- A byte of a scratchpad; one that nothing has written is undefined (06 R176). -/
def State.scratchByte (s : State) (gk cid : Nat) (loc : Loc) (i : Nat) : Byte :=
  match loc with
  | .core o => match s.group gk with
    | some g => ((g.scratchMem.get [] cid).find? (o + i)).getD (Config.undefByte g.epoch (scratchPlace 0 cid (o + i)))
    | none => 0
  | .cluster o => match s.group gk with
    | some g => (g.clusterMem.find? (o + i)).getD
        (Config.undefByte (g.lost.get g.epoch ((o + i) / 256 % 8)) (scratchPlace 1 0 (o + i)))
    | none => 0
  | .chip o => (s.chip.find? (o + i)).getD (Config.undefByte (s.grantEpoch (o + i)) (scratchPlace 2 0 (o + i)))
  | .mem _ _ => 0

/-- The error site of byte i of a location: a scratchpad's 8-byte word (14 R401). -/
def Loc.site (gk cid : Nat) (l : Loc) (i : Nat) : Site :=
  match l with
  | .core o => .scratch gk cid ((o + i) / 8)
  | .cluster o => .cluster gk ((o + i) / 8)
  | .chip o => .chip ((o + i) / 8)
  | .mem k _ => .memory (k + i)

/-- The first of n bytes of a location that an uncorrectable error has spoiled (14 R401). -/
def State.spoiledByte (s : State) (gk cid : Nat) (l : Loc) (n : Nat) : Option Nat :=
  if s.spoiled.isEmpty then none else (List.range n).find? (fun i => s.spoiled.contains (l.site gk cid i))

/-- A write that covers whole 8-byte words clears their errors, as a whole line does (09 R277). -/
def State.clearSpoiled (s : State) (gk cid : Nat) (l : Loc) (n : Nat) : State :=
  if s.spoiled.isEmpty then s
  else
    let sites := (List.range n).map (l.site gk cid)
    { s with spoiled := s.spoiled.filter (fun x => (sites.filter (· == x)).length < 8) }

/-- Write bytes of a scratchpad. -/
def State.putBytesIn (s : State) (gk cid : Nat) (loc : Loc) (bs : List Byte) : State :=
  let put (o : Nat) (m : SMap Byte) : SMap Byte := (cellsAt o bs).foldl (fun m c => m.put c.1 c.2) m
  match loc with
  | .core o => s.modGroup gk (fun g => { g with scratchMem := g.scratchMem.put cid (put o (g.scratchMem.get [] cid)) })
  | .cluster o => s.modGroup gk (fun g => { g with clusterMem := put o g.clusterMem })
  | .chip o => { s with chip := put o s.chip }
  | .mem _ _ => s

/-- Write bytes of a scratchpad; errors in words wholly written are gone. -/
def State.putScratch (s : State) (gk cid : Nat) (loc : Loc) (bs : List Byte) : State :=
  (s.putBytesIn gk cid loc bs).clearSpoiled gk cid loc bs.length

/-- The location i bytes further on. -/
def Loc.plus (l : Loc) (i : Nat) : Loc :=
  match l with
  | .mem k c => .mem (k + i) c
  | .core o => .core (o + i)
  | .cluster o => .cluster (o + i)
  | .chip o => .chip (o + i)

/-- Read n bytes of a location for a load of a wave: plain, or invariant. -/
def State.readLoc (s : State) (cid gk ctx : Nat) (inv : Bool) (loc : Loc) (n : Nat) : State × Got :=
  match loc with
  | .mem key coded => if inv then s.invariantLoad cid ctx key n coded else s.plainLoad cid key n coded
  | _ => (s, if (s.spoiledByte gk cid loc n).isSome then .poison else .ok ((List.range n).map (s.scratchByte gk cid loc)))

/-! ### Phase boundaries (06 R198; 08 R240; 09 R272) -/

/-- The group of a wave occupies several cores. -/
def State.spread (s : State) (gk : Nat) : Bool :=
  match s.group gk with
  | some g => 1 < g.cores.length
  | none => false

/-- An invalidation is not acknowledged (08 R249). -/
def State.invalidating (s : State) : Bool :=
  s.txns.any (fun t => match t.purpose with
    | .invalidate _ => true
    | _ => false)

/-- Lines of cells. -/
def linesOf (cs : List (Nat × Byte)) : List Nat := (cs.map (fun c => lineOf c.1)).dedup

/-- Before a write is performed the copies of marked lines are invalidated; the write waits for the acknowledgements (08 R249). -/
def State.settleMarks (s : State) (lines : List Nat) : State × Bool :=
  let s1 := lines.foldl State.invalidateMarks s
  (s1, !s1.txns.any (fun t => match t.purpose with
    | .invalidate l => lines.contains l
    | _ => false))

/-- A boundary of scope sc: it waits for the ST count; then the wave's Dirty bytes are performed at the home; at device scope and wider it
waits for the invalidations; then the core's Clean lines are dropped, at system scope the own L2's copies of other devices' lines too
(06 R198; 08 R240; 09 R272, R273). The state, and whether the boundary has been passed. -/
def State.boundary (s : State) (cid : Nat) (w : Wave) (sc : Nat) : State × Bool :=
  if !w.st.isEmpty then (s, false)
  else if sc = 0 ∧ s.spread w.group = false then (s, true)
  else
    let s1 := s.flushDirty cid (fun _ d => d.owners.contains w.uid)
    if 2 ≤ sc ∧ s1.invalidating = true then (s1, false)
    else
      let s2 := s1.dropClean cid
      (if sc = 3 then s2.forgetLines (fun _ => true) else s2, true)

end Sys2Proof.Machine
end

