-- ==== Sys2Proof/Machine/Access.lean ====
section
/-! DEFINITION. The checks of every access of a wave, in the order of 06 R178, and where its bytes lie. -/

namespace Sys2Proof.Machine

/-- What an access asks (06 R176 to R178): its size, its alignment, the classes it accepts, its permission, and whether it is ACCB
or LDE, which a faulty table stops (08 R257, R258). -/
structure Access where
  size : Nat
  align : Nat
  lanePrivate : Bool
  scratch : Bool
  perm : Perm
  bounded : Bool
  deriving DecidableEq, Repr

/-- A load of n bytes. -/
def Access.load (n : Nat) : Access := ⟨n, n, true, true, .r, false⟩
/-- A store of n bytes. -/
def Access.store (n : Nat) : Access := ⟨n, n, true, true, .w, false⟩

/-- Where an element lies, the limit of the region whose tile holds it, and, in a lane-private window, its place there: lane x 65,536 +
offset (06 R176). -/
structure Place where
  loc : Loc
  limit : Option Word
  priv : Option Nat := none
  deriving DecidableEq, Repr

/-- A failed check: its cause and the fault address. -/
structure Bust where
  cause : Cause
  faddr : Addr
  deriving DecidableEq, Repr

/-- The virtual address of an access below 2^48 or in the lane-private window (06 R176, 09 R289). -/
def State.vaOf (s : State) (ctx k lane : Nat) (a : Addr) : Option Nat :=
  if a.toNat < 2 ^ 48 then some a.toNat
  else match apertureOf a.toNat, s.ctxs.find? ctx with
    | some (16, o), some c => some (c.privbase.toNat + (k * 32 + lane) * 65536 + o)
    | _, _ => none

/-- The group of a wave; one that is not listed has no scratchpad. -/
def State.groupOf (s : State) (w : Wave) : Group :=
  (s.group w.group).getD
    { ctx := w.ctx, lid := w.lid, index := 0, waves := 1, cores := [], members := [], retired := [],
      scratch := 0, cluster := 0, eddy := false, arrived := [], generation := 0, halted := false, haltSeq := none, skidGone := 0,
      unanswered := [], recorded := false, records := [], scratchMem := [], clusterMem := [], epoch := 0, lost := [] }

/-- The place in its wave's lane-private windows of an address of that class or of the virtual memory behind it (06 R176). -/
def State.privPlace (s : State) (ctx k lane : Nat) (a : Addr) : Option Nat :=
  match s.vaOf ctx k lane a, s.ctxs.find? ctx with
  | some va, some c =>
    let base := c.privbase.toNat + k * 2 ^ 21
    if base ≤ va ∧ va < base + 2 ^ 21 then some (va - base) else none
  | _, _ => none

/-- The place i bytes further on. -/
def Place.plus (p : Place) (i : Nat) : Place := { loc := p.loc.plus i, limit := p.limit, priv := p.priv.map (· + i) }

/-- Steps 1 to 5 of R178 for one element of a lane. -/
def State.checkElem (s : State) (k : Nat) (w : Wave) (lane : Nat) (acc : Access) (a : Addr) : State × Except Bust Place :=
  if a.toNat % acc.align ≠ 0 then (s, .error ⟨.misaligned, a⟩)
  else
    match s.classify (cidOf k) w.ctx (s.groupOf w) lane k a.toNat acc.size acc.lanePrivate acc.scratch acc.perm with
    | (s1, .error c) => (s1, .error ⟨c, a⟩)
    | (s1, .ok loc) =>
      match s1.ctxs.find? w.ctx with
      | none => (s1, .ok ⟨loc, none, s1.privPlace w.ctx k lane a⟩)
      | some c =>
        let va := s1.vaOf w.ctx k lane a
        match va.bind (fun va => c.faultyIn va acc.size) with
        | some _ => (s1, .error ⟨.regionDescriptor, a⟩)
        | none =>
          if acc.bounded && (c.farFaulty || c.regionFault.isSome) then (s1, .error ⟨.regionDescriptor, (c.regionFault).getD a⟩)
          else match va.map c.regionAt with
            | some (.tile l) => (s1, .ok ⟨loc, some l, s1.privPlace w.ctx k lane a⟩)
            | _ => (s1, .ok ⟨loc, none, s1.privPlace w.ctx k lane a⟩)

/-- The place of a cause in the order of R178. -/
def Cause.step (c : Cause) : Nat :=
  if c = .misaligned then 1 else if c = .aperture then 2 else if c = .xlateNotPresent then 3 else if c = .xlatePermission then 4
  else 5

/-- The checks of all elements of one lane: the first cause in the order of R178, at the first element that has it. -/
def State.checkElems (s : State) (k : Nat) (w : Wave) (lane : Nat) (acc : Access) (as : List Addr) :
    State × Except Bust (List Place) :=
  as.foldl (fun (r : State × Except Bust (List Place)) a =>
    match r.1.checkElem k w lane acc a, r.2 with
    | (s1, .ok p), .ok ps => (s1, .ok (ps ++ [p]))
    | (s1, .ok _), .error b => (s1, .error b)
    | (s1, .error b), .ok _ => (s1, .error b)
    | (s1, .error b), .error b0 => (s1, .error (if b.cause.step < b0.cause.step then b else b0))) (s, .ok [])

/-- The checks of all lanes: the lowest-numbered failing lane is reported (06 R178, R179). -/
def State.checkLanes (s : State) (k : Nat) (w : Wave) (acc : Access) (addrs : Nat → List Addr) :
    List Nat → List (Nat × List Place) → State × Except (Nat × Bust) (List (Nat × List Place))
  | [], got => (s, .ok got)
  | l :: ls, got =>
    match s.checkElems k w l acc (addrs l) with
    | (s1, .ok ps) => State.checkLanes s1 k w acc addrs ls (got ++ [(l, ps)])
    | (s1, .error b) => (s1, .error (l, b))

/-- The address of an F-B access (03 R90, 06 R175). -/
def Wave.fbAddr (w : Wave) (iss : Issue) (a : BitVec 7) (i : BitVec 11) (size l : Nat) : Addr :=
  w.pair a l + iss.immB i * BitVec.ofNat 64 size

end Sys2Proof.Machine
end

