-- ==== Sys2Proof/Machine/LoadStore.lean ====
section
/-! DEFINITION. Loads, stores and fragment transfers (06 R183 to R190). -/

namespace Sys2Proof.Machine

/-- One element that a load asks for: its lane, place, bytes, register cell, tag, and tolerance code. -/
structure Ask where
  place : Place
  addr : Addr
  size : Nat
  cell : Nat
  tag : BitVec 6
  lane : Nat
  deriving DecidableEq, Repr

/-- The element is answered by the home of its region tile (06 R188, 08 R263). -/
def Ask.byTile (a : Ask) : Bool :=
  match a.place.loc, a.place.limit with
  | .mem _ _, some _ => true
  | _, _ => false

/-- A byte of a lane-private window that its fibre has not written is undefined (06 R176). -/
def Place.known (p : Place) (w : Wave) (bs : List Byte) : List Byte :=
  match p.priv with
  | none => bs
  | some o => bs.mapIdx (fun i b =>
      if (w.priv.find? (o + i)).isSome then b
      else Config.undefByte w.uid (scratchPlace 3 (w.fib ((o + i) / 65536)).gen.toNat (o + i)))

/-- An instruction of a wave that reads a region tile of another device for the first time finds no copy in the own L2: its home answers
(08 R263). One that waits finds what has come since. -/
def State.anew (s : State) (k : Nat) (ps : List Place) : State :=
  let first := !((s.waves.find? k).any (fun w => w.wait == some .retry))
  let far (p : Place) : Bool := match p.loc, p.limit with
    | .mem key _, some _ => !s.isLocal key
    | _, _ => false
  if first && ps.any far then s.forgetLines (fun _ => true) else s

/-- Read n bytes of a place within a line as a plain load of a wave; in a region tile exactly, at its home (06 R188). -/
def State.readPlace (s : State) (cid : Nat) (w : Wave) (p : Place) (n : Nat) : State × Got :=
  match p.loc, p.limit with
  | .mem key coded, some _ => s.tileReadAs (w.prio % 4) 31 key n coded
  | loc, _ => s.readLoc cid w.group w.ctx false loc n

/-- An element of a region tile that its home cannot answer: poisoned, rejected by the codec, or behind no link (09 R277, R280; 14 R394). -/
def State.deadTile (s : State) (a : Ask) : Bool :=
  match a.place.loc with
  | .mem key coded =>
    a.byTile && (if s.isLocal key then s.homeBytes key a.size coded == .poison else (s.portTo (targetOf key)).isNone)
  | _ => false

/-- The values of the elements that no region tile answers, or the poisoned element, or that a line is still on its way. -/
def State.gather (s : State) (w : Wave) (cid : Nat) (inv : Bool) : List Ask → List LWrite → State × Except (Option Ask) (List LWrite)
  | [], got => (s, .ok got)
  | a :: as, got =>
    if s.deadTile a then (s, .error (some a))
    else if a.byTile then State.gather s w cid inv as got
    else
      match s.readLoc cid w.group w.ctx inv a.place.loc a.size with
      | (s1, .ok bs) => State.gather s1 w cid inv as (got ++ [⟨a.cell, BitVec.ofNat 32 (ofBytes (a.place.known w bs)), a.tag⟩])
      | (s1, .poison) => (s1, .error (some a))
      | (s1, .miss) => (s1, .error none)

/-- Ask the home of a region tile for an element, here or on another device (08 R263; log entry 19). -/
def State.askTile (s : State) (rd : TileRead) (limit : Word) (cls : Nat) : State × List Nat :=
  let t := tileOf rd.key
  if s.isLocal rd.key then
    let home := s.home t limit
    ({ s.tick1 with tiles := s.tiles.put t { home with reads := home.reads ++ [{ rd with token := s.fresh }] } }, [s.fresh])
  else
    match s.sendTo (targetOf rd.key) (LinkTx.of 1 cls (32 + rd.tol) (paOf rd.key) (bytesOf 4 limit.toNat) none)
      (.element { rd with token := s.fresh }) with
    | some (s1, id) => (s1, [id])
    | none => (s, [])

/-- Ask the homes of region tiles for the elements they answer (08 R263): one read each, in order; their tokens. -/
def State.askTiles (s : State) (k : Nat) (w : Wave) (uid tol : Nat) (asks : List Ask) : State × List Nat :=
  (asks.filter Ask.byTile).foldl (fun (r : State × List Nat) a =>
    match a.place.loc with
    | .mem key coded =>
      let rd : TileRead :=
        { wave := k, uid := w.uid, op := uid, token := 0, cell := a.cell, tag := a.tag, key := key, size := a.size, coded := coded,
          va := a.addr, tol := tol, drains := none }
      let (s1, ids) := r.1.askTile rd ((a.place.limit).getD 0) (w.prio % 4)
      (s1, r.2 ++ ids)
    | .core _ => r
    | .cluster _ => r
    | .chip _ => r) (s, [])

/-- The bytes from key on for n and an element of a tile overlap. -/
def overlapsWord (key n tile elem : Nat) : Bool := key < 256 * tile + 4 * elem + 4 && 256 * tile + 4 * elem < key + n

/-- An earlier addition of the wave to one of these bytes has not reached its delta tile or its home: the access waits for it (06 R181). -/
def State.addsFirst (s : State) (w : Wave) (key n : Nat) : Bool :=
  w.st.any (fun o => o.adds.any (fun a => overlapsWord key n a.tile a.elem) ||
    s.drains.any (fun d => d.single && !d.combined && o.waits.contains d.id && d.delta.any (fun e => overlapsWord key n d.tile e.1)))

/-- The read is a wave's, of one of these bytes. -/
def TileRead.covers (r : TileRead) (w : Wave) (key n : Nat) : Bool := r.peer.isNone && r.uid == w.uid && r.key < key + n && key < r.key + r.size

/-- The transaction is such a read. -/
def Txn.reads (t : Txn) (w : Wave) (key n : Nat) : Bool :=
  match t.purpose with
  | .element r => r.covers w key n
  | _ => false

/-- An earlier read of one of these bytes by the wave has not been answered by its tile's home: a change waits for it (06 R181). -/
def State.readsFirst (s : State) (w : Wave) (key n : Nat) : Bool :=
  (match s.tiles.find? (tileOf key) with
    | some t => t.reads.any (fun r => r.covers w key n)
    | none => false) || s.txns.any (fun t => t.reads w key n)

/-- An access to bytes of memory waits for the wave's own earlier additions there, a change for its own earlier reads too (06 R181). -/
def State.ownFirst (s : State) (w : Wave) (key n : Nat) (change : Bool) : Bool :=
  s.addsFirst w key n || (change && s.readsFirst w key n)

/-- An access to a place in a region tile waits for the wave's own earlier accesses there (06 R181). -/
def State.mustWait (s : State) (w : Wave) (p : Place) (n : Nat) (change : Bool) : Bool :=
  match p.loc, p.limit with
  | .mem key _, some _ => s.ownFirst w key n change
  | _, _ => false

/-- Set EMPTY on register cells (01 R37). -/
def Wave.setEmpty (w : Wave) (cells : List Nat) : Wave :=
  cells.foldl (fun w i => w.setCell i { w.cell i with empty := true }) w

/-- Issue a load whose elements are known: values read now, registers EMPTY until it lands, counted on LD (01 R37, R44; log entry 6). -/
def State.issueLoad (s : State) (iss : Issue) (w : Wave) (inv : Bool) (tol : Nat) (asks : List Ask) : Out :=
  if asks.any (fun a => s.mustWait w a.place a.size false) then .wait s
  else match s.gather w (cidOf iss.wave) inv asks [] with
  | (s1, .error (some a)) => .trap s1 .eccUncorrectable a.addr a.lane
  | (s1, .error none) => .wait s1
  | (s1, .ok ws) =>
    let uid := s1.fresh
    let (s2, tokens) := s1.tick1.askTiles iss.wave w uid tol asks
    let cells := asks.map Ask.cell
    let o : Op :=
      { uid := uid, kind := .load, iss := iss, writes := ws, busy := cells, waits := tokens, adds := [], done := false }
    .done (s2.retire iss (((w.setEmpty cells).count .ld o).finish iss))

/-- A load of the lanes: checks, then the elements of each lane into registers of the D group. -/
def State.runLoad (s : State) (iss : Issue) (w : Wave) (lanes : Word) (d : BitVec 7) (acc : Access) (inv : Bool) (tol : Nat)
    (tag : BitVec 6) (addrs : Nat → List Addr) : Out :=
  match s.checkLanes iss.wave w acc addrs (lanesOf lanes) [] with
  | (s1, .error (l, b)) => .trap s1 b.cause b.faddr l
  | (s1, .ok got) =>
    s1.issueLoad iss w inv tol (got.flatMap (fun g => g.2.mapIdx (fun j p =>
      { place := p, addr := (addrs g.1).getD j 0, size := min acc.size 4, cell := cellAt (w.wb + d.toNat + j) g.1, tag := tag,
        lane := g.1 })))

/-- A plain or invariant load of n bytes into a group of registers: wide loads are one access, split in words after its checks. -/
def fbLoad (n : Nat) (inv : Bool) (d a : BitVec 7) (i : BitVec 11) : State → Host.Outcome State Fault Refusal :=
  let words := max 1 (n / 4)
  runState { guard := none, ops := [.vec d words words, .vec a 2 2], counter := some .ld }
    (fun s iss lanes w =>
      match s.checkLanes iss.wave w (Access.load n) (fun l => [w.fbAddr iss a i n l]) (lanesOf lanes) [] with
      | (s1, .error (l, b)) => .trap s1 b.cause b.faddr l
      | (s1, .ok got) =>
        s1.issueLoad iss w inv 31 (got.flatMap (fun g => g.2.flatMap (fun p => (List.range words).map (fun j =>
          { place := p.plus (4 * j), addr := w.fbAddr iss a i n g.1 + BitVec.ofNat 64 (4 * j), size := min n 4,
            cell := cellAt (w.wb + d.toNat + j) g.1, tag := 0, lane := g.1 })))))

/-- LDB (06 R184). -/
def execLdb (d a : BitVec 7) (i : BitVec 11) : State → Host.Outcome State Fault Refusal := fbLoad 1 false d a i
/-- LDH (06 R184). -/
def execLdh (d a : BitVec 7) (i : BitVec 11) : State → Host.Outcome State Fault Refusal := fbLoad 2 false d a i
/-- LDW (06 R184). -/
def execLdw (d a : BitVec 7) (i : BitVec 11) : State → Host.Outcome State Fault Refusal := fbLoad 4 false d a i
/-- LDD (06 R184). -/
def execLdd (d a : BitVec 7) (i : BitVec 11) : State → Host.Outcome State Fault Refusal := fbLoad 8 false d a i
/-- LDQ (06 R184). -/
def execLdq (d a : BitVec 7) (i : BitVec 11) : State → Host.Outcome State Fault Refusal := fbLoad 16 false d a i
/-- LDV (06 R185). -/
def execLdv (d a : BitVec 7) (i : BitVec 11) : State → Host.Outcome State Fault Refusal := fbLoad 4 true d a i

/-- LDF: a word tagged with the code of B[5:0]; a reserved code is an operand fault (06 R186). -/
def execLdf (d a : BitVec 7) (t : BitVec 6) (g : BitVec 2) : State → Host.Outcome State Fault Refusal :=
  runState { guard := some g.toNat, ops := [.vec d 1 1, .vec a 2 2], badOperand := fun _ => !tagDefined t, counter := some .ld }
    (fun s iss lanes w => s.runLoad iss w lanes d (Access.load 4) false 31 t (fun l => [w.pair a l]))

/-- LDE: a word within the tolerance of its region tile (06 R187, 08 R263). -/
def execLde (d a : BitVec 7) (t : BitVec 5) (g : BitVec 2) : State → Host.Outcome State Fault Refusal :=
  runState { guard := some g.toNat, ops := [.vec d 1 1, .vec a 2 2], counter := some .ld }
    (fun s iss lanes w =>
      s.runLoad iss w lanes d { Access.load 4 with bounded := true } false t.toNat 0 (fun l => [w.pair a l]))

/-! ### Stores -/

/-- One element that a store writes. -/
structure Put where
  place : Place
  bytes : List Byte
  deriving DecidableEq, Repr

/-- Perform one element of a store: Dirty in the L1; at once in a scratchpad; at the home after its drain for a region tile
(06 R188; 09 R272). -/
def State.putElem (s : State) (cid : Nat) (w : Wave) (p : Put) : State × List Nat :=
  match p.place.loc, p.place.limit with
  | .mem key coded, some _ => s.write (cellsAt key p.bytes) coded .other
  | .mem key coded, none => (s.storeDirty cid w.ctx w.uid w.prio key p.bytes coded, [])
  | loc, _ => (s.putScratch w.group cid loc p.bytes, [])

/-- The bytes of its windows that a store has written (06 R176). -/
def Wave.notePriv (w : Wave) (puts : List Put) : Wave :=
  { w with priv := puts.foldl (fun (m : SMap Bool) p => match p.place.priv with
      | none => m
      | some o => (List.range p.bytes.length).foldl (fun (m : SMap Bool) i => m.put (o + i) true) m) w.priv }

/-- The key of a place in a region tile. -/
def Place.tileKeys (p : Place) : List Nat :=
  match p.loc, p.limit with
  | .mem key _, some _ => [key]
  | _, _ => []

/-- Issue a store whose elements are known, lanes ascending; counted on ST (01 R44; 06 R181). -/
def State.issueStore (s : State) (iss : Issue) (w : Wave) (puts : List Put) : Out :=
  if puts.any (fun p => s.mustWait w p.place p.bytes.length true) then .wait s
  else match s.clearAfar (puts.flatMap (fun p => p.place.tileKeys)) with
  | (s1, false) => .wait s1
  | (s, true) =>
    let (s1, tokens) := puts.foldl (fun (r : State × List Nat) p =>
      let (s', ts) := r.1.putElem (cidOf iss.wave) w p
      (s', r.2 ++ ts)) (s, [])
    let keys := puts.flatMap (fun p => match p.place.loc, p.place.limit with
      | .mem key _, none => (List.range p.bytes.length).map (fun i => key + i)
      | _, _ => [])
    let o : Op := { Op.nothing s1.fresh .store iss with busy := keys, waits := tokens, done := false }
    .done (s1.tick1.retire iss (((w.notePriv puts).count .st o).finish iss))

/-- A plain store of the low n bytes of the D group (06 R183, R184). -/
def fbStore (n : Nat) (d a : BitVec 7) (i : BitVec 11) : State → Host.Outcome State Fault Refusal :=
  let words := max 1 (n / 4)
  runState { guard := none, ops := [.vec d words words, .vec a 2 2], counter := some .st }
    (fun s iss lanes w =>
      match s.checkLanes iss.wave w (Access.store n) (fun l => [w.fbAddr iss a i n l]) (lanesOf lanes) [] with
      | (s1, .error (l, b)) => .trap s1 b.cause b.faddr l
      | (s1, .ok got) =>
        s1.issueStore iss w (got.flatMap (fun g => g.2.flatMap (fun p => (List.range words).map (fun j =>
          { place := p.plus (4 * j), bytes := bytesOf (min n 4) (w.grp d j g.1).val.toNat })))))

/-- STB (06 R184). -/
def execStb (d a : BitVec 7) (i : BitVec 11) : State → Host.Outcome State Fault Refusal := fbStore 1 d a i
/-- STH (06 R184). -/
def execSth (d a : BitVec 7) (i : BitVec 11) : State → Host.Outcome State Fault Refusal := fbStore 2 d a i
/-- STW (06 R184). -/
def execStw (d a : BitVec 7) (i : BitVec 11) : State → Host.Outcome State Fault Refusal := fbStore 4 d a i
/-- STD (06 R184). -/
def execStd (d a : BitVec 7) (i : BitVec 11) : State → Host.Outcome State Fault Refusal := fbStore 8 d a i
/-- STQ (06 R184). -/
def execStq (d a : BitVec 7) (i : BitVec 11) : State → Host.Outcome State Fault Refusal := fbStore 16 d a i

/-! ### Fragment loads and stores (06 R189, R190) -/

/-- The fields of a stride word. -/
structure Stride where
  stride : Nat
  tag : BitVec 6
  kind : Nat
  deriving DecidableEq, Repr

/-- A stride word that meets every rule of the table of R189. -/
def strideOf (v : Word) : Option Stride :=
  let r : Stride := { stride := v.toNat % 2 ^ 20, tag := (v >>> 20).setWidth 6, kind := v.toNat / 2 ^ 26 % 4 }
  let row := if r.kind = 2 then 64 else 32
  let fmt := if r.kind = 2 then r.tag == 1 else is16 r.tag || isB8 r.tag || isHalf r.tag
  if v.toNat / 2 ^ 28 = 0 ∧ r.kind ≠ 3 ∧ r.stride % 32 = 0 ∧ row ≤ r.stride ∧ fmt = true then some r else none

/-- Registers of the fragment: 8 for an accumulator, otherwise 4. -/
def Stride.regs (r : Stride) : Nat := if r.kind = 2 then 8 else 4

/-- The element addresses of a lane (06 R190). -/
def Stride.addrs (r : Stride) (base : Addr) (l : Nat) : List Addr :=
  let w := if r.kind = 2 then 32 else 16
  (List.range r.regs).map (fun j => base + BitVec.ofNat 64 (l % 16 * r.stride + w * (l / 16) + 4 * j))

/-- The operand faults of TLD and TST: the stride word, and the group of the size its KIND gives (06 R189, R190). -/
def fragBad (d b : BitVec 7) (w : Wave) : Bool :=
  match strideOf (w.sget b.toNat) with
  | none => true
  | some r => (Opnd.vec d r.regs r.regs).bad w

/-- What TLD and TST ask before they execute. -/
def preFrag (d a b : BitVec 7) (m : BitVec 2) (c : Ctr) : Pre :=
  { guard := none, reserved := 2 ≤ m.toNat, ops := [.vec a 2 2, .scl b 1], badOperand := fragBad d b, counter := some c }

/-- The D group must be full in the batch and no unfinished tile destination (01 R37, 05 R173). -/
def Wave.fragWaits (w : Wave) (d : BitVec 7) (n : Nat) (batch : Word) : Bool :=
  w.emptyIn [.vec d n n] batch || ((Opnd.vec d n n).regs w).any w.tileBusy.contains

/-- TLD (06 R190). -/
def execTld (d a b : BitVec 7) (m : BitVec 2) : State → Host.Outcome State Fault Refusal :=
  runState (preFrag d a b m .ld) (fun s iss lanes w =>
    match strideOf (w.sget b.toNat) with
    | none => .trap s .illegalOperand 0 (lowest lanes)
    | some r =>
      let base := w.pair a (lowest lanes)
      if w.fragWaits d r.regs lanes then .wait s
      else if base.toNat % 32 ≠ 0 then .trap s .misaligned base (lowest lanes)
      else s.runLoad iss w lanes d (Access.load 4) false 31 r.tag (r.addrs base))

/-- TST (06 R190). -/
def execTst (d a b : BitVec 7) (m : BitVec 2) : State → Host.Outcome State Fault Refusal :=
  runState (preFrag d a b m .st) (fun s iss lanes w =>
    match strideOf (w.sget b.toNat) with
    | none => .trap s .illegalOperand 0 (lowest lanes)
    | some r =>
      let base := w.pair a (lowest lanes)
      if w.fragWaits d r.regs lanes then .wait s
      else if base.toNat % 32 ≠ 0 then .trap s .misaligned base (lowest lanes)
      else
        match s.checkLanes iss.wave w (Access.store 4) (r.addrs base) (lanesOf lanes) [] with
        | (s1, .error (l, x)) => .trap s1 x.cause x.faddr l
        | (s1, .ok got) =>
          s1.issueStore iss w (got.flatMap (fun g => g.2.mapIdx (fun j p =>
            { place := p, bytes := bytesOf 4 (w.grp d j g.1).val.toNat }))))

end Sys2Proof.Machine
end

