-- ==== Sys2Proof/Machine/Regions.lean ====
section
/-! DEFINITION. Eviction from an L1, and the events of region tiles (08 R241, R248, R260 to R264; 09 R272). -/

namespace Sys2Proof.Machine

/-- Evict one line of an L1: Dirty bytes are performed, an Update-only copy is sent, a holder drains to leave, the rest is dropped
(08 R241, R248, R262; 09 R272). -/
def State.evict (s : State) (cid line : Nat) : State :=
  let s1 := (s.flushLine cid line).sendUpd cid (fun u => u.line == line)
  let l := s1.l1 cid
  let s2 := s1.setL1 cid { l with
    clean := l.clean.del line
    inv := l.inv.filter (fun i => i.line != line)
    excl := l.excl.filter (· != line) }
  match s2.holder cid (line / 2) with
  | some h => if h.draining.isSome then s2.setHolder cid { h with leaving := true } else (s2.startDrain cid h true).1
  | none => s2

/-! ### Events -/

/-- REGION_JOIN (08 R260). -/
def evRegionJoin (tile : Nat) (s : State) : State := s.answerJoin tile
def execRegionJoin (tile : Nat) : State → Host.Outcome State Fault Refusal := event (evRegionJoin tile)

/-- DRAIN_COMBINE (08 R264). -/
def evDrainCombine (idx : Nat) (s : State) : State :=
  match s.drains[idx]? with
  | some d => s.combineDrain d
  | none => s
def execDrainCombine (idx : Nat) : State → Host.Outcome State Fault Refusal := event (evDrainCombine idx)

/-- DRAIN_ACK (08 R261). -/
def evDrainAck (idx : Nat) (s : State) : State :=
  match s.drains[idx]? with
  | some d => if d.combined then s.ackDrain d else s
  | none => s
def execDrainAck (idx : Nat) : State → Host.Outcome State Fault Refusal := event (evDrainAck idx)

/-- REGION_READ (08 R263). -/
def evRegionRead (tile : Nat) (s : State) : State := s.answerRead tile
def execRegionRead (tile : Nat) : State → Host.Outcome State Fault Refusal := event (evRegionRead tile)

/-- L1_EVICT (09 R272). -/
def evL1Evict (cid line : Nat) (s : State) : State := s.evict cid line
def execL1Evict (cid line : Nat) : State → Host.Outcome State Fault Refusal := event (evL1Evict cid line)

end Sys2Proof.Machine
end

