-- ==== Sys2Proof/Machine/Atomic.lean ====
section
/-! DEFINITION. ACCB, atomics, rings, monitors, phase boundaries, barriers, and the completion of loads and stores
(06 R191 to R200; 01 R37, R44; 08 R246 to R253). -/

namespace Sys2Proof.Machine

/-! ### Atomics (06 R192 to R194) -/

/-- What an atomic asks of its word (06 R176 to R178). -/
def Access.atomic : Access := ⟨4, 4, false, true, .rw, false⟩

/-- One lane of an atomic: its place, operands, and the register cell of the returned value. -/
structure Amo where
  place : Place
  addr : Addr
  lane : Nat
  b : Word
  c : Word
  cell : Option Nat
  deriving DecidableEq, Repr

/-- What an issue's atomics have done so far: the state, the lanes that return a value, tokens of no-return operations on their way. -/
structure AmoRun where
  s : State
  replies : List Reply
  waits : List Nat

/-- A lane has been performed here. -/
def AmoRun.land (r : AmoRun) (lane : Nat) (va : Addr) (cell : Option Nat) (s : State) (old : Word) : AmoRun :=
  { r with s := s, replies := match cell with
    | some i => r.replies ++ [{ lane := lane, va := va, cell := i, token := 0, value := some old, failed := false }]
    | none => r.replies }

/-- A lane has been sent to another device. -/
def AmoRun.send (r : AmoRun) (lane : Nat) (va : Addr) (cell : Option Nat) (s : State) (token : Nat) : AmoRun :=
  match cell with
  | some i => { r with s := s, replies := r.replies ++ [{ lane := lane, va := va, cell := i, token := token, value := none, failed := false }] }
  | none => { r with s := s, waits := r.waits ++ [token] }

/-- An instruction whose lanes return values: it completes with one LD operation when every lane has its value, waits while another
device has not answered, and consumes the poison of a lane that failed, the lowest (06 R179; 14 R394). -/
def State.finishLanes (s : State) (iss : Issue) (w : Wave) (rs : List Reply) : Out :=
  if rs.any (fun r => r.value.isNone && !r.failed) then .wait (s.setWave iss.wave { w with asked := rs })
  else match rs.find? Reply.failed with
    | some r => .trap s .eccUncorrectable r.va r.lane
    | none =>
      let cells := rs.map Reply.cell
      let o : Op :=
        { uid := s.fresh, kind := .ret, iss := iss, writes := rs.map (fun r => ⟨r.cell, r.value.getD 0, 0⟩), busy := cells, waits := [],
          adds := [], done := false }
      .done (s.tick1.retire iss (((({ w with asked := [] }.setEmpty cells).count .ld o).finish iss).endRegion iss))

/-- The own core's Dirty bytes of a line go home and its Clean copy is dropped before an atomic of the core (06 R181). -/
def State.yieldLine (s : State) (cid line : Nat) : State :=
  let s1 := s.flushLine cid line
  s1.setL1 cid { s1.l1 cid with clean := (s1.l1 cid).clean.del line }

/-- Gather a no-return operation in the core's Update-only copy of its line, which then serves its context too (08 R247, R266; log entry 60). -/
def State.gatherUpd (s : State) (cid ctx kind prio key : Nat) (b : Word) : State :=
  let line := lineOf key
  let s1 := (s.yieldLine cid line).sendUpd cid (fun u => u.line == line && u.kind != kind)
  let l := s1.l1 cid
  let i := key % 128 / 4
  let add (u : Upd) : Upd :=
    { u with ctxs := listed ctx u.ctxs, words := u.words.put i (atomicFn kind (u.words.get (updIdentity kind) i) b 0), cls := max u.cls (prio % 4) }
  if l.upd.any (fun u => u.line == line) then s1.setL1 cid { l with upd := l.upd.map (fun u => if u.line = line then add u else u) }
  else s1.setL1 cid { l with upd := l.upd ++ [add { line := line, ctxs := [], kind := kind, words := [], cls := 0 }] }

/-- Perform one atomic at its home after recalling copies and draining its tile (06 R188, R192, R193). -/
def State.homeAtomic (s : State) (cid kind key : Nat) (coded : Bool) (b c : Word) : State × Word :=
  let s1 := (s.yieldLine cid (lineOf key)).recall key
  let old : Word := BitVec.ofNat 32 (ofBytes ((s1.view key 4 coded).getD []))
  (s1.homeWrite (cellsAt key (bytesOf 4 (atomicFn kind old b c).toNat)) coded, old)

/-- The Exclusive state that a group-scope or cluster-scope atomic may ask for (08 R246). -/
def State.mayHold (s : State) (cid line sc : Nat) : State :=
  if sc < 2 then
    let (s1, ch) := s.pick 2
    let l := s1.l1 cid
    if ch = 1 ∧ l.excl.contains line = false then s1.setL1 cid { l with excl := l.excl ++ [line] } else s1
  else s

/-- Perform one lane's atomic: at a scratchpad, in an Update-only copy, at the home, or at another device's home. -/
def AmoRun.step (iss : Issue) (w : Wave) (kind sc : Nat) (r : AmoRun) (a : Amo) : AmoRun :=
  let cid := cidOf iss.wave
  match a.place.loc with
  | .mem key coded =>
    if r.s.isLocal key then
      let gathers := a.cell.isNone && sc < 2 && kind ≤ 8 && a.place.limit.isNone && !coded
      let (s0, ch) := if gathers then r.s.pick 2 else (r.s, 1)
      if gathers && ch == 0 then { r with s := s0.gatherUpd cid w.ctx kind w.prio key a.b }
      else
        let (s1, old) := s0.homeAtomic cid kind key coded a.b a.c
        r.land a.lane a.addr a.cell (s1.mayHold cid (lineOf key) sc) old
    else
      let s1 := r.s.yieldLine cid (lineOf key)
      let data := if kind = 10 then bytesOf 4 a.b.toNat ++ bytesOf 4 a.c.toNat else bytesOf 4 a.b.toNat
      let code := if a.cell.isSome then kind else kind + 16
      let why := if a.cell.isSome then .ret w.uid iss a.lane a.addr else .other
      match s1.sendTo (targetOf key) (LinkTx.of 3 0 code (paOf key) data none) why with
      | some (s2, t) => r.send a.lane a.addr a.cell s2 t
      | none => { r with s := s1.countLost (targetOf key) }
  | loc =>
    let old : Word := BitVec.ofNat 32 (ofBytes ((List.range 4).map (r.s.scratchByte w.group cid loc)))
    r.land a.lane a.addr a.cell (r.s.putScratch w.group cid loc (bytesOf 4 (atomicFn kind old a.b a.c).toNat)) old

/-- A word that cannot be read: poisoned, rejected by the codec, or on a device no link reaches (09 R277, R280; 14 R394). -/
def State.unreadable (s : State) (gk cid : Nat) (a : Amo) : Bool :=
  match a.place.loc with
  | .mem key coded =>
    if s.isLocal key then s.homeBytes key 4 coded == .poison
    else a.cell.isSome && (s.portTo (targetOf key)).isNone
  | l => (s.spoiledByte gk cid l 4).isSome

/-- The line of memory that an atomic acts on. -/
def Amo.homeLine (a : Amo) : List Nat :=
  match a.place.loc with
  | .mem key _ => [lineOf key]
  | .core _ => []
  | .cluster _ => []
  | .chip _ => []

/-- Before an atomic: no core of another device holds the tiles of its words (08 R262), and, at device scope and wider, no device keeps an
invariant copy of their lines (08 R249). -/
def State.clearFor (s : State) (sc : Nat) (amos : List Amo) : State × Bool :=
  match s.clearAfar (amos.flatMap (fun a => a.place.tileKeys)) with
  | (s1, false) => (s1, false)
  | (s1, true) => if sc < 2 then (s1, true) else s1.settleMarks (amos.flatMap Amo.homeLine)

/-- Issue an atomic: checks for every lane, what must go before, then each
lane in ascending order (06 R179, R181); it ends the region (01 R46). -/
def State.issueAtomic (s : State) (iss : Issue) (w : Wave) (lanes : Word) (kind sc : Nat) (addr : Nat → Addr) (b c : Nat → Word)
    (cell : Nat → Option Nat) (acc : Access) : Out :=
  if !w.asked.isEmpty then s.finishLanes iss w w.asked
  else match s.checkLanes iss.wave w acc (fun l => [addr l]) (lanesOf lanes) [] with
  | (s1, .error (l, x)) => .trap s1 x.cause x.faddr l
  | (s1, .ok got) =>
    let amos := got.flatMap (fun g => g.2.map (fun p =>
      { place := p, addr := addr g.1, lane := g.1, b := b g.1, c := c g.1, cell := cell g.1 : Amo }))
    if amos.any (fun a => s1.mustWait w a.place 4 true) then .wait s1
    else match amos.find? (s1.unreadable w.group (cidOf iss.wave)) with
    | some a => .trap s1 .eccUncorrectable a.addr a.lane
    | none =>
      match s1.clearFor sc amos with
      | (s2, false) => .wait s2
      | (s2, true) =>
      let r := amos.foldl (AmoRun.step iss w kind sc) { s := s2, replies := [], waits := [] }
      if amos.any (fun a => a.cell.isSome) then r.s.finishLanes iss w r.replies
      else
        let o : Op :=
          { uid := r.s.fresh, kind := .store, iss := iss, writes := [], busy := [], waits := r.waits, adds := [], done := false }
        .done (r.s.tick1.retire iss (((w.count .st o).finish iss).endRegion iss))

/-- A returning atomic (06 R192). -/
def amo (kind : Nat) (pairB : Bool) (d a b : BitVec 7) (sc : BitVec 2) (t : Option (BitVec 6)) :
    State → Host.Outcome State Fault Refusal :=
  runState { guard := none, ops := [.vec d 1 1, .vec a 2 2, if pairB then .vec b 2 2 else .src b], counter := some .ld,
             tags := match t with
               | some t => checkSrc b t
               | none => fun _ _ => none }
    (fun s iss lanes w => s.issueAtomic iss w lanes kind sc.toNat (w.pair a) (fun l => (w.src b l).val)
      (fun l => if pairB then (w.grp b 1 l).val else 0) (fun l => some (cellAt (w.wb + d.toNat) l)) Access.atomic)

/-- A no-return atomic (06 R194). -/
def amoNr (kind : Nat) (pairB : Bool) (a b : BitVec 7) (sc : BitVec 2) (t : Option (BitVec 6)) :
    State → Host.Outcome State Fault Refusal :=
  runState { guard := none, ops := [.vec a 2 2, if pairB then .vec b 2 2 else .src b], counter := some .st,
             tags := match t with
               | some t => checkSrc b t
               | none => fun _ _ => none }
    (fun s iss lanes w => s.issueAtomic iss w lanes kind sc.toNat (w.pair a) (fun l => (w.src b l).val)
      (fun l => if pairB then (w.grp b 1 l).val else 0) (fun _ => none) Access.atomic)

/-- AADD (06 R192). -/
def execAadd (d a b : BitVec 7) (c : BitVec 2) : State → Host.Outcome State Fault Refusal := amo 0 false d a b c none
/-- AADD, returning nothing (06 R194). -/
def execAaddNr (a b : BitVec 7) (c : BitVec 2) : State → Host.Outcome State Fault Refusal := amoNr 0 false a b c none

/-- AFADD (06 R192). -/
def execAfadd (d a b : BitVec 7) (c : BitVec 2) : State → Host.Outcome State Fault Refusal := amo 1 false d a b c (some 1)
/-- AFADD, returning nothing (06 R194). -/
def execAfaddNr (a b : BitVec 7) (c : BitVec 2) : State → Host.Outcome State Fault Refusal := amoNr 1 false a b c (some 1)

/-- AMIN (06 R192). -/
def execAmin (d a b : BitVec 7) (c : BitVec 2) : State → Host.Outcome State Fault Refusal := amo 2 false d a b c none
/-- AMIN, returning nothing (06 R194). -/
def execAminNr (a b : BitVec 7) (c : BitVec 2) : State → Host.Outcome State Fault Refusal := amoNr 2 false a b c none

/-- AMAX (06 R192). -/
def execAmax (d a b : BitVec 7) (c : BitVec 2) : State → Host.Outcome State Fault Refusal := amo 3 false d a b c none
/-- AMAX, returning nothing (06 R194). -/
def execAmaxNr (a b : BitVec 7) (c : BitVec 2) : State → Host.Outcome State Fault Refusal := amoNr 3 false a b c none

/-- AUMIN (06 R192). -/
def execAumin (d a b : BitVec 7) (c : BitVec 2) : State → Host.Outcome State Fault Refusal := amo 4 false d a b c none
/-- AUMIN, returning nothing (06 R194). -/
def execAuminNr (a b : BitVec 7) (c : BitVec 2) : State → Host.Outcome State Fault Refusal := amoNr 4 false a b c none

/-- AUMAX (06 R192). -/
def execAumax (d a b : BitVec 7) (c : BitVec 2) : State → Host.Outcome State Fault Refusal := amo 5 false d a b c none
/-- AUMAX, returning nothing (06 R194). -/
def execAumaxNr (a b : BitVec 7) (c : BitVec 2) : State → Host.Outcome State Fault Refusal := amoNr 5 false a b c none

/-- AAND (06 R192). -/
def execAand (d a b : BitVec 7) (c : BitVec 2) : State → Host.Outcome State Fault Refusal := amo 6 false d a b c none
/-- AAND, returning nothing (06 R194). -/
def execAandNr (a b : BitVec 7) (c : BitVec 2) : State → Host.Outcome State Fault Refusal := amoNr 6 false a b c none

/-- AOR (06 R192). -/
def execAor (d a b : BitVec 7) (c : BitVec 2) : State → Host.Outcome State Fault Refusal := amo 7 false d a b c none
/-- AOR, returning nothing (06 R194). -/
def execAorNr (a b : BitVec 7) (c : BitVec 2) : State → Host.Outcome State Fault Refusal := amoNr 7 false a b c none

/-- AXOR (06 R192). -/
def execAxor (d a b : BitVec 7) (c : BitVec 2) : State → Host.Outcome State Fault Refusal := amo 8 false d a b c none
/-- AXOR, returning nothing (06 R194). -/
def execAxorNr (a b : BitVec 7) (c : BitVec 2) : State → Host.Outcome State Fault Refusal := amoNr 8 false a b c none

/-- AXCHG (06 R192). -/
def execAxchg (d a b : BitVec 7) (c : BitVec 2) : State → Host.Outcome State Fault Refusal := amo 9 false d a b c none
/-- AXCHG, returning nothing (06 R194). -/
def execAxchgNr (a b : BitVec 7) (c : BitVec 2) : State → Host.Outcome State Fault Refusal := amoNr 9 false a b c none

/-- ACAS (06 R192). -/
def execAcas (d a b : BitVec 7) (c : BitVec 2) : State → Host.Outcome State Fault Refusal := amo 10 true d a b c none
/-- ACAS, returning nothing (06 R194). -/
def execAcasNr (a b : BitVec 7) (c : BitVec 2) : State → Host.Outcome State Fault Refusal := amoNr 10 true a b c none

/-! ### ACCB (06 R191) -/

/-- One lane of ACCB in a region tile: it enters the core's delta tile, or waits for the tile (06 R191; 08 R260, R261); without a link to the
tile's home it is lost (14 R394). -/
def State.accbLane (s : State) (cid : Nat) (a : Add) (busy : Bool) : State × List Add × List Nat :=
  let s0 := s.yieldLine cid (2 * a.tile + a.elem / 32)
  if !s0.isLocal (256 * a.tile) && (s0.portTo (targetOf (256 * a.tile))).isNone then (s0.countLost (targetOf (256 * a.tile)), [], [])
  else match if busy then none else s0.tryAdd cid a with
  | some (s1, ids) => (s1, [], ids)
  | none => ((if (s0.holder cid a.tile).isNone then s0.requestJoin cid a else s0), [a], [])

/-- The running result of an ACCB: the state, additions that wait, drains waited for. -/
structure AccRun where
  s : State
  adds : List Add
  waits : List Nat

/-- One lane of ACCB: in a tile as above; elsewhere AFADD at device scope with nothing returned (06 R191). -/
def AccRun.step (iss : Issue) (w : Wave) (r : AccRun) (x : Amo) : AccRun :=
  let cid := cidOf iss.wave
  match x.place.loc, x.place.limit with
  | .mem key coded, some limit =>
    let t : Add := { tile := tileOf key, elem := key % 256 / 4, val := x.b, ctx := w.ctx, limit := limit, coded := coded, cls := w.prio % 4 }
    let busy := r.adds.any (fun y => y.tile == t.tile) || !(r.s.waitingAdds cid t.tile).isEmpty
    let (s2, adds, ids) := r.s.accbLane cid t busy
    { s := s2, adds := r.adds ++ adds, waits := r.waits ++ ids }
  | _, _ =>
    let m := AmoRun.step iss w 1 2 { s := r.s, replies := [], waits := [] } x
    { r with s := m.s, waits := r.waits ++ m.waits }

/-- An earlier access by the wave to a word that ACCB adds to in a tile comes first: a read that has not been answered, or a change on its way
to another device (06 R181). -/
def State.accbWaits (s : State) (w : Wave) (x : Amo) : Bool :=
  match x.place.loc, x.place.limit with
  | .mem key _, some _ =>
    s.readsFirst w key 4 ||
    s.txns.any (fun t => t.alters && lineOf (physKey t.peer t.addr) == lineOf key && w.st.any (fun o => o.kind != .accb && o.waits.contains t.token))
  | _, _ => false

/-- ACCB (06 R191). -/
def execAccb (d a : BitVec 7) (i : BitVec 11) : State → Host.Outcome State Fault Refusal :=
  runState { guard := none, ops := [.vec d 1 1, .vec a 2 2], counter := some .st, tags := checkGrp d 1 1 }
    (fun s iss lanes w =>
      let acc : Access := ⟨4, 4, false, true, .rw, true⟩
      match s.checkLanes iss.wave w acc (fun l => [w.fbAddr iss a i 4 l]) (lanesOf lanes) [] with
      | (s1, .error (l, b)) => .trap s1 b.cause b.faddr l
      | (s1, .ok got) =>
        let amos := got.flatMap (fun g => g.2.map (fun p =>
          { place := p, addr := w.fbAddr iss a i 4 g.1, lane := g.1, b := (w.grp d 0 g.1).val, c := 0, cell := none : Amo }))
        if amos.any (s1.accbWaits w) then .wait s1
        else match amos.find? (fun x => x.place.limit.isNone && s1.unreadable w.group (cidOf iss.wave) x) with
        | some x => .trap s1 .eccUncorrectable x.addr x.lane
        | none =>
          let r := amos.foldl (AccRun.step iss w) { s := s1, adds := [], waits := [] }
          let o : Op :=
            { uid := r.s.fresh, kind := .accb, iss := iss, writes := [], busy := [], waits := r.waits, adds := r.adds, done := false }
          .done (r.s.tick1.retire iss (((w.count .st o).finish iss).endRegion iss)))

/-! ### Rings (06 R195, R196) -/

/-- What ENQ and DEQ ask of their block. -/
def Access.ring : Access := ⟨32, 32, false, false, .rw, false⟩

/-- A lane of ENQ or DEQ: its block's key, the ring that the checks found there and the pages of its entries. -/
structure RingLane where
  lane : Nat
  addr : Addr
  key : Nat
  coded : Bool
  ring : Ring
  pages : List (Nat × Bool)
  deriving DecidableEq, Repr

/-- Why the checks of a ring instruction do not pass: a trap in a lane, or a line of another device still on its way. -/
inductive RingBad where
  | trap (lane : Nat) (b : Bust)
  | miss

/-- The 32 bytes of a block at its home, with the wave's earlier stores to it (06 R181); a device that no link reaches gives nothing
(14 R394). -/
def State.readBlock (s : State) (cid key : Nat) (coded : Bool) : State × Got :=
  let s1 := s.yieldLine cid (lineOf key)
  if !s1.isLocal key && (s1.portTo (targetOf key)).isNone then (s1, .poison) else s1.tileReadAs 0 31 key 32 coded

/-- Steps 1 to 6 of R178 for the lanes in order: the access checks, then a valid block (06 R195, R196). -/
def State.checkRings (s : State) (k : Nat) (w : Wave) (addr : Nat → Addr) : List Nat → List RingLane →
    State × Except RingBad (List RingLane)
  | [], got => (s, .ok got)
  | l :: rest, got =>
    match s.checkElems k w l Access.ring [addr l] with
    | (s1, .error b) => (s1, .error (.trap l b))
    | (s1, .ok ps) =>
      match ps with
      | ⟨.mem key coded, _, _⟩ :: _ =>
        if s1.ownFirst w key 32 true then (s1, .error .miss)
        else match s1.readBlock (cidOf k) key coded with
        | (s2, .poison) => (s2, .error (.trap l ⟨.eccUncorrectable, addr l⟩))
        | (s2, .miss) => (s2, .error .miss)
        | (s2, .ok bs) =>
          match parseRing 24 bs with
          | none => (s2, .error (.trap l ⟨.queueControl, addr l⟩))
          | some r => State.checkRings s2 k w addr rest (got ++ [⟨l, addr l, key, coded, r, []⟩])
      | _ => (s1, .error (.trap l ⟨.aperture, addr l⟩))

/-- The pages of an entry range, each present with R and W: (key of the frame, coded); or the first failing address (step 7; log entry 71). -/
def State.entryPages (s : State) (tlb ctx : Nat) : Nat → Nat → Nat → List (Nat × Bool) → State × Except Bust (List (Nat × Bool))
  | 0, _, _, got => (s, .ok got)
  | fuel + 1, va, last, got =>
    if last < va then (s, .ok got)
    else if 2 ^ 48 ≤ va then (s, .error ⟨.aperture, BitVec.ofNat 64 va⟩)
    else
      match s.virtual tlb ctx va .rw with
      | (s1, .ok (.mem key coded)) => State.entryPages s1 tlb ctx fuel (va / 4096 * 4096 + 4096) last (got ++ [(key / 4096 * 4096, coded)])
      | (s1, .ok _) => (s1, .error ⟨.aperture, BitVec.ofNat 64 va⟩)
      | (s1, .error c) => (s1, .error ⟨c, BitVec.ofNat 64 va⟩)

/-- Step 7 of R178 for the lanes in order (06 R196). -/
def State.checkEntries (s : State) (tlb ctx : Nat) : List RingLane → List RingLane → State × Except RingBad (List RingLane)
  | [], got => (s, .ok got)
  | r :: rest, got =>
    match s.entryPages tlb ctx (r.ring.cap / 1024 + 2) r.ring.base (r.ring.base + 4 * r.ring.cap - 1) [] with
    | (s1, .error b) => (s1, .error (.trap r.lane b))
    | (s1, .ok ps) => State.checkEntries s1 tlb ctx rest (got ++ [{ r with pages := ps }])

/-- The key of entry i of a ring, and whether its page is coded, by the translation the check found. -/
def RingLane.entry (r : RingLane) (i : Nat) : Nat × Bool :=
  let va := r.ring.base + 4 * (i % r.ring.cap)
  let p := r.pages.getD (va / 4096 - r.ring.base / 4096) (0, false)
  (p.1 + va % 4096, p.2)

/-- The entries that the lanes may take or fill: as many from HEAD or TAIL on as there are lanes. -/
def RingLane.reach (r : RingLane) (enq : Bool) (n : Nat) : List Nat :=
  (List.range n).map (fun j => (r.entry ((if enq then r.ring.tail else r.ring.head) + j)).1)

/-- Earlier accesses of the wave to such an entry come first (06 R181). -/
def State.entriesWait (s : State) (w : Wave) (enq : Bool) (rs : List RingLane) : Bool :=
  rs.any (fun r => (r.reach enq rs.length).any (fun k => s.ownFirst w k 4 true))

/-- The entries that the lanes of a DEQ take from blocks here, each the one after those that earlier lanes take from its block: lane,
address, key, whether its page is CODED. -/
def State.takenEntries (s : State) (rs : List RingLane) : List (Nat × Addr × Nat × Bool) :=
  rs.zipIdx.filterMap (fun x =>
    let r := x.1
    let before := ((rs.take x.2).filter (fun y => y.key == r.key)).length
    if s.isLocal r.key && before < r.ring.used then
      some (r.lane, BitVec.ofNat 64 (r.ring.base + 4 * ((r.ring.head + before) % r.ring.cap)), r.entry (r.ring.head + before))
    else none)

/-- Each entry can be read: a poisoned one traps at its address before a lane is performed, a line of another device is waited for
(09 R277; log entry 71). -/
def State.checkTaken (s : State) : List (Nat × Addr × Nat × Bool) → State × Except RingBad Unit
  | [] => (s, .ok ())
  | (l, va, key, coded) :: rest =>
    match s.tileReadAs 0 31 key 4 coded with
    | (s1, .ok _) => State.checkTaken s1 rest
    | (s1, .poison) => (s1, .error (.trap l ⟨.eccUncorrectable, va⟩))
    | (s1, .miss) => (s1, .error .miss)

/-- What an ENQ or DEQ at its block's home comes to: a value, another entry index than the one it was given, a poisoned entry, or a line of
another device that is awaited. -/
inductive RingGot where
  | value (v : Word)
  | index (i : Nat)
  | poison
  | miss
  deriving DecidableEq, Repr

/-- One ENQ or DEQ at the home of its block as one atomic step, for a lane that has found base and LOG2CAP there; entry gives the key of an
entry by the translation the check found (06 R196). -/
def State.ringAct (s : State) (enq : Bool) (key : Nat) (coded : Bool) (base log2cap : Nat) (entry : Nat → Option (Nat × Bool))
    (b : Word) : State × RingGot :=
  let s1 := s.recall key
  match parseRing 24 ((s1.view key 32 coded).getD []) with
  | none => (s1, .value (if enq then 1 else b))
  | some now =>
    if now.base ≠ base ∨ now.log2cap ≠ log2cap then (s1, .value (if enq then 1 else b))
    else if enq then
      if now.used = now.cap then (s1, .value 1)
      else match entry now.tail with
        | none => (s1, .index now.tail)
        | some (k, c) =>
          let s2 := (s1.write (cellsAt k (bytesOf 4 b.toNat)) c .other).1
          ((s2.write (cellsAt (key + 20) (bytesOf 4 ((now.tail + 1) % 2 ^ 32))) coded .other).1, .value 0)
    else if now.tail = now.head then (s1, .value b)
    else match entry now.head with
      | none => (s1, .index now.head)
      | some (k, c) =>
        match s1.tileReadAs 0 31 k 4 c with
        | (s2, .poison) => (s2, .poison)
        | (s2, .miss) => (s2, .miss)
        | (s2, .ok bs) =>
          ((s2.write (cellsAt (key + 16) (bytesOf 4 ((now.head + 1) % 2 ^ 32))) coded .other).1, .value (BitVec.ofNat 32 (ofBytes bs)))

/-- One lane whose block is here, its entry having been read: the value of d(l) (06 R196). -/
def State.ringStep (s : State) (enq : Bool) (r : RingLane) (b : Word) : State × Word :=
  match s.ringAct enq r.key r.coded r.ring.base r.ring.log2cap (fun i => some (r.entry i)) b with
  | (s1, .value v) => (s1, v)
  | (s1, .index _) => (s1, b)
  | (s1, .poison) => (s1, b)
  | (s1, .miss) => (s1, b)

/-- The entry of an ENQ or DEQ that another device is asked to perform. -/
def RingAsk.entry (a : RingAsk) : Nat × Bool :=
  let va := a.base + 4 * (a.index % 2 ^ a.log2cap)
  let p := a.pages.getD (va / 4096 - a.base / 4096) (0, false)
  (p.1 + va % 4096, p.2)

/-- The data of such a transaction: the value, LOG2CAP, BASE, the entry index and the entry's key (log entry 19). -/
def RingAsk.data (a : RingAsk) : List Byte :=
  bytesOf 4 a.value.toNat ++ bytesOf 4 a.log2cap ++ bytesOf 8 a.base ++ bytesOf 8 a.index ++ bytesOf 8 a.entry.1

/-- The first lane that another device is still to perform is sent there once no lane is under way, so that lanes are performed in ascending
order (06 R181; 14 R393); a lane whose link is gone fails (14 R394). -/
def State.askRings (s : State) (uid : Nat) (iss : Issue) (cls : Nat) : List Reply → State × List Reply
  | [] => (s, [])
  | r :: rest =>
    if r.value.isSome || r.failed then
      let (s1, rs) := State.askRings s uid iss cls rest
      (s1, r :: rs)
    else match r.ring with
      | none => (s, r :: rest)
      | some a =>
        if a.sent then (s, r :: rest)
        else match s.sendTo (targetOf a.key) (LinkTx.of (if a.enq then 4 else 5) cls a.scope (paOf a.key) a.data none) (.ret uid iss r.lane r.va) with
          | some (s1, t) => (s1, { r with token := t, ring := some { a with sent := true } } :: rest)
          | none => (s, { r with failed := true } :: rest)

/-- What a home answers to an ENQ or DEQ (log entry 19): the value; the index it found, to be asked for again; or a poisoned entry, whose
address is the fault address. -/
def Reply.ringAnswer (r : Reply) (a : RingAsk) (data : List Byte) : Reply :=
  let word (i : Nat) : Nat := ofBytes ((data.drop (4 * i)).take 4)
  if word 1 = 1 then { r with ring := some { a with index := word 0, sent := false } }
  else if word 1 = 2 then { r with failed := true, va := BitVec.ofNat 64 (a.base + 4 * (a.index % 2 ^ a.log2cap)) }
  else { r with value := some (BitVec.ofNat 32 (word 0)) }

/-- ENQ or DEQ of one lane: here, or to be performed at its block's home on another device (14 R393). -/
def AmoRun.ring (iss : Issue) (enq : Bool) (scope : Nat) (r : AmoRun) (x : RingLane) (b : Word) (cell : Nat) : AmoRun :=
  let s0 := r.s.yieldLine (cidOf iss.wave) (lineOf x.key)
  if s0.isLocal x.key then
    let (s1, v) := s0.ringStep enq x b
    r.land x.lane x.addr (some cell) s1 v
  else
    { r with s := s0, replies := r.replies ++ [
      { lane := x.lane, va := x.addr, cell := cell, token := 0, value := none, failed := false,
        ring := some { enq := enq, scope := scope, key := x.key, base := x.ring.base, log2cap := x.ring.log2cap, pages := x.pages, value := b,
                       index := if enq then x.ring.tail else x.ring.head, sent := false } }] }

/-- Forget the own L2's copies of the blocks and entries that a ring instruction read. -/
def State.dropRingLines (s : State) (rs : List RingLane) : State :=
  rs.foldl (fun s r => { s with l2 := s.l2.filter (fun p => p.1 != lineOf r.key && !r.pages.any (fun q => q.1 / 4096 == p.1 / 32)) }) s

/-- ENQ and DEQ (06 R196). -/
def ringInstr (enq : Bool) (d a b : BitVec 7) (scope : BitVec 2) : State → Host.Outcome State Fault Refusal :=
  runState { guard := none, ops := [.vec d 1 1, .vec a 2 2, .src b], counter := some .ld }
    (fun s iss lanes w =>
      if !w.asked.isEmpty then s.finishLanes iss w w.asked
      else match s.checkRings iss.wave w (w.pair a) (lanesOf lanes) [] with
      | (s2, .error (.trap l x)) => .trap s2 x.cause x.faddr l
      | (s2, .error .miss) => .wait s2
      | (s2, .ok rs) =>
        match s2.checkEntries (cidOf iss.wave) w.ctx rs [] with
        | (s3, .error (.trap l x)) => .trap s3 x.cause x.faddr l
        | (s3, .error .miss) => .wait s3
        | (s3, .ok rs) =>
          if s3.entriesWait w enq rs then .wait s3
          else match s3.clearAfar (rs.flatMap (fun r => r.key :: r.reach enq rs.length)) with
          | (s3, false) => .wait s3
          | (s3, true) =>
          match s3.checkTaken (if enq then [] else s3.takenEntries rs) with
          | (s4, .error (.trap l x)) => .trap s4 x.cause x.faddr l
          | (s4, .error .miss) => .wait s4
          | (s4, .ok _) =>
            let r := rs.foldl (fun (r : AmoRun) x =>
              r.ring iss enq scope.toNat x (w.src b x.lane).val (cellAt (w.wb + d.toNat) x.lane)) { s := s4, replies := [], waits := [] }
            let (s5, replies) := (r.s.dropRingLines rs).askRings w.uid iss w.prio r.replies
            s5.finishLanes iss w replies)

/-- ENQ (06 R196). -/
def execEnq (d a b : BitVec 7) (c : BitVec 2) : State → Host.Outcome State Fault Refusal := ringInstr true d a b c

/-- DEQ (06 R196). -/
def execDeq (d a b : BitVec 7) (c : BitVec 2) : State → Host.Outcome State Fault Refusal := ringInstr false d a b c

/-! ### MONW (06 R197; 08 R252, R253) -/

/-- Take a monitor entry of the word's home slice, or a place on its re-check list (08 R252). -/
def State.addMonitor (s : State) (m : Mon) : State :=
  let n := sliceOf (paOf m.key)
  let sl := s.slice n
  if sl.entries.length < 256 then s.setSlice n { sl with entries := sl.entries ++ [m] }
  else
    let gone (e : Mon) : Bool := e.peer.isNone && (match s.ctxs.find? e.ctx with
      | some c => c.state == 0
      | none => true)
    match sl.entries.find? gone with
    | some e => s.setSlice n { sl with entries := sl.entries.erase e ++ [m] }
    | none => s.setSlice n { sl with relist := sl.relist ++ [m] }

/-- MONW: the word is read at its home; the wave goes on, or parks (06 R197). -/
def execMonw (k : BitVec 4) (a b : BitVec 7) (_c : BitVec 2) : State → Host.Outcome State Fault Refusal :=
  runState { guard := none, reserved := 10 ≤ k.toNat, ops := [.vec a 2 2, .src b] }
    (fun s iss lanes w =>
      let l := lowest lanes
      let v := (w.src b l).val
      match s.checkLanes iss.wave w ⟨4, 4, false, false, .r, false⟩ (fun l => [w.pair a l]) [l] [] with
      | (s1, .error (l, x)) => .trap s1 x.cause x.faddr l
      | (s1, .ok got) =>
        match (got.flatMap Prod.snd).head? with
        | some ⟨.mem key coded, _, _⟩ =>
          if s1.ownFirst w key 4 false then .wait s1 else
          let s2 := s1.yieldLine (cidOf iss.wave) (lineOf key)
          let passed (w : Wave) : Wave := ((w.finish iss).endRegion iss).yieldFrom iss.batch
          let parked (w : Wave) (since : Nat) : Wave :=
            { (w.finish iss).yieldFrom iss.batch with
              wait := some (.monw ⟨iss, l, w.pair a l, key, coded, v, k.toNat, since⟩) }
          if s2.isLocal key then
            match s2.tileReadAs 0 31 key 4 coded with
            | (s3, .poison) => .trap s3 .eccUncorrectable (w.pair a l) l
            | (s3, .miss) => .wait s3
            | (s3, .ok bs) =>
              if monHolds k.toNat (BitVec.ofNat 32 (ofBytes bs)) v then .done (s3.retire iss (passed w))
              else .done ((s3.addMonitor ⟨w.ctx, iss.wave, w.uid, none, key, coded, v, k.toNat⟩).retire iss (parked w s.cycle))
          else
            match s2.sendTo (targetOf key) (LinkTx.of 6 0 k.toNat (paOf key) (bytesOf 4 v.toNat) none)
              (.monw w.uid iss l (w.pair a l)) with
            | some (s3, _) => .done (s3.retire iss (parked w s.cycle))
            | none => .trap s2 .eccUncorrectable (w.pair a l) l
        | _ => .trap s1 .aperture (w.pair a l) l)

/-- MONW_RECHECK: a slice reads each listed word and wakes each wave whose condition holds (08 R252). -/
def evMonwRecheck (n : Nat) (s : State) : State :=
  let sl := s.slice n
  sl.relist.foldl (fun s m =>
    if s.drainsAfar (tileOf m.key) 31 then s.askLeave (tileOf m.key) else
    let s1 := (s.settleTile m.key 31).recallLine (lineOf m.key)
    if s1.monMet m then
      (s1.setSlice n { s1.slice n with relist := (s1.slice n).relist.erase m }).wake m
    else s1) (s.setSlice n { sl with checked := s.cycle })
def execMonwRecheck (slice : Nat) : State → Host.Outcome State Fault Refusal := event (evMonwRecheck slice)

/-! ### Phase boundaries and barriers (06 R198 to R200) -/

/-- PHASE (06 R198). -/
def execPhase (c : BitVec 2) : State → Host.Outcome State Fault Refusal :=
  runState { guard := none } (fun s iss _ w =>
    match s.boundary (cidOf iss.wave) w c.toNat with
    | (s1, true) => .done (s1.retire iss (w.finish iss))
    | (s1, false) => .wait s1)

/-- Release a group's barrier when every wave that has not retired has arrived (06 R199); lines that its cores hold Clean are older than the
release and are dropped (08 R244). -/
def State.releaseBarrier (s : State) (gk : Nat) : State :=
  match s.group gk with
  | none => s
  | some g =>
    let waiting := (List.range g.waves).filter (fun i => !g.retired.contains i)
    if !g.arrived.isEmpty && waiting.all g.arrived.contains then
      let go (w : Wave) : Wave := match w.wait with
        | some (.bar batch) => { w.mapFibs batch (fun _ f => { f with region := f.pc, fresh := false }) with wait := none }
        | _ => w
      let s1 := { s with
        waves := s.waves.map (fun (p : Nat × Wave) => (p.1, if p.2.group = gk then go p.2 else p.2))
        away := s.away.map (fun (p : Nat × Wave) => (p.1, if p.2.group = gk then go p.2 else p.2)) }
      (g.cores.foldl State.dropClean s1).modGroup gk (fun g => { g with arrived := [], generation := g.generation + 1 })
    else s

/-- BAR: the boundary, then the arrival (06 R199). -/
def execBar (c : BitVec 1) : State → Host.Outcome State Fault Refusal :=
  runState { guard := none } (fun s iss _ w =>
    match s.boundary (cidOf iss.wave) w c.toNat with
    | (s1, true) =>
      let w1 := { (w.finish iss).yieldFrom iss.batch with wait := some (.bar iss.batch) }
      let s2 := s1.modGroup w.group (fun g => { g with arrived := g.arrived ++ [w.wid] })
      .done ((s2.retire iss w1).releaseBarrier w.group)
    | (s1, false) => .wait s1)

/-! ### Completion of loads and stores (01 R37, R44; 04 R140, R141) -/

/-- The registers of a load whose data has come are written in live lanes, EMPTY clears, LD falls in issue order (01 R37, R44). -/
def Wave.landOp (w : Wave) (o : Op) : Wave :=
  let land (w : Wave) (x : LWrite) : Wave := if (w.fib (x.cell % 32)).live then w.setCell x.cell ⟨x.val, x.tag, false⟩ else w
  let w1 := o.writes.foldl land w
  let late := o.busy.filter (fun i => (w1.cell i).empty)
  (w1.dropList late).opDone .ld o.uid

/-- LOAD_LANDS: the data reaches the registers; a lane whose data is poisoned consumes it, between two instructions of the wave
(01 R37, R44; 09 R277; 13 R365). -/
def evLoadLands (k idx : Nat) (s : State) : State :=
  match (s.waves.find? k).bind (fun w => (w.ld[idx]?).map (fun o => (w, o))) with
  | none => s
  | some (w, o) =>
    if o.done || !o.waits.isEmpty then s
    else match o.bad with
      | some (lane, va) =>
        if w.doneLanes = 0 ∧ w.asked = [] ∧ s.inOrder w.ctx k = true then s.takeTrap o.iss .eccUncorrectable va lane else s
      | none => s.setWave k (w.landOp o)
def execLoadLands (wave idx : Nat) : State → Host.Outcome State Fault Refusal := event (evLoadLands wave idx)

/-- STORE_PERFORMED: bytes bound for another device are sent and acknowledged first; others are performed at the home, or left Dirty in
the L1, where the wave's next boundary finds them (01 R44; 06 R198; 08 R241). -/
def evStorePerformed (k idx : Nat) (s : State) : State :=
  match (s.waves.find? k).bind (fun w => (w.st[idx]?).map (fun o => (w, o))) with
  | none => s
  | some (_, o) =>
    if o.done || !o.waits.isEmpty || !o.adds.isEmpty then s
    else
      let far := o.busy.filter (fun i => !s.isLocal i)
      let dirty := (s.l1 (cidOf k)).dirty
      if far.any (fun i => (dirty.find? i).isSome) then
        s.flushDirty (cidOf k) (fun i _ => far.contains i)
      else
        let (s1, c) := if o.busy.any (fun i => (dirty.find? i).isSome) then s.pick 2 else (s, 1)
        let s2 := if c = 0 then s1.flushDirty (cidOf k) (fun i _ => o.busy.contains i) else s1
        s2.modWave k (fun w => w.opDone .st o.uid)
def execStorePerformed (wave idx : Nat) : State → Host.Outcome State Fault Refusal := event (evStorePerformed wave idx)

/-- TILE_OP_COMPLETE: the oldest unfinished tile instruction's result is written and TX falls (05 R173). -/
def evTileOpComplete (k : Nat) (s : State) : State :=
  s.modWave k (fun w =>
    match w.tx.find? (fun o => o.kind == .tile && !o.done) with
    | none => w
    | some o => w.opDone .tx o.uid)
def execTileOpComplete (wave : Nat) : State → Host.Outcome State Fault Refusal := event (evTileOpComplete wave)

end Sys2Proof.Machine
end

