-- ==== Sys2Proof/Machine/Pool.lean ====
section
/-! DEFINITION. The ray pool: records, lineage, storage, spill rings, bins and wave formation
(11 R318 to R326, R338 to R341; 07 R225 to R234). -/

namespace Sys2Proof.Machine

/-- The cluster of a ray id (07 R225). -/
def rayCluster (id : Nat) : Nat := id / 2 ^ 15

def Ray.word (r : Ray) (i : Nat) : Word := r.words.get 0 i
def Ray.setWord (r : Ray) (i : Nat) (v : Word) : Ray := { r with words := r.words.put i v }
def Ray.setWords (r : Ray) (ws : List (Nat × Word)) : Ray := ws.foldl (fun r w => r.setWord w.1 w.2) r

def State.setRay (s : State) (id : Nat) (r : Ray) : State := { s with rays := s.rays.put id r }
/-- A record in a slot it did not hold before: an error of the slot's former record is gone. -/
def State.addRay (s : State) (id : Nat) (r : Ray) : State :=
  { s.setRay id r with spoiled := s.spoiled.filter (· != .pool id) }
def State.modRay (s : State) (id : Nat) (f : Ray → Ray) : State := { s with rays := s.rays.modify id f }

/-! ### Lineage (R320 to R322) -/

/-- PARENT of a lineage word; none for a root. -/
def Ray.parent (r : Ray) : Option Nat :=
  let p := (r.word 15).toNat / 2 ^ 12
  if p = 0xFFFFF then none else some p

def Ray.depth (r : Ray) : Nat := (r.word 15).toNat / 2 ^ 8 % 16
def Ray.children (r : Ray) : Nat := (r.word 15).toNat % 256
def Ray.setChildren (r : Ray) (n : Nat) : Ray :=
  r.setWord 15 (BitVec.ofNat 32 ((r.word 15).toNat / 256 * 256 + n))

/-- A freed record leaves its root's count and its parent's children; retained ancestors left without children are freed with it (R321). -/
def State.freeUp : Nat → State → Ray → State
  | 0, s, _ => s
  | fuel + 1, s, r =>
    match r.parent with
    | none => s
    | some p =>
      let s1 := match r.root with
        | some q => s.modRay q (fun x => { x with descendants := x.descendants - 1 })
        | none => s
      let s2 := s1.modRay p (fun x => x.setChildren (x.children - 1))
      match s2.rays.find? p with
      | some x => if x.place = .retained ∧ x.children = 0 then State.freeUp fuel { s2 with rays := s2.rays.del p } x else s2
      | none => s2

/-- Free a record (R321). -/
def State.freeRay (s : State) (id : Nat) : State :=
  match s.rays.find? id with
  | none => s
  | some r => State.freeUp 16 { s with rays := s.rays.del id } r

/-- Retire a ray: it is retained while it has children (R321). -/
def State.retireRay (s : State) (id : Nat) : State :=
  match s.rays.find? id with
  | none => s
  | some r => if r.children > 0 then s.setRay id { r with place := .retained } else s.freeRay id

/-- Release what an ending fibre is bound to (01 R10, R13). -/
def State.release (s : State) (b : Bound) : State :=
  match b with
  | .none => s
  | .ray id => s.retireRay id
  | .item id => { s with rays := s.rays.del id }

/-! ### Pool storage (R323 to R326) -/

/-- POOLMIN as R324 and R378 count it. -/
def Ctx.minNow (c : Ctx) : Nat := if c.state = 1 then c.poolmin else 0

/-- The records a context holds in a cluster (R324). -/
def State.poolUse (s : State) (cl ctx : Nat) : Nat := (s.rays.filter (fun r => rayCluster r.1 == cl && r.2.ctx == ctx)).length

def State.poolFree (s : State) (cl : Nat) : Nat := 32768 - (s.rays.filter (fun r => rayCluster r.1 == cl)).length

/-- What the other contexts lack of their guarantees (R324). -/
def State.poolShort (s : State) (cl ctx : Nat) : Nat :=
  ((s.ctxs.filter (fun c => c.1 != ctx)).map (fun c => c.2.minNow - s.poolUse cl c.1)).sum

def Ctx.ringUsed (c : Ctx) (cl : Nat) : Nat := c.ringTail.get 0 cl - c.ringHead.get 0 cl
def Ctx.ringRoom (c : Ctx) (cl : Nat) : Bool := c.ringUsed cl < c.ringsize

/-- The lowest number from n up that is no key. -/
def lowestGap : Nat → List Nat → Nat
  | n, [] => n
  | n, k :: ks => if k < n then lowestGap n ks else if k = n then lowestGap (n + 1) ks else n

/-- A free slot of a cluster's pool: the lowest (log entry 22). -/
def State.freeSlot (s : State) (cl : Nat) : Nat := lowestGap (cl * 2 ^ 15) (s.rays.map Prod.fst)

/-- A record that may be spilled: an item has no children (R325). -/
def Ray.spillable (r : Ray) : Bool :=
  (r.item || r.children == 0) && (match r.place with
    | .queued => true
    | .inBin _ => true
    | .bound => false
    | .formed => false
    | .retained => false
    | .traversing => false
    | .stopped _ => false)

/-- The spillable record of a context that entered its bin most recently. -/
def State.spillVictim (s : State) (cl ctx : Nat) : Option (Nat × Ray) :=
  (s.rays.filter (fun r => rayCluster r.1 == cl && r.2.ctx == ctx && r.2.spillable)).foldl (fun (b : Option (Nat × Ray)) r =>
    match b with
    | none => some r
    | some y => if y.2.entered < r.2.entered then some r else some y) none

/-- The 256 bytes of a spill ring entry (R325). -/
def ringEntry (r : Ray) : List Byte :=
  let episode := match r.place with
    | .inBin _ => true
    | _ => false
  let key := if r.item then r.key else BitVec.ofNat 32 r.shader
  (List.range 32).flatMap (fun i => bytesOf 4 (r.word i).toNat) ++
  bytesOf 4 ((if episode then 1 else 0) + 2 * r.event) ++ bytesOf 4 key.toNat ++ bytesOf 8 (if r.item then r.pc.toNat else 0) ++
  bytesOf 4 (r.root.getD 0xFFFFFFFF) ++ bytesOf 4 r.lid ++ List.replicate 104 0

/-- Take a record out of its bin; an empty bin is closed. -/
def State.leaveBin (s : State) (id : Nat) : State :=
  let drop (b : Bin) : Bin := { b with members := b.members.filter (· != id) }
  let left : SMap Bin := s.bins.map (fun (b : Nat × Bin) => (b.1, drop b.2))
  { s with bins := List.filter (fun (b : Nat × Bin) => !b.2.members.isEmpty) left }

/-- A ray-quota record of a context that awaits its answer for this cluster (R326). -/
def Ctx.quotaPending (c : Ctx) (cl : Nat) : Bool :=
  c.pending.any (fun p => p.cause == .rayQuota && p.ray == cl && p.answer.isNone)

/-- Report, once, that the Eddy cannot write or read a context's ring (R326; that the record's cluster is its PROGRESS word 0: log entry 79). -/
def State.quotaFault (s : State) (cl ctx : Nat) (va : Nat) : State :=
  match s.ctxs.find? ctx with
  | none => s
  | some c =>
    if c.quotaPending cl then s
    else (s.unitFault ctx .rayQuota 5 (fun r => { r with faddr := BitVec.ofNat 64 va, progress := [BitVec.ofNat 32 cl] })
      (fun p => { p with ray := cl })).1

/-- Poison the lines behind a range of a context's addresses: an error in what was copied there travels with it (09 R277; 14 R401). -/
def State.spoilRange (s : State) (ctx va n : Nat) : State :=
  match s.range deviceTlb ctx .w (n / 128 + 2) va n [] with
  | (s1, .ok ps) => ((ps.map (fun p => lineOf p.1)).dedup).foldl State.spoilLine s1
  | (s1, .error _) => s1

/-- The priority of a launch, which its rays' accesses have (14 R393). -/
def State.prioOf (s : State) (lid : Nat) : Nat := ((s.launches.find? lid).map (fun l => l.prio % 4)).getD 0

/-- Spill one record of a context into its ring (R325); whether a slot was freed. A write that faults is reported, for a context that makes
room for itself too (R326; log entry 79). -/
def State.spillRay (s : State) (cl ctx : Nat) (reclaim : Bool) : State × Bool :=
  match s.ctxs.find? ctx, s.spillVictim cl ctx with
  | some c, some (id, r) =>
    let va := c.ringbase.toNat + 256 * (c.ringsize * cl + (if c.ringsize = 0 then 0 else c.ringTail.get 0 cl % c.ringsize))
    if !c.ringRoom cl then (if reclaim then s.quotaFault cl ctx va else s, false)
    else
      match s.writeVirtual deviceTlb ctx va (ringEntry r) (s.prioOf r.lid) with
      | (s1, .error .miss) => (s1, false)
      | (s1, .error (.fault _ _)) => (s1.quotaFault cl ctx va, false)
      | (s1, .ok _) =>
        let s2 := { s1.leaveBin id with rays := s1.rays.del id }
        ((if s.spoiled.contains (.pool id) then s2.spoilRange ctx va 256 else s2).modCtx ctx (fun c => { c with
          ringTail := c.ringTail.put cl (c.ringTail.get 0 cl + 1)
          ringHeld := c.ringHeld ++ [(cl, some r)] }), true)
  | _, _ => (s, false)

/-- The context to reclaim from: the youngest whose use exceeds its guarantee (R324). -/
def State.reclaimFrom (s : State) (cl : Nat) : Option Nat :=
  ((s.ctxs.filter (fun c => c.2.minNow < s.poolUse cl c.1)).foldl (fun (b : Option (Nat × Ctx)) c =>
    match b with
    | none => some c
    | some y => if y.2.switchedIn < c.2.switchedIn then some c else some y) none).map Prod.fst

/-- A slot that a context may have under R324, below its guarantee by reclaim; none where it must wait. -/
def State.fairSlot (s : State) (cl ctx : Nat) : State × Option Nat :=
  match s.ctxs.find? ctx with
  | none => (s, none)
  | some c =>
    let use := s.poolUse cl ctx
    if use < c.minNow then
      if 0 < s.poolFree cl then (s, some (s.freeSlot cl))
      else
        match s.reclaimFrom cl with
        | none => (s, none)
        | some v =>
          match s.spillRay cl v true with
          | (s1, true) => (s1, some (s1.freeSlot cl))
          | (s1, false) => (s1, none)
    else (s, if use < c.poolcap ∧ s.poolShort cl ctx < s.poolFree cl then some (s.freeSlot cl) else none)

/-- Make a slot available to a context: at its cap it first spills a record of its own while its ring has room (R324, R325); none where it
must wait. -/
def State.poolSlot (s : State) (cl ctx : Nat) : State × Option Nat :=
  match s.ctxs.find? ctx with
  | none => (s, none)
  | some c =>
    if s.poolUse cl ctx = c.poolcap ∧ c.ringRoom cl = true then
      match s.spillRay cl ctx false with
      | (s1, true) => s1.fairSlot cl ctx
      | (s1, false) => (s1, none)
    else s.fairSlot cl ctx

/-! ### Bin keys (07 R233) -/

/-- floor((o - m) / c) clamped to 0 to 63; +Inf gives 63, -Inf and NaN give 0. -/
def binCell (o m c : Word) : Nat :=
  match f32 o with
  | .nan => 0
  | .inf s => if s then 0 else 63
  | x =>
    let e0 := min (min x.expo (f32 m).expo) (f32 c).expo
    let q := (x.scaled e0 - (f32 m).scaled e0) / (f32 c).scaled e0
    if q < 0 then 0 else min 63 q.toNat

/-- BINKEY from a record's origin and direction (07 R233). -/
def binKey (r : Ray) (scene : List Word) (cell : Word) : Word :=
  let cellOf (i : Nat) : Nat := binCell (r.word i) (scene.getD i 0) cell
  let d (i : Nat) : Nat := (r.word (4 + i)).toNat
  let mag (i : Nat) : Nat := d i % 2 ^ 31
  let sign (i : Nat) : Nat := d i / 2 ^ 31
  let axis := if mag 0 < mag 1 then (if mag 1 < mag 2 then 2 else 1) else (if mag 0 < mag 2 then 2 else 0)
  BitVec.ofNat 32 (cellOf 0 + cellOf 1 * 2 ^ 6 + cellOf 2 * 2 ^ 12 + sign 0 * 2 ^ 18 + sign 1 * 2 ^ 19 + sign 2 * 2 ^ 20 + axis * 2 ^ 21)

/-- The shader records of a launch, and its scene for BINKEY. -/
def State.shadersOf (s : State) (lid : Nat) : List Shader := ((s.launches.find? lid).map Launch.shaders).getD []

def State.rayKey (s : State) (r : Ray) : Word :=
  match s.launches.find? r.lid with
  | some l => binKey r l.record.scene l.record.cell
  | none => 0

/-! ### Invariant reads of the traversal unit, the Eddy and the Launch Unit (R343, R344) -/

/-- Fetch a line for a treelet cache: an invariant copy, with the line marked at its home (08 R249). -/
def State.fetchInvariant (s : State) (unit ctx cls line va : Nat) (coded : Bool) : State × Except Bad (List Byte) :=
  match s.tileReadAs cls 31 (128 * line) 128 coded with
  | (s1, .poison) => (s1, .error (.fault .eccUncorrectable va))
  | (s1, .miss) => (s1, .error .miss)
  | (s1, .ok bs) =>
    let s2 := if s1.isLocal (128 * line) then s1.mark line s1.did else s1
    let old := (s2.treelets.get [] unit).filter (fun i => !(i.line == line && i.ctx == ctx))
    ({ s2 with treelets := s2.treelets.put unit (old ++ [⟨line, ctx, bs⟩]) }, .ok bs)

/-- A line through a treelet cache: its copy, which the cache may have replaced, or the home's (R342, R343). -/
def State.invariantLine (s : State) (unit ctx cls line va : Nat) (coded : Bool) : State × Except Bad (List Byte) :=
  match (s.treelets.get [] unit).find? (fun i => i.line == line && i.ctx == ctx) with
  | none => s.fetchInvariant unit ctx cls line va coded
  | some i =>
    let (s1, c) := s.pick 2
    if c = 1 then s1.fetchInvariant unit ctx cls line va coded
    else if i.bytes.isEmpty then (s1, .error (.fault .eccUncorrectable va)) else (s1, .ok i.bytes)

/-- Read the pieces of a range through a treelet cache, from an address on. -/
def State.invariantPieces (s : State) (unit ctx cls va : Nat) : List (Nat × Nat × Bool) → List Byte → State × Except Bad (List Byte)
  | [], got => (s, .ok got)
  | (key, n, coded) :: ps, got =>
    match s.invariantLine unit ctx cls (lineOf key) va coded with
    | (s1, .error e) => (s1, .error e)
    | (s1, .ok bs) => State.invariantPieces s1 unit ctx cls (va + n) ps (got ++ (bs.drop (key % 128)).take n)

/-- An invariant load of n bytes at a virtual address, in its launch's traffic class (06 R185; R343; 14 R393). -/
def State.invariantRead (s : State) (unit ctx cls va n : Nat) : State × Except Bad (List Byte) :=
  match s.range deviceTlb ctx .r (n / 128 + 2) va n [] with
  | (s1, .error e) => (s1, .error e)
  | (s1, .ok ps) => s1.invariantPieces unit ctx cls va ps []

/-! ### Shader bins and wave formation (R339 to R341) -/

/-- Form a wave from a bin: ascending ray id for rays, acceptance order for items (R340). -/
def State.formWave (s : State) (bin : Nat) : State :=
  match s.bins.find? bin with
  | none => s
  | some b =>
    let ctx := ((b.members.head?).bind (fun id => (s.rays.find? id).map Ray.ctx)).getD 0
    let members := if b.item then b.members else sortBy (fun x y => decide (x ≤ y)) b.members
    let f : Formed :=
      { cluster := b.cluster, ctx := ctx, lid := b.lid, item := b.item, event := b.event, shader := b.shader, key := b.key,
        members := members, order := s.fresh }
    let s1 := { s.tick1 with bins := s.bins.del bin, formed := s.formed ++ [f], eddy := s.eddy.put b.cluster s.fresh }
    members.foldl (fun s id => s.modRay id (fun r => { r with place := .formed })) s1

/-- The oldest open bin of a cluster that p selects. -/
def State.oldestBin (s : State) (cl : Nat) (p : Bin → Bool) : Option Nat :=
  ((s.bins.filter (fun b => b.2.cluster == cl && p b.2)).foldl (fun (o : Option (Nat × Bin)) b =>
    match o with
    | none => some b
    | some y => if b.2.opened < y.2.opened then some b else some y) none).map Prod.fst

/-- A record enters the shader bin of its event (R339, R341); the 32nd entry forms a wave (R340). -/
def State.enterBin (s : State) (id : Nat) : State :=
  match s.rays.find? id with
  | none => s
  | some r =>
    let cl := rayCluster id
    let bk := if r.item then 0 else s.rayKey r
    let same (b : Bin) : Bool :=
      b.cluster == cl && b.lid == r.lid && b.item == r.item && b.members.length < 32 &&
      (if r.item then b.pc == r.pc && b.key == r.key else b.binkey == bk && b.shader == r.shader && b.event == r.event)
    match List.find? (fun (b : Nat × Bin) => same b.2) s.bins with
    | some (k, b) =>
      let s1 := { s.tick1 with bins := s.bins.put k { b with members := b.members ++ [id] } }
      let s2 := s1.setRay id { r with place := .inBin k, entered := s.fresh }
      if b.members.length + 1 = 32 then s2.formWave k else s2
    | none =>
      let full := 4096 ≤ (s.bins.filter (fun b => b.2.cluster == cl)).length
      let s0 := if full then (match s.oldestBin cl (fun _ => true) with
        | some o => s.formWave o
        | none => s) else s
      let k := s0.fresh
      let b : Bin :=
        { cluster := cl, lid := r.lid, item := r.item, binkey := bk, event := r.event, shader := r.shader, pc := r.pc,
          key := r.key, members := [id], opened := s0.cycle }
      let s1 := { s0.tick1 with bins := s0.bins.put k b }
      s1.setRay id { r with place := .inBin k, entered := k }

/-- The wave that a cluster's Eddy formed last awaits placement (R340). -/
def State.eddyWaits (s : State) (cl : Nat) : Bool := s.formed.any (fun f => f.cluster == cl && s.eddy.find? cl == some f.order)

/-- A wave of the context waits on GENRAY or ITEM at its cap with its ring full, and forms its oldest bin (R326, R340). -/
def State.pressBins (s : State) (cl ctx : Nat) : State :=
  if s.eddyWaits cl then s
  else match s.oldestBin cl (fun b => ((s.launches.find? b.lid).map Launch.ctx) == some ctx) with
    | some k => s.formWave k
    | none => s

/-- BIN_AGE_FLUSH: a bin older than its launch's FLUSH, or the oldest of a crowded cluster, is formed into a wave (R340). -/
def evBinAgeFlush (bin : Nat) (s : State) : State :=
  match s.bins.find? bin with
  | none => s
  | some b =>
    let flush := ((s.launches.find? b.lid).map (fun l => l.record.flush)).getD 0
    let crowded := 24576 < 32768 - s.poolFree b.cluster && s.oldestBin b.cluster (fun _ => true) == some bin &&
      !s.eddyWaits b.cluster
    if flush < s.cycle - b.opened || crowded then s.formWave bin else s
def execBinAgeFlush (bin : Nat) : State → Host.Outcome State Fault Refusal := event (evBinAgeFlush bin)

/-- The record a ring entry describes, in a new slot: its fields as R325 lays them out, the rest of what traversal knows of the ray as the
device kept it (log entry 22). -/
def rayOfEntry (ctx id : Nat) (bs : List Byte) (held : Ray) (now : Nat) : Ray :=
  let f (o n : Nat) : Nat := ofBytes ((bs.drop o).take n)
  let words : SMap Word := (List.range 32).map (fun i => (i, BitVec.ofNat 32 (f (4 * i) 4)))
  let kind := f 128 4 / 2 % 8
  { held with
    ctx := ctx, lid := f 148 4, item := kind == 4, place := .queued,
    words := if kind = 4 then words else words.put 16 (BitVec.ofNat 32 (ctx * 2 ^ 20 + id)),
    root := if f 144 4 = 0xFFFFFFFF then none else some (f 144 4), event := kind,
    shader := if kind = 4 then 0 else f 132 4, pc := BitVec.ofNat 64 (f 136 8), key := BitVec.ofNat 32 (f 132 4), entered := now }

/-- The lowest-indexed item shader record of a launch with an entry PC (07 R234). -/
def State.itemShader (s : State) (lid : Nat) (pc : Addr) : Option Nat :=
  (s.shadersOf lid).findIdx? (fun x => x.kind == 4 && x.entry == pc)

/-- A cluster's oldest ring entry is taken out of the ring. -/
def Ctx.popRing (c : Ctx) (cl : Nat) : Ctx :=
  { c with
    ringHead := c.ringHead.put cl (c.ringHead.get 0 cl + 1)
    ringHeld := match c.ringHeld.find? (fun h => h.1 == cl) with
      | some h => c.ringHeld.erase h
      | none => c.ringHeld }

/-- No reserved field of a ring entry is other than zero (00 R4; R325). -/
def entryClean (bs : List Byte) : Bool := ofBytes ((bs.drop 128).take 4) < 16 && (bs.drop 152).all (fun b => b == 0)

/-- RAY_REFILL: the oldest ring entry takes a new slot and enters its bin (R324, R325); that of a killed launch's ray, which has retired, is
passed over (13 R385). An entry that cannot be read, or whose reserved fields are not zero, stays and is reported (00 R4; log entry 79). -/
def evRayRefill (cl ctx : Nat) (s : State) : State :=
  match s.ctxs.find? ctx with
  | none => s
  | some c =>
    if c.ringUsed cl = 0 ∨ c.poolcap < s.poolUse cl ctx + 32 ∨ c.state ≠ 1 then s
    else match (c.ringHeld.find? (fun h => h.1 == cl)).bind Prod.snd with
      | none => s.modCtx ctx (fun c => c.popRing cl)
      | some held =>
        let va := c.ringbase.toNat + 256 * (c.ringsize * cl + c.ringHead.get 0 cl % c.ringsize)
        match s.fairSlot cl ctx with
        | (s0, none) => s0
        | (s0, some id) =>
          match s0.readVirtual deviceTlb ctx va 256 (s.prioOf held.lid) with
          | (s1, .error .miss) => s1
          | (s1, .error (.fault _ _)) => s1.quotaFault cl ctx va
          | (s1, .ok bs) =>
            if !entryClean bs then s1.quotaFault cl ctx va
            else
              let r0 := rayOfEntry ctx id bs held s1.fresh
              let r := if r0.item then { r0 with shader := (s1.itemShader r0.lid r0.pc).getD 0 } else r0
              let s2 := (s1.tick1.addRay id r).modCtx ctx (fun c => c.popRing cl)
              if ofBytes ((bs.drop 128).take 4) % 2 = 1 then s2.enterBin id else s2
def execRayRefill (cl ctx : Nat) : State → Host.Outcome State Fault Refusal := event (evRayRefill cl ctx)

end Sys2Proof.Machine
end

