-- ==== Sys2Proof/Machine/Launch.lean ====
section
/-! DEFINITION. Launch records, their checks, acceptance and completion records (08 R258; 10 R296 to R305; 11 R327). -/

namespace Sys2Proof.Machine

/-- A little-endian field of bytes (00 R3). -/
def fieldAt (bs : List Byte) (o n : Nat) : Nat := ofBytes ((bs.drop o).take n)

/-- Core scratchpad bytes of a split mode (09 R269). -/
def scratchLimit (split : Nat) : Nat := if split = 0 then 524288 else if split = 3 then 1310720 else 786432
/-- Cluster-shared bytes of a cluster whose cores are in a split mode (03 R106; 09 R270). -/
def clusterLimit (split : Nat) : Nat := if split = 1 then 2097152 else if split = 2 then 4194304 else 0

/-- The most waves of a footprint one core can hold; vn is the vector need divided by 8 (10 R301). -/
def coreWaves (vn : Nat) : Nat := 6 * min 48 (384 / vn)

/-- The cores a group needs (10 R301). -/
def LaunchRecord.coreCount (r : LaunchRecord) : Nat := (r.waves + coreWaves r.vn - 1) / coreWaves r.vn

/-- VN and WAVES of 5 and 9 bits; the field value 0 of VN is 32 (10 R298). -/
def decodeVn (v : Nat) : Nat := if v = 0 then 32 else v

/-- The fields of a record's 128 bytes (10 R298). -/
def parseLaunch (bs : List Byte) : LaunchRecord :=
  let conf := fieldAt bs 28 4
  { entry := BitVec.ofNat 64 (fieldAt bs 0 8), args := BitVec.ofNat 64 (fieldAt bs 8 8), dimx := fieldAt bs 16 4,
    dimy := fieldAt bs 20 4, dimz := fieldAt bs 24 4, waves := conf % 512, vn := decodeVn (conf / 2 ^ 9 % 32),
    sn := conf / 2 ^ 14 % 4, split := conf / 2 ^ 16 % 4, prio := conf / 2 ^ 18 % 4, after := conf / 2 ^ 20 % 2 == 1,
    scratch := fieldAt bs 32 4, cluster := fieldAt bs 36 4, shtab := BitVec.ofNat 64 (fieldAt bs 40 8), flush := fieldAt bs 52 4,
    scene := (List.range 3).map (fun i => BitVec.ofNat 32 (fieldAt bs (56 + 4 * i) 4)), cell := BitVec.ofNat 32 (fieldAt bs 68 4),
    evq := BitVec.ofNat 64 (fieldAt bs 72 8), tagw := BitVec.ofNat 64 (fieldAt bs 80 8) }

/-- Order 2 of R300: reserved fields zero and every field but VN, SN, WAVES, SCRATCH and CLUSTER inside its limits. -/
def launchFieldsOk (bs : List Byte) (child : Bool) : Bool :=
  let r := parseLaunch bs
  let count := fieldAt bs 48 4
  let finite (w : Word) : Bool := w.toNat / 2 ^ 23 % 256 != 255
  let exp := r.cell.toNat / 2 ^ 23
  r.entry.toNat % 4 == 0 && r.entry.toNat < 2 ^ 48 &&
  1 ≤ r.dimx && r.dimx ≤ 2 ^ 24 && 1 ≤ r.dimy && r.dimy ≤ 65535 && 1 ≤ r.dimz && r.dimz ≤ 65535 &&
  r.dimx * r.dimy * r.dimz < 2 ^ 32 && fieldAt bs 28 4 / 2 ^ 21 == 0 && !(child && r.after) && count ≤ 4096 &&
  (count == 0 || (r.shtab.toNat % 64 == 0 && 1 ≤ r.flush && r.flush ≤ 2 ^ 24 && r.scene.all finite && 1 ≤ exp && exp < 255)) &&
  r.evq.toNat % 32 == 0 && (bs.drop 88).all (fun b => b == 0)

/-- Order 5 of R300: a group can be placed on at most 4 cores of one cluster (R301). -/
def LaunchRecord.fits (r : LaunchRecord) : Bool :=
  1 ≤ r.waves && r.waves ≤ 384 && r.scratch ≤ scratchLimit r.split && r.cluster ≤ clusterLimit r.split &&
  r.coreCount ≤ 4 && (r.coreCount == 1 || r.split == 1 || r.split == 2)

/-- A shader record (10 R299). -/
def parseShader (bs : List Byte) : Shader :=
  let conf := fieldAt bs 8 4
  { entry := BitVec.ofNat 64 (fieldAt bs 0 8), vn := decodeVn (conf % 32), sn := conf / 2 ^ 5 % 4, kind := conf / 2 ^ 7 % 8,
    scratch := fieldAt bs 12 4 }

/-- A shader record inside the limits of R299 for a split mode. -/
def shaderOk (split : Nat) (bs : List Byte) : Bool :=
  let x := parseShader bs
  x.entry.toNat % 4 == 0 && x.entry.toNat < 2 ^ 48 && fieldAt bs 8 4 / 2 ^ 10 == 0 && x.sn != 0 && 1 ≤ x.kind && x.kind ≤ 4 &&
  x.scratch ≤ scratchLimit split

/-- The scene header and the shader table, read as invariant data (10 R299; 11 R327, R343): ROOT and the records, nothing where one is unreadable or breaks a rule;
no answer while a line is on its way. -/
def State.readShaders (s : State) (ctx cls : Nat) (r : LaunchRecord) (count : Nat) : State × Option (Option (Addr × List Shader)) :=
  if count = 0 then (s, some (some (0, [])))
  else if r.shtab.toNat < 64 then (s, some none)
  else
    match s.invariantRead 8 ctx cls (r.shtab.toNat - 64) (64 + 16 * count) with
    | (s1, .error .miss) => (s1, none)
    | (s1, .error (.fault _ _)) => (s1, some none)
    | (s1, .ok bs) =>
      let recs := (List.range count).map (fun i => (bs.drop (64 + 16 * i)).take 16)
      let root := fieldAt bs 0 8
      if root % 128 = 0 && ((bs.drop 8).take 56).all (fun b => b == 0) && recs.all (shaderOk r.split) then
        (s1, some (some (BitVec.ofNat 64 root, recs.map parseShader)))
      else (s1, some none)

/-- What the checks of a record give: a status, the record, its shader records and scene root, and the address that stands for an
unread event queue (10 R300). -/
structure Checked where
  status : Nat
  record : LaunchRecord
  shaders : List Shader
  root : Addr
  silent : Option Addr

/-- The checks of R300 in their order, on the two halves of a record or the first unreadable address of each; no answer while a line of
the shader table is on its way. -/
def State.checkLaunch (s : State) (ctx : Nat) (child : Bool) (lo hi : Except Addr (List Byte)) : State × Option Checked :=
  let plain (st : Nat) (r : LaunchRecord) : Checked := { status := st, record := r, shaders := [], root := 0, silent := none }
  match lo, hi with
  | .error _, .ok b => (s, some (plain 0x14 (parseLaunch (List.replicate 64 0 ++ b))))
  | .ok _, .error a => (s, some { plain 0x14 (parseLaunch []) with silent := some a })
  | .error a, .error _ => (s, some { plain 0x14 (parseLaunch []) with silent := some a })
  | .ok a, .ok b =>
    let bs := a ++ b
    let r := parseLaunch bs
    if !launchFieldsOk bs child then (s, some (plain 0x10 r))
    else if r.sn = 0 then (s, some (plain 0x11 r))
    else
      match s.readShaders ctx (if child then 0 else r.prio) r (fieldAt bs 48 4) with
      | (s1, none) => (s1, none)
      | (s1, some none) => (s1, some (plain 0x13 r))
      | (s1, some (some (root, sh))) =>
        (s1, some { status := if r.fits then 0 else 0x12, record := r, shaders := sh, root := root, silent := none })

/-- A core gathers additions of a context in a tile (08 R259). -/
def State.gathers (s : State) (ctx : Nat) : Bool := s.cores.any (fun (c : Nat × Core) => c.2.l1.hold.any (fun h => h.ctxs.contains ctx))

/-- A region table takes effect, or the whole table is faulty; before a changed one does, the holders that gather additions of the context
drain and leave: while one waits for another device the old table stands (08 R258). Whether it has taken effect. -/
def State.setRegions (s : State) (ctx : Nat) (r : Except Bad (List Byte)) : State × Bool :=
  match r with
  | .error .miss => (s, false)
  | .error (.fault _ a) => (s.modCtx ctx (fun c => { c with regionFault := some (BitVec.ofNat 64 a) }), true)
  | .ok bs =>
    let rs := parseRegions bs
    let s1 := if (s.ctxs.find? ctx).map Ctx.regions = some rs then s else s.leaveTiles ctx
    if (s.ctxs.find? ctx).map Ctx.regions ≠ some rs ∧ s1.gathers ctx = true then (s1, false)
    else (s1.modCtx ctx (fun c => { c with regions := rs, regionFault := none }), true)

/-- Read a context's region table (08 R258); whether its bytes, or a fault, have come and taken effect. -/
def State.loadRegions (s : State) (ctx cls : Nat) : State × Bool :=
  match s.ctxs.find? ctx with
  | none => (s, true)
  | some c =>
    match s.readVirtual deviceTlb ctx c.rtbase.toNat 1024 cls with
    | (s1, r) => s1.setRegions ctx r

/-- What a launch reads at its start: the region table (08 R258; log entry 63), and its scene header and shader table again, so that it
observes what a launch that it follows wrote there (11 R343); none while a line is on its way. -/
def State.startLaunch (s : State) (l : Launch) : State × Option Launch :=
  match s.loadRegions l.ctx l.prio with
  | (s1, false) => (s1, none)
  | (s1, true) =>
    match s1.readShaders l.ctx l.prio l.record l.shaders.length with
    | (s2, none) => (s2, none)
    | (s2, some none) => (s2, some l)
    | (s2, some (some (root, sh))) => (s2, some { l with root := root, shaders := sh })

/-- Accept a record: the next launch id, and a launch that is complete at once when it is rejected (10 R297, R300, R304). -/
def State.acceptLaunch (s : State) (ctx : Nat) (parent : Option Nat) (depth cap : Nat) (queue previous : Option Nat) (c : Checked) :
    State × Nat :=
  let lid := s.nextLid
  let l : Launch :=
    { ctx := ctx, order := s.fresh, parent := parent, depth := depth, prio := min c.record.prio cap, queue := queue,
      previous := previous, record := c.record, shaders := c.shaders, root := c.root, placed := 0, live := 0, retired := 0,
      status := c.status, killed := false, waitingSince := none, reserved := [],
      completed := if c.status = 0 then none else some s.fresh, silent := c.silent, told := none }
  ({ s.tick1 with launches := s.launches.put lid l, nextLid := (lid + 1) % 2 ^ 32 }, lid)

/-- The device holds 4,096 launches that are accepted and not complete (10 R297, R305). -/
def State.launchesFull (s : State) : Bool :=
  4096 ≤ (s.launches.filter (fun (l : Nat × Launch) => l.2.completed.isNone)).length

/-- A Launch Unit record and its number (10 R296, R300). -/
def State.launchFault (s : State) (ctx : Nat) (lid : Word) (a : Addr) : State × Nat :=
  s.unitFault ctx .queueControl 6 (fun r => { r with lid := lid, faddr := a }) (fun p => { p with lid := lid.toNat })

/-- A context is switched in. -/
def State.isIn (s : State) (ctx : Nat) : Bool := ((s.ctxs.find? ctx).map Ctx.state) == some 1

/-- A record of the Launch Unit waits for room in a context's trap queue: the unit does nothing further there (13 R366). -/
def State.unitWaits (s : State) (ctx source : Nat) : Bool :=
  ((s.ctxs.find? ctx).map (fun c => c.backlog.any (fun r => r.1.source == source))).getD false

/-! ### Launch queues (10 R296, R297) -/

def State.lqueue (s : State) (n : Nat) : LaunchQueue :=
  s.queues.get { ring := 0, ctxReg := 0, tail := 0, stopped := false, last := none } n
def State.setLqueue (s : State) (n : Nat) (q : LaunchQueue) : State := { s with queues := s.queues.put n q }

def LaunchQueue.enabled (q : LaunchQueue) : Bool := q.ctxReg.getLsbD 31
def LaunchQueue.ctx (q : LaunchQueue) : Nat := q.ctxReg.toNat % 4096

/-- Check a queue's ring block (10 R296): the ring; nothing and the queue stopped with its record; or no answer yet, to be asked for again. -/
def State.checkQueue (s : State) (n : Nat) : State × Option (Option Ring) :=
  let q := s.lqueue n
  let bad (s : State) : State := ((s.setLqueue n { q with stopped := true, bell := false }).launchFault q.ctx 0xFFFFFFFF q.ring).1
  if q.ring.toNat % 32 ≠ 0 then (bad s, some none)
  else match s.readVirtual deviceTlb q.ctx q.ring.toNat 32 with
    | (s1, .error .miss) => (s1.setLqueue n { q with bell := true }, none)
    | (s1, .error (.fault _ _)) => (bad s1, some none)
    | (s1, .ok bs) =>
      match parseRing 16 bs with
      | none => (bad s1, some none)
      | some r =>
        (s1.setLqueue n { q with tail := BitVec.ofNat 32 r.tail, head := BitVec.ofNat 32 r.head, stopped := false, bell := false }, some (some r))

/-- LQBELL: the ring's TAIL is read and the block checked, whether or not the queue is enabled (10 R296). -/
def evLqbell (n : Nat) (s : State) : State := if n < 16 then (s.checkQueue n).1 else s
def execLqbell (n : Nat) : State → Host.Outcome State Fault Refusal := controlEvent (evLqbell n)

/-- A half of a record for its checks; no answer while a line is on its way. -/
def halfOf (r : Except Bad (List Byte)) : Option (Except Addr (List Byte)) :=
  match r with
  | .ok bs => some (.ok bs)
  | .error .miss => none
  | .error (.fault _ a) => some (.error (BitVec.ofNat 64 a))

/-- A queue may be served: enabled, not stopped, its context switched in with no record of the Launch Unit held back, HEAD not at TAIL as
last read (10 R296, R297). -/
def State.queueHolds (s : State) (n : Nat) : Bool :=
  let q := s.lqueue n
  q.enabled && !q.stopped && !s.unitWaits q.ctx 6 && s.isIn q.ctx && q.head != q.tail

/-- The queue whose turn it is: ascending from the one after the last served (10 R297). -/
def State.nextQueue (s : State) : Option Nat :=
  ((List.range 16).map (fun i => (s.lastQueue + 1 + i) % 16)).find? s.queueHolds

/-- LAUNCH_ACCEPT: the record at HEAD is read and checked, HEAD advances, the next launch id is assigned (10 R297, R300); a check that waited
for its line is made first. HEAD that cannot be written stops the queue as its failed check does (log entry 76). -/
def evLaunchAccept (n : Nat) (s : State) : State :=
  if s.zephyr.halted then s
  else if (s.lqueue n).bell then (s.checkQueue n).1
  else if s.launchesFull || s.nextQueue != some n then s
  else match s.checkQueue n with
    | (s1, some (some ring)) =>
      if ring.used = 0 then s1
      else
        let q := s1.lqueue n
        let va := ring.base + 128 * (ring.head % ring.cap)
        let (s2, lo) := s1.readVirtual deviceTlb q.ctx va 64
        let (s3, hi) := s2.readVirtual deviceTlb q.ctx (va + 64) 64
        match halfOf lo, halfOf hi with
        | some lo, some hi =>
          match s3.checkLaunch q.ctx false lo hi with
          | (s4, none) => s4
          | (s4, some c) =>
            match s4.writeVirtual deviceTlb q.ctx (q.ring.toNat + 16) (bytesOf 4 ((ring.head + 1) % 2 ^ 32)) with
            | (s5, .error _) => ((s5.setLqueue n { q with stopped := true }).launchFault q.ctx 0xFFFFFFFF q.ring).1
            | (s5, .ok _) =>
              let (s6, lid) := s5.acceptLaunch q.ctx none 0 3 (some n) q.last c
              { s6.setLqueue n { s6.lqueue n with last := some lid, head := BitVec.ofNat 32 (ring.head + 1) } with lastQueue := n }
        | _, _ => s3
    | (s1, _) => s1
def execLaunchAccept (n : Nat) : State → Host.Outcome State Fault Refusal := event (evLaunchAccept n)

/-! ### Completion (01 R24; 10 R302 to R304) -/

/-- The groups of a launch's grid (01 R22). -/
def LaunchRecord.groups (r : LaunchRecord) : Nat := r.dimx * r.dimy * r.dimz

/-- A queued command of the launch has not completed (01 R24). -/
def Ctx.commandsOf (c : Ctx) (lid : Nat) : Bool := c.queues.any (fun q => q.2.entries.any (fun e => e.lid == lid))

/-- Everything R24, R303 and R304 ask of a launch before its completion. -/
def State.launchDone (s : State) (lid : Nat) (l : Launch) : Bool :=
  (l.killed || l.placed == l.record.groups) && l.live == 0 &&
  !s.rays.any (fun (r : Nat × Ray) => r.2.lid == lid) &&
  !s.formed.any (fun f => f.lid == lid) && !s.owing.any (fun o => o.lid == lid) &&
  !s.launches.any (fun (x : Nat × Launch) => x.2.parent == some lid) &&
  (match s.ctxs.find? l.ctx with
    | some c => !c.commandsOf lid && !c.ringHeld.any (fun h => h.2.any (fun r => r.lid == lid))
    | none => true)

/-- Perform every store and gathered reduction of a context's waves at the homes (08 R251; 10 R302). -/
def State.flushContext (s : State) (ctx : Nat) : State :=
  (s.cores.map Prod.fst).foldl (fun s cid => (s.flushDirty cid (fun _ d => d.ctxs.contains ctx)).sendUpd cid (fun u => u.ctxs.contains ctx)) s

/-- A launch waits for the changes of other devices' memory that have been sent since an older state (01 R24). -/
def State.oweSent (s : State) (lid ctx : Nat) (old : State) : State :=
  let tokens := (s.txns.filter (fun t => t.alters && decide (old.fresh ≤ t.token))).map Txn.token
  let iss : Issue := { wave := 0, batch := 0, pc := 0, len := 0, word := 0, ext := none }
  if tokens.isEmpty then s
  else { s with owing := s.owing ++ [⟨lid, ctx, 0, { Op.nothing (tokens.headD 0) .store iss with waits := tokens, done := false }⟩] }

/-- The 32 bytes of a completion record (10 R302). -/
def Launch.completion (l : Launch) (lid : Nat) : List Byte :=
  bytesOf 4 lid ++ bytesOf 4 (l.parent.getD 0xFFFFFFFF) ++ bytesOf 4 l.status ++ bytesOf 4 l.retired ++ bytesOf 4 l.depth ++
  bytesOf 4 0 ++ bytesOf 8 l.record.tagw.toNat

/-- A record of the same event queue comes first (10 R302). -/
def State.earlierRecord (s : State) (l : Launch) (at_ : Nat) : Bool :=
  s.launches.any (fun (x : Nat × Launch) => x.2.ctx == l.ctx && x.2.record.evq == l.record.evq && x.2.silent.isNone &&
    (match x.2.completed with
      | some k => k < at_
      | none => false))

/-- The launch is forgotten. -/
def State.endLaunch (s : State) (lid : Nat) : State := { s with launches := s.launches.del lid }

/-- The trap record that stands for a launch's completion record (10 R300): the launch is over once it is written (13 R366). -/
def State.failLaunch (s : State) (lid : Nat) (l : Launch) (a : Addr) : State :=
  let (s1, seq) := s.launchFault l.ctx (BitVec.ofNat 32 lid) a
  if s1.recordWritten l.ctx seq then s1.endLaunch lid
  else { s1 with launches := s1.launches.put lid { l with told := some seq } }

/-- Write a complete launch's record, or the trap record that stands for it; the launch is then forgotten, and its parent waits for what
the record still has to reach (10 R300, R302, R304). -/
def State.reportLaunch (s : State) (lid : Nat) (l : Launch) : State :=
  match l.told, l.silent with
  | some seq, _ => if s.recordWritten l.ctx seq then s.endLaunch lid else s
  | none, some a => s.failLaunch lid l a
  | none, none =>
    let evq := l.record.evq.toNat
    match s.readVirtual deviceTlb l.ctx evq 32 l.prio with
    | (s1, .error .miss) => s1
    | (s1, .error (.fault _ _)) => s1.failLaunch lid l l.record.evq
    | (s1, .ok bs) =>
      match (if evq % 32 = 0 then parseRing 24 bs else none) with
      | none => s1.failLaunch lid l l.record.evq
      | some ring =>
        if ring.used = ring.cap then s1
        else
          let va := ring.base + 32 * (ring.tail % ring.cap)
          match s1.writeVirtual deviceTlb l.ctx va (l.completion lid) l.prio with
          | (s2, .error _) => s2.failLaunch lid l (BitVec.ofNat 64 va)
          | (s2, .ok _) =>
            match s2.writeVirtual deviceTlb l.ctx (evq + 20) (bytesOf 4 ((ring.tail + 1) % 2 ^ 32)) l.prio with
            | (s3, .error _) => s3.failLaunch lid l l.record.evq
            | (s3, .ok _) => (match l.parent with
                | some p => s3.oweSent p l.ctx s1
                | none => s3).endLaunch lid

/-- LAUNCH_COMPLETE: a launch that has nothing left has its context's stores performed; once nothing of them is on its way to another
device and no invalidation is outstanding it completes, and its record is written when its queue has room (08 R251; 10 R302). -/
def evLaunchComplete (lid : Nat) (s : State) : State :=
  match s.launches.find? lid with
  | none => s
  | some l =>
    let report (s : State) (l : Launch) (k : Nat) : State :=
      if s.unitWaits l.ctx 6 && l.told.isNone || s.earlierRecord l k then s else s.reportLaunch lid l
    match l.completed with
    | some k => report s l k
    | none =>
      if s.launchDone lid l then
        let s1 := (s.flushContext l.ctx).oweSent lid l.ctx s
        if s1.owing.any (fun o => o.lid == lid) || s1.invalidating then s1
        else
          let l1 := { l with completed := some s1.fresh }
          report { s1.tick1 with launches := s1.launches.put lid l1 } l1 s1.fresh
      else s
def execLaunchComplete (lid : Nat) : State → Host.Outcome State Fault Refusal := event (evLaunchComplete lid)

end Sys2Proof.Machine
end

