-- ==== Sys2Proof/Machine/Integer.lean ====
section
/-! DEFINITION. The vector integer group, its unary and immediate forms, and LEA (04 R112 to R121). -/

namespace Sys2Proof.Machine

/-- SHL by the full 32-bit count (04 R115). -/
def shlWord (a b : Word) : Word := if b.toNat < 32 then a <<< b.toNat else 0
/-- SHR by the full 32-bit count (04 R115). -/
def shrWord (a b : Word) : Word := if b.toNat < 32 then a >>> b.toNat else 0
/-- SAR by the full 32-bit count (04 R115). -/
def sarWord (a b : Word) : Word := if b.toNat < 32 then a.sshiftRight b.toNat else if a.getLsbD 31 then 0xFFFFFFFF else 0
/-- Bits [63:32] of the signed product (04 R114). -/
def mulhWord (a b : Word) : Word := BitVec.ofInt 32 (sint a * sint b / 2 ^ 32)
/-- Bits [63:32] of the unsigned product (04 R114). -/
def mulhuWord (a b : Word) : Word := BitVec.ofNat 32 (a.toNat * b.toNat / 2 ^ 32)
def iminWord (a b : Word) : Word := if b.slt a then b else a
def imaxWord (a b : Word) : Word := if a.slt b then b else a
def uminWord (a b : Word) : Word := if b.ult a then b else a
def umaxWord (a b : Word) : Word := if a.ult b then b else a
/-- Set bits of a word among its low n bits (04 R118). -/
def popcount : Nat → Word → Nat
  | 0, _ => 0
  | n + 1, a => (if a.getLsbD n then 1 else 0) + popcount n a
/-- Leading zeros among the low n bits (04 R118). -/
def leadingZeros : Nat → Word → Nat
  | 0, _ => 0
  | n + 1, a => if a.getLsbD n then 0 else 1 + leadingZeros n a
/-- Trailing zeros from bit 32 - n up (04 R118). -/
def trailingZeros : Nat → Word → Nat
  | 0, _ => 0
  | n + 1, a => if a.getLsbD (31 - n) then 0 else 1 + trailingZeros n a
/-- BREV (04 R118). -/
def bitReverse (a : Word) : Word := laneNums.foldl (fun r i => if a.getLsbD i then r ||| laneBit (31 - i) else r) 0
/-- BSWAP (04 R118). -/
def byteSwap (a : Word) : Word := BitVec.ofNat 32 (ofBytes (bytesOf 4 a.toNat).reverse)

/-- The checks of an F-A instruction with a destination and two sources (03 R84, R85). -/
def preABD (d a b : BitVec 7) (g : BitVec 2) : Pre :=
  { guard := some g.toNat, ops := [.vec d 1 1, .src a, .src b] }

/-- The checks of an F-A instruction with a destination and one source. -/
def preAD (d a : BitVec 7) (g : BitVec 2) (reserved : Bool) : Pre :=
  { guard := some g.toNat, reserved := reserved, ops := [.vec d 1 1, .src a] }

/-- The register D holds in a lane, as a value to keep (01 R39). -/
def resultOf (d : BitVec 7) (w : Wave) (l : Nat) : LCell := w.grp d 0 l

/-- R112 for two sources: each guarded lane gets f of A and B, tagged X32. -/
def vec2 (f : Word → Word → Word) (d a b : BitVec 7) (g h : BitVec 2) : State → Host.Outcome State Fault Refusal :=
  runHold (preABD d a b g) (holdValue h (fun w => w.src a) (fun w => w.src b) (resultOf d))
    (fun _ lanes w => w.writeField d lanes (fun l => ⟨f (w.src a l).val (w.src b l).val, 0⟩))

/-- R112 for one source of a lane: each guarded lane gets f, tagged X32. -/
def vec1 (f : Word → Word) (d a : BitVec 7) (g h : BitVec 2) : State → Host.Outcome State Fault Refusal :=
  runHold (preAD d a g (h == 2)) (holdValue h (fun w => w.src a) (fun w => w.src a) (resultOf d))
    (fun _ lanes w => w.writeField d lanes (fun l => ⟨f (w.src a l).val, 0⟩))

/-- LANEID and FIBID: a value of the lane itself (04 R118, R119). -/
def vec0 (f : Wave → Nat → Word) (d : BitVec 7) (g h : BitVec 2) : State → Host.Outcome State Fault Refusal :=
  runHold { guard := some g.toNat, reserved := h == 2 || h == 1, ops := [.vec d 1 1] }
    (holdValue h (resultOf d) (resultOf d) (resultOf d))
    (fun _ lanes w => w.writeField d lanes (fun l => ⟨f w l, 0⟩))

/-- R113 and R120: every lane of the batch gets f of A and the immediate, tagged X32. -/
def vecImm (f : Word → Word → Word) (d a : BitVec 7) (imm : Issue → Word) : State → Host.Outcome State Fault Refusal :=
  runWave { guard := none, ops := [.vec d 1 1, .vec a 1 1] }
    (fun iss lanes w => w.writeField d lanes (fun l => ⟨f (w.grp a 0 l).val (imm iss), 0⟩))

/-- The low 32 bits of the F-B immediate (03 R90). -/
def immWord (i : BitVec 11) (iss : Issue) : Word := (iss.immB i).setWidth 32

/-- IADD (04 R114). -/
def execIadd (d a b : BitVec 7) (g h : BitVec 2) : State → Host.Outcome State Fault Refusal := vec2 (fun a b => a + b) d a b g h

/-- IADDS (04 R114). -/
def execIadds (d a b : BitVec 7) (g h : BitVec 2) : State → Host.Outcome State Fault Refusal := vec2 (fun a b => satS32 (sint a + sint b)) d a b g h

/-- ISUB (04 R114). -/
def execIsub (d a b : BitVec 7) (g h : BitVec 2) : State → Host.Outcome State Fault Refusal := vec2 (fun a b => a - b) d a b g h

/-- ISUBS (04 R114). -/
def execIsubs (d a b : BitVec 7) (g h : BitVec 2) : State → Host.Outcome State Fault Refusal := vec2 (fun a b => satS32 (sint a - sint b)) d a b g h

/-- IMUL (04 R114). -/
def execImul (d a b : BitVec 7) (g h : BitVec 2) : State → Host.Outcome State Fault Refusal := vec2 (fun a b => a * b) d a b g h

/-- IMULH (04 R114). -/
def execImulh (d a b : BitVec 7) (g h : BitVec 2) : State → Host.Outcome State Fault Refusal := vec2 mulhWord d a b g h

/-- IMULHU (04 R114). -/
def execImulhu (d a b : BitVec 7) (g h : BitVec 2) : State → Host.Outcome State Fault Refusal := vec2 mulhuWord d a b g h

/-- IMAD: a x b + c with c the prior value of vd (04 R116). -/
def execImad (d a b : BitVec 7) (g h : BitVec 2) : State → Host.Outcome State Fault Refusal :=
  runHold (preABD d a b g) (holdValue h (fun w => w.src a) (fun w => w.src b) (resultOf d))
    (fun _ lanes w => w.writeField d lanes (fun l => ⟨(w.src a l).val * (w.src b l).val + (w.grp d 0 l).val, 0⟩))

/-- AND (04 R114). -/
def execLand (d a b : BitVec 7) (g h : BitVec 2) : State → Host.Outcome State Fault Refusal := vec2 (fun a b => a &&& b) d a b g h

/-- OR (04 R114). -/
def execLor (d a b : BitVec 7) (g h : BitVec 2) : State → Host.Outcome State Fault Refusal := vec2 (fun a b => a ||| b) d a b g h

/-- XOR (04 R114). -/
def execLxor (d a b : BitVec 7) (g h : BitVec 2) : State → Host.Outcome State Fault Refusal := vec2 (fun a b => a ^^^ b) d a b g h

/-- ANDN (04 R114). -/
def execAndn (d a b : BitVec 7) (g h : BitVec 2) : State → Host.Outcome State Fault Refusal := vec2 (fun a b => a &&& ~~~b) d a b g h

/-- SHL (04 R115). -/
def execShl (d a b : BitVec 7) (g h : BitVec 2) : State → Host.Outcome State Fault Refusal := vec2 shlWord d a b g h

/-- SHR (04 R115). -/
def execShr (d a b : BitVec 7) (g h : BitVec 2) : State → Host.Outcome State Fault Refusal := vec2 shrWord d a b g h

/-- SAR (04 R115). -/
def execSar (d a b : BitVec 7) (g h : BitVec 2) : State → Host.Outcome State Fault Refusal := vec2 sarWord d a b g h

/-- IMIN (04 R114). -/
def execImin (d a b : BitVec 7) (g h : BitVec 2) : State → Host.Outcome State Fault Refusal := vec2 iminWord d a b g h

/-- IMAX (04 R114). -/
def execImax (d a b : BitVec 7) (g h : BitVec 2) : State → Host.Outcome State Fault Refusal := vec2 imaxWord d a b g h

/-- UMIN (04 R114). -/
def execUmin (d a b : BitVec 7) (g h : BitVec 2) : State → Host.Outcome State Fault Refusal := vec2 uminWord d a b g h

/-- UMAX (04 R114). -/
def execUmax (d a b : BitVec 7) (g h : BitVec 2) : State → Host.Outcome State Fault Refusal := vec2 umaxWord d a b g h

/-- LEA: the A pair plus the sign-extended B shifted by s; all sources are read before the pair is written (04 R117). -/
def leaBy (s : Nat) (d a b : BitVec 7) (g : BitVec 2) : State → Host.Outcome State Fault Refusal :=
  runWave { guard := some g.toNat, ops := [.vec d 2 2, .vec a 2 2, .src b] }
    (fun _ lanes w => w.writePair d lanes 0 (fun l => w.pair a l + ((w.src b l).val.signExtend 64 <<< s)))

/-- LEA2 (04 R117). -/
def execLea2 (d a b : BitVec 7) (g : BitVec 2) : State → Host.Outcome State Fault Refusal := leaBy 2 d a b g

/-- LEA3 (04 R117). -/
def execLea3 (d a b : BitVec 7) (g : BitVec 2) : State → Host.Outcome State Fault Refusal := leaBy 3 d a b g

/-- MOV (04 R118, R119). -/
def execMov (d a : BitVec 7) (g h : BitVec 2) : State → Host.Outcome State Fault Refusal := vec1 (fun a => a) d a g h

/-- NOT (04 R118, R119). -/
def execLnot (d a : BitVec 7) (g h : BitVec 2) : State → Host.Outcome State Fault Refusal := vec1 (fun a => ~~~a) d a g h

/-- NEG (04 R118, R119). -/
def execNeg (d a : BitVec 7) (g h : BitVec 2) : State → Host.Outcome State Fault Refusal := vec1 (fun a => -a) d a g h

/-- IABS (04 R118, R119). -/
def execIabs (d a : BitVec 7) (g h : BitVec 2) : State → Host.Outcome State Fault Refusal := vec1 (fun a => if a.getLsbD 31 then -a else a) d a g h

/-- POPC (04 R118, R119). -/
def execPopc (d a : BitVec 7) (g h : BitVec 2) : State → Host.Outcome State Fault Refusal := vec1 (fun a => BitVec.ofNat 32 (popcount 32 a)) d a g h

/-- CLZ (04 R118, R119). -/
def execClz (d a : BitVec 7) (g h : BitVec 2) : State → Host.Outcome State Fault Refusal := vec1 (fun a => BitVec.ofNat 32 (leadingZeros 32 a)) d a g h

/-- CTZ (04 R118, R119). -/
def execCtz (d a : BitVec 7) (g h : BitVec 2) : State → Host.Outcome State Fault Refusal := vec1 (fun a => BitVec.ofNat 32 (trailingZeros 32 a)) d a g h

/-- BREV (04 R118, R119). -/
def execBrev (d a : BitVec 7) (g h : BitVec 2) : State → Host.Outcome State Fault Refusal := vec1 bitReverse d a g h

/-- BSWAP (04 R118, R119). -/
def execBswap (d a : BitVec 7) (g h : BitVec 2) : State → Host.Outcome State Fault Refusal := vec1 byteSwap d a g h

/-- LANEID: the lane slot (04 R118). -/
def execLaneid (d : BitVec 7) (g h : BitVec 2) : State → Host.Outcome State Fault Refusal := vec0 (fun _ l => BitVec.ofNat 32 l) d g h

/-- FIBID: the fibre's identifier (01 R8, 04 R118). -/
def execFibid (d : BitVec 7) (g h : BitVec 2) : State → Host.Outcome State Fault Refusal := vec0 Wave.fibId d g h

/-- IADDI (04 R120). -/
def execIaddi (d a : BitVec 7) (i : BitVec 11) : State → Host.Outcome State Fault Refusal := vecImm (fun a b => a + b) d a (immWord i)

/-- IMULI (04 R120). -/
def execImuli (d a : BitVec 7) (i : BitVec 11) : State → Host.Outcome State Fault Refusal := vecImm (fun a b => a * b) d a (immWord i)

/-- ANDI (04 R120). -/
def execAndi (d a : BitVec 7) (i : BitVec 11) : State → Host.Outcome State Fault Refusal := vecImm (fun a b => a &&& b) d a (immWord i)

/-- ORI (04 R120). -/
def execOri (d a : BitVec 7) (i : BitVec 11) : State → Host.Outcome State Fault Refusal := vecImm (fun a b => a ||| b) d a (immWord i)

/-- XORI (04 R120). -/
def execXori (d a : BitVec 7) (i : BitVec 11) : State → Host.Outcome State Fault Refusal := vecImm (fun a b => a ^^^ b) d a (immWord i)

/-- SHLI with a count of 0 to 31 (04 R120). -/
def execShli (d a : BitVec 7) (n : BitVec 5) : State → Host.Outcome State Fault Refusal := vecImm shlWord d a (fun _ => n.setWidth 32)

/-- SHRI with a count of 0 to 31 (04 R120). -/
def execShri (d a : BitVec 7) (n : BitVec 5) : State → Host.Outcome State Fault Refusal := vecImm shrWord d a (fun _ => n.setWidth 32)

/-- SARI with a count of 0 to 31 (04 R120). -/
def execSari (d a : BitVec 7) (n : BitVec 5) : State → Host.Outcome State Fault Refusal := vecImm sarWord d a (fun _ => n.setWidth 32)

/-- VMOVI: the low 32 bits of the immediate, tagged X32, in every fibre of the batch (04 R121). -/
def execVmovi (d : BitVec 7) (i : BitVec 18) : State → Host.Outcome State Fault Refusal :=
  runWave { guard := none, ops := [.vec d 1 1] }
    (fun iss lanes w => w.writeField d lanes (fun _ => ⟨(iss.immC i).setWidth 32, 0⟩))

end Sys2Proof.Machine
end

