-- ==== Sys2Proof/Machine/Lanes.lean ====
section
/-! DEFINITION. Cross-lane moves: SHFL, pattern tables and XBAR (05 R159 to R163). -/

namespace Sys2Proof.Machine

/-- SHFL: the value of a guarded lane of the batch, or the own one, with its tag (05 R159). -/
def execShfl (d a b : BitVec 7) (g h : BitVec 2) : State → Host.Outcome State Fault Refusal :=
  runHold (preABD d a b g) (holdValue h (fun w => w.src a) (fun w => w.src b) (resultOf d))
    (fun _ lanes w => w.writeField d lanes (fun l =>
      let src := (w.src b l).val.toNat % 32
      if lanes.getLsbD src then w.src a src else w.src a l))

/-- What a pattern table asks of memory: a load of 256 bytes (05 R161). -/
def Access.table : Access := ⟨256, 256, true, true, .r, false⟩

/-- Read a pattern table as a plain load of a lane of the wave (05 R161). -/
def State.readTable (s : State) (k : Nat) (w : Wave) (l : Nat) (a : Addr) : State × Except Bust Got :=
  match s.checkElem k w l Access.table a with
  | (s1, .error b) => (s1, .error b)
  | (s1, .ok p) =>
    match (s1.anew k [p]).readPlace (cidOf k) w p 128 with
    | (s3, .ok b1) =>
      match s3.readPlace (cidOf k) w (p.plus 128) 128 with
      | (s4, .ok b2) => (s4, .ok (.ok (p.known w (b1 ++ b2))))
      | (s4, .poison) => (s4, .ok .poison)
      | (s4, .miss) => (s4, .ok .miss)
    | (s3, .poison) => (s3, .ok .poison)
    | (s3, .miss) => (s3, .ok .miss)

/-- A table in a core's cache (05 R160). -/
def State.cachedTable (s : State) (cid ctx : Nat) (a : Addr) : Option (List Byte) :=
  ((s.core cid).patterns.find? (fun p => p.1 == ctx && p.2.1 == a)).map (fun p => p.2.2)

/-- Keep a table in a core's cache (05 R160). -/
def State.cacheTable (s : State) (cid ctx : Nat) (a : Addr) (bs : List Byte) : State :=
  let c := s.core cid
  s.setCore cid { c with patterns := (ctx, a, bs) :: c.patterns.filter (fun p => !(p.1 == ctx && p.2.1 == a)) }

/-- Entry i of a pattern table (05 R162). -/
def tableEntry (bs : List Byte) (i : Nat) : Nat := ofBytes ((bs.drop (2 * i)).take 2)

/-- XPTL (05 R161). -/
def execXptl (n : BitVec 4) (a : BitVec 7) (g : BitVec 2) : State → Host.Outcome State Fault Refusal :=
  runState { guard := some g.toNat, ops := [.vec a 2 2] } (fun s iss lanes w =>
    let l := lowest lanes
    let va := w.pair a l
    match s.readTable iss.wave w l va with
    | (s1, .error b) => .trap s1 b.cause b.faddr l
    | (s1, .ok .poison) => .trap s1 .eccUncorrectable va l
    | (s1, .ok .miss) => .wait s1
    | (s1, .ok (.ok bs)) =>
      if (List.range 128).any (fun i => tableEntry bs i / 2 ^ 10 != 0) then .trap s1 .illegalOperand 0 l
      else .done ((s1.cacheTable (cidOf iss.wave) w.ctx va bs).retire iss
        ({ w with patterns := w.patterns.put n.toNat va }.finish iss)))

/-- The table that a binding names: from the core's cache, or read again as memory stands now; none while it is on its way. Bytes that
can no longer be read are free values (05 R160, R161; log entry 23). -/
def State.boundTable (s : State) (k : Nat) (w : Wave) (l : Nat) (a : Addr) : State × Option (List Byte) :=
  let cid := cidOf k
  let (s0, again) := match s.cachedTable cid w.ctx a with
    | some _ => s.pick 2
    | none => (s, 1)
  match s0.cachedTable cid w.ctx a, again with
  | some bs, 0 => (s0, some bs)
  | _, _ =>
    match s0.readTable k w l a with
    | (s1, .ok (.ok bs)) => (s1.cacheTable cid w.ctx a bs, some bs)
    | (s1, .ok .miss) => (s1, none)
    | (s1, _) => ({ s1 with fresh := s1.fresh + 256 }, some ((List.range 256).map (fun i => Config.freeByte (s1.fresh + i))))

/-- One byte of XBAR's result (05 R162, R163): a dead lane slot's bytes, and those a load has not landed, are undefined. -/
def Wave.xbarByte (w : Wave) (a : BitVec 7) (e : Nat) : Byte :=
  let lane := e % 32
  let i := cellAt (w.wb + a.toNat + e / 32 % 4) lane
  let c := w.cell i
  let v := if (w.fib lane).live && !c.empty then c.val else (w.undefined i).val
  if e / 2 ^ 9 % 2 = 1 then 0 else BitVec.ofNat 8 (v.toNat / 2 ^ (8 * (e / 2 ^ 7 % 4)))

/-- The register lanes that a table makes the lanes of a mask read (05 R162; 14 R401). -/
def Wave.xbarSites (w : Wave) (a : BitVec 7) (t : List Byte) (lanes : Word) : List Site :=
  (((lanesOf lanes).flatMap (fun l => (List.range 4).map (fun j => tableEntry t (4 * l + j)))).filter (fun e => e / 2 ^ 9 % 2 == 0)).map
    (fun e => .register w.uid (cellAt (w.wb + a.toNat + e / 32 % 4) (e % 32)))

/-- XBAR (05 R163). -/
def execXbar (d a : BitVec 7) (n : BitVec 4) (g h : BitVec 2) : State → Host.Outcome State Fault Refusal :=
  runState { guard := some g.toNat, reserved := h == 1 || h == 2, ops := [.vec d 1 1, .vec a 4 4],
             badOperand := fun w => (w.patterns.find? n.toNat).isNone } (fun s iss lanes w =>
    match s.boundTable iss.wave w (lowest lanes) (w.patterns.get 0 n.toNat) with
    | (s1, none) => .wait s1
    | (s1, some t) =>
      if (w.xbarSites a t lanes).any s1.spoiled.contains then .trap s1 .eccUncorrectable 0xFFFFFFFFFFFFFFFF (lowest lanes)
      else
        let out (l : Nat) : Word := BitVec.ofNat 32 (ofBytes ((List.range 4).map (fun j => w.xbarByte a (tableEntry t (4 * l + j)))))
        let w' := w.writeField d lanes (fun l => ⟨out l, 0⟩)
        .done (s1.retire iss (w'.finishKeep iss (holdValue h (fun w => w.grp a 0) (fun w => w.grp a 0) (resultOf d) w w'))))

end Sys2Proof.Machine
end

