-- ==== Sys2Proof/Machine/Control.lean ====
section
/-! DEFINITION. Branches, calls, FORK, FEND, JOIN and WAITC (04 R131 to R141). -/

namespace Sys2Proof.Machine

/-- A displacement in words from the address of the issue (03 R87, R90). -/
def Issue.target (i : Issue) (disp : Addr) : Addr := i.pc + disp * 4

/-- Set the PC of the lanes of a mask. -/
def Wave.jump (w : Wave) (m : Word) (pc : Nat → Addr) : Wave := w.mapFibs m (fun l f => { f with pc := pc l })

/-- The lanes that take a branch in mode m (03 R87). -/
def Wave.takenLanes (w : Wave) (batch : Word) (p : BitVec 3) (n : BitVec 1) (m : BitVec 2) : Word :=
  let holds := (lanesOf batch).foldl (fun t l => if (w.fib l).pred p.toNat != (n == 1) then t ||| laneBit l else t) 0
  if m = 0 then holds
  else if m = 2 then (if holds = batch then batch else 0)
  else if holds = 0 then 0 else batch

/-- BR (03 R87; 04 R131). -/
def execBr (p : BitVec 3) (n : BitVec 1) (m : BitVec 2) (s : BitVec 19) : State → Host.Outcome State Fault Refusal :=
  runPc { guard := none } (fun iss lanes w =>
    let taken := w.takenLanes lanes p n m
    let w1 := w.jump taken (fun _ => iss.target (s.signExtend 64))
    if m = 3 ∧ taken ≠ 0 then w1.yieldFrom iss.batch else w1)

/-- A branch to a pair in each guarded lane; a misaligned pair traps before any fibre branches (04 R133). -/
def branchPair (a : BitVec 7) (g : BitVec 2) : State → Host.Outcome State Fault Refusal :=
  runState { guard := some g.toNat, ops := [.vec a 2 2] } (fun s iss lanes w =>
    match firstLane lanes (fun l => (w.pair a l).toNat % 4 != 0) with
    | some l => .trap s .misaligned (w.pair a l) l
    | none => .done (s.retire iss ((w.finish iss).jump lanes (w.pair a))))

/-- BRX (04 R133). -/
def execBrx (a : BitVec 7) (g : BitVec 2) : State → Host.Outcome State Fault Refusal := branchPair a g

/-- RET (04 R133). -/
def execRet (a : BitVec 7) (g : BitVec 2) : State → Host.Outcome State Fault Refusal := branchPair a g

/-- CALL (04 R134). -/
def execCall (d : BitVec 7) (i : BitVec 18) : State → Host.Outcome State Fault Refusal :=
  runPc { guard := none, ops := [.vec d 2 2] } (fun iss lanes w =>
    (w.writePair d lanes 0 (fun _ => iss.next)).jump lanes (fun _ => iss.target (iss.immC i)))

/-- The lane slots that hold no live fibre, ascending (04 R135). -/
def Wave.freeLanes (w : Wave) : List Nat := laneNums.filter (fun l => !(w.fib l).live)

/-- The fibre that lane l of the batch starts in lane c; the bytes of its lane-private window are undefined (04 R135; 06 R176). -/
def Wave.forkOne (w : Wave) (d : BitVec 7) (target : Addr) (l c : Nat) : Wave :=
  let p := w.fib l
  let child : Fibre :=
    { live := true, pc := target, region := target, preds := p.preds, gen := (w.fib c).gen + 1, join := none, owed := 0,
      bound := .none, kind := 0, forked := true, fresh := false }
  let w1 := (List.range w.need).foldl (fun w n => w.setCell (cellAt n c) (w.cell (cellAt n l))) w
  let w2 := { w1.setFib c child with
    priv := w1.priv.filter (fun (x : Nat × Bool) => x.1 / 65536 != c)
    latch := w1.latch.map (fun (e : Nat × LatchEntry) => (e.1, { e.2 with lanes := e.2.lanes.del c })) }
  (w2.setCell (cellAt (w.wb + d.toNat) c) ⟨w2.fibId l, 0, false⟩).setCell (cellAt (w.wb + d.toNat) l) ⟨w2.fibId c, 0, false⟩

/-- The lanes of the batch in order with the free lane slots they get; 0xFFFF_FFFF is tagged X32 too (04 R135; log entry 78). -/
def Wave.forkAll (w : Wave) (d : BitVec 7) (target : Addr) : List Nat → List Nat → Wave
  | [], _ => w
  | l :: ls, [] => Wave.forkAll (w.setCell (cellAt (w.wb + d.toNat) l) ⟨0xFFFFFFFF, 0, false⟩) d target ls []
  | l :: ls, c :: cs => Wave.forkAll (w.forkOne d target l c) d target ls cs

/-- FORK waits for full registers in the forking lanes, for loads into the lane slots it takes, and for tile results (04 R136; 05 R173). -/
def Wave.forkWaits (w : Wave) (batch : Word) : Bool :=
  let ls := lanesOf batch
  let cs := w.freeLanes.take ls.length
  !w.tileBusy.isEmpty || (List.range w.need).any (fun n => (ls ++ cs).any (fun l => (w.cell (cellAt n l)).empty))

/-- FORK (04 R135, R136). -/
def execFork (d : BitVec 7) (i : BitVec 18) : State → Host.Outcome State Fault Refusal :=
  runState { guard := none, ops := [.vec d 1 1] } (fun s iss lanes w =>
    if w.forkWaits lanes then .wait s
    else .done (s.retire iss ((w.forkAll d (iss.target (iss.immC i)) (lanesOf lanes) w.freeLanes).finish iss)))

/-- End the fibres of a mask and release what they are bound to (01 R10, R13). -/
def State.endLanes (s : State) (iss : Issue) (w : Wave) (m : Word) : State :=
  (lanesOf m).foldl (fun s l => s.release (w.fib l).bound) (s.retire iss ((w.finish iss).endFibres m))

/-- FEND (04 R137). -/
def execFend (g : BitVec 2) : State → Host.Outcome State Fault Refusal :=
  runState { guard := some g.toNat } (fun s iss lanes w => .done (s.endLanes iss w lanes))

/-- JOIN (01 R17; 04 R138). -/
def execJoin (n : BitVec 8) : State → Host.Outcome State Fault Refusal :=
  runPc { guard := none } (fun _ lanes w => (w.mapFibs lanes (fun _ f => { f with join := some n.toNat })).releaseJoin)

/-- WAITC; after a wait on CP or TX later loads see what the commands wrote (04 R139 to R141). -/
def execWaitc (x c s l : BitVec 4) : State → Host.Outcome State Fault Refusal :=
  runState { guard := none } (fun st iss _ w =>
    let met (f : BitVec 4) (k : Ctr) : Bool := f == 15 || decide (w.counter k ≤ f.toNat)
    if met l .ld && met s .st && met c .cp && met x .tx then
      let s1 := if c = 15 ∧ x = 15 then st else st.dropClean (cidOf iss.wave)
      .done (s1.retire iss (w.finish iss))
    else .wait st)

end Sys2Proof.Machine
end

