-- ==== Sys2Proof/Machine/System.lean ====
section
/-! DEFINITION. System instructions (01 R33, R42, R46; 07 R236 to R238). -/

namespace Sys2Proof.Machine

/-- NOP (07 R237). -/
def execNop : State → Host.Outcome State Fault Refusal := runWave { guard := none } (fun _ _ w => w)

/-- TRAP (07 R237). -/
def execTrap (_n : BitVec 7) (g : BitVec 2) : State → Host.Outcome State Fault Refusal :=
  runState { guard := some g.toNat } (fun s _ lanes _ => .trap s .software 0 (lowest lanes))

/-- BKPT (07 R237). -/
def execBkpt (_n : BitVec 7) (g : BitVec 2) : State → Host.Outcome State Fault Refusal :=
  runState { guard := some g.toNat } (fun s _ lanes _ => .trap s .breakpoint 0 (lowest lanes))

/-- A special register (01 R42). -/
def State.special (s : State) (iss : Issue) (w : Wave) (e : Nat) : Addr :=
  let cid := cidOf iss.wave
  if e = 0 then BitVec.ofNat 64 w.wb
  else if e = 1 then BitVec.ofNat 64 w.sb
  else if e = 2 then BitVec.ofNat 64 (w.need + w.sneed / 64 * 2 ^ 10)
  else if e = 3 then (w.fib (lowest iss.batch)).region
  else if e = 4 then w.fsr.setWidth 64
  else if e = 5 then BitVec.ofNat 64 w.lid
  else if e = 6 then w.gx.setWidth 64
  else if e = 7 then w.gy.setWidth 64
  else if e = 8 then w.gz.setWidth 64
  else if e = 9 then BitVec.ofNat 64 w.wid
  else if e = 10 then BitVec.ofNat 64 cid
  else if e = 11 then BitVec.ofNat 64 (clusterOf cid)
  else if e = 12 then BitVec.ofNat 64 s.did
  else if e = 13 then BitVec.ofNat 64 w.depth
  else if e = 14 then BitVec.ofNat 64 (s.core cid).split
  else (((s.core cid).rows.get { val := 0, owner := none, named := false } (e - 16)).val).setWidth 64

/-- A selector of the table of R42. -/
def selectorOk (e : BitVec 7) : Bool := e.toNat != 15 && e.toNat < 32

/-- GETSR, vector form per guarded lane and scalar form once per issue in which some fibre passes the guard (01 R20, R42; 07 R236, R237). -/
def execGetsr (d e : BitVec 7) (sf : BitVec 1) (g : BitVec 2) : State → Host.Outcome State Fault Refusal :=
  let wide := e == 3
  runState { guard := some g.toNat,
             ops := if sf = 1 then [.scl d (if wide then 2 else 1)] else [if wide then .vec d 2 2 else .vec d 1 1],
             badOperand := fun _ => !selectorOk e } (fun s iss lanes w =>
    let v := s.special iss w e.toNat
    let w1 :=
      if sf = 1 then
        let w0 := w.sset d.toNat (v.setWidth 32)
        if wide then w0.sset (d.toNat + 1) ((v >>> 32).setWidth 32) else w0
      else if wide then w.writePair d lanes 0 (fun _ => v)
      else w.writeField d lanes (fun _ => ⟨v.setWidth 32, 0⟩)
    .done (s.retire iss (w1.finish iss)))

/-- SETSR: only FSR is writable (01 R42, R43; 07 R237). -/
def execSetsr (e a : BitVec 7) (g : BitVec 2) : State → Host.Outcome State Fault Refusal :=
  runWave { guard := some g.toNat, ops := [.src a], badOperand := fun _ => e.toNat != 4 }
    (fun _ lanes w => w.setFsr (w.src a (lowest lanes)).val)

/-- RDCYC (01 R49; 07 R237). -/
def execRdcyc (d : BitVec 7) (g : BitVec 2) : State → Host.Outcome State Fault Refusal :=
  runState { guard := some g.toNat, ops := [.vec d 2 2] } (fun s iss lanes w =>
    .done (s.retire iss ((w.writePair d lanes 0 (fun _ => BitVec.ofNat 64 s.cycle)).finish iss)))

/-- YIELD (01 R18; 07 R237). -/
def execYield : State → Host.Outcome State Fault Refusal :=
  runPc { guard := none } (fun iss _ w => w.yieldFrom iss.batch)

/-- REGION (01 R46; 07 R237). -/
def execRegion : State → Host.Outcome State Fault Refusal :=
  runPc { guard := none } (fun iss _ w => w.endRegion iss)

/-- WINB (01 R31; 07 R237, R238); a base beyond the allocation raises ILLEGAL_OPERAND (log entry 80). -/
def execWinb (n : BitVec 5) : State → Host.Outcome State Fault Refusal :=
  runWave { guard := none, badOperand := fun w => w.need < 8 * n.toNat + 8 } (fun _ _ w => { w with wb := 8 * n.toNat })

/-- SWINB (01 R32; 07 R237, R238). -/
def execSwinb (n : BitVec 1) : State → Host.Outcome State Fault Refusal :=
  runWave { guard := none, badOperand := fun w => w.sneed < 64 * n.toNat + 64 } (fun _ _ w => { w with sb := 64 * n.toNat })

/-- The vector registers that no resident wave of a partition holds (01 R30). -/
def State.freeRegs (s : State) (part : Nat) : Nat :=
  3072 - ((s.waves.filter (fun (p : Nat × Wave) => p.1 / 48 == part && p.2.resident)).map (fun p => p.2.need)).sum

/-- The best element of a list by a strict order; the first of equals. -/
def bestBy {α : Type} (lt : α → α → Bool) (xs : List α) : Option α :=
  xs.foldl (fun (b : Option α) x => match b with
    | none => some x
    | some y => if lt x y then some x else some y) none

/-- The waves of a partition, resident or spilled; a partition is named by CID x 6 + its number. -/
def State.partWaves (s : State) (part : Nat) : List (Nat × Wave) := List.filter (fun (p : Nat × Wave) => p.1 / 48 == part) s.waves

/-- The need of a wave parked on REGREQ. -/
def Wave.asks (w : Wave) : Option Nat :=
  match w.wait with
  | some (.regreq n) => some n
  | some .retry => none
  | some (.bar _) => none
  | some (.monw _) => none
  | some (.parkc _ _) => none
  | none => none

/-- Older first, then the lower slot. -/
def older (x y : Nat × Wave) : Bool := x.2.age < y.2.age || (x.2.age == y.2.age && x.1 < y.1)

/-- The oldest wave of a partition that is parked on REGREQ, resident or spilled: freed blocks go to it first (01 R33). -/
def State.firstAsk (s : State) (part : Nat) : Option (Nat × Wave) := bestBy older ((s.partWaves part).filter (fun x => x.2.asks.isSome))

/-- A wave of a partition need not wait for an older one's request (01 R33). -/
def State.asksFirst (s : State) (k : Nat) (w : Wave) : Bool :=
  match s.firstAsk (k / 48) with
  | some x => older (k, w) x
  | none => true

/-- REGREQ: granted at once, or the wave parks (01 R33). -/
def execRegreq (n : BitVec 7) : State → Host.Outcome State Fault Refusal :=
  let need := 8 * n.toNat
  runState { guard := none, badOperand := fun w => need < w.need + 8 || 256 < need } (fun s iss _ w =>
    if need - w.need ≤ s.freeRegs (iss.wave / 48) && s.asksFirst iss.wave w then .done (s.retire iss ({ w with need := need }.finish iss))
    else .done (s.retire iss { w.finish iss with wait := some (.regreq need) }))

/-- REGREL (01 R33). -/
def execRegrel (n : BitVec 7) : State → Host.Outcome State Fault Refusal :=
  let need := 8 * n.toNat
  runWave { guard := none, badOperand := fun w => need < 8 || w.need ≤ need || need ≤ w.wb }
    (fun _ _ w => { w.dropCells (fun i => need ≤ i / 32) with need := need })

/-- A source in any lane; a value still on its way into a lane outside the batch is undefined (01 R37, log entry 12). -/
def Wave.srcAny (w : Wave) (f : BitVec 7) (l : Nat) : LCell :=
  let i := cellAt (w.wb + f.toNat) l
  if f.toNat < 125 && (w.cell i).empty then ⟨(w.undefined i).val, 0x3F⟩ else w.src f l

/-- The storage of a source field in a lane (14 R401). -/
def Wave.siteOf (w : Wave) (f : BitVec 7) (l : Nat) : Site :=
  if f.toNat < 125 then .register w.uid (cellAt (w.wb + f.toNat) l) else .latch w.uid (f.toNat - 125) l

/-- RDLANE (07 R237). -/
def execRdlane (d a : BitVec 7) (g : BitVec 2) : State → Host.Outcome State Fault Refusal :=
  runWave { guard := some g.toNat, ops := [.scl d 1, .src a], reach := fun w => [w.siteOf a ((w.sget d.toNat).toNat % 32)] }
    (fun _ _ w => w.sset d.toNat (w.srcAny a ((w.sget d.toNat).toNat % 32)).val)

/-- WRLANE: it waits while the lane it writes is EMPTY (07 R237). -/
def execWrlane (d a : BitVec 7) (g : BitVec 2) : State → Host.Outcome State Fault Refusal :=
  runState { guard := some g.toNat, ops := [.vec d 1 1, .scl a 2] } (fun s iss _ w =>
    let cell := cellAt (w.wb + d.toNat) ((w.sget (a.toNat + 1)).toNat % 32)
    if (w.cell cell).empty then .wait s
    else .done (s.retire iss ((w.setCell cell ⟨w.sget a.toNat, 0, false⟩).finish iss)))

/-- BCAST from the lowest guarded fibre (07 R237). -/
def execBcast (d a : BitVec 7) (sf : BitVec 1) (g : BitVec 2) : State → Host.Outcome State Fault Refusal :=
  runWave { guard := some g.toNat, ops := [if sf = 1 then .scl d 1 else .vec d 1 1, .src a] } (fun _ lanes w =>
    let v := w.src a (lowest lanes)
    if sf = 1 then w.sset d.toNat v.val else w.writeField d lanes (fun _ => v))

/-- Bring the line at an address toward the core; an address that would fault is ignored (07 R237). -/
def State.prefetch (s : State) (k : Nat) (w : Wave) (l : Nat) (a : Addr) : State :=
  match s.checkElem k w l ⟨1, 1, true, true, .r, false⟩ a with
  | (s1, .ok ⟨.mem key coded, none, _⟩) => (s1.cleanLine (cidOf k) (lineOf key) coded).1
  | (s1, .ok _) => s1
  | (s1, .error _) => s1

/-- PREFH (07 R237). -/
def execPrefh (a : BitVec 7) (g : BitVec 2) : State → Host.Outcome State Fault Refusal :=
  runState { guard := some g.toNat, ops := [.vec a 2 2] } (fun s iss lanes w =>
    .done (((lanesOf lanes).foldl (fun s l => s.prefetch iss.wave w l (w.pair a l)) s).retire iss (w.finish iss)))

/-- PARKC: it ends at once when every counter is zero; otherwise when a counter falls or its time is over (07 R237). -/
def execParkc (n : BitVec 7) : State → Host.Outcome State Fault Refusal :=
  runState { guard := none } (fun s iss _ w =>
    if w.ld.isEmpty && w.st.isEmpty && w.cp.isEmpty && w.tx.isEmpty then
      .done (s.retire iss ((w.finish iss).yieldFrom iss.batch))
    else
      let due := if n = 0 then none else some (s.cycle + 256 * n.toNat)
      .done (s.setWave iss.wave { w with wait := some (.parkc iss due) }.stopCheck))

/-- PARKC_TIMEOUT: the time of a parked wave is over (07 R237). -/
def evParkcTimeout (k : Nat) (s : State) : State :=
  s.modWave k (fun w => match w.wait with
    | some (.parkc _ (some due)) => if due ≤ s.cycle then w.endPark else w
    | _ => w)
def execParkcTimeout (wave : Nat) : State → Host.Outcome State Fault Refusal := event (evParkcTimeout wave)

end Sys2Proof.Machine
end

