-- ==== Sys2Proof/Machine/Place.lean ====
section
/-! DEFINITION. Placing groups and Eddy-formed waves, their entry state, reservations, retirement (01 R9 to R11, R21 to R30;
09 R269 to R271; 10 R306 to R310, R312). -/

namespace Sys2Proof.Machine

/-! ### Active and pending sets (10 R312) -/

/-- The wave can issue: no wave-level wait, an eligible fibre, not stopped by a halt (10 R312; 13 R370). -/
def Wave.ready (w : Wave) : Bool :=
  w.resident && w.wait.isNone && !w.isStopped && w.batch.isSome

/-- Higher priority first, then older, a boosted wave before every other of its priority (10 R308, R312, R314). -/
def before (x y : Nat × Wave) : Bool :=
  if x.2.prio ≠ y.2.prio then y.2.prio < x.2.prio
  else if x.2.boosted ≠ y.2.boosted then x.2.boosted
  else x.2.age < y.2.age || (x.2.age == y.2.age && x.1 < y.1)

def State.activeCount (s : State) (part : Nat) : Nat := ((s.partWaves part).filter (fun p => p.2.active)).length

/-- Ready pending waves move into free active places; the move takes the 2 cycles of an exchange, in which they do not issue (10 R312). -/
def State.fillActive : Nat → State → Nat → State
  | 0, s, _ => s
  | fuel + 1, s, part =>
    if 8 ≤ s.activeCount part then s
    else match bestBy before ((s.partWaves part).filter (fun p => !p.2.active && p.2.ready)) with
      | none => s
      | some (k, _) => State.fillActive fuel (s.modWave k (fun w => { w with active := true, tried := s.cycle + 3 })) part

/-! ### Room on a core (01 R30; 09 R269, R270; 10 R301, R307) -/

/-- Scratchpad is allocated in granules of 256 bytes (10 R298). -/
def granules (n : Nat) : Nat := (n + 255) / 256 * 256

/-- A partition's free vector blocks and free wave slots, lowest first. -/
structure Room where
  part : Nat
  blocks : Nat
  slots : List Nat
  deriving DecidableEq, Repr

/-- A spilled wave that goes back to its slot when the partition has room: not one that waits to be woken (01 R34; 10 R315). -/
def Wave.wantsReturn (w : Wave) : Bool :=
  !w.resident && !(w.longParked && (match w.wait with
    | some (.monw _) => true
    | some .retry => false
    | some (.bar _) => false
    | some (.parkc _ _) => false
    | some (.regreq _) => false
    | none => false))

/-- The waves of switched-in contexts that still have to return to a partition (13 R379). -/
def State.returning (s : State) (part : Nat) : List (Nat × Wave) :=
  s.away.filter (fun (p : Nat × Wave) => p.1 / 48 == part && s.isIn p.2.ctx)

/-- The room of a partition for new placements; a wave parked on REGREQ, a spilled wave that wants to return, and a wave of a context that
was switched in, come first (01 R33, R34; 13 R379). -/
def State.room (s : State) (part : Nat) : Room :=
  let ws := s.partWaves part
  let taken := (ws ++ s.returning part).map (fun p => slotOf p.1)
  { part := part
    blocks :=
      if ws.any (fun p => p.2.wantsReturn || p.2.asks.isSome) || !(s.returning part).isEmpty then 0 else s.freeRegs part / 8
    slots := (List.range 48).filter (fun i => !taken.contains i) }

/-- Place waves one by one on the partition with the most free blocks, lowest on ties, in its lowest free slot (10 R307). -/
def seat (vn : Nat) : Nat → List Room → List Nat → Option (List Nat)
  | 0, _, got => some got
  | n + 1, rooms, got =>
    match bestBy (fun (x y : Room) => y.blocks < x.blocks) (rooms.filter (fun r => !r.slots.isEmpty)) with
    | none => none
    | some r =>
      if r.blocks < vn then none
      else
        let rooms' := rooms.map (fun x => if x.part = r.part then { x with blocks := x.blocks - vn, slots := x.slots.drop 1 } else x)
        seat vn n rooms' (got ++ [r.part * 48 + r.slots.headD 0])

/-- Core scratchpad bytes that the placed groups hold on a core. -/
def State.scratchUsed (s : State) (cid : Nat) : Nat :=
  ((s.groups.filter (fun (g : Nat × Group) => g.2.cores.contains cid)).map (fun g => granules g.2.scratch)).sum

/-- Cluster-shared bytes that the placed groups hold in a cluster. -/
def State.sharedUsed (s : State) (cl : Nat) : Nat :=
  ((s.groups.filter (fun (g : Nat × Group) => (g.2.cores.head?).any (fun c => clusterOf c == cl))).map (fun g => granules g.2.cluster)).sum

/-- The split mode of a launch. -/
def State.splitOf (s : State) (lid : Nat) : Option Nat := (s.launches.find? lid).map (fun l => l.record.split)

/-- No wave is resident or spilled on the core; one that has to return to it counts where its launch uses the current mode (01 R35). -/
def State.vacant (s : State) (cid : Nat) : Bool :=
  !s.waves.any (fun (p : Nat × Wave) => cidOf p.1 == cid) &&
  !s.away.any (fun (p : Nat × Wave) => cidOf p.1 == cid && s.isIn p.2.ctx && s.splitOf p.2.lid == some (s.core cid).split)

/-- The core is in the split mode or may change to it (10 R307). -/
def State.eligibleCore (s : State) (cid split : Nat) : Bool := (s.core cid).split == split || s.vacant cid

/-- The wave keys a core gives n waves; none where it cannot hold them and their scratchpad (10 R307). -/
def State.seatOn (s : State) (cid split n vn scratch : Nat) : Option (List Nat) :=
  if s.eligibleCore cid split && s.scratchUsed cid + granules scratch ≤ scratchLimit split then
    seat vn n ((List.range 6).map (fun p => s.room (cid * 6 + p))) []
  else none

/-- The cluster can hold the group's cluster-shared memory: every core in its mode or changed at placement, and room (09 R270). -/
def State.sharedFits (s : State) (cl split cluster : Nat) : Bool :=
  cluster == 0 || ((List.range 8).all (fun i => s.eligibleCore (cl * 8 + i) split) &&
    s.sharedUsed cl + granules cluster ≤ clusterLimit split)

/-- The core is reserved for another launch: nothing of lower priority goes there, and while it drains for its split mode nothing of
another one (10 R309). -/
def State.reservedFrom (s : State) (cid : Nat) (lid : Option Nat) (prio split : Nat) : Bool :=
  s.launches.any (fun (x : Nat × Launch) => some x.1 != lid && x.2.reserved.contains cid &&
    (prio < x.2.prio || ((s.core cid).split != x.2.record.split && !s.vacant cid && x.2.record.split != split)))

/-- The free vector blocks of a core. -/
def State.coreBlocks (s : State) (cid : Nat) : Nat := ((List.range 6).map (fun p => s.freeRegs (cid * 6 + p) / 8)).sum

/-- The n lowest cores of a cluster that fit their shares of a group: core and keys (10 R307). -/
def State.spreadOver (s : State) (lid : Nat) (prio : Nat) (r : LaunchRecord) (n share : Nat) : List Nat → List (Nat × List Nat) → Option (List (Nat × List Nat))
  | [], got => if got.length = n then some got else none
  | cid :: cs, got =>
    if got.length = n then some got
    else
      let count := min share (r.waves - share * got.length)
      let fit := if s.reservedFrom cid (some lid) prio r.split then none else s.seatOn cid r.split count r.vn r.scratch
      match fit with
      | some keys => State.spreadOver s lid prio r n share cs (got ++ [(cid, keys)])
      | none => State.spreadOver s lid prio r n share cs got

/-- The cores and wave keys that a launch's next group takes; none where it fits nowhere (10 R307). -/
def State.chooseCores (s : State) (lid prio : Nat) (r : LaunchRecord) : Option (List (Nat × List Nat)) :=
  let n := r.coreCount
  if n = 1 then
    let fits := (List.range 64).filterMap (fun cid =>
      if s.reservedFrom cid (some lid) prio r.split || !s.sharedFits (clusterOf cid) r.split r.cluster then none
      else (s.seatOn cid r.split r.waves r.vn r.scratch).map (fun ks => (cid, ks)))
    (bestBy (fun (x y : Nat × List Nat) => s.coreBlocks y.1 < s.coreBlocks x.1) fits).map (fun x => [x])
  else
    let share := (r.waves + n - 1) / n
    (List.range 8).findSome? (fun cl =>
      if s.sharedFits cl r.split r.cluster then
        s.spreadOver lid prio r n share ((List.range 8).map (fun i => cl * 8 + i)) []
      else none)

/-! ### Split modes (09 R271) -/

/-- A group loses what a core contributes to its cluster-shared memory, and its scratchpad there: these bytes become undefined. -/
def Group.loseCore (g : Group) (cid epoch : Nat) : Group :=
  if (g.cores.head?).any (fun c => clusterOf c == clusterOf cid) then
    { g with
      scratchMem := g.scratchMem.del cid
      clusterMem := g.clusterMem.filter (fun (b : Nat × Byte) => b.1 / 256 % 8 != cid % 8)
      lost := g.lost.put (cid % 8) epoch }
  else g

/-- Change a core's split mode: everything dirty or gathered goes home, holders leave (one of a tile of another device when its drain is
acknowledged), the other lines are dropped, scratchpad and
cluster-shared bytes of the core become undefined. -/
def State.changeSplit (s : State) (cid split : Nat) : State :=
  if (s.core cid).split = split then s
  else
    let s1 := (s.flushDirty cid (fun _ _ => true)).sendUpd cid (fun _ => true)
    let s2 := (s1.l1 cid).hold.foldl (fun s h => s.leaveTile cid h.tile) s1
    let far := (s2.l1 cid).hold.filter (fun h => !s2.isLocal (256 * h.tile))
    let s3 := s2.setCore cid { s2.core cid with split := split, l1 := { L1.none with hold := far } }
    { s3.tick1 with groups := s3.groups.map (fun (g : Nat × Group) => (g.1, g.2.loseCore cid s3.fresh)) }

/-! ### The entry state of fibres and waves (01 R9 to R11, R27) -/

/-- A fibre that starts with its wave (01 R11). -/
def Fibre.start (pc : Addr) (kind : Nat) (bound : Bound) : Fibre :=
  { live := true, pc := pc, region := pc, preds := 1, gen := 0, join := none, owed := 0, bound := bound,
    kind := kind, forked := false, fresh := false }

/-- What a new wave takes from its launch, its group and its fibres. -/
structure Birth where
  ctx : Nat
  lid : Nat
  group : Nat
  wid : Nat
  depth : Nat
  prio : Nat
  age : Nat
  need : Nat
  sneed : Nat
  coords : List Word
  args : Addr
  s2 : Word
  /-- Fibres by lane slot from 0, with v0 and v1. -/
  lanes : List (Fibre × Word × Word)

/-- The registers of the entry state (01 R11). -/
def Birth.regs (b : Birth) : SMap VCell :=
  (b.lanes.mapIdx (fun l x => (cellAt 0 l, (⟨x.2.1, 0, false⟩ : VCell)))) ++ (b.lanes.mapIdx (fun l x => (cellAt 1 l, ⟨x.2.2, 0, false⟩)))

/-- A new wave in its entry state (01 R11, R14; 05 R160). -/
def Birth.wave (b : Birth) (uid cycle : Nat) : Wave :=
  { uid := uid, ctx := b.ctx, lid := b.lid, group := b.group, wid := b.wid, depth := b.depth, gx := b.coords.getD 0 0,
    gy := b.coords.getD 1 0, gz := b.coords.getD 2 0, prio := b.prio, age := b.age, need := b.need, sneed := b.sneed, wb := 0,
    sb := 0, regs := b.regs, epoch := 0,
    scalars := [(0, b.args.setWidth 32), (1, (b.args >>> 32).setWidth 32), (2, b.s2), (3, BitVec.ofNat 32 b.lanes.length)],
    fibres := b.lanes.mapIdx (fun l x => (l, x.1)), latch := [], lp := 0, fsr := 0, patterns := [], ld := [], st := [], cp := [],
    tx := [], wait := none, run := .running, skid := 0, doneLanes := 0, asked := [], active := false, resident := true, longParked := false, priv := [],
    lastIssue := cycle,
    stallSince := cycle, readySince := cycle, tried := 0, boosted := false }

/-- Put a new wave in its slot; its core's Clean lines, and the own L2's copies of other devices' lines, are older than it and are dropped
(08 R242, R244). -/
def State.birth (s : State) (k : Nat) (b : Birth) : State :=
  let s1 := ((s.setWave k (b.wave s.fresh s.cycle)).tick1.dropClean (cidOf k)).forgetLines (fun _ => true)
  if s1.activeCount (k / 48) < 8 then s1.modWave k (fun w => { w with active := true }) else s1

/-- A group that nothing has happened to. -/
def Group.fresh (ctx lid : Nat) (index : Word) (waves : Nat) (cores members : List Nat) (scratch cluster : Nat) (eddy : Bool)
    (epoch : Nat) : Group :=
  { ctx := ctx, lid := lid, index := index, waves := waves, cores := cores, members := members, retired := [], scratch := scratch,
    cluster := cluster, eddy := eddy, arrived := [], generation := 0, halted := false, haltSeq := none, skidGone := 0, unanswered := [],
    recorded := false, records := [], scratchMem := [], clusterMem := [], epoch := epoch, lost := [] }

/-- A launch's reservations for waves that return (13 R379); the one for its next group is dropped with its placement (10 R309). -/
def State.keptCores (s : State) (lid : Nat) (l : Launch) : List Nat :=
  l.reserved.filter (fun c => s.away.any (fun (p : Nat × Wave) => p.2.lid == lid && cidOf p.1 == c))

/-- Place the next group of a launch on the cores chosen (10 R307, R308). -/
def State.placeGroup (s : State) (lid : Nat) (l : Launch) (cores : List (Nat × List Nat)) : State :=
  let r := l.record
  let cids := cores.map Prod.fst
  let cl := clusterOf (cids.headD 0)
  let changed := if r.cluster = 0 then cids else (List.range 8).map (fun i => cl * 8 + i)
  let s1 := changed.foldl (fun s c => s.changeSplit c r.split) s
  let i := l.placed
  let keys := cores.flatMap Prod.snd
  let coords := [i % r.dimx, i / r.dimx % r.dimy, i / (r.dimx * r.dimy)].map (BitVec.ofNat 32)
  let gk := s1.placements
  let g := Group.fresh l.ctx lid (BitVec.ofNat 32 i) r.waves cids keys r.scratch r.cluster false s1.fresh
  let l' := { l with placed := i + 1, live := l.live + 1, waitingSince := none, reserved := s.keptCores lid l }
  let s2 := { s1.tick1 with groups := s1.groups.put gk g, placements := gk + 1, launches := s1.launches.put lid l' }
  (keys.zipIdx).foldl (fun s k =>
    s.birth k.1
      { ctx := l.ctx, lid := lid, group := gk, wid := k.2, depth := l.depth, prio := l.prio, age := gk, need := 8 * r.vn,
        sneed := 64 * r.sn, coords := coords, args := r.args, s2 := BitVec.ofNat 32 i,
        lanes := laneNums.map (fun n => (Fibre.start r.entry 0 .none, BitVec.ofNat 32 (32 * k.2 + n), 0)) }) s2

/-- Place a wave that the Eddy has formed (01 R27; 10 R299, R310; 11 R340). -/
def State.placeFormed (s : State) (f : Formed) (l : Launch) (sh : Shader) (cid k : Nat) : State :=
  let s1 := s.changeSplit cid l.record.split
  let gk := s1.placements
  let g := Group.fresh f.ctx f.lid 0xFFFFFFFF 1 [cid] [k] sh.scratch 0 true s1.fresh
  let kind := if f.item then 4 else f.event
  let s2 := { s1.tick1 with
    groups := s1.groups.put gk g
    placements := gk + 1
    launches := s1.launches.put f.lid { l with live := l.live + 1 }
    formed := s1.formed.filter (fun x => x.order != f.order) }
  let s3 := f.members.foldl (fun s id => s.modRay id (fun r => { r with place := .bound })) s2
  let ones : Word := 0xFFFFFFFF
  s3.birth k
    { ctx := f.ctx, lid := f.lid, group := gk, wid := 0, depth := l.depth, prio := l.prio, age := gk, need := 8 * sh.vn,
      sneed := 64 * sh.sn, coords := [ones, ones, ones], args := l.record.args,
      s2 := if f.item then f.key else BitVec.ofNat 32 (f.shader % 4096),
      lanes := f.members.map (fun id =>
        (Fibre.start sh.entry kind (if f.item then .item id else .ray id), BitVec.ofNat 32 id, BitVec.ofNat 32 kind)) }

/-! ### GROUP_PLACE (10 R306, R307) -/

/-- A context's work may be placed (13 R376). -/
def State.placing (s : State) (ctx : Nat) : Bool :=
  match s.ctxs.find? ctx with
  | some c => c.state == 1
  | none => false

/-- A launch that has a group to place (10 R306). -/
def State.placeable (s : State) (l : Launch) : Bool :=
  l.completed.isNone && !l.killed && l.placed < l.record.groups && s.placing l.ctx &&
  !(l.record.after && (match l.previous with
    | some p => (s.launches.find? p).any (fun x => x.completed.isNone)
    | none => false))

/-- Something that waits for placement: its priority, Eddy-formed waves first, then in order (10 R306). -/
structure Cand where
  prio : Nat
  group : Bool
  order : Nat
  ref : Nat
  deriving DecidableEq, Repr

def Cand.before (x y : Cand) : Bool :=
  if x.prio ≠ y.prio then y.prio < x.prio else if x.group ≠ y.group then !x.group else x.order ≤ y.order

/-- Everything that waits for placement, first first (10 R306). -/
def State.candidates (s : State) : List Cand :=
  let ls := (s.launches.filter (fun (x : Nat × Launch) => s.placeable x.2)).map (fun x => (⟨x.2.prio, true, x.2.order, x.1⟩ : Cand))
  let fs := (s.formed.filter (fun f => s.placing f.ctx)).filterMap (fun f =>
    (s.launches.find? f.lid).map (fun l => (⟨l.prio, false, f.order, f.order⟩ : Cand)))
  sortBy Cand.before (fs ++ ls)

/-- The core and wave key that a formed wave takes (10 R307, R310). -/
def State.chooseFormed (s : State) (f : Formed) (l : Launch) (sh : Shader) : Option (Nat × Nat) :=
  let fits := ((List.range 8).map (fun i => f.cluster * 8 + i)).filterMap (fun cid =>
    if s.reservedFrom cid none l.prio l.record.split then none
    else (s.seatOn cid l.record.split 1 sh.vn sh.scratch).map (fun ks => (cid, ks.headD 0)))
  bestBy (fun (x y : Nat × Nat) => s.coreBlocks y.1 < s.coreBlocks x.1) fits

/-- Place the first candidate that fits, at a launch's start with its tables read anew; a launch whose group fits nowhere starts or
keeps its waiting mark (08 R258; 10 R306, R309; log entry 63). -/
def State.placeFirst : State → List Cand → State
  | s, [] => s
  | s, c :: cs =>
    if c.group then
      match s.launches.find? c.ref with
      | none => State.placeFirst s cs
      | some l =>
        match s.chooseCores c.ref l.prio l.record with
        | some cores =>
          if l.placed = 0 then (match s.startLaunch l with
            | (s1, some l1) => s1.placeGroup c.ref l1 cores
            | (s1, none) => s1)
          else s.placeGroup c.ref l cores
        | none =>
          let l' := { l with waitingSince := some (l.waitingSince.getD s.cycle) }
          State.placeFirst { s with launches := s.launches.put c.ref l' } cs
    else
      match List.find? (fun (f : Formed) => f.order == c.ref) s.formed with
      | none => State.placeFirst s cs
      | some f =>
        match s.launches.find? f.lid with
        | none => State.placeFirst s cs
        | some l =>
          match l.shaders[f.shader]? with
          | none => State.placeFirst s cs
          | some sh =>
            match s.chooseFormed f l sh with
            | some (cid, k) => s.placeFormed f l sh cid k
            | none => State.placeFirst s cs

/-- GROUP_PLACE (10 R306, R307). -/
def evGroupPlace (s : State) : State := s.placeFirst s.candidates
def execGroupPlace : State → Host.Outcome State Fault Refusal := event evGroupPlace

/-! ### PLACEMENT_RESERVE (10 R309) -/

/-- The free blocks a core would have if every wave of lower priority retired. -/
def State.blocksWithout (s : State) (cid prio : Nat) : Nat :=
  s.coreBlocks cid +
  ((List.filter (fun (p : Nat × Wave) => cidOf p.1 == cid && p.2.resident && p.2.prio < prio) s.waves).map (fun p => p.2.need / 8)).sum

/-- The waves resident on a core. -/
def State.residents (s : State) (cid : Nat) : Nat := (List.filter (fun (p : Nat × Wave) => cidOf p.1 == cid && p.2.resident) s.waves).length

/-- The room of a partition if every wave of lower priority retired. -/
def State.roomWithout (s : State) (part prio : Nat) : Room :=
  let stay := (s.partWaves part ++ s.returning part).filter (fun p => prio ≤ p.2.prio)
  { part := part
    blocks := (3072 - (stay.map (fun p => p.2.need)).sum) / 8
    slots := (List.range 48).filter (fun i => !stay.any (fun p => slotOf p.1 == i)) }

/-- Core scratchpad bytes of the groups of a priority and above on a core. -/
def State.scratchKept (s : State) (cid prio : Nat) : Nat :=
  ((s.groups.filter (fun (g : Nat × Group) => g.2.cores.contains cid && (s.launches.find? g.2.lid).any (fun l => prio ≤ l.prio))).map
    (fun g => granules g.2.scratch)).sum

/-- The core would hold n waves and their scratchpad if every wave of lower priority retired. -/
def State.wouldHold (s : State) (cid prio n : Nat) (r : LaunchRecord) : Bool :=
  (seat r.vn n ((List.range 6).map (fun p => s.roomWithout (cid * 6 + p) prio)) []).isSome &&
  s.scratchKept cid prio + granules r.scratch ≤ scratchLimit r.split

/-- The cores of a launch's reservation: of the target cluster the n lowest that would hold the group's shares (10 R309; log entry 64, also for
the target cluster of a group that no core is eligible for). -/
def State.reserveFor (s : State) (l : Launch) : List Nat :=
  let r := l.record
  let all := List.range 64
  let eligible := all.filter (fun c => s.eligibleCore c r.split)
  let most (cs : List Nat) : Option Nat := bestBy (fun x y => s.blocksWithout y l.prio < s.blocksWithout x l.prio) cs
  let n := r.coreCount
  let share := (r.waves + n - 1) / n
  let inCluster (cl : Nat) : List Nat := (List.range 8).map (fun i => cl * 8 + i)
  let cl : Nat :=
    if n = 1 then clusterOf ((most (if eligible.isEmpty then all else eligible)).getD 0)
    else ((List.range 8).find? (fun cl =>
      n ≤ ((inCluster cl).filter (fun c => s.eligibleCore c r.split && s.wouldHold c l.prio share r)).length)).getD 0
  let fewest := (bestBy (fun x y => s.residents x < s.residents y) (inCluster cl)).toList
  let base : List Nat :=
    if eligible.isEmpty then fewest
    else if n = 1 then (most eligible).toList
    else ((inCluster cl).filter (fun c => s.eligibleCore c r.split && s.wouldHold c l.prio share r)).take n
  let drain := if r.cluster = 0 then [] else (inCluster cl).filter (fun c => !s.eligibleCore c r.split)
  (base ++ drain).dedup

/-- PLACEMENT_RESERVE: a launch's group has fitted nowhere for 65,536 cycles (10 R309). -/
def evPlacementReserve (lid : Nat) (s : State) : State :=
  match s.launches.find? lid with
  | none => s
  | some l =>
    match l.waitingSince with
    | some t =>
      if l.reserved.isEmpty && s.placeable l && 65536 ≤ s.cycle - t then
        { s with launches := s.launches.put lid { l with reserved := s.reserveFor l } }
      else s
    | none => s
def execPlacementReserve (lid : Nat) : State → Host.Outcome State Fault Refusal := event (evPlacementReserve lid)

/-! ### Retirement (01 R25) -/

/-- A group whose last wave has retired is gone, its scratchpad free (01 R25). -/
def State.retireGroup (s : State) (gk : Nat) : State :=
  match s.group gk with
  | none => s
  | some g =>
    if g.waves ≤ g.retired.length then
      { s with
        groups := s.groups.del gk
        launches := s.launches.modify g.lid (fun l => { l with live := l.live - 1, retired := l.retired + 1 }) }
    else (s.releaseBarrier gk).completeHalt gk

/-- Take a wave away and count it as retired. -/
def State.removeWave (s : State) (k : Nat) (w : Wave) : State :=
  let s1 := { s with waves := s.waves.del k }
  ((s1.modGroup w.group (fun g => { g with retired := g.retired ++ [w.wid], skidGone := max g.skidGone w.skid })).retireGroup w.group).fillActive 8 (k / 48)

/-- What a retired wave's store or reduction still waits for goes on (01 R24, R25). -/
def Op.late (o : Op) (w : Wave) (cid : Nat) : Option Late := if o.waits.isEmpty && o.adds.isEmpty then none else some ⟨w.lid, w.ctx, cid, o⟩

/-- WAVE_RETIRE: the last fibre has ended and LD and TX are zero. Stores and reductions go on: bytes for another device are sent, others are
in the L1, and what they wait for is kept for the launch (01 R24, R25). -/
def evWaveRetire (k : Nat) (s : State) : State :=
  match s.waves.find? k with
  | none => s
  | some w =>
    if w.liveMask = 0 && w.ld.isEmpty && w.tx.isEmpty then
      let s1 := s.flushDirty (cidOf k) (fun i d => d.owners.contains w.uid && !s.isLocal i)
      match s1.waves.find? k with
      | none => s1
      | some w1 => { s1 with owing := s1.owing ++ w1.st.filterMap (fun (o : Op) => o.late w1 (cidOf k)) }.removeWave k w1
    else s
def execWaveRetire (wave : Nat) : State → Host.Outcome State Fault Refusal := event (evWaveRetire wave)

end Sys2Proof.Machine
end

