-- ==== Sys2Proof/Machine/Approx.lean ====
section
/-! DEFINITION. The approximated functions: a result an implementation is free to choose within the spec's bound, its exact cases and
flags (05 R146, R147, R169). References are computed in fixed point, far finer than the bounds. -/

namespace Sys2Proof.Machine

/-- 2 pi x 2^400, rounded down. -/
def twoPi400 : Nat :=
  16224754493461942477724542702601789038322303200358530407182382075230461810747980997491046721853633630855133559454655152472

/-- ln 2 x 2^128, rounded down. -/
def ln2At128 : Nat := 235865763225513294137944142764154484399

/-- log2 e x 2^128, rounded down. -/
def log2eAt128 : Nat := 490923683258796565746369346286093237521

/-- Taylor sum at 2^-128 scale: term starts at t and is multiplied by x2 / ((n+1)(n+2)) or x / (n+1) each time; odd steps alternate when alt. -/
def taylor (alt : Bool) (step : Nat) (x : Int) : Nat → Nat → Int → Int → Int
  | 0, _, _, acc => acc
  | fuel + 1, n, t, acc =>
    let d : Int := if step = 1 then n + 1 else (n + 1) * (n + 2)
    let t' := (if alt then -1 else 1) * (t * x / 2 ^ 128 / d)
    taylor alt step x fuel (n + step) t' (acc + t')

/-- 2^f at scale 2^128 for f in [0, 1) at scale 2^128. -/
def exp2Frac (f : Int) : Int := taylor false 1 (f * ln2At128 / 2 ^ 128) 40 0 (2 ^ 128) (2 ^ 128)

/-- 2^y for y at scale 2^128, as an exact dyadic reference; y is cut to the range where the result matters. -/
def exp2At (y : Int) : XR :=
  let y' := max (-600 * 2 ^ 128) (min (600 * 2 ^ 128) y)
  let n := y' / 2 ^ 128
  .fin false (exp2Frac (y' % 2 ^ 128)).toNat (n - 128)

/-- A finite value at scale 2^128, cut to magnitude 2^12. -/
def fixed128 (x : XR) : Int :=
  match x with
  | .nan => 0
  | .inf _ => 0
  | .fin s m e =>
    let v : Int := if Nat.log2 m + e > 12 then 2 ^ 140 else if e + 128 ≥ 0 then (m * 2 ^ (e + 128).toNat : Nat) else (m / 2 ^ (-(e + 128)).toNat : Nat)
    if s then -v else v

/-- Fraction bits of log2 of m in [1, 2) at scale 2^160, by squaring; the result is at scale 2^fuel. -/
def log2Bits : Nat → Nat → Nat → Nat
  | 0, _, acc => acc
  | fuel + 1, m, acc =>
    let q := m * m / 2 ^ 160
    if 2 ^ 161 ≤ q then log2Bits fuel (q / 2) (2 * acc + 1) else log2Bits fuel q (2 * acc)

/-- The sine and cosine of a finite value at scale 2^128 (radians, reduced exactly modulo 2 pi at scale 2^400). -/
def sinCosAt (s : Bool) (m : Nat) (e : Int) : Int × Int :=
  let a := m * 2 ^ (e + 400).toNat
  let r := a % twoPi400
  let x : Int := (r / 2 ^ 272 : Nat)
  let x2 := x * x / 2 ^ 128
  let sn := taylor true 2 x2 40 1 x x
  let cs := taylor true 2 x2 40 0 (2 ^ 128) (2 ^ 128)
  (if s then -sn else sn, cs)

/-- The logistic function of x at scale 2^128 in y = x log2 e, as a reference with full relative precision. -/
def sigmRef (x : XR) : XR :=
  let y := fixed128 x * log2eAt128 / 2 ^ 128
  let p := exp2At (-(y.natAbs : Int))
  match p with
  | .fin _ m e =>
    let one := 2 ^ (-e).toNat
    let den := one + m
    if y < 0 then quotient false m den 0 else quotient false one den 0
  | .nan => .nan
  | .inf _ => .nan

/-- The value is below 2^-40 in magnitude: tanh x lies within x^3 / 3 of x, less than 2^-79 of its size. -/
def XR.minute (x : XR) : Bool :=
  match x with
  | .fin _ m e => decide ((Nat.log2 m : Int) + e < -40)
  | .nan => false
  | .inf _ => false

/-- tanh of x: x itself where that is near enough, else (1 - q) / (1 + q) with q = 2^(-2 |x| log2 e). -/
def tanhRef (x : XR) : XR :=
  let y := fixed128 x * log2eAt128 / 2 ^ 127
  if x.minute then x
  else match exp2At (-(y.natAbs : Int)) with
    | .fin _ m e =>
      let one := 2 ^ (-e).toNat
      quotient x.neg (one - m) (one + m) 0
    | .nan => .nan
    | .inf _ => .nan

/-- How far a result may lie from the exact value: units in the last place of its binade, or 2^-22 (05 R146). -/
inductive Bound22 where
  | ulps (n : Nat)
  | abs22
  deriving DecidableEq, Repr

/-- Two values between which the exact value lies, none of them itself. -/
structure Between where
  lo : XR
  hi : XR
  deriving DecidableEq, Repr

/-- The smaller and the larger of two values. -/
def XR.least (x y : XR) : XR := if y.cmp x == some .lt then y else x
def XR.most (x y : XR) : XR := if x.cmp y == some .lt then y else x

/-- What a reference says of the exact value: it lies within 2^-79 of the reference's size around it, and between limits that the function
has there. Below 2^-300 a reference bounds the size alone. -/
def bracket (v floor ceil : XR) : Between :=
  let (m, e) : Nat × Int := match v with
    | .fin _ m e => (m, e)
    | .nan => (0, 0)
    | .inf _ => (0, 0)
  let err : XR := .fin false m (e - 79)
  let small : Bool := decide ((Nat.log2 m : Int) + e < -300)
  let lo := (exactSum .rne [v, err.flip]).1
  let hi := (exactSum .rne [v, err]).1
  { lo := (if small then lo.least (.fin false 0 0) else lo).most floor
    hi := (if small then hi.most (.fin false 0 0) else hi).least ceil }

/-- The bound as an exact value; the exact value's binade is that of the smaller limit, which it exceeds. -/
def Bound22.size (b : Bound22) (x : Between) : XR :=
  match b with
  | .abs22 => .fin false 1 (-22)
  | .ulps n =>
    match x.lo.abs.least x.hi.abs with
    | .fin _ m e => if m = 0 then .fin false n (-149) else .fin false n (max ((Nat.log2 m : Int) + e) (-126) - 23)
    | .nan => .fin false 0 0
    | .inf _ => .fin false 0 0

/-- The candidate lies within the bound of every value between the limits. -/
def withinBound (b : Bound22) (cand : XR) (x : Between) : Bool :=
  match cand with
  | .nan => false
  | .inf _ => false
  | .fin _ _ _ =>
    let lim := b.size x
    ((exactSum .rne [cand, lim.flip]).1.cmp x.lo != some .gt) && ((exactSum .rne [cand, lim]).1.cmp x.hi != some .lt)

/-- The implementation's result for function number fn on pattern a where it keeps the bound, else the rounded reference. -/
def approxResult (fn : Nat) (a : Word) (b : Bound22) (v floor ceil : XR) : Word :=
  let c := Config.approx fn a
  if withinBound b (f32 c) (bracket v floor ceil) then c else (roundF32 .rne v).1

/-- Flags of an approximated result that is not an exact case: inexact, and underflow below 2^-126 (05 R147). -/
def approxFlags (v : XR) : Flags :=
  .inexact ||| (match v with
    | .fin _ m e => Flags.when (m != 0 && Fmt.f32.tiny m e) .underflow
    | .nan => 0
    | .inf _ => 0)

/-- FRSQ (05 R146, R147): exact when 1/sqrt(a) is an F32 value. -/
def frsq (a : Word) : Word × Flags :=
  match f32 a with
  | .nan => (nan32, 0)
  | .inf s => if s then (nan32, .invalid) else (0, 0)
  | .fin s m e =>
    if m = 0 then ((roundF32 .rne (.inf s)).1, .divZero)
    else if s then (nan32, .invalid)
    else
      -- 1/sqrt(m 2^e) = sqrt(2^(2k)/m) 2^(-k) 2^(-e/2); exact only when m is a power of two times an even power
      let k := Nat.log2 m
      if m = 2 ^ k ∧ (e + k) % 2 = 0 then roundF32 .rne (.fin false 1 (-((e + k) / 2)))
      else
        let v := match rootOf m e with
          | .fin _ n f => quotient false 1 n (-f)
          | .nan => .nan
          | .inf _ => .nan
        (approxResult 4 a (.ulps 1) v (.fin false 0 0) (.inf false), approxFlags v)

/-- FEXP2 (05 R146, R147). -/
def fexp2 (a : Word) : Word × Flags :=
  match f32 a with
  | .nan => (nan32, 0)
  | .inf s => if s then (0, 0) else (a, 0)
  | .fin s m e =>
    let (n, inx) := roundInt .rdn s m e
    if n ≥ 128 then (0x7F800000, .overflow ||| .inexact)
    else if !inx && n ≥ -149 then roundF32 .rne (.fin false 1 n)
    else
      let v := exp2At (fixed128 (.fin s m e))
      let floor : XR := if n < -300 then .fin false 0 0 else .fin false 1 n
      (approxResult 6 a (.ulps 2) v floor (.fin false 1 (max n (-301) + 1)), approxFlags v)

/-- FLOG2 (05 R146, R147). -/
def flog2 (a : Word) : Word × Flags :=
  match f32 a with
  | .nan => (nan32, 0)
  | .inf s => if s then (nan32, .invalid) else (a, 0)
  | .fin s m e =>
    if m = 0 then (0xFF800000, .divZero)
    else if s then (nan32, .invalid)
    else
      let k := Nat.log2 m
      let ex : Int := e + k
      if m = 2 ^ k then roundF32 .rne (.ofInt ex)
      else
        let frac := log2Bits 120 (m * 2 ^ 160 / 2 ^ k) 0
        let total : Int := ex * 2 ^ 120 + frac
        let v := XR.fin (total < 0) total.natAbs (-120)
        let near := ex = 0 ∨ ex = -1
        (approxResult 7 a (if near then .abs22 else .ulps 2) v (.inf true) (.inf false), approxFlags v)

/-- FSIN (05 R146, R147): below 2^-12 it returns a, which is not exact. -/
def fsin (a : Word) : Word × Flags :=
  match f32 a with
  | .nan => (nan32, 0)
  | .inf _ => (nan32, .invalid)
  | .fin s m e =>
    if m = 0 then (a, 0)
    else if (Nat.log2 m : Int) + e < -12 then
      (a, .inexact ||| Flags.when (Fmt.f32.tiny m e || (m = 2 ^ 23 ∧ e = -149)) .underflow)
    else
      let x := (sinCosAt s m e).1
      let v := XR.fin (x < 0) x.natAbs (-128)
      (approxResult 8 a .abs22 v (.fin true 1 0) (.fin false 1 0), .inexact)

/-- FCOS (05 R146, R147). -/
def fcos (a : Word) : Word × Flags :=
  match f32 a with
  | .nan => (nan32, 0)
  | .inf _ => (nan32, .invalid)
  | .fin s m e =>
    if m = 0 then (one32, 0)
    else
      let x := (sinCosAt s m e).2
      let v := XR.fin (x < 0) x.natAbs (-128)
      (approxResult 9 a .abs22 v (.fin true 1 0) (.fin false 1 0), .inexact)

/-- sigm (05 R169). -/
def fsigm (a : Word) : Word × Flags :=
  match f32 a with
  | .nan => (nan32, 0)
  | .inf s => (if s then 0 else one32, 0)
  | .fin s m e =>
    if m = 0 then (0x3F000000, 0)
    else
      let v := sigmRef (.fin s m e)
      (approxResult 16 a .abs22 v (if s then .fin false 0 0 else .fin false 1 (-1)) (if s then .fin false 1 (-1) else .fin false 1 0),
        approxFlags v)

/-- tanh (05 R169). -/
def ftanh (a : Word) : Word × Flags :=
  match f32 a with
  | .nan => (nan32, 0)
  | .inf s => (if s then 0xBF800000 else one32, 0)
  | .fin s m e =>
    if m = 0 then (a, 0)
    else
      let v := tanhRef (.fin s m e)
      -- |tanh x| < |x|: the exact result is below 2^-126 exactly when |x| is at most 2^-126
      let top : XR := (XR.fin false m e).least (.fin false 1 0)
      (approxResult 17 a .abs22 v (if s then top.flip else .fin false 0 0) (if s then .fin false 0 0 else top),
        .inexact ||| Flags.when (Fmt.f32.tiny m e || (m = 2 ^ 23 ∧ e = -149)) .underflow)

/-- silu (05 R169): x times sigm x; at |x| = 2^-125 the sign decides whether the result is below 2^-126. -/
def fsilu (a : Word) : Word × Flags :=
  match f32 a with
  | .nan => (nan32, 0)
  | .inf s => (if s then 0x80000000 else a, 0)
  | .fin s m e =>
    if m = 0 then (a, 0)
    else
      let v := ((XR.fin s m e).mul (sigmRef (.fin s m e))).1
      let fl := if m = 2 ^ 23 ∧ e = -148 then .inexact ||| Flags.when s .underflow else approxFlags v
      (approxResult 18 a (.ulps 2) v (.fin s m (e - 1)) (if s then .fin false 0 0 else .fin s m e), fl)

/-- lrelu: x, or RoundF32(x 2^-4) below zero (05 R169). -/
def flrelu (a : Word) : Word × Flags :=
  match f32 a with
  | .nan => (nan32, 0)
  | .inf s => (if s then 0xFF800000 else a, 0)
  | .fin s m e => if s && m != 0 then roundF32 .rne (.fin s m (e - 4)) else (a, 0)

/-- relu: x when x is above zero, else +0 (05 R169). -/
def frelu (a : Word) : Word :=
  match f32 a with
  | .nan => nan32
  | .inf s => if s then 0 else a
  | .fin s m _ => if s || m == 0 then 0 else a

/-- The functions of TACT and of the ACT step by code (05 R169); codes 6 and 7 are reserved. -/
def actFn (code : Nat) (a : Word) : Word × Flags :=
  if code = 0 then (frelu a, 0)
  else if code = 1 then flrelu a
  else if code = 2 then fsigm a
  else if code = 3 then ftanh a
  else if code = 4 then fsilu a
  else (fclamp 0xBF800000 one32 a, 0)

end Sys2Proof.Machine
end

