-- ==== Sys2Proof/Machine/Engine.lean ====
section
/-! DEFINITION. Engine commands at issue: blocks, checks, queues, tickets, row counters, waits (07 R201 to R223). -/

namespace Sys2Proof.Machine

/-! ### Queues and tickets (R203, R204, R223; 13 R381) -/

/-- The index of a context's queue: Copy Engine queues by core, the others by cluster (13 R381). -/
def queueIndex (cid q : Nat) : Nat := if q < 4 then cid * 4 + q else 256 + clusterOf cid * 8 + (q - 4)
/-- The queue number 0 to 11 of an index. -/
def queueNumber (qi : Nat) : Nat := if qi < 256 then qi % 4 else 4 + (qi - 256) % 8
/-- The engine of an index: 0 to 63 Copy Engines, 64 to 71 Gate and Select Engines, 72 to 79 Chain Contraction Engines. -/
def engineOf (qi : Nat) : Nat :=
  if qi < 256 then qi / 4 else if (qi - 256) % 8 < 4 then 64 + (qi - 256) / 8 else 72 + (qi - 256) / 8
/-- The cluster of an engine. -/
def engineCluster (e : Nat) : Nat := if e < 64 then clusterOf e else (e - 64) % 8

/-- A queue that has carried nothing. -/
def Queue.fresh : Queue := { count := 0, used := 0, entries := [], history := [] }
def Ctx.queue (c : Ctx) (qi : Nat) : Queue := c.queues.get Queue.fresh qi
def Ctx.setQueue (c : Ctx) (qi : Nat) (q : Queue) : Ctx := { c with queues := c.queues.put qi q }
def State.queueOf (s : State) (ctx qi : Nat) : Queue := ((s.ctxs.find? ctx).map (fun c => c.queue qi)).getD Queue.fresh
def State.modQueue (s : State) (ctx qi : Nat) (f : Queue → Queue) : State := s.modCtx ctx (fun c => c.setQueue qi (f (c.queue qi)))

/-- The counter of a queue (R202). -/
def queueCounter (q : Nat) : Ctr := if q < 8 then .cp else .tx

/-- A ticket's state (R223). -/
def Queue.stateOf (q : Queue) (seq : Nat) : Nat :=
  let back := (q.count + 2 ^ 28 - 1 - seq) % 2 ^ 28
  if back < 256 ∧ back < q.used then
    match List.find? (fun (e : QEntry) => e.seq == seq) q.entries with
    | some e => e.state
    | none => ((List.find? (fun (h : Nat × Nat) => h.1 == seq) q.history).map Prod.snd).getD 5
  else if (seq + 2 ^ 28 - q.count) % 2 ^ 28 < 2 ^ 27 then 6
  else 5

/-- Keep the state of a command that has left its queue, among the 256 most recent (R223). -/
def Queue.remember (q : Queue) (seq st : Nat) : Queue :=
  { q with history := ((seq, st) :: q.history.filter (fun h => h.1 != seq)).filter (fun h => (q.count + 2 ^ 28 - 1 - h.1) % 2 ^ 28 < 256) }

/-- The state of a ticket of queue number q as a wave on a core sees it (R221, R223). -/
def State.ticketState (s : State) (ctx cid q : Nat) (ticket : Word) : Nat :=
  (s.queueOf ctx (queueIndex cid q)).stateOf (ticket.toNat / 16)

/-! ### Command blocks (R201, R208, R213, R216 to R221) -/

/-- Word i of a block. -/
def bw (b : List Word) (i : Nat) : Nat := (b.getD i 0).toNat
/-- Words i and i + 1 as an address, low word first (R201). -/
def ba (b : List Word) (i : Nat) : Nat := bw b i + 2 ^ 32 * bw b (i + 1)
/-- Bits of a number. -/
def nbits (lo n v : Nat) : Nat := v / 2 ^ lo % 2 ^ n

/-- The options word of a Copy Engine command within the limits of R208. -/
def optionsOk (rce ep : Bool) (o : Nat) : Bool :=
  nbits 12 20 o == 0 && (rce || nbits 5 1 o == 0) && (nbits 5 1 o == 1 || nbits 6 4 o == 0) && (ep || nbits 10 2 o == 0)

/-- A row or byte size of R208. -/
def rowOk (n : Nat) : Bool := 16 ≤ n && n ≤ 65536 && n % 16 == 0

/-- The record size S of R214. -/
def recordSize (k : Nat) : Nat := 16 * ((16 + 8 * k + 15) / 16)

/-- The fields of GHIST and GPERM words 2 to 4 (R213). -/
def histOk (b : List Word) : Bool :=
  let k := nbits 0 7 (bw b 3)
  let e := nbits 7 12 (bw b 3)
  1 ≤ bw b 2 && bw b 2 ≤ 65536 && nbits 19 13 (bw b 3) == 0 && 1 ≤ k && k ≤ 64 && 1 ≤ e && bw b 4 % 16 == 0 && recordSize k ≤ bw b 4

/-- Every field of a block within the limits given with its sub-operation (R205, check 1); sub is the code of 03 R94. -/
def blockOk (sub q : Nat) (b : List Word) : Bool :=
  if sub = 0 then 16 ≤ bw b 4 && bw b 4 ≤ 2 ^ 30 && bw b 4 % 16 == 0 && optionsOk false false (bw b 5)
  else if sub = 1 then
    rowOk (bw b 4) && 1 ≤ bw b 5 && bw b 5 ≤ 65536 && (bw b 6 == 0 || (bw b 4 ≤ bw b 6 && bw b 6 ≤ 2 ^ 24)) &&
    bw b 4 ≤ bw b 7 && bw b 7 ≤ 2 ^ 24 && optionsOk true false (bw b 8)
  else if sub = 2 ∨ sub = 3 then rowOk (bw b 6) && 1 ≤ bw b 7 && bw b 7 ≤ 2 ^ 24 && optionsOk true false (bw b 8)
  else if sub = 4 then 1 ≤ bw b 4 && bw b 4 ≤ 2 ^ 24 && optionsOk false false (bw b 5)
  else if sub = 5 then 1 ≤ bw b 4 && bw b 4 ≤ 2 ^ 24 && optionsOk false true (bw b 5)
  else if sub = 6 ∨ sub = 7 then nbits 4 28 (bw b 0) == 0
  else if sub = 8 then
    let c := nbits 0 13 (bw b 4)
    let k := nbits 13 7 (bw b 4)
    bw b 2 % 16 == 0 && 4 * c ≤ bw b 2 && 1 ≤ bw b 3 && bw b 3 ≤ 65536 && 1 ≤ c && c ≤ 4096 && 1 ≤ k && k ≤ 64 &&
    nbits 26 6 (bw b 4) == 0
  else if sub = 9 then
    1 ≤ bw b 2 && bw b 2 ≤ 2 ^ 24 && 1 ≤ bw b 3 && bw b 3 ≤ bw b 2 && nbits 5 27 (bw b 4) == 0
  else if sub = 10 then
    let l := nbits 0 5 (bw b 2)
    let k := nbits 5 7 (bw b 2)
    let ko := nbits 12 7 (bw b 2)
    2 ≤ l && l ≤ 16 && 1 ≤ k && k ≤ 64 && 1 ≤ ko && ko ≤ 64 && nbits 19 13 (bw b 2) == 0 && bw b 3 % 16 == 0 && recordSize k ≤ bw b 3
  else if sub = 11 ∨ sub = 13 then histOk b
  else if sub = 12 then 1 ≤ bw b 2 && bw b 2 ≤ 2 ^ 24
  else if sub = 14 then nbits 7 25 (bw b 2) == 0
  else if sub = 15 ∨ sub = 19 then nbits 0 4 (bw b 0) == q
  else if sub = 16 then
    let i0 := nbits 0 4 (bw b 0)
    let c := nbits 4 5 (bw b 0)
    let set := nbits 9 2 (bw b 0)
    nbits 11 21 (bw b 0) == 0 && 1 ≤ c && c ≤ 16 && i0 + c ≤ 16 && set != 3 &&
    (List.range c).all (fun i => 1 ≤ bw b (1 + i) && bw b (1 + i) ≤ (if set = 0 then 4096 else 256))
  else if sub = 17 then true
  else if sub = 18 then nbits 12 20 (bw b 0) == 0 && nbits q 1 (bw b 0) == 1
  else false

/-- The address words of a block with their alignments (R208, R213, R217, R218). -/
def blockAddrs (sub : Nat) (b : List Word) : List (Nat × Nat) :=
  if sub = 0 ∨ sub = 1 then [(ba b 0, 16), (ba b 2, 16)]
  else if sub = 2 ∨ sub = 3 then [(ba b 0, 16), (ba b 2, 4), (ba b 4, 16)]
  else if sub = 4 then [(ba b 0, 32), (ba b 2, 16)]
  else if sub = 5 then [(ba b 0, 16), (ba b 2, 32)]
  else if sub = 8 then
    (ba b 0, 16) :: (if nbits 25 1 (bw b 4) = 1 then [(ba b 5, 4)] else []) ++ [(ba b 7, 16)]
  else if sub = 9 then [(ba b 0, 16), (ba b 5, 16), (ba b 7, 16)]
  else if sub = 10 then [(ba b 0, 16), (ba b 4, 16)]
  else if sub = 11 then [(ba b 0, 16), (ba b 5, 16)]
  else if sub = 12 then [(ba b 0, 4), (ba b 3, 16)]
  else if sub = 13 then [(ba b 0, 16), (ba b 5, 16), (ba b 7, 16)] ++ (if ba b 9 = 0 then [] else [(ba b 9, 16)])
  else if sub = 14 ∨ sub = 17 then [(ba b 0, 64)]
  else []

/-- The first byte of an address lies in a class engines accept, below its valid offset (R205, check 3). -/
def State.engineClass (s : State) (ctx : Nat) (g : Group) (a : Nat) : Bool :=
  if a < 2 ^ 48 then true
  else match apertureOf a, s.ctxs.find? ctx with
    | some (0, o), _ => o < g.scratch
    | some (1, o), _ => o < g.cluster
    | some (2, o), some c => o < c.cssize
    | _, _ => false

/-! ### Row counters (R210 to R212) -/

def RowCounter.free : RowCounter := { val := 0, owner := none, named := false }
def State.rowc (s : State) (cid n : Nat) : RowCounter := (s.core cid).rows.get RowCounter.free n
def State.setRowc (s : State) (cid n : Nat) (r : RowCounter) : State :=
  let c := s.core cid
  s.setCore cid { c with rows := c.rows.put n r }

/-- The row counter a copy names: RCE and CTR of its options (R208). -/
def copyCounter (sub : Nat) (b : List Word) : Option Nat :=
  if (sub = 1 ∨ sub = 2 ∨ sub = 3) ∧ nbits 5 1 (bw b 8) = 1 then some (nbits 6 4 (bw b 8)) else none

/-- The checks of R205 in their order: ILLEGAL_OPERAND, MISALIGNED, APERTURE. -/
def State.blockFault (s : State) (iss : Issue) (w : Wave) (sub q : Nat) (b : List Word) : Option (Cause × Addr) :=
  let counterOk := match copyCounter sub b with
    | some n => let r := s.rowc (cidOf iss.wave) n
                r.owner == some w.ctx && !r.named
    | none => true
  let waitOk := sub != 7 || (s.rowc (cidOf iss.wave) (bw b 0)).owner == some w.ctx
  let as := blockAddrs sub b
  if !(blockOk sub q b && counterOk && waitOk) then some (.illegalOperand, 0)
  else match as.find? (fun a => a.1 % a.2 != 0) with
    | some a => some (.misaligned, BitVec.ofNat 64 a.1)
    | none => (as.find? (fun a => !s.engineClass w.ctx (s.groupOf w) a.1)).map (fun a => (.aperture, BitVec.ofNat 64 a.1))

/-! ### Issue -/

/-- The queues a sub-operation accepts (03 R95). -/
def queueAccepted (sub q : Nat) : Bool :=
  if sub < 8 then q < 4 else if sub < 14 then 4 ≤ q && q < 8 else if sub < 18 then 8 ≤ q && q < 12 else q < 12

/-- The decode checks of an ENG word with a block of n words (03 R95, R98; 07 R201). -/
def preEng (sub n : Nat) (d a : BitVec 7) (q : BitVec 4) : Pre :=
  { guard := none, reserved := !queueAccepted sub q.toNat, ops := [.scl d 1, .scl a n] }

/-- The n words of a block, copied at issue (R201). -/
def Wave.block (w : Wave) (a : BitVec 7) (n : Nat) : List Word := (List.range n).map (fun i => w.sget (a.toNat + i))

/-- The words of a CXBOND's block: 1 + c; its first word alone where c breaks its limits (R216). -/
def bondWords (w0 : Nat) : Nat := if nbits 4 5 w0 ≤ 16 then 1 + nbits 4 5 w0 else 1

/-- The queues a command enters, its own first (R220). -/
def enteredQueues (sub q : Nat) (b : List Word) : List Nat :=
  if sub = 18 then q :: (List.range 12).filter (fun i => i != q && nbits i 1 (bw b 0) == 1) else [q]

/-- Every queue a command enters has room for it (R204). -/
def State.queueRoom (s : State) (ctx cid sub q : Nat) (b : List Word) : Bool :=
  (enteredQueues sub q b).all (fun i => (s.queueOf ctx (queueIndex cid i)).entries.length < 32)

/-- Enter a command into its queues: its ticket and its sequence number; a row counter that it names counts none of its rows yet
(R203, R204, R210, R220, R222). -/
def State.enqueueCommand (s : State) (iss : Issue) (w : Wave) (sub q : Nat) (b : List Word) : State × Nat :=
  let cid := cidOf iss.wave
  let tickets := (enteredQueues sub q b).map (fun i => (queueIndex cid i, (s.queueOf w.ctx (queueIndex cid i)).count))
  let entry (seq : Nat) : QEntry :=
    { seq := seq, sub := sub, state := 0, prio := w.prio, wave := iss.wave, uid := w.uid, who := packWave iss.wave 0 w.wid,
      lid := w.lid, block := b, progress := [0, 0, 0, 0], held := [], waits := [], finished := false, group := w.group,
      tickets := tickets }
  let s1 := tickets.foldl (fun s t => s.modQueue w.ctx t.1 (fun qu =>
    { qu with count := (qu.count + 1) % 2 ^ 28, used := qu.used + 1, entries := qu.entries ++ [entry t.2] })) s
  let s2 := match copyCounter sub b with
    | some n => s1.setRowc cid n { s1.rowc cid n with val := 0, named := true }
    | none => s1
  (s2, ((tickets.head?).map Prod.snd).getD 0)

/-- A queued command at issue: the checks, the device-scope boundary, a free entry, the ticket, the counter (R202 to R205). -/
def State.issueCommand (s : State) (iss : Issue) (w : Wave) (sub q : Nat) (d a : BitVec 7) (n : Nat) : Out :=
  let b := w.block a n
  match s.blockFault iss w sub q b with
  | some (c, x) => .trap s c x (lowest iss.batch)
  | none =>
    match s.boundary (cidOf iss.wave) w 2 with
    | (s1, false) => .wait s1
    | (s1, true) =>
      if !s1.queueRoom w.ctx (cidOf iss.wave) sub q b then .wait s1
      else
        let (s2, seq) := s1.enqueueCommand iss w sub q b
        let o : Op := { Op.nothing s2.fresh (.command (queueIndex (cidOf iss.wave) q) seq) iss with done := false }
        let w1 := ((w.sset d.toNat (BitVec.ofNat 32 (q + 16 * seq))).count (queueCounter q) o).finish iss
        .done (s2.tick1.retire iss (w1.endRegion iss))

/-- A queued sub-operation with a block of n words. -/
def queued (sub n : Nat) (d a : BitVec 7) (q : BitVec 4) : State → Host.Outcome State Fault Refusal :=
  runState { preEng sub n d a q with counter := some (queueCounter q.toNat) }
    (fun s iss _ w => s.issueCommand iss w sub q.toNat d a n)

/-- The immediate command a wave has counted and not finished (R202). -/
def Wave.openImmediate (w : Wave) (c : Ctr) : Option Op := List.find? (fun (o : Op) => o.kind == .immediate && !o.done) (w.ops c)

/-- An immediate sub-operation: the checks and the count once, then a wait until it has a value for sd (R202). -/
def immediate (sub n : Nat) (value : State → Issue → Wave → Nat → List Word → Option (State × Word)) (d a : BitVec 7) (q : BitVec 4) :
    State → Host.Outcome State Fault Refusal :=
  runState (preEng sub n d a q) (fun s iss _ w =>
    let b := w.block a n
    let c := queueCounter q.toNat
    let go (s : State) (w : Wave) (uid : Nat) : Out :=
      match value s iss w q.toNat b with
      | none => .wait (s.setWave iss.wave w)
      | some (s1, v) => .done (s1.retire iss (((((w.sset d.toNat v).opDone c uid).finish iss).endRegion iss)))
    match w.openImmediate c with
    | some o => go s w o.uid
    | none =>
      match s.blockFault iss w sub q.toNat b with
      | some (x, f) => .trap s x f (lowest iss.batch)
      | none =>
        if 63 ≤ w.counter c then .wait s
        else go s.tick1 (w.count c { Op.nothing s.fresh .immediate iss with done := false }) s.fresh)

/-- CPLIN (R208, R209). -/
def execCplin (d a : BitVec 7) (q : BitVec 4) : State → Host.Outcome State Fault Refusal := queued 0 6 d a q
/-- CP2D (R208, R209). -/
def execCp2d (d a : BitVec 7) (q : BitVec 4) : State → Host.Outcome State Fault Refusal := queued 1 9 d a q
/-- CPGATH (R208, R209). -/
def execCpgath (d a : BitVec 7) (q : BitVec 4) : State → Host.Outcome State Fault Refusal := queued 2 9 d a q
/-- CPSCAT (R208, R209). -/
def execCpscat (d a : BitVec 7) (q : BitVec 4) : State → Host.Outcome State Fault Refusal := queued 3 9 d a q
/-- CPEXP (R208, R209). -/
def execCpexp (d a : BitVec 7) (q : BitVec 4) : State → Host.Outcome State Fault Refusal := queued 4 6 d a q
/-- CPCMP (R208, R209). -/
def execCpcmp (d a : BitVec 7) (q : BitVec 4) : State → Host.Outcome State Fault Refusal := queued 5 6 d a q
/-- GTOPK (R213, R214). -/
def execGtopk (d a : BitVec 7) (q : BitVec 4) : State → Host.Outcome State Fault Refusal := queued 8 9 d a q
/-- GBUCK (R213, R215). -/
def execGbuck (d a : BitVec 7) (q : BitVec 4) : State → Host.Outcome State Fault Refusal := queued 9 9 d a q
/-- GMERGE (R213, R215). -/
def execGmerge (d a : BitVec 7) (q : BitVec 4) : State → Host.Outcome State Fault Refusal := queued 10 6 d a q
/-- GHIST (R213, R215). -/
def execGhist (d a : BitVec 7) (q : BitVec 4) : State → Host.Outcome State Fault Refusal := queued 11 7 d a q
/-- GSCAN (R213, R215). -/
def execGscan (d a : BitVec 7) (q : BitVec 4) : State → Host.Outcome State Fault Refusal := queued 12 5 d a q
/-- GPERM (R213, R215). -/
def execGperm (d a : BitVec 7) (q : BitVec 4) : State → Host.Outcome State Fault Refusal := queued 13 11 d a q
/-- CXFORK (R217). -/
def execCxfork (d a : BitVec 7) (q : BitVec 4) : State → Host.Outcome State Fault Refusal := queued 14 3 d a q
/-- CXDENSE (R218). -/
def execCxdense (d a : BitVec 7) (q : BitVec 4) : State → Host.Outcome State Fault Refusal := queued 17 2 d a q
/-- QFENCE (R220). -/
def execQfence (d a : BitVec 7) (q : BitVec 4) : State → Host.Outcome State Fault Refusal := queued 18 1 d a q

/-- CXBOND: its block has 1 + c words (R216). -/
def execCxbond (d a : BitVec 7) (q : BitVec 4) : State → Host.Outcome State Fault Refusal :=
  runState { preEng 16 1 d a q with
      badOperand := fun w => (Opnd.scl a (bondWords (w.sget a.toNat).toNat)).bad w
      counter := some (queueCounter q.toNat) }
    (fun s iss _ w => s.issueCommand iss w 16 q.toNat d a (bondWords (w.sget a.toNat).toNat))

/-- RCARM: no unfinished copy names the counter; it is set to 0 and given to the context (R211). -/
def execRcarm (d a : BitVec 7) (q : BitVec 4) : State → Host.Outcome State Fault Refusal :=
  immediate 6 1 (fun s iss w _ b =>
    let n := bw b 0
    if (s.rowc (cidOf iss.wave) n).named then none
    else some (s.setRowc (cidOf iss.wave) n { val := 0, owner := some w.ctx, named := false }, 0)) d a q

/-- RCWAIT: the counter reaches N, or no copy names it; the rows it counts are visible to later loads (R212). -/
def execRcwait (d a : BitVec 7) (q : BitVec 4) : State → Host.Outcome State Fault Refusal :=
  immediate 7 2 (fun s iss w _ b =>
    let r := s.rowc (cidOf iss.wave) (bw b 0)
    if bw b 1 ≤ r.val.toNat || !r.named || r.owner != some w.ctx then some (s.dropClean (cidOf iss.wave), r.val) else none) d a q

/-- CXRDV: the ticket's command has completed, was cancelled or is older than the states kept (R219). -/
def execCxrdv (d a : BitVec 7) (q : BitVec 4) : State → Host.Outcome State Fault Refusal :=
  immediate 15 1 (fun s iss w q b =>
    let st := s.ticketState w.ctx (cidOf iss.wave) q (b.getD 0 0)
    if st = 2 ∨ st = 4 ∨ st = 5 then some (s.dropClean (cidOf iss.wave), BitVec.ofNat 32 st) else none) d a q

/-- QSTAT: the ticket's state at issue (R221). -/
def execQstat (d a : BitVec 7) (q : BitVec 4) : State → Host.Outcome State Fault Refusal :=
  immediate 19 1 (fun s iss w q b =>
    some (s, BitVec.ofNat 32 (s.ticketState w.ctx (cidOf iss.wave) q (b.getD 0 0)))) d a q

end Sys2Proof.Machine
end

