-- ==== Sys2Proof/Machine/EngineAccess.lean ====
section
/-! DEFINITION. What an engine reads and writes while it performs a command, its faults, and undefined destinations
(06 R176; 07 R205 to R210; 09 R277, R280, R283; 13 R368). -/

namespace Sys2Proof.Machine

/-- Why an access of an engine does not go on: a line of another device is on its way, or a fault at an address (07 R207). -/
inductive Stop where
  | miss
  | fault (c : Cause) (a : Nat)
  deriving DecidableEq, Repr

/-- What an engine's step gives: its result in a state, or the stop. -/
abbrev Step (α : Type) := State × Except Stop α

/-- Where a byte range within one line lies for a command: virtual memory, or a scratchpad of its wave's group below the valid offset
(R205); a faulty region descriptor stops it (08 R257). -/
def State.engineLoc (s : State) (ctx : Nat) (e : QEntry) (p : Perm) (a n : Nat) : Step Loc :=
  if a < 2 ^ 48 then
    match s.virtual deviceTlb ctx a p with
    | (s1, .error _) => (s1, .error (.fault .engineXlate a))
    | (s1, .ok loc) =>
      match s1.ctxs.find? ctx with
      | some c => match c.faultyIn a n with
        | some x => (s1, .error (.fault .regionDescriptor x))
        | none => (s1, .ok loc)
      | none => (s1, .ok loc)
  else
    let (scratch, cluster) := match s.group e.group with
      | some g => (g.scratch, g.cluster)
      | none => (0, 0)
    match apertureOf a, s.ctxs.find? ctx with
    | some (0, o), _ => (s, if o + n ≤ scratch then .ok (.core o) else .error (.fault .engineCommand a))
    | some (1, o), _ => (s, if o + n ≤ cluster then .ok (.cluster o) else .error (.fault .engineCommand a))
    | some (2, o), some c =>
      (s, if o + n ≤ c.cssize then .ok (.chip (c.csbase + o)) else .error (.fault .engineCommand a))
    | _, _ => (s, .error (.fault .engineCommand a))

/-- Pieces of a range of n bytes that stay within lines: address and length; addresses wrap at 2^64. -/
def linePieces : Nat → Nat → Nat → List (Nat × Nat)
  | 0, _, _ => []
  | fuel + 1, a, n =>
    if n = 0 then []
    else
      let m := min n (128 - a % 128)
      (a % 2 ^ 64, m) :: linePieces fuel (a + m) (n - m)

/-- The pieces of a range. -/
def piecesOf (a n : Nat) : List (Nat × Nat) := linePieces (n / 128 + 2) a n

/-- Bytes of one piece at its home: within the tolerance in a region tile, exactly elsewhere; poison stops the command with
ECC_UNCORRECTABLE, a block the codec rejects with ENGINE_COMMAND (R206; 09 R277, R280). -/
def State.enginePiece (s : State) (e : QEntry) (tol a n : Nat) (loc : Loc) : Step (List Byte) :=
  match loc with
  | .mem key coded =>
    if s.isLocal key && !s.poisoned key coded && (s.view key n coded).isNone then
      (s, .error (.fault .engineCommand a))
    else match s.tileReadAs (e.prio % 4) tol key n coded with
      | (s2, .ok bs) => (s2, .ok bs)
      | (s2, .poison) => (s2, .error (.fault .eccUncorrectable a))
      | (s2, .miss) => (s2, .error .miss)
  | _ => match s.spoiledByte e.group (cidOf e.wave) loc n with
    | some i => (s, .error (.fault .eccUncorrectable (a + i)))
    | none => (s, .ok ((List.range n).map (s.scratchByte e.group (cidOf e.wave) loc)))

/-- Read the pieces of a range in order. -/
def State.readPieces (s : State) (ctx : Nat) (e : QEntry) (tol : Nat) : List (Nat × Nat) → List Byte → Step (List Byte)
  | [], got => (s, .ok got)
  | (a, n) :: ps, got =>
    match s.engineLoc ctx e .r a n with
    | (s1, .error x) => (s1, .error x)
    | (s1, .ok loc) =>
      match s1.enginePiece e tol a n loc with
      | (s2, .error x) => (s2, .error x)
      | (s2, .ok bs) => State.readPieces s2 ctx e tol ps (got ++ bs)

/-- An engine's read of n bytes with a tolerance code (R206). -/
def State.engineRead (s : State) (ctx : Nat) (e : QEntry) (tol a n : Nat) : Step (List Byte) :=
  s.readPieces ctx e tol (piecesOf a n) []

/-- The location lies on a device to which no link is up (14 R394). -/
def State.linkMissing (s : State) (loc : Loc) : Bool :=
  match loc with
  | .mem key _ => !s.isLocal key && (s.portTo (targetOf key)).isNone
  | .core _ => false
  | .cluster _ => false
  | .chip _ => false

/-- The key of a location of memory. -/
def Loc.keys (l : Loc) : List Nat :=
  match l with
  | .mem key _ => [key]
  | .core _ => []
  | .cluster _ => []
  | .chip _ => []

/-- Check every piece of a write before the first is written (R210, R214); no core of another device holds a tile of it then (R206). -/
def State.checkPieces (s : State) (ctx : Nat) (e : QEntry) : List (Nat × Nat) → List (Nat × Loc × Nat) → Step (List (Nat × Loc × Nat))
  | [], got => (s, .ok got)
  | (a, n) :: ps, got =>
    match s.engineLoc ctx e .w a n with
    | (s1, .error x) => (s1, .error x)
    | (s1, .ok loc) =>
      if s1.linkMissing loc then (s1, .error (.fault .eccUncorrectable a))
      else match s1.clearAfar loc.keys with
        | (s2, false) => (s2, .error .miss)
        | (s2, true) => State.checkPieces s2 ctx e ps (got ++ [(a, loc, n)])

/-- Put checked pieces: memory at its home, scratchpads at once; the tokens of writes to other devices. -/
def State.putPieces (s : State) (e : QEntry) : List (Nat × Loc × Nat) → List Byte → List Nat → State × List Nat
  | [], _, ts => (s, ts)
  | (a, loc, n) :: ps, bs, ts =>
    match loc with
    | .mem key coded =>
      let (s1, t) := s.writeAs (e.prio % 4) (cellsAt key (bs.take n)) coded (.engine (BitVec.ofNat 64 a))
      State.putPieces s1 e ps (bs.drop n) (ts ++ t)
    | _ => State.putPieces (s.putScratch e.group (cidOf e.wave) loc (bs.take n)) e ps (bs.drop n) ts

/-- Change the command at the head of a queue. -/
def State.modHead (s : State) (ctx qi : Nat) (f : QEntry → QEntry) : State :=
  s.modQueue ctx qi (fun q => match q.entries with
    | [] => q
    | e :: es => { q with entries := f e :: es })

/-- The command at the head of a queue. -/
def State.head (s : State) (ctx qi : Nat) : Option QEntry := (s.queueOf ctx qi).entries.head?

/-- An engine's write at device scope; what it waits for is kept with the command (R206). -/
def State.engineWrite (s : State) (ctx qi : Nat) (e : QEntry) (a : Nat) (bs : List Byte) : Step Unit :=
  match s.checkPieces ctx e (piecesOf a bs.length) [] with
  | (s1, .error x) => (s1, .error x)
  | (s1, .ok ps) =>
    let (s2, ts) := s1.putPieces e ps bs []
    (if ts.isEmpty then s2 else s2.modHead ctx qi (fun e => { e with waits := e.waits ++ ts }), .ok ())

/-- Write several ranges one after another. -/
def State.engineWrites (s : State) (ctx qi : Nat) (e : QEntry) : List (Nat × List Byte) → Step Unit
  | [] => (s, .ok ())
  | (a, bs) :: rest =>
    match s.engineWrite ctx qi e a bs with
    | (s1, .error x) => (s1, .error x)
    | (s1, .ok _) => State.engineWrites s1 ctx qi e rest

/-- The little-endian words of bytes. -/
def wordsOf (n : Nat) (bs : List Byte) : List Nat := (List.range n).map (fun i => ofBytes ((bs.drop (4 * i)).take 4))
/-- The bytes of words. -/
def bytesOfWords (ws : List Nat) : List Byte := ws.flatMap (fun w => bytesOf 4 w)

/-! ### Engines -/

def State.engineState (s : State) (en : Nat) : Engine := s.engines.get { serving := none, lastCtx := 0, retiredTiles := 0 } en
def State.setEngine (s : State) (en : Nat) (x : Engine) : State := { s with engines := s.engines.put en x }

def State.cceOf (s : State) (ctx cl : Nat) : Cce := ((s.ctxs.find? ctx).map (fun c => c.cce.get Cce.fresh cl)).getD Cce.fresh

/-! ### The commands an engine may perform (07 R218; 10 R316) -/

/-- A command that its engine may perform: accepted, pre-empted or resumed, not a QFENCE (R206, R220). -/
def QEntry.ready (e : QEntry) : Bool := e.sub != 18 && e.state < 2 && !e.finished

/-- The queue indices of an engine. -/
def engineQueues (en : Nat) : List Nat :=
  if en < 64 then (List.range 4).map (fun q => en * 4 + q)
  else if en < 72 then (List.range 4).map (fun q => 256 + (en - 64) * 8 + q)
  else (List.range 4).map (fun q => 256 + (en - 72) * 8 + 4 + q)

/-- The queues of a context whose head an engine may perform: for a CCE one command of the context at a time, a suspended one included,
else the first ready one in the rotation of R218. -/
def State.readyQueues (s : State) (ctx en : Nat) : List (Nat × QEntry) :=
  let heads := (engineQueues en).filterMap (fun qi => (s.head ctx qi).map (fun e => (qi, e)))
  if en < 72 then heads.filter (fun h => h.2.ready)
  else
    let begun := heads.filter (fun h => h.2.sub != 18 && (h.2.state == 1 || h.2.state == 3))
    if begun.isEmpty then
      let last := (s.cceOf ctx (en - 72)).lastq
      let turn := (List.range 4).map (fun i => 8 + (last + 1 + i) % 4)
      (turn.filterMap (fun q => heads.find? (fun h => queueNumber h.1 == q && h.2.ready))).take 1
    else begun.filter (fun h => h.2.ready)

/-- Everything an engine may perform: context, queue, entry; the command in service left out. -/
def State.readyCommands (s : State) (en : Nat) : List (Nat × Nat × QEntry) :=
  let all := (s.ctxs.filter (fun (c : Nat × Ctx) => c.2.state == 1)).flatMap (fun c =>
    (s.readyQueues c.1 en).map (fun h => (c.1, h)))
  all.filter (fun x => (s.engineState en).serving != some (x.1, x.2.1))

/-- A ready command outranks one in service, which goes no further than its yield point (10 R316). -/
def State.outranked (s : State) (en : Nat) (e : QEntry) : Bool := (s.readyCommands en).any (fun x => decide (e.prio < x.2.2.prio))

/-! ### Faults and progress (R207; 13 R368) -/

/-- The engine performs nothing for the moment. -/
def State.idleEngine (s : State) (en : Nat) : State := s.setEngine en { s.engineState en with serving := none }

/-- SOURCE of an engine's records (13 R369). -/
def engineSource (en : Nat) : Nat := if en < 64 then 1 else if en < 72 then 2 else 3

/-- A ticket (R203). -/
def QEntry.ticket (e : QEntry) (qi : Nat) : Word := BitVec.ofNat 32 (queueNumber qi + 16 * e.seq)

/-- A command stops at a fault: its queue stops in state 3, a record is written, the engine serves others (R207). -/
def State.engineFault (s : State) (ctx qi : Nat) (cause : Cause) (a : Nat) : State :=
  match s.head ctx qi with
  | none => s
  | some e =>
    let s1 := (s.modHead ctx qi (fun e => { e with state := 3, sources := none, midUnit := false })).idleEngine (engineOf qi)
    let index := ((s.group e.group).map Group.index).getD 0
    (s1.unitFault ctx cause (engineSource (engineOf qi))
      (fun r => { r with
        instr := e.ticket qi, faddr := BitVec.ofNat 64 a, lid := BitVec.ofNat 32 e.lid, group := index, who := e.who,
        progress := e.progress.map (BitVec.ofNat 32) })
      (fun p => { p with wave := e.wave, uid := e.uid, group := e.group, lid := e.lid, queue := qi, cmd := e.seq })).1

/-- What a step of a command does next: nothing more for now, in the middle of its unit, or the fault it met. -/
def State.afterStop (s : State) (ctx qi : Nat) (x : Stop) : State :=
  match x with
  | .miss => s.modHead ctx qi (fun e => { e with midUnit := true })
  | .fault c a => s.engineFault ctx qi c a

/-- Record a command's progress, with which a unit is done. -/
def State.setProgress (s : State) (ctx qi : Nat) (ws : List Nat) : State :=
  s.modHead ctx qi (fun e => { e with progress := ws, midUnit := false })

/-- A command has nothing left to do but report its completion. -/
def State.setFinished (s : State) (ctx qi : Nat) : State := s.modHead ctx qi (fun e => { e with finished := true })

/-! ### Undefined destination bytes (R207, R209, R210) -/

/-- n free bytes (log entry 4). -/
def State.freeBytes (s : State) (n : Nat) : State × List Byte :=
  ({ s with fresh := s.fresh + n }, (List.range n).map (fun i => Config.freeByte (s.fresh + i)))

/-- The bytes of a range become undefined where the command could write them. -/
def State.spoil (s : State) (ctx : Nat) (e : QEntry) (a n : Nat) : State :=
  (piecesOf a n).foldl (fun s p =>
    match s.engineLoc ctx e .w p.1 p.2 with
    | (s1, .error _) => s1
    | (s1, .ok loc) =>
      let (s2, bs) := s1.freeBytes p.2
      (s2.putPieces e [(p.1, loc, p.2)] bs []).1) s

/-- Several ranges become undefined. -/
def State.spoilAll (s : State) (ctx : Nat) (e : QEntry) (rs : List (Nat × Nat)) : State :=
  rs.foldl (fun s r => s.spoil ctx e r.1 r.2) s

end Sys2Proof.Machine
end

