-- ==== Sys2Proof/Machine/Copy.lean ====
section
/-! DEFINITION. The Copy Engine (07 R208 to R212; 09 R285; 12 R364). -/

namespace Sys2Proof.Machine

/-- The tolerance code of a copy: T of its options (R208). -/
def copyTol (e : QEntry) : Nat := nbits 0 5 (bw e.block (if e.sub = 0 ∨ e.sub = 4 ∨ e.sub = 5 then 5 else 8))

/-- The number of rows or blocks of a command. -/
def copyCount (e : QEntry) : Nat := if e.sub = 1 then bw e.block 5 else if e.sub = 2 ∨ e.sub = 3 then bw e.block 7 else bw e.block 4

/-- The row bytes of CP2D, CPGATH and CPSCAT. -/
def copyRow (e : QEntry) : Nat := if e.sub = 1 then bw e.block 4 else bw e.block 6

/-- Source and destination of row i with its index x (R209). -/
def copyEnds (e : QEntry) (i x : Nat) : Nat × Nat :=
  let b := e.block
  if e.sub = 1 then (ba b 0 + i * bw b 6, ba b 2 + i * bw b 7)
  else if e.sub = 2 then (ba b 0 + x * bw b 6, ba b 4 + i * bw b 6)
  else (ba b 0 + i * bw b 6, ba b 4 + x * bw b 6)

/-- The index x(i) of a row; 0 where the command has no index array. -/
def State.copyIndex (s : State) (ctx : Nat) (e : QEntry) (i : Nat) : Step Nat :=
  if e.sub = 1 then (s, .ok 0)
  else match s.engineRead ctx e (copyTol e) (ba e.block 2 + 4 * i) 4 with
    | (s1, .ok bs) => (s1, .ok (ofBytes bs))
    | (s1, .error x) => (s1, .error x)

/-- The source and destination ranges of the rows from i on, as far as their indices can be read. -/
def State.copyRows (s : State) (ctx : Nat) (e : QEntry) (i : Nat) : Step (List ((Nat × Nat) × (Nat × Nat))) :=
  ((List.range (copyCount e)).drop i).foldl (fun (r : Step (List ((Nat × Nat) × (Nat × Nat)))) j =>
    match r.2 with
    | .error _ => r
    | .ok rows =>
      match r.1.copyIndex ctx e j with
      | (s1, .ok x) =>
        let (src, dst) := copyEnds e j x
        (s1, .ok (rows ++ [((src, copyRow e), (dst, copyRow e))]))
      | (s1, .error .miss) => (s1, .error .miss)
      | (s1, .error (.fault _ _)) => (s1, .ok rows)) (s, .ok [])

/-- The common part of two ranges. -/
def meet (x y : Nat × Nat) : List (Nat × Nat) :=
  let lo := max x.1 y.1
  let hi := min (x.1 + x.2) (y.1 + y.2)
  if lo < hi then [(lo, hi - lo)] else []

/-! ### Coded buffers (09 R285) -/

/-- The header of a coded buffer: DATA and FMT; none where it is faulty. -/
def parseHeader (bs : List Byte) : Option (Nat × Nat) :=
  let f (o n : Nat) : Nat := ofBytes ((bs.drop o).take n)
  if f 0 8 % 256 = 0 ∧ f 20 1 < 4 ∧ (bs.drop 21).all (fun b => b == 0) then some (f 0 8, f 8 8) else none

/-- The block at an address of the DATA range: its physical key on a CODED page (R285). -/
def State.codedBlock (s : State) (ctx : Nat) (e : QEntry) (p : Perm) (a : Nat) : Step Nat :=
  match s.engineLoc ctx e p a 256 with
  | (s1, .error x) => (s1, .error x)
  | (s1, .ok (.mem key true)) => (s1, .ok key)
  | (s1, .ok _) => (s1, .error (.fault .engineCommand 0))

/-- Every page of a DATA range is CODED (R285). -/
def State.codedRange (s : State) (ctx : Nat) (e : QEntry) (p : Perm) (a n : Nat) : Step Unit :=
  (List.range ((a % 4096 + n + 4095) / 4096)).foldl (fun (r : Step Unit) i =>
    match r.2 with
    | .error _ => r
    | .ok _ =>
      match r.1.codedBlock ctx e p (max a (a / 4096 * 4096 + 4096 * i)) with
      | (s1, .ok _) => (s1, .ok ())
      | (s1, .error x) => (s1, .error x)) (s, .ok ())

/-- Read and check the header a command names (R285). -/
def State.bufferHeader (s : State) (ctx : Nat) (e : QEntry) (p : Perm) (a : Nat) : Step (Nat × Nat) :=
  match s.engineRead ctx e (copyTol e) a 32 with
  | (s1, .error x) => (s1, .error x)
  | (s1, .ok bs) =>
    match parseHeader bs with
    | none => (s1, .error (.fault .engineCommand 0))
    | some (data, fmt) =>
      match s1.codedRange ctx e p data (256 * copyCount e) with
      | (s2, .ok _) => (s2, .ok (data, fmt))
      | (s2, .error x) => (s2, .error x)

/-! ### Overlaps (R209) -/

/-- The smallest range that holds several. -/
def hull (rs : List (Nat × Nat)) : Nat × Nat :=
  let lo := rs.foldl (fun m r => min m r.1) (2 ^ 65)
  (lo, rs.foldl (fun m r => max m (r.1 + r.2)) lo - lo)

/-- The ranges a copy reads; none of its rows' where they lie apart from the rows it writes. -/
def State.copySources (s : State) (ctx : Nat) (e : QEntry) : Step (List (Nat × Nat)) :=
  if e.sub = 0 then (s, .ok [(ba e.block 0, bw e.block 4)])
  else if e.sub = 1 ∨ e.sub = 2 ∨ e.sub = 3 then
    match s.copyRows ctx e 0 with
    | (s1, .error x) => (s1, .error x)
    | (s1, .ok rows) =>
      (s1, .ok (if meet (hull (rows.map Prod.fst)) (hull (rows.map Prod.snd)) = [] then [] else rows.map Prod.fst))
  else if e.sub = 4 then
    match s.bufferHeader ctx e .r (ba e.block 0) with
    | (s1, .ok (data, _)) => (s1, .ok [(ba e.block 0, 32), (data, 256 * copyCount e)])
    | (s1, .error .miss) => (s1, .error .miss)
    | (s1, .error (.fault _ _)) => (s1, .ok [(ba e.block 0, 32)])
  else (s, .ok [(ba e.block 0, 256 * copyCount e)])

/-- The command at the head with its sources, found as it begins or goes on after a stop; none while a line is on its way. -/
def State.withSources (s : State) (ctx qi : Nat) (e : QEntry) : State × Option QEntry :=
  match e.sources with
  | some _ => (s, some e)
  | none =>
    match s.copySources ctx e with
    | (s1, .ok rs) => (s1.modHead ctx qi (fun e => { e with sources := some rs }), some { e with sources := some rs })
    | (s1, .error x) => (s1.afterStop ctx qi x, none)

/-- Bytes that a copy has written are undefined where they overlap its sources (R209). -/
def State.spoilOverlap (s : State) (ctx : Nat) (e : QEntry) (dst : List (Nat × Nat)) : State :=
  s.spoilAll ctx e (dst.flatMap (fun d => (e.sources.getD []).flatMap (meet d)))

/-! ### CPLIN -/

/-- The bytes of CPLIN that have been committed (12 R364). -/
def linDone (e : QEntry) : Nat := e.progress.getD 0 0 + 2 ^ 32 * e.progress.getD 1 0

/-- Copy up to n bytes in pieces within lines, counting each (R209; 12 R364). -/
def State.copyLinear : Nat → State → Nat → Nat → QEntry → Nat → Nat → Step Nat
  | 0, s, _, _, _, done, _ => (s, .ok done)
  | fuel + 1, s, ctx, qi, e, done, stop =>
    if stop ≤ done then (s, .ok done)
    else
      let src := ba e.block 0 + done
      let dst := ba e.block 2 + done
      let m := min (stop - done) (min (128 - src % 128) (128 - dst % 128))
      match s.engineRead ctx e (copyTol e) src m with
      | (s1, .error x) => (s1, .error x)
      | (s1, .ok bs) =>
        match s1.engineWrite ctx qi e dst bs with
        | (s2, .error x) => (s2, .error x)
        | (s2, .ok _) =>
          State.copyLinear fuel ((s2.spoilOverlap ctx e [(dst, m)]).setProgress ctx qi [(done + m) % 2 ^ 32, (done + m) / 2 ^ 32, 0, 0]) ctx qi e
            (done + m) stop

/-- The 4 KiB unit of CPLIN (10 R316). -/
def State.linUnit (s : State) (ctx qi : Nat) (e : QEntry) : State :=
  let n := bw e.block 4
  let done := linDone e
  match s.copyLinear 600 ctx qi e done (min n (done / 4096 * 4096 + 4096)) with
  | (s1, .error x) => s1.afterStop ctx qi x
  | (s1, .ok d) => if n ≤ d then s1.setFinished ctx qi else s1

/-! ### Rows -/

/-- Rows that are committed are counted once their writes are performed (R210). -/
def State.countRows (s : State) (ctx qi : Nat) : State :=
  match s.head ctx qi with
  | none => s
  | some e =>
    match copyCounter e.sub e.block with
    | none => s
    | some n =>
      if e.waits.isEmpty then
        s.setRowc (qi / 4) n { s.rowc (qi / 4) n with val := BitVec.ofNat 32 (e.progress.getD 0 0) }
      else s

/-- The destination ranges of a copy beyond its recorded progress (R207). -/
def State.copyRest (s : State) (ctx : Nat) (e : QEntry) : State × List (Nat × Nat) :=
  let i := e.progress.getD 0 0
  if e.sub = 0 then (s, [(ba e.block 2 + linDone e, bw e.block 4 - linDone e)])
  else if e.sub = 1 ∨ e.sub = 2 ∨ e.sub = 3 then
    match s.copyRows ctx e i with
    | (s1, .ok rows) => (s1, rows.map Prod.snd)
    | (s1, .error _) => (s1, [])
  else if e.sub = 4 then (s, [(ba e.block 2 + 256 * i, 256 * (copyCount e - i))])
  else if e.sub = 5 then
    match s.bufferHeader ctx e .w (ba e.block 2) with
    | (s1, .ok (data, fmt)) =>
      (s1, [(data + 256 * i, 256 * (copyCount e - i)), (fmt + i, copyCount e - i), (ba e.block 2 + 16, 5)])
    | (s1, .error _) => (s1, [])
  else (s, [])

/-- A row or block copy stops: from its progress on the destination is undefined (R210; 09 R285). -/
def State.copyStop (s : State) (ctx qi : Nat) (e : QEntry) (x : Stop) : State :=
  match x with
  | .miss => s.afterStop ctx qi .miss
  | .fault c a =>
    let (s1, rs) := s.copyRest ctx e
    (s1.spoilAll ctx e rs).engineFault ctx qi c a

/-- ROW_COMMIT: one row is read, written whole and committed (R209, R210). -/
def State.rowUnit (s : State) (ctx qi : Nat) (e : QEntry) : State :=
  let i := e.progress.getD 0 0
  match s.copyIndex ctx e i with
  | (s1, .error x) => s1.copyStop ctx qi e x
  | (s1, .ok x) =>
    let (src, dst) := copyEnds e i x
    match s1.engineRead ctx e (copyTol e) src (copyRow e) with
    | (s2, .error x) => s2.copyStop ctx qi e x
    | (s2, .ok bs) =>
      match s2.engineWrite ctx qi e dst bs with
      | (s3, .error x) => s3.copyStop ctx qi e x
      | (s3, .ok _) =>
        let s4 := ((s3.spoilOverlap ctx e [(dst, copyRow e)]).setProgress ctx qi [i + 1, 0, 0, 0]).countRows ctx qi
        if copyCount e ≤ i + 1 then s4.setFinished ctx qi else s4

/-- An engine's write of a block, and the range it takes. -/
def State.engineBlock (s : State) (ctx qi : Nat) (e : QEntry) (a : Nat) (bs : List Byte) : Step (List (Nat × Nat)) :=
  match s.engineWrite ctx qi e a bs with
  | (s1, .error x) => (s1, .error x)
  | (s1, .ok _) => (s1, .ok [(a, bs.length)])

/-- One block of CPEXP: expanded by the format byte of its shadow entry (R209; 09 R283); a block of another device arrives as its home
expands it (log entry 62); the bytes it writes. -/
def State.expandBlock (s : State) (ctx qi : Nat) (e : QEntry) (i : Nat) : Step (List (Nat × Nat)) :=
  match s.bufferHeader ctx e .r (ba e.block 0) with
  | (s1, .error x) => (s1, .error x)
  | (s1, .ok (data, _)) =>
    let a := data + 256 * i
    match s1.codedBlock ctx e .r a with
    | (s2, .error x) => (s2, .error x)
    | (s2, .ok key) =>
      let dst := ba e.block 2 + 256 * i
      if s2.isLocal key then
        if s2.drainsAfar (tileOf key) (copyTol e) then (s2.askLeave (tileOf key), .error .miss) else
        let s3 := ((s2.settleTile key (copyTol e)).recallLine (lineOf key)).recallLine (lineOf key + 1)
        match (s3.slotLines key).find? s3.poison.contains with
        | some l => (s3, .error (.fault .eccUncorrectable (a + (128 * l - key))))
        | none =>
          match decodeBlock (s3.shadow key % 256) (s3.bytes key 256) with
          | none => (s3, .error (.fault .engineCommand a))
          | some bs => s3.engineBlock ctx qi e dst bs
      else
        match s2.engineRead ctx e (copyTol e) a 256 with
        | (s3, .error x) => (s3, .error x)
        | (s3, .ok bs) => s3.engineBlock ctx qi e dst bs

/-- The slot of a block and its shadow entry, together (09 R285); the home of a block of another device codes what it is given (R284;
log entry 62). -/
def State.putSlot (s : State) (ctx qi : Nat) (e : QEntry) (key a : Nat) (raw : List Byte) (entry : Nat) (coded : List Byte) : Step Unit :=
  if s.isLocal key then
    match s.clearAfar [key] with
    | (s1, false) => (s1, .error .miss)
    | (s0, true) =>
      let cells := cellsAt key coded
      let s1 := s0.recallCells cells
      let s2 := match s1.shadowKey key with
        | some k => s1.putBytes k (bytesOf 2 entry)
        | none => s1
      (s2.homeWrite cells false, .ok ())
  else s.engineWrite ctx qi e a raw

/-- One block of CPCMP: the slot and its shadow entry together, then its byte of FMT; the header with the last block
(R209; 09 R285); the bytes it writes, the whole header's with it. -/
def State.codeBlock (s : State) (ctx qi : Nat) (e : QEntry) (i : Nat) : Step (List (Nat × Nat)) :=
  match s.bufferHeader ctx e .w (ba e.block 2) with
  | (s1, .error x) => (s1, .error x)
  | (s1, .ok (data, fmt)) =>
    match s1.engineRead ctx e (copyTol e) (ba e.block 0 + 256 * i) 256 with
    | (s2, .error x) => (s2, .error x)
    | (s2, .ok bs) =>
      let ep := nbits 10 2 (bw e.block 5)
      let (f, coded) := encodeBlock bs
      match s2.codedBlock ctx e .w (data + 256 * i) with
      | (s3, .error x) => (s3, .error x)
      | (s3, .ok key) =>
        match s3.engineWrite ctx qi e (fmt + i) (bytesOf 1 f) with
        | (s4, .error x) => (s4, .error x)
        | (s4, .ok _) =>
          match s4.putSlot ctx qi e key (data + 256 * i) bs (ep * 256 + f) coded with
          | (s5, .error x) => (s5, .error x)
          | (s5, .ok _) =>
            let block := [(data + 256 * i, 256), (fmt + i, 1)]
            if copyCount e ≤ i + 1 then
              match s5.engineWrite ctx qi e (ba e.block 2 + 16) (bytesOf 4 (copyCount e) ++ bytesOf 1 ep) with
              | (s6, .error x) => (s6, .error x)
              | (s6, .ok _) => (s6, .ok (block ++ [(ba e.block 2, 32)]))
            else (s5, .ok block)

/-- One block of CPEXP or CPCMP. -/
def State.blockUnit (s : State) (ctx qi : Nat) (e : QEntry) : State :=
  let i := e.progress.getD 0 0
  match (if e.sub = 4 then s.expandBlock ctx qi e i else s.codeBlock ctx qi e i) with
  | (s1, .error x) => s1.copyStop ctx qi e x
  | (s1, .ok dst) =>
    let s2 := (s1.spoilOverlap ctx e dst).setProgress ctx qi [i + 1, 0, 0, 0]
    if copyCount e ≤ i + 1 then s2.setFinished ctx qi else s2

/-- A command that its engine performs: at the head of its queue, in service, with something left to do, in the middle of a unit or outranked by no ready
command (R206; 10 R316). -/
def State.inService (s : State) (ctx qi : Nat) : Option QEntry :=
  match s.head ctx qi with
  | some e =>
    if (s.engineState (engineOf qi)).serving = some (ctx, qi) ∧ e.state = 1 ∧ e.finished = false ∧
      (e.midUnit = true ∨ s.outranked (engineOf qi) e = false) then some e else none
  | none => none

/-- COPY_UNIT: the Copy Engine moves one unit, row or block (R209, R210). -/
def evCopyUnit (ctx qi : Nat) (s : State) : State :=
  match s.inService ctx qi with
  | none => s
  | some e0 =>
    match s.withSources ctx qi e0 with
    | (s1, none) => s1
    | (s1, some e) =>
      if e.sub = 0 then s1.linUnit ctx qi e
      else if e.sub = 1 ∨ e.sub = 2 ∨ e.sub = 3 then (if e.waits.isEmpty then (s1.countRows ctx qi).rowUnit ctx qi e else s1)
      else if e.sub = 4 ∨ e.sub = 5 then s1.blockUnit ctx qi e
      else s1
def execCopyUnit (ctx q : Nat) : State → Host.Outcome State Fault Refusal := event (evCopyUnit ctx q)

end Sys2Proof.Machine
end

