-- ==== Sys2Proof/Machine/Gate.lean ====
section
/-! DEFINITION. The Gate and Select Engine (07 R213 to R215; 12 R363, R364). -/

namespace Sys2Proof.Machine

/-- OR flags into GSESTAT of a context on a cluster (12 R363). -/
def State.raiseGse (s : State) (ctx cl : Nat) (f : Flags) : State :=
  s.modCtx ctx (fun c => { c with gsestat := c.gsestat.put cl (c.gsestat.get 0 cl ||| f.setWidth 32) })

/-- The order-preserving key of a value, -0 below +0 (R213, R215). -/
def orderKey (v : Nat) : Nat := if v < 2 ^ 31 then v + 2 ^ 31 else 2 ^ 32 - 1 - v
/-- The value of a key. -/
def keyValue (k : Nat) : Nat := if 2 ^ 31 ≤ k then k - 2 ^ 31 else 2 ^ 32 - 1 - k
/-- Not a NaN (R213). -/
def validValue (v : Nat) : Bool := v % 2 ^ 31 ≤ 0x7F800000

/-- Descending value, ascending index (R213); pairs of index and value. -/
def firstOf (x y : Nat × Nat) : Bool := orderKey y.2 < orderKey x.2 || (orderKey y.2 == orderKey x.2 && x.1 ≤ y.1)

/-- The sum of values and its flags; +0 when empty (R213). -/
def sumValues (vs : List Nat) : Nat × Flags :=
  let (w, f) := sumF32 .rne false (vs.map (fun v => f32 (BitVec.ofNat 32 v)))
  (w.toNat, f)

/-- The record of R214: head words, k indices, k values, zeros up to S. -/
def gateRecord (k count sum rest mark : Nat) (sel : List (Nat × Nat)) : List Byte :=
  let idx := (List.range k).map (fun j => (sel.map Prod.fst).getD j 0xFFFFFFFF)
  let val := (List.range k).map (fun j => (sel.map Prod.snd).getD j 0x7FC00000)
  padTo (recordSize k) (bytesOfWords ([count, sum, rest, mark] ++ idx ++ val))

/-! ### GTOPK -/

/-- The valid candidates of a row: not NaN and, with masking, mask bit 1 (R213, R214). -/
def validOf (vals : List Nat) (mask : Option (List Nat)) : List (Nat × Nat) :=
  (vals.zipIdx.map (fun x => (x.2, x.1))).filter (fun x =>
    validValue x.2 && (match mask with
      | some ws => ws.getD (x.1 / 32) 0 / 2 ^ (x.1 % 32) % 2 == 1
      | none => true))

/-- One row of GTOPK (R213, R214). -/
def State.topkRow (s : State) (ctx qi : Nat) (e : QEntry) : State :=
  let b := e.block
  let c := nbits 0 13 (bw b 4)
  let k := nbits 13 7 (bw b 4)
  let tol := nbits 20 5 (bw b 4)
  let r := e.progress.getD 0 0
  let nm := (c + 31) / 32
  match s.engineRead ctx e tol (ba b 0 + r * bw b 2) (4 * c) with
  | (s1, .error x) => s1.afterStop ctx qi x
  | (s1, .ok raw) =>
    let (s2, mask) : Step (Option (List Nat)) :=
      if nbits 25 1 (bw b 4) = 0 then (s1, .ok none)
      else match s1.engineRead ctx e tol (ba b 5 + 4 * r * nm) (4 * nm) with
        | (s', .ok m) => (s', .ok (some (wordsOf nm m)))
        | (s', .error x) => (s', .error x)
    match mask with
    | .error x => s2.afterStop ctx qi x
    | .ok mask =>
      let ordered := sortBy firstOf (validOf (wordsOf c raw) mask)
      let (sum, f1) := sumValues ((ordered.take k).map Prod.snd)
      let (rest, f2) := sumValues ((ordered.drop k).map Prod.snd)
      match s2.engineWrite ctx qi e (ba b 7 + r * recordSize k) (gateRecord k ordered.length sum rest 0 (ordered.take k)) with
      | (s3, .error x) => s3.afterStop ctx qi x
      | (s3, .ok _) =>
        let s4 := (s3.setProgress ctx qi [r + 1, 0, 0, 0]).raiseGse ctx (engineCluster (engineOf qi)) (f1 ||| f2)
        if bw b 3 ≤ r + 1 then s4.setFinished ctx qi else s4

/-! ### GBUCK -/

/-- The boundary bucket for m selections from the counts, and the candidates above it; none where fewer than m are valid. -/
def boundaryBucket (m : Nat) (counts : List Nat) : Nat → Nat → Option (Nat × Nat)
  | 0, _ => none
  | b + 1, above => if m ≤ above + counts.getD b 0 then some (b, above) else boundaryBucket m counts b (above + counts.getD b 0)

/-- What GBUCK holds while it selects: taken from the boundary bucket, smallest and largest key there, the indices selected. -/
def bucketSelect (m : Nat) (bound : Option (Nat × Nat)) (st : List Nat) (x : Nat × Nat) : List Nat :=
  if !validValue x.2 then st
  else
    let key := orderKey x.2
    match st with
    | taken :: lo :: hi :: sel =>
      match bound with
      | none => taken :: lo :: hi :: (sel ++ [x.1])
      | some (b, above) =>
        if b < key / 2 ^ 24 then taken :: lo :: hi :: (sel ++ [x.1])
        else if key / 2 ^ 24 = b then
          let lo := min lo key
          let hi := max hi key
          if above + taken < m then (taken + 1) :: lo :: hi :: (sel ++ [x.1]) else taken :: lo :: hi :: sel
        else st
    | _ => st

/-- The values of the candidates from i on that share a line (R215). -/
def State.candidates32 (s : State) (ctx : Nat) (e : QEntry) (i : Nat) : Step (List (Nat × Nat)) :=
  let a := ba e.block 0 + 4 * i
  let m := min (bw e.block 2 - i) ((128 - a % 128) / 4)
  match s.engineRead ctx e (nbits 0 5 (bw e.block 4)) a (4 * m) with
  | (s1, .ok bs) => (s1, .ok (((wordsOf m bs).zipIdx).map (fun x => (i + x.2, x.1))))
  | (s1, .error x) => (s1, .error x)

/-- Counts of the 256 buckets after further candidates. -/
def countBuckets (counts : List Nat) (xs : List (Nat × Nat)) : List Nat :=
  xs.foldl (fun c x =>
    let b := orderKey x.2 / 2 ^ 24
    if validValue x.2 then c.set b (c.getD b 0 + 1) else c) counts

/-- The 16-byte summary: number selected, boundary bucket, its smallest and largest values; where fewer than m are valid the last
three are free (R215; log entry 4). -/
def State.bucketSummary (s : State) (bound : Option (Nat × Nat)) (n lo hi : Nat) : State × List Byte :=
  match bound with
  | some (b, _) => (s, bytesOfWords [n, b, keyValue lo, keyValue hi])
  | none =>
    let (s1, f) := s.freeBytes 12
    (s1, bytesOfWords [n] ++ f)

/-- A part of GBUCK: counting, selecting, then the outputs (R215; 12 R364). -/
def State.bucketRow (s : State) (ctx qi : Nat) (e : QEntry) : State :=
  let b := e.block
  let n := bw b 2
  let m := bw b 3
  let phase := e.progress.getD 0 0
  let i := e.progress.getD 1 0
  let counts := if e.held.isEmpty then List.replicate 256 0 else e.held.take 256
  let keep (s : State) (ph j : Nat) (held : List Nat) : State :=
    (s.setProgress ctx qi [ph, j, 0, 0]).modHead ctx qi (fun e => { e with held := held })
  let bound := boundaryBucket m counts 256 0
  if i < n then
    match s.candidates32 ctx e i with
    | (s1, .error x) => s1.afterStop ctx qi x
    | (s1, .ok xs) =>
      if phase = 0 then
        let c := countBuckets counts xs
        if n ≤ i + xs.length then keep s1 1 0 (c ++ [0, 2 ^ 32 - 1, 0]) else keep s1 0 (i + xs.length) c
      else keep s1 1 (i + xs.length) (counts ++ xs.foldl (bucketSelect m bound) (e.held.drop 256))
  else
    let st := e.held.drop 256
    let sel := st.drop 3
    let (s1, summary) := s.bucketSummary bound sel.length (st.getD 1 0) (st.getD 2 0)
    match s1.engineWrites ctx qi e [(ba b 5, bytesOfWords sel), (ba b 7, summary)] with
    | (s2, .error x) => s2.afterStop ctx qi x
    | (s2, .ok _) => s2.setFinished ctx qi

/-! ### GMERGE -/

/-- The records GMERGE reads, in order. -/
def State.mergeInputs (s : State) (ctx : Nat) (e : QEntry) (k : Nat) : List Nat → List (List Nat) → Step (List (List Nat))
  | [], got => (s, .ok got)
  | i :: is, got =>
    match s.engineRead ctx e 31 (ba e.block 0 + i * bw e.block 3) (4 * (4 + 2 * k)) with
    | (s1, .error x) => (s1, .error x)
    | (s1, .ok bs) => State.mergeInputs s1 ctx e k is (got ++ [wordsOf (4 + 2 * k) bs])

/-- The entries of a record: index and value of each slot that holds a valid one. -/
def slotsOf (k : Nat) (ws : List Nat) : List (Nat × Nat) :=
  ((List.range k).map (fun j => (ws.getD (4 + j) 0, ws.getD (4 + k + j) 0))).filter (fun x => x.1 != 0xFFFFFFFF && validValue x.2)

/-- First occurrences in order, and whether two occurrences of an index differ (R215). -/
def mergeEntries (xs : List (Nat × Nat)) : List (Nat × Nat) × Bool :=
  xs.foldl (fun (r : List (Nat × Nat) × Bool) x =>
    match r.1.find? (fun y => y.1 == x.1) with
    | some y => (r.1, r.2 || y.2 != x.2)
    | none => (r.1 ++ [x], r.2)) ([], false)

/-- GMERGE in one step (R215). -/
def State.mergeRow (s : State) (ctx qi : Nat) (e : QEntry) : State :=
  let w := bw e.block 2
  let k := nbits 5 7 w
  let ko := nbits 12 7 w
  match s.mergeInputs ctx e k (List.range (nbits 0 5 w)) [] with
  | (s1, .error x) => s1.afterStop ctx qi x
  | (s1, .ok recs) =>
    let (distinct, differ) := mergeEntries (recs.flatMap (slotsOf k))
    let ordered := sortBy firstOf distinct
    let (sum, f1) := sumValues ((ordered.take ko).map Prod.snd)
    let (rest, f2) := sumValues (recs.map (fun r => r.getD 2 0) ++ (ordered.drop ko).map Prod.snd)
    match s1.engineWrite ctx qi e (ba e.block 4) (gateRecord ko distinct.length sum rest (if differ then 1 else 0) (ordered.take ko)) with
    | (s2, .error x) => s2.afterStop ctx qi x
    | (s2, .ok _) => (s2.raiseGse ctx (engineCluster (engineOf qi)) (f1 ||| f2)).setFinished ctx qi

/-! ### GHIST and GPERM -/

/-- k and E of GHIST and GPERM (R213). -/
def histK (e : QEntry) : Nat := nbits 0 7 (bw e.block 3)
def histE (e : QEntry) : Nat := nbits 7 12 (bw e.block 3)

/-- The selected slots of record r as slot and expert; an index from E to 0xFFFFFFFE stops the command there (R215). -/
def State.selectedSlots (s : State) (ctx : Nat) (e : QEntry) (r : Nat) : Step (List (Nat × Nat)) :=
  let a := ba e.block 0 + r * bw e.block 4 + 16
  match s.engineRead ctx e 31 a (4 * histK e) with
  | (s1, .error x) => (s1, .error x)
  | (s1, .ok bs) =>
    let slots := ((wordsOf (histK e) bs).zipIdx.map (fun x => (x.2, x.1))).filter (fun x => x.2 != 0xFFFFFFFF)
    match slots.find? (fun x => histE e ≤ x.2) with
    | some _ => (s1, .error (.fault .engineCommand 0))
    | none => (s1, .ok slots)

/-- Counts per expert after further slots. -/
def countExperts (counts : List Nat) (slots : List (Nat × Nat)) : List Nat :=
  slots.foldl (fun c x => c.set x.2 (c.getD x.2 0 + 1)) counts

/-- A record of GHIST, or its counts (R215; 12 R364). -/
def State.histRow (s : State) (ctx qi : Nat) (e : QEntry) : State :=
  let r := e.progress.getD 0 0
  let counts := if e.held.isEmpty then List.replicate (histE e) 0 else e.held
  if r < bw e.block 2 then
    match s.selectedSlots ctx e r with
    | (s1, .error x) => s1.afterStop ctx qi x
    | (s1, .ok slots) =>
      (s1.setProgress ctx qi [r + 1, 0, 0, 0]).modHead ctx qi (fun e => { e with held := countExperts counts slots })
  else
    match s.engineWrite ctx qi e (ba e.block 5) (bytesOfWords counts) with
    | (s1, .error x) => s1.afterStop ctx qi x
    | (s1, .ok _) => s1.setFinished ctx qi

/-- Running sums modulo 2^32 from a start: one more than the inputs (R215). -/
def scanFrom : Nat → List Nat → List Nat
  | a, [] => [a]
  | a, v :: vs => a :: scanFrom ((a + v) % 2 ^ 32) vs

/-- The writes of one record in GPERM's placing pass, and the positions taken (R215). -/
def placeSlots (e : QEntry) (r : Nat) (offsets : List Nat) : List (Nat × Nat) → List Nat → List (Nat × List Byte) →
    List (Nat × List Byte) × List Nat
  | [], seen, ws => (ws, seen)
  | (j, x) :: rest, seen, ws =>
    let p := offsets.getD x 0 + seen.getD x 0
    let tok := [(ba e.block 7 + 4 * p, bytesOf 4 r)]
    let pos := if ba e.block 9 = 0 then [] else [(ba e.block 9 + 4 * p, bytesOf 4 (r * histK e + j))]
    placeSlots e r offsets rest (seen.set x (seen.getD x 0 + 1)) (ws ++ tok ++ pos)

/-- A record of GPERM in its pass (R215; 12 R364). -/
def State.permRow (s : State) (ctx qi : Nat) (e : QEntry) : State :=
  let n := histE e
  let pass := e.progress.getD 0 0
  let r := e.progress.getD 1 0
  let keep (s : State) (ps j : Nat) (held : List Nat) : State :=
    (s.setProgress ctx qi [ps, j, 0, 0]).modHead ctx qi (fun e => { e with held := held })
  if r < bw e.block 2 then
    match s.selectedSlots ctx e r with
    | (s1, .error x) => s1.afterStop ctx qi x
    | (s1, .ok slots) =>
      if pass = 0 then
        keep s1 0 (r + 1) (countExperts (if e.held.isEmpty then List.replicate n 0 else e.held) slots)
      else
        let offsets := e.held.take (n + 1)
        let (ws, seen) := placeSlots e r offsets slots (e.held.drop (n + 1)) []
        match s1.engineWrites ctx qi e ws with
        | (s2, .error x) => s2.afterStop ctx qi x
        | (s2, .ok _) => keep s2 1 (r + 1) (offsets ++ seen)
  else if pass = 0 then
    match s.engineRead ctx e 31 (ba e.block 5) (4 * (n + 1)) with
    | (s1, .error x) => s1.afterStop ctx qi x
    | (s1, .ok bs) =>
      let offsets := wordsOf (n + 1) bs
      if offsets = scanFrom 0 e.held then keep s1 1 0 (offsets ++ List.replicate n 0)
      else s1.engineFault ctx qi .engineCommand 0
  else s.setFinished ctx qi

/-! ### GSCAN -/

/-- The words of GSCAN from i on that share a line of input and of output (R215). -/
def State.scanRow (s : State) (ctx qi : Nat) (e : QEntry) : State :=
  let b := e.block
  let n := bw b 2
  let i := e.progress.getD 0 0
  let src := ba b 0 + 4 * i
  let dst := ba b 3 + 4 * i
  let m := min (n + 1 - i) (min ((128 - src % 128) / 4) ((128 - dst % 128) / 4))
  let take := min m (n - i)
  match s.engineRead ctx e 31 src (4 * take) with
  | (s1, .error x) => s1.afterStop ctx qi x
  | (s1, .ok bs) =>
    let sums := scanFrom (e.progress.getD 1 0) (wordsOf take bs)
    match s1.engineWrite ctx qi e dst (bytesOfWords (sums.take m)) with
    | (s2, .error x) => s2.afterStop ctx qi x
    | (s2, .ok _) =>
      let s3 := s2.setProgress ctx qi [i + m, sums.getD m 0, 0, 0]
      if n < i + m then s3.setFinished ctx qi else s3

/-- GSE_ROW: the Gate and Select Engine processes one row or record of its command, or one line of the input of GBUCK or GSCAN; GMERGE is one
unit (R215; 10 R316; log entry 81). -/
def evGseRow (ctx qi : Nat) (s : State) : State :=
  match s.inService ctx qi with
  | none => s
  | some e =>
    if e.sub = 8 then s.topkRow ctx qi e
    else if e.sub = 9 then s.bucketRow ctx qi e
    else if e.sub = 10 then s.mergeRow ctx qi e
    else if e.sub = 11 then s.histRow ctx qi e
    else if e.sub = 12 then s.scanRow ctx qi e
    else if e.sub = 13 then s.permRow ctx qi e
    else s
def execGseRow (ctx q : Nat) : State → Host.Outcome State Fault Refusal := event (evGseRow ctx q)

/-- The destination ranges of a Gate and Select command beyond its recorded progress (R207). -/
def gateRest (e : QEntry) : List (Nat × Nat) :=
  let b := e.block
  let i := e.progress.getD 0 0
  if e.sub = 8 then
    let s := recordSize (nbits 13 7 (bw b 4))
    [(ba b 7 + i * s, (bw b 3 - i) * s)]
  else if e.sub = 9 then [(ba b 5, 4 * bw b 3), (ba b 7, 16)]
  else if e.sub = 10 then [(ba b 4, recordSize (nbits 12 7 (bw b 2)))]
  else if e.sub = 11 then [(ba b 5, 4 * histE e)]
  else if e.sub = 12 then [(ba b 3 + 4 * i, 4 * (bw b 2 + 1 - i))]
  else if e.sub = 13 ∧ i = 1 then
    let seen := e.held.drop (histE e + 1)
    let n := (e.held.take (histE e + 1)).getD (histE e) 0
    let taken := (List.range (histE e)).map (fun x => (e.held.getD x 0, seen.getD x 0, e.held.getD (x + 1) 0))
    let gaps := taken.map (fun t => (t.1 + t.2.1, t.2.2 - (t.1 + t.2.1)))
    if n = 0 then [] else
      gaps.map (fun g => (ba b 7 + 4 * g.1, 4 * g.2)) ++
      (if ba b 9 = 0 then [] else gaps.map (fun g => (ba b 9 + 4 * g.1, 4 * g.2)))
  else []

end Sys2Proof.Machine
end

