-- ==== Sys2Proof/Machine/Contract.lean ====
section
/-! DEFINITION. The Chain Contraction Engine: registers, formats, boundaries, tiles, and the commands CXFORK, CXBOND and CXDENSE
(12 R345 to R363; 02 R74, R78, R80; 07 R216 to R218). -/

namespace Sys2Proof.Machine

/-! ### Registers (R345) -/

def State.modCce (s : State) (ctx cl : Nat) (f : Cce → Cce) : State :=
  s.modCtx ctx (fun c => { c with cce := c.cce.put cl (f (c.cce.get Cce.fresh cl)) })

def Cce.bondAt (c : Cce) (k : Nat) : Nat := c.chi.get 1 k
def Cce.inMode (c : Cce) (k : Nat) : Nat := c.modei.get 1 k
def Cce.outMode (c : Cce) (k : Nat) : Nat := c.modej.get 1 k

/-- The progress field of a CCE command (R364); STEP has six bits (R345; log entry 66). -/
def Cce.progressOf (c : Cce) (sub : Nat) : List Nat :=
  let tiles := c.tilei + 2 ^ 16 * c.tilej
  if sub = 14 then [c.step % 64 + 2 ^ 16 * c.part, tiles, 0, 0] else if sub = 17 then [0, tiles, 0, 0] else [0, 0, 0, 0]

/-- OR flags into CCESTAT (R363). -/
def State.raiseCce (s : State) (ctx cl : Nat) (f : Flags) : State := s.modCce ctx cl (fun c => { c with stat := c.stat ||| f.setWidth 32 })

/-- A CCE command stops: its record holds the progress of R360 and the step under way has stopped. -/
def State.cceFault (s : State) (ctx qi cl : Nat) (cause : Cause) (a : Nat) : State :=
  let sub := ((s.head ctx qi).map QEntry.sub).getD 0
  let s1 := s.setProgress ctx qi ((s.cceOf ctx cl).progressOf sub)
  let s2 := s1.modCce ctx cl (fun c => { c with job := c.job.map (fun j => { j with stopped := true }) })
  s2.engineFault ctx qi cause a

def State.cceStop (s : State) (ctx qi cl : Nat) (x : Stop) : State :=
  match x with
  | .miss => s
  | .fault c a => s.cceFault ctx qi cl c a

/-! ### Formats (R347 to R351, R357) -/

/-- Bytes of a boundary element by BFMT (R349). -/
def elemBytes (fmt : Nat) : Nat := if fmt = 1 then 4 else 2

/-- A value rounded to BFMT in RNE, as the F32 of the result, with its flags (R351). -/
def toBoundary (fmt : Nat) (x : XR) : Word × Flags :=
  if fmt = 1 then roundF32 .rne x
  else
    let f := if fmt = 2 then Fmt.f16 else Fmt.bf16
    let (c, fl) := f.round .rne false x
    ((roundF32 .rne (f.value c)).1, fl)

/-- Bits and element format of a storage tag (R347, R349). -/
def storageOf (fmt : Nat) : Option (Elem × Nat) := elemOf (BitVec.ofNat 6 fmt)

/-- Element i of packed elements of w bits. -/
def elementAt (w : Nat) (bs : List Byte) (i : Nat) : Nat :=
  if w = 4 then (bs.getD (i / 2) 0).toNat / 16 ^ (i % 2) % 16 else ofBytes ((bs.drop (w / 8 * i)).take (w / 8))

/-- The exact value of element i under a tag. -/
def elementValue (fmt : Nat) (bs : List Byte) (i : Nat) : XR :=
  match storageOf fmt with
  | some (el, w) => el.value (elementAt w bs i)
  | none => .nan

/-- Bytes that n elements of a tag take. -/
def packedBytes (fmt n : Nat) : Nat :=
  match storageOf fmt with
  | some (_, w) => (n * w + 7) / 8
  | none => 0

/-- An element tag of R347: F16, BF16, binary8 or half-step. -/
def coreTag (fmt : Nat) : Bool := fmt < 64 && (fmt == 2 || fmt == 3 || fmt == 50 || fmt == 51 || isB8 (BitVec.ofNat 6 fmt))
/-- A tag of R349: F32, F16 or BF16. -/
def plainTag (fmt : Nat) : Bool := 1 ≤ fmt && fmt ≤ 3

/-- Convert a value into an element of 4 or 2 bytes (R352 STOREB, R357). -/
def storeElem (fmt : Nat) (sat : Bool) (x : XR) : List Byte × Flags :=
  let f := if fmt = 1 then Fmt.f32 else if fmt = 2 then Fmt.f16 else Fmt.bf16
  let (c, fl) := f.round .rne sat x
  (bytesOf (elemBytes fmt) c, fl)

/-- A core descriptor (R347). -/
structure CoreDesc where
  data : Nat
  scales : Nat
  zmap : Nat
  chil : Nat
  chir : Nat
  i : Nat
  j : Nat
  fmt : Nat
  order : Nat
  deriving DecidableEq, Repr

/-- A core descriptor's 64 bytes; none where it breaks a limit. A gradient's descriptor takes the tags of R349 and no scales or map
(R347, R358). -/
def parseCore (gradient : Bool) (bs : List Byte) : Option CoreDesc :=
  let f (o n : Nat) : Nat := fieldOfBytes bs o n
  let d : CoreDesc :=
    { data := f 0 8, scales := f 8 8, zmap := f 16 8, chil := f 24 2, chir := f 26 2, i := f 28 2, j := f 30 2, fmt := f 32 1,
      order := f 33 1 }
  let bond (n : Nat) : Bool := 1 ≤ n && n ≤ 4096
  let mode (n : Nat) : Bool := 1 ≤ n && n ≤ 256
  let form := if gradient then plainTag d.fmt && d.scales == 0 && d.zmap == 0 else coreTag d.fmt
  if d.data % 256 == 0 && d.scales % 4 == 0 && d.zmap % 8 == 0 && bond d.chil && bond d.chir && mode d.i && mode d.j && form &&
    d.order < 4 && (bs.drop 34).all (fun b => b == 0) then some d else none
where
  fieldOfBytes (bs : List Byte) (o n : Nat) : Nat := ofBytes ((bs.drop o).take n)

/-- The stored column and the place in it of element (α, i, j, α') (R348). -/
def CoreDesc.place (d : CoreDesc) (al i j ar : Nat) : Nat × Nat :=
  if d.order = 0 then (j * d.chir + ar, al * d.i + i)
  else if d.order = 1 then (j * d.chil + al, ar * d.i + i)
  else if d.order = 2 then (i * d.chir + ar, al * d.j + j)
  else (i * d.chil + al, ar * d.j + j)

/-- The length of a stored column (R348). -/
def CoreDesc.column (d : CoreDesc) : Nat :=
  if d.order = 0 then d.chil * d.i else if d.order = 1 then d.chir * d.i else if d.order = 2 then d.chil * d.j else d.chir * d.j

/-- The number of stored columns. -/
def CoreDesc.columns (d : CoreDesc) : Nat := d.chil * d.i * d.j * d.chir / d.column

/-- Arrays of a core or of B: elements, scales, zero map; the last two where they are present. -/
structure Weights where
  fmt : Nat
  data : List Byte
  scales : Option (List Byte)
  zmap : Option (List Byte)

/-- The scaled value of element at of column col, whose columns start every span elements; g is its group's bit in the zero map
(R348; 02 R74, R80). -/
def Weights.value (w : Weights) (span col at_ g : Nat) : XR × Bool :=
  let flagged := match w.zmap with
    | some m => (m.getD (g / 8) 0).toNat / 2 ^ (g % 8) % 2 == 1
    | none => false
  let x : XR := if flagged then .fin false 0 0 else elementValue w.fmt w.data (col * span + at_)
  match w.scales with
  | some m => x.mul (f32 (BitVec.ofNat 32 (elementAt 32 m col)))
  | none => (x, false)

/-- Read an optional array: none for address 0. -/
def State.readOptional (s : State) (ctx : Nat) (e : QEntry) (tol a n : Nat) : Step (Option (List Byte)) :=
  if a = 0 then (s, .ok none)
  else match s.engineRead ctx e tol a n with
    | (s1, .ok bs) => (s1, .ok (some bs))
    | (s1, .error x) => (s1, .error x)

/-- Read elements, scales and, where it is used, the zero map (R348, R357, R361). -/
def State.readWeights (s : State) (ctx : Nat) (e : QEntry) (tol fmt data bytes scales cols zmap zbits : Nat) (useMap : Bool) : Step Weights :=
  match s.engineRead ctx e tol data bytes with
  | (s1, .error x) => (s1, .error x)
  | (s1, .ok bs) =>
    match s1.readOptional ctx e tol scales (4 * cols) with
    | (s2, .error x) => (s2, .error x)
    | (s2, .ok sc) =>
      match s2.readOptional ctx e tol (if useMap then zmap else 0) ((zbits + 7) / 8) with
      | (s3, .error x) => (s3, .error x)
      | (s3, .ok zm) => (s3, .ok { fmt := fmt, data := bs, scales := sc, zmap := zm })

/-- Part of a core's element array lies in blocks of expansion point 3 (R347; 09 R283); the shadow entries are the own device's. -/
def State.expandsLate (s : State) (ctx : Nat) (e : QEntry) (p : Perm) : List (Nat × Nat) → State × Bool
  | [] => (s, false)
  | (a, n) :: ps =>
    match s.engineLoc ctx e p a n with
    | (s1, .ok (.mem key true)) =>
      if s1.isLocal key && s1.shadow key / 256 % 4 == 3 then (s1, true) else State.expandsLate s1 ctx e p ps
    | (s1, _) => State.expandsLate s1 ctx e p ps

/-- The bytes of a core's element array. -/
def CoreDesc.dataBytes (d : CoreDesc) : Nat := packedBytes d.fmt (d.chil * d.i * d.j * d.chir)

/-- A core descriptor that keeps every limit of R347, read and parsed; one that does not stops the command. -/
def State.coreFrom (s : State) (ctx : Nat) (e : QEntry) (gradient : Bool) (bs : List Byte) : Step CoreDesc :=
  match parseCore gradient bs with
  | none => (s, .error (.fault .engineCommand 0))
  | some d =>
    match s.expandsLate ctx e (if gradient then .w else .r) (piecesOf d.data d.dataBytes) with
    | (s1, true) => (s1, .error (.fault .engineCommand 0))
    | (s1, false) => (s1, .ok d)

/-- A dense descriptor (R357). -/
structure DenseDesc where
  a : Nat
  b : Nat
  c : Nat
  scl : Nat
  zmap : Nat
  m : Nat
  n : Nat
  k : Nat
  astr : Nat
  cstr : Nat
  afmt : Nat
  bfmt : Nat
  cfmt : Nat
  flags : Nat
  deriving DecidableEq, Repr

/-- A dense descriptor's 64 bytes; none where a field that is used breaks its limit: a step uses B, M, N and K alone (R357). -/
def parseDense (step : Bool) (bs : List Byte) : Option DenseDesc :=
  let f (o n : Nat) : Nat := ofBytes ((bs.drop o).take n)
  let d : DenseDesc :=
    { a := f 0 8, b := f 8 8, c := f 16 8, scl := f 24 8, zmap := f 32 8, m := f 40 4, n := f 44 4, k := f 48 4, astr := f 52 4,
      cstr := f 56 4, afmt := f 60 1, bfmt := f 61 1, cfmt := f 62 1, flags := f 63 1 }
  let used := d.b % 256 == 0 && 1 ≤ d.m && d.m ≤ 2 ^ 20 && 1 ≤ d.n && d.n ≤ 65536 && 1 ≤ d.k && d.k ≤ 2 ^ 20 && coreTag d.bfmt
  let rest := d.a % 16 == 0 && d.c % 16 == 0 && d.astr % 16 == 0 && d.cstr % 16 == 0 && plainTag d.afmt && plainTag d.cfmt &&
    d.flags < 128
  if used && (step || rest) then some d else none

/-- Bytes of a column of B (R357). -/
def DenseDesc.span (d : DenseDesc) : Nat := (packedBytes d.bfmt d.k + 15) / 16 * 16

/-- Elements from one column of B to the next. -/
def DenseDesc.stride (d : DenseDesc) : Nat :=
  match storageOf d.bfmt with
  | some (_, w) => d.span * 8 / w
  | none => 0

/-- Read B with its scales and its zero map (R357). -/
def State.readB (s : State) (ctx : Nat) (e : QEntry) (d : DenseDesc) : Step Weights :=
  s.readWeights ctx e (d.flags % 32) d.bfmt d.b (d.span * d.n) d.scl d.n d.zmap (d.n * ((d.k + 31) / 32)) true

/-! ### Sums (02 R78) -/

/-- The R78 sum of terms in the order of their flattened index, each with whether forming it was invalid. -/
def chainSum (ts : List (XR × Bool)) : Word × Flags :=
  let group (g : Nat) : Word × Flags :=
    let xs := (ts.drop (32 * g)).take 32
    let (x, inv) := exactSum .rne (xs.map Prod.fst)
    let (w, f) := if x.isZero then ((0 : Word), (0 : Flags)) else roundF32 .rne x
    (w, f ||| Flags.when (inv || xs.any Prod.snd) .invalid)
  (List.range ((ts.length + 31) / 32)).foldl (fun (r : Word × Flags) g =>
    let (w, f) := group g
    if g = 0 then (w, f) else
      let (x, fx) := fadd .rne r.1 w
      (x, r.2 ||| f ||| fx)) (0, 0)

/-- A product of a boundary element and a scaled element (02 R74, R78). -/
def chainTerm (x : Word) (g : XR × Bool) : XR × Bool :=
  let (p, bad) := (f32 x).mul g.1
  (p, bad || g.2)

/-! ### Boundaries (R351, R354) -/

/-- The product of the sizes of modes. -/
def sizeOf' (ms : List (Nat × Nat)) : Nat := (ms.map Prod.snd).prod

/-- Boundary rows of one batch entry or image row. -/
def Boundary.rowsPer (b : Boundary) : Nat :=
  match b.kind with
  | .chain => sizeOf' b.remaining
  | .matrix => b.width
  | .image => b.width
  | .none => 0
/-- Boundary columns (R351). -/
def Boundary.columns (b : Boundary) : Nat :=
  match b.kind with
  | .chain => sizeOf' b.produced * b.bond
  | .matrix => b.cols
  | .image => b.cols
  | .none => 0
def Boundary.rows (b : Boundary) : Nat := b.batch * b.rowsPer
/-- A boundary's size in bytes (R354). -/
def Boundary.bytes (b : Boundary) (fmt : Nat) : Nat := b.rows * b.columns * elemBytes fmt
/-- An element by its place; one the boundary does not hold is free. -/
def Boundary.at (b : Boundary) (i : Nat) : Word := b.data.getD i (Config.freeWord i)

/-- The modes of remaining and produced positions: input modes remain under TR = 0, output modes under TR = 1 (R351). -/
def Cce.remMode (c : Cce) (tr : Bool) (k : Nat) : Nat := if tr then c.outMode k else c.inMode k
def Cce.prodMode (c : Cce) (tr : Bool) (k : Nat) : Nat := if tr then c.inMode k else c.outMode k

/-- The first batch entry and the batch of the current part (R352, R356). -/
def Cce.extent (c : Cce) : Nat × Nat :=
  match c.splitStep with
  | none => (0, c.batchn)
  | some _ => (c.part * c.partSize, min c.partSize (c.batchn - c.part * c.partSize))

/-- The rows of batch entries from b0 on. -/
def Boundary.slice (b : Boundary) (b0 n : Nat) : Boundary :=
  let per := b.rowsPer * b.columns
  { b with batch := n, data := (List.range (n * per)).map (fun i => b.at (b0 * per + i)) }

/-- The result does not fit beside the parent (R354). -/
def Cce.overflows (c : Cce) (fmt size : Nat) (env : Bool) : Bool :=
  let q := match c.parent with
    | some p => if env then 0 else p.bytes fmt
    | none => 0
  c.bbcap < size + q

/-! ### Program header and steps (R349, R350) -/

/-- What the engine keeps of a header: NSTEPS, BFMT, D, BATCH, XSTRIDE, YSTRIDE; none where it breaks R349. -/
def parseProgram (bs : List Byte) : Option (List Nat) :=
  let f (o n : Nat) : Nat := ofBytes ((bs.drop o).take n)
  if 1 ≤ f 0 1 && f 0 1 ≤ 64 && plainTag (f 1 1) && 1 ≤ f 2 1 && f 2 1 ≤ 15 && f 3 1 == 0 && 1 ≤ f 4 4 && f 4 4 ≤ 65536 &&
    f 8 4 % 16 == 0 && f 12 4 % 16 == 0 && (bs.drop 16).all (fun b => b == 0) then
    some [f 0 1, f 1 1, f 2 1, f 4 4, f 8 4, f 12 4]
  else none

def QEntry.nsteps (e : QEntry) : Nat := e.held.getD 0 0
def QEntry.bfmt (e : QEntry) : Nat := e.held.getD 1 0
def QEntry.cores (e : QEntry) : Nat := e.held.getD 2 0
def QEntry.batch (e : QEntry) : Nat := e.held.getD 3 0
def QEntry.xstride (e : QEntry) : Nat := e.held.getD 4 0
def QEntry.ystride (e : QEntry) : Nat := e.held.getD 5 0

/-- A program step's fields (R350). -/
structure PStep where
  code : Nat
  k : Nat
  dir : Bool
  tr : Bool
  acc : Bool
  sat : Bool
  kind : Nat
  tol : Nat
  n : Nat
  addr : Nat
  deriving DecidableEq, Repr

/-- The fields of a step's 16 bytes. -/
def stepOf (bs : List Byte) : PStep :=
  let f (o n : Nat) : Nat := ofBytes ((bs.drop o).take n)
  { code := f 0 1 % 16, k := f 1 1, dir := nbits 0 1 (f 2 1) == 1, tr := nbits 1 1 (f 2 1) == 1, acc := nbits 2 1 (f 2 1) == 1,
    sat := nbits 3 1 (f 2 1) == 1, kind := nbits 4 2 (f 2 1), tol := f 3 1 % 32, n := f 4 4, addr := f 8 8 }

/-- The step's reserved fields are zero and its code is assigned (R350, R352). -/
def stepOk (bs : List Byte) : Bool :=
  let f (o : Nat) : Nat := ofBytes ((bs.drop o).take 1)
  let c := f 0
  c < 16 && f 2 < 64 && f 3 < 32 && ((1 ≤ c && c ≤ 11) || c == 15)

/-! ### Tiles (R359) -/

/-- The step or CXDENSE under way has every tile committed. -/
def Cce.allDone (c : Cce) (j : Job) : Bool := (j.rows + 127) / 128 ≤ c.tilei || j.cols = 0

/-- The next tile after one is committed (R359). -/
def Cce.nextTile (c : Cce) (j : Job) : Cce :=
  if c.tilej + 1 < (j.cols + 127) / 128 then { c with tilej := c.tilej + 1 } else { c with tilei := c.tilei + 1, tilej := 0 }

/-- The row and column pairs of the current tile. -/
def Cce.tilePlaces (c : Cce) (j : Job) : List (Nat × Nat) :=
  (List.range (min 128 (j.rows - 128 * c.tilei))).flatMap (fun r =>
    (List.range (min 128 (j.cols - 128 * c.tilej))).map (fun x => (128 * c.tilei + r, 128 * c.tilej + x)))

/-- All 24 MAC tiles of a cluster are retired (R362). -/
def State.noTiles (s : State) (cl : Nat) : Bool := (s.engineState (72 + cl)).retiredTiles &&& 0xFFFFFF == 0xFFFFFF

/-- Commit elements of a boundary step's tile to Accumulator Memory and move to the next tile; their flags (R359, R363). -/
def State.commitTile (s : State) (ctx cl : Nat) (vals : List (Nat × Word × Flags)) : State :=
  let s1 := s.raiseCce ctx cl (vals.foldl (fun f v => f ||| v.2.2) 0)
  s1.modCce ctx cl (fun c => match c.job with
    | none => c
    | some j =>
      let j1 := { j with acc := vals.foldl (fun m v => SMap.put m v.1 v.2.1) j.acc }
      { c.nextTile j1 with job := some j1 })

/-- A tile whose results are in memory is committed. -/
def State.commitMemory (s : State) (ctx cl : Nat) (f : Flags) : State :=
  (s.raiseCce ctx cl f).modCce ctx cl (fun c => match c.job with
    | none => c
    | some j => c.nextTile j)

/-- Begin a step: its bytes, its result's shape, and, from a tile other than the first, the elements committed before (R360). -/
def Cce.beginJob (c : Cce) (bytes : List Byte) (result : Boundary) (rows cols : Nat) : Cce :=
  let acc := if c.tilei = 0 ∧ c.tilej = 0 then [] else (c.job.map Job.acc).getD []
  { c with job := some { bytes := bytes, stopped := false, result := result, rows := rows, cols := cols, acc := acc } }

/-- A step is complete: its boundary replaces the old one, the next step is the engine's (R354, R345). -/
def Cce.endStep (c : Cce) (j : Job) (batch : Nat) : Cce :=
  let b : Boundary :=
    if j.result.kind = .none then c.bnd
    else { j.result with data := (List.range (j.rows * j.cols)).map (fun i => j.acc.get (Config.freeWord i) i) }
  { c with bnd := b, batchn := batch, step := c.step + 1, tilei := 0, tilej := 0, job := none }

end Sys2Proof.Machine
end

