-- ==== Sys2Proof/Machine/Steps.lean ====
section
/-! DEFINITION. The steps of a contraction program, CXDENSE and the runs of the MAC tiles (12 R350 to R362). -/

namespace Sys2Proof.Machine

/-- Go on with a step's result. -/
def Step.andThen {α β : Type} (x : Step α) (f : State → α → Step β) : Step β :=
  match x with
  | (s, .ok a) => f s a
  | (s, .error e) => (s, .error e)

/-- A step that stops. -/
def Step.stop {α : Type} (s : State) (c : Cause) : Step α := (s, .error (.fault c 0))

/-! ### Tiles of values -/

/-- The rows of the current tile. -/
def Cce.tileRows (c : Cce) (j : Job) : List Nat := (List.range (min 128 (j.rows - 128 * c.tilei))).map (128 * c.tilei + ·)
/-- The columns of the current tile. -/
def Cce.tileCols (c : Cce) (j : Job) : List Nat := (List.range (min 128 (j.cols - 128 * c.tilej))).map (128 * c.tilej + ·)

/-- One value for every place of the tile, numbered in the flattened result. -/
def Cce.tileValues (c : Cce) (j : Job) (f : Nat → Nat → Word × Flags) : List (Nat × Word × Flags) :=
  (c.tilePlaces j).map (fun p => (p.1 * j.cols + p.2, f p.1 p.2))

/-- The memory of boundary rows: the bytes of flattened element i, in rows that lie stride apart (R351). -/
def rowAddr (base stride per w i : Nat) : Nat := base + i / per * stride + i % per * w

/-- Read runs of elements of a plain tag. -/
def State.readRuns (s : State) (ctx : Nat) (e : QEntry) (tol fmt : Nat) : List (Nat × Nat) → List XR → Step (List XR)
  | [], got => (s, .ok got)
  | (a, n) :: rest, got =>
    (s.engineRead ctx e tol a (n * elemBytes fmt)).andThen (fun s1 bs =>
      State.readRuns s1 ctx e tol fmt rest (got ++ (List.range n).map (elementValue fmt bs)))

/-- Write several ranges after all of them have been checked. -/
def State.engineWriteAll (s : State) (ctx qi : Nat) (e : QEntry) (rs : List (Nat × List Byte)) : Step Unit :=
  (s.checkPieces ctx e (rs.flatMap (fun r => piecesOf r.1 r.2.length)) []).andThen (fun s1 ps =>
    let (s2, ts) := s1.putPieces e ps (rs.flatMap Prod.snd) []
    (if ts.isEmpty then s2 else s2.modHead ctx qi (fun e => { e with waits := e.waits ++ ts }), .ok ()))

/-- Add the prior value where ACC asks for it (R352, R357, R358). -/
def addPrior (acc : Bool) (prior : XR) (x : Word × Flags) : Word × Flags :=
  if acc then
    let (y, f) := sumF32 .rne false [prior, f32 x.1]
    (y, x.2 ||| f)
  else x

/-- Commit a tile of values to memory: runs of elements with the addresses they go to, the prior values read exactly. -/
def State.storeRuns (s : State) (ctx qi cl : Nat) (e : QEntry) (fmt : Nat) (acc sat : Bool) (runs : List (Nat × List (Word × Flags))) :
    Step Unit :=
  let places := runs.map (fun r => (r.1, r.2.length))
  (if acc then s.readRuns ctx e 31 fmt places [] else (s, .ok [])).andThen (fun s1 prior =>
    let xs := runs.flatMap Prod.snd
    let out := (xs.zipIdx).map (fun x =>
      let y := addPrior acc (prior.getD x.2 .nan) x.1
      let (bs, f) := storeElem fmt sat (f32 y.1)
      (bs, y.2 ||| f))
    let starts := places.foldl (fun (r : Nat × List (Nat × List Byte)) p =>
      (r.1 + p.2, r.2 ++ [(p.1, ((out.drop r.1).take p.2).flatMap Prod.fst)])) (0, [])
    (s1.engineWriteAll ctx qi e starts.2).andThen (fun s2 _ =>
      (s2.commitMemory ctx cl (out.foldl (fun f o => f ||| o.2) 0), .ok ())))

/-! ### CONTRACT (R353) -/

/-- Sizes of a contraction: contracted mode, other mode, contracted bond, new bond, other remaining modes, produced modes. -/
structure Shape where
  m : Nat
  j : Nat
  chb : Nat
  chn : Nat
  rest : List (Nat × Nat)
  prod : Nat
  deriving DecidableEq, Repr

def Cce.shape (c : Cce) (st : PStep) : Shape :=
  { m := c.remMode st.tr st.k, j := c.prodMode st.tr st.k,
    chb := c.bondAt (if st.dir then st.k + 1 else st.k), chn := c.bondAt (if st.dir then st.k else st.k + 1),
    rest := c.bnd.remaining.filter (fun p => p.1 != st.k), prod := sizeOf' c.bnd.produced }

/-- The terms of the new element at a row and a column, in the order of κ. -/
def Cce.contractTerms (c : Cce) (st : PStep) (d : CoreDesc) (g : Weights) (row col : Nat) : List (XR × Bool) :=
  let h := c.shape st
  let r2 := sizeOf' h.rest
  let b := row / r2
  let rr := row % r2
  let p := if st.dir then col / h.chn % h.prod else col / h.chn / h.j
  let jn := if st.dir then col / h.chn / h.prod else col / h.chn % h.j
  let ap := col % h.chn
  let groups := (d.column + 31) / 32
  (List.range (h.chb * h.m)).map (fun k =>
    let be := k / h.m
    let m := k % h.m
    let oldRow := if st.dir then (b * r2 + rr) * h.m + m else (b * h.m + m) * r2 + rr
    let x := c.bnd.at (oldRow * c.bnd.columns + (p * h.chb + be))
    let (al, ar) := if st.dir then (ap, be) else (be, ap)
    let (i, j) := if st.tr then (jn, m) else (m, jn)
    let (sc, at_) := d.place al i j ar
    chainTerm x (g.value d.column sc at_ (sc * groups + at_ / 32)))

/-- The checks of R353 that raise CHAIN_SHAPE. -/
def Cce.contractFits (c : Cce) (st : PStep) (cores : Nat) (d : CoreDesc) : Bool :=
  let ks := c.bnd.produced.map Prod.fst
  d.chil == c.bondAt st.k && d.chir == c.bondAt (st.k + 1) && d.i == c.inMode st.k && d.j == c.outMode st.k &&
  c.bnd.tr == st.tr &&
  (if st.dir then ks == (List.range cores).drop (st.k + 1) && c.bnd.bond == c.bondAt (st.k + 1)
   else ks == List.range st.k && c.bnd.bond == c.bondAt st.k) &&
  (if st.dir then c.bnd.remaining.getLast? else c.bnd.remaining.head?).map Prod.fst == some st.k

/-- The new boundary of a CONTRACT. -/
def Cce.contracted (c : Cce) (st : PStep) : Boundary :=
  let h := c.shape st
  { c.bnd with
    remaining := h.rest
    produced := if st.dir then (st.k, h.j) :: c.bnd.produced else c.bnd.produced ++ [(st.k, h.j)]
    bond := h.chn
    data := [] }

/-! ### What a step needs before its tiles -/

/-- What a step has read and checked: the bytes of its descriptor, its result, the rows and columns of its tiles, and its size for the
check of R354 (none where it has none). -/
structure Plan where
  desc : List Byte
  result : Boundary
  rows : Nat
  cols : Nat
  size : Option Nat
  deriving DecidableEq, Repr

/-- A plan whose tiles build a boundary. -/
def Plan.building (desc : List Byte) (b : Boundary) (fmt : Nat) : Plan :=
  { desc := desc, result := b, rows := b.rows, cols := b.columns, size := some (b.bytes fmt) }

/-- N[29:24], a plain tag of elements, below zeros; bits of N that no field of the step uses are not read (log entry 31). -/
def PStep.tag (st : PStep) : Nat := st.n / 2 ^ 24
def PStep.tagOk (st : PStep) : Bool := plainTag st.tag

/-- LOADB: the boundary it makes (R352). -/
def planLoadb (s : State) (e : QEntry) (c : Cce) (st : PStep) : Step Plan :=
  let n := c.extent.2
  let lo := st.n % 65536
  let ch := st.n / 65536 % 256
  let modes := (List.range e.cores).map (fun k => (k, c.remMode st.tr k))
  let make (b : Boundary) : Step Plan := (s, .ok (Plan.building [] b e.bfmt))
  if !st.tagOk then Step.stop s .engineCommand
  else if st.kind = 0 then
    make { Boundary.absent with kind := .chain, tr := st.tr, batch := n, remaining := modes, bond := 1 }
  else if st.kind = 1 then
    (if 1 ≤ lo then make { Boundary.absent with kind := .matrix, batch := n, cols := lo, width := 1 }
     else Step.stop s .engineCommand)
  else if st.kind = 2 then
    (if 1 ≤ lo ∧ 1 ≤ ch then make { Boundary.absent with kind := .image, batch := n, cols := ch, width := lo }
     else Step.stop s .engineCommand)
  else Step.stop s .engineCommand

/-- Read a descriptor of n bytes, aligned to n. -/
def State.readDesc (s : State) (ctx : Nat) (e : QEntry) (tol a n : Nat) : Step (List Byte) :=
  if a % n ≠ 0 then Step.stop s .engineCommand else s.engineRead ctx e tol a n

/-- CONTRACT (R353). -/
def planContract (s : State) (ctx : Nat) (e : QEntry) (c : Cce) (st : PStep) : Step Plan :=
  if c.bnd.kind ≠ .chain ∨ e.cores ≤ st.k then Step.stop s .engineCommand
  else (s.readDesc ctx e st.tol st.addr 64).andThen (fun s1 bs =>
    (s1.coreFrom ctx e false bs).andThen (fun s2 d =>
      if c.contractFits st e.cores d then (s2, .ok (Plan.building bs (c.contracted st) e.bfmt)) else Step.stop s2 .chainShape))

/-- DENSE (R352, R357). -/
def planDense (s : State) (ctx : Nat) (e : QEntry) (c : Cce) (st : PStep) : Step Plan :=
  if c.bnd.kind = .none then Step.stop s .engineCommand
  else (s.readDesc ctx e st.tol st.addr 64).andThen (fun s1 bs =>
    match parseDense true bs with
    | none => Step.stop s1 .engineCommand
    | some d =>
      if d.m ≠ c.bnd.rows ∨ d.k ≠ c.bnd.columns then Step.stop s1 .chainShape
      else
        let b : Boundary := { Boundary.absent with kind := .matrix, batch := c.bnd.batch, cols := d.n, width := c.bnd.rowsPer }
        (s1, .ok (Plan.building bs b e.bfmt)))

/-- CONV3 (R355); not inside a SPLIT. -/
def planConv3 (s : State) (e : QEntry) (c : Cce) (st : PStep) : Step Plan :=
  let cout := st.n % 65536
  if c.bnd.kind = .image ∧ c.splitStep.isNone ∧ 1 ≤ cout ∧ cout ≤ 256 ∧ (st.tag = 2 ∨ st.tag = 3) then
    (s, .ok (Plan.building [] { c.bnd with cols := cout, data := [] } e.bfmt))
  else Step.stop s .engineCommand

/-- UPS2 (R355); not inside a SPLIT. -/
def planUps2 (s : State) (e : QEntry) (c : Cce) (st : PStep) : Step Plan :=
  if c.bnd.kind = .image ∧ c.splitStep.isNone ∧ st.k ≤ 1 ∧ 2 * c.bnd.batch ≤ 65536 then
    (s, .ok (Plan.building [] { c.bnd with batch := 2 * c.bnd.batch, width := 2 * c.bnd.width, data := [] } e.bfmt))
  else Step.stop s .engineCommand

/-- ACT: any boundary; it has no size check (R352). -/
def planAct (s : State) (c : Cce) (st : PStep) : Step Plan :=
  if c.bnd.kind ≠ .none ∧ st.k ≤ 5 then
    let b := { c.bnd with data := [] }
    (s, .ok { desc := [], result := b, rows := b.rows, cols := b.columns, size := none })
  else Step.stop s .engineCommand

/-- PERM: a chain with no remaining mode or a matrix; not inside a SPLIT; every index below the old row count (R352). -/
def planPerm (s : State) (ctx : Nat) (e : QEntry) (c : Cce) (st : PStep) : Step Plan :=
  let shaped := c.bnd.kind = .matrix ∨ (c.bnd.kind = .chain ∧ c.bnd.remaining = [])
  if shaped ∧ c.splitStep.isNone ∧ 1 ≤ st.n ∧ st.n ≤ 65536 ∧ st.addr % 4 = 0 then
    (s.engineRead ctx e st.tol st.addr (4 * st.n)).andThen (fun s1 bs =>
      if (wordsOf st.n bs).any (fun x => c.bnd.rows ≤ x) then Step.stop s1 .engineCommand
      else
        let b : Boundary := { c.bnd with batch := st.n, width := 1, data := [] }
        (s1, .ok (Plan.building bs b e.bfmt)))
  else Step.stop s .engineCommand

/-- STOREB: any boundary; it makes none (R352). -/
def planStoreb (s : State) (c : Cce) (st : PStep) : Step Plan :=
  if c.bnd.kind ≠ .none ∧ st.tagOk then
    (s, .ok { desc := [], result := Boundary.absent, rows := c.bnd.rows, cols := c.bnd.columns, size := none })
  else Step.stop s .engineCommand

/-- ER's address, the gradient descriptor's address and ER's tag; none where the ENV descriptor breaks R358. -/
def parseEnv (bs : List Byte) : Option (Nat × Nat × Nat) :=
  let f (o n : Nat) : Nat := ofBytes ((bs.drop o).take n)
  if plainTag (f 16 1) && (bs.drop 17).all (fun b => b == 0) then some (f 0 8, f 8 8, f 16 1) else none

/-- ENV (R358). -/
def planEnv (s : State) (ctx : Nat) (e : QEntry) (c : Cce) (st : PStep) : Step Plan :=
  if c.bnd.kind ≠ .chain ∨ e.cores ≤ st.k then Step.stop s .engineCommand
  else (s.readDesc ctx e st.tol st.addr 32).andThen (fun s1 bs =>
    match parseEnv bs with
    | none => Step.stop s1 .engineCommand
    | some (_, ga, _) =>
      (s1.readDesc ctx e st.tol ga 64).andThen (fun s2 gs =>
        (s2.coreFrom ctx e true gs).andThen (fun s3 d =>
          let k := st.k
          let shaped := d.chil == c.bondAt k && d.chir == c.bondAt (k + 1) && d.i == c.inMode k && d.j == c.outMode k
          let left := !c.bnd.tr && c.bnd.produced.map Prod.fst == List.range k && c.bnd.bond == c.bondAt k &&
            c.bnd.remaining.map Prod.fst == (List.range e.cores).drop k
          if shaped && left then
            (s3, .ok { desc := bs ++ gs, result := Boundary.absent, rows := d.chil * d.i, cols := d.j * d.chir,
                       size := some (d.chil * d.i * d.j * d.chir * 4) })
          else Step.stop s3 .chainShape)))

/-- The plan of a step that has tiles. -/
def planStep (s : State) (ctx : Nat) (e : QEntry) (c : Cce) (st : PStep) : Step Plan :=
  if st.code = 1 then planLoadb s e c st
  else if st.code = 2 then planContract s ctx e c st
  else if st.code = 3 then planDense s ctx e c st
  else if st.code = 4 then planConv3 s e c st
  else if st.code = 5 then planUps2 s e c st
  else if st.code = 6 then planAct s c st
  else if st.code = 7 then planPerm s ctx e c st
  else if st.code = 8 then planStoreb s c st
  else planEnv s ctx e c st

/-! ### One tile of each step -/

/-- LOADB's tile: read and rounded to BFMT (R352). -/
def tileLoadb (s : State) (ctx cl : Nat) (e : QEntry) (c : Cce) (j : Job) (st : PStep) : Step Unit :=
  let per := j.result.rowsPer * j.cols
  let base := st.addr + c.extent.1 * e.xstride
  let w := elemBytes st.tag
  let cols := c.tileCols j
  let runs := (c.tileRows j).map (fun r => (rowAddr base e.xstride per w (r * j.cols + cols.headD 0), cols.length))
  (s.readRuns ctx e st.tol st.tag runs []).andThen (fun s1 xs =>
    let vals := ((c.tilePlaces j).zip xs).map (fun p => (p.1.1 * j.cols + p.1.2, toBoundary e.bfmt p.2))
    (s1.commitTile ctx cl vals, .ok ()))

/-- CONTRACT's tile (R353). -/
def tileContract (s : State) (ctx cl : Nat) (e : QEntry) (c : Cce) (j : Job) (st : PStep) : Step Unit :=
  match parseCore false (j.bytes.drop 16) with
  | none => Step.stop s .engineCommand
  | some d =>
    let inner := d.order = (if st.dir then 1 else 0) + (if st.tr then 2 else 0)
    (s.readWeights ctx e st.tol d.fmt d.data d.dataBytes d.scales d.columns d.zmap (d.columns * ((d.column + 31) / 32))
      inner).andThen (fun s1 g =>
      let vals := c.tileValues j (fun r x =>
        let (y, f) := chainSum (c.contractTerms st d g r x)
        let (v, f2) := toBoundary e.bfmt (f32 y)
        (v, f ||| f2))
      (s1.commitTile ctx cl vals, .ok ()))

/-- The product of a row of A with column n of B (02 R78; R357). -/
def DenseDesc.product (d : DenseDesc) (b : Weights) (a : Nat → XR) (n : Nat) : Word × Flags :=
  chainSum ((List.range d.k).map (fun k =>
    let g := b.value d.stride n k (n * ((d.k + 31) / 32) + k / 32)
    let (p, bad) := (a k).mul g.1
    (p, bad || g.2)))

/-- DENSE's tile (R352, R357). -/
def tileDense (s : State) (ctx cl : Nat) (e : QEntry) (c : Cce) (j : Job) : Step Unit :=
  match parseDense true (j.bytes.drop 16) with
  | none => Step.stop s .engineCommand
  | some d =>
    (s.readB ctx e d).andThen (fun s1 b =>
      let vals := c.tileValues j (fun r x =>
        let (y, f) := d.product b (fun k => f32 (c.bnd.at (r * d.k + k))) x
        let (v, f2) := toBoundary e.bfmt (f32 y)
        (v, f ||| f2))
      (s1.commitTile ctx cl vals, .ok ()))

/-- CONV3's tile: pixels outside the image contribute +0 (R355). -/
def tileConv3 (s : State) (ctx cl : Nat) (e : QEntry) (c : Cce) (j : Job) (st : PStep) : Step Unit :=
  let ch := c.bnd.cols
  let span := (18 * ch + 15) / 16 * 16
  (s.engineRead ctx e st.tol st.addr (span * j.cols)).andThen (fun s1 bs =>
    let term (y x o k : Nat) : XR × Bool :=
      let py := y + k / ch / 3
      let px := x + k / ch % 3
      if 1 ≤ py ∧ py ≤ c.bnd.batch ∧ 1 ≤ px ∧ px ≤ c.bnd.width then
        chainTerm (c.bnd.at (((py - 1) * c.bnd.width + (px - 1)) * ch + k % ch)) (elementValue st.tag bs (span / 2 * o + k), false)
      else (.fin false 0 0, false)
    let vals := c.tileValues j (fun r o =>
      let (v, f) := chainSum ((List.range (9 * ch)).map (term (r / c.bnd.width) (r % c.bnd.width) o))
      let (v2, f2) := toBoundary e.bfmt (f32 v)
      (v2, f ||| f2))
    (s1.commitTile ctx cl vals, .ok ()))

/-- UPS2's element (R355). -/
def upsValue (fmt k : Nat) (b : Boundary) (row ch : Nat) : Word × Flags :=
  let width := 2 * b.width
  let y := row / width
  let x := row % width
  let px (y x : Nat) : Word := b.at ((y * b.width + x) * b.cols + ch)
  let side (n len : Nat) : Nat := if n % 2 = 1 then min (n / 2 + 1) (len - 1) else n / 2 - 1
  let y0 := y / 2
  let x0 := x / 2
  let y1 := side y b.batch
  let x1 := side x b.width
  if k = 0 then (px y0 x0, 0)
  else
    let part (n : Nat) (w : Word) : XR := ((f32 w).mul (.fin false n (-4))).1
    let (t, bad) := exactSum .rne [part 9 (px y0 x0), part 3 (px y0 x1), part 3 (px y1 x0), part 1 (px y1 x1)]
    let (v, f) := toBoundary fmt t
    (v, f ||| Flags.when bad .invalid)

/-- PERM's tile: its indices were read and checked when the step began (R352). -/
def tilePerm (s : State) (ctx cl : Nat) (c : Cce) (j : Job) : State :=
  let index (r : Nat) : Nat := ofBytes ((j.bytes.drop (16 + 4 * r)).take 4)
  s.commitTile ctx cl (c.tileValues j (fun r x => (c.bnd.at (index r * j.cols + x), 0)))

/-- STOREB's tile (R352). -/
def tileStoreb (s : State) (ctx qi cl : Nat) (e : QEntry) (c : Cce) (j : Job) (st : PStep) : Step Unit :=
  let per := c.bnd.rowsPer * j.cols
  let base := st.addr + c.extent.1 * e.ystride
  let cols := c.tileCols j
  let runs := (c.tileRows j).map (fun r =>
    (rowAddr base e.ystride per (elemBytes st.tag) (r * j.cols + cols.headD 0), cols.map (fun x => (c.bnd.at (r * j.cols + x), (0 : Flags)))))
  s.storeRuns ctx qi cl e st.tag st.acc st.sat runs

/-- Where the gradient element of a row (α, i) and a column (j, α') is stored (R348, R358). -/
def CoreDesc.gradAddr (d : CoreDesc) (row col : Nat) : Nat :=
  let (sc, at_) := d.place (row / d.i) (row % d.i) (col / d.chir) (col % d.chir)
  d.data + (sc * d.column + at_) * elemBytes d.fmt

/-- The places of ER's elements for one column (j, α'), in the order of κ (R358). -/
def envReads (c : Cce) (st : PStep) (d : CoreDesc) (er tag ystride col : Nat) : List (Nat × Nat) :=
  let p := sizeOf' c.bnd.produced
  let r := sizeOf' (c.bnd.remaining.filter (fun x => x.1 != st.k))
  let per := p * d.j * r * d.chir
  let base := er + c.extent.1 * ystride
  (List.range (c.bnd.batch * p * r)).map (fun k =>
    let b := k / r / p
    let inRow := (((k / r % p) * d.j + col / d.chir) * r + k % r) * d.chir + col % d.chir
    (rowAddr base ystride per (elemBytes tag) (b * per + inRow), 1))

/-- ER's elements for the columns of a tile. -/
def State.readEnv (s : State) (ctx : Nat) (e : QEntry) (c : Cce) (st : PStep) (d : CoreDesc) (er tag : Nat) :
    List Nat → List (List XR) → Step (List (List XR))
  | [], got => (s, .ok got)
  | col :: cols, got =>
    (s.readRuns ctx e st.tol tag (envReads c st d er tag e.ystride col) []).andThen (fun s1 xs =>
      State.readEnv s1 ctx e c st d er tag cols (got ++ [xs]))

/-- The gradient at (α, i) and a column's elements of ER (R358). -/
def envSum (c : Cce) (st : PStep) (d : CoreDesc) (row : Nat) (er : List XR) : Word × Flags :=
  let p := sizeOf' c.bnd.produced
  let r := sizeOf' (c.bnd.remaining.filter (fun x => x.1 != st.k))
  chainSum ((er.zipIdx).map (fun x =>
    let b := x.2 / r / p
    let el := c.bnd.at (((b * d.i + row % d.i) * r + x.2 % r) * c.bnd.columns + (x.2 / r % p * d.chil + row / d.i))
    chainTerm el (x.1, false)))

/-- ENV's tile (R358). -/
def tileEnv (s : State) (ctx qi cl : Nat) (e : QEntry) (c : Cce) (j : Job) (st : PStep) : Step Unit :=
  match parseEnv ((j.bytes.drop 16).take 32), parseCore true (j.bytes.drop 48) with
  | some (er, _, tag), some d =>
    let cols := c.tileCols j
    (s.readEnv ctx e c st d er tag cols []).andThen (fun s1 xs =>
      let runs := (c.tilePlaces j).map (fun p => (d.gradAddr p.1 p.2, [envSum c st d p.1 (xs.getD (p.2 - cols.headD 0) [])]))
      s1.storeRuns ctx qi cl e d.fmt st.acc false runs)
  | _, _ => Step.stop s .engineCommand

/-- CXDENSE's tile (R357). -/
def tileCxdense (s : State) (ctx qi cl : Nat) (e : QEntry) (c : Cce) (j : Job) : Step Unit :=
  match parseDense false j.bytes with
  | none => Step.stop s .engineCommand
  | some d =>
    let tol := d.flags % 32
    let rows := c.tileRows j
    let cols := c.tileCols j
    (s.readB ctx e d).andThen (fun s1 b =>
      (s1.readRuns ctx e tol d.afmt (rows.map (fun r => (d.a + r * d.astr, d.k))) []).andThen (fun s2 xs =>
        let runs := rows.map (fun r =>
          (d.c + r * d.cstr + cols.headD 0 * elemBytes d.cfmt,
            cols.map (fun n => d.product b (fun k => xs.getD ((r - rows.headD 0) * d.k + k) .nan) n)))
        s2.storeRuns ctx qi cl e d.cfmt (d.flags / 32 % 2 == 1) (d.flags / 64 == 1) runs))

/-- One tile of the step or the CXDENSE under way, computed and committed (R359). -/
def State.tileOnce (s : State) (ctx qi cl : Nat) (e : QEntry) (c : Cce) (j : Job) : Step Unit :=
  let st := stepOf j.bytes
  if e.sub = 17 then tileCxdense s ctx qi cl e c j
  else if st.code = 1 then tileLoadb s ctx cl e c j st
  else if st.code = 2 then tileContract s ctx cl e c j st
  else if st.code = 3 then tileDense s ctx cl e c j
  else if st.code = 4 then tileConv3 s ctx cl e c j st
  else if st.code = 5 then (s.commitTile ctx cl (c.tileValues j (upsValue e.bfmt st.k c.bnd)), .ok ())
  else if st.code = 6 then
    (s.commitTile ctx cl (c.tileValues j (fun r x =>
      let (y, f) := actFn st.k (c.bnd.at (r * j.cols + x))
      let (v, f2) := toBoundary e.bfmt (f32 y)
      (v, f ||| f2))), .ok ())
  else if st.code = 7 then (tilePerm s ctx cl c j, .ok ())
  else if st.code = 8 then tileStoreb s ctx qi cl e c j st
  else tileEnv s ctx qi cl e c j st

/-! ### Running tiles -/

/-- The step under way or the CXDENSE is complete (R345, R352, R354). -/
def State.finishJob (s : State) (ctx qi cl : Nat) (e : QEntry) (j : Job) : State :=
  if e.sub = 17 then (s.modCce ctx cl (fun c => { c with tilei := 0, tilej := 0, job := none })).setFinished ctx qi
  else
    let code := (stepOf j.bytes).code
    s.modCce ctx cl (fun c => c.endStep j (if code = 5 ∨ code = 7 then j.result.batch else c.batchn))

/-- Compute and commit up to n tiles; with the last one the step is complete (R359). While every MAC tile is retired no tile is
computed (R362). -/
def State.runTiles : Nat → State → Nat → Nat → Nat → QEntry → State
  | 0, s, _, _, _, _ => s
  | n + 1, s, ctx, qi, cl, e =>
    let c := s.cceOf ctx cl
    match c.job with
    | none => s
    | some j =>
      if j.stopped then s
      else if c.allDone j then s.finishJob ctx qi cl e j
      else if s.noTiles cl then s.cceFault ctx qi cl .computeCheck 0
      else match s.tileOnce ctx qi cl e c j with
        | (s1, .error x) => s1.cceStop ctx qi cl x
        | (s1, .ok _) =>
          let c1 := s1.cceOf ctx cl
          match c1.job with
          | none => s1
          | some j1 => if c1.allDone j1 then s1.finishJob ctx qi cl e j1 else State.runTiles n s1 ctx qi cl e

/-- The command that a cluster's CCE performs for a context, with its queue. -/
def State.cceCommand (s : State) (ctx cl : Nat) : Option (Nat × QEntry) :=
  match (s.engineState (72 + cl)).serving with
  | some (c, qi) => if c = ctx then (s.inService ctx qi).map (fun e => (qi, e)) else none
  | none => none

/-- The steps whose tiles the MAC tiles compute, one MAC_RUN a tile. -/
def macStep (code : Nat) : Bool := code == 2 || code == 3 || code == 4 || code == 11

/-- An uncorrectable error lies in what the engine holds of the context: Boundary Buffer or Accumulator Memory (14 R401). -/
def State.engineSpoiled (s : State) (ctx cl : Nat) : Bool := s.spoiled.contains (.engineMemory ctx cl)

/-- Begin a step from its plan: the size check comes last (R352, R354). -/
def State.beginStep (s : State) (ctx qi cl : Nat) (c : Cce) (e : QEntry) (st : PStep) (bs : List Byte) : State :=
  match planStep s ctx e c st with
  | (s1, .error x) => s1.cceStop ctx qi cl x
  | (s1, .ok p) =>
    let big : Bool := match p.size with
      | some n => c.overflows e.bfmt n (st.code == 11)
      | none => false
    if big then (s1.modCce ctx cl (fun c => { c with tilei := 0, tilej := 0 })).cceFault ctx qi cl .boundaryOverflow 0
    else
      let s2 := s1.modCce ctx cl (fun c => c.beginJob (bs ++ p.desc) p.result p.rows p.cols)
      if macStep st.code then
        (match (s2.cceOf ctx cl).job with
        | some j => if (s2.cceOf ctx cl).allDone j then s2.finishJob ctx qi cl e j else s2
        | none => s2)
      else s2.runTiles (p.rows * p.cols + 1) ctx qi cl e

/-- SPLIT (R356); it is complete at once, and no tile is committed (R345). -/
def State.splitBegin (s : State) (ctx qi cl : Nat) (st : PStep) : State :=
  let c := s.cceOf ctx cl
  if c.splitStep.isSome ∨ st.n = 0 ∨ 65536 < st.n then s.cceFault ctx qi cl .engineCommand 0
  else s.modCce ctx cl (fun c =>
    let parent := if c.bnd.kind = .none then none else some c.bnd
    { c with
      part := 0
      parent := parent
      splitStep := some c.step
      partSize := st.n
      bnd := (parent.map (fun p => p.slice 0 (min st.n c.batchn))).getD Boundary.absent
      step := c.step + 1
      tilei := 0
      tilej := 0 })

/-- ENDSPLIT (R356). -/
def State.splitNext (s : State) (ctx qi cl : Nat) : State :=
  let c := s.cceOf ctx cl
  match c.splitStep with
  | none => s.cceFault ctx qi cl .engineCommand 0
  | some at_ =>
    s.modCce ctx cl (fun c0 =>
      let c := { c0 with tilei := 0, tilej := 0 }
      let b0 := (c.part + 1) * c.partSize
      if b0 < c.batchn then
        let c1 := { c with part := c.part + 1, step := at_ + 1 }
        { c1 with bnd := (c.parent.map (fun p => p.slice b0 c1.extent.2)).getD Boundary.absent }
      else { c with part := 0, parent := none, splitStep := none, partSize := 0, bnd := Boundary.absent, step := c.step + 1 })

/-- One event of a step code: the step begins, or a step whose tiles waited for a line goes on. The engine reads the step when it begins
it; a step that breaks R350 stops the command whichever step was expected. -/
def State.stepEvent (s : State) (ctx cl code : Nat) : State :=
  match s.cceCommand ctx cl with
  | none => s
  | some (qi, e) =>
    let c := s.cceOf ctx cl
    let active := match c.job with
      | some j => if j.stopped then none else some j
      | none => none
    if e.sub ≠ 14 ∨ e.held = [] then s
    else if s.engineSpoiled ctx cl then s.cceFault ctx qi cl .eccUncorrectable (2 ^ 64 - 1)
    else match active with
      | some j =>
        if (stepOf j.bytes).code = code ∧ macStep code = false then s.runTiles (j.rows * j.cols + 1) ctx qi cl e else s
      | none =>
        if e.nsteps ≤ c.step then s.cceFault ctx qi cl .engineCommand 0
        else match s.engineRead ctx e 31 (c.prog.toNat + 64 + 16 * c.step) 16 with
          | (s1, .error x) => s1.cceStop ctx qi cl x
          | (s1, .ok bs) =>
            let st := stepOf bs
            if !stepOk bs then s1.cceFault ctx qi cl .engineCommand 0
            else if st.code ≠ code then s
            else if code = 9 then s1.splitBegin ctx qi cl st
            else if code = 10 then s1.splitNext ctx qi cl
            else if code = 15 then (s1.modCce ctx cl (fun c => { c with tilei := 0, tilej := 0 })).setFinished ctx qi
            else s1.beginStep ctx qi cl c e st bs

/-- LOADB. -/
def evLoadb (ctx cl : Nat) (s : State) : State := s.stepEvent ctx cl 1
def execLoadb (ctx cl : Nat) : State → Host.Outcome State Fault Refusal := event (evLoadb ctx cl)
/-- CONTRACT: it begins; MAC_RUN computes its tiles (R353, R359). -/
def evContract (ctx cl : Nat) (s : State) : State := s.stepEvent ctx cl 2
def execContract (ctx cl : Nat) : State → Host.Outcome State Fault Refusal := event (evContract ctx cl)
/-- DENSE. -/
def evDense (ctx cl : Nat) (s : State) : State := s.stepEvent ctx cl 3
def execDense (ctx cl : Nat) : State → Host.Outcome State Fault Refusal := event (evDense ctx cl)
/-- CONV3. -/
def evConv3 (ctx cl : Nat) (s : State) : State := s.stepEvent ctx cl 4
def execConv3 (ctx cl : Nat) : State → Host.Outcome State Fault Refusal := event (evConv3 ctx cl)
/-- UPS2. -/
def evUps2 (ctx cl : Nat) (s : State) : State := s.stepEvent ctx cl 5
def execUps2 (ctx cl : Nat) : State → Host.Outcome State Fault Refusal := event (evUps2 ctx cl)
/-- ACT. -/
def evAct (ctx cl : Nat) (s : State) : State := s.stepEvent ctx cl 6
def execAct (ctx cl : Nat) : State → Host.Outcome State Fault Refusal := event (evAct ctx cl)
/-- PERM. -/
def evPerm (ctx cl : Nat) (s : State) : State := s.stepEvent ctx cl 7
def execPerm (ctx cl : Nat) : State → Host.Outcome State Fault Refusal := event (evPerm ctx cl)
/-- STOREB. -/
def evStoreb (ctx cl : Nat) (s : State) : State := s.stepEvent ctx cl 8
def execStoreb (ctx cl : Nat) : State → Host.Outcome State Fault Refusal := event (evStoreb ctx cl)
/-- SPLIT (R356). -/
def evSplitParts (ctx cl : Nat) (s : State) : State := s.stepEvent ctx cl 9
def execSplitParts (ctx cl : Nat) : State → Host.Outcome State Fault Refusal := event (evSplitParts ctx cl)
/-- ENDSPLIT (R356). -/
def evEndSplit (ctx cl : Nat) (s : State) : State := s.stepEvent ctx cl 10
def execEndSplit (ctx cl : Nat) : State → Host.Outcome State Fault Refusal := event (evEndSplit ctx cl)
/-- ENV (R358). -/
def evEnv (ctx cl : Nat) (s : State) : State := s.stepEvent ctx cl 11
def execEnv (ctx cl : Nat) : State → Host.Outcome State Fault Refusal := event (evEnv ctx cl)
/-- END: the command completes, the boundary is kept (R352). -/
def evEndProg (ctx cl : Nat) (s : State) : State := s.stepEvent ctx cl 15
def execEndProg (ctx cl : Nat) : State → Host.Outcome State Fault Refusal := event (evEndProg ctx cl)

/-! ### MAC_RUN (R359, R362) -/

/-- CXDENSE reads its descriptor when it begins or goes on after a stop (R357). -/
def State.beginDense (s : State) (ctx qi cl : Nat) (e : QEntry) : State :=
  match s.engineRead ctx e 31 (ba e.block 0) 64 with
  | (s1, .error x) => s1.cceStop ctx qi cl x
  | (s1, .ok bs) =>
    match parseDense false bs with
    | none => s1.cceFault ctx qi cl .engineCommand 0
    | some d => s1.modCce ctx cl (fun c => c.beginJob bs Boundary.absent d.m d.n)

/-- A job is under way. -/
def Cce.busy (c : Cce) : Bool :=
  match c.job with
  | some j => !j.stopped
  | none => false

/-- MAC_RUN: a MAC tile in service computes the current tile; checksums that disagree twice retire it (R362). -/
def evMacRun (ctx cl mism tile : Nat) (s : State) : State :=
  match s.cceCommand ctx cl with
  | none => s
  | some (qi, e) =>
    let en := s.engineState (72 + cl)
    let s1 := if e.sub = 17 ∧ (s.cceOf ctx cl).busy = false then s.beginDense ctx qi cl e else s
    let c := s1.cceOf ctx cl
    match c.job with
    | none => s1
    | some j =>
      if j.stopped ∨ (e.sub ≠ 17 ∧ macStep (stepOf j.bytes).code = false) then s1
      else if s1.engineSpoiled ctx cl then s1.cceFault ctx qi cl .eccUncorrectable (2 ^ 64 - 1)
      else if s1.noTiles cl then s1.cceFault ctx qi cl .computeCheck 0
      else if 24 ≤ tile ∨ en.retiredTiles.getLsbD tile then s1
      else if 2 ≤ mism then
        (s1.setEngine (72 + cl) { en with retiredTiles := en.retiredTiles ||| BitVec.ofNat 32 (2 ^ tile) }).cceFault ctx qi cl .computeCheck 0
      else s1.runTiles 1 ctx qi cl e
def execMacRun (ctx cl mism tile : Nat) : State → Host.Outcome State Fault Refusal := event (evMacRun ctx cl mism tile)

/-! ### What a cancelled command leaves undefined (R207, R360) -/

/-- The rows of tiles that are not committed, each with its first such column. -/
def Cce.restRows (c : Cce) (j : Job) : List (Nat × Nat) :=
  ((List.range j.rows).drop (128 * c.tilei)).map (fun r => (r, if r / 128 = c.tilei then 128 * c.tilej else 0))

/-- The destination ranges in memory of a step or CXDENSE beyond its committed tiles. -/
def Cce.restRanges (c : Cce) (e : QEntry) (j : Job) : List (Nat × Nat) :=
  let st := stepOf j.bytes
  if e.sub = 17 then
    match parseDense false j.bytes with
    | some d =>
      let w := elemBytes d.cfmt
      (c.restRows j).map (fun r => (d.c + r.1 * d.cstr + r.2 * w, (j.cols - r.2) * w))
    | none => []
  else if st.code = 8 then
    let w := elemBytes st.tag
    let base := st.addr + c.extent.1 * e.ystride
    (c.restRows j).map (fun r => (rowAddr base e.ystride (c.bnd.rowsPer * j.cols) w (r.1 * j.cols + r.2), (j.cols - r.2) * w))
  else if st.code = 11 then
    match parseCore true (j.bytes.drop 48) with
    | some d =>
      (c.restRows j).flatMap (fun r => ((List.range j.cols).drop r.2).map (fun x => (d.gradAddr r.1 x, elemBytes d.fmt)))
    | none => []
  else []

end Sys2Proof.Machine
end

