-- ==== Sys2Proof/Machine/Service.lean ====
section
/-! DEFINITION. Which command an engine performs, its start, its completion and its cancellation (06 R176; 07 R204, R206, R207, R216 to
R223; 10 R316; 12 R360). -/

namespace Sys2Proof.Machine

/-! ### Choice (10 R316; 07 R218) -/

/-- The place of a context in the rotation that follows the one last served (10 R316). -/
def turnOf (last ctx : Nat) : Nat := (ctx + 4095 - last % 4096) % 4096

/-- The commands an engine may take next: highest priority; of these a pre-empted one, else the next context's in turn (10 R316). -/
def State.bestCommands (s : State) (en : Nat) : List (Nat × Nat × QEntry) :=
  let all := s.readyCommands en
  let top := all.filter (fun x => all.all (fun y => y.2.2.prio ≤ x.2.2.prio))
  let begun := top.filter (fun x => x.2.2.state == 1)
  if begun.isEmpty then
    let last := (s.engineState en).lastCtx
    top.filter (fun x => top.all (fun y => turnOf last x.1 ≤ turnOf last y.1))
  else begun

/-- The engine is free for a command of a priority: it serves nothing, or something it pre-empts between two units (10 R316). -/
def State.engineFree (s : State) (en prio : Nat) : Bool :=
  match (s.engineState en).serving with
  | none => true
  | some (c, qi) =>
    match s.head c qi with
    | some e => e.state != 1 || (e.prio < prio && !e.finished && !e.midUnit)
    | none => true

/-! ### Beginning a command -/

/-- CXBOND sets its registers (R216). -/
def bondSet (b : List Word) (c : Cce) : Cce :=
  let i0 := nbits 0 4 (bw b 0)
  let set := nbits 9 2 (bw b 0)
  (List.range (nbits 4 5 (bw b 0))).foldl (fun c i =>
    if set = 0 then { c with chi := c.chi.set 1 (i0 + i) (bw b (1 + i)) }
    else if set = 1 then { c with modei := c.modei.set 1 (i0 + i) (bw b (1 + i)) }
    else { c with modej := c.modej.set 1 (i0 + i) (bw b (1 + i)) }) c

/-- CXFORK begins: PROG and STEP are set, the header is read and checked, RESUME keeps or clears what R217 and R360 say. None while
the header is on its way. -/
def State.forkBegin (s : State) (ctx qi cl : Nat) (e : QEntry) : Option State :=
  let first := nbits 0 6 (bw e.block 2)
  let resume := nbits 6 1 (bw e.block 2) = 1
  match s.engineRead ctx e 31 (ba e.block 0) 64 with
  | (_, .error .miss) => none
  | (s1, r) =>
    let s2 := s1.modCce ctx cl (fun c =>
      let c1 := { c with prog := BitVec.ofNat 64 (ba e.block 0), step := first }
      if resume then c1
      else
        { c1 with tilei := 0, tilej := 0, part := 0, splitStep := none, partSize := 0, parent := none, bnd := Boundary.absent, job := none })
    match r with
    | .error x => some (s2.cceStop ctx qi cl x)
    | .ok bs =>
      match parseProgram bs with
      | none => some (s2.cceFault ctx qi cl .engineCommand 0)
      | some held =>
        let batch := held.getD 3 0
        let c := s2.cceOf ctx cl
        let kept : Bool := decide (c.bnd.kind ≠ .none) || c.parent.isSome
        if resume ∧ kept ∧ batch ≠ c.batchn then some (s2.cceFault ctx qi cl .engineCommand 0)
        else
          let s3 := if resume ∧ kept then s2 else s2.modCce ctx cl (fun c => { c with batchn := batch })
          some (s3.modHead ctx qi (fun e => { e with held := held }))

/-- CXDENSE begins: TILEI and TILEJ are cleared; it needs 65,536 bytes of allotment (R345, R357). -/
def State.denseBegin (s : State) (ctx qi cl : Nat) : State :=
  let s1 := s.modCce ctx cl (fun c => { c with tilei := 0, tilej := 0, job := none })
  if (s1.cceOf ctx cl).bbcap < 65536 then s1.cceFault ctx qi cl .engineCommand 0
  else s1.modHead ctx qi (fun e => { e with held := [1] })

/-- A new command replaces what the engine held of the context, and an error in it. -/
def State.clearEngineError (s : State) (ctx cl : Nat) : State :=
  { s with spoiled := s.spoiled.filter (· != .engineMemory ctx cl) }

/-- What a command does when its engine takes it up; none while it cannot begin. -/
def State.beginCommand (s : State) (ctx qi : Nat) (e : QEntry) : Option State :=
  let cl := engineCluster (engineOf qi)
  if e.sub = 16 then some ((s.modCce ctx cl (bondSet e.block)).setFinished ctx qi)
  else if e.sub = 14 ∧ e.held = [] then (s.clearEngineError ctx cl).forkBegin ctx qi cl e
  else if e.sub = 17 ∧ e.held = [] then some ((s.clearEngineError ctx cl).denseBegin ctx qi cl)
  else some s

/-- QUEUED_COMMAND_START: the engine takes up a command, or goes on with one it pre-empted or that was resumed (R206; 10 R316). What it reads
of other devices their homes answer from then on: the own L2 keeps no older copy (08 R263). -/
def evQueuedCommandStart (ctx qi : Nat) (s : State) : State :=
  let en := engineOf qi
  match (s.bestCommands en).find? (fun x => x.1 == ctx && x.2.1 == qi) with
  | none => s
  | some (_, _, e) =>
    if qi < 320 ∧ s.engineFree en e.prio then
      let s1 := (s.modHead ctx qi (fun e => { e with state := 1 })).setEngine en
        { s.engineState en with serving := some (ctx, qi), lastCtx := ctx }
      let s2 := if en < 72 then s1 else s1.modCce ctx (en - 72) (fun c => { c with lastq := queueNumber qi })
      match s2.head ctx qi with
      | none => s
      | some e1 => match s2.beginCommand ctx qi e1 with
        | some s3 => s3.forgetLines (fun _ => true)
        | none => (s.engineRead ctx e 31 (ba e.block 0) 64).1
    else s
def execQueuedCommandStart (ctx q : Nat) : State → Host.Outcome State Fault Refusal := event (evQueuedCommandStart ctx q)

/-! ### Completion and cancellation -/

/-- No copy of a context names its row counter any more; where the context is switched out, its image says so (R211; 13 R381, R385). -/
def State.unnameCounter (s : State) (ctx cid n : Nat) : State :=
  let s1 := if (s.rowc cid n).owner = some ctx then s.setRowc cid n { s.rowc cid n with named := false } else s
  match s.ctxs.find? ctx with
  | some c =>
    let key := physKey s.did (c.image.toNat + 0x2000 + 8 * (16 * cid + n) + 4)
    if c.state = 0 then s1.setByte key (s1.byte key &&& 0xFD) else s1
  | none => s1

/-- A command leaves its queues with a final state; the counter of its wave falls; its row counter is free (R202, R206, R207, R211, R222). -/
def State.leaveQueues (s : State) (ctx : Nat) (e : QEntry) (code : Nat) : State :=
  let (q0, seq0) := e.tickets.headD (0, 0)
  let s1 := e.tickets.foldl (fun s t => s.modQueue ctx t.1 (fun q =>
    { q with entries := q.entries.filter (fun x => x.seq != t.2) }.remember t.2 code)) s
  let s2 := match copyCounter e.sub e.block with
    | some n => s1.unnameCounter ctx (q0 / 4) n
    | none => s1
  let c := queueCounter (queueNumber q0)
  let fall (w : Wave) : Wave :=
    if w.uid = e.uid then
      match List.find? (fun (o : Op) => o.kind == .command q0 seq0) (w.ops c) with
      | some o => w.opDone c o.uid
      | none => w
    else w
  let s3 := { s2 with
    waves := s2.waves.map (fun (p : Nat × Wave) => (p.1, fall p.2))
    away := s2.away.map (fun (p : Nat × Wave) => (p.1, fall p.2)) }
  if (s3.engineState (engineOf q0)).serving = some (ctx, q0) then s3.idleEngine (engineOf q0) else s3

/-- A QFENCE is at the head of every queue it entered (R220). -/
def State.fenceReady (s : State) (ctx : Nat) (e : QEntry) : Bool :=
  e.tickets.all (fun t => ((s.head ctx t.1).map QEntry.seq) == some t.2)

/-- QUEUED_COMMAND_COMPLETE: every write of the command is performed at device scope; the ticket takes state 2 (R206, R220; 08 R249). -/
def evQueuedCommandComplete (ctx qi : Nat) (s : State) : State :=
  let here : Bool := match s.ctxs.find? ctx with
    | some c => c.state == 1
    | none => false
  match s.head ctx qi with
  | none => s
  | some e =>
    if here = false then s
    else if e.sub = 18 then (if s.fenceReady ctx e then s.leaveQueues ctx e 2 else s)
    else if e.finished ∧ e.waits = [] ∧ s.invalidating = false then (s.countRows ctx qi).leaveQueues ctx e 2
    else s
def execQueuedCommandComplete (ctx q : Nat) : State → Host.Outcome State Fault Refusal := event (evQueuedCommandComplete ctx q)

/-- Cancel a command: from its recorded progress on the destination of a begun command is undefined, its ticket takes state 4 (R207). -/
def State.cancelCommand (s : State) (ctx qi : Nat) (e : QEntry) : State :=
  let en := engineOf qi
  let s1 :=
    if e.state = 0 then s
    else if e.sub < 8 then
      (let (s1, rs) := s.copyRest ctx e
       s1.spoilAll ctx e rs)
    else if e.sub < 14 then s.spoilAll ctx e (gateRest e)
    else if e.sub = 14 ∨ e.sub = 17 then
      (let c := s.cceOf ctx (en - 72)
       match c.job with
       | some j => s.spoilAll ctx e (if e.held = [] then [] else c.restRanges e j)
       | none => s)
    else s
  let s2 := if (e.sub = 14 ∨ e.sub = 17) ∧ e.held ≠ [] then
      s1.modCce ctx (en - 72) (fun c => { c with job := c.job.map (fun j => { j with stopped := true }) })
    else s1
  s2.leaveQueues ctx e 4

end Sys2Proof.Machine
end

