-- ==== Sys2Proof/Machine/Kill.lean ====
section
/-! DEFINITION. Killing launches and contexts (13 R385, R386; 08 R266; 10 R304). -/

namespace Sys2Proof.Machine

/-- The waves of a launch, resident or away. -/
def State.wavesOf (s : State) (lid : Nat) : List (Nat × Wave) :=
  (s.waves ++ s.away).filter (fun (p : Nat × Wave) => p.2.lid == lid)

/-- The transaction is the MONW of a wave that p selects by its number. -/
def Txn.parks (p : Nat → Bool) (t : Txn) : Bool :=
  match t.purpose with
  | .monw uid _ _ _ => p uid
  | _ => false

/-- The transaction is a read of a region tile by a wave that p selects by its number. -/
def Txn.elementOf (p : Nat → Bool) (t : Txn) : Bool :=
  match t.purpose with
  | .element r => p r.uid
  | _ => false

/-- End a launch's waves: their slots, registers, scratchpads, monitor entries, barrier arrivals and tile reads go; what their stores
and reductions wait for is still owed (R385). -/
def State.endWaves (s : State) (lid : Nat) : State :=
  let ws := s.wavesOf lid
  let mine (uid : Nat) : Bool := ws.any (fun p => p.2.uid == uid)
  let keepMon (m : Mon) : Bool := m.peer.isSome || !mine m.uid
  let owed := ws.flatMap (fun p => p.2.st.filterMap (fun (o : Op) => o.late p.2 (cidOf p.1)))
  let s1 := { s with
    waves := List.filter (fun (p : Nat × Wave) => p.2.lid != lid) s.waves
    away := s.away.filter (fun (p : Nat × Wave) => p.2.lid != lid)
    groups := List.filter (fun (g : Nat × Group) => g.2.lid != lid) s.groups
    slices := s.slices.map (fun (x : Nat × Slice) =>
      (x.1, { x.2 with entries := x.2.entries.filter keepMon, relist := x.2.relist.filter keepMon }))
    txns := s.txns.filter (fun t => !t.parks mine && !t.elementOf mine)
    tiles := s.tiles.map (fun (t : Nat × HomeTile) => (t.1, { t.2 with reads := t.2.reads.filter (fun r => r.peer.isSome || !mine r.uid) }))
    owing := s.owing ++ owed }
  ((ws.map (fun p => p.1 / 48)).dedup).foldl (fun s part => s.fillActive 8 part) s1

/-- Cancel every unfinished command of a launch (R385). -/
def State.cancelCommands (s : State) (ctx lid : Nat) : State :=
  let es := ((s.ctxs.find? ctx).map (fun c => c.queues.flatMap (fun q =>
    (q.2.entries.filter (fun e => e.lid == lid && e.tickets.head? == some (q.1, e.seq))).map (fun e => (q.1, e))))).getD []
  es.foldl (fun s x => s.cancelCommand ctx x.1 x.2) s

/-- Retire the rays and free the items of a launch that lie in spill rings (11 R321, R325; R385). -/
def State.endHeld (s : State) (lid : Nat) : State :=
  let mine (r : Ray) : Bool := r.lid == lid
  let held := s.ctxs.flatMap (fun (c : Nat × Ctx) => c.2.ringHeld.filterMap (fun h => h.2.filter mine))
  let s1 := { s with ctxs := s.ctxs.map (fun (c : Nat × Ctx) =>
    (c.1, { c.2 with ringHeld := c.2.ringHeld.map (fun h => (h.1, h.2.filter (fun r => !mine r))) })) }
  held.foldl (fun s r => if r.item then s else State.freeUp 16 s r) s1

/-- Retire every ray and free every item of a launch in the pools, with its bins and formed waves (11 R321; R385). -/
def State.endRays (s : State) (lid : Nat) : State :=
  let mine := (s.rays.filter (fun (r : Nat × Ray) => r.2.lid == lid)).map (fun r => (r.1, r.2.item))
  let s1 := { s with
    bins := List.filter (fun (b : Nat × Bin) => b.2.lid != lid) s.bins
    formed := s.formed.filter (fun f => f.lid != lid) }
  mine.foldl (fun s r => if r.2 then { s with rays := s.rays.del r.1 } else s.retireRay r.1) s1

/-- Records of a killed launch's waves, commands and rays count as answered (R385). -/
def Ctx.dropRecords (c : Ctx) (lid : Nat) : Ctx :=
  { c with pending := c.pending.filter (fun p => p.lid != lid || p.source == 5 || p.source == 6 || p.source == 8) }

/-- Write the records of a launch's halted groups that wait for a wave to stop (R365, R385). -/
def State.writeWaiting (s : State) (lid : Nat) : State :=
  (List.filter (fun (g : Nat × Group) => g.2.lid == lid) s.groups).foldl (fun s g =>
    let m := s.skidMax g.1
    g.2.records.foldl (fun s r => s.putRecord r m) (s.modGroup g.1 (fun x => { x with records := [] }))) s

/-- Kill one launch that is not complete (R385): LAUNCH_COMPLETE then writes its record with status 1. -/
def State.killOne (s : State) (lid : Nat) : State :=
  match s.launches.find? lid with
  | none => s
  | some l =>
    if l.completed.isSome then s
    else
      let s1 := (((((s.writeWaiting lid).endWaves lid).cancelCommands l.ctx lid).endHeld lid).endRays lid).modCtx l.ctx (fun c => c.dropRecords lid)
      { s1 with launches := s1.launches.modify lid (fun l =>
          { l with status := 1, killed := true, live := 0, waitingSince := none, reserved := [] }) }

/-- Kill a launch, its children first (R304, R385); a depth is at most 10 (01 R23). -/
def State.killLaunch : Nat → State → Nat → State
  | 0, s, lid => s.killOne lid
  | fuel + 1, s, lid =>
    let kids := (s.launches.filter (fun (l : Nat × Launch) => l.2.parent == some lid)).map Prod.fst
    (kids.foldl (fun s k => State.killLaunch fuel s k) s).killOne lid

/-- The holder gathers additions of one context alone. -/
def Holder.only (h : Holder) (ctx : Nat) : Bool := h.ctxs.all (· == ctx)

/-- A core forgets what it gathered in a tile and leaves: the share returns to U, at once where the home is here (08 R266; R386). -/
def State.discardTile (s : State) (cid tile : Nat) : State :=
  if s.isLocal (256 * tile) then s.dropShare cid tile
  else match s.holder cid tile with
    | none => s
    | some h => (s.setHolder cid { h with delta := [], m := 0, bad := false }).leaveTile cid tile

/-- Discard the gathered copies and delta tiles of a context alone: its additions that wait, its holders, whose shares return to the homes, their
drains that are not combined, with all that waits for them, and its joins; its row counters are free (08 R266; R386; log entry 60). -/
def State.discardCopies (s : State) (ctx : Nat) : State :=
  let mine (d : Drain) : Bool := !d.combined && d.ctxs.all (· == ctx)
  let asks (j : Join) : Bool := j.peer.isNone && j.ctx == ctx
  let gone := s.drains.filter mine
  let left := s.cores.flatMap (fun (c : Nat × Core) => (c.2.l1.hold.filter (fun h => h.only ctx)).map (fun h => (c.1, h.tile)))
  let asked := s.tiles.flatMap (fun (t : Nat × HomeTile) => (t.2.joins.filter asks).map (fun j => (j.cid, t.1)))
  let late (x : Late) : Late := if x.ctx = ctx then { x with op := { x.op with adds := [] } } else x
  let s1 := { s with
    cores := s.cores.map (fun (c : Nat × Core) => (c.1, { c.2 with
      l1 := { c.2.l1 with upd := c.2.l1.upd.filter (fun u => !u.ctxs.all (· == ctx)) }
      rows := c.2.rows.map (fun (r : Nat × RowCounter) => (r.1, if r.2.owner = some ctx then RowCounter.free else r.2)) }))
    drains := s.drains.filter (fun d => !mine d)
    owing := (s.owing.map late).filter (fun x => !(x.op.waits.isEmpty && x.op.adds.isEmpty))
    tiles := s.tiles.map (fun (t : Nat × HomeTile) => (t.1, { t.2 with
      joins := t.2.joins.filter (fun j => !asks j)
      halving := t.2.halving.filter (fun v => !asks v.joiner) })) }
  let s2 := left.foldl (fun s x => s.discardTile x.1 x.2) s1
  let s3 := gone.foldl (fun s d => (s.clearToken d.id).endHalving d.tile d.id) s2
  (left ++ asked).foldl (fun s x => s.pushAdds x.1 x.2) s3

/-- Zero a context's wake vector in its image (08 R255; R386). -/
def State.clearWake (s : State) (image : Addr) : State :=
  s.putBytes (physKey s.did (image.toNat + 0x1000)) (List.replicate 2304 0)

/-- Write STATE in the image at an address (13 R382). -/
def State.putImageState (s : State) (image : Nat) (v : Nat) : State := s.putBytes (physKey s.did (image + 4)) (bytesOf 4 v)

/-- Kill a context (R386). -/
def State.killContext (s : State) (ctx : Nat) : State :=
  match s.ctxs.find? ctx with
  | none => s.putImageState s.regs.ctxaddr.toNat 2
  | some c =>
    let image := if c.state = 0 then s.regs.ctxaddr else c.image
    let s0 := s.setCtx ctx { c with state := 2, backlog := [] }
    let lids := (s0.launches.filter (fun (l : Nat × Launch) => l.2.ctx == ctx)).map Prod.fst
    let s1 := (lids.foldl (fun s l => s.killLaunch 10 l) s0).discardCopies ctx
    let s2 := { s1 with rays := List.filter (fun (r : Nat × Ray) => r.2.ctx != ctx) s1.rays }
    let s3 := s2.modCtx ctx (fun c => { c with cce := [], pending := [], backlog := [], ringHead := [], ringTail := [], ringHeld := [] })
    let s4 := if c.state = 0 then s3.clearWake image else s3
    s4.putImageState image.toNat 2

end Sys2Proof.Machine
end

