-- ==== Sys2Proof/Machine/Answer.lean ====
section
/-! DEFINITION. The end of a halt, answers to trap records, TQERR and the engines' status registers (12 R363; 13 R367, R373, R374). -/

namespace Sys2Proof.Machine

/-- An event or a geometry fault is dropped: the ray retires and RAYDROP rises (11 R331, R332). -/
def State.dropRay (s : State) (id : Nat) : State :=
  match s.rays.find? id with
  | none => s
  | some r => (s.modCtx r.ctx (fun c => { c with raydrop := c.raydrop + 1 })).retireRay id

/-! ### Going on after a halt (R374) -/

/-- Rays that GENRAY bound after the region entry are released (07 R226). -/
def State.releaseFresh (s : State) (w : Wave) (m : Word) : State :=
  (lanesOf (m &&& w.liveMask)).foldl (fun s l =>
    let f := w.fib l
    if f.fresh then (match f.bound with
      | .ray id => s.retireRay id
      | .item _ => s
      | .none => s) else s) s

/-- The entry of a wave that is parked on a word of this device. -/
def Parked.entry (p : Parked) (k : Nat) (w : Wave) : Mon := ⟨w.ctx, k, w.uid, none, p.key, p.coded, p.val, p.cond⟩

/-- A wave parked on MONW reads its word once more at the home: it goes on, or takes an entry if it has none; a word of another device is
asked for anew (08 R254, R255; log entry 36). -/
def State.rereadMonw (s : State) (k : Nat) (w : Wave) : State :=
  match w.wait with
  | some (.monw p) =>
    if s.isLocal p.key then
      let far := s.drainsAfar (tileOf p.key) 31
      let s1 := if far then s.askLeave (tileOf p.key) else (s.settleTile p.key 31).recallLine (lineOf p.key)
      let n := sliceOf (paOf p.key)
      let sl := s1.slice n
      let mine (m : Mon) : Bool := m.peer.isNone && m.uid == w.uid
      if !far && s1.monMet (p.entry k w) then
        (s1.setSlice n { sl with entries := sl.entries.filter (fun m => !mine m), relist := sl.relist.filter (fun m => !mine m) }).wake
          (p.entry k w)
      else if sl.entries.any mine || sl.relist.any mine then s1
      else s1.addMonitor (p.entry k w)
    else
      match ({ s with txns := s.txns.filter (fun t => !t.parks (· == w.uid)) }).sendTo (targetOf p.key)
        (LinkTx.of 6 (w.prio % 4) p.cond (paOf p.key) (bytesOf 4 p.val.toNat) none) (.monw w.uid p.iss p.lane p.va) with
      | some (s1, _) => s1
      | none => s
  | _ => s

/-- A wave whose parked fibres have gone back is not parked any more: its arrival at the barrier is taken back, its monitor entry freed
(06 R199; 08 R252; log entry 73). -/
def State.unpark (s : State) (old new : Wave) : State :=
  match old.wait, new.wait with
  | some (.bar _), none => s.modGroup old.group (fun g => { g with arrived := g.arrived.filter (· != old.wid) })
  | some (.monw _), none =>
    let other (m : Mon) : Bool := m.peer.isSome || m.uid != old.uid
    { s with slices := s.slices.map (fun (x : Nat × Slice) =>
        (x.1, { x.2 with entries := x.2.entries.filter other, relist := x.2.relist.filter other })) }
  | _, _ => s

/-- A wave that trapped goes on in a new state; what its other fibres are parked for they wait for still (R371). -/
def State.wakeFaulted (s : State) (k : Nat) (old new : Wave) : State := ((s.unpark old new).setWave k new).rereadMonw k new

/-- One wave of a group goes on: after a trap as its record was answered, else at its resumption PCs (R371, R374). -/
def State.wakeWave (s : State) (answers : List Pending) (k : Nat) : State :=
  match s.waves.find? k with
  | none => s
  | some w =>
    match w.run with
    | .running => s
    | .skid _ => s
    | .stopped => (s.setWave k w.resumeStopped).rereadMonw k w
    | .faulted seq iss others =>
      if answers.any (fun p => p.seq == seq && p.answer == some 2) then s.wakeFaulted k w (w.skipTrap iss)
      else (s.releaseFresh w (iss.batch ||| others)).wakeFaulted k w (w.resumeTrap iss others)

/-- Every wave of the group is in its slot. -/
def State.allBack (s : State) (g : Nat) : Bool := !s.away.any (fun p => p.2.group == g)

/-- A halted group goes on when its halt is complete, every wave record is answered, the context is switched in and not halted as a
whole, and every wave is back (R374, R375, R379). -/
def State.tryResume (s : State) (g : Nat) : State :=
  match s.group g with
  | none => s
  | some x =>
    match s.ctxs.find? x.ctx with
    | none => s
    | some c =>
      if x.halted && x.recorded && x.unanswered.isEmpty && c.state == 1 && !c.frozen && s.allBack g then
        let keys := (List.filter (fun (p : Nat × Wave) => p.2.group == g) s.waves).map Prod.fst
        let s1 := keys.foldl (fun s k => s.wakeWave c.pending k) s
        let s2 := s1.modGroup g (fun x => { x with halted := false, haltSeq := none, recorded := false })
        s2.modCtx x.ctx (fun c => { c with pending := c.pending.filter (fun p => !(p.source == 0 && p.group == g)) })
      else s

/-- GROUP_HALT_COMPLETE: the waves of a halted group have stopped; the group record and the held records are written (R371, R373). -/
def evGroupHaltComplete (g : Nat) (s : State) : State :=
  ({ s with waves := s.waves.map (fun (p : Nat × Wave) => (p.1, if p.2.group = g then p.2.stopCheck else p.2)) }).completeHalt g
def execGroupHaltComplete (group : Nat) : State → Host.Outcome State Fault Refusal := event (evGroupHaltComplete group)

/-! ### Answers (R374) -/

/-- An answer is allowed for a record's source. -/
def answerAllowed (source code : Nat) : Bool :=
  if code = 1 then true else if code = 2 then source == 0 else if code = 3 then 1 ≤ source && source ≤ 4
  else if code = 4 then source ≤ 4 else false

/-- The record an answer names (R374). -/
def State.answered (s : State) (ctx seq code : Nat) : Option Pending :=
  ((s.ctxs.find? ctx).bind (fun c => c.pending.find? (fun p =>
    p.seq == seq && p.answer.isNone && answerAllowed p.source code))).filter (fun _ => s.recordWritten ctx seq)

/-- An ignored answer (R367, R374). -/
def State.badReply (s : State) (ctx : Nat) : State :=
  let old := s.regs.tqerr
  let s1 := s.setTqerr ((old &&& 0xF000FFFF) ||| 0x40000000 ||| BitVec.ofNat 32 (ctx % 4096 * 2 ^ 16))
  if old.getLsbD 30 then s1 else s1.interrupt 1

/-- A record that needs no further thought is forgotten. -/
def State.forget (s : State) (ctx seq : Nat) : State :=
  s.modCtx ctx (fun c => { c with pending := c.pending.filter (fun p => p.seq != seq) })

/-- What an answer does to the source of its record (R374). -/
def State.applyAnswer (s : State) (ctx : Nat) (p : Pending) (code : Nat) : State :=
  if code = 4 then (s.killLaunch 10 p.lid).forget ctx p.seq
  else if p.source = 0 then
    (s.modGroup p.group (fun g => { g with unanswered := g.unanswered.filter (· != p.seq) })).tryResume p.group
  else if p.source ≤ 3 then
    let s1 := s.forget ctx p.seq
    match s1.head ctx p.queue with
    | none => s1
    | some e =>
      if e.seq ≠ p.cmd then s1
      else if code = 3 then s1.cancelCommand ctx p.queue e
      else s1.modHead ctx p.queue (fun e => { e with state := 1 })
  else if p.source = 4 then
    let s1 := s.forget ctx p.seq
    if code = 3 then s1.dropRay p.ray
    else s1.tick1.modRay p.ray (fun r => if r.place = .stopped p.seq then { r with place := .queued, entered := s1.fresh } else r)
  else s.forget ctx p.seq

/-- An answer: it is kept, and takes effect at once, or at switch-in where the context is switched out (R374, R380). -/
def State.answer (s : State) (ctx seq code : Nat) : State :=
  match s.answered ctx seq code with
  | none => s.badReply ctx
  | some p =>
    let s1 := s.modCtx ctx (fun c => { c with
      pending := c.pending.map (fun p => if p.seq = seq then { p with answer := some code } else p) })
    if ((s.ctxs.find? ctx).map Ctx.state) = some 1 then s1.applyAnswer ctx p code else s1

/-- RESUME (R374). -/
def evResume (ctx seq : Nat) (s : State) : State := s.answer ctx seq 1
def execResume (ctx seq : Nat) : State → Host.Outcome State Fault Refusal := controlEvent (evResume ctx seq)
/-- SKIP (R374). -/
def evSkip (ctx seq : Nat) (s : State) : State := s.answer ctx seq 2
def execSkip (ctx seq : Nat) : State → Host.Outcome State Fault Refusal := controlEvent (evSkip ctx seq)
/-- CANCEL (R374). -/
def evCancel (ctx seq : Nat) (s : State) : State := s.answer ctx seq 3
def execCancel (ctx seq : Nat) : State → Host.Outcome State Fault Refusal := controlEvent (evCancel ctx seq)
/-- KILL (R374). -/
def evKill (ctx seq : Nat) (s : State) : State := s.answer ctx seq 4
def execKill (ctx seq : Nat) : State → Host.Outcome State Fault Refusal := controlEvent (evKill ctx seq)

/-- A write to TRAPREPLY (R374); its reserved bits have no effect (00 R4). -/
def State.trapReply (s : State) (value : Addr) : State :=
  let v := value.toNat
  s.answer (v % 4096) (v / 2 ^ 16 % 2 ^ 32) (v / 4096 % 16)

/-- TRAPREPLY_INVALID: a reserved or unmatched answer (R374). -/
def evTrapreplyInvalid (value : Addr) (s : State) : State :=
  let v := value.toNat
  if (s.answered (v % 4096) (v / 2 ^ 16 % 2 ^ 32) (v / 4096 % 16)).isSome then s else s.badReply (v % 4096)
def execTrapreplyInvalid (value : Addr) : State → Host.Outcome State Fault Refusal := controlEvent (evTrapreplyInvalid value)

/-! ### Flags that a 1 clears (12 R363; R367) -/

/-- TQERR_CLEAR: QCTX is zero once QFAIL is clear, RCTX while BADREPLY is clear (R367). -/
def evTqerrClear (value : Word) (s : State) : State :=
  let v1 := s.regs.tqerr &&& ~~~(value &&& 0xE0000000)
  let v2 := if v1.getLsbD 31 then v1 else v1 &&& 0xFFFFF000
  s.setTqerr (if v2.getLsbD 30 then v2 else v2 &&& 0xF000FFFF)
def execTqerrClear (value : Word) : State → Host.Outcome State Fault Refusal := controlEvent (evTqerrClear value)

/-- Clear the flags of a status word that a value names. -/
def clearFlags (old value : Word) : Word := old &&& ~~~(value &&& 0x1F)

/-- ENGINE_STATUS_CLEAR, through the device registers of a switched-in context (12 R363). -/
def evEngineStatusClear (reg : Reg) (value : Word) (s : State) : State :=
  match reg with
  | .ccestat ctx cl => if s.isIn ctx then s.modCce ctx cl (fun c => { c with stat := clearFlags c.stat value }) else s
  | .gsestat ctx cl =>
    if s.isIn ctx then s.modCtx ctx (fun c => { c with gsestat := c.gsestat.put cl (clearFlags (c.gsestat.get 0 cl) value) }) else s
  | .trstat ctx cl =>
    if s.isIn ctx then s.modCtx ctx (fun c => { c with trstat := c.trstat.put cl (clearFlags (c.trstat.get 0 cl) value) }) else s
  | _ => s
def execEngineStatusClear (reg : Reg) (value : Word) : State → Host.Outcome State Fault Refusal := controlEvent (evEngineStatusClear reg value)

end Sys2Proof.Machine
end

