-- ==== Sys2Proof/Machine/Schedule.lean ====
section
/-! DEFINITION. Register requests, spilling and return of waves, exchanges and age boosts (01 R33, R34; 09 R286 to R288;
10 R312 to R315). -/

namespace Sys2Proof.Machine

/-! ### REGREQ (01 R33) -/

/-- REGREQ_GRANT: freed blocks go to the oldest wave parked on REGREQ (01 R33). -/
def evRegreqGrant (cid part : Nat) (s : State) : State :=
  let p := cid * 6 + part
  match s.firstAsk p with
  | none => s
  | some (k, w) =>
    match w.asks with
    | none => s
    | some n =>
      if w.resident && n - w.need ≤ s.freeRegs p then s.modWave k (fun w => { w with need := n, wait := none }) else s
def execRegreqGrant (cid part : Nat) : State → Host.Outcome State Fault Refusal := event (evRegreqGrant cid part)

/-! ### Spill areas (09 R286, R287) -/

/-- Zeros. -/
def zeros (n : Nat) : List Byte := List.replicate n 0

/-- The fibre word of a lane slot (09 R286). -/
def Fibre.word (f : Fibre) : Nat :=
  let bit (b : Bool) (i : Nat) : Nat := if b then 2 ^ i else 0
  let (r, i) := match f.bound with
    | .none => (false, false)
    | .ray _ => (true, false)
    | .item _ => (false, true)
  f.gen.toNat + bit f.live 11 + bit f.join.isSome 12 + bit (f.owed != 0) 13 + bit r 14 + bit i 15 + (f.join.getD 0) * 2 ^ 16

/-- The bound slot id of a lane slot (09 R286). -/
def Fibre.slotWord (f : Fibre) : Nat :=
  match f.bound with
  | .none => 0xFFFFFFFF
  | .ray id => id
  | .item id => id

/-- The reason for parking (09 R287). -/
def Wave.parkCode (w : Wave) : Nat :=
  match w.wait with
  | none => 0
  | some .retry => 0
  | some (.regreq _) => 1
  | some (.bar _) => 2
  | some (.monw _) => 3
  | some (.parkc _ _) => 4

/-- The wave words (09 R287). -/
def Wave.waveWords (w : Wave) : List Nat :=
  let count (c : Ctr) : Nat := w.counter c % 64
  let valid (k : Nat) : Nat := (w.entry k).count % 4
  [w.need + w.sneed / 64 * 2 ^ 10, w.wb, w.sb, w.fsr.toNat,
   count .ld + count .st * 2 ^ 6 + count .cp * 2 ^ 12 + count .tx * 2 ^ 18,
   w.lp + valid 0 * 4 + valid 1 * 16 + valid 2 * 64, w.parkCode, w.asks.getD 0, w.age % 2 ^ 32, w.age / 2 ^ 32 % 2 ^ 32, w.prio] ++
  List.replicate 5 0

/-- Registers 2k and 2k + 1 in the byte layout of 05 R157. -/
def Wave.vectorBlock (w : Wave) (k : Nat) : List Byte :=
  (List.range 64).flatMap (fun i => bytesOf 4 (w.cell (cellAt (2 * k + i / 32) (i % 32))).val.toNat)

/-- The pieces of a wave's spill area: offset and bytes (09 R286). -/
def Wave.spillPieces (w : Wave) : List (Nat × List Byte) :=
  let lanes (f : Nat → List Byte) : List Byte := laneNums.flatMap f
  let coded := (List.range (w.need / 2)).map (fun k => encodeBlock (w.vectorBlock k))
  let head := (List.range 192).flatMap (fun n => bytesOf 4 (w.scalar n).toNat) ++
    lanes (fun l => bytesOf 1 ((w.fib l).preds ||| 1).toNat) ++ lanes (fun l => bytesOf 8 (w.fib l).pc.toNat) ++
    lanes (fun l => bytesOf 8 (w.fib l).region.toNat) ++ lanes (fun l => bytesOf 4 (w.fib l).word) ++
    lanes (fun l => bytesOf 4 (w.fib l).slotWord) ++ (List.range 16).flatMap (fun n => bytesOf 8 (w.patterns.get 0 n).toNat) ++
    w.waveWords.flatMap (bytesOf 4) ++ zeros 288 ++
    (List.range 3).flatMap (fun k => lanes (fun l => bytesOf 4 (w.latchCell k l).val.toNat)) ++
    (List.range 3).flatMap (fun k => lanes (fun l => bytesOf 1 (w.latchCell k l).tag.toNat)) ++ zeros 1568 ++
    coded.flatMap (fun c => bytesOf 1 c.1)
  let tags := (List.range w.need).flatMap (fun n => lanes (fun l => bytesOf 1 (w.cell (cellAt n l)).tag.toNat))
  (0, head) :: (0x1080, tags) :: coded.mapIdx (fun k c => (0x3100 + 256 * k, c.2))

/-- The virtual address of the spill area of a wave slot (09 R286). -/
def Ctx.spillArea (c : Ctx) (k : Nat) : Nat := c.spillbase.toNat + k * 49152

/-- A spill fault of the wave awaits its answer (09 R288). -/
def Ctx.spillPending (c : Ctx) (k : Nat) : Bool := c.pending.any (fun p => p.source == 7 && p.wave == k && p.answer.isNone)

/-- Write a wave's spill area; a fault changes nothing but the record it writes (09 R288). Whether it was written. -/
def State.writeSpill (s : State) (k : Nat) (w : Wave) : State × Bool :=
  match s.ctxs.find? w.ctx with
  | none => (s, false)
  | some c =>
    let va := c.spillArea k
    match s.range deviceTlb w.ctx .w 400 va (0x3100 + 128 * w.need) [] with
    | (s1, .error (.fault cause a)) =>
      if c.spillPending k then (s1, false)
      else
        let cause := if cause = .xlatePermission then Cause.xlatePermission else Cause.xlateNotPresent
        ((s1.unitFault w.ctx cause 7
          (fun r => { r with faddr := BitVec.ofNat 64 a, who := packWave k 0 w.wid, lid := BitVec.ofNat 32 w.lid })
          (fun p => { p with wave := k, uid := w.uid, lid := w.lid })).1, false)
    | (s1, .error .miss) => (s1, false)
    | (s1, .ok _) =>
      (w.spillPieces.foldl (fun s p => (s.writeVirtual deviceTlb w.ctx (va + p.1) p.2 (w.prio % 4)).1) s1, true)

/-- A tag byte of a spill area; a lane never holds a reserved tag: it is POISON (02 R52; log entry 46). -/
def keptTag (v : Nat) : BitVec 6 := if tagDefined (BitVec.ofNat 6 v) then BitVec.ofNat 6 v else 0x3F

/-- The cells of registers 2k and 2k + 1 from a format byte and a slot's bytes; none where the codec rejects them. -/
def spilledCells (k : Nat) (fmt : Nat) (slot tags : List Byte) : List (Nat × VCell) :=
  match decodeBlock fmt slot with
  | none => []
  | some bs => (List.range 64).map (fun i =>
      let n := 2 * k + i / 32
      (cellAt n (i % 32), ⟨BitVec.ofNat 32 (fieldAt bs (4 * i) 4), keptTag (tags.getD (32 * n + i % 32) 0).toNat, false⟩))

/-- A wave's registers, scalars and latch from its spill area's bytes; the rest of what the area carries is kept by the device (09 R286;
log entry 46). -/
def Wave.unspill (w : Wave) (bs : List Byte) : Wave :=
  let tags := bs.drop 0x1080
  let cells := (List.range (w.need / 2)).flatMap (fun k =>
    spilledCells k (fieldAt bs (0x1000 + k) 1) ((bs.drop (0x3100 + 256 * k)).take 256) tags)
  let latch : SMap LatchEntry := (List.range 3).map (fun k =>
    (k, { lanes := laneNums.map (fun l => (l, ⟨BitVec.ofNat 32 (fieldAt bs (0x800 + 128 * k + 4 * l) 4),
                                               keptTag (fieldAt bs (0x980 + 32 * k + l) 1)⟩)),
          count := (w.entry k).count }))
  { w with
    regs := cells.foldl (fun m c => SMap.put m c.1 c.2) []
    scalars := (List.range 192).map (fun n => (n, BitVec.ofNat 32 (fieldAt bs (4 * n) 4)))
    latch := latch }

/-- Bring a wave's registers back from its spill area; nothing while it cannot be read. -/
def State.readSpill (s : State) (k : Nat) (w : Wave) : State × Option Wave :=
  match s.ctxs.find? w.ctx with
  | none => (s, none)
  | some c =>
    match s.readVirtual deviceTlb w.ctx (c.spillArea k) (0x3100 + 128 * w.need) (w.prio % 4) with
    | (s1, .ok bs) => (s1, some (w.unspill bs))
    | (s1, .error _) => (s1, none)

/-- A wave whose registers are in its spill area. -/
def Wave.spilled (w : Wave) : Wave :=
  { w with
    regs := [], scalars := [], latch := w.latch.map (fun (e : Nat × LatchEntry) => (e.1, { e.2 with lanes := [] }))
    resident := false, active := false }

/-- The loads, tile instructions and engine commands of queues 8 to 11 are complete (09 R286). -/
def Wave.spillable (w : Wave) : Bool := w.ld.isEmpty && w.tx.isEmpty

/-- Spill the first of several waves that can be spilled; none while a record of a spill fault waits for room (01 R34; 09 R288; 13 R366). -/
def State.spillFirst : State → List (Nat × Wave) → State
  | s, [] => s
  | s, (k, w) :: rest =>
    if s.unitWaits w.ctx 7 then s
    else match s.writeSpill k w with
      | (s1, true) => (s1.setWave k w.spilled).fillActive 8 (k / 48)
      | (s1, false) => State.spillFirst s1 rest

/-- Parked on REGREQ, BAR, MONW or PARKC (01 R34). -/
def Wave.parked (w : Wave) : Bool := w.parkCode != 0

/-- SPILL_WAVE: every resident wave is parked and the oldest request does not fit: the youngest other wave is spilled (01 R34). The model's
choices: a wave with loads or tile instructions under way is passed over for an older one (log entry 74); a spilled wave's request counts
as a resident one's (log entry 75). -/
def evSpillWave (cid part : Nat) (s : State) : State :=
  let p := cid * 6 + part
  let ws := (s.partWaves p).filter (fun x => x.2.resident)
  match s.firstAsk p with
  | none => s
  | some (k, w) =>
    if ws.all (fun x => x.2.parked) && s.freeRegs p < (w.asks.getD 0) - (if w.resident then w.need else 0) then
      s.spillFirst (sortBy (fun x y => !older x y) (ws.filter (fun x => x.1 != k && x.2.spillable)))
    else s
def execSpillWave (cid part : Nat) : State → Host.Outcome State Fault Refusal := event (evSpillWave cid part)

/-- The spilled wave of a partition that comes back next: the oldest wave parked on REGREQ, else the oldest that wants to; none while that
request is a resident wave's (01 R33, R34; 10 R315). -/
def State.nextReturn (s : State) (part : Nat) : Option (Nat × Wave) :=
  match s.firstAsk part with
  | some x => if x.2.resident then none else some x
  | none => bestBy older ((s.partWaves part).filter (fun x => x.2.wantsReturn))

/-- A spilled wave comes back to its slot, a request granted (01 R34; 10 R315). -/
def State.returnSpilled (s : State) (k : Nat) : State :=
  match s.nextReturn (k / 48) with
  | none => s
  | some (j, w) =>
    if j ≠ k then s
    else
      let need := w.asks.getD w.need
      if s.freeRegs (k / 48) < need then s
      else match s.readSpill k w with
        | (s1, none) => s1
        | (s1, some w1) =>
          let w2 := { w1 with
            need := need, wait := if w.asks.isSome then none else w.wait, resident := true, longParked := false }
          (s1.setWave k w2).fillActive 8 (k / 48)

/-- Something waits for placement that a core could take if it had room: a wave or group in the core's split mode (10 R315). -/
def State.waitedFor (s : State) (cid : Nat) (c : Cand) : Bool :=
  let fits (lid : Option Nat) (l : Launch) : Bool :=
    s.eligibleCore cid l.record.split && !s.reservedFrom cid lid l.prio l.record.split
  if c.group then match s.launches.find? c.ref with
    | some l => fits (some c.ref) l && (s.chooseCores c.ref l.prio l.record).isNone
    | none => false
  else match List.find? (fun (f : Formed) => f.order == c.ref) s.formed with
    | some f => match s.launches.find? f.lid with
      | some l => f.cluster == clusterOf cid && fits none l &&
          ((l.shaders[f.shader]?).bind (fun sh => s.chooseFormed f l sh)).isNone
      | none => false
    | none => false

/-- MONW_SPILL: a wave long parked on MONW makes room while something waits for its partition (10 R315). -/
def evMonwSpill (k : Nat) (s : State) : State :=
  match s.waves.find? k with
  | none => s
  | some w =>
    match w.wait with
    | some (.monw p) =>
      if w.resident && w.spillable && 65536 ≤ s.cycle - p.since && s.candidates.any (s.waitedFor (cidOf k)) then
        s.spillFirst [(k, { w with longParked := true })]
      else s
    | _ => s
def execMonwSpill (wave : Nat) : State → Host.Outcome State Fault Refusal := event (evMonwSpill wave)

/-! ### Exchanges (10 R313) and age (10 R314) -/

/-- Lowest priority first, then youngest; a boosted wave counts as older than every other of its priority (10 R314). -/
def leavesFirst (x y : Nat × Wave) : Bool :=
  if x.2.prio ≠ y.2.prio then x.2.prio < y.2.prio else if x.2.boosted ≠ y.2.boosted then y.2.boosted else older y x

/-- A wave waits for its instruction to be tried again (01 R16, R45; 10 R311). -/
def Wave.retrying (w : Wave) : Bool :=
  match w.wait with
  | some .retry => true
  | some (.bar _) => false
  | some (.monw _) => false
  | some (.parkc _ _) => false
  | some (.regreq _) => false
  | none => false

/-- A wave is unable to issue in a cycle; one that waits for its instruction to be tried again, once it has tried (10 R313). -/
def Wave.stalled (w : Wave) (cycle : Nat) : Bool := w.wait.isSome && (!w.retrying || decide (cycle < w.tried))

/-- WAVE_EXCHANGE: the two cycles after this one are the exchange's (10 R313; the case of higher priority goes first: log entry 65). -/
def evWaveExchange (cid part : Nat) (s : State) : State :=
  let p := cid * 6 + part
  let ws := s.partWaves p
  let busy : Bool := match (s.core cid).exchange.find? part with
    | some t => decide (s.cycle < t + 2)
    | none => false
  match bestBy before (ws.filter (fun x => !x.2.active && x.2.ready)) with
  | none => s
  | some (j, w) =>
    let actives := ws.filter (fun x => x.2.active)
    let lower := bestBy leavesFirst (actives.filter (fun x => x.2.prio < w.prio))
    let stalled := bestBy leavesFirst (actives.filter (fun x => x.2.stalled s.cycle && 17 ≤ s.cycle - x.2.stallSince))
    match (if lower.isSome then lower else stalled) with
    | none => s
    | some (k, _) =>
      if busy then s
      else
        let c := s.core cid
        let s1 := s.setCore cid { c with exchange := c.exchange.put part s.cycle }
        (s1.modWave k (fun w => { w with active := false })).modWave j (fun w => { w with active := true, tried := s.cycle + 3 })
def execWaveExchange (cid part : Nat) : State → Host.Outcome State Fault Refusal := event (evWaveExchange cid part)

/-- WAVE_AGE_BOOST: ready without issuing for 4,096 cycles (10 R314). -/
def evWaveAgeBoost (k : Nat) (s : State) : State :=
  s.modWave k (fun w => if w.ready && 4096 < s.cycle - max w.lastIssue w.readySince then { w with boosted := true } else w)
def execWaveAgeBoost (wave : Nat) : State → Host.Outcome State Fault Refusal := event (evWaveAgeBoost wave)

end Sys2Proof.Machine
end

