-- ==== Sys2Proof/Machine/Context.lean ====
section
/-! DEFINITION. The context image, switching contexts in and out, and the context operations of CTXCTL (09 R268; 11 R323; 12 R346;
13 R375 to R386; 08 R254, R266). -/

namespace Sys2Proof.Machine

/-! ### The image (R381 to R384) -/

/-- Bytes of a context image (R381). -/
def imageBytes : Nat := 6086656

/-- The key of a byte of an image: images lie at physical addresses of the own device (log entry 25). -/
def State.imageKey (s : State) (image off : Nat) : Nat := physKey s.did (image + off)

/-- A range of an image's lines holds no poison and lies in memory. -/
def State.imageOk (s : State) (image : Nat) : Bool :=
  image % 4096 == 0 && image + imageBytes ≤ Config.deviceBytes &&
  !s.poison.any (fun l => lineOf (s.imageKey image 0) ≤ l && l < lineOf (s.imageKey image imageBytes))

/-- A field of an image, read at its home (08 R251). -/
def State.imageField (s : State) (image off n : Nat) : Nat := s.load (s.imageKey image off) n

/-- The 192 bytes of a cluster's CCE registers (R381). -/
def Cce.imageBytes (c : Cce) : List Byte :=
  (List.range 16).flatMap (fun i => bytesOf 2 (c.bondAt i)) ++ (List.range 16).flatMap (fun i => bytesOf 2 (c.inMode i)) ++
  (List.range 16).flatMap (fun i => bytesOf 2 (c.outMode i)) ++ bytesOf 8 c.prog.toNat ++ bytesOf 2 (c.step % 64) ++ bytesOf 2 c.part ++
  bytesOf 2 c.tilei ++ bytesOf 2 c.tilej ++ bytesOf 4 c.bboff ++ bytesOf 4 c.bbcap ++ bytesOf 8 c.cxsave.toNat ++
  bytesOf 4 c.stat.toNat ++ bytesOf 4 c.batchn

/-- A queue entry of the image (R383). -/
def QEntry.imageBytes (e : QEntry) (qi : Nat) : List Byte :=
  bytesOf 4 (e.ticket qi).toNat ++ bytesOf 1 e.sub ++ bytesOf 1 e.state ++ bytesOf 1 e.prio ++ bytesOf 1 e.block.length ++
  bytesOf 4 e.who.toNat ++ bytesOf 4 e.lid ++ (List.range 11).flatMap (fun i => bytesOf 4 (bw e.block i)) ++ bytesOf 4 0 ++
  (List.range 4).flatMap (fun i => bytesOf 4 (e.progress.getD i 0)) ++ zeros 48

/-- An empty entry (R383). -/
def emptyEntry : List Byte := zeros 5 ++ bytesOf 1 0xFF ++ zeros 122

/-- A queue block (R383). -/
def Queue.imageBytes (q : Queue) (qi : Nat) : List Byte :=
  (List.range 32).flatMap (fun i => match q.entries[i]? with
    | some e => e.imageBytes qi
    | none => emptyEntry)

/-- A ticket history: code j for the j-th most recent number, then the count (R383). -/
def Queue.historyBytes (q : Queue) : List Byte :=
  let code (j : Nat) : Nat :=
    let seq := (q.count + 2 ^ 28 - 1 - j) % 2 ^ 28
    match List.find? (fun (h : Nat × Nat) => h.1 == seq) q.history with
    | some h => if h.2 = 2 then 0 else if h.2 = 4 then 1 else 2
    | none => 2
  (List.range 64).flatMap (fun i => bytesOf 1 (code (4 * i) + 4 * code (4 * i + 1) + 16 * code (4 * i + 2) + 64 * code (4 * i + 3))) ++
  bytesOf 4 q.count ++ zeros 60

/-- A row counter of the image (R381). -/
def rowBytes (ctx : Nat) (r : RowCounter) : List Byte :=
  if r.owner = some ctx then bytesOf 4 r.val.toNat ++ bytesOf 4 (1 + if r.named then 2 else 0) else zeros 8

/-- The parts of an image that the device writes at switch-out, by offset (R376, R381). -/
def State.imageParts (s : State) (ctx : Nat) (c : Ctx) : List (Nat × List Byte) :=
  [(72, bytesOf 4 c.raydrop.toNat ++ bytesOf 4 c.trapseq.toNat)] ++
  (List.range 8).map (fun cl => (0x100 + 192 * cl, (c.cce.get Cce.fresh cl).imageBytes)) ++
  (List.range 8).map (fun cl => (0x700 + 8 * cl, bytesOf 4 (c.gsestat.get 0 cl).toNat ++ bytesOf 4 (c.trstat.get 0 cl).toNat)) ++
  (List.range 64).map (fun cid => (0x2000 + 128 * cid, (List.range 16).flatMap (fun n => rowBytes ctx (s.rowc cid n)))) ++
  (List.range 320).map (fun q => (0x4000 + 128 * q, (c.queue q).historyBytes)) ++
  (List.range 320).map (fun q => (0xE000 + 4096 * q, (c.queue q).imageBytes q)) ++
  (List.filter (fun (g : Nat × Group) => g.2.ctx == ctx) s.groups).map (fun g => (0x14E000 + 256 * g.2.members.headD 0, s.groupRecord g.2))

/-- Write the image but for the header's own fields (R376, R381). -/
def State.writeImage (s : State) (ctx : Nat) (c : Ctx) (image : Nat) : State :=
  let parts := s.imageParts ctx c
  let s1 := s.zeroRange (s.imageKey image 0x100) (imageBytes - 0x100)
  parts.foldl (fun s p => s.putRange (s.imageKey image p.1) p.2) s1

/-! ### Switching out (R376 to R378) -/

/-- Start an operation: busy, and what CTXCTL holds (R375). -/
def State.startOp (s : State) (ctx op : Nat) (f : State → State) : State :=
  if s.regs.busy then s
  else f { s with regs := { s.regs with busy := true, outcome := none, ctxctl := BitVec.ofNat 32 (ctx % 4096 + op * 4096) } }

/-- The operation under way is to end with a result (R375). -/
def State.setResult (s : State) (r : Nat) : State := { s with regs := { s.regs with outcome := some r } }

/-- An operation ends: its result is written, busy is cleared and interrupt 2 raised (R375; 14 R396). -/
def State.endOp (s : State) : State :=
  ({ s with regs := { s.regs with busy := false, result := s.regs.outcome.getD 0, outcome := none } }).interrupt 2

/-- The groups of a context. -/
def State.groupsOf (s : State) (ctx : Nat) : List Nat := (List.filter (fun (g : Nat × Group) => g.2.ctx == ctx) s.groups).map Prod.fst

/-- A save area of a cluster's allotments: its address and size (12 R345, R346). -/
def Ctx.saveAreas (c : Ctx) : List (Nat × Nat) :=
  (c.cce.filter (fun (x : Nat × Cce) => x.2.bbcap != 0)).map (fun x => (x.2.cxsave.toNat, 2 * x.2.bbcap))

/-- Every byte of a context's save areas can be written. -/
def State.saveOk (s : State) (ctx : Nat) (c : Ctx) : Bool :=
  c.saveAreas.all (fun a => match (s.range deviceTlb ctx .w (a.2 / 128 + 2) a.1 a.2 []).2 with
    | .ok _ => true
    | .error _ => false)

/-- SWITCH_OUT: placement stops and every group is halted; CONTEXT_OP_COMPLETE ends it (R376). -/
def evSwitchOut (ctx : Nat) (s : State) : State :=
  s.startOp ctx 2 (fun s =>
    let image := s.regs.ctxaddr.toNat
    match s.ctxs.find? ctx with
    | none => s.setResult 5
    | some c =>
      if c.state ≠ 1 then s.setResult 5
      else if !s.imageOk image || !s.saveOk ctx c then s.setResult 4
      else
        let s1 := s.modCtx ctx (fun c => { c with state := 3, image := BitVec.ofNat 64 image })
        ((s1.groupsOf ctx).foldl State.haltGroup s1).setResult 0)
def execSwitchOut (ctx : Nat) : State → Host.Outcome State Fault Refusal := controlEvent (evSwitchOut ctx)

/-- The command restarts from its beginning after a switch-out (R377). -/
def QEntry.restarts (e : QEntry) : Bool := e.sub == 9 || e.sub == 10 || e.sub == 11 || e.sub == 13

/-- What a switch-out keeps of a command: those whose state the engine holds lose it (R377). -/
def QEntry.saved (e : QEntry) : QEntry :=
  if e.restarts && !e.finished then { e with held := [], progress := [0, 0, 0, 0] } else e

/-- Every group of a context is halted, its waves' states complete and its records written (R371, R373, R380). -/
def State.allStopped (s : State) (ctx : Nat) : Bool :=
  s.groups.all (fun (g : Nat × Group) => g.2.ctx != ctx || (g.2.halted && g.2.recorded)) &&
  s.waves.all (fun (p : Nat × Wave) => p.2.ctx != ctx || p.2.isQuiet)

/-- Every wave of a context's halted groups has stopped. -/
def State.haltedStopped (s : State) (ctx : Nat) : Bool :=
  s.waves.all (fun (p : Nat × Wave) => p.2.ctx != ctx || !((s.group p.2.group).map Group.halted).getD false || p.2.isStopped)

/-- Spill the context's resident waves one by one; whether all are spilled (R376). -/
def State.spillAll : State → List (Nat × Wave) → State × Bool
  | s, [] => (s, true)
  | s, (k, w) :: rest =>
    if !w.resident then State.spillAll s rest
    else match s.writeSpill k w with
      | (s1, true) => State.spillAll (s1.setWave k w.spilled) rest
      | (s1, false) => (s1, false)

/-- What a switch-out keeps of a queue: a CCE command that has begun has its progress recorded where it stopped (12 R364; R377). -/
def Ctx.savedQueue (c : Ctx) (qi : Nat) (q : Queue) : Queue :=
  let cce := c.cce.get Cce.fresh (engineCluster (engineOf qi))
  let progress (e : QEntry) : QEntry :=
    if (e.sub = 14 ∨ e.sub = 17) ∧ e.state = 1 ∧ e.held ≠ [] then { e with progress := cce.progressOf e.sub } else e
  { q with entries := q.entries.map (fun e => (progress e).saved) }

/-- Write a cluster's allotments to its save area; their bytes have a form the spec does not give (12 R346; log entry 26). -/
def State.saveArea (s : State) (ctx cl : Nat) (x : Cce) : State :=
  let n := 2 * x.bbcap
  let (s1, bs) := s.freeBytes n
  ((s1.writeVirtual deviceTlb ctx x.cxsave.toNat bs).1).modCce ctx cl (fun c => { c with saved := some (s.fresh, n) })

/-- The engines' part: nothing of the context stays in service, its commands and CCE steps are kept as R377 says, its save areas are
written (R376; 12 R346). -/
def State.saveEngines (s : State) (ctx : Nat) (c : Ctx) : State :=
  let s1 := { s with engines := s.engines.map (fun (x : Nat × Engine) =>
    (x.1, if (x.2.serving.map Prod.fst) = some ctx then { x.2 with serving := none } else x.2)) }
  let s2 := s1.modCtx ctx (fun c => { c with
    queues := c.queues.map (fun (q : Nat × Queue) => (q.1, c.savedQueue q.1 q.2))
    cce := c.cce.map (fun (x : Nat × Cce) => (x.1, { x.2 with job := x.2.job.map (fun j => { j with stopped := true }) })) })
  (c.cce.filter (fun (x : Nat × Cce) => x.2.bbcap != 0)).foldl (fun s x => s.saveArea ctx x.1 x.2) s2

/-- Everything of a context in the L1s goes home, and its holders drain and leave (R376; 08 R266). -/
def State.drainContext (s : State) (ctx : Nat) : State := (s.flushContext ctx).leaveTiles ctx

/-- The end of a switch-out: spills, engines, caches, image, and the release of slots and row counters (R376, R380). -/
def State.finishSwitchOut (s : State) (ctx : Nat) (c : Ctx) : State :=
  let mine := List.filter (fun (p : Nat × Wave) => p.2.ctx == ctx) s.waves
  match s.spillAll mine with
  | (s1, false) => s1
  | (s1, true) =>
    let image := c.image.toNat
    let s2 := (s1.saveEngines ctx c).drainContext ctx
    let s3 := match s2.ctxs.find? ctx with
      | some c1 => s2.writeImage ctx c1 image
      | none => s2
    let moved := List.filter (fun (p : Nat × Wave) => p.2.ctx == ctx) s3.waves
    let s4 := { s3 with
      waves := List.filter (fun (p : Nat × Wave) => p.2.ctx != ctx) s3.waves
      away := s3.away ++ moved }
    let free (r : RowCounter) : RowCounter := if r.owner = some ctx then RowCounter.free else r
    let s5 := { s4 with cores := s4.cores.map (fun (x : Nat × Core) =>
      (x.1, { x.2 with rows := x.2.rows.map (fun (r : Nat × RowCounter) => (r.1, free r.2)) })) }
    let s6 := (s5.modCtx ctx (fun c => { c with state := 0 })).putImageState image 0
    let killed := (c.pending.filter (fun p => p.answer == some 4)).map Pending.lid
    let s7 := killed.foldl (fun s l => s.killLaunch 10 l) s6
    (((moved.map (fun p => p.1 / 48)).dedup).foldl (fun s part => s.fillActive 8 part) s7).setResult 0 |>.endOp

/-! ### Switching in (R379) -/

/-- The registers of an image header (R382) in a context. -/
def State.readHeader (s : State) (image : Nat) (c : Ctx) : Ctx :=
  let f (o n : Nat) : Nat := s.imageField image o n
  { c with
    image := BitVec.ofNat 64 image, ptbase := BitVec.ofNat 64 (f 8 8), privbase := BitVec.ofNat 64 (f 16 8),
    spillbase := BitVec.ofNat 64 (f 24 8), csbase := f 32 4, cssize := f 36 4, rtbase := BitVec.ofNat 64 (f 40 8),
    tqring := BitVec.ofNat 64 (f 48 8), poolmin := f 56 2, poolcap := f 58 2, ringsize := f 60 4,
    ringbase := BitVec.ofNat 64 (f 64 8), raydrop := BitVec.ofNat 32 (f 72 4), trapseq := BitVec.ofNat 32 (f 76 4) }

/-- The bits of a byte of an image, by its offset, that the tables of R381 and R383 have as zero; of an empty queue entry, marked by the byte
state, none. -/
def imageZeros (off : Nat) (state : Byte) : Byte :=
  let from_ (o size first : Nat) : Byte := if first ≤ (off - o) % size then 0xFF else 0
  if 0x100 ≤ off ∧ off < 0x700 then from_ 0x100 192 136
  else if (0x740 ≤ off ∧ off < 0x1000) ∨ (0x1900 ≤ off ∧ off < 0x2000) then 0xFF
  else if 0x2000 ≤ off ∧ off < 0x4000 then (if off % 8 = 4 then 0xFC else from_ 0x2000 8 5)
  else if 0x4000 ≤ off ∧ off < 0xE000 then from_ 0x4000 128 68
  else if 0xE000 ≤ off ∧ off < 0x14E000 ∧ state ≠ 0xFF then
    (if 60 ≤ off % 128 ∧ off % 128 < 64 then 0xFF else if off % 128 = 11 then 0xE0 else from_ 0xE000 128 80)
  else 0

/-- No reserved field of what a switch-in takes from an image is other than zero (00 R4; R381, R383; log entry 26). -/
def State.imageClean (s : State) (image : Nat) : Bool :=
  let base := s.imageKey image 0
  s.mem.all (fun c => decide (c.1 < base) || decide (base + imageBytes ≤ c.1) ||
    c.2 &&& imageZeros (c.1 - base) (s.byte (base + (c.1 - base) / 128 * 128 + 5)) == 0)

/-- The limits of 09 R268, 11 R323 and R382, and of what a later switch-in takes from the image; that the table at PTBASE lies in device
memory is the model's (log entry 69). -/
def State.headerOk (s : State) (ctx image : Nat) (c : Ctx) : Bool :=
  let gib := 2 ^ 30
  s.imageField image 0 4 == ctx && c.ptbase.toNat % 4096 == 0 && c.ptbase.toNat / 2 ^ 48 == s.did &&
  c.ptbase.toNat % 2 ^ 48 + 4096 ≤ Config.deviceBytes &&
  c.privbase.toNat % 65536 == 0 && c.privbase.toNat + 36 * gib ≤ 2 ^ 48 &&
  c.spillbase.toNat % 65536 == 0 && c.spillbase.toNat + 864 * 2 ^ 20 ≤ 2 ^ 48 &&
  c.csbase % 65536 == 0 && c.cssize % 65536 == 0 && c.csbase + c.cssize ≤ 32 * 2 ^ 20 &&
  c.rtbase.toNat % 1024 == 0 && c.rtbase.toNat + 1024 ≤ 2 ^ 48 && c.tqring.toNat % 32 == 0 &&
  c.poolmin ≤ 32768 && max c.poolmin 64 ≤ c.poolcap && c.poolcap ≤ 32768 && c.ringbase.toNat % 256 == 0 && c.ringsize ≤ 2 ^ 24 &&
  (s.bytes (s.imageKey image 80) 176).all (fun b => b == 0) &&
  ((match s.ctxs.find? ctx with
    | some x => x.state == 2
    | none => true) || s.imageClean image)

/-- A context that has never been switched in (12 R345; 07 R203). -/
def Ctx.fresh : Ctx :=
  { image := 0, state := 0, ptbase := 0, privbase := 0, spillbase := 0, csbase := 0, cssize := 0, rtbase := 0, tqring := 0,
    poolmin := 0, poolcap := 0, ringsize := 0, ringbase := 0, raydrop := 0, trapseq := 0, raised := none, regions := [], regionFault := none,
    cce := [], gsestat := [], trstat := [], queues := [], pending := [], backlog := [], frozen := false, tqfail := false,
    switchedIn := 0, ringHead := [], ringTail := [], ringHeld := [] }

/-- A cluster's CCE registers from the image; a new context takes only its allotment from it (R381; 12 R345; log entry 26). -/
def State.readCce (s : State) (image cl : Nat) (new : Bool) (c : Cce) : Cce :=
  let f (o n : Nat) : Nat := s.imageField image (0x100 + 192 * cl + o) n
  let c1 := { c with bboff := f 112 4, bbcap := f 116 4, cxsave := BitVec.ofNat 64 (f 120 8) }
  if new then c1
  else
    { c1 with
      chi := (List.range 16).foldl (fun m i => m.set 1 i (f (2 * i) 2)) []
      modei := (List.range 16).foldl (fun m i => m.set 1 i (f (32 + 2 * i) 2)) []
      modej := (List.range 16).foldl (fun m i => m.set 1 i (f (64 + 2 * i) 2)) []
      prog := BitVec.ofNat 64 (f 96 8), step := f 104 2 % 64, part := f 106 2, tilei := f 108 2, tilej := f 110 2,
      stat := BitVec.ofNat 32 (f 128 4 % 32), batchn := f 132 4 }

/-- The limits of 12 R345 and R346 on a cluster's registers. -/
def Cce.ok (c : Cce) : Bool :=
  let within (m : SMap Nat) (n : Nat) : Bool := m.all (fun x => 1 ≤ x.2 && x.2 ≤ n)
  c.bboff % 4096 == 0 && c.bbcap % 4096 == 0 && c.bboff + c.bbcap ≤ 2 ^ 21 && c.cxsave.toNat % 4096 == 0 &&
  within c.chi 4096 && within c.modei 256 && within c.modej 256 && c.batchn ≤ 65536

/-- Allotments of two contexts on one engine do not overlap (12 R346). -/
def Cce.apart (x y : Cce) : Bool := x.bbcap == 0 || y.bbcap == 0 || x.bboff + x.bbcap ≤ y.bboff || y.bboff + y.bbcap ≤ x.bboff

/-- The command of a queue entry of the image: what the image does not carry is kept from the device's own copy (R377, R383). -/
def State.readEntry (s : State) (image qi i : Nat) (old : Queue) : Option QEntry :=
  let f (o n : Nat) : Nat := s.imageField image (0xE000 + 4096 * qi + 128 * i + o) n
  if f 5 1 = 0xFF then none
  else
    let seq := f 0 4 / 16
    let blank : QEntry :=
      { seq := seq, sub := 0, state := 0, prio := 0, wave := 0, uid := 0, who := 0, lid := 0, block := [], progress := [], held := [],
        waits := [], finished := false, group := 0, tickets := [(qi, seq)] }
    let e := (old.entries.find? (fun e => e.seq == seq)).getD blank
    some { e with
      sub := f 4 1, state := f 5 1, prio := f 6 1, who := BitVec.ofNat 32 (f 8 4), lid := f 12 4,
      block := (List.range (f 7 1)).map (fun i => BitVec.ofNat 32 (f (16 + 4 * i) 4)),
      progress := (List.range 4).map (fun i => f (64 + 4 * i) 4) }

/-- A queue from the image (R383); what a kill cancelled while the context was out stays cancelled (R385). -/
def State.readQueue (s : State) (image qi : Nat) (old : Queue) : Queue :=
  let h (o n : Nat) : Nat := s.imageField image (0x4000 + 128 * qi + o) n
  let count := h 64 4
  let gone (seq : Nat) : Bool := old.history.any (fun x => x.1 == seq && x.2 == 4)
  let codes := (List.range 256).map (fun j => ((count + 2 ^ 28 - 1 - j) % 2 ^ 28, h (j / 4) 1 / 4 ^ (j % 4) % 4))
  { count := count, used := old.used,
    entries := ((List.range 32).filterMap (fun i => s.readEntry image qi i old)).filter (fun e => !gone e.seq),
    history := (codes.filter (fun c => c.2 < 2 || gone c.1)).map (fun c => (c.1, if c.2 = 0 then 2 else 4)) }

/-- A CCE command that is taken up again goes on from its progress field (12 R364; R377). -/
def Cce.goOn (c : Cce) (e : QEntry) : Cce :=
  let p (i : Nat) : Nat := e.progress.getD i 0
  if e.held = [] ∨ e.state = 0 then c
  else if e.sub = 14 then { c with step := p 0 % 64, part := p 0 / 2 ^ 16, tilei := p 1 % 2 ^ 16, tilej := p 1 / 2 ^ 16 }
  else if e.sub = 17 then { c with tilei := p 1 % 2 ^ 16, tilej := p 1 / 2 ^ 16 }
  else c

/-- A cluster's registers with the commands that are kept in its CCE's queues. -/
def Cce.withQueues (c : Cce) (cl : Nat) (queues : SMap Queue) : Cce :=
  (List.range 4).foldl (fun c i =>
    match (queues.find? (256 + 8 * cl + 4 + i)).bind (fun q => q.entries.head?) with
    | some e => c.goOn e
    | none => c) c

/-- A cluster's allotments after its save area has been read: what was saved; where the area holds other bytes or cannot be read, every
element has a free value (12 R346; log entry 26). -/
def Cce.restored (c : Cce) (number : Nat) (r : Except Bad (List Byte)) : Cce :=
  let same : Bool := match r, c.saved with
    | .ok bs, some (n, k) => bs == (List.range k).map (fun i => Config.freeByte (n + i))
    | .ok bs, none => bs.isEmpty
    | .error _, _ => false
  let free (b : Boundary) : Boundary := { b with data := b.data.mapIdx (fun i _ => Config.freeWord (number + i)) }
  let job (j : Job) : Job := { j with acc := j.acc.map (fun (x : Nat × Word) => (x.1, Config.freeWord (number + x.1))) }
  if same then { c with saved := none }
  else { c with bnd := free c.bnd, parent := c.parent.map free, job := c.job.map job, saved := none }

/-- Read the save areas of a context's clusters; none while a line is on its way (12 R346). -/
def State.restoreAreas (s : State) (ctx : Nat) : List Cce → List Cce → State × Option (List Cce)
  | [], got => (s, some got)
  | c :: cs, got =>
    match s.readVirtual deviceTlb ctx c.cxsave.toNat (2 * c.bbcap) with
    | (s1, .error .miss) => (s1, none)
    | (s1, .error (.fault x a)) => State.restoreAreas { s1 with fresh := s1.fresh + 2 ^ 24 } ctx cs (got ++ [c.restored s1.fresh (.error (.fault x a))])
    | (s1, .ok bs) => State.restoreAreas { s1 with fresh := s1.fresh + bs.length } ctx cs (got ++ [c.restored s1.fresh (.ok bs)])

/-- Row counters from the image (R379, R381). -/
def State.readRows (s : State) (ctx image : Nat) : State :=
  (List.range 1024).foldl (fun s i =>
    let f (o n : Nat) : Nat := s.imageField image (0x2000 + 8 * i + o) n
    let flags := f 4 4
    if flags % 2 = 1 then
      s.setRowc (i / 16) (i % 16) { val := BitVec.ofNat 32 (f 0 4), owner := some ctx, named := flags / 2 % 2 == 1 }
    else s) s

/-- Apply the wake vector to the waves that are to return (R379; 08 R254). -/
def State.applyWake (s : State) (ctx image : Nat) : State :=
  let bit (k : Nat) : Bool := s.imageField image (0x1000 + k / 8) 1 / 2 ^ (k % 8) % 2 == 1
  let mine := s.away.filter (fun (p : Nat × Wave) => p.2.ctx == ctx)
  let woken (p : Nat × Wave) : Nat × Wave := if p.2.ctx = ctx ∧ bit p.1 = true then (p.1, p.2.wakeMon) else p
  let s1 := (mine.filter (fun p => !bit p.1)).foldl (fun s p => s.rereadMonw p.1 p.2) { s with away := s.away.map woken }
  s1.clearWake (BitVec.ofNat 64 image)

/-- Waves that must return to a core in another split mode have it reserved for their launch (R379; 10 R309). -/
def State.reserveReturns (s : State) (ctx : Nat) : State :=
  (s.away.filter (fun (p : Nat × Wave) => p.2.ctx == ctx)).foldl (fun s p =>
    match s.launches.find? p.2.lid with
    | some l =>
      if (s.core (cidOf p.1)).split = l.record.split ∨ cidOf p.1 ∈ l.reserved then s
      else { s with launches := s.launches.put p.2.lid { l with reserved := l.reserved ++ [cidOf p.1] } }
    | none => s) s

/-- No unit holds a translation of a context. -/
def State.dropTlb (s : State) (ctx : Nat) : State :=
  let keep (es : List TlbEntry) : List TlbEntry := es.filter (fun e => e.ctx != ctx)
  { s with
    cores := s.cores.map (fun (x : Nat × Core) => (x.1, { x.2 with tlb := keep x.2.tlb }))
    tlb2 := s.tlb2.map (fun (x : Nat × List TlbEntry) => (x.1, keep x.2))
    walks := s.walks.map (fun (x : Nat × List WalkEntry) => (x.1, x.2.filter (fun e => e.ctx != ctx))) }

/-- A grant that is new or has moved has undefined contents, even back where it was; one that stands keeps them (09 R275). -/
def State.grant (s : State) (ctx : Nat) (new : Bool) (base size : Nat) : State :=
  let meets (g : Nat × Nat × Nat × Nat) : Bool := decide (g.2.1 < base + size ∧ base < g.2.1 + g.2.2.1)
  let stands : Bool := !new && (match s.grants.find? meets with
    | some g => g.1 == ctx && g.2.1 == base && g.2.2.1 == size
    | none => false)
  let others := s.grants.filter (fun g => g.1 != ctx)
  if size = 0 then { s with grants := others }
  else if stands then s
  else
    { s.tick1 with
      grants := (ctx, base, size, s.fresh) :: others
      chip := s.chip.filter (fun (x : Nat × Byte) => x.1 < base || base + size ≤ x.1) }

/-- Load a context whose image has been checked and whose tables have been read (R379). -/
def State.loadContext (s : State) (ctx image : Nat) (new : Bool) (c : Ctx) (cces : List Cce) (regions : Except Bad (List Byte)) : State :=
  let queues : SMap Queue := if new then [] else
    ((List.range 320).map (fun q => (q, s.readQueue image q (c.queue q)))).filter (fun q => q.2 != Queue.fresh)
  let stats (o : Nat) : SMap Word := if new then [] else
    (List.range 8).map (fun cl => (cl, BitVec.ofNat 32 (s.imageField image (0x700 + 8 * cl + o) 4 % 32)))
  let c1 : Ctx := { c with
    state := 1, frozen := false, tqfail := false, switchedIn := s.fresh,
    cce := cces.zipIdx.map (fun x => (x.2, x.1.withQueues x.2 queues)), gsestat := stats 0, trstat := stats 4, queues := queues }
  let s1 := (s.tick1.setCtx ctx c1).grant ctx new c.csbase c.cssize
  let s2 := if new then s1 else s1.readRows ctx image
  let s3 := ((s2.applyWake ctx image).reserveReturns ctx).putImageState image 1
  let s4 := (s3.setRegions ctx regions).1.flushBacklog 4096 ctx
  let s5 := c.pending.foldl (fun s p => match p.answer with
    | some code => s.applyAnswer ctx p code
    | none => s) s4
  (s5.groupsOf ctx).foldl State.tryResume s5

/-- A switch-in whose image has been checked: the region table and the save areas are read, through the image's page table; while a line is
on its way the operation goes on waiting, and keeps of the header only what these reads need (R379; 08 R258; 12 R346). -/
def State.readContext (s : State) (ctx image : Nat) (new : Bool) (old c : Ctx) (cces : List Cce) : State :=
  let waiting := { c with state := if new then 2 else 0, csbase := old.csbase, cssize := old.cssize }
  let s0 := (s.setCtx ctx waiting).dropTlb ctx
  match s0.readVirtual deviceTlb ctx c.rtbase.toNat 1024 with
  | (s1, .error .miss) => s1
  | (s1, r) =>
    match if new then (s1, some cces) else s1.restoreAreas ctx cces [] with
    | (s2, none) => s2
    | (s2, some cces1) => (s2.loadContext ctx image new c cces1 r).setResult 0

/-- The steps of a switch-in: the header is read and checked; a refusal leaves the device unchanged but for its result (R375, R379). -/
def State.switchIn (s : State) (ctx image : Nat) : State :=
  let old := (s.ctxs.find? ctx).getD Ctx.fresh
  let new := (s.ctxs.find? ctx).isNone || old.state == 2
  if !s.imageOk image then s.setResult 4
  else
    let c := s.readHeader image (if new then Ctx.fresh else old)
    let others := s.ctxs.filter (fun (x : Nat × Ctx) => x.1 != ctx && (x.2.state == 1 || x.2.state == 3))
    let cces := (List.range 8).map (fun cl => s.readCce image cl new (c.cce.get Cce.fresh cl))
    if (old.state = 1 ∨ old.state = 3) ∨ s.imageField image 4 4 ≠ 0 then s.setResult 5
    else if !s.headerOk ctx image c then s.setResult 1
    else if 32768 < c.poolmin + (others.map (fun x => x.2.poolmin)).sum then s.setResult 2
    else if cces.any (fun x => !x.ok) || others.any (fun x => (List.range 8).any (fun cl =>
        !(cces.getD cl Cce.fresh).apart (x.2.cce.get Cce.fresh cl))) then s.setResult 3
    else s.readContext ctx image new old c cces

/-- SWITCH_IN. -/
def evSwitchIn (ctx : Nat) (s : State) : State := s.startOp ctx 1 (fun s => s.switchIn ctx s.regs.ctxaddr.toNat)
def execSwitchIn (ctx : Nat) : State → Host.Outcome State Fault Refusal := controlEvent (evSwitchIn ctx)

/-- No wave parked on REGREQ in its partition has the freed blocks before a returning wave (01 R33). -/
def State.mayReturn (s : State) (k : Nat) (w : Wave) : Bool := if w.asks.isSome then s.asksFirst k w else (s.firstAsk (k / 48)).isNone

/-- A wave of a context that was switched in comes back to its recorded slot when the slot and its registers are free, no request has them
first, and the core is, or can be put, in its launch's split mode; its group goes on when all are back (01 R33; R379). -/
def State.returnAway (s : State) (k : Nat) (w : Wave) : State :=
  let cid := cidOf k
  let split := (s.splitOf w.lid).getD (s.core cid).split
  if !s.isIn w.ctx || (s.waves.find? k).isSome || !s.eligibleCore cid split || s.freeRegs (k / 48) < w.need ||
      !s.mayReturn k w then s
  else
    let s1 := s.changeSplit cid split
    match s1.readSpill k w with
    | (s2, none) => s2
    | (s2, some w1) =>
      let s3 := { s2.setWave k { w1 with resident := true, longParked := false } with
        away := s2.away.filter (fun (p : Nat × Wave) => p.2.uid != w.uid)
        launches := s2.launches.modify w.lid (fun l => { l with reserved := l.reserved.filter (· != cid) }) }
      ((s3.dropClean cid).fillActive 8 (k / 48)).tryResume w.group

/-- SPILL_RETURN: the oldest spilled wave comes back to its slot, a request granted (01 R34; 10 R315), or a wave of a context that was
switched in (R379). -/
def evSpillReturn (k : Nat) (s : State) : State :=
  match List.find? (fun (p : Nat × Wave) => p.1 == k && s.isIn p.2.ctx) s.away with
  | some (_, w) => s.returnAway k w
  | none => s.returnSpilled k
def execSpillReturn (wave : Nat) : State → Host.Outcome State Fault Refusal := event (evSpillReturn wave)

/-! ### The operations of CTXCTL (R375) -/

/-- CTX_NONE: operation 0 (R375). -/
def evCtxNone (ctx : Nat) (s : State) : State := s.startOp ctx 0 (fun s => (s.setResult 0).endOp)
def execCtxNone (ctx : Nat) : State → Host.Outcome State Fault Refusal := controlEvent (evCtxNone ctx)

/-- CTX_RESERVED_OP: operations 6 to 15 (R375). -/
def evCtxReservedOp (ctx op : Nat) (s : State) : State :=
  if 6 ≤ op ∧ op ≤ 15 then s.startOp ctx op (fun s => (s.setResult 5).endOp) else s
def execCtxReservedOp (ctx op : Nat) : State → Host.Outcome State Fault Refusal := controlEvent (evCtxReservedOp ctx op)

/-- KILL_CONTEXT (R375, R386). -/
def evKillContext (ctx : Nat) (s : State) : State :=
  s.startOp ctx 3 (fun s =>
    if ((s.ctxs.find? ctx).map Ctx.state) = some 2 then s.setResult 5
    else if !s.imageOk s.regs.ctxaddr.toNat && !s.isIn ctx then s.setResult 4
    else (s.killContext ctx).setResult 0)
def execKillContext (ctx : Nat) : State → Host.Outcome State Fault Refusal := controlEvent (evKillContext ctx)

/-- KILL_LAUNCH: the launch whose id CTXADDR holds (R375, R385). -/
def evKillLaunch (ctx : Nat) (s : State) : State :=
  s.startOp ctx 4 (fun s =>
    let lid := s.regs.ctxaddr.toNat % 2 ^ 32
    if ((s.launches.find? lid).map Launch.ctx) = some ctx then (s.killLaunch 10 lid).setResult 0 else s.setResult 5)
def execKillLaunch (ctx : Nat) : State → Host.Outcome State Fault Refusal := controlEvent (evKillLaunch ctx)

/-- HALT_CONTEXT: every group halts and waits for a switch-out and a switch-in (R375). -/
def evHaltContext (ctx : Nat) (s : State) : State :=
  s.startOp ctx 5 (fun s =>
    if s.isIn ctx then
      (((s.groupsOf ctx).foldl State.haltGroup s).modCtx ctx (fun c => { c with frozen := true })).setResult 0
    else s.setResult 5)
def execHaltContext (ctx : Nat) : State → Host.Outcome State Fault Refusal := controlEvent (evHaltContext ctx)

/-- The records of a context have been written, or will not be before its next switch-in (R366, R380). -/
def Ctx.recordsOut (c : Ctx) : Bool := c.backlog.isEmpty || c.tqfail

/-- No ray of a context is in traversal (R378). -/
def State.raysCarried (s : State) (ctx : Nat) : Bool := !s.rays.any (fun (r : Nat × Ray) => r.2.ctx == ctx && r.2.place == .traversing)

/-- No addition of a context waits for its tile or is on its own way to its home (08 R260, R266). -/
def State.addsDone (s : State) (ctx : Nat) : Bool :=
  let waits (p : Nat × Wave) : Bool := p.2.ctx == ctx && p.2.st.any (fun o => !o.adds.isEmpty)
  !s.waves.any waits && !s.away.any waits && !s.owing.any (fun x => x.ctx == ctx && !x.op.adds.isEmpty) &&
  !s.drains.any (fun d => d.single && d.ctxs.contains ctx)

/-- No core gathers additions of a context, and what went to other devices, drains and copies among it, has been acknowledged (08 R266). -/
def State.drainsOut (s : State) (ctx : Nat) : Bool :=
  !s.gathers ctx && !s.txns.any (fun t => match t.purpose with
    | .delta _ _ _ => true
    | .other => true
    | _ => false)

/-- CONTEXT_OP_COMPLETE: a switch-out once everything has stopped and its records are written, a switch-in once its tables have been read, a
halt once every wave has stopped, the others at once (R375, R376, R379, R380). -/
def evContextOpComplete (s : State) : State :=
  let v := s.regs.ctxctl.toNat
  let ctx := v % 4096
  if !s.regs.busy then s
  else match s.ctxs.find? ctx with
    | none => s.endOp
    | some c =>
      if c.state = 3 then
        (if s.allStopped ctx && s.raysCarried ctx && s.addsDone ctx && c.recordsOut then
          (let s1 := s.drainContext ctx
           if s1.drainsOut ctx then s1.finishSwitchOut ctx c else s1)
        else s)
      else if v / 4096 = 1 ∧ s.regs.outcome.isNone = true then s.switchIn ctx c.image.toNat
      else if v / 4096 = 5 ∧ s.regs.outcome = some 0 ∧ s.haltedStopped ctx = false then s
      else s.endOp
def execContextOpComplete : State → Host.Outcome State Fault Refusal := event evContextOpComplete

end Sys2Proof.Machine
end

