-- ==== Sys2Proof/Machine/Scalar.lean ====
section
/-! DEFINITION. The scalar integer and floating-point operations, once per issue (01 R20; 04 R121, R128 to R130; 05 R151). -/

namespace Sys2Proof.Machine

/-- A scalar operation of two sources (04 R128). -/
def scl2 (f : Word → Word → Word) (d a b : BitVec 7) : State → Host.Outcome State Fault Refusal :=
  runWave { guard := none, ops := [.scl d 1, .scl a 1, .scl b 1] }
    (fun _ _ w => w.sset d.toNat (f (w.sget a.toNat) (w.sget b.toNat)))

/-- A scalar floating-point operation: the result in sd, its flags in FSR (05 R151). -/
def sfp2 (f : RM → Word → Word → Word × Flags) (d a b : BitVec 7) : State → Host.Outcome State Fault Refusal :=
  runWave { guard := none, ops := [.scl d 1, .scl a 1, .scl b 1] }
    (fun _ _ w =>
      let r := f w.rm (w.sget a.toNat) (w.sget b.toNat)
      (w.sset d.toNat r.1).raise r.2)

/-- A scalar floating-point operation of one source (05 R151). -/
def sfp1 (f : RM → Word → Word × Flags) (d a : BitVec 7) : State → Host.Outcome State Fault Refusal :=
  runWave { guard := none, ops := [.scl d 1, .scl a 1] }
    (fun _ _ w =>
      let r := f w.rm (w.sget a.toNat)
      (w.sset d.toNat r.1).raise r.2)

/-- SADD (04 R128). -/
def execSadd (d a b : BitVec 7) : State → Host.Outcome State Fault Refusal := scl2 (fun a b => a + b) d a b

/-- SSUB (04 R128). -/
def execSsub (d a b : BitVec 7) : State → Host.Outcome State Fault Refusal := scl2 (fun a b => a - b) d a b

/-- SMUL (04 R128). -/
def execSmul (d a b : BitVec 7) : State → Host.Outcome State Fault Refusal := scl2 (fun a b => a * b) d a b

/-- SMULH (04 R128). -/
def execSmulh (d a b : BitVec 7) : State → Host.Outcome State Fault Refusal := scl2 mulhWord d a b

/-- SAND (04 R128). -/
def execSand (d a b : BitVec 7) : State → Host.Outcome State Fault Refusal := scl2 (fun a b => a &&& b) d a b

/-- SOR (04 R128). -/
def execSor (d a b : BitVec 7) : State → Host.Outcome State Fault Refusal := scl2 (fun a b => a ||| b) d a b

/-- SXOR (04 R128). -/
def execSxor (d a b : BitVec 7) : State → Host.Outcome State Fault Refusal := scl2 (fun a b => a ^^^ b) d a b

/-- SSHL (04 R128). -/
def execSshl (d a b : BitVec 7) : State → Host.Outcome State Fault Refusal := scl2 shlWord d a b

/-- SSHR (04 R128). -/
def execSshr (d a b : BitVec 7) : State → Host.Outcome State Fault Refusal := scl2 shrWord d a b

/-- SSAR (04 R128). -/
def execSsar (d a b : BitVec 7) : State → Host.Outcome State Fault Refusal := scl2 sarWord d a b

/-- SMIN (04 R128). -/
def execSmin (d a b : BitVec 7) : State → Host.Outcome State Fault Refusal := scl2 iminWord d a b

/-- SMAX (04 R128). -/
def execSmax (d a b : BitVec 7) : State → Host.Outcome State Fault Refusal := scl2 imaxWord d a b

/-- SUMIN (04 R128). -/
def execSumin (d a b : BitVec 7) : State → Host.Outcome State Fault Refusal := scl2 uminWord d a b

/-- SUMAX (04 R128). -/
def execSumax (d a b : BitVec 7) : State → Host.Outcome State Fault Refusal := scl2 umaxWord d a b

/-- SSLT (04 R128). -/
def execSslt (d a b : BitVec 7) : State → Host.Outcome State Fault Refusal := scl2 (fun a b => if a.slt b then 1 else 0) d a b

/-- SMOV (04 R128). -/
def execSmov (d a : BitVec 7) : State → Host.Outcome State Fault Refusal :=
  runWave { guard := none, ops := [.scl d 1, .scl a 1] } (fun _ _ w => w.sset d.toNat (w.sget a.toNat))

/-- SADDI (04 R129). -/
def execSaddi (d a : BitVec 7) (i : BitVec 11) : State → Host.Outcome State Fault Refusal :=
  runWave { guard := none, ops := [.scl d 1, .scl a 1] }
    (fun iss _ w => w.sset d.toNat (w.sget a.toNat + immWord i iss))

/-- SMOVI (04 R121). -/
def execSmovi (d : BitVec 7) (i : BitVec 18) : State → Host.Outcome State Fault Refusal :=
  runWave { guard := none, ops := [.scl d 1] } (fun iss _ w => w.sset d.toNat ((iss.immC i).setWidth 32))

/-- SFADD (05 R151). -/
def execSfadd (d a b : BitVec 7) : State → Host.Outcome State Fault Refusal := sfp2 fadd d a b

/-- SFSUB (05 R151). -/
def execSfsub (d a b : BitVec 7) : State → Host.Outcome State Fault Refusal := sfp2 fsub d a b

/-- SFMUL (05 R151). -/
def execSfmul (d a b : BitVec 7) : State → Host.Outcome State Fault Refusal := sfp2 fmul d a b

/-- SFFMA: c is sd (03 R86, 05 R151). -/
def execSffma (d a b : BitVec 7) : State → Host.Outcome State Fault Refusal :=
  runWave { guard := none, ops := [.scl d 1, .scl a 1, .scl b 1] }
    (fun _ _ w =>
      let r := ffma w.rm (w.sget a.toNat) (w.sget b.toNat) (w.sget d.toNat)
      (w.sset d.toNat r.1).raise r.2)

/-- SFMIN (05 R145, R151). -/
def execSfmin (d a b : BitVec 7) : State → Host.Outcome State Fault Refusal := sfp2 (fun _ a b => (fmin a b, 0)) d a b

/-- SFMAX (05 R145, R151). -/
def execSfmax (d a b : BitVec 7) : State → Host.Outcome State Fault Refusal := sfp2 (fun _ a b => (fmax a b, 0)) d a b

/-- SFRCP (05 R146, R151). -/
def execSfrcp (d a : BitVec 7) : State → Host.Outcome State Fault Refusal := sfp1 frcp d a

/-- SFRSQ, bit for bit FRSQ (05 R147, R151). -/
def execSfrsq (d a : BitVec 7) : State → Host.Outcome State Fault Refusal := sfp1 (fun _ a => frsq a) d a

/-- SFSQRT (05 R146, R151). -/
def execSfsqrt (d a : BitVec 7) : State → Host.Outcome State Fault Refusal := sfp1 fsqrt d a

/-- An F32 value as a signed 32-bit integer (02 R70). -/
def toS32 (rm : RM) (a : Word) : Word × Flags :=
  let r := toIntRange rm (-2147483648) 2147483647 (f32 a)
  (BitVec.ofInt 32 r.1, r.2)

/-- A signed 32-bit integer as an F32 value (05 R151, R154). -/
def ofS32 (rm : RM) (a : Word) : Word × Flags := roundF32 rm (.ofInt (sint a))

/-- SCVTFI (05 R151). -/
def execScvtfi (d a : BitVec 7) : State → Host.Outcome State Fault Refusal := sfp1 toS32 d a

/-- SCVTIF (05 R151). -/
def execScvtif (d a : BitVec 7) : State → Host.Outcome State Fault Refusal := sfp1 ofS32 d a

/-- SFCMPLT: a NaN operand gives 0 and raises invalid (02 R72, 05 R151). -/
def execSfcmplt (d a b : BitVec 7) : State → Host.Outcome State Fault Refusal :=
  sfp2 (fun _ a b => match (f32 a).cmp (f32 b) with
    | none => (0, Flags.invalid)
    | some .lt => (1, 0)
    | some .eq => (0, 0)
    | some .gt => (0, 0)) d a b

end Sys2Proof.Machine
end

