-- ==== Sys2Proof/Machine/Float.lean ====
section
/-! DEFINITION. FP32 arithmetic, the unary group, packed F16, dots and complex pairs (05 R142 to R152). -/

namespace Sys2Proof.Machine

/-- R142 for two sources in one format: tags checked, each guarded lane written and its flags raised. -/
def fp2 (t : BitVec 6) (f : RM → Word → Word → Word × Flags) (d a b : BitVec 7) (g h : BitVec 2) :
    State → Host.Outcome State Fault Refusal :=
  runHold { preABD d a b g with tags := allChecks [checkSrc a t, checkSrc b t] }
    (holdValue h (fun w => w.src a) (fun w => w.src b) (resultOf d))
    (fun _ lanes w =>
      let r (l : Nat) := f w.rm (w.src a l).val (w.src b l).val
      (w.writeField d lanes (fun l => ⟨(r l).1, t⟩)).raise (flagsOver lanes (fun l => (r l).2)))

/-- R142 with D as the third source c (03 R86), in its own format. -/
def fp3 (t tc : BitVec 6) (f : RM → Word → Word → Word → Word × Flags) (d a b : BitVec 7) (g h : BitVec 2) :
    State → Host.Outcome State Fault Refusal :=
  runHold { preABD d a b g with tags := allChecks [checkSrc a t, checkSrc b t, checkGrp d 1 tc] }
    (holdValue h (fun w => w.src a) (fun w => w.src b) (resultOf d))
    (fun _ lanes w =>
      let r (l : Nat) := f w.rm (w.src a l).val (w.src b l).val (w.grp d 0 l).val
      (w.writeField d lanes (fun l => ⟨(r l).1, tc⟩)).raise (flagsOver lanes (fun l => (r l).2)))

/-- R142 for one source (05 R146). -/
def fp1 (f : RM → Word → Word × Flags) (d a : BitVec 7) (g h : BitVec 2) : State → Host.Outcome State Fault Refusal :=
  runHold { preAD d a g (h == 2) with tags := checkSrc a 1 }
    (holdValue h (fun w => w.src a) (fun w => w.src a) (resultOf d))
    (fun _ lanes w =>
      let r (l : Nat) := f w.rm (w.src a l).val
      (w.writeField d lanes (fun l => ⟨(r l).1, 1⟩)).raise (flagsOver lanes (fun l => (r l).2)))

/-- FADD (05 R144). -/
def execFadd (d a b : BitVec 7) (g h : BitVec 2) : State → Host.Outcome State Fault Refusal := fp2 1 fadd d a b g h

/-- FSUB (05 R144). -/
def execFsub (d a b : BitVec 7) (g h : BitVec 2) : State → Host.Outcome State Fault Refusal := fp2 1 fsub d a b g h

/-- FMUL (05 R144). -/
def execFmul (d a b : BitVec 7) (g h : BitVec 2) : State → Host.Outcome State Fault Refusal := fp2 1 fmul d a b g h

/-- FFMA (05 R144). -/
def execFfma (d a b : BitVec 7) (g h : BitVec 2) : State → Host.Outcome State Fault Refusal := fp3 1 1 ffma d a b g h

/-- FMIN (05 R145). -/
def execFmin (d a b : BitVec 7) (g h : BitVec 2) : State → Host.Outcome State Fault Refusal := fp2 1 (fun _ a b => (fmin a b, 0)) d a b g h

/-- FMAX (05 R145). -/
def execFmax (d a b : BitVec 7) (g h : BitVec 2) : State → Host.Outcome State Fault Refusal := fp2 1 (fun _ a b => (fmax a b, 0)) d a b g h

/-- FCLAMP (05 R145). -/
def execFclamp (d a b : BitVec 7) (g h : BitVec 2) : State → Host.Outcome State Fault Refusal := fp3 1 1 (fun _ a b c => (fclamp a b c, 0)) d a b g h

/-- a with a canonical NaN, or with its sign changed (05 R146). -/
def fmovWord (a : Word) : Word := if (f32 a).isNan then nan32 else a
def fnegWord (a : Word) : Word := if (f32 a).isNan then nan32 else a ^^^ 0x80000000
def fabsWord (a : Word) : Word := if (f32 a).isNan then nan32 else a &&& 0x7FFFFFFF

/-- FMOV (05 R146). -/
def execFmov (d a : BitVec 7) (g h : BitVec 2) : State → Host.Outcome State Fault Refusal := fp1 (fun _ a => (fmovWord a, 0)) d a g h

/-- FNEG (05 R146). -/
def execFneg (d a : BitVec 7) (g h : BitVec 2) : State → Host.Outcome State Fault Refusal := fp1 (fun _ a => (fnegWord a, 0)) d a g h

/-- FABS (05 R146). -/
def execFabs (d a : BitVec 7) (g h : BitVec 2) : State → Host.Outcome State Fault Refusal := fp1 (fun _ a => (fabsWord a, 0)) d a g h

/-- FRCP (05 R146). -/
def execFrcp (d a : BitVec 7) (g h : BitVec 2) : State → Host.Outcome State Fault Refusal := fp1 frcp d a g h

/-- FRSQ (05 R146). -/
def execFrsq (d a : BitVec 7) (g h : BitVec 2) : State → Host.Outcome State Fault Refusal := fp1 (fun _ a => frsq a) d a g h

/-- FSQRT (05 R146). -/
def execFsqrt (d a : BitVec 7) (g h : BitVec 2) : State → Host.Outcome State Fault Refusal := fp1 fsqrt d a g h

/-- FEXP2 (05 R146). -/
def execFexp2 (d a : BitVec 7) (g h : BitVec 2) : State → Host.Outcome State Fault Refusal := fp1 (fun _ a => fexp2 a) d a g h

/-- FLOG2 (05 R146). -/
def execFlog2 (d a : BitVec 7) (g h : BitVec 2) : State → Host.Outcome State Fault Refusal := fp1 (fun _ a => flog2 a) d a g h

/-- FSIN (05 R146). -/
def execFsin (d a : BitVec 7) (g h : BitVec 2) : State → Host.Outcome State Fault Refusal := fp1 (fun _ a => fsin a) d a g h

/-- FCOS (05 R146). -/
def execFcos (d a : BitVec 7) (g h : BitVec 2) : State → Host.Outcome State Fault Refusal := fp1 (fun _ a => fcos a) d a g h

/-- FFLOOR (05 R146). -/
def execFfloor (d a : BitVec 7) (g h : BitVec 2) : State → Host.Outcome State Fault Refusal := fp1 (fun _ a => ((toIntegral .rdn a).1, 0)) d a g h

/-- FCEIL (05 R146). -/
def execFceil (d a : BitVec 7) (g h : BitVec 2) : State → Host.Outcome State Fault Refusal := fp1 (fun _ a => ((toIntegral .rup a).1, 0)) d a g h

/-- FTRUNC (05 R146). -/
def execFtrunc (d a : BitVec 7) (g h : BitVec 2) : State → Host.Outcome State Fault Refusal := fp1 (fun _ a => ((toIntegral .rtz a).1, 0)) d a g h

/-- FRINT (05 R146). -/
def execFrint (d a : BitVec 7) (g h : BitVec 2) : State → Host.Outcome State Fault Refusal := fp1 (fun rm a => ((toIntegral rm a).1, Flags.when (toIntegral rm a).2 Flags.inexact)) d a g h

/-- FFRACT (05 R146). -/
def execFfract (d a : BitVec 7) (g h : BitVec 2) : State → Host.Outcome State Fault Refusal := fp1 (fun _ a => ffract a) d a g h

/-- FSIGN (05 R146). -/
def execFsign (d a : BitVec 7) (g h : BitVec 2) : State → Host.Outcome State Fault Refusal := fp1 (fun _ a => (fsign a, 0)) d a g h

/-- The value of an F16 element. -/
def f16 (c : Nat) : XR := Fmt.f16.value c

/-- HADD2 (05 R148). -/
def execHadd2 (d a b : BitVec 7) (g h : BitVec 2) : State → Host.Outcome State Fault Refusal := fp2 2 (fun rm a b => map2x16 (fun x y _ => dotF16 rm [] [f16 x, f16 y]) a b 0) d a b g h

/-- HSUB2 (05 R148). -/
def execHsub2 (d a b : BitVec 7) (g h : BitVec 2) : State → Host.Outcome State Fault Refusal := fp2 2 (fun rm a b => map2x16 (fun x y _ => dotF16 rm [] [f16 x, (f16 y).flip]) a b 0) d a b g h

/-- HMUL2 (05 R148). -/
def execHmul2 (d a b : BitVec 7) (g h : BitVec 2) : State → Host.Outcome State Fault Refusal := fp2 2 (fun rm a b => map2x16 (fun x y _ => mulF16 rm x y) a b 0) d a b g h

/-- HFMA2 (05 R148). -/
def execHfma2 (d a b : BitVec 7) (g h : BitVec 2) : State → Host.Outcome State Fault Refusal := fp3 2 2 (fun rm a b c => map2x16 (fun x y z => dotF16 rm [(f16 x, f16 y)] [f16 z]) a b c) d a b g h

/-- HMIN2 (05 R148). -/
def execHmin2 (d a b : BitVec 7) (g h : BitVec 2) : State → Host.Outcome State Fault Refusal := fp2 2 (fun _ a b => map2x16 (fun x y _ => (minF16 false x y, 0)) a b 0) d a b g h

/-- HMAX2 (05 R148). -/
def execHmax2 (d a b : BitVec 7) (g h : BitVec 2) : State → Host.Outcome State Fault Refusal := fp2 2 (fun _ a b => map2x16 (fun x y _ => (minF16 true x y, 0)) a b 0) d a b g h

/-- DOT2H (05 R149). -/
def execDot2h (d a b : BitVec 7) (g h : BitVec 2) : State → Host.Outcome State Fault Refusal := fp3 2 1
  (fun rm a b c => dotF32 rm ((List.range 2).map (fun e => (f16 (elemCode 16 e a), f16 (elemCode 16 e b)))) [f32 c]) d a b g h

/-- The value of element e of a register of 8-bit elements; NaN where its tag names none. -/
def elem8 (c : LCell) (e : Nat) : XR :=
  match elemOf c.tag with
  | some (k, _) => k.value (elemCode 8 e c.val)
  | none => .nan

/-- The integer value of element e of an I8x4 or N8x4 register (02 R63). -/
def int8 (c : LCell) (e : Nat) : Int :=
  let n := elemCode 8 e c.val
  if c.tag == 48 && 128 ≤ n then (n : Int) - 256 else n

/-- DOT4Q of one lane: a result, its flags and its tag (05 R150). -/
def dot4q (rm : RM) (a b : LCell) (c : Word) : Word × Flags × BitVec 6 :=
  if isInt8 a.tag then
    (satS32 ((List.range 4).foldl (fun acc e => acc + int8 a e * int8 b e) (sint c)), 0, 0)
  else
    let r := dotF32 rm ((List.range 4).map (fun e => (elem8 a e, elem8 b e))) [f32 c]
    (r.1, r.2, 1)

/-- The tags DOT4Q takes (05 R150). -/
def dot4qOk (a b c : LCell) : Bool :=
  (isB8 a.tag && isB8 b.tag && tagFixed 1 c) || (isInt8 a.tag && isInt8 b.tag)

/-- DOT4Q (05 R150). -/
def execDot4q (d a b : BitVec 7) (g h : BitVec 2) : State → Host.Outcome State Fault Refusal :=
  runHold { preABD d a b g with tags := fun w m => firstLane m (fun l => !dot4qOk (w.src a l) (w.src b l) (w.grp d 0 l)) }
    (holdValue h (fun w => w.src a) (fun w => w.src b) (resultOf d))
    (fun _ lanes w =>
      let r (l : Nat) := dot4q w.rm (w.src a l) (w.src b l) (w.grp d 0 l).val
      (w.writeField d lanes (fun l => ⟨(r l).1, (r l).2.2⟩)).raise (flagsOver lanes (fun l => (r l).2.1)))

/-! ### Complex pairs (02 R79, 05 R152) -/

/-- A complex value: real part in the first register. -/
abbrev Cx := XR × XR

/-- The complex value of a pair in a lane. -/
def Wave.cx (w : Wave) (f : BitVec 7) (l : Nat) : Cx := (f32 (w.grp f 0 l).val, f32 (w.grp f 1 l).val)

/-- Write a pair tagged C32 in the lanes of a mask, and raise each lane's flags. -/
def Wave.writeCx (w : Wave) (d : BitVec 7) (m : Word) (r : Nat → (Word × Flags) × (Word × Flags)) : Wave :=
  (w.writePair d m 4 (fun l => (r l).2.1 ++ (r l).1.1)).raise (flagsOver m (fun l => (r l).1.2 ||| (r l).2.2))

/-- A complex operation of two pairs, and of the D pair where it is a source. -/
def cx2 (useD : Bool) (f : RM → Cx → Cx → Cx → (Word × Flags) × (Word × Flags)) (d a b : BitVec 7) (g : BitVec 2) :
    State → Host.Outcome State Fault Refusal :=
  runWave { guard := some g.toNat, ops := [.vec d 2 2, .vec a 2 2, .vec b 2 2],
            tags := allChecks ([checkGrp a 2 4, checkGrp b 2 4] ++ (if useD then [checkGrp d 2 4] else [])) }
    (fun _ lanes w => w.writeCx d lanes (fun l => f w.rm (w.cx a l) (w.cx b l) (w.cx d l)))

/-- CADD (05 R152). -/
def execCadd (d a b : BitVec 7) (g : BitVec 2) : State → Host.Outcome State Fault Refusal :=
  cx2 false (fun rm x y _ => (sumF32 rm false [x.1, y.1], sumF32 rm false [x.2, y.2])) d a b g

/-- CSUB (05 R152). -/
def execCsub (d a b : BitVec 7) (g : BitVec 2) : State → Host.Outcome State Fault Refusal :=
  cx2 false (fun rm x y _ => (sumF32 rm false [x.1, y.1.flip], sumF32 rm false [x.2, y.2.flip])) d a b g

/-- CMUL (02 R79). -/
def execCmul (d a b : BitVec 7) (g : BitVec 2) : State → Host.Outcome State Fault Refusal :=
  cx2 false (fun rm x y _ => (dotF32 rm [(x.1, y.1), (x.2.flip, y.2)] [], dotF32 rm [(x.1, y.2), (x.2, y.1)] [])) d a b g

/-- CFMA (05 R152). -/
def execCfma (d a b : BitVec 7) (g : BitVec 2) : State → Host.Outcome State Fault Refusal :=
  cx2 true (fun rm x y c =>
    (dotF32 rm [(x.1, y.1), (x.2.flip, y.2)] [c.1], dotF32 rm [(x.1, y.2), (x.2, y.1)] [c.2])) d a b g

/-- CCMUL: conj(x) times y (02 R79). -/
def execCcmul (d a b : BitVec 7) (g : BitVec 2) : State → Host.Outcome State Fault Refusal :=
  cx2 false (fun rm x y _ => (dotF32 rm [(x.1, y.1), (x.2, y.2)] [], dotF32 rm [(x.1, y.2), (x.2.flip, y.1)] [])) d a b g

/-- CMAG2 (05 R152). -/
def execCmag2 (d a : BitVec 7) (g : BitVec 2) : State → Host.Outcome State Fault Refusal :=
  runWave { guard := some g.toNat, ops := [.vec d 1 1, .vec a 2 2], tags := checkGrp a 2 4 }
    (fun _ lanes w =>
      let r (l : Nat) := dotF32 w.rm [((w.cx a l).1, (w.cx a l).1), ((w.cx a l).2, (w.cx a l).2)] []
      (w.writeField d lanes (fun l => ⟨(r l).1, 1⟩)).raise (flagsOver lanes (fun l => (r l).2)))

/-- CEXPI: FCOS and FSIN of a phase (05 R152). -/
def execCexpi (d a : BitVec 7) (g : BitVec 2) : State → Host.Outcome State Fault Refusal :=
  runWave { guard := some g.toNat, ops := [.vec d 2 2, .src a], tags := checkSrc a 1 }
    (fun _ lanes w => w.writeCx d lanes (fun l => (fcos (w.src a l).val, fsin (w.src a l).val)))

/-- CSCALE (05 R152). -/
def execCscale (d a b : BitVec 7) (g : BitVec 2) : State → Host.Outcome State Fault Refusal :=
  runWave { guard := some g.toNat, ops := [.vec d 2 2, .vec a 2 2, .src b], tags := allChecks [checkGrp a 2 4, checkSrc b 1] }
    (fun _ lanes w => w.writeCx d lanes (fun l =>
      (fmul w.rm (w.grp a 0 l).val (w.src b l).val, fmul w.rm (w.grp a 1 l).val (w.src b l).val)))

end Sys2Proof.Machine
end

