-- ==== Sys2Proof/Machine/Convert.lean ====
section
/-! DEFINITION. Conversions, packing, block expansion and tags (05 R153 to R158). -/

namespace Sys2Proof.Machine

/-- Elements of a register of w-bit elements converted one for one from k to kt (05 R154). -/
def convElems (k kt : Elem) (w : Nat) (rm : RM) (sat : Bool) (v : Word) : Word × Flags :=
  let rs := (List.range (32 / w)).map (fun e => kt.convert rm sat (k.value (elemCode w e v)))
  (BitVec.ofNat 32 (packCodes w (rs.map Prod.fst)), rs.foldl (fun f r => f ||| r.2) 0)

/-- The conversion of CVT for a source tag, a target and B[6]; none where the table has no such row (05 R154). -/
def cvtOf (src t : BitVec 6) (s : BitVec 1) : Option (RM → Word → Word × Flags) :=
  if src = 1 ∧ t = 1 ∧ s = 0 then some (fun _ a => (fmovWord a, 0))
  else if src = 1 ∧ t = 0 ∧ s = 0 then some toS32
  else if src = 0 ∧ t = 1 ∧ s = 1 then some ofS32
  else
    let sameKind := (is16 src && is16 t) || ((isB8 src || isInt8 src) && (isB8 t || isInt8 t)) ||
      (isHalf src && isHalf t && s == 0)
    match sameKind, elemOf src, elemOf t with
    | true, some (k, w), some (kt, _) => some (fun rm a => convElems k kt w rm (s == 1) a)
    | _, _, _ => none

/-- CVT (05 R153, R154). -/
def execCvt (d a : BitVec 7) (s : BitVec 1) (t : BitVec 6) (g h : BitVec 2) : State → Host.Outcome State Fault Refusal :=
  runHold { preAD d a g (!cvtOk s t || h == 2) with
            badOperand := fun _ => !tagDefined t,
            tags := fun w m => firstLane m (fun l => (cvtOf (w.src a l).tag t s).isNone) }
    (holdValue h (fun w => w.src a) (fun w => w.src a) (resultOf d))
    (fun _ lanes w =>
      let r (l : Nat) : Word × Flags := match cvtOf (w.src a l).tag t s with
        | some f => f w.rm (w.src a l).val
        | none => (0, 0)
      (w.writeField d lanes (fun l => ⟨(r l).1, t⟩)).raise (flagsOver lanes (fun l => (r l).2)))

/-- The element count of a target format (05 R155). -/
def countOf (t : BitVec 6) : Nat :=
  match elemOf t with
  | some (_, w) => 32 / w
  | none => 1

/-- PACK of one lane: element e of the result from register a + e (05 R155). -/
def packLane (t : BitVec 6) (rm : RM) (sat : Bool) (v : Nat → Word) : Word × Flags :=
  match elemOf t with
  | none => (0, 0)
  | some (k, w) =>
    let rs := (List.range (32 / w)).map (fun e => k.convert rm sat (f32 (v e)))
    (BitVec.ofNat 32 (packCodes w (rs.map Prod.fst)), rs.foldl (fun f r => f ||| r.2) 0)

/-- PACK (05 R155). -/
def execPack (d a : BitVec 7) (s : BitVec 1) (t : BitVec 6) (g h : BitVec 2) : State → Host.Outcome State Fault Refusal :=
  runHold { guard := some g.toNat, reserved := !packOk s t || h == 2 || h == 1,
            ops := [.vec d 1 1, .vec a (countOf t) (countOf t)],
            badOperand := fun _ => !tagDefined t,
            tags := checkGrp a (countOf t) 1 }
    (holdValue h (resultOf d) (resultOf d) (resultOf d))
    (fun _ lanes w =>
      let r (l : Nat) := packLane t w.rm (s == 1) (fun e => (w.grp a e l).val)
      (w.writeField d lanes (fun l => ⟨(r l).1, t⟩)).raise (flagsOver lanes (fun l => (r l).2)))

/-- The group size that B[1:0] of UNPACK names (05 R156). -/
def widenCount (k : BitVec 2) : Nat := 2 ^ (k.toNat + 1)

/-- Element e of a register, exactly, as an F32 word (05 R156). -/
def widenElem (tag : BitVec 6) (v : Word) (e : Nat) : Word :=
  match elemOf tag with
  | some (k, w) => (roundF32 .rne (k.value (elemCode w e v))).1
  | none => nan32

/-- UNPACK, widening (05 R156). -/
def execUnpackWiden (d a : BitVec 7) (k g h : BitVec 2) : State → Host.Outcome State Fault Refusal :=
  runHold { guard := some g.toNat, reserved := k == 3 || h == 2 || h == 3,
            ops := [.vec d (widenCount k) (widenCount k), .src a],
            tags := fun w m => firstLane m (fun l => countOf (w.src a l).tag != widenCount k) }
    (holdValue h (fun w => w.src a) (fun w => w.src a) (fun w => w.src a))
    (fun _ lanes w => (List.range (widenCount k)).foldl (fun w' e =>
      w'.writeReg (w.wb + d.toNat + e) lanes (fun l => ⟨widenElem (w.src a l).tag (w.src a l).val e, 1⟩)) w)

/-- The 256 bytes a pair holds across the 32 lanes (05 R157). -/
def Wave.blockBytes (w : Wave) (a : BitVec 7) : List Byte :=
  (List.range 2).flatMap (fun j => laneNums.flatMap (fun l => bytesOf 4 (w.grp a j l).val.toNat))

/-- UNPACK, block expansion: the codec's bytes in the guarded lanes; a rejected format byte is a format mismatch (05 R157). -/
def execUnpackBlock (d a : BitVec 7) (g : BitVec 2) : State → Host.Outcome State Fault Refusal :=
  runState { guard := some g.toNat, ops := [.vec d 2 2, .vec a 2 2], reach := allSlots 0 [.vec a 2 2]
             tags := fun w _ => firstLane (BitVec.allOnes 32) (fun l => (w.grp a 0 l).tag != 0 || (w.grp a 1 l).tag != 0) }
    (fun s iss lanes w =>
      let bs := w.blockBytes a
      match decodeBlock (bs.getD 255 0).toNat bs with
      | none => .trap s .formatMismatch 0 (lowest lanes)
      | some x =>
        let word (j l : Nat) : Word := BitVec.ofNat 32 (ofBytes ((x.drop (128 * j + 4 * l)).take 4))
        let w1 := w.writePair d lanes 0 (fun l => word 1 l ++ word 0 l)
        .done (s.retire iss (w1.finish iss)))

/-- SETTAG (05 R158). -/
def execSettag (d a : BitVec 7) (t : BitVec 6) (g h : BitVec 2) : State → Host.Outcome State Fault Refusal :=
  runHold { preAD d a g (h == 2) with badOperand := fun _ => !tagDefined t }
    (holdValue h (fun w => w.src a) (fun w => w.src a) (resultOf d))
    (fun _ lanes w => w.writeField d lanes (fun l => ⟨(w.src a l).val, t⟩))

/-- GETTAG (05 R158). -/
def execGettag (d a : BitVec 7) (g h : BitVec 2) : State → Host.Outcome State Fault Refusal :=
  runHold (preAD d a g (h == 2)) (holdValue h (fun w => w.src a) (fun w => w.src a) (resultOf d))
    (fun _ lanes w => w.writeField d lanes (fun l => ⟨(w.src a l).tag.setWidth 32, 0⟩))

end Sys2Proof.Machine
end

