-- ==== Sys2Proof/Decode.lean ====
section
/-! DEFINITION. Reading an instruction from bytes and writing its words (03 R83 to R97), both from the spec's encoding tables. -/

namespace Sys2Proof

/-- Bits [lo + n - 1 : lo] of a word (00 R3). -/
abbrev bitsAt (lo n : Nat) (w : Word) : BitVec n := BitVec.extractLsb' lo n w

/-- Why bytes hold no instruction: too few bytes, or a word that no row of the table matches. -/
inductive Reject where
  | short
  | noRow (w : Word)
  deriving DecidableEq, Repr

/-- Opcode 0x01: IADD. -/
def decodeOp01 (w : Word) : Option Instr :=
  some (.iadd (bitsAt 18 7 w) (bitsAt 11 7 w) (bitsAt 4 7 w) (bitsAt 2 2 w) (bitsAt 0 2 w))

/-- Opcode 0x02: IADDS. -/
def decodeOp02 (w : Word) : Option Instr :=
  some (.iadds (bitsAt 18 7 w) (bitsAt 11 7 w) (bitsAt 4 7 w) (bitsAt 2 2 w) (bitsAt 0 2 w))

/-- Opcode 0x03: ISUB. -/
def decodeOp03 (w : Word) : Option Instr :=
  some (.isub (bitsAt 18 7 w) (bitsAt 11 7 w) (bitsAt 4 7 w) (bitsAt 2 2 w) (bitsAt 0 2 w))

/-- Opcode 0x04: ISUBS. -/
def decodeOp04 (w : Word) : Option Instr :=
  some (.isubs (bitsAt 18 7 w) (bitsAt 11 7 w) (bitsAt 4 7 w) (bitsAt 2 2 w) (bitsAt 0 2 w))

/-- Opcode 0x05: IMUL. -/
def decodeOp05 (w : Word) : Option Instr :=
  some (.imul (bitsAt 18 7 w) (bitsAt 11 7 w) (bitsAt 4 7 w) (bitsAt 2 2 w) (bitsAt 0 2 w))

/-- Opcode 0x06: IMULH. -/
def decodeOp06 (w : Word) : Option Instr :=
  some (.imulh (bitsAt 18 7 w) (bitsAt 11 7 w) (bitsAt 4 7 w) (bitsAt 2 2 w) (bitsAt 0 2 w))

/-- Opcode 0x07: IMULHU. -/
def decodeOp07 (w : Word) : Option Instr :=
  some (.imulhu (bitsAt 18 7 w) (bitsAt 11 7 w) (bitsAt 4 7 w) (bitsAt 2 2 w) (bitsAt 0 2 w))

/-- Opcode 0x08: IMAD. -/
def decodeOp08 (w : Word) : Option Instr :=
  some (.imad (bitsAt 18 7 w) (bitsAt 11 7 w) (bitsAt 4 7 w) (bitsAt 2 2 w) (bitsAt 0 2 w))

/-- Opcode 0x09: AND. -/
def decodeOp09 (w : Word) : Option Instr :=
  some (.land (bitsAt 18 7 w) (bitsAt 11 7 w) (bitsAt 4 7 w) (bitsAt 2 2 w) (bitsAt 0 2 w))

/-- Opcode 0x0A: OR. -/
def decodeOp0A (w : Word) : Option Instr :=
  some (.lor (bitsAt 18 7 w) (bitsAt 11 7 w) (bitsAt 4 7 w) (bitsAt 2 2 w) (bitsAt 0 2 w))

/-- Opcode 0x0B: XOR. -/
def decodeOp0B (w : Word) : Option Instr :=
  some (.lxor (bitsAt 18 7 w) (bitsAt 11 7 w) (bitsAt 4 7 w) (bitsAt 2 2 w) (bitsAt 0 2 w))

/-- Opcode 0x0C: ANDN. -/
def decodeOp0C (w : Word) : Option Instr :=
  some (.andn (bitsAt 18 7 w) (bitsAt 11 7 w) (bitsAt 4 7 w) (bitsAt 2 2 w) (bitsAt 0 2 w))

/-- Opcode 0x0D: SHL. -/
def decodeOp0D (w : Word) : Option Instr :=
  some (.shl (bitsAt 18 7 w) (bitsAt 11 7 w) (bitsAt 4 7 w) (bitsAt 2 2 w) (bitsAt 0 2 w))

/-- Opcode 0x0E: SHR. -/
def decodeOp0E (w : Word) : Option Instr :=
  some (.shr (bitsAt 18 7 w) (bitsAt 11 7 w) (bitsAt 4 7 w) (bitsAt 2 2 w) (bitsAt 0 2 w))

/-- Opcode 0x0F: SAR. -/
def decodeOp0F (w : Word) : Option Instr :=
  some (.sar (bitsAt 18 7 w) (bitsAt 11 7 w) (bitsAt 4 7 w) (bitsAt 2 2 w) (bitsAt 0 2 w))

/-- Opcode 0x10: IMIN. -/
def decodeOp10 (w : Word) : Option Instr :=
  some (.imin (bitsAt 18 7 w) (bitsAt 11 7 w) (bitsAt 4 7 w) (bitsAt 2 2 w) (bitsAt 0 2 w))

/-- Opcode 0x11: IMAX. -/
def decodeOp11 (w : Word) : Option Instr :=
  some (.imax (bitsAt 18 7 w) (bitsAt 11 7 w) (bitsAt 4 7 w) (bitsAt 2 2 w) (bitsAt 0 2 w))

/-- Opcode 0x12: UMIN. -/
def decodeOp12 (w : Word) : Option Instr :=
  some (.umin (bitsAt 18 7 w) (bitsAt 11 7 w) (bitsAt 4 7 w) (bitsAt 2 2 w) (bitsAt 0 2 w))

/-- Opcode 0x13: UMAX. -/
def decodeOp13 (w : Word) : Option Instr :=
  some (.umax (bitsAt 18 7 w) (bitsAt 11 7 w) (bitsAt 4 7 w) (bitsAt 2 2 w) (bitsAt 0 2 w))

/-- Opcode 0x14: LEA2. -/
def decodeOp14 (w : Word) : Option Instr :=
  if bitsAt 0 2 w = 0 then some (.lea2 (bitsAt 18 7 w) (bitsAt 11 7 w) (bitsAt 4 7 w) (bitsAt 2 2 w))
  else none

/-- Opcode 0x15: LEA3. -/
def decodeOp15 (w : Word) : Option Instr :=
  if bitsAt 0 2 w = 0 then some (.lea3 (bitsAt 18 7 w) (bitsAt 11 7 w) (bitsAt 4 7 w) (bitsAt 2 2 w))
  else none

/-- Opcode 0x16: MOV, NOT, NEG, IABS, POPC, CLZ, CTZ, BREV, BSWAP, LANEID, FIBID. -/
def decodeOp16 (w : Word) : Option Instr :=
  if bitsAt 4 7 w = 0 then some (.mov (bitsAt 18 7 w) (bitsAt 11 7 w) (bitsAt 2 2 w) (bitsAt 0 2 w))
  else if bitsAt 4 7 w = 1 then some (.lnot (bitsAt 18 7 w) (bitsAt 11 7 w) (bitsAt 2 2 w) (bitsAt 0 2 w))
  else if bitsAt 4 7 w = 2 then some (.neg (bitsAt 18 7 w) (bitsAt 11 7 w) (bitsAt 2 2 w) (bitsAt 0 2 w))
  else if bitsAt 4 7 w = 3 then some (.iabs (bitsAt 18 7 w) (bitsAt 11 7 w) (bitsAt 2 2 w) (bitsAt 0 2 w))
  else if bitsAt 4 7 w = 4 then some (.popc (bitsAt 18 7 w) (bitsAt 11 7 w) (bitsAt 2 2 w) (bitsAt 0 2 w))
  else if bitsAt 4 7 w = 5 then some (.clz (bitsAt 18 7 w) (bitsAt 11 7 w) (bitsAt 2 2 w) (bitsAt 0 2 w))
  else if bitsAt 4 7 w = 6 then some (.ctz (bitsAt 18 7 w) (bitsAt 11 7 w) (bitsAt 2 2 w) (bitsAt 0 2 w))
  else if bitsAt 4 7 w = 7 then some (.brev (bitsAt 18 7 w) (bitsAt 11 7 w) (bitsAt 2 2 w) (bitsAt 0 2 w))
  else if bitsAt 4 7 w = 8 then some (.bswap (bitsAt 18 7 w) (bitsAt 11 7 w) (bitsAt 2 2 w) (bitsAt 0 2 w))
  else if bitsAt 4 14 w = 9 then some (.laneid (bitsAt 18 7 w) (bitsAt 2 2 w) (bitsAt 0 2 w))
  else if bitsAt 4 14 w = 10 then some (.fibid (bitsAt 18 7 w) (bitsAt 2 2 w) (bitsAt 0 2 w))
  else none

/-- Opcode 0x17: SMOVI. -/
def decodeOp17 (w : Word) : Option Instr :=
  some (.smovi (bitsAt 18 7 w) (bitsAt 0 18 w))

/-- Opcode 0x18: IADDI. -/
def decodeOp18 (w : Word) : Option Instr :=
  some (.iaddi (bitsAt 18 7 w) (bitsAt 11 7 w) (bitsAt 0 11 w))

/-- Opcode 0x19: IMULI. -/
def decodeOp19 (w : Word) : Option Instr :=
  some (.imuli (bitsAt 18 7 w) (bitsAt 11 7 w) (bitsAt 0 11 w))

/-- Opcode 0x1A: ANDI. -/
def decodeOp1A (w : Word) : Option Instr :=
  some (.andi (bitsAt 18 7 w) (bitsAt 11 7 w) (bitsAt 0 11 w))

/-- Opcode 0x1B: ORI. -/
def decodeOp1B (w : Word) : Option Instr :=
  some (.ori (bitsAt 18 7 w) (bitsAt 11 7 w) (bitsAt 0 11 w))

/-- Opcode 0x1C: XORI. -/
def decodeOp1C (w : Word) : Option Instr :=
  some (.xori (bitsAt 18 7 w) (bitsAt 11 7 w) (bitsAt 0 11 w))

/-- Opcode 0x1D: SHLI. -/
def decodeOp1D (w : Word) : Option Instr :=
  if bitsAt 5 6 w = 0 then some (.shli (bitsAt 18 7 w) (bitsAt 11 7 w) (bitsAt 0 5 w))
  else none

/-- Opcode 0x1E: SHRI. -/
def decodeOp1E (w : Word) : Option Instr :=
  if bitsAt 5 6 w = 0 then some (.shri (bitsAt 18 7 w) (bitsAt 11 7 w) (bitsAt 0 5 w))
  else none

/-- Opcode 0x1F: SARI. -/
def decodeOp1F (w : Word) : Option Instr :=
  if bitsAt 5 6 w = 0 then some (.sari (bitsAt 18 7 w) (bitsAt 11 7 w) (bitsAt 0 5 w))
  else none

/-- Opcode 0x20: ICMP. -/
def decodeOp20 (w : Word) : Option Instr :=
  if bitsAt 0 2 w = 0 then some (.icmp (bitsAt 21 4 w) (bitsAt 18 3 w) (bitsAt 11 7 w) (bitsAt 4 7 w) (bitsAt 2 2 w))
  else none

/-- Opcode 0x21: UCMP. -/
def decodeOp21 (w : Word) : Option Instr :=
  if bitsAt 0 2 w = 0 then some (.ucmp (bitsAt 21 4 w) (bitsAt 18 3 w) (bitsAt 11 7 w) (bitsAt 4 7 w) (bitsAt 2 2 w))
  else none

/-- Opcode 0x22: FCMP. -/
def decodeOp22 (w : Word) : Option Instr :=
  if bitsAt 0 2 w = 0 then some (.fcmp (bitsAt 21 4 w) (bitsAt 18 3 w) (bitsAt 11 7 w) (bitsAt 4 7 w) (bitsAt 2 2 w))
  else none

/-- Opcode 0x23: HCMP. -/
def decodeOp23 (w : Word) : Option Instr :=
  if bitsAt 0 2 w = 0 then some (.hcmp (bitsAt 21 4 w) (bitsAt 18 3 w) (bitsAt 11 7 w) (bitsAt 4 7 w) (bitsAt 2 2 w))
  else none

/-- Opcode 0x24: ICMPI. -/
def decodeOp24 (w : Word) : Option Instr :=
  some (.icmpi (bitsAt 21 4 w) (bitsAt 18 3 w) (bitsAt 11 7 w) (bitsAt 0 11 w))

/-- Opcode 0x25: PLOG. -/
def decodeOp25 (w : Word) : Option Instr :=
  if bitsAt 0 2 w = 0 ∧ bitsAt 10 1 w = 0 ∧ bitsAt 15 3 w = 0 ∧ bitsAt 21 4 w = 0 then some (.plog (bitsAt 18 3 w) (bitsAt 14 1 w) (bitsAt 11 3 w) (bitsAt 8 2 w) (bitsAt 7 1 w) (bitsAt 4 3 w) (bitsAt 2 2 w))
  else none

/-- Opcode 0x26: PMOV. -/
def decodeOp26 (w : Word) : Option Instr :=
  if bitsAt 0 2 w = 0 ∧ bitsAt 6 5 w = 0 then some (.pmov (bitsAt 18 7 w) (bitsAt 11 7 w) (bitsAt 4 2 w) (bitsAt 2 2 w))
  else none

/-- Opcode 0x27: VOTE. -/
def decodeOp27 (w : Word) : Option Instr :=
  if bitsAt 0 2 w = 0 ∧ bitsAt 6 5 w = 0 ∧ bitsAt 15 3 w = 0 then some (.vote (bitsAt 18 7 w) (bitsAt 14 1 w) (bitsAt 11 3 w) (bitsAt 4 2 w) (bitsAt 2 2 w))
  else none

/-- Opcode 0x28: FADD. -/
def decodeOp28 (w : Word) : Option Instr :=
  some (.fadd (bitsAt 18 7 w) (bitsAt 11 7 w) (bitsAt 4 7 w) (bitsAt 2 2 w) (bitsAt 0 2 w))

/-- Opcode 0x29: FSUB. -/
def decodeOp29 (w : Word) : Option Instr :=
  some (.fsub (bitsAt 18 7 w) (bitsAt 11 7 w) (bitsAt 4 7 w) (bitsAt 2 2 w) (bitsAt 0 2 w))

/-- Opcode 0x2A: FMUL. -/
def decodeOp2A (w : Word) : Option Instr :=
  some (.fmul (bitsAt 18 7 w) (bitsAt 11 7 w) (bitsAt 4 7 w) (bitsAt 2 2 w) (bitsAt 0 2 w))

/-- Opcode 0x2B: FFMA. -/
def decodeOp2B (w : Word) : Option Instr :=
  some (.ffma (bitsAt 18 7 w) (bitsAt 11 7 w) (bitsAt 4 7 w) (bitsAt 2 2 w) (bitsAt 0 2 w))

/-- Opcode 0x2C: FMIN. -/
def decodeOp2C (w : Word) : Option Instr :=
  some (.fmin (bitsAt 18 7 w) (bitsAt 11 7 w) (bitsAt 4 7 w) (bitsAt 2 2 w) (bitsAt 0 2 w))

/-- Opcode 0x2D: FMAX. -/
def decodeOp2D (w : Word) : Option Instr :=
  some (.fmax (bitsAt 18 7 w) (bitsAt 11 7 w) (bitsAt 4 7 w) (bitsAt 2 2 w) (bitsAt 0 2 w))

/-- Opcode 0x2E: FCLAMP. -/
def decodeOp2E (w : Word) : Option Instr :=
  some (.fclamp (bitsAt 18 7 w) (bitsAt 11 7 w) (bitsAt 4 7 w) (bitsAt 2 2 w) (bitsAt 0 2 w))

/-- Opcode 0x2F: FMOV, FNEG, FABS, FRCP, FRSQ, FSQRT, FEXP2, FLOG2, FSIN, FCOS, FFLOOR, FCEIL, FTRUNC, FRINT, FFRACT, FSIGN. -/
def decodeOp2F (w : Word) : Option Instr :=
  if bitsAt 4 7 w = 0 then some (.fmov (bitsAt 18 7 w) (bitsAt 11 7 w) (bitsAt 2 2 w) (bitsAt 0 2 w))
  else if bitsAt 4 7 w = 1 then some (.fneg (bitsAt 18 7 w) (bitsAt 11 7 w) (bitsAt 2 2 w) (bitsAt 0 2 w))
  else if bitsAt 4 7 w = 2 then some (.fabs (bitsAt 18 7 w) (bitsAt 11 7 w) (bitsAt 2 2 w) (bitsAt 0 2 w))
  else if bitsAt 4 7 w = 3 then some (.frcp (bitsAt 18 7 w) (bitsAt 11 7 w) (bitsAt 2 2 w) (bitsAt 0 2 w))
  else if bitsAt 4 7 w = 4 then some (.frsq (bitsAt 18 7 w) (bitsAt 11 7 w) (bitsAt 2 2 w) (bitsAt 0 2 w))
  else if bitsAt 4 7 w = 5 then some (.fsqrt (bitsAt 18 7 w) (bitsAt 11 7 w) (bitsAt 2 2 w) (bitsAt 0 2 w))
  else if bitsAt 4 7 w = 6 then some (.fexp2 (bitsAt 18 7 w) (bitsAt 11 7 w) (bitsAt 2 2 w) (bitsAt 0 2 w))
  else if bitsAt 4 7 w = 7 then some (.flog2 (bitsAt 18 7 w) (bitsAt 11 7 w) (bitsAt 2 2 w) (bitsAt 0 2 w))
  else if bitsAt 4 7 w = 8 then some (.fsin (bitsAt 18 7 w) (bitsAt 11 7 w) (bitsAt 2 2 w) (bitsAt 0 2 w))
  else if bitsAt 4 7 w = 9 then some (.fcos (bitsAt 18 7 w) (bitsAt 11 7 w) (bitsAt 2 2 w) (bitsAt 0 2 w))
  else if bitsAt 4 7 w = 10 then some (.ffloor (bitsAt 18 7 w) (bitsAt 11 7 w) (bitsAt 2 2 w) (bitsAt 0 2 w))
  else if bitsAt 4 7 w = 11 then some (.fceil (bitsAt 18 7 w) (bitsAt 11 7 w) (bitsAt 2 2 w) (bitsAt 0 2 w))
  else if bitsAt 4 7 w = 12 then some (.ftrunc (bitsAt 18 7 w) (bitsAt 11 7 w) (bitsAt 2 2 w) (bitsAt 0 2 w))
  else if bitsAt 4 7 w = 13 then some (.frint (bitsAt 18 7 w) (bitsAt 11 7 w) (bitsAt 2 2 w) (bitsAt 0 2 w))
  else if bitsAt 4 7 w = 14 then some (.ffract (bitsAt 18 7 w) (bitsAt 11 7 w) (bitsAt 2 2 w) (bitsAt 0 2 w))
  else if bitsAt 4 7 w = 15 then some (.fsign (bitsAt 18 7 w) (bitsAt 11 7 w) (bitsAt 2 2 w) (bitsAt 0 2 w))
  else none

/-- Opcode 0x30: HADD2. -/
def decodeOp30 (w : Word) : Option Instr :=
  some (.hadd2 (bitsAt 18 7 w) (bitsAt 11 7 w) (bitsAt 4 7 w) (bitsAt 2 2 w) (bitsAt 0 2 w))

/-- Opcode 0x31: HSUB2. -/
def decodeOp31 (w : Word) : Option Instr :=
  some (.hsub2 (bitsAt 18 7 w) (bitsAt 11 7 w) (bitsAt 4 7 w) (bitsAt 2 2 w) (bitsAt 0 2 w))

/-- Opcode 0x32: HMUL2. -/
def decodeOp32 (w : Word) : Option Instr :=
  some (.hmul2 (bitsAt 18 7 w) (bitsAt 11 7 w) (bitsAt 4 7 w) (bitsAt 2 2 w) (bitsAt 0 2 w))

/-- Opcode 0x33: HFMA2. -/
def decodeOp33 (w : Word) : Option Instr :=
  some (.hfma2 (bitsAt 18 7 w) (bitsAt 11 7 w) (bitsAt 4 7 w) (bitsAt 2 2 w) (bitsAt 0 2 w))

/-- Opcode 0x34: HMIN2. -/
def decodeOp34 (w : Word) : Option Instr :=
  some (.hmin2 (bitsAt 18 7 w) (bitsAt 11 7 w) (bitsAt 4 7 w) (bitsAt 2 2 w) (bitsAt 0 2 w))

/-- Opcode 0x35: HMAX2. -/
def decodeOp35 (w : Word) : Option Instr :=
  some (.hmax2 (bitsAt 18 7 w) (bitsAt 11 7 w) (bitsAt 4 7 w) (bitsAt 2 2 w) (bitsAt 0 2 w))

/-- Opcode 0x36: DOT2H. -/
def decodeOp36 (w : Word) : Option Instr :=
  some (.dot2h (bitsAt 18 7 w) (bitsAt 11 7 w) (bitsAt 4 7 w) (bitsAt 2 2 w) (bitsAt 0 2 w))

/-- Opcode 0x37: DOT4Q. -/
def decodeOp37 (w : Word) : Option Instr :=
  some (.dot4q (bitsAt 18 7 w) (bitsAt 11 7 w) (bitsAt 4 7 w) (bitsAt 2 2 w) (bitsAt 0 2 w))

/-- Opcode 0x38: CADD. -/
def decodeOp38 (w : Word) : Option Instr :=
  if bitsAt 0 2 w = 0 then some (.cadd (bitsAt 18 7 w) (bitsAt 11 7 w) (bitsAt 4 7 w) (bitsAt 2 2 w))
  else none

/-- Opcode 0x39: CSUB. -/
def decodeOp39 (w : Word) : Option Instr :=
  if bitsAt 0 2 w = 0 then some (.csub (bitsAt 18 7 w) (bitsAt 11 7 w) (bitsAt 4 7 w) (bitsAt 2 2 w))
  else none

/-- Opcode 0x3A: CMUL. -/
def decodeOp3A (w : Word) : Option Instr :=
  if bitsAt 0 2 w = 0 then some (.cmul (bitsAt 18 7 w) (bitsAt 11 7 w) (bitsAt 4 7 w) (bitsAt 2 2 w))
  else none

/-- Opcode 0x3B: CFMA. -/
def decodeOp3B (w : Word) : Option Instr :=
  if bitsAt 0 2 w = 0 then some (.cfma (bitsAt 18 7 w) (bitsAt 11 7 w) (bitsAt 4 7 w) (bitsAt 2 2 w))
  else none

/-- Opcode 0x3C: CCMUL. -/
def decodeOp3C (w : Word) : Option Instr :=
  if bitsAt 0 2 w = 0 then some (.ccmul (bitsAt 18 7 w) (bitsAt 11 7 w) (bitsAt 4 7 w) (bitsAt 2 2 w))
  else none

/-- Opcode 0x3D: CMAG2. -/
def decodeOp3D (w : Word) : Option Instr :=
  if bitsAt 0 2 w = 0 ∧ bitsAt 4 7 w = 0 then some (.cmag2 (bitsAt 18 7 w) (bitsAt 11 7 w) (bitsAt 2 2 w))
  else none

/-- Opcode 0x3E: CEXPI. -/
def decodeOp3E (w : Word) : Option Instr :=
  if bitsAt 0 2 w = 0 ∧ bitsAt 4 7 w = 0 then some (.cexpi (bitsAt 18 7 w) (bitsAt 11 7 w) (bitsAt 2 2 w))
  else none

/-- Opcode 0x3F: CSCALE. -/
def decodeOp3F (w : Word) : Option Instr :=
  if bitsAt 0 2 w = 0 then some (.cscale (bitsAt 18 7 w) (bitsAt 11 7 w) (bitsAt 4 7 w) (bitsAt 2 2 w))
  else none

/-- Opcode 0x40: CVT. -/
def decodeOp40 (w : Word) : Option Instr :=
  some (.cvt (bitsAt 18 7 w) (bitsAt 11 7 w) (bitsAt 10 1 w) (bitsAt 4 6 w) (bitsAt 2 2 w) (bitsAt 0 2 w))

/-- Opcode 0x41: PACK. -/
def decodeOp41 (w : Word) : Option Instr :=
  some (.pack (bitsAt 18 7 w) (bitsAt 11 7 w) (bitsAt 10 1 w) (bitsAt 4 6 w) (bitsAt 2 2 w) (bitsAt 0 2 w))

/-- Opcode 0x42: UNPACK_WIDEN, UNPACK_BLOCK. -/
def decodeOp42 (w : Word) : Option Instr :=
  if bitsAt 6 5 w = 0 then some (.unpackWiden (bitsAt 18 7 w) (bitsAt 11 7 w) (bitsAt 4 2 w) (bitsAt 2 2 w) (bitsAt 0 2 w))
  else if bitsAt 0 2 w = 0 ∧ bitsAt 4 7 w = 64 then some (.unpackBlock (bitsAt 18 7 w) (bitsAt 11 7 w) (bitsAt 2 2 w))
  else none

/-- Opcode 0x43: SETTAG. -/
def decodeOp43 (w : Word) : Option Instr :=
  if bitsAt 10 1 w = 0 then some (.settag (bitsAt 18 7 w) (bitsAt 11 7 w) (bitsAt 4 6 w) (bitsAt 2 2 w) (bitsAt 0 2 w))
  else none

/-- Opcode 0x44: GETTAG. -/
def decodeOp44 (w : Word) : Option Instr :=
  if bitsAt 4 7 w = 0 then some (.gettag (bitsAt 18 7 w) (bitsAt 11 7 w) (bitsAt 2 2 w) (bitsAt 0 2 w))
  else none

/-- Opcode 0x45: SHFL. -/
def decodeOp45 (w : Word) : Option Instr :=
  some (.shfl (bitsAt 18 7 w) (bitsAt 11 7 w) (bitsAt 4 7 w) (bitsAt 2 2 w) (bitsAt 0 2 w))

/-- Opcode 0x46: XBAR. -/
def decodeOp46 (w : Word) : Option Instr :=
  if bitsAt 8 3 w = 0 then some (.xbar (bitsAt 18 7 w) (bitsAt 11 7 w) (bitsAt 4 4 w) (bitsAt 2 2 w) (bitsAt 0 2 w))
  else none

/-- Opcode 0x47: XPTL. -/
def decodeOp47 (w : Word) : Option Instr :=
  if bitsAt 0 2 w = 0 ∧ bitsAt 4 7 w = 0 ∧ bitsAt 22 3 w = 0 then some (.xptl (bitsAt 18 4 w) (bitsAt 11 7 w) (bitsAt 2 2 w))
  else none

/-- Opcode 0x48: TMMA. -/
def decodeOp48 (w : Word) : Option Instr :=
  if bitsAt 0 2 w = 0 then some (.tmma (bitsAt 18 7 w) (bitsAt 11 7 w) (bitsAt 4 7 w) (bitsAt 2 2 w))
  else none

/-- Opcode 0x49: TMMAT. -/
def decodeOp49 (w : Word) : Option Instr :=
  if bitsAt 0 2 w = 0 then some (.tmmat (bitsAt 18 7 w) (bitsAt 11 7 w) (bitsAt 4 7 w) (bitsAt 2 2 w))
  else none

/-- Opcode 0x4A: TZERO. -/
def decodeOp4A (w : Word) : Option Instr :=
  if bitsAt 0 2 w = 0 ∧ bitsAt 4 14 w = 0 then some (.tzero (bitsAt 18 7 w) (bitsAt 2 2 w))
  else none

/-- Opcode 0x4B: TTRN_FRAGMENT, TTRN_ACCUMULATOR. -/
def decodeOp4B (w : Word) : Option Instr :=
  if bitsAt 0 2 w = 0 ∧ bitsAt 4 7 w = 0 then some (.ttrnFragment (bitsAt 18 7 w) (bitsAt 11 7 w) (bitsAt 2 2 w))
  else if bitsAt 0 2 w = 0 ∧ bitsAt 4 7 w = 1 then some (.ttrnAccumulator (bitsAt 18 7 w) (bitsAt 11 7 w) (bitsAt 2 2 w))
  else none

/-- Opcode 0x4C: TACT. -/
def decodeOp4C (w : Word) : Option Instr :=
  if bitsAt 0 2 w = 0 ∧ bitsAt 7 4 w = 0 then some (.tact (bitsAt 18 7 w) (bitsAt 11 7 w) (bitsAt 4 3 w) (bitsAt 2 2 w))
  else none

/-- Opcode 0x4D: TCVT. -/
def decodeOp4D (w : Word) : Option Instr :=
  if bitsAt 0 2 w = 0 then some (.tcvt (bitsAt 18 7 w) (bitsAt 11 7 w) (bitsAt 10 1 w) (bitsAt 4 6 w) (bitsAt 2 2 w))
  else none

/-- Opcode 0x4E: TRED. -/
def decodeOp4E (w : Word) : Option Instr :=
  if bitsAt 0 2 w = 0 ∧ bitsAt 6 5 w = 0 then some (.tred (bitsAt 18 7 w) (bitsAt 11 7 w) (bitsAt 4 2 w) (bitsAt 2 2 w))
  else none

/-- Opcode 0x4F: TBIAS. -/
def decodeOp4F (w : Word) : Option Instr :=
  if bitsAt 0 2 w = 0 then some (.tbias (bitsAt 18 7 w) (bitsAt 11 7 w) (bitsAt 4 7 w) (bitsAt 2 2 w))
  else none

/-- Opcode 0x50: LDB. -/
def decodeOp50 (w : Word) : Option Instr :=
  some (.ldb (bitsAt 18 7 w) (bitsAt 11 7 w) (bitsAt 0 11 w))

/-- Opcode 0x51: LDH. -/
def decodeOp51 (w : Word) : Option Instr :=
  some (.ldh (bitsAt 18 7 w) (bitsAt 11 7 w) (bitsAt 0 11 w))

/-- Opcode 0x52: LDW. -/
def decodeOp52 (w : Word) : Option Instr :=
  some (.ldw (bitsAt 18 7 w) (bitsAt 11 7 w) (bitsAt 0 11 w))

/-- Opcode 0x53: LDD. -/
def decodeOp53 (w : Word) : Option Instr :=
  some (.ldd (bitsAt 18 7 w) (bitsAt 11 7 w) (bitsAt 0 11 w))

/-- Opcode 0x54: LDQ. -/
def decodeOp54 (w : Word) : Option Instr :=
  some (.ldq (bitsAt 18 7 w) (bitsAt 11 7 w) (bitsAt 0 11 w))

/-- Opcode 0x55: STB. -/
def decodeOp55 (w : Word) : Option Instr :=
  some (.stb (bitsAt 18 7 w) (bitsAt 11 7 w) (bitsAt 0 11 w))

/-- Opcode 0x56: STH. -/
def decodeOp56 (w : Word) : Option Instr :=
  some (.sth (bitsAt 18 7 w) (bitsAt 11 7 w) (bitsAt 0 11 w))

/-- Opcode 0x57: STW. -/
def decodeOp57 (w : Word) : Option Instr :=
  some (.stw (bitsAt 18 7 w) (bitsAt 11 7 w) (bitsAt 0 11 w))

/-- Opcode 0x58: STD. -/
def decodeOp58 (w : Word) : Option Instr :=
  some (.std (bitsAt 18 7 w) (bitsAt 11 7 w) (bitsAt 0 11 w))

/-- Opcode 0x59: STQ. -/
def decodeOp59 (w : Word) : Option Instr :=
  some (.stq (bitsAt 18 7 w) (bitsAt 11 7 w) (bitsAt 0 11 w))

/-- Opcode 0x5A: LDV. -/
def decodeOp5A (w : Word) : Option Instr :=
  some (.ldv (bitsAt 18 7 w) (bitsAt 11 7 w) (bitsAt 0 11 w))

/-- Opcode 0x5B: LDF. -/
def decodeOp5B (w : Word) : Option Instr :=
  if bitsAt 0 2 w = 0 ∧ bitsAt 10 1 w = 0 then some (.ldf (bitsAt 18 7 w) (bitsAt 11 7 w) (bitsAt 4 6 w) (bitsAt 2 2 w))
  else none

/-- Opcode 0x5C: LDE. -/
def decodeOp5C (w : Word) : Option Instr :=
  if bitsAt 0 2 w = 0 ∧ bitsAt 9 2 w = 0 then some (.lde (bitsAt 18 7 w) (bitsAt 11 7 w) (bitsAt 4 5 w) (bitsAt 2 2 w))
  else none

/-- Opcode 0x5D: ACCB. -/
def decodeOp5D (w : Word) : Option Instr :=
  some (.accb (bitsAt 18 7 w) (bitsAt 11 7 w) (bitsAt 0 11 w))

/-- Opcode 0x5E: TLD. -/
def decodeOp5E (w : Word) : Option Instr :=
  if bitsAt 0 2 w = 0 then some (.tld (bitsAt 18 7 w) (bitsAt 11 7 w) (bitsAt 4 7 w) (bitsAt 2 2 w))
  else none

/-- Opcode 0x5F: TST. -/
def decodeOp5F (w : Word) : Option Instr :=
  if bitsAt 0 2 w = 0 then some (.tst (bitsAt 18 7 w) (bitsAt 11 7 w) (bitsAt 4 7 w) (bitsAt 2 2 w))
  else none

/-- Opcode 0x60: AADD, AADD_NR. -/
def decodeOp60 (w : Word) : Option Instr :=
  if bitsAt 0 2 w = 0 then some (.aadd (bitsAt 18 7 w) (bitsAt 11 7 w) (bitsAt 4 7 w) (bitsAt 2 2 w))
  else if bitsAt 0 2 w = 1 ∧ bitsAt 18 7 w = 0 then some (.aaddNr (bitsAt 11 7 w) (bitsAt 4 7 w) (bitsAt 2 2 w))
  else none

/-- Opcode 0x61: AFADD, AFADD_NR. -/
def decodeOp61 (w : Word) : Option Instr :=
  if bitsAt 0 2 w = 0 then some (.afadd (bitsAt 18 7 w) (bitsAt 11 7 w) (bitsAt 4 7 w) (bitsAt 2 2 w))
  else if bitsAt 0 2 w = 1 ∧ bitsAt 18 7 w = 0 then some (.afaddNr (bitsAt 11 7 w) (bitsAt 4 7 w) (bitsAt 2 2 w))
  else none

/-- Opcode 0x62: AMIN, AMIN_NR. -/
def decodeOp62 (w : Word) : Option Instr :=
  if bitsAt 0 2 w = 0 then some (.amin (bitsAt 18 7 w) (bitsAt 11 7 w) (bitsAt 4 7 w) (bitsAt 2 2 w))
  else if bitsAt 0 2 w = 1 ∧ bitsAt 18 7 w = 0 then some (.aminNr (bitsAt 11 7 w) (bitsAt 4 7 w) (bitsAt 2 2 w))
  else none

/-- Opcode 0x63: AMAX, AMAX_NR. -/
def decodeOp63 (w : Word) : Option Instr :=
  if bitsAt 0 2 w = 0 then some (.amax (bitsAt 18 7 w) (bitsAt 11 7 w) (bitsAt 4 7 w) (bitsAt 2 2 w))
  else if bitsAt 0 2 w = 1 ∧ bitsAt 18 7 w = 0 then some (.amaxNr (bitsAt 11 7 w) (bitsAt 4 7 w) (bitsAt 2 2 w))
  else none

/-- Opcode 0x64: AUMIN, AUMIN_NR. -/
def decodeOp64 (w : Word) : Option Instr :=
  if bitsAt 0 2 w = 0 then some (.aumin (bitsAt 18 7 w) (bitsAt 11 7 w) (bitsAt 4 7 w) (bitsAt 2 2 w))
  else if bitsAt 0 2 w = 1 ∧ bitsAt 18 7 w = 0 then some (.auminNr (bitsAt 11 7 w) (bitsAt 4 7 w) (bitsAt 2 2 w))
  else none

/-- Opcode 0x65: AUMAX, AUMAX_NR. -/
def decodeOp65 (w : Word) : Option Instr :=
  if bitsAt 0 2 w = 0 then some (.aumax (bitsAt 18 7 w) (bitsAt 11 7 w) (bitsAt 4 7 w) (bitsAt 2 2 w))
  else if bitsAt 0 2 w = 1 ∧ bitsAt 18 7 w = 0 then some (.aumaxNr (bitsAt 11 7 w) (bitsAt 4 7 w) (bitsAt 2 2 w))
  else none

/-- Opcode 0x66: AAND, AAND_NR. -/
def decodeOp66 (w : Word) : Option Instr :=
  if bitsAt 0 2 w = 0 then some (.aand (bitsAt 18 7 w) (bitsAt 11 7 w) (bitsAt 4 7 w) (bitsAt 2 2 w))
  else if bitsAt 0 2 w = 1 ∧ bitsAt 18 7 w = 0 then some (.aandNr (bitsAt 11 7 w) (bitsAt 4 7 w) (bitsAt 2 2 w))
  else none

/-- Opcode 0x67: AOR, AOR_NR. -/
def decodeOp67 (w : Word) : Option Instr :=
  if bitsAt 0 2 w = 0 then some (.aor (bitsAt 18 7 w) (bitsAt 11 7 w) (bitsAt 4 7 w) (bitsAt 2 2 w))
  else if bitsAt 0 2 w = 1 ∧ bitsAt 18 7 w = 0 then some (.aorNr (bitsAt 11 7 w) (bitsAt 4 7 w) (bitsAt 2 2 w))
  else none

/-- Opcode 0x68: AXOR, AXOR_NR. -/
def decodeOp68 (w : Word) : Option Instr :=
  if bitsAt 0 2 w = 0 then some (.axor (bitsAt 18 7 w) (bitsAt 11 7 w) (bitsAt 4 7 w) (bitsAt 2 2 w))
  else if bitsAt 0 2 w = 1 ∧ bitsAt 18 7 w = 0 then some (.axorNr (bitsAt 11 7 w) (bitsAt 4 7 w) (bitsAt 2 2 w))
  else none

/-- Opcode 0x69: AXCHG, AXCHG_NR. -/
def decodeOp69 (w : Word) : Option Instr :=
  if bitsAt 0 2 w = 0 then some (.axchg (bitsAt 18 7 w) (bitsAt 11 7 w) (bitsAt 4 7 w) (bitsAt 2 2 w))
  else if bitsAt 0 2 w = 1 ∧ bitsAt 18 7 w = 0 then some (.axchgNr (bitsAt 11 7 w) (bitsAt 4 7 w) (bitsAt 2 2 w))
  else none

/-- Opcode 0x6A: ACAS, ACAS_NR. -/
def decodeOp6A (w : Word) : Option Instr :=
  if bitsAt 0 2 w = 0 then some (.acas (bitsAt 18 7 w) (bitsAt 11 7 w) (bitsAt 4 7 w) (bitsAt 2 2 w))
  else if bitsAt 0 2 w = 1 ∧ bitsAt 18 7 w = 0 then some (.acasNr (bitsAt 11 7 w) (bitsAt 4 7 w) (bitsAt 2 2 w))
  else none

/-- Opcode 0x6B: ENQ. -/
def decodeOp6B (w : Word) : Option Instr :=
  if bitsAt 0 2 w = 0 then some (.enq (bitsAt 18 7 w) (bitsAt 11 7 w) (bitsAt 4 7 w) (bitsAt 2 2 w))
  else none

/-- Opcode 0x6C: DEQ. -/
def decodeOp6C (w : Word) : Option Instr :=
  if bitsAt 0 2 w = 0 then some (.deq (bitsAt 18 7 w) (bitsAt 11 7 w) (bitsAt 4 7 w) (bitsAt 2 2 w))
  else none

/-- Opcode 0x6D: MONW. -/
def decodeOp6D (w : Word) : Option Instr :=
  if bitsAt 0 2 w = 0 ∧ bitsAt 22 3 w = 0 then some (.monw (bitsAt 18 4 w) (bitsAt 11 7 w) (bitsAt 4 7 w) (bitsAt 2 2 w))
  else none

/-- Opcode 0x6E: PHASE. -/
def decodeOp6E (w : Word) : Option Instr :=
  if bitsAt 0 2 w = 0 ∧ bitsAt 4 21 w = 0 then some (.phase (bitsAt 2 2 w))
  else none

/-- Opcode 0x6F: BAR. -/
def decodeOp6F (w : Word) : Option Instr :=
  if bitsAt 0 2 w = 0 ∧ bitsAt 3 22 w = 0 then some (.bar (bitsAt 2 1 w))
  else none

/-- Opcode 0x70: BR. -/
def decodeOp70 (w : Word) : Option Instr :=
  some (.br (bitsAt 22 3 w) (bitsAt 21 1 w) (bitsAt 19 2 w) (bitsAt 0 19 w))

/-- Opcode 0x71: BRX. -/
def decodeOp71 (w : Word) : Option Instr :=
  if bitsAt 0 2 w = 0 ∧ bitsAt 4 7 w = 0 ∧ bitsAt 18 7 w = 0 then some (.brx (bitsAt 11 7 w) (bitsAt 2 2 w))
  else none

/-- Opcode 0x72: CALL. -/
def decodeOp72 (w : Word) : Option Instr :=
  some (.call (bitsAt 18 7 w) (bitsAt 0 18 w))

/-- Opcode 0x73: RET. -/
def decodeOp73 (w : Word) : Option Instr :=
  if bitsAt 0 2 w = 0 ∧ bitsAt 4 7 w = 0 ∧ bitsAt 18 7 w = 0 then some (.ret (bitsAt 11 7 w) (bitsAt 2 2 w))
  else none

/-- Opcode 0x74: FORK. -/
def decodeOp74 (w : Word) : Option Instr :=
  some (.fork (bitsAt 18 7 w) (bitsAt 0 18 w))

/-- Opcode 0x75: FEND. -/
def decodeOp75 (w : Word) : Option Instr :=
  if bitsAt 0 2 w = 0 ∧ bitsAt 4 21 w = 0 then some (.fend (bitsAt 2 2 w))
  else none

/-- Opcode 0x76: JOIN. -/
def decodeOp76 (w : Word) : Option Instr :=
  if bitsAt 8 17 w = 0 then some (.join (bitsAt 0 8 w))
  else none

/-- Opcode 0x77: WAITC. -/
def decodeOp77 (w : Word) : Option Instr :=
  if bitsAt 16 9 w = 0 then some (.waitc (bitsAt 12 4 w) (bitsAt 8 4 w) (bitsAt 4 4 w) (bitsAt 0 4 w))
  else none

/-- Opcode 0x78: SADD, SSUB, SMUL, SMULH, SAND, SOR, SXOR, SSHL, SSHR, SSAR, SMIN, SMAX, SUMIN, SUMAX, SMOV, SSLT. -/
def decodeOp78 (w : Word) : Option Instr :=
  if bitsAt 0 4 w = 0 then some (.sadd (bitsAt 18 7 w) (bitsAt 11 7 w) (bitsAt 4 7 w))
  else if bitsAt 0 4 w = 1 then some (.ssub (bitsAt 18 7 w) (bitsAt 11 7 w) (bitsAt 4 7 w))
  else if bitsAt 0 4 w = 2 then some (.smul (bitsAt 18 7 w) (bitsAt 11 7 w) (bitsAt 4 7 w))
  else if bitsAt 0 4 w = 3 then some (.smulh (bitsAt 18 7 w) (bitsAt 11 7 w) (bitsAt 4 7 w))
  else if bitsAt 0 4 w = 4 then some (.sand (bitsAt 18 7 w) (bitsAt 11 7 w) (bitsAt 4 7 w))
  else if bitsAt 0 4 w = 5 then some (.sor (bitsAt 18 7 w) (bitsAt 11 7 w) (bitsAt 4 7 w))
  else if bitsAt 0 4 w = 6 then some (.sxor (bitsAt 18 7 w) (bitsAt 11 7 w) (bitsAt 4 7 w))
  else if bitsAt 0 4 w = 7 then some (.sshl (bitsAt 18 7 w) (bitsAt 11 7 w) (bitsAt 4 7 w))
  else if bitsAt 0 4 w = 8 then some (.sshr (bitsAt 18 7 w) (bitsAt 11 7 w) (bitsAt 4 7 w))
  else if bitsAt 0 4 w = 9 then some (.ssar (bitsAt 18 7 w) (bitsAt 11 7 w) (bitsAt 4 7 w))
  else if bitsAt 0 4 w = 10 then some (.smin (bitsAt 18 7 w) (bitsAt 11 7 w) (bitsAt 4 7 w))
  else if bitsAt 0 4 w = 11 then some (.smax (bitsAt 18 7 w) (bitsAt 11 7 w) (bitsAt 4 7 w))
  else if bitsAt 0 4 w = 12 then some (.sumin (bitsAt 18 7 w) (bitsAt 11 7 w) (bitsAt 4 7 w))
  else if bitsAt 0 4 w = 13 then some (.sumax (bitsAt 18 7 w) (bitsAt 11 7 w) (bitsAt 4 7 w))
  else if bitsAt 0 11 w = 14 then some (.smov (bitsAt 18 7 w) (bitsAt 11 7 w))
  else if bitsAt 0 4 w = 15 then some (.sslt (bitsAt 18 7 w) (bitsAt 11 7 w) (bitsAt 4 7 w))
  else none

/-- Opcode 0x79: SFADD, SFSUB, SFMUL, SFFMA, SFMIN, SFMAX, SFRCP, SFRSQ, SFSQRT, SCVTFI, SCVTIF, SFCMPLT. -/
def decodeOp79 (w : Word) : Option Instr :=
  if bitsAt 0 4 w = 0 then some (.sfadd (bitsAt 18 7 w) (bitsAt 11 7 w) (bitsAt 4 7 w))
  else if bitsAt 0 4 w = 1 then some (.sfsub (bitsAt 18 7 w) (bitsAt 11 7 w) (bitsAt 4 7 w))
  else if bitsAt 0 4 w = 2 then some (.sfmul (bitsAt 18 7 w) (bitsAt 11 7 w) (bitsAt 4 7 w))
  else if bitsAt 0 4 w = 3 then some (.sffma (bitsAt 18 7 w) (bitsAt 11 7 w) (bitsAt 4 7 w))
  else if bitsAt 0 4 w = 4 then some (.sfmin (bitsAt 18 7 w) (bitsAt 11 7 w) (bitsAt 4 7 w))
  else if bitsAt 0 4 w = 5 then some (.sfmax (bitsAt 18 7 w) (bitsAt 11 7 w) (bitsAt 4 7 w))
  else if bitsAt 0 11 w = 6 then some (.sfrcp (bitsAt 18 7 w) (bitsAt 11 7 w))
  else if bitsAt 0 11 w = 7 then some (.sfrsq (bitsAt 18 7 w) (bitsAt 11 7 w))
  else if bitsAt 0 11 w = 8 then some (.sfsqrt (bitsAt 18 7 w) (bitsAt 11 7 w))
  else if bitsAt 0 11 w = 9 then some (.scvtfi (bitsAt 18 7 w) (bitsAt 11 7 w))
  else if bitsAt 0 11 w = 10 then some (.scvtif (bitsAt 18 7 w) (bitsAt 11 7 w))
  else if bitsAt 0 4 w = 11 then some (.sfcmplt (bitsAt 18 7 w) (bitsAt 11 7 w) (bitsAt 4 7 w))
  else none

/-- Opcode 0x7A: SADDI. -/
def decodeOp7A (w : Word) : Option Instr :=
  some (.saddi (bitsAt 18 7 w) (bitsAt 11 7 w) (bitsAt 0 11 w))

/-- Opcode 0x7B: VMOVI. -/
def decodeOp7B (w : Word) : Option Instr :=
  some (.vmovi (bitsAt 18 7 w) (bitsAt 0 18 w))

/-- Opcode 0x7C: CPLIN, CP2D, CPGATH, CPSCAT, CPEXP, CPCMP, RCARM, RCWAIT, GTOPK, GBUCK, GMERGE, GHIST, GSCAN, GPERM, CXFORK, CXRDV, CXBOND, CXDENSE, QFENCE, QSTAT. -/
def decodeOp7C (w : Word) : Option Instr :=
  if bitsAt 4 7 w = 0 then some (.cplin (bitsAt 18 7 w) (bitsAt 11 7 w) (bitsAt 0 4 w))
  else if bitsAt 4 7 w = 1 then some (.cp2d (bitsAt 18 7 w) (bitsAt 11 7 w) (bitsAt 0 4 w))
  else if bitsAt 4 7 w = 2 then some (.cpgath (bitsAt 18 7 w) (bitsAt 11 7 w) (bitsAt 0 4 w))
  else if bitsAt 4 7 w = 3 then some (.cpscat (bitsAt 18 7 w) (bitsAt 11 7 w) (bitsAt 0 4 w))
  else if bitsAt 4 7 w = 4 then some (.cpexp (bitsAt 18 7 w) (bitsAt 11 7 w) (bitsAt 0 4 w))
  else if bitsAt 4 7 w = 5 then some (.cpcmp (bitsAt 18 7 w) (bitsAt 11 7 w) (bitsAt 0 4 w))
  else if bitsAt 4 7 w = 6 then some (.rcarm (bitsAt 18 7 w) (bitsAt 11 7 w) (bitsAt 0 4 w))
  else if bitsAt 4 7 w = 7 then some (.rcwait (bitsAt 18 7 w) (bitsAt 11 7 w) (bitsAt 0 4 w))
  else if bitsAt 4 7 w = 8 then some (.gtopk (bitsAt 18 7 w) (bitsAt 11 7 w) (bitsAt 0 4 w))
  else if bitsAt 4 7 w = 9 then some (.gbuck (bitsAt 18 7 w) (bitsAt 11 7 w) (bitsAt 0 4 w))
  else if bitsAt 4 7 w = 10 then some (.gmerge (bitsAt 18 7 w) (bitsAt 11 7 w) (bitsAt 0 4 w))
  else if bitsAt 4 7 w = 11 then some (.ghist (bitsAt 18 7 w) (bitsAt 11 7 w) (bitsAt 0 4 w))
  else if bitsAt 4 7 w = 12 then some (.gscan (bitsAt 18 7 w) (bitsAt 11 7 w) (bitsAt 0 4 w))
  else if bitsAt 4 7 w = 13 then some (.gperm (bitsAt 18 7 w) (bitsAt 11 7 w) (bitsAt 0 4 w))
  else if bitsAt 4 7 w = 14 then some (.cxfork (bitsAt 18 7 w) (bitsAt 11 7 w) (bitsAt 0 4 w))
  else if bitsAt 4 7 w = 15 then some (.cxrdv (bitsAt 18 7 w) (bitsAt 11 7 w) (bitsAt 0 4 w))
  else if bitsAt 4 7 w = 16 then some (.cxbond (bitsAt 18 7 w) (bitsAt 11 7 w) (bitsAt 0 4 w))
  else if bitsAt 4 7 w = 17 then some (.cxdense (bitsAt 18 7 w) (bitsAt 11 7 w) (bitsAt 0 4 w))
  else if bitsAt 4 7 w = 18 then some (.qfence (bitsAt 18 7 w) (bitsAt 11 7 w) (bitsAt 0 4 w))
  else if bitsAt 4 7 w = 19 then some (.qstat (bitsAt 18 7 w) (bitsAt 11 7 w) (bitsAt 0 4 w))
  else none

/-- Opcode 0x7D: GENRAY, TRACE, ACCEPT, IGNORE, TERMRAY, SPAWN, RAYLD, RAYST, RAYDONE, BINKEY, CHILDQ, ITEM, LAUNCH. -/
def decodeOp7D (w : Word) : Option Instr :=
  if bitsAt 2 9 w = 0 then some (.genray (bitsAt 18 7 w) (bitsAt 11 7 w) (bitsAt 0 2 w))
  else if bitsAt 2 23 w = 4 then some (.trace (bitsAt 0 2 w))
  else if bitsAt 2 23 w = 8 then some (.accept (bitsAt 0 2 w))
  else if bitsAt 2 23 w = 12 then some (.ignore (bitsAt 0 2 w))
  else if bitsAt 2 23 w = 16 then some (.termray (bitsAt 0 2 w))
  else if bitsAt 2 9 w = 20 then some (.spawn (bitsAt 18 7 w) (bitsAt 11 7 w) (bitsAt 0 2 w))
  else if bitsAt 2 9 w = 24 then some (.rayld (bitsAt 18 7 w) (bitsAt 16 2 w) (bitsAt 11 5 w) (bitsAt 0 2 w))
  else if bitsAt 2 9 w = 28 then some (.rayst (bitsAt 18 7 w) (bitsAt 16 2 w) (bitsAt 11 5 w) (bitsAt 0 2 w))
  else if bitsAt 2 23 w = 32 then some (.raydone (bitsAt 0 2 w))
  else if bitsAt 2 16 w = 36 then some (.binkey (bitsAt 18 7 w) (bitsAt 0 2 w))
  else if bitsAt 2 16 w = 40 then some (.childq (bitsAt 18 7 w) (bitsAt 0 2 w))
  else if bitsAt 2 9 w = 44 ∧ bitsAt 23 2 w = 0 then some (.item (bitsAt 18 5 w) (bitsAt 11 7 w) (bitsAt 0 2 w))
  else if bitsAt 2 9 w = 48 then some (.launch (bitsAt 18 7 w) (bitsAt 11 7 w) (bitsAt 0 2 w))
  else none

/-- Opcode 0x7E: NOP, TRAP, BKPT, GETSR, SETSR, RDCYC, YIELD, REGION, WINB, SWINB, REGREQ, REGREL, RDLANE, WRLANE, BCAST, PREFH, PARKC. -/
def decodeOp7E (w : Word) : Option Instr :=
  if bitsAt 0 25 w = 0 then some (.nop)
  else if bitsAt 2 9 w = 4 ∧ bitsAt 18 7 w = 0 then some (.trap (bitsAt 11 7 w) (bitsAt 0 2 w))
  else if bitsAt 2 9 w = 8 ∧ bitsAt 18 7 w = 0 then some (.bkpt (bitsAt 11 7 w) (bitsAt 0 2 w))
  else if bitsAt 3 8 w = 6 then some (.getsr (bitsAt 18 7 w) (bitsAt 11 7 w) (bitsAt 2 1 w) (bitsAt 0 2 w))
  else if bitsAt 2 9 w = 16 then some (.setsr (bitsAt 18 7 w) (bitsAt 11 7 w) (bitsAt 0 2 w))
  else if bitsAt 2 16 w = 20 then some (.rdcyc (bitsAt 18 7 w) (bitsAt 0 2 w))
  else if bitsAt 0 25 w = 96 then some (.yield)
  else if bitsAt 0 25 w = 112 then some (.region)
  else if bitsAt 0 11 w = 128 ∧ bitsAt 16 9 w = 0 then some (.winb (bitsAt 11 5 w))
  else if bitsAt 0 11 w = 144 ∧ bitsAt 12 13 w = 0 then some (.swinb (bitsAt 11 1 w))
  else if bitsAt 0 11 w = 160 ∧ bitsAt 18 7 w = 0 then some (.regreq (bitsAt 11 7 w))
  else if bitsAt 0 11 w = 176 ∧ bitsAt 18 7 w = 0 then some (.regrel (bitsAt 11 7 w))
  else if bitsAt 2 9 w = 49 then some (.rdlane (bitsAt 18 7 w) (bitsAt 11 7 w) (bitsAt 0 2 w))
  else if bitsAt 2 9 w = 52 then some (.wrlane (bitsAt 18 7 w) (bitsAt 11 7 w) (bitsAt 0 2 w))
  else if bitsAt 3 8 w = 28 then some (.bcast (bitsAt 18 7 w) (bitsAt 11 7 w) (bitsAt 2 1 w) (bitsAt 0 2 w))
  else if bitsAt 2 9 w = 60 ∧ bitsAt 18 7 w = 0 then some (.prefh (bitsAt 11 7 w) (bitsAt 0 2 w))
  else if bitsAt 0 11 w = 256 ∧ bitsAt 18 7 w = 0 then some (.parkc (bitsAt 11 7 w))
  else none

/-- Opcode 0x7F: IMX. -/
def decodeOp7F (w : Word) (next : Word) : Option Instr :=
  some (.imx (bitsAt 0 25 w) next)

/-- The instruction a word holds, given the word that follows it; none where no row of the table matches (03 R93, R94, R97). -/
def decodeWord (w next : Word) : Option Instr :=
  match (bitsAt 25 7 w).toNat with
  | 0x01 => decodeOp01 w
  | 0x02 => decodeOp02 w
  | 0x03 => decodeOp03 w
  | 0x04 => decodeOp04 w
  | 0x05 => decodeOp05 w
  | 0x06 => decodeOp06 w
  | 0x07 => decodeOp07 w
  | 0x08 => decodeOp08 w
  | 0x09 => decodeOp09 w
  | 0x0A => decodeOp0A w
  | 0x0B => decodeOp0B w
  | 0x0C => decodeOp0C w
  | 0x0D => decodeOp0D w
  | 0x0E => decodeOp0E w
  | 0x0F => decodeOp0F w
  | 0x10 => decodeOp10 w
  | 0x11 => decodeOp11 w
  | 0x12 => decodeOp12 w
  | 0x13 => decodeOp13 w
  | 0x14 => decodeOp14 w
  | 0x15 => decodeOp15 w
  | 0x16 => decodeOp16 w
  | 0x17 => decodeOp17 w
  | 0x18 => decodeOp18 w
  | 0x19 => decodeOp19 w
  | 0x1A => decodeOp1A w
  | 0x1B => decodeOp1B w
  | 0x1C => decodeOp1C w
  | 0x1D => decodeOp1D w
  | 0x1E => decodeOp1E w
  | 0x1F => decodeOp1F w
  | 0x20 => decodeOp20 w
  | 0x21 => decodeOp21 w
  | 0x22 => decodeOp22 w
  | 0x23 => decodeOp23 w
  | 0x24 => decodeOp24 w
  | 0x25 => decodeOp25 w
  | 0x26 => decodeOp26 w
  | 0x27 => decodeOp27 w
  | 0x28 => decodeOp28 w
  | 0x29 => decodeOp29 w
  | 0x2A => decodeOp2A w
  | 0x2B => decodeOp2B w
  | 0x2C => decodeOp2C w
  | 0x2D => decodeOp2D w
  | 0x2E => decodeOp2E w
  | 0x2F => decodeOp2F w
  | 0x30 => decodeOp30 w
  | 0x31 => decodeOp31 w
  | 0x32 => decodeOp32 w
  | 0x33 => decodeOp33 w
  | 0x34 => decodeOp34 w
  | 0x35 => decodeOp35 w
  | 0x36 => decodeOp36 w
  | 0x37 => decodeOp37 w
  | 0x38 => decodeOp38 w
  | 0x39 => decodeOp39 w
  | 0x3A => decodeOp3A w
  | 0x3B => decodeOp3B w
  | 0x3C => decodeOp3C w
  | 0x3D => decodeOp3D w
  | 0x3E => decodeOp3E w
  | 0x3F => decodeOp3F w
  | 0x40 => decodeOp40 w
  | 0x41 => decodeOp41 w
  | 0x42 => decodeOp42 w
  | 0x43 => decodeOp43 w
  | 0x44 => decodeOp44 w
  | 0x45 => decodeOp45 w
  | 0x46 => decodeOp46 w
  | 0x47 => decodeOp47 w
  | 0x48 => decodeOp48 w
  | 0x49 => decodeOp49 w
  | 0x4A => decodeOp4A w
  | 0x4B => decodeOp4B w
  | 0x4C => decodeOp4C w
  | 0x4D => decodeOp4D w
  | 0x4E => decodeOp4E w
  | 0x4F => decodeOp4F w
  | 0x50 => decodeOp50 w
  | 0x51 => decodeOp51 w
  | 0x52 => decodeOp52 w
  | 0x53 => decodeOp53 w
  | 0x54 => decodeOp54 w
  | 0x55 => decodeOp55 w
  | 0x56 => decodeOp56 w
  | 0x57 => decodeOp57 w
  | 0x58 => decodeOp58 w
  | 0x59 => decodeOp59 w
  | 0x5A => decodeOp5A w
  | 0x5B => decodeOp5B w
  | 0x5C => decodeOp5C w
  | 0x5D => decodeOp5D w
  | 0x5E => decodeOp5E w
  | 0x5F => decodeOp5F w
  | 0x60 => decodeOp60 w
  | 0x61 => decodeOp61 w
  | 0x62 => decodeOp62 w
  | 0x63 => decodeOp63 w
  | 0x64 => decodeOp64 w
  | 0x65 => decodeOp65 w
  | 0x66 => decodeOp66 w
  | 0x67 => decodeOp67 w
  | 0x68 => decodeOp68 w
  | 0x69 => decodeOp69 w
  | 0x6A => decodeOp6A w
  | 0x6B => decodeOp6B w
  | 0x6C => decodeOp6C w
  | 0x6D => decodeOp6D w
  | 0x6E => decodeOp6E w
  | 0x6F => decodeOp6F w
  | 0x70 => decodeOp70 w
  | 0x71 => decodeOp71 w
  | 0x72 => decodeOp72 w
  | 0x73 => decodeOp73 w
  | 0x74 => decodeOp74 w
  | 0x75 => decodeOp75 w
  | 0x76 => decodeOp76 w
  | 0x77 => decodeOp77 w
  | 0x78 => decodeOp78 w
  | 0x79 => decodeOp79 w
  | 0x7A => decodeOp7A w
  | 0x7B => decodeOp7B w
  | 0x7C => decodeOp7C w
  | 0x7D => decodeOp7D w
  | 0x7E => decodeOp7E w
  | 0x7F => decodeOp7F w next
  | _ => none

/-- A word from four bytes, low byte first (00 R3). -/
def wordOfBytes (b0 b1 b2 b3 : Byte) : Word :=
  BitVec.ofNat 32 (b0.toNat + 2 ^ 8 * b1.toNat + 2 ^ 16 * b2.toNat + 2 ^ 24 * b3.toNat)

/-- The instruction at the start of a byte string and the bytes after it; an IMX takes its follower with it (03 R83, R92). -/
def decode : List Byte → Except Reject (Instr × List Byte)
  | b0 :: b1 :: b2 :: b3 :: rest =>
    let w := wordOfBytes b0 b1 b2 b3
    if bitsAt 25 7 w = 0x7F then
      match rest with
      | c0 :: c1 :: c2 :: c3 :: rest' => .ok (.imx (bitsAt 0 25 w) (wordOfBytes c0 c1 c2 c3), rest')
      | _ => .error .short
    else
      match decodeWord w 0 with
      | some i => .ok (i, rest)
      | none => .error (.noRow w)
  | _ => .error .short

/-- The instruction the decoder reads from the bits the opcode table numbers (the host's name). -/
def decodeTableWord (nbits w : Nat) : Option Instr :=
  match decode (bytesOf 8 (w % 2 ^ nbits)) with
  | .ok (i, _) => some i
  | .error _ => none

/-- A field's bits at their place in the word (03 R83). -/
def fld {n : Nat} (x : BitVec n) (lo : Nat) : Nat := x.toNat * 2 ^ lo

/-- A fixed code at its place in the word (03 R94). -/
def lit (v lo : Nat) : Nat := v * 2 ^ lo

/-- A word from its opcode and its placed fields (03 R83). -/
def wordOf (op : Nat) (fields : List Nat) : Word := BitVec.ofNat 32 (op * 2 ^ 25 + fields.sum)

/-- The words of an instruction, from the encoding tables of R83 to R96; an event has none. -/
def encode : Instr → List Word
  | .iadd d a b g h => [wordOf 0x01 [fld d 18, fld a 11, fld b 4, fld g 2, fld h 0]]
  | .iadds d a b g h => [wordOf 0x02 [fld d 18, fld a 11, fld b 4, fld g 2, fld h 0]]
  | .isub d a b g h => [wordOf 0x03 [fld d 18, fld a 11, fld b 4, fld g 2, fld h 0]]
  | .isubs d a b g h => [wordOf 0x04 [fld d 18, fld a 11, fld b 4, fld g 2, fld h 0]]
  | .imul d a b g h => [wordOf 0x05 [fld d 18, fld a 11, fld b 4, fld g 2, fld h 0]]
  | .imulh d a b g h => [wordOf 0x06 [fld d 18, fld a 11, fld b 4, fld g 2, fld h 0]]
  | .imulhu d a b g h => [wordOf 0x07 [fld d 18, fld a 11, fld b 4, fld g 2, fld h 0]]
  | .imad d a b g h => [wordOf 0x08 [fld d 18, fld a 11, fld b 4, fld g 2, fld h 0]]
  | .land d a b g h => [wordOf 0x09 [fld d 18, fld a 11, fld b 4, fld g 2, fld h 0]]
  | .lor d a b g h => [wordOf 0x0A [fld d 18, fld a 11, fld b 4, fld g 2, fld h 0]]
  | .lxor d a b g h => [wordOf 0x0B [fld d 18, fld a 11, fld b 4, fld g 2, fld h 0]]
  | .andn d a b g h => [wordOf 0x0C [fld d 18, fld a 11, fld b 4, fld g 2, fld h 0]]
  | .shl d a b g h => [wordOf 0x0D [fld d 18, fld a 11, fld b 4, fld g 2, fld h 0]]
  | .shr d a b g h => [wordOf 0x0E [fld d 18, fld a 11, fld b 4, fld g 2, fld h 0]]
  | .sar d a b g h => [wordOf 0x0F [fld d 18, fld a 11, fld b 4, fld g 2, fld h 0]]
  | .imin d a b g h => [wordOf 0x10 [fld d 18, fld a 11, fld b 4, fld g 2, fld h 0]]
  | .imax d a b g h => [wordOf 0x11 [fld d 18, fld a 11, fld b 4, fld g 2, fld h 0]]
  | .umin d a b g h => [wordOf 0x12 [fld d 18, fld a 11, fld b 4, fld g 2, fld h 0]]
  | .umax d a b g h => [wordOf 0x13 [fld d 18, fld a 11, fld b 4, fld g 2, fld h 0]]
  | .lea2 d a b g => [wordOf 0x14 [fld d 18, fld a 11, fld b 4, fld g 2]]
  | .lea3 d a b g => [wordOf 0x15 [fld d 18, fld a 11, fld b 4, fld g 2]]
  | .mov d a g h => [wordOf 0x16 [fld d 18, fld a 11, fld g 2, fld h 0]]
  | .lnot d a g h => [wordOf 0x16 [fld d 18, fld a 11, lit 1 4, fld g 2, fld h 0]]
  | .neg d a g h => [wordOf 0x16 [fld d 18, fld a 11, lit 2 4, fld g 2, fld h 0]]
  | .iabs d a g h => [wordOf 0x16 [fld d 18, fld a 11, lit 3 4, fld g 2, fld h 0]]
  | .popc d a g h => [wordOf 0x16 [fld d 18, fld a 11, lit 4 4, fld g 2, fld h 0]]
  | .clz d a g h => [wordOf 0x16 [fld d 18, fld a 11, lit 5 4, fld g 2, fld h 0]]
  | .ctz d a g h => [wordOf 0x16 [fld d 18, fld a 11, lit 6 4, fld g 2, fld h 0]]
  | .brev d a g h => [wordOf 0x16 [fld d 18, fld a 11, lit 7 4, fld g 2, fld h 0]]
  | .bswap d a g h => [wordOf 0x16 [fld d 18, fld a 11, lit 8 4, fld g 2, fld h 0]]
  | .laneid d g h => [wordOf 0x16 [fld d 18, lit 9 4, fld g 2, fld h 0]]
  | .fibid d g h => [wordOf 0x16 [fld d 18, lit 10 4, fld g 2, fld h 0]]
  | .smovi d i => [wordOf 0x17 [fld d 18, fld i 0]]
  | .iaddi d a i => [wordOf 0x18 [fld d 18, fld a 11, fld i 0]]
  | .imuli d a i => [wordOf 0x19 [fld d 18, fld a 11, fld i 0]]
  | .andi d a i => [wordOf 0x1A [fld d 18, fld a 11, fld i 0]]
  | .ori d a i => [wordOf 0x1B [fld d 18, fld a 11, fld i 0]]
  | .xori d a i => [wordOf 0x1C [fld d 18, fld a 11, fld i 0]]
  | .shli d a n => [wordOf 0x1D [fld d 18, fld a 11, fld n 0]]
  | .shri d a n => [wordOf 0x1E [fld d 18, fld a 11, fld n 0]]
  | .sari d a n => [wordOf 0x1F [fld d 18, fld a 11, fld n 0]]
  | .icmp c p a b g => [wordOf 0x20 [fld c 21, fld p 18, fld a 11, fld b 4, fld g 2]]
  | .ucmp c p a b g => [wordOf 0x21 [fld c 21, fld p 18, fld a 11, fld b 4, fld g 2]]
  | .fcmp c p a b g => [wordOf 0x22 [fld c 21, fld p 18, fld a 11, fld b 4, fld g 2]]
  | .hcmp c p a b g => [wordOf 0x23 [fld c 21, fld p 18, fld a 11, fld b 4, fld g 2]]
  | .icmpi c p a i => [wordOf 0x24 [fld c 21, fld p 18, fld a 11, fld i 0]]
  | .plog d n a o m b g => [wordOf 0x25 [fld d 18, fld n 14, fld a 11, fld o 8, fld m 7, fld b 4, fld g 2]]
  | .pmov d a m g => [wordOf 0x26 [fld d 18, fld a 11, fld m 4, fld g 2]]
  | .vote d n a m g => [wordOf 0x27 [fld d 18, fld n 14, fld a 11, fld m 4, fld g 2]]
  | .fadd d a b g h => [wordOf 0x28 [fld d 18, fld a 11, fld b 4, fld g 2, fld h 0]]
  | .fsub d a b g h => [wordOf 0x29 [fld d 18, fld a 11, fld b 4, fld g 2, fld h 0]]
  | .fmul d a b g h => [wordOf 0x2A [fld d 18, fld a 11, fld b 4, fld g 2, fld h 0]]
  | .ffma d a b g h => [wordOf 0x2B [fld d 18, fld a 11, fld b 4, fld g 2, fld h 0]]
  | .fmin d a b g h => [wordOf 0x2C [fld d 18, fld a 11, fld b 4, fld g 2, fld h 0]]
  | .fmax d a b g h => [wordOf 0x2D [fld d 18, fld a 11, fld b 4, fld g 2, fld h 0]]
  | .fclamp d a b g h => [wordOf 0x2E [fld d 18, fld a 11, fld b 4, fld g 2, fld h 0]]
  | .fmov d a g h => [wordOf 0x2F [fld d 18, fld a 11, fld g 2, fld h 0]]
  | .fneg d a g h => [wordOf 0x2F [fld d 18, fld a 11, lit 1 4, fld g 2, fld h 0]]
  | .fabs d a g h => [wordOf 0x2F [fld d 18, fld a 11, lit 2 4, fld g 2, fld h 0]]
  | .frcp d a g h => [wordOf 0x2F [fld d 18, fld a 11, lit 3 4, fld g 2, fld h 0]]
  | .frsq d a g h => [wordOf 0x2F [fld d 18, fld a 11, lit 4 4, fld g 2, fld h 0]]
  | .fsqrt d a g h => [wordOf 0x2F [fld d 18, fld a 11, lit 5 4, fld g 2, fld h 0]]
  | .fexp2 d a g h => [wordOf 0x2F [fld d 18, fld a 11, lit 6 4, fld g 2, fld h 0]]
  | .flog2 d a g h => [wordOf 0x2F [fld d 18, fld a 11, lit 7 4, fld g 2, fld h 0]]
  | .fsin d a g h => [wordOf 0x2F [fld d 18, fld a 11, lit 8 4, fld g 2, fld h 0]]
  | .fcos d a g h => [wordOf 0x2F [fld d 18, fld a 11, lit 9 4, fld g 2, fld h 0]]
  | .ffloor d a g h => [wordOf 0x2F [fld d 18, fld a 11, lit 10 4, fld g 2, fld h 0]]
  | .fceil d a g h => [wordOf 0x2F [fld d 18, fld a 11, lit 11 4, fld g 2, fld h 0]]
  | .ftrunc d a g h => [wordOf 0x2F [fld d 18, fld a 11, lit 12 4, fld g 2, fld h 0]]
  | .frint d a g h => [wordOf 0x2F [fld d 18, fld a 11, lit 13 4, fld g 2, fld h 0]]
  | .ffract d a g h => [wordOf 0x2F [fld d 18, fld a 11, lit 14 4, fld g 2, fld h 0]]
  | .fsign d a g h => [wordOf 0x2F [fld d 18, fld a 11, lit 15 4, fld g 2, fld h 0]]
  | .hadd2 d a b g h => [wordOf 0x30 [fld d 18, fld a 11, fld b 4, fld g 2, fld h 0]]
  | .hsub2 d a b g h => [wordOf 0x31 [fld d 18, fld a 11, fld b 4, fld g 2, fld h 0]]
  | .hmul2 d a b g h => [wordOf 0x32 [fld d 18, fld a 11, fld b 4, fld g 2, fld h 0]]
  | .hfma2 d a b g h => [wordOf 0x33 [fld d 18, fld a 11, fld b 4, fld g 2, fld h 0]]
  | .hmin2 d a b g h => [wordOf 0x34 [fld d 18, fld a 11, fld b 4, fld g 2, fld h 0]]
  | .hmax2 d a b g h => [wordOf 0x35 [fld d 18, fld a 11, fld b 4, fld g 2, fld h 0]]
  | .dot2h d a b g h => [wordOf 0x36 [fld d 18, fld a 11, fld b 4, fld g 2, fld h 0]]
  | .dot4q d a b g h => [wordOf 0x37 [fld d 18, fld a 11, fld b 4, fld g 2, fld h 0]]
  | .cadd d a b g => [wordOf 0x38 [fld d 18, fld a 11, fld b 4, fld g 2]]
  | .csub d a b g => [wordOf 0x39 [fld d 18, fld a 11, fld b 4, fld g 2]]
  | .cmul d a b g => [wordOf 0x3A [fld d 18, fld a 11, fld b 4, fld g 2]]
  | .cfma d a b g => [wordOf 0x3B [fld d 18, fld a 11, fld b 4, fld g 2]]
  | .ccmul d a b g => [wordOf 0x3C [fld d 18, fld a 11, fld b 4, fld g 2]]
  | .cmag2 d a g => [wordOf 0x3D [fld d 18, fld a 11, fld g 2]]
  | .cexpi d a g => [wordOf 0x3E [fld d 18, fld a 11, fld g 2]]
  | .cscale d a b g => [wordOf 0x3F [fld d 18, fld a 11, fld b 4, fld g 2]]
  | .cvt d a s t g h => [wordOf 0x40 [fld d 18, fld a 11, fld s 10, fld t 4, fld g 2, fld h 0]]
  | .pack d a s t g h => [wordOf 0x41 [fld d 18, fld a 11, fld s 10, fld t 4, fld g 2, fld h 0]]
  | .unpackWiden d a k g h => [wordOf 0x42 [fld d 18, fld a 11, fld k 4, fld g 2, fld h 0]]
  | .unpackBlock d a g => [wordOf 0x42 [fld d 18, fld a 11, lit 64 4, fld g 2]]
  | .settag d a t g h => [wordOf 0x43 [fld d 18, fld a 11, fld t 4, fld g 2, fld h 0]]
  | .gettag d a g h => [wordOf 0x44 [fld d 18, fld a 11, fld g 2, fld h 0]]
  | .shfl d a b g h => [wordOf 0x45 [fld d 18, fld a 11, fld b 4, fld g 2, fld h 0]]
  | .xbar d a n g h => [wordOf 0x46 [fld d 18, fld a 11, fld n 4, fld g 2, fld h 0]]
  | .xptl n a g => [wordOf 0x47 [fld n 18, fld a 11, fld g 2]]
  | .tmma d a b m => [wordOf 0x48 [fld d 18, fld a 11, fld b 4, fld m 2]]
  | .tmmat d a b m => [wordOf 0x49 [fld d 18, fld a 11, fld b 4, fld m 2]]
  | .tzero d m => [wordOf 0x4A [fld d 18, fld m 2]]
  | .ttrnFragment d a m => [wordOf 0x4B [fld d 18, fld a 11, fld m 2]]
  | .ttrnAccumulator d a m => [wordOf 0x4B [fld d 18, fld a 11, lit 1 4, fld m 2]]
  | .tact d a f m => [wordOf 0x4C [fld d 18, fld a 11, fld f 4, fld m 2]]
  | .tcvt d a s t m => [wordOf 0x4D [fld d 18, fld a 11, fld s 10, fld t 4, fld m 2]]
  | .tred d a o m => [wordOf 0x4E [fld d 18, fld a 11, fld o 4, fld m 2]]
  | .tbias d a b m => [wordOf 0x4F [fld d 18, fld a 11, fld b 4, fld m 2]]
  | .ldb d a i => [wordOf 0x50 [fld d 18, fld a 11, fld i 0]]
  | .ldh d a i => [wordOf 0x51 [fld d 18, fld a 11, fld i 0]]
  | .ldw d a i => [wordOf 0x52 [fld d 18, fld a 11, fld i 0]]
  | .ldd d a i => [wordOf 0x53 [fld d 18, fld a 11, fld i 0]]
  | .ldq d a i => [wordOf 0x54 [fld d 18, fld a 11, fld i 0]]
  | .stb d a i => [wordOf 0x55 [fld d 18, fld a 11, fld i 0]]
  | .sth d a i => [wordOf 0x56 [fld d 18, fld a 11, fld i 0]]
  | .stw d a i => [wordOf 0x57 [fld d 18, fld a 11, fld i 0]]
  | .std d a i => [wordOf 0x58 [fld d 18, fld a 11, fld i 0]]
  | .stq d a i => [wordOf 0x59 [fld d 18, fld a 11, fld i 0]]
  | .ldv d a i => [wordOf 0x5A [fld d 18, fld a 11, fld i 0]]
  | .ldf d a t g => [wordOf 0x5B [fld d 18, fld a 11, fld t 4, fld g 2]]
  | .lde d a t g => [wordOf 0x5C [fld d 18, fld a 11, fld t 4, fld g 2]]
  | .accb d a i => [wordOf 0x5D [fld d 18, fld a 11, fld i 0]]
  | .tld d a b m => [wordOf 0x5E [fld d 18, fld a 11, fld b 4, fld m 2]]
  | .tst d a b m => [wordOf 0x5F [fld d 18, fld a 11, fld b 4, fld m 2]]
  | .aadd d a b c => [wordOf 0x60 [fld d 18, fld a 11, fld b 4, fld c 2]]
  | .aaddNr a b c => [wordOf 0x60 [fld a 11, fld b 4, fld c 2, lit 1 0]]
  | .afadd d a b c => [wordOf 0x61 [fld d 18, fld a 11, fld b 4, fld c 2]]
  | .afaddNr a b c => [wordOf 0x61 [fld a 11, fld b 4, fld c 2, lit 1 0]]
  | .amin d a b c => [wordOf 0x62 [fld d 18, fld a 11, fld b 4, fld c 2]]
  | .aminNr a b c => [wordOf 0x62 [fld a 11, fld b 4, fld c 2, lit 1 0]]
  | .amax d a b c => [wordOf 0x63 [fld d 18, fld a 11, fld b 4, fld c 2]]
  | .amaxNr a b c => [wordOf 0x63 [fld a 11, fld b 4, fld c 2, lit 1 0]]
  | .aumin d a b c => [wordOf 0x64 [fld d 18, fld a 11, fld b 4, fld c 2]]
  | .auminNr a b c => [wordOf 0x64 [fld a 11, fld b 4, fld c 2, lit 1 0]]
  | .aumax d a b c => [wordOf 0x65 [fld d 18, fld a 11, fld b 4, fld c 2]]
  | .aumaxNr a b c => [wordOf 0x65 [fld a 11, fld b 4, fld c 2, lit 1 0]]
  | .aand d a b c => [wordOf 0x66 [fld d 18, fld a 11, fld b 4, fld c 2]]
  | .aandNr a b c => [wordOf 0x66 [fld a 11, fld b 4, fld c 2, lit 1 0]]
  | .aor d a b c => [wordOf 0x67 [fld d 18, fld a 11, fld b 4, fld c 2]]
  | .aorNr a b c => [wordOf 0x67 [fld a 11, fld b 4, fld c 2, lit 1 0]]
  | .axor d a b c => [wordOf 0x68 [fld d 18, fld a 11, fld b 4, fld c 2]]
  | .axorNr a b c => [wordOf 0x68 [fld a 11, fld b 4, fld c 2, lit 1 0]]
  | .axchg d a b c => [wordOf 0x69 [fld d 18, fld a 11, fld b 4, fld c 2]]
  | .axchgNr a b c => [wordOf 0x69 [fld a 11, fld b 4, fld c 2, lit 1 0]]
  | .acas d a b c => [wordOf 0x6A [fld d 18, fld a 11, fld b 4, fld c 2]]
  | .acasNr a b c => [wordOf 0x6A [fld a 11, fld b 4, fld c 2, lit 1 0]]
  | .enq d a b c => [wordOf 0x6B [fld d 18, fld a 11, fld b 4, fld c 2]]
  | .deq d a b c => [wordOf 0x6C [fld d 18, fld a 11, fld b 4, fld c 2]]
  | .monw k a b c => [wordOf 0x6D [fld k 18, fld a 11, fld b 4, fld c 2]]
  | .phase c => [wordOf 0x6E [fld c 2]]
  | .bar c => [wordOf 0x6F [fld c 2]]
  | .br p n m s => [wordOf 0x70 [fld p 22, fld n 21, fld m 19, fld s 0]]
  | .brx a g => [wordOf 0x71 [fld a 11, fld g 2]]
  | .call d i => [wordOf 0x72 [fld d 18, fld i 0]]
  | .ret a g => [wordOf 0x73 [fld a 11, fld g 2]]
  | .fork d i => [wordOf 0x74 [fld d 18, fld i 0]]
  | .fend g => [wordOf 0x75 [fld g 2]]
  | .join n => [wordOf 0x76 [fld n 0]]
  | .waitc x c s l => [wordOf 0x77 [fld x 12, fld c 8, fld s 4, fld l 0]]
  | .sadd d a b => [wordOf 0x78 [fld d 18, fld a 11, fld b 4]]
  | .ssub d a b => [wordOf 0x78 [fld d 18, fld a 11, fld b 4, lit 1 0]]
  | .smul d a b => [wordOf 0x78 [fld d 18, fld a 11, fld b 4, lit 2 0]]
  | .smulh d a b => [wordOf 0x78 [fld d 18, fld a 11, fld b 4, lit 3 0]]
  | .sand d a b => [wordOf 0x78 [fld d 18, fld a 11, fld b 4, lit 4 0]]
  | .sor d a b => [wordOf 0x78 [fld d 18, fld a 11, fld b 4, lit 5 0]]
  | .sxor d a b => [wordOf 0x78 [fld d 18, fld a 11, fld b 4, lit 6 0]]
  | .sshl d a b => [wordOf 0x78 [fld d 18, fld a 11, fld b 4, lit 7 0]]
  | .sshr d a b => [wordOf 0x78 [fld d 18, fld a 11, fld b 4, lit 8 0]]
  | .ssar d a b => [wordOf 0x78 [fld d 18, fld a 11, fld b 4, lit 9 0]]
  | .smin d a b => [wordOf 0x78 [fld d 18, fld a 11, fld b 4, lit 10 0]]
  | .smax d a b => [wordOf 0x78 [fld d 18, fld a 11, fld b 4, lit 11 0]]
  | .sumin d a b => [wordOf 0x78 [fld d 18, fld a 11, fld b 4, lit 12 0]]
  | .sumax d a b => [wordOf 0x78 [fld d 18, fld a 11, fld b 4, lit 13 0]]
  | .smov d a => [wordOf 0x78 [fld d 18, fld a 11, lit 14 0]]
  | .sslt d a b => [wordOf 0x78 [fld d 18, fld a 11, fld b 4, lit 15 0]]
  | .sfadd d a b => [wordOf 0x79 [fld d 18, fld a 11, fld b 4]]
  | .sfsub d a b => [wordOf 0x79 [fld d 18, fld a 11, fld b 4, lit 1 0]]
  | .sfmul d a b => [wordOf 0x79 [fld d 18, fld a 11, fld b 4, lit 2 0]]
  | .sffma d a b => [wordOf 0x79 [fld d 18, fld a 11, fld b 4, lit 3 0]]
  | .sfmin d a b => [wordOf 0x79 [fld d 18, fld a 11, fld b 4, lit 4 0]]
  | .sfmax d a b => [wordOf 0x79 [fld d 18, fld a 11, fld b 4, lit 5 0]]
  | .sfrcp d a => [wordOf 0x79 [fld d 18, fld a 11, lit 6 0]]
  | .sfrsq d a => [wordOf 0x79 [fld d 18, fld a 11, lit 7 0]]
  | .sfsqrt d a => [wordOf 0x79 [fld d 18, fld a 11, lit 8 0]]
  | .scvtfi d a => [wordOf 0x79 [fld d 18, fld a 11, lit 9 0]]
  | .scvtif d a => [wordOf 0x79 [fld d 18, fld a 11, lit 10 0]]
  | .sfcmplt d a b => [wordOf 0x79 [fld d 18, fld a 11, fld b 4, lit 11 0]]
  | .saddi d a i => [wordOf 0x7A [fld d 18, fld a 11, fld i 0]]
  | .vmovi d i => [wordOf 0x7B [fld d 18, fld i 0]]
  | .imx v next => [wordOf 0x7F [fld v 0], next]
  | .cplin d a q => [wordOf 0x7C [fld d 18, fld a 11, fld q 0]]
  | .cp2d d a q => [wordOf 0x7C [fld d 18, fld a 11, lit 1 4, fld q 0]]
  | .cpgath d a q => [wordOf 0x7C [fld d 18, fld a 11, lit 2 4, fld q 0]]
  | .cpscat d a q => [wordOf 0x7C [fld d 18, fld a 11, lit 3 4, fld q 0]]
  | .cpexp d a q => [wordOf 0x7C [fld d 18, fld a 11, lit 4 4, fld q 0]]
  | .cpcmp d a q => [wordOf 0x7C [fld d 18, fld a 11, lit 5 4, fld q 0]]
  | .rcarm d a q => [wordOf 0x7C [fld d 18, fld a 11, lit 6 4, fld q 0]]
  | .rcwait d a q => [wordOf 0x7C [fld d 18, fld a 11, lit 7 4, fld q 0]]
  | .gtopk d a q => [wordOf 0x7C [fld d 18, fld a 11, lit 8 4, fld q 0]]
  | .gbuck d a q => [wordOf 0x7C [fld d 18, fld a 11, lit 9 4, fld q 0]]
  | .gmerge d a q => [wordOf 0x7C [fld d 18, fld a 11, lit 10 4, fld q 0]]
  | .ghist d a q => [wordOf 0x7C [fld d 18, fld a 11, lit 11 4, fld q 0]]
  | .gscan d a q => [wordOf 0x7C [fld d 18, fld a 11, lit 12 4, fld q 0]]
  | .gperm d a q => [wordOf 0x7C [fld d 18, fld a 11, lit 13 4, fld q 0]]
  | .cxfork d a q => [wordOf 0x7C [fld d 18, fld a 11, lit 14 4, fld q 0]]
  | .cxrdv d a q => [wordOf 0x7C [fld d 18, fld a 11, lit 15 4, fld q 0]]
  | .cxbond d a q => [wordOf 0x7C [fld d 18, fld a 11, lit 16 4, fld q 0]]
  | .cxdense d a q => [wordOf 0x7C [fld d 18, fld a 11, lit 17 4, fld q 0]]
  | .qfence d a q => [wordOf 0x7C [fld d 18, fld a 11, lit 18 4, fld q 0]]
  | .qstat d a q => [wordOf 0x7C [fld d 18, fld a 11, lit 19 4, fld q 0]]
  | .genray d a g => [wordOf 0x7D [fld d 18, fld a 11, fld g 0]]
  | .trace g => [wordOf 0x7D [lit 4 2, fld g 0]]
  | .accept g => [wordOf 0x7D [lit 8 2, fld g 0]]
  | .ignore g => [wordOf 0x7D [lit 12 2, fld g 0]]
  | .termray g => [wordOf 0x7D [lit 16 2, fld g 0]]
  | .spawn d a g => [wordOf 0x7D [fld d 18, fld a 11, lit 20 2, fld g 0]]
  | .rayld d c w g => [wordOf 0x7D [fld d 18, fld c 16, fld w 11, lit 24 2, fld g 0]]
  | .rayst d c w g => [wordOf 0x7D [fld d 18, fld c 16, fld w 11, lit 28 2, fld g 0]]
  | .raydone g => [wordOf 0x7D [lit 32 2, fld g 0]]
  | .binkey d g => [wordOf 0x7D [fld d 18, lit 36 2, fld g 0]]
  | .childq d g => [wordOf 0x7D [fld d 18, lit 40 2, fld g 0]]
  | .item c a g => [wordOf 0x7D [fld c 18, fld a 11, lit 44 2, fld g 0]]
  | .launch d a g => [wordOf 0x7D [fld d 18, fld a 11, lit 48 2, fld g 0]]
  | .nop => [wordOf 0x7E []]
  | .trap n g => [wordOf 0x7E [fld n 11, lit 4 2, fld g 0]]
  | .bkpt n g => [wordOf 0x7E [fld n 11, lit 8 2, fld g 0]]
  | .getsr d e s g => [wordOf 0x7E [fld d 18, fld e 11, lit 6 3, fld s 2, fld g 0]]
  | .setsr e a g => [wordOf 0x7E [fld e 18, fld a 11, lit 16 2, fld g 0]]
  | .rdcyc d g => [wordOf 0x7E [fld d 18, lit 20 2, fld g 0]]
  | .yield => [wordOf 0x7E [lit 96 0]]
  | .region => [wordOf 0x7E [lit 112 0]]
  | .winb n => [wordOf 0x7E [fld n 11, lit 128 0]]
  | .swinb n => [wordOf 0x7E [fld n 11, lit 144 0]]
  | .regreq n => [wordOf 0x7E [fld n 11, lit 160 0]]
  | .regrel n => [wordOf 0x7E [fld n 11, lit 176 0]]
  | .rdlane d a g => [wordOf 0x7E [fld d 18, fld a 11, lit 49 2, fld g 0]]
  | .wrlane d a g => [wordOf 0x7E [fld d 18, fld a 11, lit 52 2, fld g 0]]
  | .bcast d a s g => [wordOf 0x7E [fld d 18, fld a 11, lit 28 3, fld s 2, fld g 0]]
  | .prefh a g => [wordOf 0x7E [fld a 11, lit 60 2, fld g 0]]
  | .parkc n => [wordOf 0x7E [fld n 11, lit 256 0]]
  | .tileOpComplete _ => []
  | .illegalEncoding _ => []
  | .fetchFault _ => []
  | .queuedCommandStart _ _ => []
  | .copyUnit _ _ => []
  | .gseRow _ _ => []
  | .macRun _ _ _ _ => []
  | .queuedCommandComplete _ _ => []
  | .loadb _ _ => []
  | .contract _ _ => []
  | .dense _ _ => []
  | .conv3 _ _ => []
  | .ups2 _ _ => []
  | .act _ _ => []
  | .perm _ _ => []
  | .storeb _ _ => []
  | .splitParts _ _ => []
  | .endSplit _ _ => []
  | .env _ _ => []
  | .endProg _ _ => []
  | .parkcTimeout _ => []
  | .loadLands _ _ => []
  | .storePerformed _ _ => []
  | .monwRecheck _ => []
  | .regionJoin _ => []
  | .drainCombine _ => []
  | .drainAck _ => []
  | .regionRead _ => []
  | .l1Evict _ _ => []
  | .waveRetire _ => []
  | .regreqGrant _ _ => []
  | .spillWave _ _ => []
  | .spillReturn _ => []
  | .monwSpill _ => []
  | .waveExchange _ _ => []
  | .waveAgeBoost _ => []
  | .lqbell _ => []
  | .launchAccept _ => []
  | .groupPlace => []
  | .placementReserve _ => []
  | .launchComplete _ => []
  | .rayTraverse _ => []
  | .binAgeFlush _ => []
  | .rayRefill _ _ => []
  | .groupHaltComplete _ => []
  | .resume _ _ => []
  | .skip _ _ => []
  | .cancel _ _ => []
  | .kill _ _ => []
  | .trapreplyInvalid _ => []
  | .tqerrClear _ => []
  | .engineStatusClear _ _ => []
  | .ctxNone _ => []
  | .switchIn _ => []
  | .switchOut _ => []
  | .killContext _ => []
  | .killLaunch _ => []
  | .haltContext _ => []
  | .ctxReservedOp _ _ => []
  | .contextOpComplete => []
  | .invalidationRequest _ _ _ => []
  | .invalidationComplete => []
  | .domainWrite _ => []
  | .linkctlWrite _ _ => []
  | .registerWrite _ _ => []
  | .linkUp _ _ => []
  | .flitReceive _ _ => []
  | .nakReceive _ _ => []
  | .linkRead _ => []
  | .linkWrite _ => []
  | .linkAtomic _ => []
  | .linkEnq _ => []
  | .linkDeq _ => []
  | .linkMonw _ => []
  | .linkInvalidate _ => []
  | .linkDrain _ => []
  | .linkResponse _ => []
  | .linkWake _ => []
  | .linkLost _ => []
  | .hostRead _ _ _ => []
  | .hostWrite _ _ _ _ => []
  | .deviceReset _ _ _ _ _ => []
  | .extend _ _ => []
  | .quote _ => []
  | .alarm _ => []
  | .clockStepDown => []
  | .clockStepUp => []
  | .controlCoreRead _ _ => []
  | .controlCoreWrite _ _ => []
  | .softError _ _ => []

/-- The constructors that stand for words of a program; the others are events. -/
def Instr.isWord : Instr → Bool
  | .iadd _ _ _ _ _ => true
  | .iadds _ _ _ _ _ => true
  | .isub _ _ _ _ _ => true
  | .isubs _ _ _ _ _ => true
  | .imul _ _ _ _ _ => true
  | .imulh _ _ _ _ _ => true
  | .imulhu _ _ _ _ _ => true
  | .imad _ _ _ _ _ => true
  | .land _ _ _ _ _ => true
  | .lor _ _ _ _ _ => true
  | .lxor _ _ _ _ _ => true
  | .andn _ _ _ _ _ => true
  | .shl _ _ _ _ _ => true
  | .shr _ _ _ _ _ => true
  | .sar _ _ _ _ _ => true
  | .imin _ _ _ _ _ => true
  | .imax _ _ _ _ _ => true
  | .umin _ _ _ _ _ => true
  | .umax _ _ _ _ _ => true
  | .lea2 _ _ _ _ => true
  | .lea3 _ _ _ _ => true
  | .mov _ _ _ _ => true
  | .lnot _ _ _ _ => true
  | .neg _ _ _ _ => true
  | .iabs _ _ _ _ => true
  | .popc _ _ _ _ => true
  | .clz _ _ _ _ => true
  | .ctz _ _ _ _ => true
  | .brev _ _ _ _ => true
  | .bswap _ _ _ _ => true
  | .laneid _ _ _ => true
  | .fibid _ _ _ => true
  | .smovi _ _ => true
  | .iaddi _ _ _ => true
  | .imuli _ _ _ => true
  | .andi _ _ _ => true
  | .ori _ _ _ => true
  | .xori _ _ _ => true
  | .shli _ _ _ => true
  | .shri _ _ _ => true
  | .sari _ _ _ => true
  | .icmp _ _ _ _ _ => true
  | .ucmp _ _ _ _ _ => true
  | .fcmp _ _ _ _ _ => true
  | .hcmp _ _ _ _ _ => true
  | .icmpi _ _ _ _ => true
  | .plog _ _ _ _ _ _ _ => true
  | .pmov _ _ _ _ => true
  | .vote _ _ _ _ _ => true
  | .fadd _ _ _ _ _ => true
  | .fsub _ _ _ _ _ => true
  | .fmul _ _ _ _ _ => true
  | .ffma _ _ _ _ _ => true
  | .fmin _ _ _ _ _ => true
  | .fmax _ _ _ _ _ => true
  | .fclamp _ _ _ _ _ => true
  | .fmov _ _ _ _ => true
  | .fneg _ _ _ _ => true
  | .fabs _ _ _ _ => true
  | .frcp _ _ _ _ => true
  | .frsq _ _ _ _ => true
  | .fsqrt _ _ _ _ => true
  | .fexp2 _ _ _ _ => true
  | .flog2 _ _ _ _ => true
  | .fsin _ _ _ _ => true
  | .fcos _ _ _ _ => true
  | .ffloor _ _ _ _ => true
  | .fceil _ _ _ _ => true
  | .ftrunc _ _ _ _ => true
  | .frint _ _ _ _ => true
  | .ffract _ _ _ _ => true
  | .fsign _ _ _ _ => true
  | .hadd2 _ _ _ _ _ => true
  | .hsub2 _ _ _ _ _ => true
  | .hmul2 _ _ _ _ _ => true
  | .hfma2 _ _ _ _ _ => true
  | .hmin2 _ _ _ _ _ => true
  | .hmax2 _ _ _ _ _ => true
  | .dot2h _ _ _ _ _ => true
  | .dot4q _ _ _ _ _ => true
  | .cadd _ _ _ _ => true
  | .csub _ _ _ _ => true
  | .cmul _ _ _ _ => true
  | .cfma _ _ _ _ => true
  | .ccmul _ _ _ _ => true
  | .cmag2 _ _ _ => true
  | .cexpi _ _ _ => true
  | .cscale _ _ _ _ => true
  | .cvt _ _ _ _ _ _ => true
  | .pack _ _ _ _ _ _ => true
  | .unpackWiden _ _ _ _ _ => true
  | .unpackBlock _ _ _ => true
  | .settag _ _ _ _ _ => true
  | .gettag _ _ _ _ => true
  | .shfl _ _ _ _ _ => true
  | .xbar _ _ _ _ _ => true
  | .xptl _ _ _ => true
  | .tmma _ _ _ _ => true
  | .tmmat _ _ _ _ => true
  | .tzero _ _ => true
  | .ttrnFragment _ _ _ => true
  | .ttrnAccumulator _ _ _ => true
  | .tact _ _ _ _ => true
  | .tcvt _ _ _ _ _ => true
  | .tred _ _ _ _ => true
  | .tbias _ _ _ _ => true
  | .ldb _ _ _ => true
  | .ldh _ _ _ => true
  | .ldw _ _ _ => true
  | .ldd _ _ _ => true
  | .ldq _ _ _ => true
  | .stb _ _ _ => true
  | .sth _ _ _ => true
  | .stw _ _ _ => true
  | .std _ _ _ => true
  | .stq _ _ _ => true
  | .ldv _ _ _ => true
  | .ldf _ _ _ _ => true
  | .lde _ _ _ _ => true
  | .accb _ _ _ => true
  | .tld _ _ _ _ => true
  | .tst _ _ _ _ => true
  | .aadd _ _ _ _ => true
  | .aaddNr _ _ _ => true
  | .afadd _ _ _ _ => true
  | .afaddNr _ _ _ => true
  | .amin _ _ _ _ => true
  | .aminNr _ _ _ => true
  | .amax _ _ _ _ => true
  | .amaxNr _ _ _ => true
  | .aumin _ _ _ _ => true
  | .auminNr _ _ _ => true
  | .aumax _ _ _ _ => true
  | .aumaxNr _ _ _ => true
  | .aand _ _ _ _ => true
  | .aandNr _ _ _ => true
  | .aor _ _ _ _ => true
  | .aorNr _ _ _ => true
  | .axor _ _ _ _ => true
  | .axorNr _ _ _ => true
  | .axchg _ _ _ _ => true
  | .axchgNr _ _ _ => true
  | .acas _ _ _ _ => true
  | .acasNr _ _ _ => true
  | .enq _ _ _ _ => true
  | .deq _ _ _ _ => true
  | .monw _ _ _ _ => true
  | .phase _ => true
  | .bar _ => true
  | .br _ _ _ _ => true
  | .brx _ _ => true
  | .call _ _ => true
  | .ret _ _ => true
  | .fork _ _ => true
  | .fend _ => true
  | .join _ => true
  | .waitc _ _ _ _ => true
  | .sadd _ _ _ => true
  | .ssub _ _ _ => true
  | .smul _ _ _ => true
  | .smulh _ _ _ => true
  | .sand _ _ _ => true
  | .sor _ _ _ => true
  | .sxor _ _ _ => true
  | .sshl _ _ _ => true
  | .sshr _ _ _ => true
  | .ssar _ _ _ => true
  | .smin _ _ _ => true
  | .smax _ _ _ => true
  | .sumin _ _ _ => true
  | .sumax _ _ _ => true
  | .smov _ _ => true
  | .sslt _ _ _ => true
  | .sfadd _ _ _ => true
  | .sfsub _ _ _ => true
  | .sfmul _ _ _ => true
  | .sffma _ _ _ => true
  | .sfmin _ _ _ => true
  | .sfmax _ _ _ => true
  | .sfrcp _ _ => true
  | .sfrsq _ _ => true
  | .sfsqrt _ _ => true
  | .scvtfi _ _ => true
  | .scvtif _ _ => true
  | .sfcmplt _ _ _ => true
  | .saddi _ _ _ => true
  | .vmovi _ _ => true
  | .imx _ _ => true
  | .cplin _ _ _ => true
  | .cp2d _ _ _ => true
  | .cpgath _ _ _ => true
  | .cpscat _ _ _ => true
  | .cpexp _ _ _ => true
  | .cpcmp _ _ _ => true
  | .rcarm _ _ _ => true
  | .rcwait _ _ _ => true
  | .gtopk _ _ _ => true
  | .gbuck _ _ _ => true
  | .gmerge _ _ _ => true
  | .ghist _ _ _ => true
  | .gscan _ _ _ => true
  | .gperm _ _ _ => true
  | .cxfork _ _ _ => true
  | .cxrdv _ _ _ => true
  | .cxbond _ _ _ => true
  | .cxdense _ _ _ => true
  | .qfence _ _ _ => true
  | .qstat _ _ _ => true
  | .genray _ _ _ => true
  | .trace _ => true
  | .accept _ => true
  | .ignore _ => true
  | .termray _ => true
  | .spawn _ _ _ => true
  | .rayld _ _ _ _ => true
  | .rayst _ _ _ _ => true
  | .raydone _ => true
  | .binkey _ _ => true
  | .childq _ _ => true
  | .item _ _ _ => true
  | .launch _ _ _ => true
  | .nop => true
  | .trap _ _ => true
  | .bkpt _ _ => true
  | .getsr _ _ _ _ => true
  | .setsr _ _ _ => true
  | .rdcyc _ _ => true
  | .yield => true
  | .region => true
  | .winb _ => true
  | .swinb _ => true
  | .regreq _ => true
  | .regrel _ => true
  | .rdlane _ _ _ => true
  | .wrlane _ _ _ => true
  | .bcast _ _ _ _ => true
  | .prefh _ _ => true
  | .parkc _ => true
  | .tileOpComplete _ => false
  | .illegalEncoding _ => false
  | .fetchFault _ => false
  | .queuedCommandStart _ _ => false
  | .copyUnit _ _ => false
  | .gseRow _ _ => false
  | .macRun _ _ _ _ => false
  | .queuedCommandComplete _ _ => false
  | .loadb _ _ => false
  | .contract _ _ => false
  | .dense _ _ => false
  | .conv3 _ _ => false
  | .ups2 _ _ => false
  | .act _ _ => false
  | .perm _ _ => false
  | .storeb _ _ => false
  | .splitParts _ _ => false
  | .endSplit _ _ => false
  | .env _ _ => false
  | .endProg _ _ => false
  | .parkcTimeout _ => false
  | .loadLands _ _ => false
  | .storePerformed _ _ => false
  | .monwRecheck _ => false
  | .regionJoin _ => false
  | .drainCombine _ => false
  | .drainAck _ => false
  | .regionRead _ => false
  | .l1Evict _ _ => false
  | .waveRetire _ => false
  | .regreqGrant _ _ => false
  | .spillWave _ _ => false
  | .spillReturn _ => false
  | .monwSpill _ => false
  | .waveExchange _ _ => false
  | .waveAgeBoost _ => false
  | .lqbell _ => false
  | .launchAccept _ => false
  | .groupPlace => false
  | .placementReserve _ => false
  | .launchComplete _ => false
  | .rayTraverse _ => false
  | .binAgeFlush _ => false
  | .rayRefill _ _ => false
  | .groupHaltComplete _ => false
  | .resume _ _ => false
  | .skip _ _ => false
  | .cancel _ _ => false
  | .kill _ _ => false
  | .trapreplyInvalid _ => false
  | .tqerrClear _ => false
  | .engineStatusClear _ _ => false
  | .ctxNone _ => false
  | .switchIn _ => false
  | .switchOut _ => false
  | .killContext _ => false
  | .killLaunch _ => false
  | .haltContext _ => false
  | .ctxReservedOp _ _ => false
  | .contextOpComplete => false
  | .invalidationRequest _ _ _ => false
  | .invalidationComplete => false
  | .domainWrite _ => false
  | .linkctlWrite _ _ => false
  | .registerWrite _ _ => false
  | .linkUp _ _ => false
  | .flitReceive _ _ => false
  | .nakReceive _ _ => false
  | .linkRead _ => false
  | .linkWrite _ => false
  | .linkAtomic _ => false
  | .linkEnq _ => false
  | .linkDeq _ => false
  | .linkMonw _ => false
  | .linkInvalidate _ => false
  | .linkDrain _ => false
  | .linkResponse _ => false
  | .linkWake _ => false
  | .linkLost _ => false
  | .hostRead _ _ _ => false
  | .hostWrite _ _ _ _ => false
  | .deviceReset _ _ _ _ _ => false
  | .extend _ _ => false
  | .quote _ => false
  | .alarm _ => false
  | .clockStepDown => false
  | .clockStepUp => false
  | .controlCoreRead _ _ => false
  | .controlCoreWrite _ _ => false
  | .softError _ _ => false

/-- The bytes of an instruction as memory holds them (00 R3, 03 R83). -/
def encodeBytes (i : Instr) : List Byte := (encode i).flatMap (fun w => bytesOf 4 w.toNat)

end Sys2Proof
end

