-- ==== Sys2Proof/Machine/Predicate.lean ====
section
/-! DEFINITION. Compares, predicate logic, predicate moves and votes (04 R122 to R127). -/

namespace Sys2Proof.Machine

/-- Whether a condition holds for an ordering of two numbers, or for an unordered pair (04 R123). -/
def condHolds (c : Nat) (o : Option Ordering) : Bool :=
  match o with
  | none => c == 7 || (8 ≤ c && c ≤ 12)
  | some o =>
    if c = 0 then o == .eq
    else if c = 1 ∨ c = 8 then o != .eq
    else if c = 2 ∨ c = 9 then o == .lt
    else if c = 3 ∨ c = 10 then o != .gt
    else if c = 4 ∨ c = 11 then o == .gt
    else if c = 5 ∨ c = 12 then o != .lt
    else c == 6

/-- The condition raises invalid on a NaN operand (04 R123). -/
def condInvalid (c : Nat) (o : Option Ordering) : Bool := o.isNone && 2 ≤ c && c ≤ 5

def cmpSigned (a b : Word) : Ordering := compare (sint a) (sint b)
def cmpUnsigned (a b : Word) : Ordering := compare a.toNat b.toNat

/-- Write predicate p in the lanes of a mask (01 R41). -/
def Wave.writePred (w : Wave) (p : Nat) (m : Word) (v : Nat → Bool) : Wave :=
  w.mapFibs m (fun l f => f.setPred p (v l))

/-- An integer compare of two sources (04 R122). -/
def cmp2 (f : Word → Word → Ordering) (c : BitVec 4) (p : BitVec 3) (a b : BitVec 7) (g : BitVec 2) :
    State → Host.Outcome State Fault Refusal :=
  runWave { guard := some g.toNat, reserved := 6 ≤ c.toNat, ops := [.src a, .src b] }
    (fun _ lanes w => w.writePred p.toNat lanes (fun l => condHolds c.toNat (some (f (w.src a l).val (w.src b l).val))))

/-- ICMP (04 R122, R123). -/
def execIcmp (c : BitVec 4) (p : BitVec 3) (a b : BitVec 7) (g : BitVec 2) : State → Host.Outcome State Fault Refusal :=
  cmp2 cmpSigned c p a b g

/-- UCMP (04 R122, R123). -/
def execUcmp (c : BitVec 4) (p : BitVec 3) (a b : BitVec 7) (g : BitVec 2) : State → Host.Outcome State Fault Refusal :=
  cmp2 cmpUnsigned c p a b g

/-- A floating compare of the listed pairs of values of a lane: the conjunction, invalid if any raises it (04 R123, R124). -/
def fcmp2 (t : BitVec 6) (vals : Word → Word → List (XR × XR)) (c : BitVec 4) (p : BitVec 3) (a b : BitVec 7) (g : BitVec 2) :
    State → Host.Outcome State Fault Refusal :=
  runWave { guard := some g.toNat, reserved := 13 ≤ c.toNat, ops := [.src a, .src b],
            tags := allChecks [checkSrc a t, checkSrc b t] }
    (fun _ lanes w =>
      let os (l : Nat) : List (Option Ordering) := (vals (w.src a l).val (w.src b l).val).map (fun v => v.1.cmp v.2)
      (w.writePred p.toNat lanes (fun l => (os l).all (condHolds c.toNat))).raise
        (flagsOver lanes (fun l => Flags.when ((os l).any (condInvalid c.toNat)) Flags.invalid)))

/-- FCMP (04 R124). -/
def execFcmp (c : BitVec 4) (p : BitVec 3) (a b : BitVec 7) (g : BitVec 2) : State → Host.Outcome State Fault Refusal :=
  fcmp2 1 (fun x y => [(f32 x, f32 y)]) c p a b g

/-- HCMP (04 R124). -/
def execHcmp (c : BitVec 4) (p : BitVec 3) (a b : BitVec 7) (g : BitVec 2) : State → Host.Outcome State Fault Refusal :=
  fcmp2 2 (fun x y => (List.range 2).map (fun e => (f16 (elemCode 16 e x), f16 (elemCode 16 e y)))) c p a b g

/-- ICMPI: every lane of the batch (04 R122). -/
def execIcmpi (c : BitVec 4) (p : BitVec 3) (a : BitVec 7) (i : BitVec 11) : State → Host.Outcome State Fault Refusal :=
  runWave { guard := none, reserved := 6 ≤ c.toNat, ops := [.vec a 1 1] }
    (fun iss lanes w =>
      w.writePred p.toNat lanes (fun l => condHolds c.toNat (some (cmpSigned (w.grp a 0 l).val (immWord i iss)))))

/-- PLOG (04 R125). -/
def execPlog (d : BitVec 3) (n : BitVec 1) (a : BitVec 3) (o : BitVec 2) (m : BitVec 1) (b : BitVec 3) (g : BitVec 2) :
    State → Host.Outcome State Fault Refusal :=
  runWave { guard := some g.toNat, reserved := o == 3 }
    (fun _ lanes w => w.writePred d.toNat lanes (fun l =>
      let x := (w.fib l).pred a.toNat != (n == 1)
      let y := (w.fib l).pred b.toNat != (m == 1)
      if o = 0 then x && y else if o = 1 then x || y else x != y))

/-- PMOV (04 R126). -/
def execPmov (d a : BitVec 7) (m g : BitVec 2) : State → Host.Outcome State Fault Refusal :=
  runWave { guard := some g.toNat, reserved := !pmovOk d a m,
            ops := if m = 1 then [.vec d 1 1] else if m = 2 then [.src a] else [] }
    (fun _ lanes w =>
      if m = 0 then w.writePred d.toNat lanes (fun l => (w.fib l).pred (a.toNat % 8) != a.getLsbD 3)
      else if m = 1 then w.writeField d lanes (fun l => ⟨((w.fib l).preds ||| 1).setWidth 32, 0⟩)
      else w.mapFibs lanes (fun l f => { f with preds := ((w.src a l).val.setWidth 8 &&& 0xFE) ||| 1 }))

/-- VOTE over the batch's guarded lanes (04 R127). -/
def execVote (d : BitVec 7) (n : BitVec 1) (a : BitVec 3) (m g : BitVec 2) : State → Host.Outcome State Fault Refusal :=
  runWave { guard := some g.toNat, reserved := m != 2 && 8 ≤ d.toNat, ops := if m = 2 then [.vec d 1 1] else [] }
    (fun _ lanes w =>
      let x (l : Nat) : Bool := (w.fib l).pred a.toNat != (n == 1)
      let ls := lanesOf lanes
      let ballot : Word := ls.foldl (fun b l => if x l then b ||| laneBit l else b) 0
      if m = 2 then w.writeField d lanes (fun _ => ⟨ballot, 0⟩)
      else
        let v := if m = 0 then ls.any x else if m = 1 then ls.all x else ls.all x || !ls.any x
        w.writePred d.toNat lanes (fun _ => v))

end Sys2Proof.Machine
end

