-- ==== Sys2Proof/Machine/Fetch.lean ====
section
/-! DEFINITION. Fetching instructions, the IMX prefix, words that are no instruction, and fetches that fail (03 R83, R90 to R92, R97
to R99; 04 R132; 09 R277). -/

namespace Sys2Proof.Machine

/-! ### Fetch (R83, R132) -/

/-- What a fetch of one word gives. -/
inductive Fetched where
  | word (w : Word)
  | fault (c : Cause) (a : Nat)
  | miss
  deriving DecidableEq, Repr

/-- Fetch a word of a wave's program at a virtual address with X permission (R132), in its traffic class (14 R393); a poisoned byte is an error (09 R277). -/
def State.fetchWord (s : State) (cid ctx va : Nat) (cls : Nat := 0) : State × Fetched :=
  match s.range cid ctx .x 3 va 4 [] with
  | (s1, .error (.fault c a)) => (s1, .fault c a)
  | (s1, .error .miss) => (s1, .miss)
  | (s1, .ok ps) =>
    ps.foldl (fun (r : State × Fetched) p =>
      match r.2 with
      | .fault _ _ => r
      | .miss => r
      | .word w =>
        match r.1.homeReadAs cls p.1 p.2.1 p.2.2 with
        | (s', .ok bs) => (s', .word (BitVec.ofNat 32 (w.toNat / 2 ^ (8 * p.2.1) + ofBytes bs * 2 ^ (32 - 8 * p.2.1))))
        | (s', .poison) => (s', .fault .eccUncorrectable va)
        | (s', .miss) => (s', .miss)) (s1, .word 0)

/-- FETCH_FAULT: the issue whose word cannot be fetched traps with that word's address; the record holds no instruction word (R132). -/
def execFetchFault (va : Addr) : State → Host.Outcome State Fault Refusal := fun s =>
  withIssue s fun iss w =>
    match s.fetchWord (cidOf iss.wave) w.ctx va.toNat (w.prio % 4) with
    | (s1, .fault c _) =>
      s1.takeTrap { iss with word := 0, len := if va = iss.pc then 4 else 8 } c va (lowest iss.batch)
    | (_, .word _) => s
    | (s1, .miss) => s1

/-! ### Words that are no instruction (R97, R99) -/

/-- A word that names no operation: ILLEGAL_OP (R94, R97). -/
def illegalOp (w : Word) : Bool :=
  let op := w.toNat / 2 ^ 25
  let b := w.toNat / 2 ^ 4 % 128
  op == 0 || (op == 0x16 && 11 ≤ b) || (op == 0x2F && 16 ≤ b) || (op == 0x79 && 12 ≤ w.toNat % 16) || (op == 0x7C && 20 ≤ b) ||
  (op == 0x7D && 13 ≤ b) || (op == 0x7E && 17 ≤ b)

/-- The predicate that guards a word: G of F-A, Q[1:0] of RAY and SYS; none in the other formats (R83, R85, R89, R93). -/
def guardOf (w : Word) : Option Nat :=
  let op := w.toNat / 2 ^ 25
  let fa := (1 ≤ op && op ≤ 0x16) || (0x20 ≤ op && op ≤ 0x23) || (0x25 ≤ op && op ≤ 0x47) || op == 0x5B || op == 0x5C || op == 0x71 ||
    op == 0x73 || op == 0x75
  if fa then some (w.toNat / 4 % 4) else if op = 0x7D ∨ op = 0x7E then some (w.toNat % 4) else none

/-- The counter that a guarded word with a reserved field raises where no fibre passes its guard (R99; 01 R44): LDF, LDE, RAYLD, RAYST. -/
def guardedCounter (w : Word) : Option Ctr :=
  let op := w.toNat / 2 ^ 25
  let b := w.toNat / 2 ^ 4 % 128
  if op = 0x5B ∨ op = 0x5C then some .ld
  else if op = 0x7D ∧ b = 6 then some .ld
  else if op = 0x7D ∧ b = 7 then some .st
  else none

/-- ILLEGAL_ENCODING (R97, R99). -/
def execIllegalEncoding (word : Word) : State → Host.Outcome State Fault Refusal := fun s =>
  withIssue s fun iss w =>
    let i := { iss with word := word }
    if (decodeWord word 0).isSome then s
    else if illegalOp word then s.takeTrap i .illegalOp 0 (lowest iss.batch)
    else s.perform { guard := guardOf word, reserved := true, counter := guardedCounter word } i w (fun _ => .wait s)

/-! ### IMX (R90 to R92) -/

/-- The meaning of a word that accepts IMX; none where one of its fields is reserved (R90, R91, R96). -/
def follower (next : Word) : Option (State → Host.Outcome State Fault Refusal) :=
  match decodeWord next 0 with
  | some (.smovi d i) => some (Sys2Proof.Machine.execSmovi d i)
  | some (.iaddi d a i) => some (Sys2Proof.Machine.execIaddi d a i)
  | some (.imuli d a i) => some (Sys2Proof.Machine.execImuli d a i)
  | some (.andi d a i) => some (Sys2Proof.Machine.execAndi d a i)
  | some (.ori d a i) => some (Sys2Proof.Machine.execOri d a i)
  | some (.xori d a i) => some (Sys2Proof.Machine.execXori d a i)
  | some (.icmpi c p a i) => some (Sys2Proof.Machine.execIcmpi c p a i)
  | some (.ldb d a i) => some (Sys2Proof.Machine.execLdb d a i)
  | some (.ldh d a i) => some (Sys2Proof.Machine.execLdh d a i)
  | some (.ldw d a i) => some (Sys2Proof.Machine.execLdw d a i)
  | some (.ldd d a i) => some (Sys2Proof.Machine.execLdd d a i)
  | some (.ldq d a i) => some (Sys2Proof.Machine.execLdq d a i)
  | some (.stb d a i) => some (Sys2Proof.Machine.execStb d a i)
  | some (.sth d a i) => some (Sys2Proof.Machine.execSth d a i)
  | some (.stw d a i) => some (Sys2Proof.Machine.execStw d a i)
  | some (.std d a i) => some (Sys2Proof.Machine.execStd d a i)
  | some (.stq d a i) => some (Sys2Proof.Machine.execStq d a i)
  | some (.ldv d a i) => some (Sys2Proof.Machine.execLdv d a i)
  | some (.accb d a i) => some (Sys2Proof.Machine.execAccb d a i)
  | some (.call d i) => some (Sys2Proof.Machine.execCall d i)
  | some (.fork d i) => some (Sys2Proof.Machine.execFork d i)
  | some (.saddi d a i) => some (Sys2Proof.Machine.execSaddi d a i)
  | some (.vmovi d i) => some (Sys2Proof.Machine.execVmovi d i)
  | _ => none

/-- The opcodes of F-C words that accept IMX: SMOVI, CALL, FORK, VMOVI. -/
def immediateC (w : Word) : Bool :=
  let op := w.toNat / 2 ^ 25
  op == 0x17 || op == 0x72 || op == 0x74 || op == 0x7B

/-- IMX and the word it precedes, one instruction of 8 bytes: a word that does not accept it traps at its own address; else it runs with
the immediate V supplies (R90 to R92). -/
def execImx (v : BitVec 25) (next : Word) : State → Host.Outcome State Fault Refusal := fun s =>
  match s.cur with
  | none => .fault .noIssue
  | some iss =>
    let whole := { iss with len := 8, word := next, ext := some v }
    if !imxOpcodes.contains (next.toNat / 2 ^ 25) then
      withIssue s fun iss _ => s.takeTrap { iss with pc := iss.pc + 4, len := 4, word := next } .imxSequence 0 (lowest iss.batch)
    else if immediateC next && next.toNat / 2 ^ 11 % 128 != 0 then
      withIssue s fun _ _ => s.takeTrap whole .reservedField 0 (lowest iss.batch)
    else match follower next with
      | some f => f { s with cur := some whole }
      | none => withIssue s fun _ _ => s.takeTrap whole .reservedField 0 (lowest iss.batch)

end Sys2Proof.Machine
end

