-- ==== Sys2Proof/Machine/Traverse.lean ====
section
/-! DEFINITION. The traversal unit: geometry, the exact triangle test, hits and events (07 R227, R228; 11 R327 to R344). -/

namespace Sys2Proof.Machine

/-! ### Exact geometry (11 R328, R329, R334) -/

/-- Component i of a vector of exact integers. -/
def comp (v : List Int) (i : Nat) : Int := v.getD i 0

def vsub (a b : List Int) : List Int := (List.range 3).map (fun i => comp a i - comp b i)
def vdot (a b : List Int) : Int := comp a 0 * comp b 0 + comp a 1 * comp b 1 + comp a 2 * comp b 2
def vcross (a b : List Int) : List Int :=
  [comp a 1 * comp b 2 - comp a 2 * comp b 1, comp a 2 * comp b 0 - comp a 0 * comp b 2,
   comp a 0 * comp b 1 - comp a 1 * comp b 0]

/-- The least exponent of some values, at most 0. -/
def leastExpo (xs : List XR) : Int := xs.foldl (fun m x => min m x.expo) 0

/-- The quotient of two exact integers as a value that rounds correctly; an exact 0 is +0. -/
def ratio (n d : Int) : XR := quotient (n != 0 && decide (n < 0) != decide (d < 0)) n.natAbs d.natAbs 0

/-- Parameters of an exact hit before rounding, and whether it is front-facing before FLIP (R329). -/
structure Cut where
  t : XR
  u : XR
  v : XR
  front : Bool

/-- The exact test of R329 of vertices against a ray, all finite. -/
def cutTriangle (o d v0 v1 v2 : List XR) : Option Cut :=
  let e0 := leastExpo (o ++ d ++ v0 ++ v1 ++ v2)
  let whole (xs : List XR) : List Int := xs.map (fun x => x.scaled e0)
  let d' := whole d
  let a := vsub (whole v1) (whole v0)
  let b := vsub (whole v2) (whole v0)
  let q := vsub (whole o) (whole v0)
  let n := vcross a b
  let det := vdot n d'
  let u := vdot d' (vcross q b)
  let v := vdot d' (vcross a q)
  let inside : Bool := if 0 < det then decide (0 ≤ u ∧ 0 ≤ v ∧ u + v ≤ det) else decide (u ≤ 0 ∧ v ≤ 0 ∧ det ≤ u + v)
  if det = 0 then none
  else if inside then some ⟨ratio (-(vdot q n)) det, ratio u det, ratio v det, decide (det < 0)⟩
  else none

/-- Words as exact values. -/
def reals (ws : List Word) : List XR := ws.map f32

/-- The line of a ray meets the box of a child (R334): per axis the bounds are P + QLO x 2^E and P + QHI x 2^E. -/
def boxMet (sp : Space) (p : List XR) (e : List Int) (qlo qhi : List Nat) : Bool :=
  p.all XR.isFinite && (
    let e0 := min (leastExpo (reals sp.o ++ reals sp.d ++ p)) (e.foldl min 0)
    let at_ (i q : Nat) : Int := (p.getD i .nan).scaled e0 + q * (2 ^ (e.getD i 0 - e0).toNat : Nat)
    let o (i : Nat) : Int := ((reals sp.o).getD i .nan).scaled e0
    let d (i : Nat) : Int := ((reals sp.d).getD i .nan).scaled e0
    let lo (i : Nat) : Int := if d i < 0 then o i - at_ i (qhi.getD i 0) else at_ i (qlo.getD i 0) - o i
    let hi (i : Nat) : Int := if d i < 0 then o i - at_ i (qlo.getD i 0) else at_ i (qhi.getD i 0) - o i
    (List.range 3).all (fun i =>
      if d i = 0 then decide (lo i ≤ 0 ∧ 0 ≤ hi i)
      else (List.range 3).all (fun j => d j == 0 || decide (lo i * (d j).natAbs ≤ hi j * (d i).natAbs))))

/-! ### Hits (R330, R331) -/

/-- Hit a is closer than hit b (R330). -/
def Hit.closer (a b : Hit) : Bool :=
  match (f32 a.t).cmp (f32 b.t) with
  | some .lt => true
  | some .eq => decide (a.iid.toNat < b.iid.toNat) || (a.iid == b.iid && decide (a.prim.toNat < b.prim.toNat))
  | some .gt => false
  | none => false

/-- A hit qualifies (R330). -/
def Ray.qualifies (r : Ray) (h : Hit) : Bool :=
  let t := f32 h.t
  (t.cmp (f32 (r.word 3)) == some .gt || t.cmp (f32 (r.word 3)) == some .eq) &&
  (t.cmp (f32 (r.word 7)) == some .lt || t.cmp (f32 (r.word 7)) == some .eq) &&
  (match r.commit with
    | some c => h.closer c
    | none => true)

/-- w8 to w12 of a hit (R318). -/
def hitWords (h : Hit) : List (Nat × Word) := [(8, h.t), (9, h.prim), (10, h.iid), (11, h.u), (12, h.v)]

/-- A hit commits; terminate-on-first-hit ends traversal (R330). -/
def Ray.commitHit (r : Ray) (h : Hit) : Ray :=
  { r.setWords ((7, h.t) :: hitWords h) with commit := some h, ended := r.ended || (r.word 14).getLsbD 3 }

/-- An event's shader record exists and has the event's kind (R331). -/
def shaderFor (shaders : List Shader) (index kind : Nat) : Bool :=
  match shaders[index]? with
  | some x => x.kind == kind
  | none => false

/-- A ray that TRACE's conditions report as a miss without a test (07 R227). -/
def Ray.untested (r : Ray) : Bool :=
  let o := [f32 (r.word 0), f32 (r.word 1), f32 (r.word 2)]
  let d := [f32 (r.word 4), f32 (r.word 5), f32 (r.word 6)]
  let lo := f32 (r.word 3)
  let hi := f32 (r.word 7)
  !(o ++ d).all XR.isFinite || d.all XR.isZero || !lo.isFinite || hi.isNan ||
    lo.cmp (.fin false 0 0) == some .lt || lo.cmp hi == some .gt

/-! ### The walk -/

/-- Why a walk ends. -/
inductive WalkEnd where
  /-- Nothing is left to visit, or traversal has ended. -/
  | over
  /-- An any-hit candidate. -/
  | candidate (h : Hit)
  /-- A geometry fault with its cause and address (R332). -/
  | fault (c : Cause) (a : Nat)
  /-- A line of another device is on its way. -/
  | miss
  deriving DecidableEq, Repr

/-- A walk under way: the state, the cluster, the ray, nodes tested, flags raised (12 R363). -/
structure Walk where
  s : State
  cl : Nat
  ray : Ray
  nodes : Nat
  flags : Flags

/-- A field of geometry bytes. -/
def geo (bs : List Byte) (o n : Nat) : Nat := ofBytes ((bs.drop o).take n)

/-- A geometry read, an invariant load at system scope (R332, R343); a translation or permission fault is ENGINE_XLATE. -/
def Walk.read (w : Walk) (a n : Nat) : Walk × Except WalkEnd (List Byte) :=
  match w.s.invariantRead w.cl w.ray.ctx (w.s.prioOf w.ray.lid) a n with
  | (s1, .ok bs) => ({ w with s := s1 }, .ok bs)
  | (s1, .error .miss) => ({ w with s := s1 }, .error .miss)
  | (s1, .error (.fault c x)) =>
    ({ w with s := s1 }, .error (.fault (if c = .eccUncorrectable then c else if c = .aperture then .engineCommand else .engineXlate) x))

/-- The visit of a child reference: nothing for an empty child, the address of malformed geometry (R332, R333, R337). -/
def childVisit (sp : Space) (ref : Nat) : Except Nat (List Visit) :=
  let type := ref / 2 ^ 29
  let n := ref / 2 ^ 26 % 8
  let off := ref % 2 ^ 26
  let a := sp.base + 64 * off
  let header : Bool := (List.range (n + 1)).any (fun i => decide ((a + 64 * i) % 16384 < 128))
  if type = 0 then .ok []
  else if type = 1 then (if off % 2 = 1 ∨ n ≠ 0 ∨ header = true then .error a else .ok [.node a sp])
  else if type = 2 then
    (if sp.inst.isNone || header then .error a else .ok ((List.range (n + 1)).map (fun i => .leaf (a + 64 * i) sp)))
  else if type = 3 then (if off % 2 = 1 ∨ n ≠ 0 ∨ header = true ∨ sp.inst.isSome = true then .error a else .ok [.inst a sp])
  else .error a

/-- The visits of all children of a node, one list a child. -/
def childVisits (sp : Space) : List Nat → List (List Visit) → Except Nat (List (List Visit))
  | [], acc => .ok acc
  | r :: rs, acc =>
    match childVisit sp r with
    | .error a => .error a
    | .ok vs => childVisits sp rs (acc ++ [vs])

/-- A byte as a signed number. -/
def signedByte (n : Nat) : Int := if n < 128 then n else (n : Int) - 256

/-- A node (R332, R334): children whose boxes the ray's line meets are visited; of the others, an implementation may visit any; the
order is the implementation's too (log entry 10). -/
def Walk.node (w : Walk) (a : Nat) (sp : Space) : Walk × Except WalkEnd (List Visit) :=
  if 2 ^ 20 ≤ w.nodes then (w, .error (.fault .engineCommand a))
  else
    match w.read a 128 with
    | (w1, .error e) => (w1, .error e)
    | (w1, .ok bs) =>
      let exps := (List.range 3).map (fun i => signedByte (geo bs (12 + i) 1))
      if geo bs 15 1 ≠ 0 ∨ geo bs 96 32 ≠ 0 ∨ exps.any (· == -128) = true then (w1, .error (.fault .engineCommand a))
      else
        match childVisits sp ((List.range 8).map (fun c => geo bs (64 + 4 * c) 4)) [] with
        | .error x => (w1, .error (.fault .engineCommand x))
        | .ok vss =>
          let p := (List.range 3).map (fun i => f32 (BitVec.ofNat 32 (geo bs (4 * i) 4)))
          let q (c k : Nat) : List Nat := (List.range 3).map (fun i => geo bs (16 + 6 * c + k + i) 1)
          let (s1, first) := w1.s.pick 8
          let r := (List.range 8).foldl (fun (r : State × List Visit) i =>
            let c := (i + first) % 8
            let vs := vss.getD c []
            if vs.isEmpty then r
            else if boxMet sp p exps (q c 0) (q c 3) then (r.1, r.2 ++ vs)
            else
              let (s', k) := r.1.pick 2
              (s', if k = 1 then r.2 ++ vs else r.2)) (s1, ([] : List Visit))
          ({ w1 with s := r.1, nodes := w1.nodes + 1 }, .ok r.2)

/-- An instance (R328, R332, R336). -/
def Walk.inst (w : Walk) (a : Nat) : Walk × Except WalkEnd (List Visit) :=
  match w.read a 128 with
  | (w1, .error e) => (w1, .error e)
  | (w1, .ok bs) =>
    let fl := geo bs 60 4
    let root := geo bs 48 8
    if fl / 2 ^ 11 % 2 ≠ 0 ∨ fl / 2 ^ 24 ≠ 0 ∨ geo bs 64 64 ≠ 0 ∨ root % 128 ≠ 0 ∨ 2 ^ 48 ≤ root then
      (w1, .error (.fault .engineCommand a))
    else if (fl % 256).land ((w1.ray.word 14).toNat / 256 % 256) = 0 then (w1, .ok [])
    else
      let m (i j : Nat) : XR := f32 (BitVec.ofNat 32 (geo bs (16 * i + 4 * j) 4))
      let o (j : Nat) : XR := f32 (w1.ray.word j)
      let d (j : Nat) : XR := f32 (w1.ray.word (4 + j))
      let os := (List.range 3).map (fun i => dotF32 .rne [(m i 0, o 0), (m i 1, o 1), (m i 2, o 2)] [m i 3])
      let ds := (List.range 3).map (fun i => dotF32 .rne [(m i 0, d 0), (m i 1, d 1), (m i 2, d 2)] [])
      let fs := (os ++ ds).foldl (fun (f : Flags) x => f ||| x.2) w1.flags
      let sp : Space :=
        { base := root, o := os.map Prod.fst, d := ds.map Prod.fst,
          inst := some (a, BitVec.ofNat 32 (geo bs 56 4), fl) }
      ({ w1 with flags := fs }, .ok (if (reals (sp.o ++ sp.d)).all XR.isFinite then [.node root sp] else []))

/-- A triangle (R329 to R331, R335): it hits nothing, commits, or is presented. -/
def Walk.leaf (shaders : List Shader) (w : Walk) (a : Nat) (sp : Space) : Walk × Except WalkEnd (List Visit) :=
  match w.read a 64 with
  | (w1, .error e) => (w1, .error e)
  | (w1, .ok bs) =>
    let lf := geo bs 40 4
    let v (k : Nat) : List XR := (List.range 3).map (fun i => f32 (BitVec.ofNat 32 (geo bs (12 * k + 4 * i) 4)))
    let (at_, iid, fl) := sp.inst.getD (0, 0, 0)
    if lf / 2 % 8 ≠ 0 ∨ lf / 2 ^ 16 ≠ 0 ∨ geo bs 44 20 ≠ 0 then (w1, .error (.fault .engineCommand a))
    else if !(v 0 ++ v 1 ++ v 2).all XR.isFinite then (w1, .ok [])
    else match cutTriangle (reals sp.o) (reals sp.d) (v 0) (v 1) (v 2) with
      | none => (w1, .ok [])
      | some c =>
        let front := c.front != decide (fl / 2 ^ 10 % 2 = 1)
        let cull := if fl / 2 ^ 9 % 2 = 1 then 0 else (w1.ray.word 14).toNat % 4
        if (cull = 1 ∧ front = false) ∨ (cull = 2 ∧ front = true) then (w1, .ok [])
        else
          let (t, f1) := roundF32 .rne c.t
          let (u, f2) := roundF32 .rne c.u
          let (x, f3) := roundF32 .rne c.v
          let h : Hit :=
            { t := t, prim := BitVec.ofNat 32 (geo bs 36 4), iid := iid, u := u, v := x, off := fl / 2 ^ 12 % 4096 + lf / 16 % 4096 }
          let w2 := { w1 with flags := w1.flags ||| f1 ||| f2 ||| f3 }
          let opaque_ := (w2.ray.word 14).getLsbD 2 || decide (fl / 2 ^ 8 % 2 = 1) || decide (lf % 2 = 1) ||
            !shaderFor shaders ((w2.ray.word 13).toNat + h.off + 1) 2
          if w2.ray.seen.contains (a, at_) || !w2.ray.qualifies h then (w2, .ok [])
          else if opaque_ then ({ w2 with ray := w2.ray.commitHit h }, .ok [])
          else ({ w2 with ray := { w2.ray with seen := w2.ray.seen ++ [(a, at_)] } }, .error (.candidate h))

/-- Visit what is left, in order; what is left where the walk ends. A node has at most 64 blocks and 8 instances, and at most 2^20 nodes
are tested, so 2^27 visits are never reached (R332). -/
def Walk.run (shaders : List Shader) : Nat → Walk → List Visit → Walk × WalkEnd × List Visit
  | 0, w, vs => (w, .fault .engineCommand 0, vs)
  | _ + 1, w, [] => (w, .over, [])
  | fuel + 1, w, v :: vs =>
    if w.ray.ended then (w, .over, [])
    else
      let r := match v with
        | .node a sp => w.node a sp
        | .inst a _ => w.inst a
        | .leaf a sp => Walk.leaf shaders w a sp
      match r with
      | (w1, .ok more) => Walk.run shaders fuel w1 (more ++ vs)
      | (w1, .error (.candidate h)) => (w1, .candidate h, vs)
      | (w1, .error e) => (w1, e, v :: vs)

/-! ### RAY_TRAVERSE -/

/-- A ray enters its event's bin, or its event is dropped (R331, R339). -/
def State.rayEvent (s : State) (id : Nat) (r : Ray) (kind index : Nat) : State :=
  let s1 := s.setRay id { r with event := kind, shader := index }
  if shaderFor (s.shadersOf r.lid) index kind then s1.enterBin id else s1.dropRay id

/-- Traversal has ended: a closest hit, or a miss (R330). -/
def State.rayEnds (s : State) (id : Nat) (r : Ray) : State :=
  match r.commit with
  | some h => s.rayEvent id { r.setWords (hitWords h) with cand := none } 1 ((r.word 13).toNat + h.off)
  | none =>
    s.rayEvent id (r.setWords [(8, r.word 7), (9, 0xFFFFFFFF), (10, 0xFFFFFFFF), (11, 0), (12, 0)]) 3 (r.word 13).toNat

/-- A geometry fault stops the ray and writes a record; no wave is halted (R332). -/
def State.rayFault (s : State) (id : Nat) (r : Ray) (c : Cause) (a : Nat) : State :=
  let (s1, seq) := s.unitFault r.ctx c 4
    (fun t => { t with instr := BitVec.ofNat 32 id, faddr := BitVec.ofNat 64 a, lid := BitVec.ofNat 32 r.lid })
    (fun p => { p with ray := id, lid := r.lid })
  s1.setRay id { r with place := .stopped seq }

/-- TRSTAT gathers the flags a traversal raised (12 R363). -/
def State.addTrstat (s : State) (ctx cl : Nat) (f : Flags) : State :=
  s.modCtx ctx (fun c => { c with trstat := c.trstat.put cl (c.trstat.get 0 cl ||| (f.setWidth 32 &&& 0x1F)) })

/-- The traversal unit takes a ray up: one that is in traversal, or, while its context is switched in, one in a traversal bin (R330; 13 R378). -/
def State.traverses (s : State) (r : Ray) : Bool := !r.item && (r.place == .traversing || (r.place == .queued && s.isIn r.ctx))

/-- RAY_TRAVERSE: a ray is carried to its next event, from ROOT or from where it stopped; a line of another device that it needs keeps it in
traversal (R330, R332; 13 R378). -/
def evRayTraverse (id : Nat) (s : State) : State :=
  match s.rays.find? id with
  | none => s
  | some r =>
    match s.launches.find? r.lid with
    | none => s
    | some l =>
      if !s.traverses r then s
      else if s.spoiled.contains (.pool id) then s.rayFault id r .eccUncorrectable 0xFFFFFFFFFFFFFFFF
      else if r.ended || r.untested then s.rayEnds id r
      else
        let top : Space :=
          { base := l.root.toNat, o := [r.word 0, r.word 1, r.word 2], d := [r.word 4, r.word 5, r.word 6], inst := none }
        let (vs, n) := r.walk.getD ([.node l.root.toNat top], 0)
        let (w, e, rest) := Walk.run l.shaders (2 ^ 27) { s := s, cl := rayCluster id, ray := r, nodes := n, flags := 0 } vs
        let s1 := (w.s.addTrstat r.ctx (rayCluster id) w.flags)
        let r1 := { w.ray with walk := some (rest, w.nodes) }
        match e with
        | .over => s1.rayEnds id r1
        | .candidate h =>
          let r2 := { r1.setWords (hitWords h) with cand := some h }
          s1.rayEvent id r2 2 ((r2.word 13).toNat + h.off + 1)
        | .fault c a => s1.rayFault id r1 c a
        | .miss => s1.setRay id { r1 with place := .traversing }
def execRayTraverse (ray : Nat) : State → Host.Outcome State Fault Refusal := event (evRayTraverse ray)

end Sys2Proof.Machine
end

