-- ==== Sys2Proof/Machine/Links.lean ====
section
/-! DEFINITION. Velile Link ports, transactions performed for other devices and answered by them, lost links; DOMAIN and LINKCTL;
invalidation requests (09 R295; 14 R387 to R394). -/

namespace Sys2Proof.Machine

/-! ### Invalidation (09 R295) -/

/-- INVALIDATION_REQUEST: one is under way at a time (log entry 28). -/
def evInvalidationRequest (ctx lo hi : Nat) (s : State) : State :=
  match s.regs.inval with
  | some _ => s
  | none => { s with regs := { s.regs with inval := some ⟨ctx, lo, hi⟩ } }
def execInvalidationRequest (ctx lo hi : Nat) : State → Host.Outcome State Fault Refusal :=
  controlEvent (evInvalidationRequest ctx lo hi)

/-- A held translation lies in the range of an invalidation. -/
def Invalidation.covers (i : Invalidation) (e : TlbEntry) : Bool :=
  e.ctx == i.ctx && i.lo / 4096 ≤ e.page && e.page ≤ i.hi / 4096

/-- The addresses that a held table translates meet the range of an invalidation. -/
def Invalidation.meets (i : Invalidation) (e : WalkEntry) : Bool :=
  e.ctx == i.ctx && walkPart e.level i.lo ≤ e.part && e.part ≤ walkPart e.level i.hi

/-- A transaction that performs an access elsewhere. -/
def Txn.isAccess (t : Txn) : Bool :=
  match t.purpose with
  | .invalidate _ => true
  | .element _ => true
  | _ => t.alters

/-- A wave waits for an access that it has translated: an answer of a home, or an addition's tile. -/
def Wave.accessing (w : Wave) : Bool :=
  w.ld.any (fun o => !o.waits.isEmpty) || w.st.any (fun o => !o.waits.isEmpty || !o.adds.isEmpty) || w.asked.any (fun r => r.value.isNone && !r.failed)

/-- An access that a context has translated is not performed: one of its waves', a retired wave's, or one on a link. -/
def State.accessing (s : State) (ctx : Nat) : Bool :=
  let busy (p : Nat × Wave) : Bool := p.2.ctx == ctx && p.2.accessing
  s.waves.any busy || s.away.any busy || s.owing.any (fun x => x.ctx == ctx) || s.txns.any Txn.isAccess

/-- No unit holds a translation or a table in the range of an invalidation (R295). -/
def State.dropRange (s : State) (i : Invalidation) : State :=
  let keep (es : List TlbEntry) : List TlbEntry := es.filter (fun e => !i.covers e)
  { s with
    cores := s.cores.map (fun (c : Nat × Core) => (c.1, { c.2 with tlb := keep c.2.tlb }))
    tlb2 := s.tlb2.map (fun (x : Nat × List TlbEntry) => (x.1, keep x.2))
    walks := s.walks.map (fun (x : Nat × List WalkEntry) => (x.1, x.2.filter (fun e => !i.meets e))) }

/-- INVALIDATION_COMPLETE: the context's Dirty bytes, Update-only copies and delta tiles go home; once every access already translated has
been performed at device scope, no TLB and no walk cache holds a translation in the range (R295). -/
def evInvalidationComplete (s : State) : State :=
  match s.regs.inval with
  | none => s
  | some i =>
    let s1 := (s.flushContext i.ctx).leaveTiles i.ctx
    if s1.accessing i.ctx then s1
    else
      let s2 := s1.dropRange i
      { s2 with regs := { s2.regs with inval := none } }
def execInvalidationComplete : State → Host.Outcome State Fault Refusal := event evInvalidationComplete

/-! ### Answers and lost links (R391, R394) -/

/-- The transaction a tag from a peer answers. -/
def State.txnOf (s : State) (peer tag : Nat) : Option Txn := s.txns.find? (fun t => t.peer == peer && t.token % 65536 == tag)

def State.dropTxn (s : State) (token : Nat) : State := { s with txns := s.txns.filter (fun t => t.token != token) }

/-- The wave of an issue, if it is still the wave that issued. -/
def State.waveOf (s : State) (uid : Nat) (iss : Issue) : Option Wave := (s.waves.find? iss.wave).filter (fun w => w.uid == uid)

/-- A lane of an instruction that waits for other devices has its answer: the value, or an error response (R391, R394); the next lane that
another device performs may be sent then (06 R196). -/
def State.answerLane (s : State) (uid : Nat) (iss : Issue) (token : Nat) (data : Option (List Byte)) : State :=
  let set (r : Reply) : Reply :=
    if r.token = token ∧ r.value = none ∧ r.ring.all RingAsk.sent = true then
      match data, r.ring with
      | none, _ => { r with failed := true }
      | some bs, some a => r.ringAnswer a bs
      | some bs, none => { r with value := some (BitVec.ofNat 32 (ofBytes (bs.take 4))) }
    else r
  match s.waveOf uid iss with
  | none => s
  | some w =>
    let (s1, rs) := s.askRings uid iss w.prio (w.asked.map set)
    s1.modWave iss.wave (fun w => { w with asked := rs })

/-- An engine's write got an error response: its command stops (R394; 07 R207). -/
def State.engineLost (s : State) (token : Nat) (va : Addr) : State :=
  let owner := s.ctxs.flatMap (fun (c : Nat × Ctx) => c.2.queues.filterMap (fun (q : Nat × Queue) =>
    if (q.2.entries.head?).any (fun e => e.waits.contains token) then some (c.1, q.1) else none))
  match owner.head? with
  | none => s
  | some (ctx, qi) => (s.clearToken token).engineFault ctx qi .eccUncorrectable va.toNat

/-- A transaction completes with an error response (R394). -/
def State.failTxn (s : State) (t : Txn) : State :=
  let s1 := s.dropTxn t.token
  match t.purpose with
  | .fill line => { s1 with poison := if s1.poison.contains line then s1.poison else s1.poison ++ [line] }
  | .ret uid iss _ _ => s1.answerLane uid iss t.token none
  | .engine va => s1.engineLost t.token va
  | .stale => s1
  | .invalidate _ => s1
  | .monw _ _ _ _ => s1
  | .other => (s1.countLost t.peer).clearToken t.token
  | .join a cid _ => s1.loseTile cid a.tile
  | .delta tile cid _ => s1.loseTile cid tile
  | .ask _ _ _ _ => s1
  | .halve tile => s1.endHalving tile t.token
  | .element r => s1.landRead r .poison

/-- A transaction has been performed (R391). -/
def State.finishTxn (s : State) (t : Txn) (data : List Byte) : State :=
  let s1 := s.dropTxn t.token
  match t.purpose with
  | .fill line => { s1 with l2 := s1.l2.put line (padTo 128 data) }
  | .ret uid iss _ _ => s1.answerLane uid iss t.token (some data)
  | .engine _ => s1.clearToken t.token
  | .stale => s1
  | .invalidate _ => s1
  | .monw _ _ _ _ => s1
  | .other => s1.clearToken t.token
  | .join a cid least => s1.joined a cid least (ofBytes (data.take 4))
  | .delta tile cid leave => s1.deltaDone tile cid leave
  | .ask _ _ _ _ => s1
  | .halve tile => s1.endHalving tile t.token
  | .element r => s1.landRead r (.ok (data.take r.size))

/-- The invariant copies of lines are dropped in every core and treelet cache (08 R249). -/
def State.dropInvariant (s : State) (p : Nat → Bool) : State :=
  let keep (is : List Inv) : List Inv := is.filter (fun i => !p i.line)
  { s with
    cores := s.cores.map (fun (c : Nat × Core) => (c.1, { c.2 with l1 := { c.2.l1 with inv := keep c.2.l1.inv } }))
    treelets := s.treelets.map (fun (t : Nat × List Inv) => (t.1, keep t.2)) }

/-- The home forgets a lost peer's shares, joins and reads of a tile (R394). -/
def HomeTile.losePeer (t : HomeTile) (peer : Nat) : HomeTile :=
  let theirs (a : Option Asker) : Bool := a.map Asker.did == some peer
  { t with
    shares := t.shares.filter (fun x => x.did != peer)
    joins := t.joins.filter (fun j => !theirs j.peer)
    reads := t.reads.filter (fun r => !theirs r.peer)
    halving := t.halving.filter (fun v => !theirs v.joiner.peer) }

/-- What this device's cores hold of a lost peer's tiles is lost (R394). -/
def State.loseTiles (s : State) (peer : Nat) : State :=
  (s.cores.flatMap (fun c => (c.2.l1.hold.filter (fun h => targetOf (256 * h.tile) == peer)).map (fun h => (c.1, h.tile)))).foldl
    (fun s x => s.loseTile x.1 x.2) s

/-- The last link to a peer is gone: what is in flight to and from it completes with error responses, its waves' monitor entries and its cores'
shares are lost, with what this device's cores hold of its tiles, and no copy of its lines is kept (R394; log entry 29). -/
def State.losePeer (s : State) (peer : Nat) : State :=
  let clear (p : Port) : Port := if p.peer == peer && !p.up then { p with inbox := [], out := [], sent := [] } else p
  let s1 := { s with
    ports := s.ports.map (fun (p : Nat × Port) => (p.1, clear p.2))
    tiles := s.tiles.map (fun (t : Nat × HomeTile) => (t.1, t.2.losePeer peer)) }
  let theirs (line : Nat) : Bool := targetOf (128 * line) == peer
  let s2 := ((s1.txns.filter (fun (t : Txn) => t.peer == peer)).foldl State.failTxn s1).loseTiles peer
  let here (m : Mon) : Bool := (m.peer.map Prod.fst) != some peer
  let s3 := { s2 with slices := s2.slices.map (fun (x : Nat × Slice) =>
    (x.1, { x.2 with entries := x.2.entries.filter here, relist := x.2.relist.filter here })) }
  (s3.forgetLines theirs).dropInvariant theirs

/-! ### DOMAIN and LINKCTL (R388) -/

/-- The bytes of own memory under another DID; host memory keeps its keys. -/
def rekey (old new : Nat) (m : List Host.Cell) : List Host.Cell :=
  (m.filter (fun c => targetOf c.1 == old)).map (fun c => (physKey new (paOf c.1), c.2)) ++ m.filter (fun c => 8 ≤ targetOf c.1)

/-- The poisoned lines of own memory under another DID, and those of host memory. -/
def State.rekeyLines (s : State) (d : Nat) : List Nat :=
  (s.poison.filter (fun l => s.isLocal (128 * l))).map (fun l => if targetOf (128 * l) = s.did then lineOf (physKey d (paOf (128 * l))) else l)

/-- DOMAIN_WRITE: once, before a context is switched in, with the own DID's bit set in the mask (R388; log entry 13). -/
def evDomainWrite (value : Word) (s : State) : State :=
  let v := value.toNat
  let d := v % 8
  if s.regs.domainSet || !s.ctxs.isEmpty || v / 2 ^ (8 + d) % 2 == 0 then s
  else
    { s with
      mem := rekey s.did d s.mem
      poison := s.rekeyLines d
      regs := { s.regs with domain := BitVec.ofNat 32 (d + v / 256 % 256 * 256), domainSet := true } }
def execDomainWrite (value : Word) : State → Host.Outcome State Fault Refusal := controlEvent (evDomainWrite value)

/-- The transactions that a port has not had acknowledged, in order. -/
def Port.unacked (p : Port) : List LinkTx :=
  p.sent.flatMap (fun f => (parseUnits 15 ((f.2.drop 8).take 240) [] 0).1.map (fun t =>
    { t with cls := ofBytes ((f.2.drop 5).take 1) % 4 })) ++ p.out

/-- A port leaves the state up: interrupt 3 (14 R396); what it has not had acknowledged goes over another link to the peer, where one is
up (log entry 29); with the last link the peer is lost (R394). -/
def State.portOff (s : State) (n : Nat) (failed : Bool) : State :=
  let p := s.port n
  if p.up then
    let s1 := (s.setPort n { p with up := false, down := p.down || failed }).interrupt 3
    match s1.portTo p.peer with
    | none => s1.losePeer p.peer
    | some m =>
      let q := p.unacked.foldl (fun q t => Port.send s.did q t) (s1.port m)
      (s1.setPort m q).setPort n { s1.port n with sent := [], out := [] }
  else s.setPort n { p with down := p.down || failed }

/-- A port is to expect another peer: where that is not the one that has reported, the mismatch shows and the port carries no traffic (R389). -/
def State.expectPeer (s : State) (n expect : Nat) : State :=
  let p := s.port n
  let s1 := if p.up && p.peer != expect then s.portOff n false else s
  s1.setPort n { s1.port n with expect := expect, mismatch := (p.up || p.mismatch) && p.peer != expect }

/-- LINKCTL_WRITE: clearing EN takes the port down, setting it again clears the counts and the failure (R388, R389, R392). -/
def evLinkctlWrite (n : Nat) (value : Word) (s : State) : State :=
  let p := s.port n
  let en := value.getLsbD 0
  let expect := value.toNat / 2 % 8
  if 8 ≤ n then s
  else if !en then
    let s1 := s.portOff n false
    s1.setPort n { s1.port n with en := false, expect := expect }
  else if p.en then s.expectPeer n expect
  else s.setPort n { p with en := true, expect := expect, lost := 0, replays := 0, down := false, mismatch := false }
def execLinkctlWrite (n : Nat) (value : Word) : State → Host.Outcome State Fault Refusal := controlEvent (evLinkctlWrite n value)

/-- LINK_UP: the peer has reported its DID (R389); sequence numbers start at 0 (log entry 29). -/
def evLinkUp (n did : Nat) (s : State) : State :=
  let p := s.port n
  let d := did % 8
  if 8 ≤ n || !p.en || p.up || p.down then s
  else if d ≠ p.expect then s.setPort n { p with peer := d, mismatch := true }
  else if !s.member d then s.setPort n { p with peer := d, mismatch := false }
  else
    (s.setPort n { p with
      up := true
      peer := d
      mismatch := false
      txSeq := 0
      rxSeq := 0
      sent := []
      refusals := 0
      refused := 0 }).interrupt 3
def execLinkUp (port did : Nat) : State → Host.Outcome State Fault Refusal := event (evLinkUp port did)

/-! ### Flits (R390, R392) -/

/-- The sender forgets the flits that ACK passes (R392). -/
def Port.acked (p : Port) (ack : Nat) : Port :=
  if p.sent.any (fun f => f.1 == ack) then
    let i := (p.sent.findIdx? (fun f => f.1 == ack)).getD 0
    if i = 0 then p else { p with sent := p.sent.drop i, refused := 0 }
  else if ack = p.txSeq ∧ p.sent ≠ [] then { p with sent := [], refused := 0 }
  else p

/-- Add to the replay count, which saturates (R388). -/
def Port.addReplays (p : Port) (n : Nat) : Port := { p with replays := min 65535 (p.replays + n) }

/-- Send what can be sent. -/
def Port.pumpAll (p : Port) (did : Nat) : Port := Port.pump did (p.out.length + 1) p

/-- What a port does with a NAK: it replays every flit from that SEQ onward, in order (R392). -/
def Port.replay (p : Port) (ack : Nat) : Port :=
  let q := p.acked ack
  if (q.sent.head?).map Prod.fst = some ack then
    { q.addReplays 1 with wire := q.wire ++ q.sent.map Prod.snd, refused := q.refused + 1 }
  else q

/-- NAK_RECEIVE; the port goes down after 16 refusals of one SEQ (R392). -/
def evNakReceive (n ack : Nat) (s : State) : State :=
  let p := s.port n
  if 8 ≤ n || !p.up then s
  else
    let q := (p.replay ack).pumpAll s.did
    let s1 := s.setPort n q
    if 16 ≤ q.refused then s1.portOff n true else s1
def execNakReceive (port ack : Nat) : State → Host.Outcome State Fault Refusal := event (evNakReceive port ack)

/-- A field of a flit. -/
def flitField (f : List Byte) (o n : Nat) : Nat := ofBytes ((f.drop o).take n)

/-- A flit passes its CRC, has a defined KIND, and its reserved bits are zero (R390; 00 R4; log entry 29). -/
def flitGood (f : List Byte) : Bool :=
  f.length == 256 && flitField f 248 8 == crc64 (f.take 248) && flitField f 4 1 ≤ 2 &&
  flitField f 5 1 < 4 && flitField f 6 1 < 8 && flitField f 7 1 == 0

/-- Refuse a flit: a NAK with the expected SEQ goes out; a flit that only follows a refused one is discarded with it (R392; log entry 29). -/
def State.refuseFlit (s : State) (n : Nat) (follows : Bool) : State :=
  let p := s.port n
  if follows && p.refusals != 0 then s
  else
    let s1 := s.setPort n { p with
      refusals := p.refusals + 1
      wire := p.wire ++ [flitBytes p.txSeq p.rxSeq 2 0 s.did []] }
    if 16 ≤ p.refusals + 1 then s1.portOff n true else s1

/-- FLIT_RECEIVE (R392): ACK is taken from a good flit; traffic in order enters the inbox and is acknowledged by an idle flit. -/
def evFlitReceive (n : Nat) (flit : List Byte) (s : State) : State :=
  let p := s.port n
  if 8 ≤ n || !p.up then s
  else if !flitGood flit then s.refuseFlit n false
  else if flitField flit 4 1 = 2 then evNakReceive n (flitField flit 2 2) s
  else
    let q := p.acked (flitField flit 2 2)
    let s1 := s.setPort n (q.pumpAll s.did)
    let p1 := s1.port n
    if flitField flit 4 1 = 0 then s1
    else if flitField flit 0 2 ≠ p1.rxSeq then s1.refuseFlit n true
    else if 64 ≤ p1.inbox.length then s1.refuseFlit n false
    else
      let (ts, bad) := parseUnits 15 ((flit.drop 8).take 240) [] 0
      let cls := flitField flit 5 1 % 4
      let rx := (p1.rxSeq + 1) % 65536
      s1.setPort n { p1.addReplays bad with
        rxSeq := rx
        refusals := 0
        inbox := p1.inbox ++ ts.map (fun t => { t with cls := cls })
        wire := p1.wire ++ [flitBytes p1.txSeq rx 0 0 s.did []] }
def execFlitReceive (port : Nat) (flit : List Byte) : State → Host.Outcome State Fault Refusal := event (evFlitReceive port flit)

/-! ### Transactions at the home (R391, R393) -/

/-- The kind of a transaction: an answer, which waits for nothing; a message of the region protocol; a request. Those of one kind and class are
performed in order (R393; log entry 29). -/
def LinkTx.stream (t : LinkTx) : Nat :=
  if t.op = 7 ∨ t.op = 9 ∨ t.op = 10 then 0 else if t.op = 8 ∧ 16 ≤ t.scope then 1 else 2

/-- The transaction of an operation that a port's inbox lets be performed next: no earlier one of its class and kind waits (R393). -/
def Port.next (p : Port) (op : Nat) : Option LinkTx :=
  p.inbox.find? (fun t => t.op == op && (p.inbox.find? (fun u => u.cls == t.cls && u.stream == t.stream)) == some t)

/-- Take a transaction out of a port's inbox. -/
def State.takeTx (s : State) (n : Nat) (t : LinkTx) : State :=
  s.setPort n { s.port n with inbox := (s.port n).inbox.erase t }

/-- Answer a transaction with a status and the returned bytes (R391). -/
def State.respond (s : State) (n : Nat) (t : LinkTx) (status : Nat) (data : List Byte) : State :=
  if (s.port n).up then
    s.setPort n ((s.port n).send s.did { LinkTx.of 9 t.cls status t.addr data none with tag := t.tag })
  else s

/-- Bytes from a physical address on lie in this device's memory. -/
def inDevice (pa n : Nat) : Bool := pa + n ≤ Config.deviceBytes

/-- Perform the next transaction of an operation for the peer: f gives the state and the answer's status and data; none while it waits. -/
def State.serveTx (s : State) (n op : Nat) (f : State → LinkTx → State × Option (Nat × List Byte)) : State :=
  match if n < 8 then (s.port n).next op else none with
  | none => s
  | some t =>
    match f s t with
    | (s1, none) => s1
    | (s1, some (status, data)) => (s1.takeTx n t).respond n t status data

/-- The transaction as one that is answered later. -/
def LinkTx.asker (t : LinkTx) (peer : Nat) : Asker := ⟨peer, t.tag, t.cls, t.addr⟩

/-- A read of an element of a region tile enters the tile's reads; the word that holds it goes back (08 R263; log entry 19). -/
def State.remoteElement (s : State) (n : Nat) (t : LinkTx) : State :=
  let s0 := s.takeTx n t
  let key := physKey s.did t.addr
  let size := min 4 (128 - t.addr % 128)
  if !inDevice t.addr size ∨ 64 ≤ t.scope then s0.respond n t 1 []
  else
    let home := s0.home (tileOf key) (BitVec.ofNat 32 (ofBytes (t.data.take 4)))
    let r : TileRead :=
      { wave := 0, uid := 0, op := 0, token := 0, cell := 0, tag := 0, key := key, size := size, coded := false, va := 0,
        tol := t.scope - 32, drains := none, peer := some (t.asker (s.port n).peer) }
    { s0 with tiles := s0.tiles.put (tileOf key) { home with reads := home.reads ++ [r] } }

/-- LINK_READ: the line that holds the address, read exactly; the peer may keep it as an invariant copy, so the home marks it; poison or an
address outside memory fails (R391; 08 R194, R249). A code of 32 and more reads an element of a region tile (log entry 19). -/
def evLinkRead (n : Nat) (s : State) : State :=
  match if n < 8 then (s.port n).next 1 else none with
  | none => s
  | some t =>
    if 32 ≤ t.scope then s.remoteElement n t
    else s.serveTx n 1 (fun s t =>
      let pa := t.addr / 128 * 128
      if !inDevice pa 128 then (s, some (1, []))
      else
        match State.exactRead 2 s (physKey s.did pa) 128 [] with
        | (s1, .ok bs) => (s1.mark (lineOf (physKey s.did pa)) (s.port n).peer, some (0, bs))
        | (s1, .poison) => (s1, some (1, []))
        | (s1, .miss) => (s1, none))
def execLinkRead (port : Nat) : State → Host.Outcome State Fault Refusal := event (evLinkRead port)

/-- Before cells are changed at their home no core of another device holds their tiles, and no device keeps an invariant copy of their lines
(08 R249, R262). -/
def State.clearHome (s : State) (cs : List (Nat × Byte)) : State × Bool :=
  match s.clearAfar (cs.map Prod.fst) with
  | (s1, false) => (s1, false)
  | (s1, true) => s1.settleMarks (linesOf cs)

/-- The bytes a write or a drain names, by its mask (R391). -/
def LinkTx.cells (did : Nat) (t : LinkTx) : List (Nat × Byte) :=
  (cellsAt (physKey did t.addr) t.data).zipIdx.filterMap (fun c =>
    let on : Bool := match t.mask with
      | some m => decide ((m.getD (c.2 / 8) 0).toNat / 2 ^ (c.2 % 8) % 2 = 1)
      | none => true
    if on then some c.1 else none)

/-- LINK_WRITE (R391). -/
def evLinkWrite (n : Nat) (s : State) : State :=
  s.serveTx n 2 (fun s t =>
    if !inDevice t.addr t.data.length then (s, some (1, []))
    else
      let cs := t.cells s.did
      match s.clearHome cs with
      | (s1, false) => (s1, none)
      | (s1, true) => (s1.physWrite cs, some (0, [])))
def execLinkWrite (port : Nat) : State → Host.Outcome State Fault Refusal := event (evLinkWrite port)

/-- LINK_ATOMIC: performed at the home; a kind of 16 and more returns nothing (R391, R393; log entry 19). -/
def evLinkAtomic (n : Nat) (s : State) : State :=
  s.serveTx n 3 (fun s t =>
    let key := physKey s.did t.addr
    let kind := t.scope % 16
    let word (o : Nat) : Word := BitVec.ofNat 32 (ofBytes ((t.data.drop o).take 4))
    if !inDevice t.addr 4 ∨ t.addr % 4 ≠ 0 ∨ 10 < kind then (s, some (1, []))
    else
      match s.clearHome [(key, 0)] with
      | (s1, false) => (s1, none)
      | (s1, true) =>
        match State.exactRead 2 s1 key 4 [] with
        | (s2, .miss) => (s2, none)
        | (s2, .poison) => (s2, some (1, []))
        | (s2, .ok bs) =>
          let old : Word := BitVec.ofNat 32 (ofBytes bs)
          (s2.physWrite (cellsAt key (bytesOf 4 (atomicFn kind old (word 0) (word 4)).toNat)),
            some (0, if t.scope < 16 then bs else [])))
def execLinkAtomic (port : Nat) : State → Host.Outcome State Fault Refusal := event (evLinkAtomic port)

/-- ENQ or DEQ performed at the home of its block, at the entry that the transaction gives; the present index goes back where it is another
(R393; 06 R196; log entry 19). -/
def State.remoteQueue (s : State) (enq : Bool) (t : LinkTx) : State × Option (Nat × List Byte) :=
  let f (o n : Nat) : Nat := ofBytes ((t.data.drop o).take n)
  let key := physKey s.did t.addr
  let coded := s.codedAt key
  if !inDevice t.addr 32 ∨ t.addr % 32 ≠ 0 ∨ s.poisoned key coded = true then (s, some (1, []))
  else
    match s.clearHome [(key, 0), (f 24 8, 0)] with
    | (s1, false) => (s1, none)
    | (s1, true) =>
      let entry (i : Nat) : Option (Nat × Bool) := if i = f 16 8 then some (f 24 8, s1.codedFor (f 24 8)) else none
      let q := s1.ringAct enq key (s1.codedFor key) (f 8 8) (f 4 4) entry (BitVec.ofNat 32 (f 0 4))
      let s2 := if s1.isLocal (f 24 8) then q.1 else q.1.forgetLines (fun l => l == lineOf (f 24 8))
      match q.2 with
      | .value v => (s2, some (0, bytesOf 4 v.toNat ++ bytesOf 4 0))
      | .index i => (q.1, some (0, bytesOf 4 i ++ bytesOf 4 1))
      | .poison => (s2, some (0, bytesOf 4 0 ++ bytesOf 4 2))
      | .miss => (q.1, none)

/-- LINK_ENQ. -/
def evLinkEnq (n : Nat) (s : State) : State := s.serveTx n 4 (fun s t => s.remoteQueue true t)
def execLinkEnq (port : Nat) : State → Host.Outcome State Fault Refusal := event (evLinkEnq port)
/-- LINK_DEQ. -/
def evLinkDeq (n : Nat) (s : State) : State := s.serveTx n 5 (fun s t => s.remoteQueue false t)
def execLinkDeq (port : Nat) : State → Host.Outcome State Fault Refusal := event (evLinkDeq port)

/-- LINK_MONW: the word is read; the wake goes back at once, or the home slice takes the entry (R393; 06 R197; 08 R252). -/
def evLinkMonw (n : Nat) (s : State) : State :=
  match if n < 8 then (s.port n).next 6 else none with
  | none => s
  | some t =>
    let key := physKey s.did t.addr
    let v : Word := BitVec.ofNat 32 (ofBytes (t.data.take 4))
    let m : Mon := ⟨0, 0, 0, some ((s.port n).peer, t.tag, t.cls), key, s.codedAt key, v, t.scope⟩
    let s0 := s.takeTx n t
    if !inDevice t.addr 4 ∨ t.addr % 4 ≠ 0 ∨ 10 ≤ t.scope then s0.respond n t 1 []
    else
      match State.exactRead 2 s key 4 [] with
      | (s1, .miss) => s1
      | (s1, .poison) => (s1.takeTx n t).respond n t 1 []
      | (s2, .ok bs) =>
        let s1 := s2.takeTx n t
        if monHolds t.scope (BitVec.ofNat 32 (ofBytes bs)) v then s1.wake m else s1.addMonitor m
def execLinkMonw (port : Nat) : State → Host.Outcome State Fault Refusal := event (evLinkMonw port)

/-- LINK_INVALIDATE: the device drops its copies of the peer's line and acknowledges (08 R249). -/
def evLinkInvalidate (n : Nat) (s : State) : State :=
  s.serveTx n 7 (fun s t =>
    let line := lineOf (physKey (s.port n).peer t.addr)
    ((s.forgetLines (fun l => l == line)).dropInvariant (fun l => l == line), some (0, [])))
def execLinkInvalidate (port : Nat) : State → Host.Outcome State Fault Refusal := event (evLinkInvalidate port)

/-- The kind that combines a drain's words: its code, or addition for a delta tile. -/
def LinkTx.combiner (t : LinkTx) : Nat := if 64 ≤ t.scope then 1 else t.scope

/-- The words of a drain combined with the home's by its kind; a word of a block that the codec rejects keeps its bytes (R391; 08 R248, R264;
log entry 59). -/
def State.combinedTx (s : State) (t : LinkTx) : LinkTx :=
  let word (i : Nat) : List Byte :=
    let key := physKey s.did t.addr + 4 * i
    match s.view key 4 (s.codedAt key) with
    | some bs =>
      bytesOf 4 (atomicFn t.combiner (BitVec.ofNat 32 (ofBytes bs)) (BitVec.ofNat 32 (ofBytes ((t.data.drop (4 * i)).take 4))) 0).toNat
    | none => s.bytes key 4
  { t with data := (List.range (t.data.length / 4)).flatMap word }

/-- A message of the region protocol: a join of a tile here; or what the home of a tile that a core here holds asks of it (08 R260 to R263; log
entry 19). -/
def State.regionMessage (s : State) (n : Nat) (t : LinkTx) : State :=
  let peer := (s.port n).peer
  let word (i : Nat) : Nat := ofBytes ((t.data.drop (4 * i)).take 4)
  let a := t.asker peer
  let tile := tileOf (physKey peer t.addr)
  if t.scope = 16 then
    let key := physKey s.did t.addr
    let home := s.home (tileOf key) (BitVec.ofNat 32 (word 1))
    if !inDevice t.addr 256 ∨ t.addr % 256 ≠ 0 then s.answerPeer a 1 []
    else
      let j : Join := { cid := word 0, ctx := 0, coded := false, cls := t.cls, peer := some a }
      { s with tiles := s.tiles.put (tileOf key) { home with joins := home.joins ++ [j] } }
  else if t.scope = 17 ∨ t.scope = 18 then s.askedDrain a tile (word 0) (t.scope == 18)
  else if t.scope = 19 then s.askedHalf a tile (word 0) (word 1)
  else s.answerPeer a 1 []

/-- Perform a drain at the home; after the last half of a holder that leaves its share returns to U (R391; 08 R248, R262, R264). -/
def State.performDrain (s : State) (peer : Nat) (t : LinkTx) : State × Option (Nat × List Byte) :=
  if !inDevice t.addr t.data.length ∨ t.addr % 4 ≠ 0 ∨ (8 < t.scope ∧ t.scope < 64) then (s, some (1, []))
  else
    match s.settleMarks (linesOf (t.cells s.did)) with
    | (s1, false) => (s1, none)
    | (s1, true) =>
      let cs := (s1.combinedTx t).cells s1.did
      let s2 := ((cs.map (fun c => c.1 / 256)).dedup).foldl (fun s b =>
        s.homePut (cs.filter (fun c => c.1 / 256 == b)) (s.codedFor (256 * b))) s1
      (if 192 ≤ t.scope then s2.freeShare peer (t.scope % 64) (tileOf (physKey s2.did t.addr)) else s2, some (0, []))

/-- LINK_DRAIN: each enabled word is combined at the home as an Update-only copy's or a delta tile's is; or a message of the region protocol
is taken (R391; 08 R248, R264; log entry 19). -/
def evLinkDrain (n : Nat) (s : State) : State :=
  match if n < 8 then (s.port n).next 8 else none with
  | none => s
  | some t =>
    if 16 ≤ t.scope ∧ t.scope < 64 then (s.takeTx n t).regionMessage n t
    else s.serveTx n 8 (fun s t => s.performDrain (s.port n).peer t)
def execLinkDrain (port : Nat) : State → Host.Outcome State Fault Refusal := event (evLinkDrain port)

/-! ### Responses and wakes (R391, R394) -/

/-- The request of a MONW whose word could not be read: the wave consumes poison, after the records that come before in this cycle; one that
a halt has stopped, or that is spilled, asks anew when it reads its word again (R394; 06 R197; 08 R254, R255; 09 R277; 13 R365). -/
def State.poisonWave (s : State) (r : LinkTx) (n : Nat) (t : Txn) (uid : Nat) (iss : Issue) (lane : Nat) (va : Addr) : State :=
  let s1 := (s.takeTx n r).dropTxn t.token
  match s.waveOf uid iss with
  | some w =>
    if w.isStopped then s1
    else if s.inOrder w.ctx iss.wave then s1.takeTrap iss .eccUncorrectable va lane
    else s
  | none =>
    match (s.away.find? (fun x => x.2.uid == uid)).map (fun x => s1.rereadMonw x.1 x.2) with
    | some s2 => s2
    | none => s1

/-- LINK_RESPONSE: a status other than 0 is a failure (R391). -/
def evLinkResponse (n : Nat) (s : State) : State :=
  match if n < 8 then (s.port n).next 9 else none with
  | none => s
  | some r =>
    match s.txnOf (s.port n).peer r.tag with
    | none => s.takeTx n r
    | some t =>
      if r.scope = 0 then (s.takeTx n r).finishTxn t r.data
      else match t.purpose with
        | .monw uid iss lane va => s.poisonWave r n t uid iss lane va
        | _ => (s.takeTx n r).failTxn t
def execLinkResponse (port : Nat) : State → Host.Outcome State Fault Refusal := event (evLinkResponse port)

/-- LINK_WAKE: the parked wave of a remote MONW goes on, or its bit in the wake vector is set (R391; 08 R253, R254). -/
def evLinkWake (n : Nat) (s : State) : State :=
  match if n < 8 then (s.port n).next 10 else none with
  | none => s
  | some r =>
    let s0 := s.takeTx n r
    match s0.txnOf (s0.port n).peer r.tag with
    | none => s0
    | some t =>
      match t.purpose with
      | .monw uid iss _ _ =>
        let here := (s0.waveOf uid iss).map Wave.ctx
        let far := (s0.away.find? (fun p => p.2.uid == uid)).map (fun p => p.2.ctx)
        match here.orElse (fun _ => far) with
        | some ctx => (s0.dropTxn t.token).wake ⟨ctx, iss.wave, uid, none, 0, false, 0, 0⟩
        | none => s0.dropTxn t.token
      | _ => s0
def execLinkWake (port : Nat) : State → Host.Outcome State Fault Refusal := event (evLinkWake port)

/-- LINK_LOST: with no link up to a peer, its transactions in flight complete with error responses and those from it are gone (R394). -/
def evLinkLost (peer : Nat) (s : State) : State :=
  if (s.portTo peer).isSome ∨ peer = s.did then s else s.losePeer peer
def execLinkLost (peer : Nat) : State → Host.Outcome State Fault Refusal := event (evLinkLost peer)

end Sys2Proof.Machine
end

