-- ==== Sys2Proof/Machine/RayInstr.lean ====
section
/-! DEFINITION. Ray and item instructions, and LAUNCH (07 R224 to R235). -/

namespace Sys2Proof.Machine

/-- The ray a fibre is bound to. -/
def Fibre.rayId (f : Fibre) : Option Nat :=
  match f.bound with
  | .ray id => some id
  | .item _ => none
  | .none => none

/-- The ray or item a fibre is bound to. -/
def Fibre.slotId (f : Fibre) : Option Nat :=
  match f.bound with
  | .ray id => some id
  | .item id => some id
  | .none => none

/-- The record of the ray a lane's fibre is bound to. -/
def State.rayAt (s : State) (w : Wave) (l : Nat) : Option Ray := (w.fib l).rayId.bind s.rays.find?

/-- The record of the ray or item a lane's fibre is bound to. -/
def State.slotAt (s : State) (w : Wave) (l : Nat) : Option Ray := (w.fib l).slotId.bind s.rays.find?

/-- An uncorrectable error has struck the record a lane's fibre is bound to (14 R401). -/
def State.struck (s : State) (w : Wave) (l : Nat) : Bool :=
  !s.spoiled.isEmpty && (w.fib l).slotId.any (fun id => s.spoiled.contains (.pool id))

/-- A RAY instruction: its guard, then the requirement of every guarded lane, then its effect (07 R224); one that reads the record consumes
an error there (14 R401). -/
def rayInstr (p : Pre) (ok : State → Wave → Nat → Bool) (body : State → Issue → Word → Wave → Out) (reads : Bool := false) :
    State → Host.Outcome State Fault Refusal :=
  runState p (fun s iss lanes w =>
    match firstLane (lanes &&& ~~~w.doneLanes) (fun l => !ok s w l || (reads && s.struck w l)) with
    | some l => if reads && s.struck w l then .trap s .eccUncorrectable 0xFFFFFFFFFFFFFFFF l else .trap s .illegalOperand 0 l
    | none => body s iss lanes w)

/-- The 32 words of a new record from an octet (07 R225). -/
def rayWords (octet : List Word) (w15 w16 : Word) : SMap Word :=
  (List.range 32).map (fun i => (i,
    if i < 8 then octet.getD i 0 else if i = 8 then octet.getD 7 0 else if i = 9 ∨ i = 10 then 0xFFFFFFFF
    else if i = 15 then w15 else if i = 16 then w16 else 0))

/-- The octet of a lane (07 R225). -/
def Wave.octet (w : Wave) (a : BitVec 7) (l : Nat) : List Word := (List.range 8).map (fun j => (w.grp a j l).val)

/-- W16 of a record: context and ray id (11 R318). -/
def idWord (ctx id : Nat) : Word := BitVec.ofNat 32 (ctx * 2 ^ 20 + id)

/-- A record bound to a fibre, with the words given. -/
def newRay (ctx lid : Nat) (words : SMap Word) : Ray :=
  { ctx := ctx, lid := lid, item := false, place := .bound, words := words, root := none, descendants := 0, commit := none,
    cand := none, seen := [], walk := none, ended := false, event := 0, shader := 0, pc := 0, key := 0, entered := 0 }

/-- The context is at its cap with its ring full: the Eddy forms its oldest bin (10 R311; 11 R326). -/
def State.pressIfFull (s : State) (cl ctx : Nat) : State :=
  match s.ctxs.find? ctx with
  | none => s
  | some c => if c.poolcap ≤ s.poolUse cl ctx && !c.ringRoom cl then s.pressBins cl ctx else s

/-- GENRAY in the lanes still to do, in order; the lanes not performed for want of a slot (07 R225). -/
def State.genLanes (s : State) (iss : Issue) (d a : BitVec 7) (w0 : Wave) : List Nat → Wave → State × Wave × Bool
  | [], w => (s, w, true)
  | l :: ls, w =>
    let cl := clusterOf (cidOf iss.wave)
    match s.poolSlot cl w.ctx with
    | (s1, none) => (s1.pressIfFull cl w.ctx, w, false)
    | (s1, some id) =>
      let r := newRay w.ctx w.lid (rayWords (w0.octet a l) 0xFFFFF000 (idWord w.ctx id))
      let w1 := w.setFib l { w.fib l with bound := .ray id, fresh := true }
      let w2 := { w1.setCell (cellAt (w.wb + d.toNat) l) ⟨BitVec.ofNat 32 id, 0, false⟩ with doneLanes := w.doneLanes ||| laneBit l }
      State.genLanes (s1.addRay id r) iss d a w0 ls w2

/-- GENRAY (07 R225, R226). -/
def execGenray (d a : BitVec 7) (g : BitVec 2) : State → Host.Outcome State Fault Refusal :=
  rayInstr { guard := some g.toNat, ops := [.vec d 1 1, .vec a 8 8],
             tags := fun w m => checkGrp a 8 1 w (m &&& ~~~w.doneLanes) }
    (fun _ w l => (w.fib l).bound == .none && ((w.fib l).forked || (w.fib l).kind == 0 || (w.fib l).kind == 1 || (w.fib l).kind == 3))
    (fun s iss lanes w =>
      match s.genLanes iss d a w (lanesOf (lanes &&& ~~~w.doneLanes)) w with
      | (s1, w1, true) => .done (s1.retire iss { (w1.finish iss) with doneLanes := 0 })
      | (s1, w1, false) => .wait (s1.setWave iss.wave w1))

/-- What TRACE and SPAWN check of a record: its shader base and its flags (07 R227; 11 R319). -/
def State.traceOk (s : State) (w : Wave) (r : Ray) : Bool :=
  let flags := (r.word 14).toNat
  (r.word 13).toNat < (s.shadersOf w.lid).length && flags / 2 ^ 16 == 0 && flags % 4 != 3

/-- Hand a ray to the Eddy for traversal of a new TRACE (07 R227). -/
def State.startTrace (s : State) (id : Nat) : State :=
  s.tick1.modRay id (fun r =>
    { r.setWords [(8, r.word 7), (9, 0xFFFFFFFF), (10, 0xFFFFFFFF), (11, 0), (12, 0)] with
      place := .queued, commit := none, cand := none, seen := [], walk := none, ended := false, entered := s.fresh })

/-- Do f for the ray of every lane of a mask, ascending. -/
def State.forRays (s : State) (w : Wave) (m : Word) (f : State → Nat → State) : State :=
  (lanesOf m).foldl (fun s l => match (w.fib l).rayId with
    | some id => f s id
    | none => s) s

/-- TRACE (07 R227). -/
def execTrace (g : BitVec 2) : State → Host.Outcome State Fault Refusal :=
  rayInstr { guard := some g.toNat }
    (fun s w l => (w.fib l).kind != 2 && (match s.rayAt w l with
      | some r => s.traceOk w r
      | none => false))
    (fun s iss lanes w =>
      .done ((s.retire iss (((w.finish iss).endRegion iss).endFibres lanes)).forRays w lanes State.startTrace)) true

/-- A lane in an any-hit episode (07 R224). -/
def anyHit (s : State) (w : Wave) (l : Nat) : Bool := (s.rayAt w l).isSome && (w.fib l).kind == 2

/-- A decision of an any-hit episode: it ends the fibre and the ray resumes with it (07 R228). -/
def decide3 (g : BitVec 2) (f : Ray → Ray) : State → Host.Outcome State Fault Refusal :=
  rayInstr { guard := some g.toNat } anyHit (fun s iss lanes w =>
    .done ((s.retire iss ((w.finish iss).endFibres lanes)).forRays w lanes (fun s id =>
      s.tick1.modRay id (fun r => { f r with place := .queued, entered := s.fresh })))) true

/-- The candidate becomes the committed hit (07 R228). -/
def Ray.takeCandidate (r : Ray) (ends : Bool) : Ray :=
  { r.setWord 7 (r.word 8) with commit := r.cand, cand := none, ended := ends }

/-- ACCEPT; with terminate-on-first-hit it acts as TERMRAY (07 R228). -/
def execAccept (g : BitVec 2) : State → Host.Outcome State Fault Refusal :=
  decide3 g (fun r => r.takeCandidate ((r.word 14).getLsbD 3))

/-- IGNORE (07 R228). -/
def execIgnore (g : BitVec 2) : State → Host.Outcome State Fault Refusal :=
  decide3 g (fun r =>
    let back : List (Nat × Word) := match r.commit with
      | some h => [(8, h.t), (9, h.prim), (10, h.iid), (11, h.u), (12, h.v)]
      | none => [(8, r.word 7), (9, 0xFFFFFFFF), (10, 0xFFFFFFFF), (11, 0), (12, 0)]
    { r.setWords back with cand := none })

/-- TERMRAY (07 R228). -/
def execTermray (g : BitVec 2) : State → Host.Outcome State Fault Refusal := decide3 g (fun r => r.takeCandidate true)

/-- SPAWN in one lane: the child's id word, or 0 (07 R229; 11 R322). -/
def State.spawnOne (s : State) (id : Nat) (octet : List Word) : State × Word :=
  match s.rays.find? id with
  | none => (s, 0)
  | some p =>
    let root := p.root.getD id
    let outstanding := ((s.rays.find? root).map Ray.descendants).getD 0
    if 8 ≤ p.depth || 64 ≤ outstanding then (s, 0)
    else match s.poolSlot (rayCluster id) p.ctx with
      | (s1, none) => (s1, 0)
      | (s1, some c) =>
        let words := rayWords octet (BitVec.ofNat 32 (id * 2 ^ 12 + (p.depth + 1) * 2 ^ 8)) (idWord p.ctx c)
        let copied := (13 :: 14 :: (List.range 15).map (fun i => i + 17)).map (fun i => (i, p.word i))
        let child := { (newRay p.ctx p.lid words).setWords copied with root := some root, place := .queued, entered := s1.fresh }
        let s2 := (s1.tick1.addRay c child).modRay id (fun r => r.setChildren (r.children + 1))
        (s2.modRay root (fun r => { r with descendants := r.descendants + 1 }), 0x80000000 ||| BitVec.ofNat 32 c)

/-- SPAWN (07 R229). -/
def execSpawn (d a : BitVec 7) (g : BitVec 2) : State → Host.Outcome State Fault Refusal :=
  rayInstr { guard := some g.toNat, ops := [.vec d 1 1, .vec a 8 8], tags := checkGrp a 8 1 }
    (fun s w l => match s.rayAt w l with
      | some r => s.traceOk w r
      | none => false)
    (fun s iss lanes w =>
      let (s1, w1) := (lanesOf lanes).foldl (fun (q : State × Wave) l =>
        match (w.fib l).rayId with
        | none => q
        | some id =>
          let (s', v) := q.1.spawnOne id (w.octet a l)
          (s', q.2.setCell (cellAt (w.wb + d.toNat) l) ⟨v, 0, false⟩)) (s, w)
      .done (s1.retire iss ((w1.finish iss).endRegion iss))) true

/-- The group size of a count code of RAYLD and RAYST (07 R230). -/
def rayCount (c : BitVec 2) : Nat := 2 ^ c.toNat

/-- RAYLD: the words of the bound slot, an item's w0 to w15 only (07 R230). -/
def execRayld (d : BitVec 7) (c : BitVec 2) (n : BitVec 5) (g : BitVec 2) : State → Host.Outcome State Fault Refusal :=
  let k := rayCount c
  rayInstr { guard := some g.toNat, reserved := c == 3, ops := [.vec d k k], badOperand := fun _ => n.toNat % k != 0, counter := some .ld }
    (fun s w l => match s.slotAt w l with
      | some r => !r.item || n.toNat + k ≤ 16
      | none => false)
    (fun s iss lanes w =>
      let cell (l j : Nat) : Nat := cellAt (w.wb + d.toNat + j) l
      let writes := (lanesOf lanes).flatMap (fun l => match s.slotAt w l with
        | some r => (List.range k).map (fun j => (⟨cell l j, r.word (n.toNat + j), 0⟩ : LWrite))
        | none => [])
      let cells := (lanesOf lanes).flatMap (fun l => (List.range k).map (cell l))
      let o : Op := { Op.nothing s.fresh .load iss with writes := writes, busy := cells, done := false }
      .done (s.tick1.retire iss (((w.setEmpty cells).count .ld o).finish iss))) true

/-- The words that RAYST may write in an episode (07 R231). -/
def rayWritable (kind n : Nat) : Bool :=
  if kind = 2 then 17 ≤ n else n < 8 || n == 13 || n == 14 || 17 ≤ n

/-- RAYST (07 R230, R231). -/
def execRayst (d : BitVec 7) (c : BitVec 2) (n : BitVec 5) (g : BitVec 2) : State → Host.Outcome State Fault Refusal :=
  let k := rayCount c
  rayInstr { guard := some g.toNat, reserved := c == 3, ops := [.vec d k k], badOperand := fun _ => n.toNat % k != 0, counter := some .st }
    (fun s w l => (s.rayAt w l).isSome && (List.range k).all (fun j => rayWritable (w.fib l).kind (n.toNat + j)))
    (fun s iss lanes w =>
      let s1 := (lanesOf lanes).foldl (fun s l => match (w.fib l).rayId with
        | some id => s.modRay id (fun r => r.setWords ((List.range k).map (fun j => (n.toNat + j, (w.grp d j l).val))))
        | none => s) s
      let o : Op := { Op.nothing s1.fresh .store iss with done := false }
      .done (s1.tick1.retire iss ((w.count .st o).finish iss)))

/-- RAYDONE (07 R232). -/
def execRaydone (g : BitVec 2) : State → Host.Outcome State Fault Refusal :=
  rayInstr { guard := some g.toNat } (fun s w l => (s.slotAt w l).isSome) (fun s iss lanes w => .done (s.endLanes iss w lanes))

/-- A word of the bound ray in each guarded lane. -/
def rayValue (d : BitVec 7) (g : BitVec 2) (f : State → Ray → Word) : State → Host.Outcome State Fault Refusal :=
  rayInstr { guard := some g.toNat, ops := [.vec d 1 1] } (fun s w l => (s.rayAt w l).isSome) (fun s iss lanes w =>
    .done (s.retire iss ((w.writeField d lanes (fun l => ⟨((s.rayAt w l).map (f s)).getD 0, 0⟩)).finish iss))) true

/-- BINKEY (07 R233). -/
def execBinkey (d : BitVec 7) (g : BitVec 2) : State → Host.Outcome State Fault Refusal := rayValue d g State.rayKey

/-- CHILDQ (07 R232). -/
def execChildq (d : BitVec 7) (g : BitVec 2) : State → Host.Outcome State Fault Refusal :=
  rayValue d g (fun _ r => BitVec.ofNat 32 r.children)

/-- ITEM in the lanes still to do, in order; false where one waits for a slot (07 R234; 10 R311). -/
def State.itemLanes (s : State) (iss : Issue) (c : Nat) (a : BitVec 7) : List Nat → Wave → State × Wave × Bool
  | [], w => (s, w, true)
  | l :: ls, w =>
    let cl := clusterOf (cidOf iss.wave)
    match s.poolSlot cl w.ctx with
    | (s1, none) => (s1.pressIfFull cl w.ctx, w, false)
    | (s1, some id) =>
      let data := (List.range 16).map (fun i => (i, if i < c then (w.grp a (3 + i) l).val else 0))
      let pc := w.pair a l
      let r : Ray :=
        { newRay w.ctx w.lid data with
          item := true, place := .queued, event := 4, shader := (s1.itemShader w.lid pc).getD 0, pc := pc, key := (w.grp a 2 l).val }
      State.itemLanes ((s1.addRay id r).enterBin id) iss c a ls { w with doneLanes := w.doneLanes ||| laneBit l }

/-- ITEM (07 R234). -/
def execItem (c : BitVec 5) (a : BitVec 7) (g : BitVec 2) : State → Host.Outcome State Fault Refusal :=
  rayInstr { guard := some g.toNat, reserved := 17 ≤ c.toNat, ops := [.vec a (c.toNat + 3) 4] }
    (fun s w l => (s.itemShader w.lid (w.pair a l)).isSome)
    (fun s iss lanes w =>
      match s.itemLanes iss c.toNat a (lanesOf (lanes &&& ~~~w.doneLanes)) w with
      | (s1, w1, true) =>
        let w2 := (w1.finish iss).endRegion iss
        .done (s1.retire iss { w2 with doneLanes := 0 })
      | (s1, w1, false) => .wait (s1.setWave iss.wave w1))

/-- What LAUNCH asks of each half of a record: a load (07 R235). -/
def Access.record : Access := ⟨64, 64, true, true, .r, false⟩

/-- The two halves of a record of a lane. -/
def launchHalves (w : Wave) (a : BitVec 7) (l : Nat) : List Addr := [w.pair a l, w.pair a l + 64]

/-- Read half a record as a load of the wave. -/
def State.readHalf (s : State) (k : Nat) (w : Wave) (p : Place) (a : Addr) : State × Option (Except Addr (List Byte)) :=
  match s.readPlace (cidOf k) w p 64 with
  | (s2, .ok bs) => (s2, some (.ok bs))
  | (s2, .poison) => (s2, some (.error a))
  | (s2, .miss) => (s2, none)

/-- LAUNCH in the lanes still to do, in order; false where one waits (07 R235; 10 R305). -/
def State.launchLanes (s : State) (iss : Issue) (d a : BitVec 7) (w0 : Wave) : List (Nat × List Place) → Wave → State × Wave × Bool
  | [], w => (s, w, true)
  | (l, ps) :: rest, w =>
    match ps with
    | lo :: hi :: _ =>
      if s.launchesFull || s.zephyr.halted then (s, w, false)
      else
        let va := w0.pair a l
        let (s1, x) := s.readHalf iss.wave w0 lo va
        let (s2, y) := s1.readHalf iss.wave w0 hi (va + 64)
        match x, y with
        | some x, some y =>
          match s2.checkLaunch w.ctx true x y with
          | (s3, none) => (s3, w, false)
          | (s3, some c) =>
            let (s4, lid) := s3.acceptLaunch w.ctx (some w.lid) (w.depth + 1) w.prio none none c
            let w1 := { w.setCell (cellAt (w.wb + d.toNat) l) ⟨BitVec.ofNat 32 lid, 0, false⟩ with
              doneLanes := w.doneLanes ||| laneBit l }
            State.launchLanes s4 iss d a w0 rest w1
        | _, _ => (s2, w, false)
    | _ => State.launchLanes s iss d a w0 rest w

/-- LAUNCH: the depth check, the records' checks, the boundary, then each lane (01 R23; 07 R235). -/
def execLaunch (d a : BitVec 7) (g : BitVec 2) : State → Host.Outcome State Fault Refusal :=
  rayInstr { guard := some g.toNat, ops := [.vec d 1 1, .vec a 2 2] } (fun _ _ _ => true) (fun s iss lanes w =>
    if 10 ≤ w.depth then .trap s .launchDepth 0 (lowest iss.batch)
    else
      match s.checkLanes iss.wave w Access.record (launchHalves w a) (lanesOf (lanes &&& ~~~w.doneLanes)) [] with
      | (s1, .error (l, b)) => .trap s1 b.cause b.faddr l
      | (s1, .ok got) =>
        match if w.doneLanes = 0 then s1.boundary (cidOf iss.wave) w 2 else (s1, true) with
        | (s2, false) => .wait s2
        | (s2, true) =>
          match (s2.anew iss.wave (got.flatMap Prod.snd)).launchLanes iss d a w got w with
          | (s3, w1, true) =>
            let w2 := (w1.finish iss).endRegion iss
            .done (s3.retire iss { w2 with doneLanes := 0 })
          | (s3, w1, false) => .wait (s3.setWave iss.wave w1))

end Sys2Proof.Machine
end

