-- ==== Sys2Proof/Machine/Registers.lean ====
section
/-! DEFINITION. Device registers as the control cores and the host read and write them, and memory as they see it (00 R4; 08 R251;
09 R268, R282, R284; 10 R296; 13 R367, R374, R375; 14 R388, R395, R396, R403). -/

namespace Sys2Proof.Machine

/-- Records that a full trap queue held back are written as far as it now has room (13 R366). -/
def State.flushAll (s : State) : State := (s.ctxs.map Prod.fst).foldl (fun s c => State.flushBacklog 64 s c) s

/-! ### Memory (08 R251; 09 R277, R284) -/

/-- An exact read of own memory by physical address into the reply; an error response leaves none (09 R277). While a core of another device
must drain first it does not occur (log entry 43). -/
def State.agentRead (s : State) (addr len : Nat) : State :=
  if inDevice addr len then
    match State.exactRead (len / 128 + 2) s (physKey s.did addr) len [] with
    | (s1, .ok bs) => { s1 with reply := some bs }
    | (s1, .poison) => { s1 with reply := none }
    | (s1, .miss) => s1
  else { s with reply := none }

/-- A write of own memory by physical address, performed at the home once no device keeps an invariant copy of its lines and none of
its cores holds their tiles; until then it does not occur (08 R249, R262; log entry 77). -/
def State.agentWrite (s : State) (addr : Nat) (data : List Byte) : State :=
  let cs := cellsAt (physKey s.did addr) data
  if inDevice addr data.length then
    match s.clearHome cs with
    | (s1, false) => s1
    | (s1, true) => (s1.physWrite cs).flushAll
  else s

/-- CONTROL_CORE_READ. -/
def evControlCoreRead (addr len : Nat) (s : State) : State := s.agentRead addr len
def execControlCoreRead (addr len : Nat) : State → Host.Outcome State Fault Refusal := controlEvent (evControlCoreRead addr len)

/-- CONTROL_CORE_WRITE. -/
def evControlCoreWrite (addr : Nat) (data : List Byte) (s : State) : State := s.agentWrite addr data
def execControlCoreWrite (addr : Nat) (data : List Byte) : State → Host.Outcome State Fault Refusal :=
  controlEvent (evControlCoreWrite addr data)

/-! ### Registers -/

/-- Width in bytes of a header field that starts at an offset; none where no field that control cores write starts (13 R382). -/
def headerWidth (off : Nat) : Option Nat :=
  if off = 0 ∨ off = 4 ∨ off = 32 ∨ off = 36 ∨ off = 60 ∨ off = 76 then some 4
  else if off = 8 ∨ off = 16 ∨ off = 24 ∨ off = 40 ∨ off = 48 ∨ off = 64 then some 8
  else if off = 56 ∨ off = 58 then some 2
  else none

/-- Write a field of a switched-out context's image header (09 R268; 11 R323; 13 R381, R382). -/
def State.writeHeader (s : State) (ctx off : Nat) (value : Addr) : State :=
  match s.ctxs.find? ctx, headerWidth off with
  | some c, some n =>
    if c.state = 1 ∨ c.state = 3 then s else s.physWrite (cellsAt (s.imageKey c.image.toNat off) (bytesOf n value.toNat))
  | _, _ => s

def State.setRegs (s : State) (r : Regs) : State := { s with regs := r }

/-- REGISTER_WRITE: registers with no behaviour of their own; reserved bits have no effect (00 R4). -/
def evRegisterWrite (reg : Reg) (value : Addr) (s : State) : State :=
  match reg with
  | .lqring n => if n < 16 then s.setLqueue n { s.lqueue n with ring := value } else s
  | .lqctx n => if n < 16 then s.setLqueue n { s.lqueue n with ctxReg := value.setWidth 32 &&& 0x80000FFF } else s
  | .mdbase => s.setRegs { s.regs with mdbase := value }
  | .mdspan => s.setRegs { s.regs with mdspan := value }
  | .ctxaddr => s.setRegs { s.regs with ctxaddr := value }
  | .introute n => if n < 64 then s.setRegs { s.regs with routing := s.regs.routing.put n (value.setWidth 32) } else s
  | .ctxHeader ctx off => s.writeHeader ctx off value
  | .lqbell _ => s
  | .tqerr => s
  | .trapreply => s
  | .ctxctl => s
  | .ctxstat => s
  | .inval => s
  | .domain => s
  | .linkctl _ => s
  | .linkstat _ => s
  | .ccestat _ _ => s
  | .gsestat _ _ => s
  | .trstat _ _ => s
  | .cceretired _ => s
  | .clkstep => s
  | .ecclog => s
  | .raydrop _ => s
def execRegisterWrite (reg : Reg) (value : Addr) : State → Host.Outcome State Fault Refusal := controlEvent (evRegisterWrite reg value)

/-- A write to CTXCTL starts the operation it names (13 R375). -/
def State.writeCtxctl (s : State) (v : Nat) : State :=
  let ctx := v % 4096
  let op := v / 4096 % 16
  if op = 0 then evCtxNone ctx s
  else if op = 1 then evSwitchIn ctx s
  else if op = 2 then evSwitchOut ctx s
  else if op = 3 then evKillContext ctx s
  else if op = 4 then evKillLaunch ctx s
  else if op = 5 then evHaltContext ctx s
  else evCtxReservedOp ctx op s

/-- A write to the invalidation register: the context in bits [11:0], the first page in [47:12], the base-2 logarithm of the number of pages
in [53:48] (09 R295; log entry 70). -/
def State.writeInval (s : State) (value : Addr) : State :=
  let v := value.toNat
  let lo := v / 2 ^ 12 % 2 ^ 36 * 4096
  evInvalidationRequest (v % 4096) lo (lo + 2 ^ (12 + v / 2 ^ 48 % 64) - 1) s

/-- A write to any register, with the behaviour it has; a write to a read-only one has no effect. -/
def State.writeReg (s : State) (reg : Reg) (value : Addr) : State :=
  match reg with
  | .lqring n => evRegisterWrite (.lqring n) value s
  | .lqctx n => evRegisterWrite (.lqctx n) value s
  | .mdbase => evRegisterWrite .mdbase value s
  | .mdspan => evRegisterWrite .mdspan value s
  | .ctxaddr => evRegisterWrite .ctxaddr value s
  | .introute n => evRegisterWrite (.introute n) value s
  | .ctxHeader ctx off => evRegisterWrite (.ctxHeader ctx off) value s
  | .lqbell n => evLqbell n s
  | .tqerr => evTqerrClear (value.setWidth 32) s
  | .trapreply => s.trapReply value
  | .ctxctl => s.writeCtxctl (value.toNat % 2 ^ 32)
  | .domain => evDomainWrite (value.setWidth 32) s
  | .linkctl n => evLinkctlWrite n (value.setWidth 32) s
  | .ccestat ctx cl => evEngineStatusClear (.ccestat ctx cl) (value.setWidth 32) s
  | .gsestat ctx cl => evEngineStatusClear (.gsestat ctx cl) (value.setWidth 32) s
  | .trstat ctx cl => evEngineStatusClear (.trstat ctx cl) (value.setWidth 32) s
  | .inval => s.writeInval value
  | .ctxstat => s
  | .linkstat _ => s
  | .cceretired _ => s
  | .clkstep => s
  | .ecclog => s
  | .raydrop _ => s

/-- LINKSTAT (14 R388). -/
def Port.status (p : Port) : Nat :=
  let bit (b : Bool) (i : Nat) : Nat := if b then 2 ^ i else 0
  bit p.up 0 + 2 * (p.peer % 8) + bit p.down 4 + bit p.mismatch 5 + 2 ^ 8 * p.lost + 2 ^ 16 * p.replays

/-- A register of a context that is switched in, as the device registers show it. -/
def State.ctxReg (s : State) (ctx : Nat) (f : Ctx → Nat) : Option Nat :=
  if s.isIn ctx then (s.ctxs.find? ctx).map f else none

/-- A register's width in bytes and its value, reserved bits zero (00 R4); no value where the spec gives none: a write-only register, the invalidation register,
a register of a context that is not switched in (log entry 17). -/
def State.regValue (s : State) (reg : Reg) : Nat × Option Nat :=
  match reg with
  | .lqring n => (8, some (s.lqueue n).ring.toNat)
  | .lqctx n => (4, some (s.lqueue n).ctxReg.toNat)
  | .lqbell _ => (4, none)
  | .mdbase => (8, some s.regs.mdbase.toNat)
  | .mdspan => (8, some s.regs.mdspan.toNat)
  | .tqerr => (4, some s.regs.tqerr.toNat)
  | .trapreply => (8, none)
  | .ctxctl => (4, some s.regs.ctxctl.toNat)
  | .ctxaddr => (8, some s.regs.ctxaddr.toNat)
  | .ctxstat => (4, some ((if s.regs.busy then 1 else 0) + 16 * s.regs.result))
  | .inval => (8, none)
  | .domain => (4, some s.regs.domain.toNat)
  | .linkctl n => (4, some ((if (s.port n).en then 1 else 0) + 2 * (s.port n).expect))
  | .linkstat n => (4, some (s.port n).status)
  | .introute n => (4, some (s.regs.routing.get 0 n).toNat)
  | .ccestat ctx cl => (4, s.ctxReg ctx (fun c => (c.cce.get Cce.fresh cl).stat.toNat % 32))
  | .gsestat ctx cl => (4, s.ctxReg ctx (fun c => (c.gsestat.get 0 cl).toNat % 32))
  | .trstat ctx cl => (4, s.ctxReg ctx (fun c => (c.trstat.get 0 cl).toNat % 32))
  | .cceretired cl => (4, some (s.engineState (72 + cl)).retiredTiles.toNat)
  | .clkstep => (4, some s.regs.clkstep)
  | .ecclog => (4, some s.regs.ecclog)
  | .raydrop ctx => (4, s.ctxReg ctx (fun c => c.raydrop.toNat))
  | .ctxHeader ctx off =>
    match s.ctxs.find? ctx, headerWidth off with
    | some c, some n => (n, some (s.imageField c.image.toNat off n))
    | _, _ => (8, none)

/-- Read a register into the reply. -/
def State.readReg (s : State) (reg : Reg) : State :=
  match s.regValue reg with
  | (n, some v) => { s with reply := some (bytesOf n v) }
  | (n, none) =>
    let (s1, bs) := s.freeBytes n
    { s1 with reply := some bs }

/-! ### The host (14 R395) -/

/-- HOST_READ: BAR0 reads zero while HOSTREG is 0; BAR2 reads memory exactly. -/
def evHostRead (reg : Option Reg) (addr len : Nat) (s : State) : State :=
  match reg with
  | some r => if s.zephyr.hostreg then s.readReg r else { s with reply := some (bytesOf (s.regValue r).1 0) }
  | none => s.agentRead addr len
def execHostRead (reg : Option Reg) (addr len : Nat) : State → Host.Outcome State Fault Refusal := event (evHostRead reg addr len)

/-- HOST_WRITE: BAR0 writes are ignored while HOSTREG is 0 and until the control cores, which hold the registers, run (R396, R398); BAR2 writes
memory at system scope. -/
def evHostWrite (reg : Option Reg) (value : Addr) (addr : Nat) (data : List Byte) (s : State) : State :=
  match reg with
  | some r => if s.zephyr.hostreg && s.zephyr.booted then s.writeReg r value else s
  | none => s.agentWrite addr data
def execHostWrite (reg : Option Reg) (value : Addr) (addr : Nat) (data : List Byte) : State → Host.Outcome State Fault Refusal :=
  event (evHostWrite reg value addr data)

end Sys2Proof.Machine
end

