-- ==== Sys2Proof/Machine/Tile.lean ====
section
/-! DEFINITION. Tile instructions on matrix fragments (05 R164 to R173). -/

namespace Sys2Proof.Machine

/-- The lanes whose source elements a tile instruction reads (05 R164). -/
def tileLanes (m : BitVec 2) (batch : Word) : Word := if m = 0 then BitVec.allOnes 32 else batch

/-- The operand class of a tag by its K; 0 for a tag of no class (05 R166). -/
def classOf (t : BitVec 6) : Nat := if is16 t then 16 else if isB8 t then 32 else if isHalf t then 64 else 0

/-- The lane, register offset and element number that hold place (r, c) of a fragment with K columns, w-bit elements (05 R165). -/
def fragPlace (k r c : Nat) : Nat × Nat × Nat :=
  let i := c % (k / 2)
  (r + 16 * (c / (k / 2)), i / (k / 8), i % (k / 8))

/-- Element (r, c) of a fragment: none where its lane is not read (05 R164, R165; log entry 12). -/
def Wave.fragElem (w : Wave) (f : BitVec 7) (k : Nat) (src : Word) (r c : Nat) : Option XR :=
  let (l, j, e) := fragPlace k r c
  if src.getLsbD l then
    let x := w.grp f j l
    match elemOf x.tag with
    | some (el, n) => some (el.value (elemCode n e x.val))
    | none => some .nan
  else none

/-- The lane and register offset of accumulator element (r, c) (05 R165). -/
def accPlace (r c : Nat) : Nat × Nat := (r + 16 * (c / 8), c % 8)

def Wave.accWord (w : Wave) (f : BitVec 7) (r c : Nat) : Word := (w.grp f (accPlace r c).2 (accPlace r c).1).val

/-- Count a tile instruction whose result registers are unfinished until its completion (01 R44, 05 R173). -/
def State.issueTile (s : State) (iss : Issue) (w : Wave) (d : BitVec 7) (n : Nat) : State :=
  let o : Op := { Op.nothing s.fresh .tile iss with busy := (List.range n).map (fun j => w.wb + d.toNat + j), done := false }
  s.tick1.retire iss ((w.count .tx o).finish iss)

/-- The checks every tile instruction makes (05 R164, R173). -/
def preTile (m : BitVec 2) (ops : List Opnd) : Pre :=
  { guard := none, reserved := 2 ≤ m.toNat, ops := ops, counter := some .tx, tile := true }

/-- The class of the fragments, from the lowest lane read (05 R166). -/
def Wave.mmaClass (w : Wave) (a : BitVec 7) (src : Word) : Nat := classOf (w.grp a 0 (lowest src)).tag

/-- The tag check of TMMA and TMMAT: one class in every register read, F32 in the accumulator (05 R166). -/
def mmaTags (d a b : BitVec 7) (m : BitVec 2) (w : Wave) (batch : Word) : Option Nat :=
  let src := tileLanes m batch
  let k := w.mmaClass a src
  allChecks [fun w _ => firstLane src (fun l => k == 0 || (List.range 4).any (fun j =>
    classOf (w.grp a j l).tag != k || classOf (w.grp b j l).tag != k)), checkGrp d 8 1] w batch

/-- The lanes of the scale register that are read: row m's scale in lane m, column n's in lane 16 + n (05 R166). -/
def scaleLanes (src : Word) : Word :=
  laneNums.foldl (fun s l => if src.getLsbD (l % 16) || src.getLsbD (l % 16 + 16) then s ||| laneBit l else s) 0

/-- The exact scaled value and whether forming it is invalid (02 R74). -/
def scaleBy (s : Option XR) (x : XR) : XR × Bool :=
  match s with
  | some v => x.mul v
  | none => (x, false)

/-- One scaled product of TMMA: +0 where an element is absent (05 R166). -/
def mmaTerm (x y : Option XR) (sx sy : Option XR) : XR × Bool :=
  match x, y with
  | some u, some v =>
    let p := scaleBy sx u
    let q := scaleBy sy v
    let r := p.1.mul q.1
    (r.1, p.2 || q.2 || r.2)
  | _, _ => (.fin false 0 0, false)

/-- Output element of the product row m, column n, added to c (02 R77, 05 R166). -/
def Wave.mmaElem (w : Wave) (a b : BitVec 7) (k : Nat) (src : Word) (m n : Nat) (c : Word) : Word × Flags :=
  let scale (l : Nat) : Option XR :=
    if k = 16 then none else some (f32 (w.grp a 4 l).val)
  let ts := (List.range k).map (fun i => mmaTerm (w.fragElem a k src m i) (w.fragElem b k src n i) (scale m) (scale (16 + n)))
  let g := sumF32 .rne (ts.any Prod.snd) (ts.map Prod.fst)
  let r := sumF32 .rne false [f32 c, f32 g.1]
  (r.1, g.2 ||| r.2)

/-- Write accumulator elements (r, c) in the active lanes and raise their flags (05 R164, 02 R82). -/
def Wave.writeAcc (w : Wave) (d : BitVec 7) (batch : Word) (f : Nat → Nat → Word × Flags) : Wave :=
  let at_ (l j : Nat) : Word × Flags := f (l % 16) (8 * (l / 16) + j)
  let w1 := (List.range 8).foldl (fun w' j => w'.writeReg (w.wb + d.toNat + j) batch (fun l => ⟨(at_ l j).1, 1⟩)) w
  w1.raise (flagsOver batch (fun l => (List.range 8).foldl (fun acc j => acc ||| (at_ l j).2) 0))

/-- TMMA, and TMMAT with the product transposed (05 R166). -/
def runMma (transposed : Bool) (d a b : BitVec 7) (m : BitVec 2) : State → Host.Outcome State Fault Refusal :=
  runState { preTile m [.vec d 8 8, .vec a 4 4, .vec b 4 4] with tags := mmaTags d a b m, reach := allSlots m [.vec a 4 4, .vec b 4 4] }
    (fun s iss batch w =>
      let src := tileLanes m batch
      let k := w.mmaClass a src
      let scale := a + 4
      if k != 16 && w.need ≤ w.wb + a.toNat + 4 then .trap s .illegalOperand 0 (lowest batch)
      else if k != 16 && w.emptyIn [.vec scale 1 1] batch then .wait s
      else match if k = 16 then none else checkGrp scale 1 1 w (scaleLanes src),
          if k = 16 then none else s.spoiledLane { ops := [.vec scale 1 1], reach := allSlots m [.vec scale 1 1] } w batch with
        | some l, _ => .trap s .formatMismatch 0 l
        | none, some l => .trap s .eccUncorrectable 0xFFFFFFFFFFFFFFFF l
        | none, none =>
          let w1 := w.writeAcc d batch (fun r c =>
            if transposed then w.mmaElem a b k src c r (w.accWord d r c) else w.mmaElem a b k src r c (w.accWord d r c))
          .done (s.issueTile iss w1 d 8))

/-- TMMA (05 R166). -/
def execTmma (d a b : BitVec 7) (m : BitVec 2) : State → Host.Outcome State Fault Refusal := runMma false d a b m

/-- TMMAT (05 R166). -/
def execTmmat (d a b : BitVec 7) (m : BitVec 2) : State → Host.Outcome State Fault Refusal := runMma true d a b m

/-- A tile instruction whose wave part is f and whose result is n registers. -/
def runTile (p : Pre) (d : BitVec 7) (n : Nat) (f : Word → Wave → Wave) : State → Host.Outcome State Fault Refusal :=
  runState p (fun s iss batch w => .done (s.issueTile iss (f batch w) d n))

/-- TZERO (05 R167). -/
def execTzero (d : BitVec 7) (m : BitVec 2) : State → Host.Outcome State Fault Refusal :=
  runTile (preTile m [.vec d 8 8]) d 8 (fun batch w => w.writeAcc d batch (fun _ _ => (0, 0)))

/-- TTRN of a 16-bit fragment: the four registers carry one tag, which the result keeps (05 R168). -/
def execTtrnFragment (d a : BitVec 7) (m : BitVec 2) : State → Host.Outcome State Fault Refusal :=
  let tag (w : Wave) (batch : Word) : BitVec 6 := (w.grp a 0 (lowest (tileLanes m batch))).tag
  runTile { preTile m [.vec d 4 4, .vec a 4 4] with
            reach := allSlots m [.vec a 4 4]
            tags := fun w batch => firstLane (tileLanes m batch) (fun l =>
              !is16 (tag w batch) || (List.range 4).any (fun j => (w.grp a j l).tag != tag w batch)) } d 4
    (fun batch w =>
      let code (r c : Nat) : Nat :=
        let (l, j, e) := fragPlace 16 r c
        if (tileLanes m batch).getLsbD l then elemCode 16 e (w.grp a j l).val else 0
      (List.range 4).foldl (fun w' j => w'.writeReg (w.wb + d.toNat + j) batch (fun l =>
        let c := 8 * (l / 16) + 2 * j
        ⟨BitVec.ofNat 32 (packCodes 16 [code c (l % 16), code (c + 1) (l % 16)]), tag w batch⟩)) w)

/-- TTRN of an accumulator (05 R168). -/
def execTtrnAccumulator (d a : BitVec 7) (m : BitVec 2) : State → Host.Outcome State Fault Refusal :=
  runTile { preTile m [.vec d 8 8, .vec a 8 8] with
            reach := allSlots m [.vec a 8 8], tags := fun w batch => checkGrp a 8 1 w (tileLanes m batch) } d 8
    (fun batch w => w.writeAcc d batch (fun r c =>
      (if (tileLanes m batch).getLsbD (accPlace c r).1 then w.accWord a c r else 0, 0)))

/-- TACT: each active lane's own elements (05 R169). -/
def execTact (d a : BitVec 7) (f : BitVec 3) (m : BitVec 2) : State → Host.Outcome State Fault Refusal :=
  runTile { preTile m [.vec d 8 8, .vec a 8 8] with reserved := 2 ≤ m.toNat || 6 ≤ f.toNat, tags := checkGrp a 8 1 } d 8
    (fun batch w => w.writeAcc d batch (fun r c => actFn f.toNat (w.accWord a r c)))

/-- TCVT: an accumulator into a 16-bit fragment (05 R170). -/
def execTcvt (d a : BitVec 7) (s : BitVec 1) (t : BitVec 6) (m : BitVec 2) : State → Host.Outcome State Fault Refusal :=
  runTile { preTile m [.vec d 4 4, .vec a 8 8] with
            reserved := 2 ≤ m.toNat || !tcvtOk t, badOperand := fun _ => !tagDefined t, tags := checkGrp a 8 1 } d 4
    (fun batch w =>
      let r (j l : Nat) := packLane t .rne (s == 1) (fun e => (w.grp a (2 * j + e) l).val)
      ((List.range 4).foldl (fun w' j => w'.writeReg (w.wb + d.toNat + j) batch (fun l => ⟨(r j l).1, t⟩)) w).raise
        (flagsOver batch (fun l => (List.range 4).foldl (fun acc j => acc ||| (r j l).2) 0)))

/-- The reduction of a row's participating elements (05 R171). -/
def redRow (o : BitVec 2) (xs : List Word) : Word × Flags :=
  if o = 0 then (if xs.isEmpty then (0, 0) else sumF32 .rne false (xs.map f32))
  else match xs with
    | [] => (if o = 1 then 0xFF800000 else 0x7F800000, 0)
    | x :: rest => (rest.foldl (if o = 1 then fmax else fmin) (if (f32 x).isNan then nan32 else x), 0)

/-- TRED: each row's reduction in lanes m and m + 16 where active (05 R171). -/
def execTred (d a : BitVec 7) (o m : BitVec 2) : State → Host.Outcome State Fault Refusal :=
  runTile { preTile m [.vec d 1 1, .vec a 8 8] with
            reserved := 2 ≤ m.toNat || o == 3, reach := allSlots m [.vec a 8 8], tags := fun w batch => checkGrp a 8 1 w (tileLanes m batch) } d 1
    (fun batch w =>
      let row (r : Nat) : Word × Flags := redRow o ((List.range 16).filterMap (fun c =>
        if (tileLanes m batch).getLsbD (accPlace r c).1 then some (w.accWord a r c) else none))
      (w.writeField d batch (fun l => ⟨(row (l % 16)).1, 1⟩)).raise (flagsOver batch (fun l => (row (l % 16)).2)))

/-- TBIAS: column n's bias is lane n of vb, +0 where that lane is not read (05 R172). -/
def execTbias (d a b : BitVec 7) (m : BitVec 2) : State → Host.Outcome State Fault Refusal :=
  let biasLanes (batch : Word) : Word := tileLanes m batch &&& 0xFFFF
  runTile { preTile m [.vec d 8 8, .vec a 8 8, .vec b 1 1] with
            reach := fun w => allSlots m [.vec a 8 8] w ++
              (if m = 0 then (List.range 16).map (fun l => Site.register w.uid (cellAt (w.wb + b.toNat) l)) else [])
            tags := allChecks [fun w batch => checkGrp a 8 1 w (tileLanes m batch), fun w batch => checkGrp b 1 1 w (biasLanes batch)] } d 8
    (fun batch w => w.writeAcc d batch (fun r c =>
      let bias : Word := if (biasLanes batch).getLsbD c then (w.grp b 0 c).val else 0
      sumF32 .rne false [f32 (w.accWord a r c), f32 bias]))

end Sys2Proof.Machine
end

