-- ==== Sys2Proof/Machine/Zephyr.lean ====
section
/-! DEFINITION. Reset and boot, measurement, quotes, alarms, clock steps and soft errors (01 R49; 14 R398 to R403). -/

namespace Sys2Proof.Machine

/-! ### Boot and measurement (R398, R399) -/

/-- A measurement register: zero at reset (R398). -/
def Zephyr.pcmAt (z : Zephyr) (n : Nat) : List Byte := z.pcm.get (List.replicate 64 0) n

/-- Extend a measurement register with bytes (R398). -/
def Zephyr.extend (z : Zephyr) (n : Nat) (data : List Byte) : Zephyr :=
  { z with pcm := z.pcm.put n (Config.shake256 64 (z.pcmAt n ++ data)) }

/-- A key is accepted when its digest matches the fuse slot that KEYIDX names (R398). -/
def Zephyr.keyOk (z : Zephyr) (key : List Byte) (keyidx : Nat) : Bool :=
  match z.digests[keyidx]? with
  | some d => decide (keyidx < 4) && !d.isEmpty && Config.shake256 d.length key == d
  | none => false

/-- The boot ROM's verdict on an image (R398). -/
def Zephyr.imageOk (z : Zephyr) (image key sig : List Byte) (keyidx version : Nat) : Bool :=
  z.keyOk key keyidx && Config.slhVerify key sig (Config.shake256 64 image) && z.rollback ≤ version

/-- The response of the policy fuses to an alarm source (R400). -/
def Zephyr.response (z : Zephyr) (source : Nat) : Nat := z.policy.getD source 0 % 4

/-- An entry in the alarm log and interrupt 5 (R400; R396). -/
def State.logAlarm (s : State) (source : Nat) : State :=
  ({ s with zephyr := { s.zephyr with log := s.zephyr.log ++ [source] } }).interrupt 5

/-- DEVICE_RESET: the device as after reset, with its fuses, its key store, host memory and the own memory, which is persistent (09 R267);
Zephyr measures and verifies the control-core image, and the control cores run unless SIGNATURE's response keeps the device in the boot ROM
(R398, R400; log entry 30). -/
def evDeviceReset (image key sig : List Byte) (keyidx version : Nat) (s : State) : State :=
  let z0 := s.zephyr
  let z : Zephyr := { z0 with booted := false, pcm := [], quotes := [], halted := false }
  let s1 : State := { State.reset with
    mem := rekey s.did 0 s.mem, poison := s.rekeyLines 0, zephyr := z, agenda := s.agenda, choices := s.choices, fresh := s.fresh }
  let ok := z.imageOk image key sig keyidx version
  let s2 := if ok then s1 else s1.logAlarm 0
  if ok || z.response 0 == 0 then
    { s2 with zephyr := { s2.zephyr.extend 0 (Config.shake256 64 image) with booted := true } }
  else s2
def execDeviceReset (image key sig : List Byte) (keyidx version : Nat) : State → Host.Outcome State Fault Refusal :=
  event (evDeviceReset image key sig keyidx version)

/-- EXTEND: PCM1 to PCM7 (R398). -/
def evExtend (pcm : Nat) (data : List Byte) (s : State) : State :=
  if 1 ≤ pcm ∧ pcm ≤ 7 then { s with zephyr := s.zephyr.extend pcm data } else s
def execExtend (pcm : Nat) (data : List Byte) : State → Host.Outcome State Fault Refusal := controlEvent (evExtend pcm data)

/-- The policy fuses as bytes: two bits a source, HOSTREG above them (log entry 9). -/
def Zephyr.policyBytes (z : Zephyr) : List Byte :=
  bytesOf 2 ((List.range 6).foldl (fun n i => n + z.response i * 4 ^ i) 0 + if z.hostreg then 2 ^ 12 else 0)

/-- What a quote signs, concatenated (R399). -/
def Zephyr.quoteBytes (z : Zephyr) (nonce : List Byte) : List Byte :=
  nonce ++ (List.range 8).flatMap z.pcmAt ++ z.policyBytes ++ bytesOf 8 z.rollback ++ z.serial

/-- QUOTE: refused until the key store is provisioned; nonces have 32 bytes (R399, R400). -/
def evQuote (nonce : List Byte) (s : State) : State :=
  let z := s.zephyr
  if z.provisioned ∧ nonce.length = 32 then
    { s with zephyr := { z with quotes := z.quotes ++ [Config.slhSign (Config.shake256 64 (z.quoteBytes nonce))] } }
  else s
def execQuote (nonce : List Byte) : State → Host.Outcome State Fault Refusal := controlEvent (evQuote nonce)

/-! ### Alarms (R400) -/

/-- A switched-in context halts as by operation 5 and receives an alarm record, which has halted its groups (R400; 13 R368, R375). -/
def State.alarmContext (s : State) (ctx : Nat) : State :=
  let gs := (s.groupsOf ctx).filter (fun g => !((s.group g).any Group.halted))
  let s1 := ((s.groupsOf ctx).foldl State.haltGroup s).modCtx ctx (fun c => { c with frozen := true })
  let (s2, seq) := s1.unitFault ctx .alarm 8 (fun r => { r with groupHalt := !gs.isEmpty }) id
  gs.foldl (fun s g => s.modGroup g (fun x => { x with haltSeq := some seq })) s2

/-- The alarm sources of a set, in their order. -/
def alarmSources (sources : BitVec 6) : List Nat := (List.range 6).filter (fun i => sources.getLsbD i)

/-- The strongest response to coinciding alarms (R400). -/
def Zephyr.strongest (z : Zephyr) (ns : List Nat) : Nat := (ns.map z.response).foldl max 0

/-- ALARM: the sources that coincide are logged in their order, and the strongest fused response applies; before the control cores run they
are only logged (R400). -/
def evAlarm (sources : BitVec 6) (s : State) : State :=
  let ns := alarmSources sources
  let r := s.zephyr.strongest ns
  let s1 := ns.foldl State.logAlarm s
  if r = 0 ∨ s.zephyr.booted = false then s1
  else
    let s2 : State := { s1 with zephyr := { s1.zephyr with halted := true, provisioned := s1.zephyr.provisioned && r == 1 } }
    ((s2.ctxs.filter (fun (c : Nat × Ctx) => c.2.state == 1)).map Prod.fst).foldl State.alarmContext s2
def execAlarm (sources : BitVec 6) : State → Host.Outcome State Fault Refusal := event (evAlarm sources)

/-- The key store is provisioned again, which ends the refusal of quotes (R400; log entry 30). -/
def State.provision (s : State) : State := { s with zephyr := { s.zephyr with provisioned := true } }

/-! ### Power (R402, R403) -/

/-- CLOCK_STEP_DOWN: from 1.05 GHz in steps of 50 MHz, to no lower than 600 MHz; CLKSTEP and interrupt 6. -/
def evClockStepDown (s : State) : State :=
  if s.regs.clkstep < 9 then (s.setRegs { s.regs with clkstep := s.regs.clkstep + 1 }).interrupt 6 else s
def execClockStepDown : State → Host.Outcome State Fault Refusal := event evClockStepDown

/-- CLOCK_STEP_UP. -/
def evClockStepUp (s : State) : State :=
  if 0 < s.regs.clkstep then (s.setRegs { s.regs with clkstep := s.regs.clkstep - 1 }).interrupt 6 else s
def execClockStepUp : State → Host.Outcome State Fault Refusal := event evClockStepUp

/-! ### Soft errors (R401; 09 R277) -/

/-- The storage an error strikes, a wave's by its uid. -/
def State.siteOf (s : State) (site : Site) : Option Site :=
  match site with
  | .register k cell => (s.waves.find? k).map (fun w => .register w.uid cell)
  | .latch k e l => (s.waves.find? k).map (fun w => .latch w.uid e l)
  | .scalar k r => (s.waves.find? k).map (fun w => .scalar w.uid r)
  | x => some x

/-- An uncorrectable error in a line of an L1: each copy of it there is struck (R401; 09 R272, R277). -/
def L1.strike (l : L1) (line : Nat) : L1 :=
  { clean := l.clean.map (fun (c : Nat × List Byte) => if c.1 = line then (c.1, []) else c)
    inv := l.inv.map (fun i => if i.line = line then { i with bytes := [] } else i)
    dirty := l.dirty.map (fun (d : Nat × DByte) => if lineOf d.1 = line then (d.1, { d.2 with bad := true }) else d)
    excl := l.excl
    upd := l.upd.map (fun u => if u.line = line then { u with bad := true } else u)
    hold := l.hold.map (fun h => if h.tile = line / 2 then { h with bad := true } else h) }

/-- An uncorrectable error in a line of a treelet cache (R401). -/
def State.strikeTreelet (s : State) (unit line : Nat) : State :=
  let strike (i : Inv) : Inv := if i.line = line then { i with bytes := [] } else i
  { s with treelets := s.treelets.map (fun (t : Nat × List Inv) => (t.1, if t.1 = unit then t.2.map strike else t.2)) }

/-- A line of own or host memory is poisoned. -/
def State.poisonLine (s : State) (line : Nat) : State :=
  if s.poison.contains line || !s.isLocal (128 * line) then s else { s with poison := s.poison ++ [line] }

/-- SOFT_ERROR: a correctable one is logged; an uncorrectable one poisons a line of memory or a copy of it, or spoils a storage until its
consumer is treated as under R277 (log entry 56). -/
def evSoftError (site : Site) (correctable : Bool) (s : State) : State :=
  if correctable then (s.setRegs { s.regs with ecclog := (s.regs.ecclog + 1) % 2 ^ 32 }).interrupt 4
  else match s.siteOf site with
    | none => s
    | some (.memory key) => s.poisonLine (lineOf key)
    | some (.l1 cid line) => s.setL1 cid ((s.l1 cid).strike line)
    | some (.l2 line) => if (s.l2.find? line).isSome then { s with l2 := s.l2.put line [] } else s.poisonLine line
    | some (.treelet unit line) => s.strikeTreelet unit line
    | some x => if s.spoiled.contains x then s else { s with spoiled := s.spoiled ++ [x] }
def execSoftError (site : Site) (correctable : Bool) : State → Host.Outcome State Fault Refusal := event (evSoftError site correctable)

end Sys2Proof.Machine
end

