-- ==== Sys2Proof/Machine/Dispatch.lean ====
section
/-! DEFINITION. One arm for each instruction: a direct call of its meaning. -/

namespace Sys2Proof.Machine

def exec (i : Instr) (s : State) : Host.Outcome State Fault Refusal :=
  match i with
  | .iadd d a b g h => Sys2Proof.Machine.execIadd d a b g h s
  | .iadds d a b g h => Sys2Proof.Machine.execIadds d a b g h s
  | .isub d a b g h => Sys2Proof.Machine.execIsub d a b g h s
  | .isubs d a b g h => Sys2Proof.Machine.execIsubs d a b g h s
  | .imul d a b g h => Sys2Proof.Machine.execImul d a b g h s
  | .imulh d a b g h => Sys2Proof.Machine.execImulh d a b g h s
  | .imulhu d a b g h => Sys2Proof.Machine.execImulhu d a b g h s
  | .imad d a b g h => Sys2Proof.Machine.execImad d a b g h s
  | .land d a b g h => Sys2Proof.Machine.execLand d a b g h s
  | .lor d a b g h => Sys2Proof.Machine.execLor d a b g h s
  | .lxor d a b g h => Sys2Proof.Machine.execLxor d a b g h s
  | .andn d a b g h => Sys2Proof.Machine.execAndn d a b g h s
  | .shl d a b g h => Sys2Proof.Machine.execShl d a b g h s
  | .shr d a b g h => Sys2Proof.Machine.execShr d a b g h s
  | .sar d a b g h => Sys2Proof.Machine.execSar d a b g h s
  | .imin d a b g h => Sys2Proof.Machine.execImin d a b g h s
  | .imax d a b g h => Sys2Proof.Machine.execImax d a b g h s
  | .umin d a b g h => Sys2Proof.Machine.execUmin d a b g h s
  | .umax d a b g h => Sys2Proof.Machine.execUmax d a b g h s
  | .lea2 d a b g => Sys2Proof.Machine.execLea2 d a b g s
  | .lea3 d a b g => Sys2Proof.Machine.execLea3 d a b g s
  | .mov d a g h => Sys2Proof.Machine.execMov d a g h s
  | .lnot d a g h => Sys2Proof.Machine.execLnot d a g h s
  | .neg d a g h => Sys2Proof.Machine.execNeg d a g h s
  | .iabs d a g h => Sys2Proof.Machine.execIabs d a g h s
  | .popc d a g h => Sys2Proof.Machine.execPopc d a g h s
  | .clz d a g h => Sys2Proof.Machine.execClz d a g h s
  | .ctz d a g h => Sys2Proof.Machine.execCtz d a g h s
  | .brev d a g h => Sys2Proof.Machine.execBrev d a g h s
  | .bswap d a g h => Sys2Proof.Machine.execBswap d a g h s
  | .laneid d g h => Sys2Proof.Machine.execLaneid d g h s
  | .fibid d g h => Sys2Proof.Machine.execFibid d g h s
  | .smovi d i1 => Sys2Proof.Machine.execSmovi d i1 s
  | .iaddi d a i1 => Sys2Proof.Machine.execIaddi d a i1 s
  | .imuli d a i1 => Sys2Proof.Machine.execImuli d a i1 s
  | .andi d a i1 => Sys2Proof.Machine.execAndi d a i1 s
  | .ori d a i1 => Sys2Proof.Machine.execOri d a i1 s
  | .xori d a i1 => Sys2Proof.Machine.execXori d a i1 s
  | .shli d a n => Sys2Proof.Machine.execShli d a n s
  | .shri d a n => Sys2Proof.Machine.execShri d a n s
  | .sari d a n => Sys2Proof.Machine.execSari d a n s
  | .icmp c p a b g => Sys2Proof.Machine.execIcmp c p a b g s
  | .ucmp c p a b g => Sys2Proof.Machine.execUcmp c p a b g s
  | .fcmp c p a b g => Sys2Proof.Machine.execFcmp c p a b g s
  | .hcmp c p a b g => Sys2Proof.Machine.execHcmp c p a b g s
  | .icmpi c p a i1 => Sys2Proof.Machine.execIcmpi c p a i1 s
  | .plog d n a o m b g => Sys2Proof.Machine.execPlog d n a o m b g s
  | .pmov d a m g => Sys2Proof.Machine.execPmov d a m g s
  | .vote d n a m g => Sys2Proof.Machine.execVote d n a m g s
  | .fadd d a b g h => Sys2Proof.Machine.execFadd d a b g h s
  | .fsub d a b g h => Sys2Proof.Machine.execFsub d a b g h s
  | .fmul d a b g h => Sys2Proof.Machine.execFmul d a b g h s
  | .ffma d a b g h => Sys2Proof.Machine.execFfma d a b g h s
  | .fmin d a b g h => Sys2Proof.Machine.execFmin d a b g h s
  | .fmax d a b g h => Sys2Proof.Machine.execFmax d a b g h s
  | .fclamp d a b g h => Sys2Proof.Machine.execFclamp d a b g h s
  | .fmov d a g h => Sys2Proof.Machine.execFmov d a g h s
  | .fneg d a g h => Sys2Proof.Machine.execFneg d a g h s
  | .fabs d a g h => Sys2Proof.Machine.execFabs d a g h s
  | .frcp d a g h => Sys2Proof.Machine.execFrcp d a g h s
  | .frsq d a g h => Sys2Proof.Machine.execFrsq d a g h s
  | .fsqrt d a g h => Sys2Proof.Machine.execFsqrt d a g h s
  | .fexp2 d a g h => Sys2Proof.Machine.execFexp2 d a g h s
  | .flog2 d a g h => Sys2Proof.Machine.execFlog2 d a g h s
  | .fsin d a g h => Sys2Proof.Machine.execFsin d a g h s
  | .fcos d a g h => Sys2Proof.Machine.execFcos d a g h s
  | .ffloor d a g h => Sys2Proof.Machine.execFfloor d a g h s
  | .fceil d a g h => Sys2Proof.Machine.execFceil d a g h s
  | .ftrunc d a g h => Sys2Proof.Machine.execFtrunc d a g h s
  | .frint d a g h => Sys2Proof.Machine.execFrint d a g h s
  | .ffract d a g h => Sys2Proof.Machine.execFfract d a g h s
  | .fsign d a g h => Sys2Proof.Machine.execFsign d a g h s
  | .hadd2 d a b g h => Sys2Proof.Machine.execHadd2 d a b g h s
  | .hsub2 d a b g h => Sys2Proof.Machine.execHsub2 d a b g h s
  | .hmul2 d a b g h => Sys2Proof.Machine.execHmul2 d a b g h s
  | .hfma2 d a b g h => Sys2Proof.Machine.execHfma2 d a b g h s
  | .hmin2 d a b g h => Sys2Proof.Machine.execHmin2 d a b g h s
  | .hmax2 d a b g h => Sys2Proof.Machine.execHmax2 d a b g h s
  | .dot2h d a b g h => Sys2Proof.Machine.execDot2h d a b g h s
  | .dot4q d a b g h => Sys2Proof.Machine.execDot4q d a b g h s
  | .cadd d a b g => Sys2Proof.Machine.execCadd d a b g s
  | .csub d a b g => Sys2Proof.Machine.execCsub d a b g s
  | .cmul d a b g => Sys2Proof.Machine.execCmul d a b g s
  | .cfma d a b g => Sys2Proof.Machine.execCfma d a b g s
  | .ccmul d a b g => Sys2Proof.Machine.execCcmul d a b g s
  | .cmag2 d a g => Sys2Proof.Machine.execCmag2 d a g s
  | .cexpi d a g => Sys2Proof.Machine.execCexpi d a g s
  | .cscale d a b g => Sys2Proof.Machine.execCscale d a b g s
  | .cvt d a s1 t g h => Sys2Proof.Machine.execCvt d a s1 t g h s
  | .pack d a s1 t g h => Sys2Proof.Machine.execPack d a s1 t g h s
  | .unpackWiden d a k g h => Sys2Proof.Machine.execUnpackWiden d a k g h s
  | .unpackBlock d a g => Sys2Proof.Machine.execUnpackBlock d a g s
  | .settag d a t g h => Sys2Proof.Machine.execSettag d a t g h s
  | .gettag d a g h => Sys2Proof.Machine.execGettag d a g h s
  | .shfl d a b g h => Sys2Proof.Machine.execShfl d a b g h s
  | .xbar d a n g h => Sys2Proof.Machine.execXbar d a n g h s
  | .xptl n a g => Sys2Proof.Machine.execXptl n a g s
  | .tmma d a b m => Sys2Proof.Machine.execTmma d a b m s
  | .tmmat d a b m => Sys2Proof.Machine.execTmmat d a b m s
  | .tzero d m => Sys2Proof.Machine.execTzero d m s
  | .ttrnFragment d a m => Sys2Proof.Machine.execTtrnFragment d a m s
  | .ttrnAccumulator d a m => Sys2Proof.Machine.execTtrnAccumulator d a m s
  | .tact d a f m => Sys2Proof.Machine.execTact d a f m s
  | .tcvt d a s1 t m => Sys2Proof.Machine.execTcvt d a s1 t m s
  | .tred d a o m => Sys2Proof.Machine.execTred d a o m s
  | .tbias d a b m => Sys2Proof.Machine.execTbias d a b m s
  | .ldb d a i1 => Sys2Proof.Machine.execLdb d a i1 s
  | .ldh d a i1 => Sys2Proof.Machine.execLdh d a i1 s
  | .ldw d a i1 => Sys2Proof.Machine.execLdw d a i1 s
  | .ldd d a i1 => Sys2Proof.Machine.execLdd d a i1 s
  | .ldq d a i1 => Sys2Proof.Machine.execLdq d a i1 s
  | .stb d a i1 => Sys2Proof.Machine.execStb d a i1 s
  | .sth d a i1 => Sys2Proof.Machine.execSth d a i1 s
  | .stw d a i1 => Sys2Proof.Machine.execStw d a i1 s
  | .std d a i1 => Sys2Proof.Machine.execStd d a i1 s
  | .stq d a i1 => Sys2Proof.Machine.execStq d a i1 s
  | .ldv d a i1 => Sys2Proof.Machine.execLdv d a i1 s
  | .ldf d a t g => Sys2Proof.Machine.execLdf d a t g s
  | .lde d a t g => Sys2Proof.Machine.execLde d a t g s
  | .accb d a i1 => Sys2Proof.Machine.execAccb d a i1 s
  | .tld d a b m => Sys2Proof.Machine.execTld d a b m s
  | .tst d a b m => Sys2Proof.Machine.execTst d a b m s
  | .aadd d a b c => Sys2Proof.Machine.execAadd d a b c s
  | .aaddNr a b c => Sys2Proof.Machine.execAaddNr a b c s
  | .afadd d a b c => Sys2Proof.Machine.execAfadd d a b c s
  | .afaddNr a b c => Sys2Proof.Machine.execAfaddNr a b c s
  | .amin d a b c => Sys2Proof.Machine.execAmin d a b c s
  | .aminNr a b c => Sys2Proof.Machine.execAminNr a b c s
  | .amax d a b c => Sys2Proof.Machine.execAmax d a b c s
  | .amaxNr a b c => Sys2Proof.Machine.execAmaxNr a b c s
  | .aumin d a b c => Sys2Proof.Machine.execAumin d a b c s
  | .auminNr a b c => Sys2Proof.Machine.execAuminNr a b c s
  | .aumax d a b c => Sys2Proof.Machine.execAumax d a b c s
  | .aumaxNr a b c => Sys2Proof.Machine.execAumaxNr a b c s
  | .aand d a b c => Sys2Proof.Machine.execAand d a b c s
  | .aandNr a b c => Sys2Proof.Machine.execAandNr a b c s
  | .aor d a b c => Sys2Proof.Machine.execAor d a b c s
  | .aorNr a b c => Sys2Proof.Machine.execAorNr a b c s
  | .axor d a b c => Sys2Proof.Machine.execAxor d a b c s
  | .axorNr a b c => Sys2Proof.Machine.execAxorNr a b c s
  | .axchg d a b c => Sys2Proof.Machine.execAxchg d a b c s
  | .axchgNr a b c => Sys2Proof.Machine.execAxchgNr a b c s
  | .acas d a b c => Sys2Proof.Machine.execAcas d a b c s
  | .acasNr a b c => Sys2Proof.Machine.execAcasNr a b c s
  | .enq d a b c => Sys2Proof.Machine.execEnq d a b c s
  | .deq d a b c => Sys2Proof.Machine.execDeq d a b c s
  | .monw k a b c => Sys2Proof.Machine.execMonw k a b c s
  | .phase c => Sys2Proof.Machine.execPhase c s
  | .bar c => Sys2Proof.Machine.execBar c s
  | .br p n m s1 => Sys2Proof.Machine.execBr p n m s1 s
  | .brx a g => Sys2Proof.Machine.execBrx a g s
  | .call d i1 => Sys2Proof.Machine.execCall d i1 s
  | .ret a g => Sys2Proof.Machine.execRet a g s
  | .fork d i1 => Sys2Proof.Machine.execFork d i1 s
  | .fend g => Sys2Proof.Machine.execFend g s
  | .join n => Sys2Proof.Machine.execJoin n s
  | .waitc x c s1 l => Sys2Proof.Machine.execWaitc x c s1 l s
  | .sadd d a b => Sys2Proof.Machine.execSadd d a b s
  | .ssub d a b => Sys2Proof.Machine.execSsub d a b s
  | .smul d a b => Sys2Proof.Machine.execSmul d a b s
  | .smulh d a b => Sys2Proof.Machine.execSmulh d a b s
  | .sand d a b => Sys2Proof.Machine.execSand d a b s
  | .sor d a b => Sys2Proof.Machine.execSor d a b s
  | .sxor d a b => Sys2Proof.Machine.execSxor d a b s
  | .sshl d a b => Sys2Proof.Machine.execSshl d a b s
  | .sshr d a b => Sys2Proof.Machine.execSshr d a b s
  | .ssar d a b => Sys2Proof.Machine.execSsar d a b s
  | .smin d a b => Sys2Proof.Machine.execSmin d a b s
  | .smax d a b => Sys2Proof.Machine.execSmax d a b s
  | .sumin d a b => Sys2Proof.Machine.execSumin d a b s
  | .sumax d a b => Sys2Proof.Machine.execSumax d a b s
  | .smov d a => Sys2Proof.Machine.execSmov d a s
  | .sslt d a b => Sys2Proof.Machine.execSslt d a b s
  | .sfadd d a b => Sys2Proof.Machine.execSfadd d a b s
  | .sfsub d a b => Sys2Proof.Machine.execSfsub d a b s
  | .sfmul d a b => Sys2Proof.Machine.execSfmul d a b s
  | .sffma d a b => Sys2Proof.Machine.execSffma d a b s
  | .sfmin d a b => Sys2Proof.Machine.execSfmin d a b s
  | .sfmax d a b => Sys2Proof.Machine.execSfmax d a b s
  | .sfrcp d a => Sys2Proof.Machine.execSfrcp d a s
  | .sfrsq d a => Sys2Proof.Machine.execSfrsq d a s
  | .sfsqrt d a => Sys2Proof.Machine.execSfsqrt d a s
  | .scvtfi d a => Sys2Proof.Machine.execScvtfi d a s
  | .scvtif d a => Sys2Proof.Machine.execScvtif d a s
  | .sfcmplt d a b => Sys2Proof.Machine.execSfcmplt d a b s
  | .saddi d a i1 => Sys2Proof.Machine.execSaddi d a i1 s
  | .vmovi d i1 => Sys2Proof.Machine.execVmovi d i1 s
  | .imx v next => Sys2Proof.Machine.execImx v next s
  | .cplin d a q => Sys2Proof.Machine.execCplin d a q s
  | .cp2d d a q => Sys2Proof.Machine.execCp2d d a q s
  | .cpgath d a q => Sys2Proof.Machine.execCpgath d a q s
  | .cpscat d a q => Sys2Proof.Machine.execCpscat d a q s
  | .cpexp d a q => Sys2Proof.Machine.execCpexp d a q s
  | .cpcmp d a q => Sys2Proof.Machine.execCpcmp d a q s
  | .rcarm d a q => Sys2Proof.Machine.execRcarm d a q s
  | .rcwait d a q => Sys2Proof.Machine.execRcwait d a q s
  | .gtopk d a q => Sys2Proof.Machine.execGtopk d a q s
  | .gbuck d a q => Sys2Proof.Machine.execGbuck d a q s
  | .gmerge d a q => Sys2Proof.Machine.execGmerge d a q s
  | .ghist d a q => Sys2Proof.Machine.execGhist d a q s
  | .gscan d a q => Sys2Proof.Machine.execGscan d a q s
  | .gperm d a q => Sys2Proof.Machine.execGperm d a q s
  | .cxfork d a q => Sys2Proof.Machine.execCxfork d a q s
  | .cxrdv d a q => Sys2Proof.Machine.execCxrdv d a q s
  | .cxbond d a q => Sys2Proof.Machine.execCxbond d a q s
  | .cxdense d a q => Sys2Proof.Machine.execCxdense d a q s
  | .qfence d a q => Sys2Proof.Machine.execQfence d a q s
  | .qstat d a q => Sys2Proof.Machine.execQstat d a q s
  | .genray d a g => Sys2Proof.Machine.execGenray d a g s
  | .trace g => Sys2Proof.Machine.execTrace g s
  | .accept g => Sys2Proof.Machine.execAccept g s
  | .ignore g => Sys2Proof.Machine.execIgnore g s
  | .termray g => Sys2Proof.Machine.execTermray g s
  | .spawn d a g => Sys2Proof.Machine.execSpawn d a g s
  | .rayld d c w g => Sys2Proof.Machine.execRayld d c w g s
  | .rayst d c w g => Sys2Proof.Machine.execRayst d c w g s
  | .raydone g => Sys2Proof.Machine.execRaydone g s
  | .binkey d g => Sys2Proof.Machine.execBinkey d g s
  | .childq d g => Sys2Proof.Machine.execChildq d g s
  | .item c a g => Sys2Proof.Machine.execItem c a g s
  | .launch d a g => Sys2Proof.Machine.execLaunch d a g s
  | .nop => Sys2Proof.Machine.execNop s
  | .trap n g => Sys2Proof.Machine.execTrap n g s
  | .bkpt n g => Sys2Proof.Machine.execBkpt n g s
  | .getsr d e s1 g => Sys2Proof.Machine.execGetsr d e s1 g s
  | .setsr e a g => Sys2Proof.Machine.execSetsr e a g s
  | .rdcyc d g => Sys2Proof.Machine.execRdcyc d g s
  | .yield => Sys2Proof.Machine.execYield s
  | .region => Sys2Proof.Machine.execRegion s
  | .winb n => Sys2Proof.Machine.execWinb n s
  | .swinb n => Sys2Proof.Machine.execSwinb n s
  | .regreq n => Sys2Proof.Machine.execRegreq n s
  | .regrel n => Sys2Proof.Machine.execRegrel n s
  | .rdlane d a g => Sys2Proof.Machine.execRdlane d a g s
  | .wrlane d a g => Sys2Proof.Machine.execWrlane d a g s
  | .bcast d a s1 g => Sys2Proof.Machine.execBcast d a s1 g s
  | .prefh a g => Sys2Proof.Machine.execPrefh a g s
  | .parkc n => Sys2Proof.Machine.execParkc n s
  | .tileOpComplete wave => Sys2Proof.Machine.execTileOpComplete wave s
  | .illegalEncoding word => Sys2Proof.Machine.execIllegalEncoding word s
  | .fetchFault va => Sys2Proof.Machine.execFetchFault va s
  | .queuedCommandStart ctx q => Sys2Proof.Machine.execQueuedCommandStart ctx q s
  | .copyUnit ctx q => Sys2Proof.Machine.execCopyUnit ctx q s
  | .gseRow ctx q => Sys2Proof.Machine.execGseRow ctx q s
  | .macRun ctx cl mism tile => Sys2Proof.Machine.execMacRun ctx cl mism tile s
  | .queuedCommandComplete ctx q => Sys2Proof.Machine.execQueuedCommandComplete ctx q s
  | .loadb ctx cl => Sys2Proof.Machine.execLoadb ctx cl s
  | .contract ctx cl => Sys2Proof.Machine.execContract ctx cl s
  | .dense ctx cl => Sys2Proof.Machine.execDense ctx cl s
  | .conv3 ctx cl => Sys2Proof.Machine.execConv3 ctx cl s
  | .ups2 ctx cl => Sys2Proof.Machine.execUps2 ctx cl s
  | .act ctx cl => Sys2Proof.Machine.execAct ctx cl s
  | .perm ctx cl => Sys2Proof.Machine.execPerm ctx cl s
  | .storeb ctx cl => Sys2Proof.Machine.execStoreb ctx cl s
  | .splitParts ctx cl => Sys2Proof.Machine.execSplitParts ctx cl s
  | .endSplit ctx cl => Sys2Proof.Machine.execEndSplit ctx cl s
  | .env ctx cl => Sys2Proof.Machine.execEnv ctx cl s
  | .endProg ctx cl => Sys2Proof.Machine.execEndProg ctx cl s
  | .parkcTimeout wave => Sys2Proof.Machine.execParkcTimeout wave s
  | .loadLands wave idx => Sys2Proof.Machine.execLoadLands wave idx s
  | .storePerformed wave idx => Sys2Proof.Machine.execStorePerformed wave idx s
  | .monwRecheck slice => Sys2Proof.Machine.execMonwRecheck slice s
  | .regionJoin tile => Sys2Proof.Machine.execRegionJoin tile s
  | .drainCombine idx => Sys2Proof.Machine.execDrainCombine idx s
  | .drainAck idx => Sys2Proof.Machine.execDrainAck idx s
  | .regionRead tile => Sys2Proof.Machine.execRegionRead tile s
  | .l1Evict cid line => Sys2Proof.Machine.execL1Evict cid line s
  | .waveRetire wave => Sys2Proof.Machine.execWaveRetire wave s
  | .regreqGrant cid part => Sys2Proof.Machine.execRegreqGrant cid part s
  | .spillWave cid part => Sys2Proof.Machine.execSpillWave cid part s
  | .spillReturn wave => Sys2Proof.Machine.execSpillReturn wave s
  | .monwSpill wave => Sys2Proof.Machine.execMonwSpill wave s
  | .waveExchange cid part => Sys2Proof.Machine.execWaveExchange cid part s
  | .waveAgeBoost wave => Sys2Proof.Machine.execWaveAgeBoost wave s
  | .lqbell n => Sys2Proof.Machine.execLqbell n s
  | .launchAccept n => Sys2Proof.Machine.execLaunchAccept n s
  | .groupPlace => Sys2Proof.Machine.execGroupPlace s
  | .placementReserve lid => Sys2Proof.Machine.execPlacementReserve lid s
  | .launchComplete lid => Sys2Proof.Machine.execLaunchComplete lid s
  | .rayTraverse ray => Sys2Proof.Machine.execRayTraverse ray s
  | .binAgeFlush bin => Sys2Proof.Machine.execBinAgeFlush bin s
  | .rayRefill cl ctx => Sys2Proof.Machine.execRayRefill cl ctx s
  | .groupHaltComplete group => Sys2Proof.Machine.execGroupHaltComplete group s
  | .resume ctx seq => Sys2Proof.Machine.execResume ctx seq s
  | .skip ctx seq => Sys2Proof.Machine.execSkip ctx seq s
  | .cancel ctx seq => Sys2Proof.Machine.execCancel ctx seq s
  | .kill ctx seq => Sys2Proof.Machine.execKill ctx seq s
  | .trapreplyInvalid value => Sys2Proof.Machine.execTrapreplyInvalid value s
  | .tqerrClear value => Sys2Proof.Machine.execTqerrClear value s
  | .engineStatusClear reg value => Sys2Proof.Machine.execEngineStatusClear reg value s
  | .ctxNone ctx => Sys2Proof.Machine.execCtxNone ctx s
  | .switchIn ctx => Sys2Proof.Machine.execSwitchIn ctx s
  | .switchOut ctx => Sys2Proof.Machine.execSwitchOut ctx s
  | .killContext ctx => Sys2Proof.Machine.execKillContext ctx s
  | .killLaunch ctx => Sys2Proof.Machine.execKillLaunch ctx s
  | .haltContext ctx => Sys2Proof.Machine.execHaltContext ctx s
  | .ctxReservedOp ctx op => Sys2Proof.Machine.execCtxReservedOp ctx op s
  | .contextOpComplete => Sys2Proof.Machine.execContextOpComplete s
  | .invalidationRequest ctx lo hi => Sys2Proof.Machine.execInvalidationRequest ctx lo hi s
  | .invalidationComplete => Sys2Proof.Machine.execInvalidationComplete s
  | .domainWrite value => Sys2Proof.Machine.execDomainWrite value s
  | .linkctlWrite n value => Sys2Proof.Machine.execLinkctlWrite n value s
  | .registerWrite reg value => Sys2Proof.Machine.execRegisterWrite reg value s
  | .linkUp port did => Sys2Proof.Machine.execLinkUp port did s
  | .flitReceive port flit => Sys2Proof.Machine.execFlitReceive port flit s
  | .nakReceive port ack => Sys2Proof.Machine.execNakReceive port ack s
  | .linkRead port => Sys2Proof.Machine.execLinkRead port s
  | .linkWrite port => Sys2Proof.Machine.execLinkWrite port s
  | .linkAtomic port => Sys2Proof.Machine.execLinkAtomic port s
  | .linkEnq port => Sys2Proof.Machine.execLinkEnq port s
  | .linkDeq port => Sys2Proof.Machine.execLinkDeq port s
  | .linkMonw port => Sys2Proof.Machine.execLinkMonw port s
  | .linkInvalidate port => Sys2Proof.Machine.execLinkInvalidate port s
  | .linkDrain port => Sys2Proof.Machine.execLinkDrain port s
  | .linkResponse port => Sys2Proof.Machine.execLinkResponse port s
  | .linkWake port => Sys2Proof.Machine.execLinkWake port s
  | .linkLost peer => Sys2Proof.Machine.execLinkLost peer s
  | .hostRead reg addr len => Sys2Proof.Machine.execHostRead reg addr len s
  | .hostWrite reg value addr data => Sys2Proof.Machine.execHostWrite reg value addr data s
  | .deviceReset image key sig keyidx version => Sys2Proof.Machine.execDeviceReset image key sig keyidx version s
  | .extend pcm data => Sys2Proof.Machine.execExtend pcm data s
  | .quote nonce => Sys2Proof.Machine.execQuote nonce s
  | .alarm sources => Sys2Proof.Machine.execAlarm sources s
  | .clockStepDown => Sys2Proof.Machine.execClockStepDown s
  | .clockStepUp => Sys2Proof.Machine.execClockStepUp s
  | .controlCoreRead addr len => Sys2Proof.Machine.execControlCoreRead addr len s
  | .controlCoreWrite addr data => Sys2Proof.Machine.execControlCoreWrite addr data s
  | .softError site correctable => Sys2Proof.Machine.execSoftError site correctable s

end Sys2Proof.Machine
end

