-- ==== Sys2Proof/Machine/Turn.lean ====
section
/-! DEFINITION. Whose turn a step performs: an issue of a wave, an event, cycles passing; and what happens next when nothing is chosen
(01 R15, R16; 03 R92; 04 R132; 10 R311 to R314; log entry 1). -/

namespace Sys2Proof.Machine

/-! ### Issue limits (10 R312) -/

/-- The class of an instruction for the limits: 1 memory, 2 tile, 3 ENG, RAY or SYS, 0 the rest. -/
def issueClass (w : Word) : Nat :=
  let op := w.toNat / 2 ^ 25
  if 0x50 ≤ op ∧ op ≤ 0x6F then 1 else if 0x48 ≤ op ∧ op ≤ 0x4F then 2 else if 0x7C ≤ op ∧ op ≤ 0x7E then 3 else 0

/-- What a partition has issued in this cycle: waves and classes. -/
def State.issuedNow (s : State) (k : Nat) : List (Nat × Nat) := (s.core (cidOf k)).issued.get [] (partOf k)

/-- At most two instructions a cycle, of different waves, at most one of a limited class. -/
def State.mayIssue (s : State) (k cls : Nat) : Bool :=
  let l := s.issuedNow k
  l.length < 2 && !l.any (fun x => x.1 == k || (cls != 0 && x.2 == cls))

/-- Note an issue of this cycle. -/
def State.noteIssue (s : State) (k cls : Nat) : State :=
  let c := s.core (cidOf k)
  s.setCore (cidOf k) { c with issued := c.issued.put (partOf k) (s.issuedNow k ++ [(k, cls)]) }

/-! ### Fetch and issue (01 R15; 03 R92; 04 R132) -/

/-- The instruction at a PC with its first word: IMX takes its follower with it; a word that no row of the table matches, and a word that
cannot be fetched, have events of their own; nothing while a line is on its way. -/
def State.fetchInstr (s : State) (cid ctx cls : Nat) (pc : Addr) : State × Option (Instr × Word) :=
  match s.fetchWord cid ctx pc.toNat cls with
  | (s1, .fault _ _) => (s1, some (.fetchFault pc, 0))
  | (s1, .miss) => (s1, none)
  | (s1, .word w) =>
    if bitsAt 25 7 w = 0x7F then
      match s1.fetchWord cid ctx (pc + 4).toNat cls with
      | (s2, .fault _ _) => (s2, some (.fetchFault (pc + 4), w))
      | (s2, .miss) => (s2, none)
      | (s2, .word n) => (s2, some (.imx (bitsAt 0 25 w) n, w))
    else (s1, some ((decodeWord w 0).getD (.illegalEncoding w), w))

/-- A wave may try to issue: active, in its slot, not stopped by a halt, in no wait but that of an issue to be tried again (01 R16; 10 R312). -/
def Wave.mayTry (w : Wave) : Bool := w.active && w.resident && !w.isStopped && (w.wait.isNone || w.retrying)

/-- The class of the instruction that counts: an IMX counts as its follower (03 R92). -/
def turnClass (i : Instr) (w : Word) : Nat :=
  match i with
  | .imx _ next => issueClass next
  | _ => issueClass w

/-- The wave has not issued: its instruction waits (10 R311). -/
def State.waiting (s : State) (k : Nat) : Bool := (s.waves.find? k).any Wave.retrying

/-- An instruction that has issued counts against the limits of this cycle; one that waits does not (10 R312). -/
def State.charge (s : State) (i : Instr) : State :=
  match s.cur with
  | none => s
  | some iss => if s.waiting iss.wave then s else s.noteIssue iss.wave (turnClass i iss.word)

/-- A wave's next instruction as the issue under way. -/
def State.present (s : State) (k : Nat) (w : Wave) : State × Option Instr :=
  match w.batch with
  | none => (s, none)
  | some (pc, batch) =>
    match s.fetchInstr (cidOf k) w.ctx (w.prio % 4) pc with
    | (s1, none) => (s1, none)
    | (s1, some (i, word)) => ({ s1 with cur := some { wave := k, batch := batch, pc := pc, len := 4, word := word, ext := none } }, some i)

/-- The state after a wave's next instruction, where that waits. -/
def State.waitsOn (s : State) (k : Nat) (i : Instr) : Option State :=
  match exec i s with
  | .next t => if t.waiting k then some { t with cur := none } else none
  | .fault _ => none
  | .refused _ => none

/-- The wave does not issue in this cycle. -/
def State.passOver (s : State) (k : Nat) : State := s.modWave k (fun w => { w with tried := s.cycle + 1 })

/-- The wave could issue in this cycle, but for the limits: it does not wait (10 R313). -/
def State.heldBack (s : State) (k : Nat) : State :=
  (s.passOver k).modWave k (fun w => if w.retrying then { w with wait := none } else w)

/-- A wave's turn: its batch's instruction is fetched and becomes the issue under way. One that the limits of this cycle keep back is passed
over, unless it would wait (10 R312). -/
def State.issueTurn (s : State) (k : Nat) : State × Option Instr :=
  match s.waves.find? k with
  | none => (s, none)
  | some w =>
    if !w.mayTry then (s, none)
    else match s.present k w with
      | (s1, none) => (s1.passOver k, none)
      | (s1, some i) =>
        let cls := ((s1.cur.map Issue.word).map (turnClass i)).getD 0
        if s1.mayIssue k cls then (s1, some i)
        else ((s1.waitsOn k i).getD (State.heldBack { s1 with cur := none } k), none)

/-- The waves of a partition that may try to issue and have not in this cycle. -/
def State.triers (s : State) (part : Nat) : List (Nat × Wave) :=
  (s.partWaves part).filter (fun x =>
    x.2.mayTry && x.2.batch.isSome && decide (x.2.tried ≤ s.cycle) && !(s.issuedNow x.1).any (fun y => y.1 == x.1))

/-- The wave of a partition that tries next: of highest priority, the oldest (10 R312). -/
def State.best (s : State) (part : Nat) : Option Nat := (bestBy before (s.triers part)).map Prod.fst

/-! ### Cycles (10 R312 to R314) -/

/-- A wave's marks after cycles in which its state was this: the last cycle in which it was able to issue, and in which it was not. -/
def Wave.passed (w : Wave) (last : Nat) : Wave :=
  { w with stallSince := if w.wait.isSome then w.stallSince else last, readySince := if w.ready then w.readySince else last }

/-- The partitions that hold waves. -/
def State.partitions (s : State) : List Nat := (s.waves.map (fun p => p.1 / 48)).dedup

/-- A pending wave that waits for its instruction to be tried again is ready once that would issue, or perform a further lane of it
(10 R311 to R313). What it waits for is asked for anew where that is allowed. -/
def State.retest (s : State) (again : Bool) (k : Nat) : State :=
  match s.waves.find? k with
  | none => s
  | some w =>
    if w.active || !w.resident || w.isStopped || !w.retrying then s
    else match s.present k w with
      | (_, none) => s
      | (s1, some i) =>
        match s1.waitsOn k i with
        | none => s.modWave k (fun w => { w with wait := none })
        | some t =>
          if (t.waves.find? k).map Wave.doneLanes ≠ some w.doneLanes then s.modWave k (fun w => { w with wait := none })
          else if again then t else s

/-- n cycles pass: issue limits start anew, pending waves are looked at, free active places are filled, a full trap queue is looked at again
(10 R311 to R313; 13 R366). -/
def State.advance (s : State) (n : Nat) : State :=
  if n = 0 then s
  else
    let s1 : State := { s with
      cycle := s.cycle + n
      waves := s.waves.map (fun (p : Nat × Wave) => (p.1, p.2.passed (s.cycle + n - 1)))
      cores := s.cores.map (fun (c : Nat × Core) => (c.1, { c.2 with issued := [] })) }
    let s2 := (s1.waves.map Prod.fst).foldl (fun s k => s.retest true k) s1
    (s1.partitions.foldl (fun s p => State.fillActive 8 s p) s2).flushAll

/-- The wave's trap record would come before one that another source has raised in this cycle (13 R365). -/
def State.late (s : State) (k : Nat) : Bool :=
  match s.waves.find? k with
  | some w => !s.inOrder w.ctx k
  | none => false

/-- An issue that is chosen: a cycle passes first where its partition has issued twice or its record would be out of order; the wave must be
the one that its partition tries next (10 R312). -/
def State.chosenIssue (s : State) (k : Nat) : State × Option Instr :=
  let s1 := if decide (2 ≤ (s.issuedNow k).length) || s.late k then s.advance 1 else s
  if s1.best (k / 48) = some k then s1.issueTurn k else (s1, none)

/-! ### Events (log entry 1) -/

/-- A row of the table that is no instruction of a wave. -/
def isEvent (i : Instr) : Bool :=
  match i with
  | .illegalEncoding _ => false
  | .fetchFault _ => false
  | _ => !i.isWord

/-- The first of several events that changes the state. -/
def firstChange (s : State) : List (State → State) → Option State
  | [] => none
  | f :: fs => if f s = s then firstChange s fs else some (f s)

/-- Events of one wave that need nothing more. -/
def waveEvents (k : Nat) (w : Wave) : List (State → State) :=
  (List.range w.ld.length).map (evLoadLands k) ++ (List.range w.st.length).map (evStorePerformed k) ++
  [evTileOpComplete k, evParkcTimeout k, evWaveRetire k, evMonwSpill k, evWaveAgeBoost k]

/-- Events of a partition, by CID and number. -/
def partEvents (p : Nat) : List (State → State) :=
  [evRegreqGrant (p / 6) (p % 6), evSpillWave (p / 6) (p % 6), evWaveExchange (p / 6) (p % 6)]

/-- The step codes of a program, END last (12 R350). -/
def stepCodes : List Nat := [1, 2, 3, 4, 5, 6, 7, 8, 9, 10, 11, 15]

/-- Events of the engines for a context. -/
def engineEvents (s : State) (ctx : Nat) (c : Ctx) : List (State → State) :=
  (c.queues.filter (fun (q : Nat × Queue) => !q.2.entries.isEmpty)).flatMap (fun (q : Nat × Queue) =>
    [evQueuedCommandComplete ctx q.1, evQueuedCommandStart ctx q.1, evCopyUnit ctx q.1, evGseRow ctx q.1]) ++
  (List.range 8).flatMap (fun cl =>
    let tile := ((List.range 24).find? (fun t => !(s.engineState (72 + cl)).retiredTiles.getLsbD t)).getD 0
    stepCodes.map (fun code s => s.stepEvent ctx cl code) ++ [evMacRun ctx cl 0 tile])

/-- Events of the links: what waits in an inbox is performed; a peer without a link is lost. -/
def linkEvents (s : State) : List (State → State) :=
  (List.range 8).flatMap (fun n => if (s.port n).inbox.isEmpty then [] else
    [evLinkRead n, evLinkWrite n, evLinkAtomic n, evLinkEnq n, evLinkDeq n, evLinkMonw n, evLinkInvalidate n, evLinkDrain n,
     evLinkResponse n, evLinkWake n]) ++
  ((s.txns.map Txn.peer).dedup).map evLinkLost

/-- Every event that the device itself brings about, in the order in which the model looks at them. -/
def dueEvents (s : State) : List (State → State) :=
  s.waves.flatMap (fun (p : Nat × Wave) => waveEvents p.1 p.2 ++ [fun s => s.retest false p.1]) ++
  s.tiles.flatMap (fun (t : Nat × HomeTile) => [evRegionJoin t.1, evRegionRead t.1]) ++
  (List.range s.drains.length).flatMap (fun i => [evDrainCombine i, evDrainAck i]) ++
  linkEvents s ++
  (s.groups.filter (fun (g : Nat × Group) => g.2.halted)).map (fun (g : Nat × Group) => evGroupHaltComplete g.1) ++
  [evContextOpComplete, evInvalidationComplete] ++
  s.partitions.flatMap partEvents ++
  (s.slices.filter (fun (x : Nat × Slice) => !x.2.relist.isEmpty && 4096 ≤ s.cycle - x.2.checked)).map
    (fun (x : Nat × Slice) => evMonwRecheck x.1) ++
  (s.waves.filter (fun (p : Nat × Wave) => !p.2.resident)).map (fun (p : Nat × Wave) => evSpillReturn p.1) ++
  (s.away.map (fun (p : Nat × Wave) => evSpillReturn p.1)) ++
  s.ctxs.flatMap (fun (c : Nat × Ctx) => engineEvents s c.1 c.2 ++ (List.range 8).map (fun cl => evRayRefill cl c.1)) ++
  s.rays.map (fun (r : Nat × Ray) => evRayTraverse r.1) ++
  s.bins.map (fun (b : Nat × Bin) => evBinAgeFlush b.1) ++
  s.launches.flatMap (fun (l : Nat × Launch) => [evLaunchComplete l.1, evPlacementReserve l.1]) ++
  (List.range 16).map evLaunchAccept ++ [evGroupPlace]

/-- Nothing is chosen: an event that is due, else the next issue, in the first partition that has one, else a cycle passes. -/
def State.defaultTurn (s : State) : State × Option Instr :=
  match firstChange s (dueEvents s) with
  | some s1 => (s1, none)
  | none =>
    match s.partitions.findSome? s.best with
    | some k => if s.late k then (s.passOver k, none) else s.issueTurn k
    | none => (s.advance 1, none)

/-- The step's turn, and the instruction or event it performs, if any. -/
def State.turn (s : State) : State × Option Instr :=
  match s.agenda with
  | [] => s.defaultTurn
  | .issue k :: rest => State.chosenIssue { s with agenda := rest } k
  | .event i :: rest => if isEvent i then ({ s with agenda := rest, cur := none }, some i) else ({ s with agenda := rest }, none)
  | .tick n :: rest => (State.advance { s with agenda := rest } n, none)
  | .provision :: rest => (State.provision { s with agenda := rest }, none)

/-! ### A program in place (log entry 14) -/

/-- Identity page tables for the first 2 MiB: level 3, 2 and 1 at 1, 2 and 3 pages above 4 MiB; one leaf of 2 MiB with R, W and X. -/
def identityTables (did : Nat) : List (Nat × Byte) :=
  let entry (table v : Nat) : List (Nat × Byte) := cellsAt (physKey did table) (bytesOf 8 v)
  entry 0x400000 (0x401000 + did * 2 ^ 48 + 1) ++ entry 0x401000 (0x402000 + did * 2 ^ 48 + 1) ++
  entry 0x402000 (did * 2 ^ 48 + 0x1F)

/-- Where withFetchWord puts the program. -/
def programBase : Nat := 0x10000

/-- A context that is switched in with the identity tables. -/
def placedCtx : Ctx :=
  { image := 0x800000, state := 1, ptbase := 0x400000, privbase := 0x10000000000, spillbase := 0, csbase := 0, cssize := 65536, rtbase := 0,
    tqring := 0x20000, poolmin := 64, poolcap := 64, ringsize := 0, ringbase := 0, raydrop := 0, trapseq := 0, raised := none, regions := [],
    regionFault := none, cce := [], gsestat := [], trstat := [], queues := [], pending := [], backlog := [], frozen := false,
    tqfail := false, switchedIn := 0, ringHead := [], ringTail := [], ringHeld := [] }

/-- The record of a launch of one group of one wave that starts at an address. -/
def placedRecord (entry : Addr) : LaunchRecord :=
  { entry := entry, args := 0, dimx := 1, dimy := 1, dimz := 1, waves := 1, vn := 64, sn := 64, split := 0, prio := 0, after := false,
    scratch := 4096, cluster := 0, shtab := 0, flush := 0, scene := [0, 0, 0], cell := 0x3F800000, evq := 0, tagw := 0 }

/-- That launch, under way. -/
def placedLaunch : Launch :=
  { ctx := 0, order := 0, parent := none, depth := 0, prio := 0, queue := none, previous := none,
    record := placedRecord (BitVec.ofNat 64 programBase), shaders := [], root := 0, placed := 1, live := 1, retired := 0,
    status := 0, killed := false, waitingSince := none, reserved := [], completed := none, silent := none, told := none }

/-- Its group. -/
def placedGroup : Group :=
  { ctx := 0, lid := 0, index := 0, waves := 1, cores := [0], members := [0], retired := [], scratch := 4096, cluster := 0,
    eddy := false, arrived := [], generation := 0, halted := false, haltSeq := none, skidGone := 0, unanswered := [], recorded := false,
    records := [], scratchMem := [], clusterMem := [], epoch := 0, lost := [] }

/-- Its wave in the entry state of R11: 32 fibres at the program's start. -/
def placedBirth : Birth :=
  { ctx := 0, lid := 0, group := 0, wid := 0, depth := 0, prio := 0, age := 0, need := 64, sneed := 64, coords := [0, 0, 0], args := 0,
    s2 := 0,
    lanes := laneNums.map (fun l => ({ Fibre.dead with
      live := true, pc := BitVec.ofNat 64 programBase, region := BitVec.ofNat 64 programBase }, BitVec.ofNat 32 l, 0)) }

/-- A state with a program of given bytes loaded and its one wave about to issue. -/
def State.loadProgram (s : State) (bs : List Byte) : State :=
  { s with
    waves := [(0, { placedBirth.wave 0 s.cycle with active := true })]
    away := []
    groups := [(0, placedGroup)]
    launches := [(0, placedLaunch)]
    ctxs := [(0, placedCtx)]
    cores := []
    mem := (identityTables s.did ++ cellsAt (physKey s.did programBase) bs).foldl (fun m c => SMap.set m 0 c.1 c.2) s.mem
    poison := []
    spoiled := []
    l2 := []
    tlb2 := []
    walks := []
    choices := []
    agenda := [.issue 0] }

end Sys2Proof.Machine
end

