-- ==== Sys2Proof/Machine/Step.lean ====
section
/-! DEFINITION. One step: the turn's instruction or event is performed; and the state in which a given word is the next instruction. -/

namespace Sys2Proof.Machine

/-- The issue is over: it counts against the limits of its cycle (10 R312). -/
def finishStep (i : Instr) (o : Host.Outcome State Fault Refusal) : Host.Outcome State Fault Refusal :=
  match o with
  | .next s => .next { s.charge i with cur := none }
  | .fault r => .fault r
  | .refused r => .refused r

/-- One step: an issue of a wave, an event, or cycles passing. -/
def step (s : State) : Host.Outcome State Fault Refusal :=
  match s.turn with
  | (s1, none) => .next s1
  | (s1, some i) => finishStep i (exec i s1)

/-- The state with an instruction's bytes where the next step fetches: a loaded program whose one wave is about to issue (log entry 14). -/
def State.withFetchWord (s : State) (nbits w : Nat) : State := s.loadProgram (bytesOf 8 (w % 2 ^ nbits))

end Sys2Proof.Machine
end

