-- ==== Sys2Proof/Safety.lean ====
section
/-! DEFINITION. The terms in which statements about the machine are made: when an issue executes, what it leaves alone, and the
invariants of the state. -/

namespace Sys2Proof.Machine

/-- The issue under way executes in these lanes: its wave exists, some lane passes the guard, every operand is legal and present, no tile
instruction is still writing one (a tile instruction itself does not ask this), and no operand, nor what it reads beside them, has an
uncorrectable error (03 R98, R99; 01 R37; 05 R173; 14 R401). -/
structure Issues (s : State) (iss : Issue) (w : Wave) (guard : Option Nat) (ops : List Opnd) (tile : Bool) (lanes : Word)
    (reach : Wave → List Site := fun _ => []) : Prop where
  issue : s.cur = some iss
  wave : s.waves.find? iss.wave = some w
  passes : lanes = (match guard with
    | some g => w.guarded iss.batch g
    | none => iss.batch)
  someLane : lanes ≠ 0
  legal : ∀ o ∈ ops, o.bad w = false
  present : w.emptyIn ops iss.batch = false
  idle : tile = false → ∀ o ∈ ops, ∀ n ∈ o.regs w, n ∉ w.tileBusy
  sound : s.spoiledLane { ops := ops, reach := reach } w lanes = none

/-- What an instruction that is not about them leaves alone in its wave: who the wave is, its windows and its pattern tables; a running
wave stays running. -/
structure SameWave (w w' : Wave) : Prop where
  uid : w'.uid = w.uid
  epoch : w'.epoch = w.epoch
  ctx : w'.ctx = w.ctx
  lid : w'.lid = w.lid
  group : w'.group = w.group
  wid : w'.wid = w.wid
  depth : w'.depth = w.depth
  coords : (w'.gx, w'.gy, w'.gz) = (w.gx, w.gy, w.gz)
  need : w'.need = w.need
  sneed : w'.sneed = w.sneed
  wb : w'.wb = w.wb
  sb : w'.sb = w.sb
  patterns : w'.patterns = w.patterns
  running : w.run = .running → w'.run = .running

/-- The operations counted by LD and ST are as before, and (unless a halt has reached the wave) those counted by CP and TX. -/
structure SameCounters (w w' : Wave) : Prop where
  ld : w'.ld = w.ld
  st : w'.st = w.st
  running : w.run = .running → w'.cp = w.cp ∧ w'.tx = w.tx

/-- One more operation is counted by c, and (unless a halt has reached the wave) nothing else (01 R44). -/
def Counts (c : Ctr) (o : Op) (w w' : Wave) : Prop :=
  (c = .ld → w'.ld = w.ld ++ [o]) ∧ (c = .st → w'.st = w.st ++ [o]) ∧ (c ≠ .ld → w'.ld = w.ld) ∧ (c ≠ .st → w'.st = w.st) ∧
  (w.run = .running → w'.cp = (if c = .cp then w.cp ++ [o] else w.cp) ∧ w'.tx = (if c = .tx then w.tx ++ [o] else w.tx))

/-- What the rules say of an instruction that acts on one wave: its guard and operands (03 R84, R85), the tags it asks for (02 R53), the
physical registers it writes with the value of each lane (or marks EMPTY, their data still to come), the flags a lane raises (01 R43), what it does to a guarded lane's fibre
besides moving it, the scalar registers it writes by physical number, what it does to any lane's fibre once the batch has moved on, the
values it keeps in the latch (01 R39), and the storage it reads outside the lanes of its operands (14 R401). -/
structure Effect where
  guard : Option Nat := none
  ops : List Opnd := []
  tags : Wave → Word → Prop := fun _ _ => True
  regs : Wave → List Nat := fun _ => []
  val : Issue → Word → Wave → Nat → Nat → LCell := fun _ _ _ _ _ => ⟨0, 0⟩
  empty : Bool := false
  flags : Word → Wave → Nat → Flags := fun _ _ _ => 0
  fibre : Issue → Word → Wave → Nat → Fibre → Fibre := fun _ _ _ _ f => f
  scalars : Issue → Word → Wave → List (Nat × Word) := fun _ _ _ => []
  after : Issue → Word → Wave → Nat → Fibre → Fibre := fun _ _ _ _ f => f
  keep : Wave → Wave → Option (Nat → LCell) := fun _ _ => none
  reach : Wave → List Site := fun _ => []

/-- The latch after an instruction: every validity count falls by one; a kept value goes to entry LP in the lanes of the batch, valid for
the next two instructions, and LP moves on (01 R39). -/
def Keeps (w w' : Wave) (batch : Word) (v : Option (Nat → LCell)) : Prop :=
  match v with
  | none => w'.lp = w.lp ∧ ∀ k, (w'.entry k).lanes = (w.entry k).lanes ∧ (w'.entry k).count = (w.entry k).count - 1
  | some v => w'.lp = (w.lp + 1) % 3 ∧ ∀ k,
      (k = w.lp → (w'.entry k).count = 2 ∧ ∀ l, l < 32 → (w'.entry k).lanes.find? l = if batch.getLsbD l then some (v l) else none) ∧
      (k ≠ w.lp → (w'.entry k).lanes = (w.entry k).lanes ∧ (w'.entry k).count = (w.entry k).count - 1)

/-- A wave after an instruction with effect e: each register it writes holds in the guarded lanes what e says, its EMPTY bits
there clear (set where e says that the data comes later); the scalars it writes, the flags its lanes raise, its guarded fibres and the latch are as e says; the batch is at the next
instruction; every other cell, scalar, flag and fibre is as before. -/
def Does (e : Effect) (iss : Issue) (lanes : Word) (w w' : Wave) : Prop :=
  (∀ n l, l < 32 → w'.cell (cellAt n l) =
    if n ∈ e.regs w ∧ lanes.getLsbD l then ⟨(e.val iss lanes w n l).val, (e.val iss lanes w n l).tag, e.empty⟩
    else w.cell (cellAt n l)) ∧
  (∀ n, w'.scalar n = (SMap.find? (e.scalars iss lanes w) n).getD (w.scalar n)) ∧
  (∀ b, w'.fsr.getLsbD b = true ↔
    w.fsr.getLsbD b = true ∨ ∃ l, l < 32 ∧ lanes.getLsbD l = true ∧ (e.flags lanes w l).getLsbD b = true) ∧
  (∀ l, l < 32 → w'.fib l = e.after iss lanes w l
    (if iss.batch.getLsbD l then
      { (if lanes.getLsbD l then e.fibre iss lanes w l (w.fib l) else w.fib l) with pc := iss.next, owed := 0 }
    else w.fib l)) ∧
  Keeps w w' iss.batch (e.keep w w')

/-- Instruction i at s finishes in the state t with the issue's wave changed exactly as e says. -/
def Finishes (i : Instr) (s t : State) (iss : Issue) (lanes : Word) (w : Wave) (e : Effect) : Prop :=
  ∃ w', exec i s = .next (t.setWave iss.wave w') ∧ SameWave w w' ∧ SameCounters w w' ∧ Does e iss lanes w w'

/-- Instruction i has effect e: wherever its issue executes, exec gives a next state in which its wave alone has changed, exactly as e
says; everything else of the state, memory among it, is as before. -/
def Completes (i : Instr) (e : Effect) : Prop :=
  ∀ s iss w lanes, Issues s iss w e.guard e.ops false lanes e.reach → e.tags w lanes → Finishes i s s iss lanes w e

/-- Instruction i changes fields of its wave that an effect does not tell of: wherever its issue executes and ok holds, the wave is as
f makes it and then moves on, and everything else of the state is as before. -/
def CompletesOn (i : Instr) (guard : Option Nat) (ops : List Opnd) (ok : State → Issue → Word → Wave → Prop) (f : Word → Wave → Wave) :
    Prop :=
  ∀ s iss w lanes, Issues s iss w guard ops false lanes → ok s iss lanes w → Finishes i s s iss lanes (f lanes w) {}

/-- Tile instruction i has effect e and is counted on TX, its n result registers from field d unfinished until it completes
(01 R44; 05 R164, R173). It has no guard, and it does not wait for unfinished registers. -/
def TileCompletes (i : Instr) (d : BitVec 7) (n : Nat) (e : Effect) : Prop :=
  ∀ s iss w lanes, Issues s iss w none e.ops true lanes e.reach → w.tx.length < 63 → e.tags w lanes →
    ∃ w' o, exec i s = .next (s.tick1.setWave iss.wave w') ∧ SameWave w w' ∧ Counts .tx o w w' ∧ Does e iss lanes w w' ∧
      o.kind = .tile ∧ o.done = false ∧ o.busy = (List.range n).map (fun j => w.wb + d.toNat + j)

/-- The values H keeps (01 R39): nothing, operand A, operand B, the result. -/
def keepOf (h : BitVec 2) (a b : Wave → Nat → LCell) (d : Wave → Nat → LCell) (w w' : Wave) : Option (Nat → LCell) :=
  if h = 1 then some (a w) else if h = 2 then some (b w) else if h = 3 then some (d w') else none

/-- Every guarded lane's source holds the tag or X32 (02 R53). -/
def tagged (f : BitVec 7) (t : BitVec 6) (w : Wave) (m : Word) : Prop :=
  ∀ l, l < 32 → m.getLsbD l = true → (w.src f l).tag = t ∨ (w.src f l).tag = 0

/-- The same of every register of a group. -/
def groupTagged (f : BitVec 7) (k : Nat) (t : BitVec 6) (w : Wave) (m : Word) : Prop :=
  ∀ l j, l < 32 → m.getLsbD l = true → j < k → (w.grp f j l).tag = t ∨ (w.grp f j l).tag = 0

/-- A vector instruction with destination d and sources a and b, kept by H: each guarded lane gets v, tagged as v says (03 R85; 04 R112). -/
def vecABD (d a b : BitVec 7) (g h : BitVec 2) (v : Wave → Nat → LCell) : Effect :=
  { guard := some g.toNat, ops := [.vec d 1 1, .src a, .src b], regs := fun w => [w.wb + d.toNat], val := fun _ _ w _ l => v w l,
    keep := keepOf h (fun w => w.src a) (fun w => w.src b) (fun w => w.grp d 0) }

/-- A vector instruction with destination d and one source a, kept by H. -/
def vecAD (d a : BitVec 7) (g h : BitVec 2) (v : Wave → Nat → LCell) : Effect :=
  { guard := some g.toNat, ops := [.vec d 1 1, .src a], regs := fun w => [w.wb + d.toNat], val := fun _ _ w _ l => v w l,
    keep := keepOf h (fun w => w.src a) (fun w => w.src a) (fun w => w.grp d 0) }

/-- A scalar instruction that writes field d once per issue: v, raising the flags fl (01 R20; 04 R128; 05 R151). -/
def scalarABD (d : BitVec 7) (sources : List (BitVec 7)) (v : Issue → Wave → Word) (fl : Wave → Flags) : Effect :=
  { guard := none, ops := .scl d 1 :: sources.map (fun f => .scl f 1), scalars := fun i _ w => [(w.sb + d.toNat, v i w)],
    flags := fun _ w _ => fl w }

/-- The scalar instructions that also raise flags (05 R151). -/
def scalarFloat (d : BitVec 7) (sources : List (BitVec 7)) (r : Wave → Word × Flags) : Effect :=
  scalarABD d sources (fun _ w => (r w).1) (fun w => (r w).2)

/-- An instruction that keeps nothing: each guarded lane of vd gets v of the sources. -/
def laneResult (d : BitVec 7) (g : BitVec 2) (sources : List Opnd) (v : Issue → Word → Wave → Nat → LCell) : Effect :=
  { guard := some g.toNat, ops := .vec d 1 1 :: sources, regs := fun w => [w.wb + d.toNat], val := fun i m w _ l => v i m w l }

/-- LANEID and FIBID: a value of the lane itself; H keeps nothing or the result. -/
def vecD (d : BitVec 7) (g h : BitVec 2) (v : Wave → Nat → LCell) : Effect :=
  { guard := some g.toNat, ops := [.vec d 1 1], regs := fun w => [w.wb + d.toNat], val := fun _ _ w _ l => v w l,
    keep := keepOf h (fun w => w.grp d 0) (fun w => w.grp d 0) (fun w => w.grp d 0) }

/-- An F-B instruction: every lane of the batch gets v, tagged X32; it has no guard and no hold field (04 R113, R120). -/
def immAD (d a : BitVec 7) (v : Issue → Wave → Nat → Word) : Effect :=
  { guard := none, ops := [.vec d 1 1, .vec a 1 1], regs := fun w => [w.wb + d.toNat], val := fun i _ w _ l => ⟨v i w l, 0⟩ }

/-- VMOVI (04 R121). -/
def immD (d : BitVec 7) (v : Issue → Word) : Effect :=
  { guard := none, ops := [.vec d 1 1], regs := fun w => [w.wb + d.toNat], val := fun i _ _ _ _ => ⟨v i, 0⟩ }

/-- LEA with a shift of s (04 R117). -/
def leaOf (d a b : BitVec 7) (g : BitVec 2) (s : Nat) : Effect :=
  { guard := some g.toNat, ops := [.vec d 2 2, .vec a 2 2, .src b], regs := fun w => [w.wb + d.toNat, w.wb + d.toNat + 1],
    val := fun _ _ w n l =>
      let address : Addr := w.pair a l + ((w.src b l).val.signExtend 64 <<< s)
      ⟨if n = w.wb + d.toNat then address.setWidth 32 else (address >>> 32).setWidth 32, 0⟩ }

/-- SatS32 (04 R114). -/
def clampS32 (y : Int) : Word :=
  if y < -2147483648 then 0x80000000 else if 2147483647 < y then 0x7FFFFFFF else BitVec.ofInt 32 y

/-- A left shift by the full count (04 R115). -/
def shiftLeft (a b : Word) : Word := if b.toNat < 32 then BitVec.ofNat 32 (a.toNat * 2 ^ b.toNat) else 0
/-- A right shift that fills with zeros (04 R115). -/
def shiftRight (a b : Word) : Word := if b.toNat < 32 then BitVec.ofNat 32 (a.toNat / 2 ^ b.toNat) else 0
/-- A right shift that fills with copies of the sign (04 R115). -/
def shiftSigned (a b : Word) : Word :=
  if b.toNat < 32 then BitVec.ofInt 32 (a.toInt / 2 ^ b.toNat) else if a.getLsbD 31 then 0xFFFFFFFF else 0

/-- Set bits, leading zeros and trailing zeros of a word (04 R118). -/
def bitCount (x : Word) : Nat := ((List.range 32).filter x.getLsbD).length
def zerosAbove (x : Word) : Nat := ((List.range 32).takeWhile (fun i => !x.getLsbD (31 - i))).length
def zerosBelow (x : Word) : Nat := ((List.range 32).takeWhile (fun i => !x.getLsbD i)).length

/-- A floating instruction of sources a and b in format t, its result and flags tagged r (05 R142). -/
def floatABD (t r : BitVec 6) (d a b : BitVec 7) (g h : BitVec 2) (f : Wave → Word → Word → Word → Word × Flags) : Effect :=
  { vecABD d a b g h (fun w l => ⟨(f w (w.src a l).val (w.src b l).val 0).1, r⟩) with
    tags := fun w m => tagged a t w m ∧ tagged b t w m
    flags := fun _ w l => (f w (w.src a l).val (w.src b l).val 0).2 }

/-- One that also reads the prior d as c, in the result's format (03 R86). -/
def floatABDC (t r : BitVec 6) (d a b : BitVec 7) (g h : BitVec 2) (f : Wave → Word → Word → Word → Word × Flags) : Effect :=
  { vecABD d a b g h (fun w l => ⟨(f w (w.src a l).val (w.src b l).val (w.grp d 0 l).val).1, r⟩) with
    tags := fun w m => tagged a t w m ∧ tagged b t w m ∧ groupTagged d 1 r w m
    flags := fun _ w l => (f w (w.src a l).val (w.src b l).val (w.grp d 0 l).val).2 }

/-- A unary F32 instruction (05 R146). -/
def floatAD (d a : BitVec 7) (g h : BitVec 2) (f : Wave → Word → Word × Flags) : Effect :=
  { vecAD d a g h (fun w l => ⟨(f w (w.src a l).val).1, 1⟩) with
    tags := fun w m => tagged a 1 w m
    flags := fun _ w l => (f w (w.src a l).val).2 }

/-- Two F16 elements computed separately (02 R56, 05 R148). -/
def halves (f : Nat → Nat → Nat → Nat × Flags) (x y z : Word) : Word × Flags :=
  let lo := f (x.toNat % 65536) (y.toNat % 65536) (z.toNat % 65536)
  let hi := f (x.toNat / 65536) (y.toNat / 65536) (z.toNat / 65536)
  (BitVec.ofNat 32 (lo.1 % 65536 + 65536 * (hi.1 % 65536)), lo.2 ||| hi.2)

/-- DOT4Q on binary8 sources (05 R150). -/
def dot4Float (d a b : BitVec 7) (g h : BitVec 2) : Effect :=
  let r (w : Wave) (l : Nat) : Word × Flags :=
    dotF32 w.rm ((List.range 4).map (fun e => (elem8 (w.src a l) e, elem8 (w.src b l) e))) [f32 (w.grp d 0 l).val]
  { vecABD d a b g h (fun w l => ⟨(r w l).1, 1⟩) with
    tags := fun w m => groupTagged d 1 1 w m ∧
      ∀ l, l < 32 → m.getLsbD l = true → isB8 (w.src a l).tag = true ∧ isB8 (w.src b l).tag = true
    flags := fun _ w l => (r w l).2 }

/-- Element e of an I8x4 (tag 48) or N8x4 register as an integer (02 R63). -/
def byteInt (c : LCell) (e : Nat) : Int :=
  let n := c.val.toNat / 2 ^ (8 * e) % 256
  if c.tag = 48 ∧ 128 ≤ n then (n : Int) - 256 else n

/-- DOT4Q on integer sources (05 R150). -/
def dot4Int (d a b : BitVec 7) (g h : BitVec 2) : Effect :=
  { vecABD d a b g h (fun w l => ⟨clampS32 ((w.grp d 0 l).val.toInt + byteInt (w.src a l) 0 * byteInt (w.src b l) 0 +
      byteInt (w.src a l) 1 * byteInt (w.src b l) 1 + byteInt (w.src a l) 2 * byteInt (w.src b l) 2 +
      byteInt (w.src a l) 3 * byteInt (w.src b l) 3), 0⟩) with
    tags := fun w m => ∀ l, l < 32 → m.getLsbD l = true →
      ((w.src a l).tag = 48 ∨ (w.src a l).tag = 49) ∧ ((w.src b l).tag = 48 ∨ (w.src b l).tag = 49) }

/-- A complex instruction of pairs (05 R152): real part in the first register, both tagged C32. -/
def complexABD (useD : Bool) (d a b : BitVec 7) (g : BitVec 2) (f : RM → Cx → Cx → Cx → (Word × Flags) × (Word × Flags)) : Effect :=
  let r (w : Wave) (l : Nat) := f w.rm (w.cx a l) (w.cx b l) (w.cx d l)
  { guard := some g.toNat, ops := [.vec d 2 2, .vec a 2 2, .vec b 2 2], regs := fun w => [w.wb + d.toNat, w.wb + d.toNat + 1],
    tags := fun w m => groupTagged a 2 4 w m ∧ groupTagged b 2 4 w m ∧ (useD = true → groupTagged d 2 4 w m),
    val := fun _ _ w n l => ⟨if n = w.wb + d.toNat then (r w l).1.1 else (r w l).2.1, 4⟩,
    flags := fun _ w l => (r w l).1.2 ||| (r w l).2.2 }

/-- CMAG2. -/
def complexAD (d a : BitVec 7) (g : BitVec 2) : Effect :=
  let r (w : Wave) (l : Nat) := dotF32 w.rm [((w.cx a l).1, (w.cx a l).1), ((w.cx a l).2, (w.cx a l).2)] []
  { guard := some g.toNat, ops := [.vec d 1 1, .vec a 2 2], regs := fun w => [w.wb + d.toNat], tags := fun w m => groupTagged a 2 4 w m,
    val := fun _ _ w _ l => ⟨(r w l).1, 1⟩, flags := fun _ w l => (r w l).2 }

/-- CEXPI. -/
def complexOf (d a : BitVec 7) (g : BitVec 2) : Effect :=
  { guard := some g.toNat, ops := [.vec d 2 2, .src a], regs := fun w => [w.wb + d.toNat, w.wb + d.toNat + 1],
    tags := fun w m => tagged a 1 w m,
    val := fun _ _ w n l => ⟨if n = w.wb + d.toNat then (fcos (w.src a l).val).1 else (fsin (w.src a l).val).1, 4⟩,
    flags := fun _ w l => (fcos (w.src a l).val).2 ||| (fsin (w.src a l).val).2 }

/-- CSCALE. -/
def complexScale (d a b : BitVec 7) (g : BitVec 2) : Effect :=
  let r (w : Wave) (j l : Nat) := fmul w.rm (w.grp a j l).val (w.src b l).val
  { guard := some g.toNat, ops := [.vec d 2 2, .vec a 2 2, .src b], regs := fun w => [w.wb + d.toNat, w.wb + d.toNat + 1],
    tags := fun w m => groupTagged a 2 4 w m ∧ tagged b 1 w m,
    val := fun _ _ w n l => ⟨if n = w.wb + d.toNat then (r w 0 l).1 else (r w 1 l).1, 4⟩,
    flags := fun _ w l => (r w 0 l).2 ||| (r w 1 l).2 }

/-- An instruction that acts on the guarded lanes' predicates alone. -/
def predEffect (g : BitVec 2) (f : Issue → Word → Wave → Nat → Fibre → Fibre) : Effect :=
  { guard := some g.toNat, ops := [], fibre := f }

/-- One that also reads sources. -/
def readsEffect (g : BitVec 2) (sources : List Opnd) (f : Wave → Nat → Fibre → Fibre) : Effect :=
  { guard := some g.toNat, ops := sources, fibre := fun _ _ w l x => f w l x }

/-- The table of R123: whether condition c holds for two numbers in this order, or for a pair with a NaN. -/
def conditionHolds (c : Nat) (o : Option Ordering) : Bool :=
  match c, o with
  | 0, some o => o == .eq
  | 1, some o => o != .eq
  | 2, some o => o == .lt
  | 3, some o => o != .gt
  | 4, some o => o == .gt
  | 5, some o => o != .lt
  | 6, some _ => true
  | 7, none => true
  | 8, some o => o != .eq
  | 8, none => true
  | 9, some o => o == .lt
  | 9, none => true
  | 10, some o => o != .gt
  | 10, none => true
  | 11, some o => o == .gt
  | 11, none => true
  | 12, some o => o != .lt
  | 12, none => true
  | _, _ => false

/-- An integer compare (04 R122). -/
def compareAB (c : BitVec 4) (p : BitVec 3) (a b : BitVec 7) (g : BitVec 2) (order : Word → Word → Ordering) : Effect :=
  { guard := some g.toNat, ops := [.src a, .src b],
    fibre := fun _ _ w l f => f.setPred p.toNat (conditionHolds c.toNat (some (order (w.src a l).val (w.src b l).val))) }

/-- ICMPI. -/
def compareAI (c : BitVec 4) (p : BitVec 3) (a : BitVec 7) (i : BitVec 11) : Effect :=
  { guard := none, ops := [.vec a 1 1],
    fibre := fun iss _ w l f => f.setPred p.toNat
      (conditionHolds c.toNat (some (compare (w.grp a 0 l).val.toInt (((iss.immB i).setWidth 32 : Word)).toInt))) }

/-- A floating compare of the pairs of values a lane holds (04 R123, R124). -/
def compareFloat (t : BitVec 6) (c : BitVec 4) (p : BitVec 3) (a b : BitVec 7) (g : BitVec 2) (vals : Word → Word → List (XR × XR)) :
    Effect :=
  let pairs (w : Wave) (l : Nat) : List (XR × XR) := vals (w.src a l).val (w.src b l).val
  { guard := some g.toNat, ops := [.src a, .src b], tags := fun w m => tagged a t w m ∧ tagged b t w m,
    fibre := fun _ _ w l f => f.setPred p.toNat ((pairs w l).all (fun v => conditionHolds c.toNat (v.1.cmp v.2))),
    flags := fun _ w l =>
      if 2 ≤ c.toNat ∧ c.toNat ≤ 5 ∧ (pairs w l).any (fun v => v.1.isNan || v.2.isNan) then Flags.invalid else 0 }

/-- PLOG's operations (04 R125). -/
def logicOf (o : BitVec 2) (x y : Bool) : Bool := if o = 0 then x && y else if o = 1 then x || y else x != y

/-- VOTE's modes over the guarded lanes (04 R127): any, all, uni. -/
def voteOf (k : BitVec 2) (lanes : Word) (x : Nat → Bool) : Bool :=
  let some_ := (List.range 32).any (fun l => lanes.getLsbD l && x l)
  let all_ := (List.range 32).all (fun l => !lanes.getLsbD l || x l)
  if k = 0 then some_ else if k = 1 then all_ else all_ || !some_

/-- VOTE's ballot: bit l is set when lane l takes part and its x is 1. -/
def ballotOf (lanes : Word) (x : Nat → Bool) : Word :=
  BitVec.ofNat 32 (((List.range 32).map (fun l => if lanes.getLsbD l && x l then 2 ^ l else 0)).sum)

/-- CVT of one lane: the conversion its tag selects (05 R154). -/
def convertOf (d a : BitVec 7) (s : BitVec 1) (t : BitVec 6) (g h : BitVec 2) : Effect :=
  let r (w : Wave) (l : Nat) : Word × Flags := ((cvtOf (w.src a l).tag t s).map (fun f => f w.rm (w.src a l).val)).getD (0, 0)
  { vecAD d a g h (fun w l => ⟨(r w l).1, t⟩) with
    tags := fun w m => ∀ l, l < 32 → m.getLsbD l = true → (cvtOf (w.src a l).tag t s).isSome = true
    flags := fun _ w l => (r w l).2 }

/-- PACK: element e of the result is register a + e converted (05 R155); H keeps nothing or the result. -/
def packOf (d a : BitVec 7) (s : BitVec 1) (t : BitVec 6) (g h : BitVec 2) : Effect :=
  let r (w : Wave) (l : Nat) := packLane t w.rm (s == 1) (fun e => (w.grp a e l).val)
  { vecD d g h (fun w l => ⟨(r w l).1, t⟩) with
    ops := [.vec d 1 1, .vec a (countOf t) (countOf t)]
    tags := fun w m => groupTagged a (countOf t) 1 w m
    flags := fun _ w l => (r w l).2 }

/-- Widening UNPACK: 2, 4 or 8 elements, each exact in F32 (05 R156); H keeps nothing or the source. -/
def widenOf (d a : BitVec 7) (k g h : BitVec 2) : Effect :=
  { guard := some g.toNat, ops := [.vec d (widenCount k) (widenCount k), .src a]
    tags := fun w m => ∀ l, l < 32 → m.getLsbD l = true → countOf (w.src a l).tag = widenCount k
    regs := fun w => (List.range (widenCount k)).map (fun e => w.wb + d.toNat + e)
    val := fun _ _ w n l => ⟨widenElem (w.src a l).tag (w.src a l).val (n - (w.wb + d.toNat)), 1⟩
    keep := fun w w' => keepOf h (fun w => w.src a) (fun w => w.src a) (fun w => w.src a) w w' }

/-- Block UNPACK: the codec's 256 bytes; lane l gets bytes 4 l to 4 l + 3 in the first register and 128 + 4 l on in the second (05 R157). -/
def expandOf (d a : BitVec 7) (g : BitVec 2) : Effect :=
  let block (w : Wave) : List Byte := (decodeBlock ((w.blockBytes a).getD 255 0).toNat (w.blockBytes a)).getD []
  { guard := some g.toNat, ops := [.vec d 2 2, .vec a 2 2], regs := fun w => [w.wb + d.toNat, w.wb + d.toNat + 1],
    reach := allSlots 0 [.vec a 2 2]
    tags := fun w _ => groupTagged a 2 0 w (BitVec.allOnes 32) ∧
      (decodeBlock ((w.blockBytes a).getD 255 0).toNat (w.blockBytes a)).isSome = true,
    val := fun _ _ w n l => ⟨BitVec.ofNat 32 (ofBytes (((block w).drop (if n = w.wb + d.toNat then 4 * l else 128 + 4 * l)).take 4)), 0⟩ }

/-- SHFL (05 R159). -/
def shuffleOf (d a b : BitVec 7) (g h : BitVec 2) : Effect :=
  { vecABD d a b g h (fun w l => w.src a l) with
    val := fun _ lanes w _ l =>
      if lanes.getLsbD ((w.src b l).val.toNat % 32) then w.src a ((w.src b l).val.toNat % 32) else w.src a l }

/-- The flags of the numbers f gives for the first k numbers. -/
def flagsUpTo (k : Nat) (f : Nat → Flags) : Flags := (List.range k).foldl (fun acc j => acc ||| f j) 0

/-- An accumulator result: element (r, c) of R165 is in lane r + 16 (c / 8), register c mod 8, tagged F32 (05 R164, R165). -/
def accOf (d : BitVec 7) (sources : List Opnd) (tags : Wave → Word → Prop) (f : Wave → Word → Nat → Nat → Word × Flags) : Effect :=
  { guard := none, ops := .vec d 8 8 :: sources, tags := tags,
    regs := fun w => (List.range 8).map (fun j => w.wb + d.toNat + j),
    val := fun _ lanes w n l => ⟨(f w lanes (l % 16) (8 * (l / 16) + (n - (w.wb + d.toNat)))).1, 1⟩,
    flags := fun lanes w l => flagsUpTo 8 (fun j => (f w lanes (l % 16) (8 * (l / 16) + j)).2) }

/-- TMMA and TMMAT on fragments of class k: every register read has that class, the accumulator is F32, and the scales of classes 32 and
64 are F32 in register a + 4 (05 R166). -/
def multiplyOf (transposed : Bool) (k : Nat) (d a b : BitVec 7) (m : BitVec 2) : Effect :=
  { accOf d ([.vec a 4 4, .vec b 4 4] ++ (if k = 16 then [] else [.vec (a + 4) 1 1]))
    (fun w lanes =>
      (∀ l j, l < 32 → (tileLanes m lanes).getLsbD l = true → j < 4 → classOf (w.grp a j l).tag = k ∧ classOf (w.grp b j l).tag = k) ∧
      groupTagged d 8 1 w lanes ∧ (k ≠ 16 → groupTagged (a + 4) 1 1 w (scaleLanes (tileLanes m lanes))))
    (fun w lanes r c =>
      if transposed then w.mmaElem a b k (tileLanes m lanes) c r (w.accWord d r c)
      else w.mmaElem a b k (tileLanes m lanes) r c (w.accWord d r c)) with
    reach := allSlots m ([.vec a 4 4, .vec b 4 4] ++ (if k = 16 then [] else [.vec (a + 4) 1 1])) }

/-- TTRN of a 16-bit fragment: place (r, c) of the result is place (c, r) of the source, 0 where its lane is not read; the tag is the
source's (05 R165, R168). -/
def transposeHalves (d a : BitVec 7) (m : BitVec 2) : Effect :=
  let tag (w : Wave) (lanes : Word) : BitVec 6 := (w.grp a 0 (lowest (tileLanes m lanes))).tag
  let code (w : Wave) (lanes : Word) (r c : Nat) : Nat :=
    let p := fragPlace 16 r c
    if (tileLanes m lanes).getLsbD p.1 then elemCode 16 p.2.2 (w.grp a p.2.1 p.1).val else 0
  { guard := none, ops := [.vec d 4 4, .vec a 4 4], regs := fun w => (List.range 4).map (fun j => w.wb + d.toNat + j),
    reach := allSlots m [.vec a 4 4]
    tags := fun w lanes => is16 (tag w lanes) = true ∧
      ∀ l j, l < 32 → (tileLanes m lanes).getLsbD l = true → j < 4 → (w.grp a j l).tag = tag w lanes,
    val := fun _ lanes w n l =>
      let c := 8 * (l / 16) + 2 * (n - (w.wb + d.toNat))
      ⟨BitVec.ofNat 32 (code w lanes c (l % 16) + 65536 * code w lanes (c + 1) (l % 16)), tag w lanes⟩ }

/-- TCVT (05 R170). -/
def convertTile (d a : BitVec 7) (s : BitVec 1) (t : BitVec 6) : Effect :=
  let r (w : Wave) (j l : Nat) := packLane t .rne (s == 1) (fun e => (w.grp a (2 * j + e) l).val)
  { guard := none, ops := [.vec d 4 4, .vec a 8 8], regs := fun w => (List.range 4).map (fun j => w.wb + d.toNat + j),
    tags := fun w lanes => groupTagged a 8 1 w lanes,
    val := fun _ _ w n l => ⟨(r w (n - (w.wb + d.toNat)) l).1, t⟩,
    flags := fun _ w l => flagsUpTo 4 (fun j => (r w j l).2) }

/-- TRED: the sum, maximum or minimum of the elements of a row whose lanes are read, in both lanes of the row (05 R171). -/
def reduceOf (d a : BitVec 7) (o m : BitVec 2) : Effect :=
  let row (w : Wave) (lanes : Word) (l : Nat) : Word × Flags := redRow o ((List.range 16).filterMap (fun c =>
    if (tileLanes m lanes).getLsbD (l % 16 + 16 * (c / 8)) then some (w.accWord a (l % 16) c) else none))
  { guard := none, ops := [.vec d 1 1, .vec a 8 8], regs := fun w => [w.wb + d.toNat],
    reach := allSlots m [.vec a 8 8]
    tags := fun w lanes => groupTagged a 8 1 w (tileLanes m lanes),
    val := fun _ lanes w _ l => ⟨(row w lanes l).1, 1⟩, flags := fun lanes w l => (row w lanes l).2 }

/-! ### Branches, yielding and special registers -/

/-- A batch that yields: every other live fibre that is not parked is owed to its lanes, which are held back until it has run (01 R18; log
entry 40). -/
def yields (iss : Issue) (_ : Word) (_ : Wave) (l : Nat) (f : Fibre) : Fibre :=
  if f.live && f.join.isNone && !iss.batch.getLsbD l then { f with owed := f.owed ||| iss.batch } else f

/-- The lanes that BR sends to its target: mode 0 each lane whose predicate holds; 1 and 3 the batch when some lane's holds; 2 the batch
when every lane's holds (03 R87). -/
def branches (p : BitVec 3) (n : BitVec 1) (m : BitVec 2) (iss : Issue) (w : Wave) (l : Nat) : Bool :=
  let holds (k : Nat) : Bool := (w.fib k).pred p.toNat != (n == 1)
  iss.batch.getLsbD l &&
    (if m = 0 then holds l
     else if m = 2 then (List.range 32).all (fun k => !iss.batch.getLsbD k || holds k)
     else (List.range 32).any (fun k => iss.batch.getLsbD k && holds k))

/-- BR: taken lanes go to the PC plus four times the displacement, and mode 3, when taken, yields (03 R87; 04 R131). -/
def branchOf (p : BitVec 3) (n : BitVec 1) (m : BitVec 2) (d : BitVec 19) : Effect :=
  { after := fun iss lanes w l f =>
      let f1 := if branches p n m iss w l then { f with pc := iss.pc + d.signExtend 64 * 4 } else f
      if m = 3 ∧ (List.range 32).any (branches p n m iss w) = true then yields iss lanes w l f1 else f1 }

/-- BRX and RET: each guarded lane goes to the address in its pair (04 R133). -/
def branchTo (a : BitVec 7) (g : BitVec 2) : Effect :=
  { guard := some g.toNat, ops := [.vec a 2 2],
    tags := fun w m => ∀ l, l < 32 → m.getLsbD l = true → (w.pair a l).toNat % 4 = 0,
    after := fun _ lanes w l f => if lanes.getLsbD l then { f with pc := w.pair a l } else f }

/-- CALL: the address of the next instruction to the d-pair; the batch goes to the PC plus four times the immediate (04 R134). -/
def callOf (d : BitVec 7) (i : BitVec 18) : Effect :=
  { ops := [.vec d 2 2], regs := fun w => [w.wb + d.toNat, w.wb + d.toNat + 1],
    val := fun iss _ w n _ => ⟨if n = w.wb + d.toNat then iss.next.setWidth 32 else (iss.next >>> 32).setWidth 32, 0⟩,
    after := fun iss _ _ l f => if iss.batch.getLsbD l then { f with pc := iss.pc + iss.immC i * 4 } else f }

/-- Where a lane is parked once the batch is parked at n. -/
def parkedAt (n : Nat) (iss : Issue) (w : Wave) (l : Nat) : Option Nat := if iss.batch.getLsbD l then some n else (w.fib l).join

/-- JOIN n: the batch parks at n; when no live fibre is left unparked, those at the largest number go on, each with its region entry at
its PC (01 R17; 04 R138). -/
def joinOf (n : Nat) : Effect :=
  { fibre := fun _ _ _ _ f => { f with join := some n },
    after := fun iss _ w _ f =>
      let live := (List.range 32).filter (fun k => (w.fib k).live)
      let top := (live.map (fun k => (parkedAt n iss w k).getD 0)).foldl max 0
      if live.all (fun k => (parkedAt n iss w k).isSome) ∧ f.live = true ∧ f.join = some top
      then { f with join := none, region := f.pc, fresh := false } else f }

/-- GETSR's vector form of a value v, 32 bits wide but for REGION's 64 (01 R42). -/
def specialVector (e d : BitVec 7) (g : BitVec 2) (v : Addr) : Effect :=
  { guard := some g.toNat, ops := [if e = 3 then .vec d 2 2 else .vec d 1 1],
    regs := fun w => if e = 3 then [w.wb + d.toNat, w.wb + d.toNat + 1] else [w.wb + d.toNat],
    val := fun _ _ w n _ => ⟨if n = w.wb + d.toNat then v.setWidth 32 else (v >>> 32).setWidth 32, 0⟩ }

/-- GETSR's scalar form. -/
def specialScalar (e d : BitVec 7) (v : Addr) : Effect :=
  { ops := [.scl d (if e = 3 then 2 else 1)],
    scalars := fun _ _ w => if e = 3 then [(w.sb + d.toNat, v.setWidth 32), (w.sb + d.toNat + 1, (v >>> 32).setWidth 32)]
      else [(w.sb + d.toNat, v.setWidth 32)] }

/-- RDCYC: the cycle count to the d-pair of the guarded lanes (01 R49). -/
def cycleOf (d : BitVec 7) (g : BitVec 2) (v : Addr) : Effect :=
  { guard := some g.toNat, ops := [.vec d 2 2], regs := fun w => [w.wb + d.toNat, w.wb + d.toNat + 1],
    val := fun _ _ w n _ => ⟨if n = w.wb + d.toNat then v.setWidth 32 else (v >>> 32).setWidth 32, 0⟩ }

/-- BCAST: the value of the lowest guarded lane to every guarded lane, or to a scalar register (07 R237). -/
def broadcastOf (d a : BitVec 7) (s : BitVec 1) (g : BitVec 2) : Effect :=
  if s = 1 then { guard := some g.toNat, ops := [.scl d 1, .src a], scalars := fun _ lanes w => [(w.sb + d.toNat, (w.src a (lowest lanes)).val)] }
  else laneResult d g [.src a] (fun _ lanes w _ => w.src a (lowest lanes))

/-! ### Instructions that act outside their wave -/

/-- What an instruction does outside its wave when all its checks pass: the state with the wave still as it was, and what is known of
the operation it counts. None where it waits or traps. -/
abbrev Outside := State → Issue → Word → Wave → Option (State × (Op → Prop))

/-- Instruction i does e to its wave and `out` to everything else: wherever its issue executes, its counter is below 63 and `out` is
defined, exec gives that state with the wave put in it; the wave counts one operation on c, or none. -/
def CompletesIn (i : Instr) (c : Option Ctr) (e : Effect) (out : Outside) : Prop :=
  ∀ s iss w lanes t known, Issues s iss w e.guard e.ops false lanes e.reach → (∀ k, c = some k → w.counter k < 63) → e.tags w lanes →
    out s iss lanes w = some (t, known) →
    ∃ w', exec i s = .next (t.setWave iss.wave w') ∧ SameWave w w' ∧ Does e iss lanes w w' ∧
      (match c with
        | none => SameCounters w w'
        | some k => ∃ o, Counts k o w w' ∧ known o)

/-- The batch's region entry is the next instruction (01 R46). -/
def regionEnds (iss : Issue) (_ : Word) (_ : Wave) (_ : Nat) (f : Fibre) : Fibre := { f with region := iss.next, fresh := false }

/-- The issue of an IMX that carries v and of the word it precedes, as one instruction of 8 bytes (03 R92). -/
def Issue.extended (iss : Issue) (v : BitVec 25) (next : Word) : Issue := { iss with len := 8, word := next, ext := some v }

/-- The IMX that carries v before the word next runs where the issue of both executes: its F-C immediate has no bit above the 11 that V
extends (03 R90 to R92). -/
structure Extends (s : State) (v : BitVec 25) (next : Word) (iss : Issue) (w : Wave) (e : Effect) (lanes : Word) : Prop where
  issue : s.cur = some iss
  field : immediateC next = true → next.toNat / 2 ^ 11 % 128 = 0
  runs : Issues { s with cur := some (iss.extended v next) } (iss.extended v next) w e.guard e.ops false lanes e.reach
  tagged : e.tags w lanes

/-- The IMX that carries v before the word next has effect e: wherever the two execute, exec gives a next state in which the wave alone
has changed, exactly as e says of an instruction of 8 bytes with the immediate V supplies. -/
def ImxCompletes (v : BitVec 25) (next : Word) (e : Effect) : Prop :=
  ∀ s iss w lanes, Extends s v next iss w e lanes →
    Finishes (.imx v next) s { s with cur := some (iss.extended v next) } (iss.extended v next) lanes w e

/-- The same where the word before which it stands acts outside its wave and counts an operation on c. -/
def ImxCompletesIn (v : BitVec 25) (next : Word) (c : Ctr) (e : Effect) (out : Outside) : Prop :=
  ∀ s iss w lanes t known, Extends s v next iss w e lanes → w.counter c < 63 →
    out { s with cur := some (iss.extended v next) } (iss.extended v next) lanes w = some (t, known) →
    ∃ w' o, exec (.imx v next) s = .next (t.setWave iss.wave w') ∧ SameWave w w' ∧ Does e (iss.extended v next) lanes w w' ∧
      Counts c o w w' ∧ known o

/-- A load into k registers: EMPTY until the data lands (01 R37). -/
def loadEffect (d : BitVec 7) (k : Nat) (guard : Option Nat) (ops : List Opnd) : Effect :=
  { guard := guard, ops := ops, regs := fun w => (List.range k).map (fun j => w.wb + d.toNat + j),
    val := fun _ _ w n l => ⟨(w.cell (cellAt n l)).val, (w.cell (cellAt n l)).tag⟩, empty := true }

/-- What a load does outside: every lane's addresses pass the checks of R178, no earlier access of the wave to a region tile holds it back
(06 R181), and every element is read or, in a region tile, asked of
the tile's home; the counted operation holds the values that will land. -/
def loads (acc : Access) (inv : Bool) (tol : Nat) (addrs : Issue → Word → Wave → Nat → List Addr)
    (asks : Issue → Word → Wave → List (Nat × List Place) → List Ask) : Outside := fun s iss lanes w =>
  match s.checkLanes iss.wave w acc (addrs iss lanes w) (lanesOf lanes) [] with
  | (s1, .ok got) =>
    if (asks iss lanes w got).any (fun a => s1.mustWait w a.place a.size false) then none
    else match s1.gather w (cidOf iss.wave) inv (asks iss lanes w got) [] with
    | (s2, .ok ws) =>
      let r := s2.tick1.askTiles iss.wave w s2.fresh tol (asks iss lanes w got)
      some (r.1, fun o => o.kind = .load ∧ o.done = false ∧ o.writes = ws ∧ o.waits = r.2)
    | (_, .error _) => none
  | (_, .error _) => none

/-- The elements of a load of n bytes: words of one access, word j of lane l for register d + j (06 R183, R184). -/
def wordAsks (n : Nat) (d : BitVec 7) (addr : Issue → Wave → Nat → Addr) (iss : Issue) (_ : Word) (w : Wave)
    (got : List (Nat × List Place)) : List Ask :=
  got.flatMap (fun g => g.2.flatMap (fun p => (List.range (max 1 (n / 4))).map (fun j =>
    { place := p.plus (4 * j), addr := addr iss w g.1 + BitVec.ofNat 64 (4 * j), size := min n 4,
      cell := cellAt (w.wb + d.toNat + j) g.1, tag := 0, lane := g.1 })))

/-- The elements of a load of separate words: element j of lane l for register d + j. -/
def elementAsks (d : BitVec 7) (tag : Wave → BitVec 6) (addrs : Issue → Word → Wave → Nat → List Addr) (iss : Issue) (lanes : Word)
    (w : Wave) (got : List (Nat × List Place)) : List Ask :=
  got.flatMap (fun g => g.2.mapIdx (fun j p =>
    { place := p, addr := (addrs iss lanes w g.1).getD j 0, size := 4, cell := cellAt (w.wb + d.toNat + j) g.1, tag := tag w, lane := g.1 }))

/-- The address of lane l of an F-B access of n bytes: the a-pair plus n times the immediate (06 R175). -/
def fbAddress (n : Nat) (a : BitVec 7) (i : BitVec 11) (iss : Issue) (w : Wave) (l : Nat) : Addr :=
  w.pair a l + iss.immB i * BitVec.ofNat 64 n

/-- A plain or invariant load of n bytes. -/
def loadsBytes (n : Nat) (inv : Bool) (d a : BitVec 7) (i : BitVec 11) : Outside :=
  loads (Access.load n) inv 31 (fun iss _ w l => [fbAddress n a i iss w l]) (wordAsks n d (fbAddress n a i))

/-- The word addresses of TLD and TST in a lane, from the pair of the lowest lane (06 R190). -/
def fragAddrs (r : Stride) (a : BitVec 7) (_ : Issue) (lanes : Word) (w : Wave) (l : Nat) : List Addr :=
  (List.range r.regs).map (fun j => w.pair a (lowest lanes) +
    BitVec.ofNat 64 (l % 16 * r.stride + (if r.kind = 2 then 32 else 16) * (l / 16) + 4 * j))

/-- What a store does outside: its elements, lanes ascending, are performed by `putElem` after every check has passed, no earlier access
of the wave to a region tile holds it back (06 R181) and no core of another device holds such a tile (08 R262); the counted operation waits for
what was sent to other devices. -/
def stores (acc : Access) (addrs : Issue → Word → Wave → Nat → List Addr) (puts : Issue → Wave → List (Nat × List Place) → List Put) :
    Outside := fun s iss lanes w =>
  match s.checkLanes iss.wave w acc (addrs iss lanes w) (lanesOf lanes) [] with
  | (s1, .ok got) =>
    let clear := s1.clearAfar ((puts iss w got).flatMap (fun p => p.place.tileKeys))
    let r := (puts iss w got).foldl (fun (r : State × List Nat) p =>
      ((r.1.putElem (cidOf iss.wave) w p).1, r.2 ++ (r.1.putElem (cidOf iss.wave) w p).2)) (clear.1, [])
    if (puts iss w got).any (fun p => s1.mustWait w p.place p.bytes.length true) || !clear.2 then none
    else some (r.1.tick1, fun o => o.kind = .store ∧ o.done = false ∧ o.waits = r.2)
  | (_, .error _) => none

/-- The elements of a store of n bytes: the low bytes of the D group's words (06 R183). -/
def wordPuts (n : Nat) (d : BitVec 7) (_ : Issue) (w : Wave) (got : List (Nat × List Place)) : List Put :=
  got.flatMap (fun g => g.2.flatMap (fun p => (List.range (max 1 (n / 4))).map (fun j =>
    { place := p.plus (4 * j), bytes := bytesOf (min n 4) (w.grp d j g.1).val.toNat })))

/-- A plain store of n bytes. -/
def storesBytes (n : Nat) (d a : BitVec 7) (i : BitVec 11) : Outside :=
  stores (Access.store n) (fun iss _ w l => [fbAddress n a i iss w l]) (wordPuts n d)

/-- One lane's operation of an atomic (06 R192). -/
def amosOf (addr : Issue → Wave → Nat → Addr) (b c : Wave → Nat → Word) (cell : Wave → Nat → Option Nat) (iss : Issue) (w : Wave)
    (got : List (Nat × List Place)) : List Amo :=
  got.flatMap (fun g => g.2.map (fun p =>
    { place := p, addr := addr iss w g.1, lane := g.1, b := b w g.1, c := c w g.1, cell := cell w g.1 }))

/-- Every lane that returns a value has it: none has been sent to another device (14 R393). -/
def AmoRun.answered (r : AmoRun) : Bool := r.replies.all (fun x => x.value.isSome && !x.failed)

/-- The operation that an instruction whose lanes return values counts (01 R37, R44). -/
def AmoRun.returned (r : AmoRun) (o : Op) : Prop :=
  o.kind = .ret ∧ o.done = false ∧ o.writes = r.replies.map (fun x => ⟨x.cell, x.value.getD 0, 0⟩) ∧ o.busy = r.replies.map Reply.cell ∧
  o.waits = []

/-- What an atomic does outside: every lane's word passes the checks of R178 and can be read, no earlier access of the wave to a region
tile holds it back, and no other device holds copies or tiles of its words that must go first (08 R249, R262); then each lane's operation is performed in ascending lane order; the counted operation holds the values returned
(06 R179, R181, R192 to R194). A returning atomic that another device performs waits for the answers: it is not covered. -/
def atomics (kind sc : Nat) (amos : Issue → Wave → List (Nat × List Place) → List Amo) (addr : Wave → Nat → Addr) : Outside :=
  fun s iss lanes w =>
  match s.checkLanes iss.wave w Access.atomic (fun l => [addr w l]) (lanesOf lanes) [] with
  | (s1, .ok got) =>
    let xs := amos iss w got
    let clear := s1.clearFor sc xs
    let r := xs.foldl (AmoRun.step iss w kind sc) { s := clear.1, replies := [], waits := [] }
    if !clear.2 || !w.asked.isEmpty || xs.any (fun a => s1.mustWait w a.place 4 true) || xs.any (s1.unreadable w.group (cidOf iss.wave)) then none
    else if xs.any (fun a => a.cell.isSome) then (if r.answered then some (r.s.tick1, r.returned) else none)
    else some (r.s.tick1, fun o => o.kind = .store ∧ o.done = false ∧ o.writes = [] ∧ o.busy = [] ∧ o.waits = r.waits)
  | (_, .error _) => none

/-- The second word of a pair of operands; 0 for the others (06 R192). -/
def secondWord (pair : Bool) (b : BitVec 7) (w : Wave) (l : Nat) : Word := if pair then (w.grp b 1 l).val else 0

/-- A returning atomic: vd is EMPTY until the old values land, and the region ends (01 R37, R46; 06 R192). -/
def returningEffect (pair : Bool) (t : Option (BitVec 6)) (d a b : BitVec 7) : Effect :=
  { loadEffect d 1 none [.vec d 1 1, .vec a 2 2, if pair then .vec b 2 2 else .src b] with
    fibre := regionEnds
    tags := fun w m => ∀ f, t = some f → tagged b f w m }

/-- A no-return atomic (06 R194). -/
def silentEffect (pair : Bool) (t : Option (BitVec 6)) (a b : BitVec 7) : Effect :=
  { ops := [.vec a 2 2, if pair then .vec b 2 2 else .src b], fibre := regionEnds, tags := fun w m => ∀ f, t = some f → tagged b f w m }

/-- What a returning atomic does outside. -/
def returns (kind : Nat) (pair : Bool) (d a b : BitVec 7) (sc : BitVec 2) : Outside :=
  atomics kind sc.toNat (amosOf (fun _ w l => w.pair a l) (fun w l => (w.src b l).val) (secondWord pair b)
    (fun w l => some (cellAt (w.wb + d.toNat) l))) (fun w l => w.pair a l)

/-- What a no-return atomic does outside. -/
def silent (kind : Nat) (pair : Bool) (a b : BitVec 7) (sc : BitVec 2) : Outside :=
  atomics kind sc.toNat (amosOf (fun _ w l => w.pair a l) (fun w l => (w.src b l).val) (secondWord pair b) (fun _ _ => none))
    (fun w l => w.pair a l)

/-- What ACCB does outside: its lanes in ascending order; the counted operation holds the additions that wait for a tile. -/
def accumulates (d a : BitVec 7) (i : BitVec 11) : Outside := fun s iss lanes w =>
  match s.checkLanes iss.wave w ⟨4, 4, false, true, .rw, true⟩ (fun l => [fbAddress 4 a i iss w l]) (lanesOf lanes) [] with
  | (s1, .ok got) =>
    let amos := amosOf (fun iss w l => fbAddress 4 a i iss w l) (fun w l => (w.grp d 0 l).val) (fun _ _ => 0) (fun _ _ => none) iss w got
    if amos.any (fun x => x.place.limit.isNone && s1.unreadable w.group (cidOf iss.wave) x) || amos.any (s1.accbWaits w) then none
    else
      let r := amos.foldl (AccRun.step iss w) { s := s1, adds := [], waits := [] }
      some (r.s.tick1, fun o => o.kind = .accb ∧ o.done = false ∧ o.adds = r.adds ∧ o.waits = r.waits)
  | (_, .error _) => none

/-- What ENQ and DEQ do outside: every lane's block and its entries pass the checks of R178 and R196, no earlier access of the wave to an entry
and no core of another device holds them back, and the entries that DEQ takes can be read; then each lane's operation is
performed at the home of its block, in ascending lane order; the counted operation holds the values returned. A ring of another device is
not covered: the instruction waits for the answers. -/
def rings (enq : Bool) (sc : BitVec 2) (d a b : BitVec 7) : Outside := fun s iss lanes w =>
  match s.checkRings iss.wave w (w.pair a) (lanesOf lanes) [] with
  | (s2, .ok rs) =>
    match s2.checkEntries (cidOf iss.wave) w.ctx rs [] with
    | (s3, .ok rs) =>
      let clear := s3.clearAfar (rs.flatMap (fun r => r.key :: r.reach enq rs.length))
      match clear.1.checkTaken (if enq then [] else clear.1.takenEntries rs) with
      | (s4, .ok _) =>
        let r := rs.foldl (fun (r : AmoRun) x => r.ring iss enq sc.toNat x (w.src b x.lane).val (cellAt (w.wb + d.toNat) x.lane))
          { s := s4, replies := [], waits := [] }
        if w.asked.isEmpty && !s3.entriesWait w enq rs && clear.2 && r.answered then some ((r.s.dropRingLines rs).tick1, r.returned) else none
      | (_, .error _) => none
    | (_, .error _) => none
  | (_, .error _) => none

/-! ### Engine commands -/

/-- Queued command i with sub-operation sub, whose block has n words from scalar field a on (the first m of them named by its operands):
where its checks pass, it makes a device-scope boundary, enters its queues, writes its ticket to sd and is counted (07 R202 to R205). -/
def Enqueues (i : Instr) (sub m : Nat) (n : Wave → Nat) (d a : BitVec 7) (q : BitVec 4) : Prop :=
  ∀ s iss w lanes, Issues s iss w none [.scl d 1, .scl a m] false lanes → queueAccepted sub q.toNat = true →
    (Opnd.scl a (n w)).bad w = false → w.counter (queueCounter q.toNat) < 63 →
    s.blockFault iss w sub q.toNat (w.block a (n w)) = none →
    (s.boundary (cidOf iss.wave) w 2).2 = true →
    (s.boundary (cidOf iss.wave) w 2).1.queueRoom w.ctx (cidOf iss.wave) sub q.toNat (w.block a (n w)) = true →
    let r := (s.boundary (cidOf iss.wave) w 2).1.enqueueCommand iss w sub q.toNat (w.block a (n w))
    ∃ w' o, exec i s = .next (r.1.tick1.setWave iss.wave w') ∧ SameWave w w' ∧ Counts (queueCounter q.toNat) o w w' ∧
      Does { scalars := fun _ _ w => [(w.sb + d.toNat, BitVec.ofNat 32 (q.toNat + 16 * r.2))], fibre := regionEnds } iss lanes w w' ∧
      o.kind = .command (queueIndex (cidOf iss.wave) q.toNat) r.2 ∧ o.done = false

/-- Immediate command i: where its checks pass, no immediate command of its counter is unfinished and its value is there, sd gets the value
and the operation counted at issue is finished (07 R202). -/
def Answers (i : Instr) (sub n : Nat) (d a : BitVec 7) (q : BitVec 4) (value : State → Issue → Wave → List Word → Option (State × Word)) :
    Prop :=
  ∀ s iss w lanes t v, Issues s iss w none [.scl d 1, .scl a n] false lanes → queueAccepted sub q.toNat = true →
    w.counter (queueCounter q.toNat) < 63 → w.openImmediate (queueCounter q.toNat) = none →
    (∀ o ∈ w.ops (queueCounter q.toNat), o.uid ≠ s.fresh) → (∀ j x, w.wait ≠ some (.parkc j x)) →
    s.blockFault iss w sub q.toNat (w.block a n) = none → value s iss w (w.block a n) = some (t, v) →
    ∃ w', exec i s = .next (t.tick1.setWave iss.wave w') ∧ SameWave w w' ∧
      Does { scalars := fun _ _ w => [(w.sb + d.toNat, v)], fibre := regionEnds } iss lanes w w' ∧
      (w.ops (queueCounter q.toNat) = [] → SameCounters w w') ∧
      (∀ o os, w.ops (queueCounter q.toNat) = o :: os → o.done = false → ∃ o', o'.done = true ∧ Counts (queueCounter q.toNat) o' w w')

/-- The CCE of a cluster performs a CXFORK of the context, no step is under way, and the next step, read in state s1 as the bytes bs, is well
formed and has this code (12 R350, R352). -/
structure State.StepDue (s : State) (ctx cl code qi : Nat) (e : QEntry) (bs : List Byte) (s1 : State) : Prop where
  command : s.cceCommand ctx cl = some (qi, e)
  fork : e.sub = 14
  begun : e.held ≠ []
  sound : s.engineSpoiled ctx cl = false
  idle : (s.cceOf ctx cl).busy = false
  more : (s.cceOf ctx cl).step < e.nsteps
  read : s.engineRead ctx e 31 ((s.cceOf ctx cl).prog.toNat + 64 + 16 * (s.cceOf ctx cl).step) 16 = (s1, .ok bs)
  formed : stepOk bs = true
  code : (stepOf bs).code = code

/-- Event i begins a step with tiles: where the checks of the step pass and its result fits, the step is under way with the shape the checks
give; the tiles that no MAC tile computes follow at once (12 R352, R354, R359). -/
def BeginsStep (i : Instr) (ctx cl code : Nat) : Prop :=
  ∀ s qi e bs s1 s2 p, s.StepDue ctx cl code qi e bs s1 → planStep s1 ctx e (s.cceOf ctx cl) (stepOf bs) = (s2, .ok p) →
    (∀ n, p.size = some n → (s.cceOf ctx cl).overflows e.bfmt n (code == 11) = false) →
    let t := s2.modCce ctx cl (fun c => c.beginJob (bs ++ p.desc) p.result p.rows p.cols)
    exec i s = .next (
      if macStep code then
        (match (t.cceOf ctx cl).job with
          | some j => if (t.cceOf ctx cl).allDone j then t.finishJob ctx qi cl e j else t
          | none => t)
      else t.runTiles (p.rows * p.cols + 1) ctx qi cl e)

/-! ### Rays -/

/-- The fibres of the guarded lanes end and lose their bindings; the others keep bindings, predicates and registers, those of the batch at
the next instruction; counters, scalars and flags are as before (01 R10, R17; 04 R137). -/
structure EndsFibres (iss : Issue) (lanes : Word) (w w' : Wave) : Prop where
  counters : SameCounters w w'
  scalars : w'.scalars = w.scalars
  flags : w'.fsr = w.fsr
  live : ∀ l, l < 32 → (w'.fib l).live = ((w.fib l).live && !lanes.getLsbD l)
  unbound : ∀ l, l < 32 → lanes.getLsbD l = true → (w'.fib l).bound = .none
  others : ∀ l, l < 32 → lanes.getLsbD l = false → (w'.fib l).bound = (w.fib l).bound ∧ (w'.fib l).preds = (w.fib l).preds ∧
    (w'.fib l).pc = (if iss.batch.getLsbD l then iss.next else (w.fib l).pc) ∧ ∀ n, w'.regs.find? (cellAt n l) = w.regs.find? (cellAt n l)

/-- A decision of an any-hit episode: the fibres of the guarded lanes end and each one's ray goes on with its traversal as f makes it
(07 R228). -/
def Decides (i : Instr) (g : BitVec 2) (f : Ray → Ray) : Prop :=
  ∀ s iss w lanes, Issues s iss w (some g.toNat) [] false lanes →
    (∀ l, l < 32 → lanes.getLsbD l = true → (w.fib l).kind = 2 ∧ (s.rayAt w l).isSome = true) →
    ∃ w', EndsFibres iss lanes w w' ∧ exec i s = .next ((s.setWave iss.wave w').forRays w lanes (fun s id =>
      s.tick1.modRay id (fun r => { f r with place := .queued, entered := s.fresh })))

/-- What RAYLD does outside its wave: it takes the words of the slot each guarded lane is bound to, an item's below 16 only (07 R230). -/
def rayReads (d : BitVec 7) (c : BitVec 2) (n : BitVec 5) : Outside := fun s _ lanes w =>
  let k := 2 ^ c.toNat
  let ok (l : Nat) : Bool := (s.slotAt w l).any (fun r => !r.item || n.toNat + k ≤ 16)
  if c.toNat < 3 ∧ n.toNat % k = 0 ∧ (lanesOf lanes).all ok = true ∧ s.spoiled = [] then
    some (s.tick1, fun o => o.kind = .load ∧ o.done = false ∧ o.waits = [] ∧ o.writes = (lanesOf lanes).flatMap (fun l =>
      (List.range k).map (fun j => ⟨cellAt (w.wb + d.toNat + j) l, ((s.slotAt w l).map (fun r => r.word (n.toNat + j))).getD 0, 0⟩)))
  else none

/-- What RAYST does outside its wave: each guarded lane's words go to the record of its ray, where the episode may write them (07 R230, R231). -/
def rayWrites (d : BitVec 7) (c : BitVec 2) (n : BitVec 5) : Outside := fun s _ lanes w =>
  let k := 2 ^ c.toNat
  let may (l i : Nat) : Bool := if (w.fib l).kind = 2 then 17 ≤ i else i < 8 || i == 13 || i == 14 || 17 ≤ i
  let ok (l : Nat) : Bool := (s.rayAt w l).isSome && (List.range k).all (fun j => may l (n.toNat + j))
  if c.toNat < 3 ∧ n.toNat % k = 0 ∧ (lanesOf lanes).all ok = true then
    some (((lanesOf lanes).foldl (fun s l => match (w.fib l).rayId with
        | some id => s.modRay id (fun r => r.setWords ((List.range k).map (fun j => (n.toNat + j, (w.grp d j l).val))))
        | none => s) s).tick1,
      fun o => o.kind = .store ∧ o.done = false ∧ o.waits = [])
  else none

/-- The wave after an instruction that does its lanes one after another, which left it as w1: registers and bindings are those of w1, the
batch has moved on, no lane is left half done. -/
def GoesOn (iss : Issue) (w w1 w' : Wave) : Prop :=
  SameWave w w' ∧ SameCounters w w' ∧ w'.doneLanes = 0 ∧ w'.scalars = w.scalars ∧ w'.fsr = w.fsr ∧
  ∀ l, l < 32 → (w'.fib l).bound = (w1.fib l).bound ∧ (w'.fib l).live = (w.fib l).live ∧
    (w'.fib l).pc = (if iss.batch.getLsbD l then iss.next else (w.fib l).pc) ∧ ∀ n, w'.cell (cellAt n l) = w1.cell (cellAt n l)

/-! ### Control cores -/

/-- The answer to a record is noted (13 R374). -/
def State.noteAnswer (s : State) (ctx seq code : Nat) : State :=
  s.modCtx ctx (fun c => { c with pending := c.pending.map (fun p => if p.seq = seq then { p with answer := some code } else p) })

/-- An operation of CTXCTL has been started: busy, and its context and number in CTXCTL (13 R375). -/
def State.beginOp (s : State) (ctx op : Nat) : State :=
  { s with regs := { s.regs with busy := true, outcome := none, ctxctl := BitVec.ofNat 32 (ctx % 4096 + op * 4096) } }

/-- Nothing in the device holds or watches any byte of memory: no L1 holds Dirty bytes, copies or tiles, no drain is under way, no line is
marked and no word is monitored. -/
structure State.Undisturbed (s : State) : Prop where
  l1 : ∀ c ∈ s.cores, c.2.l1.dirty = [] ∧ c.2.l1.clean = [] ∧ c.2.l1.upd = [] ∧ c.2.l1.hold = []
  drains : s.drains = []
  tiles : s.tiles = []
  marks : s.marks = []
  monitors : ∀ x ∈ s.slices, x.2.entries = []

/-- Nothing but Dirty bytes stands between the cores and memory: no Update-only copy, tile or drain, no marked line, no monitored word. -/
structure State.OnlyDirty (s : State) : Prop where
  l1 : ∀ c ∈ s.cores, c.2.l1.upd = [] ∧ c.2.l1.hold = []
  drains : s.drains = []
  marks : s.marks = []
  monitors : ∀ x ∈ s.slices, x.2.entries = []

/-! ### One byte -/

/-- Location x is one of the n locations from l on. -/
def Loc.covers (l : Loc) (n : Nat) (x : Loc) : Prop :=
  match l, x with
  | .mem k _, .mem a _ => k ≤ a ∧ a < k + n
  | .core k, .core a => k ≤ a ∧ a < k + n
  | .cluster k, .cluster a => k ≤ a ∧ a < k + n
  | .chip k, .chip a => k ≤ a ∧ a < k + n
  | _, _ => False

/-- The byte at a location as a wave of a core and a group reads it: the core's own Dirty byte over memory, or the scratchpad's byte
(06 R181; 09 R272). -/
def State.seenByte (s : State) (cid gk : Nat) (x : Loc) : Byte :=
  match x with
  | .mem key _ => (((s.l1 cid).dirty.find? key).map DByte.val).getD (s.byte key)
  | loc => s.scratchByte gk cid loc 0

/-- Memory is in its canonical form: addresses strictly rising, no entry equal to what an unlisted address reads as. -/
def State.memoryOk (s : State) : Prop := memoryWf s.mem = true

end Sys2Proof.Machine
end

