-- ==== Sys2Proof/Certificates/Slice0/Obligations.lean ====
section
/-! DEFINITION. The statements for the provers. -/

open Sys2Proof Sys2Proof.Machine

/-- IADD to UMAX write the result of R114 (IMAD: R116) in each guarded lane and nothing else -/
def Obligations.VectorIntegerResults : Prop :=
  ∀ (d a b : BitVec 7) (g h : BitVec 2),
    Completes (.iadd d a b g h) (vecABD d a b g h (fun w l => ⟨(w.src a l).val + (w.src b l).val, 0⟩)) ∧
    Completes (.iadds d a b g h) (vecABD d a b g h (fun w l => ⟨clampS32 ((w.src a l).val.toInt + (w.src b l).val.toInt), 0⟩)) ∧
    Completes (.isub d a b g h) (vecABD d a b g h (fun w l => ⟨(w.src a l).val - (w.src b l).val, 0⟩)) ∧
    Completes (.isubs d a b g h) (vecABD d a b g h (fun w l => ⟨clampS32 ((w.src a l).val.toInt - (w.src b l).val.toInt), 0⟩)) ∧
    Completes (.imul d a b g h) (vecABD d a b g h (fun w l => ⟨(w.src a l).val * (w.src b l).val, 0⟩)) ∧
    Completes (.imulh d a b g h) (vecABD d a b g h (fun w l => ⟨BitVec.ofInt 32 ((w.src a l).val.toInt * (w.src b l).val.toInt / 2 ^ 32), 0⟩)) ∧
    Completes (.imulhu d a b g h) (vecABD d a b g h (fun w l => ⟨BitVec.ofNat 32 ((w.src a l).val.toNat * (w.src b l).val.toNat / 2 ^ 32), 0⟩)) ∧
    Completes (.imad d a b g h) (vecABD d a b g h (fun w l => ⟨(w.src a l).val * (w.src b l).val + (w.grp d 0 l).val, 0⟩)) ∧
    Completes (.land d a b g h) (vecABD d a b g h (fun w l => ⟨(w.src a l).val &&& (w.src b l).val, 0⟩)) ∧
    Completes (.lor d a b g h) (vecABD d a b g h (fun w l => ⟨(w.src a l).val ||| (w.src b l).val, 0⟩)) ∧
    Completes (.lxor d a b g h) (vecABD d a b g h (fun w l => ⟨(w.src a l).val ^^^ (w.src b l).val, 0⟩)) ∧
    Completes (.andn d a b g h) (vecABD d a b g h (fun w l => ⟨(w.src a l).val &&& ~~~(w.src b l).val, 0⟩)) ∧
    Completes (.imin d a b g h) (vecABD d a b g h (fun w l => ⟨if (w.src a l).val.toInt ≤ (w.src b l).val.toInt then (w.src a l).val else (w.src b l).val, 0⟩)) ∧
    Completes (.imax d a b g h) (vecABD d a b g h (fun w l => ⟨if (w.src a l).val.toInt ≤ (w.src b l).val.toInt then (w.src b l).val else (w.src a l).val, 0⟩)) ∧
    Completes (.umin d a b g h) (vecABD d a b g h (fun w l => ⟨if (w.src a l).val.toNat ≤ (w.src b l).val.toNat then (w.src a l).val else (w.src b l).val, 0⟩)) ∧
    Completes (.umax d a b g h) (vecABD d a b g h (fun w l => ⟨if (w.src a l).val.toNat ≤ (w.src b l).val.toNat then (w.src b l).val else (w.src a l).val, 0⟩))

/-- SHL, SHR, SAR and SSHL, SSHR, SSAR take the full 32-bit count of R115 -/
def Obligations.RegisterShifts : Prop :=
  ∀ (d a b : BitVec 7) (g h : BitVec 2),
    Completes (.shl d a b g h) (vecABD d a b g h (fun w l => ⟨shiftLeft (w.src a l).val (w.src b l).val, 0⟩)) ∧
    Completes (.shr d a b g h) (vecABD d a b g h (fun w l => ⟨shiftRight (w.src a l).val (w.src b l).val, 0⟩)) ∧
    Completes (.sar d a b g h) (vecABD d a b g h (fun w l => ⟨shiftSigned (w.src a l).val (w.src b l).val, 0⟩)) ∧
    Completes (.sshl d a b) (scalarABD d [a, b] (fun _ w => shiftLeft (w.sget a.toNat) (w.sget b.toNat)) (fun _ => 0)) ∧
    Completes (.sshr d a b) (scalarABD d [a, b] (fun _ w => shiftRight (w.sget a.toNat) (w.sget b.toNat)) (fun _ => 0)) ∧
    Completes (.ssar d a b) (scalarABD d [a, b] (fun _ w => shiftSigned (w.sget a.toNat) (w.sget b.toNat)) (fun _ => 0))

/-- MOV to BSWAP, LANEID and FIBID write the result of R118 in each guarded lane and nothing else -/
def Obligations.UnaryIntegerResults : Prop :=
  ∀ (d a : BitVec 7) (g h : BitVec 2),
    (h ≠ 2 →
    Completes (.mov d a g h) (vecAD d a g h (fun w l => ⟨(w.src a l).val, 0⟩)) ∧
    Completes (.lnot d a g h) (vecAD d a g h (fun w l => ⟨~~~(w.src a l).val, 0⟩)) ∧
    Completes (.neg d a g h) (vecAD d a g h (fun w l => ⟨0 - (w.src a l).val, 0⟩)) ∧
    Completes (.iabs d a g h) (vecAD d a g h (fun w l => ⟨BitVec.ofNat 32 (w.src a l).val.toInt.natAbs, 0⟩)) ∧
    Completes (.popc d a g h) (vecAD d a g h (fun w l => ⟨BitVec.ofNat 32 (bitCount (w.src a l).val), 0⟩)) ∧
    Completes (.clz d a g h) (vecAD d a g h (fun w l => ⟨BitVec.ofNat 32 (zerosAbove (w.src a l).val), 0⟩)) ∧
    Completes (.ctz d a g h) (vecAD d a g h (fun w l => ⟨BitVec.ofNat 32 (zerosBelow (w.src a l).val), 0⟩)) ∧
    (∃ r : Word → Word, (∀ x i, i < 32 → (r x).getLsbD i = x.getLsbD (31 - i)) ∧
      Completes (.brev d a g h) (vecAD d a g h (fun w l => ⟨r (w.src a l).val, 0⟩))) ∧
    (∃ r : Word → Word, (∀ x i, i < 32 → (r x).getLsbD i = x.getLsbD (8 * (3 - i / 8) + i % 8)) ∧
      Completes (.bswap d a g h) (vecAD d a g h (fun w l => ⟨r (w.src a l).val, 0⟩)))) ∧
    (h = 0 ∨ h = 3 →
    Completes (.laneid d g h) (vecD d g h (fun _ l => ⟨BitVec.ofNat 32 l, 0⟩)) ∧
    Completes (.fibid d g h) (vecD d g h (fun w l => ⟨BitVec.ofNat 32 (l + 32 * (w.fib l).gen.toNat), 0⟩)))

/-- IADDI to SARI, VMOVI, SMOVI and SADDI: results with the immediate of R90 in every fibre of the batch -/
def Obligations.ImmediateResults : Prop :=
  (∀ (d a : BitVec 7) (i : BitVec 11) (n : BitVec 5) (j : BitVec 18),
    Completes (.iaddi d a i) (immAD d a (fun iss w l => (w.grp a 0 l).val + ((iss.immB i).setWidth 32))) ∧
    Completes (.imuli d a i) (immAD d a (fun iss w l => (w.grp a 0 l).val * ((iss.immB i).setWidth 32))) ∧
    Completes (.andi d a i) (immAD d a (fun iss w l => (w.grp a 0 l).val &&& ((iss.immB i).setWidth 32))) ∧
    Completes (.ori d a i) (immAD d a (fun iss w l => (w.grp a 0 l).val ||| ((iss.immB i).setWidth 32))) ∧
    Completes (.xori d a i) (immAD d a (fun iss w l => (w.grp a 0 l).val ^^^ ((iss.immB i).setWidth 32))) ∧
    Completes (.shli d a n) (immAD d a (fun _ w l => shiftLeft (w.grp a 0 l).val (n.setWidth 32))) ∧
    Completes (.shri d a n) (immAD d a (fun _ w l => shiftRight (w.grp a 0 l).val (n.setWidth 32))) ∧
    Completes (.sari d a n) (immAD d a (fun _ w l => shiftSigned (w.grp a 0 l).val (n.setWidth 32))) ∧
    Completes (.vmovi d j) (immD d (fun iss => (iss.immC j).setWidth 32)) ∧
    Completes (.smovi d j) (scalarABD d [] (fun iss _ => (iss.immC j).setWidth 32) (fun _ => 0)) ∧
    Completes (.saddi d a i) (scalarABD d [a] (fun iss w => w.sget a.toNat + (iss.immB i).setWidth 32) (fun _ => 0))) ∧
  (∀ (iss : Issue) (i : BitVec 11) (j : BitVec 18) (v : BitVec 25),
    (iss.ext = none → iss.immB i = i.signExtend 64 ∧ iss.immC j = j.signExtend 64) ∧
    (iss.ext = some v → iss.immB i = (v ++ i : BitVec 36).signExtend 64 ∧
      iss.immC j = (v ++ j.setWidth 11 : BitVec 36).signExtend 64))

/-- LEA2 and LEA3 write the a-pair plus the sign-extended b shifted by s to the d-pair -/
def Obligations.AddressArithmetic : Prop :=
  ∀ (d a b : BitVec 7) (g : BitVec 2),
    Completes (.lea2 d a b g) (leaOf d a b g 2) ∧
    Completes (.lea3 d a b g) (leaOf d a b g 3)

/-- SADD to SSLT write the result of R128 to sd once per issue and set no flag -/
def Obligations.ScalarIntegerResults : Prop :=
  ∀ (d a b : BitVec 7),
    Completes (.sadd d a b) (scalarABD d [a, b] (fun _ w => let x := w.sget a.toNat; let y := w.sget b.toNat; x + y) (fun _ => 0)) ∧
    Completes (.ssub d a b) (scalarABD d [a, b] (fun _ w => let x := w.sget a.toNat; let y := w.sget b.toNat; x - y) (fun _ => 0)) ∧
    Completes (.smul d a b) (scalarABD d [a, b] (fun _ w => let x := w.sget a.toNat; let y := w.sget b.toNat; x * y) (fun _ => 0)) ∧
    Completes (.smulh d a b) (scalarABD d [a, b] (fun _ w => let x := w.sget a.toNat; let y := w.sget b.toNat; BitVec.ofInt 32 (x.toInt * y.toInt / 2 ^ 32)) (fun _ => 0)) ∧
    Completes (.sand d a b) (scalarABD d [a, b] (fun _ w => let x := w.sget a.toNat; let y := w.sget b.toNat; x &&& y) (fun _ => 0)) ∧
    Completes (.sor d a b) (scalarABD d [a, b] (fun _ w => let x := w.sget a.toNat; let y := w.sget b.toNat; x ||| y) (fun _ => 0)) ∧
    Completes (.sxor d a b) (scalarABD d [a, b] (fun _ w => let x := w.sget a.toNat; let y := w.sget b.toNat; x ^^^ y) (fun _ => 0)) ∧
    Completes (.smin d a b) (scalarABD d [a, b] (fun _ w => let x := w.sget a.toNat; let y := w.sget b.toNat; if x.toInt ≤ y.toInt then x else y) (fun _ => 0)) ∧
    Completes (.smax d a b) (scalarABD d [a, b] (fun _ w => let x := w.sget a.toNat; let y := w.sget b.toNat; if x.toInt ≤ y.toInt then y else x) (fun _ => 0)) ∧
    Completes (.sumin d a b) (scalarABD d [a, b] (fun _ w => let x := w.sget a.toNat; let y := w.sget b.toNat; if x.toNat ≤ y.toNat then x else y) (fun _ => 0)) ∧
    Completes (.sumax d a b) (scalarABD d [a, b] (fun _ w => let x := w.sget a.toNat; let y := w.sget b.toNat; if x.toNat ≤ y.toNat then y else x) (fun _ => 0)) ∧
    Completes (.sslt d a b) (scalarABD d [a, b] (fun _ w => let x := w.sget a.toNat; let y := w.sget b.toNat; if x.toInt < y.toInt then 1 else 0) (fun _ => 0)) ∧
    Completes (.smov d a) (scalarABD d [a] (fun _ w => w.sget a.toNat) (fun _ => 0))

/-- FADD to FCLAMP write the result of R144 tagged F32 and raise the flags of their guarded lanes -/
def Obligations.FloatArithmeticResults : Prop :=
  ∀ (d a b : BitVec 7) (g h : BitVec 2),
    Completes (.fadd d a b g h) (floatABD 1 1 d a b g h (fun w x y _ => fadd w.rm x y)) ∧
    Completes (.fsub d a b g h) (floatABD 1 1 d a b g h (fun w x y _ => fsub w.rm x y)) ∧
    Completes (.fmul d a b g h) (floatABD 1 1 d a b g h (fun w x y _ => fmul w.rm x y)) ∧
    Completes (.ffma d a b g h) (floatABDC 1 1 d a b g h (fun w x y c => ffma w.rm x y c)) ∧
    Completes (.fmin d a b g h) (floatABD 1 1 d a b g h (fun _ x y _ => (fmin x y, 0))) ∧
    Completes (.fmax d a b g h) (floatABD 1 1 d a b g h (fun _ x y _ => (fmax x y, 0))) ∧
    Completes (.fclamp d a b g h) (floatABDC 1 1 d a b g h (fun _ x y c => (fmin (fmax c x) y, 0)))

/-- FMOV to FSIGN write the result of R146 tagged F32 and raise the flags of their guarded lanes -/
def Obligations.FloatUnaryResults : Prop :=
  ∀ (d a : BitVec 7) (g h : BitVec 2), h ≠ 2 →
    Completes (.fmov d a g h) (floatAD d a g h (fun w x => (if (f32 x).isNan then 0x7FC00000 else x, 0))) ∧
    Completes (.fneg d a g h) (floatAD d a g h (fun w x => (if (f32 x).isNan then 0x7FC00000 else x ^^^ 0x80000000, 0))) ∧
    Completes (.fabs d a g h) (floatAD d a g h (fun w x => (if (f32 x).isNan then 0x7FC00000 else x &&& 0x7FFFFFFF, 0))) ∧
    Completes (.frcp d a g h) (floatAD d a g h (fun w x => frcp w.rm x)) ∧
    Completes (.frsq d a g h) (floatAD d a g h (fun w x => frsq x)) ∧
    Completes (.fsqrt d a g h) (floatAD d a g h (fun w x => fsqrt w.rm x)) ∧
    Completes (.fexp2 d a g h) (floatAD d a g h (fun w x => fexp2 x)) ∧
    Completes (.flog2 d a g h) (floatAD d a g h (fun w x => flog2 x)) ∧
    Completes (.fsin d a g h) (floatAD d a g h (fun w x => fsin x)) ∧
    Completes (.fcos d a g h) (floatAD d a g h (fun w x => fcos x)) ∧
    Completes (.ffloor d a g h) (floatAD d a g h (fun w x => ((toIntegral .rdn x).1, 0))) ∧
    Completes (.fceil d a g h) (floatAD d a g h (fun w x => ((toIntegral .rup x).1, 0))) ∧
    Completes (.ftrunc d a g h) (floatAD d a g h (fun w x => ((toIntegral .rtz x).1, 0))) ∧
    Completes (.frint d a g h) (floatAD d a g h (fun w x => ((toIntegral w.rm x).1, if (toIntegral w.rm x).2 then Flags.inexact else 0))) ∧
    Completes (.ffract d a g h) (floatAD d a g h (fun w x => ffract x)) ∧
    Completes (.fsign d a g h) (floatAD d a g h (fun w x => (fsign x, 0)))

/-- HADD2 to HMAX2, DOT2H and both forms of DOT4Q write the result of R148 to R150 -/
def Obligations.PackedAndDotResults : Prop :=
  ∀ (d a b : BitVec 7) (g h : BitVec 2),
    Completes (.hadd2 d a b g h) (floatABD 2 2 d a b g h (fun w x y _ => halves (fun x y _ => dotF16 w.rm [] [f16 x, f16 y]) x y 0)) ∧
    Completes (.hsub2 d a b g h) (floatABD 2 2 d a b g h (fun w x y _ => halves (fun x y _ => dotF16 w.rm [] [f16 x, (f16 y).flip]) x y 0)) ∧
    Completes (.hmul2 d a b g h) (floatABD 2 2 d a b g h (fun w x y _ => halves (fun x y _ => mulF16 w.rm x y) x y 0)) ∧
    Completes (.hmin2 d a b g h) (floatABD 2 2 d a b g h (fun w x y _ => halves (fun x y _ => (minF16 false x y, 0)) x y 0)) ∧
    Completes (.hmax2 d a b g h) (floatABD 2 2 d a b g h (fun w x y _ => halves (fun x y _ => (minF16 true x y, 0)) x y 0)) ∧
    Completes (.hfma2 d a b g h) (floatABDC 2 2 d a b g h (fun w x y c => halves (fun x y z => dotF16 w.rm [(f16 x, f16 y)] [f16 z]) x y c)) ∧
    Completes (.dot2h d a b g h) (floatABDC 2 1 d a b g h (fun w x y c =>
      dotF32 w.rm [(f16 (x.toNat % 65536), f16 (y.toNat % 65536)), (f16 (x.toNat / 65536), f16 (y.toNat / 65536))] [f32 c])) ∧
    Completes (.dot4q d a b g h) (dot4Float d a b g h) ∧
    Completes (.dot4q d a b g h) (dot4Int d a b g h)

/-- CADD to CSCALE write the components of R152 and R79, each rounded in FSR.RM, and raise their flags -/
def Obligations.ComplexResults : Prop :=
  ∀ (d a b : BitVec 7) (g : BitVec 2),
    Completes (.cadd d a b g) (complexABD false d a b g (fun m x y c => (sumF32 m false [x.1, y.1], sumF32 m false [x.2, y.2]))) ∧
    Completes (.csub d a b g) (complexABD false d a b g (fun m x y c => (sumF32 m false [x.1, y.1.flip], sumF32 m false [x.2, y.2.flip]))) ∧
    Completes (.cmul d a b g) (complexABD false d a b g (fun m x y c => (dotF32 m [(x.1, y.1), (x.2.flip, y.2)] [], dotF32 m [(x.1, y.2), (x.2, y.1)] []))) ∧
    Completes (.cfma d a b g) (complexABD true d a b g (fun m x y c => (dotF32 m [(x.1, y.1), (x.2.flip, y.2)] [c.1], dotF32 m [(x.1, y.2), (x.2, y.1)] [c.2]))) ∧
    Completes (.ccmul d a b g) (complexABD false d a b g (fun m x y c => (dotF32 m [(x.1, y.1), (x.2, y.2)] [], dotF32 m [(x.1, y.2), (x.2.flip, y.1)] []))) ∧
    Completes (.cmag2 d a g) (complexAD d a g) ∧
    Completes (.cexpi d a g) (complexOf d a g) ∧
    Completes (.cscale d a b g) (complexScale d a b g)

/-- SFADD to SFCMPLT write the result of R151 to sd once per issue and OR their flags into FSR -/
def Obligations.ScalarFloatResults : Prop :=
  ∀ (d a b : BitVec 7),
    Completes (.sfadd d a b) (scalarFloat d [a, b] (fun w => let x := w.sget a.toNat; let y := w.sget b.toNat; fadd w.rm x y)) ∧
    Completes (.sfsub d a b) (scalarFloat d [a, b] (fun w => let x := w.sget a.toNat; let y := w.sget b.toNat; fsub w.rm x y)) ∧
    Completes (.sfmul d a b) (scalarFloat d [a, b] (fun w => let x := w.sget a.toNat; let y := w.sget b.toNat; fmul w.rm x y)) ∧
    Completes (.sfmin d a b) (scalarFloat d [a, b] (fun w => let x := w.sget a.toNat; let y := w.sget b.toNat; (fmin x y, 0))) ∧
    Completes (.sfmax d a b) (scalarFloat d [a, b] (fun w => let x := w.sget a.toNat; let y := w.sget b.toNat; (fmax x y, 0))) ∧
    Completes (.sfcmplt d a b) (scalarFloat d [a, b] (fun w => let x := w.sget a.toNat; let y := w.sget b.toNat; (if (f32 x).cmp (f32 y) = some .lt then 1 else 0, if (f32 x).isNan || (f32 y).isNan then Flags.invalid else 0))) ∧
    Completes (.sffma d a b) (scalarFloat d [a, b] (fun w => ffma w.rm (w.sget a.toNat) (w.sget b.toNat) (w.sget d.toNat))) ∧
    Completes (.sfrcp d a) (scalarFloat d [a] (fun w => frcp w.rm (w.sget a.toNat))) ∧
    Completes (.sfrsq d a) (scalarFloat d [a] (fun w => frsq (w.sget a.toNat))) ∧
    Completes (.sfsqrt d a) (scalarFloat d [a] (fun w => fsqrt w.rm (w.sget a.toNat))) ∧
    Completes (.scvtfi d a) (scalarFloat d [a] (fun w => let r := toIntRange w.rm (-2147483648) 2147483647 (f32 (w.sget a.toNat)); (BitVec.ofInt 32 r.1, r.2))) ∧
    Completes (.scvtif d a) (scalarFloat d [a] (fun w => roundF32 w.rm (.ofInt (w.sget a.toNat).toInt)))

/-- ICMP, UCMP, FCMP, HCMP and ICMPI write the condition of R123 to pd in each guarded lane -/
def Obligations.CompareResults : Prop :=
  ∀ (c : BitVec 4) (p : BitVec 3) (a b : BitVec 7) (g : BitVec 2) (i : BitVec 11),
    (c.toNat < 6 →
    Completes (.icmp c p a b g) (compareAB c p a b g (fun x y => compare x.toInt y.toInt)) ∧
    Completes (.ucmp c p a b g) (compareAB c p a b g (fun x y => compare x.toNat y.toNat)) ∧
    Completes (.icmpi c p a i) (compareAI c p a i)) ∧
    (c.toNat < 13 →
    Completes (.fcmp c p a b g) (compareFloat 1 c p a b g (fun x y => [(f32 x, f32 y)])) ∧
    Completes (.hcmp c p a b g) (compareFloat 2 c p a b g (fun x y =>
      [(f16 (x.toNat % 65536), f16 (y.toNat % 65536)), (f16 (x.toNat / 65536), f16 (y.toNat / 65536))])))

/-- PLOG, PMOV and VOTE: predicate logic, moves and votes over the guarded lanes of the batch -/
def Obligations.PredicateResults : Prop :=
  ∀ (e : BitVec 3) (n : BitVec 1) (q : BitVec 3) (o : BitVec 2) (m : BitVec 1) (r : BitVec 3) (g : BitVec 2) (d a : BitVec 7),
    (o ≠ 3 → Completes (.plog e n q o m r g) (predEffect g (fun _ _ w l f =>
      f.setPred e.toNat (logicOf o ((w.fib l).pred q.toNat != (n == 1)) ((w.fib l).pred r.toNat != (m == 1)))))) ∧
    (d.toNat < 8 → a.toNat < 16 → Completes (.pmov d a 0 g) (predEffect g (fun _ _ w l f =>
      f.setPred d.toNat ((w.fib l).pred (a.toNat % 8) != decide (8 ≤ a.toNat))))) ∧
    Completes (.pmov d 0 1 g) (laneResult d g [] (fun _ _ w l => ⟨((w.fib l).preds ||| 1).setWidth 32, 0⟩)) ∧
    Completes (.pmov 0 a 2 g) (readsEffect g [.src a] (fun w l f => { f with preds := ((w.src a l).val.setWidth 8 &&& 0xFE) ||| 1 })) ∧
    (∀ k : BitVec 2, k ≠ 2 → d.toNat < 8 → Completes (.vote d n q k g) (predEffect g (fun _ lanes w _ f =>
      f.setPred d.toNat (voteOf k lanes (fun j => (w.fib j).pred q.toNat != (n == 1)))))) ∧
    Completes (.vote d n q 2 g) (laneResult d g [] (fun _ lanes w _ => ⟨ballotOf lanes (fun j => (w.fib j).pred q.toNat != (n == 1)), 0⟩))

/-- CVT, PACK, both UNPACKs, SETTAG, GETTAG and SHFL write the converted, packed, widened, expanded, tagged or moved values -/
def Obligations.ConversionResults : Prop :=
  ∀ (d a b : BitVec 7) (s : BitVec 1) (t : BitVec 6) (k g h : BitVec 2),
    (cvtOk s t = true → tagDefined t = true → h ≠ 2 → Completes (.cvt d a s t g h) (convertOf d a s t g h)) ∧
    (packOk s t = true → tagDefined t = true → (h = 0 ∨ h = 3) → Completes (.pack d a s t g h) (packOf d a s t g h)) ∧
    (k ≠ 3 → (h = 0 ∨ h = 1) → Completes (.unpackWiden d a k g h) (widenOf d a k g h)) ∧
    Completes (.unpackBlock d a g) (expandOf d a g) ∧
    (h ≠ 2 → tagDefined t = true → Completes (.settag d a t g h) (vecAD d a g h (fun w l => ⟨(w.src a l).val, t⟩))) ∧
    (h ≠ 2 → Completes (.gettag d a g h) (vecAD d a g h (fun w l => ⟨(w.src a l).tag.setWidth 32, 0⟩))) ∧
    Completes (.shfl d a b g h) (shuffleOf d a b g h)

/-- TMMA to TBIAS write their fragment in the active lanes, count on TX and stay unfinished until they complete -/
def Obligations.TileResults : Prop :=
  ∀ (d a b : BitVec 7) (s : BitVec 1) (t : BitVec 6) (f : BitVec 3) (o m : BitVec 2),
    (m.toNat < 2 → TileCompletes (.tmma d a b m) d 8 (multiplyOf false 16 d a b m) ∧
      TileCompletes (.tmma d a b m) d 8 (multiplyOf false 32 d a b m) ∧
      TileCompletes (.tmma d a b m) d 8 (multiplyOf false 64 d a b m)) ∧
    (m.toNat < 2 → TileCompletes (.tmmat d a b m) d 8 (multiplyOf true 16 d a b m) ∧
      TileCompletes (.tmmat d a b m) d 8 (multiplyOf true 32 d a b m) ∧
      TileCompletes (.tmmat d a b m) d 8 (multiplyOf true 64 d a b m)) ∧
    (m.toNat < 2 → TileCompletes (.tzero d m) d 8 (accOf d [] (fun _ _ => True) (fun _ _ _ _ => (0, 0)))) ∧
    (m.toNat < 2 → TileCompletes (.ttrnFragment d a m) d 4 (transposeHalves d a m)) ∧
    (m.toNat < 2 → TileCompletes (.ttrnAccumulator d a m) d 8 { accOf d [.vec a 8 8] (fun w src => groupTagged a 8 1 w (tileLanes m src))
      (fun w lanes r c => (if (tileLanes m lanes).getLsbD (accPlace c r).1 then w.accWord a c r else 0, 0)) with
        reach := allSlots m [.vec a 8 8] }) ∧
    (m.toNat < 2 → (f.toNat < 6 → TileCompletes (.tact d a f m) d 8 (accOf d [.vec a 8 8] (groupTagged a 8 1)
      (fun w _ r c => actFn f.toNat (w.accWord a r c))))) ∧
    (m.toNat < 2 → (tcvtOk t = true → tagDefined t = true → TileCompletes (.tcvt d a s t m) d 4 (convertTile d a s t))) ∧
    (m.toNat < 2 → (o ≠ 3 → TileCompletes (.tred d a o m) d 1 (reduceOf d a o m))) ∧
    (m.toNat < 2 → TileCompletes (.tbias d a b m) d 8 { accOf d [.vec a 8 8, .vec b 1 1]
      (fun w src => groupTagged a 8 1 w (tileLanes m src) ∧ groupTagged b 1 1 w (tileLanes m src &&& 0xFFFF))
      (fun w lanes r c => sumF32 .rne false [f32 (w.accWord a r c),
        f32 (if (tileLanes m lanes &&& 0xFFFF).getLsbD c then (w.grp b 0 c).val else 0)]) with
        reach := fun w => allSlots m [.vec a 8 8] w ++
          (if m = 0 then (List.range 16).map (fun l => Site.register w.uid (cellAt (w.wb + b.toNat) l)) else []) })

/-- LDB to LDQ, LDV, LDF, LDE and TLD mark their registers EMPTY, count on LD and hold the loaded bytes until they land -/
def Obligations.LoadsComplete : Prop :=
  ∀ (d a b : BitVec 7) (i : BitVec 11) (t : BitVec 6) (e : BitVec 5) (g m : BitVec 2),
    CompletesIn (.ldb d a i) (some .ld) (loadEffect d 1 none [.vec d 1 1, .vec a 2 2]) (loadsBytes 1 false d a i) ∧
    CompletesIn (.ldh d a i) (some .ld) (loadEffect d 1 none [.vec d 1 1, .vec a 2 2]) (loadsBytes 2 false d a i) ∧
    CompletesIn (.ldw d a i) (some .ld) (loadEffect d 1 none [.vec d 1 1, .vec a 2 2]) (loadsBytes 4 false d a i) ∧
    CompletesIn (.ldd d a i) (some .ld) (loadEffect d 2 none [.vec d 2 2, .vec a 2 2]) (loadsBytes 8 false d a i) ∧
    CompletesIn (.ldq d a i) (some .ld) (loadEffect d 4 none [.vec d 4 4, .vec a 2 2]) (loadsBytes 16 false d a i) ∧
    CompletesIn (.ldv d a i) (some .ld) (loadEffect d 1 none [.vec d 1 1, .vec a 2 2]) (loadsBytes 4 true d a i) ∧
    (tagDefined t = true → CompletesIn (.ldf d a t g) (some .ld) (loadEffect d 1 (some g.toNat) [.vec d 1 1, .vec a 2 2])
      (loads (Access.load 4) false 31 (fun _ _ w l => [w.pair a l]) (elementAsks d (fun _ => t) (fun _ _ w l => [w.pair a l])))) ∧
    CompletesIn (.lde d a e g) (some .ld) (loadEffect d 1 (some g.toNat) [.vec d 1 1, .vec a 2 2])
      (loads { Access.load 4 with bounded := true } false e.toNat (fun _ _ w l => [w.pair a l])
        (elementAsks d (fun _ => 0) (fun _ _ w l => [w.pair a l]))) ∧
    (∀ r, m.toNat < 2 → CompletesIn (.tld d a b m) (some .ld)
      { loadEffect d r.regs none [.vec a 2 2, .scl b 1, .vec d r.regs r.regs] with
        tags := fun w lanes => strideOf (w.sget b.toNat) = some r ∧ (w.pair a (lowest lanes)).toNat % 32 = 0 }
      (loads (Access.load 4) false 31 (fragAddrs r a) (elementAsks d (fun _ => r.tag) (fragAddrs r a))))

/-- STB to STQ and TST perform the low bytes of their registers in lane order and count on ST -/
def Obligations.StoresComplete : Prop :=
  ∀ (d a b : BitVec 7) (i : BitVec 11) (m : BitVec 2),
    CompletesIn (.stb d a i) (some .st) { ops := [.vec d 1 1, .vec a 2 2], guard := none } (storesBytes 1 d a i) ∧
    CompletesIn (.sth d a i) (some .st) { ops := [.vec d 1 1, .vec a 2 2], guard := none } (storesBytes 2 d a i) ∧
    CompletesIn (.stw d a i) (some .st) { ops := [.vec d 1 1, .vec a 2 2], guard := none } (storesBytes 4 d a i) ∧
    CompletesIn (.std d a i) (some .st) { ops := [.vec d 2 2, .vec a 2 2], guard := none } (storesBytes 8 d a i) ∧
    CompletesIn (.stq d a i) (some .st) { ops := [.vec d 4 4, .vec a 2 2], guard := none } (storesBytes 16 d a i) ∧
    (∀ r, m.toNat < 2 → CompletesIn (.tst d a b m) (some .st)
      { guard := none, ops := [.vec a 2 2, .scl b 1, .vec d r.regs r.regs],
        tags := fun w lanes => strideOf (w.sget b.toNat) = some r ∧ (w.pair a (lowest lanes)).toNat % 32 = 0 }
      (stores (Access.store 4) (fragAddrs r a) (fun _ w got => got.flatMap (fun x => x.2.mapIdx (fun j p =>
        { place := p, bytes := bytesOf 4 (w.grp d j x.1).val.toNat })))))

/-- BR, BRX, RET, CALL and JOIN set the PCs of their lanes, park and release them as R131 to R138 say. That BR with a yield (M = 11) keeps
each lane of its batch back until every fibre owed to it has run, whatever other batches yield, is the model's reading of R18 (log entry
40, DEDUCED). -/
def Obligations.ControlTransfers : Prop :=
  ∀ (p : BitVec 3) (n : BitVec 1) (m : BitVec 2) (s : BitVec 19) (a : BitVec 7) (g : BitVec 2) (i : BitVec 18) (k : BitVec 8),
    Completes (.br p n m s) (branchOf p n m s) ∧
    Completes (.brx a g) (branchTo a g) ∧
    Completes (.ret a g) (branchTo a g) ∧
    Completes (.call a i) (callOf a i) ∧
    Completes (.join k) (joinOf k.toNat)

/-- FORK starts one fibre per lane of the batch in the lowest free lane slots and gives 0xFFFF_FFFF where none is left. That the child
starts with kind 0 and as a forked fibre is the model's reading (log entry 20, DEDUCED). -/
def Obligations.ForkStarts : Prop :=
  ∀ d i s iss w lanes, Issues s iss w none [.vec d 1 1] false lanes → w.forkWaits lanes = false →
    (∀ l, l < 32 → lanes.getLsbD l = true → (w.fib l).live = true) →
    ∃ w', exec (.fork d i) s = .next (s.setWave iss.wave w') ∧ SameWave w w' ∧ SameCounters w w' ∧ w'.scalars = w.scalars ∧ w'.fsr = w.fsr ∧
      ∀ (j l : Nat), (lanesOf lanes)[j]? = some l →
        w'.fib l = { w.fib l with pc := iss.next, owed := 0 } ∧
        match w.freeLanes[j]? with
        | some c =>
          w'.fib c = ⟨true, iss.pc + iss.immC i * 4, iss.pc + iss.immC i * 4, (w.fib l).preds, (w.fib c).gen + 1, none, 0,
            .none, 0, true, false⟩ ∧
          w'.cell (cellAt (w.wb + d.toNat) l) = ⟨BitVec.ofNat 32 (c + 32 * ((w.fib c).gen + 1).toNat), 0, false⟩ ∧
          w'.cell (cellAt (w.wb + d.toNat) c) = ⟨BitVec.ofNat 32 (l + 32 * (w.fib l).gen.toNat), 0, false⟩ ∧
          ∀ n, n < w.need → n ≠ w.wb + d.toNat → w'.cell (cellAt n c) = w.cell (cellAt n l)
        | none => w'.cell (cellAt (w.wb + d.toNat) l) = ⟨0xFFFFFFFF, 0, false⟩

/-- FEND ends the fibres of its guarded lanes, releases what they are bound to, and leaves the other fibres running -/
def Obligations.FibreEnds : Prop :=
  ∀ (g : BitVec 2) s iss w lanes, Issues s iss w (some g.toNat) [] false lanes →
    ∃ w' t, exec (.fend g) s = .next t ∧
      t = (lanesOf lanes).foldl (fun u l => u.release (w.fib l).bound) (s.setWave iss.wave w') ∧
      (∀ key, t.byte key = s.byte key) ∧ w'.scalars = w.scalars ∧ w'.fsr = w.fsr ∧ SameCounters w w' ∧
      ∀ l, l < 32 →
        (w'.fib l).live = ((w.fib l).live && !lanes.getLsbD l) ∧
        (lanes.getLsbD l = true → (w'.fib l).bound = .none) ∧
        (lanes.getLsbD l = false → (w'.fib l).bound = (w.fib l).bound ∧ (w'.fib l).preds = (w.fib l).preds ∧
          (w'.fib l).pc = (if iss.batch.getLsbD l then iss.next else (w.fib l).pc) ∧
          ∀ n, w'.regs.find? (cellAt n l) = w.regs.find? (cellAt n l))

/-- NOP, YIELD, REGION, GETSR, SETSR, RDCYC, WINB, SWINB, BCAST, RDLANE, WRLANE, REGREQ and REGREL have the effect of R237. The model's
readings here: which fibres YIELD owes a turn is log entry 40, RDLANE of an EMPTY lane outside the batch log entry 12, GETSR's scalar
form with no guarded fibre log entry 32 (all DEDUCED). -/
def Obligations.SystemResults : Prop :=
  ∀ (d a e : BitVec 7) (g : BitVec 2) (n : BitVec 5) (b : BitVec 1) (q : BitVec 7),
    Completes .nop {} ∧
    Completes .yield { after := yields } ∧
    Completes .region { fibre := regionEnds } ∧
    (selectorOk e = true → ∀ s iss w lanes, Issues s iss w (some g.toNat) [if e = 3 then .vec d 2 2 else .vec d 1 1] false lanes →
      Finishes (.getsr d e 0 g) s s iss lanes w (specialVector e d g (s.special iss w e.toNat))) ∧
    (selectorOk e = true → ∀ s iss w lanes, Issues s iss w (some g.toNat) [.scl d (if e = 3 then 2 else 1)] false lanes →
      Finishes (.getsr d e 1 g) s s iss lanes w (specialScalar e d (s.special iss w e.toNat))) ∧
    (∀ (s : State) (iss : Issue) (w : Wave), let v (n : Nat) : Addr := s.special iss w n
      v 0 = BitVec.ofNat 64 w.wb ∧ v 1 = BitVec.ofNat 64 w.sb ∧ (w.need ≤ 256 → (v 2).toNat % 2 ^ 10 = w.need ∧
        (w.sneed ≤ 192 → (v 2).toNat / 2 ^ 10 = w.sneed / 64)) ∧ v 3 = (w.fib (lowest iss.batch)).region ∧ v 4 = w.fsr.setWidth 64 ∧
      v 5 = BitVec.ofNat 64 w.lid ∧ v 6 = w.gx.setWidth 64 ∧ v 7 = w.gy.setWidth 64 ∧ v 8 = w.gz.setWidth 64 ∧ v 9 = BitVec.ofNat 64 w.wid ∧
      v 10 = BitVec.ofNat 64 (cidOf iss.wave) ∧ v 11 = BitVec.ofNat 64 (cidOf iss.wave / 8) ∧ v 12 = BitVec.ofNat 64 s.did ∧
      v 13 = BitVec.ofNat 64 w.depth ∧ v 14 = BitVec.ofNat 64 (s.core (cidOf iss.wave)).split ∧
      ∀ n, n < 16 → v (16 + n) = (s.rowc (cidOf iss.wave) n).val.setWidth 64) ∧
    (∀ x : BitVec 7, selectorOk x = decide (x.toNat < 15 ∨ 16 ≤ x.toNat ∧ x.toNat < 32)) ∧
    CompletesOn (.setsr 4 a g) (some g.toNat) [.src a] (fun _ _ _ _ => True) (fun lanes w => { w with fsr := (w.src a (lowest lanes)).val &&& 0x31F }) ∧
    (∀ s iss w lanes, Issues s iss w (some g.toNat) [.vec d 2 2] false lanes →
      Finishes (.rdcyc d g) s s iss lanes w (cycleOf d g (BitVec.ofNat 64 s.cycle))) ∧
    CompletesOn (.winb n) none [] (fun _ _ _ w => 8 * n.toNat + 8 ≤ w.need) (fun _ w => { w with wb := 8 * n.toNat }) ∧
    CompletesOn (.swinb b) none [] (fun _ _ _ w => 64 * b.toNat + 64 ≤ w.sneed) (fun _ w => { w with sb := 64 * b.toNat }) ∧
    Completes (.bcast d a b g) (broadcastOf d a b g) ∧
    Completes (.rdlane d a g)
      { guard := some g.toNat, ops := [.scl d 1, .src a], reach := fun w => [w.siteOf a ((w.sget d.toNat).toNat % 32)], scalars := fun _ _ w => [(w.sb + d.toNat, (w.srcAny a ((w.sget d.toNat).toNat % 32)).val)] } ∧
    CompletesOn (.wrlane d a g) (some g.toNat) [.vec d 1 1, .scl a 2]
      (fun _ _ _ w => (w.cell (cellAt (w.wb + d.toNat) ((w.sget (a.toNat + 1)).toNat % 32))).empty = false)
      (fun _ w => w.setCell (cellAt (w.wb + d.toNat) ((w.sget (a.toNat + 1)).toNat % 32)) ⟨w.sget a.toNat, 0, false⟩) ∧
    CompletesOn (.regreq q) none [] (fun s iss _ w => w.need + 8 ≤ 8 * q.toNat ∧ 8 * q.toNat ≤ 256 ∧ 8 * q.toNat - w.need ≤ s.freeRegs (iss.wave / 48) ∧
      s.asksFirst iss.wave w = true)
      (fun _ w => { w with need := 8 * q.toNat }) ∧
    CompletesOn (.regrel q) none [] (fun _ _ _ w => 8 ≤ 8 * q.toNat ∧ 8 * q.toNat < w.need ∧ w.wb < 8 * q.toNat)
      (fun _ w => { w with need := 8 * q.toNat, epoch := w.epoch + 1, regs := w.regs.filter (fun c => decide (c.1 / 32 < 8 * q.toNat)) })

/-- REGREQ, PARKC, WAITC and PREFH wait or go on as R33, R139 and R237 say; TRAP and BKPT take their exceptions. That PARKC with all
counters zero yields as it does is the model's reading of R18 (log entry 40, DEDUCED). -/
def Obligations.WaitsAndTraps : Prop :=
  ∀ (a q : BitVec 7) (g : BitVec 2) (x y u v : BitVec 4),
    (∀ s iss w lanes, Issues s iss w none [] false lanes → 8 * q.toNat ≤ 256 → w.need + 8 ≤ 8 * q.toNat →
      (s.freeRegs (iss.wave / 48) < 8 * q.toNat - w.need ∨ s.asksFirst iss.wave w = false) →
      ∃ w', exec (.regreq q) s = .next (s.setWave iss.wave w') ∧ w'.need = w.need ∧ w'.regs = w.regs ∧ (w.run = .running → w'.wait = some (.regreq (8 * q.toNat)))) ∧
    (∀ s iss w lanes, Issues s iss w none [] false lanes → (w.ld ≠ [] ∨ w.st ≠ [] ∨ w.cp ≠ [] ∨ w.tx ≠ []) → w.run = .running →
      exec (.parkc q) s = .next (s.setWave iss.wave { w with wait := some (.parkc iss (if q = 0 then none else some (s.cycle + 256 * q.toNat))) })) ∧
    (∀ s iss w lanes, Issues s iss w none [] false lanes → w.ld = [] → w.st = [] → w.cp = [] → w.tx = [] →
      Finishes (.parkc q) s s iss lanes w { after := yields }) ∧
    (∀ s iss w lanes, Issues s iss w (some g.toNat) [] false lanes →
      exec (.trap q g) s = .next (s.takeTrap iss .software 0 (lowest lanes)) ∧ exec (.bkpt q g) s = .next (s.takeTrap iss .breakpoint 0 (lowest lanes))) ∧
    CompletesIn (.prefh a g) none { guard := some g.toNat, ops := [.vec a 2 2] } (fun s iss lanes w =>
      some ((lanesOf lanes).foldl (fun s l => s.prefetch iss.wave w l (w.pair a l)) s, fun _ => True)) ∧
    CompletesIn (.waitc x y u v) none {} (fun s iss _ w =>
      if (v = 15 ∨ w.ld.length ≤ v.toNat) ∧ (u = 15 ∨ w.st.length ≤ u.toNat) ∧ (y = 15 ∨ w.cp.length ≤ y.toNat) ∧ (x = 15 ∨ w.tx.length ≤ x.toNat)
      then some (if y = 15 ∧ x = 15 then s else s.dropClean (cidOf iss.wave), fun _ => True) else none) ∧
    (∀ s iss w, s.cur = some iss → s.waves.find? iss.wave = some w → w.run = .running → iss.batch ≠ 0 →
      ¬ ((v = 15 ∨ w.ld.length ≤ v.toNat) ∧ (u = 15 ∨ w.st.length ≤ u.toNat) ∧ (y = 15 ∨ w.cp.length ≤ y.toNat) ∧ (x = 15 ∨ w.tx.length ≤ x.toNat)) →
      exec (.waitc x y u v) s = .next (s.waitIssue iss))

/-- IMX runs the word after it with the 36-bit immediate V : low bits, as one instruction of 8 bytes, or traps at that word -/
def Obligations.ImxExtends : Prop :=
  (∀ v next i f s iss, s.cur = some iss → imxOpcodes.contains (next.toNat / 2 ^ 25) = true →
      (immediateC next = true → next.toNat / 2 ^ 11 % 128 = 0) → decodeWord next 0 = some i → follower next = some f →
      exec (.imx v next) s = exec i { s with cur := some (iss.extended v next) }) ∧
    (∀ v next i e s iss w lanes, imxOpcodes.contains (next.toNat / 2 ^ 25) = true → decodeWord next 0 = some i → (follower next).isSome = true →
      Completes i e → Extends s v next iss w e lanes →
      ∃ w', exec (.imx v next) s = .next (({ s with cur := some (iss.extended v next) } : State).setWave iss.wave w') ∧
        Does e (iss.extended v next) lanes w w') ∧
    (∀ v next d a i, decodeWord next 0 = some (.iaddi d a i) →
      ImxCompletes v next (immAD d a (fun iss w l => (w.grp a 0 l).val + (iss.immB i).setWidth 32))) ∧
    (∀ v next d a i, decodeWord next 0 = some (.imuli d a i) →
      ImxCompletes v next (immAD d a (fun iss w l => (w.grp a 0 l).val * (iss.immB i).setWidth 32))) ∧
    (∀ v next d a i, decodeWord next 0 = some (.andi d a i) →
      ImxCompletes v next (immAD d a (fun iss w l => (w.grp a 0 l).val &&& (iss.immB i).setWidth 32))) ∧
    (∀ v next d a i, decodeWord next 0 = some (.ori d a i) →
      ImxCompletes v next (immAD d a (fun iss w l => (w.grp a 0 l).val ||| (iss.immB i).setWidth 32))) ∧
    (∀ v next d a i, decodeWord next 0 = some (.xori d a i) →
      ImxCompletes v next (immAD d a (fun iss w l => (w.grp a 0 l).val ^^^ (iss.immB i).setWidth 32))) ∧
    (∀ v next c p a i, decodeWord next 0 = some (.icmpi c p a i) → c.toNat < 6 → ImxCompletes v next (compareAI c p a i)) ∧
    (∀ v next c p a i s iss w, decodeWord next 0 = some (.icmpi c p a i) → 6 ≤ c.toNat → s.cur = some iss → s.waves.find? iss.wave = some w → iss.batch ≠ 0 →
      exec (.imx v next) s =
        .next (({ s with cur := some (iss.extended v next) } : State).takeTrap (iss.extended v next) .reservedField 0 (lowest iss.batch))) ∧
    (∀ v next d j, decodeWord next 0 = some (.vmovi d j) → ImxCompletes v next (immD d (fun iss => (iss.immC j).setWidth 32))) ∧
    (∀ v next d j, decodeWord next 0 = some (.smovi d j) →
      ImxCompletes v next (scalarABD d [] (fun iss _ => (iss.immC j).setWidth 32) (fun _ => 0))) ∧
    (∀ v next d a i, decodeWord next 0 = some (.saddi d a i) →
      ImxCompletes v next (scalarABD d [a] (fun iss w => w.sget a.toNat + (iss.immB i).setWidth 32) (fun _ => 0))) ∧
    (∀ v next d i, decodeWord next 0 = some (.call d i) → ImxCompletes v next (callOf d i)) ∧
    (∀ v next d a i, decodeWord next 0 = some (.ldb d a i) →
      ImxCompletesIn v next .ld (loadEffect d 1 none [.vec d 1 1, .vec a 2 2]) (loadsBytes 1 false d a i)) ∧
    (∀ v next d a i, decodeWord next 0 = some (.ldh d a i) →
      ImxCompletesIn v next .ld (loadEffect d 1 none [.vec d 1 1, .vec a 2 2]) (loadsBytes 2 false d a i)) ∧
    (∀ v next d a i, decodeWord next 0 = some (.ldw d a i) →
      ImxCompletesIn v next .ld (loadEffect d 1 none [.vec d 1 1, .vec a 2 2]) (loadsBytes 4 false d a i)) ∧
    (∀ v next d a i, decodeWord next 0 = some (.ldd d a i) →
      ImxCompletesIn v next .ld (loadEffect d 2 none [.vec d 2 2, .vec a 2 2]) (loadsBytes 8 false d a i)) ∧
    (∀ v next d a i, decodeWord next 0 = some (.ldq d a i) →
      ImxCompletesIn v next .ld (loadEffect d 4 none [.vec d 4 4, .vec a 2 2]) (loadsBytes 16 false d a i)) ∧
    (∀ v next d a i, decodeWord next 0 = some (.ldv d a i) →
      ImxCompletesIn v next .ld (loadEffect d 1 none [.vec d 1 1, .vec a 2 2]) (loadsBytes 4 true d a i)) ∧
    (∀ v next d a i, decodeWord next 0 = some (.stb d a i) →
      ImxCompletesIn v next .st { ops := [.vec d 1 1, .vec a 2 2] } (storesBytes 1 d a i)) ∧
    (∀ v next d a i, decodeWord next 0 = some (.sth d a i) →
      ImxCompletesIn v next .st { ops := [.vec d 1 1, .vec a 2 2] } (storesBytes 2 d a i)) ∧
    (∀ v next d a i, decodeWord next 0 = some (.stw d a i) →
      ImxCompletesIn v next .st { ops := [.vec d 1 1, .vec a 2 2] } (storesBytes 4 d a i)) ∧
    (∀ v next d a i, decodeWord next 0 = some (.std d a i) →
      ImxCompletesIn v next .st { ops := [.vec d 2 2, .vec a 2 2] } (storesBytes 8 d a i)) ∧
    (∀ v next d a i, decodeWord next 0 = some (.stq d a i) →
      ImxCompletesIn v next .st { ops := [.vec d 4 4, .vec a 2 2] } (storesBytes 16 d a i)) ∧
    (∀ v next d a i, decodeWord next 0 = some (.accb d a i) →
      ImxCompletesIn v next .st { ops := [.vec d 1 1, .vec a 2 2], fibre := regionEnds, tags := groupTagged d 1 1 } (accumulates d a i)) ∧
    (∀ v next s iss w, s.cur = some iss → s.waves.find? iss.wave = some w → imxOpcodes.contains (next.toNat / 2 ^ 25) = false →
      exec (.imx v next) s = .next (s.takeTrap { iss with pc := iss.pc + 4, len := 4, word := next } .imxSequence 0 (lowest iss.batch)))

/-- XPTL binds a pattern table of the lowest guarded lane and XBAR gathers its bytes through it -/
def Obligations.PatternMoves : Prop :=
  ∀ (d a : BitVec 7) (n : BitVec 4) (g h : BitVec 2),
    (∀ s iss w s1 tbl lanes, Issues s iss w (some g.toNat) [.vec d 1 1, .vec a 4 4] false lanes → (h = 0 ∨ h = 3) → (w.patterns.find? n.toNat).isSome = true →
      s.boundTable iss.wave w (lowest lanes) (w.patterns.get 0 n.toNat) = (s1, some tbl) →
      (w.xbarSites a tbl lanes).any s1.spoiled.contains = false →
      Finishes (.xbar d a n g h) s s1 iss lanes w { vecD d g h (fun w l => ⟨BitVec.ofNat 32 (ofBytes ((List.range 4).map (fun j =>
        w.xbarByte a (tableEntry tbl (4 * l + j))))), 0⟩) with ops := [.vec d 1 1, .vec a 4 4] }) ∧
    (∀ s iss w s1 bs lanes, Issues s iss w (some g.toNat) [.vec a 2 2] false lanes →
      s.readTable iss.wave w (lowest lanes) (w.pair a (lowest lanes)) = (s1, .ok (.ok bs)) →
      (∀ k, k < 128 → tableEntry bs k < 1024) →
      Finishes (.xptl n a g) s (s1.cacheTable (cidOf iss.wave) w.ctx (w.pair a (lowest lanes)) bs) iss lanes
        { w with patterns := w.patterns.put n.toNat (w.pair a (lowest lanes)) } {})

/-- Every atomic and ACCB performs its lanes in ascending order, counts on LD or ST and ends the region -/
def Obligations.AtomicsComplete : Prop :=
  ∀ (d a b : BitVec 7) (c : BitVec 2) (i : BitVec 11),
    CompletesIn (.aadd d a b c) (some .ld) (returningEffect false none d a b) (returns 0 false d a b c) ∧
    CompletesIn (.aaddNr a b c) (some .st) (silentEffect false none a b) (silent 0 false a b c) ∧
    CompletesIn (.afadd d a b c) (some .ld) (returningEffect false (some 1) d a b) (returns 1 false d a b c) ∧
    CompletesIn (.afaddNr a b c) (some .st) (silentEffect false (some 1) a b) (silent 1 false a b c) ∧
    CompletesIn (.amin d a b c) (some .ld) (returningEffect false none d a b) (returns 2 false d a b c) ∧
    CompletesIn (.aminNr a b c) (some .st) (silentEffect false none a b) (silent 2 false a b c) ∧
    CompletesIn (.amax d a b c) (some .ld) (returningEffect false none d a b) (returns 3 false d a b c) ∧
    CompletesIn (.amaxNr a b c) (some .st) (silentEffect false none a b) (silent 3 false a b c) ∧
    CompletesIn (.aumin d a b c) (some .ld) (returningEffect false none d a b) (returns 4 false d a b c) ∧
    CompletesIn (.auminNr a b c) (some .st) (silentEffect false none a b) (silent 4 false a b c) ∧
    CompletesIn (.aumax d a b c) (some .ld) (returningEffect false none d a b) (returns 5 false d a b c) ∧
    CompletesIn (.aumaxNr a b c) (some .st) (silentEffect false none a b) (silent 5 false a b c) ∧
    CompletesIn (.aand d a b c) (some .ld) (returningEffect false none d a b) (returns 6 false d a b c) ∧
    CompletesIn (.aandNr a b c) (some .st) (silentEffect false none a b) (silent 6 false a b c) ∧
    CompletesIn (.aor d a b c) (some .ld) (returningEffect false none d a b) (returns 7 false d a b c) ∧
    CompletesIn (.aorNr a b c) (some .st) (silentEffect false none a b) (silent 7 false a b c) ∧
    CompletesIn (.axor d a b c) (some .ld) (returningEffect false none d a b) (returns 8 false d a b c) ∧
    CompletesIn (.axorNr a b c) (some .st) (silentEffect false none a b) (silent 8 false a b c) ∧
    CompletesIn (.axchg d a b c) (some .ld) (returningEffect false none d a b) (returns 9 false d a b c) ∧
    CompletesIn (.axchgNr a b c) (some .st) (silentEffect false none a b) (silent 9 false a b c) ∧
    CompletesIn (.acas d a b c) (some .ld) (returningEffect true none d a b) (returns 10 true d a b c) ∧
    CompletesIn (.acasNr a b c) (some .st) (silentEffect true none a b) (silent 10 true a b c) ∧
    CompletesIn (.accb d a i) (some .st) { ops := [.vec d 1 1, .vec a 2 2], fibre := regionEnds, tags := groupTagged d 1 1 } (accumulates d a i)

/-- A lane's atomic at its home leaves op(M, b, c) of R192 in its word, returns the old M, and leaves every other byte as it was -/
def Obligations.AtomicReadModifyWrite : Prop :=
  (∀ m b c : Word, atomicFn 0 m b c = m + b ∧ atomicFn 1 m b c = (fadd .rne m b).1 ∧
    atomicFn 2 m b c = (if m.toInt ≤ b.toInt then m else b) ∧ atomicFn 3 m b c = (if m.toInt ≤ b.toInt then b else m) ∧
    atomicFn 4 m b c = (if m.toNat ≤ b.toNat then m else b) ∧ atomicFn 5 m b c = (if m.toNat ≤ b.toNat then b else m) ∧
    atomicFn 6 m b c = m &&& b ∧ atomicFn 7 m b c = m ||| b ∧ atomicFn 8 m b c = m ^^^ b ∧ atomicFn 9 m b c = b ∧
    atomicFn 10 m b c = (if m = b then c else m)) ∧
  ∀ (s : State) (iss : Issue) (w : Wave) (kind sc : Nat) (a : Amo) (key cell : Nat) (limit : Option Word) (p : Option Nat),
    s.Undisturbed → a.place = ⟨.mem key false, limit, p⟩ → a.cell = some cell → key % 4 = 0 → s.isLocal key = true →
    let r := AmoRun.step iss w kind sc ⟨s, [], []⟩ a
    r.waits = [] ∧ r.replies = [⟨a.lane, a.addr, cell, 0, some (BitVec.ofNat 32 (s.load key 4)), false, none⟩] ∧
    r.s.load key 4 = (atomicFn kind (BitVec.ofNat 32 (s.load key 4)) a.b a.c).toNat ∧
    ∀ k, k < key ∨ key + 4 ≤ k → r.s.byte k = s.byte k

/-- ENQ and DEQ check their blocks and entries, perform each lane at the home of its block and return one value a lane -/
def Obligations.RingsComplete : Prop :=
  (∀ (d a b : BitVec 7) (c : BitVec 2),
    CompletesIn (.enq d a b c) (some .ld) { loadEffect d 1 none [.vec d 1 1, .vec a 2 2, .src b] with fibre := regionEnds } (rings true c d a b) ∧
    CompletesIn (.deq d a b c) (some .ld) { loadEffect d 1 none [.vec d 1 1, .vec a 2 2, .src b] with fibre := regionEnds } (rings false c d a b)) ∧
  (∀ (s : State) (r : RingLane) (b : Word) (q : Ring) (k : Nat), s.Undisturbed → r.coded = false → r.key % 32 = 0 → s.isLocal r.key = true →
    parseRing 24 (s.bytes r.key 32) = some q → q.base = r.ring.base → q.log2cap = r.ring.log2cap →
    (q.used ≠ q.cap → r.entry q.tail = (k, false) → k % 4 = 0 → s.isLocal k = true → (k + 4 ≤ r.key ∨ r.key + 32 ≤ k) →
      (s.ringStep true r b).2 = 0 ∧ (s.ringStep true r b).1.load k 4 = b.toNat ∧
      (s.ringStep true r b).1.load (r.key + 20) 4 = (q.tail + 1) % 2 ^ 32 ∧
      ∀ x, (x < k ∨ k + 4 ≤ x) → (x < r.key + 20 ∨ r.key + 24 ≤ x) → (s.ringStep true r b).1.byte x = s.byte x) ∧
    (q.used = q.cap → (s.ringStep true r b).2 = 1 ∧ ∀ x, (s.ringStep true r b).1.byte x = s.byte x) ∧
    (q.tail ≠ q.head → r.entry q.head = (k, false) → k % 4 = 0 → s.isLocal k = true → lineOf k ∉ s.poison →
      (s.ringStep false r b).2 = BitVec.ofNat 32 (s.load k 4) ∧
      (s.ringStep false r b).1.load (r.key + 16) 4 = (q.head + 1) % 2 ^ 32 ∧
      ∀ x, (x < r.key + 16 ∨ r.key + 20 ≤ x) → (s.ringStep false r b).1.byte x = s.byte x) ∧
    (q.tail = q.head → (s.ringStep false r b).2 = b ∧ ∀ x, (s.ringStep false r b).1.byte x = s.byte x))

/-- PHASE passes its boundary or waits; BAR arrives and is released when every wave has arrived; MONW goes on or parks with a monitor. How
BAR and MONW yield is the model's reading of R18 (log entry 40, DEDUCED). -/
def Obligations.BoundariesAndBarriers : Prop :=
  (∀ (b : BitVec 1) (c : BitVec 2),
    (∀ s iss w lanes, Issues s iss w none [] false lanes → (s.boundary (cidOf iss.wave) w c.toNat).2 = true →
      Finishes (.phase c) s (s.boundary (cidOf iss.wave) w c.toNat).1 iss lanes w {}) ∧
    (∀ s iss w lanes, Issues s iss w none [] false lanes → (s.boundary (cidOf iss.wave) w c.toNat).2 = false →
      exec (.phase c) s = .next ((s.boundary (cidOf iss.wave) w c.toNat).1.waitIssue iss)) ∧
    (∀ s iss w lanes g, Issues s iss w none [] false lanes → (s.boundary (cidOf iss.wave) w b.toNat).2 = true → w.run = .running →
      (s.boundary (cidOf iss.wave) w b.toNat).1.group w.group = some g →
      ∃ w', SameWave w w' ∧ Does { after := yields } iss lanes w w' ∧ w'.wait = some (.bar iss.batch) ∧
        exec (.bar b) s = .next ((((s.boundary (cidOf iss.wave) w b.toNat).1.setGroup w.group { g with arrived := g.arrived ++ [w.wid] }).setWave
          iss.wave w').releaseBarrier w.group)) ∧
    (∀ (s : State) gk g, s.group gk = some g → (∃ i, i < g.waves ∧ i ∉ g.retired ∧ i ∉ g.arrived) → s.releaseBarrier gk = s) ∧
    (∀ (s : State) gk g k w, s.group gk = some g → g.arrived ≠ [] → (∀ i, i < g.waves → i ∉ g.retired → i ∈ g.arrived) →
      s.waves.find? k = some w → w.group = gk → (∀ m, w.wait = some (.bar m) →
        ∃ w', (s.releaseBarrier gk).waves.find? k = some w' ∧ w'.wait = none ∧ w'.regs = w.regs ∧
          ∀ l, l < 32 → (w'.fib l).pc = (w.fib l).pc ∧ (w'.fib l).region = if m.getLsbD l then (w.fib l).pc else (w.fib l).region))) ∧
  (∀ (k : BitVec 4) (a b : BitVec 7) (c : BitVec 2) s iss w lanes s1 s3 key coded limit p bs, k.toNat < 10 →
    Issues s iss w none [.vec a 2 2, .src b] false lanes →
    s.checkLanes iss.wave w ⟨4, 4, false, false, .r, false⟩ (fun l => [w.pair a l]) [lowest lanes] [] =
      (s1, .ok [(lowest lanes, [⟨.mem key coded, limit, p⟩])]) →
    s1.ownFirst w key 4 false = false → (s1.yieldLine (cidOf iss.wave) (lineOf key)).isLocal key = true →
    (s1.yieldLine (cidOf iss.wave) (lineOf key)).tileReadAs 0 31 key 4 coded = (s3, .ok bs) →
    let v := (w.src b (lowest lanes)).val
    (monHolds k.toNat (BitVec.ofNat 32 (ofBytes bs)) v = true → Finishes (.monw k a b c) s s3 iss lanes w { fibre := regionEnds, after := yields }) ∧
    (monHolds k.toNat (BitVec.ofNat 32 (ofBytes bs)) v = false → w.run = .running →
      ∃ w', exec (.monw k a b c) s = .next ((s3.addMonitor ⟨w.ctx, iss.wave, w.uid, none, key, coded, v, k.toNat⟩).setWave iss.wave w') ∧
        SameWave w w' ∧ Does { after := yields } iss lanes w w' ∧
        w'.wait = some (.monw ⟨iss, lowest lanes, w.pair a (lowest lanes), key, coded, v, k.toNat, s.cycle⟩)))

/-- Every queued engine command that passes its checks is entered, gives its ticket to sd and counts on CP or TX -/
def Obligations.EngineCommandsAreQueued : Prop :=
  ∀ (d a : BitVec 7) (q : BitVec 4),
    Enqueues (.cplin d a q) 0 6 (fun _ => 6) d a q ∧
    Enqueues (.cp2d d a q) 1 9 (fun _ => 9) d a q ∧
    Enqueues (.cpgath d a q) 2 9 (fun _ => 9) d a q ∧
    Enqueues (.cpscat d a q) 3 9 (fun _ => 9) d a q ∧
    Enqueues (.cpexp d a q) 4 6 (fun _ => 6) d a q ∧
    Enqueues (.cpcmp d a q) 5 6 (fun _ => 6) d a q ∧
    Enqueues (.gtopk d a q) 8 9 (fun _ => 9) d a q ∧
    Enqueues (.gbuck d a q) 9 9 (fun _ => 9) d a q ∧
    Enqueues (.gmerge d a q) 10 6 (fun _ => 6) d a q ∧
    Enqueues (.ghist d a q) 11 7 (fun _ => 7) d a q ∧
    Enqueues (.gscan d a q) 12 5 (fun _ => 5) d a q ∧
    Enqueues (.gperm d a q) 13 11 (fun _ => 11) d a q ∧
    Enqueues (.cxfork d a q) 14 3 (fun _ => 3) d a q ∧
    Enqueues (.cxbond d a q) 16 1 (fun w => bondWords (w.sget a.toNat).toNat) d a q ∧
    Enqueues (.cxdense d a q) 17 2 (fun _ => 2) d a q ∧
    Enqueues (.qfence d a q) 18 1 (fun _ => 1) d a q

/-- A command enters its queue behind the others with the next sequence number, state 0 and its block, and no other queue changes -/
def Obligations.CommandEntersItsQueue : Prop :=
  ∀ (s : State) (iss : Issue) (w : Wave) (sub q : Nat) (b : List Word), (s.ctxs.find? w.ctx).isSome = true →
    let c := s.queueOf w.ctx (queueIndex (cidOf iss.wave) q)
    (sub ≠ 18 → ∃ e, (s.enqueueCommand iss w sub q b).2 = c.count ∧
      (s.enqueueCommand iss w sub q b).1.queueOf w.ctx (queueIndex (cidOf iss.wave) q) =
        { c with count := (c.count + 1) % 2 ^ 28, used := c.used + 1, entries := c.entries ++ [e] } ∧
      e.seq = c.count ∧ e.sub = sub ∧ e.state = 0 ∧ e.block = b ∧ e.prio = w.prio ∧ e.uid = w.uid ∧ e.lid = w.lid ∧ e.finished = false) ∧
    (∀ qi, qi ∉ (enteredQueues sub q b).map (queueIndex (cidOf iss.wave)) →
      (s.enqueueCommand iss w sub q b).1.queueOf w.ctx qi = s.queueOf w.ctx qi) ∧
    (∀ ctx qi, ctx ≠ w.ctx → (s.enqueueCommand iss w sub q b).1.queueOf ctx qi = s.queueOf ctx qi) ∧
    (s.enqueueCommand iss w sub q b).1.mem = s.mem ∧ (s.enqueueCommand iss w sub q b).1.waves = s.waves

/-- RCARM arms a row counter, RCWAIT and CXRDV wait for rows and tickets, QSTAT reads a ticket state -/
def Obligations.ImmediateCommands : Prop :=
  ∀ (d a : BitVec 7) (q : BitVec 4),
    Answers (.rcarm d a q) 6 1 d a q (fun s iss w b =>
      if (s.rowc (cidOf iss.wave) (bw b 0)).named then none
      else some (s.setRowc (cidOf iss.wave) (bw b 0) { val := 0, owner := some w.ctx, named := false }, 0)) ∧
    Answers (.rcwait d a q) 7 2 d a q (fun s iss w b =>
      let r := s.rowc (cidOf iss.wave) (bw b 0)
      if bw b 1 ≤ r.val.toNat ∨ r.named = false ∨ r.owner ≠ some w.ctx then some (s.dropClean (cidOf iss.wave), r.val) else none) ∧
    Answers (.cxrdv d a q) 15 1 d a q (fun s iss w b =>
      let st := s.ticketState w.ctx (cidOf iss.wave) q.toNat (b.getD 0 0)
      if st = 2 ∨ st = 4 ∨ st = 5 then some (s.dropClean (cidOf iss.wave), BitVec.ofNat 32 st) else none) ∧
    Answers (.qstat d a q) 19 1 d a q (fun s iss w b =>
      some (s, BitVec.ofNat 32 (s.ticketState w.ctx (cidOf iss.wave) q.toNat (b.getD 0 0))))

/-- An engine takes up the best command, moves rows, selects with GTOPK, and completes a command once its writes are performed. The values
of destination bytes that a command's own moves overlap are the model's (log entry 53, DESIGN CHOICE). -/
def Obligations.EngineServesItsQueues : Prop :=
  ∀ s : State,
    (∀ ctx qi e c, qi < 320 → engineOf qi < 72 → e.sub < 14 → s.head ctx qi = some e → (s.bestCommands (engineOf qi)).find? (fun x => x.1 == ctx && x.2.1 == qi) = some (ctx, qi, e) →
      s.engineFree (engineOf qi) e.prio = true → s.ctxs.find? ctx = some c →
      exec (.queuedCommandStart ctx qi) s = .next (((s.modHead ctx qi (fun e => { e with state := 1 })).setEngine (engineOf qi)
        { s.engineState (engineOf qi) with serving := some (ctx, qi), lastCtx := ctx }).forgetLines (fun _ => true))) ∧
    (∀ ctx qi, (s.bestCommands (engineOf qi)).find? (fun x => x.1 == ctx && x.2.1 == qi) = none → exec (.queuedCommandStart ctx qi) s = .next s) ∧
    (∀ ctx qi e s1 s2 s3 x bs rs, s.inService ctx qi = some e → (e.sub = 1 ∨ e.sub = 2 ∨ e.sub = 3) → e.waits = [] → e.sources = some rs →
      (s.countRows ctx qi).copyIndex ctx e (e.progress.getD 0 0) = (s1, .ok x) →
      s1.engineRead ctx e (copyTol e) (copyEnds e (e.progress.getD 0 0) x).1 (copyRow e) = (s2, .ok bs) →
      s2.engineWrite ctx qi e (copyEnds e (e.progress.getD 0 0) x).2 bs = (s3, .ok ()) →
      let u := s3.spoilOverlap ctx e [((copyEnds e (e.progress.getD 0 0) x).2, copyRow e)]
      let t := (u.setProgress ctx qi [e.progress.getD 0 0 + 1, 0, 0, 0]).countRows ctx qi
      exec (.copyUnit ctx qi) s = .next (if copyCount e ≤ e.progress.getD 0 0 + 1 then t.setFinished ctx qi else t)) ∧
    (∀ ctx qi e s1 s2 raw, s.inService ctx qi = some e → e.sub = 8 → nbits 25 1 (bw e.block 4) = 0 →
      let k := nbits 13 7 (bw e.block 4)
      let r := e.progress.getD 0 0
      s.engineRead ctx e (nbits 20 5 (bw e.block 4)) (ba e.block 0 + r * bw e.block 2) (4 * nbits 0 13 (bw e.block 4)) = (s1, .ok raw) →
      let ordered := sortBy firstOf (validOf (wordsOf (nbits 0 13 (bw e.block 4)) raw) none)
      let sum := sumValues ((ordered.take k).map Prod.snd)
      let rest := sumValues ((ordered.drop k).map Prod.snd)
      s1.engineWrite ctx qi e (ba e.block 7 + r * recordSize k) (gateRecord k ordered.length sum.1 rest.1 0 (ordered.take k)) = (s2, .ok ()) →
      let t := (s2.setProgress ctx qi [r + 1, 0, 0, 0]).raiseGse ctx (engineCluster (engineOf qi)) (sum.2 ||| rest.2)
      exec (.gseRow ctx qi) s = .next (if bw e.block 3 ≤ r + 1 then t.setFinished ctx qi else t)) ∧
    (∀ ctx qi, s.inService ctx qi = none → exec (.copyUnit ctx qi) s = .next s ∧ exec (.gseRow ctx qi) s = .next s) ∧
    (∀ ctx qi e c, s.head ctx qi = some e → s.ctxs.find? ctx = some c → c.state = 1 → e.sub ≠ 18 → e.finished = true → e.waits = [] →
      s.invalidating = false → exec (.queuedCommandComplete ctx qi) s = .next ((s.countRows ctx qi).leaveQueues ctx e 2)) ∧
    (∀ ctx qi e c, s.head ctx qi = some e → s.ctxs.find? ctx = some c → c.state = 1 → e.sub = 18 → s.fenceReady ctx e = true →
      exec (.queuedCommandComplete ctx qi) s = .next (s.leaveQueues ctx e 2)) ∧
    (∀ ctx qi e, s.head ctx qi = some e → e.sub ≠ 18 → (e.finished = false ∨ e.waits ≠ [] ∨ s.invalidating = true) →
      exec (.queuedCommandComplete ctx qi) s = .next s)

/-- Each step of a contraction program, when it is due and its checks pass, begins with the shape its rule gives, and END ends the program -/
def Obligations.ProgramStepsBegin : Prop :=
  ∀ ctx cl : Nat,
    BeginsStep (.loadb ctx cl) ctx cl 1 ∧
    BeginsStep (.contract ctx cl) ctx cl 2 ∧
    BeginsStep (.dense ctx cl) ctx cl 3 ∧
    BeginsStep (.conv3 ctx cl) ctx cl 4 ∧
    BeginsStep (.ups2 ctx cl) ctx cl 5 ∧
    BeginsStep (.act ctx cl) ctx cl 6 ∧
    BeginsStep (.perm ctx cl) ctx cl 7 ∧
    BeginsStep (.storeb ctx cl) ctx cl 8 ∧
    BeginsStep (.env ctx cl) ctx cl 11 ∧
    (∀ s qi e bs s1, s.StepDue ctx cl 9 qi e bs s1 → (s1.cceOf ctx cl).splitStep = none → 1 ≤ (stepOf bs).n → (stepOf bs).n ≤ 65536 →
      exec (.splitParts ctx cl) s = .next (s1.modCce ctx cl (fun c => { c with
        part := 0, splitStep := some c.step, partSize := (stepOf bs).n, step := c.step + 1, tilei := 0, tilej := 0,
        parent := if c.bnd.kind = .none then none else some c.bnd,
        bnd := if c.bnd.kind = .none then Boundary.absent else c.bnd.slice 0 (min (stepOf bs).n c.batchn) }))) ∧
    (∀ s qi e bs s1 k, s.StepDue ctx cl 10 qi e bs s1 → (s1.cceOf ctx cl).splitStep = some k →
      exec (.endSplit ctx cl) s = .next (s1.modCce ctx cl (fun c =>
        let next : Cce := { c with part := c.part + 1, step := k + 1, tilei := 0, tilej := 0 }
        if (c.part + 1) * c.partSize < c.batchn then
          { next with bnd := (c.parent.map (fun p => p.slice ((c.part + 1) * c.partSize) next.extent.2)).getD Boundary.absent }
        else { c with part := 0, splitStep := none, partSize := 0, step := c.step + 1, tilei := 0, tilej := 0, parent := none, bnd := Boundary.absent }))) ∧
    (∀ s qi e bs s1, s.StepDue ctx cl 15 qi e bs s1 →
      exec (.endProg ctx cl) s = .next ((s1.modCce ctx cl (fun c => { c with tilei := 0, tilej := 0 })).setFinished ctx qi))

/-- MAC_RUN computes and commits the current tile, and a MAC tile whose checksums disagree twice is retired with COMPUTE_CHECK -/
def Obligations.MacRunComputesATile : Prop :=
  ∀ (s : State) (ctx cl qi mism tile : Nat),
    (∀ e j, s.cceCommand ctx cl = some (qi, e) → e.sub ≠ 17 → (s.cceOf ctx cl).job = some j → j.stopped = false → macStep (stepOf j.bytes).code = true →
      s.engineSpoiled ctx cl = false → s.noTiles cl = false → tile < 24 → (s.engineState (72 + cl)).retiredTiles.getLsbD tile = false →
      (s.cceOf ctx cl).allDone j = false →
      (∀ s1, mism < 2 → s.tileOnce ctx qi cl e (s.cceOf ctx cl) j = (s1, .ok ()) → exec (.macRun ctx cl mism tile) s = .next
        (match (s1.cceOf ctx cl).job with
          | none => s1
          | some j1 => if (s1.cceOf ctx cl).allDone j1 then s1.finishJob ctx qi cl e j1 else s1)) ∧
      (∀ s1 x, mism < 2 → s.tileOnce ctx qi cl e (s.cceOf ctx cl) j = (s1, .error x) → exec (.macRun ctx cl mism tile) s = .next (s1.cceStop ctx qi cl x)) ∧
      (2 ≤ mism → exec (.macRun ctx cl mism tile) s = .next ((s.setEngine (72 + cl) { s.engineState (72 + cl) with
        retiredTiles := (s.engineState (72 + cl)).retiredTiles ||| BitVec.ofNat 32 (2 ^ tile) }).cceFault ctx qi cl .computeCheck 0))) ∧
    (s.cceCommand ctx cl = none → exec (.macRun ctx cl mism tile) s = .next s) ∧
    (∀ c vals j, s.ctxs.find? ctx = some c → (s.cceOf ctx cl).job = some j →
      ((s.commitTile ctx cl vals).cceOf ctx cl).stat = (s.cceOf ctx cl).stat ||| (vals.foldl (fun f v => f ||| v.2.2) 0 : Flags).setWidth 32 ∧
      (((s.commitTile ctx cl vals).cceOf ctx cl).tilei, ((s.commitTile ctx cl vals).cceOf ctx cl).tilej) =
        (if (s.cceOf ctx cl).tilej + 1 < (j.cols + 127) / 128 then ((s.cceOf ctx cl).tilei, (s.cceOf ctx cl).tilej + 1) else ((s.cceOf ctx cl).tilei + 1, 0)) ∧
      (s.commitTile ctx cl vals).mem = s.mem)

/-- RAYLD, RAYST, BINKEY and CHILDQ read and write the words of the bound record, and RAYDONE ends the fibre and releases it -/
def Obligations.RayRecords : Prop :=
  ∀ (d : BitVec 7) (c : BitVec 2) (n : BitVec 5) (g : BitVec 2),
    (∀ s iss w lanes, Issues s iss w (some g.toNat) [.vec d 1 1] false lanes →
      (∀ l, l < 32 → lanes.getLsbD l = true → (s.rayAt w l).isSome = true) →
      Finishes (.binkey d g) s s iss lanes w (laneResult d g [] (fun _ _ w l => ⟨((s.rayAt w l).map s.rayKey).getD 0, 0⟩)) ∧
      Finishes (.childq d g) s s iss lanes w
        (laneResult d g [] (fun _ _ w l => ⟨((s.rayAt w l).map (fun r => BitVec.ofNat 32 ((r.word 15).toNat % 256))).getD 0, 0⟩))) ∧
    CompletesIn (.rayld d c n g) (some .ld) (loadEffect d (2 ^ c.toNat) (some g.toNat) [.vec d (2 ^ c.toNat) (2 ^ c.toNat)]) (rayReads d c n) ∧
    CompletesIn (.rayst d c n g) (some .st) { guard := some g.toNat, ops := [.vec d (2 ^ c.toNat) (2 ^ c.toNat)] } (rayWrites d c n) ∧
    (∀ (s : State) (r : Ray) l, s.launches.find? r.lid = some l →
      let k := s.rayKey r
      let mag (i : Nat) : Nat := (r.word (4 + i)).toNat % 2 ^ 31
      (∀ i, i < 3 → k.toNat / 2 ^ (6 * i) % 64 = binCell (r.word i) (l.record.scene.getD i 0) l.record.cell ∧
        k.getLsbD (18 + i) = (r.word (4 + i)).getLsbD 31) ∧
      (∀ x, x = k.toNat / 2 ^ 21 → x < 3 ∧ (∀ i, i < 3 → mag i ≤ mag x) ∧ ∀ i, i < x → mag i < mag x)) ∧
    (∀ o m c : Word, (f32 o = .nan → binCell o m c = 0) ∧ (∀ n, f32 o = .inf n → binCell o m c = if n then 0 else 63) ∧
      ((f32 o).isFinite = true → let e := min (min (f32 o).expo (f32 m).expo) (f32 c).expo
        0 < (f32 c).scaled e → binCell o m c ≤ 63 ∧
        (binCell o m c ≠ 0 → (binCell o m c : Int) * (f32 c).scaled e ≤ (f32 o).scaled e - (f32 m).scaled e) ∧
        (binCell o m c ≠ 63 → (f32 o).scaled e - (f32 m).scaled e < ((binCell o m c : Int) + 1) * (f32 c).scaled e))) ∧
    (∀ s iss w lanes, Issues s iss w (some g.toNat) [] false lanes →
      (∀ l, l < 32 → lanes.getLsbD l = true → (s.slotAt w l).isSome = true) →
      ∃ w', EndsFibres iss lanes w w' ∧
        exec (.raydone g) s = .next ((lanesOf lanes).foldl (fun u l => u.release (w.fib l).bound) (s.setWave iss.wave w')))

/-- TRACE hands rays to traversal; ACCEPT, TERMRAY and IGNORE decide a candidate; the fibres of their lanes end -/
def Obligations.RayTraversalInstructions : Prop :=
  ∀ g : BitVec 2,
    (∀ s iss w lanes, Issues s iss w (some g.toNat) [] false lanes →
      (∀ l, l < 32 → lanes.getLsbD l = true → (w.fib l).kind ≠ 2 ∧ (s.rayAt w l).any (s.traceOk w) = true) →
      ∃ w', EndsFibres iss lanes w w' ∧ exec (.trace g) s = .next ((s.setWave iss.wave w').forRays w lanes State.startTrace)) ∧
    (∀ (s : State) id r, s.rays.find? id = some r → ∃ r', (s.startTrace id).rays.find? id = some r' ∧
      r'.word 8 = r.word 7 ∧ r'.word 9 = 0xFFFFFFFF ∧ r'.word 10 = 0xFFFFFFFF ∧ r'.word 11 = 0 ∧ r'.word 12 = 0 ∧
      (∀ i, i < 8 ∨ 12 < i → r'.word i = r.word i) ∧ r'.place = .queued ∧ r'.commit = none ∧ r'.cand = none ∧ r'.seen = [] ∧ r'.ended = false) ∧
    Decides (.accept g) g (fun r => r.takeCandidate ((r.word 14).getLsbD 3)) ∧
    Decides (.termray g) g (fun r => r.takeCandidate true) ∧
    Decides (.ignore g) g (fun r => { r.setWords (match r.commit with
      | some h => hitWords h
      | none => [(8, r.word 7), (9, 0xFFFFFFFF), (10, 0xFFFFFFFF), (11, 0), (12, 0)]) with cand := none }) ∧
    (∀ (r : Ray) (e : Bool), (r.takeCandidate e).word 7 = r.word 8 ∧ (r.takeCandidate e).commit = r.cand ∧ (r.takeCandidate e).cand = none ∧
      (r.takeCandidate e).ended = e ∧ ∀ i, i ≠ 7 → (r.takeCandidate e).word i = r.word i)

/-- GENRAY binds new root rays to its lanes, SPAWN starts child rays within the limits of R229 -/
def Obligations.RaysBegin : Prop :=
  ∀ (d a : BitVec 7) (g : BitVec 2),
    (∀ s iss w lanes t w1, Issues s iss w (some g.toNat) [.vec d 1 1, .vec a 8 8] false lanes → w.doneLanes = 0 →
      (∀ l, l < 32 → lanes.getLsbD l = true → (w.fib l).bound = .none ∧ ((w.fib l).forked = true ∨ (w.fib l).kind = 0 ∨ (w.fib l).kind = 1 ∨ (w.fib l).kind = 3)) →
      groupTagged a 8 1 w lanes → s.genLanes iss d a w (lanesOf lanes) w = (t, w1, true) →
      ∃ w', GoesOn iss w w1 w' ∧ exec (.genray d a g) s = .next (t.setWave iss.wave w')) ∧
    (∀ (s : State) iss (w v : Wave) l ls s1 id, s.poolSlot (clusterOf (cidOf iss.wave)) v.ctx = (s1, some id) →
      s.genLanes iss d a w (l :: ls) v =
        (s1.addRay id (newRay v.ctx v.lid (rayWords (w.octet a l) 0xFFFFF000 (idWord v.ctx id)))).genLanes iss d a w ls
          { (v.setFib l { v.fib l with bound := .ray id, fresh := true }).setCell (cellAt (v.wb + d.toNat) l) ⟨BitVec.ofNat 32 id, 0, false⟩ with
            doneLanes := v.doneLanes ||| laneBit l }) ∧
    (∀ ctx lid octet x y i, i < 32 → (newRay ctx lid (rayWords octet x y)).word i =
      if i < 8 then octet.getD i 0 else if i = 8 then octet.getD 7 0 else if i = 9 ∨ i = 10 then 0xFFFFFFFF
      else if i = 15 then x else if i = 16 then y else 0) ∧
    (∀ s iss w lanes, Issues s iss w (some g.toNat) [.vec d 1 1, .vec a 8 8] false lanes → groupTagged a 8 1 w lanes →
      (∀ l, l < 32 → lanes.getLsbD l = true → (s.rayAt w l).any (s.traceOk w) = true) →
      let r := (lanesOf lanes).foldl (fun (q : State × Wave) l =>
        let x := q.1.spawnOne (((w.fib l).rayId).getD 0) (w.octet a l)
        (x.1, q.2.setCell (cellAt (w.wb + d.toNat) l) ⟨x.2, 0, false⟩)) (s, w)
      ∃ w', SameWave w w' ∧ SameCounters w w' ∧ w'.scalars = w.scalars ∧ w'.fsr = w.fsr ∧ exec (.spawn d a g) s = .next (r.1.setWave iss.wave w') ∧
        ∀ l, l < 32 → (∀ n, w'.cell (cellAt n l) = r.2.cell (cellAt n l)) ∧ (w'.fib l).bound = (w.fib l).bound ∧
          (w'.fib l).pc = (if iss.batch.getLsbD l then iss.next else (w.fib l).pc)) ∧
    (∀ (s : State) id octet r, s.rays.find? id = some r →
      (8 ≤ r.depth ∨ 64 ≤ ((s.rays.find? (r.root.getD id)).map Ray.descendants).getD 0 → s.spawnOne id octet = (s, 0)) ∧
      (r.depth < 8 → ((s.rays.find? (r.root.getD id)).map Ray.descendants).getD 0 < 64 → ∀ s1,
        (s.poolSlot (rayCluster id) r.ctx = (s1, none) → s.spawnOne id octet = (s1, 0)) ∧
        (∀ c, s.poolSlot (rayCluster id) r.ctx = (s1, some c) → s1.rays.find? id = some r → c ≠ id → c ≠ r.root.getD id →
          (s.spawnOne id octet).2 = 0x80000000 ||| BitVec.ofNat 32 c ∧
          (∃ child, (s.spawnOne id octet).1.rays.find? c = some child ∧ child.place = .queued ∧ child.root = some (r.root.getD id) ∧
            child.ctx = r.ctx ∧ child.lid = r.lid ∧ child.item = false ∧ child.commit = none ∧ child.cand = none ∧ child.ended = false ∧
            ∀ i, i < 32 → child.word i = if i < 8 then octet.getD i 0 else if i = 8 then octet.getD 7 0 else if i = 9 ∨ i = 10 then 0xFFFFFFFF
              else if i = 11 ∨ i = 12 then 0 else if i = 15 then BitVec.ofNat 32 (id * 2 ^ 12 + (r.depth + 1) * 2 ^ 8)
              else if i = 16 then BitVec.ofNat 32 (r.ctx * 2 ^ 20 + c) else r.word i) ∧
          (∃ p, (s.spawnOne id octet).1.rays.find? id = some p ∧ (r.children < 255 → p.children = r.children + 1) ∧
            ∀ i, i ≠ 15 → p.word i = r.word i) ∧
          (∀ q, s1.rays.find? (r.root.getD id) = some q → ∃ q', (s.spawnOne id octet).1.rays.find? (r.root.getD id) = some q' ∧
            q'.descendants = q.descendants + 1))))

/-- ITEM queues one work item per guarded lane; LAUNCH starts one child launch per guarded lane, below depth 10 -/
def Obligations.ItemsAndChildLaunches : Prop :=
  ∀ (d a : BitVec 7) (g : BitVec 2),
    (∀ (c : BitVec 5) s iss w lanes t w1, Issues s iss w (some g.toNat) [.vec a (c.toNat + 3) 4] false lanes → c.toNat < 17 → w.doneLanes = 0 →
      (∀ l, l < 32 → lanes.getLsbD l = true → (s.itemShader w.lid (w.pair a l)).isSome = true) →
      s.itemLanes iss c.toNat a (lanesOf lanes) w = (t, w1, true) →
      ∃ w', GoesOn iss w w w' ∧ exec (.item c a g) s = .next (t.setWave iss.wave w')) ∧
    (∀ (s : State) iss c (v : Wave) l ls s1 id, s.poolSlot (clusterOf (cidOf iss.wave)) v.ctx = (s1, some id) →
      ∃ r, (s.itemLanes iss c a (l :: ls) v = ((s1.addRay id r).enterBin id).itemLanes iss c a ls { v with doneLanes := v.doneLanes ||| laneBit l }) ∧
        r.item = true ∧ r.ctx = v.ctx ∧ r.lid = v.lid ∧ r.pc = v.pair a l ∧ r.key = (v.grp a 2 l).val ∧
        ∀ i, i < 16 → r.word i = if i < c then (v.grp a (3 + i) l).val else 0) ∧
    (∀ s iss w lanes s1 got t w1, Issues s iss w (some g.toNat) [.vec d 1 1, .vec a 2 2] false lanes → w.doneLanes = 0 → w.depth < 10 →
      s.checkLanes iss.wave w Access.record (launchHalves w a) (lanesOf lanes) [] = (s1, .ok got) → (s1.boundary (cidOf iss.wave) w 2).2 = true →
      ((s1.boundary (cidOf iss.wave) w 2).1.anew iss.wave (got.flatMap Prod.snd)).launchLanes iss d a w got w = (t, w1, true) →
      ∃ w', GoesOn iss w w1 w' ∧ exec (.launch d a g) s = .next (t.setWave iss.wave w')) ∧
    (∀ (s : State) iss (w v : Wave) l lo hi ps rest s1 s2 s3 x y k, s.launchesFull = false → s.zephyr.halted = false → s.readHalf iss.wave w lo (w.pair a l) = (s1, some x) →
      s1.readHalf iss.wave w hi (w.pair a l + 64) = (s2, some y) → s2.checkLaunch v.ctx true x y = (s3, some k) →
      s.launchLanes iss d a w ((l, lo :: hi :: ps) :: rest) v =
        (s3.acceptLaunch v.ctx (some v.lid) (v.depth + 1) v.prio none none k).1.launchLanes iss d a w rest
          { v.setCell (cellAt (v.wb + d.toNat) l) ⟨BitVec.ofNat 32 s3.nextLid, 0, false⟩ with doneLanes := v.doneLanes ||| laneBit l }) ∧
    (∀ s iss w lanes, Issues s iss w (some g.toNat) [.vec d 1 1, .vec a 2 2] false lanes → 10 ≤ w.depth →
      exec (.launch d a g) s = .next (s.takeTrap iss .launchDepth 0 (lowest iss.batch)))

/-- Landing data clears EMPTY, counters fall in issue order, a tile instruction finishes, and a PARKC ends by its time limit -/
def Obligations.OperationsComplete : Prop :=
  ∀ (s : State) (k : Nat),
    (∀ w o i, s.waves.find? k = some w → w.ld[i]? = some o → o.done = false → o.waits = [] → o.bad = none →
      ∃ f, exec (.loadLands k i) s = .next (s.modWave k f) ∧ (f w).st = w.st ∧
        (∀ x ∈ o.writes, (w.fib (x.cell % 32)).live = true → (∀ y ∈ o.writes, y.cell = x.cell → y = x) →
          (f w).cell x.cell = ⟨x.val, x.tag, false⟩) ∧
        (∀ c, (∀ x ∈ o.writes, x.cell ≠ c) → c ∉ o.busy → (f w).regs.find? c = w.regs.find? c) ∧
        (∀ os, w.ld = o :: os → i = 0 → (∀ p ∈ os, p.uid ≠ o.uid) → (f w).ld = dropDone os)) ∧
    (∀ w o i, s.waves.find? k = some w → w.st[i]? = some o → o.done = false → o.waits = [] → o.adds = [] → o.busy = [] →
      exec (.storePerformed k i) s = .next (s.modWave k (fun w => w.opDone .st o.uid))) ∧
    (∀ w o, s.waves.find? k = some w → w.tx.find? (fun o => o.kind == .tile && !o.done) = some o →
      ∃ f, exec (.tileOpComplete k) s = .next (s.modWave k f) ∧ f w = w.opDone .tx o.uid) ∧
    (∀ w iss due, s.waves.find? k = some w → w.wait = some (.parkc iss (some due)) →
      ∃ f, exec (.parkcTimeout k) s = .next (s.modWave k f) ∧ f w = (if due ≤ s.cycle then (w.finish iss).yieldFrom iss.batch else w)) ∧
    (∀ (w : Wave) (c c' : Ctr) (o : Op) (os : List Op), w.ops c = o :: os → (∀ p ∈ os, p.uid ≠ o.uid) →
      (w.opDone c o.uid).ops c = dropDone os ∧ (c' ≠ c → (w.opDone c o.uid).ops c' = w.ops c') ∧ (w.opDone c o.uid).regs = w.regs)

/-- Drains are combined and acknowledged, joins get shares, tile reads drain and answer, lines leave the L1, listed words are re-read. That
drains asked for by an event of another kind are combined at once is the model's choice (log entry 43); so are a tile's limit while it
is shared and a joiner's context (log entry 60), and the messages between a tile's home and cores of other devices (log entry 19). -/
def Obligations.RegionAndMonitorEvents : Prop :=
  ∀ s : State,
    (∀ i d, s.drains[i]? = some d → d.combined = false → d.bad = false →
      exec (.drainCombine i) s = .next { s.combineDelta d.tile d.delta d.coded with
        drains := (s.combineDelta d.tile d.delta d.coded).drains.map (fun x => if x.id = d.id then { x with combined := true } else x) }) ∧
    (∀ i d, s.drains[i]? = some d → d.combined = false → d.bad = true →
      exec (.drainCombine i) s = .next { (s.spoilLine (2 * d.tile)).spoilLine (2 * d.tile + 1) with
        drains := ((s.spoilLine (2 * d.tile)).spoilLine (2 * d.tile + 1)).drains.map (fun x => if x.id = d.id then { x with combined := true } else x) }) ∧
    (∀ i, (s.drains[i]? = none ∨ ∃ d, s.drains[i]? = some d ∧ d.combined = true) → exec (.drainCombine i) s = .next s) ∧
    (∀ tile delta i, s.marks = [] → (∀ x ∈ s.slices, x.2.entries = []) → i < 64 →
      (s.combineDelta tile delta false).load (256 * tile + 4 * i) 4 =
        ((fadd .rne (BitVec.ofNat 32 (s.load (256 * tile + 4 * i) 4)) (delta.get 0x80000000 i)).1).toNat) ∧
    (∀ i d, s.drains[i]? = some d → exec (.drainAck i) s = .next (if d.combined = true then s.ackDrain d else s)) ∧
    (∀ i, s.drains[i]? = none → exec (.drainAck i) s = .next s) ∧
    (∀ d, d.single = true → s.ackDrain d = ({ s with drains := s.drains.filter (fun x => x.id != d.id) }).clearToken d.id) ∧
    (∀ tile t j rest, s.tiles.find? tile = some t → t.joins = j :: rest → t.reads = [] → t.halving = none → (j.peer = none → s.holder j.cid tile = none) →
      (1 ≤ t.remainder → exec (.regionJoin tile) s = .next (s.grantShare j tile (16 - Nat.log2 t.remainder))) ∧
      (t.remainder = 0 → ∀ b bs, t.byShare = b :: bs →
        exec (.regionJoin tile) s = .next (if b.share ≤ 15 then s.halve t tile j b else s.refuseJoin t tile j))) ∧
    (∀ tile t j k, s.tiles.find? tile = some t → j.peer = none → s.holder j.cid tile = none → s.waitingAdds j.cid tile = [] →
      (s.grantShare j tile k).holder j.cid tile = some
        { tile := tile, ctxs := [j.ctx], coded := j.coded, limit := t.limit, delta := [], m := 0, share := k, draining := none, leaving := false }) ∧
    (∀ tile t j k p, s.tiles.find? tile = some t → j.peer = some p → ∃ u : State, s.grantShare j tile k = u.answerPeer p 0 (bytesOf 4 k) ∧
      u.mem = s.mem ∧ ∃ t', u.tiles.find? tile = some t' ∧
        t'.shares = t.shares.filter (fun x => !(x.did == p.did && x.cid == j.cid)) ++ [⟨p.did, j.cid, k⟩]) ∧
    (∀ cid (a : Add), s.isLocal (256 * a.tile) = false → s.txns.any (fun t => t.joins cid a.tile) = false →
      ∀ s1 id, s.sendTo (targetOf (256 * a.tile)) (regionTx 16 a.cls a.tile [cid, a.limit.toNat]) (.join a cid 0) = some (s1, id) →
        s.requestJoin cid a = s1) ∧
    (∀ tile t r rest, s.tiles.find? tile = some t → t.reads = r :: rest → r.drains = none →
      let q := s.requestDrains tile (s.readClass r) (drainsFor r.tol t.byShare t.total)
      exec (.regionRead tile) s = .next { q.1 with tiles := q.1.tiles.modify tile (fun t => { t with reads := { r with drains := some q.2 } :: rest }) }) ∧
    (∀ tile t r rest ids, s.tiles.find? tile = some t → t.reads = r :: rest → r.peer = none → r.drains = some ids →
      (∀ d ∈ s.drains, d.id ∈ ids → d.combined = true) → (∀ x ∈ s.txns, x.token ∉ ids) →
      let u := s.recallLine (lineOf r.key)
      exec (.regionRead tile) s = .next ((({ u with tiles := u.tiles.modify tile (fun t => { t with reads := rest }) } : State).modOp r.op
        (fun o => o.answered r (u.homeBytes r.key r.size r.coded))).clearToken r.token)) ∧
    (∀ (o : Op) (r : TileRead) bs, o.answered r (.ok bs) = { o with writes := o.writes ++ [⟨r.cell, BitVec.ofNat 32 (ofBytes bs), r.tag⟩] }) ∧
    (∀ cid line, ∃ t, exec (.l1Evict cid line) s = .next t ∧ (∀ i ∈ (t.l1 cid).inv, i.line ≠ line) ∧ line ∉ (t.l1 cid).excl ∧
      (t.l1 cid).clean.find? line = none ∧ (∀ p ∈ (t.l1 cid).dirty, lineOf p.1 ≠ line) ∧ (∀ u ∈ (t.l1 cid).upd, u.line ≠ line) ∧
      (∀ h, t.holder cid (line / 2) = some h → h.leaving = true ∧ h.draining.isSome = true) ∧
      (s.OnlyDirty → (s.l1 cid).dirty.rising = true → s.isLocal (128 * line) = true →
        (∀ p ∈ (s.l1 cid).dirty, lineOf p.1 = line → p.2.coded = false ∧ p.2.bad = false) →
        ∀ k, t.byte k = if lineOf k = line then (((s.l1 cid).dirty.find? k).map DByte.val).getD (s.byte k) else s.byte k)) ∧
    (∀ n, exec (.monwRecheck n) s = .next ((s.slice n).relist.foldl (fun s m =>
        if s.drainsAfar (tileOf m.key) 31 = true then s.askLeave (tileOf m.key) else
        let u := (s.settleTile m.key 31).recallLine (lineOf m.key)
        if u.monMet m = true then (u.setSlice n { u.slice n with relist := (u.slice n).relist.erase m }).wake m else u)
      (s.setSlice n { s.slice n with checked := s.cycle }))) ∧
    (∀ m, m.peer = none → m.coded = false → s.monMet m = monHolds m.cond (BitVec.ofNat 32 (s.load m.key 4)) m.val)

/-- Waves retire, are granted registers, are spilled and return, and are exchanged and boosted as R25, R33, R34, R313 to R315 say. Which
case of R313 goes first is the model's choice (log entry 65), and so is that a wave spilled for a long MONW waits to be woken (log entry
45). -/
def Obligations.WaveScheduling : Prop :=
  ∀ s : State,
    (∀ k w, s.waves.find? k = some w → w.liveMask = 0 → w.ld = [] → w.tx = [] →
      (∀ x ∈ (s.l1 (cidOf k)).dirty, x.2.owners.contains w.uid = true → s.isLocal x.1 = true) →
      exec (.waveRetire k) s = .next (({ s with owing := s.owing ++ w.st.filterMap (fun o => o.late w (cidOf k)) } : State).removeWave k w)) ∧
    (∀ k w, s.waves.find? k = some w → (w.liveMask ≠ 0 ∨ w.ld ≠ [] ∨ w.tx ≠ []) → exec (.waveRetire k) s = .next s) ∧
    (∀ (o : Op) (w : Wave) cid, o.late w cid = if o.waits = [] ∧ o.adds = [] then none else some ⟨w.lid, w.ctx, cid, o⟩) ∧
    (∀ cid part k w n, bestBy older ((s.partWaves (cid * 6 + part)).filter (fun x => x.2.asks.isSome)) = some (k, w) → w.asks = some n → w.resident = true →
      exec (.regreqGrant cid part) s = .next (if n - w.need ≤ s.freeRegs (cid * 6 + part) then s.modWave k (fun w => { w with need := n, wait := none }) else s)) ∧
    (∀ cid part k w, s.firstAsk (cid * 6 + part) = some (k, w) → (∀ x ∈ s.partWaves (cid * 6 + part), x.2.resident = true → x.2.parked = true) →
      s.freeRegs (cid * 6 + part) < (w.asks.getD 0) - (if w.resident = true then w.need else 0) →
      exec (.spillWave cid part) s = .next (s.spillFirst (sortBy (fun x y => !older x y) (((s.partWaves (cid * 6 + part)).filter (fun x => x.2.resident)).filter
        (fun x => x.1 != k && x.2.spillable))))) ∧
    (∀ j v rest s1, s.unitWaits v.ctx 7 = false → s.writeSpill j v = (s1, true) →
      s.spillFirst ((j, v) :: rest) = (s1.setWave j v.spilled).fillActive 8 (j / 48)) ∧
    (∀ k w s1 w1, List.find? (fun (p : Nat × Wave) => p.1 == k && s.isIn p.2.ctx) s.away = none → s.nextReturn (k / 48) = some (k, w) →
      w.asks.getD w.need ≤ s.freeRegs (k / 48) → s.readSpill k w = (s1, some w1) →
      exec (.spillReturn k) s = .next ((s1.setWave k { w1 with
        need := w.asks.getD w.need, wait := if w.asks.isSome then none else w.wait, resident := true, longParked := false }).fillActive 8 (k / 48))) ∧
    (∀ k w p, s.waves.find? k = some w → w.wait = some (.monw p) → w.resident = true → w.spillable = true → 65536 ≤ s.cycle - p.since →
      s.candidates.any (s.waitedFor (cidOf k)) = true → exec (.monwSpill k) s = .next (s.spillFirst [(k, { w with longParked := true })])) ∧
    (∀ cid part j w k v, bestBy before ((s.partWaves (cid * 6 + part)).filter (fun x => !x.2.active && x.2.ready)) = some (j, w) →
      (bestBy leavesFirst (((s.partWaves (cid * 6 + part)).filter (fun x => x.2.active)).filter (fun x => x.2.prio < w.prio)) = some (k, v) ∨
        (bestBy leavesFirst (((s.partWaves (cid * 6 + part)).filter (fun x => x.2.active)).filter (fun x => x.2.prio < w.prio)) = none ∧
         bestBy leavesFirst (((s.partWaves (cid * 6 + part)).filter (fun x => x.2.active)).filter
           (fun x => x.2.wait.isSome && (x.2.wait != some .retry || decide (s.cycle < x.2.tried)) && decide (17 ≤ s.cycle - x.2.stallSince))) =
             some (k, v))) →
      (s.core cid).exchange.find? part = none →
      exec (.waveExchange cid part) s = .next (((s.setCore cid { s.core cid with exchange := (s.core cid).exchange.put part s.cycle }).modWave k
        (fun w => { w with active := false })).modWave j (fun w => { w with active := true, tried := s.cycle + 3 }))) ∧
    (∀ k w, s.waves.find? k = some w → w.ready = true → 4096 < s.cycle - max w.lastIssue w.readySince →
      ∃ f, exec (.waveAgeBoost k) s = .next (s.modWave k f) ∧ f w = { w with boosted := true })

/-- Doorbells check a queue, records are accepted in turn, groups are placed, cores reserved, and completions reported. When a launch starts
and reads its tables (log entry 63), the target cluster that no rule gives (log entry 64) and the wait behind a full trap queue (log
entry 24) are the model's readings. -/
def Obligations.LaunchesRun : Prop :=
  ∀ s : State,
    (∀ n s1 bs r, s.zephyr.booted = true → n < 16 → (s.lqueue n).ring.toNat % 32 = 0 →
      s.readVirtual deviceTlb (s.lqueue n).ctx (s.lqueue n).ring.toNat 32 = (s1, .ok bs) → parseRing 16 bs = some r →
      exec (.lqbell n) s = .next (s1.setLqueue n
        { s.lqueue n with tail := BitVec.ofNat 32 r.tail, head := BitVec.ofNat 32 r.head, stopped := false, bell := false })) ∧
    (∀ n, s.zephyr.booted = true → n < 16 → (s.lqueue n).ring.toNat % 32 ≠ 0 →
      exec (.lqbell n) s = .next ((s.setLqueue n { s.lqueue n with stopped := true, bell := false }).launchFault (s.lqueue n).ctx 0xFFFFFFFF (s.lqueue n).ring).1) ∧
    (∀ n s1 s2 s3 s4 s5 ring lo hi x y c ts, s.zephyr.halted = false → (s.lqueue n).bell = false → s.launchesFull = false → s.nextQueue = some n →
      s.checkQueue n = (s1, some (some ring)) → ring.used ≠ 0 →
      s1.readVirtual deviceTlb (s1.lqueue n).ctx (ring.base + 128 * (ring.head % ring.cap)) 64 = (s2, lo) → halfOf lo = some x →
      s2.readVirtual deviceTlb (s1.lqueue n).ctx (ring.base + 128 * (ring.head % ring.cap) + 64) 64 = (s3, hi) → halfOf hi = some y →
      s3.checkLaunch (s1.lqueue n).ctx false x y = (s4, some c) →
      s4.writeVirtual deviceTlb (s1.lqueue n).ctx ((s1.lqueue n).ring.toNat + 16) (bytesOf 4 ((ring.head + 1) % 2 ^ 32)) = (s5, .ok ts) →
      let r := s5.acceptLaunch (s1.lqueue n).ctx none 0 3 (some n) (s1.lqueue n).last c
      exec (.launchAccept n) s = .next { r.1.setLqueue n { r.1.lqueue n with last := some r.2, head := BitVec.ofNat 32 (ring.head + 1) } with
        lastQueue := n }) ∧
    (∀ ctx parent depth cap queue previous c, (s.acceptLaunch ctx parent depth cap queue previous c).2 = s.nextLid ∧
      ∃ l, (s.acceptLaunch ctx parent depth cap queue previous c).1 =
          { s.tick1 with launches := s.launches.put s.nextLid l, nextLid := (s.nextLid + 1) % 2 ^ 32 } ∧
        l.ctx = ctx ∧ l.parent = parent ∧ l.depth = depth ∧ l.prio = min c.record.prio cap ∧ l.record = c.record ∧ l.status = c.status ∧
        l.placed = 0 ∧ l.live = 0 ∧ l.retired = 0 ∧ (l.completed = none ↔ c.status = 0)) ∧
    (∀ c cs l cores, s.candidates = c :: cs → c.group = true → s.launches.find? c.ref = some l → s.chooseCores c.ref l.prio l.record = some cores →
      (l.placed ≠ 0 → exec .groupPlace s = .next (s.placeGroup c.ref l cores)) ∧
      (∀ s1 l1, l.placed = 0 → s.startLaunch l = (s1, some l1) → exec .groupPlace s = .next (s1.placeGroup c.ref l1 cores))) ∧
    (s.candidates = [] → exec .groupPlace s = .next s) ∧
    (∀ lid l t, s.launches.find? lid = some l → l.waitingSince = some t → l.reserved = [] → s.placeable l = true → 65536 ≤ s.cycle - t →
      exec (.placementReserve lid) s = .next { s with launches := s.launches.put lid { l with reserved := s.reserveFor l } }) ∧
    (∀ lid l k, s.launches.find? lid = some l → l.completed = some k → (s.unitWaits l.ctx 6 = false ∨ l.told.isSome = true) → s.earlierRecord l k = false →
      exec (.launchComplete lid) s = .next (s.reportLaunch lid l)) ∧
    (∀ lid l, s.launches.find? lid = some l → l.completed = none → s.launchDone lid l = false → exec (.launchComplete lid) s = .next s) ∧
    (∀ lid l, s.launches.find? lid = some l → l.completed = none → s.launchDone lid l = true →
      let u := (s.flushContext l.ctx).oweSent lid l.ctx s
      (u.owing.any (fun o => o.lid == lid) = true ∨ u.invalidating = true) → exec (.launchComplete lid) s = .next u) ∧
    (∀ lid l s1 s2 s3 bs ring ts us, l.told = none → l.silent = none → l.record.evq.toNat % 32 = 0 → s.readVirtual deviceTlb l.ctx l.record.evq.toNat 32 l.prio = (s1, .ok bs) →
      parseRing 24 bs = some ring → ring.used ≠ ring.cap →
      s1.writeVirtual deviceTlb l.ctx (ring.base + 32 * (ring.tail % ring.cap)) (l.completion lid) l.prio = (s2, .ok ts) →
      s2.writeVirtual deviceTlb l.ctx (l.record.evq.toNat + 20) (bytesOf 4 ((ring.tail + 1) % 2 ^ 32)) l.prio = (s3, .ok us) →
      s.reportLaunch lid l = (match l.parent with
        | some p => s3.oweSent p l.ctx s1
        | none => s3).endLaunch lid)

/-- A queued ray is carried to a hit, a miss or an event, old bins form waves, and spilled rays come back from their ring. The fuel of a
walk (log entry 10) and the slot that a refilled ray takes (log entry 22) are the model's choices. -/
def Obligations.RaysTravel : Prop :=
  ∀ s : State,
    (∀ id r l, s.rays.find? id = some r → s.launches.find? r.lid = some l → r.item = false → (r.place = .traversing ∨ r.place = .queued ∧ s.isIn r.ctx = true) →
      .pool id ∉ s.spoiled → (r.ended = true ∨ r.untested = true) → exec (.rayTraverse id) s = .next (s.rayEnds id r)) ∧
    (∀ id r l w rest, s.rays.find? id = some r → s.launches.find? r.lid = some l → r.item = false → (r.place = .traversing ∨ r.place = .queued ∧ s.isIn r.ctx = true) →
      .pool id ∉ s.spoiled → r.ended = false → r.untested = false →
      let v := r.walk.getD ([.node l.root.toNat ⟨l.root.toNat, [r.word 0, r.word 1, r.word 2], [r.word 4, r.word 5, r.word 6], none⟩], 0)
      Walk.run l.shaders (2 ^ 27) { s := s, cl := rayCluster id, ray := r, nodes := v.2, flags := 0 } v.1 = (w, .over, rest) →
      exec (.rayTraverse id) s = .next ((w.s.addTrstat r.ctx (rayCluster id) w.flags).rayEnds id { w.ray with walk := some (rest, w.nodes) })) ∧
    (∀ id (r : Ray) (h : Hit), r.commit = some h → s.rayEnds id r = s.rayEvent id { r.setWords (hitWords h) with cand := none } 1 ((r.word 13).toNat + h.off)) ∧
    (∀ id (r : Ray), r.commit = none →
      s.rayEnds id r = s.rayEvent id (r.setWords [(8, r.word 7), (9, 0xFFFFFFFF), (10, 0xFFFFFFFF), (11, 0), (12, 0)]) 3 (r.word 13).toNat) ∧
    (∀ id r, s.rays.find? id = some r → r.place ≠ .traversing → (r.place ≠ .queued ∨ s.isIn r.ctx = false) → exec (.rayTraverse id) s = .next s) ∧
    (∀ bin b l, s.bins.find? bin = some b → s.launches.find? b.lid = some l → l.record.flush < s.cycle - b.opened →
      exec (.binAgeFlush bin) s = .next (s.formWave bin)) ∧
    (∀ bin, s.bins.find? bin = none → exec (.binAgeFlush bin) s = .next s) ∧
    (∀ cl ctx c, s.ctxs.find? ctx = some c → (c.ringUsed cl = 0 ∨ c.poolcap < s.poolUse cl ctx + 32 ∨ c.state ≠ 1) →
      exec (.rayRefill cl ctx) s = .next s) ∧
    (∀ cl ctx c, s.ctxs.find? ctx = some c → c.ringUsed cl ≠ 0 → s.poolUse cl ctx + 32 ≤ c.poolcap → c.state = 1 →
      (c.ringHeld.find? (fun h => h.1 == cl)).bind Prod.snd = none → exec (.rayRefill cl ctx) s = .next (s.modCtx ctx (fun c => c.popRing cl))) ∧
    (∀ cl ctx c s0 id s1 bs held, s.ctxs.find? ctx = some c → c.ringUsed cl ≠ 0 → s.poolUse cl ctx + 32 ≤ c.poolcap → c.state = 1 →
      (c.ringHeld.find? (fun h => h.1 == cl)).bind Prod.snd = some held →
      s.fairSlot cl ctx = (s0, some id) →
      s0.readVirtual deviceTlb ctx (c.ringbase.toNat + 256 * (c.ringsize * cl + c.ringHead.get 0 cl % c.ringsize)) 256 (s0.prioOf held.lid) =
        (s1, .ok bs) →
      let r := rayOfEntry ctx id bs held s1.fresh
      r.item = false → entryClean bs = true → ofBytes ((bs.drop 128).take 4) % 2 = 0 →
      exec (.rayRefill cl ctx) s = .next ((s1.tick1.addRay id r).modCtx ctx (fun c => c.popRing cl))) ∧
    (∀ cl ctx c, s.ctxs.find? ctx = some c →
      (s.poolUse cl ctx < c.minNow → 0 < s.poolFree cl → s.fairSlot cl ctx = (s, some (s.freeSlot cl))) ∧
      (c.minNow ≤ s.poolUse cl ctx → s.poolUse cl ctx < c.poolcap → s.poolShort cl ctx < s.poolFree cl → s.fairSlot cl ctx = (s, some (s.freeSlot cl))) ∧
      (c.minNow ≤ s.poolUse cl ctx → (c.poolcap ≤ s.poolUse cl ctx ∨ s.poolFree cl ≤ s.poolShort cl ctx) → s.fairSlot cl ctx = (s, none)))

/-- Answers that match a record act on it, others are bad replies; RESUME goes back to the region entries, SKIP on after the instruction.
That fibres parked at BAR, MONW or REGREQ stay parked when a trap of other fibres is answered is the model's reading (log entry 73). -/
def Obligations.AnswersAndReturns : Prop :=
  (∀ s : State,
    (∀ ctx seq p, s.zephyr.booted = true → s.answered ctx seq 1 = some p → s.isIn ctx = true →
      exec (.resume ctx seq) s = .next ((s.noteAnswer ctx seq 1).applyAnswer ctx p 1)) ∧
    (∀ ctx seq p, s.zephyr.booted = true → s.answered ctx seq 2 = some p → s.isIn ctx = true →
      exec (.skip ctx seq) s = .next ((s.noteAnswer ctx seq 2).applyAnswer ctx p 2)) ∧
    (∀ ctx seq p, s.zephyr.booted = true → s.answered ctx seq 3 = some p → s.isIn ctx = true →
      exec (.cancel ctx seq) s = .next ((s.noteAnswer ctx seq 3).applyAnswer ctx p 3)) ∧
    (∀ ctx seq p, s.zephyr.booted = true → s.answered ctx seq 4 = some p → s.isIn ctx = true →
      exec (.kill ctx seq) s = .next ((s.noteAnswer ctx seq 4).applyAnswer ctx p 4)) ∧
    (∀ ctx seq code, s.zephyr.booted = true → 1 ≤ code → code ≤ 4 → s.answered ctx seq code = none →
      (code = 1 → exec (.resume ctx seq) s = .next (s.badReply ctx)) ∧ (code = 2 → exec (.skip ctx seq) s = .next (s.badReply ctx)) ∧
      (code = 3 → exec (.cancel ctx seq) s = .next (s.badReply ctx)) ∧ (code = 4 → exec (.kill ctx seq) s = .next (s.badReply ctx))) ∧
    (∀ v : Addr, s.zephyr.booted = true → s.answered (v.toNat % 4096) (v.toNat / 2 ^ 16 % 2 ^ 32) (v.toNat / 4096 % 16) = none →
      exec (.trapreplyInvalid v) s = .next (s.badReply (v.toNat % 4096))) ∧
    (∀ v : Word, s.zephyr.booted = true → ∃ x : Word, exec (.tqerrClear v) s = .next { s with regs := { s.regs with tqerr := x } } ∧
      (∀ b, 29 ≤ b → b < 32 → x.getLsbD b = (s.regs.tqerr.getLsbD b && !v.getLsbD b)) ∧
      (∀ b, b < 12 → x.getLsbD b = (s.regs.tqerr.getLsbD b && x.getLsbD 31)) ∧
      (∀ b, 16 ≤ b → b < 28 → x.getLsbD b = (s.regs.tqerr.getLsbD b && x.getLsbD 30))) ∧
    (∀ ctx cl c (v : Word), s.zephyr.booted = true → s.ctxs.find? ctx = some c → c.state = 1 →
      exec (.engineStatusClear (.ccestat ctx cl) v) s = .next (s.modCce ctx cl (fun e => { e with stat := e.stat &&& ~~~(v &&& 0x1F) })) ∧
      exec (.engineStatusClear (.gsestat ctx cl) v) s =
        .next (s.modCtx ctx (fun c => { c with gsestat := c.gsestat.put cl (c.gsestat.get 0 cl &&& ~~~(v &&& 0x1F)) })) ∧
      exec (.engineStatusClear (.trstat ctx cl) v) s =
        .next (s.modCtx ctx (fun c => { c with trstat := c.trstat.put cl (c.trstat.get 0 cl &&& ~~~(v &&& 0x1F)) }))) ∧
    (∀ g x c, s.group g = some x → s.ctxs.find? x.ctx = some c → x.halted = true → x.recorded = false →
      (∀ p ∈ s.waves, p.2.group = g → p.2.isQuiet = true) →
      exec (.groupHaltComplete g) s = .next (x.records.foldl (fun t r => t.putRecord r (s.skidMax g))
        ((s.writeGroupRecord x).modGroup g (fun x => { x with recorded := true, records := [] }))))) ∧
  (∀ w : Wave,
    (∀ (iss : Issue) (others : Word) l, l < 32 →
      let f := (w.resumeTrap iss others).fib l
      if (iss.batch ||| others).getLsbD l = true ∧ (w.fib l).live = true
      then f.pc = (w.fib l).region ∧ f.region = (w.fib l).region ∧ f.join = none ∧ f.live = true ∧ f.preds = (w.fib l).preds ∧
        f.bound = (if (w.fib l).fresh then .none else (w.fib l).bound)
      else f = w.fib l) ∧
    (∀ (iss : Issue) (others : Word), (w.resumeTrap iss others).run = .running ∧ (w.resumeTrap iss others).regs = w.regs ∧
      (∀ k, ((w.resumeTrap iss others).entry k).count = 0) ∧ (w.wait = none → (w.resumeTrap iss others).wait = none) ∧
      (∀ b, w.wait = some (.bar b) → b &&& ~~~((iss.batch ||| others) &&& w.liveMask) ≠ 0 →
        (w.resumeTrap iss others).wait = some (.bar (b &&& ~~~((iss.batch ||| others) &&& w.liveMask))))) ∧
    (∀ (iss : Issue), (w.skipTrap iss).run = .running ∧ (w.skipTrap iss).regs = w.regs ∧ (w.skipTrap iss).latch = w.latch ∧
      ∀ l, l < 32 → ((w.skipTrap iss).fib l).pc = if iss.batch.getLsbD l = true ∧ (w.fib l).live = true then iss.next else (w.fib l).pc) ∧
    (∀ (s : State) k seq iss others answers, s.waves.find? k = some w → w.run = .faulted seq iss others →
      s.wakeWave answers k = if answers.any (fun p => p.seq == seq && p.answer == some 2) = true then s.wakeFaulted k w (w.skipTrap iss)
        else (s.releaseFresh w (iss.batch ||| others)).wakeFaulted k w (w.resumeTrap iss others)) ∧
    (∀ (s : State) k (v : Wave), v.wait = none → (w.wait = none ∨ w.wait = some .retry) → s.wakeFaulted k w v = s.setWave k v))

/-- Each operation of CTXCTL begins only while none is busy, acts as R375 says, and ends by writing its result, clearing busy and raising
interrupt 2. Where images lie, when a save area is read and what it gives are the model's (log entries 25 and 26); so are the result
that waits for the end and the state of a command after a switch-out (log entry 34). -/
def Obligations.ContextOperations : Prop :=
  ∀ (s : State) (ctx op : Nat),
    (s.zephyr.booted = true → s.regs.busy = true →
      exec (.ctxNone ctx) s = .next s ∧
      exec (.switchIn ctx) s = .next s ∧
      exec (.switchOut ctx) s = .next s ∧
      exec (.killContext ctx) s = .next s ∧
      exec (.killLaunch ctx) s = .next s ∧
      exec (.haltContext ctx) s = .next s ∧
      exec (.ctxReservedOp ctx op) s = .next s) ∧
    (s.zephyr.booted = true → s.regs.busy = false → exec (.ctxNone ctx) s = .next ((((s.beginOp ctx 0).setResult 0)).endOp)) ∧
    (s.zephyr.booted = true → s.regs.busy = false → 6 ≤ op → op ≤ 15 → exec (.ctxReservedOp ctx op) s = .next (((s.beginOp ctx op).setResult 5).endOp)) ∧
    (s.zephyr.booted = true → s.regs.busy = false →
      exec (.switchIn ctx) s = .next ((s.beginOp ctx 1).switchIn ctx s.regs.ctxaddr.toNat)) ∧
    (∀ image, s.imageOk image = false → s.switchIn ctx image = s.setResult 4) ∧
    (∀ image old new c cces, s.imageOk image = true → old = (s.ctxs.find? ctx).getD Ctx.fresh →
      new = ((s.ctxs.find? ctx).isNone || old.state == 2) → c = s.readHeader image (if new then Ctx.fresh else old) →
      cces = (List.range 8).map (fun cl => s.readCce image cl new (c.cce.get Cce.fresh cl)) →
      ((old.state = 1 ∨ old.state = 3 ∨ s.imageField image 4 4 ≠ 0) → s.switchIn ctx image = s.setResult 5) ∧
      (old.state ≠ 1 → old.state ≠ 3 → s.imageField image 4 4 = 0 →
        (s.headerOk ctx image c = false → s.switchIn ctx image = s.setResult 1) ∧
        (s.headerOk ctx image c = true →
          let least := c.poolmin + ((s.ctxs.filter (fun (x : Nat × Ctx) => x.1 != ctx && (x.2.state == 1 || x.2.state == 3))).map (fun x => x.2.poolmin)).sum
          (32768 < least → s.switchIn ctx image = s.setResult 2) ∧
          (least ≤ 32768 → (∃ x ∈ cces, x.ok = false) → s.switchIn ctx image = s.setResult 3) ∧
          (least ≤ 32768 → cces.all Cce.ok = true →
            (∀ x ∈ s.ctxs, x.1 ≠ ctx → (x.2.state = 1 ∨ x.2.state = 3) → ∀ cl, cl < 8 → (cces.getD cl Cce.fresh).apart (x.2.cce.get Cce.fresh cl) = true) →
            s.switchIn ctx image = s.readContext ctx image new old c cces)))) ∧
    (∀ image old c cces, let s0 := (s.setCtx ctx { c with state := 2, csbase := old.csbase, cssize := old.cssize }).dropTlb ctx
      (∀ s1 bs, s0.readVirtual deviceTlb ctx c.rtbase.toNat 1024 = (s1, .ok bs) →
        s.readContext ctx image true old c cces = (s1.loadContext ctx image true c cces (.ok bs)).setResult 0) ∧
      (∀ s1, s0.readVirtual deviceTlb ctx c.rtbase.toNat 1024 = (s1, .error .miss) → s.readContext ctx image true old c cces = s1)) ∧
    (∀ c, s.zephyr.booted = true → s.regs.busy = false → s.ctxs.find? ctx = some c → c.state = 1 → s.imageOk s.regs.ctxaddr.toNat = true →
      (s.beginOp ctx 2).saveOk ctx c = true →
      let t := (s.beginOp ctx 2).modCtx ctx (fun c => { c with state := 3, image := BitVec.ofNat 64 s.regs.ctxaddr.toNat })
      exec (.switchOut ctx) s = .next (((t.groupsOf ctx).foldl State.haltGroup t).setResult 0)) ∧
    (s.zephyr.booted = true → s.regs.busy = false → s.ctxs.find? ctx = none → exec (.switchOut ctx) s = .next ((s.beginOp ctx 2).setResult 5)) ∧
    (s.zephyr.booted = true → s.regs.busy = false → s.isIn ctx = true →
      exec (.killContext ctx) s = .next (((s.beginOp ctx 3).killContext ctx).setResult 0)) ∧
    (∀ l, s.zephyr.booted = true → s.regs.busy = false → s.launches.find? (s.regs.ctxaddr.toNat % 2 ^ 32) = some l → l.ctx = ctx →
      exec (.killLaunch ctx) s = .next (((s.beginOp ctx 4).killLaunch 10 (s.regs.ctxaddr.toNat % 2 ^ 32)).setResult 0)) ∧
    (s.zephyr.booted = true → s.regs.busy = false → s.isIn ctx = true →
      exec (.haltContext ctx) s = .next ((((s.groupsOf ctx).foldl State.haltGroup (s.beginOp ctx 5)).modCtx ctx
        (fun c => { c with frozen := true })).setResult 0)) ∧
    (s.zephyr.booted = true → s.regs.busy = false → s.isIn ctx = false → exec (.haltContext ctx) s = .next ((s.beginOp ctx 5).setResult 5)) ∧
    (∀ n, (s.setResult n).regs.result = s.regs.result ∧ (s.setResult n).regs.busy = s.regs.busy) ∧
    (∀ n, ((s.setResult n).endOp).regs.result = n ∧ ((s.setResult n).endOp).regs.busy = false ∧
      (s.setResult n).endOp = ({ s with regs := { s.regs with busy := false, result := n, outcome := none } } : State).interrupt 2) ∧
    (s.regs.busy = false → exec .contextOpComplete s = .next s) ∧
    (s.regs.busy = true → s.ctxs.find? (s.regs.ctxctl.toNat % 4096) = none → exec .contextOpComplete s = .next s.endOp) ∧
    (∀ c n, s.regs.busy = true → s.ctxs.find? (s.regs.ctxctl.toNat % 4096) = some c → c.state ≠ 3 → s.regs.outcome = some n →
      (s.regs.ctxctl.toNat / 4096 = 5 → n = 0 → s.haltedStopped (s.regs.ctxctl.toNat % 4096) = true) →
      ∃ t, exec .contextOpComplete s = .next t ∧ t = ({ s with regs := { s.regs with busy := false, result := n, outcome := none } } : State).interrupt 2) ∧
    (∀ c, s.regs.busy = true → s.ctxs.find? (s.regs.ctxctl.toNat % 4096) = some c → c.state ≠ 3 → s.regs.outcome = some 0 →
      s.regs.ctxctl.toNat / 4096 = 5 → s.haltedStopped (s.regs.ctxctl.toNat % 4096) = false → exec .contextOpComplete s = .next s) ∧
    (∀ c, s.regs.busy = true → s.ctxs.find? (s.regs.ctxctl.toNat % 4096) = some c → c.state ≠ 3 → s.regs.outcome = none →
      s.regs.ctxctl.toNat / 4096 = 1 → exec .contextOpComplete s = .next (s.switchIn (s.regs.ctxctl.toNat % 4096) c.image.toNat)) ∧
    (∀ c, s.regs.busy = true → s.ctxs.find? (s.regs.ctxctl.toNat % 4096) = some c → c.state = 3 →
      let ctx := s.regs.ctxctl.toNat % 4096
      exec .contextOpComplete s = .next (if s.allStopped ctx = true ∧ s.raysCarried ctx = true ∧ s.addsDone ctx = true ∧ c.recordsOut = true
        then (if (s.drainContext ctx).drainsOut ctx = true then (s.drainContext ctx).finishSwitchOut ctx c else s.drainContext ctx) else s)) ∧
    (∀ c, (∃ s1, s.spillAll (List.filter (fun (p : Nat × Wave) => p.2.ctx == ctx) s.waves) = (s1, true)) →
      ∃ u : State, s.finishSwitchOut ctx c = (u.setResult 0).endOp)

/-- Invalidations, DOMAIN, LINKCTL and the plain registers take writes of the control cores as their rules say. That DOMAIN is taken only
while no context has been switched in is the model's reading (log entry 13); that one invalidation is under way at a time and how it
ends are log entry 28. -/
def Obligations.DeviceRegisters : Prop :=
  ∀ s : State,
    (∀ ctx lo hi, s.zephyr.booted = true → exec (.invalidationRequest ctx lo hi) s =
      .next (if s.regs.inval = none then { s with regs := { s.regs with inval := some ⟨ctx, lo, hi⟩ } } else s)) ∧
    (∀ i, s.regs.inval = some i → let u := (s.flushContext i.ctx).leaveTiles i.ctx
      (u.accessing i.ctx = true → exec .invalidationComplete s = .next u) ∧
      (u.accessing i.ctx = false → exec .invalidationComplete s =
        .next { u.dropRange i with regs := { (u.dropRange i).regs with inval := none } })) ∧
    (∀ i, (∀ c ∈ (s.dropRange i).cores, ∀ e ∈ c.2.tlb, i.covers e = false) ∧ (∀ x ∈ (s.dropRange i).tlb2, ∀ e ∈ x.2, i.covers e = false) ∧
      (∀ x ∈ (s.dropRange i).walks, ∀ e ∈ x.2, i.meets e = false) ∧ (s.dropRange i).mem = s.mem ∧ (s.dropRange i).waves = s.waves) ∧
    (s.regs.inval = none → exec .invalidationComplete s = .next s) ∧
    (∀ v : Word, s.zephyr.booted = true → s.regs.domainSet = false → s.ctxs = [] → v.getLsbD (8 + v.toNat % 8) = true →
      ∃ t, exec (.domainWrite v) s = .next t ∧ t.did = v.toNat % 8 ∧ t.regs.domainSet = true ∧ t.mem = rekey s.did (v.toNat % 8) s.mem ∧
        t.waves = s.waves ∧ t.ctxs = s.ctxs ∧ t.ports = s.ports) ∧
    (∀ v : Word, s.zephyr.booted = true → (s.regs.domainSet = true ∨ s.ctxs ≠ [] ∨ v.getLsbD (8 + v.toNat % 8) = false) →
      exec (.domainWrite v) s = .next s) ∧
    (∀ n (v : Word), s.zephyr.booted = true → n < 8 → v.getLsbD 0 = true → (s.port n).en = false →
      exec (.linkctlWrite n v) s = .next (s.setPort n { s.port n with
        en := true, expect := v.toNat / 2 % 8, lost := 0, replays := 0, down := false, mismatch := false })) ∧
    (∀ n (v : Word), s.zephyr.booted = true → n < 8 → v.getLsbD 0 = false → (s.port n).up = false →
      ∃ t, exec (.linkctlWrite n v) s = .next t ∧ (t.port n).en = false ∧ (t.port n).up = false ∧ (t.port n).expect = v.toNat / 2 % 8 ∧
        t.mem = s.mem ∧ t.regs = s.regs) ∧
    (∀ v : Addr, s.zephyr.booted = true →
      exec (.registerWrite .mdbase v) s = .next { s with regs := { s.regs with mdbase := v } } ∧
      exec (.registerWrite .mdspan v) s = .next { s with regs := { s.regs with mdspan := v } } ∧
      exec (.registerWrite .ctxaddr v) s = .next { s with regs := { s.regs with ctxaddr := v } } ∧
      (∀ n, n < 16 → exec (.registerWrite (.lqring n) v) s = .next (s.setLqueue n { s.lqueue n with ring := v }) ∧
        exec (.registerWrite (.lqctx n) v) s = .next (s.setLqueue n { s.lqueue n with ctxReg := v.setWidth 32 &&& 0x80000FFF })) ∧
      (∀ n, n < 64 → exec (.registerWrite (.introute n) v) s =
        .next { s with regs := { s.regs with routing := s.regs.routing.put n (v.setWidth 32) } }) ∧
      (∀ n, exec (.registerWrite (.linkstat n) v) s = .next s) ∧ exec (.registerWrite .ctxstat v) s = .next s) ∧
    (∀ v : Addr, ∀ c ctx, s.zephyr.booted = true → s.ctxs.find? ctx = some c → c.state ≠ 1 → c.state ≠ 3 →
      exec (.registerWrite (.ctxHeader ctx 8) v) s = .next (s.physWrite (cellsAt (s.imageKey c.image.toNat 8) (bytesOf 8 v.toNat))))

/-- A port comes up with its expected peer; flits are refused, acknowledged or taken in order; a lost peer fails its transactions. Sequence
numbers at LINK_UP, the flit's header and what becomes of copies and transactions of a lost peer are the model's (log entry 29). -/
def Obligations.LinksCarryFlits : Prop :=
  ∀ (s : State) (n : Nat),
    (∀ did, n < 8 → (s.port n).en = true → (s.port n).up = false → (s.port n).down = false → did % 8 = (s.port n).expect → s.member (did % 8) = true →
      exec (.linkUp n did) s = .next ((s.setPort n { s.port n with
        up := true, peer := did % 8, mismatch := false, txSeq := 0, rxSeq := 0, sent := [], refusals := 0, refused := 0 }).interrupt 3)) ∧
    (∀ did, n < 8 → (s.port n).en = true → (s.port n).up = false → (s.port n).down = false → did % 8 ≠ (s.port n).expect →
      exec (.linkUp n did) s = .next (s.setPort n { s.port n with peer := did % 8, mismatch := true })) ∧
    (∀ f, n < 8 → (s.port n).up = true → flitGood f = false → (s.port n).refusals < 15 →
      exec (.flitReceive n f) s = .next (s.setPort n { s.port n with
        refusals := (s.port n).refusals + 1, wire := (s.port n).wire ++ [flitBytes (s.port n).txSeq (s.port n).rxSeq 2 0 s.did []] })) ∧
    (∀ f, n < 8 → (s.port n).up = true → flitGood f = true → flitField f 4 1 = 0 →
      exec (.flitReceive n f) s = .next (s.setPort n (((s.port n).acked (flitField f 2 2)).pumpAll s.did))) ∧
    (∀ f, n < 8 → (s.port n).up = true → flitGood f = true → flitField f 4 1 = 1 →
      let u := s.setPort n (((s.port n).acked (flitField f 2 2)).pumpAll s.did)
      flitField f 0 2 = (u.port n).rxSeq → (u.port n).inbox.length < 64 →
      let r := parseUnits 15 ((f.drop 8).take 240) [] 0
      exec (.flitReceive n f) s = .next (u.setPort n { (u.port n).addReplays r.2 with
        rxSeq := ((u.port n).rxSeq + 1) % 65536, refusals := 0
        inbox := (u.port n).inbox ++ r.1.map (fun t => { t with cls := flitField f 5 1 % 4 })
        wire := (u.port n).wire ++ [flitBytes (u.port n).txSeq (((u.port n).rxSeq + 1) % 65536) 0 0 s.did []] })) ∧
    (∀ ack, n < 8 → (s.port n).up = true → (((s.port n).replay ack).pumpAll s.did).refused < 16 →
      exec (.nakReceive n ack) s = .next (s.setPort n (((s.port n).replay ack).pumpAll s.did))) ∧
    (∀ ack, (s.port n).up = false → exec (.nakReceive n ack) s = .next s) ∧
    (∀ peer, peer ≠ s.did → s.portTo peer = none →
      let theirs (line : Nat) : Bool := targetOf (128 * line) == peer
      let u : State := { s with
        ports := s.ports.map (fun p => (p.1, if p.2.peer = peer ∧ p.2.up = false then { p.2 with inbox := [], out := [], sent := [] } else p.2))
        tiles := s.tiles.map (fun t => (t.1, t.2.losePeer peer)) }
      ∃ v : State, exec (.linkLost peer) s = .next ((v.forgetLines theirs).dropInvariant theirs) ∧
        (∀ x ∈ v.slices, (∀ m ∈ x.2.entries, m.peer.map Prod.fst ≠ some peer) ∧ ∀ m ∈ x.2.relist, m.peer.map Prod.fst ≠ some peer) ∧
        ∃ sl, { v with slices := sl } = ((s.txns.filter (fun (t : Txn) => t.peer == peer)).foldl State.failTxn u).loseTiles peer) ∧
    (∀ (t : HomeTile) peer, (∀ x, x ∈ (t.losePeer peer).shares ↔ x ∈ t.shares ∧ x.did ≠ peer) ∧
      (∀ j ∈ (t.losePeer peer).joins, ∀ a, j.peer = some a → a.did ≠ peer) ∧ (∀ r ∈ (t.losePeer peer).reads, ∀ a, r.peer = some a → a.did ≠ peer)) ∧
    (∀ (x : Txn), (∀ line, x.purpose = .fill line → line ∉ s.poison → s.failTxn x = { s.dropTxn x.token with poison := s.poison ++ [line] }) ∧
      (∀ uid iss lane va, x.purpose = .ret uid iss lane va → s.failTxn x = (s.dropTxn x.token).answerLane uid iss x.token none)) ∧
    (∀ peer, (s.portTo peer).isSome = true → exec (.linkLost peer) s = .next s)

/-- The oldest transaction of its class in an inbox is performed at the home with the effect of R391 and answered. The kinds of atomics,
rings, answers and tile messages over a link are the model's (log entries 19 and 29); a word of a block that the codec rejects keeps its
bytes (log entry 59). -/
def Obligations.LinkTransactionsAreServed : Prop :=
  ∀ (s : State) (n : Nat) (t : LinkTx), n < 8 →
    ((s.port n).next 1 = some t → inDevice (t.addr / 128 * 128) 128 = true → ∀ s1 bs,
      State.exactRead 2 s (physKey s.did (t.addr / 128 * 128)) 128 [] = (s1, .ok bs) → t.scope < 32 →
      exec (.linkRead n) s = .next (((s1.mark (lineOf (physKey s.did (t.addr / 128 * 128))) (s.port n).peer).takeTx n t).respond n t 0 bs)) ∧
    ((s.port n).next 1 = some t → t.scope < 32 → inDevice (t.addr / 128 * 128) 128 = false → exec (.linkRead n) s = .next ((s.takeTx n t).respond n t 1 [])) ∧
    ((s.port n).next 2 = some t → inDevice t.addr t.data.length = true → ∀ s1, s.clearHome (t.cells s.did) = (s1, true) →
      exec (.linkWrite n) s = .next (((s1.physWrite (t.cells s.did)).takeTx n t).respond n t 0 [])) ∧
    ((s.port n).next 3 = some t → inDevice t.addr 4 = true → t.addr % 4 = 0 → t.scope % 16 ≤ 10 → ∀ s1 s2 bs,
      s.clearHome [(physKey s.did t.addr, 0)] = (s1, true) → State.exactRead 2 s1 (physKey s.did t.addr) 4 [] = (s2, .ok bs) →
      let word (o : Nat) : Word := BitVec.ofNat 32 (ofBytes ((t.data.drop o).take 4))
      exec (.linkAtomic n) s = .next (((s2.physWrite (cellsAt (physKey s.did t.addr)
        (bytesOf 4 (atomicFn (t.scope % 16) (BitVec.ofNat 32 (ofBytes bs)) (word 0) (word 4)).toNat))).takeTx n t).respond n t 0
        (if t.scope < 16 then bs else []))) ∧
    ((s.port n).next 4 = some t → ∀ s1 v, s.remoteQueue true t = (s1, some (0, v)) → exec (.linkEnq n) s = .next ((s1.takeTx n t).respond n t 0 v)) ∧
    ((s.port n).next 5 = some t → ∀ s1 v, s.remoteQueue false t = (s1, some (0, v)) → exec (.linkDeq n) s = .next ((s1.takeTx n t).respond n t 0 v)) ∧
    ((s.port n).next 6 = some t → inDevice t.addr 4 = true → t.addr % 4 = 0 → t.scope < 10 → ∀ s0 bs,
      State.exactRead 2 s (physKey s.did t.addr) 4 [] = (s0, .ok bs) → let s1 := s0.takeTx n t
      let v : Word := BitVec.ofNat 32 (ofBytes (t.data.take 4))
      let m : Mon := ⟨0, 0, 0, some ((s.port n).peer, t.tag, t.cls), physKey s.did t.addr, s.codedAt (physKey s.did t.addr), v, t.scope⟩
      exec (.linkMonw n) s = .next (if monHolds t.scope (BitVec.ofNat 32 (ofBytes bs)) v = true then s1.wake m else s1.addMonitor m)) ∧
    ((s.port n).next 7 = some t → let line := lineOf (physKey (s.port n).peer t.addr)
      exec (.linkInvalidate n) s = .next ((((s.forgetLines (fun l => l == line)).dropInvariant (fun l => l == line)).takeTx n t).respond
        n t 0 [])) ∧
    (∀ p : Nat → Bool, (∀ l, p l = true → (s.forgetLines p).l2.find? l = none) ∧ (∀ c ∈ (s.dropInvariant p).cores, ∀ i ∈ c.2.l1.inv, p i.line = false) ∧
      (∀ x ∈ (s.dropInvariant p).treelets, ∀ i ∈ x.2, p i.line = false)) ∧
    ((s.port n).next 8 = some t → (inDevice t.addr t.data.length = false ∨ t.addr % 4 ≠ 0 ∨ 8 < t.scope) → t.scope < 16 →
      exec (.linkDrain n) s = .next ((s.takeTx n t).respond n t 1 [])) ∧
    ((s.port n).next 8 = some t → inDevice t.addr t.data.length = true → t.addr % 4 = 0 → t.scope ≤ 8 → ∀ s1,
      s.settleMarks (linesOf (t.cells s.did)) = (s1, true) →
      let cs := (s1.combinedTx t).cells s1.did
      exec (.linkDrain n) s = .next (((((cs.map (fun c => c.1 / 256)).dedup).foldl (fun s b =>
        s.homePut (cs.filter (fun c => c.1 / 256 == b)) (s.codedFor (256 * b))) s1).takeTx n t).respond n t 0 [])) ∧
    ((s.port n).next 8 = some t → t.scope = 16 → inDevice t.addr 256 = true → t.addr % 256 = 0 →
      let tile := tileOf (physKey s.did t.addr)
      exec (.linkDrain n) s = .next { s.takeTx n t with tiles := s.tiles.put tile { s.home tile (BitVec.ofNat 32 (ofBytes ((t.data.drop 4).take 4))) with
        joins := (s.home tile (BitVec.ofNat 32 (ofBytes ((t.data.drop 4).take 4)))).joins ++
          [{ cid := ofBytes (t.data.take 4), ctx := 0, coded := false, cls := t.cls, peer := some (t.asker (s.port n).peer) }] } }) ∧
    (∀ i bs, i < t.data.length / 4 → let key := physKey s.did t.addr + 4 * i
      s.view key 4 (s.codedAt key) = some bs → ((s.combinedTx t).data.drop (4 * i)).take 4 =
        bytesOf 4 (atomicFn (if 64 ≤ t.scope then 1 else t.scope) (BitVec.ofNat 32 (ofBytes bs)) (BitVec.ofNat 32 (ofBytes ((t.data.drop (4 * i)).take 4))) 0).toNat) ∧
    ((s.port n).next 9 = some t → t.scope = 0 → ∀ x, s.txnOf (s.port n).peer t.tag = some x →
      exec (.linkResponse n) s = .next ((s.takeTx n t).finishTxn x t.data)) ∧
    ((s.port n).next 9 = some t → t.scope ≠ 0 → ∀ x, s.txnOf (s.port n).peer t.tag = some x →
      (∀ a b c d, x.purpose ≠ .monw a b c d) → exec (.linkResponse n) s = .next ((s.takeTx n t).failTxn x)) ∧
    ((s.port n).next 9 = some t → t.scope ≠ 0 → ∀ x uid iss lane va w, s.txnOf (s.port n).peer t.tag = some x → x.purpose = .monw uid iss lane va →
      s.waveOf uid iss = some w → w.isStopped = false → s.inOrder w.ctx iss.wave = true →
      exec (.linkResponse n) s = .next (((s.takeTx n t).dropTxn x.token).takeTrap iss .eccUncorrectable va lane)) ∧
    ((s.port n).next 10 = some t → ∀ x uid iss lane va w, (s.takeTx n t).txnOf ((s.takeTx n t).port n).peer t.tag = some x →
      x.purpose = .monw uid iss lane va → s.waves.find? iss.wave = some w → w.uid = uid →
      exec (.linkWake n) s = .next (((s.takeTx n t).dropTxn x.token).wake ⟨w.ctx, iss.wave, uid, none, 0, false, 0, 0⟩))

/-- Control cores and the host read and write own memory by physical address; BAR0 registers answer only while HOSTREG is set. Which bytes
of coded blocks such agents see (log entry 27), what a register without a value reads (log entry 17) and the form of a write to the
invalidation register (log entry 70) are the model's. -/
def Obligations.HostAndControlCoreAccess : Prop :=
  ∀ s : State,
    (∀ addr len, s.zephyr.booted = true → inDevice addr len = true → ∀ s1 r, State.exactRead (len / 128 + 2) s (physKey s.did addr) len [] = (s1, r) →
      let t := match r with
        | .ok bs => { s1 with reply := some bs }
        | .poison => { s1 with reply := none }
        | .miss => s1
      exec (.controlCoreRead addr len) s = .next t ∧ exec (.hostRead none addr len) s = .next t) ∧
    (∀ addr data, s.zephyr.booted = true → inDevice addr data.length = true →
      ∀ s1, s.clearHome (cellsAt (physKey s.did addr) data) = (s1, true) →
      let t := (s1.physWrite (cellsAt (physKey s.did addr) data)).flushAll
      exec (.controlCoreWrite addr data) s = .next t ∧ ∀ v, exec (.hostWrite none v addr data) s = .next t) ∧
    (∀ addr data len v, inDevice addr len = false → inDevice addr data.length = false →
      exec (.hostRead none addr len) s = .next { s with reply := none } ∧ exec (.hostWrite none v addr data) s = .next s) ∧
    (∀ r v addr len data, s.zephyr.hostreg = false →
      exec (.hostWrite (some r) v addr data) s = .next s ∧
      exec (.hostRead (some r) addr len) s = .next { s with reply := some (bytesOf (s.regValue r).1 0) }) ∧
    (∀ r v addr data, s.zephyr.hostreg = true → s.zephyr.booted = true → exec (.hostWrite (some r) v addr data) s = .next (s.writeReg r v)) ∧
    (∀ r v addr data, s.zephyr.booted = false → exec (.hostWrite (some r) v addr data) s = .next s) ∧
    (∀ v : Addr, s.regs.inval = none → ∃ i, s.writeReg .inval v = { s with regs := { s.regs with inval := some i } } ∧ i.ctx = v.toNat % 4096 ∧
      i.lo = v.toNat / 2 ^ 12 % 2 ^ 36 * 4096 ∧ i.hi + 1 = i.lo + 2 ^ (12 + v.toNat / 2 ^ 48 % 64)) ∧
    (∀ r n v addr len, s.zephyr.hostreg = true → s.regValue r = (n, some v) →
      exec (.hostRead (some r) addr len) s = .next { s with reply := some (bytesOf n v) }) ∧
    s.regValue .mdbase = (8, some s.regs.mdbase.toNat) ∧ s.regValue .tqerr = (4, some s.regs.tqerr.toNat) ∧
      s.regValue .domain = (4, some s.regs.domain.toNat) ∧ s.regValue .clkstep = (4, some s.regs.clkstep) ∧
      s.regValue .ctxstat = (4, some ((if s.regs.busy then 1 else 0) + 16 * s.regs.result))

/-- Reset, measurement, quotes, alarms, clock steps and soft errors have the effects of R398 to R403 and R401. The fuses' layout (log entry
9), what a reset keeps and Zephyr's turns (log entry 30), where an error strikes (log entry 56) and the list of interrupts and where
they are steered (log entries 57 and 68) are the model's. -/
def Obligations.SecurityAndPower : Prop :=
  ∀ s : State,
    (∀ image key sig keyidx version, ∃ t, exec (.deviceReset image key sig keyidx version) s = .next t ∧ t.waves = [] ∧ t.groups = [] ∧ t.launches = [] ∧
      t.ctxs = [] ∧ t.rays = [] ∧ t.cycle = 0 ∧ t.mem = rekey s.did 0 s.mem ∧ t.poison = s.rekeyLines 0 ∧ t.zephyr.rollback = s.zephyr.rollback ∧
      t.zephyr.policy = s.zephyr.policy ∧
      t.zephyr.booted = (s.zephyr.imageOk image key sig keyidx version || s.zephyr.response 0 == 0) ∧
      (s.zephyr.imageOk image key sig keyidx version = true → t.zephyr.pcmAt 0 = Config.shake256 64 (List.replicate 64 0 ++ Config.shake256 64 image)) ∧
      ∀ n, n ≠ 0 → t.zephyr.pcmAt n = List.replicate 64 0) ∧
    (∀ n data, s.zephyr.booted = true → 1 ≤ n → n ≤ 7 → ∃ z, exec (.extend n data) s = .next { s with zephyr := z } ∧
      z.pcmAt n = Config.shake256 64 (s.zephyr.pcmAt n ++ data) ∧ (∀ k, k ≠ n → z.pcmAt k = s.zephyr.pcmAt k) ∧ z.booted = true ∧ z.log = s.zephyr.log) ∧
    (∀ nonce, s.zephyr.booted = true → s.zephyr.provisioned = true → nonce.length = 32 →
      exec (.quote nonce) s = .next { s with zephyr := { s.zephyr with quotes := s.zephyr.quotes ++
        [Config.slhSign (Config.shake256 64 (s.zephyr.quoteBytes nonce))] } }) ∧
    (∀ nonce, s.zephyr.provisioned = false → exec (.quote nonce) s = .next s) ∧
    (∀ a : BitVec 6, (s.zephyr.strongest (alarmSources a) = 0 ∨ s.zephyr.booted = false) →
      exec (.alarm a) s = .next ((alarmSources a).foldl State.logAlarm s)) ∧
    (∀ a : BitVec 6, s.zephyr.strongest (alarmSources a) ≠ 0 → s.zephyr.booted = true →
      let u := (alarmSources a).foldl State.logAlarm s
      let t : State := { u with zephyr := { u.zephyr with
        halted := true, provisioned := s.zephyr.provisioned && s.zephyr.strongest (alarmSources a) == 1 } }
      exec (.alarm a) s = .next (((s.ctxs.filter (fun (c : Nat × Ctx) => c.2.state == 1)).map Prod.fst).foldl State.alarmContext t)) ∧
    (∀ a : BitVec 6, alarmSources a = (List.range 6).filter a.getLsbD ∧
      (∀ k ∈ alarmSources a, s.zephyr.response k ≤ s.zephyr.strongest (alarmSources a)) ∧
      (s.zephyr.strongest (alarmSources a) = 0 ∨ ∃ k ∈ alarmSources a, s.zephyr.strongest (alarmSources a) = s.zephyr.response k) ∧
      ((alarmSources a).foldl State.logAlarm s).zephyr.log = s.zephyr.log ++ alarmSources a) ∧
    exec .clockStepDown s = .next (if s.regs.clkstep < 9 then ({ s with regs := { s.regs with clkstep := s.regs.clkstep + 1 } } : State).interrupt 6 else s) ∧
    exec .clockStepUp s = .next (if 0 < s.regs.clkstep then ({ s with regs := { s.regs with clkstep := s.regs.clkstep - 1 } } : State).interrupt 6 else s) ∧
    (∀ site, exec (.softError site true) s = .next (({ s with regs := { s.regs with ecclog := (s.regs.ecclog + 1) % 2 ^ 32 } } : State).interrupt 4)) ∧
    (∀ key, s.isLocal key = true → lineOf key ∉ s.poison → exec (.softError (.memory key) false) s = .next { s with poison := s.poison ++ [lineOf key] }) ∧
    (∀ k c w, s.waves.find? k = some w → .register w.uid c ∉ s.spoiled →
      exec (.softError (.register k c) false) s = .next { s with spoiled := s.spoiled ++ [.register w.uid c] }) ∧
    (∀ cid line, exec (.softError (.l1 cid line) false) s = .next (s.setL1 cid ((s.l1 cid).strike line)) ∧
      (∀ d, ((s.l1 cid).strike line).dirty.find? d = ((s.l1 cid).dirty.find? d).map (fun b => if lineOf d = line then { b with bad := true } else b)) ∧
      (∀ c, ((s.l1 cid).strike line).clean.find? c = ((s.l1 cid).clean.find? c).map (fun b => if c = line then [] else b))) ∧
    (∀ line, (s.l2.find? line).isSome = true → exec (.softError (.l2 line) false) s = .next { s with l2 := s.l2.put line [] })

/-- A word of no operation traps ILLEGAL_OP, one with a reserved field RESERVED_FIELD if a fibre passes its guard; a failed fetch traps with its address -/
def Obligations.WordsThatAreNoInstruction : Prop :=
  ∀ s iss w, s.cur = some iss → s.waves.find? iss.wave = some w → iss.batch ≠ 0 →
    (∀ word, decodeWord word 0 = none → illegalOp word = true →
      exec (.illegalEncoding word) s = .next (s.takeTrap { iss with word := word } .illegalOp 0 (lowest iss.batch))) ∧
    (∀ word, decodeWord word 0 = none → illegalOp word = false → guardOf word = none →
      exec (.illegalEncoding word) s = .next (s.takeTrap { iss with word := word } .reservedField 0 (lowest iss.batch))) ∧
    (∀ word g, decodeWord word 0 = none → illegalOp word = false → guardOf word = some g → w.guarded iss.batch g ≠ 0 →
      exec (.illegalEncoding word) s = .next (s.takeTrap { iss with word := word } .reservedField 0 (lowest iss.batch))) ∧
    (∀ va s1 c a, s.fetchWord (cidOf iss.wave) w.ctx va.toNat (w.prio % 4) = (s1, .fault c a) →
      exec (.fetchFault va) s = .next (s1.takeTrap { iss with word := 0, len := if va = iss.pc then 4 else 8 } c va (lowest iss.batch)))

/-- SADDI gives sd := (sa + imm[31:0]) mod 2^32 once per issue, with or without IMX -/
def Obligations.ScalarAddImmediate : Prop :=
  ∀ (d a : BitVec 7) (i : BitVec 11) (s : State) (iss : Issue) (w : Wave),
    (∀ lanes, Issues s iss w none [.scl d 1, .scl a 1] false lanes → ∃ w', exec (.saddi d a i) s = .next (s.setWave iss.wave w') ∧
      w'.scalar (w.sb + d.toNat) = w.scalar (w.sb + a.toNat) + (match iss.ext with
        | none => i.signExtend 32
        | some v => (v ++ i : BitVec 36).setWidth 32) ∧
      (∀ n, n ≠ w.sb + d.toNat → w'.scalar n = w.scalar n) ∧ w'.regs = w.regs ∧ w'.fsr = w.fsr ∧ SameWave w w' ∧ SameCounters w w' ∧
      (∀ l, l < 32 → w'.fib l = if iss.batch.getLsbD l then { w.fib l with pc := iss.next, owed := 0 } else w.fib l)) ∧
    (s.cur = some iss → s.waves.find? iss.wave = some w → iss.batch ≠ 0 →
      (w.sneed < w.sb + d.toNat + 1 ∨ w.sneed < w.sb + a.toNat + 1) →
      exec (.saddi d a i) s = .next (s.takeTrap iss .illegalOperand 0 (lowest iss.batch)))

/-- Taking an exception: the wave faults, a record is made and numbered, its in-flight loads are dropped and its group halts -/
def Obligations.TrapsHaltTheGroup : Prop :=
  ∀ (s : State) (iss : Issue) (c : Cause) (faddr : Addr) (lane : Nat) (w : Wave) (x : Group) (cx : Ctx) (k2 : Nat) (w2 : Wave),
    s.waves.find? iss.wave = some w → s.group w.group = some x → x.halted = false → s.ctxs.find? w.ctx = some cx → cx.state ≠ 0 →
    k2 ≠ iss.wave → s.waves.find? k2 = some w2 → w2.group = w.group → w2.run = .running → w2.wait = none → w2.batch.isSome = true →
    let t := s.takeTrap iss c faddr lane
    ∃ w' x' cx', t.waves.find? iss.wave = some w' ∧ t.group w.group = some x' ∧ t.ctxs.find? w.ctx = some cx' ∧
      (∃ others, w'.run = .faulted cx.trapseq.toNat iss others) ∧ w'.wait = w.staysParked 0 ∧ (∀ l, w'.fib l = w.fib l) ∧
      w'.scalars = w.scalars ∧ w'.fsr = w.fsr ∧ w'.latch = w.latch ∧ w'.lp = w.lp ∧ w'.st = w.st ∧ w'.cp = w.cp ∧ w'.tx = w.tx ∧
      (∀ o ∈ w'.ld, o ∈ w.ld ∧ (o.kind = .load → o.done = true)) ∧
      (∀ i, (∀ o ∈ w.ld, i ∉ o.busy) → w'.regs.find? i = w.regs.find? i) ∧
      x'.halted = true ∧ x'.recorded = false ∧ x'.haltSeq = some cx.trapseq.toNat ∧
      x'.unanswered = x.unanswered ++ [cx.trapseq.toNat] ∧
      x'.records = x.records ++ [{
        ctx := w.ctx, seq := cx.trapseq.toNat, cause := c, source := 0, groupHalt := true, instr := iss.word, pc := iss.pc,
        region := (w.fib (lowest iss.batch)).region, faddr := faddr, lid := BitVec.ofNat 32 w.lid, group := x.index,
        who := packWave iss.wave lane w.wid, progress := [] }] ∧
      cx'.trapseq = cx.trapseq + 1 ∧
      (∃ p, cx'.pending = cx.pending ++ [p] ∧ p.seq = cx.trapseq.toNat ∧ p.cause = c ∧ p.source = 0 ∧ p.answer = none ∧
        p.wave = iss.wave ∧ p.group = w.group) ∧
      t.waves.find? k2 = some { w2 with run := .skid 4, skid := 0 } ∧
      (∀ k3 w3, s.waves.find? k3 = some w3 → w3.group ≠ w.group → t.waves.find? k3 = some w3) ∧
      (∀ key, t.byte key = s.byte key) ∧ t.regs = s.regs

/-- An issue no lane of which passes the guard only moves on; reserved fields, bad operands and wrong tags trap; EMPTY registers wait. That
an issue no fibre passes looks at no operand and no EMPTY bit is the model's reading (log entry 12, DEDUCED). -/
def Obligations.IssuesThatDoNotExecute : Prop :=
  ∀ (d a b : BitVec 7) (g h m : BitVec 2) (j : BitVec 11) s iss w, s.cur = some iss → s.waves.find? iss.wave = some w →
    (∀ i ∈ ([.iadd d a b g h, .iadds d a b g h, .isub d a b g h, .isubs d a b g h, .imul d a b g h, .imulh d a b g h, .imulhu d a b g h, .land d a b g h, .lor d a b g h, .lxor d a b g h, .andn d a b g h, .shl d a b g h, .shr d a b g h, .sar d a b g h, .imin d a b g h, .imax d a b g h, .umin d a b g h, .umax d a b g h, .fadd d a b g h, .fsub d a b g h, .fmul d a b g h, .fmin d a b g h, .fmax d a b g h] : List Instr),
      (w.guarded iss.batch g.toNat = 0 → ∃ w', exec i s = .next (s.setWave iss.wave w') ∧ SameWave w w' ∧ SameCounters w w' ∧ Does {} iss 0 w w') ∧
      (w.guarded iss.batch g.toNat ≠ 0 → (∃ o ∈ ([.vec d 1 1, .src a, .src b] : List Opnd), o.bad w = true) →
        exec i s = .next (s.takeTrap iss .illegalOperand 0 (lowest iss.batch))) ∧
      (w.guarded iss.batch g.toNat ≠ 0 → (∀ o ∈ ([.vec d 1 1, .src a, .src b] : List Opnd), o.bad w = false) →
        (w.emptyIn [.vec d 1 1, .src a, .src b] iss.batch = true ∨ ∃ o ∈ ([.vec d 1 1, .src a, .src b] : List Opnd), ∃ n ∈ o.regs w, n ∈ w.tileBusy) →
        exec i s = .next (s.waitIssue iss))) ∧
    (∀ i ∈ ([.fadd d a b g h, .fsub d a b g h, .fmul d a b g h, .fmin d a b g h, .fmax d a b g h] : List Instr), ∀ l, l < 32 → (w.guarded iss.batch g.toNat).getLsbD l = true →
      (∀ o ∈ ([.vec d 1 1, .src a, .src b] : List Opnd), o.bad w = false) → w.emptyIn [.vec d 1 1, .src a, .src b] iss.batch = false →
      (∀ o ∈ ([.vec d 1 1, .src a, .src b] : List Opnd), ∀ n ∈ o.regs w, n ∉ w.tileBusy) →
      (tagFixed 1 (w.src a l) = false ∨ tagFixed 1 (w.src b l) = false) →
      (∀ k, k < l → (w.guarded iss.batch g.toNat).getLsbD k = true → tagFixed 1 (w.src a k) = true ∧ tagFixed 1 (w.src b k) = true) →
      exec i s = .next (s.takeTrap iss .formatMismatch 0 l)) ∧
    (w.guarded iss.batch g.toNat ≠ 0 → ∀ i ∈ ([.mov d a g 2, .lnot d a g 2, .neg d a g 2, .popc d a g 2] : List Instr),
      exec i s = .next (s.takeTrap iss .reservedField 0 (lowest iss.batch))) ∧
    (iss.batch ≠ 0 → 2 ≤ m.toNat → ∀ i ∈ ([.tld d a b m, .tst d a b m] : List Instr), exec i s = .next (s.takeTrap iss .reservedField 0 (lowest iss.batch))) ∧
    (iss.batch ≠ 0 → w.ld.length = 63 → (Opnd.vec d 1 1).bad w = false → (Opnd.vec a 2 2).bad w = false →
      ∀ i ∈ ([.ldb d a j, .ldh d a j, .ldw d a j, .ldv d a j] : List Instr), exec i s = .next (s.waitIssue iss)) ∧
    (iss.batch ≠ 0 → w.st.length = 63 → (Opnd.vec d 1 1).bad w = false → (Opnd.vec a 2 2).bad w = false →
      ∀ i ∈ ([.stb d a j, .sth d a j, .stw d a j] : List Instr), exec i s = .next (s.waitIssue iss)) ∧
    (w.run = .running → ∃ ws, s.waitIssue iss = { s with waves := ws } ∧ ws.find? iss.wave = some { w with wait := some .retry, tried := s.cycle + 1 } ∧
      ∀ k, k ≠ iss.wave → ws.find? k = s.waves.find? k)

/-- No load changes a byte of memory or of a scratchpad; a store changes only the bytes its elements cover, to the bytes stored -/
def Obligations.LoadsAndStoresOfMemory : Prop :=
  (∀ acc inv tol addrs asks s iss lanes w t (p : Op → Prop), s.Undisturbed → loads acc inv tol addrs asks s iss lanes w = some (t, p) →
      ∀ cid gk x, t.seenByte cid gk x = s.seenByte cid gk x) ∧
    (∀ acc addrs puts s iss lanes w t (p : Op → Prop) s1 got, s.Undisturbed → stores acc addrs puts s iss lanes w = some (t, p) →
      s.checkLanes iss.wave w acc (addrs iss lanes w) (lanesOf lanes) [] = (s1, .ok got) →
      (∀ q ∈ puts iss w got, ∀ k, q.place.loc ≠ .mem k true) →
      ∀ x, (∀ q ∈ puts iss w got, ¬ q.place.loc.covers q.bytes.length x) → ∀ cid gk, t.seenByte cid gk x = s.seenByte cid gk x) ∧
    (∀ (s : State) cid (w : Wave) (q : Put) i, s.Undisturbed → (s.group w.group).isSome = true → q.place.limit = none → (∀ k, q.place.loc ≠ .mem k true) →
      i < q.bytes.length → (s.putElem cid w q).1.seenByte cid w.group (q.place.loc.plus i) = q.bytes.getD i 0) ∧
    (∀ (s : State) cid (w : Wave) (q : Put) key limit pr i, s.Undisturbed → q.place = ⟨.mem key false, some limit, pr⟩ → (∀ j, j < q.bytes.length → s.isLocal (key + j) = true) →
      i < q.bytes.length → (s.putElem cid w q).1.byte (key + i) = q.bytes.getD i 0)

/-- After reset only Zephyr runs: no wave, group, launch or context, cycle 0, measurement registers zero, memory canonical. That every
byte reads 0x00 is the model's choice (log entry 3) -/
def Obligations.ResetState : Prop :=
  State.reset.waves = [] ∧ State.reset.away = [] ∧ State.reset.groups = [] ∧ State.reset.launches = [] ∧ State.reset.rays = [] ∧ State.reset.ctxs = [] ∧
    State.reset.cycle = 0 ∧ State.reset.zephyr.booted = false ∧ (∀ n, State.reset.zephyr.pcmAt n = List.replicate 64 0) ∧ State.reset.memoryOk ∧
    (∀ key, State.reset.byte key = 0) ∧
    (∀ r v, exec (.registerWrite r v) State.reset = .next State.reset) ∧ (∀ ctx, exec (.switchIn ctx) State.reset = .next State.reset) ∧
    (∀ n data, exec (.extend n data) State.reset = .next State.reset) ∧ (∀ addr data, exec (.controlCoreWrite addr data) State.reset = .next State.reset)

/-- A step runs what the bytes at the PC decode to, a chosen event, or the next that is due; ten words of the manual decode as written. The
order of events and which wave is tried next are the model's (log entry 1); the fields cur and reply are the model's own (log entry 15). -/
def Obligations.StepRunsTheInstruction : Prop :=
  (∀ (s : State) k rest, s.agenda = .issue k :: rest →
      let r : State := { s with agenda := rest }
      let s0 := if 2 ≤ (r.issuedNow k).length ∨ r.late k = true then r.advance 1 else r
      (s0.best (k / 48) ≠ some k → step s = .next s0) ∧
      ∀ w pc batch, s0.best (k / 48) = some k → s0.waves.find? k = some w → w.mayTry = true → w.batch = some (pc, batch) →
        (∀ s1 word i, s0.fetchWord (cidOf k) w.ctx pc.toNat (w.prio % 4) = (s1, .word word) → decode (bytesOf 4 word.toNat) = .ok (i, []) →
          let u : State := { s1 with cur := some ⟨k, batch, pc, 4, word, none⟩ }
          (s1.mayIssue k (issueClass word) = true → ∀ t, exec i u = .next t → step s = .next { t.charge i with cur := none }) ∧
          (s1.mayIssue k (issueClass word) = false →
            step s = .next ((u.waitsOn k i).getD (({ u with cur := none } : State).heldBack k)))) ∧
        (∀ s1 s2 word next v, s0.fetchWord (cidOf k) w.ctx pc.toNat (w.prio % 4) = (s1, .word word) →
          s1.fetchWord (cidOf k) w.ctx (pc + 4).toNat (w.prio % 4) = (s2, .word next) →
          decode (bytesOf 4 word.toNat ++ bytesOf 4 next.toNat) = .ok (.imx v next, []) → s2.mayIssue k (issueClass next) = true →
          ∀ t, exec (.imx v next) { s2 with cur := some ⟨k, batch, pc, 4, word, none⟩ } = .next t →
            step s = .next { t.charge (.imx v next) with cur := none })) ∧
    (∀ (t : State) iss i, t.cur = some iss →
      t.charge i = if t.waiting iss.wave = true then t else t.noteIssue iss.wave (turnClass i iss.word)) ∧
    (∀ (s : State) i rest t, s.agenda = .event i :: rest → isEvent i = true → exec i { s with agenda := rest, cur := none } = .next t →
      t.cur = none → step s = .next t) ∧
    (∀ (s : State) t, s.agenda = [] → firstChange s (dueEvents s) = some t → step s = .next t) ∧
    (∀ (s : State) k, s.agenda = [] → firstChange s (dueEvents s) = none → s.partitions.findSome? s.best = some k →
      (s.late k = true → step s = .next (s.passOver k)) ∧
      (s.late k = false → (s.issuedNow k).length < 2 → step s = step { s with agenda := [.issue k] })) ∧
    (∀ s : State, s.agenda = [] → firstChange s (dueEvents s) = none → s.partitions.findSome? s.best = none → step s = .next (s.advance 1)) ∧
    (∀ (s : State) n rest, s.agenda = .tick n :: rest → step s = .next (({ s with agenda := rest } : State).advance n)) ∧
    (∀ (s : State) rest, s.agenda = .provision :: rest →
      step s = .next { s with agenda := rest, zephyr := { s.zephyr with provisioned := true } }) ∧
    decode (bytesOf 4 0x02143070) = .ok (.iadd 5 6 7 0 0, []) ∧
    decode (bytesOf 4 0x10204FDB) = .ok (.imad 8 9 125 2 3, []) ∧
    decode (bytesOf 4 0x2C040090) = .ok (.laneid 1 0 0, []) ∧
    decode (bytesOf 4 0xF0102090) = .ok (.sadd 4 4 9, []) ∧
    decode (bytesOf 4 0x76202060) = .ok (.cfma 8 4 6 0, []) ∧
    decode (bytesOf 4 0xF2102860) = .ok (.sfadd 4 5 6, []) ∧
    decode (bytesOf 4 0xE2003000) = .ok (.brx 6 0, []) ∧
    decode (bytesOf 4 0xE40BFFFB) = .ok (.call 2 0x3FFFB, []) ∧
    decode (bytesOf 4 0xE827FFF4) = .ok (.fork 9 0x3FFF4, []) ∧
    decode (bytesOf 4 0xEE00F2F0) = .ok (.waitc 15 2 15 0, [])

/-- Decoding the bytes of any encoded instruction gives that instruction back, every field at every value, and leaves the bytes after it -/
def Obligations.EncodeDecode : Prop :=
  (∀ i : Instr, i.isWord = true → ∀ rest, decode (encodeBytes i ++ rest) = .ok (i, rest)) ∧
  (∀ i : Instr, i.wf = true → i.isWord = true → decodeTableWord (8 * (encodeBytes i).length) (ofBytes (encodeBytes i)) = some i)

/-- A word that decodes is the word of the instruction it decodes to: no two words mean the same, no reserved bit is passed over -/
def Obligations.WordsHaveOneMeaning : Prop :=
  ∀ (w : Word) (i : Instr), bitsAt 25 7 w ≠ 0x7F → decodeWord w 0 = some i → i.isWord = true ∧ encode i = [w]

/-- Every step keeps memory in its canonical form: addresses strictly rising, no entry equal to what an unlisted address reads as -/
def Obligations.MemoryStaysCanonical : Prop :=
  ∀ s t : State, s.memoryOk → step s = .next t → t.memoryOk
end

