-- ==== Sys2Proof/Laws/Map.lean ====
section
/-! SUPPORT. What the sparse map answers after each of its operations, and that canonical writes keep the canonical form. -/

namespace Sys2Proof

set_option Elab.async false

variable {α : Type}

@[simp] theorem SMap.find?_nil (j : Nat) : SMap.find? ([] : SMap α) j = none := rfl

theorem SMap.find?_cons (k : Nat) (v : α) (m : SMap α) (j : Nat) :
    SMap.find? ((k, v) :: m) j = if k = j then some v else SMap.find? m j := rfl

/-- Reading the key just written gives the value written. -/
@[simp] theorem SMap.find?_put_self (m : SMap α) (j : Nat) (v : α) : (m.put j v).find? j = some v := by
  induction m with
  | nil => simp [SMap.put, SMap.find?]
  | cons p m ih =>
    obtain ⟨k, u⟩ := p
    unfold SMap.put
    split
    · simp [SMap.find?]
    · split
      · simp [SMap.find?]
      · rename_i h1 h2
        rw [SMap.find?_cons, if_neg h2, ih]

/-- Writing one key leaves every other key alone. -/
theorem SMap.find?_put_ne (m : SMap α) {i j : Nat} (v : α) (h : i ≠ j) : (m.put j v).find? i = m.find? i := by
  induction m with
  | nil => simp [SMap.put, SMap.find?, Ne.symm h]
  | cons p m ih =>
    obtain ⟨k, u⟩ := p
    unfold SMap.put
    split
    · simp [SMap.find?_cons, Ne.symm h]
    · split
      · rename_i h2
        subst h2
        simp [SMap.find?_cons, Ne.symm h]
      · simp only [SMap.find?_cons, ih]

theorem SMap.find?_put (m : SMap α) (i j : Nat) (v : α) : (m.put j v).find? i = if i = j then some v else m.find? i := by
  split
  · rename_i h; subst h; exact SMap.find?_put_self m i v
  · rename_i h; exact SMap.find?_put_ne m v h

/-- Read after write, and a write leaves the rest alone. -/
theorem SMap.get_put (m : SMap α) (d : α) (i j : Nat) (v : α) : (m.put j v).get d i = if i = j then v else m.get d i := by
  unfold SMap.get
  rw [SMap.find?_put]
  split <;> rfl

/-- Dropping a key leaves every other key alone. -/
theorem SMap.find?_del (m : SMap α) (i j : Nat) : (m.del j).find? i = if i = j then none else m.find? i := by
  induction m with
  | nil => simp [SMap.del, SMap.find?]
  | cons p m ih =>
    obtain ⟨k, u⟩ := p
    by_cases hk : k = j
    · subst hk
      have : SMap.del ((k, u) :: m) k = SMap.del m k := by simp [SMap.del]
      rw [this, ih, SMap.find?_cons]
      split
      · rfl
      · rename_i h; rw [if_neg (Ne.symm h)]
    · have : SMap.del ((k, u) :: m) j = (k, u) :: SMap.del m j := by simp [SMap.del, hk]
      rw [this, SMap.find?_cons, SMap.find?_cons, ih]
      split
      · rename_i h; subst h; rw [if_neg hk]
      · rfl

/-- Changing the value at a key leaves every other key alone. -/
theorem SMap.find?_modify (m : SMap α) (i j : Nat) (f : α → α) :
    (m.modify j f).find? i = if i = j then (m.find? i).map f else m.find? i := by
  induction m with
  | nil => simp [SMap.modify, SMap.find?]
  | cons p m ih =>
    obtain ⟨k, u⟩ := p
    have : SMap.modify ((k, u) :: m) j f = (if k = j then (k, f u) else (k, u)) :: SMap.modify m j f := by
      simp [SMap.modify]
    rw [this]
    by_cases hk : k = j
    · rw [if_pos hk, SMap.find?_cons, SMap.find?_cons, ih]
      by_cases hi : i = j
      · rw [if_pos hi, if_pos (hk.trans hi.symm), if_pos (hk.trans hi.symm), if_pos hi]; rfl
      · have hki : k ≠ i := fun e => hi (e.symm.trans hk)
        rw [if_neg hki, if_neg hki, if_neg hi]
    · rw [if_neg hk, SMap.find?_cons, SMap.find?_cons, ih]
      by_cases hki : k = i
      · subst hki; rw [if_pos rfl, if_pos rfl, if_neg hk]
      · rw [if_neg hki, if_neg hki]

/-! ### The canonical form -/

/-- Every key is above a bound. -/
def SMap.above (b : Nat) (m : SMap α) : Prop := ∀ p ∈ m, b < p.1

/-- Keys strictly rising, said of the first key and the rest. -/
theorem SMap.rising_cons (k : Nat) (v : α) (m : SMap α) :
    SMap.rising ((k, v) :: m) = true ↔ SMap.above k m ∧ SMap.rising m = true := by
  induction m generalizing k v with
  | nil => simp [SMap.rising, SMap.above]
  | cons p m ih =>
    obtain ⟨j, u⟩ := p
    constructor
    · intro h
      simp only [SMap.rising, Bool.and_eq_true, decide_eq_true_eq] at h
      refine ⟨?_, h.2⟩
      intro q hq
      rcases List.mem_cons.1 hq with rfl | hq
      · exact h.1
      · exact Nat.lt_trans h.1 (((ih j u).1 h.2).1 q hq)
    · rintro ⟨h1, h2⟩
      simp only [SMap.rising, Bool.and_eq_true, decide_eq_true_eq]
      exact ⟨h1 (j, u) (List.mem_cons_self ..), h2⟩

/-- Rising keys, said of every pair in order. -/
theorem SMap.rising_iff (m : SMap α) : m.rising = true ↔ List.Pairwise (fun p q => p.1 < q.1) m := by
  induction m with
  | nil => simp [SMap.rising]
  | cons p m ih =>
    obtain ⟨k, v⟩ := p
    rw [SMap.rising_cons, List.pairwise_cons, ih]
    rfl

/-- Filtering keeps the keys rising. -/
theorem SMap.rising_filter (m : SMap α) (p : Nat × α → Bool) (h : m.rising = true) : SMap.rising (m.filter p) = true := by
  rw [SMap.rising_iff] at h ⊢
  exact h.filter p

/-- Changing values keeps the keys rising. -/
theorem SMap.rising_map (m : SMap α) (f : Nat × α → Nat × α) (hf : ∀ p, (f p).1 = p.1) (h : m.rising = true) :
    SMap.rising (m.map f) = true := by
  rw [SMap.rising_iff] at h ⊢
  rw [List.pairwise_map]
  exact h.imp (fun {a b} hab => by rw [hf, hf]; exact hab)

theorem SMap.above_put {b j : Nat} {v : α} {m : SMap α} (hj : b < j) (h : SMap.above b m) : SMap.above b (m.put j v) := by
  induction m with
  | nil => intro p hp; simp [SMap.put] at hp; subst hp; exact hj
  | cons p m ih =>
    obtain ⟨k, u⟩ := p
    have hm : SMap.above b m := fun q hq => h q (List.mem_cons_of_mem _ hq)
    unfold SMap.put
    split
    · intro q hq
      rcases List.mem_cons.1 hq with rfl | hq
      · exact hj
      · exact h q hq
    · split
      · intro q hq
        rcases List.mem_cons.1 hq with rfl | hq
        · exact hj
        · exact hm q hq
      · intro q hq
        rcases List.mem_cons.1 hq with rfl | hq
        · exact h _ (List.mem_cons_self ..)
        · exact ih hm q hq

/-- A write keeps the keys rising. -/
theorem SMap.rising_put (m : SMap α) (j : Nat) (v : α) (h : m.rising = true) : (m.put j v).rising = true := by
  induction m with
  | nil => rfl
  | cons p m ih =>
    obtain ⟨k, u⟩ := p
    have hr := (SMap.rising_cons k u m).1 h
    unfold SMap.put
    split
    · rename_i hlt
      rw [SMap.rising_cons]
      refine ⟨?_, h⟩
      intro q hq
      rcases List.mem_cons.1 hq with rfl | hq
      · exact hlt
      · exact Nat.lt_trans hlt (hr.1 q hq)
    · split
      · rename_i hkj
        subst hkj
        rw [SMap.rising_cons]
        exact hr
      · rename_i h1 h2
        rw [SMap.rising_cons]
        exact ⟨SMap.above_put (by omega) hr.1, ih hr.2⟩

theorem SMap.mem_put {m : SMap α} {j : Nat} {v : α} {p : Nat × α} (h : p ∈ m.put j v) : p = (j, v) ∨ p ∈ m := by
  induction m with
  | nil => simp [SMap.put] at h; exact .inl h
  | cons q m ih =>
    obtain ⟨k, u⟩ := q
    unfold SMap.put at h
    split at h
    · rcases List.mem_cons.1 h with rfl | h
      · exact .inl rfl
      · exact .inr h
    · split at h
      · rcases List.mem_cons.1 h with rfl | h
        · exact .inl rfl
        · exact .inr (List.mem_cons_of_mem _ h)
      · rcases List.mem_cons.1 h with rfl | h
        · exact .inr (List.mem_cons_self ..)
        · rcases ih h with h | h
          · exact .inl h
          · exact .inr (List.mem_cons_of_mem _ h)

variable [DecidableEq α]

theorem SMap.canonical_iff (m : SMap α) (d : α) : m.canonical d = true ↔ m.rising = true ∧ ∀ p ∈ m, p.2 ≠ d := by
  simp [SMap.canonical, List.all_eq_true]

/-- The canonical write keeps the canonical form. -/
theorem SMap.canonical_set (m : SMap α) (d : α) (j : Nat) (v : α) (h : m.canonical d = true) :
    (m.set d j v).canonical d = true := by
  rw [SMap.canonical_iff] at h ⊢
  unfold SMap.set
  split
  · exact ⟨SMap.rising_filter m _ h.1, fun p hp => h.2 p (List.mem_of_mem_filter hp)⟩
  · rename_i hv
    refine ⟨SMap.rising_put m j v h.1, fun p hp => ?_⟩
    rcases SMap.mem_put hp with rfl | hp
    · exact hv
    · exact h.2 p hp

/-- Dropping entries keeps the canonical form. -/
theorem SMap.canonical_filter (m : SMap α) (d : α) (p : Nat × α → Bool) (h : m.canonical d = true) :
    SMap.canonical (m.filter p) d = true := by
  rw [SMap.canonical_iff] at h ⊢
  exact ⟨SMap.rising_filter m p h.1, fun q hq => h.2 q (List.mem_of_mem_filter hq)⟩

/-- Reading after a canonical write. -/
theorem SMap.get_set (m : SMap α) (d : α) (i j : Nat) (v : α) : (m.set d j v).get d i = if i = j then v else m.get d i := by
  unfold SMap.set
  split
  · rename_i h
    subst h
    unfold SMap.get
    rw [SMap.find?_del]
    split <;> rfl
  · exact SMap.get_put m d i j v

end Sys2Proof
end

