-- ==== Sys2Proof/Laws/State.lean ====
section
/-! SUPPORT. What each update of the state leaves in each field, one lemma per field and update. -/

namespace Sys2Proof.Machine

variable (s : State)

@[simp] theorem State.setWave_waves (k : Nat) (w : Wave) : (s.setWave k w).waves = s.waves.put k w := rfl
@[simp] theorem State.setWave_away (k : Nat) (w : Wave) : (s.setWave k w).away = s.away := rfl
@[simp] theorem State.setWave_groups (k : Nat) (w : Wave) : (s.setWave k w).groups = s.groups := rfl
@[simp] theorem State.setWave_launches (k : Nat) (w : Wave) : (s.setWave k w).launches = s.launches := rfl
@[simp] theorem State.setWave_nextLid (k : Nat) (w : Wave) : (s.setWave k w).nextLid = s.nextLid := rfl
@[simp] theorem State.setWave_placements (k : Nat) (w : Wave) : (s.setWave k w).placements = s.placements := rfl
@[simp] theorem State.setWave_formed (k : Nat) (w : Wave) : (s.setWave k w).formed = s.formed := rfl
@[simp] theorem State.setWave_ctxs (k : Nat) (w : Wave) : (s.setWave k w).ctxs = s.ctxs := rfl
@[simp] theorem State.setWave_cores (k : Nat) (w : Wave) : (s.setWave k w).cores = s.cores := rfl
@[simp] theorem State.setWave_engines (k : Nat) (w : Wave) : (s.setWave k w).engines = s.engines := rfl
@[simp] theorem State.setWave_rays (k : Nat) (w : Wave) : (s.setWave k w).rays = s.rays := rfl
@[simp] theorem State.setWave_bins (k : Nat) (w : Wave) : (s.setWave k w).bins = s.bins := rfl
@[simp] theorem State.setWave_queues (k : Nat) (w : Wave) : (s.setWave k w).queues = s.queues := rfl
@[simp] theorem State.setWave_lastQueue (k : Nat) (w : Wave) : (s.setWave k w).lastQueue = s.lastQueue := rfl
@[simp] theorem State.setWave_mem (k : Nat) (w : Wave) : (s.setWave k w).mem = s.mem := rfl
@[simp] theorem State.setWave_poison (k : Nat) (w : Wave) : (s.setWave k w).poison = s.poison := rfl
@[simp] theorem State.setWave_spoiled (k : Nat) (w : Wave) : (s.setWave k w).spoiled = s.spoiled := rfl
@[simp] theorem State.setWave_chip (k : Nat) (w : Wave) : (s.setWave k w).chip = s.chip := rfl
@[simp] theorem State.setWave_grants (k : Nat) (w : Wave) : (s.setWave k w).grants = s.grants := rfl
@[simp] theorem State.setWave_tlb2 (k : Nat) (w : Wave) : (s.setWave k w).tlb2 = s.tlb2 := rfl
@[simp] theorem State.setWave_walks (k : Nat) (w : Wave) : (s.setWave k w).walks = s.walks := rfl
@[simp] theorem State.setWave_l2 (k : Nat) (w : Wave) : (s.setWave k w).l2 = s.l2 := rfl
@[simp] theorem State.setWave_treelets (k : Nat) (w : Wave) : (s.setWave k w).treelets = s.treelets := rfl
@[simp] theorem State.setWave_eddy (k : Nat) (w : Wave) : (s.setWave k w).eddy = s.eddy := rfl
@[simp] theorem State.setWave_marks (k : Nat) (w : Wave) : (s.setWave k w).marks = s.marks := rfl
@[simp] theorem State.setWave_slices (k : Nat) (w : Wave) : (s.setWave k w).slices = s.slices := rfl
@[simp] theorem State.setWave_tiles (k : Nat) (w : Wave) : (s.setWave k w).tiles = s.tiles := rfl
@[simp] theorem State.setWave_drains (k : Nat) (w : Wave) : (s.setWave k w).drains = s.drains := rfl
@[simp] theorem State.setWave_txns (k : Nat) (w : Wave) : (s.setWave k w).txns = s.txns := rfl
@[simp] theorem State.setWave_owing (k : Nat) (w : Wave) : (s.setWave k w).owing = s.owing := rfl
@[simp] theorem State.setWave_ports (k : Nat) (w : Wave) : (s.setWave k w).ports = s.ports := rfl
@[simp] theorem State.setWave_regs (k : Nat) (w : Wave) : (s.setWave k w).regs = s.regs := rfl
@[simp] theorem State.setWave_zephyr (k : Nat) (w : Wave) : (s.setWave k w).zephyr = s.zephyr := rfl
@[simp] theorem State.setWave_cycle (k : Nat) (w : Wave) : (s.setWave k w).cycle = s.cycle := rfl
@[simp] theorem State.setWave_cur (k : Nat) (w : Wave) : (s.setWave k w).cur = s.cur := rfl
@[simp] theorem State.setWave_agenda (k : Nat) (w : Wave) : (s.setWave k w).agenda = s.agenda := rfl
@[simp] theorem State.setWave_choices (k : Nat) (w : Wave) : (s.setWave k w).choices = s.choices := rfl
@[simp] theorem State.setWave_fresh (k : Nat) (w : Wave) : (s.setWave k w).fresh = s.fresh := rfl
@[simp] theorem State.setWave_reply (k : Nat) (w : Wave) : (s.setWave k w).reply = s.reply := rfl

@[simp] theorem State.modWave_waves (k : Nat) (f : Wave → Wave) : (s.modWave k f).waves = s.waves.modify k f := rfl
@[simp] theorem State.modWave_away (k : Nat) (f : Wave → Wave) : (s.modWave k f).away = s.away := rfl
@[simp] theorem State.modWave_groups (k : Nat) (f : Wave → Wave) : (s.modWave k f).groups = s.groups := rfl
@[simp] theorem State.modWave_launches (k : Nat) (f : Wave → Wave) : (s.modWave k f).launches = s.launches := rfl
@[simp] theorem State.modWave_nextLid (k : Nat) (f : Wave → Wave) : (s.modWave k f).nextLid = s.nextLid := rfl
@[simp] theorem State.modWave_placements (k : Nat) (f : Wave → Wave) : (s.modWave k f).placements = s.placements := rfl
@[simp] theorem State.modWave_formed (k : Nat) (f : Wave → Wave) : (s.modWave k f).formed = s.formed := rfl
@[simp] theorem State.modWave_ctxs (k : Nat) (f : Wave → Wave) : (s.modWave k f).ctxs = s.ctxs := rfl
@[simp] theorem State.modWave_cores (k : Nat) (f : Wave → Wave) : (s.modWave k f).cores = s.cores := rfl
@[simp] theorem State.modWave_engines (k : Nat) (f : Wave → Wave) : (s.modWave k f).engines = s.engines := rfl
@[simp] theorem State.modWave_rays (k : Nat) (f : Wave → Wave) : (s.modWave k f).rays = s.rays := rfl
@[simp] theorem State.modWave_bins (k : Nat) (f : Wave → Wave) : (s.modWave k f).bins = s.bins := rfl
@[simp] theorem State.modWave_queues (k : Nat) (f : Wave → Wave) : (s.modWave k f).queues = s.queues := rfl
@[simp] theorem State.modWave_lastQueue (k : Nat) (f : Wave → Wave) : (s.modWave k f).lastQueue = s.lastQueue := rfl
@[simp] theorem State.modWave_mem (k : Nat) (f : Wave → Wave) : (s.modWave k f).mem = s.mem := rfl
@[simp] theorem State.modWave_poison (k : Nat) (f : Wave → Wave) : (s.modWave k f).poison = s.poison := rfl
@[simp] theorem State.modWave_spoiled (k : Nat) (f : Wave → Wave) : (s.modWave k f).spoiled = s.spoiled := rfl
@[simp] theorem State.modWave_chip (k : Nat) (f : Wave → Wave) : (s.modWave k f).chip = s.chip := rfl
@[simp] theorem State.modWave_grants (k : Nat) (f : Wave → Wave) : (s.modWave k f).grants = s.grants := rfl
@[simp] theorem State.modWave_tlb2 (k : Nat) (f : Wave → Wave) : (s.modWave k f).tlb2 = s.tlb2 := rfl
@[simp] theorem State.modWave_walks (k : Nat) (f : Wave → Wave) : (s.modWave k f).walks = s.walks := rfl
@[simp] theorem State.modWave_l2 (k : Nat) (f : Wave → Wave) : (s.modWave k f).l2 = s.l2 := rfl
@[simp] theorem State.modWave_treelets (k : Nat) (f : Wave → Wave) : (s.modWave k f).treelets = s.treelets := rfl
@[simp] theorem State.modWave_eddy (k : Nat) (f : Wave → Wave) : (s.modWave k f).eddy = s.eddy := rfl
@[simp] theorem State.modWave_marks (k : Nat) (f : Wave → Wave) : (s.modWave k f).marks = s.marks := rfl
@[simp] theorem State.modWave_slices (k : Nat) (f : Wave → Wave) : (s.modWave k f).slices = s.slices := rfl
@[simp] theorem State.modWave_tiles (k : Nat) (f : Wave → Wave) : (s.modWave k f).tiles = s.tiles := rfl
@[simp] theorem State.modWave_drains (k : Nat) (f : Wave → Wave) : (s.modWave k f).drains = s.drains := rfl
@[simp] theorem State.modWave_txns (k : Nat) (f : Wave → Wave) : (s.modWave k f).txns = s.txns := rfl
@[simp] theorem State.modWave_owing (k : Nat) (f : Wave → Wave) : (s.modWave k f).owing = s.owing := rfl
@[simp] theorem State.modWave_ports (k : Nat) (f : Wave → Wave) : (s.modWave k f).ports = s.ports := rfl
@[simp] theorem State.modWave_regs (k : Nat) (f : Wave → Wave) : (s.modWave k f).regs = s.regs := rfl
@[simp] theorem State.modWave_zephyr (k : Nat) (f : Wave → Wave) : (s.modWave k f).zephyr = s.zephyr := rfl
@[simp] theorem State.modWave_cycle (k : Nat) (f : Wave → Wave) : (s.modWave k f).cycle = s.cycle := rfl
@[simp] theorem State.modWave_cur (k : Nat) (f : Wave → Wave) : (s.modWave k f).cur = s.cur := rfl
@[simp] theorem State.modWave_agenda (k : Nat) (f : Wave → Wave) : (s.modWave k f).agenda = s.agenda := rfl
@[simp] theorem State.modWave_choices (k : Nat) (f : Wave → Wave) : (s.modWave k f).choices = s.choices := rfl
@[simp] theorem State.modWave_fresh (k : Nat) (f : Wave → Wave) : (s.modWave k f).fresh = s.fresh := rfl
@[simp] theorem State.modWave_reply (k : Nat) (f : Wave → Wave) : (s.modWave k f).reply = s.reply := rfl

@[simp] theorem State.setCtx_waves (c : Nat) (x : Ctx) : (s.setCtx c x).waves = s.waves := rfl
@[simp] theorem State.setCtx_away (c : Nat) (x : Ctx) : (s.setCtx c x).away = s.away := rfl
@[simp] theorem State.setCtx_groups (c : Nat) (x : Ctx) : (s.setCtx c x).groups = s.groups := rfl
@[simp] theorem State.setCtx_launches (c : Nat) (x : Ctx) : (s.setCtx c x).launches = s.launches := rfl
@[simp] theorem State.setCtx_nextLid (c : Nat) (x : Ctx) : (s.setCtx c x).nextLid = s.nextLid := rfl
@[simp] theorem State.setCtx_placements (c : Nat) (x : Ctx) : (s.setCtx c x).placements = s.placements := rfl
@[simp] theorem State.setCtx_formed (c : Nat) (x : Ctx) : (s.setCtx c x).formed = s.formed := rfl
@[simp] theorem State.setCtx_ctxs (c : Nat) (x : Ctx) : (s.setCtx c x).ctxs = s.ctxs.put c x := rfl
@[simp] theorem State.setCtx_cores (c : Nat) (x : Ctx) : (s.setCtx c x).cores = s.cores := rfl
@[simp] theorem State.setCtx_engines (c : Nat) (x : Ctx) : (s.setCtx c x).engines = s.engines := rfl
@[simp] theorem State.setCtx_rays (c : Nat) (x : Ctx) : (s.setCtx c x).rays = s.rays := rfl
@[simp] theorem State.setCtx_bins (c : Nat) (x : Ctx) : (s.setCtx c x).bins = s.bins := rfl
@[simp] theorem State.setCtx_queues (c : Nat) (x : Ctx) : (s.setCtx c x).queues = s.queues := rfl
@[simp] theorem State.setCtx_lastQueue (c : Nat) (x : Ctx) : (s.setCtx c x).lastQueue = s.lastQueue := rfl
@[simp] theorem State.setCtx_mem (c : Nat) (x : Ctx) : (s.setCtx c x).mem = s.mem := rfl
@[simp] theorem State.setCtx_poison (c : Nat) (x : Ctx) : (s.setCtx c x).poison = s.poison := rfl
@[simp] theorem State.setCtx_spoiled (c : Nat) (x : Ctx) : (s.setCtx c x).spoiled = s.spoiled := rfl
@[simp] theorem State.setCtx_chip (c : Nat) (x : Ctx) : (s.setCtx c x).chip = s.chip := rfl
@[simp] theorem State.setCtx_grants (c : Nat) (x : Ctx) : (s.setCtx c x).grants = s.grants := rfl
@[simp] theorem State.setCtx_tlb2 (c : Nat) (x : Ctx) : (s.setCtx c x).tlb2 = s.tlb2 := rfl
@[simp] theorem State.setCtx_walks (c : Nat) (x : Ctx) : (s.setCtx c x).walks = s.walks := rfl
@[simp] theorem State.setCtx_l2 (c : Nat) (x : Ctx) : (s.setCtx c x).l2 = s.l2 := rfl
@[simp] theorem State.setCtx_treelets (c : Nat) (x : Ctx) : (s.setCtx c x).treelets = s.treelets := rfl
@[simp] theorem State.setCtx_eddy (c : Nat) (x : Ctx) : (s.setCtx c x).eddy = s.eddy := rfl
@[simp] theorem State.setCtx_marks (c : Nat) (x : Ctx) : (s.setCtx c x).marks = s.marks := rfl
@[simp] theorem State.setCtx_slices (c : Nat) (x : Ctx) : (s.setCtx c x).slices = s.slices := rfl
@[simp] theorem State.setCtx_tiles (c : Nat) (x : Ctx) : (s.setCtx c x).tiles = s.tiles := rfl
@[simp] theorem State.setCtx_drains (c : Nat) (x : Ctx) : (s.setCtx c x).drains = s.drains := rfl
@[simp] theorem State.setCtx_txns (c : Nat) (x : Ctx) : (s.setCtx c x).txns = s.txns := rfl
@[simp] theorem State.setCtx_owing (c : Nat) (x : Ctx) : (s.setCtx c x).owing = s.owing := rfl
@[simp] theorem State.setCtx_ports (c : Nat) (x : Ctx) : (s.setCtx c x).ports = s.ports := rfl
@[simp] theorem State.setCtx_regs (c : Nat) (x : Ctx) : (s.setCtx c x).regs = s.regs := rfl
@[simp] theorem State.setCtx_zephyr (c : Nat) (x : Ctx) : (s.setCtx c x).zephyr = s.zephyr := rfl
@[simp] theorem State.setCtx_cycle (c : Nat) (x : Ctx) : (s.setCtx c x).cycle = s.cycle := rfl
@[simp] theorem State.setCtx_cur (c : Nat) (x : Ctx) : (s.setCtx c x).cur = s.cur := rfl
@[simp] theorem State.setCtx_agenda (c : Nat) (x : Ctx) : (s.setCtx c x).agenda = s.agenda := rfl
@[simp] theorem State.setCtx_choices (c : Nat) (x : Ctx) : (s.setCtx c x).choices = s.choices := rfl
@[simp] theorem State.setCtx_fresh (c : Nat) (x : Ctx) : (s.setCtx c x).fresh = s.fresh := rfl
@[simp] theorem State.setCtx_reply (c : Nat) (x : Ctx) : (s.setCtx c x).reply = s.reply := rfl

@[simp] theorem State.modCtx_waves (c : Nat) (f : Ctx → Ctx) : (s.modCtx c f).waves = s.waves := rfl
@[simp] theorem State.modCtx_away (c : Nat) (f : Ctx → Ctx) : (s.modCtx c f).away = s.away := rfl
@[simp] theorem State.modCtx_groups (c : Nat) (f : Ctx → Ctx) : (s.modCtx c f).groups = s.groups := rfl
@[simp] theorem State.modCtx_launches (c : Nat) (f : Ctx → Ctx) : (s.modCtx c f).launches = s.launches := rfl
@[simp] theorem State.modCtx_nextLid (c : Nat) (f : Ctx → Ctx) : (s.modCtx c f).nextLid = s.nextLid := rfl
@[simp] theorem State.modCtx_placements (c : Nat) (f : Ctx → Ctx) : (s.modCtx c f).placements = s.placements := rfl
@[simp] theorem State.modCtx_formed (c : Nat) (f : Ctx → Ctx) : (s.modCtx c f).formed = s.formed := rfl
@[simp] theorem State.modCtx_ctxs (c : Nat) (f : Ctx → Ctx) : (s.modCtx c f).ctxs = s.ctxs.modify c f := rfl
@[simp] theorem State.modCtx_cores (c : Nat) (f : Ctx → Ctx) : (s.modCtx c f).cores = s.cores := rfl
@[simp] theorem State.modCtx_engines (c : Nat) (f : Ctx → Ctx) : (s.modCtx c f).engines = s.engines := rfl
@[simp] theorem State.modCtx_rays (c : Nat) (f : Ctx → Ctx) : (s.modCtx c f).rays = s.rays := rfl
@[simp] theorem State.modCtx_bins (c : Nat) (f : Ctx → Ctx) : (s.modCtx c f).bins = s.bins := rfl
@[simp] theorem State.modCtx_queues (c : Nat) (f : Ctx → Ctx) : (s.modCtx c f).queues = s.queues := rfl
@[simp] theorem State.modCtx_lastQueue (c : Nat) (f : Ctx → Ctx) : (s.modCtx c f).lastQueue = s.lastQueue := rfl
@[simp] theorem State.modCtx_mem (c : Nat) (f : Ctx → Ctx) : (s.modCtx c f).mem = s.mem := rfl
@[simp] theorem State.modCtx_poison (c : Nat) (f : Ctx → Ctx) : (s.modCtx c f).poison = s.poison := rfl
@[simp] theorem State.modCtx_spoiled (c : Nat) (f : Ctx → Ctx) : (s.modCtx c f).spoiled = s.spoiled := rfl
@[simp] theorem State.modCtx_chip (c : Nat) (f : Ctx → Ctx) : (s.modCtx c f).chip = s.chip := rfl
@[simp] theorem State.modCtx_grants (c : Nat) (f : Ctx → Ctx) : (s.modCtx c f).grants = s.grants := rfl
@[simp] theorem State.modCtx_tlb2 (c : Nat) (f : Ctx → Ctx) : (s.modCtx c f).tlb2 = s.tlb2 := rfl
@[simp] theorem State.modCtx_walks (c : Nat) (f : Ctx → Ctx) : (s.modCtx c f).walks = s.walks := rfl
@[simp] theorem State.modCtx_l2 (c : Nat) (f : Ctx → Ctx) : (s.modCtx c f).l2 = s.l2 := rfl
@[simp] theorem State.modCtx_treelets (c : Nat) (f : Ctx → Ctx) : (s.modCtx c f).treelets = s.treelets := rfl
@[simp] theorem State.modCtx_eddy (c : Nat) (f : Ctx → Ctx) : (s.modCtx c f).eddy = s.eddy := rfl
@[simp] theorem State.modCtx_marks (c : Nat) (f : Ctx → Ctx) : (s.modCtx c f).marks = s.marks := rfl
@[simp] theorem State.modCtx_slices (c : Nat) (f : Ctx → Ctx) : (s.modCtx c f).slices = s.slices := rfl
@[simp] theorem State.modCtx_tiles (c : Nat) (f : Ctx → Ctx) : (s.modCtx c f).tiles = s.tiles := rfl
@[simp] theorem State.modCtx_drains (c : Nat) (f : Ctx → Ctx) : (s.modCtx c f).drains = s.drains := rfl
@[simp] theorem State.modCtx_txns (c : Nat) (f : Ctx → Ctx) : (s.modCtx c f).txns = s.txns := rfl
@[simp] theorem State.modCtx_owing (c : Nat) (f : Ctx → Ctx) : (s.modCtx c f).owing = s.owing := rfl
@[simp] theorem State.modCtx_ports (c : Nat) (f : Ctx → Ctx) : (s.modCtx c f).ports = s.ports := rfl
@[simp] theorem State.modCtx_regs (c : Nat) (f : Ctx → Ctx) : (s.modCtx c f).regs = s.regs := rfl
@[simp] theorem State.modCtx_zephyr (c : Nat) (f : Ctx → Ctx) : (s.modCtx c f).zephyr = s.zephyr := rfl
@[simp] theorem State.modCtx_cycle (c : Nat) (f : Ctx → Ctx) : (s.modCtx c f).cycle = s.cycle := rfl
@[simp] theorem State.modCtx_cur (c : Nat) (f : Ctx → Ctx) : (s.modCtx c f).cur = s.cur := rfl
@[simp] theorem State.modCtx_agenda (c : Nat) (f : Ctx → Ctx) : (s.modCtx c f).agenda = s.agenda := rfl
@[simp] theorem State.modCtx_choices (c : Nat) (f : Ctx → Ctx) : (s.modCtx c f).choices = s.choices := rfl
@[simp] theorem State.modCtx_fresh (c : Nat) (f : Ctx → Ctx) : (s.modCtx c f).fresh = s.fresh := rfl
@[simp] theorem State.modCtx_reply (c : Nat) (f : Ctx → Ctx) : (s.modCtx c f).reply = s.reply := rfl

@[simp] theorem State.setCore_waves (c : Nat) (x : Core) : (s.setCore c x).waves = s.waves := rfl
@[simp] theorem State.setCore_away (c : Nat) (x : Core) : (s.setCore c x).away = s.away := rfl
@[simp] theorem State.setCore_groups (c : Nat) (x : Core) : (s.setCore c x).groups = s.groups := rfl
@[simp] theorem State.setCore_launches (c : Nat) (x : Core) : (s.setCore c x).launches = s.launches := rfl
@[simp] theorem State.setCore_nextLid (c : Nat) (x : Core) : (s.setCore c x).nextLid = s.nextLid := rfl
@[simp] theorem State.setCore_placements (c : Nat) (x : Core) : (s.setCore c x).placements = s.placements := rfl
@[simp] theorem State.setCore_formed (c : Nat) (x : Core) : (s.setCore c x).formed = s.formed := rfl
@[simp] theorem State.setCore_ctxs (c : Nat) (x : Core) : (s.setCore c x).ctxs = s.ctxs := rfl
@[simp] theorem State.setCore_cores (c : Nat) (x : Core) : (s.setCore c x).cores = s.cores.put c x := rfl
@[simp] theorem State.setCore_engines (c : Nat) (x : Core) : (s.setCore c x).engines = s.engines := rfl
@[simp] theorem State.setCore_rays (c : Nat) (x : Core) : (s.setCore c x).rays = s.rays := rfl
@[simp] theorem State.setCore_bins (c : Nat) (x : Core) : (s.setCore c x).bins = s.bins := rfl
@[simp] theorem State.setCore_queues (c : Nat) (x : Core) : (s.setCore c x).queues = s.queues := rfl
@[simp] theorem State.setCore_lastQueue (c : Nat) (x : Core) : (s.setCore c x).lastQueue = s.lastQueue := rfl
@[simp] theorem State.setCore_mem (c : Nat) (x : Core) : (s.setCore c x).mem = s.mem := rfl
@[simp] theorem State.setCore_poison (c : Nat) (x : Core) : (s.setCore c x).poison = s.poison := rfl
@[simp] theorem State.setCore_spoiled (c : Nat) (x : Core) : (s.setCore c x).spoiled = s.spoiled := rfl
@[simp] theorem State.setCore_chip (c : Nat) (x : Core) : (s.setCore c x).chip = s.chip := rfl
@[simp] theorem State.setCore_grants (c : Nat) (x : Core) : (s.setCore c x).grants = s.grants := rfl
@[simp] theorem State.setCore_tlb2 (c : Nat) (x : Core) : (s.setCore c x).tlb2 = s.tlb2 := rfl
@[simp] theorem State.setCore_walks (c : Nat) (x : Core) : (s.setCore c x).walks = s.walks := rfl
@[simp] theorem State.setCore_l2 (c : Nat) (x : Core) : (s.setCore c x).l2 = s.l2 := rfl
@[simp] theorem State.setCore_treelets (c : Nat) (x : Core) : (s.setCore c x).treelets = s.treelets := rfl
@[simp] theorem State.setCore_eddy (c : Nat) (x : Core) : (s.setCore c x).eddy = s.eddy := rfl
@[simp] theorem State.setCore_marks (c : Nat) (x : Core) : (s.setCore c x).marks = s.marks := rfl
@[simp] theorem State.setCore_slices (c : Nat) (x : Core) : (s.setCore c x).slices = s.slices := rfl
@[simp] theorem State.setCore_tiles (c : Nat) (x : Core) : (s.setCore c x).tiles = s.tiles := rfl
@[simp] theorem State.setCore_drains (c : Nat) (x : Core) : (s.setCore c x).drains = s.drains := rfl
@[simp] theorem State.setCore_txns (c : Nat) (x : Core) : (s.setCore c x).txns = s.txns := rfl
@[simp] theorem State.setCore_owing (c : Nat) (x : Core) : (s.setCore c x).owing = s.owing := rfl
@[simp] theorem State.setCore_ports (c : Nat) (x : Core) : (s.setCore c x).ports = s.ports := rfl
@[simp] theorem State.setCore_regs (c : Nat) (x : Core) : (s.setCore c x).regs = s.regs := rfl
@[simp] theorem State.setCore_zephyr (c : Nat) (x : Core) : (s.setCore c x).zephyr = s.zephyr := rfl
@[simp] theorem State.setCore_cycle (c : Nat) (x : Core) : (s.setCore c x).cycle = s.cycle := rfl
@[simp] theorem State.setCore_cur (c : Nat) (x : Core) : (s.setCore c x).cur = s.cur := rfl
@[simp] theorem State.setCore_agenda (c : Nat) (x : Core) : (s.setCore c x).agenda = s.agenda := rfl
@[simp] theorem State.setCore_choices (c : Nat) (x : Core) : (s.setCore c x).choices = s.choices := rfl
@[simp] theorem State.setCore_fresh (c : Nat) (x : Core) : (s.setCore c x).fresh = s.fresh := rfl
@[simp] theorem State.setCore_reply (c : Nat) (x : Core) : (s.setCore c x).reply = s.reply := rfl

@[simp] theorem State.setPort_waves (n : Nat) (p : Port) : (s.setPort n p).waves = s.waves := rfl
@[simp] theorem State.setPort_away (n : Nat) (p : Port) : (s.setPort n p).away = s.away := rfl
@[simp] theorem State.setPort_groups (n : Nat) (p : Port) : (s.setPort n p).groups = s.groups := rfl
@[simp] theorem State.setPort_launches (n : Nat) (p : Port) : (s.setPort n p).launches = s.launches := rfl
@[simp] theorem State.setPort_nextLid (n : Nat) (p : Port) : (s.setPort n p).nextLid = s.nextLid := rfl
@[simp] theorem State.setPort_placements (n : Nat) (p : Port) : (s.setPort n p).placements = s.placements := rfl
@[simp] theorem State.setPort_formed (n : Nat) (p : Port) : (s.setPort n p).formed = s.formed := rfl
@[simp] theorem State.setPort_ctxs (n : Nat) (p : Port) : (s.setPort n p).ctxs = s.ctxs := rfl
@[simp] theorem State.setPort_cores (n : Nat) (p : Port) : (s.setPort n p).cores = s.cores := rfl
@[simp] theorem State.setPort_engines (n : Nat) (p : Port) : (s.setPort n p).engines = s.engines := rfl
@[simp] theorem State.setPort_rays (n : Nat) (p : Port) : (s.setPort n p).rays = s.rays := rfl
@[simp] theorem State.setPort_bins (n : Nat) (p : Port) : (s.setPort n p).bins = s.bins := rfl
@[simp] theorem State.setPort_queues (n : Nat) (p : Port) : (s.setPort n p).queues = s.queues := rfl
@[simp] theorem State.setPort_lastQueue (n : Nat) (p : Port) : (s.setPort n p).lastQueue = s.lastQueue := rfl
@[simp] theorem State.setPort_mem (n : Nat) (p : Port) : (s.setPort n p).mem = s.mem := rfl
@[simp] theorem State.setPort_poison (n : Nat) (p : Port) : (s.setPort n p).poison = s.poison := rfl
@[simp] theorem State.setPort_spoiled (n : Nat) (p : Port) : (s.setPort n p).spoiled = s.spoiled := rfl
@[simp] theorem State.setPort_chip (n : Nat) (p : Port) : (s.setPort n p).chip = s.chip := rfl
@[simp] theorem State.setPort_grants (n : Nat) (p : Port) : (s.setPort n p).grants = s.grants := rfl
@[simp] theorem State.setPort_tlb2 (n : Nat) (p : Port) : (s.setPort n p).tlb2 = s.tlb2 := rfl
@[simp] theorem State.setPort_walks (n : Nat) (p : Port) : (s.setPort n p).walks = s.walks := rfl
@[simp] theorem State.setPort_l2 (n : Nat) (p : Port) : (s.setPort n p).l2 = s.l2 := rfl
@[simp] theorem State.setPort_treelets (n : Nat) (p : Port) : (s.setPort n p).treelets = s.treelets := rfl
@[simp] theorem State.setPort_eddy (n : Nat) (p : Port) : (s.setPort n p).eddy = s.eddy := rfl
@[simp] theorem State.setPort_marks (n : Nat) (p : Port) : (s.setPort n p).marks = s.marks := rfl
@[simp] theorem State.setPort_slices (n : Nat) (p : Port) : (s.setPort n p).slices = s.slices := rfl
@[simp] theorem State.setPort_tiles (n : Nat) (p : Port) : (s.setPort n p).tiles = s.tiles := rfl
@[simp] theorem State.setPort_drains (n : Nat) (p : Port) : (s.setPort n p).drains = s.drains := rfl
@[simp] theorem State.setPort_txns (n : Nat) (p : Port) : (s.setPort n p).txns = s.txns := rfl
@[simp] theorem State.setPort_owing (n : Nat) (p : Port) : (s.setPort n p).owing = s.owing := rfl
@[simp] theorem State.setPort_ports (n : Nat) (p : Port) : (s.setPort n p).ports = s.ports.put n p := rfl
@[simp] theorem State.setPort_regs (n : Nat) (p : Port) : (s.setPort n p).regs = s.regs := rfl
@[simp] theorem State.setPort_zephyr (n : Nat) (p : Port) : (s.setPort n p).zephyr = s.zephyr := rfl
@[simp] theorem State.setPort_cycle (n : Nat) (p : Port) : (s.setPort n p).cycle = s.cycle := rfl
@[simp] theorem State.setPort_cur (n : Nat) (p : Port) : (s.setPort n p).cur = s.cur := rfl
@[simp] theorem State.setPort_agenda (n : Nat) (p : Port) : (s.setPort n p).agenda = s.agenda := rfl
@[simp] theorem State.setPort_choices (n : Nat) (p : Port) : (s.setPort n p).choices = s.choices := rfl
@[simp] theorem State.setPort_fresh (n : Nat) (p : Port) : (s.setPort n p).fresh = s.fresh := rfl
@[simp] theorem State.setPort_reply (n : Nat) (p : Port) : (s.setPort n p).reply = s.reply := rfl

@[simp] theorem State.setSlice_waves (n : Nat) (x : Slice) : (s.setSlice n x).waves = s.waves := rfl
@[simp] theorem State.setSlice_away (n : Nat) (x : Slice) : (s.setSlice n x).away = s.away := rfl
@[simp] theorem State.setSlice_groups (n : Nat) (x : Slice) : (s.setSlice n x).groups = s.groups := rfl
@[simp] theorem State.setSlice_launches (n : Nat) (x : Slice) : (s.setSlice n x).launches = s.launches := rfl
@[simp] theorem State.setSlice_nextLid (n : Nat) (x : Slice) : (s.setSlice n x).nextLid = s.nextLid := rfl
@[simp] theorem State.setSlice_placements (n : Nat) (x : Slice) : (s.setSlice n x).placements = s.placements := rfl
@[simp] theorem State.setSlice_formed (n : Nat) (x : Slice) : (s.setSlice n x).formed = s.formed := rfl
@[simp] theorem State.setSlice_ctxs (n : Nat) (x : Slice) : (s.setSlice n x).ctxs = s.ctxs := rfl
@[simp] theorem State.setSlice_cores (n : Nat) (x : Slice) : (s.setSlice n x).cores = s.cores := rfl
@[simp] theorem State.setSlice_engines (n : Nat) (x : Slice) : (s.setSlice n x).engines = s.engines := rfl
@[simp] theorem State.setSlice_rays (n : Nat) (x : Slice) : (s.setSlice n x).rays = s.rays := rfl
@[simp] theorem State.setSlice_bins (n : Nat) (x : Slice) : (s.setSlice n x).bins = s.bins := rfl
@[simp] theorem State.setSlice_queues (n : Nat) (x : Slice) : (s.setSlice n x).queues = s.queues := rfl
@[simp] theorem State.setSlice_lastQueue (n : Nat) (x : Slice) : (s.setSlice n x).lastQueue = s.lastQueue := rfl
@[simp] theorem State.setSlice_mem (n : Nat) (x : Slice) : (s.setSlice n x).mem = s.mem := rfl
@[simp] theorem State.setSlice_poison (n : Nat) (x : Slice) : (s.setSlice n x).poison = s.poison := rfl
@[simp] theorem State.setSlice_spoiled (n : Nat) (x : Slice) : (s.setSlice n x).spoiled = s.spoiled := rfl
@[simp] theorem State.setSlice_chip (n : Nat) (x : Slice) : (s.setSlice n x).chip = s.chip := rfl
@[simp] theorem State.setSlice_grants (n : Nat) (x : Slice) : (s.setSlice n x).grants = s.grants := rfl
@[simp] theorem State.setSlice_tlb2 (n : Nat) (x : Slice) : (s.setSlice n x).tlb2 = s.tlb2 := rfl
@[simp] theorem State.setSlice_walks (n : Nat) (x : Slice) : (s.setSlice n x).walks = s.walks := rfl
@[simp] theorem State.setSlice_l2 (n : Nat) (x : Slice) : (s.setSlice n x).l2 = s.l2 := rfl
@[simp] theorem State.setSlice_treelets (n : Nat) (x : Slice) : (s.setSlice n x).treelets = s.treelets := rfl
@[simp] theorem State.setSlice_eddy (n : Nat) (x : Slice) : (s.setSlice n x).eddy = s.eddy := rfl
@[simp] theorem State.setSlice_marks (n : Nat) (x : Slice) : (s.setSlice n x).marks = s.marks := rfl
@[simp] theorem State.setSlice_slices (n : Nat) (x : Slice) : (s.setSlice n x).slices = s.slices.put n x := rfl
@[simp] theorem State.setSlice_tiles (n : Nat) (x : Slice) : (s.setSlice n x).tiles = s.tiles := rfl
@[simp] theorem State.setSlice_drains (n : Nat) (x : Slice) : (s.setSlice n x).drains = s.drains := rfl
@[simp] theorem State.setSlice_txns (n : Nat) (x : Slice) : (s.setSlice n x).txns = s.txns := rfl
@[simp] theorem State.setSlice_owing (n : Nat) (x : Slice) : (s.setSlice n x).owing = s.owing := rfl
@[simp] theorem State.setSlice_ports (n : Nat) (x : Slice) : (s.setSlice n x).ports = s.ports := rfl
@[simp] theorem State.setSlice_regs (n : Nat) (x : Slice) : (s.setSlice n x).regs = s.regs := rfl
@[simp] theorem State.setSlice_zephyr (n : Nat) (x : Slice) : (s.setSlice n x).zephyr = s.zephyr := rfl
@[simp] theorem State.setSlice_cycle (n : Nat) (x : Slice) : (s.setSlice n x).cycle = s.cycle := rfl
@[simp] theorem State.setSlice_cur (n : Nat) (x : Slice) : (s.setSlice n x).cur = s.cur := rfl
@[simp] theorem State.setSlice_agenda (n : Nat) (x : Slice) : (s.setSlice n x).agenda = s.agenda := rfl
@[simp] theorem State.setSlice_choices (n : Nat) (x : Slice) : (s.setSlice n x).choices = s.choices := rfl
@[simp] theorem State.setSlice_fresh (n : Nat) (x : Slice) : (s.setSlice n x).fresh = s.fresh := rfl
@[simp] theorem State.setSlice_reply (n : Nat) (x : Slice) : (s.setSlice n x).reply = s.reply := rfl

@[simp] theorem State.setMem_waves (m : List Host.Cell) : (s.setMem m).waves = s.waves := rfl
@[simp] theorem State.setMem_away (m : List Host.Cell) : (s.setMem m).away = s.away := rfl
@[simp] theorem State.setMem_groups (m : List Host.Cell) : (s.setMem m).groups = s.groups := rfl
@[simp] theorem State.setMem_launches (m : List Host.Cell) : (s.setMem m).launches = s.launches := rfl
@[simp] theorem State.setMem_nextLid (m : List Host.Cell) : (s.setMem m).nextLid = s.nextLid := rfl
@[simp] theorem State.setMem_placements (m : List Host.Cell) : (s.setMem m).placements = s.placements := rfl
@[simp] theorem State.setMem_formed (m : List Host.Cell) : (s.setMem m).formed = s.formed := rfl
@[simp] theorem State.setMem_ctxs (m : List Host.Cell) : (s.setMem m).ctxs = s.ctxs := rfl
@[simp] theorem State.setMem_cores (m : List Host.Cell) : (s.setMem m).cores = s.cores := rfl
@[simp] theorem State.setMem_engines (m : List Host.Cell) : (s.setMem m).engines = s.engines := rfl
@[simp] theorem State.setMem_rays (m : List Host.Cell) : (s.setMem m).rays = s.rays := rfl
@[simp] theorem State.setMem_bins (m : List Host.Cell) : (s.setMem m).bins = s.bins := rfl
@[simp] theorem State.setMem_queues (m : List Host.Cell) : (s.setMem m).queues = s.queues := rfl
@[simp] theorem State.setMem_lastQueue (m : List Host.Cell) : (s.setMem m).lastQueue = s.lastQueue := rfl
@[simp] theorem State.setMem_mem (m : List Host.Cell) : (s.setMem m).mem = m := rfl
@[simp] theorem State.setMem_poison (m : List Host.Cell) : (s.setMem m).poison = s.poison := rfl
@[simp] theorem State.setMem_spoiled (m : List Host.Cell) : (s.setMem m).spoiled = s.spoiled := rfl
@[simp] theorem State.setMem_chip (m : List Host.Cell) : (s.setMem m).chip = s.chip := rfl
@[simp] theorem State.setMem_grants (m : List Host.Cell) : (s.setMem m).grants = s.grants := rfl
@[simp] theorem State.setMem_tlb2 (m : List Host.Cell) : (s.setMem m).tlb2 = s.tlb2 := rfl
@[simp] theorem State.setMem_walks (m : List Host.Cell) : (s.setMem m).walks = s.walks := rfl
@[simp] theorem State.setMem_l2 (m : List Host.Cell) : (s.setMem m).l2 = s.l2 := rfl
@[simp] theorem State.setMem_treelets (m : List Host.Cell) : (s.setMem m).treelets = s.treelets := rfl
@[simp] theorem State.setMem_eddy (m : List Host.Cell) : (s.setMem m).eddy = s.eddy := rfl
@[simp] theorem State.setMem_marks (m : List Host.Cell) : (s.setMem m).marks = s.marks := rfl
@[simp] theorem State.setMem_slices (m : List Host.Cell) : (s.setMem m).slices = s.slices := rfl
@[simp] theorem State.setMem_tiles (m : List Host.Cell) : (s.setMem m).tiles = s.tiles := rfl
@[simp] theorem State.setMem_drains (m : List Host.Cell) : (s.setMem m).drains = s.drains := rfl
@[simp] theorem State.setMem_txns (m : List Host.Cell) : (s.setMem m).txns = s.txns := rfl
@[simp] theorem State.setMem_owing (m : List Host.Cell) : (s.setMem m).owing = s.owing := rfl
@[simp] theorem State.setMem_ports (m : List Host.Cell) : (s.setMem m).ports = s.ports := rfl
@[simp] theorem State.setMem_regs (m : List Host.Cell) : (s.setMem m).regs = s.regs := rfl
@[simp] theorem State.setMem_zephyr (m : List Host.Cell) : (s.setMem m).zephyr = s.zephyr := rfl
@[simp] theorem State.setMem_cycle (m : List Host.Cell) : (s.setMem m).cycle = s.cycle := rfl
@[simp] theorem State.setMem_cur (m : List Host.Cell) : (s.setMem m).cur = s.cur := rfl
@[simp] theorem State.setMem_agenda (m : List Host.Cell) : (s.setMem m).agenda = s.agenda := rfl
@[simp] theorem State.setMem_choices (m : List Host.Cell) : (s.setMem m).choices = s.choices := rfl
@[simp] theorem State.setMem_fresh (m : List Host.Cell) : (s.setMem m).fresh = s.fresh := rfl
@[simp] theorem State.setMem_reply (m : List Host.Cell) : (s.setMem m).reply = s.reply := rfl

@[simp] theorem State.tick1_waves : (s.tick1).waves = s.waves := rfl
@[simp] theorem State.tick1_away : (s.tick1).away = s.away := rfl
@[simp] theorem State.tick1_groups : (s.tick1).groups = s.groups := rfl
@[simp] theorem State.tick1_launches : (s.tick1).launches = s.launches := rfl
@[simp] theorem State.tick1_nextLid : (s.tick1).nextLid = s.nextLid := rfl
@[simp] theorem State.tick1_placements : (s.tick1).placements = s.placements := rfl
@[simp] theorem State.tick1_formed : (s.tick1).formed = s.formed := rfl
@[simp] theorem State.tick1_ctxs : (s.tick1).ctxs = s.ctxs := rfl
@[simp] theorem State.tick1_cores : (s.tick1).cores = s.cores := rfl
@[simp] theorem State.tick1_engines : (s.tick1).engines = s.engines := rfl
@[simp] theorem State.tick1_rays : (s.tick1).rays = s.rays := rfl
@[simp] theorem State.tick1_bins : (s.tick1).bins = s.bins := rfl
@[simp] theorem State.tick1_queues : (s.tick1).queues = s.queues := rfl
@[simp] theorem State.tick1_lastQueue : (s.tick1).lastQueue = s.lastQueue := rfl
@[simp] theorem State.tick1_mem : (s.tick1).mem = s.mem := rfl
@[simp] theorem State.tick1_poison : (s.tick1).poison = s.poison := rfl
@[simp] theorem State.tick1_spoiled : (s.tick1).spoiled = s.spoiled := rfl
@[simp] theorem State.tick1_chip : (s.tick1).chip = s.chip := rfl
@[simp] theorem State.tick1_grants : (s.tick1).grants = s.grants := rfl
@[simp] theorem State.tick1_tlb2 : (s.tick1).tlb2 = s.tlb2 := rfl
@[simp] theorem State.tick1_walks : (s.tick1).walks = s.walks := rfl
@[simp] theorem State.tick1_l2 : (s.tick1).l2 = s.l2 := rfl
@[simp] theorem State.tick1_treelets : (s.tick1).treelets = s.treelets := rfl
@[simp] theorem State.tick1_eddy : (s.tick1).eddy = s.eddy := rfl
@[simp] theorem State.tick1_marks : (s.tick1).marks = s.marks := rfl
@[simp] theorem State.tick1_slices : (s.tick1).slices = s.slices := rfl
@[simp] theorem State.tick1_tiles : (s.tick1).tiles = s.tiles := rfl
@[simp] theorem State.tick1_drains : (s.tick1).drains = s.drains := rfl
@[simp] theorem State.tick1_txns : (s.tick1).txns = s.txns := rfl
@[simp] theorem State.tick1_owing : (s.tick1).owing = s.owing := rfl
@[simp] theorem State.tick1_ports : (s.tick1).ports = s.ports := rfl
@[simp] theorem State.tick1_regs : (s.tick1).regs = s.regs := rfl
@[simp] theorem State.tick1_zephyr : (s.tick1).zephyr = s.zephyr := rfl
@[simp] theorem State.tick1_cycle : (s.tick1).cycle = s.cycle := rfl
@[simp] theorem State.tick1_cur : (s.tick1).cur = s.cur := rfl
@[simp] theorem State.tick1_agenda : (s.tick1).agenda = s.agenda := rfl
@[simp] theorem State.tick1_choices : (s.tick1).choices = s.choices := rfl
@[simp] theorem State.tick1_fresh : (s.tick1).fresh = s.fresh + 1 := rfl
@[simp] theorem State.tick1_reply : (s.tick1).reply = s.reply := rfl

@[simp] theorem State.setGroup_waves (g : Nat) (x : Group) : (s.setGroup g x).waves = s.waves := rfl
@[simp] theorem State.setGroup_away (g : Nat) (x : Group) : (s.setGroup g x).away = s.away := rfl
@[simp] theorem State.setGroup_groups (g : Nat) (x : Group) : (s.setGroup g x).groups = s.groups.put g x := rfl
@[simp] theorem State.setGroup_launches (g : Nat) (x : Group) : (s.setGroup g x).launches = s.launches := rfl
@[simp] theorem State.setGroup_nextLid (g : Nat) (x : Group) : (s.setGroup g x).nextLid = s.nextLid := rfl
@[simp] theorem State.setGroup_placements (g : Nat) (x : Group) : (s.setGroup g x).placements = s.placements := rfl
@[simp] theorem State.setGroup_formed (g : Nat) (x : Group) : (s.setGroup g x).formed = s.formed := rfl
@[simp] theorem State.setGroup_ctxs (g : Nat) (x : Group) : (s.setGroup g x).ctxs = s.ctxs := rfl
@[simp] theorem State.setGroup_cores (g : Nat) (x : Group) : (s.setGroup g x).cores = s.cores := rfl
@[simp] theorem State.setGroup_engines (g : Nat) (x : Group) : (s.setGroup g x).engines = s.engines := rfl
@[simp] theorem State.setGroup_rays (g : Nat) (x : Group) : (s.setGroup g x).rays = s.rays := rfl
@[simp] theorem State.setGroup_bins (g : Nat) (x : Group) : (s.setGroup g x).bins = s.bins := rfl
@[simp] theorem State.setGroup_queues (g : Nat) (x : Group) : (s.setGroup g x).queues = s.queues := rfl
@[simp] theorem State.setGroup_lastQueue (g : Nat) (x : Group) : (s.setGroup g x).lastQueue = s.lastQueue := rfl
@[simp] theorem State.setGroup_mem (g : Nat) (x : Group) : (s.setGroup g x).mem = s.mem := rfl
@[simp] theorem State.setGroup_poison (g : Nat) (x : Group) : (s.setGroup g x).poison = s.poison := rfl
@[simp] theorem State.setGroup_spoiled (g : Nat) (x : Group) : (s.setGroup g x).spoiled = s.spoiled := rfl
@[simp] theorem State.setGroup_chip (g : Nat) (x : Group) : (s.setGroup g x).chip = s.chip := rfl
@[simp] theorem State.setGroup_grants (g : Nat) (x : Group) : (s.setGroup g x).grants = s.grants := rfl
@[simp] theorem State.setGroup_tlb2 (g : Nat) (x : Group) : (s.setGroup g x).tlb2 = s.tlb2 := rfl
@[simp] theorem State.setGroup_walks (g : Nat) (x : Group) : (s.setGroup g x).walks = s.walks := rfl
@[simp] theorem State.setGroup_l2 (g : Nat) (x : Group) : (s.setGroup g x).l2 = s.l2 := rfl
@[simp] theorem State.setGroup_treelets (g : Nat) (x : Group) : (s.setGroup g x).treelets = s.treelets := rfl
@[simp] theorem State.setGroup_eddy (g : Nat) (x : Group) : (s.setGroup g x).eddy = s.eddy := rfl
@[simp] theorem State.setGroup_marks (g : Nat) (x : Group) : (s.setGroup g x).marks = s.marks := rfl
@[simp] theorem State.setGroup_slices (g : Nat) (x : Group) : (s.setGroup g x).slices = s.slices := rfl
@[simp] theorem State.setGroup_tiles (g : Nat) (x : Group) : (s.setGroup g x).tiles = s.tiles := rfl
@[simp] theorem State.setGroup_drains (g : Nat) (x : Group) : (s.setGroup g x).drains = s.drains := rfl
@[simp] theorem State.setGroup_txns (g : Nat) (x : Group) : (s.setGroup g x).txns = s.txns := rfl
@[simp] theorem State.setGroup_owing (g : Nat) (x : Group) : (s.setGroup g x).owing = s.owing := rfl
@[simp] theorem State.setGroup_ports (g : Nat) (x : Group) : (s.setGroup g x).ports = s.ports := rfl
@[simp] theorem State.setGroup_regs (g : Nat) (x : Group) : (s.setGroup g x).regs = s.regs := rfl
@[simp] theorem State.setGroup_zephyr (g : Nat) (x : Group) : (s.setGroup g x).zephyr = s.zephyr := rfl
@[simp] theorem State.setGroup_cycle (g : Nat) (x : Group) : (s.setGroup g x).cycle = s.cycle := rfl
@[simp] theorem State.setGroup_cur (g : Nat) (x : Group) : (s.setGroup g x).cur = s.cur := rfl
@[simp] theorem State.setGroup_agenda (g : Nat) (x : Group) : (s.setGroup g x).agenda = s.agenda := rfl
@[simp] theorem State.setGroup_choices (g : Nat) (x : Group) : (s.setGroup g x).choices = s.choices := rfl
@[simp] theorem State.setGroup_fresh (g : Nat) (x : Group) : (s.setGroup g x).fresh = s.fresh := rfl
@[simp] theorem State.setGroup_reply (g : Nat) (x : Group) : (s.setGroup g x).reply = s.reply := rfl

@[simp] theorem State.modGroup_waves (g : Nat) (f : Group → Group) : (s.modGroup g f).waves = s.waves := rfl
@[simp] theorem State.modGroup_away (g : Nat) (f : Group → Group) : (s.modGroup g f).away = s.away := rfl
@[simp] theorem State.modGroup_groups (g : Nat) (f : Group → Group) : (s.modGroup g f).groups = s.groups.modify g f := rfl
@[simp] theorem State.modGroup_launches (g : Nat) (f : Group → Group) : (s.modGroup g f).launches = s.launches := rfl
@[simp] theorem State.modGroup_nextLid (g : Nat) (f : Group → Group) : (s.modGroup g f).nextLid = s.nextLid := rfl
@[simp] theorem State.modGroup_placements (g : Nat) (f : Group → Group) : (s.modGroup g f).placements = s.placements := rfl
@[simp] theorem State.modGroup_formed (g : Nat) (f : Group → Group) : (s.modGroup g f).formed = s.formed := rfl
@[simp] theorem State.modGroup_ctxs (g : Nat) (f : Group → Group) : (s.modGroup g f).ctxs = s.ctxs := rfl
@[simp] theorem State.modGroup_cores (g : Nat) (f : Group → Group) : (s.modGroup g f).cores = s.cores := rfl
@[simp] theorem State.modGroup_engines (g : Nat) (f : Group → Group) : (s.modGroup g f).engines = s.engines := rfl
@[simp] theorem State.modGroup_rays (g : Nat) (f : Group → Group) : (s.modGroup g f).rays = s.rays := rfl
@[simp] theorem State.modGroup_bins (g : Nat) (f : Group → Group) : (s.modGroup g f).bins = s.bins := rfl
@[simp] theorem State.modGroup_queues (g : Nat) (f : Group → Group) : (s.modGroup g f).queues = s.queues := rfl
@[simp] theorem State.modGroup_lastQueue (g : Nat) (f : Group → Group) : (s.modGroup g f).lastQueue = s.lastQueue := rfl
@[simp] theorem State.modGroup_mem (g : Nat) (f : Group → Group) : (s.modGroup g f).mem = s.mem := rfl
@[simp] theorem State.modGroup_poison (g : Nat) (f : Group → Group) : (s.modGroup g f).poison = s.poison := rfl
@[simp] theorem State.modGroup_spoiled (g : Nat) (f : Group → Group) : (s.modGroup g f).spoiled = s.spoiled := rfl
@[simp] theorem State.modGroup_chip (g : Nat) (f : Group → Group) : (s.modGroup g f).chip = s.chip := rfl
@[simp] theorem State.modGroup_grants (g : Nat) (f : Group → Group) : (s.modGroup g f).grants = s.grants := rfl
@[simp] theorem State.modGroup_tlb2 (g : Nat) (f : Group → Group) : (s.modGroup g f).tlb2 = s.tlb2 := rfl
@[simp] theorem State.modGroup_walks (g : Nat) (f : Group → Group) : (s.modGroup g f).walks = s.walks := rfl
@[simp] theorem State.modGroup_l2 (g : Nat) (f : Group → Group) : (s.modGroup g f).l2 = s.l2 := rfl
@[simp] theorem State.modGroup_treelets (g : Nat) (f : Group → Group) : (s.modGroup g f).treelets = s.treelets := rfl
@[simp] theorem State.modGroup_eddy (g : Nat) (f : Group → Group) : (s.modGroup g f).eddy = s.eddy := rfl
@[simp] theorem State.modGroup_marks (g : Nat) (f : Group → Group) : (s.modGroup g f).marks = s.marks := rfl
@[simp] theorem State.modGroup_slices (g : Nat) (f : Group → Group) : (s.modGroup g f).slices = s.slices := rfl
@[simp] theorem State.modGroup_tiles (g : Nat) (f : Group → Group) : (s.modGroup g f).tiles = s.tiles := rfl
@[simp] theorem State.modGroup_drains (g : Nat) (f : Group → Group) : (s.modGroup g f).drains = s.drains := rfl
@[simp] theorem State.modGroup_txns (g : Nat) (f : Group → Group) : (s.modGroup g f).txns = s.txns := rfl
@[simp] theorem State.modGroup_owing (g : Nat) (f : Group → Group) : (s.modGroup g f).owing = s.owing := rfl
@[simp] theorem State.modGroup_ports (g : Nat) (f : Group → Group) : (s.modGroup g f).ports = s.ports := rfl
@[simp] theorem State.modGroup_regs (g : Nat) (f : Group → Group) : (s.modGroup g f).regs = s.regs := rfl
@[simp] theorem State.modGroup_zephyr (g : Nat) (f : Group → Group) : (s.modGroup g f).zephyr = s.zephyr := rfl
@[simp] theorem State.modGroup_cycle (g : Nat) (f : Group → Group) : (s.modGroup g f).cycle = s.cycle := rfl
@[simp] theorem State.modGroup_cur (g : Nat) (f : Group → Group) : (s.modGroup g f).cur = s.cur := rfl
@[simp] theorem State.modGroup_agenda (g : Nat) (f : Group → Group) : (s.modGroup g f).agenda = s.agenda := rfl
@[simp] theorem State.modGroup_choices (g : Nat) (f : Group → Group) : (s.modGroup g f).choices = s.choices := rfl
@[simp] theorem State.modGroup_fresh (g : Nat) (f : Group → Group) : (s.modGroup g f).fresh = s.fresh := rfl
@[simp] theorem State.modGroup_reply (g : Nat) (f : Group → Group) : (s.modGroup g f).reply = s.reply := rfl

end Sys2Proof.Machine
end

