-- ==== Sys2Proof/Laws/Wave.lean ====
section
/-! SUPPORT. What the operations on one wave can do: lanes, fibres, registers, the latch, completing an issue. -/

namespace Sys2Proof.Machine

set_option Elab.async false

/-! ### Lanes -/

theorem mem_lanesOf {m : Word} {l : Nat} : l ∈ lanesOf m ↔ l < 32 ∧ m.getLsbD l = true := by
  simp [lanesOf, laneNums]

theorem lanesOf_nodup (m : Word) : (lanesOf m).Nodup := List.Nodup.filter _ List.nodup_range

theorem laneBit_getLsbD {k l : Nat} (hk : k < 32) : (laneBit k).getLsbD l = decide (l = k) := by
  have : laneBit k = BitVec.twoPow 32 k := by
    apply BitVec.eq_of_toNat_eq
    simp [laneBit, BitVec.toNat_twoPow]
  rw [this, BitVec.getLsbD_twoPow]
  by_cases h : l = k
  · subst h; simp [hk]
  · simp [h, Ne.symm h]

/-- A mask built lane by lane holds exactly the lanes that pass the test. -/
theorem getLsbD_foldMask (p : Nat → Bool) (ls : List Nat) (hls : ∀ l ∈ ls, l < 32) (m : Word) (l : Nat) :
    (ls.foldl (fun m l => if p l then m ||| laneBit l else m) m).getLsbD l = (m.getLsbD l || (ls.contains l && p l)) := by
  induction ls generalizing m with
  | nil => simp
  | cons k ls ih =>
    rw [List.foldl_cons, ih (fun j hj => hls j (List.mem_cons_of_mem _ hj))]
    have hk := hls k (List.mem_cons_self ..)
    by_cases hp : p k
    · rw [if_pos hp, BitVec.getLsbD_or, laneBit_getLsbD hk]
      by_cases h : l = k
      · subst h; simp [hp]
      · simp [h]
    · rw [if_neg hp]
      by_cases h : l = k
      · subst h; simp [hp]
      · simp [h]

/-- The lanes that pass a guard: the lanes of the batch whose predicate is 1 (01 R41). -/
theorem guarded_getLsbD (w : Wave) (b : Word) (g l : Nat) (hl : l < 32) :
    (w.guarded b g).getLsbD l = (b.getLsbD l && (w.fib l).pred g) := by
  unfold Wave.guarded
  rw [getLsbD_foldMask (fun l => (w.fib l).pred g) _ (fun l h => (mem_lanesOf.1 h).1)]
  simp [mem_lanesOf, hl]

theorem guarded_le (w : Wave) (b : Word) (g l : Nat) (h : (w.guarded b g).getLsbD l = true) : b.getLsbD l = true := by
  by_cases hl : l < 32
  · rw [guarded_getLsbD w b g l hl] at h
    simp only [Bool.and_eq_true] at h
    exact h.1
  · rw [BitVec.getLsbD_of_ge _ l (by omega)] at h
    cases h

/-! ### Fibres -/

theorem setFib_fib (w : Wave) (j l : Nat) (f : Fibre) : (w.setFib j f).fib l = if l = j then f else w.fib l :=
  SMap.get_put w.fibres Fibre.dead l j f

/-- A fold of setFib over lanes changes fibres only. -/
theorem foldFibs_eq (g : Nat → Fibre → Fibre) (ls : List Nat) (w : Wave) :
    ∃ fs, ls.foldl (fun w l => w.setFib l (g l (w.fib l))) w = { w with fibres := fs } := by
  induction ls generalizing w with
  | nil => exact ⟨w.fibres, rfl⟩
  | cons l ls ih =>
    obtain ⟨fs, h⟩ := ih (w.setFib l (g l (w.fib l)))
    exact ⟨fs, h⟩

theorem foldFibs_fib (g : Nat → Fibre → Fibre) (ls : List Nat) (hd : ls.Nodup) (w : Wave) (l : Nat) :
    (ls.foldl (fun w l => w.setFib l (g l (w.fib l))) w).fib l = if l ∈ ls then g l (w.fib l) else w.fib l := by
  induction ls generalizing w with
  | nil => simp
  | cons k ls ih =>
    rw [List.foldl_cons, ih (List.nodup_cons.1 hd).2, setFib_fib]
    by_cases h : l = k
    · subst h
      simp [(List.nodup_cons.1 hd).1]
    · simp [h]

/-- Changing the fibres of a mask changes nothing else of the wave. -/
theorem mapFibs_eq (w : Wave) (m : Word) (g : Nat → Fibre → Fibre) : ∃ fs, w.mapFibs m g = { w with fibres := fs } :=
  foldFibs_eq g (lanesOf m) w

theorem mapFibs_fib (w : Wave) (m : Word) (g : Nat → Fibre → Fibre) (l : Nat) (hl : l < 32) :
    (w.mapFibs m g).fib l = if m.getLsbD l then g l (w.fib l) else w.fib l := by
  unfold Wave.mapFibs
  rw [foldFibs_fib g _ (lanesOf_nodup m)]
  simp only [mem_lanesOf, hl, true_and]

/-! ### Registers -/

theorem cellAt_inj {n l n' l' : Nat} (hl : l < 32) (hl' : l' < 32) : cellAt n l = cellAt n' l' ↔ n = n' ∧ l = l' := by
  unfold cellAt
  omega

theorem setCell_cell (w : Wave) (i j : Nat) (c : VCell) : (w.setCell j c).cell i = if i = j then c else w.cell i :=
  SMap.get_put w.regs (w.undefined i) i j c

/-- A fold of setCell changes register cells only. -/
theorem foldCells_eq (n : Nat) (f : Nat → LCell) (ls : List Nat) (w : Wave) :
    ∃ rs, ls.foldl (fun (w : Wave) l => w.setCell (cellAt n l) ⟨(f l).val, (f l).tag, false⟩) w = { w with regs := rs } := by
  induction ls generalizing w with
  | nil => exact ⟨w.regs, rfl⟩
  | cons l ls ih =>
    obtain ⟨rs, h⟩ := ih (w.setCell (cellAt n l) ⟨(f l).val, (f l).tag, false⟩)
    exact ⟨rs, h⟩

theorem foldCells_cell (n : Nat) (f : Nat → LCell) (ls : List Nat) (hls : ∀ l ∈ ls, l < 32) (w : Wave) (k l : Nat) (hl : l < 32) :
    (ls.foldl (fun (w : Wave) l => w.setCell (cellAt n l) ⟨(f l).val, (f l).tag, false⟩) w).cell (cellAt k l) =
      if k = n ∧ l ∈ ls then ⟨(f l).val, (f l).tag, false⟩ else w.cell (cellAt k l) := by
  induction ls generalizing w with
  | nil => simp
  | cons j ls ih =>
    have hj := hls j (List.mem_cons_self ..)
    rw [List.foldl_cons, ih (fun i hi => hls i (List.mem_cons_of_mem _ hi)), setCell_cell]
    simp only [cellAt_inj hl hj, List.mem_cons]
    by_cases hk : k = n
    · by_cases hm : l ∈ ls
      · simp [hk, hm]
      · by_cases h : l = j
        · subst h; simp [hk, hm]
        · simp [hm, h]
    · simp [hk]

/-- Writing a register changes register cells only. -/
theorem writeReg_eq (w : Wave) (n : Nat) (m : Word) (f : Nat → LCell) : ∃ rs, w.writeReg n m f = { w with regs := rs } :=
  foldCells_eq n f (lanesOf m) w

/-- Writing a register: its lanes of the mask hold the values, EMPTY clear; every other cell is as before (01 R36). -/
theorem writeReg_cell (w : Wave) (n : Nat) (m : Word) (f : Nat → LCell) (k l : Nat) (hl : l < 32) :
    (w.writeReg n m f).cell (cellAt k l) =
      if k = n ∧ m.getLsbD l then ⟨(f l).val, (f l).tag, false⟩ else w.cell (cellAt k l) := by
  unfold Wave.writeReg
  rw [foldCells_cell n f _ (fun l h => (mem_lanesOf.1 h).1) w k l hl]
  simp only [mem_lanesOf, hl, true_and]

/-! ### The latch -/

theorem SMap_find?_map {α β : Type} (m : SMap α) (f : α → β) (j : Nat) :
    SMap.find? (m.map (fun p => (p.1, f p.2))) j = (m.find? j).map f := by
  induction m with
  | nil => rfl
  | cons p m ih =>
    obtain ⟨k, v⟩ := p
    rw [List.map_cons, SMap.find?_cons, SMap.find?_cons, ih]
    split <;> rfl

theorem ageLatch_entry (w : Wave) (k : Nat) : w.ageLatch.entry k = { w.entry k with count := (w.entry k).count - 1 } := by
  have e : w.ageLatch.latch.find? k = (w.latch.find? k).map (fun (e : LatchEntry) => ⟨e.lanes, e.count - 1⟩) :=
    SMap_find?_map w.latch (fun (e : LatchEntry) => (⟨e.lanes, e.count - 1⟩ : LatchEntry)) k
  unfold Wave.entry SMap.get
  rw [e]
  cases h : w.latch.find? k <;> rfl

theorem keep_entry (w : Wave) (b : Word) (v : Nat → LCell) (k : Nat) :
    (w.keep b v).entry k = if k = w.lp then { lanes := (lanesOf b).map (fun l => (l, v l)), count := 2 } else w.entry k :=
  SMap.get_put w.latch LatchEntry.invalid k w.lp _

/-! ### Completing an issue -/

theorem stopCheck_cases (w : Wave) : ∃ r cp tx wt, w.stopCheck = { w with run := r, cp := cp, tx := tx, wait := wt } ∧
    (w.run = .running → r = .running ∧ cp = w.cp ∧ tx = w.tx ∧ wt = w.wait) := by
  unfold Wave.stopCheck
  split
  · rename_i left h
    split
    · exact ⟨_, _, _, _, rfl, fun e => by rw [h] at e; cases e⟩
    · exact ⟨w.run, w.cp, w.tx, w.wait, rfl, fun e => ⟨e, rfl, rfl, rfl⟩⟩
  · exact ⟨w.run, w.cp, w.tx, w.wait, rfl, fun e => ⟨e, rfl, rfl, rfl⟩⟩
  · exact ⟨w.run, w.cp, w.tx, w.wait, rfl, fun e => ⟨e, rfl, rfl, rfl⟩⟩
  · exact ⟨w.run, w.cp, w.tx, w.wait, rfl, fun e => ⟨e, rfl, rfl, rfl⟩⟩

theorem countSkid_cases (w : Wave) : ∃ r sk cp tx wt, w.countSkid = { w with run := r, skid := sk, cp := cp, tx := tx, wait := wt } ∧
    (w.run = .running → r = .running ∧ cp = w.cp ∧ tx = w.tx ∧ wt = w.wait) := by
  unfold Wave.countSkid
  split
  · rename_i left h
    obtain ⟨r, cp, tx, wt, e, _⟩ := stopCheck_cases { w with run := .skid (left - 1), skid := w.skid + 1 }
    exact ⟨r, w.skid + 1, cp, tx, wt, e, fun e => by rw [h] at e; cases e⟩
  · exact ⟨w.run, w.skid, w.cp, w.tx, w.wait, rfl, fun e => ⟨e, rfl, rfl, rfl⟩⟩
  · exact ⟨w.run, w.skid, w.cp, w.tx, w.wait, rfl, fun e => ⟨e, rfl, rfl, rfl⟩⟩
  · exact ⟨w.run, w.skid, w.cp, w.tx, w.wait, rfl, fun e => ⟨e, rfl, rfl, rfl⟩⟩

/-- Putting a wave back after its issue: only its halt, its waits, its immediate commands and its marks may differ. -/
theorem retire_cases (s : State) (iss : Issue) (w : Wave) : ∃ r sk cp tx wt,
    s.retire iss w = s.setWave iss.wave { w with run := r, skid := sk, cp := cp, tx := tx, wait := wt, lastIssue := s.cycle, boosted := false } ∧
    (w.run = .running → r = .running ∧ cp = w.cp ∧ tx = w.tx ∧ wt = w.wait) := by
  obtain ⟨r, sk, cp, tx, wt, e, h⟩ := countSkid_cases w
  exact ⟨r, sk, cp, tx, wt, by unfold State.retire; rw [e], h⟩

/-- Completing an issue changes fibres, the latch and the wait only. -/
theorem finish_eq (w : Wave) (iss : Issue) : ∃ fs, w.finish iss = { w.ageLatch with fibres := fs, wait := none } := by
  obtain ⟨fs, h⟩ := mapFibs_eq w.ageLatch iss.batch (fun _ f => { f with pc := iss.next, owed := 0 })
  exact ⟨fs, by unfold Wave.finish Wave.advance; rw [h]⟩

theorem advance_fib (w : Wave) (iss : Issue) (l : Nat) (hl : l < 32) :
    (w.advance iss).fib l = if iss.batch.getLsbD l then { w.fib l with pc := iss.next, owed := 0 } else w.fib l :=
  mapFibs_fib w iss.batch _ l hl

theorem finish_fib (w : Wave) (iss : Issue) (l : Nat) (hl : l < 32) :
    (w.finish iss).fib l = if iss.batch.getLsbD l then { w.fib l with pc := iss.next, owed := 0 } else w.fib l :=
  advance_fib w.ageLatch iss l hl

theorem finish_entry (w : Wave) (iss : Issue) (k : Nat) :
    (w.finish iss).entry k = { w.entry k with count := (w.entry k).count - 1 } := by
  obtain ⟨fs, h⟩ := finish_eq w iss
  rw [h, ← ageLatch_entry w k]
  rfl

end Sys2Proof.Machine
end

