-- ==== Sys2Proof/Laws/Issue.lean ====
section
/-! SUPPORT. What issuing an instruction can do: the checks pass, the effect happens, the wave is put back (03 R98, R99; 01 R39). -/

namespace Sys2Proof.Machine

set_option Elab.async false

theorem spoiledLane_congr (s : State) (p q : Pre) (w : Wave) (m : Word) (h : p.ops = q.ops)
    (hr : p.reach = q.reach) : s.spoiledLane p w m = s.spoiledLane q w m := by
  unfold State.spoiledLane
  rw [h, hr]

/-- The checks of an instruction pass when its issue executes. -/
theorem Issues.enter {s : State} {iss : Issue} {w : Wave} {lanes : Word} {p : Pre} (h : Issues s iss w p.guard p.ops p.tile lanes p.reach)
    (hr : p.reserved = false) (hb : p.badOperand w = false) (hc : ∀ c, p.counter = some c → w.counter c < 63)
    (ht : p.tags w lanes = none) : w.enter p iss.batch = .run lanes := by
  have hl : p.ops.any (Opnd.bad w) = false := by
    rw [List.any_eq_false]
    intro o ho
    rw [h.legal o ho]
    exact Bool.false_ne_true
  have hi : (!p.tile && p.ops.any (fun o => (o.regs w).any w.tileBusy.contains)) = false := by
    cases hp : p.tile with
    | true => rfl
    | false =>
      have := h.idle hp
      simp only [Bool.not_false, Bool.true_and, List.any_eq_false, Bool.not_eq_true]
      intro o ho n hn
      simpa using this o ho n hn
  have hn : lanes ≠ 0#32 := h.someLane
  have hp := h.passes
  unfold Wave.enter
  rcases hg : p.guard with _ | g <;> rw [hg] at hp <;> simp only at hp <;> subst hp <;> rcases hk : p.counter with _ | c
  · simp [if_neg hn, hl, hr, hb, hi, h.present, ht]
  · simp [if_neg hn, hl, hr, hb, hi, h.present, ht, Nat.not_le.2 (hc c hk)]
  · simp [if_neg hn, hl, hr, hb, hi, h.present, ht]
  · simp [if_neg hn, hl, hr, hb, hi, h.present, ht, Nat.not_le.2 (hc c hk)]

/-- An issue that executes performs its instruction's own part. -/
theorem Issues.perform {s : State} {iss : Issue} {w : Wave} {lanes : Word} {p : Pre} (h : Issues s iss w p.guard p.ops p.tile lanes p.reach)
    (hr : p.reserved = false) (hb : p.badOperand w = false) (hc : ∀ c, p.counter = some c → w.counter c < 63)
    (ht : p.tags w lanes = none) (body : Word → Out) :
    s.perform p iss w body = (match body lanes with
      | .done s' => s'
      | .wait s' => s'.waitIssue iss
      | .trap s' c a l => s'.takeTrap iss c a l) := by
  unfold State.perform
  rw [h.enter hr hb hc ht]
  simp only [spoiledLane_congr s p { ops := p.ops, reach := p.reach } w lanes rfl rfl, h.sound]
  all_goals (cases body lanes <;> rfl)

theorem withIssue_eq {s : State} {iss : Issue} {w : Wave} (hc : s.cur = some iss) (hw : s.waves.find? iss.wave = some w)
    (f : Issue → Wave → State) : withIssue s f = .next (f iss w) := by
  unfold withIssue
  rw [hc]
  simp only [hw]

/-- An instruction of one wave with a hold field, when its issue executes. -/
theorem Issues.runHold {s : State} {iss : Issue} {w : Wave} {lanes : Word} {p : Pre} (h : Issues s iss w p.guard p.ops p.tile lanes p.reach)
    (hr : p.reserved = false) (hb : p.badOperand w = false) (hc : ∀ c, p.counter = some c → w.counter c < 63)
    (ht : p.tags w lanes = none) (hold : Wave → Wave → Option (Nat → LCell)) (effect : Issue → Word → Wave → Wave) :
    Sys2Proof.Machine.runHold p hold effect s =
      .next (s.retire iss ((effect iss lanes w).finishKeep iss (hold w (effect iss lanes w)))) := by
  unfold Sys2Proof.Machine.runHold
  rw [withIssue_eq h.issue h.wave, h.perform hr hb hc ht]

/-- An instruction of one wave that keeps nothing, when its issue executes. -/
theorem Issues.runWave {s : State} {iss : Issue} {w : Wave} {lanes : Word} {p : Pre} (h : Issues s iss w p.guard p.ops p.tile lanes p.reach)
    (hr : p.reserved = false) (hb : p.badOperand w = false) (hc : ∀ c, p.counter = some c → w.counter c < 63)
    (ht : p.tags w lanes = none) (effect : Issue → Word → Wave → Wave) :
    Sys2Proof.Machine.runWave p effect s = .next (s.retire iss ((effect iss lanes w).finish iss)) := by
  unfold Sys2Proof.Machine.runWave
  rw [withIssue_eq h.issue h.wave, h.perform hr hb hc ht]

/-- An instruction that sets PCs itself, when its issue executes. -/
theorem Issues.runPc {s : State} {iss : Issue} {w : Wave} {lanes : Word} {p : Pre} (h : Issues s iss w p.guard p.ops p.tile lanes p.reach)
    (hr : p.reserved = false) (hb : p.badOperand w = false) (hc : ∀ c, p.counter = some c → w.counter c < 63)
    (ht : p.tags w lanes = none) (effect : Issue → Word → Wave → Wave) :
    Sys2Proof.Machine.runPc p effect s = .next (s.retire iss (effect iss lanes (w.finish iss))) := by
  unfold Sys2Proof.Machine.runPc
  rw [withIssue_eq h.issue h.wave, h.perform hr hb hc ht]

/-- An instruction of the whole state, when its issue executes. -/
theorem Issues.runState {s : State} {iss : Issue} {w : Wave} {lanes : Word} {p : Pre} (h : Issues s iss w p.guard p.ops p.tile lanes p.reach)
    (hr : p.reserved = false) (hb : p.badOperand w = false) (hc : ∀ c, p.counter = some c → w.counter c < 63)
    (ht : p.tags w lanes = none) (body : State → Issue → Word → Wave → Out) :
    Sys2Proof.Machine.runState p body s = .next (match body s iss lanes w with
      | .done s' => s'
      | .wait s' => s'.waitIssue iss
      | .trap s' c a l => s'.takeTrap iss c a l) := by
  unfold Sys2Proof.Machine.runState
  rw [withIssue_eq h.issue h.wave, h.perform hr hb hc ht]

/-! ### A completed issue, said in the terms of Safety -/

/-- The wave that an instruction's own part leaves, before the latch and the PCs, is as an effect says. -/
structure Acts (e : Effect) (iss : Issue) (lanes : Word) (w w1 : Wave) : Prop where
  only : ∃ rs ss fr fs, w1 = { w with regs := rs, scalars := ss, fsr := fr, fibres := fs }
  cells : ∀ n l, l < 32 → w1.cell (cellAt n l) =
    if n ∈ e.regs w ∧ lanes.getLsbD l then ⟨(e.val iss lanes w n l).val, (e.val iss lanes w n l).tag, e.empty⟩ else w.cell (cellAt n l)
  scalars : ∀ n, w1.scalar n = (SMap.find? (e.scalars iss lanes w) n).getD (w.scalar n)
  flags : ∀ b, w1.fsr.getLsbD b = true ↔
    w.fsr.getLsbD b = true ∨ ∃ l, l < 32 ∧ lanes.getLsbD l = true ∧ (e.flags lanes w l).getLsbD b = true
  fibres : ∀ l, l < 32 → w1.fib l = if lanes.getLsbD l then e.fibre iss lanes w l (w.fib l) else w.fib l

/-- Guarded lanes are lanes of the batch. -/
theorem Issues.lanes_le {s : State} {iss : Issue} {w : Wave} {g : Option Nat} {ops : List Opnd} {t : Bool} {lanes : Word}
    {reach : Wave → List Site} (h : Issues s iss w g ops t lanes reach) (l : Nat) (hl : lanes.getLsbD l = true) : iss.batch.getLsbD l = true := by
  have hp := h.passes
  subst hp
  cases g with
  | none => exact hl
  | some g => exact guarded_le w iss.batch g l hl

theorem find?_lanes (m : Word) (v : Nat → LCell) (l : Nat) (hl : l < 32) :
    SMap.find? ((lanesOf m).map (fun l => (l, v l))) l = if m.getLsbD l then some (v l) else none := by
  have key : ∀ ls : List Nat, SMap.find? (ls.map (fun l => (l, v l))) l = if l ∈ ls then some (v l) else none := by
    intro ls
    induction ls with
    | nil => rfl
    | cons k ls ih =>
      rw [List.map_cons, SMap.find?_cons, ih]
      by_cases h : k = l
      · subst h; simp
      · simp [h, Ne.symm h]
  rw [key]
  simp only [mem_lanesOf, hl, true_and]

theorem finishKeep_eq (w : Wave) (iss : Issue) (k : Option (Nat → LCell)) :
    ∃ fs la lp, w.finishKeep iss k = { w with fibres := fs, latch := la, lp := lp, wait := none } := by
  unfold Wave.finishKeep
  cases k with
  | none =>
    obtain ⟨fs, h⟩ := finish_eq w iss
    exact ⟨fs, _, _, h⟩
  | some v =>
    obtain ⟨fs, h⟩ := mapFibs_eq (w.ageLatch.keep iss.batch v) iss.batch (fun _ f => { f with pc := iss.next, owed := 0 })
    refine ⟨fs, (w.ageLatch.keep iss.batch v).latch, (w.ageLatch.keep iss.batch v).lp, ?_⟩
    show ({ (w.ageLatch.keep iss.batch v).advance iss with wait := none } : Wave) = _
    unfold Wave.advance
    rw [h]
    rfl

theorem finishKeep_fib (w : Wave) (iss : Issue) (k : Option (Nat → LCell)) (l : Nat) (hl : l < 32) :
    (w.finishKeep iss k).fib l = if iss.batch.getLsbD l then { w.fib l with pc := iss.next, owed := 0 } else w.fib l := by
  cases k with
  | none => exact finish_fib w iss l hl
  | some v => exact advance_fib (w.ageLatch.keep iss.batch v) iss l hl

/-- The latch after an issue with a hold field. -/
theorem finishKeep_keeps (w : Wave) (iss : Issue) (k : Option (Nat → LCell)) : Keeps w (w.finishKeep iss k) iss.batch k := by
  cases k with
  | none =>
    obtain ⟨fs, h⟩ := finish_eq w iss
    refine ⟨by show (w.finish iss).lp = w.lp; rw [h]; rfl, fun k => ?_⟩
    have := finish_entry w iss k
    rw [show (w.finishKeep iss none).entry k = (w.finish iss).entry k from rfl, this]
    exact ⟨rfl, rfl⟩
  | some v =>
    obtain ⟨fs, h⟩ := mapFibs_eq (w.ageLatch.keep iss.batch v) iss.batch (fun _ f => { f with pc := iss.next, owed := 0 })
    have e (k : Nat) : (w.finishKeep iss (some v)).entry k = (w.ageLatch.keep iss.batch v).entry k := by
      show Wave.entry ({ (w.ageLatch.keep iss.batch v).advance iss with wait := none } : Wave) k = _
      unfold Wave.advance
      rw [h]
      rfl
    refine ⟨?_, fun k => ⟨fun hk => ?_, fun hk => ?_⟩⟩
    · show (({ (w.ageLatch.keep iss.batch v).advance iss with wait := none } : Wave)).lp = _
      unfold Wave.advance
      rw [h]
      rfl
    · rw [e, keep_entry, if_pos (show k = w.ageLatch.lp from hk)]
      exact ⟨rfl, fun l hl => find?_lanes iss.batch v l hl⟩
    · rw [e, keep_entry, if_neg (show ¬ k = w.ageLatch.lp from hk), ageLatch_entry]
      exact ⟨rfl, rfl⟩

/-- An instruction of one wave with a hold field completes as an effect says, when its own part does. -/
theorem completes_runHold {i : Instr} {e : Effect} {p : Pre} {hold : Wave → Wave → Option (Nat → LCell)}
    {effect : Issue → Word → Wave → Wave} (hx : exec i = Sys2Proof.Machine.runHold p hold effect)
    (hg : p.guard = e.guard) (ho : p.ops = e.ops) (hl : p.tile = false) (hr : p.reserved = false) (hb : ∀ w, p.badOperand w = false)
    (hc : p.counter = none) (ht : ∀ w lanes, e.tags w lanes → p.tags w lanes = none)
    (ha : ∀ iss lanes w, lanes ≠ 0 → Acts e iss lanes w (effect iss lanes w))
    (hk : ∀ w w1 w' : Wave, w'.regs = w1.regs → w'.wb = w1.wb → w'.uid = w1.uid → w'.epoch = w1.epoch → hold w w1 = e.keep w w')
    (haf : e.after = (fun _ _ _ _ f => f) := by rfl)
    (hrc : p.reach = e.reach := by rfl) : Completes i e := by
  intro s iss w lanes h htag
  rw [← hg, ← ho, ← hl, ← hrc] at h
  have hn := h.runHold hr (hb w) (by rw [hc]; intro c hc'; cases hc') (ht w lanes htag) hold effect
  unfold Finishes
  rw [hx, hn]
  have A := ha iss lanes w h.someLane
  generalize effect iss lanes w = w1 at A
  obtain ⟨rs, ss, fr, fs, e1⟩ := A.only
  generalize hkv : hold w w1 = kv
  obtain ⟨r, sk, cp, tx, wt, h1, h2⟩ := retire_cases s iss (w1.finishKeep iss kv)
  obtain ⟨fs', la, lp, hf⟩ := finishKeep_eq w1 iss kv
  have hfib := finishKeep_fib w1 iss kv
  have hkeep := finishKeep_keeps w1 iss kv
  refine ⟨_, by rw [h1], ?_, ?_, ?_, ?_, ?_, ?_, ?_⟩
  · rw [hf] at h2 ⊢
    subst e1
    exact ⟨rfl, rfl, rfl, rfl, rfl, rfl, rfl, rfl, rfl, rfl, rfl, rfl, rfl, fun hrun => (h2 hrun).1⟩
  · rw [hf] at h2 ⊢
    subst e1
    exact ⟨rfl, rfl, fun hrun => ⟨(h2 hrun).2.1, (h2 hrun).2.2.1⟩⟩
  · intro n l hl
    rw [← A.cells n l hl, hf]
    rfl
  · intro n
    rw [← A.scalars n, hf]
    rfl
  · intro b
    rw [← A.flags b, hf]
  · intro l hl
    have := hfib l hl
    rw [A.fibres l hl] at this
    rw [haf]
    by_cases hbl : iss.batch.getLsbD l = true
    · rw [if_pos hbl] at this ⊢
      exact this
    · rw [if_neg hbl] at this ⊢
      have hnl : lanes.getLsbD l = false := by
        cases hll : lanes.getLsbD l with
        | false => rfl
        | true => exact absurd (h.lanes_le l hll) hbl
      rw [hnl] at this
      exact this
  · have hke : kv = e.keep w { w1.finishKeep iss kv with run := r, skid := sk, cp := cp, tx := tx, wait := wt, lastIssue := s.cycle, boosted := false } := by
      rw [← hkv]
      apply hk <;> rw [hkv, hf]
    rw [← hke]
    have hw : ∀ k, w1.entry k = w.entry k := by intro k; rw [e1]; rfl
    have hlp : w1.lp = w.lp := by rw [e1]
    cases kv with
    | none =>
      refine ⟨hkeep.1.trans hlp, fun k => ?_⟩
      rw [← hw k]
      exact hkeep.2 k
    | some v =>
      refine ⟨by rw [← hlp]; exact hkeep.1, fun k => ?_⟩
      rw [← hw k, ← hlp]
      exact hkeep.2 k

theorem runWave_eq_runHold (p : Pre) (effect : Issue → Word → Wave → Wave) :
    Sys2Proof.Machine.runWave p effect = Sys2Proof.Machine.runHold p (fun _ _ => none) effect := rfl

/-- An instruction of one wave that keeps nothing completes as an effect says, when its own part does. -/
theorem completes_runWave {i : Instr} {e : Effect} {p : Pre} {effect : Issue → Word → Wave → Wave}
    (hx : exec i = Sys2Proof.Machine.runWave p effect)
    (hg : p.guard = e.guard) (ho : p.ops = e.ops) (hl : p.tile = false) (hr : p.reserved = false) (hb : ∀ w, p.badOperand w = false)
    (hc : p.counter = none) (ht : ∀ w lanes, e.tags w lanes → p.tags w lanes = none)
    (ha : ∀ iss lanes w, lanes ≠ 0 → Acts e iss lanes w (effect iss lanes w)) (hk : ∀ w w', e.keep w w' = none)
    (haf : e.after = (fun _ _ _ _ f => f) := by rfl)
    (hrc : p.reach = e.reach := by rfl) : Completes i e :=
  completes_runHold (hold := fun _ _ => none) hx hg ho hl hr hb hc ht ha (fun w _ w' _ _ _ _ => (hk w w').symm) haf hrc

/-! ### The parts of an effect -/

/-- The flags of a mask of lanes are those some lane raises. -/
theorem flagsOver_getLsbD (m : Word) (f : Nat → Flags) (b : Nat) :
    (flagsOver m f).getLsbD b = true ↔ ∃ l, l < 32 ∧ m.getLsbD l = true ∧ (f l).getLsbD b = true := by
  have key : ∀ (ls : List Nat) (acc : Flags), (ls.foldl (fun acc l => acc ||| f l) acc).getLsbD b = true ↔
      acc.getLsbD b = true ∨ ∃ l ∈ ls, (f l).getLsbD b = true := by
    intro ls
    induction ls with
    | nil => simp
    | cons k ls ih =>
      intro acc
      rw [List.foldl_cons, ih, BitVec.getLsbD_or, Bool.or_eq_true]
      simp only [List.mem_cons, exists_eq_or_imp, or_assoc]
  unfold flagsOver
  rw [key]
  simp only [mem_lanesOf, and_assoc]
  simp

theorem raise_getLsbD (w : Wave) (f : Flags) (b : Nat) :
    (w.raise f).fsr.getLsbD b = true ↔ w.fsr.getLsbD b = true ∨ f.getLsbD b = true := by
  show (w.fsr ||| f.setWidth 32).getLsbD b = true ↔ _
  rw [BitVec.getLsbD_or, Bool.or_eq_true, BitVec.getLsbD_setWidth, Bool.and_eq_true]
  constructor
  · rintro (h | h)
    · exact .inl h
    · exact .inr h.2
  · rintro (h | h)
    · exact .inl h
    · refine .inr ⟨?_, h⟩
      by_cases hb : b < 32
      · exact decide_eq_true hb
      · rw [BitVec.getLsbD_of_ge f b (by omega)] at h
        cases h

/-- Raising flags after an effect that raises none. -/
theorem Acts.raise {e : Effect} {iss : Issue} {lanes : Word} {w w1 : Wave} {fl : Word → Wave → Nat → Flags} (f : Flags)
    (h : Acts { e with flags := fun _ _ _ => 0 } iss lanes w w1) (he : e.flags = fl)
    (hf : ∀ b, f.getLsbD b = true ↔ ∃ l, l < 32 ∧ lanes.getLsbD l = true ∧ (fl lanes w l).getLsbD b = true) :
    Acts e iss lanes w (w1.raise f) := by
  obtain ⟨⟨rs, ss, fr, fs, h1⟩, h2, h3, h4, h5⟩ := h
  refine ⟨⟨rs, ss, fr ||| f.setWidth 32, fs, by rw [h1]; rfl⟩, h2, h3, ?_, h5⟩
  intro b
  rw [raise_getLsbD, hf, he]
  have := h4 b
  simp at this
  rw [this]

/-- Writing one register field. -/
theorem acts_writeField {e : Effect} {iss : Issue} {lanes : Word} {w : Wave} (d : BitVec 7) (f : Nat → LCell)
    (hr : e.regs w = [w.wb + d.toNat]) (hv : ∀ l, l < 32 → lanes.getLsbD l = true → e.val iss lanes w (w.wb + d.toNat) l = f l)
    (hs : e.scalars iss lanes w = []) (hf : ∀ l, e.flags lanes w l = 0) (hb : ∀ l x, e.fibre iss lanes w l x = x)
    (he : e.empty = false := by rfl) : Acts e iss lanes w (w.writeField d lanes f) := by
  obtain ⟨rs, h⟩ := writeReg_eq w (w.wb + d.toNat) lanes f
  refine ⟨⟨rs, w.scalars, w.fsr, w.fibres, h⟩, ?_, ?_, ?_, ?_⟩
  · intro n l hl
    show (w.writeReg _ _ _).cell _ = _
    rw [writeReg_cell w _ lanes f n l hl, hr, he]
    simp only [List.mem_singleton]
    by_cases hc : n = w.wb + d.toNat ∧ lanes.getLsbD l = true
    · rw [if_pos hc, if_pos hc, ← hv l hl hc.2, hc.1]
    · rw [if_neg hc, if_neg hc]
  · intro n
    rw [hs]
    show (w.writeReg _ _ _).scalar n = _
    rw [h]
    rfl
  · intro b
    show (w.writeReg _ _ _).fsr.getLsbD b = true ↔ _
    rw [h]
    simp [hf]
  · intro l _
    show (w.writeReg _ _ _).fib l = _
    rw [h, hb, ite_self]
    rfl

/-- Writing a register pair. -/
theorem acts_writePair {e : Effect} {iss : Issue} {lanes : Word} {w : Wave} (d : BitVec 7) (tag : BitVec 6) (f : Nat → Addr)
    (hr : e.regs w = [w.wb + d.toNat, w.wb + d.toNat + 1])
    (hv0 : ∀ l, l < 32 → lanes.getLsbD l = true → e.val iss lanes w (w.wb + d.toNat) l = ⟨(f l).setWidth 32, tag⟩)
    (hv1 : ∀ l, l < 32 → lanes.getLsbD l = true → e.val iss lanes w (w.wb + d.toNat + 1) l = ⟨((f l) >>> 32).setWidth 32, tag⟩)
    (hs : e.scalars iss lanes w = []) (hf : ∀ l, e.flags lanes w l = 0) (hb : ∀ l x, e.fibre iss lanes w l x = x)
    (he : e.empty = false := by rfl) : Acts e iss lanes w (w.writePair d lanes tag f) := by
  obtain ⟨rs, h⟩ := writeReg_eq w (w.wb + d.toNat) lanes (fun l => ⟨(f l).setWidth 32, tag⟩)
  obtain ⟨rs', h'⟩ := writeReg_eq (w.writeReg (w.wb + d.toNat) lanes (fun l => ⟨(f l).setWidth 32, tag⟩)) (w.wb + d.toNat + 1) lanes
    (fun l => ⟨((f l) >>> 32).setWidth 32, tag⟩)
  have h2 : w.writePair d lanes tag f = { w with regs := rs' } := by
    unfold Wave.writePair
    rw [h', h]
  refine ⟨⟨rs', w.scalars, w.fsr, w.fibres, h2⟩, ?_, ?_, ?_, ?_⟩
  · intro n l hl
    show (Wave.writeReg (Wave.writeReg _ _ _ _) _ _ _).cell _ = _
    rw [writeReg_cell _ _ lanes _ n l hl, writeReg_cell w _ lanes _ n l hl, hr, he]
    simp only [List.mem_cons, List.not_mem_nil, or_false]
    by_cases hll : lanes.getLsbD l = true
    · by_cases h1 : n = w.wb + d.toNat + 1
      · rw [if_pos ⟨h1, hll⟩, if_pos ⟨.inr h1, hll⟩, h1, hv1 l hl hll]
      · by_cases h0 : n = w.wb + d.toNat
        · rw [if_neg (fun c => h1 c.1), if_pos ⟨h0, hll⟩, if_pos ⟨.inl h0, hll⟩, h0, hv0 l hl hll]
        · rw [if_neg (fun c => h1 c.1), if_neg (fun c => h0 c.1), if_neg (fun c => c.1.elim h0 h1)]
    · rw [if_neg (fun c => hll c.2), if_neg (fun c => hll c.2), if_neg (fun c => hll c.2)]
  · intro n
    rw [hs, h2]
    rfl
  · intro b
    rw [h2]
    simp [hf]
  · intro l _
    rw [h2, hb, ite_self]
    rfl

/-- Changing the fibres of the guarded lanes. -/
theorem acts_mapFibs {e : Effect} {iss : Issue} {lanes : Word} {w : Wave} (f : Nat → Fibre → Fibre) (hr : e.regs w = [])
    (hs : e.scalars iss lanes w = []) (hf : ∀ l, e.flags lanes w l = 0) (hb : ∀ l x, l < 32 → e.fibre iss lanes w l x = f l x) :
    Acts e iss lanes w (w.mapFibs lanes f) := by
  obtain ⟨fs, h⟩ := mapFibs_eq w lanes f
  refine ⟨⟨w.regs, w.scalars, w.fsr, fs, h⟩, ?_, ?_, ?_, ?_⟩
  · intro n l _
    rw [hr, h]
    simp
    rfl
  · intro n
    rw [hs, h]
    rfl
  · intro b
    rw [h]
    simp [hf]
  · intro l hl
    rw [mapFibs_fib w lanes f l hl, hb l _ hl]

/-- Writing one scalar register. -/
theorem acts_sset {e : Effect} {iss : Issue} {lanes : Word} {w : Wave} (d : Nat) (v : Word) (hr : e.regs w = [])
    (hs : e.scalars iss lanes w = [(w.sb + d, v)]) (hf : ∀ l, e.flags lanes w l = 0) (hb : ∀ l x, e.fibre iss lanes w l x = x) :
    Acts e iss lanes w (w.sset d v) := by
  refine ⟨⟨w.regs, _, w.fsr, w.fibres, rfl⟩, ?_, ?_, ?_, ?_⟩
  · intro n l _
    rw [hr]
    simp
    rfl
  · intro n
    rw [hs]
    show SMap.get _ _ n = _
    rw [show (w.sset d v).scalars = w.scalars.put (w.sb + d) v from rfl, SMap.get_put, SMap.find?_cons]
    by_cases h : n = w.sb + d
    · rw [if_pos h, if_pos h.symm]; rfl
    · rw [if_neg h, if_neg (Ne.symm h)]; rfl
  · intro b
    show w.fsr.getLsbD b = true ↔ _
    simp [hf]
  · intro l _
    rw [hb, ite_self]
    rfl

/-- An instruction that has no part of its own. -/
theorem acts_nothing {e : Effect} {iss : Issue} {lanes : Word} {w : Wave} (hr : e.regs w = [])
    (hs : e.scalars iss lanes w = []) (hf : ∀ l, e.flags lanes w l = 0) (hb : ∀ l x, e.fibre iss lanes w l x = x) : Acts e iss lanes w w := by
  refine ⟨⟨w.regs, w.scalars, w.fsr, w.fibres, rfl⟩, ?_, ?_, ?_, ?_⟩
  · intro n l _
    rw [hr]
    simp
  · intro n
    rw [hs]
    rfl
  · intro b
    simp [hf]
  · intro l _
    rw [hb, ite_self]

/-! ### Tag checks -/

theorem firstLane_none {m : Word} {p : Nat → Bool} (h : ∀ l, l < 32 → m.getLsbD l = true → p l = false) : firstLane m p = none := by
  unfold firstLane
  rw [List.find?_eq_none]
  intro l hl
  have := mem_lanesOf.1 hl
  rw [h l this.1 this.2]
  exact Bool.false_ne_true

theorem checkSrc_none {f : BitVec 7} {t : BitVec 6} {w : Wave} {m : Word} (h : tagged f t w m) : checkSrc f t w m = none := by
  unfold checkSrc
  apply firstLane_none
  intro l hl hm
  rcases h l hl hm with h | h <;> simp [tagFixed, h]

theorem checkGrp_none {f : BitVec 7} {k : Nat} {t : BitVec 6} {w : Wave} {m : Word} (h : groupTagged f k t w m) :
    checkGrp f k t w m = none := by
  unfold checkGrp
  apply firstLane_none
  intro l hl hm
  rw [List.any_eq_false]
  intro j hj
  rcases h l j hl hm (List.mem_range.1 hj) with h | h <;> simp [tagFixed, h]

theorem allChecks_none {cs : List (Wave → Word → Option Nat)} {w : Wave} {m : Word} (h : ∀ c ∈ cs, c w m = none) :
    allChecks cs w m = none := by
  unfold allChecks
  induction cs with
  | nil => rfl
  | cons c cs ih =>
    rw [List.foldl_cons, h c (List.mem_cons_self ..)]
    exact ih (fun c hc => h c (List.mem_cons_of_mem _ hc))

end Sys2Proof.Machine
end

