-- ==== Sys2Proof/Laws/Vector.lean ====
section
/-! SUPPORT. What each shared operation of the register instructions does when its issue executes (04 R112; 05 R142). -/

namespace Sys2Proof.Machine

set_option Elab.async false

theorem keepOf_abd (h : BitVec 2) (d a b : BitVec 7) (w w1 w' : Wave) (hr : w'.regs = w1.regs) (hb : w'.wb = w1.wb) (hu : w'.uid = w1.uid)
    (he : w'.epoch = w1.epoch) :
    holdValue h (fun w => w.src a) (fun w => w.src b) (resultOf d) w w1 =
      keepOf h (fun w => w.src a) (fun w => w.src b) (fun w => w.grp d 0) w w' := by
  unfold holdValue keepOf resultOf Wave.grp Wave.cell Wave.undefined
  simp only [hr, hb, hu, he]

theorem keepOf_d (h : BitVec 2) (d : BitVec 7) (w w1 w' : Wave) (h0 : h = 0 ∨ h = 3) (hr : w'.regs = w1.regs) (hb : w'.wb = w1.wb)
    (hu : w'.uid = w1.uid) (he : w'.epoch = w1.epoch) :
    holdValue h (resultOf d) (resultOf d) (resultOf d) w w1 =
      keepOf h (fun w => w.grp d 0) (fun w => w.grp d 0) (fun w => w.grp d 0) w w' := by
  unfold holdValue keepOf resultOf Wave.grp Wave.cell Wave.undefined
  rcases h0 with rfl | rfl <;> simp [hr, hb, hu, he]

theorem completes_vec2 {i : Instr} {f : Word → Word → Word} {d a b : BitVec 7} {g h : BitVec 2} (hx : exec i = vec2 f d a b g h)
    (v : Wave → Nat → LCell) (hv : ∀ w l, ⟨f (w.src a l).val (w.src b l).val, 0⟩ = v w l) : Completes i (vecABD d a b g h v) := by
  refine completes_runHold hx rfl rfl rfl rfl (fun _ => rfl) rfl (fun _ _ _ => rfl) (fun iss lanes w _ => ?_)
    (fun w w1 w' hr hb hu he => keepOf_abd h d a b w w1 w' hr hb hu he)
  exact acts_writeField d _ rfl (fun l _ _ => (hv w l).symm) rfl (fun _ => rfl) (fun _ _ => rfl)

theorem completes_vec1 {i : Instr} {f : Word → Word} {d a : BitVec 7} {g h : BitVec 2} (hx : exec i = vec1 f d a g h) (hh : h ≠ 2)
    (v : Wave → Nat → LCell) (hv : ∀ w l, ⟨f (w.src a l).val, 0⟩ = v w l) : Completes i (vecAD d a g h v) := by
  refine completes_runHold hx rfl rfl rfl (beq_false_of_ne hh) (fun _ => rfl) rfl (fun _ _ _ => rfl) (fun iss lanes w _ => ?_)
    (fun w w1 w' hr hb hu he => keepOf_abd h d a a w w1 w' hr hb hu he)
  exact acts_writeField d _ rfl (fun l _ _ => (hv w l).symm) rfl (fun _ => rfl) (fun _ _ => rfl)

theorem completes_vec0 {i : Instr} {f : Wave → Nat → Word} {d : BitVec 7} {g h : BitVec 2} (hx : exec i = vec0 f d g h)
    (hh : h = 0 ∨ h = 3) (v : Wave → Nat → LCell) (hv : ∀ w l, ⟨f w l, 0⟩ = v w l) : Completes i (vecD d g h v) := by
  refine completes_runHold hx rfl rfl rfl (by rcases hh with rfl | rfl <;> rfl) (fun _ => rfl) rfl (fun _ _ _ => rfl)
    (fun iss lanes w _ => ?_) (fun w w1 w' hr hb hu he => keepOf_d h d w w1 w' hh hr hb hu he)
  exact acts_writeField d _ rfl (fun l _ _ => (hv w l).symm) rfl (fun _ => rfl) (fun _ _ => rfl)

theorem completes_vecImm {i : Instr} {f : Word → Word → Word} {d a : BitVec 7} {imm : Issue → Word} (hx : exec i = vecImm f d a imm)
    (v : Issue → Wave → Nat → Word) (hv : ∀ iss w l, f (w.grp a 0 l).val (imm iss) = v iss w l) : Completes i (immAD d a v) := by
  refine completes_runWave hx rfl rfl rfl rfl (fun _ => rfl) rfl (fun _ _ _ => rfl) (fun iss lanes w _ => ?_) (fun _ _ => rfl)
  refine acts_writeField d _ rfl (fun l _ _ => ?_) rfl (fun _ => rfl) (fun _ _ => rfl)
  rw [hv]
  rfl

theorem completes_scl2 {i : Instr} {f : Word → Word → Word} {d a b : BitVec 7} (hx : exec i = scl2 f d a b)
    (v : Issue → Wave → Word) (hv : ∀ iss w, f (w.sget a.toNat) (w.sget b.toNat) = v iss w) :
    Completes i (scalarABD d [a, b] v (fun _ => 0)) := by
  refine completes_runWave hx rfl rfl rfl rfl (fun _ => rfl) rfl (fun _ _ _ => rfl) (fun iss lanes w _ => ?_) (fun _ _ => rfl)
  exact acts_sset d.toNat _ rfl (by show [(_, v iss w)] = _; rw [hv]) (fun _ => rfl) (fun _ _ => rfl)

/-- The lowest set lane of a mask that has one. -/
theorem exists_lane {m : Word} (h : m ≠ 0) : ∃ l, l < 32 ∧ m.getLsbD l = true := by
  by_contra hc
  apply h
  apply BitVec.eq_of_getLsbD_eq
  intro i hi
  have : ¬ (m.getLsbD i = true) := fun hm => hc ⟨i, hi, hm⟩
  simpa using this

/-- Raising the flags of a scalar operation: every lane of the issue stands for it. -/
theorem Acts.raiseOnce {e : Effect} {iss : Issue} {lanes : Word} {w w1 : Wave} {fl : Wave → Flags} (hl : lanes ≠ 0)
    (h : Acts { e with flags := fun _ _ _ => 0 } iss lanes w w1) (he : e.flags = fun _ w _ => fl w) : Acts e iss lanes w (w1.raise (fl w)) := by
  refine Acts.raise (fl w) h he (fun b => ⟨fun hb => ?_, fun ⟨_, _, _, hb⟩ => hb⟩)
  obtain ⟨l, h1, h2⟩ := exists_lane hl
  exact ⟨l, h1, h2, hb⟩

theorem completes_sfp2 {i : Instr} {f : RM → Word → Word → Word × Flags} {d a b : BitVec 7} (hx : exec i = sfp2 f d a b)
    (r : Wave → Word × Flags) (hr : ∀ w, f w.rm (w.sget a.toNat) (w.sget b.toNat) = r w) : Completes i (scalarFloat d [a, b] r) := by
  refine completes_runWave hx rfl rfl rfl rfl (fun _ => rfl) rfl (fun _ _ _ => rfl) (fun iss lanes w hl => ?_) (fun _ _ => rfl)
  simp only [hr]
  exact Acts.raiseOnce (fl := fun w => (r w).2) hl
    (acts_sset d.toNat _ rfl rfl (fun _ => rfl) (fun _ _ => rfl)) rfl

theorem completes_sfp1 {i : Instr} {f : RM → Word → Word × Flags} {d a : BitVec 7} (hx : exec i = sfp1 f d a)
    (r : Wave → Word × Flags) (hr : ∀ w, f w.rm (w.sget a.toNat) = r w) : Completes i (scalarFloat d [a] r) := by
  refine completes_runWave hx rfl rfl rfl rfl (fun _ => rfl) rfl (fun _ _ _ => rfl) (fun iss lanes w hl => ?_) (fun _ _ => rfl)
  simp only [hr]
  exact Acts.raiseOnce (fl := fun w => (r w).2) hl
    (acts_sset d.toNat _ rfl rfl (fun _ => rfl) (fun _ _ => rfl)) rfl

theorem both_none {p q : Wave → Word → Option Nat} {w : Wave} {m : Word} (hp : p w m = none) (hq : q w m = none) :
    allChecks [p, q] w m = none :=
  allChecks_none (by intro c hc; simp only [List.mem_cons, List.not_mem_nil, or_false] at hc; rcases hc with rfl | rfl <;> assumption)

theorem three_none {p q r : Wave → Word → Option Nat} {w : Wave} {m : Word} (hp : p w m = none) (hq : q w m = none) (hr : r w m = none) :
    allChecks [p, q, r] w m = none :=
  allChecks_none (by intro c hc; simp only [List.mem_cons, List.not_mem_nil, or_false] at hc; rcases hc with rfl | rfl | rfl <;> assumption)

theorem completes_fp2 {i : Instr} {t : BitVec 6} {f : RM → Word → Word → Word × Flags} {d a b : BitVec 7} {g h : BitVec 2}
    (hx : exec i = fp2 t f d a b g h) (r : Wave → Word → Word → Word → Word × Flags) (hr : ∀ w x y, f w.rm x y = r w x y 0) :
    Completes i (floatABD t t d a b g h r) := by
  refine completes_runHold hx rfl rfl rfl rfl (fun _ => rfl) rfl
    (fun w lanes ht => both_none (checkSrc_none ht.1) (checkSrc_none ht.2)) (fun iss lanes w _ => ?_)
    (fun w w1 w' hr hb hu he => keepOf_abd h d a b w w1 w' hr hb hu he)
  simp only [hr]
  refine Acts.raise (fl := (floatABD t t d a b g h r).flags) _ ?_ rfl (fun b => flagsOver_getLsbD _ _ b)
  exact acts_writeField d _ rfl (fun l _ _ => rfl) rfl (fun _ => rfl) (fun _ _ => rfl)

theorem completes_fp3 {i : Instr} {t tc : BitVec 6} {f : RM → Word → Word → Word → Word × Flags} {d a b : BitVec 7} {g h : BitVec 2}
    (hx : exec i = fp3 t tc f d a b g h) (r : Wave → Word → Word → Word → Word × Flags) (hr : ∀ w x y c, f w.rm x y c = r w x y c) :
    Completes i (floatABDC t tc d a b g h r) := by
  refine completes_runHold hx rfl rfl rfl rfl (fun _ => rfl) rfl
    (fun w lanes ht => three_none (checkSrc_none ht.1) (checkSrc_none ht.2.1) (checkGrp_none ht.2.2)) (fun iss lanes w _ => ?_)
    (fun w w1 w' hr hb hu he => keepOf_abd h d a b w w1 w' hr hb hu he)
  simp only [hr]
  refine Acts.raise (fl := (floatABDC t tc d a b g h r).flags) _ ?_ rfl (fun b => flagsOver_getLsbD _ _ b)
  exact acts_writeField d _ rfl (fun l _ _ => rfl) rfl (fun _ => rfl) (fun _ _ => rfl)

theorem completes_fp1 {i : Instr} {f : RM → Word → Word × Flags} {d a : BitVec 7} {g h : BitVec 2} (hx : exec i = fp1 f d a g h)
    (hh : h ≠ 2) (r : Wave → Word → Word × Flags) (hr : ∀ w x, f w.rm x = r w x) : Completes i (floatAD d a g h r) := by
  refine completes_runHold hx rfl rfl rfl (beq_false_of_ne hh) (fun _ => rfl) rfl
    (fun w lanes ht => checkSrc_none ht) (fun iss lanes w _ => ?_)
    (fun w w1 w' hr hb hu he => keepOf_abd h d a a w w1 w' hr hb hu he)
  simp only [hr]
  refine Acts.raise (fl := (floatAD d a g h r).flags) _ ?_ rfl (fun b => flagsOver_getLsbD _ _ b)
  exact acts_writeField d _ rfl (fun l _ _ => rfl) rfl (fun _ => rfl) (fun _ _ => rfl)

end Sys2Proof.Machine
end

