-- ==== Sys2Proof/Laws/Counted.lean ====
section
/-! SUPPORT. Instructions that count an operation, and those that write a group of registers (01 R44; 05 R164, R173; 06 R183). -/

namespace Sys2Proof.Machine

set_option Elab.async false

theorem count_eq (w : Wave) (c : Ctr) (o : Op) : ∃ ld st cp tx, w.count c o = { w with ld := ld, st := st, cp := cp, tx := tx } ∧
    ld = (if c = .ld then w.ld ++ [o] else w.ld) ∧ st = (if c = .st then w.st ++ [o] else w.st) ∧
    cp = (if c = .cp then w.cp ++ [o] else w.cp) ∧ tx = (if c = .tx then w.tx ++ [o] else w.tx) := by
  cases c <;> exact ⟨_, _, _, _, rfl, rfl, rfl, rfl, rfl⟩

/-- An issue that counts an operation and keeps nothing, said in the terms of Safety. -/
theorem Acts.retireCounted {e : Effect} {iss : Issue} {lanes : Word} {w w1 : Wave} (A : Acts e iss lanes w w1)
    (hle : ∀ l, lanes.getLsbD l = true → iss.batch.getLsbD l = true) (hk : ∀ w w', e.keep w w' = none) (c : Ctr) (o : Op) (s : State)
    (haf : e.after = (fun _ _ _ _ f => f)) :
    ∃ w', s.retire iss ((w1.count c o).finish iss) = s.setWave iss.wave w' ∧ SameWave w w' ∧ Counts c o w w' ∧ Does e iss lanes w w' := by
  obtain ⟨rs, ss, fr, fs, e1⟩ := A.only
  obtain ⟨ld, st, cp0, tx0, e2, hld, hst, hcp, htx⟩ := count_eq w1 c o
  obtain ⟨fs', hf⟩ := finish_eq (w1.count c o) iss
  have hfib := fun l hl => finish_fib (w1.count c o) iss l hl
  have hent := finish_entry (w1.count c o) iss
  generalize (w1.count c o).finish iss = w3 at *
  have hf1 (l : Nat) : (w1.count c o).fib l = w1.fib l := by rw [e2]; rfl
  have hw (k : Nat) : (w1.count c o).entry k = w.entry k := by rw [e2, e1]; rfl
  rw [e2] at hf
  obtain ⟨r, sk, cp, tx, wt, h1, h2⟩ := retire_cases s iss w3
  refine ⟨_, by rw [h1], ?_, ?_, ?_, ?_, ?_, ?_, ?_⟩
  · rw [hf] at h2 ⊢
    subst e1
    exact ⟨rfl, rfl, rfl, rfl, rfl, rfl, rfl, rfl, rfl, rfl, rfl, rfl, rfl, fun hrun => (h2 hrun).1⟩
  · rw [hf] at h2 ⊢
    subst e1
    refine ⟨fun h => ?_, fun h => ?_, fun h => ?_, fun h => ?_, fun hrun => ⟨?_, ?_⟩⟩
    · exact hld.trans (if_pos h)
    · exact hst.trans (if_pos h)
    · exact hld.trans (if_neg h)
    · exact hst.trans (if_neg h)
    · exact (h2 hrun).2.1.trans hcp
    · exact (h2 hrun).2.2.1.trans htx
  · intro n l hl
    rw [← A.cells n l hl, hf]
    rfl
  · intro n
    rw [← A.scalars n, hf]
    rfl
  · intro b
    rw [hf]
    exact A.flags b
  · intro l hl
    have := hfib l hl
    rw [hf1, A.fibres l hl] at this
    rw [haf]
    by_cases hbl : iss.batch.getLsbD l = true
    · rw [if_pos hbl] at this ⊢
      exact this
    · rw [if_neg hbl] at this ⊢
      have hnl : lanes.getLsbD l = false := by
        cases hll : lanes.getLsbD l with
        | false => rfl
        | true => exact absurd (hle l hll) hbl
      rw [hnl] at this
      exact this
  · rw [hk]
    refine ⟨?_, fun k => ?_⟩
    · rw [hf, e1]
      rfl
    · have := hent k
      rw [hw] at this
      have h3 := congrArg LatchEntry.lanes this
      have h4 := congrArg LatchEntry.count this
      exact ⟨h3, h4⟩

/-- Putting back a wave that is already as an effect says. -/
theorem Does.retire {e : Effect} {iss : Issue} {lanes : Word} {w w2 : Wave} (D : Does e iss lanes w w2)
    (only : ∃ rs ss fr fs la lp wt, w2 = { w with regs := rs, scalars := ss, fsr := fr, fibres := fs, latch := la, lp := lp, wait := wt })
    (hk : ∀ w w', e.keep w w' = none) (t : State) :
    ∃ w', t.retire iss w2 = t.setWave iss.wave w' ∧ SameWave w w' ∧ SameCounters w w' ∧ Does e iss lanes w w' := by
  obtain ⟨rs, ss, fr, fs, la, lp, wt, e2⟩ := only
  obtain ⟨r, sk, cp, tx, wt', h1, h2⟩ := retire_cases t iss w2
  refine ⟨_, h1, ?_, ?_, ?_⟩
  · rw [e2] at h2 ⊢
    exact ⟨rfl, rfl, rfl, rfl, rfl, rfl, rfl, rfl, rfl, rfl, rfl, rfl, rfl, fun h => (h2 h).1⟩
  · rw [e2] at h2 ⊢
    exact ⟨rfl, rfl, fun h => ⟨(h2 h).2.1, (h2 h).2.2.1⟩⟩
  · obtain ⟨D1, D2, D3, D4, D5⟩ := D
    refine ⟨D1, D2, D3, D4, ?_⟩
    rw [hk] at D5 ⊢
    exact D5

/-- The wave of an issue that has no part of its own: only its latch has aged and its batch has moved on. -/
theorem does_finish (iss : Issue) (lanes : Word) (w : Wave) : Does {} iss lanes w (w.finish iss) := by
  obtain ⟨fs, h⟩ := finish_eq w iss
  refine ⟨fun n l _ => ?_, fun n => ?_, fun b => ?_, fun l hl => ?_, ?_, fun k => ?_⟩
  · rw [h]; simp; rfl
  · rw [h]; rfl
  · rw [h]; simp; rfl
  · rw [finish_fib w iss l hl]; simp
  · rw [h]; rfl
  · rw [finish_entry]; exact ⟨rfl, rfl⟩

/-- Writing k registers from number n on: register n + j holds f j in the lanes of the mask (01 R38). -/
theorem writeRegs_eq (n k : Nat) (m : Word) (f : Nat → Nat → LCell) (w : Wave) :
    ∃ rs, (List.range k).foldl (fun w' j => w'.writeReg (n + j) m (f j)) w = { w with regs := rs } := by
  induction k with
  | zero => exact ⟨w.regs, rfl⟩
  | succ k ih =>
    obtain ⟨rs, h⟩ := ih
    rw [List.range_succ, List.foldl_append, h]
    exact writeReg_eq _ _ _ _

theorem writeRegs_cell (n k : Nat) (m : Word) (f : Nat → Nat → LCell) (w : Wave) (r l : Nat) (hl : l < 32) :
    ((List.range k).foldl (fun w' j => w'.writeReg (n + j) m (f j)) w).cell (cellAt r l) =
      if (n ≤ r ∧ r < n + k) ∧ m.getLsbD l then ⟨(f (r - n) l).val, (f (r - n) l).tag, false⟩ else w.cell (cellAt r l) := by
  induction k with
  | zero => rw [if_neg (fun h => by have := h.1; omega)]; rfl
  | succ k ih =>
    rw [List.range_succ, List.foldl_append, List.foldl_cons, List.foldl_nil, writeReg_cell _ _ _ _ _ _ hl, ih]
    by_cases hm : m.getLsbD l = true
    · by_cases h : r = n + k
      · rw [if_pos ⟨h, hm⟩, if_pos ⟨by omega, hm⟩, h, Nat.add_sub_cancel_left]
      · rw [if_neg (fun c => h c.1)]
        by_cases h2 : n ≤ r ∧ r < n + k
        · rw [if_pos ⟨h2, hm⟩, if_pos ⟨by omega, hm⟩]
        · rw [if_neg (fun c => h2 c.1), if_neg (fun c => by have := c.1; omega)]
    · rw [if_neg (fun c => hm c.2), if_neg (fun c => hm c.2), if_neg (fun c => hm c.2)]

/-- Writing a group of k registers from field d on. -/
theorem acts_writeRegs {e : Effect} {iss : Issue} {lanes : Word} {w : Wave} (d : BitVec 7) (k : Nat) (f : Nat → Nat → LCell)
    (hr : e.regs w = (List.range k).map (fun j => w.wb + d.toNat + j))
    (hv : ∀ j l, l < 32 → j < k → lanes.getLsbD l = true → e.val iss lanes w (w.wb + d.toNat + j) l = f j l)
    (hs : e.scalars iss lanes w = []) (hf : ∀ l, e.flags lanes w l = 0) (hb : ∀ l x, e.fibre iss lanes w l x = x)
    (he : e.empty = false := by rfl) :
    Acts e iss lanes w ((List.range k).foldl (fun w' j => w'.writeReg (w.wb + d.toNat + j) lanes (f j)) w) := by
  obtain ⟨rs, h⟩ := writeRegs_eq (w.wb + d.toNat) k lanes f w
  refine ⟨⟨rs, w.scalars, w.fsr, w.fibres, h⟩, ?_, ?_, ?_, ?_⟩
  · intro n l hl
    rw [writeRegs_cell _ _ _ _ _ n l hl, hr, he]
    by_cases hm : lanes.getLsbD l = true
    · by_cases h2 : w.wb + d.toNat ≤ n ∧ n < w.wb + d.toNat + k
      · obtain ⟨j, rfl⟩ : ∃ j, n = w.wb + d.toNat + j := ⟨n - (w.wb + d.toNat), by omega⟩
        rw [if_pos ⟨h2, hm⟩, if_pos ⟨List.mem_map.2 ⟨j, List.mem_range.2 (by omega), rfl⟩, hm⟩, hv j l hl (by omega) hm,
          Nat.add_sub_cancel_left]
      · rw [if_neg (fun c => h2 c.1), if_neg]
        rintro ⟨h3, -⟩
        obtain ⟨j, hj, rfl⟩ := List.mem_map.1 h3
        have := List.mem_range.1 hj
        omega
    · rw [if_neg (fun c => hm c.2), if_neg (fun c => hm c.2)]
  · intro n
    rw [hs, h]
    rfl
  · intro b
    rw [h]
    simp [hf]
  · intro l _
    rw [h, hb, ite_self]
    rfl

/-! ### Instructions that act outside their wave -/

/-- An instruction that counts an operation and whose own part, where it completes, acts on its wave as an effect says. -/
theorem completesIn_counted {i : Instr} {c : Ctr} {e : Effect} {out : Outside} {p : Pre} {body : State → Issue → Word → Wave → Out}
    (hx : exec i = Sys2Proof.Machine.runState p body) (hg : p.guard = e.guard)
    (hsub : ∀ o ∈ p.ops, o ∈ e.ops) (hl : p.tile = false) (hr : p.reserved = false)
    (hb : ∀ s iss w lanes, Issues s iss w e.guard e.ops false lanes e.reach → e.tags w lanes → p.badOperand w = false) (hc : p.counter = some c)
    (ht : ∀ w lanes, e.tags w lanes → p.tags w lanes = none) (hk : ∀ w w', e.keep w w' = none)
    (hbody : ∀ s iss lanes w t known, Issues s iss w e.guard e.ops false lanes e.reach → e.tags w lanes → out s iss lanes w = some (t, known) →
      ∃ o w1, Acts e iss lanes w w1 ∧ known o ∧ body s iss lanes w = .done (t.retire iss ((w1.count c o).finish iss)))
    (haf : e.after = (fun _ _ _ _ f => f) := by rfl)
    (hrc : p.reach = e.reach := by rfl) : CompletesIn i (some c) e out := by
  intro s iss w lanes t known h hcount htag hout
  obtain ⟨o, w1, A, ho, hdone⟩ := hbody s iss lanes w t known h htag hout
  have h' : Issues s iss w p.guard p.ops p.tile lanes p.reach := by
    refine ⟨h.issue, h.wave, ?_, h.someLane, fun o ho => h.legal o (hsub o ho), ?_, fun _ o ho => h.idle rfl o (hsub o ho), ?_⟩
    · rw [hg]
      exact h.passes
    · have := h.present
      unfold Wave.emptyIn at this ⊢
      rw [List.any_eq_false] at this ⊢
      exact fun o ho => this o (hsub o ho)
    · have := h.sound
      unfold State.spoiledLane at this ⊢
      split at this
      · rename_i hs
        rw [if_pos hs]
      · rename_i hs
        rw [if_neg hs]
        dsimp only at this ⊢
        rw [hrc]
        split at this
        · cases this
        · rename_i hq
          rw [if_neg hq]
          unfold firstLane at this ⊢
          rw [List.find?_eq_none] at this ⊢
          intro l hl
          have := this l hl
          rw [Bool.not_eq_true, List.any_eq_false] at this ⊢
          exact fun o ho => this o (hsub o ho)
  have hn := h'.runState hr (hb s iss w lanes h htag) (by rw [hc]; intro c' hc'; cases hc'; exact hcount c rfl) (ht w lanes htag) body
  obtain ⟨w', h1, h2, h3, h4⟩ := A.retireCounted h.lanes_le hk c o t haf
  refine ⟨w', ?_, h2, h4, o, h3, ho⟩
  rw [hx, hn, hdone]
  simp only [h1]

/-- The lanes and the elements that pass the checks of an access, in order (06 R178). -/
theorem checkElems_length (s : State) (k : Nat) (w : Wave) (lane : Nat) (acc : Access) (as : List Addr) (s1 : State) (ps : List Place)
    (h : s.checkElems k w lane acc as = (s1, .ok ps)) : ps.length = as.length := by
  unfold State.checkElems at h
  have key : ∀ (as : List Addr) (s : State) (r : Except Bust (List Place)) (s1 : State) (ps : List Place),
      as.foldl (fun (r : State × Except Bust (List Place)) a =>
        match r.1.checkElem k w lane acc a, r.2 with
        | (s1, .ok p), .ok ps => (s1, .ok (ps ++ [p]))
        | (s1, .ok _), .error b => (s1, .error b)
        | (s1, .error b), .ok _ => (s1, .error b)
        | (s1, .error b), .error b0 => (s1, .error (if b.cause.step < b0.cause.step then b else b0))) (s, r) = (s1, .ok ps) →
      ∃ ps0, r = .ok ps0 ∧ ps.length = ps0.length + as.length := by
    intro as
    induction as with
    | nil =>
      intro s r s1 ps h
      rw [List.foldl_nil] at h
      cases h
      exact ⟨ps, rfl, rfl⟩
    | cons a as ih =>
      intro s r s1 ps h
      rw [List.foldl_cons] at h
      rcases hc : s.checkElem k w lane acc a with ⟨s2, p | p⟩ <;> rcases r with b | ps0 <;> simp only [hc] at h <;>
        obtain ⟨ps1, h1, h2⟩ := ih _ _ _ _ h
      · cases h1
      · cases h1
      · cases h1
      · cases h1
        refine ⟨ps0, rfl, ?_⟩
        rw [h2, List.length_append, List.length_cons, List.length_cons, List.length_nil]
        omega
  obtain ⟨ps0, h1, h2⟩ := key as s _ s1 ps h
  cases h1
  rw [h2]
  simp

theorem checkLanes_shape (k : Nat) (w : Wave) (acc : Access) (addrs : Nat → List Addr) (ls : List Nat) :
    ∀ (s : State) (got0 : List (Nat × List Place)) (s1 : State) (got : List (Nat × List Place)),
      s.checkLanes k w acc addrs ls got0 = (s1, .ok got) →
      ∃ more, got = got0 ++ more ∧ more.map Prod.fst = ls ∧ ∀ g ∈ more, g.2.length = (addrs g.1).length := by
  induction ls with
  | nil =>
    intro s got0 s1 got h
    unfold State.checkLanes at h
    cases h
    exact ⟨[], (List.append_nil _).symm, rfl, fun g hg => by cases hg⟩
  | cons l ls ih =>
    intro s got0 s1 got h
    unfold State.checkLanes at h
    rcases hc : s.checkElems k w l acc (addrs l) with ⟨s2, b | ps⟩ <;> rw [hc] at h
    · cases h
    · obtain ⟨more, h1, h2, h3⟩ := ih _ _ _ _ h
      refine ⟨(l, ps) :: more, ?_, ?_, ?_⟩
      · rw [h1, List.append_assoc]
        rfl
      · rw [List.map_cons, h2]
      · intro g hg
        rcases List.mem_cons.1 hg with rfl | hg
        · exact checkElems_length _ _ _ _ _ _ _ _ hc
        · exact h3 g hg

theorem setEmpty_eq (cells : List Nat) (w : Wave) : ∃ rs, w.setEmpty cells = { w with regs := rs } := by
  unfold Wave.setEmpty
  induction cells generalizing w with
  | nil => exact ⟨w.regs, rfl⟩
  | cons c cells ih =>
    obtain ⟨rs, h⟩ := ih (w.setCell c { w.cell c with empty := true })
    exact ⟨rs, h⟩

theorem setEmpty_cell (cells : List Nat) (w : Wave) (i : Nat) :
    (w.setEmpty cells).cell i = if i ∈ cells then { w.cell i with empty := true } else w.cell i := by
  unfold Wave.setEmpty
  induction cells generalizing w with
  | nil => simp
  | cons c cells ih =>
    rw [List.foldl_cons, ih, setCell_cell]
    by_cases h : i = c
    · subst h
      simp
    · simp [h]

/-- Marking the registers of a load EMPTY. -/
theorem acts_setEmpty {e : Effect} {iss : Issue} {lanes : Word} {w : Wave} (cells : List Nat) (he : e.empty = true)
    (hv : ∀ n l, e.val iss lanes w n l = ⟨(w.cell (cellAt n l)).val, (w.cell (cellAt n l)).tag⟩)
    (hm : ∀ n l, l < 32 → (cellAt n l ∈ cells ↔ n ∈ e.regs w ∧ lanes.getLsbD l = true)) (hs : e.scalars iss lanes w = [])
    (hf : ∀ l, e.flags lanes w l = 0) (fs : SMap Fibre)
    (hb : ∀ l, l < 32 → SMap.get fs Fibre.dead l = if lanes.getLsbD l then e.fibre iss lanes w l (w.fib l) else w.fib l) :
    Acts e iss lanes w { w.setEmpty cells with fibres := fs } := by
  obtain ⟨rs, h⟩ := setEmpty_eq cells w
  refine ⟨⟨rs, w.scalars, w.fsr, fs, by rw [h]⟩, ?_, ?_, ?_, ?_⟩
  · intro n l hl
    show (w.setEmpty cells).cell _ = _
    rw [setEmpty_cell, hv, he]
    by_cases hc : n ∈ e.regs w ∧ lanes.getLsbD l = true
    · rw [if_pos ((hm n l hl).2 hc), if_pos hc]
    · rw [if_neg (fun h => hc ((hm n l hl).1 h)), if_neg hc]
  · intro n
    rw [hs, h]
    rfl
  · intro b
    rw [h]
    simp [hf]
  · intro l hl
    exact hb l hl

/-- A tile instruction whose own part acts as an effect says. -/
theorem tileCompletes {i : Instr} {d : BitVec 7} {n : Nat} {e : Effect} {p : Pre} {f : Word → Wave → Wave}
    (hx : exec i = runTile p d n f) (hpg : p.guard = none) (hg : e.guard = none) (ho : p.ops = e.ops) (hl : p.tile = true)
    (hr : p.reserved = false) (hb : ∀ w, p.badOperand w = false) (hc : p.counter = some .tx)
    (ht : ∀ w lanes, e.tags w lanes → p.tags w lanes = none) (ha : ∀ iss lanes w, lanes ≠ 0 → Acts e iss lanes w (f lanes w))
    (hk : ∀ w w', e.keep w w' = none)
    (haf : e.after = (fun _ _ _ _ f => f) := by rfl)
    (hrc : p.reach = e.reach := by rfl) : TileCompletes i d n e := by
  intro s iss w lanes h hcount htag
  have hle := h.lanes_le
  have hn := h.someLane
  rw [← ho, ← hl, ← hpg, ← hrc] at h
  have := h.runState hr (hb w) (by rw [hc]; intro c hc'; cases hc'; exact hcount) (ht w lanes htag)
    (fun s iss batch w => .done (s.issueTile iss (f batch w) d n))
  rw [hx]
  unfold runTile
  rw [this]
  obtain ⟨rs, ss, fr, fs, e1⟩ := (ha iss lanes w hn).only
  obtain ⟨w', h1, h2, h3, h4⟩ := (ha iss lanes w hn).retireCounted hle hk .tx
    { Op.nothing s.fresh .tile iss with busy := (List.range n).map (fun j => (f lanes w).wb + d.toNat + j), done := false } s.tick1 haf
  refine ⟨w', _, ?_, h2, h3, h4, rfl, rfl, ?_⟩
  · show Host.Outcome.next (s.issueTile iss (f lanes w) d n) = _
    unfold State.issueTile
    rw [h1]
  · rw [e1]

end Sys2Proof.Machine
end

