-- ==== Sys2Proof/Laws/Encoding.lean ====
section
/-! SUPPORT. Reading back the fields of a placed word: what the encoder writes is what the decoder reads (03 R83 to R97). -/

namespace Sys2Proof.Laws

/-- Four bytes of a word, put together again, are the word (00 R3). -/
theorem wordOfBytes_bytes (w : Word) :
    wordOfBytes (BitVec.ofNat 8 (w.toNat / 256 ^ 0)) (BitVec.ofNat 8 (w.toNat / 256 ^ 1)) (BitVec.ofNat 8 (w.toNat / 256 ^ 2))
      (BitVec.ofNat 8 (w.toNat / 256 ^ 3)) = w := by
  apply BitVec.eq_of_toNat_eq
  have := w.isLt
  simp [wordOfBytes]
  omega

/-- A field is what division and remainder read. -/
theorem bitsAt_eq {lo n P Q : Nat} {w : Word} {x : BitVec n} (hP : 2 ^ lo = P) (hQ : 2 ^ n = Q) (h : w.toNat / P % Q = x.toNat) :
    bitsAt lo n w = x := by
  subst hP hQ
  apply BitVec.eq_of_toNat_eq
  simpa only [bitsAt, BitVec.extractLsb', BitVec.toNat_ofNat, Nat.shiftRight_eq_div_pow] using h

/-- A field holds a code. -/
theorem bitsAt_code {lo n c P Q : Nat} {w : Word} (hP : 2 ^ lo = P) (hQ : 2 ^ n = Q) (h : w.toNat / P % Q = c % Q) :
    bitsAt lo n w = BitVec.ofNat n c :=
  bitsAt_eq hP hQ (by rw [BitVec.toNat_ofNat, hQ]; exact h)

/-- A field differs from a code when division and remainder read something else. -/
theorem bitsAt_ne {lo n c P Q : Nat} {w : Word} (hP : 2 ^ lo = P) (hQ : 2 ^ n = Q) (h : w.toNat / P % Q ≠ c % Q) :
    bitsAt lo n w ≠ BitVec.ofNat n c := by
  intro e
  subst hP hQ
  have := congrArg BitVec.toNat e
  rw [BitVec.toNat_ofNat] at this
  exact h (by simpa only [bitsAt, BitVec.extractLsb', BitVec.toNat_ofNat, Nat.shiftRight_eq_div_pow] using this)

/-- A placed field. -/
theorem fld_eq {n : Nat} (x : BitVec n) (lo : Nat) {P : Nat} (hP : 2 ^ lo = P) : fld x lo = x.toNat * P := by rw [fld, hP]

/-- The first field of a sum. -/
theorem sum_field (x : Nat) (l : List Nat) : (x :: l).sum = x + l.sum := List.sum_cons

/-- No field. -/
theorem sum_none : ([] : List Nat).sum = 0 := rfl

/-- A word whose fields do not run over. -/
theorem wordOf_toNat (op : Nat) (fs : List Nat) {N : Nat} (h : op * 33554432 + fs.sum = N) (hN : N < 4294967296) :
    (wordOf op fs).toNat = N := by
  subst h
  simp only [wordOf, BitVec.toNat_ofNat]
  exact Nat.mod_eq_of_lt hN

/-- A field's value is below the power of its width. -/
theorem field_lt {n : Nat} (x : BitVec n) {P : Nat} (hP : 2 ^ n = P) : x.toNat < P := hP ▸ x.isLt

/-- A word that is no IMX and decodes is decoded from its bytes, whatever follows (03 R83). -/
theorem decode_one {w : Word} {i : Instr} (rest : List Byte) (hop : bitsAt 25 7 w ≠ 0x7F) (h : decodeWord w 0 = some i) :
    decode (bytesOf 4 w.toNat ++ rest) = .ok (i, rest) := by
  have e := wordOfBytes_bytes w
  show decode (_ :: _ :: _ :: _ :: rest) = _
  unfold decode
  simp only [e, h, if_neg hop]

/-- An IMX and any word after it are decoded together (03 R92). -/
theorem decode_two {w n : Word} (rest : List Byte) (hop : bitsAt 25 7 w = 0x7F) :
    decode (bytesOf 4 w.toNat ++ (bytesOf 4 n.toNat ++ rest)) = .ok (.imx (bitsAt 0 25 w) n, rest) := by
  have e := wordOfBytes_bytes w
  have f := wordOfBytes_bytes n
  show decode (_ :: _ :: _ :: _ :: _ :: _ :: _ :: _ :: rest) = _
  unfold decode
  simp only [e, f, if_pos hop]

/-- What is said of each instruction: the decoder reads it back from its bytes, and leaves the bytes after it. -/
def RoundTrip (i : Instr) : Prop := i.isWord = true → ∀ rest, decode (encodeBytes i ++ rest) = .ok (i, rest)

/-- The round trip of an instruction of one word, from the decoding of that word. -/
theorem roundTrip_one {i : Instr} {w : Word} {op : BitVec 7} (e : encode i = [w]) (ho : bitsAt 25 7 w = op) (h7 : op ≠ 0x7F)
    (h : decodeWord w 0 = some i) : RoundTrip i := by
  intro _ rest
  have : encodeBytes i = bytesOf 4 w.toNat := by simp [encodeBytes, e]
  rw [this]
  exact decode_one rest (by rw [ho]; exact h7) h

/-- The round trip of an IMX with its follower. -/
theorem roundTrip_imx (v : BitVec 25) (next : Word) : RoundTrip (.imx v next) := by
  intro _ rest
  have hv := field_lt v (P := 33554432) rfl
  have hw (op : Nat) (h : op < 128) : (wordOf op [fld v 0]).toNat = op * 33554432 + v.toNat :=
    wordOf_toNat _ _ (by rw [fld_eq v 0 rfl]; simp only [sum_field, sum_none]; omega) (by omega)
  have h0 : bitsAt 25 7 (wordOf 0x7F [fld v 0]) = BitVec.ofNat 7 0x7F :=
    bitsAt_code (P := 33554432) (Q := 128) rfl rfl (by rw [hw _ (by decide)]; omega)
  have h1 : bitsAt 0 25 (wordOf 0x7F [fld v 0]) = v :=
    bitsAt_eq (P := 1) (Q := 33554432) rfl rfl (by rw [hw _ (by decide)]; omega)
  have e : encodeBytes (.imx v next) = bytesOf 4 (wordOf 0x7F [fld v 0]).toNat ++ (bytesOf 4 next.toNat ++ []) := rfl
  rw [e, List.append_nil, List.append_assoc, decode_two rest h0, h1]

/-- An event has no words. -/
theorem roundTrip_event {i : Instr} (h : i.isWord = false) : RoundTrip i := by
  intro h'
  rw [h] at h'
  cases h'

/-- The fields of the words `iadd`, `iadds`, `isub` and their like. -/
theorem shape1 (op : Nat) (d : BitVec 7) (a : BitVec 7) (b : BitVec 7) (g : BitVec 2) (h : BitVec 2) (ho : op < 128) :
    bitsAt 25 7 (wordOf op [fld d 18, fld a 11, fld b 4, fld g 2, fld h 0]) = BitVec.ofNat 7 op ∧
    bitsAt 18 7 (wordOf op [fld d 18, fld a 11, fld b 4, fld g 2, fld h 0]) = d ∧
    bitsAt 11 7 (wordOf op [fld d 18, fld a 11, fld b 4, fld g 2, fld h 0]) = a ∧
    bitsAt 4 7 (wordOf op [fld d 18, fld a 11, fld b 4, fld g 2, fld h 0]) = b ∧
    bitsAt 2 2 (wordOf op [fld d 18, fld a 11, fld b 4, fld g 2, fld h 0]) = g ∧
    bitsAt 0 2 (wordOf op [fld d 18, fld a 11, fld b 4, fld g 2, fld h 0]) = h := by
  have := field_lt d (P := 128) rfl
  have := field_lt a (P := 128) rfl
  have := field_lt b (P := 128) rfl
  have := field_lt g (P := 4) rfl
  have := field_lt h (P := 4) rfl
  have hw : (wordOf op [fld d 18, fld a 11, fld b 4, fld g 2, fld h 0]).toNat = op * 33554432 + d.toNat * 262144 + a.toNat * 2048 + b.toNat * 16 + g.toNat * 4 + h.toNat * 1 :=
    wordOf_toNat _ _ (by rw [fld_eq d 18 (P := 262144) rfl, fld_eq a 11 (P := 2048) rfl, fld_eq b 4 (P := 16) rfl, fld_eq g 2 (P := 4) rfl, fld_eq h 0 (P := 1) rfl]; simp only [sum_field, sum_none]; omega) (by omega)
  exact ⟨bitsAt_code (P := 33554432) (Q := 128) rfl rfl (by rw [hw]; omega),
    bitsAt_eq (P := 262144) (Q := 128) rfl rfl (by rw [hw]; omega),
    bitsAt_eq (P := 2048) (Q := 128) rfl rfl (by rw [hw]; omega),
    bitsAt_eq (P := 16) (Q := 128) rfl rfl (by rw [hw]; omega),
    bitsAt_eq (P := 4) (Q := 4) rfl rfl (by rw [hw]; omega),
    bitsAt_eq (P := 1) (Q := 4) rfl rfl (by rw [hw]; omega)⟩

/-- The fields of the words `lea2`, `lea3`, `cadd` and their like. -/
theorem shape2 (op : Nat) (d : BitVec 7) (a : BitVec 7) (b : BitVec 7) (g : BitVec 2) (ho : op < 128) :
    bitsAt 25 7 (wordOf op [fld d 18, fld a 11, fld b 4, fld g 2]) = BitVec.ofNat 7 op ∧
    bitsAt 0 2 (wordOf op [fld d 18, fld a 11, fld b 4, fld g 2]) = BitVec.ofNat 2 0 ∧
    bitsAt 18 7 (wordOf op [fld d 18, fld a 11, fld b 4, fld g 2]) = d ∧
    bitsAt 11 7 (wordOf op [fld d 18, fld a 11, fld b 4, fld g 2]) = a ∧
    bitsAt 4 7 (wordOf op [fld d 18, fld a 11, fld b 4, fld g 2]) = b ∧
    bitsAt 2 2 (wordOf op [fld d 18, fld a 11, fld b 4, fld g 2]) = g := by
  have := field_lt d (P := 128) rfl
  have := field_lt a (P := 128) rfl
  have := field_lt b (P := 128) rfl
  have := field_lt g (P := 4) rfl
  have hw : (wordOf op [fld d 18, fld a 11, fld b 4, fld g 2]).toNat = op * 33554432 + d.toNat * 262144 + a.toNat * 2048 + b.toNat * 16 + g.toNat * 4 :=
    wordOf_toNat _ _ (by rw [fld_eq d 18 (P := 262144) rfl, fld_eq a 11 (P := 2048) rfl, fld_eq b 4 (P := 16) rfl, fld_eq g 2 (P := 4) rfl]; simp only [sum_field, sum_none]; omega) (by omega)
  exact ⟨bitsAt_code (P := 33554432) (Q := 128) rfl rfl (by rw [hw]; omega),
    bitsAt_code (P := 1) (Q := 4) rfl rfl (by rw [hw]; omega),
    bitsAt_eq (P := 262144) (Q := 128) rfl rfl (by rw [hw]; omega),
    bitsAt_eq (P := 2048) (Q := 128) rfl rfl (by rw [hw]; omega),
    bitsAt_eq (P := 16) (Q := 128) rfl rfl (by rw [hw]; omega),
    bitsAt_eq (P := 4) (Q := 4) rfl rfl (by rw [hw]; omega)⟩

/-- The fields of the words `mov`, `fmov`, `gettag`. -/
theorem shape3 (op : Nat) (d : BitVec 7) (a : BitVec 7) (g : BitVec 2) (h : BitVec 2) (ho : op < 128) :
    bitsAt 25 7 (wordOf op [fld d 18, fld a 11, fld g 2, fld h 0]) = BitVec.ofNat 7 op ∧
    bitsAt 4 7 (wordOf op [fld d 18, fld a 11, fld g 2, fld h 0]) = BitVec.ofNat 7 0 ∧
    bitsAt 18 7 (wordOf op [fld d 18, fld a 11, fld g 2, fld h 0]) = d ∧
    bitsAt 11 7 (wordOf op [fld d 18, fld a 11, fld g 2, fld h 0]) = a ∧
    bitsAt 2 2 (wordOf op [fld d 18, fld a 11, fld g 2, fld h 0]) = g ∧
    bitsAt 0 2 (wordOf op [fld d 18, fld a 11, fld g 2, fld h 0]) = h := by
  have := field_lt d (P := 128) rfl
  have := field_lt a (P := 128) rfl
  have := field_lt g (P := 4) rfl
  have := field_lt h (P := 4) rfl
  have hw : (wordOf op [fld d 18, fld a 11, fld g 2, fld h 0]).toNat = op * 33554432 + d.toNat * 262144 + a.toNat * 2048 + g.toNat * 4 + h.toNat * 1 :=
    wordOf_toNat _ _ (by rw [fld_eq d 18 (P := 262144) rfl, fld_eq a 11 (P := 2048) rfl, fld_eq g 2 (P := 4) rfl, fld_eq h 0 (P := 1) rfl]; simp only [sum_field, sum_none]; omega) (by omega)
  exact ⟨bitsAt_code (P := 33554432) (Q := 128) rfl rfl (by rw [hw]; omega),
    bitsAt_code (P := 16) (Q := 128) rfl rfl (by rw [hw]; omega),
    bitsAt_eq (P := 262144) (Q := 128) rfl rfl (by rw [hw]; omega),
    bitsAt_eq (P := 2048) (Q := 128) rfl rfl (by rw [hw]; omega),
    bitsAt_eq (P := 4) (Q := 4) rfl rfl (by rw [hw]; omega),
    bitsAt_eq (P := 1) (Q := 4) rfl rfl (by rw [hw]; omega)⟩

/-- The fields of the words `lnot`, `neg`, `iabs` and their like. -/
theorem shape4 (op : Nat) (d : BitVec 7) (a : BitVec 7) (g : BitVec 2) (h : BitVec 2) (v : Nat) (ho : op < 128) (hv : v < 128) :
    bitsAt 25 7 (wordOf op [fld d 18, fld a 11, lit v 4, fld g 2, fld h 0]) = BitVec.ofNat 7 op ∧
    bitsAt 4 7 (wordOf op [fld d 18, fld a 11, lit v 4, fld g 2, fld h 0]) = BitVec.ofNat 7 v ∧
    bitsAt 18 7 (wordOf op [fld d 18, fld a 11, lit v 4, fld g 2, fld h 0]) = d ∧
    bitsAt 11 7 (wordOf op [fld d 18, fld a 11, lit v 4, fld g 2, fld h 0]) = a ∧
    bitsAt 2 2 (wordOf op [fld d 18, fld a 11, lit v 4, fld g 2, fld h 0]) = g ∧
    bitsAt 0 2 (wordOf op [fld d 18, fld a 11, lit v 4, fld g 2, fld h 0]) = h := by
  have := field_lt d (P := 128) rfl
  have := field_lt a (P := 128) rfl
  have := field_lt g (P := 4) rfl
  have := field_lt h (P := 4) rfl
  have hw : (wordOf op [fld d 18, fld a 11, lit v 4, fld g 2, fld h 0]).toNat = op * 33554432 + d.toNat * 262144 + a.toNat * 2048 + v * 16 + g.toNat * 4 + h.toNat * 1 :=
    wordOf_toNat _ _ (by rw [fld_eq d 18 (P := 262144) rfl, fld_eq a 11 (P := 2048) rfl, fld_eq g 2 (P := 4) rfl, fld_eq h 0 (P := 1) rfl]; simp only [lit, sum_field, sum_none]; omega) (by omega)
  exact ⟨bitsAt_code (P := 33554432) (Q := 128) rfl rfl (by rw [hw]; omega),
    bitsAt_code (P := 16) (Q := 128) rfl rfl (by rw [hw]; omega),
    bitsAt_eq (P := 262144) (Q := 128) rfl rfl (by rw [hw]; omega),
    bitsAt_eq (P := 2048) (Q := 128) rfl rfl (by rw [hw]; omega),
    bitsAt_eq (P := 4) (Q := 4) rfl rfl (by rw [hw]; omega),
    bitsAt_eq (P := 1) (Q := 4) rfl rfl (by rw [hw]; omega)⟩

/-- The fields of the words `smovi`, `call`, `fork` and their like. -/
theorem shape5 (op : Nat) (d : BitVec 7) (i : BitVec 18) (ho : op < 128) :
    bitsAt 25 7 (wordOf op [fld d 18, fld i 0]) = BitVec.ofNat 7 op ∧
    bitsAt 18 7 (wordOf op [fld d 18, fld i 0]) = d ∧
    bitsAt 0 18 (wordOf op [fld d 18, fld i 0]) = i := by
  have := field_lt d (P := 128) rfl
  have := field_lt i (P := 262144) rfl
  have hw : (wordOf op [fld d 18, fld i 0]).toNat = op * 33554432 + d.toNat * 262144 + i.toNat * 1 :=
    wordOf_toNat _ _ (by rw [fld_eq d 18 (P := 262144) rfl, fld_eq i 0 (P := 1) rfl]; simp only [sum_field, sum_none]; omega) (by omega)
  exact ⟨bitsAt_code (P := 33554432) (Q := 128) rfl rfl (by rw [hw]; omega),
    bitsAt_eq (P := 262144) (Q := 128) rfl rfl (by rw [hw]; omega),
    bitsAt_eq (P := 1) (Q := 262144) rfl rfl (by rw [hw]; omega)⟩

/-- The fields of the words `iaddi`, `imuli`, `andi` and their like. -/
theorem shape6 (op : Nat) (d : BitVec 7) (a : BitVec 7) (i : BitVec 11) (ho : op < 128) :
    bitsAt 25 7 (wordOf op [fld d 18, fld a 11, fld i 0]) = BitVec.ofNat 7 op ∧
    bitsAt 18 7 (wordOf op [fld d 18, fld a 11, fld i 0]) = d ∧
    bitsAt 11 7 (wordOf op [fld d 18, fld a 11, fld i 0]) = a ∧
    bitsAt 0 11 (wordOf op [fld d 18, fld a 11, fld i 0]) = i := by
  have := field_lt d (P := 128) rfl
  have := field_lt a (P := 128) rfl
  have := field_lt i (P := 2048) rfl
  have hw : (wordOf op [fld d 18, fld a 11, fld i 0]).toNat = op * 33554432 + d.toNat * 262144 + a.toNat * 2048 + i.toNat * 1 :=
    wordOf_toNat _ _ (by rw [fld_eq d 18 (P := 262144) rfl, fld_eq a 11 (P := 2048) rfl, fld_eq i 0 (P := 1) rfl]; simp only [sum_field, sum_none]; omega) (by omega)
  exact ⟨bitsAt_code (P := 33554432) (Q := 128) rfl rfl (by rw [hw]; omega),
    bitsAt_eq (P := 262144) (Q := 128) rfl rfl (by rw [hw]; omega),
    bitsAt_eq (P := 2048) (Q := 128) rfl rfl (by rw [hw]; omega),
    bitsAt_eq (P := 1) (Q := 2048) rfl rfl (by rw [hw]; omega)⟩

/-- The fields of the words `shli`, `shri`, `sari`. -/
theorem shape7 (op : Nat) (d : BitVec 7) (a : BitVec 7) (n : BitVec 5) (ho : op < 128) :
    bitsAt 25 7 (wordOf op [fld d 18, fld a 11, fld n 0]) = BitVec.ofNat 7 op ∧
    bitsAt 5 6 (wordOf op [fld d 18, fld a 11, fld n 0]) = BitVec.ofNat 6 0 ∧
    bitsAt 18 7 (wordOf op [fld d 18, fld a 11, fld n 0]) = d ∧
    bitsAt 11 7 (wordOf op [fld d 18, fld a 11, fld n 0]) = a ∧
    bitsAt 0 5 (wordOf op [fld d 18, fld a 11, fld n 0]) = n := by
  have := field_lt d (P := 128) rfl
  have := field_lt a (P := 128) rfl
  have := field_lt n (P := 32) rfl
  have hw : (wordOf op [fld d 18, fld a 11, fld n 0]).toNat = op * 33554432 + d.toNat * 262144 + a.toNat * 2048 + n.toNat * 1 :=
    wordOf_toNat _ _ (by rw [fld_eq d 18 (P := 262144) rfl, fld_eq a 11 (P := 2048) rfl, fld_eq n 0 (P := 1) rfl]; simp only [sum_field, sum_none]; omega) (by omega)
  exact ⟨bitsAt_code (P := 33554432) (Q := 128) rfl rfl (by rw [hw]; omega),
    bitsAt_code (P := 32) (Q := 64) rfl rfl (by rw [hw]; omega),
    bitsAt_eq (P := 262144) (Q := 128) rfl rfl (by rw [hw]; omega),
    bitsAt_eq (P := 2048) (Q := 128) rfl rfl (by rw [hw]; omega),
    bitsAt_eq (P := 1) (Q := 32) rfl rfl (by rw [hw]; omega)⟩

/-- The fields of the words `icmp`, `ucmp`, `fcmp` and their like. -/
theorem shape8 (op : Nat) (c : BitVec 4) (p : BitVec 3) (a : BitVec 7) (b : BitVec 7) (g : BitVec 2) (ho : op < 128) :
    bitsAt 25 7 (wordOf op [fld c 21, fld p 18, fld a 11, fld b 4, fld g 2]) = BitVec.ofNat 7 op ∧
    bitsAt 0 2 (wordOf op [fld c 21, fld p 18, fld a 11, fld b 4, fld g 2]) = BitVec.ofNat 2 0 ∧
    bitsAt 21 4 (wordOf op [fld c 21, fld p 18, fld a 11, fld b 4, fld g 2]) = c ∧
    bitsAt 18 3 (wordOf op [fld c 21, fld p 18, fld a 11, fld b 4, fld g 2]) = p ∧
    bitsAt 11 7 (wordOf op [fld c 21, fld p 18, fld a 11, fld b 4, fld g 2]) = a ∧
    bitsAt 4 7 (wordOf op [fld c 21, fld p 18, fld a 11, fld b 4, fld g 2]) = b ∧
    bitsAt 2 2 (wordOf op [fld c 21, fld p 18, fld a 11, fld b 4, fld g 2]) = g := by
  have := field_lt c (P := 16) rfl
  have := field_lt p (P := 8) rfl
  have := field_lt a (P := 128) rfl
  have := field_lt b (P := 128) rfl
  have := field_lt g (P := 4) rfl
  have hw : (wordOf op [fld c 21, fld p 18, fld a 11, fld b 4, fld g 2]).toNat = op * 33554432 + c.toNat * 2097152 + p.toNat * 262144 + a.toNat * 2048 + b.toNat * 16 + g.toNat * 4 :=
    wordOf_toNat _ _ (by rw [fld_eq c 21 (P := 2097152) rfl, fld_eq p 18 (P := 262144) rfl, fld_eq a 11 (P := 2048) rfl, fld_eq b 4 (P := 16) rfl, fld_eq g 2 (P := 4) rfl]; simp only [sum_field, sum_none]; omega) (by omega)
  exact ⟨bitsAt_code (P := 33554432) (Q := 128) rfl rfl (by rw [hw]; omega),
    bitsAt_code (P := 1) (Q := 4) rfl rfl (by rw [hw]; omega),
    bitsAt_eq (P := 2097152) (Q := 16) rfl rfl (by rw [hw]; omega),
    bitsAt_eq (P := 262144) (Q := 8) rfl rfl (by rw [hw]; omega),
    bitsAt_eq (P := 2048) (Q := 128) rfl rfl (by rw [hw]; omega),
    bitsAt_eq (P := 16) (Q := 128) rfl rfl (by rw [hw]; omega),
    bitsAt_eq (P := 4) (Q := 4) rfl rfl (by rw [hw]; omega)⟩

/-- The fields of the words `icmpi`. -/
theorem shape9 (op : Nat) (c : BitVec 4) (p : BitVec 3) (a : BitVec 7) (i : BitVec 11) (ho : op < 128) :
    bitsAt 25 7 (wordOf op [fld c 21, fld p 18, fld a 11, fld i 0]) = BitVec.ofNat 7 op ∧
    bitsAt 21 4 (wordOf op [fld c 21, fld p 18, fld a 11, fld i 0]) = c ∧
    bitsAt 18 3 (wordOf op [fld c 21, fld p 18, fld a 11, fld i 0]) = p ∧
    bitsAt 11 7 (wordOf op [fld c 21, fld p 18, fld a 11, fld i 0]) = a ∧
    bitsAt 0 11 (wordOf op [fld c 21, fld p 18, fld a 11, fld i 0]) = i := by
  have := field_lt c (P := 16) rfl
  have := field_lt p (P := 8) rfl
  have := field_lt a (P := 128) rfl
  have := field_lt i (P := 2048) rfl
  have hw : (wordOf op [fld c 21, fld p 18, fld a 11, fld i 0]).toNat = op * 33554432 + c.toNat * 2097152 + p.toNat * 262144 + a.toNat * 2048 + i.toNat * 1 :=
    wordOf_toNat _ _ (by rw [fld_eq c 21 (P := 2097152) rfl, fld_eq p 18 (P := 262144) rfl, fld_eq a 11 (P := 2048) rfl, fld_eq i 0 (P := 1) rfl]; simp only [sum_field, sum_none]; omega) (by omega)
  exact ⟨bitsAt_code (P := 33554432) (Q := 128) rfl rfl (by rw [hw]; omega),
    bitsAt_eq (P := 2097152) (Q := 16) rfl rfl (by rw [hw]; omega),
    bitsAt_eq (P := 262144) (Q := 8) rfl rfl (by rw [hw]; omega),
    bitsAt_eq (P := 2048) (Q := 128) rfl rfl (by rw [hw]; omega),
    bitsAt_eq (P := 1) (Q := 2048) rfl rfl (by rw [hw]; omega)⟩

/-- The fields of the words `plog`. -/
theorem shape10 (op : Nat) (d : BitVec 3) (n : BitVec 1) (a : BitVec 3) (o : BitVec 2) (m : BitVec 1) (b : BitVec 3) (g : BitVec 2) (ho : op < 128) :
    bitsAt 25 7 (wordOf op [fld d 18, fld n 14, fld a 11, fld o 8, fld m 7, fld b 4, fld g 2]) = BitVec.ofNat 7 op ∧
    bitsAt 0 2 (wordOf op [fld d 18, fld n 14, fld a 11, fld o 8, fld m 7, fld b 4, fld g 2]) = BitVec.ofNat 2 0 ∧
    bitsAt 10 1 (wordOf op [fld d 18, fld n 14, fld a 11, fld o 8, fld m 7, fld b 4, fld g 2]) = BitVec.ofNat 1 0 ∧
    bitsAt 15 3 (wordOf op [fld d 18, fld n 14, fld a 11, fld o 8, fld m 7, fld b 4, fld g 2]) = BitVec.ofNat 3 0 ∧
    bitsAt 21 4 (wordOf op [fld d 18, fld n 14, fld a 11, fld o 8, fld m 7, fld b 4, fld g 2]) = BitVec.ofNat 4 0 ∧
    bitsAt 18 3 (wordOf op [fld d 18, fld n 14, fld a 11, fld o 8, fld m 7, fld b 4, fld g 2]) = d ∧
    bitsAt 14 1 (wordOf op [fld d 18, fld n 14, fld a 11, fld o 8, fld m 7, fld b 4, fld g 2]) = n ∧
    bitsAt 11 3 (wordOf op [fld d 18, fld n 14, fld a 11, fld o 8, fld m 7, fld b 4, fld g 2]) = a ∧
    bitsAt 8 2 (wordOf op [fld d 18, fld n 14, fld a 11, fld o 8, fld m 7, fld b 4, fld g 2]) = o ∧
    bitsAt 7 1 (wordOf op [fld d 18, fld n 14, fld a 11, fld o 8, fld m 7, fld b 4, fld g 2]) = m ∧
    bitsAt 4 3 (wordOf op [fld d 18, fld n 14, fld a 11, fld o 8, fld m 7, fld b 4, fld g 2]) = b ∧
    bitsAt 2 2 (wordOf op [fld d 18, fld n 14, fld a 11, fld o 8, fld m 7, fld b 4, fld g 2]) = g := by
  have := field_lt d (P := 8) rfl
  have := field_lt n (P := 2) rfl
  have := field_lt a (P := 8) rfl
  have := field_lt o (P := 4) rfl
  have := field_lt m (P := 2) rfl
  have := field_lt b (P := 8) rfl
  have := field_lt g (P := 4) rfl
  have hw : (wordOf op [fld d 18, fld n 14, fld a 11, fld o 8, fld m 7, fld b 4, fld g 2]).toNat = op * 33554432 + d.toNat * 262144 + n.toNat * 16384 + a.toNat * 2048 + o.toNat * 256 + m.toNat * 128 + b.toNat * 16 + g.toNat * 4 :=
    wordOf_toNat _ _ (by rw [fld_eq d 18 (P := 262144) rfl, fld_eq n 14 (P := 16384) rfl, fld_eq a 11 (P := 2048) rfl, fld_eq o 8 (P := 256) rfl, fld_eq m 7 (P := 128) rfl, fld_eq b 4 (P := 16) rfl, fld_eq g 2 (P := 4) rfl]; simp only [sum_field, sum_none]; omega) (by omega)
  exact ⟨bitsAt_code (P := 33554432) (Q := 128) rfl rfl (by rw [hw]; omega),
    bitsAt_code (P := 1) (Q := 4) rfl rfl (by rw [hw]; omega),
    bitsAt_code (P := 1024) (Q := 2) rfl rfl (by rw [hw]; omega),
    bitsAt_code (P := 32768) (Q := 8) rfl rfl (by rw [hw]; omega),
    bitsAt_code (P := 2097152) (Q := 16) rfl rfl (by rw [hw]; omega),
    bitsAt_eq (P := 262144) (Q := 8) rfl rfl (by rw [hw]; omega),
    bitsAt_eq (P := 16384) (Q := 2) rfl rfl (by rw [hw]; omega),
    bitsAt_eq (P := 2048) (Q := 8) rfl rfl (by rw [hw]; omega),
    bitsAt_eq (P := 256) (Q := 4) rfl rfl (by rw [hw]; omega),
    bitsAt_eq (P := 128) (Q := 2) rfl rfl (by rw [hw]; omega),
    bitsAt_eq (P := 16) (Q := 8) rfl rfl (by rw [hw]; omega),
    bitsAt_eq (P := 4) (Q := 4) rfl rfl (by rw [hw]; omega)⟩

/-- The fields of the words `vote`. -/
theorem shape11 (op : Nat) (d : BitVec 7) (n : BitVec 1) (a : BitVec 3) (m : BitVec 2) (g : BitVec 2) (ho : op < 128) :
    bitsAt 25 7 (wordOf op [fld d 18, fld n 14, fld a 11, fld m 4, fld g 2]) = BitVec.ofNat 7 op ∧
    bitsAt 0 2 (wordOf op [fld d 18, fld n 14, fld a 11, fld m 4, fld g 2]) = BitVec.ofNat 2 0 ∧
    bitsAt 6 5 (wordOf op [fld d 18, fld n 14, fld a 11, fld m 4, fld g 2]) = BitVec.ofNat 5 0 ∧
    bitsAt 15 3 (wordOf op [fld d 18, fld n 14, fld a 11, fld m 4, fld g 2]) = BitVec.ofNat 3 0 ∧
    bitsAt 18 7 (wordOf op [fld d 18, fld n 14, fld a 11, fld m 4, fld g 2]) = d ∧
    bitsAt 14 1 (wordOf op [fld d 18, fld n 14, fld a 11, fld m 4, fld g 2]) = n ∧
    bitsAt 11 3 (wordOf op [fld d 18, fld n 14, fld a 11, fld m 4, fld g 2]) = a ∧
    bitsAt 4 2 (wordOf op [fld d 18, fld n 14, fld a 11, fld m 4, fld g 2]) = m ∧
    bitsAt 2 2 (wordOf op [fld d 18, fld n 14, fld a 11, fld m 4, fld g 2]) = g := by
  have := field_lt d (P := 128) rfl
  have := field_lt n (P := 2) rfl
  have := field_lt a (P := 8) rfl
  have := field_lt m (P := 4) rfl
  have := field_lt g (P := 4) rfl
  have hw : (wordOf op [fld d 18, fld n 14, fld a 11, fld m 4, fld g 2]).toNat = op * 33554432 + d.toNat * 262144 + n.toNat * 16384 + a.toNat * 2048 + m.toNat * 16 + g.toNat * 4 :=
    wordOf_toNat _ _ (by rw [fld_eq d 18 (P := 262144) rfl, fld_eq n 14 (P := 16384) rfl, fld_eq a 11 (P := 2048) rfl, fld_eq m 4 (P := 16) rfl, fld_eq g 2 (P := 4) rfl]; simp only [sum_field, sum_none]; omega) (by omega)
  exact ⟨bitsAt_code (P := 33554432) (Q := 128) rfl rfl (by rw [hw]; omega),
    bitsAt_code (P := 1) (Q := 4) rfl rfl (by rw [hw]; omega),
    bitsAt_code (P := 64) (Q := 32) rfl rfl (by rw [hw]; omega),
    bitsAt_code (P := 32768) (Q := 8) rfl rfl (by rw [hw]; omega),
    bitsAt_eq (P := 262144) (Q := 128) rfl rfl (by rw [hw]; omega),
    bitsAt_eq (P := 16384) (Q := 2) rfl rfl (by rw [hw]; omega),
    bitsAt_eq (P := 2048) (Q := 8) rfl rfl (by rw [hw]; omega),
    bitsAt_eq (P := 16) (Q := 4) rfl rfl (by rw [hw]; omega),
    bitsAt_eq (P := 4) (Q := 4) rfl rfl (by rw [hw]; omega)⟩

/-- The fields of the words `tmma`, `tmmat`, `tbias` and their like. -/
theorem shape12 (op : Nat) (d : BitVec 7) (a : BitVec 7) (b : BitVec 7) (m : BitVec 2) (ho : op < 128) :
    bitsAt 25 7 (wordOf op [fld d 18, fld a 11, fld b 4, fld m 2]) = BitVec.ofNat 7 op ∧
    bitsAt 0 2 (wordOf op [fld d 18, fld a 11, fld b 4, fld m 2]) = BitVec.ofNat 2 0 ∧
    bitsAt 18 7 (wordOf op [fld d 18, fld a 11, fld b 4, fld m 2]) = d ∧
    bitsAt 11 7 (wordOf op [fld d 18, fld a 11, fld b 4, fld m 2]) = a ∧
    bitsAt 4 7 (wordOf op [fld d 18, fld a 11, fld b 4, fld m 2]) = b ∧
    bitsAt 2 2 (wordOf op [fld d 18, fld a 11, fld b 4, fld m 2]) = m := by
  have := field_lt d (P := 128) rfl
  have := field_lt a (P := 128) rfl
  have := field_lt b (P := 128) rfl
  have := field_lt m (P := 4) rfl
  have hw : (wordOf op [fld d 18, fld a 11, fld b 4, fld m 2]).toNat = op * 33554432 + d.toNat * 262144 + a.toNat * 2048 + b.toNat * 16 + m.toNat * 4 :=
    wordOf_toNat _ _ (by rw [fld_eq d 18 (P := 262144) rfl, fld_eq a 11 (P := 2048) rfl, fld_eq b 4 (P := 16) rfl, fld_eq m 2 (P := 4) rfl]; simp only [sum_field, sum_none]; omega) (by omega)
  exact ⟨bitsAt_code (P := 33554432) (Q := 128) rfl rfl (by rw [hw]; omega),
    bitsAt_code (P := 1) (Q := 4) rfl rfl (by rw [hw]; omega),
    bitsAt_eq (P := 262144) (Q := 128) rfl rfl (by rw [hw]; omega),
    bitsAt_eq (P := 2048) (Q := 128) rfl rfl (by rw [hw]; omega),
    bitsAt_eq (P := 16) (Q := 128) rfl rfl (by rw [hw]; omega),
    bitsAt_eq (P := 4) (Q := 4) rfl rfl (by rw [hw]; omega)⟩

/-- The fields of the words `aadd`, `afadd`, `amin` and their like. -/
theorem shape13 (op : Nat) (d : BitVec 7) (a : BitVec 7) (b : BitVec 7) (c : BitVec 2) (ho : op < 128) :
    bitsAt 25 7 (wordOf op [fld d 18, fld a 11, fld b 4, fld c 2]) = BitVec.ofNat 7 op ∧
    bitsAt 0 2 (wordOf op [fld d 18, fld a 11, fld b 4, fld c 2]) = BitVec.ofNat 2 0 ∧
    bitsAt 18 7 (wordOf op [fld d 18, fld a 11, fld b 4, fld c 2]) = d ∧
    bitsAt 11 7 (wordOf op [fld d 18, fld a 11, fld b 4, fld c 2]) = a ∧
    bitsAt 4 7 (wordOf op [fld d 18, fld a 11, fld b 4, fld c 2]) = b ∧
    bitsAt 2 2 (wordOf op [fld d 18, fld a 11, fld b 4, fld c 2]) = c := by
  have := field_lt d (P := 128) rfl
  have := field_lt a (P := 128) rfl
  have := field_lt b (P := 128) rfl
  have := field_lt c (P := 4) rfl
  have hw : (wordOf op [fld d 18, fld a 11, fld b 4, fld c 2]).toNat = op * 33554432 + d.toNat * 262144 + a.toNat * 2048 + b.toNat * 16 + c.toNat * 4 :=
    wordOf_toNat _ _ (by rw [fld_eq d 18 (P := 262144) rfl, fld_eq a 11 (P := 2048) rfl, fld_eq b 4 (P := 16) rfl, fld_eq c 2 (P := 4) rfl]; simp only [sum_field, sum_none]; omega) (by omega)
  exact ⟨bitsAt_code (P := 33554432) (Q := 128) rfl rfl (by rw [hw]; omega),
    bitsAt_code (P := 1) (Q := 4) rfl rfl (by rw [hw]; omega),
    bitsAt_eq (P := 262144) (Q := 128) rfl rfl (by rw [hw]; omega),
    bitsAt_eq (P := 2048) (Q := 128) rfl rfl (by rw [hw]; omega),
    bitsAt_eq (P := 16) (Q := 128) rfl rfl (by rw [hw]; omega),
    bitsAt_eq (P := 4) (Q := 4) rfl rfl (by rw [hw]; omega)⟩

/-- The fields of the words `aaddNr`, `afaddNr`, `aminNr` and their like. -/
theorem shape14 (op : Nat) (a : BitVec 7) (b : BitVec 7) (c : BitVec 2) (v : Nat) (ho : op < 128) (hv : v < 4) :
    bitsAt 25 7 (wordOf op [fld a 11, fld b 4, fld c 2, lit v 0]) = BitVec.ofNat 7 op ∧
    bitsAt 0 2 (wordOf op [fld a 11, fld b 4, fld c 2, lit v 0]) = BitVec.ofNat 2 v ∧
    bitsAt 18 7 (wordOf op [fld a 11, fld b 4, fld c 2, lit v 0]) = BitVec.ofNat 7 0 ∧
    bitsAt 11 7 (wordOf op [fld a 11, fld b 4, fld c 2, lit v 0]) = a ∧
    bitsAt 4 7 (wordOf op [fld a 11, fld b 4, fld c 2, lit v 0]) = b ∧
    bitsAt 2 2 (wordOf op [fld a 11, fld b 4, fld c 2, lit v 0]) = c := by
  have := field_lt a (P := 128) rfl
  have := field_lt b (P := 128) rfl
  have := field_lt c (P := 4) rfl
  have hw : (wordOf op [fld a 11, fld b 4, fld c 2, lit v 0]).toNat = op * 33554432 + a.toNat * 2048 + b.toNat * 16 + c.toNat * 4 + v * 1 :=
    wordOf_toNat _ _ (by rw [fld_eq a 11 (P := 2048) rfl, fld_eq b 4 (P := 16) rfl, fld_eq c 2 (P := 4) rfl]; simp only [lit, sum_field, sum_none]; omega) (by omega)
  exact ⟨bitsAt_code (P := 33554432) (Q := 128) rfl rfl (by rw [hw]; omega),
    bitsAt_code (P := 1) (Q := 4) rfl rfl (by rw [hw]; omega),
    bitsAt_code (P := 262144) (Q := 128) rfl rfl (by rw [hw]; omega),
    bitsAt_eq (P := 2048) (Q := 128) rfl rfl (by rw [hw]; omega),
    bitsAt_eq (P := 16) (Q := 128) rfl rfl (by rw [hw]; omega),
    bitsAt_eq (P := 4) (Q := 4) rfl rfl (by rw [hw]; omega)⟩

/-- The fields of the words `br`. -/
theorem shape15 (op : Nat) (p : BitVec 3) (n : BitVec 1) (m : BitVec 2) (s : BitVec 19) (ho : op < 128) :
    bitsAt 25 7 (wordOf op [fld p 22, fld n 21, fld m 19, fld s 0]) = BitVec.ofNat 7 op ∧
    bitsAt 22 3 (wordOf op [fld p 22, fld n 21, fld m 19, fld s 0]) = p ∧
    bitsAt 21 1 (wordOf op [fld p 22, fld n 21, fld m 19, fld s 0]) = n ∧
    bitsAt 19 2 (wordOf op [fld p 22, fld n 21, fld m 19, fld s 0]) = m ∧
    bitsAt 0 19 (wordOf op [fld p 22, fld n 21, fld m 19, fld s 0]) = s := by
  have := field_lt p (P := 8) rfl
  have := field_lt n (P := 2) rfl
  have := field_lt m (P := 4) rfl
  have := field_lt s (P := 524288) rfl
  have hw : (wordOf op [fld p 22, fld n 21, fld m 19, fld s 0]).toNat = op * 33554432 + p.toNat * 4194304 + n.toNat * 2097152 + m.toNat * 524288 + s.toNat * 1 :=
    wordOf_toNat _ _ (by rw [fld_eq p 22 (P := 4194304) rfl, fld_eq n 21 (P := 2097152) rfl, fld_eq m 19 (P := 524288) rfl, fld_eq s 0 (P := 1) rfl]; simp only [sum_field, sum_none]; omega) (by omega)
  exact ⟨bitsAt_code (P := 33554432) (Q := 128) rfl rfl (by rw [hw]; omega),
    bitsAt_eq (P := 4194304) (Q := 8) rfl rfl (by rw [hw]; omega),
    bitsAt_eq (P := 2097152) (Q := 2) rfl rfl (by rw [hw]; omega),
    bitsAt_eq (P := 524288) (Q := 4) rfl rfl (by rw [hw]; omega),
    bitsAt_eq (P := 1) (Q := 524288) rfl rfl (by rw [hw]; omega)⟩

/-- The fields of the words `ssub`, `smul`, `smulh` and their like. -/
theorem shape16 (op : Nat) (d : BitVec 7) (a : BitVec 7) (b : BitVec 7) (v : Nat) (ho : op < 128) (hv : v < 16) :
    bitsAt 25 7 (wordOf op [fld d 18, fld a 11, fld b 4, lit v 0]) = BitVec.ofNat 7 op ∧
    bitsAt 0 4 (wordOf op [fld d 18, fld a 11, fld b 4, lit v 0]) = BitVec.ofNat 4 v ∧
    bitsAt 18 7 (wordOf op [fld d 18, fld a 11, fld b 4, lit v 0]) = d ∧
    bitsAt 11 7 (wordOf op [fld d 18, fld a 11, fld b 4, lit v 0]) = a ∧
    bitsAt 4 7 (wordOf op [fld d 18, fld a 11, fld b 4, lit v 0]) = b := by
  have := field_lt d (P := 128) rfl
  have := field_lt a (P := 128) rfl
  have := field_lt b (P := 128) rfl
  have hw : (wordOf op [fld d 18, fld a 11, fld b 4, lit v 0]).toNat = op * 33554432 + d.toNat * 262144 + a.toNat * 2048 + b.toNat * 16 + v * 1 :=
    wordOf_toNat _ _ (by rw [fld_eq d 18 (P := 262144) rfl, fld_eq a 11 (P := 2048) rfl, fld_eq b 4 (P := 16) rfl]; simp only [lit, sum_field, sum_none]; omega) (by omega)
  exact ⟨bitsAt_code (P := 33554432) (Q := 128) rfl rfl (by rw [hw]; omega),
    bitsAt_code (P := 1) (Q := 16) rfl rfl (by rw [hw]; omega),
    bitsAt_eq (P := 262144) (Q := 128) rfl rfl (by rw [hw]; omega),
    bitsAt_eq (P := 2048) (Q := 128) rfl rfl (by rw [hw]; omega),
    bitsAt_eq (P := 16) (Q := 128) rfl rfl (by rw [hw]; omega)⟩

/-- The fields of the words `smov`, `sfrcp`, `sfrsq` and their like. -/
theorem shape17 (op : Nat) (d : BitVec 7) (a : BitVec 7) (v : Nat) (ho : op < 128) (hv : v < 16) :
    bitsAt 25 7 (wordOf op [fld d 18, fld a 11, lit v 0]) = BitVec.ofNat 7 op ∧
    bitsAt 0 4 (wordOf op [fld d 18, fld a 11, lit v 0]) = BitVec.ofNat 4 v ∧
    bitsAt 0 11 (wordOf op [fld d 18, fld a 11, lit v 0]) = BitVec.ofNat 11 v ∧
    bitsAt 18 7 (wordOf op [fld d 18, fld a 11, lit v 0]) = d ∧
    bitsAt 11 7 (wordOf op [fld d 18, fld a 11, lit v 0]) = a := by
  have := field_lt d (P := 128) rfl
  have := field_lt a (P := 128) rfl
  have hw : (wordOf op [fld d 18, fld a 11, lit v 0]).toNat = op * 33554432 + d.toNat * 262144 + a.toNat * 2048 + v * 1 :=
    wordOf_toNat _ _ (by rw [fld_eq d 18 (P := 262144) rfl, fld_eq a 11 (P := 2048) rfl]; simp only [lit, sum_field, sum_none]; omega) (by omega)
  exact ⟨bitsAt_code (P := 33554432) (Q := 128) rfl rfl (by rw [hw]; omega),
    bitsAt_code (P := 1) (Q := 16) rfl rfl (by rw [hw]; omega),
    bitsAt_code (P := 1) (Q := 2048) rfl rfl (by rw [hw]; omega),
    bitsAt_eq (P := 262144) (Q := 128) rfl rfl (by rw [hw]; omega),
    bitsAt_eq (P := 2048) (Q := 128) rfl rfl (by rw [hw]; omega)⟩

/-- The fields of the words `cp2d`, `cpgath`, `cpscat` and their like. -/
theorem shape18 (op : Nat) (d : BitVec 7) (a : BitVec 7) (q : BitVec 4) (v : Nat) (ho : op < 128) (hv : v < 128) :
    bitsAt 25 7 (wordOf op [fld d 18, fld a 11, lit v 4, fld q 0]) = BitVec.ofNat 7 op ∧
    bitsAt 4 7 (wordOf op [fld d 18, fld a 11, lit v 4, fld q 0]) = BitVec.ofNat 7 v ∧
    bitsAt 18 7 (wordOf op [fld d 18, fld a 11, lit v 4, fld q 0]) = d ∧
    bitsAt 11 7 (wordOf op [fld d 18, fld a 11, lit v 4, fld q 0]) = a ∧
    bitsAt 0 4 (wordOf op [fld d 18, fld a 11, lit v 4, fld q 0]) = q := by
  have := field_lt d (P := 128) rfl
  have := field_lt a (P := 128) rfl
  have := field_lt q (P := 16) rfl
  have hw : (wordOf op [fld d 18, fld a 11, lit v 4, fld q 0]).toNat = op * 33554432 + d.toNat * 262144 + a.toNat * 2048 + v * 16 + q.toNat * 1 :=
    wordOf_toNat _ _ (by rw [fld_eq d 18 (P := 262144) rfl, fld_eq a 11 (P := 2048) rfl, fld_eq q 0 (P := 1) rfl]; simp only [lit, sum_field, sum_none]; omega) (by omega)
  exact ⟨bitsAt_code (P := 33554432) (Q := 128) rfl rfl (by rw [hw]; omega),
    bitsAt_code (P := 16) (Q := 128) rfl rfl (by rw [hw]; omega),
    bitsAt_eq (P := 262144) (Q := 128) rfl rfl (by rw [hw]; omega),
    bitsAt_eq (P := 2048) (Q := 128) rfl rfl (by rw [hw]; omega),
    bitsAt_eq (P := 1) (Q := 16) rfl rfl (by rw [hw]; omega)⟩

/-- The fields of the words `trace`, `accept`, `ignore` and their like. -/
theorem shape19 (op : Nat) (g : BitVec 2) (v : Nat) (ho : op < 128) (hv : v < 512) :
    bitsAt 25 7 (wordOf op [lit v 2, fld g 0]) = BitVec.ofNat 7 op ∧
    bitsAt 2 9 (wordOf op [lit v 2, fld g 0]) = BitVec.ofNat 9 v ∧
    bitsAt 2 23 (wordOf op [lit v 2, fld g 0]) = BitVec.ofNat 23 v ∧
    bitsAt 0 2 (wordOf op [lit v 2, fld g 0]) = g := by
  have := field_lt g (P := 4) rfl
  have hw : (wordOf op [lit v 2, fld g 0]).toNat = op * 33554432 + v * 4 + g.toNat * 1 :=
    wordOf_toNat _ _ (by rw [fld_eq g 0 (P := 1) rfl]; simp only [lit, sum_field, sum_none]; omega) (by omega)
  exact ⟨bitsAt_code (P := 33554432) (Q := 128) rfl rfl (by rw [hw]; omega),
    bitsAt_code (P := 4) (Q := 512) rfl rfl (by rw [hw]; omega),
    bitsAt_code (P := 4) (Q := 8388608) rfl rfl (by rw [hw]; omega),
    bitsAt_eq (P := 1) (Q := 4) rfl rfl (by rw [hw]; omega)⟩

theorem decodeWord_01 {w n : Word} (h : bitsAt 25 7 w = BitVec.ofNat 7 0x01) : decodeWord w n = decodeOp01 w := by
  unfold decodeWord; rw [h]; rfl

theorem decodeWord_02 {w n : Word} (h : bitsAt 25 7 w = BitVec.ofNat 7 0x02) : decodeWord w n = decodeOp02 w := by
  unfold decodeWord; rw [h]; rfl

theorem decodeWord_03 {w n : Word} (h : bitsAt 25 7 w = BitVec.ofNat 7 0x03) : decodeWord w n = decodeOp03 w := by
  unfold decodeWord; rw [h]; rfl

theorem decodeWord_04 {w n : Word} (h : bitsAt 25 7 w = BitVec.ofNat 7 0x04) : decodeWord w n = decodeOp04 w := by
  unfold decodeWord; rw [h]; rfl

theorem decodeWord_05 {w n : Word} (h : bitsAt 25 7 w = BitVec.ofNat 7 0x05) : decodeWord w n = decodeOp05 w := by
  unfold decodeWord; rw [h]; rfl

theorem decodeWord_06 {w n : Word} (h : bitsAt 25 7 w = BitVec.ofNat 7 0x06) : decodeWord w n = decodeOp06 w := by
  unfold decodeWord; rw [h]; rfl

theorem decodeWord_07 {w n : Word} (h : bitsAt 25 7 w = BitVec.ofNat 7 0x07) : decodeWord w n = decodeOp07 w := by
  unfold decodeWord; rw [h]; rfl

theorem decodeWord_08 {w n : Word} (h : bitsAt 25 7 w = BitVec.ofNat 7 0x08) : decodeWord w n = decodeOp08 w := by
  unfold decodeWord; rw [h]; rfl

theorem decodeWord_09 {w n : Word} (h : bitsAt 25 7 w = BitVec.ofNat 7 0x09) : decodeWord w n = decodeOp09 w := by
  unfold decodeWord; rw [h]; rfl

theorem decodeWord_0A {w n : Word} (h : bitsAt 25 7 w = BitVec.ofNat 7 0x0A) : decodeWord w n = decodeOp0A w := by
  unfold decodeWord; rw [h]; rfl

theorem decodeWord_0B {w n : Word} (h : bitsAt 25 7 w = BitVec.ofNat 7 0x0B) : decodeWord w n = decodeOp0B w := by
  unfold decodeWord; rw [h]; rfl

theorem decodeWord_0C {w n : Word} (h : bitsAt 25 7 w = BitVec.ofNat 7 0x0C) : decodeWord w n = decodeOp0C w := by
  unfold decodeWord; rw [h]; rfl

theorem decodeWord_0D {w n : Word} (h : bitsAt 25 7 w = BitVec.ofNat 7 0x0D) : decodeWord w n = decodeOp0D w := by
  unfold decodeWord; rw [h]; rfl

theorem decodeWord_0E {w n : Word} (h : bitsAt 25 7 w = BitVec.ofNat 7 0x0E) : decodeWord w n = decodeOp0E w := by
  unfold decodeWord; rw [h]; rfl

theorem decodeWord_0F {w n : Word} (h : bitsAt 25 7 w = BitVec.ofNat 7 0x0F) : decodeWord w n = decodeOp0F w := by
  unfold decodeWord; rw [h]; rfl

theorem decodeWord_10 {w n : Word} (h : bitsAt 25 7 w = BitVec.ofNat 7 0x10) : decodeWord w n = decodeOp10 w := by
  unfold decodeWord; rw [h]; rfl

theorem decodeWord_11 {w n : Word} (h : bitsAt 25 7 w = BitVec.ofNat 7 0x11) : decodeWord w n = decodeOp11 w := by
  unfold decodeWord; rw [h]; rfl

theorem decodeWord_12 {w n : Word} (h : bitsAt 25 7 w = BitVec.ofNat 7 0x12) : decodeWord w n = decodeOp12 w := by
  unfold decodeWord; rw [h]; rfl

theorem decodeWord_13 {w n : Word} (h : bitsAt 25 7 w = BitVec.ofNat 7 0x13) : decodeWord w n = decodeOp13 w := by
  unfold decodeWord; rw [h]; rfl

theorem decodeWord_14 {w n : Word} (h : bitsAt 25 7 w = BitVec.ofNat 7 0x14) : decodeWord w n = decodeOp14 w := by
  unfold decodeWord; rw [h]; rfl

theorem decodeWord_15 {w n : Word} (h : bitsAt 25 7 w = BitVec.ofNat 7 0x15) : decodeWord w n = decodeOp15 w := by
  unfold decodeWord; rw [h]; rfl

theorem decodeWord_16 {w n : Word} (h : bitsAt 25 7 w = BitVec.ofNat 7 0x16) : decodeWord w n = decodeOp16 w := by
  unfold decodeWord; rw [h]; rfl

theorem decodeWord_17 {w n : Word} (h : bitsAt 25 7 w = BitVec.ofNat 7 0x17) : decodeWord w n = decodeOp17 w := by
  unfold decodeWord; rw [h]; rfl

theorem decodeWord_18 {w n : Word} (h : bitsAt 25 7 w = BitVec.ofNat 7 0x18) : decodeWord w n = decodeOp18 w := by
  unfold decodeWord; rw [h]; rfl

theorem decodeWord_19 {w n : Word} (h : bitsAt 25 7 w = BitVec.ofNat 7 0x19) : decodeWord w n = decodeOp19 w := by
  unfold decodeWord; rw [h]; rfl

theorem decodeWord_1A {w n : Word} (h : bitsAt 25 7 w = BitVec.ofNat 7 0x1A) : decodeWord w n = decodeOp1A w := by
  unfold decodeWord; rw [h]; rfl

theorem decodeWord_1B {w n : Word} (h : bitsAt 25 7 w = BitVec.ofNat 7 0x1B) : decodeWord w n = decodeOp1B w := by
  unfold decodeWord; rw [h]; rfl

theorem decodeWord_1C {w n : Word} (h : bitsAt 25 7 w = BitVec.ofNat 7 0x1C) : decodeWord w n = decodeOp1C w := by
  unfold decodeWord; rw [h]; rfl

theorem decodeWord_1D {w n : Word} (h : bitsAt 25 7 w = BitVec.ofNat 7 0x1D) : decodeWord w n = decodeOp1D w := by
  unfold decodeWord; rw [h]; rfl

theorem decodeWord_1E {w n : Word} (h : bitsAt 25 7 w = BitVec.ofNat 7 0x1E) : decodeWord w n = decodeOp1E w := by
  unfold decodeWord; rw [h]; rfl

theorem decodeWord_1F {w n : Word} (h : bitsAt 25 7 w = BitVec.ofNat 7 0x1F) : decodeWord w n = decodeOp1F w := by
  unfold decodeWord; rw [h]; rfl

theorem decodeWord_20 {w n : Word} (h : bitsAt 25 7 w = BitVec.ofNat 7 0x20) : decodeWord w n = decodeOp20 w := by
  unfold decodeWord; rw [h]; rfl

theorem decodeWord_21 {w n : Word} (h : bitsAt 25 7 w = BitVec.ofNat 7 0x21) : decodeWord w n = decodeOp21 w := by
  unfold decodeWord; rw [h]; rfl

theorem decodeWord_22 {w n : Word} (h : bitsAt 25 7 w = BitVec.ofNat 7 0x22) : decodeWord w n = decodeOp22 w := by
  unfold decodeWord; rw [h]; rfl

theorem decodeWord_23 {w n : Word} (h : bitsAt 25 7 w = BitVec.ofNat 7 0x23) : decodeWord w n = decodeOp23 w := by
  unfold decodeWord; rw [h]; rfl

theorem decodeWord_24 {w n : Word} (h : bitsAt 25 7 w = BitVec.ofNat 7 0x24) : decodeWord w n = decodeOp24 w := by
  unfold decodeWord; rw [h]; rfl

theorem decodeWord_25 {w n : Word} (h : bitsAt 25 7 w = BitVec.ofNat 7 0x25) : decodeWord w n = decodeOp25 w := by
  unfold decodeWord; rw [h]; rfl

theorem decodeWord_26 {w n : Word} (h : bitsAt 25 7 w = BitVec.ofNat 7 0x26) : decodeWord w n = decodeOp26 w := by
  unfold decodeWord; rw [h]; rfl

theorem decodeWord_27 {w n : Word} (h : bitsAt 25 7 w = BitVec.ofNat 7 0x27) : decodeWord w n = decodeOp27 w := by
  unfold decodeWord; rw [h]; rfl

theorem decodeWord_28 {w n : Word} (h : bitsAt 25 7 w = BitVec.ofNat 7 0x28) : decodeWord w n = decodeOp28 w := by
  unfold decodeWord; rw [h]; rfl

theorem decodeWord_29 {w n : Word} (h : bitsAt 25 7 w = BitVec.ofNat 7 0x29) : decodeWord w n = decodeOp29 w := by
  unfold decodeWord; rw [h]; rfl

theorem decodeWord_2A {w n : Word} (h : bitsAt 25 7 w = BitVec.ofNat 7 0x2A) : decodeWord w n = decodeOp2A w := by
  unfold decodeWord; rw [h]; rfl

theorem decodeWord_2B {w n : Word} (h : bitsAt 25 7 w = BitVec.ofNat 7 0x2B) : decodeWord w n = decodeOp2B w := by
  unfold decodeWord; rw [h]; rfl

theorem decodeWord_2C {w n : Word} (h : bitsAt 25 7 w = BitVec.ofNat 7 0x2C) : decodeWord w n = decodeOp2C w := by
  unfold decodeWord; rw [h]; rfl

theorem decodeWord_2D {w n : Word} (h : bitsAt 25 7 w = BitVec.ofNat 7 0x2D) : decodeWord w n = decodeOp2D w := by
  unfold decodeWord; rw [h]; rfl

theorem decodeWord_2E {w n : Word} (h : bitsAt 25 7 w = BitVec.ofNat 7 0x2E) : decodeWord w n = decodeOp2E w := by
  unfold decodeWord; rw [h]; rfl

theorem decodeWord_2F {w n : Word} (h : bitsAt 25 7 w = BitVec.ofNat 7 0x2F) : decodeWord w n = decodeOp2F w := by
  unfold decodeWord; rw [h]; rfl

theorem decodeWord_30 {w n : Word} (h : bitsAt 25 7 w = BitVec.ofNat 7 0x30) : decodeWord w n = decodeOp30 w := by
  unfold decodeWord; rw [h]; rfl

theorem decodeWord_31 {w n : Word} (h : bitsAt 25 7 w = BitVec.ofNat 7 0x31) : decodeWord w n = decodeOp31 w := by
  unfold decodeWord; rw [h]; rfl

theorem decodeWord_32 {w n : Word} (h : bitsAt 25 7 w = BitVec.ofNat 7 0x32) : decodeWord w n = decodeOp32 w := by
  unfold decodeWord; rw [h]; rfl

theorem decodeWord_33 {w n : Word} (h : bitsAt 25 7 w = BitVec.ofNat 7 0x33) : decodeWord w n = decodeOp33 w := by
  unfold decodeWord; rw [h]; rfl

theorem decodeWord_34 {w n : Word} (h : bitsAt 25 7 w = BitVec.ofNat 7 0x34) : decodeWord w n = decodeOp34 w := by
  unfold decodeWord; rw [h]; rfl

theorem decodeWord_35 {w n : Word} (h : bitsAt 25 7 w = BitVec.ofNat 7 0x35) : decodeWord w n = decodeOp35 w := by
  unfold decodeWord; rw [h]; rfl

theorem decodeWord_36 {w n : Word} (h : bitsAt 25 7 w = BitVec.ofNat 7 0x36) : decodeWord w n = decodeOp36 w := by
  unfold decodeWord; rw [h]; rfl

theorem decodeWord_37 {w n : Word} (h : bitsAt 25 7 w = BitVec.ofNat 7 0x37) : decodeWord w n = decodeOp37 w := by
  unfold decodeWord; rw [h]; rfl

theorem decodeWord_38 {w n : Word} (h : bitsAt 25 7 w = BitVec.ofNat 7 0x38) : decodeWord w n = decodeOp38 w := by
  unfold decodeWord; rw [h]; rfl

theorem decodeWord_39 {w n : Word} (h : bitsAt 25 7 w = BitVec.ofNat 7 0x39) : decodeWord w n = decodeOp39 w := by
  unfold decodeWord; rw [h]; rfl

theorem decodeWord_3A {w n : Word} (h : bitsAt 25 7 w = BitVec.ofNat 7 0x3A) : decodeWord w n = decodeOp3A w := by
  unfold decodeWord; rw [h]; rfl

theorem decodeWord_3B {w n : Word} (h : bitsAt 25 7 w = BitVec.ofNat 7 0x3B) : decodeWord w n = decodeOp3B w := by
  unfold decodeWord; rw [h]; rfl

theorem decodeWord_3C {w n : Word} (h : bitsAt 25 7 w = BitVec.ofNat 7 0x3C) : decodeWord w n = decodeOp3C w := by
  unfold decodeWord; rw [h]; rfl

theorem decodeWord_3D {w n : Word} (h : bitsAt 25 7 w = BitVec.ofNat 7 0x3D) : decodeWord w n = decodeOp3D w := by
  unfold decodeWord; rw [h]; rfl

theorem decodeWord_3E {w n : Word} (h : bitsAt 25 7 w = BitVec.ofNat 7 0x3E) : decodeWord w n = decodeOp3E w := by
  unfold decodeWord; rw [h]; rfl

theorem decodeWord_3F {w n : Word} (h : bitsAt 25 7 w = BitVec.ofNat 7 0x3F) : decodeWord w n = decodeOp3F w := by
  unfold decodeWord; rw [h]; rfl

theorem decodeWord_40 {w n : Word} (h : bitsAt 25 7 w = BitVec.ofNat 7 0x40) : decodeWord w n = decodeOp40 w := by
  unfold decodeWord; rw [h]; rfl

theorem decodeWord_41 {w n : Word} (h : bitsAt 25 7 w = BitVec.ofNat 7 0x41) : decodeWord w n = decodeOp41 w := by
  unfold decodeWord; rw [h]; rfl

theorem decodeWord_42 {w n : Word} (h : bitsAt 25 7 w = BitVec.ofNat 7 0x42) : decodeWord w n = decodeOp42 w := by
  unfold decodeWord; rw [h]; rfl

theorem decodeWord_43 {w n : Word} (h : bitsAt 25 7 w = BitVec.ofNat 7 0x43) : decodeWord w n = decodeOp43 w := by
  unfold decodeWord; rw [h]; rfl

theorem decodeWord_44 {w n : Word} (h : bitsAt 25 7 w = BitVec.ofNat 7 0x44) : decodeWord w n = decodeOp44 w := by
  unfold decodeWord; rw [h]; rfl

theorem decodeWord_45 {w n : Word} (h : bitsAt 25 7 w = BitVec.ofNat 7 0x45) : decodeWord w n = decodeOp45 w := by
  unfold decodeWord; rw [h]; rfl

theorem decodeWord_46 {w n : Word} (h : bitsAt 25 7 w = BitVec.ofNat 7 0x46) : decodeWord w n = decodeOp46 w := by
  unfold decodeWord; rw [h]; rfl

theorem decodeWord_47 {w n : Word} (h : bitsAt 25 7 w = BitVec.ofNat 7 0x47) : decodeWord w n = decodeOp47 w := by
  unfold decodeWord; rw [h]; rfl

theorem decodeWord_48 {w n : Word} (h : bitsAt 25 7 w = BitVec.ofNat 7 0x48) : decodeWord w n = decodeOp48 w := by
  unfold decodeWord; rw [h]; rfl

theorem decodeWord_49 {w n : Word} (h : bitsAt 25 7 w = BitVec.ofNat 7 0x49) : decodeWord w n = decodeOp49 w := by
  unfold decodeWord; rw [h]; rfl

theorem decodeWord_4A {w n : Word} (h : bitsAt 25 7 w = BitVec.ofNat 7 0x4A) : decodeWord w n = decodeOp4A w := by
  unfold decodeWord; rw [h]; rfl

theorem decodeWord_4B {w n : Word} (h : bitsAt 25 7 w = BitVec.ofNat 7 0x4B) : decodeWord w n = decodeOp4B w := by
  unfold decodeWord; rw [h]; rfl

theorem decodeWord_4C {w n : Word} (h : bitsAt 25 7 w = BitVec.ofNat 7 0x4C) : decodeWord w n = decodeOp4C w := by
  unfold decodeWord; rw [h]; rfl

theorem decodeWord_4D {w n : Word} (h : bitsAt 25 7 w = BitVec.ofNat 7 0x4D) : decodeWord w n = decodeOp4D w := by
  unfold decodeWord; rw [h]; rfl

theorem decodeWord_4E {w n : Word} (h : bitsAt 25 7 w = BitVec.ofNat 7 0x4E) : decodeWord w n = decodeOp4E w := by
  unfold decodeWord; rw [h]; rfl

theorem decodeWord_4F {w n : Word} (h : bitsAt 25 7 w = BitVec.ofNat 7 0x4F) : decodeWord w n = decodeOp4F w := by
  unfold decodeWord; rw [h]; rfl

theorem decodeWord_50 {w n : Word} (h : bitsAt 25 7 w = BitVec.ofNat 7 0x50) : decodeWord w n = decodeOp50 w := by
  unfold decodeWord; rw [h]; rfl

theorem decodeWord_51 {w n : Word} (h : bitsAt 25 7 w = BitVec.ofNat 7 0x51) : decodeWord w n = decodeOp51 w := by
  unfold decodeWord; rw [h]; rfl

theorem decodeWord_52 {w n : Word} (h : bitsAt 25 7 w = BitVec.ofNat 7 0x52) : decodeWord w n = decodeOp52 w := by
  unfold decodeWord; rw [h]; rfl

theorem decodeWord_53 {w n : Word} (h : bitsAt 25 7 w = BitVec.ofNat 7 0x53) : decodeWord w n = decodeOp53 w := by
  unfold decodeWord; rw [h]; rfl

theorem decodeWord_54 {w n : Word} (h : bitsAt 25 7 w = BitVec.ofNat 7 0x54) : decodeWord w n = decodeOp54 w := by
  unfold decodeWord; rw [h]; rfl

theorem decodeWord_55 {w n : Word} (h : bitsAt 25 7 w = BitVec.ofNat 7 0x55) : decodeWord w n = decodeOp55 w := by
  unfold decodeWord; rw [h]; rfl

theorem decodeWord_56 {w n : Word} (h : bitsAt 25 7 w = BitVec.ofNat 7 0x56) : decodeWord w n = decodeOp56 w := by
  unfold decodeWord; rw [h]; rfl

theorem decodeWord_57 {w n : Word} (h : bitsAt 25 7 w = BitVec.ofNat 7 0x57) : decodeWord w n = decodeOp57 w := by
  unfold decodeWord; rw [h]; rfl

theorem decodeWord_58 {w n : Word} (h : bitsAt 25 7 w = BitVec.ofNat 7 0x58) : decodeWord w n = decodeOp58 w := by
  unfold decodeWord; rw [h]; rfl

theorem decodeWord_59 {w n : Word} (h : bitsAt 25 7 w = BitVec.ofNat 7 0x59) : decodeWord w n = decodeOp59 w := by
  unfold decodeWord; rw [h]; rfl

theorem decodeWord_5A {w n : Word} (h : bitsAt 25 7 w = BitVec.ofNat 7 0x5A) : decodeWord w n = decodeOp5A w := by
  unfold decodeWord; rw [h]; rfl

theorem decodeWord_5B {w n : Word} (h : bitsAt 25 7 w = BitVec.ofNat 7 0x5B) : decodeWord w n = decodeOp5B w := by
  unfold decodeWord; rw [h]; rfl

theorem decodeWord_5C {w n : Word} (h : bitsAt 25 7 w = BitVec.ofNat 7 0x5C) : decodeWord w n = decodeOp5C w := by
  unfold decodeWord; rw [h]; rfl

theorem decodeWord_5D {w n : Word} (h : bitsAt 25 7 w = BitVec.ofNat 7 0x5D) : decodeWord w n = decodeOp5D w := by
  unfold decodeWord; rw [h]; rfl

theorem decodeWord_5E {w n : Word} (h : bitsAt 25 7 w = BitVec.ofNat 7 0x5E) : decodeWord w n = decodeOp5E w := by
  unfold decodeWord; rw [h]; rfl

theorem decodeWord_5F {w n : Word} (h : bitsAt 25 7 w = BitVec.ofNat 7 0x5F) : decodeWord w n = decodeOp5F w := by
  unfold decodeWord; rw [h]; rfl

theorem decodeWord_60 {w n : Word} (h : bitsAt 25 7 w = BitVec.ofNat 7 0x60) : decodeWord w n = decodeOp60 w := by
  unfold decodeWord; rw [h]; rfl

theorem decodeWord_61 {w n : Word} (h : bitsAt 25 7 w = BitVec.ofNat 7 0x61) : decodeWord w n = decodeOp61 w := by
  unfold decodeWord; rw [h]; rfl

theorem decodeWord_62 {w n : Word} (h : bitsAt 25 7 w = BitVec.ofNat 7 0x62) : decodeWord w n = decodeOp62 w := by
  unfold decodeWord; rw [h]; rfl

theorem decodeWord_63 {w n : Word} (h : bitsAt 25 7 w = BitVec.ofNat 7 0x63) : decodeWord w n = decodeOp63 w := by
  unfold decodeWord; rw [h]; rfl

theorem decodeWord_64 {w n : Word} (h : bitsAt 25 7 w = BitVec.ofNat 7 0x64) : decodeWord w n = decodeOp64 w := by
  unfold decodeWord; rw [h]; rfl

theorem decodeWord_65 {w n : Word} (h : bitsAt 25 7 w = BitVec.ofNat 7 0x65) : decodeWord w n = decodeOp65 w := by
  unfold decodeWord; rw [h]; rfl

theorem decodeWord_66 {w n : Word} (h : bitsAt 25 7 w = BitVec.ofNat 7 0x66) : decodeWord w n = decodeOp66 w := by
  unfold decodeWord; rw [h]; rfl

theorem decodeWord_67 {w n : Word} (h : bitsAt 25 7 w = BitVec.ofNat 7 0x67) : decodeWord w n = decodeOp67 w := by
  unfold decodeWord; rw [h]; rfl

theorem decodeWord_68 {w n : Word} (h : bitsAt 25 7 w = BitVec.ofNat 7 0x68) : decodeWord w n = decodeOp68 w := by
  unfold decodeWord; rw [h]; rfl

theorem decodeWord_69 {w n : Word} (h : bitsAt 25 7 w = BitVec.ofNat 7 0x69) : decodeWord w n = decodeOp69 w := by
  unfold decodeWord; rw [h]; rfl

theorem decodeWord_6A {w n : Word} (h : bitsAt 25 7 w = BitVec.ofNat 7 0x6A) : decodeWord w n = decodeOp6A w := by
  unfold decodeWord; rw [h]; rfl

theorem decodeWord_6B {w n : Word} (h : bitsAt 25 7 w = BitVec.ofNat 7 0x6B) : decodeWord w n = decodeOp6B w := by
  unfold decodeWord; rw [h]; rfl

theorem decodeWord_6C {w n : Word} (h : bitsAt 25 7 w = BitVec.ofNat 7 0x6C) : decodeWord w n = decodeOp6C w := by
  unfold decodeWord; rw [h]; rfl

theorem decodeWord_6D {w n : Word} (h : bitsAt 25 7 w = BitVec.ofNat 7 0x6D) : decodeWord w n = decodeOp6D w := by
  unfold decodeWord; rw [h]; rfl

theorem decodeWord_6E {w n : Word} (h : bitsAt 25 7 w = BitVec.ofNat 7 0x6E) : decodeWord w n = decodeOp6E w := by
  unfold decodeWord; rw [h]; rfl

theorem decodeWord_6F {w n : Word} (h : bitsAt 25 7 w = BitVec.ofNat 7 0x6F) : decodeWord w n = decodeOp6F w := by
  unfold decodeWord; rw [h]; rfl

theorem decodeWord_70 {w n : Word} (h : bitsAt 25 7 w = BitVec.ofNat 7 0x70) : decodeWord w n = decodeOp70 w := by
  unfold decodeWord; rw [h]; rfl

theorem decodeWord_71 {w n : Word} (h : bitsAt 25 7 w = BitVec.ofNat 7 0x71) : decodeWord w n = decodeOp71 w := by
  unfold decodeWord; rw [h]; rfl

theorem decodeWord_72 {w n : Word} (h : bitsAt 25 7 w = BitVec.ofNat 7 0x72) : decodeWord w n = decodeOp72 w := by
  unfold decodeWord; rw [h]; rfl

theorem decodeWord_73 {w n : Word} (h : bitsAt 25 7 w = BitVec.ofNat 7 0x73) : decodeWord w n = decodeOp73 w := by
  unfold decodeWord; rw [h]; rfl

theorem decodeWord_74 {w n : Word} (h : bitsAt 25 7 w = BitVec.ofNat 7 0x74) : decodeWord w n = decodeOp74 w := by
  unfold decodeWord; rw [h]; rfl

theorem decodeWord_75 {w n : Word} (h : bitsAt 25 7 w = BitVec.ofNat 7 0x75) : decodeWord w n = decodeOp75 w := by
  unfold decodeWord; rw [h]; rfl

theorem decodeWord_76 {w n : Word} (h : bitsAt 25 7 w = BitVec.ofNat 7 0x76) : decodeWord w n = decodeOp76 w := by
  unfold decodeWord; rw [h]; rfl

theorem decodeWord_77 {w n : Word} (h : bitsAt 25 7 w = BitVec.ofNat 7 0x77) : decodeWord w n = decodeOp77 w := by
  unfold decodeWord; rw [h]; rfl

theorem decodeWord_78 {w n : Word} (h : bitsAt 25 7 w = BitVec.ofNat 7 0x78) : decodeWord w n = decodeOp78 w := by
  unfold decodeWord; rw [h]; rfl

theorem decodeWord_79 {w n : Word} (h : bitsAt 25 7 w = BitVec.ofNat 7 0x79) : decodeWord w n = decodeOp79 w := by
  unfold decodeWord; rw [h]; rfl

theorem decodeWord_7A {w n : Word} (h : bitsAt 25 7 w = BitVec.ofNat 7 0x7A) : decodeWord w n = decodeOp7A w := by
  unfold decodeWord; rw [h]; rfl

theorem decodeWord_7B {w n : Word} (h : bitsAt 25 7 w = BitVec.ofNat 7 0x7B) : decodeWord w n = decodeOp7B w := by
  unfold decodeWord; rw [h]; rfl

theorem decodeWord_7C {w n : Word} (h : bitsAt 25 7 w = BitVec.ofNat 7 0x7C) : decodeWord w n = decodeOp7C w := by
  unfold decodeWord; rw [h]; rfl

theorem decodeWord_7D {w n : Word} (h : bitsAt 25 7 w = BitVec.ofNat 7 0x7D) : decodeWord w n = decodeOp7D w := by
  unfold decodeWord; rw [h]; rfl

theorem decodeWord_7E {w n : Word} (h : bitsAt 25 7 w = BitVec.ofNat 7 0x7E) : decodeWord w n = decodeOp7E w := by
  unfold decodeWord; rw [h]; rfl

end Sys2Proof.Laws
end

