-- ==== Sys2Proof/Laws/Exec.lean ====
section
/-! SUPPORT. The meaning that exec calls for each instruction. -/

namespace Sys2Proof.Machine

theorem exec_iadd (d a b : BitVec 7) (g h : BitVec 2) : exec (.iadd d a b g h) = execIadd d a b g h := rfl
theorem exec_iadds (d a b : BitVec 7) (g h : BitVec 2) : exec (.iadds d a b g h) = execIadds d a b g h := rfl
theorem exec_isub (d a b : BitVec 7) (g h : BitVec 2) : exec (.isub d a b g h) = execIsub d a b g h := rfl
theorem exec_isubs (d a b : BitVec 7) (g h : BitVec 2) : exec (.isubs d a b g h) = execIsubs d a b g h := rfl
theorem exec_imul (d a b : BitVec 7) (g h : BitVec 2) : exec (.imul d a b g h) = execImul d a b g h := rfl
theorem exec_imulh (d a b : BitVec 7) (g h : BitVec 2) : exec (.imulh d a b g h) = execImulh d a b g h := rfl
theorem exec_imulhu (d a b : BitVec 7) (g h : BitVec 2) : exec (.imulhu d a b g h) = execImulhu d a b g h := rfl
theorem exec_imad (d a b : BitVec 7) (g h : BitVec 2) : exec (.imad d a b g h) = execImad d a b g h := rfl
theorem exec_land (d a b : BitVec 7) (g h : BitVec 2) : exec (.land d a b g h) = execLand d a b g h := rfl
theorem exec_lor (d a b : BitVec 7) (g h : BitVec 2) : exec (.lor d a b g h) = execLor d a b g h := rfl
theorem exec_lxor (d a b : BitVec 7) (g h : BitVec 2) : exec (.lxor d a b g h) = execLxor d a b g h := rfl
theorem exec_andn (d a b : BitVec 7) (g h : BitVec 2) : exec (.andn d a b g h) = execAndn d a b g h := rfl
theorem exec_shl (d a b : BitVec 7) (g h : BitVec 2) : exec (.shl d a b g h) = execShl d a b g h := rfl
theorem exec_shr (d a b : BitVec 7) (g h : BitVec 2) : exec (.shr d a b g h) = execShr d a b g h := rfl
theorem exec_sar (d a b : BitVec 7) (g h : BitVec 2) : exec (.sar d a b g h) = execSar d a b g h := rfl
theorem exec_imin (d a b : BitVec 7) (g h : BitVec 2) : exec (.imin d a b g h) = execImin d a b g h := rfl
theorem exec_imax (d a b : BitVec 7) (g h : BitVec 2) : exec (.imax d a b g h) = execImax d a b g h := rfl
theorem exec_umin (d a b : BitVec 7) (g h : BitVec 2) : exec (.umin d a b g h) = execUmin d a b g h := rfl
theorem exec_umax (d a b : BitVec 7) (g h : BitVec 2) : exec (.umax d a b g h) = execUmax d a b g h := rfl
theorem exec_lea2 (d a b : BitVec 7) (g : BitVec 2) : exec (.lea2 d a b g) = execLea2 d a b g := rfl
theorem exec_lea3 (d a b : BitVec 7) (g : BitVec 2) : exec (.lea3 d a b g) = execLea3 d a b g := rfl
theorem exec_mov (d a : BitVec 7) (g h : BitVec 2) : exec (.mov d a g h) = execMov d a g h := rfl
theorem exec_lnot (d a : BitVec 7) (g h : BitVec 2) : exec (.lnot d a g h) = execLnot d a g h := rfl
theorem exec_neg (d a : BitVec 7) (g h : BitVec 2) : exec (.neg d a g h) = execNeg d a g h := rfl
theorem exec_iabs (d a : BitVec 7) (g h : BitVec 2) : exec (.iabs d a g h) = execIabs d a g h := rfl
theorem exec_popc (d a : BitVec 7) (g h : BitVec 2) : exec (.popc d a g h) = execPopc d a g h := rfl
theorem exec_clz (d a : BitVec 7) (g h : BitVec 2) : exec (.clz d a g h) = execClz d a g h := rfl
theorem exec_ctz (d a : BitVec 7) (g h : BitVec 2) : exec (.ctz d a g h) = execCtz d a g h := rfl
theorem exec_brev (d a : BitVec 7) (g h : BitVec 2) : exec (.brev d a g h) = execBrev d a g h := rfl
theorem exec_bswap (d a : BitVec 7) (g h : BitVec 2) : exec (.bswap d a g h) = execBswap d a g h := rfl
theorem exec_laneid (d : BitVec 7) (g h : BitVec 2) : exec (.laneid d g h) = execLaneid d g h := rfl
theorem exec_fibid (d : BitVec 7) (g h : BitVec 2) : exec (.fibid d g h) = execFibid d g h := rfl
theorem exec_smovi (d : BitVec 7) (i : BitVec 18) : exec (.smovi d i) = execSmovi d i := rfl
theorem exec_iaddi (d a : BitVec 7) (i : BitVec 11) : exec (.iaddi d a i) = execIaddi d a i := rfl
theorem exec_imuli (d a : BitVec 7) (i : BitVec 11) : exec (.imuli d a i) = execImuli d a i := rfl
theorem exec_andi (d a : BitVec 7) (i : BitVec 11) : exec (.andi d a i) = execAndi d a i := rfl
theorem exec_ori (d a : BitVec 7) (i : BitVec 11) : exec (.ori d a i) = execOri d a i := rfl
theorem exec_xori (d a : BitVec 7) (i : BitVec 11) : exec (.xori d a i) = execXori d a i := rfl
theorem exec_shli (d a : BitVec 7) (n : BitVec 5) : exec (.shli d a n) = execShli d a n := rfl
theorem exec_shri (d a : BitVec 7) (n : BitVec 5) : exec (.shri d a n) = execShri d a n := rfl
theorem exec_sari (d a : BitVec 7) (n : BitVec 5) : exec (.sari d a n) = execSari d a n := rfl
theorem exec_icmp (c : BitVec 4) (p : BitVec 3) (a b : BitVec 7) (g : BitVec 2) : exec (.icmp c p a b g) = execIcmp c p a b g := rfl
theorem exec_ucmp (c : BitVec 4) (p : BitVec 3) (a b : BitVec 7) (g : BitVec 2) : exec (.ucmp c p a b g) = execUcmp c p a b g := rfl
theorem exec_fcmp (c : BitVec 4) (p : BitVec 3) (a b : BitVec 7) (g : BitVec 2) : exec (.fcmp c p a b g) = execFcmp c p a b g := rfl
theorem exec_hcmp (c : BitVec 4) (p : BitVec 3) (a b : BitVec 7) (g : BitVec 2) : exec (.hcmp c p a b g) = execHcmp c p a b g := rfl
theorem exec_icmpi (c : BitVec 4) (p : BitVec 3) (a : BitVec 7) (i : BitVec 11) : exec (.icmpi c p a i) = execIcmpi c p a i := rfl
theorem exec_plog (d : BitVec 3) (n : BitVec 1) (a : BitVec 3) (o : BitVec 2) (m : BitVec 1) (b : BitVec 3) (g : BitVec 2) : exec (.plog d n a o m b g) = execPlog d n a o m b g := rfl
theorem exec_pmov (d a : BitVec 7) (m g : BitVec 2) : exec (.pmov d a m g) = execPmov d a m g := rfl
theorem exec_vote (d : BitVec 7) (n : BitVec 1) (a : BitVec 3) (m g : BitVec 2) : exec (.vote d n a m g) = execVote d n a m g := rfl
theorem exec_fadd (d a b : BitVec 7) (g h : BitVec 2) : exec (.fadd d a b g h) = execFadd d a b g h := rfl
theorem exec_fsub (d a b : BitVec 7) (g h : BitVec 2) : exec (.fsub d a b g h) = execFsub d a b g h := rfl
theorem exec_fmul (d a b : BitVec 7) (g h : BitVec 2) : exec (.fmul d a b g h) = execFmul d a b g h := rfl
theorem exec_ffma (d a b : BitVec 7) (g h : BitVec 2) : exec (.ffma d a b g h) = execFfma d a b g h := rfl
theorem exec_fmin (d a b : BitVec 7) (g h : BitVec 2) : exec (.fmin d a b g h) = execFmin d a b g h := rfl
theorem exec_fmax (d a b : BitVec 7) (g h : BitVec 2) : exec (.fmax d a b g h) = execFmax d a b g h := rfl
theorem exec_fclamp (d a b : BitVec 7) (g h : BitVec 2) : exec (.fclamp d a b g h) = execFclamp d a b g h := rfl
theorem exec_fmov (d a : BitVec 7) (g h : BitVec 2) : exec (.fmov d a g h) = execFmov d a g h := rfl
theorem exec_fneg (d a : BitVec 7) (g h : BitVec 2) : exec (.fneg d a g h) = execFneg d a g h := rfl
theorem exec_fabs (d a : BitVec 7) (g h : BitVec 2) : exec (.fabs d a g h) = execFabs d a g h := rfl
theorem exec_frcp (d a : BitVec 7) (g h : BitVec 2) : exec (.frcp d a g h) = execFrcp d a g h := rfl
theorem exec_frsq (d a : BitVec 7) (g h : BitVec 2) : exec (.frsq d a g h) = execFrsq d a g h := rfl
theorem exec_fsqrt (d a : BitVec 7) (g h : BitVec 2) : exec (.fsqrt d a g h) = execFsqrt d a g h := rfl
theorem exec_fexp2 (d a : BitVec 7) (g h : BitVec 2) : exec (.fexp2 d a g h) = execFexp2 d a g h := rfl
theorem exec_flog2 (d a : BitVec 7) (g h : BitVec 2) : exec (.flog2 d a g h) = execFlog2 d a g h := rfl
theorem exec_fsin (d a : BitVec 7) (g h : BitVec 2) : exec (.fsin d a g h) = execFsin d a g h := rfl
theorem exec_fcos (d a : BitVec 7) (g h : BitVec 2) : exec (.fcos d a g h) = execFcos d a g h := rfl
theorem exec_ffloor (d a : BitVec 7) (g h : BitVec 2) : exec (.ffloor d a g h) = execFfloor d a g h := rfl
theorem exec_fceil (d a : BitVec 7) (g h : BitVec 2) : exec (.fceil d a g h) = execFceil d a g h := rfl
theorem exec_ftrunc (d a : BitVec 7) (g h : BitVec 2) : exec (.ftrunc d a g h) = execFtrunc d a g h := rfl
theorem exec_frint (d a : BitVec 7) (g h : BitVec 2) : exec (.frint d a g h) = execFrint d a g h := rfl
theorem exec_ffract (d a : BitVec 7) (g h : BitVec 2) : exec (.ffract d a g h) = execFfract d a g h := rfl
theorem exec_fsign (d a : BitVec 7) (g h : BitVec 2) : exec (.fsign d a g h) = execFsign d a g h := rfl
theorem exec_hadd2 (d a b : BitVec 7) (g h : BitVec 2) : exec (.hadd2 d a b g h) = execHadd2 d a b g h := rfl
theorem exec_hsub2 (d a b : BitVec 7) (g h : BitVec 2) : exec (.hsub2 d a b g h) = execHsub2 d a b g h := rfl
theorem exec_hmul2 (d a b : BitVec 7) (g h : BitVec 2) : exec (.hmul2 d a b g h) = execHmul2 d a b g h := rfl
theorem exec_hfma2 (d a b : BitVec 7) (g h : BitVec 2) : exec (.hfma2 d a b g h) = execHfma2 d a b g h := rfl
theorem exec_hmin2 (d a b : BitVec 7) (g h : BitVec 2) : exec (.hmin2 d a b g h) = execHmin2 d a b g h := rfl
theorem exec_hmax2 (d a b : BitVec 7) (g h : BitVec 2) : exec (.hmax2 d a b g h) = execHmax2 d a b g h := rfl
theorem exec_dot2h (d a b : BitVec 7) (g h : BitVec 2) : exec (.dot2h d a b g h) = execDot2h d a b g h := rfl
theorem exec_dot4q (d a b : BitVec 7) (g h : BitVec 2) : exec (.dot4q d a b g h) = execDot4q d a b g h := rfl
theorem exec_cadd (d a b : BitVec 7) (g : BitVec 2) : exec (.cadd d a b g) = execCadd d a b g := rfl
theorem exec_csub (d a b : BitVec 7) (g : BitVec 2) : exec (.csub d a b g) = execCsub d a b g := rfl
theorem exec_cmul (d a b : BitVec 7) (g : BitVec 2) : exec (.cmul d a b g) = execCmul d a b g := rfl
theorem exec_cfma (d a b : BitVec 7) (g : BitVec 2) : exec (.cfma d a b g) = execCfma d a b g := rfl
theorem exec_ccmul (d a b : BitVec 7) (g : BitVec 2) : exec (.ccmul d a b g) = execCcmul d a b g := rfl
theorem exec_cmag2 (d a : BitVec 7) (g : BitVec 2) : exec (.cmag2 d a g) = execCmag2 d a g := rfl
theorem exec_cexpi (d a : BitVec 7) (g : BitVec 2) : exec (.cexpi d a g) = execCexpi d a g := rfl
theorem exec_cscale (d a b : BitVec 7) (g : BitVec 2) : exec (.cscale d a b g) = execCscale d a b g := rfl
theorem exec_cvt (d a : BitVec 7) (s : BitVec 1) (t : BitVec 6) (g h : BitVec 2) : exec (.cvt d a s t g h) = execCvt d a s t g h := rfl
theorem exec_pack (d a : BitVec 7) (s : BitVec 1) (t : BitVec 6) (g h : BitVec 2) : exec (.pack d a s t g h) = execPack d a s t g h := rfl
theorem exec_unpackWiden (d a : BitVec 7) (k g h : BitVec 2) : exec (.unpackWiden d a k g h) = execUnpackWiden d a k g h := rfl
theorem exec_unpackBlock (d a : BitVec 7) (g : BitVec 2) : exec (.unpackBlock d a g) = execUnpackBlock d a g := rfl
theorem exec_settag (d a : BitVec 7) (t : BitVec 6) (g h : BitVec 2) : exec (.settag d a t g h) = execSettag d a t g h := rfl
theorem exec_gettag (d a : BitVec 7) (g h : BitVec 2) : exec (.gettag d a g h) = execGettag d a g h := rfl
theorem exec_shfl (d a b : BitVec 7) (g h : BitVec 2) : exec (.shfl d a b g h) = execShfl d a b g h := rfl
theorem exec_xbar (d a : BitVec 7) (n : BitVec 4) (g h : BitVec 2) : exec (.xbar d a n g h) = execXbar d a n g h := rfl
theorem exec_xptl (n : BitVec 4) (a : BitVec 7) (g : BitVec 2) : exec (.xptl n a g) = execXptl n a g := rfl
theorem exec_tmma (d a b : BitVec 7) (m : BitVec 2) : exec (.tmma d a b m) = execTmma d a b m := rfl
theorem exec_tmmat (d a b : BitVec 7) (m : BitVec 2) : exec (.tmmat d a b m) = execTmmat d a b m := rfl
theorem exec_tzero (d : BitVec 7) (m : BitVec 2) : exec (.tzero d m) = execTzero d m := rfl
theorem exec_ttrnFragment (d a : BitVec 7) (m : BitVec 2) : exec (.ttrnFragment d a m) = execTtrnFragment d a m := rfl
theorem exec_ttrnAccumulator (d a : BitVec 7) (m : BitVec 2) : exec (.ttrnAccumulator d a m) = execTtrnAccumulator d a m := rfl
theorem exec_tact (d a : BitVec 7) (f : BitVec 3) (m : BitVec 2) : exec (.tact d a f m) = execTact d a f m := rfl
theorem exec_tcvt (d a : BitVec 7) (s : BitVec 1) (t : BitVec 6) (m : BitVec 2) : exec (.tcvt d a s t m) = execTcvt d a s t m := rfl
theorem exec_tred (d a : BitVec 7) (o m : BitVec 2) : exec (.tred d a o m) = execTred d a o m := rfl
theorem exec_tbias (d a b : BitVec 7) (m : BitVec 2) : exec (.tbias d a b m) = execTbias d a b m := rfl
theorem exec_ldb (d a : BitVec 7) (i : BitVec 11) : exec (.ldb d a i) = execLdb d a i := rfl
theorem exec_ldh (d a : BitVec 7) (i : BitVec 11) : exec (.ldh d a i) = execLdh d a i := rfl
theorem exec_ldw (d a : BitVec 7) (i : BitVec 11) : exec (.ldw d a i) = execLdw d a i := rfl
theorem exec_ldd (d a : BitVec 7) (i : BitVec 11) : exec (.ldd d a i) = execLdd d a i := rfl
theorem exec_ldq (d a : BitVec 7) (i : BitVec 11) : exec (.ldq d a i) = execLdq d a i := rfl
theorem exec_stb (d a : BitVec 7) (i : BitVec 11) : exec (.stb d a i) = execStb d a i := rfl
theorem exec_sth (d a : BitVec 7) (i : BitVec 11) : exec (.sth d a i) = execSth d a i := rfl
theorem exec_stw (d a : BitVec 7) (i : BitVec 11) : exec (.stw d a i) = execStw d a i := rfl
theorem exec_std (d a : BitVec 7) (i : BitVec 11) : exec (.std d a i) = execStd d a i := rfl
theorem exec_stq (d a : BitVec 7) (i : BitVec 11) : exec (.stq d a i) = execStq d a i := rfl
theorem exec_ldv (d a : BitVec 7) (i : BitVec 11) : exec (.ldv d a i) = execLdv d a i := rfl
theorem exec_ldf (d a : BitVec 7) (t : BitVec 6) (g : BitVec 2) : exec (.ldf d a t g) = execLdf d a t g := rfl
theorem exec_lde (d a : BitVec 7) (t : BitVec 5) (g : BitVec 2) : exec (.lde d a t g) = execLde d a t g := rfl
theorem exec_accb (d a : BitVec 7) (i : BitVec 11) : exec (.accb d a i) = execAccb d a i := rfl
theorem exec_tld (d a b : BitVec 7) (m : BitVec 2) : exec (.tld d a b m) = execTld d a b m := rfl
theorem exec_tst (d a b : BitVec 7) (m : BitVec 2) : exec (.tst d a b m) = execTst d a b m := rfl
theorem exec_aadd (d a b : BitVec 7) (c : BitVec 2) : exec (.aadd d a b c) = execAadd d a b c := rfl
theorem exec_aaddNr (a b : BitVec 7) (c : BitVec 2) : exec (.aaddNr a b c) = execAaddNr a b c := rfl
theorem exec_afadd (d a b : BitVec 7) (c : BitVec 2) : exec (.afadd d a b c) = execAfadd d a b c := rfl
theorem exec_afaddNr (a b : BitVec 7) (c : BitVec 2) : exec (.afaddNr a b c) = execAfaddNr a b c := rfl
theorem exec_amin (d a b : BitVec 7) (c : BitVec 2) : exec (.amin d a b c) = execAmin d a b c := rfl
theorem exec_aminNr (a b : BitVec 7) (c : BitVec 2) : exec (.aminNr a b c) = execAminNr a b c := rfl
theorem exec_amax (d a b : BitVec 7) (c : BitVec 2) : exec (.amax d a b c) = execAmax d a b c := rfl
theorem exec_amaxNr (a b : BitVec 7) (c : BitVec 2) : exec (.amaxNr a b c) = execAmaxNr a b c := rfl
theorem exec_aumin (d a b : BitVec 7) (c : BitVec 2) : exec (.aumin d a b c) = execAumin d a b c := rfl
theorem exec_auminNr (a b : BitVec 7) (c : BitVec 2) : exec (.auminNr a b c) = execAuminNr a b c := rfl
theorem exec_aumax (d a b : BitVec 7) (c : BitVec 2) : exec (.aumax d a b c) = execAumax d a b c := rfl
theorem exec_aumaxNr (a b : BitVec 7) (c : BitVec 2) : exec (.aumaxNr a b c) = execAumaxNr a b c := rfl
theorem exec_aand (d a b : BitVec 7) (c : BitVec 2) : exec (.aand d a b c) = execAand d a b c := rfl
theorem exec_aandNr (a b : BitVec 7) (c : BitVec 2) : exec (.aandNr a b c) = execAandNr a b c := rfl
theorem exec_aor (d a b : BitVec 7) (c : BitVec 2) : exec (.aor d a b c) = execAor d a b c := rfl
theorem exec_aorNr (a b : BitVec 7) (c : BitVec 2) : exec (.aorNr a b c) = execAorNr a b c := rfl
theorem exec_axor (d a b : BitVec 7) (c : BitVec 2) : exec (.axor d a b c) = execAxor d a b c := rfl
theorem exec_axorNr (a b : BitVec 7) (c : BitVec 2) : exec (.axorNr a b c) = execAxorNr a b c := rfl
theorem exec_axchg (d a b : BitVec 7) (c : BitVec 2) : exec (.axchg d a b c) = execAxchg d a b c := rfl
theorem exec_axchgNr (a b : BitVec 7) (c : BitVec 2) : exec (.axchgNr a b c) = execAxchgNr a b c := rfl
theorem exec_acas (d a b : BitVec 7) (c : BitVec 2) : exec (.acas d a b c) = execAcas d a b c := rfl
theorem exec_acasNr (a b : BitVec 7) (c : BitVec 2) : exec (.acasNr a b c) = execAcasNr a b c := rfl
theorem exec_enq (d a b : BitVec 7) (c : BitVec 2) : exec (.enq d a b c) = execEnq d a b c := rfl
theorem exec_deq (d a b : BitVec 7) (c : BitVec 2) : exec (.deq d a b c) = execDeq d a b c := rfl
theorem exec_monw (k : BitVec 4) (a b : BitVec 7) (c : BitVec 2) : exec (.monw k a b c) = execMonw k a b c := rfl
theorem exec_phase (c : BitVec 2) : exec (.phase c) = execPhase c := rfl
theorem exec_bar (c : BitVec 1) : exec (.bar c) = execBar c := rfl
theorem exec_br (p : BitVec 3) (n : BitVec 1) (m : BitVec 2) (s : BitVec 19) : exec (.br p n m s) = execBr p n m s := rfl
theorem exec_brx (a : BitVec 7) (g : BitVec 2) : exec (.brx a g) = execBrx a g := rfl
theorem exec_call (d : BitVec 7) (i : BitVec 18) : exec (.call d i) = execCall d i := rfl
theorem exec_ret (a : BitVec 7) (g : BitVec 2) : exec (.ret a g) = execRet a g := rfl
theorem exec_fork (d : BitVec 7) (i : BitVec 18) : exec (.fork d i) = execFork d i := rfl
theorem exec_fend (g : BitVec 2) : exec (.fend g) = execFend g := rfl
theorem exec_join (n : BitVec 8) : exec (.join n) = execJoin n := rfl
theorem exec_waitc (x c s l : BitVec 4) : exec (.waitc x c s l) = execWaitc x c s l := rfl
theorem exec_sadd (d a b : BitVec 7) : exec (.sadd d a b) = execSadd d a b := rfl
theorem exec_ssub (d a b : BitVec 7) : exec (.ssub d a b) = execSsub d a b := rfl
theorem exec_smul (d a b : BitVec 7) : exec (.smul d a b) = execSmul d a b := rfl
theorem exec_smulh (d a b : BitVec 7) : exec (.smulh d a b) = execSmulh d a b := rfl
theorem exec_sand (d a b : BitVec 7) : exec (.sand d a b) = execSand d a b := rfl
theorem exec_sor (d a b : BitVec 7) : exec (.sor d a b) = execSor d a b := rfl
theorem exec_sxor (d a b : BitVec 7) : exec (.sxor d a b) = execSxor d a b := rfl
theorem exec_sshl (d a b : BitVec 7) : exec (.sshl d a b) = execSshl d a b := rfl
theorem exec_sshr (d a b : BitVec 7) : exec (.sshr d a b) = execSshr d a b := rfl
theorem exec_ssar (d a b : BitVec 7) : exec (.ssar d a b) = execSsar d a b := rfl
theorem exec_smin (d a b : BitVec 7) : exec (.smin d a b) = execSmin d a b := rfl
theorem exec_smax (d a b : BitVec 7) : exec (.smax d a b) = execSmax d a b := rfl
theorem exec_sumin (d a b : BitVec 7) : exec (.sumin d a b) = execSumin d a b := rfl
theorem exec_sumax (d a b : BitVec 7) : exec (.sumax d a b) = execSumax d a b := rfl
theorem exec_smov (d a : BitVec 7) : exec (.smov d a) = execSmov d a := rfl
theorem exec_sslt (d a b : BitVec 7) : exec (.sslt d a b) = execSslt d a b := rfl
theorem exec_sfadd (d a b : BitVec 7) : exec (.sfadd d a b) = execSfadd d a b := rfl
theorem exec_sfsub (d a b : BitVec 7) : exec (.sfsub d a b) = execSfsub d a b := rfl
theorem exec_sfmul (d a b : BitVec 7) : exec (.sfmul d a b) = execSfmul d a b := rfl
theorem exec_sffma (d a b : BitVec 7) : exec (.sffma d a b) = execSffma d a b := rfl
theorem exec_sfmin (d a b : BitVec 7) : exec (.sfmin d a b) = execSfmin d a b := rfl
theorem exec_sfmax (d a b : BitVec 7) : exec (.sfmax d a b) = execSfmax d a b := rfl
theorem exec_sfrcp (d a : BitVec 7) : exec (.sfrcp d a) = execSfrcp d a := rfl
theorem exec_sfrsq (d a : BitVec 7) : exec (.sfrsq d a) = execSfrsq d a := rfl
theorem exec_sfsqrt (d a : BitVec 7) : exec (.sfsqrt d a) = execSfsqrt d a := rfl
theorem exec_scvtfi (d a : BitVec 7) : exec (.scvtfi d a) = execScvtfi d a := rfl
theorem exec_scvtif (d a : BitVec 7) : exec (.scvtif d a) = execScvtif d a := rfl
theorem exec_sfcmplt (d a b : BitVec 7) : exec (.sfcmplt d a b) = execSfcmplt d a b := rfl
theorem exec_saddi (d a : BitVec 7) (i : BitVec 11) : exec (.saddi d a i) = execSaddi d a i := rfl
theorem exec_vmovi (d : BitVec 7) (i : BitVec 18) : exec (.vmovi d i) = execVmovi d i := rfl
theorem exec_imx (v : BitVec 25) (next : Word) : exec (.imx v next) = execImx v next := rfl
theorem exec_cplin (d a : BitVec 7) (q : BitVec 4) : exec (.cplin d a q) = execCplin d a q := rfl
theorem exec_cp2d (d a : BitVec 7) (q : BitVec 4) : exec (.cp2d d a q) = execCp2d d a q := rfl
theorem exec_cpgath (d a : BitVec 7) (q : BitVec 4) : exec (.cpgath d a q) = execCpgath d a q := rfl
theorem exec_cpscat (d a : BitVec 7) (q : BitVec 4) : exec (.cpscat d a q) = execCpscat d a q := rfl
theorem exec_cpexp (d a : BitVec 7) (q : BitVec 4) : exec (.cpexp d a q) = execCpexp d a q := rfl
theorem exec_cpcmp (d a : BitVec 7) (q : BitVec 4) : exec (.cpcmp d a q) = execCpcmp d a q := rfl
theorem exec_rcarm (d a : BitVec 7) (q : BitVec 4) : exec (.rcarm d a q) = execRcarm d a q := rfl
theorem exec_rcwait (d a : BitVec 7) (q : BitVec 4) : exec (.rcwait d a q) = execRcwait d a q := rfl
theorem exec_gtopk (d a : BitVec 7) (q : BitVec 4) : exec (.gtopk d a q) = execGtopk d a q := rfl
theorem exec_gbuck (d a : BitVec 7) (q : BitVec 4) : exec (.gbuck d a q) = execGbuck d a q := rfl
theorem exec_gmerge (d a : BitVec 7) (q : BitVec 4) : exec (.gmerge d a q) = execGmerge d a q := rfl
theorem exec_ghist (d a : BitVec 7) (q : BitVec 4) : exec (.ghist d a q) = execGhist d a q := rfl
theorem exec_gscan (d a : BitVec 7) (q : BitVec 4) : exec (.gscan d a q) = execGscan d a q := rfl
theorem exec_gperm (d a : BitVec 7) (q : BitVec 4) : exec (.gperm d a q) = execGperm d a q := rfl
theorem exec_cxfork (d a : BitVec 7) (q : BitVec 4) : exec (.cxfork d a q) = execCxfork d a q := rfl
theorem exec_cxrdv (d a : BitVec 7) (q : BitVec 4) : exec (.cxrdv d a q) = execCxrdv d a q := rfl
theorem exec_cxbond (d a : BitVec 7) (q : BitVec 4) : exec (.cxbond d a q) = execCxbond d a q := rfl
theorem exec_cxdense (d a : BitVec 7) (q : BitVec 4) : exec (.cxdense d a q) = execCxdense d a q := rfl
theorem exec_qfence (d a : BitVec 7) (q : BitVec 4) : exec (.qfence d a q) = execQfence d a q := rfl
theorem exec_qstat (d a : BitVec 7) (q : BitVec 4) : exec (.qstat d a q) = execQstat d a q := rfl
theorem exec_genray (d a : BitVec 7) (g : BitVec 2) : exec (.genray d a g) = execGenray d a g := rfl
theorem exec_trace (g : BitVec 2) : exec (.trace g) = execTrace g := rfl
theorem exec_accept (g : BitVec 2) : exec (.accept g) = execAccept g := rfl
theorem exec_ignore (g : BitVec 2) : exec (.ignore g) = execIgnore g := rfl
theorem exec_termray (g : BitVec 2) : exec (.termray g) = execTermray g := rfl
theorem exec_spawn (d a : BitVec 7) (g : BitVec 2) : exec (.spawn d a g) = execSpawn d a g := rfl
theorem exec_rayld (d : BitVec 7) (c : BitVec 2) (w : BitVec 5) (g : BitVec 2) : exec (.rayld d c w g) = execRayld d c w g := rfl
theorem exec_rayst (d : BitVec 7) (c : BitVec 2) (w : BitVec 5) (g : BitVec 2) : exec (.rayst d c w g) = execRayst d c w g := rfl
theorem exec_raydone (g : BitVec 2) : exec (.raydone g) = execRaydone g := rfl
theorem exec_binkey (d : BitVec 7) (g : BitVec 2) : exec (.binkey d g) = execBinkey d g := rfl
theorem exec_childq (d : BitVec 7) (g : BitVec 2) : exec (.childq d g) = execChildq d g := rfl
theorem exec_item (c : BitVec 5) (a : BitVec 7) (g : BitVec 2) : exec (.item c a g) = execItem c a g := rfl
theorem exec_launch (d a : BitVec 7) (g : BitVec 2) : exec (.launch d a g) = execLaunch d a g := rfl
theorem exec_nop : exec (.nop) = execNop := rfl
theorem exec_trap (n : BitVec 7) (g : BitVec 2) : exec (.trap n g) = execTrap n g := rfl
theorem exec_bkpt (n : BitVec 7) (g : BitVec 2) : exec (.bkpt n g) = execBkpt n g := rfl
theorem exec_getsr (d e : BitVec 7) (s : BitVec 1) (g : BitVec 2) : exec (.getsr d e s g) = execGetsr d e s g := rfl
theorem exec_setsr (e a : BitVec 7) (g : BitVec 2) : exec (.setsr e a g) = execSetsr e a g := rfl
theorem exec_rdcyc (d : BitVec 7) (g : BitVec 2) : exec (.rdcyc d g) = execRdcyc d g := rfl
theorem exec_yield : exec (.yield) = execYield := rfl
theorem exec_region : exec (.region) = execRegion := rfl
theorem exec_winb (n : BitVec 5) : exec (.winb n) = execWinb n := rfl
theorem exec_swinb (n : BitVec 1) : exec (.swinb n) = execSwinb n := rfl
theorem exec_regreq (n : BitVec 7) : exec (.regreq n) = execRegreq n := rfl
theorem exec_regrel (n : BitVec 7) : exec (.regrel n) = execRegrel n := rfl
theorem exec_rdlane (d a : BitVec 7) (g : BitVec 2) : exec (.rdlane d a g) = execRdlane d a g := rfl
theorem exec_wrlane (d a : BitVec 7) (g : BitVec 2) : exec (.wrlane d a g) = execWrlane d a g := rfl
theorem exec_bcast (d a : BitVec 7) (s : BitVec 1) (g : BitVec 2) : exec (.bcast d a s g) = execBcast d a s g := rfl
theorem exec_prefh (a : BitVec 7) (g : BitVec 2) : exec (.prefh a g) = execPrefh a g := rfl
theorem exec_parkc (n : BitVec 7) : exec (.parkc n) = execParkc n := rfl
theorem exec_tileOpComplete (wave : Nat) : exec (.tileOpComplete wave) = execTileOpComplete wave := rfl
theorem exec_illegalEncoding (word : Word) : exec (.illegalEncoding word) = execIllegalEncoding word := rfl
theorem exec_fetchFault (va : Addr) : exec (.fetchFault va) = execFetchFault va := rfl
theorem exec_queuedCommandStart (ctx q : Nat) : exec (.queuedCommandStart ctx q) = execQueuedCommandStart ctx q := rfl
theorem exec_copyUnit (ctx q : Nat) : exec (.copyUnit ctx q) = execCopyUnit ctx q := rfl
theorem exec_gseRow (ctx q : Nat) : exec (.gseRow ctx q) = execGseRow ctx q := rfl
theorem exec_macRun (ctx cl mism tile : Nat) : exec (.macRun ctx cl mism tile) = execMacRun ctx cl mism tile := rfl
theorem exec_queuedCommandComplete (ctx q : Nat) : exec (.queuedCommandComplete ctx q) = execQueuedCommandComplete ctx q := rfl
theorem exec_loadb (ctx cl : Nat) : exec (.loadb ctx cl) = execLoadb ctx cl := rfl
theorem exec_contract (ctx cl : Nat) : exec (.contract ctx cl) = execContract ctx cl := rfl
theorem exec_dense (ctx cl : Nat) : exec (.dense ctx cl) = execDense ctx cl := rfl
theorem exec_conv3 (ctx cl : Nat) : exec (.conv3 ctx cl) = execConv3 ctx cl := rfl
theorem exec_ups2 (ctx cl : Nat) : exec (.ups2 ctx cl) = execUps2 ctx cl := rfl
theorem exec_act (ctx cl : Nat) : exec (.act ctx cl) = execAct ctx cl := rfl
theorem exec_perm (ctx cl : Nat) : exec (.perm ctx cl) = execPerm ctx cl := rfl
theorem exec_storeb (ctx cl : Nat) : exec (.storeb ctx cl) = execStoreb ctx cl := rfl
theorem exec_splitParts (ctx cl : Nat) : exec (.splitParts ctx cl) = execSplitParts ctx cl := rfl
theorem exec_endSplit (ctx cl : Nat) : exec (.endSplit ctx cl) = execEndSplit ctx cl := rfl
theorem exec_env (ctx cl : Nat) : exec (.env ctx cl) = execEnv ctx cl := rfl
theorem exec_endProg (ctx cl : Nat) : exec (.endProg ctx cl) = execEndProg ctx cl := rfl
theorem exec_parkcTimeout (wave : Nat) : exec (.parkcTimeout wave) = execParkcTimeout wave := rfl
theorem exec_loadLands (wave idx : Nat) : exec (.loadLands wave idx) = execLoadLands wave idx := rfl
theorem exec_storePerformed (wave idx : Nat) : exec (.storePerformed wave idx) = execStorePerformed wave idx := rfl
theorem exec_monwRecheck (slice : Nat) : exec (.monwRecheck slice) = execMonwRecheck slice := rfl
theorem exec_regionJoin (tile : Nat) : exec (.regionJoin tile) = execRegionJoin tile := rfl
theorem exec_drainCombine (idx : Nat) : exec (.drainCombine idx) = execDrainCombine idx := rfl
theorem exec_drainAck (idx : Nat) : exec (.drainAck idx) = execDrainAck idx := rfl
theorem exec_regionRead (tile : Nat) : exec (.regionRead tile) = execRegionRead tile := rfl
theorem exec_l1Evict (cid line : Nat) : exec (.l1Evict cid line) = execL1Evict cid line := rfl
theorem exec_waveRetire (wave : Nat) : exec (.waveRetire wave) = execWaveRetire wave := rfl
theorem exec_regreqGrant (cid part : Nat) : exec (.regreqGrant cid part) = execRegreqGrant cid part := rfl
theorem exec_spillWave (cid part : Nat) : exec (.spillWave cid part) = execSpillWave cid part := rfl
theorem exec_spillReturn (wave : Nat) : exec (.spillReturn wave) = execSpillReturn wave := rfl
theorem exec_monwSpill (wave : Nat) : exec (.monwSpill wave) = execMonwSpill wave := rfl
theorem exec_waveExchange (cid part : Nat) : exec (.waveExchange cid part) = execWaveExchange cid part := rfl
theorem exec_waveAgeBoost (wave : Nat) : exec (.waveAgeBoost wave) = execWaveAgeBoost wave := rfl
theorem exec_lqbell (n : Nat) : exec (.lqbell n) = execLqbell n := rfl
theorem exec_launchAccept (n : Nat) : exec (.launchAccept n) = execLaunchAccept n := rfl
theorem exec_groupPlace : exec (.groupPlace) = execGroupPlace := rfl
theorem exec_placementReserve (lid : Nat) : exec (.placementReserve lid) = execPlacementReserve lid := rfl
theorem exec_launchComplete (lid : Nat) : exec (.launchComplete lid) = execLaunchComplete lid := rfl
theorem exec_rayTraverse (ray : Nat) : exec (.rayTraverse ray) = execRayTraverse ray := rfl
theorem exec_binAgeFlush (bin : Nat) : exec (.binAgeFlush bin) = execBinAgeFlush bin := rfl
theorem exec_rayRefill (cl ctx : Nat) : exec (.rayRefill cl ctx) = execRayRefill cl ctx := rfl
theorem exec_groupHaltComplete (group : Nat) : exec (.groupHaltComplete group) = execGroupHaltComplete group := rfl
theorem exec_resume (ctx seq : Nat) : exec (.resume ctx seq) = execResume ctx seq := rfl
theorem exec_skip (ctx seq : Nat) : exec (.skip ctx seq) = execSkip ctx seq := rfl
theorem exec_cancel (ctx seq : Nat) : exec (.cancel ctx seq) = execCancel ctx seq := rfl
theorem exec_kill (ctx seq : Nat) : exec (.kill ctx seq) = execKill ctx seq := rfl
theorem exec_trapreplyInvalid (value : Addr) : exec (.trapreplyInvalid value) = execTrapreplyInvalid value := rfl
theorem exec_tqerrClear (value : Word) : exec (.tqerrClear value) = execTqerrClear value := rfl
theorem exec_engineStatusClear (reg : Reg) (value : Word) : exec (.engineStatusClear reg value) = execEngineStatusClear reg value := rfl
theorem exec_ctxNone (ctx : Nat) : exec (.ctxNone ctx) = execCtxNone ctx := rfl
theorem exec_switchIn (ctx : Nat) : exec (.switchIn ctx) = execSwitchIn ctx := rfl
theorem exec_switchOut (ctx : Nat) : exec (.switchOut ctx) = execSwitchOut ctx := rfl
theorem exec_killContext (ctx : Nat) : exec (.killContext ctx) = execKillContext ctx := rfl
theorem exec_killLaunch (ctx : Nat) : exec (.killLaunch ctx) = execKillLaunch ctx := rfl
theorem exec_haltContext (ctx : Nat) : exec (.haltContext ctx) = execHaltContext ctx := rfl
theorem exec_ctxReservedOp (ctx op : Nat) : exec (.ctxReservedOp ctx op) = execCtxReservedOp ctx op := rfl
theorem exec_contextOpComplete : exec (.contextOpComplete) = execContextOpComplete := rfl
theorem exec_invalidationRequest (ctx lo hi : Nat) : exec (.invalidationRequest ctx lo hi) = execInvalidationRequest ctx lo hi := rfl
theorem exec_invalidationComplete : exec (.invalidationComplete) = execInvalidationComplete := rfl
theorem exec_domainWrite (value : Word) : exec (.domainWrite value) = execDomainWrite value := rfl
theorem exec_linkctlWrite (n : Nat) (value : Word) : exec (.linkctlWrite n value) = execLinkctlWrite n value := rfl
theorem exec_registerWrite (reg : Reg) (value : Addr) : exec (.registerWrite reg value) = execRegisterWrite reg value := rfl
theorem exec_linkUp (port did : Nat) : exec (.linkUp port did) = execLinkUp port did := rfl
theorem exec_flitReceive (port : Nat) (flit : List Byte) : exec (.flitReceive port flit) = execFlitReceive port flit := rfl
theorem exec_nakReceive (port ack : Nat) : exec (.nakReceive port ack) = execNakReceive port ack := rfl
theorem exec_linkRead (port : Nat) : exec (.linkRead port) = execLinkRead port := rfl
theorem exec_linkWrite (port : Nat) : exec (.linkWrite port) = execLinkWrite port := rfl
theorem exec_linkAtomic (port : Nat) : exec (.linkAtomic port) = execLinkAtomic port := rfl
theorem exec_linkEnq (port : Nat) : exec (.linkEnq port) = execLinkEnq port := rfl
theorem exec_linkDeq (port : Nat) : exec (.linkDeq port) = execLinkDeq port := rfl
theorem exec_linkMonw (port : Nat) : exec (.linkMonw port) = execLinkMonw port := rfl
theorem exec_linkInvalidate (port : Nat) : exec (.linkInvalidate port) = execLinkInvalidate port := rfl
theorem exec_linkDrain (port : Nat) : exec (.linkDrain port) = execLinkDrain port := rfl
theorem exec_linkResponse (port : Nat) : exec (.linkResponse port) = execLinkResponse port := rfl
theorem exec_linkWake (port : Nat) : exec (.linkWake port) = execLinkWake port := rfl
theorem exec_linkLost (peer : Nat) : exec (.linkLost peer) = execLinkLost peer := rfl
theorem exec_hostRead (reg : Option Reg) (addr len : Nat) : exec (.hostRead reg addr len) = execHostRead reg addr len := rfl
theorem exec_hostWrite (reg : Option Reg) (value : Addr) (addr : Nat) (data : List Byte) : exec (.hostWrite reg value addr data) = execHostWrite reg value addr data := rfl
theorem exec_deviceReset (image key sig : List Byte) (keyidx version : Nat) : exec (.deviceReset image key sig keyidx version) = execDeviceReset image key sig keyidx version := rfl
theorem exec_extend (pcm : Nat) (data : List Byte) : exec (.extend pcm data) = execExtend pcm data := rfl
theorem exec_quote (nonce : List Byte) : exec (.quote nonce) = execQuote nonce := rfl
theorem exec_alarm (sources : BitVec 6) : exec (.alarm sources) = execAlarm sources := rfl
theorem exec_clockStepDown : exec (.clockStepDown) = execClockStepDown := rfl
theorem exec_clockStepUp : exec (.clockStepUp) = execClockStepUp := rfl
theorem exec_controlCoreRead (addr len : Nat) : exec (.controlCoreRead addr len) = execControlCoreRead addr len := rfl
theorem exec_controlCoreWrite (addr : Nat) (data : List Byte) : exec (.controlCoreWrite addr data) = execControlCoreWrite addr data := rfl
theorem exec_softError (site : Site) (correctable : Bool) : exec (.softError site correctable) = execSoftError site correctable := rfl

end Sys2Proof.Machine
end

