-- ==== Sys2Proof/Laws/Memory.lean ====
section
/-! SUPPORT. Every memory operation keeps the canonical form of memory (08 R241; 09 R272). -/

namespace Sys2Proof.Machine

set_option Elab.async false

theorem reset_memoryOk : State.reset.memoryOk := rfl

/-- Only the memory of a state decides. -/
theorem State.memoryOk_of_mem {s t : State} (h : s.memoryOk) (e : t.mem = s.mem) : t.memoryOk := by
  unfold State.memoryOk at *
  rw [e]
  exact h

/-- A sequence of operations keeps the form if each one does. -/
theorem State.memoryOk_foldl {α : Type} {f : State → α → State} (hf : ∀ s a, s.memoryOk → (f s a).memoryOk) {s : State} (l : List α)
    (h : s.memoryOk) : (l.foldl f s).memoryOk := by
  induction l generalizing s with
  | nil => exact h
  | cons a l ih => exact ih (hf s a h)

/-- The same of operations that carry something else along. -/
theorem State.memoryOk_foldl_fst {α β : Type} {f : State × β → α → State × β} (hf : ∀ r a, r.1.memoryOk → (f r a).1.memoryOk)
    {r : State × β} (l : List α) (h : r.1.memoryOk) : (l.foldl f r).1.memoryOk := by
  induction l generalizing r with
  | nil => exact h
  | cons a l ih => exact ih (hf r a h)

/-! ### Bytes -/

theorem State.memoryOk_setByte {s : State} (key : Nat) (b : Byte) (h : s.memoryOk) : (s.setByte key b).memoryOk :=
  SMap.canonical_set s.mem 0 key b h

theorem State.memoryOk_putCells {s : State} (cs : List (Nat × Byte)) (h : s.memoryOk) : (s.putCells cs).memoryOk :=
  memoryOk_foldl (f := fun (s : State) (c : Nat × Byte) => s.setByte c.1 c.2) (fun _ c => memoryOk_setByte c.1 c.2) cs h

theorem State.memoryOk_putBytes {s : State} (key : Nat) (bs : List Byte) (h : s.memoryOk) : (s.putBytes key bs).memoryOk :=
  memoryOk_putCells _ h

theorem State.memoryOk_zeroRange {s : State} (key n : Nat) (h : s.memoryOk) : (s.zeroRange key n).memoryOk :=
  SMap.canonical_filter s.mem 0 _ h

/-- The cells of a range, in rising order. -/
theorem cellsAt_pairwise (key : Nat) (bs : List Byte) : (cellsAt key bs).Pairwise (fun p q => p.1 < q.1) := by
  unfold cellsAt
  rw [List.pairwise_map]
  exact List.pairwise_lt_range.imp (fun h => by omega)

theorem cellsAt_bounds {key : Nat} {bs : List Byte} {c : Nat × Byte} (h : c ∈ cellsAt key bs) : key ≤ c.1 ∧ c.1 < key + bs.length := by
  unfold cellsAt at h
  obtain ⟨i, hi, rfl⟩ := List.mem_map.1 h
  have := List.mem_range.1 hi
  simp only
  omega

theorem State.memoryOk_putRange {s : State} (key : Nat) (bs : List Byte) (h : s.memoryOk) : (s.putRange key bs).memoryOk := by
  obtain ⟨hr, hd⟩ := (SMap.canonical_iff s.mem 0).1 h
  have hp := (SMap.rising_iff s.mem).1 hr
  refine (SMap.canonical_iff _ 0).2 ⟨(SMap.rising_iff _).2 ?_, ?_⟩
  · unfold State.putRange
    simp only [State.setMem]
    rw [List.pairwise_append, List.pairwise_append]
    refine ⟨⟨hp.filter _, (cellsAt_pairwise key bs).filter _, ?_⟩, hp.filter _, ?_⟩
    · intro a ha b hb
      have h1 := (List.mem_filter.1 ha).2
      have h2 := cellsAt_bounds (List.mem_filter.1 hb).1
      simp only [decide_eq_true_eq] at h1
      omega
    · intro a ha b hb
      have h2 := (List.mem_filter.1 hb).2
      simp only [decide_eq_true_eq] at h2
      rcases List.mem_append.1 ha with ha | ha
      · have h1 := (List.mem_filter.1 ha).2
        simp only [decide_eq_true_eq] at h1
        omega
      · have h1 := cellsAt_bounds (List.mem_filter.1 ha).1
        omega
  · intro p hp
    rcases List.mem_append.1 hp with hp | hp
    · rcases List.mem_append.1 hp with hp | hp
      · exact hd p (List.mem_filter.1 hp).1
      · simpa using (List.mem_filter.1 hp).2
    · exact hd p (List.mem_filter.1 hp).1

/-- Renaming the own device in the keys keeps their order. -/
theorem memoryWf_rekey {old new : Nat} {m : List Host.Cell} (hn : new < 8) (h : memoryWf m = true) : memoryWf (rekey old new m) = true := by
  obtain ⟨hr, hd⟩ := (SMap.canonical_iff m 0).1 h
  have hp := (SMap.rising_iff m).1 hr
  refine (SMap.canonical_iff _ 0).2 ⟨(SMap.rising_iff _).2 ?_, ?_⟩
  · unfold rekey
    rw [List.pairwise_append, List.pairwise_map]
    refine ⟨?_, hp.filter _, ?_⟩
    · refine (hp.filter (fun c => targetOf c.1 == old)).imp_of_mem ?_
      intro a b ha hb hab
      have h1 : targetOf a.1 = old := by simpa using (List.mem_filter.1 ha).2
      have h2 : targetOf b.1 = old := by simpa using (List.mem_filter.1 hb).2
      simp only [targetOf, physKey, paOf] at *
      omega
    · intro a ha b hb
      obtain ⟨c, hc, rfl⟩ := List.mem_map.1 ha
      have h2 := (List.mem_filter.1 hb).2
      have h3 := Nat.mod_lt c.1 (show 2 ^ 48 > 0 by decide)
      have h4 := of_decide_eq_true h2
      simp only [targetOf, physKey, paOf] at *
      omega
  · intro p hp
    rcases List.mem_append.1 hp with hp | hp
    · obtain ⟨c, hc, rfl⟩ := List.mem_map.1 hp
      exact hd c (List.mem_filter.1 hc).1
    · exact hd p (List.mem_filter.1 hp).1

/-! ### Coded blocks (09 R284) -/

theorem State.memoryOk_putCoded {s : State} (base : Nat) (cs : List (Nat × Byte)) (h : s.memoryOk) : (s.putCoded base cs).memoryOk := by
  unfold State.putCoded
  generalize s.shadow base = sh, s.blockView base true = bv
  by_cases h3 : sh / 256 % 4 = 3
  · rw [if_pos h3]
    exact memoryOk_putCells _ h
  · rw [if_neg h3]
    cases bv with
    | none => exact memoryOk_putCells _ h
    | some b =>
      generalize s.shadowKey base = k
      cases k with
      | none => exact memoryOk_putCells _ h
      | some k => exact memoryOk_putBytes _ _ (memoryOk_putBytes _ _ h)

theorem State.memoryOk_putView {s : State} (cs : List (Nat × Byte)) (coded : Bool) (h : s.memoryOk) : (s.putView cs coded).memoryOk := by
  unfold State.putView
  split
  · exact memoryOk_foldl (fun _ _ => memoryOk_putCoded _ _) _ h
  · exact memoryOk_putCells _ h

/-! ### Links, monitors, copies -/

theorem State.sendTo_mem {s t : State} {peer token : Nat} {x : LinkTx} {p : Purpose} (e : s.sendTo peer x p = some (t, token)) :
    t.mem = s.mem := by
  unfold State.sendTo at e
  split at e
  · cases e
  · simp only [Option.some.injEq, Prod.mk.injEq] at e
    obtain ⟨rfl, -⟩ := e
    dsimp only
    split <;> rfl

theorem State.countLost_mem (s : State) (peer : Nat) : (s.countLost peer).mem = s.mem := by
  unfold State.countLost
  split <;> rfl

theorem State.memoryOk_countLost {s : State} (peer : Nat) (h : s.memoryOk) : (s.countLost peer).memoryOk :=
  memoryOk_of_mem h (countLost_mem s peer)

theorem State.memoryOk_setWakeBit {s : State} (ctx k : Nat) (h : s.memoryOk) : (s.setWakeBit ctx k).memoryOk := by
  unfold State.setWakeBit
  split
  · exact h
  · exact memoryOk_setByte _ _ h

theorem State.memoryOk_wake {s : State} (m : Mon) (h : s.memoryOk) : (s.wake m).memoryOk := by
  unfold State.wake
  split
  · split <;> exact h
  · cases s.ctxs.find? m.ctx with
    | none => exact h
    | some c =>
      simp only
      split
      · exact memoryOk_setWakeBit _ _ h
      · exact h

theorem State.memoryOk_notify {s : State} (key : Nat) (h : s.memoryOk) : (s.notify key).memoryOk := by
  unfold State.notify
  simp only
  split
  · exact memoryOk_foldl (fun _ => memoryOk_wake) _ h
  · exact h

theorem State.memoryOk_invalidateMarks {s : State} (line : Nat) (h : s.memoryOk) : (s.invalidateMarks line).memoryOk := by
  unfold State.invalidateMarks
  split
  · exact h
  · refine memoryOk_foldl (fun t d ht => ?_) _ h
    split
    · rename_i e
      exact memoryOk_of_mem ht (sendTo_mem e)
    · exact ht

theorem State.memoryOk_mark {s : State} (line d : Nat) (h : s.memoryOk) : (s.mark line d).memoryOk := by
  unfold State.mark
  simp only
  split <;> exact h

theorem State.memoryOk_homePut {s : State} (cs : List (Nat × Byte)) (coded : Bool) (h : s.memoryOk) : (s.homePut cs coded).memoryOk := by
  unfold State.homePut
  exact memoryOk_foldl (fun _ => memoryOk_notify) _ (memoryOk_foldl (fun _ => memoryOk_invalidateMarks) _ (memoryOk_putView cs coded h))

theorem State.memoryOk_homeWrite {s : State} (cs : List (Nat × Byte)) (coded : Bool) (h : s.memoryOk) :
    (s.homeWrite cs coded).memoryOk := memoryOk_homePut cs coded (memoryOk_of_mem h rfl)

theorem State.spoilLine_mem (s : State) (line : Nat) : (s.spoilLine line).mem = s.mem := by
  unfold State.spoilLine
  split
  · exact countLost_mem _ _
  · split <;> rfl

theorem State.memoryOk_spoilLine {s : State} (line : Nat) (h : s.memoryOk) : (s.spoilLine line).memoryOk :=
  memoryOk_of_mem h (spoilLine_mem s line)

theorem State.memoryOk_combineUpd {s : State} (u : Upd) (h : s.memoryOk) : (s.combineUpd u).memoryOk := by
  unfold State.combineUpd
  split
  · exact memoryOk_spoilLine _ h
  · split
    · exact memoryOk_homePut _ _ h
    · simp only
      split
      · rename_i e
        exact memoryOk_of_mem h (sendTo_mem e)
      · exact memoryOk_countLost _ h

theorem State.memoryOk_sendUpd {s : State} (cid : Nat) (p : Upd → Bool) (h : s.memoryOk) : (s.sendUpd cid p).memoryOk := by
  unfold State.sendUpd
  exact memoryOk_foldl (fun _ => memoryOk_combineUpd) _ h

theorem State.memoryOk_recallLine {s : State} (line : Nat) (h : s.memoryOk) : (s.recallLine line).memoryOk := by
  unfold State.recallLine
  refine memoryOk_foldl (fun t c ht => ?_) _ h
  have h1 : (if (t.core c).l1.upd.any (fun u => u.line == line) then t.sendUpd c (fun u => u.line == line) else t).memoryOk := by
    split
    · exact memoryOk_sendUpd _ _ ht
    · exact ht
  dsimp only
  generalize (if (t.core c).l1.upd.any (fun u => u.line == line) then t.sendUpd c (fun u => u.line == line) else t) = u at h1 ⊢
  split
  · exact memoryOk_of_mem h1 rfl
  · exact h1

/-! ### Region tiles (08 R260 to R264): only a combination changes memory -/

theorem State.memoryOk_combineDelta {s : State} (tile : Nat) (delta : SMap Word) (coded : Bool) (h : s.memoryOk) :
    (s.combineDelta tile delta coded).memoryOk := by
  unfold State.combineDelta
  split
  · exact h
  · exact memoryOk_homePut _ _ h

theorem State.memoryOk_combineDrain {s : State} (d : Drain) (h : s.memoryOk) : (s.combineDrain d).memoryOk := by
  unfold State.combineDrain
  split
  · exact h
  · refine memoryOk_of_mem (s := if d.bad then (s.spoilLine (2 * d.tile)).spoilLine (2 * d.tile + 1) else s.combineDelta d.tile d.delta d.coded) ?_ rfl
    split
    · exact memoryOk_spoilLine _ (memoryOk_spoilLine _ h)
    · exact memoryOk_combineDelta _ _ _ h

/-- A fold over steps that leave memory as it is leaves it so. -/
theorem State.foldl_fst_mem {α β : Type} {f : State × β → α → State × β} (hf : ∀ r x, (f r x).1.mem = r.1.mem) (xs : List α)
    (r : State × β) : (xs.foldl f r).1.mem = r.1.mem := by
  induction xs generalizing r with
  | nil => rfl
  | cons x xs ih => exact (ih (f r x)).trans (hf r x)

/-- A fold of states over steps that leave memory as it is leaves it so. -/
theorem State.foldl_mem {α : Type} {f : State → α → State} (hf : ∀ s x, (f s x).mem = s.mem) (xs : List α) (s : State) :
    (xs.foldl f s).mem = s.mem := by
  induction xs generalizing s with
  | nil => rfl
  | cons x xs ih => exact (ih (f s x)).trans (hf s x)

theorem State.answerPeer_mem (s : State) (a : Asker) (status : Nat) (data : List Byte) : (s.answerPeer a status data).mem = s.mem := by
  unfold State.answerPeer
  split <;> rfl

theorem State.loseTile_mem (s : State) (cid tile : Nat) : (s.loseTile cid tile).mem = s.mem := by
  have h (s : State) (x : Nat × Add) : ((s.countLost (targetOf (256 * tile))).modOp x.1 (fun o => { o with adds := o.adds.erase x.2 })).mem = s.mem :=
    countLost_mem s _
  refine (foldl_mem h _ _).trans ?_
  split
  · rfl
  · dsimp only
    split
    · exact countLost_mem (s.dropHolder cid tile) _
    · exact countLost_mem (s.dropHolder cid tile) _

theorem State.sendDelta_mem (s : State) (cid : Nat) (h : Holder) (leaving : Bool) : (s.sendDelta cid h leaving).1.mem = s.mem := by
  unfold State.sendDelta
  dsimp only
  split
  · exact loseTile_mem _ _ _
  · rename_i t id e
    obtain ⟨r, e1, e2⟩ := Option.bind_eq_some_iff.1 e
    have h1 : t.mem = s.mem := (sendTo_mem e2).trans (sendTo_mem e1)
    dsimp only
    split
    · exact (countLost_mem t _).trans h1
    · exact h1

theorem State.startDrain_mem (s : State) (cid : Nat) (h : Holder) (leaving : Bool) : (s.startDrain cid h leaving).1.mem = s.mem := by
  unfold State.startDrain
  split
  · rfl
  · exact sendDelta_mem _ _ _ _

theorem State.tryAdd_mem {s t : State} {cid : Nat} {a : Add} {ids : List Nat} (e : s.tryAdd cid a = some (t, ids)) : t.mem = s.mem := by
  unfold State.tryAdd at e
  split at e
  · cases e
  · rename_i h _
    split at e
    · cases e
    · simp only [Option.some.injEq] at e
      split at e
      · rw [show t = _ from (congrArg Prod.fst e).symm]
        exact startDrain_mem (s.setHolder cid ((h.serve a).enter a.elem a.val)) cid _ false
      · cases e
        rfl

theorem State.requestJoin_mem (s : State) (cid : Nat) (a : Add) : (s.requestJoin cid a).mem = s.mem := by
  unfold State.requestJoin
  split
  · simp only
    split <;> rfl
  · split
    · rfl
    · split
      · rename_i e
        exact sendTo_mem e
      · exact loseTile_mem _ _ _

theorem State.pushAdds_mem (s : State) (cid tile : Nat) : (s.pushAdds cid tile).mem = s.mem := by
  have h : ((s.waitingAdds cid tile).foldl (fun (r : State × Bool) x =>
      if r.2 then
        match r.1.tryAdd cid x.2 with
        | none => (r.1, false)
        | some (s1, ids) => (s1.modOp x.1 (fun o => { o with adds := o.adds.erase x.2, waits := o.waits ++ ids }), true)
      else r) (s, true)).1.mem = s.mem := by
    refine foldl_fst_mem (fun r x => ?_) _ (s, true)
    split
    · split
      · rfl
      · rename_i e
        have h1 := tryAdd_mem e
        exact h1
    · rfl
  unfold State.pushAdds
  simp only
  split
  · exact (requestJoin_mem _ _ _).trans h
  · exact h

theorem State.grantShare_mem (s : State) (j : Join) (tile k : Nat) : (s.grantShare j tile k).mem = s.mem := by
  unfold State.grantShare
  split
  · rfl
  · dsimp only
    split
    · exact pushAdds_mem _ _ _
    · exact answerPeer_mem _ _ _ _

theorem State.endHalving_mem (s : State) (tile id : Nat) : (s.endHalving tile id).mem = s.mem := by
  unfold State.endHalving
  split
  · split
    · exact grantShare_mem _ _ _ _
    · rfl
  · rfl

theorem State.ackDrain_mem (s : State) (d : Drain) : (s.ackDrain d).mem = s.mem := by
  unfold State.ackDrain
  simp only
  split
  · rfl
  · refine (pushAdds_mem _ _ _).trans ((endHalving_mem _ _ _).trans ?_)
    split
    · rfl
    · split <;> rfl

theorem State.memoryOk_finishDrain {s : State} (id : Nat) (h : s.memoryOk) : (s.finishDrain id).memoryOk := by
  unfold State.finishDrain
  split
  · exact h
  · exact memoryOk_of_mem (memoryOk_combineDrain _ h) (ackDrain_mem _ _)

theorem State.memoryOk_leaveTile {s : State} (cid tile : Nat) (h : s.memoryOk) : (s.leaveTile cid tile).memoryOk := by
  unfold State.leaveTile
  split
  · exact h
  · split
    · exact memoryOk_finishDrain _ (memoryOk_of_mem h rfl)
    · exact memoryOk_foldl (fun _ => memoryOk_finishDrain) _ (memoryOk_of_mem h (startDrain_mem _ _ _ _))

theorem State.memoryOk_leaveTiles {s : State} (ctx : Nat) (h : s.memoryOk) : (s.leaveTiles ctx).memoryOk :=
  memoryOk_foldl (fun _ _ => memoryOk_leaveTile _ _) _ h

theorem State.memoryOk_recallTile {s : State} (tile : Nat) (h : s.memoryOk) : (s.recallTile tile).memoryOk := by
  unfold State.recallTile
  simp only
  split
  · exact h
  · exact memoryOk_foldl (fun _ _ => memoryOk_leaveTile _ _) _ (memoryOk_foldl (fun _ => memoryOk_combineDrain) _ h)

theorem State.requestDrains_mem (s : State) (tile cls : Nat) (hs : List Share) : (s.requestDrains tile cls hs).1.mem = s.mem := by
  refine foldl_fst_mem (fun r x => ?_) _ (s, ([] : List Nat))
  split
  · split
    · rename_i e
      exact sendTo_mem e
    · rfl
  · split
    · rfl
    · split
      · rfl
      · exact startDrain_mem _ _ _ _

theorem State.memoryOk_drainNow {s : State} (tile tol : Nat) (h : s.memoryOk) : (s.drainNow tile tol).memoryOk := by
  unfold State.drainNow
  split
  · exact h
  · rename_i t _
    exact memoryOk_foldl (fun _ => memoryOk_finishDrain) _ (memoryOk_of_mem h (requestDrains_mem s tile 0 (drainsFor tol t.byShare t.total)))

theorem State.landRead_mem (s : State) (r : TileRead) (g : Got) : (s.landRead r g).mem = s.mem := by
  unfold State.landRead
  split
  · rfl
  · exact answerPeer_mem _ _ _ _
  · exact answerPeer_mem _ _ _ _

theorem State.memoryOk_answerRead {s : State} (tile : Nat) (h : s.memoryOk) : (s.answerRead tile).memoryOk := by
  unfold State.answerRead
  split
  · exact h
  · split
    · exact h
    · split
      · exact memoryOk_of_mem h (requestDrains_mem _ _ _ _)
      · split
        · exact h
        · exact memoryOk_of_mem (memoryOk_recallLine _ h) (landRead_mem _ _ _)

theorem State.memoryOk_answerReads (fuel : Nat) {s : State} (tile : Nat) (h : s.memoryOk) : (State.answerReads fuel s tile).memoryOk := by
  induction fuel generalizing s with
  | zero => exact h
  | succ fuel ih =>
    unfold State.answerReads
    split
    · exact h
    · exact ih (memoryOk_answerRead _ (memoryOk_answerRead _ (memoryOk_drainNow _ _ h)))

theorem State.memoryOk_settleTile {s : State} (key tol : Nat) (h : s.memoryOk) : (s.settleTile key tol).memoryOk := by
  unfold State.settleTile
  split
  · exact h
  · exact memoryOk_drainNow _ _ (memoryOk_answerReads _ _ h)

theorem State.memoryOk_recall {s : State} (key : Nat) (h : s.memoryOk) : (s.recall key).memoryOk :=
  memoryOk_recallLine _ (memoryOk_recallTile _ h)

theorem State.memoryOk_recallCells {s : State} (cs : List (Nat × Byte)) (h : s.memoryOk) : (s.recallCells cs).memoryOk :=
  memoryOk_foldl (fun _ _ => memoryOk_recall _) _ h

/-! ### Accesses at the home -/

theorem State.memoryOk_remoteLine {s : State} (cls line : Nat) (cs : List (Nat × Byte)) (p : Purpose) (h : s.memoryOk) :
    (s.remoteLine cls line cs p).1.memoryOk := by
  unfold State.remoteLine
  simp only
  split
  · rename_i e
    exact memoryOk_of_mem (memoryOk_of_mem h (sendTo_mem e)) rfl
  · exact memoryOk_countLost _ h

theorem State.memoryOk_writeAs {s : State} (cls : Nat) (cs : List (Nat × Byte)) (coded : Bool) (p : Purpose) (h : s.memoryOk) :
    (s.writeAs cls cs coded p).1.memoryOk := by
  have h1 : (if (cs.filter (fun c => s.isLocal c.1)).isEmpty then s
      else (s.recallCells (cs.filter (fun c => s.isLocal c.1))).homeWrite (cs.filter (fun c => s.isLocal c.1)) coded).memoryOk := by
    split
    · exact h
    · exact memoryOk_homeWrite _ _ (memoryOk_recallCells _ h)
  unfold State.writeAs
  exact memoryOk_foldl_fst (r := (_, [])) (f := fun (r : State × List Nat) l =>
    ((r.1.remoteLine cls l ((cs.filter (fun c => !s.isLocal c.1)).filter (fun c => lineOf c.1 == l)) p).1, r.2 ++
      (r.1.remoteLine cls l ((cs.filter (fun c => !s.isLocal c.1)).filter (fun c => lineOf c.1 == l)) p).2))
    (fun r l hr => memoryOk_remoteLine _ _ _ _ hr) _ h1

theorem State.memoryOk_write {s : State} (cs : List (Nat × Byte)) (coded : Bool) (p : Purpose) (h : s.memoryOk) :
    (s.write cs coded p).1.memoryOk := memoryOk_writeAs 0 cs coded p h

theorem State.memoryOk_requestFill {s : State} (line cls : Nat) (h : s.memoryOk) : (s.requestFill line cls).1.memoryOk := by
  unfold State.requestFill
  split
  · exact h
  · split
    · rename_i e
      exact memoryOk_of_mem h (sendTo_mem e)
    · exact h

theorem State.memoryOk_homeReadAs {s : State} (cls key n : Nat) (coded : Bool) (h : s.memoryOk) :
    (s.homeReadAs cls key n coded).1.memoryOk := by
  have h1 := memoryOk_recallLine (lineOf key) h
  unfold State.homeReadAs
  simp only
  split
  · exact h1
  · split
    · exact memoryOk_of_mem h1 rfl
    · split
      · exact h1
      · exact memoryOk_requestFill _ _ h1

theorem State.memoryOk_homeRead {s : State} (key n : Nat) (coded : Bool) (h : s.memoryOk) : (s.homeRead key n coded).1.memoryOk :=
  memoryOk_homeReadAs 0 key n coded h

theorem State.askLeave_mem (s : State) (tile : Nat) : (s.askLeave tile).mem = s.mem := by
  refine foldl_mem (fun s x => ?_) _ s
  dsimp only
  split
  · rfl
  · split
    · rename_i e
      exact sendTo_mem e
    · rfl

theorem State.clearAfar_mem (s : State) (keys : List Nat) : (s.clearAfar keys).1.mem = s.mem := foldl_mem askLeave_mem _ s

/-- Where no core of another device holds one of the tiles, nothing is asked and nothing waits. -/
theorem State.clearAfar_free {s : State} {keys : List Nat} (h : ∀ k ∈ keys, s.isLocal k = true → s.heldAfar (tileOf k) = false) :
    s.clearAfar keys = (s, true) := by
  have h1 : (((keys.filter s.isLocal).map tileOf).dedup).filter s.heldAfar = [] := by
    refine List.filter_eq_nil_iff.2 (fun t ht => ?_)
    obtain ⟨k, hk, rfl⟩ := List.mem_map.1 (List.mem_dedup.1 ht)
    obtain ⟨h2, h3⟩ := List.mem_filter.1 hk
    simp [h k h2 h3]
  unfold State.clearAfar
  rw [h1]
  rfl

/-- A read that need not wait for another device settles its tile and reads the home. -/
theorem State.tileReadAs_near {s : State} {cls tol key n : Nat} {coded : Bool}
    (h : s.isLocal key = true → s.drainsAfar (tileOf key) tol = false) :
    s.tileReadAs cls tol key n coded = (s.settleTile key tol).homeReadAs cls key n coded := by
  unfold State.tileReadAs
  cases e : s.isLocal key
  · rfl
  · simp [h e]

theorem State.memoryOk_tileReadAs {s : State} (cls tol key n : Nat) (coded : Bool) (h : s.memoryOk) :
    (s.tileReadAs cls tol key n coded).1.memoryOk := by
  unfold State.tileReadAs
  split
  · exact memoryOk_of_mem h (askLeave_mem _ _)
  · exact memoryOk_homeReadAs _ _ _ _ (memoryOk_settleTile _ _ h)

theorem State.memoryOk_exactRead (fuel : Nat) {s : State} (key n : Nat) (got : List Byte) (h : s.memoryOk) :
    (State.exactRead fuel s key n got).1.memoryOk := by
  induction fuel generalizing s key n got with
  | zero => exact h
  | succ fuel ih =>
    unfold State.exactRead
    split
    · exact h
    · have h1 := memoryOk_tileReadAs 0 31 key (min n (128 - key % 128)) (s.codedAt key) h
      simp only
      split <;> (rename_i e; rw [e] at h1)
      · exact ih _ _ _ h1
      · exact h1
      · exact h1

theorem State.memoryOk_physWrite {s : State} (cs : List (Nat × Byte)) (h : s.memoryOk) : (s.physWrite cs).memoryOk :=
  memoryOk_foldl (fun _ _ => memoryOk_write _ _ _) _ h

/-! ### Cores -/

theorem State.memoryOk_attach {s : State} (keys tokens : List Nat) (h : s.memoryOk) : (s.attach keys tokens).memoryOk := by
  unfold State.attach
  split
  · exact h
  · exact memoryOk_of_mem h rfl

theorem State.memoryOk_flushDirty {s : State} (cid : Nat) (p : Nat → DByte → Bool) (h : s.memoryOk) : (s.flushDirty cid p).memoryOk := by
  unfold State.flushDirty
  simp only
  split
  · exact h
  · exact memoryOk_attach _ _ (memoryOk_foldl (fun _ => memoryOk_spoilLine) _
      (memoryOk_writeAs _ _ _ _ (memoryOk_writeAs _ _ _ _ (memoryOk_of_mem h rfl))))

theorem State.memoryOk_storeDirty {s : State} (cid ctx uid prio key : Nat) (bs : List Byte) (coded : Bool) (h : s.memoryOk) :
    (s.storeDirty cid ctx uid prio key bs coded).memoryOk := by
  unfold State.storeDirty
  refine State.memoryOk_of_mem (s := if (s.l1 cid).upd.any (fun u => u.line == lineOf key) then s.sendUpd cid (fun u => u.line == lineOf key) else s)
    ?_ rfl
  split
  · exact memoryOk_sendUpd _ _ h
  · exact h

theorem State.memoryOk_putScratch {s : State} (gk cid : Nat) (loc : Loc) (bs : List Byte) (h : s.memoryOk) :
    (s.putScratch gk cid loc bs).memoryOk := by
  have h1 : (s.putBytesIn gk cid loc bs).memoryOk := by
    unfold State.putBytesIn
    split <;> exact h
  unfold State.putScratch State.clearSpoiled
  split <;> exact h1

theorem State.memoryOk_putElem {s : State} (cid : Nat) (w : Wave) (p : Put) (h : s.memoryOk) : (s.putElem cid w p).1.memoryOk := by
  unfold State.putElem
  split
  · exact memoryOk_write _ _ _ h
  · exact memoryOk_storeDirty _ _ _ _ _ _ _ h
  · exact memoryOk_putScratch _ _ _ _ h

theorem State.memoryOk_boundary {s : State} (cid : Nat) (w : Wave) (sc : Nat) (h : s.memoryOk) : (s.boundary cid w sc).1.memoryOk := by
  have h1 := memoryOk_flushDirty cid (fun _ d => d.owners.contains w.uid) h
  unfold State.boundary
  split
  · exact h
  · split
    · exact h
    · simp only
      split
      · exact h1
      · dsimp only
        split
        · exact memoryOk_of_mem h1 rfl
        · exact memoryOk_of_mem h1 rfl

end Sys2Proof.Machine
end

