-- ==== Sys2Proof/Laws/Keeps.lean ====
section
/-! SUPPORT. What translation, records, taking an exception and issuing do to memory: each keeps its canonical form
(06 R178; 09 R290 to R294; 13 R365 to R373). -/

namespace Sys2Proof.Machine

set_option Elab.async false

/-! ### Updates that leave memory as it is -/

theorem State.pick_mem (s : State) (n : Nat) : (s.pick n).1.mem = s.mem := by
  unfold State.pick
  split <;> rfl

theorem State.level0_mem (s : State) (table va : Nat) : (s.level0 table va).1.mem = s.mem := by
  unfold State.level0
  simp only
  split
  · split
    · exact pick_mem _ _
    · exact pick_mem _ _
  · rfl

theorem State.walk_mem (ctx va n : Nat) (s : State) (table : Nat) : (State.walk ctx va n s table).1.mem = s.mem := by
  induction n generalizing s table with
  | zero => exact level0_mem _ _ _
  | succ n ih =>
    unfold State.walk
    simp only
    split
    · rfl
    · split
      · rfl
      · exact ih _ _

theorem State.keepWalk_mem (s : State) (tlb ctx va : Nat) (l : Leaf) (seen : List WalkEntry) :
    (s.keepWalk tlb ctx va l seen).mem = s.mem := rfl

theorem State.translate_mem (s : State) (tlb ctx va : Nat) : (s.translate tlb ctx va).1.mem = s.mem := by
  unfold State.translate
  split
  · rfl
  · rename_i c _
    have hp : (if (s.ways tlb ctx va c.ptbase).length = 1 then (s, 0) else s.pick (s.ways tlb ctx va c.ptbase).length).1.mem = s.mem := by
      split
      · rfl
      · exact pick_mem _ _
    simp only
    generalize (if (s.ways tlb ctx va c.ptbase).length = 1 then (s, 0) else s.pick (s.ways tlb ctx va c.ptbase).length) = q at hp ⊢
    split
    · exact hp
    · rename_i level table _
      have h := walk_mem ctx va level q.1 table
      split <;> (rename_i e; rw [e] at h)
      · exact h.trans hp
      · exact h.trans hp
    · exact hp

theorem State.virtual_mem (s : State) (tlb ctx va : Nat) (p : Perm) : (s.virtual tlb ctx va p).1.mem = s.mem := by
  have h := translate_mem s tlb ctx va
  unfold State.virtual
  split
  · rename_i e
    rw [e] at h
    exact h
  · rename_i e
    rw [e] at h
    split <;> exact h

theorem State.classify_mem (s : State) (tlb ctx : Nat) (g : Group) (lane wave a n : Nat) (lp scratch : Bool) (p : Perm) :
    (s.classify tlb ctx g lane wave a n lp scratch p).1.mem = s.mem := by
  unfold State.classify
  split
  · exact virtual_mem _ _ _ _ _
  · split
    · rfl
    · rfl
    · rfl
    · split
      · exact virtual_mem _ _ _ _ _
      · rfl
    · rfl

theorem State.range_mem (fuel : Nat) (s : State) (tlb ctx : Nat) (p : Perm) (va n : Nat) (acc : List (Nat × Nat × Bool)) :
    (s.range tlb ctx p fuel va n acc).1.mem = s.mem := by
  induction fuel generalizing s va n acc with
  | zero => rfl
  | succ fuel ih =>
    have h := virtual_mem s tlb ctx va p
    unfold State.range
    split
    · rfl
    · split
      · rfl
      · simp only
        split <;> (rename_i e; rw [e] at h)
        · exact (ih _ _ _ _).trans h
        · exact h
        · exact h

/-! ### The device's own accesses to a context's memory -/

theorem State.memoryOk_virtual {s : State} (tlb ctx va : Nat) (p : Perm) (h : s.memoryOk) : (s.virtual tlb ctx va p).1.memoryOk :=
  memoryOk_of_mem h (virtual_mem _ _ _ _ _)

theorem State.memoryOk_range {s : State} (tlb ctx : Nat) (p : Perm) (fuel va n : Nat) (acc : List (Nat × Nat × Bool)) (h : s.memoryOk) :
    (s.range tlb ctx p fuel va n acc).1.memoryOk := memoryOk_of_mem h (range_mem _ _ _ _ _ _ _ _)

theorem State.memoryOk_readVirtual {s : State} (tlb ctx va n cls : Nat) (h : s.memoryOk) :
    (s.readVirtual tlb ctx va n cls).1.memoryOk := by
  have h1 := memoryOk_range tlb ctx .r (n / 128 + 2) va n [] h
  unfold State.readVirtual
  split <;> (rename_i e; rw [e] at h1)
  · exact h1
  · rename_i s1 ps
    have h2 : (ps.foldl (fun (r : State × Except Bad (List Byte)) p =>
        match r.2 with
        | .error _ => r
        | .ok bs =>
          match r.1.tileReadAs cls 31 p.1 p.2.1 p.2.2 with
          | (s', .ok b) => (s', .ok (bs ++ b))
          | (s', .poison) => (s', .error (.fault .eccUncorrectable (va + bs.length)))
          | (s', .miss) => (s', .error .miss)) (s1, .ok [])).1.memoryOk := by
      refine memoryOk_foldl_fst (fun r p hr => ?_) _ h1
      split
      · exact hr
      · have h2 := memoryOk_tileReadAs cls 31 p.1 p.2.1 p.2.2 hr
        split <;> (rename_i e2; rw [e2] at h2; exact h2)
    have last : ∀ r : State × Except Bad (List Byte), r.1.memoryOk →
        (match r with
        | (s2, .ok bs) =>
          (if ps.all (fun p => s2.isLocal p.1) then s2 else s2.forgetLines (fun l => ps.any (fun p => lineOf p.1 == l)), Except.ok bs)
        | (s2, .error e) => (s2, .error e)).1.memoryOk := by
      rintro ⟨s2, bs | e⟩ hr
      · exact hr
      · dsimp only
        split
        · exact hr
        · exact memoryOk_of_mem hr rfl
    exact last _ h2

theorem State.memoryOk_writeVirtual {s : State} (tlb ctx va : Nat) (bs : List Byte) (h : s.memoryOk) :
    (s.writeVirtual tlb ctx va bs).1.memoryOk := by
  have h1 := memoryOk_range tlb ctx .w (bs.length / 128 + 2) va bs.length [] h
  unfold State.writeVirtual
  split <;> (rename_i e; rw [e] at h1)
  · exact h1
  · rename_i s1 ps
    have go : ∀ (ps : List (Nat × Nat × Bool)) (r : (State × List Nat) × Nat), r.1.1.memoryOk →
        (ps.foldl (fun (r : (State × List Nat) × Nat) p =>
          let (s', ts) := r.1.1.write (cellsAt p.1 ((bs.drop r.2).take p.2.1)) p.2.2 .other
          ((s', r.1.2 ++ ts), r.2 + p.2.1)) r).1.1.memoryOk := by
      intro ps
      induction ps with
      | nil => exact fun _ h => h
      | cons p ps ih => exact fun r hr => ih _ (memoryOk_write _ _ _ hr)
    exact go ps ((s1, []), 0) h1

/-! ### Access checks -/

theorem State.checkElem_mem (s : State) (k : Nat) (w : Wave) (lane : Nat) (acc : Access) (a : Addr) :
    (s.checkElem k w lane acc a).1.mem = s.mem := by
  have h := classify_mem s (cidOf k) w.ctx (s.groupOf w) lane k a.toNat acc.size acc.lanePrivate acc.scratch acc.perm
  unfold State.checkElem
  split
  · rfl
  · split <;> (rename_i e; rw [e] at h)
    · exact h
    · split
      · exact h
      · simp only
        split
        · exact h
        · split
          · exact h
          · split <;> exact h

theorem State.checkElems_mem (s : State) (k : Nat) (w : Wave) (lane : Nat) (acc : Access) (as : List Addr) :
    (s.checkElems k w lane acc as).1.mem = s.mem := by
  have go : ∀ (as : List Addr) (r : State × Except Bust (List Place)), r.1.mem = s.mem →
      (as.foldl (fun (r : State × Except Bust (List Place)) a =>
        match r.1.checkElem k w lane acc a, r.2 with
        | (s1, .ok p), .ok ps => (s1, .ok (ps ++ [p]))
        | (s1, .ok _), .error b => (s1, .error b)
        | (s1, .error b), .ok _ => (s1, .error b)
        | (s1, .error b), .error b0 => (s1, .error (if b.cause.step < b0.cause.step then b else b0))) r).1.mem = s.mem := by
    intro as
    induction as with
    | nil => exact fun _ h => h
    | cons a as ih =>
      intro r hr
      refine ih _ ?_
      have h := (checkElem_mem r.1 k w lane acc a).trans hr
      simp only
      split <;> (rename_i e _; rw [e] at h; exact h)
  exact go as (s, .ok []) rfl

theorem State.checkLanes_mem (s : State) (k : Nat) (w : Wave) (acc : Access) (addrs : Nat → List Addr) (ls : List Nat)
    (got : List (Nat × List Place)) : (s.checkLanes k w acc addrs ls got).1.mem = s.mem := by
  induction ls generalizing s got with
  | nil => rfl
  | cons l ls ih =>
    have h := checkElems_mem s k w l acc (addrs l)
    unfold State.checkLanes
    split <;> (rename_i e; rw [e] at h)
    · exact (ih _ _).trans h
    · exact h

/-! ### Loads (06 R181; 08 R245 to R249) and fetches (04 R132) -/

theorem State.memoryOk_cleanLine {s : State} (cid line : Nat) (coded : Bool) (h : s.memoryOk) : (s.cleanLine cid line coded).1.memoryOk := by
  have h1 := memoryOk_homeRead (128 * line) 128 coded h
  unfold State.cleanLine
  split
  · exact h
  · split <;> (rename_i e; rw [e] at h1)
    · exact memoryOk_of_mem h1 rfl
    · exact h1
    · exact h1

/-- An own Update-only copy of a line goes home first. -/
theorem State.memoryOk_sendOwn {s : State} (cid line : Nat) (h : s.memoryOk) :
    (if (s.l1 cid).upd.any (fun u => u.line == line) then s.sendUpd cid (fun u => u.line == line) else s).memoryOk := by
  split
  · exact memoryOk_sendUpd _ _ h
  · exact h

theorem State.memoryOk_plainLoad {s : State} (cid key n : Nat) (coded : Bool) (h : s.memoryOk) : (s.plainLoad cid key n coded).1.memoryOk := by
  have h1 := memoryOk_sendOwn cid (lineOf key) h
  unfold State.plainLoad
  simp only
  generalize (if ((s.l1 cid).upd.any fun u => u.line == lineOf key) = true then s.sendUpd cid fun u => u.line == lineOf key else s) = s1 at h1 ⊢
  have h2 := memoryOk_cleanLine cid (lineOf key) coded h1
  split
  · exact h1
  · split
    · exact h1
    · split <;> (rename_i e; rw [e] at h2; exact h2)

theorem State.memoryOk_invariantLoad {s : State} (cid ctx key n : Nat) (coded : Bool) (h : s.memoryOk) :
    (s.invariantLoad cid ctx key n coded).1.memoryOk := by
  have h1 := memoryOk_sendOwn cid (lineOf key) h
  unfold State.invariantLoad
  simp only
  generalize (if ((s.l1 cid).upd.any fun u => u.line == lineOf key) = true then s.sendUpd cid fun u => u.line == lineOf key else s) = s1 at h1 ⊢
  have h2 := memoryOk_homeRead (128 * lineOf key) 128 coded h1
  split
  · exact h1
  · split <;> (rename_i e; rw [e] at h2)
    · split
      · exact memoryOk_of_mem (memoryOk_mark _ _ h2) rfl
      · exact memoryOk_of_mem h2 rfl
    · exact h2
    · exact h2

theorem State.memoryOk_readLoc {s : State} (cid gk ctx : Nat) (inv : Bool) (loc : Loc) (n : Nat) (h : s.memoryOk) :
    (s.readLoc cid gk ctx inv loc n).1.memoryOk := by
  unfold State.readLoc
  split
  · split
    · exact memoryOk_invariantLoad _ _ _ _ _ h
    · exact memoryOk_plainLoad _ _ _ _ h
  · exact h

theorem State.memoryOk_fetchWord {s : State} (cid ctx va cls : Nat) (h : s.memoryOk) : (s.fetchWord cid ctx va cls).1.memoryOk := by
  have h1 := memoryOk_range cid ctx .x 3 va 4 [] h
  unfold State.fetchWord
  split <;> (rename_i e; rw [e] at h1)
  · exact h1
  · exact h1
  · refine memoryOk_foldl_fst (fun r p hr => ?_) _ h1
    split
    · exact hr
    · exact hr
    · have h2 := memoryOk_homeReadAs cls p.1 p.2.1 p.2.2 hr
      split <;> (rename_i e2; rw [e2] at h2; exact h2)

/-! ### Engine accesses (07 R205, R206) -/

theorem State.engineLoc_mem (s : State) (ctx : Nat) (e : QEntry) (p : Perm) (a n : Nat) : (s.engineLoc ctx e p a n).1.mem = s.mem := by
  unfold State.engineLoc
  split
  · have h := virtual_mem s deviceTlb ctx a p
    split <;> (rename_i x; rw [x] at h)
    · exact h
    · split
      · split <;> exact h
      · exact h
  · simp only
    split <;> rfl

theorem State.checkPieces_mem (s : State) (ctx : Nat) (e : QEntry) (ps : List (Nat × Nat)) (got : List (Nat × Loc × Nat)) :
    (s.checkPieces ctx e ps got).1.mem = s.mem := by
  induction ps generalizing s got with
  | nil => rfl
  | cons p ps ih =>
    have h := engineLoc_mem s ctx e .w p.1 p.2
    unfold State.checkPieces
    split <;> (rename_i x; rw [x] at h)
    · exact h
    · split
      · exact h
      · rename_i s1 loc _
        have h2 := clearAfar_mem s1 loc.keys
        split <;> (rename_i y; rw [y] at h2)
        · exact h2.trans h
        · exact (ih _ _).trans (h2.trans h)

theorem State.memoryOk_putPieces {s : State} (e : QEntry) (ps : List (Nat × Loc × Nat)) (bs : List Byte) (ts : List Nat) (h : s.memoryOk) :
    (s.putPieces e ps bs ts).1.memoryOk := by
  induction ps generalizing s bs ts with
  | nil => exact h
  | cons p ps ih =>
    unfold State.putPieces
    split
    · exact ih _ _ (memoryOk_writeAs _ _ _ _ h)
    · exact ih _ _ (memoryOk_putScratch _ _ _ _ h)

/-- An engine's write keeps the form. -/
theorem State.memoryOk_engineWrite {s : State} (ctx qi : Nat) (e : QEntry) (a : Nat) (bs : List Byte) (h : s.memoryOk) :
    (s.engineWrite ctx qi e a bs).1.memoryOk := by
  have h1 := checkPieces_mem s ctx e (piecesOf a bs.length) []
  unfold State.engineWrite
  split <;> (rename_i x; rw [x] at h1)
  · exact memoryOk_of_mem h h1
  · rename_i s1 ps
    have h2 := memoryOk_putPieces e ps bs [] (memoryOk_of_mem h h1)
    simp only
    split
    · exact h2
    · exact memoryOk_of_mem h2 rfl

theorem State.memoryOk_engineWrites {s : State} (ctx qi : Nat) (e : QEntry) (rs : List (Nat × List Byte)) (h : s.memoryOk) :
    (s.engineWrites ctx qi e rs).1.memoryOk := by
  induction rs generalizing s with
  | nil => exact h
  | cons r rs ih =>
    have h1 := memoryOk_engineWrite ctx qi e r.1 r.2 h
    unfold State.engineWrites
    split <;> (rename_i x; rw [x] at h1)
    · exact h1
    · exact ih h1

/-! ### Trap records -/

theorem State.haltGroup_mem (s : State) (g : Nat) : (s.haltGroup g).mem = s.mem := rfl

theorem State.memoryOk_haltGroup {s : State} (g : Nat) (h : s.memoryOk) : (s.haltGroup g).memoryOk := memoryOk_of_mem h (haltGroup_mem s g)

theorem State.memoryOk_modCtx {s : State} (ctx : Nat) (f : Ctx → Ctx) (h : s.memoryOk) : (s.modCtx ctx f).memoryOk := memoryOk_of_mem h rfl

theorem State.memoryOk_trapQueueFailure {s : State} (ctx : Nat) (h : s.memoryOk) : (s.trapQueueFailure ctx).memoryOk := by
  have h1 : ((((s.groups.filter (fun g => g.2.ctx == ctx)).map Prod.fst).foldl State.haltGroup s).modCtx ctx
      (fun c => { c with frozen := true, tqfail := true })).memoryOk :=
    memoryOk_modCtx _ _ (memoryOk_foldl (fun _ _ => memoryOk_haltGroup _) _ h)
  unfold State.trapQueueFailure
  simp only
  split
  · split
    · exact h1
    · exact memoryOk_of_mem h1 rfl
  · exact memoryOk_of_mem h1 rfl

theorem State.memoryOk_tryRecord {s : State} (r : TrapRec) (m : Nat) (h : s.memoryOk) : (s.tryRecord r m).1.memoryOk := by
  unfold State.tryRecord
  split
  · exact h
  · rename_i c _
    have h1 := memoryOk_readVirtual deviceTlb r.ctx c.tqring.toNat 32 0 h
    split <;> (rename_i e; rw [e] at h1)
    · exact h1
    · exact h1
    · split
      · exact h1
      · rename_i s1 _ _ _ ring _
        split
        · exact h1
        · split
          · exact h1
          · have h2 := memoryOk_writeVirtual deviceTlb r.ctx (ring.base + 64 * (ring.tail % ring.cap)) (r.bytes m) h1
            split <;> (rename_i e2; rw [e2] at h2)
            · exact h2
            · rename_i s2 _
              have h3 := memoryOk_writeVirtual deviceTlb r.ctx (c.tqring.toNat + 20) (bytesOf 4 ((ring.tail + 1) % 2 ^ 32)) h2
              split <;> (rename_i e3; rw [e3] at h3)
              · exact h3
              · exact memoryOk_of_mem h3 rfl

theorem State.memoryOk_flushBacklog (fuel : Nat) {s : State} (ctx : Nat) (h : s.memoryOk) : (State.flushBacklog fuel s ctx).memoryOk := by
  induction fuel generalizing s with
  | zero => exact h
  | succ fuel ih =>
    unfold State.flushBacklog
    split
    · exact h
    · split
      · exact h
      · rename_i r m rest _
        have h1 := memoryOk_tryRecord r m h
        split
        · exact h
        · split <;> (rename_i e; rw [e] at h1)
          · exact ih (memoryOk_modCtx _ _ h1)
          · exact h1
          · exact memoryOk_trapQueueFailure _ h1

theorem State.memoryOk_putRecord {s : State} (r : TrapRec) (m : Nat) (h : s.memoryOk) : (s.putRecord r m).memoryOk := by
  unfold State.putRecord
  split
  · exact h
  · split
    · exact h
    · exact memoryOk_flushBacklog _ _ (memoryOk_modCtx _ _ h)

theorem State.memoryOk_nextSeq {s : State} (ctx place : Nat) (h : s.memoryOk) : (s.nextSeq ctx place).1.memoryOk := by
  unfold State.nextSeq
  split
  · exact h
  · simp only
    split
    · exact memoryOk_putBytes _ _ (memoryOk_modCtx _ _ h)
    · exact memoryOk_modCtx _ _ h

theorem State.memoryOk_unitFault {s : State} (ctx : Nat) (cause : Cause) (source : Nat) (fill : TrapRec → TrapRec) (pend : Pending → Pending)
    (h : s.memoryOk) : (s.unitFault ctx cause source fill pend).1.memoryOk :=
  memoryOk_putRecord _ _ (memoryOk_modCtx _ _ (memoryOk_nextSeq ctx otherSource h))

theorem State.memoryOk_writeGroupRecord {s : State} (x : Group) (h : s.memoryOk) : (s.writeGroupRecord x).memoryOk := by
  unfold State.writeGroupRecord
  split
  · exact h
  · exact memoryOk_putBytes _ _ h

theorem State.memoryOk_completeHalt {s : State} (g : Nat) (h : s.memoryOk) : (s.completeHalt g).memoryOk := by
  unfold State.completeHalt
  split
  · exact h
  · split
    · exact memoryOk_foldl (fun _ r => memoryOk_putRecord r _) _ (memoryOk_of_mem (memoryOk_writeGroupRecord _ h) rfl)
    · exact h

/-- Taking an exception writes the records of its halt at most. -/
theorem State.memoryOk_takeTrap {s : State} (iss : Issue) (c : Cause) (a : Addr) (l : Nat) (h : s.memoryOk) :
    (s.takeTrap iss c a l).memoryOk := by
  unfold State.takeTrap
  split
  · exact h
  · exact memoryOk_completeHalt _ (memoryOk_haltGroup _ (memoryOk_modCtx _ _ (memoryOk_of_mem (memoryOk_nextSeq _ _ h) rfl)))

/-! ### Issuing -/

theorem State.memoryOk_retire {s : State} (iss : Issue) (w : Wave) (h : s.memoryOk) : (s.retire iss w).memoryOk := memoryOk_of_mem h rfl

theorem State.memoryOk_waitIssue {s : State} (iss : Issue) (h : s.memoryOk) : (s.waitIssue iss).memoryOk := memoryOk_of_mem h rfl

theorem State.memoryOk_skipIssue {s : State} (p : Pre) (iss : Issue) (w : Wave) (h : s.memoryOk) : (s.skipIssue p iss w).memoryOk := by
  unfold State.skipIssue
  split <;> exact memoryOk_of_mem h rfl

/-- The memory of what an instruction's own part gives is in canonical form. -/
def Out.memoryOk : Out → Prop
  | .done s => s.memoryOk
  | .wait s => s.memoryOk
  | .trap s _ _ _ => s.memoryOk

/-- An issue keeps the form if its instruction's own part does. -/
theorem State.memoryOk_perform {s : State} (p : Pre) (iss : Issue) (w : Wave) (body : Word → Out) (h : s.memoryOk)
    (hb : ∀ lanes, (body lanes).memoryOk) : (s.perform p iss w body).memoryOk := by
  unfold State.perform
  split
  · exact memoryOk_skipIssue _ _ _ h
  · exact memoryOk_waitIssue _ h
  · exact memoryOk_takeTrap _ _ _ _ h
  · rename_i lanes _
    split
    · exact memoryOk_takeTrap _ _ _ _ h
    · have h1 := hb lanes
      split <;> (rename_i e; rw [e] at h1)
      · exact h1
      · exact memoryOk_waitIssue _ h1
      · exact memoryOk_takeTrap _ _ _ _ h1

/-- An outcome's next state, if there is one, has its memory in canonical form. -/
def KeepsMemory (o : Host.Outcome State Fault Refusal) : Prop := ∀ t, o = .next t → t.memoryOk

theorem keepsMemory_next {s : State} (h : s.memoryOk) : KeepsMemory (.next s) := fun _ e => by
  cases e
  exact h

theorem keepsMemory_withIssue {s : State} {f : Issue → Wave → State} (hf : ∀ iss w, (f iss w).memoryOk) : KeepsMemory (withIssue s f) := by
  unfold withIssue
  split
  · exact fun _ e => nomatch e
  · split
    · exact fun _ e => nomatch e
    · exact keepsMemory_next (hf _ _)

/-- An instruction whose own part keeps the form keeps it. -/
theorem keepsMemory_runState {s : State} (p : Pre) (body : State → Issue → Word → Wave → Out) (h : s.memoryOk)
    (hb : ∀ iss lanes w, (body s iss lanes w).memoryOk) : KeepsMemory (runState p body s) :=
  keepsMemory_withIssue (fun iss w => State.memoryOk_perform p iss w _ h (fun lanes => hb iss lanes w))

/-- An instruction of one wave keeps the form, whatever it does to its wave. -/
theorem keepsMemory_runWave {s : State} (p : Pre) (effect : Issue → Word → Wave → Wave) (h : s.memoryOk) : KeepsMemory (runWave p effect s) :=
  keepsMemory_withIssue (fun iss w => State.memoryOk_perform p iss w _ h (fun _ => State.memoryOk_retire _ _ h))

theorem keepsMemory_runHold {s : State} (p : Pre) (hold : Wave → Wave → Option (Nat → LCell)) (effect : Issue → Word → Wave → Wave)
    (h : s.memoryOk) : KeepsMemory (runHold p hold effect s) :=
  keepsMemory_withIssue (fun iss w => State.memoryOk_perform p iss w _ h (fun _ => State.memoryOk_retire _ _ h))

theorem keepsMemory_runPc {s : State} (p : Pre) (effect : Issue → Word → Wave → Wave) (h : s.memoryOk) : KeepsMemory (runPc p effect s) :=
  keepsMemory_withIssue (fun iss w => State.memoryOk_perform p iss w _ h (fun _ => State.memoryOk_retire _ _ h))

theorem keepsMemory_event {s : State} {f : State → State} (hf : (f s).memoryOk) : KeepsMemory (event f s) := keepsMemory_next hf

theorem keepsMemory_controlEvent {s : State} {f : State → State} (h : s.memoryOk) (hf : (f s).memoryOk) :
    KeepsMemory (controlEvent f s) := by
  unfold controlEvent
  split
  · exact keepsMemory_next hf
  · exact keepsMemory_next h

end Sys2Proof.Machine
end

