-- ==== Sys2Proof/Laws/PerInstr.lean ====
section
/-! SUPPORT. The round trip of every instruction through the encoder and the decoder, one lemma per constructor (03 R83 to R97). -/

namespace Sys2Proof.Laws.Encoding

/-- The bytes the encoder writes for an instruction are decoded to that instruction, every field at every value. -/
def Statement (i : Instr) : Prop := RoundTrip i

theorem iadd (d : BitVec 7) (a : BitVec 7) (b : BitVec 7) (g : BitVec 2) (h : BitVec 2) : Statement (.iadd d a b g h) := by
  obtain ⟨h0, h1, h2, h3, h4, h5⟩ := shape1 0x01 d a b g h (by decide)
  refine roundTrip_one rfl h0 (by decide) ((decodeWord_01 h0).trans ?_)
  rw [decodeOp01, h1, h2, h3, h4, h5]

theorem iadds (d : BitVec 7) (a : BitVec 7) (b : BitVec 7) (g : BitVec 2) (h : BitVec 2) : Statement (.iadds d a b g h) := by
  obtain ⟨h0, h1, h2, h3, h4, h5⟩ := shape1 0x02 d a b g h (by decide)
  refine roundTrip_one rfl h0 (by decide) ((decodeWord_02 h0).trans ?_)
  rw [decodeOp02, h1, h2, h3, h4, h5]

theorem isub (d : BitVec 7) (a : BitVec 7) (b : BitVec 7) (g : BitVec 2) (h : BitVec 2) : Statement (.isub d a b g h) := by
  obtain ⟨h0, h1, h2, h3, h4, h5⟩ := shape1 0x03 d a b g h (by decide)
  refine roundTrip_one rfl h0 (by decide) ((decodeWord_03 h0).trans ?_)
  rw [decodeOp03, h1, h2, h3, h4, h5]

theorem isubs (d : BitVec 7) (a : BitVec 7) (b : BitVec 7) (g : BitVec 2) (h : BitVec 2) : Statement (.isubs d a b g h) := by
  obtain ⟨h0, h1, h2, h3, h4, h5⟩ := shape1 0x04 d a b g h (by decide)
  refine roundTrip_one rfl h0 (by decide) ((decodeWord_04 h0).trans ?_)
  rw [decodeOp04, h1, h2, h3, h4, h5]

theorem imul (d : BitVec 7) (a : BitVec 7) (b : BitVec 7) (g : BitVec 2) (h : BitVec 2) : Statement (.imul d a b g h) := by
  obtain ⟨h0, h1, h2, h3, h4, h5⟩ := shape1 0x05 d a b g h (by decide)
  refine roundTrip_one rfl h0 (by decide) ((decodeWord_05 h0).trans ?_)
  rw [decodeOp05, h1, h2, h3, h4, h5]

theorem imulh (d : BitVec 7) (a : BitVec 7) (b : BitVec 7) (g : BitVec 2) (h : BitVec 2) : Statement (.imulh d a b g h) := by
  obtain ⟨h0, h1, h2, h3, h4, h5⟩ := shape1 0x06 d a b g h (by decide)
  refine roundTrip_one rfl h0 (by decide) ((decodeWord_06 h0).trans ?_)
  rw [decodeOp06, h1, h2, h3, h4, h5]

theorem imulhu (d : BitVec 7) (a : BitVec 7) (b : BitVec 7) (g : BitVec 2) (h : BitVec 2) : Statement (.imulhu d a b g h) := by
  obtain ⟨h0, h1, h2, h3, h4, h5⟩ := shape1 0x07 d a b g h (by decide)
  refine roundTrip_one rfl h0 (by decide) ((decodeWord_07 h0).trans ?_)
  rw [decodeOp07, h1, h2, h3, h4, h5]

theorem imad (d : BitVec 7) (a : BitVec 7) (b : BitVec 7) (g : BitVec 2) (h : BitVec 2) : Statement (.imad d a b g h) := by
  obtain ⟨h0, h1, h2, h3, h4, h5⟩ := shape1 0x08 d a b g h (by decide)
  refine roundTrip_one rfl h0 (by decide) ((decodeWord_08 h0).trans ?_)
  rw [decodeOp08, h1, h2, h3, h4, h5]

theorem land (d : BitVec 7) (a : BitVec 7) (b : BitVec 7) (g : BitVec 2) (h : BitVec 2) : Statement (.land d a b g h) := by
  obtain ⟨h0, h1, h2, h3, h4, h5⟩ := shape1 0x09 d a b g h (by decide)
  refine roundTrip_one rfl h0 (by decide) ((decodeWord_09 h0).trans ?_)
  rw [decodeOp09, h1, h2, h3, h4, h5]

theorem lor (d : BitVec 7) (a : BitVec 7) (b : BitVec 7) (g : BitVec 2) (h : BitVec 2) : Statement (.lor d a b g h) := by
  obtain ⟨h0, h1, h2, h3, h4, h5⟩ := shape1 0x0A d a b g h (by decide)
  refine roundTrip_one rfl h0 (by decide) ((decodeWord_0A h0).trans ?_)
  rw [decodeOp0A, h1, h2, h3, h4, h5]

theorem lxor (d : BitVec 7) (a : BitVec 7) (b : BitVec 7) (g : BitVec 2) (h : BitVec 2) : Statement (.lxor d a b g h) := by
  obtain ⟨h0, h1, h2, h3, h4, h5⟩ := shape1 0x0B d a b g h (by decide)
  refine roundTrip_one rfl h0 (by decide) ((decodeWord_0B h0).trans ?_)
  rw [decodeOp0B, h1, h2, h3, h4, h5]

theorem andn (d : BitVec 7) (a : BitVec 7) (b : BitVec 7) (g : BitVec 2) (h : BitVec 2) : Statement (.andn d a b g h) := by
  obtain ⟨h0, h1, h2, h3, h4, h5⟩ := shape1 0x0C d a b g h (by decide)
  refine roundTrip_one rfl h0 (by decide) ((decodeWord_0C h0).trans ?_)
  rw [decodeOp0C, h1, h2, h3, h4, h5]

theorem shl (d : BitVec 7) (a : BitVec 7) (b : BitVec 7) (g : BitVec 2) (h : BitVec 2) : Statement (.shl d a b g h) := by
  obtain ⟨h0, h1, h2, h3, h4, h5⟩ := shape1 0x0D d a b g h (by decide)
  refine roundTrip_one rfl h0 (by decide) ((decodeWord_0D h0).trans ?_)
  rw [decodeOp0D, h1, h2, h3, h4, h5]

theorem shr (d : BitVec 7) (a : BitVec 7) (b : BitVec 7) (g : BitVec 2) (h : BitVec 2) : Statement (.shr d a b g h) := by
  obtain ⟨h0, h1, h2, h3, h4, h5⟩ := shape1 0x0E d a b g h (by decide)
  refine roundTrip_one rfl h0 (by decide) ((decodeWord_0E h0).trans ?_)
  rw [decodeOp0E, h1, h2, h3, h4, h5]

theorem sar (d : BitVec 7) (a : BitVec 7) (b : BitVec 7) (g : BitVec 2) (h : BitVec 2) : Statement (.sar d a b g h) := by
  obtain ⟨h0, h1, h2, h3, h4, h5⟩ := shape1 0x0F d a b g h (by decide)
  refine roundTrip_one rfl h0 (by decide) ((decodeWord_0F h0).trans ?_)
  rw [decodeOp0F, h1, h2, h3, h4, h5]

theorem imin (d : BitVec 7) (a : BitVec 7) (b : BitVec 7) (g : BitVec 2) (h : BitVec 2) : Statement (.imin d a b g h) := by
  obtain ⟨h0, h1, h2, h3, h4, h5⟩ := shape1 0x10 d a b g h (by decide)
  refine roundTrip_one rfl h0 (by decide) ((decodeWord_10 h0).trans ?_)
  rw [decodeOp10, h1, h2, h3, h4, h5]

theorem imax (d : BitVec 7) (a : BitVec 7) (b : BitVec 7) (g : BitVec 2) (h : BitVec 2) : Statement (.imax d a b g h) := by
  obtain ⟨h0, h1, h2, h3, h4, h5⟩ := shape1 0x11 d a b g h (by decide)
  refine roundTrip_one rfl h0 (by decide) ((decodeWord_11 h0).trans ?_)
  rw [decodeOp11, h1, h2, h3, h4, h5]

theorem umin (d : BitVec 7) (a : BitVec 7) (b : BitVec 7) (g : BitVec 2) (h : BitVec 2) : Statement (.umin d a b g h) := by
  obtain ⟨h0, h1, h2, h3, h4, h5⟩ := shape1 0x12 d a b g h (by decide)
  refine roundTrip_one rfl h0 (by decide) ((decodeWord_12 h0).trans ?_)
  rw [decodeOp12, h1, h2, h3, h4, h5]

theorem umax (d : BitVec 7) (a : BitVec 7) (b : BitVec 7) (g : BitVec 2) (h : BitVec 2) : Statement (.umax d a b g h) := by
  obtain ⟨h0, h1, h2, h3, h4, h5⟩ := shape1 0x13 d a b g h (by decide)
  refine roundTrip_one rfl h0 (by decide) ((decodeWord_13 h0).trans ?_)
  rw [decodeOp13, h1, h2, h3, h4, h5]

theorem lea2 (d : BitVec 7) (a : BitVec 7) (b : BitVec 7) (g : BitVec 2) : Statement (.lea2 d a b g) := by
  obtain ⟨h0, h1, h2, h3, h4, h5⟩ := shape2 0x14 d a b g (by decide)
  refine roundTrip_one rfl h0 (by decide) ((decodeWord_14 h0).trans ?_)
  simp [decodeOp14, h1, h2, h3, h4, h5]

theorem lea3 (d : BitVec 7) (a : BitVec 7) (b : BitVec 7) (g : BitVec 2) : Statement (.lea3 d a b g) := by
  obtain ⟨h0, h1, h2, h3, h4, h5⟩ := shape2 0x15 d a b g (by decide)
  refine roundTrip_one rfl h0 (by decide) ((decodeWord_15 h0).trans ?_)
  simp [decodeOp15, h1, h2, h3, h4, h5]

theorem mov (d : BitVec 7) (a : BitVec 7) (g : BitVec 2) (h : BitVec 2) : Statement (.mov d a g h) := by
  obtain ⟨h0, h1, h2, h3, h4, h5⟩ := shape3 0x16 d a g h (by decide)
  refine roundTrip_one rfl h0 (by decide) ((decodeWord_16 h0).trans ?_)
  simp [decodeOp16, h1, h2, h3, h4, h5]

theorem lnot (d : BitVec 7) (a : BitVec 7) (g : BitVec 2) (h : BitVec 2) : Statement (.lnot d a g h) := by
  obtain ⟨h0, h1, h2, h3, h4, h5⟩ := shape4 0x16 d a g h 1 (by decide) (by decide)
  refine roundTrip_one rfl h0 (by decide) ((decodeWord_16 h0).trans ?_)
  simp [decodeOp16, h1, h2, h3, h4, h5]

theorem neg (d : BitVec 7) (a : BitVec 7) (g : BitVec 2) (h : BitVec 2) : Statement (.neg d a g h) := by
  obtain ⟨h0, h1, h2, h3, h4, h5⟩ := shape4 0x16 d a g h 2 (by decide) (by decide)
  refine roundTrip_one rfl h0 (by decide) ((decodeWord_16 h0).trans ?_)
  simp [decodeOp16, h1, h2, h3, h4, h5]

theorem iabs (d : BitVec 7) (a : BitVec 7) (g : BitVec 2) (h : BitVec 2) : Statement (.iabs d a g h) := by
  obtain ⟨h0, h1, h2, h3, h4, h5⟩ := shape4 0x16 d a g h 3 (by decide) (by decide)
  refine roundTrip_one rfl h0 (by decide) ((decodeWord_16 h0).trans ?_)
  simp [decodeOp16, h1, h2, h3, h4, h5]

theorem popc (d : BitVec 7) (a : BitVec 7) (g : BitVec 2) (h : BitVec 2) : Statement (.popc d a g h) := by
  obtain ⟨h0, h1, h2, h3, h4, h5⟩ := shape4 0x16 d a g h 4 (by decide) (by decide)
  refine roundTrip_one rfl h0 (by decide) ((decodeWord_16 h0).trans ?_)
  simp [decodeOp16, h1, h2, h3, h4, h5]

theorem clz (d : BitVec 7) (a : BitVec 7) (g : BitVec 2) (h : BitVec 2) : Statement (.clz d a g h) := by
  obtain ⟨h0, h1, h2, h3, h4, h5⟩ := shape4 0x16 d a g h 5 (by decide) (by decide)
  refine roundTrip_one rfl h0 (by decide) ((decodeWord_16 h0).trans ?_)
  simp [decodeOp16, h1, h2, h3, h4, h5]

theorem ctz (d : BitVec 7) (a : BitVec 7) (g : BitVec 2) (h : BitVec 2) : Statement (.ctz d a g h) := by
  obtain ⟨h0, h1, h2, h3, h4, h5⟩ := shape4 0x16 d a g h 6 (by decide) (by decide)
  refine roundTrip_one rfl h0 (by decide) ((decodeWord_16 h0).trans ?_)
  simp [decodeOp16, h1, h2, h3, h4, h5]

theorem brev (d : BitVec 7) (a : BitVec 7) (g : BitVec 2) (h : BitVec 2) : Statement (.brev d a g h) := by
  obtain ⟨h0, h1, h2, h3, h4, h5⟩ := shape4 0x16 d a g h 7 (by decide) (by decide)
  refine roundTrip_one rfl h0 (by decide) ((decodeWord_16 h0).trans ?_)
  simp [decodeOp16, h1, h2, h3, h4, h5]

theorem bswap (d : BitVec 7) (a : BitVec 7) (g : BitVec 2) (h : BitVec 2) : Statement (.bswap d a g h) := by
  obtain ⟨h0, h1, h2, h3, h4, h5⟩ := shape4 0x16 d a g h 8 (by decide) (by decide)
  refine roundTrip_one rfl h0 (by decide) ((decodeWord_16 h0).trans ?_)
  simp [decodeOp16, h1, h2, h3, h4, h5]

theorem laneid (d : BitVec 7) (g : BitVec 2) (h : BitVec 2) : Statement (.laneid d g h) := by
  have := field_lt d (P := 128) rfl
  have := field_lt g (P := 4) rfl
  have := field_lt h (P := 4) rfl
  have hw : (wordOf 0x16 [fld d 18, lit 9 4, fld g 2, fld h 0]).toNat = 738197648 + d.toNat * 262144 + g.toNat * 4 + h.toNat * 1 :=
    wordOf_toNat _ _ (by rw [fld_eq d 18 (P := 262144) rfl, fld_eq g 2 (P := 4) rfl, fld_eq h 0 (P := 1) rfl]; simp only [lit, sum_field, sum_none]; omega) (by omega)
  have h0 : bitsAt 25 7 (wordOf 0x16 [fld d 18, lit 9 4, fld g 2, fld h 0]) = BitVec.ofNat 7 0x16 := bitsAt_code (P := 33554432) (Q := 128) rfl rfl (by rw [hw]; omega)
  have h1 : bitsAt 4 7 (wordOf 0x16 [fld d 18, lit 9 4, fld g 2, fld h 0]) = BitVec.ofNat 7 9 := bitsAt_code (P := 16) (Q := 128) rfl rfl (by rw [hw]; omega)
  have h2 : bitsAt 4 14 (wordOf 0x16 [fld d 18, lit 9 4, fld g 2, fld h 0]) = BitVec.ofNat 14 9 := bitsAt_code (P := 16) (Q := 16384) rfl rfl (by rw [hw]; omega)
  have h3 : bitsAt 18 7 (wordOf 0x16 [fld d 18, lit 9 4, fld g 2, fld h 0]) = d := bitsAt_eq (P := 262144) (Q := 128) rfl rfl (by rw [hw]; omega)
  have h4 : bitsAt 2 2 (wordOf 0x16 [fld d 18, lit 9 4, fld g 2, fld h 0]) = g := bitsAt_eq (P := 4) (Q := 4) rfl rfl (by rw [hw]; omega)
  have h5 : bitsAt 0 2 (wordOf 0x16 [fld d 18, lit 9 4, fld g 2, fld h 0]) = h := bitsAt_eq (P := 1) (Q := 4) rfl rfl (by rw [hw]; omega)
  refine roundTrip_one rfl h0 (by decide) ((decodeWord_16 h0).trans ?_)
  simp [decodeOp16, h1, h2, h3, h4, h5]

theorem fibid (d : BitVec 7) (g : BitVec 2) (h : BitVec 2) : Statement (.fibid d g h) := by
  have := field_lt d (P := 128) rfl
  have := field_lt g (P := 4) rfl
  have := field_lt h (P := 4) rfl
  have hw : (wordOf 0x16 [fld d 18, lit 10 4, fld g 2, fld h 0]).toNat = 738197664 + d.toNat * 262144 + g.toNat * 4 + h.toNat * 1 :=
    wordOf_toNat _ _ (by rw [fld_eq d 18 (P := 262144) rfl, fld_eq g 2 (P := 4) rfl, fld_eq h 0 (P := 1) rfl]; simp only [lit, sum_field, sum_none]; omega) (by omega)
  have h0 : bitsAt 25 7 (wordOf 0x16 [fld d 18, lit 10 4, fld g 2, fld h 0]) = BitVec.ofNat 7 0x16 := bitsAt_code (P := 33554432) (Q := 128) rfl rfl (by rw [hw]; omega)
  have h1 : bitsAt 4 7 (wordOf 0x16 [fld d 18, lit 10 4, fld g 2, fld h 0]) = BitVec.ofNat 7 10 := bitsAt_code (P := 16) (Q := 128) rfl rfl (by rw [hw]; omega)
  have h2 : bitsAt 4 14 (wordOf 0x16 [fld d 18, lit 10 4, fld g 2, fld h 0]) = BitVec.ofNat 14 10 := bitsAt_code (P := 16) (Q := 16384) rfl rfl (by rw [hw]; omega)
  have h3 : bitsAt 18 7 (wordOf 0x16 [fld d 18, lit 10 4, fld g 2, fld h 0]) = d := bitsAt_eq (P := 262144) (Q := 128) rfl rfl (by rw [hw]; omega)
  have h4 : bitsAt 2 2 (wordOf 0x16 [fld d 18, lit 10 4, fld g 2, fld h 0]) = g := bitsAt_eq (P := 4) (Q := 4) rfl rfl (by rw [hw]; omega)
  have h5 : bitsAt 0 2 (wordOf 0x16 [fld d 18, lit 10 4, fld g 2, fld h 0]) = h := bitsAt_eq (P := 1) (Q := 4) rfl rfl (by rw [hw]; omega)
  refine roundTrip_one rfl h0 (by decide) ((decodeWord_16 h0).trans ?_)
  simp [decodeOp16, h1, h2, h3, h4, h5]

theorem smovi (d : BitVec 7) (i : BitVec 18) : Statement (.smovi d i) := by
  obtain ⟨h0, h1, h2⟩ := shape5 0x17 d i (by decide)
  refine roundTrip_one rfl h0 (by decide) ((decodeWord_17 h0).trans ?_)
  rw [decodeOp17, h1, h2]

theorem iaddi (d : BitVec 7) (a : BitVec 7) (i : BitVec 11) : Statement (.iaddi d a i) := by
  obtain ⟨h0, h1, h2, h3⟩ := shape6 0x18 d a i (by decide)
  refine roundTrip_one rfl h0 (by decide) ((decodeWord_18 h0).trans ?_)
  rw [decodeOp18, h1, h2, h3]

theorem imuli (d : BitVec 7) (a : BitVec 7) (i : BitVec 11) : Statement (.imuli d a i) := by
  obtain ⟨h0, h1, h2, h3⟩ := shape6 0x19 d a i (by decide)
  refine roundTrip_one rfl h0 (by decide) ((decodeWord_19 h0).trans ?_)
  rw [decodeOp19, h1, h2, h3]

theorem andi (d : BitVec 7) (a : BitVec 7) (i : BitVec 11) : Statement (.andi d a i) := by
  obtain ⟨h0, h1, h2, h3⟩ := shape6 0x1A d a i (by decide)
  refine roundTrip_one rfl h0 (by decide) ((decodeWord_1A h0).trans ?_)
  rw [decodeOp1A, h1, h2, h3]

theorem ori (d : BitVec 7) (a : BitVec 7) (i : BitVec 11) : Statement (.ori d a i) := by
  obtain ⟨h0, h1, h2, h3⟩ := shape6 0x1B d a i (by decide)
  refine roundTrip_one rfl h0 (by decide) ((decodeWord_1B h0).trans ?_)
  rw [decodeOp1B, h1, h2, h3]

theorem xori (d : BitVec 7) (a : BitVec 7) (i : BitVec 11) : Statement (.xori d a i) := by
  obtain ⟨h0, h1, h2, h3⟩ := shape6 0x1C d a i (by decide)
  refine roundTrip_one rfl h0 (by decide) ((decodeWord_1C h0).trans ?_)
  rw [decodeOp1C, h1, h2, h3]

theorem shli (d : BitVec 7) (a : BitVec 7) (n : BitVec 5) : Statement (.shli d a n) := by
  obtain ⟨h0, h1, h2, h3, h4⟩ := shape7 0x1D d a n (by decide)
  refine roundTrip_one rfl h0 (by decide) ((decodeWord_1D h0).trans ?_)
  simp [decodeOp1D, h1, h2, h3, h4]

theorem shri (d : BitVec 7) (a : BitVec 7) (n : BitVec 5) : Statement (.shri d a n) := by
  obtain ⟨h0, h1, h2, h3, h4⟩ := shape7 0x1E d a n (by decide)
  refine roundTrip_one rfl h0 (by decide) ((decodeWord_1E h0).trans ?_)
  simp [decodeOp1E, h1, h2, h3, h4]

theorem sari (d : BitVec 7) (a : BitVec 7) (n : BitVec 5) : Statement (.sari d a n) := by
  obtain ⟨h0, h1, h2, h3, h4⟩ := shape7 0x1F d a n (by decide)
  refine roundTrip_one rfl h0 (by decide) ((decodeWord_1F h0).trans ?_)
  simp [decodeOp1F, h1, h2, h3, h4]

theorem icmp (c : BitVec 4) (p : BitVec 3) (a : BitVec 7) (b : BitVec 7) (g : BitVec 2) : Statement (.icmp c p a b g) := by
  obtain ⟨h0, h1, h2, h3, h4, h5, h6⟩ := shape8 0x20 c p a b g (by decide)
  refine roundTrip_one rfl h0 (by decide) ((decodeWord_20 h0).trans ?_)
  simp [decodeOp20, h1, h2, h3, h4, h5, h6]

theorem ucmp (c : BitVec 4) (p : BitVec 3) (a : BitVec 7) (b : BitVec 7) (g : BitVec 2) : Statement (.ucmp c p a b g) := by
  obtain ⟨h0, h1, h2, h3, h4, h5, h6⟩ := shape8 0x21 c p a b g (by decide)
  refine roundTrip_one rfl h0 (by decide) ((decodeWord_21 h0).trans ?_)
  simp [decodeOp21, h1, h2, h3, h4, h5, h6]

theorem fcmp (c : BitVec 4) (p : BitVec 3) (a : BitVec 7) (b : BitVec 7) (g : BitVec 2) : Statement (.fcmp c p a b g) := by
  obtain ⟨h0, h1, h2, h3, h4, h5, h6⟩ := shape8 0x22 c p a b g (by decide)
  refine roundTrip_one rfl h0 (by decide) ((decodeWord_22 h0).trans ?_)
  simp [decodeOp22, h1, h2, h3, h4, h5, h6]

theorem hcmp (c : BitVec 4) (p : BitVec 3) (a : BitVec 7) (b : BitVec 7) (g : BitVec 2) : Statement (.hcmp c p a b g) := by
  obtain ⟨h0, h1, h2, h3, h4, h5, h6⟩ := shape8 0x23 c p a b g (by decide)
  refine roundTrip_one rfl h0 (by decide) ((decodeWord_23 h0).trans ?_)
  simp [decodeOp23, h1, h2, h3, h4, h5, h6]

theorem icmpi (c : BitVec 4) (p : BitVec 3) (a : BitVec 7) (i : BitVec 11) : Statement (.icmpi c p a i) := by
  obtain ⟨h0, h1, h2, h3, h4⟩ := shape9 0x24 c p a i (by decide)
  refine roundTrip_one rfl h0 (by decide) ((decodeWord_24 h0).trans ?_)
  rw [decodeOp24, h1, h2, h3, h4]

theorem plog (d : BitVec 3) (n : BitVec 1) (a : BitVec 3) (o : BitVec 2) (m : BitVec 1) (b : BitVec 3) (g : BitVec 2) : Statement (.plog d n a o m b g) := by
  obtain ⟨h0, h1, h2, h3, h4, h5, h6, h7, h8, h9, h10, h11⟩ := shape10 0x25 d n a o m b g (by decide)
  refine roundTrip_one rfl h0 (by decide) ((decodeWord_25 h0).trans ?_)
  simp [decodeOp25, h1, h2, h3, h4, h5, h6, h7, h8, h9, h10, h11]

theorem pmov (d : BitVec 7) (a : BitVec 7) (m : BitVec 2) (g : BitVec 2) : Statement (.pmov d a m g) := by
  have := field_lt d (P := 128) rfl
  have := field_lt a (P := 128) rfl
  have := field_lt m (P := 4) rfl
  have := field_lt g (P := 4) rfl
  have hw : (wordOf 0x26 [fld d 18, fld a 11, fld m 4, fld g 2]).toNat = 1275068416 + d.toNat * 262144 + a.toNat * 2048 + m.toNat * 16 + g.toNat * 4 :=
    wordOf_toNat _ _ (by rw [fld_eq d 18 (P := 262144) rfl, fld_eq a 11 (P := 2048) rfl, fld_eq m 4 (P := 16) rfl, fld_eq g 2 (P := 4) rfl]; simp only [sum_field, sum_none]; omega) (by omega)
  have h0 : bitsAt 25 7 (wordOf 0x26 [fld d 18, fld a 11, fld m 4, fld g 2]) = BitVec.ofNat 7 0x26 := bitsAt_code (P := 33554432) (Q := 128) rfl rfl (by rw [hw]; omega)
  have h1 : bitsAt 0 2 (wordOf 0x26 [fld d 18, fld a 11, fld m 4, fld g 2]) = BitVec.ofNat 2 0 := bitsAt_code (P := 1) (Q := 4) rfl rfl (by rw [hw]; omega)
  have h2 : bitsAt 6 5 (wordOf 0x26 [fld d 18, fld a 11, fld m 4, fld g 2]) = BitVec.ofNat 5 0 := bitsAt_code (P := 64) (Q := 32) rfl rfl (by rw [hw]; omega)
  have h3 : bitsAt 18 7 (wordOf 0x26 [fld d 18, fld a 11, fld m 4, fld g 2]) = d := bitsAt_eq (P := 262144) (Q := 128) rfl rfl (by rw [hw]; omega)
  have h4 : bitsAt 11 7 (wordOf 0x26 [fld d 18, fld a 11, fld m 4, fld g 2]) = a := bitsAt_eq (P := 2048) (Q := 128) rfl rfl (by rw [hw]; omega)
  have h5 : bitsAt 4 2 (wordOf 0x26 [fld d 18, fld a 11, fld m 4, fld g 2]) = m := bitsAt_eq (P := 16) (Q := 4) rfl rfl (by rw [hw]; omega)
  have h6 : bitsAt 2 2 (wordOf 0x26 [fld d 18, fld a 11, fld m 4, fld g 2]) = g := bitsAt_eq (P := 4) (Q := 4) rfl rfl (by rw [hw]; omega)
  refine roundTrip_one rfl h0 (by decide) ((decodeWord_26 h0).trans ?_)
  simp [decodeOp26, h1, h2, h3, h4, h5, h6]

theorem vote (d : BitVec 7) (n : BitVec 1) (a : BitVec 3) (m : BitVec 2) (g : BitVec 2) : Statement (.vote d n a m g) := by
  obtain ⟨h0, h1, h2, h3, h4, h5, h6, h7, h8⟩ := shape11 0x27 d n a m g (by decide)
  refine roundTrip_one rfl h0 (by decide) ((decodeWord_27 h0).trans ?_)
  simp [decodeOp27, h1, h2, h3, h4, h5, h6, h7, h8]

theorem fadd (d : BitVec 7) (a : BitVec 7) (b : BitVec 7) (g : BitVec 2) (h : BitVec 2) : Statement (.fadd d a b g h) := by
  obtain ⟨h0, h1, h2, h3, h4, h5⟩ := shape1 0x28 d a b g h (by decide)
  refine roundTrip_one rfl h0 (by decide) ((decodeWord_28 h0).trans ?_)
  rw [decodeOp28, h1, h2, h3, h4, h5]

theorem fsub (d : BitVec 7) (a : BitVec 7) (b : BitVec 7) (g : BitVec 2) (h : BitVec 2) : Statement (.fsub d a b g h) := by
  obtain ⟨h0, h1, h2, h3, h4, h5⟩ := shape1 0x29 d a b g h (by decide)
  refine roundTrip_one rfl h0 (by decide) ((decodeWord_29 h0).trans ?_)
  rw [decodeOp29, h1, h2, h3, h4, h5]

theorem fmul (d : BitVec 7) (a : BitVec 7) (b : BitVec 7) (g : BitVec 2) (h : BitVec 2) : Statement (.fmul d a b g h) := by
  obtain ⟨h0, h1, h2, h3, h4, h5⟩ := shape1 0x2A d a b g h (by decide)
  refine roundTrip_one rfl h0 (by decide) ((decodeWord_2A h0).trans ?_)
  rw [decodeOp2A, h1, h2, h3, h4, h5]

theorem ffma (d : BitVec 7) (a : BitVec 7) (b : BitVec 7) (g : BitVec 2) (h : BitVec 2) : Statement (.ffma d a b g h) := by
  obtain ⟨h0, h1, h2, h3, h4, h5⟩ := shape1 0x2B d a b g h (by decide)
  refine roundTrip_one rfl h0 (by decide) ((decodeWord_2B h0).trans ?_)
  rw [decodeOp2B, h1, h2, h3, h4, h5]

theorem fmin (d : BitVec 7) (a : BitVec 7) (b : BitVec 7) (g : BitVec 2) (h : BitVec 2) : Statement (.fmin d a b g h) := by
  obtain ⟨h0, h1, h2, h3, h4, h5⟩ := shape1 0x2C d a b g h (by decide)
  refine roundTrip_one rfl h0 (by decide) ((decodeWord_2C h0).trans ?_)
  rw [decodeOp2C, h1, h2, h3, h4, h5]

theorem fmax (d : BitVec 7) (a : BitVec 7) (b : BitVec 7) (g : BitVec 2) (h : BitVec 2) : Statement (.fmax d a b g h) := by
  obtain ⟨h0, h1, h2, h3, h4, h5⟩ := shape1 0x2D d a b g h (by decide)
  refine roundTrip_one rfl h0 (by decide) ((decodeWord_2D h0).trans ?_)
  rw [decodeOp2D, h1, h2, h3, h4, h5]

theorem fclamp (d : BitVec 7) (a : BitVec 7) (b : BitVec 7) (g : BitVec 2) (h : BitVec 2) : Statement (.fclamp d a b g h) := by
  obtain ⟨h0, h1, h2, h3, h4, h5⟩ := shape1 0x2E d a b g h (by decide)
  refine roundTrip_one rfl h0 (by decide) ((decodeWord_2E h0).trans ?_)
  rw [decodeOp2E, h1, h2, h3, h4, h5]

theorem fmov (d : BitVec 7) (a : BitVec 7) (g : BitVec 2) (h : BitVec 2) : Statement (.fmov d a g h) := by
  obtain ⟨h0, h1, h2, h3, h4, h5⟩ := shape3 0x2F d a g h (by decide)
  refine roundTrip_one rfl h0 (by decide) ((decodeWord_2F h0).trans ?_)
  simp [decodeOp2F, h1, h2, h3, h4, h5]

theorem fneg (d : BitVec 7) (a : BitVec 7) (g : BitVec 2) (h : BitVec 2) : Statement (.fneg d a g h) := by
  obtain ⟨h0, h1, h2, h3, h4, h5⟩ := shape4 0x2F d a g h 1 (by decide) (by decide)
  refine roundTrip_one rfl h0 (by decide) ((decodeWord_2F h0).trans ?_)
  simp [decodeOp2F, h1, h2, h3, h4, h5]

theorem fabs (d : BitVec 7) (a : BitVec 7) (g : BitVec 2) (h : BitVec 2) : Statement (.fabs d a g h) := by
  obtain ⟨h0, h1, h2, h3, h4, h5⟩ := shape4 0x2F d a g h 2 (by decide) (by decide)
  refine roundTrip_one rfl h0 (by decide) ((decodeWord_2F h0).trans ?_)
  simp [decodeOp2F, h1, h2, h3, h4, h5]

theorem frcp (d : BitVec 7) (a : BitVec 7) (g : BitVec 2) (h : BitVec 2) : Statement (.frcp d a g h) := by
  obtain ⟨h0, h1, h2, h3, h4, h5⟩ := shape4 0x2F d a g h 3 (by decide) (by decide)
  refine roundTrip_one rfl h0 (by decide) ((decodeWord_2F h0).trans ?_)
  simp [decodeOp2F, h1, h2, h3, h4, h5]

theorem frsq (d : BitVec 7) (a : BitVec 7) (g : BitVec 2) (h : BitVec 2) : Statement (.frsq d a g h) := by
  obtain ⟨h0, h1, h2, h3, h4, h5⟩ := shape4 0x2F d a g h 4 (by decide) (by decide)
  refine roundTrip_one rfl h0 (by decide) ((decodeWord_2F h0).trans ?_)
  simp [decodeOp2F, h1, h2, h3, h4, h5]

theorem fsqrt (d : BitVec 7) (a : BitVec 7) (g : BitVec 2) (h : BitVec 2) : Statement (.fsqrt d a g h) := by
  obtain ⟨h0, h1, h2, h3, h4, h5⟩ := shape4 0x2F d a g h 5 (by decide) (by decide)
  refine roundTrip_one rfl h0 (by decide) ((decodeWord_2F h0).trans ?_)
  simp [decodeOp2F, h1, h2, h3, h4, h5]

theorem fexp2 (d : BitVec 7) (a : BitVec 7) (g : BitVec 2) (h : BitVec 2) : Statement (.fexp2 d a g h) := by
  obtain ⟨h0, h1, h2, h3, h4, h5⟩ := shape4 0x2F d a g h 6 (by decide) (by decide)
  refine roundTrip_one rfl h0 (by decide) ((decodeWord_2F h0).trans ?_)
  simp [decodeOp2F, h1, h2, h3, h4, h5]

theorem flog2 (d : BitVec 7) (a : BitVec 7) (g : BitVec 2) (h : BitVec 2) : Statement (.flog2 d a g h) := by
  obtain ⟨h0, h1, h2, h3, h4, h5⟩ := shape4 0x2F d a g h 7 (by decide) (by decide)
  refine roundTrip_one rfl h0 (by decide) ((decodeWord_2F h0).trans ?_)
  simp [decodeOp2F, h1, h2, h3, h4, h5]

theorem fsin (d : BitVec 7) (a : BitVec 7) (g : BitVec 2) (h : BitVec 2) : Statement (.fsin d a g h) := by
  obtain ⟨h0, h1, h2, h3, h4, h5⟩ := shape4 0x2F d a g h 8 (by decide) (by decide)
  refine roundTrip_one rfl h0 (by decide) ((decodeWord_2F h0).trans ?_)
  simp [decodeOp2F, h1, h2, h3, h4, h5]

theorem fcos (d : BitVec 7) (a : BitVec 7) (g : BitVec 2) (h : BitVec 2) : Statement (.fcos d a g h) := by
  obtain ⟨h0, h1, h2, h3, h4, h5⟩ := shape4 0x2F d a g h 9 (by decide) (by decide)
  refine roundTrip_one rfl h0 (by decide) ((decodeWord_2F h0).trans ?_)
  simp [decodeOp2F, h1, h2, h3, h4, h5]

theorem ffloor (d : BitVec 7) (a : BitVec 7) (g : BitVec 2) (h : BitVec 2) : Statement (.ffloor d a g h) := by
  obtain ⟨h0, h1, h2, h3, h4, h5⟩ := shape4 0x2F d a g h 10 (by decide) (by decide)
  refine roundTrip_one rfl h0 (by decide) ((decodeWord_2F h0).trans ?_)
  simp [decodeOp2F, h1, h2, h3, h4, h5]

theorem fceil (d : BitVec 7) (a : BitVec 7) (g : BitVec 2) (h : BitVec 2) : Statement (.fceil d a g h) := by
  obtain ⟨h0, h1, h2, h3, h4, h5⟩ := shape4 0x2F d a g h 11 (by decide) (by decide)
  refine roundTrip_one rfl h0 (by decide) ((decodeWord_2F h0).trans ?_)
  simp [decodeOp2F, h1, h2, h3, h4, h5]

theorem ftrunc (d : BitVec 7) (a : BitVec 7) (g : BitVec 2) (h : BitVec 2) : Statement (.ftrunc d a g h) := by
  obtain ⟨h0, h1, h2, h3, h4, h5⟩ := shape4 0x2F d a g h 12 (by decide) (by decide)
  refine roundTrip_one rfl h0 (by decide) ((decodeWord_2F h0).trans ?_)
  simp [decodeOp2F, h1, h2, h3, h4, h5]

theorem frint (d : BitVec 7) (a : BitVec 7) (g : BitVec 2) (h : BitVec 2) : Statement (.frint d a g h) := by
  obtain ⟨h0, h1, h2, h3, h4, h5⟩ := shape4 0x2F d a g h 13 (by decide) (by decide)
  refine roundTrip_one rfl h0 (by decide) ((decodeWord_2F h0).trans ?_)
  simp [decodeOp2F, h1, h2, h3, h4, h5]

theorem ffract (d : BitVec 7) (a : BitVec 7) (g : BitVec 2) (h : BitVec 2) : Statement (.ffract d a g h) := by
  obtain ⟨h0, h1, h2, h3, h4, h5⟩ := shape4 0x2F d a g h 14 (by decide) (by decide)
  refine roundTrip_one rfl h0 (by decide) ((decodeWord_2F h0).trans ?_)
  simp [decodeOp2F, h1, h2, h3, h4, h5]

theorem fsign (d : BitVec 7) (a : BitVec 7) (g : BitVec 2) (h : BitVec 2) : Statement (.fsign d a g h) := by
  obtain ⟨h0, h1, h2, h3, h4, h5⟩ := shape4 0x2F d a g h 15 (by decide) (by decide)
  refine roundTrip_one rfl h0 (by decide) ((decodeWord_2F h0).trans ?_)
  simp [decodeOp2F, h1, h2, h3, h4, h5]

theorem hadd2 (d : BitVec 7) (a : BitVec 7) (b : BitVec 7) (g : BitVec 2) (h : BitVec 2) : Statement (.hadd2 d a b g h) := by
  obtain ⟨h0, h1, h2, h3, h4, h5⟩ := shape1 0x30 d a b g h (by decide)
  refine roundTrip_one rfl h0 (by decide) ((decodeWord_30 h0).trans ?_)
  rw [decodeOp30, h1, h2, h3, h4, h5]

theorem hsub2 (d : BitVec 7) (a : BitVec 7) (b : BitVec 7) (g : BitVec 2) (h : BitVec 2) : Statement (.hsub2 d a b g h) := by
  obtain ⟨h0, h1, h2, h3, h4, h5⟩ := shape1 0x31 d a b g h (by decide)
  refine roundTrip_one rfl h0 (by decide) ((decodeWord_31 h0).trans ?_)
  rw [decodeOp31, h1, h2, h3, h4, h5]

theorem hmul2 (d : BitVec 7) (a : BitVec 7) (b : BitVec 7) (g : BitVec 2) (h : BitVec 2) : Statement (.hmul2 d a b g h) := by
  obtain ⟨h0, h1, h2, h3, h4, h5⟩ := shape1 0x32 d a b g h (by decide)
  refine roundTrip_one rfl h0 (by decide) ((decodeWord_32 h0).trans ?_)
  rw [decodeOp32, h1, h2, h3, h4, h5]

theorem hfma2 (d : BitVec 7) (a : BitVec 7) (b : BitVec 7) (g : BitVec 2) (h : BitVec 2) : Statement (.hfma2 d a b g h) := by
  obtain ⟨h0, h1, h2, h3, h4, h5⟩ := shape1 0x33 d a b g h (by decide)
  refine roundTrip_one rfl h0 (by decide) ((decodeWord_33 h0).trans ?_)
  rw [decodeOp33, h1, h2, h3, h4, h5]

theorem hmin2 (d : BitVec 7) (a : BitVec 7) (b : BitVec 7) (g : BitVec 2) (h : BitVec 2) : Statement (.hmin2 d a b g h) := by
  obtain ⟨h0, h1, h2, h3, h4, h5⟩ := shape1 0x34 d a b g h (by decide)
  refine roundTrip_one rfl h0 (by decide) ((decodeWord_34 h0).trans ?_)
  rw [decodeOp34, h1, h2, h3, h4, h5]

theorem hmax2 (d : BitVec 7) (a : BitVec 7) (b : BitVec 7) (g : BitVec 2) (h : BitVec 2) : Statement (.hmax2 d a b g h) := by
  obtain ⟨h0, h1, h2, h3, h4, h5⟩ := shape1 0x35 d a b g h (by decide)
  refine roundTrip_one rfl h0 (by decide) ((decodeWord_35 h0).trans ?_)
  rw [decodeOp35, h1, h2, h3, h4, h5]

theorem dot2h (d : BitVec 7) (a : BitVec 7) (b : BitVec 7) (g : BitVec 2) (h : BitVec 2) : Statement (.dot2h d a b g h) := by
  obtain ⟨h0, h1, h2, h3, h4, h5⟩ := shape1 0x36 d a b g h (by decide)
  refine roundTrip_one rfl h0 (by decide) ((decodeWord_36 h0).trans ?_)
  rw [decodeOp36, h1, h2, h3, h4, h5]

theorem dot4q (d : BitVec 7) (a : BitVec 7) (b : BitVec 7) (g : BitVec 2) (h : BitVec 2) : Statement (.dot4q d a b g h) := by
  obtain ⟨h0, h1, h2, h3, h4, h5⟩ := shape1 0x37 d a b g h (by decide)
  refine roundTrip_one rfl h0 (by decide) ((decodeWord_37 h0).trans ?_)
  rw [decodeOp37, h1, h2, h3, h4, h5]

theorem cadd (d : BitVec 7) (a : BitVec 7) (b : BitVec 7) (g : BitVec 2) : Statement (.cadd d a b g) := by
  obtain ⟨h0, h1, h2, h3, h4, h5⟩ := shape2 0x38 d a b g (by decide)
  refine roundTrip_one rfl h0 (by decide) ((decodeWord_38 h0).trans ?_)
  simp [decodeOp38, h1, h2, h3, h4, h5]

theorem csub (d : BitVec 7) (a : BitVec 7) (b : BitVec 7) (g : BitVec 2) : Statement (.csub d a b g) := by
  obtain ⟨h0, h1, h2, h3, h4, h5⟩ := shape2 0x39 d a b g (by decide)
  refine roundTrip_one rfl h0 (by decide) ((decodeWord_39 h0).trans ?_)
  simp [decodeOp39, h1, h2, h3, h4, h5]

theorem cmul (d : BitVec 7) (a : BitVec 7) (b : BitVec 7) (g : BitVec 2) : Statement (.cmul d a b g) := by
  obtain ⟨h0, h1, h2, h3, h4, h5⟩ := shape2 0x3A d a b g (by decide)
  refine roundTrip_one rfl h0 (by decide) ((decodeWord_3A h0).trans ?_)
  simp [decodeOp3A, h1, h2, h3, h4, h5]

theorem cfma (d : BitVec 7) (a : BitVec 7) (b : BitVec 7) (g : BitVec 2) : Statement (.cfma d a b g) := by
  obtain ⟨h0, h1, h2, h3, h4, h5⟩ := shape2 0x3B d a b g (by decide)
  refine roundTrip_one rfl h0 (by decide) ((decodeWord_3B h0).trans ?_)
  simp [decodeOp3B, h1, h2, h3, h4, h5]

theorem ccmul (d : BitVec 7) (a : BitVec 7) (b : BitVec 7) (g : BitVec 2) : Statement (.ccmul d a b g) := by
  obtain ⟨h0, h1, h2, h3, h4, h5⟩ := shape2 0x3C d a b g (by decide)
  refine roundTrip_one rfl h0 (by decide) ((decodeWord_3C h0).trans ?_)
  simp [decodeOp3C, h1, h2, h3, h4, h5]

theorem cmag2 (d : BitVec 7) (a : BitVec 7) (g : BitVec 2) : Statement (.cmag2 d a g) := by
  have := field_lt d (P := 128) rfl
  have := field_lt a (P := 128) rfl
  have := field_lt g (P := 4) rfl
  have hw : (wordOf 0x3D [fld d 18, fld a 11, fld g 2]).toNat = 2046820352 + d.toNat * 262144 + a.toNat * 2048 + g.toNat * 4 :=
    wordOf_toNat _ _ (by rw [fld_eq d 18 (P := 262144) rfl, fld_eq a 11 (P := 2048) rfl, fld_eq g 2 (P := 4) rfl]; simp only [sum_field, sum_none]; omega) (by omega)
  have h0 : bitsAt 25 7 (wordOf 0x3D [fld d 18, fld a 11, fld g 2]) = BitVec.ofNat 7 0x3D := bitsAt_code (P := 33554432) (Q := 128) rfl rfl (by rw [hw]; omega)
  have h1 : bitsAt 0 2 (wordOf 0x3D [fld d 18, fld a 11, fld g 2]) = BitVec.ofNat 2 0 := bitsAt_code (P := 1) (Q := 4) rfl rfl (by rw [hw]; omega)
  have h2 : bitsAt 4 7 (wordOf 0x3D [fld d 18, fld a 11, fld g 2]) = BitVec.ofNat 7 0 := bitsAt_code (P := 16) (Q := 128) rfl rfl (by rw [hw]; omega)
  have h3 : bitsAt 18 7 (wordOf 0x3D [fld d 18, fld a 11, fld g 2]) = d := bitsAt_eq (P := 262144) (Q := 128) rfl rfl (by rw [hw]; omega)
  have h4 : bitsAt 11 7 (wordOf 0x3D [fld d 18, fld a 11, fld g 2]) = a := bitsAt_eq (P := 2048) (Q := 128) rfl rfl (by rw [hw]; omega)
  have h5 : bitsAt 2 2 (wordOf 0x3D [fld d 18, fld a 11, fld g 2]) = g := bitsAt_eq (P := 4) (Q := 4) rfl rfl (by rw [hw]; omega)
  refine roundTrip_one rfl h0 (by decide) ((decodeWord_3D h0).trans ?_)
  simp [decodeOp3D, h1, h2, h3, h4, h5]

theorem cexpi (d : BitVec 7) (a : BitVec 7) (g : BitVec 2) : Statement (.cexpi d a g) := by
  have := field_lt d (P := 128) rfl
  have := field_lt a (P := 128) rfl
  have := field_lt g (P := 4) rfl
  have hw : (wordOf 0x3E [fld d 18, fld a 11, fld g 2]).toNat = 2080374784 + d.toNat * 262144 + a.toNat * 2048 + g.toNat * 4 :=
    wordOf_toNat _ _ (by rw [fld_eq d 18 (P := 262144) rfl, fld_eq a 11 (P := 2048) rfl, fld_eq g 2 (P := 4) rfl]; simp only [sum_field, sum_none]; omega) (by omega)
  have h0 : bitsAt 25 7 (wordOf 0x3E [fld d 18, fld a 11, fld g 2]) = BitVec.ofNat 7 0x3E := bitsAt_code (P := 33554432) (Q := 128) rfl rfl (by rw [hw]; omega)
  have h1 : bitsAt 0 2 (wordOf 0x3E [fld d 18, fld a 11, fld g 2]) = BitVec.ofNat 2 0 := bitsAt_code (P := 1) (Q := 4) rfl rfl (by rw [hw]; omega)
  have h2 : bitsAt 4 7 (wordOf 0x3E [fld d 18, fld a 11, fld g 2]) = BitVec.ofNat 7 0 := bitsAt_code (P := 16) (Q := 128) rfl rfl (by rw [hw]; omega)
  have h3 : bitsAt 18 7 (wordOf 0x3E [fld d 18, fld a 11, fld g 2]) = d := bitsAt_eq (P := 262144) (Q := 128) rfl rfl (by rw [hw]; omega)
  have h4 : bitsAt 11 7 (wordOf 0x3E [fld d 18, fld a 11, fld g 2]) = a := bitsAt_eq (P := 2048) (Q := 128) rfl rfl (by rw [hw]; omega)
  have h5 : bitsAt 2 2 (wordOf 0x3E [fld d 18, fld a 11, fld g 2]) = g := bitsAt_eq (P := 4) (Q := 4) rfl rfl (by rw [hw]; omega)
  refine roundTrip_one rfl h0 (by decide) ((decodeWord_3E h0).trans ?_)
  simp [decodeOp3E, h1, h2, h3, h4, h5]

theorem cscale (d : BitVec 7) (a : BitVec 7) (b : BitVec 7) (g : BitVec 2) : Statement (.cscale d a b g) := by
  obtain ⟨h0, h1, h2, h3, h4, h5⟩ := shape2 0x3F d a b g (by decide)
  refine roundTrip_one rfl h0 (by decide) ((decodeWord_3F h0).trans ?_)
  simp [decodeOp3F, h1, h2, h3, h4, h5]

theorem cvt (d : BitVec 7) (a : BitVec 7) (s : BitVec 1) (t : BitVec 6) (g : BitVec 2) (h : BitVec 2) : Statement (.cvt d a s t g h) := by
  have := field_lt d (P := 128) rfl
  have := field_lt a (P := 128) rfl
  have := field_lt s (P := 2) rfl
  have := field_lt t (P := 64) rfl
  have := field_lt g (P := 4) rfl
  have := field_lt h (P := 4) rfl
  have hw : (wordOf 0x40 [fld d 18, fld a 11, fld s 10, fld t 4, fld g 2, fld h 0]).toNat = 2147483648 + d.toNat * 262144 + a.toNat * 2048 + s.toNat * 1024 + t.toNat * 16 + g.toNat * 4 + h.toNat * 1 :=
    wordOf_toNat _ _ (by rw [fld_eq d 18 (P := 262144) rfl, fld_eq a 11 (P := 2048) rfl, fld_eq s 10 (P := 1024) rfl, fld_eq t 4 (P := 16) rfl, fld_eq g 2 (P := 4) rfl, fld_eq h 0 (P := 1) rfl]; simp only [sum_field, sum_none]; omega) (by omega)
  have h0 : bitsAt 25 7 (wordOf 0x40 [fld d 18, fld a 11, fld s 10, fld t 4, fld g 2, fld h 0]) = BitVec.ofNat 7 0x40 := bitsAt_code (P := 33554432) (Q := 128) rfl rfl (by rw [hw]; omega)
  have h1 : bitsAt 18 7 (wordOf 0x40 [fld d 18, fld a 11, fld s 10, fld t 4, fld g 2, fld h 0]) = d := bitsAt_eq (P := 262144) (Q := 128) rfl rfl (by rw [hw]; omega)
  have h2 : bitsAt 11 7 (wordOf 0x40 [fld d 18, fld a 11, fld s 10, fld t 4, fld g 2, fld h 0]) = a := bitsAt_eq (P := 2048) (Q := 128) rfl rfl (by rw [hw]; omega)
  have h3 : bitsAt 10 1 (wordOf 0x40 [fld d 18, fld a 11, fld s 10, fld t 4, fld g 2, fld h 0]) = s := bitsAt_eq (P := 1024) (Q := 2) rfl rfl (by rw [hw]; omega)
  have h4 : bitsAt 4 6 (wordOf 0x40 [fld d 18, fld a 11, fld s 10, fld t 4, fld g 2, fld h 0]) = t := bitsAt_eq (P := 16) (Q := 64) rfl rfl (by rw [hw]; omega)
  have h5 : bitsAt 2 2 (wordOf 0x40 [fld d 18, fld a 11, fld s 10, fld t 4, fld g 2, fld h 0]) = g := bitsAt_eq (P := 4) (Q := 4) rfl rfl (by rw [hw]; omega)
  have h6 : bitsAt 0 2 (wordOf 0x40 [fld d 18, fld a 11, fld s 10, fld t 4, fld g 2, fld h 0]) = h := bitsAt_eq (P := 1) (Q := 4) rfl rfl (by rw [hw]; omega)
  refine roundTrip_one rfl h0 (by decide) ((decodeWord_40 h0).trans ?_)
  rw [decodeOp40, h1, h2, h3, h4, h5, h6]

theorem pack (d : BitVec 7) (a : BitVec 7) (s : BitVec 1) (t : BitVec 6) (g : BitVec 2) (h : BitVec 2) : Statement (.pack d a s t g h) := by
  have := field_lt d (P := 128) rfl
  have := field_lt a (P := 128) rfl
  have := field_lt s (P := 2) rfl
  have := field_lt t (P := 64) rfl
  have := field_lt g (P := 4) rfl
  have := field_lt h (P := 4) rfl
  have hw : (wordOf 0x41 [fld d 18, fld a 11, fld s 10, fld t 4, fld g 2, fld h 0]).toNat = 2181038080 + d.toNat * 262144 + a.toNat * 2048 + s.toNat * 1024 + t.toNat * 16 + g.toNat * 4 + h.toNat * 1 :=
    wordOf_toNat _ _ (by rw [fld_eq d 18 (P := 262144) rfl, fld_eq a 11 (P := 2048) rfl, fld_eq s 10 (P := 1024) rfl, fld_eq t 4 (P := 16) rfl, fld_eq g 2 (P := 4) rfl, fld_eq h 0 (P := 1) rfl]; simp only [sum_field, sum_none]; omega) (by omega)
  have h0 : bitsAt 25 7 (wordOf 0x41 [fld d 18, fld a 11, fld s 10, fld t 4, fld g 2, fld h 0]) = BitVec.ofNat 7 0x41 := bitsAt_code (P := 33554432) (Q := 128) rfl rfl (by rw [hw]; omega)
  have h1 : bitsAt 18 7 (wordOf 0x41 [fld d 18, fld a 11, fld s 10, fld t 4, fld g 2, fld h 0]) = d := bitsAt_eq (P := 262144) (Q := 128) rfl rfl (by rw [hw]; omega)
  have h2 : bitsAt 11 7 (wordOf 0x41 [fld d 18, fld a 11, fld s 10, fld t 4, fld g 2, fld h 0]) = a := bitsAt_eq (P := 2048) (Q := 128) rfl rfl (by rw [hw]; omega)
  have h3 : bitsAt 10 1 (wordOf 0x41 [fld d 18, fld a 11, fld s 10, fld t 4, fld g 2, fld h 0]) = s := bitsAt_eq (P := 1024) (Q := 2) rfl rfl (by rw [hw]; omega)
  have h4 : bitsAt 4 6 (wordOf 0x41 [fld d 18, fld a 11, fld s 10, fld t 4, fld g 2, fld h 0]) = t := bitsAt_eq (P := 16) (Q := 64) rfl rfl (by rw [hw]; omega)
  have h5 : bitsAt 2 2 (wordOf 0x41 [fld d 18, fld a 11, fld s 10, fld t 4, fld g 2, fld h 0]) = g := bitsAt_eq (P := 4) (Q := 4) rfl rfl (by rw [hw]; omega)
  have h6 : bitsAt 0 2 (wordOf 0x41 [fld d 18, fld a 11, fld s 10, fld t 4, fld g 2, fld h 0]) = h := bitsAt_eq (P := 1) (Q := 4) rfl rfl (by rw [hw]; omega)
  refine roundTrip_one rfl h0 (by decide) ((decodeWord_41 h0).trans ?_)
  rw [decodeOp41, h1, h2, h3, h4, h5, h6]

theorem unpackWiden (d : BitVec 7) (a : BitVec 7) (k : BitVec 2) (g : BitVec 2) (h : BitVec 2) : Statement (.unpackWiden d a k g h) := by
  have := field_lt d (P := 128) rfl
  have := field_lt a (P := 128) rfl
  have := field_lt k (P := 4) rfl
  have := field_lt g (P := 4) rfl
  have := field_lt h (P := 4) rfl
  have hw : (wordOf 0x42 [fld d 18, fld a 11, fld k 4, fld g 2, fld h 0]).toNat = 2214592512 + d.toNat * 262144 + a.toNat * 2048 + k.toNat * 16 + g.toNat * 4 + h.toNat * 1 :=
    wordOf_toNat _ _ (by rw [fld_eq d 18 (P := 262144) rfl, fld_eq a 11 (P := 2048) rfl, fld_eq k 4 (P := 16) rfl, fld_eq g 2 (P := 4) rfl, fld_eq h 0 (P := 1) rfl]; simp only [sum_field, sum_none]; omega) (by omega)
  have h0 : bitsAt 25 7 (wordOf 0x42 [fld d 18, fld a 11, fld k 4, fld g 2, fld h 0]) = BitVec.ofNat 7 0x42 := bitsAt_code (P := 33554432) (Q := 128) rfl rfl (by rw [hw]; omega)
  have h1 : bitsAt 6 5 (wordOf 0x42 [fld d 18, fld a 11, fld k 4, fld g 2, fld h 0]) = BitVec.ofNat 5 0 := bitsAt_code (P := 64) (Q := 32) rfl rfl (by rw [hw]; omega)
  have h2 : bitsAt 18 7 (wordOf 0x42 [fld d 18, fld a 11, fld k 4, fld g 2, fld h 0]) = d := bitsAt_eq (P := 262144) (Q := 128) rfl rfl (by rw [hw]; omega)
  have h3 : bitsAt 11 7 (wordOf 0x42 [fld d 18, fld a 11, fld k 4, fld g 2, fld h 0]) = a := bitsAt_eq (P := 2048) (Q := 128) rfl rfl (by rw [hw]; omega)
  have h4 : bitsAt 4 2 (wordOf 0x42 [fld d 18, fld a 11, fld k 4, fld g 2, fld h 0]) = k := bitsAt_eq (P := 16) (Q := 4) rfl rfl (by rw [hw]; omega)
  have h5 : bitsAt 2 2 (wordOf 0x42 [fld d 18, fld a 11, fld k 4, fld g 2, fld h 0]) = g := bitsAt_eq (P := 4) (Q := 4) rfl rfl (by rw [hw]; omega)
  have h6 : bitsAt 0 2 (wordOf 0x42 [fld d 18, fld a 11, fld k 4, fld g 2, fld h 0]) = h := bitsAt_eq (P := 1) (Q := 4) rfl rfl (by rw [hw]; omega)
  refine roundTrip_one rfl h0 (by decide) ((decodeWord_42 h0).trans ?_)
  simp [decodeOp42, h1, h2, h3, h4, h5, h6]

theorem unpackBlock (d : BitVec 7) (a : BitVec 7) (g : BitVec 2) : Statement (.unpackBlock d a g) := by
  have := field_lt d (P := 128) rfl
  have := field_lt a (P := 128) rfl
  have := field_lt g (P := 4) rfl
  have hw : (wordOf 0x42 [fld d 18, fld a 11, lit 64 4, fld g 2]).toNat = 2214593536 + d.toNat * 262144 + a.toNat * 2048 + g.toNat * 4 :=
    wordOf_toNat _ _ (by rw [fld_eq d 18 (P := 262144) rfl, fld_eq a 11 (P := 2048) rfl, fld_eq g 2 (P := 4) rfl]; simp only [lit, sum_field, sum_none]; omega) (by omega)
  have h0 : bitsAt 25 7 (wordOf 0x42 [fld d 18, fld a 11, lit 64 4, fld g 2]) = BitVec.ofNat 7 0x42 := bitsAt_code (P := 33554432) (Q := 128) rfl rfl (by rw [hw]; omega)
  have h1 : bitsAt 6 5 (wordOf 0x42 [fld d 18, fld a 11, lit 64 4, fld g 2]) = BitVec.ofNat 5 16 := bitsAt_code (P := 64) (Q := 32) rfl rfl (by rw [hw]; omega)
  have h2 : bitsAt 0 2 (wordOf 0x42 [fld d 18, fld a 11, lit 64 4, fld g 2]) = BitVec.ofNat 2 0 := bitsAt_code (P := 1) (Q := 4) rfl rfl (by rw [hw]; omega)
  have h3 : bitsAt 4 7 (wordOf 0x42 [fld d 18, fld a 11, lit 64 4, fld g 2]) = BitVec.ofNat 7 64 := bitsAt_code (P := 16) (Q := 128) rfl rfl (by rw [hw]; omega)
  have h4 : bitsAt 18 7 (wordOf 0x42 [fld d 18, fld a 11, lit 64 4, fld g 2]) = d := bitsAt_eq (P := 262144) (Q := 128) rfl rfl (by rw [hw]; omega)
  have h5 : bitsAt 11 7 (wordOf 0x42 [fld d 18, fld a 11, lit 64 4, fld g 2]) = a := bitsAt_eq (P := 2048) (Q := 128) rfl rfl (by rw [hw]; omega)
  have h6 : bitsAt 2 2 (wordOf 0x42 [fld d 18, fld a 11, lit 64 4, fld g 2]) = g := bitsAt_eq (P := 4) (Q := 4) rfl rfl (by rw [hw]; omega)
  refine roundTrip_one rfl h0 (by decide) ((decodeWord_42 h0).trans ?_)
  simp [decodeOp42, h1, h2, h3, h4, h5, h6]

theorem settag (d : BitVec 7) (a : BitVec 7) (t : BitVec 6) (g : BitVec 2) (h : BitVec 2) : Statement (.settag d a t g h) := by
  have := field_lt d (P := 128) rfl
  have := field_lt a (P := 128) rfl
  have := field_lt t (P := 64) rfl
  have := field_lt g (P := 4) rfl
  have := field_lt h (P := 4) rfl
  have hw : (wordOf 0x43 [fld d 18, fld a 11, fld t 4, fld g 2, fld h 0]).toNat = 2248146944 + d.toNat * 262144 + a.toNat * 2048 + t.toNat * 16 + g.toNat * 4 + h.toNat * 1 :=
    wordOf_toNat _ _ (by rw [fld_eq d 18 (P := 262144) rfl, fld_eq a 11 (P := 2048) rfl, fld_eq t 4 (P := 16) rfl, fld_eq g 2 (P := 4) rfl, fld_eq h 0 (P := 1) rfl]; simp only [sum_field, sum_none]; omega) (by omega)
  have h0 : bitsAt 25 7 (wordOf 0x43 [fld d 18, fld a 11, fld t 4, fld g 2, fld h 0]) = BitVec.ofNat 7 0x43 := bitsAt_code (P := 33554432) (Q := 128) rfl rfl (by rw [hw]; omega)
  have h1 : bitsAt 10 1 (wordOf 0x43 [fld d 18, fld a 11, fld t 4, fld g 2, fld h 0]) = BitVec.ofNat 1 0 := bitsAt_code (P := 1024) (Q := 2) rfl rfl (by rw [hw]; omega)
  have h2 : bitsAt 18 7 (wordOf 0x43 [fld d 18, fld a 11, fld t 4, fld g 2, fld h 0]) = d := bitsAt_eq (P := 262144) (Q := 128) rfl rfl (by rw [hw]; omega)
  have h3 : bitsAt 11 7 (wordOf 0x43 [fld d 18, fld a 11, fld t 4, fld g 2, fld h 0]) = a := bitsAt_eq (P := 2048) (Q := 128) rfl rfl (by rw [hw]; omega)
  have h4 : bitsAt 4 6 (wordOf 0x43 [fld d 18, fld a 11, fld t 4, fld g 2, fld h 0]) = t := bitsAt_eq (P := 16) (Q := 64) rfl rfl (by rw [hw]; omega)
  have h5 : bitsAt 2 2 (wordOf 0x43 [fld d 18, fld a 11, fld t 4, fld g 2, fld h 0]) = g := bitsAt_eq (P := 4) (Q := 4) rfl rfl (by rw [hw]; omega)
  have h6 : bitsAt 0 2 (wordOf 0x43 [fld d 18, fld a 11, fld t 4, fld g 2, fld h 0]) = h := bitsAt_eq (P := 1) (Q := 4) rfl rfl (by rw [hw]; omega)
  refine roundTrip_one rfl h0 (by decide) ((decodeWord_43 h0).trans ?_)
  simp [decodeOp43, h1, h2, h3, h4, h5, h6]

theorem gettag (d : BitVec 7) (a : BitVec 7) (g : BitVec 2) (h : BitVec 2) : Statement (.gettag d a g h) := by
  obtain ⟨h0, h1, h2, h3, h4, h5⟩ := shape3 0x44 d a g h (by decide)
  refine roundTrip_one rfl h0 (by decide) ((decodeWord_44 h0).trans ?_)
  simp [decodeOp44, h1, h2, h3, h4, h5]

theorem shfl (d : BitVec 7) (a : BitVec 7) (b : BitVec 7) (g : BitVec 2) (h : BitVec 2) : Statement (.shfl d a b g h) := by
  obtain ⟨h0, h1, h2, h3, h4, h5⟩ := shape1 0x45 d a b g h (by decide)
  refine roundTrip_one rfl h0 (by decide) ((decodeWord_45 h0).trans ?_)
  rw [decodeOp45, h1, h2, h3, h4, h5]

theorem xbar (d : BitVec 7) (a : BitVec 7) (n : BitVec 4) (g : BitVec 2) (h : BitVec 2) : Statement (.xbar d a n g h) := by
  have := field_lt d (P := 128) rfl
  have := field_lt a (P := 128) rfl
  have := field_lt n (P := 16) rfl
  have := field_lt g (P := 4) rfl
  have := field_lt h (P := 4) rfl
  have hw : (wordOf 0x46 [fld d 18, fld a 11, fld n 4, fld g 2, fld h 0]).toNat = 2348810240 + d.toNat * 262144 + a.toNat * 2048 + n.toNat * 16 + g.toNat * 4 + h.toNat * 1 :=
    wordOf_toNat _ _ (by rw [fld_eq d 18 (P := 262144) rfl, fld_eq a 11 (P := 2048) rfl, fld_eq n 4 (P := 16) rfl, fld_eq g 2 (P := 4) rfl, fld_eq h 0 (P := 1) rfl]; simp only [sum_field, sum_none]; omega) (by omega)
  have h0 : bitsAt 25 7 (wordOf 0x46 [fld d 18, fld a 11, fld n 4, fld g 2, fld h 0]) = BitVec.ofNat 7 0x46 := bitsAt_code (P := 33554432) (Q := 128) rfl rfl (by rw [hw]; omega)
  have h1 : bitsAt 8 3 (wordOf 0x46 [fld d 18, fld a 11, fld n 4, fld g 2, fld h 0]) = BitVec.ofNat 3 0 := bitsAt_code (P := 256) (Q := 8) rfl rfl (by rw [hw]; omega)
  have h2 : bitsAt 18 7 (wordOf 0x46 [fld d 18, fld a 11, fld n 4, fld g 2, fld h 0]) = d := bitsAt_eq (P := 262144) (Q := 128) rfl rfl (by rw [hw]; omega)
  have h3 : bitsAt 11 7 (wordOf 0x46 [fld d 18, fld a 11, fld n 4, fld g 2, fld h 0]) = a := bitsAt_eq (P := 2048) (Q := 128) rfl rfl (by rw [hw]; omega)
  have h4 : bitsAt 4 4 (wordOf 0x46 [fld d 18, fld a 11, fld n 4, fld g 2, fld h 0]) = n := bitsAt_eq (P := 16) (Q := 16) rfl rfl (by rw [hw]; omega)
  have h5 : bitsAt 2 2 (wordOf 0x46 [fld d 18, fld a 11, fld n 4, fld g 2, fld h 0]) = g := bitsAt_eq (P := 4) (Q := 4) rfl rfl (by rw [hw]; omega)
  have h6 : bitsAt 0 2 (wordOf 0x46 [fld d 18, fld a 11, fld n 4, fld g 2, fld h 0]) = h := bitsAt_eq (P := 1) (Q := 4) rfl rfl (by rw [hw]; omega)
  refine roundTrip_one rfl h0 (by decide) ((decodeWord_46 h0).trans ?_)
  simp [decodeOp46, h1, h2, h3, h4, h5, h6]

theorem xptl (n : BitVec 4) (a : BitVec 7) (g : BitVec 2) : Statement (.xptl n a g) := by
  have := field_lt n (P := 16) rfl
  have := field_lt a (P := 128) rfl
  have := field_lt g (P := 4) rfl
  have hw : (wordOf 0x47 [fld n 18, fld a 11, fld g 2]).toNat = 2382364672 + n.toNat * 262144 + a.toNat * 2048 + g.toNat * 4 :=
    wordOf_toNat _ _ (by rw [fld_eq n 18 (P := 262144) rfl, fld_eq a 11 (P := 2048) rfl, fld_eq g 2 (P := 4) rfl]; simp only [sum_field, sum_none]; omega) (by omega)
  have h0 : bitsAt 25 7 (wordOf 0x47 [fld n 18, fld a 11, fld g 2]) = BitVec.ofNat 7 0x47 := bitsAt_code (P := 33554432) (Q := 128) rfl rfl (by rw [hw]; omega)
  have h1 : bitsAt 0 2 (wordOf 0x47 [fld n 18, fld a 11, fld g 2]) = BitVec.ofNat 2 0 := bitsAt_code (P := 1) (Q := 4) rfl rfl (by rw [hw]; omega)
  have h2 : bitsAt 4 7 (wordOf 0x47 [fld n 18, fld a 11, fld g 2]) = BitVec.ofNat 7 0 := bitsAt_code (P := 16) (Q := 128) rfl rfl (by rw [hw]; omega)
  have h3 : bitsAt 22 3 (wordOf 0x47 [fld n 18, fld a 11, fld g 2]) = BitVec.ofNat 3 0 := bitsAt_code (P := 4194304) (Q := 8) rfl rfl (by rw [hw]; omega)
  have h4 : bitsAt 18 4 (wordOf 0x47 [fld n 18, fld a 11, fld g 2]) = n := bitsAt_eq (P := 262144) (Q := 16) rfl rfl (by rw [hw]; omega)
  have h5 : bitsAt 11 7 (wordOf 0x47 [fld n 18, fld a 11, fld g 2]) = a := bitsAt_eq (P := 2048) (Q := 128) rfl rfl (by rw [hw]; omega)
  have h6 : bitsAt 2 2 (wordOf 0x47 [fld n 18, fld a 11, fld g 2]) = g := bitsAt_eq (P := 4) (Q := 4) rfl rfl (by rw [hw]; omega)
  refine roundTrip_one rfl h0 (by decide) ((decodeWord_47 h0).trans ?_)
  simp [decodeOp47, h1, h2, h3, h4, h5, h6]

theorem tmma (d : BitVec 7) (a : BitVec 7) (b : BitVec 7) (m : BitVec 2) : Statement (.tmma d a b m) := by
  obtain ⟨h0, h1, h2, h3, h4, h5⟩ := shape12 0x48 d a b m (by decide)
  refine roundTrip_one rfl h0 (by decide) ((decodeWord_48 h0).trans ?_)
  simp [decodeOp48, h1, h2, h3, h4, h5]

theorem tmmat (d : BitVec 7) (a : BitVec 7) (b : BitVec 7) (m : BitVec 2) : Statement (.tmmat d a b m) := by
  obtain ⟨h0, h1, h2, h3, h4, h5⟩ := shape12 0x49 d a b m (by decide)
  refine roundTrip_one rfl h0 (by decide) ((decodeWord_49 h0).trans ?_)
  simp [decodeOp49, h1, h2, h3, h4, h5]

theorem tzero (d : BitVec 7) (m : BitVec 2) : Statement (.tzero d m) := by
  have := field_lt d (P := 128) rfl
  have := field_lt m (P := 4) rfl
  have hw : (wordOf 0x4A [fld d 18, fld m 2]).toNat = 2483027968 + d.toNat * 262144 + m.toNat * 4 :=
    wordOf_toNat _ _ (by rw [fld_eq d 18 (P := 262144) rfl, fld_eq m 2 (P := 4) rfl]; simp only [sum_field, sum_none]; omega) (by omega)
  have h0 : bitsAt 25 7 (wordOf 0x4A [fld d 18, fld m 2]) = BitVec.ofNat 7 0x4A := bitsAt_code (P := 33554432) (Q := 128) rfl rfl (by rw [hw]; omega)
  have h1 : bitsAt 0 2 (wordOf 0x4A [fld d 18, fld m 2]) = BitVec.ofNat 2 0 := bitsAt_code (P := 1) (Q := 4) rfl rfl (by rw [hw]; omega)
  have h2 : bitsAt 4 14 (wordOf 0x4A [fld d 18, fld m 2]) = BitVec.ofNat 14 0 := bitsAt_code (P := 16) (Q := 16384) rfl rfl (by rw [hw]; omega)
  have h3 : bitsAt 18 7 (wordOf 0x4A [fld d 18, fld m 2]) = d := bitsAt_eq (P := 262144) (Q := 128) rfl rfl (by rw [hw]; omega)
  have h4 : bitsAt 2 2 (wordOf 0x4A [fld d 18, fld m 2]) = m := bitsAt_eq (P := 4) (Q := 4) rfl rfl (by rw [hw]; omega)
  refine roundTrip_one rfl h0 (by decide) ((decodeWord_4A h0).trans ?_)
  simp [decodeOp4A, h1, h2, h3, h4]

theorem ttrnFragment (d : BitVec 7) (a : BitVec 7) (m : BitVec 2) : Statement (.ttrnFragment d a m) := by
  have := field_lt d (P := 128) rfl
  have := field_lt a (P := 128) rfl
  have := field_lt m (P := 4) rfl
  have hw : (wordOf 0x4B [fld d 18, fld a 11, fld m 2]).toNat = 2516582400 + d.toNat * 262144 + a.toNat * 2048 + m.toNat * 4 :=
    wordOf_toNat _ _ (by rw [fld_eq d 18 (P := 262144) rfl, fld_eq a 11 (P := 2048) rfl, fld_eq m 2 (P := 4) rfl]; simp only [sum_field, sum_none]; omega) (by omega)
  have h0 : bitsAt 25 7 (wordOf 0x4B [fld d 18, fld a 11, fld m 2]) = BitVec.ofNat 7 0x4B := bitsAt_code (P := 33554432) (Q := 128) rfl rfl (by rw [hw]; omega)
  have h1 : bitsAt 0 2 (wordOf 0x4B [fld d 18, fld a 11, fld m 2]) = BitVec.ofNat 2 0 := bitsAt_code (P := 1) (Q := 4) rfl rfl (by rw [hw]; omega)
  have h2 : bitsAt 4 7 (wordOf 0x4B [fld d 18, fld a 11, fld m 2]) = BitVec.ofNat 7 0 := bitsAt_code (P := 16) (Q := 128) rfl rfl (by rw [hw]; omega)
  have h3 : bitsAt 18 7 (wordOf 0x4B [fld d 18, fld a 11, fld m 2]) = d := bitsAt_eq (P := 262144) (Q := 128) rfl rfl (by rw [hw]; omega)
  have h4 : bitsAt 11 7 (wordOf 0x4B [fld d 18, fld a 11, fld m 2]) = a := bitsAt_eq (P := 2048) (Q := 128) rfl rfl (by rw [hw]; omega)
  have h5 : bitsAt 2 2 (wordOf 0x4B [fld d 18, fld a 11, fld m 2]) = m := bitsAt_eq (P := 4) (Q := 4) rfl rfl (by rw [hw]; omega)
  refine roundTrip_one rfl h0 (by decide) ((decodeWord_4B h0).trans ?_)
  simp [decodeOp4B, h1, h2, h3, h4, h5]

theorem ttrnAccumulator (d : BitVec 7) (a : BitVec 7) (m : BitVec 2) : Statement (.ttrnAccumulator d a m) := by
  have := field_lt d (P := 128) rfl
  have := field_lt a (P := 128) rfl
  have := field_lt m (P := 4) rfl
  have hw : (wordOf 0x4B [fld d 18, fld a 11, lit 1 4, fld m 2]).toNat = 2516582416 + d.toNat * 262144 + a.toNat * 2048 + m.toNat * 4 :=
    wordOf_toNat _ _ (by rw [fld_eq d 18 (P := 262144) rfl, fld_eq a 11 (P := 2048) rfl, fld_eq m 2 (P := 4) rfl]; simp only [lit, sum_field, sum_none]; omega) (by omega)
  have h0 : bitsAt 25 7 (wordOf 0x4B [fld d 18, fld a 11, lit 1 4, fld m 2]) = BitVec.ofNat 7 0x4B := bitsAt_code (P := 33554432) (Q := 128) rfl rfl (by rw [hw]; omega)
  have h1 : bitsAt 0 2 (wordOf 0x4B [fld d 18, fld a 11, lit 1 4, fld m 2]) = BitVec.ofNat 2 0 := bitsAt_code (P := 1) (Q := 4) rfl rfl (by rw [hw]; omega)
  have h2 : bitsAt 4 7 (wordOf 0x4B [fld d 18, fld a 11, lit 1 4, fld m 2]) = BitVec.ofNat 7 1 := bitsAt_code (P := 16) (Q := 128) rfl rfl (by rw [hw]; omega)
  have h3 : bitsAt 18 7 (wordOf 0x4B [fld d 18, fld a 11, lit 1 4, fld m 2]) = d := bitsAt_eq (P := 262144) (Q := 128) rfl rfl (by rw [hw]; omega)
  have h4 : bitsAt 11 7 (wordOf 0x4B [fld d 18, fld a 11, lit 1 4, fld m 2]) = a := bitsAt_eq (P := 2048) (Q := 128) rfl rfl (by rw [hw]; omega)
  have h5 : bitsAt 2 2 (wordOf 0x4B [fld d 18, fld a 11, lit 1 4, fld m 2]) = m := bitsAt_eq (P := 4) (Q := 4) rfl rfl (by rw [hw]; omega)
  refine roundTrip_one rfl h0 (by decide) ((decodeWord_4B h0).trans ?_)
  simp [decodeOp4B, h1, h2, h3, h4, h5]

theorem tact (d : BitVec 7) (a : BitVec 7) (f : BitVec 3) (m : BitVec 2) : Statement (.tact d a f m) := by
  have := field_lt d (P := 128) rfl
  have := field_lt a (P := 128) rfl
  have := field_lt f (P := 8) rfl
  have := field_lt m (P := 4) rfl
  have hw : (wordOf 0x4C [fld d 18, fld a 11, fld f 4, fld m 2]).toNat = 2550136832 + d.toNat * 262144 + a.toNat * 2048 + f.toNat * 16 + m.toNat * 4 :=
    wordOf_toNat _ _ (by rw [fld_eq d 18 (P := 262144) rfl, fld_eq a 11 (P := 2048) rfl, fld_eq f 4 (P := 16) rfl, fld_eq m 2 (P := 4) rfl]; simp only [sum_field, sum_none]; omega) (by omega)
  have h0 : bitsAt 25 7 (wordOf 0x4C [fld d 18, fld a 11, fld f 4, fld m 2]) = BitVec.ofNat 7 0x4C := bitsAt_code (P := 33554432) (Q := 128) rfl rfl (by rw [hw]; omega)
  have h1 : bitsAt 0 2 (wordOf 0x4C [fld d 18, fld a 11, fld f 4, fld m 2]) = BitVec.ofNat 2 0 := bitsAt_code (P := 1) (Q := 4) rfl rfl (by rw [hw]; omega)
  have h2 : bitsAt 7 4 (wordOf 0x4C [fld d 18, fld a 11, fld f 4, fld m 2]) = BitVec.ofNat 4 0 := bitsAt_code (P := 128) (Q := 16) rfl rfl (by rw [hw]; omega)
  have h3 : bitsAt 18 7 (wordOf 0x4C [fld d 18, fld a 11, fld f 4, fld m 2]) = d := bitsAt_eq (P := 262144) (Q := 128) rfl rfl (by rw [hw]; omega)
  have h4 : bitsAt 11 7 (wordOf 0x4C [fld d 18, fld a 11, fld f 4, fld m 2]) = a := bitsAt_eq (P := 2048) (Q := 128) rfl rfl (by rw [hw]; omega)
  have h5 : bitsAt 4 3 (wordOf 0x4C [fld d 18, fld a 11, fld f 4, fld m 2]) = f := bitsAt_eq (P := 16) (Q := 8) rfl rfl (by rw [hw]; omega)
  have h6 : bitsAt 2 2 (wordOf 0x4C [fld d 18, fld a 11, fld f 4, fld m 2]) = m := bitsAt_eq (P := 4) (Q := 4) rfl rfl (by rw [hw]; omega)
  refine roundTrip_one rfl h0 (by decide) ((decodeWord_4C h0).trans ?_)
  simp [decodeOp4C, h1, h2, h3, h4, h5, h6]

theorem tcvt (d : BitVec 7) (a : BitVec 7) (s : BitVec 1) (t : BitVec 6) (m : BitVec 2) : Statement (.tcvt d a s t m) := by
  have := field_lt d (P := 128) rfl
  have := field_lt a (P := 128) rfl
  have := field_lt s (P := 2) rfl
  have := field_lt t (P := 64) rfl
  have := field_lt m (P := 4) rfl
  have hw : (wordOf 0x4D [fld d 18, fld a 11, fld s 10, fld t 4, fld m 2]).toNat = 2583691264 + d.toNat * 262144 + a.toNat * 2048 + s.toNat * 1024 + t.toNat * 16 + m.toNat * 4 :=
    wordOf_toNat _ _ (by rw [fld_eq d 18 (P := 262144) rfl, fld_eq a 11 (P := 2048) rfl, fld_eq s 10 (P := 1024) rfl, fld_eq t 4 (P := 16) rfl, fld_eq m 2 (P := 4) rfl]; simp only [sum_field, sum_none]; omega) (by omega)
  have h0 : bitsAt 25 7 (wordOf 0x4D [fld d 18, fld a 11, fld s 10, fld t 4, fld m 2]) = BitVec.ofNat 7 0x4D := bitsAt_code (P := 33554432) (Q := 128) rfl rfl (by rw [hw]; omega)
  have h1 : bitsAt 0 2 (wordOf 0x4D [fld d 18, fld a 11, fld s 10, fld t 4, fld m 2]) = BitVec.ofNat 2 0 := bitsAt_code (P := 1) (Q := 4) rfl rfl (by rw [hw]; omega)
  have h2 : bitsAt 18 7 (wordOf 0x4D [fld d 18, fld a 11, fld s 10, fld t 4, fld m 2]) = d := bitsAt_eq (P := 262144) (Q := 128) rfl rfl (by rw [hw]; omega)
  have h3 : bitsAt 11 7 (wordOf 0x4D [fld d 18, fld a 11, fld s 10, fld t 4, fld m 2]) = a := bitsAt_eq (P := 2048) (Q := 128) rfl rfl (by rw [hw]; omega)
  have h4 : bitsAt 10 1 (wordOf 0x4D [fld d 18, fld a 11, fld s 10, fld t 4, fld m 2]) = s := bitsAt_eq (P := 1024) (Q := 2) rfl rfl (by rw [hw]; omega)
  have h5 : bitsAt 4 6 (wordOf 0x4D [fld d 18, fld a 11, fld s 10, fld t 4, fld m 2]) = t := bitsAt_eq (P := 16) (Q := 64) rfl rfl (by rw [hw]; omega)
  have h6 : bitsAt 2 2 (wordOf 0x4D [fld d 18, fld a 11, fld s 10, fld t 4, fld m 2]) = m := bitsAt_eq (P := 4) (Q := 4) rfl rfl (by rw [hw]; omega)
  refine roundTrip_one rfl h0 (by decide) ((decodeWord_4D h0).trans ?_)
  simp [decodeOp4D, h1, h2, h3, h4, h5, h6]

theorem tred (d : BitVec 7) (a : BitVec 7) (o : BitVec 2) (m : BitVec 2) : Statement (.tred d a o m) := by
  have := field_lt d (P := 128) rfl
  have := field_lt a (P := 128) rfl
  have := field_lt o (P := 4) rfl
  have := field_lt m (P := 4) rfl
  have hw : (wordOf 0x4E [fld d 18, fld a 11, fld o 4, fld m 2]).toNat = 2617245696 + d.toNat * 262144 + a.toNat * 2048 + o.toNat * 16 + m.toNat * 4 :=
    wordOf_toNat _ _ (by rw [fld_eq d 18 (P := 262144) rfl, fld_eq a 11 (P := 2048) rfl, fld_eq o 4 (P := 16) rfl, fld_eq m 2 (P := 4) rfl]; simp only [sum_field, sum_none]; omega) (by omega)
  have h0 : bitsAt 25 7 (wordOf 0x4E [fld d 18, fld a 11, fld o 4, fld m 2]) = BitVec.ofNat 7 0x4E := bitsAt_code (P := 33554432) (Q := 128) rfl rfl (by rw [hw]; omega)
  have h1 : bitsAt 0 2 (wordOf 0x4E [fld d 18, fld a 11, fld o 4, fld m 2]) = BitVec.ofNat 2 0 := bitsAt_code (P := 1) (Q := 4) rfl rfl (by rw [hw]; omega)
  have h2 : bitsAt 6 5 (wordOf 0x4E [fld d 18, fld a 11, fld o 4, fld m 2]) = BitVec.ofNat 5 0 := bitsAt_code (P := 64) (Q := 32) rfl rfl (by rw [hw]; omega)
  have h3 : bitsAt 18 7 (wordOf 0x4E [fld d 18, fld a 11, fld o 4, fld m 2]) = d := bitsAt_eq (P := 262144) (Q := 128) rfl rfl (by rw [hw]; omega)
  have h4 : bitsAt 11 7 (wordOf 0x4E [fld d 18, fld a 11, fld o 4, fld m 2]) = a := bitsAt_eq (P := 2048) (Q := 128) rfl rfl (by rw [hw]; omega)
  have h5 : bitsAt 4 2 (wordOf 0x4E [fld d 18, fld a 11, fld o 4, fld m 2]) = o := bitsAt_eq (P := 16) (Q := 4) rfl rfl (by rw [hw]; omega)
  have h6 : bitsAt 2 2 (wordOf 0x4E [fld d 18, fld a 11, fld o 4, fld m 2]) = m := bitsAt_eq (P := 4) (Q := 4) rfl rfl (by rw [hw]; omega)
  refine roundTrip_one rfl h0 (by decide) ((decodeWord_4E h0).trans ?_)
  simp [decodeOp4E, h1, h2, h3, h4, h5, h6]

theorem tbias (d : BitVec 7) (a : BitVec 7) (b : BitVec 7) (m : BitVec 2) : Statement (.tbias d a b m) := by
  obtain ⟨h0, h1, h2, h3, h4, h5⟩ := shape12 0x4F d a b m (by decide)
  refine roundTrip_one rfl h0 (by decide) ((decodeWord_4F h0).trans ?_)
  simp [decodeOp4F, h1, h2, h3, h4, h5]

theorem ldb (d : BitVec 7) (a : BitVec 7) (i : BitVec 11) : Statement (.ldb d a i) := by
  obtain ⟨h0, h1, h2, h3⟩ := shape6 0x50 d a i (by decide)
  refine roundTrip_one rfl h0 (by decide) ((decodeWord_50 h0).trans ?_)
  rw [decodeOp50, h1, h2, h3]

theorem ldh (d : BitVec 7) (a : BitVec 7) (i : BitVec 11) : Statement (.ldh d a i) := by
  obtain ⟨h0, h1, h2, h3⟩ := shape6 0x51 d a i (by decide)
  refine roundTrip_one rfl h0 (by decide) ((decodeWord_51 h0).trans ?_)
  rw [decodeOp51, h1, h2, h3]

theorem ldw (d : BitVec 7) (a : BitVec 7) (i : BitVec 11) : Statement (.ldw d a i) := by
  obtain ⟨h0, h1, h2, h3⟩ := shape6 0x52 d a i (by decide)
  refine roundTrip_one rfl h0 (by decide) ((decodeWord_52 h0).trans ?_)
  rw [decodeOp52, h1, h2, h3]

theorem ldd (d : BitVec 7) (a : BitVec 7) (i : BitVec 11) : Statement (.ldd d a i) := by
  obtain ⟨h0, h1, h2, h3⟩ := shape6 0x53 d a i (by decide)
  refine roundTrip_one rfl h0 (by decide) ((decodeWord_53 h0).trans ?_)
  rw [decodeOp53, h1, h2, h3]

theorem ldq (d : BitVec 7) (a : BitVec 7) (i : BitVec 11) : Statement (.ldq d a i) := by
  obtain ⟨h0, h1, h2, h3⟩ := shape6 0x54 d a i (by decide)
  refine roundTrip_one rfl h0 (by decide) ((decodeWord_54 h0).trans ?_)
  rw [decodeOp54, h1, h2, h3]

theorem stb (d : BitVec 7) (a : BitVec 7) (i : BitVec 11) : Statement (.stb d a i) := by
  obtain ⟨h0, h1, h2, h3⟩ := shape6 0x55 d a i (by decide)
  refine roundTrip_one rfl h0 (by decide) ((decodeWord_55 h0).trans ?_)
  rw [decodeOp55, h1, h2, h3]

theorem sth (d : BitVec 7) (a : BitVec 7) (i : BitVec 11) : Statement (.sth d a i) := by
  obtain ⟨h0, h1, h2, h3⟩ := shape6 0x56 d a i (by decide)
  refine roundTrip_one rfl h0 (by decide) ((decodeWord_56 h0).trans ?_)
  rw [decodeOp56, h1, h2, h3]

theorem stw (d : BitVec 7) (a : BitVec 7) (i : BitVec 11) : Statement (.stw d a i) := by
  obtain ⟨h0, h1, h2, h3⟩ := shape6 0x57 d a i (by decide)
  refine roundTrip_one rfl h0 (by decide) ((decodeWord_57 h0).trans ?_)
  rw [decodeOp57, h1, h2, h3]

theorem std (d : BitVec 7) (a : BitVec 7) (i : BitVec 11) : Statement (.std d a i) := by
  obtain ⟨h0, h1, h2, h3⟩ := shape6 0x58 d a i (by decide)
  refine roundTrip_one rfl h0 (by decide) ((decodeWord_58 h0).trans ?_)
  rw [decodeOp58, h1, h2, h3]

theorem stq (d : BitVec 7) (a : BitVec 7) (i : BitVec 11) : Statement (.stq d a i) := by
  obtain ⟨h0, h1, h2, h3⟩ := shape6 0x59 d a i (by decide)
  refine roundTrip_one rfl h0 (by decide) ((decodeWord_59 h0).trans ?_)
  rw [decodeOp59, h1, h2, h3]

theorem ldv (d : BitVec 7) (a : BitVec 7) (i : BitVec 11) : Statement (.ldv d a i) := by
  obtain ⟨h0, h1, h2, h3⟩ := shape6 0x5A d a i (by decide)
  refine roundTrip_one rfl h0 (by decide) ((decodeWord_5A h0).trans ?_)
  rw [decodeOp5A, h1, h2, h3]

theorem ldf (d : BitVec 7) (a : BitVec 7) (t : BitVec 6) (g : BitVec 2) : Statement (.ldf d a t g) := by
  have := field_lt d (P := 128) rfl
  have := field_lt a (P := 128) rfl
  have := field_lt t (P := 64) rfl
  have := field_lt g (P := 4) rfl
  have hw : (wordOf 0x5B [fld d 18, fld a 11, fld t 4, fld g 2]).toNat = 3053453312 + d.toNat * 262144 + a.toNat * 2048 + t.toNat * 16 + g.toNat * 4 :=
    wordOf_toNat _ _ (by rw [fld_eq d 18 (P := 262144) rfl, fld_eq a 11 (P := 2048) rfl, fld_eq t 4 (P := 16) rfl, fld_eq g 2 (P := 4) rfl]; simp only [sum_field, sum_none]; omega) (by omega)
  have h0 : bitsAt 25 7 (wordOf 0x5B [fld d 18, fld a 11, fld t 4, fld g 2]) = BitVec.ofNat 7 0x5B := bitsAt_code (P := 33554432) (Q := 128) rfl rfl (by rw [hw]; omega)
  have h1 : bitsAt 0 2 (wordOf 0x5B [fld d 18, fld a 11, fld t 4, fld g 2]) = BitVec.ofNat 2 0 := bitsAt_code (P := 1) (Q := 4) rfl rfl (by rw [hw]; omega)
  have h2 : bitsAt 10 1 (wordOf 0x5B [fld d 18, fld a 11, fld t 4, fld g 2]) = BitVec.ofNat 1 0 := bitsAt_code (P := 1024) (Q := 2) rfl rfl (by rw [hw]; omega)
  have h3 : bitsAt 18 7 (wordOf 0x5B [fld d 18, fld a 11, fld t 4, fld g 2]) = d := bitsAt_eq (P := 262144) (Q := 128) rfl rfl (by rw [hw]; omega)
  have h4 : bitsAt 11 7 (wordOf 0x5B [fld d 18, fld a 11, fld t 4, fld g 2]) = a := bitsAt_eq (P := 2048) (Q := 128) rfl rfl (by rw [hw]; omega)
  have h5 : bitsAt 4 6 (wordOf 0x5B [fld d 18, fld a 11, fld t 4, fld g 2]) = t := bitsAt_eq (P := 16) (Q := 64) rfl rfl (by rw [hw]; omega)
  have h6 : bitsAt 2 2 (wordOf 0x5B [fld d 18, fld a 11, fld t 4, fld g 2]) = g := bitsAt_eq (P := 4) (Q := 4) rfl rfl (by rw [hw]; omega)
  refine roundTrip_one rfl h0 (by decide) ((decodeWord_5B h0).trans ?_)
  simp [decodeOp5B, h1, h2, h3, h4, h5, h6]

theorem lde (d : BitVec 7) (a : BitVec 7) (t : BitVec 5) (g : BitVec 2) : Statement (.lde d a t g) := by
  have := field_lt d (P := 128) rfl
  have := field_lt a (P := 128) rfl
  have := field_lt t (P := 32) rfl
  have := field_lt g (P := 4) rfl
  have hw : (wordOf 0x5C [fld d 18, fld a 11, fld t 4, fld g 2]).toNat = 3087007744 + d.toNat * 262144 + a.toNat * 2048 + t.toNat * 16 + g.toNat * 4 :=
    wordOf_toNat _ _ (by rw [fld_eq d 18 (P := 262144) rfl, fld_eq a 11 (P := 2048) rfl, fld_eq t 4 (P := 16) rfl, fld_eq g 2 (P := 4) rfl]; simp only [sum_field, sum_none]; omega) (by omega)
  have h0 : bitsAt 25 7 (wordOf 0x5C [fld d 18, fld a 11, fld t 4, fld g 2]) = BitVec.ofNat 7 0x5C := bitsAt_code (P := 33554432) (Q := 128) rfl rfl (by rw [hw]; omega)
  have h1 : bitsAt 0 2 (wordOf 0x5C [fld d 18, fld a 11, fld t 4, fld g 2]) = BitVec.ofNat 2 0 := bitsAt_code (P := 1) (Q := 4) rfl rfl (by rw [hw]; omega)
  have h2 : bitsAt 9 2 (wordOf 0x5C [fld d 18, fld a 11, fld t 4, fld g 2]) = BitVec.ofNat 2 0 := bitsAt_code (P := 512) (Q := 4) rfl rfl (by rw [hw]; omega)
  have h3 : bitsAt 18 7 (wordOf 0x5C [fld d 18, fld a 11, fld t 4, fld g 2]) = d := bitsAt_eq (P := 262144) (Q := 128) rfl rfl (by rw [hw]; omega)
  have h4 : bitsAt 11 7 (wordOf 0x5C [fld d 18, fld a 11, fld t 4, fld g 2]) = a := bitsAt_eq (P := 2048) (Q := 128) rfl rfl (by rw [hw]; omega)
  have h5 : bitsAt 4 5 (wordOf 0x5C [fld d 18, fld a 11, fld t 4, fld g 2]) = t := bitsAt_eq (P := 16) (Q := 32) rfl rfl (by rw [hw]; omega)
  have h6 : bitsAt 2 2 (wordOf 0x5C [fld d 18, fld a 11, fld t 4, fld g 2]) = g := bitsAt_eq (P := 4) (Q := 4) rfl rfl (by rw [hw]; omega)
  refine roundTrip_one rfl h0 (by decide) ((decodeWord_5C h0).trans ?_)
  simp [decodeOp5C, h1, h2, h3, h4, h5, h6]

theorem accb (d : BitVec 7) (a : BitVec 7) (i : BitVec 11) : Statement (.accb d a i) := by
  obtain ⟨h0, h1, h2, h3⟩ := shape6 0x5D d a i (by decide)
  refine roundTrip_one rfl h0 (by decide) ((decodeWord_5D h0).trans ?_)
  rw [decodeOp5D, h1, h2, h3]

theorem tld (d : BitVec 7) (a : BitVec 7) (b : BitVec 7) (m : BitVec 2) : Statement (.tld d a b m) := by
  obtain ⟨h0, h1, h2, h3, h4, h5⟩ := shape12 0x5E d a b m (by decide)
  refine roundTrip_one rfl h0 (by decide) ((decodeWord_5E h0).trans ?_)
  simp [decodeOp5E, h1, h2, h3, h4, h5]

theorem tst (d : BitVec 7) (a : BitVec 7) (b : BitVec 7) (m : BitVec 2) : Statement (.tst d a b m) := by
  obtain ⟨h0, h1, h2, h3, h4, h5⟩ := shape12 0x5F d a b m (by decide)
  refine roundTrip_one rfl h0 (by decide) ((decodeWord_5F h0).trans ?_)
  simp [decodeOp5F, h1, h2, h3, h4, h5]

theorem aadd (d : BitVec 7) (a : BitVec 7) (b : BitVec 7) (c : BitVec 2) : Statement (.aadd d a b c) := by
  obtain ⟨h0, h1, h2, h3, h4, h5⟩ := shape13 0x60 d a b c (by decide)
  refine roundTrip_one rfl h0 (by decide) ((decodeWord_60 h0).trans ?_)
  simp [decodeOp60, h1, h2, h3, h4, h5]

theorem aaddNr (a : BitVec 7) (b : BitVec 7) (c : BitVec 2) : Statement (.aaddNr a b c) := by
  obtain ⟨h0, h1, h2, h3, h4, h5⟩ := shape14 0x60 a b c 1 (by decide) (by decide)
  refine roundTrip_one rfl h0 (by decide) ((decodeWord_60 h0).trans ?_)
  simp [decodeOp60, h1, h2, h3, h4, h5]

theorem afadd (d : BitVec 7) (a : BitVec 7) (b : BitVec 7) (c : BitVec 2) : Statement (.afadd d a b c) := by
  obtain ⟨h0, h1, h2, h3, h4, h5⟩ := shape13 0x61 d a b c (by decide)
  refine roundTrip_one rfl h0 (by decide) ((decodeWord_61 h0).trans ?_)
  simp [decodeOp61, h1, h2, h3, h4, h5]

theorem afaddNr (a : BitVec 7) (b : BitVec 7) (c : BitVec 2) : Statement (.afaddNr a b c) := by
  obtain ⟨h0, h1, h2, h3, h4, h5⟩ := shape14 0x61 a b c 1 (by decide) (by decide)
  refine roundTrip_one rfl h0 (by decide) ((decodeWord_61 h0).trans ?_)
  simp [decodeOp61, h1, h2, h3, h4, h5]

theorem amin (d : BitVec 7) (a : BitVec 7) (b : BitVec 7) (c : BitVec 2) : Statement (.amin d a b c) := by
  obtain ⟨h0, h1, h2, h3, h4, h5⟩ := shape13 0x62 d a b c (by decide)
  refine roundTrip_one rfl h0 (by decide) ((decodeWord_62 h0).trans ?_)
  simp [decodeOp62, h1, h2, h3, h4, h5]

theorem aminNr (a : BitVec 7) (b : BitVec 7) (c : BitVec 2) : Statement (.aminNr a b c) := by
  obtain ⟨h0, h1, h2, h3, h4, h5⟩ := shape14 0x62 a b c 1 (by decide) (by decide)
  refine roundTrip_one rfl h0 (by decide) ((decodeWord_62 h0).trans ?_)
  simp [decodeOp62, h1, h2, h3, h4, h5]

theorem amax (d : BitVec 7) (a : BitVec 7) (b : BitVec 7) (c : BitVec 2) : Statement (.amax d a b c) := by
  obtain ⟨h0, h1, h2, h3, h4, h5⟩ := shape13 0x63 d a b c (by decide)
  refine roundTrip_one rfl h0 (by decide) ((decodeWord_63 h0).trans ?_)
  simp [decodeOp63, h1, h2, h3, h4, h5]

theorem amaxNr (a : BitVec 7) (b : BitVec 7) (c : BitVec 2) : Statement (.amaxNr a b c) := by
  obtain ⟨h0, h1, h2, h3, h4, h5⟩ := shape14 0x63 a b c 1 (by decide) (by decide)
  refine roundTrip_one rfl h0 (by decide) ((decodeWord_63 h0).trans ?_)
  simp [decodeOp63, h1, h2, h3, h4, h5]

theorem aumin (d : BitVec 7) (a : BitVec 7) (b : BitVec 7) (c : BitVec 2) : Statement (.aumin d a b c) := by
  obtain ⟨h0, h1, h2, h3, h4, h5⟩ := shape13 0x64 d a b c (by decide)
  refine roundTrip_one rfl h0 (by decide) ((decodeWord_64 h0).trans ?_)
  simp [decodeOp64, h1, h2, h3, h4, h5]

theorem auminNr (a : BitVec 7) (b : BitVec 7) (c : BitVec 2) : Statement (.auminNr a b c) := by
  obtain ⟨h0, h1, h2, h3, h4, h5⟩ := shape14 0x64 a b c 1 (by decide) (by decide)
  refine roundTrip_one rfl h0 (by decide) ((decodeWord_64 h0).trans ?_)
  simp [decodeOp64, h1, h2, h3, h4, h5]

theorem aumax (d : BitVec 7) (a : BitVec 7) (b : BitVec 7) (c : BitVec 2) : Statement (.aumax d a b c) := by
  obtain ⟨h0, h1, h2, h3, h4, h5⟩ := shape13 0x65 d a b c (by decide)
  refine roundTrip_one rfl h0 (by decide) ((decodeWord_65 h0).trans ?_)
  simp [decodeOp65, h1, h2, h3, h4, h5]

theorem aumaxNr (a : BitVec 7) (b : BitVec 7) (c : BitVec 2) : Statement (.aumaxNr a b c) := by
  obtain ⟨h0, h1, h2, h3, h4, h5⟩ := shape14 0x65 a b c 1 (by decide) (by decide)
  refine roundTrip_one rfl h0 (by decide) ((decodeWord_65 h0).trans ?_)
  simp [decodeOp65, h1, h2, h3, h4, h5]

theorem aand (d : BitVec 7) (a : BitVec 7) (b : BitVec 7) (c : BitVec 2) : Statement (.aand d a b c) := by
  obtain ⟨h0, h1, h2, h3, h4, h5⟩ := shape13 0x66 d a b c (by decide)
  refine roundTrip_one rfl h0 (by decide) ((decodeWord_66 h0).trans ?_)
  simp [decodeOp66, h1, h2, h3, h4, h5]

theorem aandNr (a : BitVec 7) (b : BitVec 7) (c : BitVec 2) : Statement (.aandNr a b c) := by
  obtain ⟨h0, h1, h2, h3, h4, h5⟩ := shape14 0x66 a b c 1 (by decide) (by decide)
  refine roundTrip_one rfl h0 (by decide) ((decodeWord_66 h0).trans ?_)
  simp [decodeOp66, h1, h2, h3, h4, h5]

theorem aor (d : BitVec 7) (a : BitVec 7) (b : BitVec 7) (c : BitVec 2) : Statement (.aor d a b c) := by
  obtain ⟨h0, h1, h2, h3, h4, h5⟩ := shape13 0x67 d a b c (by decide)
  refine roundTrip_one rfl h0 (by decide) ((decodeWord_67 h0).trans ?_)
  simp [decodeOp67, h1, h2, h3, h4, h5]

theorem aorNr (a : BitVec 7) (b : BitVec 7) (c : BitVec 2) : Statement (.aorNr a b c) := by
  obtain ⟨h0, h1, h2, h3, h4, h5⟩ := shape14 0x67 a b c 1 (by decide) (by decide)
  refine roundTrip_one rfl h0 (by decide) ((decodeWord_67 h0).trans ?_)
  simp [decodeOp67, h1, h2, h3, h4, h5]

theorem axor (d : BitVec 7) (a : BitVec 7) (b : BitVec 7) (c : BitVec 2) : Statement (.axor d a b c) := by
  obtain ⟨h0, h1, h2, h3, h4, h5⟩ := shape13 0x68 d a b c (by decide)
  refine roundTrip_one rfl h0 (by decide) ((decodeWord_68 h0).trans ?_)
  simp [decodeOp68, h1, h2, h3, h4, h5]

theorem axorNr (a : BitVec 7) (b : BitVec 7) (c : BitVec 2) : Statement (.axorNr a b c) := by
  obtain ⟨h0, h1, h2, h3, h4, h5⟩ := shape14 0x68 a b c 1 (by decide) (by decide)
  refine roundTrip_one rfl h0 (by decide) ((decodeWord_68 h0).trans ?_)
  simp [decodeOp68, h1, h2, h3, h4, h5]

theorem axchg (d : BitVec 7) (a : BitVec 7) (b : BitVec 7) (c : BitVec 2) : Statement (.axchg d a b c) := by
  obtain ⟨h0, h1, h2, h3, h4, h5⟩ := shape13 0x69 d a b c (by decide)
  refine roundTrip_one rfl h0 (by decide) ((decodeWord_69 h0).trans ?_)
  simp [decodeOp69, h1, h2, h3, h4, h5]

theorem axchgNr (a : BitVec 7) (b : BitVec 7) (c : BitVec 2) : Statement (.axchgNr a b c) := by
  obtain ⟨h0, h1, h2, h3, h4, h5⟩ := shape14 0x69 a b c 1 (by decide) (by decide)
  refine roundTrip_one rfl h0 (by decide) ((decodeWord_69 h0).trans ?_)
  simp [decodeOp69, h1, h2, h3, h4, h5]

theorem acas (d : BitVec 7) (a : BitVec 7) (b : BitVec 7) (c : BitVec 2) : Statement (.acas d a b c) := by
  obtain ⟨h0, h1, h2, h3, h4, h5⟩ := shape13 0x6A d a b c (by decide)
  refine roundTrip_one rfl h0 (by decide) ((decodeWord_6A h0).trans ?_)
  simp [decodeOp6A, h1, h2, h3, h4, h5]

theorem acasNr (a : BitVec 7) (b : BitVec 7) (c : BitVec 2) : Statement (.acasNr a b c) := by
  obtain ⟨h0, h1, h2, h3, h4, h5⟩ := shape14 0x6A a b c 1 (by decide) (by decide)
  refine roundTrip_one rfl h0 (by decide) ((decodeWord_6A h0).trans ?_)
  simp [decodeOp6A, h1, h2, h3, h4, h5]

theorem enq (d : BitVec 7) (a : BitVec 7) (b : BitVec 7) (c : BitVec 2) : Statement (.enq d a b c) := by
  obtain ⟨h0, h1, h2, h3, h4, h5⟩ := shape13 0x6B d a b c (by decide)
  refine roundTrip_one rfl h0 (by decide) ((decodeWord_6B h0).trans ?_)
  simp [decodeOp6B, h1, h2, h3, h4, h5]

theorem deq (d : BitVec 7) (a : BitVec 7) (b : BitVec 7) (c : BitVec 2) : Statement (.deq d a b c) := by
  obtain ⟨h0, h1, h2, h3, h4, h5⟩ := shape13 0x6C d a b c (by decide)
  refine roundTrip_one rfl h0 (by decide) ((decodeWord_6C h0).trans ?_)
  simp [decodeOp6C, h1, h2, h3, h4, h5]

theorem monw (k : BitVec 4) (a : BitVec 7) (b : BitVec 7) (c : BitVec 2) : Statement (.monw k a b c) := by
  have := field_lt k (P := 16) rfl
  have := field_lt a (P := 128) rfl
  have := field_lt b (P := 128) rfl
  have := field_lt c (P := 4) rfl
  have hw : (wordOf 0x6D [fld k 18, fld a 11, fld b 4, fld c 2]).toNat = 3657433088 + k.toNat * 262144 + a.toNat * 2048 + b.toNat * 16 + c.toNat * 4 :=
    wordOf_toNat _ _ (by rw [fld_eq k 18 (P := 262144) rfl, fld_eq a 11 (P := 2048) rfl, fld_eq b 4 (P := 16) rfl, fld_eq c 2 (P := 4) rfl]; simp only [sum_field, sum_none]; omega) (by omega)
  have h0 : bitsAt 25 7 (wordOf 0x6D [fld k 18, fld a 11, fld b 4, fld c 2]) = BitVec.ofNat 7 0x6D := bitsAt_code (P := 33554432) (Q := 128) rfl rfl (by rw [hw]; omega)
  have h1 : bitsAt 0 2 (wordOf 0x6D [fld k 18, fld a 11, fld b 4, fld c 2]) = BitVec.ofNat 2 0 := bitsAt_code (P := 1) (Q := 4) rfl rfl (by rw [hw]; omega)
  have h2 : bitsAt 22 3 (wordOf 0x6D [fld k 18, fld a 11, fld b 4, fld c 2]) = BitVec.ofNat 3 0 := bitsAt_code (P := 4194304) (Q := 8) rfl rfl (by rw [hw]; omega)
  have h3 : bitsAt 18 4 (wordOf 0x6D [fld k 18, fld a 11, fld b 4, fld c 2]) = k := bitsAt_eq (P := 262144) (Q := 16) rfl rfl (by rw [hw]; omega)
  have h4 : bitsAt 11 7 (wordOf 0x6D [fld k 18, fld a 11, fld b 4, fld c 2]) = a := bitsAt_eq (P := 2048) (Q := 128) rfl rfl (by rw [hw]; omega)
  have h5 : bitsAt 4 7 (wordOf 0x6D [fld k 18, fld a 11, fld b 4, fld c 2]) = b := bitsAt_eq (P := 16) (Q := 128) rfl rfl (by rw [hw]; omega)
  have h6 : bitsAt 2 2 (wordOf 0x6D [fld k 18, fld a 11, fld b 4, fld c 2]) = c := bitsAt_eq (P := 4) (Q := 4) rfl rfl (by rw [hw]; omega)
  refine roundTrip_one rfl h0 (by decide) ((decodeWord_6D h0).trans ?_)
  simp [decodeOp6D, h1, h2, h3, h4, h5, h6]

theorem phase (c : BitVec 2) : Statement (.phase c) := by
  have := field_lt c (P := 4) rfl
  have hw : (wordOf 0x6E [fld c 2]).toNat = 3690987520 + c.toNat * 4 :=
    wordOf_toNat _ _ (by rw [fld_eq c 2 (P := 4) rfl]; simp only [sum_field, sum_none]; omega) (by omega)
  have h0 : bitsAt 25 7 (wordOf 0x6E [fld c 2]) = BitVec.ofNat 7 0x6E := bitsAt_code (P := 33554432) (Q := 128) rfl rfl (by rw [hw]; omega)
  have h1 : bitsAt 0 2 (wordOf 0x6E [fld c 2]) = BitVec.ofNat 2 0 := bitsAt_code (P := 1) (Q := 4) rfl rfl (by rw [hw]; omega)
  have h2 : bitsAt 4 21 (wordOf 0x6E [fld c 2]) = BitVec.ofNat 21 0 := bitsAt_code (P := 16) (Q := 2097152) rfl rfl (by rw [hw]; omega)
  have h3 : bitsAt 2 2 (wordOf 0x6E [fld c 2]) = c := bitsAt_eq (P := 4) (Q := 4) rfl rfl (by rw [hw]; omega)
  refine roundTrip_one rfl h0 (by decide) ((decodeWord_6E h0).trans ?_)
  simp [decodeOp6E, h1, h2, h3]

theorem bar (c : BitVec 1) : Statement (.bar c) := by
  have := field_lt c (P := 2) rfl
  have hw : (wordOf 0x6F [fld c 2]).toNat = 3724541952 + c.toNat * 4 :=
    wordOf_toNat _ _ (by rw [fld_eq c 2 (P := 4) rfl]; simp only [sum_field, sum_none]; omega) (by omega)
  have h0 : bitsAt 25 7 (wordOf 0x6F [fld c 2]) = BitVec.ofNat 7 0x6F := bitsAt_code (P := 33554432) (Q := 128) rfl rfl (by rw [hw]; omega)
  have h1 : bitsAt 0 2 (wordOf 0x6F [fld c 2]) = BitVec.ofNat 2 0 := bitsAt_code (P := 1) (Q := 4) rfl rfl (by rw [hw]; omega)
  have h2 : bitsAt 3 22 (wordOf 0x6F [fld c 2]) = BitVec.ofNat 22 0 := bitsAt_code (P := 8) (Q := 4194304) rfl rfl (by rw [hw]; omega)
  have h3 : bitsAt 2 1 (wordOf 0x6F [fld c 2]) = c := bitsAt_eq (P := 4) (Q := 2) rfl rfl (by rw [hw]; omega)
  refine roundTrip_one rfl h0 (by decide) ((decodeWord_6F h0).trans ?_)
  simp [decodeOp6F, h1, h2, h3]

theorem br (p : BitVec 3) (n : BitVec 1) (m : BitVec 2) (s : BitVec 19) : Statement (.br p n m s) := by
  obtain ⟨h0, h1, h2, h3, h4⟩ := shape15 0x70 p n m s (by decide)
  refine roundTrip_one rfl h0 (by decide) ((decodeWord_70 h0).trans ?_)
  rw [decodeOp70, h1, h2, h3, h4]

theorem brx (a : BitVec 7) (g : BitVec 2) : Statement (.brx a g) := by
  have := field_lt a (P := 128) rfl
  have := field_lt g (P := 4) rfl
  have hw : (wordOf 0x71 [fld a 11, fld g 2]).toNat = 3791650816 + a.toNat * 2048 + g.toNat * 4 :=
    wordOf_toNat _ _ (by rw [fld_eq a 11 (P := 2048) rfl, fld_eq g 2 (P := 4) rfl]; simp only [sum_field, sum_none]; omega) (by omega)
  have h0 : bitsAt 25 7 (wordOf 0x71 [fld a 11, fld g 2]) = BitVec.ofNat 7 0x71 := bitsAt_code (P := 33554432) (Q := 128) rfl rfl (by rw [hw]; omega)
  have h1 : bitsAt 0 2 (wordOf 0x71 [fld a 11, fld g 2]) = BitVec.ofNat 2 0 := bitsAt_code (P := 1) (Q := 4) rfl rfl (by rw [hw]; omega)
  have h2 : bitsAt 4 7 (wordOf 0x71 [fld a 11, fld g 2]) = BitVec.ofNat 7 0 := bitsAt_code (P := 16) (Q := 128) rfl rfl (by rw [hw]; omega)
  have h3 : bitsAt 18 7 (wordOf 0x71 [fld a 11, fld g 2]) = BitVec.ofNat 7 0 := bitsAt_code (P := 262144) (Q := 128) rfl rfl (by rw [hw]; omega)
  have h4 : bitsAt 11 7 (wordOf 0x71 [fld a 11, fld g 2]) = a := bitsAt_eq (P := 2048) (Q := 128) rfl rfl (by rw [hw]; omega)
  have h5 : bitsAt 2 2 (wordOf 0x71 [fld a 11, fld g 2]) = g := bitsAt_eq (P := 4) (Q := 4) rfl rfl (by rw [hw]; omega)
  refine roundTrip_one rfl h0 (by decide) ((decodeWord_71 h0).trans ?_)
  simp [decodeOp71, h1, h2, h3, h4, h5]

theorem call (d : BitVec 7) (i : BitVec 18) : Statement (.call d i) := by
  obtain ⟨h0, h1, h2⟩ := shape5 0x72 d i (by decide)
  refine roundTrip_one rfl h0 (by decide) ((decodeWord_72 h0).trans ?_)
  rw [decodeOp72, h1, h2]

theorem ret (a : BitVec 7) (g : BitVec 2) : Statement (.ret a g) := by
  have := field_lt a (P := 128) rfl
  have := field_lt g (P := 4) rfl
  have hw : (wordOf 0x73 [fld a 11, fld g 2]).toNat = 3858759680 + a.toNat * 2048 + g.toNat * 4 :=
    wordOf_toNat _ _ (by rw [fld_eq a 11 (P := 2048) rfl, fld_eq g 2 (P := 4) rfl]; simp only [sum_field, sum_none]; omega) (by omega)
  have h0 : bitsAt 25 7 (wordOf 0x73 [fld a 11, fld g 2]) = BitVec.ofNat 7 0x73 := bitsAt_code (P := 33554432) (Q := 128) rfl rfl (by rw [hw]; omega)
  have h1 : bitsAt 0 2 (wordOf 0x73 [fld a 11, fld g 2]) = BitVec.ofNat 2 0 := bitsAt_code (P := 1) (Q := 4) rfl rfl (by rw [hw]; omega)
  have h2 : bitsAt 4 7 (wordOf 0x73 [fld a 11, fld g 2]) = BitVec.ofNat 7 0 := bitsAt_code (P := 16) (Q := 128) rfl rfl (by rw [hw]; omega)
  have h3 : bitsAt 18 7 (wordOf 0x73 [fld a 11, fld g 2]) = BitVec.ofNat 7 0 := bitsAt_code (P := 262144) (Q := 128) rfl rfl (by rw [hw]; omega)
  have h4 : bitsAt 11 7 (wordOf 0x73 [fld a 11, fld g 2]) = a := bitsAt_eq (P := 2048) (Q := 128) rfl rfl (by rw [hw]; omega)
  have h5 : bitsAt 2 2 (wordOf 0x73 [fld a 11, fld g 2]) = g := bitsAt_eq (P := 4) (Q := 4) rfl rfl (by rw [hw]; omega)
  refine roundTrip_one rfl h0 (by decide) ((decodeWord_73 h0).trans ?_)
  simp [decodeOp73, h1, h2, h3, h4, h5]

theorem fork (d : BitVec 7) (i : BitVec 18) : Statement (.fork d i) := by
  obtain ⟨h0, h1, h2⟩ := shape5 0x74 d i (by decide)
  refine roundTrip_one rfl h0 (by decide) ((decodeWord_74 h0).trans ?_)
  rw [decodeOp74, h1, h2]

theorem fend (g : BitVec 2) : Statement (.fend g) := by
  have := field_lt g (P := 4) rfl
  have hw : (wordOf 0x75 [fld g 2]).toNat = 3925868544 + g.toNat * 4 :=
    wordOf_toNat _ _ (by rw [fld_eq g 2 (P := 4) rfl]; simp only [sum_field, sum_none]; omega) (by omega)
  have h0 : bitsAt 25 7 (wordOf 0x75 [fld g 2]) = BitVec.ofNat 7 0x75 := bitsAt_code (P := 33554432) (Q := 128) rfl rfl (by rw [hw]; omega)
  have h1 : bitsAt 0 2 (wordOf 0x75 [fld g 2]) = BitVec.ofNat 2 0 := bitsAt_code (P := 1) (Q := 4) rfl rfl (by rw [hw]; omega)
  have h2 : bitsAt 4 21 (wordOf 0x75 [fld g 2]) = BitVec.ofNat 21 0 := bitsAt_code (P := 16) (Q := 2097152) rfl rfl (by rw [hw]; omega)
  have h3 : bitsAt 2 2 (wordOf 0x75 [fld g 2]) = g := bitsAt_eq (P := 4) (Q := 4) rfl rfl (by rw [hw]; omega)
  refine roundTrip_one rfl h0 (by decide) ((decodeWord_75 h0).trans ?_)
  simp [decodeOp75, h1, h2, h3]

theorem join (n : BitVec 8) : Statement (.join n) := by
  have := field_lt n (P := 256) rfl
  have hw : (wordOf 0x76 [fld n 0]).toNat = 3959422976 + n.toNat * 1 :=
    wordOf_toNat _ _ (by rw [fld_eq n 0 (P := 1) rfl]; simp only [sum_field, sum_none]; omega) (by omega)
  have h0 : bitsAt 25 7 (wordOf 0x76 [fld n 0]) = BitVec.ofNat 7 0x76 := bitsAt_code (P := 33554432) (Q := 128) rfl rfl (by rw [hw]; omega)
  have h1 : bitsAt 8 17 (wordOf 0x76 [fld n 0]) = BitVec.ofNat 17 0 := bitsAt_code (P := 256) (Q := 131072) rfl rfl (by rw [hw]; omega)
  have h2 : bitsAt 0 8 (wordOf 0x76 [fld n 0]) = n := bitsAt_eq (P := 1) (Q := 256) rfl rfl (by rw [hw]; omega)
  refine roundTrip_one rfl h0 (by decide) ((decodeWord_76 h0).trans ?_)
  simp [decodeOp76, h1, h2]

theorem waitc (x : BitVec 4) (c : BitVec 4) (s : BitVec 4) (l : BitVec 4) : Statement (.waitc x c s l) := by
  have := field_lt x (P := 16) rfl
  have := field_lt c (P := 16) rfl
  have := field_lt s (P := 16) rfl
  have := field_lt l (P := 16) rfl
  have hw : (wordOf 0x77 [fld x 12, fld c 8, fld s 4, fld l 0]).toNat = 3992977408 + x.toNat * 4096 + c.toNat * 256 + s.toNat * 16 + l.toNat * 1 :=
    wordOf_toNat _ _ (by rw [fld_eq x 12 (P := 4096) rfl, fld_eq c 8 (P := 256) rfl, fld_eq s 4 (P := 16) rfl, fld_eq l 0 (P := 1) rfl]; simp only [sum_field, sum_none]; omega) (by omega)
  have h0 : bitsAt 25 7 (wordOf 0x77 [fld x 12, fld c 8, fld s 4, fld l 0]) = BitVec.ofNat 7 0x77 := bitsAt_code (P := 33554432) (Q := 128) rfl rfl (by rw [hw]; omega)
  have h1 : bitsAt 16 9 (wordOf 0x77 [fld x 12, fld c 8, fld s 4, fld l 0]) = BitVec.ofNat 9 0 := bitsAt_code (P := 65536) (Q := 512) rfl rfl (by rw [hw]; omega)
  have h2 : bitsAt 12 4 (wordOf 0x77 [fld x 12, fld c 8, fld s 4, fld l 0]) = x := bitsAt_eq (P := 4096) (Q := 16) rfl rfl (by rw [hw]; omega)
  have h3 : bitsAt 8 4 (wordOf 0x77 [fld x 12, fld c 8, fld s 4, fld l 0]) = c := bitsAt_eq (P := 256) (Q := 16) rfl rfl (by rw [hw]; omega)
  have h4 : bitsAt 4 4 (wordOf 0x77 [fld x 12, fld c 8, fld s 4, fld l 0]) = s := bitsAt_eq (P := 16) (Q := 16) rfl rfl (by rw [hw]; omega)
  have h5 : bitsAt 0 4 (wordOf 0x77 [fld x 12, fld c 8, fld s 4, fld l 0]) = l := bitsAt_eq (P := 1) (Q := 16) rfl rfl (by rw [hw]; omega)
  refine roundTrip_one rfl h0 (by decide) ((decodeWord_77 h0).trans ?_)
  simp [decodeOp77, h1, h2, h3, h4, h5]

theorem sadd (d : BitVec 7) (a : BitVec 7) (b : BitVec 7) : Statement (.sadd d a b) := by
  have := field_lt d (P := 128) rfl
  have := field_lt a (P := 128) rfl
  have := field_lt b (P := 128) rfl
  have hw : (wordOf 0x78 [fld d 18, fld a 11, fld b 4]).toNat = 4026531840 + d.toNat * 262144 + a.toNat * 2048 + b.toNat * 16 :=
    wordOf_toNat _ _ (by rw [fld_eq d 18 (P := 262144) rfl, fld_eq a 11 (P := 2048) rfl, fld_eq b 4 (P := 16) rfl]; simp only [sum_field, sum_none]; omega) (by omega)
  have h0 : bitsAt 25 7 (wordOf 0x78 [fld d 18, fld a 11, fld b 4]) = BitVec.ofNat 7 0x78 := bitsAt_code (P := 33554432) (Q := 128) rfl rfl (by rw [hw]; omega)
  have h1 : bitsAt 0 4 (wordOf 0x78 [fld d 18, fld a 11, fld b 4]) = BitVec.ofNat 4 0 := bitsAt_code (P := 1) (Q := 16) rfl rfl (by rw [hw]; omega)
  have h2 : bitsAt 18 7 (wordOf 0x78 [fld d 18, fld a 11, fld b 4]) = d := bitsAt_eq (P := 262144) (Q := 128) rfl rfl (by rw [hw]; omega)
  have h3 : bitsAt 11 7 (wordOf 0x78 [fld d 18, fld a 11, fld b 4]) = a := bitsAt_eq (P := 2048) (Q := 128) rfl rfl (by rw [hw]; omega)
  have h4 : bitsAt 4 7 (wordOf 0x78 [fld d 18, fld a 11, fld b 4]) = b := bitsAt_eq (P := 16) (Q := 128) rfl rfl (by rw [hw]; omega)
  refine roundTrip_one rfl h0 (by decide) ((decodeWord_78 h0).trans ?_)
  simp [decodeOp78, h1, h2, h3, h4]

theorem ssub (d : BitVec 7) (a : BitVec 7) (b : BitVec 7) : Statement (.ssub d a b) := by
  obtain ⟨h0, h1, h2, h3, h4⟩ := shape16 0x78 d a b 1 (by decide) (by decide)
  refine roundTrip_one rfl h0 (by decide) ((decodeWord_78 h0).trans ?_)
  simp [decodeOp78, h1, h2, h3, h4]

theorem smul (d : BitVec 7) (a : BitVec 7) (b : BitVec 7) : Statement (.smul d a b) := by
  obtain ⟨h0, h1, h2, h3, h4⟩ := shape16 0x78 d a b 2 (by decide) (by decide)
  refine roundTrip_one rfl h0 (by decide) ((decodeWord_78 h0).trans ?_)
  simp [decodeOp78, h1, h2, h3, h4]

theorem smulh (d : BitVec 7) (a : BitVec 7) (b : BitVec 7) : Statement (.smulh d a b) := by
  obtain ⟨h0, h1, h2, h3, h4⟩ := shape16 0x78 d a b 3 (by decide) (by decide)
  refine roundTrip_one rfl h0 (by decide) ((decodeWord_78 h0).trans ?_)
  simp [decodeOp78, h1, h2, h3, h4]

theorem sand (d : BitVec 7) (a : BitVec 7) (b : BitVec 7) : Statement (.sand d a b) := by
  obtain ⟨h0, h1, h2, h3, h4⟩ := shape16 0x78 d a b 4 (by decide) (by decide)
  refine roundTrip_one rfl h0 (by decide) ((decodeWord_78 h0).trans ?_)
  simp [decodeOp78, h1, h2, h3, h4]

theorem sor (d : BitVec 7) (a : BitVec 7) (b : BitVec 7) : Statement (.sor d a b) := by
  obtain ⟨h0, h1, h2, h3, h4⟩ := shape16 0x78 d a b 5 (by decide) (by decide)
  refine roundTrip_one rfl h0 (by decide) ((decodeWord_78 h0).trans ?_)
  simp [decodeOp78, h1, h2, h3, h4]

theorem sxor (d : BitVec 7) (a : BitVec 7) (b : BitVec 7) : Statement (.sxor d a b) := by
  obtain ⟨h0, h1, h2, h3, h4⟩ := shape16 0x78 d a b 6 (by decide) (by decide)
  refine roundTrip_one rfl h0 (by decide) ((decodeWord_78 h0).trans ?_)
  simp [decodeOp78, h1, h2, h3, h4]

theorem sshl (d : BitVec 7) (a : BitVec 7) (b : BitVec 7) : Statement (.sshl d a b) := by
  obtain ⟨h0, h1, h2, h3, h4⟩ := shape16 0x78 d a b 7 (by decide) (by decide)
  refine roundTrip_one rfl h0 (by decide) ((decodeWord_78 h0).trans ?_)
  simp [decodeOp78, h1, h2, h3, h4]

theorem sshr (d : BitVec 7) (a : BitVec 7) (b : BitVec 7) : Statement (.sshr d a b) := by
  obtain ⟨h0, h1, h2, h3, h4⟩ := shape16 0x78 d a b 8 (by decide) (by decide)
  refine roundTrip_one rfl h0 (by decide) ((decodeWord_78 h0).trans ?_)
  simp [decodeOp78, h1, h2, h3, h4]

theorem ssar (d : BitVec 7) (a : BitVec 7) (b : BitVec 7) : Statement (.ssar d a b) := by
  obtain ⟨h0, h1, h2, h3, h4⟩ := shape16 0x78 d a b 9 (by decide) (by decide)
  refine roundTrip_one rfl h0 (by decide) ((decodeWord_78 h0).trans ?_)
  simp [decodeOp78, h1, h2, h3, h4]

theorem smin (d : BitVec 7) (a : BitVec 7) (b : BitVec 7) : Statement (.smin d a b) := by
  obtain ⟨h0, h1, h2, h3, h4⟩ := shape16 0x78 d a b 10 (by decide) (by decide)
  refine roundTrip_one rfl h0 (by decide) ((decodeWord_78 h0).trans ?_)
  simp [decodeOp78, h1, h2, h3, h4]

theorem smax (d : BitVec 7) (a : BitVec 7) (b : BitVec 7) : Statement (.smax d a b) := by
  obtain ⟨h0, h1, h2, h3, h4⟩ := shape16 0x78 d a b 11 (by decide) (by decide)
  refine roundTrip_one rfl h0 (by decide) ((decodeWord_78 h0).trans ?_)
  simp [decodeOp78, h1, h2, h3, h4]

theorem sumin (d : BitVec 7) (a : BitVec 7) (b : BitVec 7) : Statement (.sumin d a b) := by
  obtain ⟨h0, h1, h2, h3, h4⟩ := shape16 0x78 d a b 12 (by decide) (by decide)
  refine roundTrip_one rfl h0 (by decide) ((decodeWord_78 h0).trans ?_)
  simp [decodeOp78, h1, h2, h3, h4]

theorem sumax (d : BitVec 7) (a : BitVec 7) (b : BitVec 7) : Statement (.sumax d a b) := by
  obtain ⟨h0, h1, h2, h3, h4⟩ := shape16 0x78 d a b 13 (by decide) (by decide)
  refine roundTrip_one rfl h0 (by decide) ((decodeWord_78 h0).trans ?_)
  simp [decodeOp78, h1, h2, h3, h4]

theorem smov (d : BitVec 7) (a : BitVec 7) : Statement (.smov d a) := by
  obtain ⟨h0, h1, h2, h3, h4⟩ := shape17 0x78 d a 14 (by decide) (by decide)
  refine roundTrip_one rfl h0 (by decide) ((decodeWord_78 h0).trans ?_)
  simp [decodeOp78, h1, h2, h3, h4]

theorem sslt (d : BitVec 7) (a : BitVec 7) (b : BitVec 7) : Statement (.sslt d a b) := by
  have := field_lt d (P := 128) rfl
  have := field_lt a (P := 128) rfl
  have := field_lt b (P := 128) rfl
  have hw : (wordOf 0x78 [fld d 18, fld a 11, fld b 4, lit 15 0]).toNat = 4026531855 + d.toNat * 262144 + a.toNat * 2048 + b.toNat * 16 :=
    wordOf_toNat _ _ (by rw [fld_eq d 18 (P := 262144) rfl, fld_eq a 11 (P := 2048) rfl, fld_eq b 4 (P := 16) rfl]; simp only [lit, sum_field, sum_none]; omega) (by omega)
  have h0 : bitsAt 25 7 (wordOf 0x78 [fld d 18, fld a 11, fld b 4, lit 15 0]) = BitVec.ofNat 7 0x78 := bitsAt_code (P := 33554432) (Q := 128) rfl rfl (by rw [hw]; omega)
  have h1 : bitsAt 0 4 (wordOf 0x78 [fld d 18, fld a 11, fld b 4, lit 15 0]) = BitVec.ofNat 4 15 := bitsAt_code (P := 1) (Q := 16) rfl rfl (by rw [hw]; omega)
  have h2 : bitsAt 0 11 (wordOf 0x78 [fld d 18, fld a 11, fld b 4, lit 15 0]) ≠ BitVec.ofNat 11 14 := bitsAt_ne (P := 1) (Q := 2048) rfl rfl (by rw [hw]; omega)
  have h3 : bitsAt 18 7 (wordOf 0x78 [fld d 18, fld a 11, fld b 4, lit 15 0]) = d := bitsAt_eq (P := 262144) (Q := 128) rfl rfl (by rw [hw]; omega)
  have h4 : bitsAt 11 7 (wordOf 0x78 [fld d 18, fld a 11, fld b 4, lit 15 0]) = a := bitsAt_eq (P := 2048) (Q := 128) rfl rfl (by rw [hw]; omega)
  have h5 : bitsAt 4 7 (wordOf 0x78 [fld d 18, fld a 11, fld b 4, lit 15 0]) = b := bitsAt_eq (P := 16) (Q := 128) rfl rfl (by rw [hw]; omega)
  refine roundTrip_one rfl h0 (by decide) ((decodeWord_78 h0).trans ?_)
  simp [decodeOp78, h1, h2, h3, h4, h5]

theorem sfadd (d : BitVec 7) (a : BitVec 7) (b : BitVec 7) : Statement (.sfadd d a b) := by
  have := field_lt d (P := 128) rfl
  have := field_lt a (P := 128) rfl
  have := field_lt b (P := 128) rfl
  have hw : (wordOf 0x79 [fld d 18, fld a 11, fld b 4]).toNat = 4060086272 + d.toNat * 262144 + a.toNat * 2048 + b.toNat * 16 :=
    wordOf_toNat _ _ (by rw [fld_eq d 18 (P := 262144) rfl, fld_eq a 11 (P := 2048) rfl, fld_eq b 4 (P := 16) rfl]; simp only [sum_field, sum_none]; omega) (by omega)
  have h0 : bitsAt 25 7 (wordOf 0x79 [fld d 18, fld a 11, fld b 4]) = BitVec.ofNat 7 0x79 := bitsAt_code (P := 33554432) (Q := 128) rfl rfl (by rw [hw]; omega)
  have h1 : bitsAt 0 4 (wordOf 0x79 [fld d 18, fld a 11, fld b 4]) = BitVec.ofNat 4 0 := bitsAt_code (P := 1) (Q := 16) rfl rfl (by rw [hw]; omega)
  have h2 : bitsAt 18 7 (wordOf 0x79 [fld d 18, fld a 11, fld b 4]) = d := bitsAt_eq (P := 262144) (Q := 128) rfl rfl (by rw [hw]; omega)
  have h3 : bitsAt 11 7 (wordOf 0x79 [fld d 18, fld a 11, fld b 4]) = a := bitsAt_eq (P := 2048) (Q := 128) rfl rfl (by rw [hw]; omega)
  have h4 : bitsAt 4 7 (wordOf 0x79 [fld d 18, fld a 11, fld b 4]) = b := bitsAt_eq (P := 16) (Q := 128) rfl rfl (by rw [hw]; omega)
  refine roundTrip_one rfl h0 (by decide) ((decodeWord_79 h0).trans ?_)
  simp [decodeOp79, h1, h2, h3, h4]

theorem sfsub (d : BitVec 7) (a : BitVec 7) (b : BitVec 7) : Statement (.sfsub d a b) := by
  obtain ⟨h0, h1, h2, h3, h4⟩ := shape16 0x79 d a b 1 (by decide) (by decide)
  refine roundTrip_one rfl h0 (by decide) ((decodeWord_79 h0).trans ?_)
  simp [decodeOp79, h1, h2, h3, h4]

theorem sfmul (d : BitVec 7) (a : BitVec 7) (b : BitVec 7) : Statement (.sfmul d a b) := by
  obtain ⟨h0, h1, h2, h3, h4⟩ := shape16 0x79 d a b 2 (by decide) (by decide)
  refine roundTrip_one rfl h0 (by decide) ((decodeWord_79 h0).trans ?_)
  simp [decodeOp79, h1, h2, h3, h4]

theorem sffma (d : BitVec 7) (a : BitVec 7) (b : BitVec 7) : Statement (.sffma d a b) := by
  obtain ⟨h0, h1, h2, h3, h4⟩ := shape16 0x79 d a b 3 (by decide) (by decide)
  refine roundTrip_one rfl h0 (by decide) ((decodeWord_79 h0).trans ?_)
  simp [decodeOp79, h1, h2, h3, h4]

theorem sfmin (d : BitVec 7) (a : BitVec 7) (b : BitVec 7) : Statement (.sfmin d a b) := by
  obtain ⟨h0, h1, h2, h3, h4⟩ := shape16 0x79 d a b 4 (by decide) (by decide)
  refine roundTrip_one rfl h0 (by decide) ((decodeWord_79 h0).trans ?_)
  simp [decodeOp79, h1, h2, h3, h4]

theorem sfmax (d : BitVec 7) (a : BitVec 7) (b : BitVec 7) : Statement (.sfmax d a b) := by
  obtain ⟨h0, h1, h2, h3, h4⟩ := shape16 0x79 d a b 5 (by decide) (by decide)
  refine roundTrip_one rfl h0 (by decide) ((decodeWord_79 h0).trans ?_)
  simp [decodeOp79, h1, h2, h3, h4]

theorem sfrcp (d : BitVec 7) (a : BitVec 7) : Statement (.sfrcp d a) := by
  obtain ⟨h0, h1, h2, h3, h4⟩ := shape17 0x79 d a 6 (by decide) (by decide)
  refine roundTrip_one rfl h0 (by decide) ((decodeWord_79 h0).trans ?_)
  simp [decodeOp79, h1, h2, h3, h4]

theorem sfrsq (d : BitVec 7) (a : BitVec 7) : Statement (.sfrsq d a) := by
  obtain ⟨h0, h1, h2, h3, h4⟩ := shape17 0x79 d a 7 (by decide) (by decide)
  refine roundTrip_one rfl h0 (by decide) ((decodeWord_79 h0).trans ?_)
  simp [decodeOp79, h1, h2, h3, h4]

theorem sfsqrt (d : BitVec 7) (a : BitVec 7) : Statement (.sfsqrt d a) := by
  obtain ⟨h0, h1, h2, h3, h4⟩ := shape17 0x79 d a 8 (by decide) (by decide)
  refine roundTrip_one rfl h0 (by decide) ((decodeWord_79 h0).trans ?_)
  simp [decodeOp79, h1, h2, h3, h4]

theorem scvtfi (d : BitVec 7) (a : BitVec 7) : Statement (.scvtfi d a) := by
  obtain ⟨h0, h1, h2, h3, h4⟩ := shape17 0x79 d a 9 (by decide) (by decide)
  refine roundTrip_one rfl h0 (by decide) ((decodeWord_79 h0).trans ?_)
  simp [decodeOp79, h1, h2, h3, h4]

theorem scvtif (d : BitVec 7) (a : BitVec 7) : Statement (.scvtif d a) := by
  obtain ⟨h0, h1, h2, h3, h4⟩ := shape17 0x79 d a 10 (by decide) (by decide)
  refine roundTrip_one rfl h0 (by decide) ((decodeWord_79 h0).trans ?_)
  simp [decodeOp79, h1, h2, h3, h4]

theorem sfcmplt (d : BitVec 7) (a : BitVec 7) (b : BitVec 7) : Statement (.sfcmplt d a b) := by
  have := field_lt d (P := 128) rfl
  have := field_lt a (P := 128) rfl
  have := field_lt b (P := 128) rfl
  have hw : (wordOf 0x79 [fld d 18, fld a 11, fld b 4, lit 11 0]).toNat = 4060086283 + d.toNat * 262144 + a.toNat * 2048 + b.toNat * 16 :=
    wordOf_toNat _ _ (by rw [fld_eq d 18 (P := 262144) rfl, fld_eq a 11 (P := 2048) rfl, fld_eq b 4 (P := 16) rfl]; simp only [lit, sum_field, sum_none]; omega) (by omega)
  have h0 : bitsAt 25 7 (wordOf 0x79 [fld d 18, fld a 11, fld b 4, lit 11 0]) = BitVec.ofNat 7 0x79 := bitsAt_code (P := 33554432) (Q := 128) rfl rfl (by rw [hw]; omega)
  have h1 : bitsAt 0 4 (wordOf 0x79 [fld d 18, fld a 11, fld b 4, lit 11 0]) = BitVec.ofNat 4 11 := bitsAt_code (P := 1) (Q := 16) rfl rfl (by rw [hw]; omega)
  have h2 : bitsAt 0 11 (wordOf 0x79 [fld d 18, fld a 11, fld b 4, lit 11 0]) ≠ BitVec.ofNat 11 6 := bitsAt_ne (P := 1) (Q := 2048) rfl rfl (by rw [hw]; omega)
  have h3 : bitsAt 0 11 (wordOf 0x79 [fld d 18, fld a 11, fld b 4, lit 11 0]) ≠ BitVec.ofNat 11 7 := bitsAt_ne (P := 1) (Q := 2048) rfl rfl (by rw [hw]; omega)
  have h4 : bitsAt 0 11 (wordOf 0x79 [fld d 18, fld a 11, fld b 4, lit 11 0]) ≠ BitVec.ofNat 11 8 := bitsAt_ne (P := 1) (Q := 2048) rfl rfl (by rw [hw]; omega)
  have h5 : bitsAt 0 11 (wordOf 0x79 [fld d 18, fld a 11, fld b 4, lit 11 0]) ≠ BitVec.ofNat 11 9 := bitsAt_ne (P := 1) (Q := 2048) rfl rfl (by rw [hw]; omega)
  have h6 : bitsAt 0 11 (wordOf 0x79 [fld d 18, fld a 11, fld b 4, lit 11 0]) ≠ BitVec.ofNat 11 10 := bitsAt_ne (P := 1) (Q := 2048) rfl rfl (by rw [hw]; omega)
  have h7 : bitsAt 18 7 (wordOf 0x79 [fld d 18, fld a 11, fld b 4, lit 11 0]) = d := bitsAt_eq (P := 262144) (Q := 128) rfl rfl (by rw [hw]; omega)
  have h8 : bitsAt 11 7 (wordOf 0x79 [fld d 18, fld a 11, fld b 4, lit 11 0]) = a := bitsAt_eq (P := 2048) (Q := 128) rfl rfl (by rw [hw]; omega)
  have h9 : bitsAt 4 7 (wordOf 0x79 [fld d 18, fld a 11, fld b 4, lit 11 0]) = b := bitsAt_eq (P := 16) (Q := 128) rfl rfl (by rw [hw]; omega)
  refine roundTrip_one rfl h0 (by decide) ((decodeWord_79 h0).trans ?_)
  simp [decodeOp79, h1, h2, h3, h4, h5, h6, h7, h8, h9]

theorem saddi (d : BitVec 7) (a : BitVec 7) (i : BitVec 11) : Statement (.saddi d a i) := by
  obtain ⟨h0, h1, h2, h3⟩ := shape6 0x7A d a i (by decide)
  refine roundTrip_one rfl h0 (by decide) ((decodeWord_7A h0).trans ?_)
  rw [decodeOp7A, h1, h2, h3]

theorem vmovi (d : BitVec 7) (i : BitVec 18) : Statement (.vmovi d i) := by
  obtain ⟨h0, h1, h2⟩ := shape5 0x7B d i (by decide)
  refine roundTrip_one rfl h0 (by decide) ((decodeWord_7B h0).trans ?_)
  rw [decodeOp7B, h1, h2]

theorem imx (v : BitVec 25) (next : Word) : Statement (.imx v next) := roundTrip_imx v next

theorem cplin (d : BitVec 7) (a : BitVec 7) (q : BitVec 4) : Statement (.cplin d a q) := by
  have := field_lt d (P := 128) rfl
  have := field_lt a (P := 128) rfl
  have := field_lt q (P := 16) rfl
  have hw : (wordOf 0x7C [fld d 18, fld a 11, fld q 0]).toNat = 4160749568 + d.toNat * 262144 + a.toNat * 2048 + q.toNat * 1 :=
    wordOf_toNat _ _ (by rw [fld_eq d 18 (P := 262144) rfl, fld_eq a 11 (P := 2048) rfl, fld_eq q 0 (P := 1) rfl]; simp only [sum_field, sum_none]; omega) (by omega)
  have h0 : bitsAt 25 7 (wordOf 0x7C [fld d 18, fld a 11, fld q 0]) = BitVec.ofNat 7 0x7C := bitsAt_code (P := 33554432) (Q := 128) rfl rfl (by rw [hw]; omega)
  have h1 : bitsAt 4 7 (wordOf 0x7C [fld d 18, fld a 11, fld q 0]) = BitVec.ofNat 7 0 := bitsAt_code (P := 16) (Q := 128) rfl rfl (by rw [hw]; omega)
  have h2 : bitsAt 18 7 (wordOf 0x7C [fld d 18, fld a 11, fld q 0]) = d := bitsAt_eq (P := 262144) (Q := 128) rfl rfl (by rw [hw]; omega)
  have h3 : bitsAt 11 7 (wordOf 0x7C [fld d 18, fld a 11, fld q 0]) = a := bitsAt_eq (P := 2048) (Q := 128) rfl rfl (by rw [hw]; omega)
  have h4 : bitsAt 0 4 (wordOf 0x7C [fld d 18, fld a 11, fld q 0]) = q := bitsAt_eq (P := 1) (Q := 16) rfl rfl (by rw [hw]; omega)
  refine roundTrip_one rfl h0 (by decide) ((decodeWord_7C h0).trans ?_)
  simp [decodeOp7C, h1, h2, h3, h4]

theorem cp2d (d : BitVec 7) (a : BitVec 7) (q : BitVec 4) : Statement (.cp2d d a q) := by
  obtain ⟨h0, h1, h2, h3, h4⟩ := shape18 0x7C d a q 1 (by decide) (by decide)
  refine roundTrip_one rfl h0 (by decide) ((decodeWord_7C h0).trans ?_)
  simp [decodeOp7C, h1, h2, h3, h4]

theorem cpgath (d : BitVec 7) (a : BitVec 7) (q : BitVec 4) : Statement (.cpgath d a q) := by
  obtain ⟨h0, h1, h2, h3, h4⟩ := shape18 0x7C d a q 2 (by decide) (by decide)
  refine roundTrip_one rfl h0 (by decide) ((decodeWord_7C h0).trans ?_)
  simp [decodeOp7C, h1, h2, h3, h4]

theorem cpscat (d : BitVec 7) (a : BitVec 7) (q : BitVec 4) : Statement (.cpscat d a q) := by
  obtain ⟨h0, h1, h2, h3, h4⟩ := shape18 0x7C d a q 3 (by decide) (by decide)
  refine roundTrip_one rfl h0 (by decide) ((decodeWord_7C h0).trans ?_)
  simp [decodeOp7C, h1, h2, h3, h4]

theorem cpexp (d : BitVec 7) (a : BitVec 7) (q : BitVec 4) : Statement (.cpexp d a q) := by
  obtain ⟨h0, h1, h2, h3, h4⟩ := shape18 0x7C d a q 4 (by decide) (by decide)
  refine roundTrip_one rfl h0 (by decide) ((decodeWord_7C h0).trans ?_)
  simp [decodeOp7C, h1, h2, h3, h4]

theorem cpcmp (d : BitVec 7) (a : BitVec 7) (q : BitVec 4) : Statement (.cpcmp d a q) := by
  obtain ⟨h0, h1, h2, h3, h4⟩ := shape18 0x7C d a q 5 (by decide) (by decide)
  refine roundTrip_one rfl h0 (by decide) ((decodeWord_7C h0).trans ?_)
  simp [decodeOp7C, h1, h2, h3, h4]

theorem rcarm (d : BitVec 7) (a : BitVec 7) (q : BitVec 4) : Statement (.rcarm d a q) := by
  obtain ⟨h0, h1, h2, h3, h4⟩ := shape18 0x7C d a q 6 (by decide) (by decide)
  refine roundTrip_one rfl h0 (by decide) ((decodeWord_7C h0).trans ?_)
  simp [decodeOp7C, h1, h2, h3, h4]

theorem rcwait (d : BitVec 7) (a : BitVec 7) (q : BitVec 4) : Statement (.rcwait d a q) := by
  obtain ⟨h0, h1, h2, h3, h4⟩ := shape18 0x7C d a q 7 (by decide) (by decide)
  refine roundTrip_one rfl h0 (by decide) ((decodeWord_7C h0).trans ?_)
  simp [decodeOp7C, h1, h2, h3, h4]

theorem gtopk (d : BitVec 7) (a : BitVec 7) (q : BitVec 4) : Statement (.gtopk d a q) := by
  obtain ⟨h0, h1, h2, h3, h4⟩ := shape18 0x7C d a q 8 (by decide) (by decide)
  refine roundTrip_one rfl h0 (by decide) ((decodeWord_7C h0).trans ?_)
  simp [decodeOp7C, h1, h2, h3, h4]

theorem gbuck (d : BitVec 7) (a : BitVec 7) (q : BitVec 4) : Statement (.gbuck d a q) := by
  obtain ⟨h0, h1, h2, h3, h4⟩ := shape18 0x7C d a q 9 (by decide) (by decide)
  refine roundTrip_one rfl h0 (by decide) ((decodeWord_7C h0).trans ?_)
  simp [decodeOp7C, h1, h2, h3, h4]

theorem gmerge (d : BitVec 7) (a : BitVec 7) (q : BitVec 4) : Statement (.gmerge d a q) := by
  obtain ⟨h0, h1, h2, h3, h4⟩ := shape18 0x7C d a q 10 (by decide) (by decide)
  refine roundTrip_one rfl h0 (by decide) ((decodeWord_7C h0).trans ?_)
  simp [decodeOp7C, h1, h2, h3, h4]

theorem ghist (d : BitVec 7) (a : BitVec 7) (q : BitVec 4) : Statement (.ghist d a q) := by
  obtain ⟨h0, h1, h2, h3, h4⟩ := shape18 0x7C d a q 11 (by decide) (by decide)
  refine roundTrip_one rfl h0 (by decide) ((decodeWord_7C h0).trans ?_)
  simp [decodeOp7C, h1, h2, h3, h4]

theorem gscan (d : BitVec 7) (a : BitVec 7) (q : BitVec 4) : Statement (.gscan d a q) := by
  obtain ⟨h0, h1, h2, h3, h4⟩ := shape18 0x7C d a q 12 (by decide) (by decide)
  refine roundTrip_one rfl h0 (by decide) ((decodeWord_7C h0).trans ?_)
  simp [decodeOp7C, h1, h2, h3, h4]

theorem gperm (d : BitVec 7) (a : BitVec 7) (q : BitVec 4) : Statement (.gperm d a q) := by
  obtain ⟨h0, h1, h2, h3, h4⟩ := shape18 0x7C d a q 13 (by decide) (by decide)
  refine roundTrip_one rfl h0 (by decide) ((decodeWord_7C h0).trans ?_)
  simp [decodeOp7C, h1, h2, h3, h4]

theorem cxfork (d : BitVec 7) (a : BitVec 7) (q : BitVec 4) : Statement (.cxfork d a q) := by
  obtain ⟨h0, h1, h2, h3, h4⟩ := shape18 0x7C d a q 14 (by decide) (by decide)
  refine roundTrip_one rfl h0 (by decide) ((decodeWord_7C h0).trans ?_)
  simp [decodeOp7C, h1, h2, h3, h4]

theorem cxrdv (d : BitVec 7) (a : BitVec 7) (q : BitVec 4) : Statement (.cxrdv d a q) := by
  obtain ⟨h0, h1, h2, h3, h4⟩ := shape18 0x7C d a q 15 (by decide) (by decide)
  refine roundTrip_one rfl h0 (by decide) ((decodeWord_7C h0).trans ?_)
  simp [decodeOp7C, h1, h2, h3, h4]

theorem cxbond (d : BitVec 7) (a : BitVec 7) (q : BitVec 4) : Statement (.cxbond d a q) := by
  obtain ⟨h0, h1, h2, h3, h4⟩ := shape18 0x7C d a q 16 (by decide) (by decide)
  refine roundTrip_one rfl h0 (by decide) ((decodeWord_7C h0).trans ?_)
  simp [decodeOp7C, h1, h2, h3, h4]

theorem cxdense (d : BitVec 7) (a : BitVec 7) (q : BitVec 4) : Statement (.cxdense d a q) := by
  obtain ⟨h0, h1, h2, h3, h4⟩ := shape18 0x7C d a q 17 (by decide) (by decide)
  refine roundTrip_one rfl h0 (by decide) ((decodeWord_7C h0).trans ?_)
  simp [decodeOp7C, h1, h2, h3, h4]

theorem qfence (d : BitVec 7) (a : BitVec 7) (q : BitVec 4) : Statement (.qfence d a q) := by
  obtain ⟨h0, h1, h2, h3, h4⟩ := shape18 0x7C d a q 18 (by decide) (by decide)
  refine roundTrip_one rfl h0 (by decide) ((decodeWord_7C h0).trans ?_)
  simp [decodeOp7C, h1, h2, h3, h4]

theorem qstat (d : BitVec 7) (a : BitVec 7) (q : BitVec 4) : Statement (.qstat d a q) := by
  obtain ⟨h0, h1, h2, h3, h4⟩ := shape18 0x7C d a q 19 (by decide) (by decide)
  refine roundTrip_one rfl h0 (by decide) ((decodeWord_7C h0).trans ?_)
  simp [decodeOp7C, h1, h2, h3, h4]

theorem genray (d : BitVec 7) (a : BitVec 7) (g : BitVec 2) : Statement (.genray d a g) := by
  have := field_lt d (P := 128) rfl
  have := field_lt a (P := 128) rfl
  have := field_lt g (P := 4) rfl
  have hw : (wordOf 0x7D [fld d 18, fld a 11, fld g 0]).toNat = 4194304000 + d.toNat * 262144 + a.toNat * 2048 + g.toNat * 1 :=
    wordOf_toNat _ _ (by rw [fld_eq d 18 (P := 262144) rfl, fld_eq a 11 (P := 2048) rfl, fld_eq g 0 (P := 1) rfl]; simp only [sum_field, sum_none]; omega) (by omega)
  have h0 : bitsAt 25 7 (wordOf 0x7D [fld d 18, fld a 11, fld g 0]) = BitVec.ofNat 7 0x7D := bitsAt_code (P := 33554432) (Q := 128) rfl rfl (by rw [hw]; omega)
  have h1 : bitsAt 2 9 (wordOf 0x7D [fld d 18, fld a 11, fld g 0]) = BitVec.ofNat 9 0 := bitsAt_code (P := 4) (Q := 512) rfl rfl (by rw [hw]; omega)
  have h2 : bitsAt 18 7 (wordOf 0x7D [fld d 18, fld a 11, fld g 0]) = d := bitsAt_eq (P := 262144) (Q := 128) rfl rfl (by rw [hw]; omega)
  have h3 : bitsAt 11 7 (wordOf 0x7D [fld d 18, fld a 11, fld g 0]) = a := bitsAt_eq (P := 2048) (Q := 128) rfl rfl (by rw [hw]; omega)
  have h4 : bitsAt 0 2 (wordOf 0x7D [fld d 18, fld a 11, fld g 0]) = g := bitsAt_eq (P := 1) (Q := 4) rfl rfl (by rw [hw]; omega)
  refine roundTrip_one rfl h0 (by decide) ((decodeWord_7D h0).trans ?_)
  simp [decodeOp7D, h1, h2, h3, h4]

theorem trace (g : BitVec 2) : Statement (.trace g) := by
  obtain ⟨h0, h1, h2, h3⟩ := shape19 0x7D g 4 (by decide) (by decide)
  refine roundTrip_one rfl h0 (by decide) ((decodeWord_7D h0).trans ?_)
  simp [decodeOp7D, h1, h2, h3]

theorem accept (g : BitVec 2) : Statement (.accept g) := by
  obtain ⟨h0, h1, h2, h3⟩ := shape19 0x7D g 8 (by decide) (by decide)
  refine roundTrip_one rfl h0 (by decide) ((decodeWord_7D h0).trans ?_)
  simp [decodeOp7D, h1, h2, h3]

theorem ignore (g : BitVec 2) : Statement (.ignore g) := by
  obtain ⟨h0, h1, h2, h3⟩ := shape19 0x7D g 12 (by decide) (by decide)
  refine roundTrip_one rfl h0 (by decide) ((decodeWord_7D h0).trans ?_)
  simp [decodeOp7D, h1, h2, h3]

theorem termray (g : BitVec 2) : Statement (.termray g) := by
  obtain ⟨h0, h1, h2, h3⟩ := shape19 0x7D g 16 (by decide) (by decide)
  refine roundTrip_one rfl h0 (by decide) ((decodeWord_7D h0).trans ?_)
  simp [decodeOp7D, h1, h2, h3]

theorem spawn (d : BitVec 7) (a : BitVec 7) (g : BitVec 2) : Statement (.spawn d a g) := by
  have := field_lt d (P := 128) rfl
  have := field_lt a (P := 128) rfl
  have := field_lt g (P := 4) rfl
  have hw : (wordOf 0x7D [fld d 18, fld a 11, lit 20 2, fld g 0]).toNat = 4194304080 + d.toNat * 262144 + a.toNat * 2048 + g.toNat * 1 :=
    wordOf_toNat _ _ (by rw [fld_eq d 18 (P := 262144) rfl, fld_eq a 11 (P := 2048) rfl, fld_eq g 0 (P := 1) rfl]; simp only [lit, sum_field, sum_none]; omega) (by omega)
  have h0 : bitsAt 25 7 (wordOf 0x7D [fld d 18, fld a 11, lit 20 2, fld g 0]) = BitVec.ofNat 7 0x7D := bitsAt_code (P := 33554432) (Q := 128) rfl rfl (by rw [hw]; omega)
  have h1 : bitsAt 2 9 (wordOf 0x7D [fld d 18, fld a 11, lit 20 2, fld g 0]) = BitVec.ofNat 9 20 := bitsAt_code (P := 4) (Q := 512) rfl rfl (by rw [hw]; omega)
  have h2 : bitsAt 2 23 (wordOf 0x7D [fld d 18, fld a 11, lit 20 2, fld g 0]) ≠ BitVec.ofNat 23 4 := bitsAt_ne (P := 4) (Q := 8388608) rfl rfl (by rw [hw]; omega)
  have h3 : bitsAt 2 23 (wordOf 0x7D [fld d 18, fld a 11, lit 20 2, fld g 0]) ≠ BitVec.ofNat 23 8 := bitsAt_ne (P := 4) (Q := 8388608) rfl rfl (by rw [hw]; omega)
  have h4 : bitsAt 2 23 (wordOf 0x7D [fld d 18, fld a 11, lit 20 2, fld g 0]) ≠ BitVec.ofNat 23 12 := bitsAt_ne (P := 4) (Q := 8388608) rfl rfl (by rw [hw]; omega)
  have h5 : bitsAt 2 23 (wordOf 0x7D [fld d 18, fld a 11, lit 20 2, fld g 0]) ≠ BitVec.ofNat 23 16 := bitsAt_ne (P := 4) (Q := 8388608) rfl rfl (by rw [hw]; omega)
  have h6 : bitsAt 18 7 (wordOf 0x7D [fld d 18, fld a 11, lit 20 2, fld g 0]) = d := bitsAt_eq (P := 262144) (Q := 128) rfl rfl (by rw [hw]; omega)
  have h7 : bitsAt 11 7 (wordOf 0x7D [fld d 18, fld a 11, lit 20 2, fld g 0]) = a := bitsAt_eq (P := 2048) (Q := 128) rfl rfl (by rw [hw]; omega)
  have h8 : bitsAt 0 2 (wordOf 0x7D [fld d 18, fld a 11, lit 20 2, fld g 0]) = g := bitsAt_eq (P := 1) (Q := 4) rfl rfl (by rw [hw]; omega)
  refine roundTrip_one rfl h0 (by decide) ((decodeWord_7D h0).trans ?_)
  simp [decodeOp7D, h1, h2, h3, h4, h5, h6, h7, h8]

theorem rayld (d : BitVec 7) (c : BitVec 2) (w : BitVec 5) (g : BitVec 2) : Statement (.rayld d c w g) := by
  have := field_lt d (P := 128) rfl
  have := field_lt c (P := 4) rfl
  have := field_lt w (P := 32) rfl
  have := field_lt g (P := 4) rfl
  have hw : (wordOf 0x7D [fld d 18, fld c 16, fld w 11, lit 24 2, fld g 0]).toNat = 4194304096 + d.toNat * 262144 + c.toNat * 65536 + w.toNat * 2048 + g.toNat * 1 :=
    wordOf_toNat _ _ (by rw [fld_eq d 18 (P := 262144) rfl, fld_eq c 16 (P := 65536) rfl, fld_eq w 11 (P := 2048) rfl, fld_eq g 0 (P := 1) rfl]; simp only [lit, sum_field, sum_none]; omega) (by omega)
  have h0 : bitsAt 25 7 (wordOf 0x7D [fld d 18, fld c 16, fld w 11, lit 24 2, fld g 0]) = BitVec.ofNat 7 0x7D := bitsAt_code (P := 33554432) (Q := 128) rfl rfl (by rw [hw]; omega)
  have h1 : bitsAt 2 9 (wordOf 0x7D [fld d 18, fld c 16, fld w 11, lit 24 2, fld g 0]) = BitVec.ofNat 9 24 := bitsAt_code (P := 4) (Q := 512) rfl rfl (by rw [hw]; omega)
  have h2 : bitsAt 2 23 (wordOf 0x7D [fld d 18, fld c 16, fld w 11, lit 24 2, fld g 0]) ≠ BitVec.ofNat 23 4 := bitsAt_ne (P := 4) (Q := 8388608) rfl rfl (by rw [hw]; omega)
  have h3 : bitsAt 2 23 (wordOf 0x7D [fld d 18, fld c 16, fld w 11, lit 24 2, fld g 0]) ≠ BitVec.ofNat 23 8 := bitsAt_ne (P := 4) (Q := 8388608) rfl rfl (by rw [hw]; omega)
  have h4 : bitsAt 2 23 (wordOf 0x7D [fld d 18, fld c 16, fld w 11, lit 24 2, fld g 0]) ≠ BitVec.ofNat 23 12 := bitsAt_ne (P := 4) (Q := 8388608) rfl rfl (by rw [hw]; omega)
  have h5 : bitsAt 2 23 (wordOf 0x7D [fld d 18, fld c 16, fld w 11, lit 24 2, fld g 0]) ≠ BitVec.ofNat 23 16 := bitsAt_ne (P := 4) (Q := 8388608) rfl rfl (by rw [hw]; omega)
  have h6 : bitsAt 18 7 (wordOf 0x7D [fld d 18, fld c 16, fld w 11, lit 24 2, fld g 0]) = d := bitsAt_eq (P := 262144) (Q := 128) rfl rfl (by rw [hw]; omega)
  have h7 : bitsAt 16 2 (wordOf 0x7D [fld d 18, fld c 16, fld w 11, lit 24 2, fld g 0]) = c := bitsAt_eq (P := 65536) (Q := 4) rfl rfl (by rw [hw]; omega)
  have h8 : bitsAt 11 5 (wordOf 0x7D [fld d 18, fld c 16, fld w 11, lit 24 2, fld g 0]) = w := bitsAt_eq (P := 2048) (Q := 32) rfl rfl (by rw [hw]; omega)
  have h9 : bitsAt 0 2 (wordOf 0x7D [fld d 18, fld c 16, fld w 11, lit 24 2, fld g 0]) = g := bitsAt_eq (P := 1) (Q := 4) rfl rfl (by rw [hw]; omega)
  refine roundTrip_one rfl h0 (by decide) ((decodeWord_7D h0).trans ?_)
  simp [decodeOp7D, h1, h2, h3, h4, h5, h6, h7, h8, h9]

theorem rayst (d : BitVec 7) (c : BitVec 2) (w : BitVec 5) (g : BitVec 2) : Statement (.rayst d c w g) := by
  have := field_lt d (P := 128) rfl
  have := field_lt c (P := 4) rfl
  have := field_lt w (P := 32) rfl
  have := field_lt g (P := 4) rfl
  have hw : (wordOf 0x7D [fld d 18, fld c 16, fld w 11, lit 28 2, fld g 0]).toNat = 4194304112 + d.toNat * 262144 + c.toNat * 65536 + w.toNat * 2048 + g.toNat * 1 :=
    wordOf_toNat _ _ (by rw [fld_eq d 18 (P := 262144) rfl, fld_eq c 16 (P := 65536) rfl, fld_eq w 11 (P := 2048) rfl, fld_eq g 0 (P := 1) rfl]; simp only [lit, sum_field, sum_none]; omega) (by omega)
  have h0 : bitsAt 25 7 (wordOf 0x7D [fld d 18, fld c 16, fld w 11, lit 28 2, fld g 0]) = BitVec.ofNat 7 0x7D := bitsAt_code (P := 33554432) (Q := 128) rfl rfl (by rw [hw]; omega)
  have h1 : bitsAt 2 9 (wordOf 0x7D [fld d 18, fld c 16, fld w 11, lit 28 2, fld g 0]) = BitVec.ofNat 9 28 := bitsAt_code (P := 4) (Q := 512) rfl rfl (by rw [hw]; omega)
  have h2 : bitsAt 2 23 (wordOf 0x7D [fld d 18, fld c 16, fld w 11, lit 28 2, fld g 0]) ≠ BitVec.ofNat 23 4 := bitsAt_ne (P := 4) (Q := 8388608) rfl rfl (by rw [hw]; omega)
  have h3 : bitsAt 2 23 (wordOf 0x7D [fld d 18, fld c 16, fld w 11, lit 28 2, fld g 0]) ≠ BitVec.ofNat 23 8 := bitsAt_ne (P := 4) (Q := 8388608) rfl rfl (by rw [hw]; omega)
  have h4 : bitsAt 2 23 (wordOf 0x7D [fld d 18, fld c 16, fld w 11, lit 28 2, fld g 0]) ≠ BitVec.ofNat 23 12 := bitsAt_ne (P := 4) (Q := 8388608) rfl rfl (by rw [hw]; omega)
  have h5 : bitsAt 2 23 (wordOf 0x7D [fld d 18, fld c 16, fld w 11, lit 28 2, fld g 0]) ≠ BitVec.ofNat 23 16 := bitsAt_ne (P := 4) (Q := 8388608) rfl rfl (by rw [hw]; omega)
  have h6 : bitsAt 18 7 (wordOf 0x7D [fld d 18, fld c 16, fld w 11, lit 28 2, fld g 0]) = d := bitsAt_eq (P := 262144) (Q := 128) rfl rfl (by rw [hw]; omega)
  have h7 : bitsAt 16 2 (wordOf 0x7D [fld d 18, fld c 16, fld w 11, lit 28 2, fld g 0]) = c := bitsAt_eq (P := 65536) (Q := 4) rfl rfl (by rw [hw]; omega)
  have h8 : bitsAt 11 5 (wordOf 0x7D [fld d 18, fld c 16, fld w 11, lit 28 2, fld g 0]) = w := bitsAt_eq (P := 2048) (Q := 32) rfl rfl (by rw [hw]; omega)
  have h9 : bitsAt 0 2 (wordOf 0x7D [fld d 18, fld c 16, fld w 11, lit 28 2, fld g 0]) = g := bitsAt_eq (P := 1) (Q := 4) rfl rfl (by rw [hw]; omega)
  refine roundTrip_one rfl h0 (by decide) ((decodeWord_7D h0).trans ?_)
  simp [decodeOp7D, h1, h2, h3, h4, h5, h6, h7, h8, h9]

theorem raydone (g : BitVec 2) : Statement (.raydone g) := by
  obtain ⟨h0, h1, h2, h3⟩ := shape19 0x7D g 32 (by decide) (by decide)
  refine roundTrip_one rfl h0 (by decide) ((decodeWord_7D h0).trans ?_)
  simp [decodeOp7D, h1, h2, h3]

theorem binkey (d : BitVec 7) (g : BitVec 2) : Statement (.binkey d g) := by
  have := field_lt d (P := 128) rfl
  have := field_lt g (P := 4) rfl
  have hw : (wordOf 0x7D [fld d 18, lit 36 2, fld g 0]).toNat = 4194304144 + d.toNat * 262144 + g.toNat * 1 :=
    wordOf_toNat _ _ (by rw [fld_eq d 18 (P := 262144) rfl, fld_eq g 0 (P := 1) rfl]; simp only [lit, sum_field, sum_none]; omega) (by omega)
  have h0 : bitsAt 25 7 (wordOf 0x7D [fld d 18, lit 36 2, fld g 0]) = BitVec.ofNat 7 0x7D := bitsAt_code (P := 33554432) (Q := 128) rfl rfl (by rw [hw]; omega)
  have h1 : bitsAt 2 9 (wordOf 0x7D [fld d 18, lit 36 2, fld g 0]) = BitVec.ofNat 9 36 := bitsAt_code (P := 4) (Q := 512) rfl rfl (by rw [hw]; omega)
  have h2 : bitsAt 2 23 (wordOf 0x7D [fld d 18, lit 36 2, fld g 0]) ≠ BitVec.ofNat 23 4 := bitsAt_ne (P := 4) (Q := 8388608) rfl rfl (by rw [hw]; omega)
  have h3 : bitsAt 2 23 (wordOf 0x7D [fld d 18, lit 36 2, fld g 0]) ≠ BitVec.ofNat 23 8 := bitsAt_ne (P := 4) (Q := 8388608) rfl rfl (by rw [hw]; omega)
  have h4 : bitsAt 2 23 (wordOf 0x7D [fld d 18, lit 36 2, fld g 0]) ≠ BitVec.ofNat 23 12 := bitsAt_ne (P := 4) (Q := 8388608) rfl rfl (by rw [hw]; omega)
  have h5 : bitsAt 2 23 (wordOf 0x7D [fld d 18, lit 36 2, fld g 0]) ≠ BitVec.ofNat 23 16 := bitsAt_ne (P := 4) (Q := 8388608) rfl rfl (by rw [hw]; omega)
  have h6 : bitsAt 2 23 (wordOf 0x7D [fld d 18, lit 36 2, fld g 0]) ≠ BitVec.ofNat 23 32 := bitsAt_ne (P := 4) (Q := 8388608) rfl rfl (by rw [hw]; omega)
  have h7 : bitsAt 2 16 (wordOf 0x7D [fld d 18, lit 36 2, fld g 0]) = BitVec.ofNat 16 36 := bitsAt_code (P := 4) (Q := 65536) rfl rfl (by rw [hw]; omega)
  have h8 : bitsAt 18 7 (wordOf 0x7D [fld d 18, lit 36 2, fld g 0]) = d := bitsAt_eq (P := 262144) (Q := 128) rfl rfl (by rw [hw]; omega)
  have h9 : bitsAt 0 2 (wordOf 0x7D [fld d 18, lit 36 2, fld g 0]) = g := bitsAt_eq (P := 1) (Q := 4) rfl rfl (by rw [hw]; omega)
  refine roundTrip_one rfl h0 (by decide) ((decodeWord_7D h0).trans ?_)
  simp [decodeOp7D, h1, h2, h3, h4, h5, h6, h7, h8, h9]

theorem childq (d : BitVec 7) (g : BitVec 2) : Statement (.childq d g) := by
  have := field_lt d (P := 128) rfl
  have := field_lt g (P := 4) rfl
  have hw : (wordOf 0x7D [fld d 18, lit 40 2, fld g 0]).toNat = 4194304160 + d.toNat * 262144 + g.toNat * 1 :=
    wordOf_toNat _ _ (by rw [fld_eq d 18 (P := 262144) rfl, fld_eq g 0 (P := 1) rfl]; simp only [lit, sum_field, sum_none]; omega) (by omega)
  have h0 : bitsAt 25 7 (wordOf 0x7D [fld d 18, lit 40 2, fld g 0]) = BitVec.ofNat 7 0x7D := bitsAt_code (P := 33554432) (Q := 128) rfl rfl (by rw [hw]; omega)
  have h1 : bitsAt 2 9 (wordOf 0x7D [fld d 18, lit 40 2, fld g 0]) = BitVec.ofNat 9 40 := bitsAt_code (P := 4) (Q := 512) rfl rfl (by rw [hw]; omega)
  have h2 : bitsAt 2 23 (wordOf 0x7D [fld d 18, lit 40 2, fld g 0]) ≠ BitVec.ofNat 23 4 := bitsAt_ne (P := 4) (Q := 8388608) rfl rfl (by rw [hw]; omega)
  have h3 : bitsAt 2 23 (wordOf 0x7D [fld d 18, lit 40 2, fld g 0]) ≠ BitVec.ofNat 23 8 := bitsAt_ne (P := 4) (Q := 8388608) rfl rfl (by rw [hw]; omega)
  have h4 : bitsAt 2 23 (wordOf 0x7D [fld d 18, lit 40 2, fld g 0]) ≠ BitVec.ofNat 23 12 := bitsAt_ne (P := 4) (Q := 8388608) rfl rfl (by rw [hw]; omega)
  have h5 : bitsAt 2 23 (wordOf 0x7D [fld d 18, lit 40 2, fld g 0]) ≠ BitVec.ofNat 23 16 := bitsAt_ne (P := 4) (Q := 8388608) rfl rfl (by rw [hw]; omega)
  have h6 : bitsAt 2 23 (wordOf 0x7D [fld d 18, lit 40 2, fld g 0]) ≠ BitVec.ofNat 23 32 := bitsAt_ne (P := 4) (Q := 8388608) rfl rfl (by rw [hw]; omega)
  have h7 : bitsAt 2 16 (wordOf 0x7D [fld d 18, lit 40 2, fld g 0]) = BitVec.ofNat 16 40 := bitsAt_code (P := 4) (Q := 65536) rfl rfl (by rw [hw]; omega)
  have h8 : bitsAt 18 7 (wordOf 0x7D [fld d 18, lit 40 2, fld g 0]) = d := bitsAt_eq (P := 262144) (Q := 128) rfl rfl (by rw [hw]; omega)
  have h9 : bitsAt 0 2 (wordOf 0x7D [fld d 18, lit 40 2, fld g 0]) = g := bitsAt_eq (P := 1) (Q := 4) rfl rfl (by rw [hw]; omega)
  refine roundTrip_one rfl h0 (by decide) ((decodeWord_7D h0).trans ?_)
  simp [decodeOp7D, h1, h2, h3, h4, h5, h6, h7, h8, h9]

theorem item (c : BitVec 5) (a : BitVec 7) (g : BitVec 2) : Statement (.item c a g) := by
  have := field_lt c (P := 32) rfl
  have := field_lt a (P := 128) rfl
  have := field_lt g (P := 4) rfl
  have hw : (wordOf 0x7D [fld c 18, fld a 11, lit 44 2, fld g 0]).toNat = 4194304176 + c.toNat * 262144 + a.toNat * 2048 + g.toNat * 1 :=
    wordOf_toNat _ _ (by rw [fld_eq c 18 (P := 262144) rfl, fld_eq a 11 (P := 2048) rfl, fld_eq g 0 (P := 1) rfl]; simp only [lit, sum_field, sum_none]; omega) (by omega)
  have h0 : bitsAt 25 7 (wordOf 0x7D [fld c 18, fld a 11, lit 44 2, fld g 0]) = BitVec.ofNat 7 0x7D := bitsAt_code (P := 33554432) (Q := 128) rfl rfl (by rw [hw]; omega)
  have h1 : bitsAt 2 9 (wordOf 0x7D [fld c 18, fld a 11, lit 44 2, fld g 0]) = BitVec.ofNat 9 44 := bitsAt_code (P := 4) (Q := 512) rfl rfl (by rw [hw]; omega)
  have h2 : bitsAt 2 23 (wordOf 0x7D [fld c 18, fld a 11, lit 44 2, fld g 0]) ≠ BitVec.ofNat 23 4 := bitsAt_ne (P := 4) (Q := 8388608) rfl rfl (by rw [hw]; omega)
  have h3 : bitsAt 2 23 (wordOf 0x7D [fld c 18, fld a 11, lit 44 2, fld g 0]) ≠ BitVec.ofNat 23 8 := bitsAt_ne (P := 4) (Q := 8388608) rfl rfl (by rw [hw]; omega)
  have h4 : bitsAt 2 23 (wordOf 0x7D [fld c 18, fld a 11, lit 44 2, fld g 0]) ≠ BitVec.ofNat 23 12 := bitsAt_ne (P := 4) (Q := 8388608) rfl rfl (by rw [hw]; omega)
  have h5 : bitsAt 2 23 (wordOf 0x7D [fld c 18, fld a 11, lit 44 2, fld g 0]) ≠ BitVec.ofNat 23 16 := bitsAt_ne (P := 4) (Q := 8388608) rfl rfl (by rw [hw]; omega)
  have h6 : bitsAt 2 23 (wordOf 0x7D [fld c 18, fld a 11, lit 44 2, fld g 0]) ≠ BitVec.ofNat 23 32 := bitsAt_ne (P := 4) (Q := 8388608) rfl rfl (by rw [hw]; omega)
  have h7 : bitsAt 2 16 (wordOf 0x7D [fld c 18, fld a 11, lit 44 2, fld g 0]) ≠ BitVec.ofNat 16 36 := bitsAt_ne (P := 4) (Q := 65536) rfl rfl (by rw [hw]; omega)
  have h8 : bitsAt 2 16 (wordOf 0x7D [fld c 18, fld a 11, lit 44 2, fld g 0]) ≠ BitVec.ofNat 16 40 := bitsAt_ne (P := 4) (Q := 65536) rfl rfl (by rw [hw]; omega)
  have h9 : bitsAt 23 2 (wordOf 0x7D [fld c 18, fld a 11, lit 44 2, fld g 0]) = BitVec.ofNat 2 0 := bitsAt_code (P := 8388608) (Q := 4) rfl rfl (by rw [hw]; omega)
  have h10 : bitsAt 18 5 (wordOf 0x7D [fld c 18, fld a 11, lit 44 2, fld g 0]) = c := bitsAt_eq (P := 262144) (Q := 32) rfl rfl (by rw [hw]; omega)
  have h11 : bitsAt 11 7 (wordOf 0x7D [fld c 18, fld a 11, lit 44 2, fld g 0]) = a := bitsAt_eq (P := 2048) (Q := 128) rfl rfl (by rw [hw]; omega)
  have h12 : bitsAt 0 2 (wordOf 0x7D [fld c 18, fld a 11, lit 44 2, fld g 0]) = g := bitsAt_eq (P := 1) (Q := 4) rfl rfl (by rw [hw]; omega)
  refine roundTrip_one rfl h0 (by decide) ((decodeWord_7D h0).trans ?_)
  simp [decodeOp7D, h1, h2, h3, h4, h5, h6, h7, h8, h9, h10, h11, h12]

theorem launch (d : BitVec 7) (a : BitVec 7) (g : BitVec 2) : Statement (.launch d a g) := by
  have := field_lt d (P := 128) rfl
  have := field_lt a (P := 128) rfl
  have := field_lt g (P := 4) rfl
  have hw : (wordOf 0x7D [fld d 18, fld a 11, lit 48 2, fld g 0]).toNat = 4194304192 + d.toNat * 262144 + a.toNat * 2048 + g.toNat * 1 :=
    wordOf_toNat _ _ (by rw [fld_eq d 18 (P := 262144) rfl, fld_eq a 11 (P := 2048) rfl, fld_eq g 0 (P := 1) rfl]; simp only [lit, sum_field, sum_none]; omega) (by omega)
  have h0 : bitsAt 25 7 (wordOf 0x7D [fld d 18, fld a 11, lit 48 2, fld g 0]) = BitVec.ofNat 7 0x7D := bitsAt_code (P := 33554432) (Q := 128) rfl rfl (by rw [hw]; omega)
  have h1 : bitsAt 2 9 (wordOf 0x7D [fld d 18, fld a 11, lit 48 2, fld g 0]) = BitVec.ofNat 9 48 := bitsAt_code (P := 4) (Q := 512) rfl rfl (by rw [hw]; omega)
  have h2 : bitsAt 2 23 (wordOf 0x7D [fld d 18, fld a 11, lit 48 2, fld g 0]) ≠ BitVec.ofNat 23 4 := bitsAt_ne (P := 4) (Q := 8388608) rfl rfl (by rw [hw]; omega)
  have h3 : bitsAt 2 23 (wordOf 0x7D [fld d 18, fld a 11, lit 48 2, fld g 0]) ≠ BitVec.ofNat 23 8 := bitsAt_ne (P := 4) (Q := 8388608) rfl rfl (by rw [hw]; omega)
  have h4 : bitsAt 2 23 (wordOf 0x7D [fld d 18, fld a 11, lit 48 2, fld g 0]) ≠ BitVec.ofNat 23 12 := bitsAt_ne (P := 4) (Q := 8388608) rfl rfl (by rw [hw]; omega)
  have h5 : bitsAt 2 23 (wordOf 0x7D [fld d 18, fld a 11, lit 48 2, fld g 0]) ≠ BitVec.ofNat 23 16 := bitsAt_ne (P := 4) (Q := 8388608) rfl rfl (by rw [hw]; omega)
  have h6 : bitsAt 2 23 (wordOf 0x7D [fld d 18, fld a 11, lit 48 2, fld g 0]) ≠ BitVec.ofNat 23 32 := bitsAt_ne (P := 4) (Q := 8388608) rfl rfl (by rw [hw]; omega)
  have h7 : bitsAt 2 16 (wordOf 0x7D [fld d 18, fld a 11, lit 48 2, fld g 0]) ≠ BitVec.ofNat 16 36 := bitsAt_ne (P := 4) (Q := 65536) rfl rfl (by rw [hw]; omega)
  have h8 : bitsAt 2 16 (wordOf 0x7D [fld d 18, fld a 11, lit 48 2, fld g 0]) ≠ BitVec.ofNat 16 40 := bitsAt_ne (P := 4) (Q := 65536) rfl rfl (by rw [hw]; omega)
  have h9 : bitsAt 18 7 (wordOf 0x7D [fld d 18, fld a 11, lit 48 2, fld g 0]) = d := bitsAt_eq (P := 262144) (Q := 128) rfl rfl (by rw [hw]; omega)
  have h10 : bitsAt 11 7 (wordOf 0x7D [fld d 18, fld a 11, lit 48 2, fld g 0]) = a := bitsAt_eq (P := 2048) (Q := 128) rfl rfl (by rw [hw]; omega)
  have h11 : bitsAt 0 2 (wordOf 0x7D [fld d 18, fld a 11, lit 48 2, fld g 0]) = g := bitsAt_eq (P := 1) (Q := 4) rfl rfl (by rw [hw]; omega)
  refine roundTrip_one rfl h0 (by decide) ((decodeWord_7D h0).trans ?_)
  simp [decodeOp7D, h1, h2, h3, h4, h5, h6, h7, h8, h9, h10, h11]

theorem nop : Statement (.nop) := roundTrip_one (op := 0x7E) rfl rfl (by decide) rfl

theorem trap (n : BitVec 7) (g : BitVec 2) : Statement (.trap n g) := by
  have := field_lt n (P := 128) rfl
  have := field_lt g (P := 4) rfl
  have hw : (wordOf 0x7E [fld n 11, lit 4 2, fld g 0]).toNat = 4227858448 + n.toNat * 2048 + g.toNat * 1 :=
    wordOf_toNat _ _ (by rw [fld_eq n 11 (P := 2048) rfl, fld_eq g 0 (P := 1) rfl]; simp only [lit, sum_field, sum_none]; omega) (by omega)
  have h0 : bitsAt 25 7 (wordOf 0x7E [fld n 11, lit 4 2, fld g 0]) = BitVec.ofNat 7 0x7E := bitsAt_code (P := 33554432) (Q := 128) rfl rfl (by rw [hw]; omega)
  have h1 : bitsAt 0 25 (wordOf 0x7E [fld n 11, lit 4 2, fld g 0]) ≠ BitVec.ofNat 25 0 := bitsAt_ne (P := 1) (Q := 33554432) rfl rfl (by rw [hw]; omega)
  have h2 : bitsAt 2 9 (wordOf 0x7E [fld n 11, lit 4 2, fld g 0]) = BitVec.ofNat 9 4 := bitsAt_code (P := 4) (Q := 512) rfl rfl (by rw [hw]; omega)
  have h3 : bitsAt 18 7 (wordOf 0x7E [fld n 11, lit 4 2, fld g 0]) = BitVec.ofNat 7 0 := bitsAt_code (P := 262144) (Q := 128) rfl rfl (by rw [hw]; omega)
  have h4 : bitsAt 11 7 (wordOf 0x7E [fld n 11, lit 4 2, fld g 0]) = n := bitsAt_eq (P := 2048) (Q := 128) rfl rfl (by rw [hw]; omega)
  have h5 : bitsAt 0 2 (wordOf 0x7E [fld n 11, lit 4 2, fld g 0]) = g := bitsAt_eq (P := 1) (Q := 4) rfl rfl (by rw [hw]; omega)
  refine roundTrip_one rfl h0 (by decide) ((decodeWord_7E h0).trans ?_)
  simp [decodeOp7E, h1, h2, h3, h4, h5]

theorem bkpt (n : BitVec 7) (g : BitVec 2) : Statement (.bkpt n g) := by
  have := field_lt n (P := 128) rfl
  have := field_lt g (P := 4) rfl
  have hw : (wordOf 0x7E [fld n 11, lit 8 2, fld g 0]).toNat = 4227858464 + n.toNat * 2048 + g.toNat * 1 :=
    wordOf_toNat _ _ (by rw [fld_eq n 11 (P := 2048) rfl, fld_eq g 0 (P := 1) rfl]; simp only [lit, sum_field, sum_none]; omega) (by omega)
  have h0 : bitsAt 25 7 (wordOf 0x7E [fld n 11, lit 8 2, fld g 0]) = BitVec.ofNat 7 0x7E := bitsAt_code (P := 33554432) (Q := 128) rfl rfl (by rw [hw]; omega)
  have h1 : bitsAt 0 25 (wordOf 0x7E [fld n 11, lit 8 2, fld g 0]) ≠ BitVec.ofNat 25 0 := bitsAt_ne (P := 1) (Q := 33554432) rfl rfl (by rw [hw]; omega)
  have h2 : bitsAt 2 9 (wordOf 0x7E [fld n 11, lit 8 2, fld g 0]) = BitVec.ofNat 9 8 := bitsAt_code (P := 4) (Q := 512) rfl rfl (by rw [hw]; omega)
  have h3 : bitsAt 18 7 (wordOf 0x7E [fld n 11, lit 8 2, fld g 0]) = BitVec.ofNat 7 0 := bitsAt_code (P := 262144) (Q := 128) rfl rfl (by rw [hw]; omega)
  have h4 : bitsAt 11 7 (wordOf 0x7E [fld n 11, lit 8 2, fld g 0]) = n := bitsAt_eq (P := 2048) (Q := 128) rfl rfl (by rw [hw]; omega)
  have h5 : bitsAt 0 2 (wordOf 0x7E [fld n 11, lit 8 2, fld g 0]) = g := bitsAt_eq (P := 1) (Q := 4) rfl rfl (by rw [hw]; omega)
  refine roundTrip_one rfl h0 (by decide) ((decodeWord_7E h0).trans ?_)
  simp [decodeOp7E, h1, h2, h3, h4, h5]

theorem getsr (d : BitVec 7) (e : BitVec 7) (s : BitVec 1) (g : BitVec 2) : Statement (.getsr d e s g) := by
  have := field_lt d (P := 128) rfl
  have := field_lt e (P := 128) rfl
  have := field_lt s (P := 2) rfl
  have := field_lt g (P := 4) rfl
  have hw : (wordOf 0x7E [fld d 18, fld e 11, lit 6 3, fld s 2, fld g 0]).toNat = 4227858480 + d.toNat * 262144 + e.toNat * 2048 + s.toNat * 4 + g.toNat * 1 :=
    wordOf_toNat _ _ (by rw [fld_eq d 18 (P := 262144) rfl, fld_eq e 11 (P := 2048) rfl, fld_eq s 2 (P := 4) rfl, fld_eq g 0 (P := 1) rfl]; simp only [lit, sum_field, sum_none]; omega) (by omega)
  have h0 : bitsAt 25 7 (wordOf 0x7E [fld d 18, fld e 11, lit 6 3, fld s 2, fld g 0]) = BitVec.ofNat 7 0x7E := bitsAt_code (P := 33554432) (Q := 128) rfl rfl (by rw [hw]; omega)
  have h1 : bitsAt 0 25 (wordOf 0x7E [fld d 18, fld e 11, lit 6 3, fld s 2, fld g 0]) ≠ BitVec.ofNat 25 0 := bitsAt_ne (P := 1) (Q := 33554432) rfl rfl (by rw [hw]; omega)
  have h2 : bitsAt 2 9 (wordOf 0x7E [fld d 18, fld e 11, lit 6 3, fld s 2, fld g 0]) ≠ BitVec.ofNat 9 4 := bitsAt_ne (P := 4) (Q := 512) rfl rfl (by rw [hw]; omega)
  have h3 : bitsAt 2 9 (wordOf 0x7E [fld d 18, fld e 11, lit 6 3, fld s 2, fld g 0]) ≠ BitVec.ofNat 9 8 := bitsAt_ne (P := 4) (Q := 512) rfl rfl (by rw [hw]; omega)
  have h4 : bitsAt 3 8 (wordOf 0x7E [fld d 18, fld e 11, lit 6 3, fld s 2, fld g 0]) = BitVec.ofNat 8 6 := bitsAt_code (P := 8) (Q := 256) rfl rfl (by rw [hw]; omega)
  have h5 : bitsAt 18 7 (wordOf 0x7E [fld d 18, fld e 11, lit 6 3, fld s 2, fld g 0]) = d := bitsAt_eq (P := 262144) (Q := 128) rfl rfl (by rw [hw]; omega)
  have h6 : bitsAt 11 7 (wordOf 0x7E [fld d 18, fld e 11, lit 6 3, fld s 2, fld g 0]) = e := bitsAt_eq (P := 2048) (Q := 128) rfl rfl (by rw [hw]; omega)
  have h7 : bitsAt 2 1 (wordOf 0x7E [fld d 18, fld e 11, lit 6 3, fld s 2, fld g 0]) = s := bitsAt_eq (P := 4) (Q := 2) rfl rfl (by rw [hw]; omega)
  have h8 : bitsAt 0 2 (wordOf 0x7E [fld d 18, fld e 11, lit 6 3, fld s 2, fld g 0]) = g := bitsAt_eq (P := 1) (Q := 4) rfl rfl (by rw [hw]; omega)
  refine roundTrip_one rfl h0 (by decide) ((decodeWord_7E h0).trans ?_)
  simp [decodeOp7E, h1, h2, h3, h4, h5, h6, h7, h8]

theorem setsr (e : BitVec 7) (a : BitVec 7) (g : BitVec 2) : Statement (.setsr e a g) := by
  have := field_lt e (P := 128) rfl
  have := field_lt a (P := 128) rfl
  have := field_lt g (P := 4) rfl
  have hw : (wordOf 0x7E [fld e 18, fld a 11, lit 16 2, fld g 0]).toNat = 4227858496 + e.toNat * 262144 + a.toNat * 2048 + g.toNat * 1 :=
    wordOf_toNat _ _ (by rw [fld_eq e 18 (P := 262144) rfl, fld_eq a 11 (P := 2048) rfl, fld_eq g 0 (P := 1) rfl]; simp only [lit, sum_field, sum_none]; omega) (by omega)
  have h0 : bitsAt 25 7 (wordOf 0x7E [fld e 18, fld a 11, lit 16 2, fld g 0]) = BitVec.ofNat 7 0x7E := bitsAt_code (P := 33554432) (Q := 128) rfl rfl (by rw [hw]; omega)
  have h1 : bitsAt 0 25 (wordOf 0x7E [fld e 18, fld a 11, lit 16 2, fld g 0]) ≠ BitVec.ofNat 25 0 := bitsAt_ne (P := 1) (Q := 33554432) rfl rfl (by rw [hw]; omega)
  have h2 : bitsAt 2 9 (wordOf 0x7E [fld e 18, fld a 11, lit 16 2, fld g 0]) = BitVec.ofNat 9 16 := bitsAt_code (P := 4) (Q := 512) rfl rfl (by rw [hw]; omega)
  have h3 : bitsAt 3 8 (wordOf 0x7E [fld e 18, fld a 11, lit 16 2, fld g 0]) = BitVec.ofNat 8 8 := bitsAt_code (P := 8) (Q := 256) rfl rfl (by rw [hw]; omega)
  have h4 : bitsAt 18 7 (wordOf 0x7E [fld e 18, fld a 11, lit 16 2, fld g 0]) = e := bitsAt_eq (P := 262144) (Q := 128) rfl rfl (by rw [hw]; omega)
  have h5 : bitsAt 11 7 (wordOf 0x7E [fld e 18, fld a 11, lit 16 2, fld g 0]) = a := bitsAt_eq (P := 2048) (Q := 128) rfl rfl (by rw [hw]; omega)
  have h6 : bitsAt 0 2 (wordOf 0x7E [fld e 18, fld a 11, lit 16 2, fld g 0]) = g := bitsAt_eq (P := 1) (Q := 4) rfl rfl (by rw [hw]; omega)
  refine roundTrip_one rfl h0 (by decide) ((decodeWord_7E h0).trans ?_)
  simp [decodeOp7E, h1, h2, h3, h4, h5, h6]

theorem rdcyc (d : BitVec 7) (g : BitVec 2) : Statement (.rdcyc d g) := by
  have := field_lt d (P := 128) rfl
  have := field_lt g (P := 4) rfl
  have hw : (wordOf 0x7E [fld d 18, lit 20 2, fld g 0]).toNat = 4227858512 + d.toNat * 262144 + g.toNat * 1 :=
    wordOf_toNat _ _ (by rw [fld_eq d 18 (P := 262144) rfl, fld_eq g 0 (P := 1) rfl]; simp only [lit, sum_field, sum_none]; omega) (by omega)
  have h0 : bitsAt 25 7 (wordOf 0x7E [fld d 18, lit 20 2, fld g 0]) = BitVec.ofNat 7 0x7E := bitsAt_code (P := 33554432) (Q := 128) rfl rfl (by rw [hw]; omega)
  have h1 : bitsAt 0 25 (wordOf 0x7E [fld d 18, lit 20 2, fld g 0]) ≠ BitVec.ofNat 25 0 := bitsAt_ne (P := 1) (Q := 33554432) rfl rfl (by rw [hw]; omega)
  have h2 : bitsAt 2 9 (wordOf 0x7E [fld d 18, lit 20 2, fld g 0]) = BitVec.ofNat 9 20 := bitsAt_code (P := 4) (Q := 512) rfl rfl (by rw [hw]; omega)
  have h3 : bitsAt 3 8 (wordOf 0x7E [fld d 18, lit 20 2, fld g 0]) = BitVec.ofNat 8 10 := bitsAt_code (P := 8) (Q := 256) rfl rfl (by rw [hw]; omega)
  have h4 : bitsAt 2 16 (wordOf 0x7E [fld d 18, lit 20 2, fld g 0]) = BitVec.ofNat 16 20 := bitsAt_code (P := 4) (Q := 65536) rfl rfl (by rw [hw]; omega)
  have h5 : bitsAt 18 7 (wordOf 0x7E [fld d 18, lit 20 2, fld g 0]) = d := bitsAt_eq (P := 262144) (Q := 128) rfl rfl (by rw [hw]; omega)
  have h6 : bitsAt 0 2 (wordOf 0x7E [fld d 18, lit 20 2, fld g 0]) = g := bitsAt_eq (P := 1) (Q := 4) rfl rfl (by rw [hw]; omega)
  refine roundTrip_one rfl h0 (by decide) ((decodeWord_7E h0).trans ?_)
  simp [decodeOp7E, h1, h2, h3, h4, h5, h6]

theorem yield : Statement (.yield) := roundTrip_one (op := 0x7E) rfl rfl (by decide) rfl

theorem region : Statement (.region) := roundTrip_one (op := 0x7E) rfl rfl (by decide) rfl

theorem winb (n : BitVec 5) : Statement (.winb n) := by
  have := field_lt n (P := 32) rfl
  have hw : (wordOf 0x7E [fld n 11, lit 128 0]).toNat = 4227858560 + n.toNat * 2048 :=
    wordOf_toNat _ _ (by rw [fld_eq n 11 (P := 2048) rfl]; simp only [lit, sum_field, sum_none]; omega) (by omega)
  have h0 : bitsAt 25 7 (wordOf 0x7E [fld n 11, lit 128 0]) = BitVec.ofNat 7 0x7E := bitsAt_code (P := 33554432) (Q := 128) rfl rfl (by rw [hw]; omega)
  have h1 : bitsAt 0 25 (wordOf 0x7E [fld n 11, lit 128 0]) ≠ BitVec.ofNat 25 0 := bitsAt_ne (P := 1) (Q := 33554432) rfl rfl (by rw [hw]; omega)
  have h2 : bitsAt 2 9 (wordOf 0x7E [fld n 11, lit 128 0]) = BitVec.ofNat 9 32 := bitsAt_code (P := 4) (Q := 512) rfl rfl (by rw [hw]; omega)
  have h3 : bitsAt 3 8 (wordOf 0x7E [fld n 11, lit 128 0]) = BitVec.ofNat 8 16 := bitsAt_code (P := 8) (Q := 256) rfl rfl (by rw [hw]; omega)
  have h4 : bitsAt 2 16 (wordOf 0x7E [fld n 11, lit 128 0]) ≠ BitVec.ofNat 16 20 := bitsAt_ne (P := 4) (Q := 65536) rfl rfl (by rw [hw]; omega)
  have h5 : bitsAt 0 25 (wordOf 0x7E [fld n 11, lit 128 0]) ≠ BitVec.ofNat 25 96 := bitsAt_ne (P := 1) (Q := 33554432) rfl rfl (by rw [hw]; omega)
  have h6 : bitsAt 0 25 (wordOf 0x7E [fld n 11, lit 128 0]) ≠ BitVec.ofNat 25 112 := bitsAt_ne (P := 1) (Q := 33554432) rfl rfl (by rw [hw]; omega)
  have h7 : bitsAt 0 11 (wordOf 0x7E [fld n 11, lit 128 0]) = BitVec.ofNat 11 128 := bitsAt_code (P := 1) (Q := 2048) rfl rfl (by rw [hw]; omega)
  have h8 : bitsAt 16 9 (wordOf 0x7E [fld n 11, lit 128 0]) = BitVec.ofNat 9 0 := bitsAt_code (P := 65536) (Q := 512) rfl rfl (by rw [hw]; omega)
  have h9 : bitsAt 11 5 (wordOf 0x7E [fld n 11, lit 128 0]) = n := bitsAt_eq (P := 2048) (Q := 32) rfl rfl (by rw [hw]; omega)
  refine roundTrip_one rfl h0 (by decide) ((decodeWord_7E h0).trans ?_)
  simp [decodeOp7E, h1, h2, h3, h4, h5, h6, h7, h8, h9]

theorem swinb (n : BitVec 1) : Statement (.swinb n) := by
  have := field_lt n (P := 2) rfl
  have hw : (wordOf 0x7E [fld n 11, lit 144 0]).toNat = 4227858576 + n.toNat * 2048 :=
    wordOf_toNat _ _ (by rw [fld_eq n 11 (P := 2048) rfl]; simp only [lit, sum_field, sum_none]; omega) (by omega)
  have h0 : bitsAt 25 7 (wordOf 0x7E [fld n 11, lit 144 0]) = BitVec.ofNat 7 0x7E := bitsAt_code (P := 33554432) (Q := 128) rfl rfl (by rw [hw]; omega)
  have h1 : bitsAt 0 25 (wordOf 0x7E [fld n 11, lit 144 0]) ≠ BitVec.ofNat 25 0 := bitsAt_ne (P := 1) (Q := 33554432) rfl rfl (by rw [hw]; omega)
  have h2 : bitsAt 2 9 (wordOf 0x7E [fld n 11, lit 144 0]) = BitVec.ofNat 9 36 := bitsAt_code (P := 4) (Q := 512) rfl rfl (by rw [hw]; omega)
  have h3 : bitsAt 3 8 (wordOf 0x7E [fld n 11, lit 144 0]) = BitVec.ofNat 8 18 := bitsAt_code (P := 8) (Q := 256) rfl rfl (by rw [hw]; omega)
  have h4 : bitsAt 2 16 (wordOf 0x7E [fld n 11, lit 144 0]) ≠ BitVec.ofNat 16 20 := bitsAt_ne (P := 4) (Q := 65536) rfl rfl (by rw [hw]; omega)
  have h5 : bitsAt 0 25 (wordOf 0x7E [fld n 11, lit 144 0]) ≠ BitVec.ofNat 25 96 := bitsAt_ne (P := 1) (Q := 33554432) rfl rfl (by rw [hw]; omega)
  have h6 : bitsAt 0 25 (wordOf 0x7E [fld n 11, lit 144 0]) ≠ BitVec.ofNat 25 112 := bitsAt_ne (P := 1) (Q := 33554432) rfl rfl (by rw [hw]; omega)
  have h7 : bitsAt 0 11 (wordOf 0x7E [fld n 11, lit 144 0]) = BitVec.ofNat 11 144 := bitsAt_code (P := 1) (Q := 2048) rfl rfl (by rw [hw]; omega)
  have h8 : bitsAt 12 13 (wordOf 0x7E [fld n 11, lit 144 0]) = BitVec.ofNat 13 0 := bitsAt_code (P := 4096) (Q := 8192) rfl rfl (by rw [hw]; omega)
  have h9 : bitsAt 11 1 (wordOf 0x7E [fld n 11, lit 144 0]) = n := bitsAt_eq (P := 2048) (Q := 2) rfl rfl (by rw [hw]; omega)
  refine roundTrip_one rfl h0 (by decide) ((decodeWord_7E h0).trans ?_)
  simp [decodeOp7E, h1, h2, h3, h4, h5, h6, h7, h8, h9]

theorem regreq (n : BitVec 7) : Statement (.regreq n) := by
  have := field_lt n (P := 128) rfl
  have hw : (wordOf 0x7E [fld n 11, lit 160 0]).toNat = 4227858592 + n.toNat * 2048 :=
    wordOf_toNat _ _ (by rw [fld_eq n 11 (P := 2048) rfl]; simp only [lit, sum_field, sum_none]; omega) (by omega)
  have h0 : bitsAt 25 7 (wordOf 0x7E [fld n 11, lit 160 0]) = BitVec.ofNat 7 0x7E := bitsAt_code (P := 33554432) (Q := 128) rfl rfl (by rw [hw]; omega)
  have h1 : bitsAt 0 25 (wordOf 0x7E [fld n 11, lit 160 0]) ≠ BitVec.ofNat 25 0 := bitsAt_ne (P := 1) (Q := 33554432) rfl rfl (by rw [hw]; omega)
  have h2 : bitsAt 2 9 (wordOf 0x7E [fld n 11, lit 160 0]) = BitVec.ofNat 9 40 := bitsAt_code (P := 4) (Q := 512) rfl rfl (by rw [hw]; omega)
  have h3 : bitsAt 3 8 (wordOf 0x7E [fld n 11, lit 160 0]) = BitVec.ofNat 8 20 := bitsAt_code (P := 8) (Q := 256) rfl rfl (by rw [hw]; omega)
  have h4 : bitsAt 2 16 (wordOf 0x7E [fld n 11, lit 160 0]) ≠ BitVec.ofNat 16 20 := bitsAt_ne (P := 4) (Q := 65536) rfl rfl (by rw [hw]; omega)
  have h5 : bitsAt 0 25 (wordOf 0x7E [fld n 11, lit 160 0]) ≠ BitVec.ofNat 25 96 := bitsAt_ne (P := 1) (Q := 33554432) rfl rfl (by rw [hw]; omega)
  have h6 : bitsAt 0 25 (wordOf 0x7E [fld n 11, lit 160 0]) ≠ BitVec.ofNat 25 112 := bitsAt_ne (P := 1) (Q := 33554432) rfl rfl (by rw [hw]; omega)
  have h7 : bitsAt 0 11 (wordOf 0x7E [fld n 11, lit 160 0]) = BitVec.ofNat 11 160 := bitsAt_code (P := 1) (Q := 2048) rfl rfl (by rw [hw]; omega)
  have h8 : bitsAt 18 7 (wordOf 0x7E [fld n 11, lit 160 0]) = BitVec.ofNat 7 0 := bitsAt_code (P := 262144) (Q := 128) rfl rfl (by rw [hw]; omega)
  have h9 : bitsAt 11 7 (wordOf 0x7E [fld n 11, lit 160 0]) = n := bitsAt_eq (P := 2048) (Q := 128) rfl rfl (by rw [hw]; omega)
  refine roundTrip_one rfl h0 (by decide) ((decodeWord_7E h0).trans ?_)
  simp [decodeOp7E, h1, h2, h3, h4, h5, h6, h7, h8, h9]

theorem regrel (n : BitVec 7) : Statement (.regrel n) := by
  have := field_lt n (P := 128) rfl
  have hw : (wordOf 0x7E [fld n 11, lit 176 0]).toNat = 4227858608 + n.toNat * 2048 :=
    wordOf_toNat _ _ (by rw [fld_eq n 11 (P := 2048) rfl]; simp only [lit, sum_field, sum_none]; omega) (by omega)
  have h0 : bitsAt 25 7 (wordOf 0x7E [fld n 11, lit 176 0]) = BitVec.ofNat 7 0x7E := bitsAt_code (P := 33554432) (Q := 128) rfl rfl (by rw [hw]; omega)
  have h1 : bitsAt 0 25 (wordOf 0x7E [fld n 11, lit 176 0]) ≠ BitVec.ofNat 25 0 := bitsAt_ne (P := 1) (Q := 33554432) rfl rfl (by rw [hw]; omega)
  have h2 : bitsAt 2 9 (wordOf 0x7E [fld n 11, lit 176 0]) = BitVec.ofNat 9 44 := bitsAt_code (P := 4) (Q := 512) rfl rfl (by rw [hw]; omega)
  have h3 : bitsAt 3 8 (wordOf 0x7E [fld n 11, lit 176 0]) = BitVec.ofNat 8 22 := bitsAt_code (P := 8) (Q := 256) rfl rfl (by rw [hw]; omega)
  have h4 : bitsAt 2 16 (wordOf 0x7E [fld n 11, lit 176 0]) ≠ BitVec.ofNat 16 20 := bitsAt_ne (P := 4) (Q := 65536) rfl rfl (by rw [hw]; omega)
  have h5 : bitsAt 0 25 (wordOf 0x7E [fld n 11, lit 176 0]) ≠ BitVec.ofNat 25 96 := bitsAt_ne (P := 1) (Q := 33554432) rfl rfl (by rw [hw]; omega)
  have h6 : bitsAt 0 25 (wordOf 0x7E [fld n 11, lit 176 0]) ≠ BitVec.ofNat 25 112 := bitsAt_ne (P := 1) (Q := 33554432) rfl rfl (by rw [hw]; omega)
  have h7 : bitsAt 0 11 (wordOf 0x7E [fld n 11, lit 176 0]) = BitVec.ofNat 11 176 := bitsAt_code (P := 1) (Q := 2048) rfl rfl (by rw [hw]; omega)
  have h8 : bitsAt 18 7 (wordOf 0x7E [fld n 11, lit 176 0]) = BitVec.ofNat 7 0 := bitsAt_code (P := 262144) (Q := 128) rfl rfl (by rw [hw]; omega)
  have h9 : bitsAt 11 7 (wordOf 0x7E [fld n 11, lit 176 0]) = n := bitsAt_eq (P := 2048) (Q := 128) rfl rfl (by rw [hw]; omega)
  refine roundTrip_one rfl h0 (by decide) ((decodeWord_7E h0).trans ?_)
  simp [decodeOp7E, h1, h2, h3, h4, h5, h6, h7, h8, h9]

theorem rdlane (d : BitVec 7) (a : BitVec 7) (g : BitVec 2) : Statement (.rdlane d a g) := by
  have := field_lt d (P := 128) rfl
  have := field_lt a (P := 128) rfl
  have := field_lt g (P := 4) rfl
  have hw : (wordOf 0x7E [fld d 18, fld a 11, lit 49 2, fld g 0]).toNat = 4227858628 + d.toNat * 262144 + a.toNat * 2048 + g.toNat * 1 :=
    wordOf_toNat _ _ (by rw [fld_eq d 18 (P := 262144) rfl, fld_eq a 11 (P := 2048) rfl, fld_eq g 0 (P := 1) rfl]; simp only [lit, sum_field, sum_none]; omega) (by omega)
  have h0 : bitsAt 25 7 (wordOf 0x7E [fld d 18, fld a 11, lit 49 2, fld g 0]) = BitVec.ofNat 7 0x7E := bitsAt_code (P := 33554432) (Q := 128) rfl rfl (by rw [hw]; omega)
  have h1 : bitsAt 0 25 (wordOf 0x7E [fld d 18, fld a 11, lit 49 2, fld g 0]) ≠ BitVec.ofNat 25 0 := bitsAt_ne (P := 1) (Q := 33554432) rfl rfl (by rw [hw]; omega)
  have h2 : bitsAt 2 9 (wordOf 0x7E [fld d 18, fld a 11, lit 49 2, fld g 0]) = BitVec.ofNat 9 49 := bitsAt_code (P := 4) (Q := 512) rfl rfl (by rw [hw]; omega)
  have h3 : bitsAt 3 8 (wordOf 0x7E [fld d 18, fld a 11, lit 49 2, fld g 0]) = BitVec.ofNat 8 24 := bitsAt_code (P := 8) (Q := 256) rfl rfl (by rw [hw]; omega)
  have h4 : bitsAt 2 16 (wordOf 0x7E [fld d 18, fld a 11, lit 49 2, fld g 0]) ≠ BitVec.ofNat 16 20 := bitsAt_ne (P := 4) (Q := 65536) rfl rfl (by rw [hw]; omega)
  have h5 : bitsAt 0 25 (wordOf 0x7E [fld d 18, fld a 11, lit 49 2, fld g 0]) ≠ BitVec.ofNat 25 96 := bitsAt_ne (P := 1) (Q := 33554432) rfl rfl (by rw [hw]; omega)
  have h6 : bitsAt 0 25 (wordOf 0x7E [fld d 18, fld a 11, lit 49 2, fld g 0]) ≠ BitVec.ofNat 25 112 := bitsAt_ne (P := 1) (Q := 33554432) rfl rfl (by rw [hw]; omega)
  have h7 : bitsAt 0 11 (wordOf 0x7E [fld d 18, fld a 11, lit 49 2, fld g 0]) ≠ BitVec.ofNat 11 128 := bitsAt_ne (P := 1) (Q := 2048) rfl rfl (by rw [hw]; omega)
  have h8 : bitsAt 0 11 (wordOf 0x7E [fld d 18, fld a 11, lit 49 2, fld g 0]) ≠ BitVec.ofNat 11 144 := bitsAt_ne (P := 1) (Q := 2048) rfl rfl (by rw [hw]; omega)
  have h9 : bitsAt 0 11 (wordOf 0x7E [fld d 18, fld a 11, lit 49 2, fld g 0]) ≠ BitVec.ofNat 11 160 := bitsAt_ne (P := 1) (Q := 2048) rfl rfl (by rw [hw]; omega)
  have h10 : bitsAt 0 11 (wordOf 0x7E [fld d 18, fld a 11, lit 49 2, fld g 0]) ≠ BitVec.ofNat 11 176 := bitsAt_ne (P := 1) (Q := 2048) rfl rfl (by rw [hw]; omega)
  have h11 : bitsAt 18 7 (wordOf 0x7E [fld d 18, fld a 11, lit 49 2, fld g 0]) = d := bitsAt_eq (P := 262144) (Q := 128) rfl rfl (by rw [hw]; omega)
  have h12 : bitsAt 11 7 (wordOf 0x7E [fld d 18, fld a 11, lit 49 2, fld g 0]) = a := bitsAt_eq (P := 2048) (Q := 128) rfl rfl (by rw [hw]; omega)
  have h13 : bitsAt 0 2 (wordOf 0x7E [fld d 18, fld a 11, lit 49 2, fld g 0]) = g := bitsAt_eq (P := 1) (Q := 4) rfl rfl (by rw [hw]; omega)
  refine roundTrip_one rfl h0 (by decide) ((decodeWord_7E h0).trans ?_)
  simp [decodeOp7E, h1, h2, h3, h4, h5, h6, h7, h8, h9, h10, h11, h12, h13]

theorem wrlane (d : BitVec 7) (a : BitVec 7) (g : BitVec 2) : Statement (.wrlane d a g) := by
  have := field_lt d (P := 128) rfl
  have := field_lt a (P := 128) rfl
  have := field_lt g (P := 4) rfl
  have hw : (wordOf 0x7E [fld d 18, fld a 11, lit 52 2, fld g 0]).toNat = 4227858640 + d.toNat * 262144 + a.toNat * 2048 + g.toNat * 1 :=
    wordOf_toNat _ _ (by rw [fld_eq d 18 (P := 262144) rfl, fld_eq a 11 (P := 2048) rfl, fld_eq g 0 (P := 1) rfl]; simp only [lit, sum_field, sum_none]; omega) (by omega)
  have h0 : bitsAt 25 7 (wordOf 0x7E [fld d 18, fld a 11, lit 52 2, fld g 0]) = BitVec.ofNat 7 0x7E := bitsAt_code (P := 33554432) (Q := 128) rfl rfl (by rw [hw]; omega)
  have h1 : bitsAt 0 25 (wordOf 0x7E [fld d 18, fld a 11, lit 52 2, fld g 0]) ≠ BitVec.ofNat 25 0 := bitsAt_ne (P := 1) (Q := 33554432) rfl rfl (by rw [hw]; omega)
  have h2 : bitsAt 2 9 (wordOf 0x7E [fld d 18, fld a 11, lit 52 2, fld g 0]) = BitVec.ofNat 9 52 := bitsAt_code (P := 4) (Q := 512) rfl rfl (by rw [hw]; omega)
  have h3 : bitsAt 3 8 (wordOf 0x7E [fld d 18, fld a 11, lit 52 2, fld g 0]) = BitVec.ofNat 8 26 := bitsAt_code (P := 8) (Q := 256) rfl rfl (by rw [hw]; omega)
  have h4 : bitsAt 2 16 (wordOf 0x7E [fld d 18, fld a 11, lit 52 2, fld g 0]) ≠ BitVec.ofNat 16 20 := bitsAt_ne (P := 4) (Q := 65536) rfl rfl (by rw [hw]; omega)
  have h5 : bitsAt 0 25 (wordOf 0x7E [fld d 18, fld a 11, lit 52 2, fld g 0]) ≠ BitVec.ofNat 25 96 := bitsAt_ne (P := 1) (Q := 33554432) rfl rfl (by rw [hw]; omega)
  have h6 : bitsAt 0 25 (wordOf 0x7E [fld d 18, fld a 11, lit 52 2, fld g 0]) ≠ BitVec.ofNat 25 112 := bitsAt_ne (P := 1) (Q := 33554432) rfl rfl (by rw [hw]; omega)
  have h7 : bitsAt 0 11 (wordOf 0x7E [fld d 18, fld a 11, lit 52 2, fld g 0]) ≠ BitVec.ofNat 11 128 := bitsAt_ne (P := 1) (Q := 2048) rfl rfl (by rw [hw]; omega)
  have h8 : bitsAt 0 11 (wordOf 0x7E [fld d 18, fld a 11, lit 52 2, fld g 0]) ≠ BitVec.ofNat 11 144 := bitsAt_ne (P := 1) (Q := 2048) rfl rfl (by rw [hw]; omega)
  have h9 : bitsAt 0 11 (wordOf 0x7E [fld d 18, fld a 11, lit 52 2, fld g 0]) ≠ BitVec.ofNat 11 160 := bitsAt_ne (P := 1) (Q := 2048) rfl rfl (by rw [hw]; omega)
  have h10 : bitsAt 0 11 (wordOf 0x7E [fld d 18, fld a 11, lit 52 2, fld g 0]) ≠ BitVec.ofNat 11 176 := bitsAt_ne (P := 1) (Q := 2048) rfl rfl (by rw [hw]; omega)
  have h11 : bitsAt 18 7 (wordOf 0x7E [fld d 18, fld a 11, lit 52 2, fld g 0]) = d := bitsAt_eq (P := 262144) (Q := 128) rfl rfl (by rw [hw]; omega)
  have h12 : bitsAt 11 7 (wordOf 0x7E [fld d 18, fld a 11, lit 52 2, fld g 0]) = a := bitsAt_eq (P := 2048) (Q := 128) rfl rfl (by rw [hw]; omega)
  have h13 : bitsAt 0 2 (wordOf 0x7E [fld d 18, fld a 11, lit 52 2, fld g 0]) = g := bitsAt_eq (P := 1) (Q := 4) rfl rfl (by rw [hw]; omega)
  refine roundTrip_one rfl h0 (by decide) ((decodeWord_7E h0).trans ?_)
  simp [decodeOp7E, h1, h2, h3, h4, h5, h6, h7, h8, h9, h10, h11, h12, h13]

theorem bcast (d : BitVec 7) (a : BitVec 7) (s : BitVec 1) (g : BitVec 2) : Statement (.bcast d a s g) := by
  have := field_lt d (P := 128) rfl
  have := field_lt a (P := 128) rfl
  have := field_lt s (P := 2) rfl
  have := field_lt g (P := 4) rfl
  have hw : (wordOf 0x7E [fld d 18, fld a 11, lit 28 3, fld s 2, fld g 0]).toNat = 4227858656 + d.toNat * 262144 + a.toNat * 2048 + s.toNat * 4 + g.toNat * 1 :=
    wordOf_toNat _ _ (by rw [fld_eq d 18 (P := 262144) rfl, fld_eq a 11 (P := 2048) rfl, fld_eq s 2 (P := 4) rfl, fld_eq g 0 (P := 1) rfl]; simp only [lit, sum_field, sum_none]; omega) (by omega)
  have h0 : bitsAt 25 7 (wordOf 0x7E [fld d 18, fld a 11, lit 28 3, fld s 2, fld g 0]) = BitVec.ofNat 7 0x7E := bitsAt_code (P := 33554432) (Q := 128) rfl rfl (by rw [hw]; omega)
  have h1 : bitsAt 0 25 (wordOf 0x7E [fld d 18, fld a 11, lit 28 3, fld s 2, fld g 0]) ≠ BitVec.ofNat 25 0 := bitsAt_ne (P := 1) (Q := 33554432) rfl rfl (by rw [hw]; omega)
  have h2 : bitsAt 2 9 (wordOf 0x7E [fld d 18, fld a 11, lit 28 3, fld s 2, fld g 0]) ≠ BitVec.ofNat 9 4 := bitsAt_ne (P := 4) (Q := 512) rfl rfl (by rw [hw]; omega)
  have h3 : bitsAt 2 9 (wordOf 0x7E [fld d 18, fld a 11, lit 28 3, fld s 2, fld g 0]) ≠ BitVec.ofNat 9 8 := bitsAt_ne (P := 4) (Q := 512) rfl rfl (by rw [hw]; omega)
  have h4 : bitsAt 3 8 (wordOf 0x7E [fld d 18, fld a 11, lit 28 3, fld s 2, fld g 0]) = BitVec.ofNat 8 28 := bitsAt_code (P := 8) (Q := 256) rfl rfl (by rw [hw]; omega)
  have h5 : bitsAt 2 9 (wordOf 0x7E [fld d 18, fld a 11, lit 28 3, fld s 2, fld g 0]) ≠ BitVec.ofNat 9 16 := bitsAt_ne (P := 4) (Q := 512) rfl rfl (by rw [hw]; omega)
  have h6 : bitsAt 2 16 (wordOf 0x7E [fld d 18, fld a 11, lit 28 3, fld s 2, fld g 0]) ≠ BitVec.ofNat 16 20 := bitsAt_ne (P := 4) (Q := 65536) rfl rfl (by rw [hw]; omega)
  have h7 : bitsAt 0 25 (wordOf 0x7E [fld d 18, fld a 11, lit 28 3, fld s 2, fld g 0]) ≠ BitVec.ofNat 25 96 := bitsAt_ne (P := 1) (Q := 33554432) rfl rfl (by rw [hw]; omega)
  have h8 : bitsAt 0 25 (wordOf 0x7E [fld d 18, fld a 11, lit 28 3, fld s 2, fld g 0]) ≠ BitVec.ofNat 25 112 := bitsAt_ne (P := 1) (Q := 33554432) rfl rfl (by rw [hw]; omega)
  have h9 : bitsAt 0 11 (wordOf 0x7E [fld d 18, fld a 11, lit 28 3, fld s 2, fld g 0]) ≠ BitVec.ofNat 11 128 := bitsAt_ne (P := 1) (Q := 2048) rfl rfl (by rw [hw]; omega)
  have h10 : bitsAt 0 11 (wordOf 0x7E [fld d 18, fld a 11, lit 28 3, fld s 2, fld g 0]) ≠ BitVec.ofNat 11 144 := bitsAt_ne (P := 1) (Q := 2048) rfl rfl (by rw [hw]; omega)
  have h11 : bitsAt 0 11 (wordOf 0x7E [fld d 18, fld a 11, lit 28 3, fld s 2, fld g 0]) ≠ BitVec.ofNat 11 160 := bitsAt_ne (P := 1) (Q := 2048) rfl rfl (by rw [hw]; omega)
  have h12 : bitsAt 0 11 (wordOf 0x7E [fld d 18, fld a 11, lit 28 3, fld s 2, fld g 0]) ≠ BitVec.ofNat 11 176 := bitsAt_ne (P := 1) (Q := 2048) rfl rfl (by rw [hw]; omega)
  have h13 : bitsAt 2 9 (wordOf 0x7E [fld d 18, fld a 11, lit 28 3, fld s 2, fld g 0]) ≠ BitVec.ofNat 9 49 := bitsAt_ne (P := 4) (Q := 512) rfl rfl (by rw [hw]; omega)
  have h14 : bitsAt 2 9 (wordOf 0x7E [fld d 18, fld a 11, lit 28 3, fld s 2, fld g 0]) ≠ BitVec.ofNat 9 52 := bitsAt_ne (P := 4) (Q := 512) rfl rfl (by rw [hw]; omega)
  have h15 : bitsAt 18 7 (wordOf 0x7E [fld d 18, fld a 11, lit 28 3, fld s 2, fld g 0]) = d := bitsAt_eq (P := 262144) (Q := 128) rfl rfl (by rw [hw]; omega)
  have h16 : bitsAt 11 7 (wordOf 0x7E [fld d 18, fld a 11, lit 28 3, fld s 2, fld g 0]) = a := bitsAt_eq (P := 2048) (Q := 128) rfl rfl (by rw [hw]; omega)
  have h17 : bitsAt 2 1 (wordOf 0x7E [fld d 18, fld a 11, lit 28 3, fld s 2, fld g 0]) = s := bitsAt_eq (P := 4) (Q := 2) rfl rfl (by rw [hw]; omega)
  have h18 : bitsAt 0 2 (wordOf 0x7E [fld d 18, fld a 11, lit 28 3, fld s 2, fld g 0]) = g := bitsAt_eq (P := 1) (Q := 4) rfl rfl (by rw [hw]; omega)
  refine roundTrip_one rfl h0 (by decide) ((decodeWord_7E h0).trans ?_)
  simp [decodeOp7E, h1, h2, h3, h4, h5, h6, h7, h8, h9, h10, h11, h12, h13, h14, h15, h16, h17, h18]

theorem prefh (a : BitVec 7) (g : BitVec 2) : Statement (.prefh a g) := by
  have := field_lt a (P := 128) rfl
  have := field_lt g (P := 4) rfl
  have hw : (wordOf 0x7E [fld a 11, lit 60 2, fld g 0]).toNat = 4227858672 + a.toNat * 2048 + g.toNat * 1 :=
    wordOf_toNat _ _ (by rw [fld_eq a 11 (P := 2048) rfl, fld_eq g 0 (P := 1) rfl]; simp only [lit, sum_field, sum_none]; omega) (by omega)
  have h0 : bitsAt 25 7 (wordOf 0x7E [fld a 11, lit 60 2, fld g 0]) = BitVec.ofNat 7 0x7E := bitsAt_code (P := 33554432) (Q := 128) rfl rfl (by rw [hw]; omega)
  have h1 : bitsAt 0 25 (wordOf 0x7E [fld a 11, lit 60 2, fld g 0]) ≠ BitVec.ofNat 25 0 := bitsAt_ne (P := 1) (Q := 33554432) rfl rfl (by rw [hw]; omega)
  have h2 : bitsAt 2 9 (wordOf 0x7E [fld a 11, lit 60 2, fld g 0]) = BitVec.ofNat 9 60 := bitsAt_code (P := 4) (Q := 512) rfl rfl (by rw [hw]; omega)
  have h3 : bitsAt 3 8 (wordOf 0x7E [fld a 11, lit 60 2, fld g 0]) = BitVec.ofNat 8 30 := bitsAt_code (P := 8) (Q := 256) rfl rfl (by rw [hw]; omega)
  have h4 : bitsAt 2 16 (wordOf 0x7E [fld a 11, lit 60 2, fld g 0]) ≠ BitVec.ofNat 16 20 := bitsAt_ne (P := 4) (Q := 65536) rfl rfl (by rw [hw]; omega)
  have h5 : bitsAt 0 25 (wordOf 0x7E [fld a 11, lit 60 2, fld g 0]) ≠ BitVec.ofNat 25 96 := bitsAt_ne (P := 1) (Q := 33554432) rfl rfl (by rw [hw]; omega)
  have h6 : bitsAt 0 25 (wordOf 0x7E [fld a 11, lit 60 2, fld g 0]) ≠ BitVec.ofNat 25 112 := bitsAt_ne (P := 1) (Q := 33554432) rfl rfl (by rw [hw]; omega)
  have h7 : bitsAt 0 11 (wordOf 0x7E [fld a 11, lit 60 2, fld g 0]) ≠ BitVec.ofNat 11 128 := bitsAt_ne (P := 1) (Q := 2048) rfl rfl (by rw [hw]; omega)
  have h8 : bitsAt 0 11 (wordOf 0x7E [fld a 11, lit 60 2, fld g 0]) ≠ BitVec.ofNat 11 144 := bitsAt_ne (P := 1) (Q := 2048) rfl rfl (by rw [hw]; omega)
  have h9 : bitsAt 0 11 (wordOf 0x7E [fld a 11, lit 60 2, fld g 0]) ≠ BitVec.ofNat 11 160 := bitsAt_ne (P := 1) (Q := 2048) rfl rfl (by rw [hw]; omega)
  have h10 : bitsAt 0 11 (wordOf 0x7E [fld a 11, lit 60 2, fld g 0]) ≠ BitVec.ofNat 11 176 := bitsAt_ne (P := 1) (Q := 2048) rfl rfl (by rw [hw]; omega)
  have h11 : bitsAt 18 7 (wordOf 0x7E [fld a 11, lit 60 2, fld g 0]) = BitVec.ofNat 7 0 := bitsAt_code (P := 262144) (Q := 128) rfl rfl (by rw [hw]; omega)
  have h12 : bitsAt 11 7 (wordOf 0x7E [fld a 11, lit 60 2, fld g 0]) = a := bitsAt_eq (P := 2048) (Q := 128) rfl rfl (by rw [hw]; omega)
  have h13 : bitsAt 0 2 (wordOf 0x7E [fld a 11, lit 60 2, fld g 0]) = g := bitsAt_eq (P := 1) (Q := 4) rfl rfl (by rw [hw]; omega)
  refine roundTrip_one rfl h0 (by decide) ((decodeWord_7E h0).trans ?_)
  simp [decodeOp7E, h1, h2, h3, h4, h5, h6, h7, h8, h9, h10, h11, h12, h13]

theorem parkc (n : BitVec 7) : Statement (.parkc n) := by
  have := field_lt n (P := 128) rfl
  have hw : (wordOf 0x7E [fld n 11, lit 256 0]).toNat = 4227858688 + n.toNat * 2048 :=
    wordOf_toNat _ _ (by rw [fld_eq n 11 (P := 2048) rfl]; simp only [lit, sum_field, sum_none]; omega) (by omega)
  have h0 : bitsAt 25 7 (wordOf 0x7E [fld n 11, lit 256 0]) = BitVec.ofNat 7 0x7E := bitsAt_code (P := 33554432) (Q := 128) rfl rfl (by rw [hw]; omega)
  have h1 : bitsAt 0 25 (wordOf 0x7E [fld n 11, lit 256 0]) ≠ BitVec.ofNat 25 0 := bitsAt_ne (P := 1) (Q := 33554432) rfl rfl (by rw [hw]; omega)
  have h2 : bitsAt 2 9 (wordOf 0x7E [fld n 11, lit 256 0]) = BitVec.ofNat 9 64 := bitsAt_code (P := 4) (Q := 512) rfl rfl (by rw [hw]; omega)
  have h3 : bitsAt 3 8 (wordOf 0x7E [fld n 11, lit 256 0]) = BitVec.ofNat 8 32 := bitsAt_code (P := 8) (Q := 256) rfl rfl (by rw [hw]; omega)
  have h4 : bitsAt 2 16 (wordOf 0x7E [fld n 11, lit 256 0]) ≠ BitVec.ofNat 16 20 := bitsAt_ne (P := 4) (Q := 65536) rfl rfl (by rw [hw]; omega)
  have h5 : bitsAt 0 25 (wordOf 0x7E [fld n 11, lit 256 0]) ≠ BitVec.ofNat 25 96 := bitsAt_ne (P := 1) (Q := 33554432) rfl rfl (by rw [hw]; omega)
  have h6 : bitsAt 0 25 (wordOf 0x7E [fld n 11, lit 256 0]) ≠ BitVec.ofNat 25 112 := bitsAt_ne (P := 1) (Q := 33554432) rfl rfl (by rw [hw]; omega)
  have h7 : bitsAt 0 11 (wordOf 0x7E [fld n 11, lit 256 0]) = BitVec.ofNat 11 256 := bitsAt_code (P := 1) (Q := 2048) rfl rfl (by rw [hw]; omega)
  have h8 : bitsAt 18 7 (wordOf 0x7E [fld n 11, lit 256 0]) = BitVec.ofNat 7 0 := bitsAt_code (P := 262144) (Q := 128) rfl rfl (by rw [hw]; omega)
  have h9 : bitsAt 11 7 (wordOf 0x7E [fld n 11, lit 256 0]) = n := bitsAt_eq (P := 2048) (Q := 128) rfl rfl (by rw [hw]; omega)
  refine roundTrip_one rfl h0 (by decide) ((decodeWord_7E h0).trans ?_)
  simp [decodeOp7E, h1, h2, h3, h4, h5, h6, h7, h8, h9]

theorem tileOpComplete (wave : Nat) : Statement (.tileOpComplete wave) := roundTrip_event rfl

theorem illegalEncoding (word : Word) : Statement (.illegalEncoding word) := roundTrip_event rfl

theorem fetchFault (va : Addr) : Statement (.fetchFault va) := roundTrip_event rfl

theorem queuedCommandStart (ctx : Nat) (q : Nat) : Statement (.queuedCommandStart ctx q) := roundTrip_event rfl

theorem copyUnit (ctx : Nat) (q : Nat) : Statement (.copyUnit ctx q) := roundTrip_event rfl

theorem gseRow (ctx : Nat) (q : Nat) : Statement (.gseRow ctx q) := roundTrip_event rfl

theorem macRun (ctx : Nat) (cl : Nat) (mism : Nat) (tile : Nat) : Statement (.macRun ctx cl mism tile) := roundTrip_event rfl

theorem queuedCommandComplete (ctx : Nat) (q : Nat) : Statement (.queuedCommandComplete ctx q) := roundTrip_event rfl

theorem loadb (ctx : Nat) (cl : Nat) : Statement (.loadb ctx cl) := roundTrip_event rfl

theorem contract (ctx : Nat) (cl : Nat) : Statement (.contract ctx cl) := roundTrip_event rfl

theorem dense (ctx : Nat) (cl : Nat) : Statement (.dense ctx cl) := roundTrip_event rfl

theorem conv3 (ctx : Nat) (cl : Nat) : Statement (.conv3 ctx cl) := roundTrip_event rfl

theorem ups2 (ctx : Nat) (cl : Nat) : Statement (.ups2 ctx cl) := roundTrip_event rfl

theorem act (ctx : Nat) (cl : Nat) : Statement (.act ctx cl) := roundTrip_event rfl

theorem perm (ctx : Nat) (cl : Nat) : Statement (.perm ctx cl) := roundTrip_event rfl

theorem storeb (ctx : Nat) (cl : Nat) : Statement (.storeb ctx cl) := roundTrip_event rfl

theorem splitParts (ctx : Nat) (cl : Nat) : Statement (.splitParts ctx cl) := roundTrip_event rfl

theorem endSplit (ctx : Nat) (cl : Nat) : Statement (.endSplit ctx cl) := roundTrip_event rfl

theorem env (ctx : Nat) (cl : Nat) : Statement (.env ctx cl) := roundTrip_event rfl

theorem endProg (ctx : Nat) (cl : Nat) : Statement (.endProg ctx cl) := roundTrip_event rfl

theorem parkcTimeout (wave : Nat) : Statement (.parkcTimeout wave) := roundTrip_event rfl

theorem loadLands (wave : Nat) (idx : Nat) : Statement (.loadLands wave idx) := roundTrip_event rfl

theorem storePerformed (wave : Nat) (idx : Nat) : Statement (.storePerformed wave idx) := roundTrip_event rfl

theorem monwRecheck (slice : Nat) : Statement (.monwRecheck slice) := roundTrip_event rfl

theorem regionJoin (tile : Nat) : Statement (.regionJoin tile) := roundTrip_event rfl

theorem drainCombine (idx : Nat) : Statement (.drainCombine idx) := roundTrip_event rfl

theorem drainAck (idx : Nat) : Statement (.drainAck idx) := roundTrip_event rfl

theorem regionRead (tile : Nat) : Statement (.regionRead tile) := roundTrip_event rfl

theorem l1Evict (cid : Nat) (line : Nat) : Statement (.l1Evict cid line) := roundTrip_event rfl

theorem waveRetire (wave : Nat) : Statement (.waveRetire wave) := roundTrip_event rfl

theorem regreqGrant (cid : Nat) (part : Nat) : Statement (.regreqGrant cid part) := roundTrip_event rfl

theorem spillWave (cid : Nat) (part : Nat) : Statement (.spillWave cid part) := roundTrip_event rfl

theorem spillReturn (wave : Nat) : Statement (.spillReturn wave) := roundTrip_event rfl

theorem monwSpill (wave : Nat) : Statement (.monwSpill wave) := roundTrip_event rfl

theorem waveExchange (cid : Nat) (part : Nat) : Statement (.waveExchange cid part) := roundTrip_event rfl

theorem waveAgeBoost (wave : Nat) : Statement (.waveAgeBoost wave) := roundTrip_event rfl

theorem lqbell (n : Nat) : Statement (.lqbell n) := roundTrip_event rfl

theorem launchAccept (n : Nat) : Statement (.launchAccept n) := roundTrip_event rfl

theorem groupPlace : Statement (.groupPlace) := roundTrip_event rfl

theorem placementReserve (lid : Nat) : Statement (.placementReserve lid) := roundTrip_event rfl

theorem launchComplete (lid : Nat) : Statement (.launchComplete lid) := roundTrip_event rfl

theorem rayTraverse (ray : Nat) : Statement (.rayTraverse ray) := roundTrip_event rfl

theorem binAgeFlush (bin : Nat) : Statement (.binAgeFlush bin) := roundTrip_event rfl

theorem rayRefill (cl : Nat) (ctx : Nat) : Statement (.rayRefill cl ctx) := roundTrip_event rfl

theorem groupHaltComplete (group : Nat) : Statement (.groupHaltComplete group) := roundTrip_event rfl

theorem resume (ctx : Nat) (seq : Nat) : Statement (.resume ctx seq) := roundTrip_event rfl

theorem skip (ctx : Nat) (seq : Nat) : Statement (.skip ctx seq) := roundTrip_event rfl

theorem cancel (ctx : Nat) (seq : Nat) : Statement (.cancel ctx seq) := roundTrip_event rfl

theorem kill (ctx : Nat) (seq : Nat) : Statement (.kill ctx seq) := roundTrip_event rfl

theorem trapreplyInvalid (value : Addr) : Statement (.trapreplyInvalid value) := roundTrip_event rfl

theorem tqerrClear (value : Word) : Statement (.tqerrClear value) := roundTrip_event rfl

theorem engineStatusClear (reg : Reg) (value : Word) : Statement (.engineStatusClear reg value) := roundTrip_event rfl

theorem ctxNone (ctx : Nat) : Statement (.ctxNone ctx) := roundTrip_event rfl

theorem switchIn (ctx : Nat) : Statement (.switchIn ctx) := roundTrip_event rfl

theorem switchOut (ctx : Nat) : Statement (.switchOut ctx) := roundTrip_event rfl

theorem killContext (ctx : Nat) : Statement (.killContext ctx) := roundTrip_event rfl

theorem killLaunch (ctx : Nat) : Statement (.killLaunch ctx) := roundTrip_event rfl

theorem haltContext (ctx : Nat) : Statement (.haltContext ctx) := roundTrip_event rfl

theorem ctxReservedOp (ctx : Nat) (op : Nat) : Statement (.ctxReservedOp ctx op) := roundTrip_event rfl

theorem contextOpComplete : Statement (.contextOpComplete) := roundTrip_event rfl

theorem invalidationRequest (ctx : Nat) (lo : Nat) (hi : Nat) : Statement (.invalidationRequest ctx lo hi) := roundTrip_event rfl

theorem invalidationComplete : Statement (.invalidationComplete) := roundTrip_event rfl

theorem domainWrite (value : Word) : Statement (.domainWrite value) := roundTrip_event rfl

theorem linkctlWrite (n : Nat) (value : Word) : Statement (.linkctlWrite n value) := roundTrip_event rfl

theorem registerWrite (reg : Reg) (value : Addr) : Statement (.registerWrite reg value) := roundTrip_event rfl

theorem linkUp (port : Nat) (did : Nat) : Statement (.linkUp port did) := roundTrip_event rfl

theorem flitReceive (port : Nat) (flit : List Byte) : Statement (.flitReceive port flit) := roundTrip_event rfl

theorem nakReceive (port : Nat) (ack : Nat) : Statement (.nakReceive port ack) := roundTrip_event rfl

theorem linkRead (port : Nat) : Statement (.linkRead port) := roundTrip_event rfl

theorem linkWrite (port : Nat) : Statement (.linkWrite port) := roundTrip_event rfl

theorem linkAtomic (port : Nat) : Statement (.linkAtomic port) := roundTrip_event rfl

theorem linkEnq (port : Nat) : Statement (.linkEnq port) := roundTrip_event rfl

theorem linkDeq (port : Nat) : Statement (.linkDeq port) := roundTrip_event rfl

theorem linkMonw (port : Nat) : Statement (.linkMonw port) := roundTrip_event rfl

theorem linkInvalidate (port : Nat) : Statement (.linkInvalidate port) := roundTrip_event rfl

theorem linkDrain (port : Nat) : Statement (.linkDrain port) := roundTrip_event rfl

theorem linkResponse (port : Nat) : Statement (.linkResponse port) := roundTrip_event rfl

theorem linkWake (port : Nat) : Statement (.linkWake port) := roundTrip_event rfl

theorem linkLost (peer : Nat) : Statement (.linkLost peer) := roundTrip_event rfl

theorem hostRead (reg : Option Reg) (addr : Nat) (len : Nat) : Statement (.hostRead reg addr len) := roundTrip_event rfl

theorem hostWrite (reg : Option Reg) (value : Addr) (addr : Nat) (data : List Byte) : Statement (.hostWrite reg value addr data) := roundTrip_event rfl

theorem deviceReset (image : List Byte) (key : List Byte) (sig : List Byte) (keyidx : Nat) (version : Nat) : Statement (.deviceReset image key sig keyidx version) := roundTrip_event rfl

theorem extend (pcm : Nat) (data : List Byte) : Statement (.extend pcm data) := roundTrip_event rfl

theorem quote (nonce : List Byte) : Statement (.quote nonce) := roundTrip_event rfl

theorem alarm (sources : BitVec 6) : Statement (.alarm sources) := roundTrip_event rfl

theorem clockStepDown : Statement (.clockStepDown) := roundTrip_event rfl

theorem clockStepUp : Statement (.clockStepUp) := roundTrip_event rfl

theorem controlCoreRead (addr : Nat) (len : Nat) : Statement (.controlCoreRead addr len) := roundTrip_event rfl

theorem controlCoreWrite (addr : Nat) (data : List Byte) : Statement (.controlCoreWrite addr data) := roundTrip_event rfl

theorem softError (site : Site) (correctable : Bool) : Statement (.softError site correctable) := roundTrip_event rfl

end Sys2Proof.Laws.Encoding
end

