-- ==== Sys2Proof/Laws/Wire.lean ====
section
/-! SUPPORT. Numbers as little-endian bytes, and the flits of a link: a flit that a port makes passes its own check. -/

namespace Sys2Proof.Machine

set_option Elab.async false

theorem bytesOf_succ (n v : Nat) : bytesOf (n + 1) v = BitVec.ofNat 8 v :: bytesOf n (v / 256) := by
  simp only [bytesOf, List.range_succ_eq_map, List.map_cons, Nat.pow_zero, Nat.div_one, List.map_map]
  congr 1
  refine List.map_congr_left (fun i _ => ?_)
  simp only [Function.comp, Nat.pow_succ', Nat.div_div_eq_div_mul]

@[simp] theorem bytesOf_length (n v : Nat) : (bytesOf n v).length = n := by simp [bytesOf]

theorem ofBytes_bytesOf (n v : Nat) : ofBytes (bytesOf n v) = v % 256 ^ n := by
  induction n generalizing v with
  | zero => simp [bytesOf, ofBytes, Nat.mod_one]
  | succ n ih =>
    rw [bytesOf_succ, ofBytes, ih, Nat.pow_succ', Nat.mod_mul]
    simp

theorem crcBit_lt (c : Nat) (h : c < 2 ^ 64) : crcBit c < 2 ^ 64 := by
  unfold crcBit
  split
  · exact Nat.xor_lt_two_pow (Nat.mod_lt _ (by decide)) (by decide)
  · omega

theorem crcByte_lt (c : Nat) (b : Byte) (h : c < 2 ^ 64) : crcByte c b < 2 ^ 64 := by
  have hb : b.toNat * 2 ^ 56 < 2 ^ 64 := by have := b.isLt; omega
  have hx : c.xor (b.toNat * 2 ^ 56) < 2 ^ 64 := Nat.xor_lt_two_pow h hb
  unfold crcByte
  generalize c.xor (b.toNat * 2 ^ 56) = x at hx ⊢
  exact crcBit_lt _ (crcBit_lt _ (crcBit_lt _ (crcBit_lt _ (crcBit_lt _ (crcBit_lt _ (crcBit_lt _ (crcBit_lt _ hx)))))))

theorem foldl_crcByte_lt (bs : List Byte) : ∀ c, c < 2 ^ 64 → bs.foldl crcByte c < 2 ^ 64 := by
  induction bs with
  | nil => intro c h; simpa only [List.foldl_nil] using h
  | cons b bs ih => intro c h; rw [List.foldl_cons]; exact ih (crcByte c b) (crcByte_lt c b h)

theorem crc64_lt (bs : List Byte) : crc64 bs < 2 ^ 64 := foldl_crcByte_lt bs 0 (Nat.two_pow_pos 64)

theorem padTo_length (n : Nat) (bs : List Byte) : (padTo n bs).length = n := by
  simp only [padTo, List.length_take, List.length_append, List.length_replicate]
  omega

/-- The 248 bytes of a flit before its CRC. -/
theorem flitBytes_split (seq ack kind cls did : Nat) (payload : List Byte) : ∃ body, body.length = 248 ∧
    flitBytes seq ack kind cls did payload = body ++ bytesOf 8 (crc64 body) ∧
    body = bytesOf 2 seq ++ bytesOf 2 ack ++ bytesOf 1 kind ++ bytesOf 1 cls ++ bytesOf 1 did ++ [0] ++ padTo 240 payload :=
  ⟨_, by simp [padTo_length], rfl, rfl⟩

/-- A flit of a defined kind, class and device passes the check of R390. -/
theorem flitGood_flitBytes (seq ack kind cls did : Nat) (payload : List Byte) (hk : kind ≤ 2) (hc : cls < 4) (hd : did < 8) :
    flitGood (flitBytes seq ack kind cls did payload) = true := by
  have field (i v : Nat) (e : flitField (flitBytes seq ack kind cls did payload) i 1 = v % 256) (h : v < 256) :
      flitField (flitBytes seq ack kind cls did payload) i 1 = v := by rw [e]; exact Nat.mod_eq_of_lt h
  have h4 := field 4 kind (by simp [flitField, flitBytes, bytesOf, ofBytes, List.range_succ]) (by omega)
  have h5 := field 5 cls (by simp [flitField, flitBytes, bytesOf, ofBytes, List.range_succ]) (by omega)
  have h6 := field 6 did (by simp [flitField, flitBytes, bytesOf, ofBytes, List.range_succ]) (by omega)
  have h7 := field 7 0 (by simp [flitField, flitBytes, bytesOf, ofBytes, List.range_succ]) (by omega)
  obtain ⟨body, hl, hf, -⟩ := flitBytes_split seq ack kind cls did payload
  have hb := crc64_lt body
  rw [hf] at h4 h5 h6 h7
  simp only [flitGood, h4, h5, h6, h7, hf, Bool.and_eq_true, beq_iff_eq, decide_eq_true_eq]
  refine ⟨⟨⟨⟨⟨by simp [hl], ?_⟩, hk⟩, hc⟩, hd⟩, trivial⟩
  rw [flitField, List.drop_left' hl, List.take_left' hl, List.take_of_length_le (by simp), ofBytes_bytesOf]
  exact Nat.mod_eq_of_lt (by simpa using hb)

end Sys2Proof.Machine
end

