-- ==== Sys2Proof/Tests/Slice0.lean ====
section
/-! SUPPORT. The model's own tests: a witness for every statement's hypotheses, the WellFormed smoke tests, decoding by hand-written words, and one-step results the manual states. -/

namespace Sys2Proof.Machine

-- One test after another: tests that wait for the kernel would otherwise each hold a thread.
set_option Elab.async false

/-! ### A small state: one wave, its lane 0 issuing -/

/-- Registers v0 to v15 of lane 0: vn holds 2^n with a format of its own. -/
def tRegs (tag : Nat → BitVec 6) : SMap VCell := (List.range 16).map (fun n => (cellAt n 0, ⟨BitVec.ofNat 32 (2 ^ n), tag n, false⟩))
/-- Its wave, with scalar registers s0 to s15 as given and 0 above. -/
def tWave (tag : Nat → BitVec 6) (sc : List Word) : Wave :=
  { placedBirth.wave 0 0 with active := true, regs := tRegs tag, scalars := (List.range 64).map (fun i => (i, sc.getD i 0)) }
/-- The issue of lane 0 at the program's start. -/
def tIssue : Issue := ⟨0, 1, 0x10000, 4, 0, none⟩
/-- A state that is about to perform an issue of a wave w. -/
def tPut (w : Wave) : State := { (State.reset.loadProgram []).setWave 0 w with cur := some tIssue, agenda := [] }
def tState (tag : Nat → BitVec 6) (sc : List Word) : State := tPut (tWave tag sc)

/-- Every operand is legal and full. -/
def tFit (w : Wave) (ops : List Opnd) : Bool :=
  (w.guarded 1 0 == 1) && ops.all (fun o => !o.bad w) && !w.emptyIn ops 1 && w.tx.isEmpty

theorem tIssues {w : Wave} {g : Option Nat} {ops : List Opnd} {tile : Bool} {reach : Wave → List Site} (hg : g = none ∨ g = some 0) (hf : tFit w ops = true) :
    Issues (tPut w) tIssue w g ops tile 1 reach := by
  simp only [tFit, Bool.and_eq_true, beq_iff_eq, List.all_eq_true, Bool.not_eq_true', List.isEmpty_iff] at hf
  obtain ⟨⟨⟨h1, h2⟩, h3⟩, h4⟩ := hf
  refine ⟨rfl, ?_, ?_, by decide, h2, h3, ?_, rfl⟩
  · exact SMap.find?_put_self _ 0 w
  · rcases hg with rfl | rfl
    · rfl
    · exact h1.symm
  · intro _ o _ n _ hn
    simp [Wave.tileBusy, h4] at hn

/-- Some issue meets every hypothesis of a statement that an instruction has effect e. -/
def Witnessed (e : Effect) : Prop := ∃ s iss w lanes, Issues s iss w e.guard e.ops false lanes e.reach ∧ e.tags w lanes

theorem witnessed {e : Effect} (w : Wave) (hg : e.guard = none ∨ e.guard = some 0) (hf : tFit w e.ops = true) (ht : e.tags w 1) :
    Witnessed e := ⟨_, _, w, _, tIssues hg hf, ht⟩

/-- A hypothesis on the registers of a group, with its bounds where they can be decided. -/
theorem tOrder {m : Word} {k : Nat} {P : Nat → Nat → Prop} (h : ∀ l, l < 32 → m.getLsbD l = true → ∀ j, j < k → P l j) :
    ∀ l j, l < 32 → m.getLsbD l = true → j < k → P l j := fun l j hl hm hj => h l hl hm j hj

theorem tGroup {f : BitVec 7} {k : Nat} {t : BitVec 6} {w : Wave} {m : Word}
    (h : ∀ l, l < 32 → m.getLsbD l = true → ∀ j, j < k → (w.grp f j l).tag = t ∨ (w.grp f j l).tag = 0) : groupTagged f k t w m := tOrder h

def x32 : Nat → BitVec 6 := fun _ => 0
def f32s : Nat → BitVec 6 := fun _ => 1

/-! ### The statements' hypotheses can be met: vector and scalar arithmetic -/

theorem witness_VectorIntegerResults : Witnessed (vecABD 1 2 3 0 0 (fun w l => ⟨(w.src 2 l).val + (w.src 3 l).val, 0⟩)) :=
  witnessed (tWave x32 []) (.inr rfl) (by decide) trivial

/-- A count of 32 in v5, and of 31 in s1. -/
theorem witness_RegisterShifts : Witnessed (vecABD 1 2 5 0 0 (fun w l => ⟨shiftLeft (w.src 2 l).val (w.src 5 l).val, 0⟩)) ∧
    ((tWave x32 []).src 5 0).val = 32 ∧
    Witnessed (scalarABD 2 [0, 1] (fun _ w => shiftLeft (w.sget 0) (w.sget 1)) (fun _ => 0)) ∧ (tWave x32 [1, 31]).sget 1 = 31 :=
  ⟨witnessed (tWave x32 []) (.inr rfl) (by decide) trivial, by decide, witnessed (tWave x32 [1, 31]) (.inl rfl) (by decide) trivial, by decide⟩

theorem witness_UnaryIntegerResults : (3 : BitVec 2) ≠ 2 ∧ Witnessed (vecAD 1 2 0 3 (fun w l => ⟨~~~(w.src 2 l).val, 0⟩)) ∧
    Witnessed (vecD 1 0 3 (fun _ l => ⟨BitVec.ofNat 32 l, 0⟩)) :=
  ⟨by decide, witnessed (tWave x32 []) (.inr rfl) (by decide) trivial, witnessed (tWave x32 []) (.inr rfl) (by decide) trivial⟩

theorem witness_ImmediateResults : Witnessed (immAD 1 2 (fun iss w l => (w.grp 2 0 l).val + (iss.immB 0x7FF).setWidth 32)) ∧
    Witnessed (immD 1 (fun iss => (iss.immC 5).setWidth 32)) ∧ Witnessed (scalarABD 1 [2] (fun _ w => w.sget 2) (fun _ => 0)) ∧
    tIssue.ext = none ∧ ({ tIssue with ext := some 3 } : Issue).ext = some 3 :=
  ⟨witnessed (tWave x32 []) (.inl rfl) (by decide) trivial, witnessed (tWave x32 []) (.inl rfl) (by decide) trivial,
    witnessed (tWave x32 []) (.inl rfl) (by decide) trivial, rfl, rfl⟩

theorem witness_AddressArithmetic : Witnessed (leaOf 0 2 4 0 3) := witnessed (tWave x32 []) (.inr rfl) (by decide) trivial

theorem witness_ScalarIntegerResults : Witnessed (scalarABD 1 [2, 3] (fun _ w => w.sget 2 + w.sget 3) (fun _ => 0)) :=
  witnessed (tWave x32 []) (.inl rfl) (by decide) trivial

theorem witness_ScalarAddImmediate : Issues (tState x32 []) tIssue (tWave x32 []) none [.scl 63 1, .scl 0 1] false 1 ∧
    (tWave x32 []).sneed < (tWave x32 []).sb + (64 : BitVec 7).toNat + 1 ∧ tIssue.batch ≠ 0 :=
  ⟨tIssues (.inl rfl) (by decide), by decide, by decide⟩

theorem witness_FloatArithmeticResults : Witnessed (floatABD 1 1 1 2 3 0 0 (fun w x y _ => fadd w.rm x y)) ∧
    Witnessed (floatABDC 1 1 1 2 3 0 0 (fun w x y c => ffma w.rm x y c)) :=
  ⟨witnessed (tWave f32s []) (.inr rfl) (by decide) ⟨by unfold tagged; decide, by unfold tagged; decide⟩,
    witnessed (tWave f32s []) (.inr rfl) (by decide) ⟨by unfold tagged; decide, by unfold tagged; decide, tGroup (by decide)⟩⟩

theorem witness_FloatUnaryResults : (1 : BitVec 2) ≠ 2 ∧ Witnessed (floatAD 1 2 0 1 (fun w x => frcp w.rm x)) :=
  ⟨by decide, witnessed (tWave f32s []) (.inr rfl) (by decide) (by unfold floatAD tagged; decide)⟩

/-- v1 and the accumulator in F32, v2 and v3 in F16x2, a binary8 format or I8x4. -/
def mixed (t : BitVec 6) : Nat → BitVec 6 := fun n => if n < 2 then 1 else t

theorem witness_PackedAndDotResults : Witnessed (floatABD 2 2 1 2 3 0 0 (fun w x y _ => halves (fun x y _ => mulF16 w.rm x y) x y 0)) ∧
    Witnessed (floatABDC 2 1 1 2 3 0 0 (fun w x y c =>
      dotF32 w.rm [(f16 (x.toNat % 65536), f16 (y.toNat % 65536)), (f16 (x.toNat / 65536), f16 (y.toNat / 65536))] [f32 c])) ∧
    Witnessed (dot4Float 1 2 3 0 0) ∧ Witnessed (dot4Int 1 2 3 0 0) :=
  ⟨witnessed (tWave (mixed 2) []) (.inr rfl) (by decide) ⟨by unfold tagged; decide, by unfold tagged; decide⟩,
    witnessed (tWave (mixed 2) []) (.inr rfl) (by decide) ⟨by unfold tagged; decide, by unfold tagged; decide, tGroup (by decide)⟩,
    witnessed (tWave (mixed 16) []) (.inr rfl) (by decide) ⟨tGroup (by decide), by decide⟩,
    witnessed (tWave (mixed 48) []) (.inr rfl) (by decide) (by unfold dot4Int; decide)⟩

theorem witness_ComplexResults : Witnessed (complexABD true 0 2 4 0 (fun m x y c =>
      (dotF32 m [(x.1, y.1), (x.2.flip, y.2)] [c.1], dotF32 m [(x.1, y.2), (x.2, y.1)] [c.2]))) ∧
    Witnessed (complexAD 1 2 0) ∧ Witnessed (complexOf 0 2 0) ∧ Witnessed (complexScale 0 2 4 0) :=
  ⟨witnessed (tWave (fun _ => 4) []) (.inr rfl) (by decide) ⟨tGroup (by decide), tGroup (by decide), fun _ => tGroup (by decide)⟩,
    witnessed (tWave (fun _ => 4) []) (.inr rfl) (by decide) (tGroup (by decide)),
    witnessed (tWave f32s []) (.inr rfl) (by decide) (by unfold complexOf tagged; decide),
    witnessed (tWave (fun n => if n < 4 then 4 else 1) []) (.inr rfl) (by decide) ⟨tGroup (by decide), by unfold tagged; decide⟩⟩

theorem witness_ScalarFloatResults : Witnessed (scalarFloat 1 [2, 3] (fun w => fadd w.rm (w.sget 2) (w.sget 3))) :=
  witnessed (tWave x32 []) (.inl rfl) (by decide) trivial

theorem witness_CompareResults : (5 : BitVec 4).toNat < 6 ∧ Witnessed (compareAB 5 1 2 3 0 (fun x y => compare x.toInt y.toInt)) ∧
    Witnessed (compareAI 5 1 2 0) ∧ (12 : BitVec 4).toNat < 13 ∧ Witnessed (compareFloat 1 12 1 2 3 0 (fun x y => [(f32 x, f32 y)])) :=
  ⟨by decide, witnessed (tWave x32 []) (.inr rfl) (by decide) trivial, witnessed (tWave x32 []) (.inl rfl) (by decide) trivial, by decide,
    witnessed (tWave f32s []) (.inr rfl) (by decide) ⟨by unfold tagged; decide, by unfold tagged; decide⟩⟩

theorem witness_PredicateResults : (2 : BitVec 2) ≠ 3 ∧ Witnessed (predEffect 0 (fun _ _ _ _ f => f.setPred 7 true)) ∧
    (7 : BitVec 7).toNat < 8 ∧ (15 : BitVec 7).toNat < 16 ∧ Witnessed (readsEffect 0 [.src 2] (fun _ _ f => f)) ∧
    Witnessed (laneResult 1 0 [] (fun _ lanes _ _ => ⟨lanes, 0⟩)) :=
  ⟨by decide, witnessed (tWave x32 []) (.inr rfl) (by decide) trivial, by decide, by decide,
    witnessed (tWave x32 []) (.inr rfl) (by decide) trivial, witnessed (tWave x32 []) (.inr rfl) (by decide) trivial⟩

/-- Every lane of v0 to v15 holds 0 in one format. -/
def tFull (tag : BitVec 6) : Wave :=
  { tWave x32 [] with regs := (List.range 512).map (fun i => (i, ⟨0, tag, false⟩)) }

theorem witness_ConversionResults : cvtOk 0 3 = true ∧ tagDefined 3 = true ∧ Witnessed (convertOf 1 2 0 3 0 0) ∧
    packOk 0 16 = true ∧ Witnessed (packOf 8 4 0 16 0 3) ∧ (0 : BitVec 2) ≠ 3 ∧ Witnessed (widenOf 4 2 0 0 1) ∧
    Witnessed (expandOf 2 4 0) ∧ Witnessed (vecAD 1 2 0 0 (fun w l => ⟨(w.src 2 l).val, 16⟩)) ∧ Witnessed (shuffleOf 1 2 3 0 0) :=
  ⟨by decide, by decide, witnessed (tWave (fun _ => 2) []) (.inr rfl) (by decide) (by unfold convertOf; decide), by decide,
    witnessed (tWave f32s []) (.inr rfl) (by decide) (tGroup (by decide)), by decide,
    witnessed (tWave (fun _ => 2) []) (.inr rfl) (by decide) (by unfold widenOf; decide),
    witnessed (tFull 0) (.inr rfl) (by decide +kernel) ⟨tGroup (by decide +kernel), by decide +kernel⟩,
    witnessed (tWave x32 []) (.inr rfl) (by decide) trivial, witnessed (tWave x32 []) (.inr rfl) (by decide) trivial⟩

/-! ### Tile instructions -/

/-- v0 to v3 of every lane hold 0 in format t, v4 to v15 hold 0 in F32. -/
def tTile (t : BitVec 6) : Wave :=
  { tWave x32 [] with regs := (List.range 512).map (fun i => (i, ⟨0, if i < 128 then t else 1, false⟩)) }

def WitnessedTile (e : Effect) : Prop := ∃ s iss w lanes, Issues s iss w none e.ops true lanes e.reach ∧ w.tx.length < 63 ∧ e.tags w lanes

theorem witnessedTile {e : Effect} (w : Wave) (hf : tFit w e.ops = true) (ht : e.tags w 1) : WitnessedTile e := by
  refine ⟨_, _, w, _, tIssues (.inl rfl) hf, ?_, ht⟩
  simp only [tFit, Bool.and_eq_true, List.isEmpty_iff] at hf
  simp [hf.2]

theorem witness_TileResults : (1 : BitVec 2).toNat < 2 ∧ (5 : BitVec 3).toNat < 6 ∧ tcvtOk 3 = true ∧ (2 : BitVec 2) ≠ 3 ∧
    WitnessedTile (multiplyOf false 16 8 0 0 1) ∧ WitnessedTile (multiplyOf true 32 8 0 0 0) ∧ WitnessedTile (multiplyOf true 64 8 0 0 0) ∧
    WitnessedTile (transposeHalves 8 0 1) ∧ WitnessedTile (convertTile 0 8 0 2) ∧ WitnessedTile (reduceOf 0 8 2 1) ∧
    WitnessedTile (accOf 8 [.vec 8 8 8] (groupTagged 8 8 1) (fun w _ r c => actFn 5 (w.accWord 8 r c))) :=
  ⟨by decide, by decide, by decide, by decide,
    witnessedTile (tTile 2) (by decide +kernel) ⟨tOrder (by decide +kernel), tGroup (by decide +kernel), fun h => absurd rfl h⟩,
    witnessedTile (tTile 16) (by decide +kernel) ⟨tOrder (by decide +kernel), tGroup (by decide +kernel), fun _ => tGroup (by decide +kernel)⟩,
    witnessedTile (tTile 50) (by decide +kernel) ⟨tOrder (by decide +kernel), tGroup (by decide +kernel), fun _ => tGroup (by decide +kernel)⟩,
    witnessedTile (tTile 3) (by decide +kernel) ⟨by decide +kernel, tOrder (by decide +kernel)⟩,
    witnessedTile (tTile 2) (by decide +kernel) (tGroup (by decide +kernel)), witnessedTile (tTile 2) (by decide +kernel) (tGroup (by decide +kernel)),
    witnessedTile (tTile 2) (by decide +kernel) (tGroup (by decide +kernel))⟩

/-! ### Memory: v0 to v3 of lane 0 hold two addresses, and the first 2 MiB are mapped to themselves -/

/-- A wave whose lane 0 holds the given words, tagged X32 and F32 alternately from v4 on. -/
def tAt (vals : List Word) (sc : List Word) : Wave :=
  { tWave x32 sc with regs := (List.range 16).map (fun n => (cellAt n 0, ⟨vals.getD n 0, if n < 4 then 0 else 1, false⟩)) }

def WitnessedIn (c : Option Ctr) (e : Effect) (out : Outside) : Prop :=
  ∃ s iss w lanes t known, Issues s iss w e.guard e.ops false lanes e.reach ∧ (∀ k, c = some k → w.counter k < 63) ∧ e.tags w lanes ∧
    out s iss lanes w = some (t, known)

theorem witnessedIn {c : Option Ctr} {e : Effect} {out : Outside} (w : Wave) (hg : e.guard = none ∨ e.guard = some 0)
    (hc : w.ld = [] ∧ w.st = [] ∧ w.cp = [] ∧ w.tx = []) (hf : tFit w e.ops = true) (ht : e.tags w 1)
    (ho : (out (tPut w) tIssue 1 w).isSome = true) : WitnessedIn c e out := by
  obtain ⟨x, hx⟩ := Option.isSome_iff_exists.1 ho
  exact ⟨_, _, w, _, x.1, x.2, tIssues hg hf, fun k _ => by cases k <;> simp [Wave.counter, Wave.ops, hc], ht, hx⟩

theorem tNone (vals sc : List Word) : (tAt vals sc).ld = [] ∧ (tAt vals sc).st = [] ∧ (tAt vals sc).cp = [] ∧ (tAt vals sc).tx = [] :=
  ⟨rfl, rfl, rfl, rfl⟩

theorem tSome {α β : Type} {x : Option (α × β)} (h : x.isSome = true) : ∃ a b, x = some (a, b) := by
  obtain ⟨y, rfl⟩ := Option.isSome_iff_exists.1 h; exact ⟨_, _, rfl⟩
theorem tTriple {α β : Type} {x : α × β × Bool} (h : x.2.2 = true) : ∃ a b, x = (a, b, true) := ⟨x.1, x.2.1, Prod.ext rfl (Prod.ext rfl h)⟩
theorem tPair {α β : Type} {x : α × Option β} (h : x.2.isSome = true) : ∃ a b, x = (a, some b) := by
  obtain ⟨y, hy⟩ := Option.isSome_iff_exists.1 h; exact ⟨_, y, Prod.ext rfl hy⟩

/-- A byte below a page's end, the last bytes of the scratchpad, a format and a whole accumulator. -/
theorem witness_LoadsComplete :
    WitnessedIn (some .ld) (loadEffect 4 1 none [.vec 4 1 1, .vec 0 2 2]) (loadsBytes 1 false 4 0 0x7FF) ∧
    WitnessedIn (some .ld) (loadEffect 4 4 none [.vec 4 4 4, .vec 0 2 2]) (loadsBytes 16 false 4 0 1) ∧
    WitnessedIn (some .ld) (loadEffect 4 1 none [.vec 4 1 1, .vec 0 2 2]) (loadsBytes 4 true 4 0 0) ∧
    tagDefined 4 = true ∧ WitnessedIn (some .ld) (loadEffect 4 1 (some 0) [.vec 4 1 1, .vec 0 2 2])
      (loads (Access.load 4) false 31 (fun _ _ w l => [w.pair 0 l]) (elementAsks 4 (fun _ => 4) (fun _ _ w l => [w.pair 0 l]))) ∧
    WitnessedIn (some .ld) (loadEffect 4 1 (some 0) [.vec 4 1 1, .vec 0 2 2])
      (loads { Access.load 4 with bounded := true } false 4 (fun _ _ w l => [w.pair 0 l]) (elementAsks 4 (fun _ => 0) (fun _ _ w l => [w.pair 0 l]))) ∧
    WitnessedIn (some .ld) { loadEffect 8 8 none [.vec 0 2 2, .scl 4 1, .vec 8 8 8] with
        tags := fun w lanes => strideOf (w.sget 4) = some ⟨64, 1, 2⟩ ∧ (w.pair 0 (lowest lanes)).toNat % 32 = 0 }
      (loads (Access.load 4) false 31 (fragAddrs ⟨64, 1, 2⟩ 0) (elementAsks 8 (fun _ => 1) (fragAddrs ⟨64, 1, 2⟩ 0))) :=
  ⟨witnessedIn (tAt [0x21000, 0] []) (.inl rfl) (tNone ..) (by decide) trivial (by decide +kernel),
    witnessedIn (tAt [0xFE0, 0xFFFFFF00] []) (.inl rfl) (tNone ..) (by decide) trivial (by decide +kernel),
    witnessedIn (tAt [0x1FFFFC, 0] []) (.inl rfl) (tNone ..) (by decide) trivial (by decide +kernel),
    by decide, witnessedIn (tAt [0x20000, 0] []) (.inr rfl) (tNone ..) (by decide) trivial (by decide +kernel),
    witnessedIn (tAt [0x20000, 0] []) (.inr rfl) (tNone ..) (by decide) trivial (by decide +kernel),
    witnessedIn (tAt [0x20000, 0] [0, 0, 0, 0, 0x08100040]) (.inl rfl) (tNone ..) (by decide) ⟨by decide, by decide⟩ (by decide +kernel)⟩

theorem witness_StoresComplete :
    WitnessedIn (some .st) { ops := [.vec 4 1 1, .vec 0 2 2], guard := none } (storesBytes 1 4 0 0x7FF) ∧
    WitnessedIn (some .st) { ops := [.vec 4 4 4, .vec 0 2 2], guard := none } (storesBytes 16 4 0 0) ∧
    WitnessedIn (some .st)
      { guard := none, ops := [.vec 0 2 2, .scl 4 1, .vec 4 4 4],
        tags := fun w lanes => strideOf (w.sget 4) = some ⟨32, 2, 0⟩ ∧ (w.pair 0 (lowest lanes)).toNat % 32 = 0 }
      (stores (Access.store 4) (fragAddrs ⟨32, 2, 0⟩ 0) (fun _ w got => got.flatMap (fun x => x.2.mapIdx (fun j p =>
        { place := p, bytes := bytesOf 4 (w.grp 4 j x.1).val.toNat })))) :=
  ⟨witnessedIn (tAt [0x21000, 0] []) (.inl rfl) (tNone ..) (by decide) trivial (by decide +kernel),
    witnessedIn (tAt [0xFF0, 0xFFFFFF00] []) (.inl rfl) (tNone ..) (by decide) trivial (by decide +kernel),
    witnessedIn (tAt [0x20000, 0] [0, 0, 0, 0, 0x00200020]) (.inl rfl) (tNone ..) (by decide) ⟨by decide, by decide⟩ (by decide +kernel)⟩

/-- A returning compare and swap, a silent addition in F32, ACCB outside regions, and a ring whose capacity is 1. -/
theorem witness_AtomicsComplete :
    WitnessedIn (some .ld) (returningEffect true none 4 0 6) (returns 10 true 4 0 6 2) ∧
    WitnessedIn (some .st) (silentEffect false (some 1) 0 6) (silent 1 false 0 6 1) ∧
    WitnessedIn (some .st) { ops := [.vec 4 1 1, .vec 0 2 2], fibre := regionEnds, tags := groupTagged 4 1 1 } (accumulates 4 0 1) :=
  ⟨witnessedIn (tAt [0x20000, 0] []) (.inl rfl) (tNone ..) (by decide) (fun _ h => by cases h) (by decide +kernel),
    witnessedIn (tAt [0xFFC, 0xFFFFFF00] []) (.inl rfl) (tNone ..) (by decide) (fun _ h => by cases h; unfold tagged; decide) (by decide +kernel),
    witnessedIn (tAt [0x20000, 0] []) (.inl rfl) (tNone ..) (by decide) (tGroup (by decide)) (by decide +kernel)⟩

/-- The same wave in a memory that also holds the given bytes. -/
def tRam (w : Wave) (cells : List (Nat × List Byte)) : State :=
  { tPut w with mem := cells.foldl (fun m c => (cellsAt c.1 c.2).foldl (fun m x => SMap.set m 0 x.1 x.2) m) (tPut w).mem }

/-- A ring block at 0x20000: entries at 0x20080, capacity 2, head and tail as given. -/
def tRing (head tail : Nat) : List (Nat × List Byte) :=
  [(0x20000, bytesOf 8 0x20080 ++ bytesOf 4 1 ++ bytesOf 4 0 ++ bytesOf 4 head ++ bytesOf 4 tail ++ bytesOf 8 0)]
def tRingLane : RingLane := ⟨0, 0x20000, 0x20000, false, ⟨0x20080, 1, 0, 0⟩, [(0x20000, false)]⟩

theorem tUndisturbed (w : Wave) (cells : List (Nat × List Byte)) : (tRam w cells).Undisturbed :=
  { l1 := fun _ h => (by cases h), drains := rfl, tiles := rfl, marks := rfl, monitors := fun _ h => (by cases h) }

/-- A word of memory, and its atomic in one lane. -/
theorem witness_AtomicReadModifyWrite : (tRam (tAt [] []) []).Undisturbed ∧ (tRam (tAt [] []) []).isLocal 0x20004 = true ∧ 0x20004 % 4 = 0 ∧
    (⟨⟨.mem 0x20004 false, none, none⟩, 0x20004, 0, 1, 0, some 128⟩ : Amo).place = ⟨.mem 0x20004 false, none, none⟩ :=
  ⟨tUndisturbed .., by decide, by decide, rfl⟩

/-- The four cases of a ring: room, full, an entry, none, with the counters about to wrap. -/
theorem witness_RingsComplete :
    (∃ t p, rings true 0 4 0 6 (tRam (tAt [0x20000, 0] []) (tRing 0 1)) tIssue 1 (tAt [0x20000, 0] []) = some (t, p)) ∧
    (∃ t p, rings false 3 4 0 6 (tRam (tAt [0x20000, 0] []) (tRing 0 1)) tIssue 1 (tAt [0x20000, 0] []) = some (t, p)) ∧
    (∃ q, parseRing 24 ((tRam (tAt [] []) (tRing 0xFFFFFFFE 0xFFFFFFFF)).bytes 0x20000 32) = some q ∧ q.base = tRingLane.ring.base ∧ q.log2cap = tRingLane.ring.log2cap ∧
      q.used ≠ q.cap ∧ tRingLane.entry q.tail = (0x20084, false) ∧ q.tail ≠ q.head ∧ tRingLane.entry q.head = (0x20080, false)) ∧
    (∃ q, parseRing 24 ((tRam (tAt [] []) (tRing 0xFFFFFFFE 0)).bytes 0x20000 32) = some q ∧ q.used = q.cap) ∧
    (∃ q, parseRing 24 ((tRam (tAt [] []) (tRing 5 5)).bytes 0x20000 32) = some q ∧ q.tail = q.head) :=
  ⟨tSome (by decide +kernel), tSome (by decide +kernel), ⟨⟨0x20080, 1, 0xFFFFFFFE, 0xFFFFFFFF⟩, by decide +kernel⟩,
    ⟨⟨0x20080, 1, 0xFFFFFFFE, 0⟩, by decide +kernel⟩, ⟨⟨0x20080, 1, 5, 5⟩, by decide +kernel⟩⟩

/-! ### Waiting, control and the wave's own registers -/

/-- A state in which a wave of no guard and operands issues. -/
theorem tPlain {w : Wave} {ops : List Opnd} (hf : tFit w ops = true) : Issues (tPut w) tIssue w none ops false 1 := tIssues (.inl rfl) hf

/-- The wave with a store that has not been performed; a group of two waves of which one has arrived. -/
def tStoring : Wave := { tAt [0x20000, 0] [] with st := [{ uid := 9, iss := tIssue, kind := .store, done := false, writes := [], waits := [], adds := [], busy := [] }] }
def tTwo (arrived : List Nat) : Group := { placedGroup with waves := 2, members := [0, 48], arrived := arrived }

theorem witness_BoundariesAndBarriers :
    ((tPut (tAt [] [])).boundary 0 (tAt [] []) 2).2 = true ∧ ((tPut tStoring).boundary 0 tStoring 1).2 = false ∧ tFit tStoring [] = true ∧
    ((tPut (tAt [] [])).boundary 0 (tAt [] []) 1).1.group 0 = some placedGroup ∧ (tAt [] []).run = .running ∧
    (∃ i, i < (tTwo [0]).waves ∧ i ∉ (tTwo [0]).retired ∧ i ∉ (tTwo [0]).arrived) ∧
    ((tTwo [0, 1]).arrived ≠ [] ∧ ∀ i, i < (tTwo [0, 1]).waves → i ∉ (tTwo [0, 1]).retired → i ∈ (tTwo [0, 1]).arrived) ∧
    (∃ s1 key, (tPut (tAt [0x20000, 0] [])).checkLanes 0 (tAt [0x20000, 0] []) ⟨4, 4, false, false, .r, false⟩ (fun l => [(tAt [0x20000, 0] []).pair 0 l]) [0] [] =
        (s1, .ok [(0, [⟨.mem key false, none, none⟩])]) ∧ (s1.yieldLine 0 (lineOf key)).isLocal key = true ∧
        (((s1.yieldLine 0 (lineOf key)).settleTile key 31).homeRead key 4 false).2 = .ok [0, 0, 0, 0]) ∧
    monHolds 1 0 0x20000 = true ∧ monHolds 9 0 5 = false :=
  ⟨by decide, by decide, by decide, by decide, rfl, ⟨1, by decide⟩, by decide,
    ⟨((tPut (tAt [0x20000, 0] [])).checkLanes 0 (tAt [0x20000, 0] []) ⟨4, 4, false, false, .r, false⟩ (fun l => [(tAt [0x20000, 0] []).pair 0 l]) [0] []).1,
      0x20000, by decide +kernel⟩, by decide, by decide⟩

theorem witness_ControlTransfers : Witnessed (branchOf 7 1 3 0x7FFFF) ∧ Witnessed (branchTo 0 0) ∧ Witnessed (callOf 4 0x3FFFF) ∧ Witnessed (joinOf 255) :=
  ⟨witnessed (tAt [] []) (.inl rfl) (by decide) trivial, witnessed (tAt [0xFFFFFFFC, 0xFFFF] []) (.inr rfl) (by decide) (by unfold branchTo; decide),
    witnessed (tAt [] []) (.inl rfl) (by decide) trivial, witnessed (tAt [] []) (.inl rfl) (by decide) trivial⟩

/-- Lane 31 is free in the first wave, none in the second. -/
theorem witness_ForkStarts :
    Issues (tPut { tAt [] [] with fibres := (tAt [] []).fibres.filter (fun x => x.1 < 31), need := 8, regs := (List.range 256).map (fun i => (i, ⟨0, 0, false⟩)) }) tIssue
      { tAt [] [] with fibres := (tAt [] []).fibres.filter (fun x => x.1 < 31), need := 8, regs := (List.range 256).map (fun i => (i, ⟨0, 0, false⟩)) }
      none [.vec 1 1 1] false 1 ∧
    ({ tAt [] [] with fibres := (tAt [] []).fibres.filter (fun x => x.1 < 31), need := 8, regs := (List.range 256).map (fun i => (i, ⟨0, 0, false⟩)) } : Wave).forkWaits 1 = false ∧
    ({ tAt [] [] with fibres := (tAt [] []).fibres.filter (fun x => x.1 < 31) } : Wave).freeLanes = [31] ∧
    (tAt [] []).freeLanes = [] ∧ (∀ l, l < 32 → (1 : Word).getLsbD l = true → ((tAt [] []).fib l).live = true) :=
  ⟨tPlain (by decide +kernel), by decide +kernel, by decide, by decide, by decide⟩

theorem witness_FibreEnds : Issues (tPut (tAt [] [])) tIssue (tAt [] []) (some (0 : BitVec 2).toNat) [] false 1 := tIssues (.inr rfl) (by decide)

/-- The limits of the windows and of REGREQ and REGREL: the wave has 64 vector and 64 scalar registers. -/
theorem witness_SystemResults : selectorOk 31 = true ∧ Issues (tPut (tAt [] [])) tIssue (tAt [] []) (some (0 : BitVec 2).toNat) [.vec 62 2 2] false 1 ∧
    Issues (tPut (tAt [] [])) tIssue (tAt [] []) (some (0 : BitVec 2).toNat) [.scl 62 2] false 1 ∧ 8 * (7 : BitVec 5).toNat + 8 ≤ (tAt [] []).need ∧
    64 * (0 : BitVec 1).toNat + 64 ≤ (tAt [] []).sneed ∧ Witnessed (broadcastOf 4 0 0 0) ∧ Witnessed (broadcastOf 4 0 1 0) ∧
    ((tAt [] []).cell (cellAt ((tAt [] []).wb + 4) (((tAt [] []).sget 1).toNat % 32))).empty = false ∧
    ((tAt [] []).need + 8 ≤ 8 * (9 : BitVec 7).toNat ∧ 8 * (9 : BitVec 7).toNat - (tAt [] []).need ≤ (tPut (tAt [] [])).freeRegs 0) ∧
    (8 ≤ 8 * (7 : BitVec 7).toNat ∧ 8 * (7 : BitVec 7).toNat < (tAt [] []).need ∧ (tAt [] []).wb < 8 * (7 : BitVec 7).toNat) :=
  ⟨by decide, tIssues (.inr rfl) (by decide), tIssues (.inr rfl) (by decide), by decide, by decide, witnessed (tAt [] []) (.inr rfl) (by decide) trivial,
    witnessed (tAt [] []) (.inr rfl) (by decide) trivial, by decide, by decide, by decide⟩

/-- Thirteen waves that leave 32 registers of a partition, of which the first asks for 40 more; a PARKC with and without an operation under way; WAITC on either side. -/
theorem witness_WaitsAndTraps :
    ({ tPut (tAt [] []) with waves := (0, tAt [] []) :: (List.range 12).map (fun n => (n + 1, { tAt [] [] with need := 248 })) } : State).freeRegs 0 = 32 ∧
    (tAt [] []).need + 8 ≤ 8 * (13 : BitVec 7).toNat ∧ 32 < 8 * (13 : BitVec 7).toNat - (tAt [] []).need ∧ tFit tStoring [] = true ∧ tStoring.st ≠ [] ∧ (tAt [] []).ld = [] ∧
    WitnessedIn none { guard := some 0, ops := [.vec 0 2 2] } (fun s iss lanes w => some ((lanesOf lanes).foldl (fun s l => s.prefetch iss.wave w l (w.pair 0 l)) s, fun _ => True)) ∧
    ((0 : BitVec 4) = 15 ∨ (tAt [] []).st.length ≤ (0 : BitVec 4).toNat) ∧ ¬ ((0 : BitVec 4) = 15 ∨ tStoring.st.length ≤ (0 : BitVec 4).toNat) :=
  ⟨by decide, by decide, by decide, by decide, by decide, rfl, witnessedIn (tAt [] []) (.inr rfl) (tNone ..) (by decide) trivial rfl, by decide, by decide⟩

theorem tExtends {w : Wave} {e : Effect} (v : BitVec 25) {next : Word} (hg : e.guard = none ∨ e.guard = some 0) (hf : tFit w e.ops = true)
    (hn : immediateC next = true → next.toNat / 2 ^ 11 % 128 = 0) (ht : e.tags w 1) : Extends (tPut w) v next tIssue w e 1 :=
  let h := tIssues (reach := e.reach) (tile := false) hg hf
  ⟨rfl, hn, ⟨rfl, h.wave, h.passes, h.someLane, h.legal, h.present, h.idle, rfl⟩, ht⟩

/-- IADDI v4, v0, -1 with IMX supplies the high bits; so it does for LDB v4, [v0] and VMOVI v4, 0x7FF. -/
theorem witness_ImxExtends : imxOpcodes.contains ((0x301007FF : Word).toNat / 2 ^ 25) = true ∧ (immediateC 0x301007FF = true → (0x301007FF : Word).toNat / 2 ^ 11 % 128 = 0) ∧
    decodeWord 0x301007FF 0 = some (.iaddi 4 0 0x7FF) ∧ (follower 0x301007FF).isSome = true ∧ imxOpcodes.contains ((0x02143070 : Word).toNat / 2 ^ 25) = false ∧
    Extends (tPut (tAt [] [])) 3 0x301007FF tIssue (tAt [] []) (immAD 4 0 (fun iss w l => (w.grp 0 0 l).val + (iss.immB 0x7FF).setWidth 32)) 1 ∧
    (∃ next, decodeWord next 0 = some (.ldb 4 0 0) ∧
      Extends (tPut (tAt [0x20000, 0] [])) 1 next tIssue (tAt [0x20000, 0] []) (loadEffect 4 1 none [.vec 4 1 1, .vec 0 2 2]) 1 ∧
      (loadsBytes 1 false 4 0 0 { tPut (tAt [0x20000, 0] []) with cur := some (tIssue.extended 1 next) } (tIssue.extended 1 next) 1
        (tAt [0x20000, 0] [])).isSome = true) ∧
    (∃ next, decodeWord next 0 = some (.vmovi 4 0x7FF) ∧ Extends (tPut (tAt [] [])) 1 next tIssue (tAt [] []) (immD 4 (fun iss => (iss.immC 0x7FF).setWidth 32)) 1) ∧
    (∃ next, decodeWord next 0 = some (.icmpi 5 1 0 0x7FF) ∧ Extends (tPut (tAt [] [])) 1 next tIssue (tAt [] []) (compareAI 5 1 0 0x7FF) 1) ∧
    ((∃ next, decodeWord next 0 = some (.icmpi 6 1 0 0)) ∧ (tPut (tAt [] [])).cur = some tIssue ∧ tIssue.batch ≠ 0) :=
  ⟨by decide, by decide, by decide, by decide, by decide, tExtends 3 (.inl rfl) (by decide) (by decide) trivial,
    ⟨(encode (.ldb 4 0 0)).headD 0, by decide, tExtends 1 (.inl rfl) (by decide) (by decide) trivial, by decide +kernel⟩,
    ⟨(encode (.vmovi 4 0x7FF)).headD 0, by decide, tExtends 1 (.inl rfl) (by decide) (by decide) trivial⟩,
    ⟨(encode (.icmpi 5 1 0 0x7FF)).headD 0, by decide, tExtends 1 (.inl rfl) (by decide) (by decide) trivial⟩,
    ⟨(encode (.icmpi 6 1 0 0)).headD 0, by decide⟩, by decide, by decide⟩

theorem witness_PatternMoves :
    (∃ s1 tbl, (tRam { tAt [] [] with patterns := [(15, 0x20000)] } []).boundTable 0 { tAt [] [] with patterns := [(15, 0x20000)] } 0 0x20000 = (s1, some tbl)) ∧
    ({ tAt [] [] with patterns := [(15, 0x20000)] } : Wave).patterns.find? (15 : BitVec 4).toNat = some 0x20000 ∧
    (∃ s1, (tPut (tAt [0x20000, 0] [])).readTable 0 (tAt [0x20000, 0] []) 0 ((tAt [0x20000, 0] []).pair 0 0) = (s1, .ok (.ok (List.replicate 256 0)))) ∧
    ∀ k, k < 128 → tableEntry (List.replicate 256 0) k < 1024 :=
  ⟨tPair (by decide +kernel), by decide, ⟨(State.readTable (tPut (tAt [0x20000, 0] [])) 0 (tAt [0x20000, 0] []) 0 ((tAt [0x20000, 0] []).pair 0 0)).1, by decide +kernel⟩, by decide +kernel⟩

/-! ### Engine commands -/

/-- Each queued sub-operation with the words its operands name, a queue that accepts it, and a block that passes its checks. -/
def tCommands : List (Nat × Nat × Nat × List Word) :=
  [(0, 6, 0, [0x20000, 0, 0x21000, 0, 64, 0]), (1, 9, 1, [0x20000, 0, 0x21000, 0, 16, 2, 16, 16, 0]),
   (2, 9, 2, [0x20000, 0, 0x21000, 0, 0x22000, 0, 16, 2, 0]), (3, 9, 3, [0x20000, 0, 0x21000, 0, 0x22000, 0, 16, 2, 0]),
   (4, 6, 0, [0x20000, 0, 0x21000, 0, 256, 0]), (5, 6, 0, [0x20000, 0, 0x21000, 0, 256, 0]),
   (8, 9, 4, [0x20000, 0, 16, 2, 4 + 0x2000 * 2, 0, 0, 0x21000, 0]), (9, 9, 5, [0x20000, 0, 16, 2, 0, 0x21000, 0, 0x22000, 0]),
   (10, 6, 6, [0x20000, 0, 2 + 32 * 2 + 4096 * 2, 64, 0x21000, 0]), (11, 7, 7, [0x20000, 0, 2, 2 + 128 * 4, 32, 0x21000, 0]),
   (12, 5, 4, [0x20000, 0, 4, 0x21000, 0]), (13, 11, 4, [0x20000, 0, 2, 2 + 128 * 4, 32, 0x21000, 0, 0x22000, 0, 0, 0]),
   (14, 3, 8, [0x20000, 0, 0]), (16, 1, 9, [0x11, 2]), (17, 2, 10, [0x20000, 0]), (18, 1, 11, [0x800])]

/-- A wave whose scalar registers from s8 on hold a block. -/
def tBlock (b : List Word) : Wave := tAt [] (List.replicate 8 0 ++ b)

/-- Every hypothesis of `Enqueues` but the issue's own. -/
def tAccepted (x : Nat × Nat × Nat × List Word) : Bool :=
  let w := tBlock x.2.2.2
  let s := tPut w
  tFit w [.scl 1 1, .scl 8 x.2.1] && queueAccepted x.1 x.2.2.1 && !(Opnd.scl 8 x.2.2.2.length).bad w &&
    decide (w.counter (queueCounter x.2.2.1) < 63) && (s.blockFault tIssue w x.1 x.2.2.1 (w.block 8 x.2.2.2.length)).isNone &&
    (s.boundary 0 w 2).2 && s.queueRoom w.ctx 0 x.1 x.2.2.1 (w.block 8 x.2.2.2.length)

theorem witness_EngineCommandsAreQueued : (tCommands.map tAccepted) = List.replicate 16 true := by decide +kernel

theorem witness_CommandEntersItsQueue : ((tPut (tBlock [])).ctxs.find? (tBlock []).ctx).isSome = true ∧ (0 : Nat) ≠ 18 ∧
    1 ∉ (enteredQueues 0 0 []).map (queueIndex 0) ∧ (5 : Nat) ≠ (tBlock []).ctx := by decide

/-- The same state with row counter 3 of the core armed, and not named by a command. -/
def tArmed (w : Wave) : State := (tPut w).setRowc 0 3 ⟨7, some 0, false⟩

/-- Every hypothesis of `Answers` but the issue's own. -/
def tAnswered (sub n q : Nat) (b : List Word) (value : State → Issue → Wave → List Word → Option (State × Word)) : Bool :=
  let w := tBlock b
  let s := tArmed w
  tFit w [.scl 1 1, .scl 8 n] && queueAccepted sub q && decide (w.counter (queueCounter q) < 63) && (w.openImmediate (queueCounter q)).isNone &&
    (w.ops (queueCounter q)).all (fun o => o.uid != s.fresh) && w.wait.isNone && (s.blockFault tIssue w sub q (w.block 8 n)).isNone &&
    (value s tIssue w (w.block 8 n)).isSome

theorem witness_ImmediateCommands :
    tAnswered 6 1 3 [15] (fun s iss _ b =>
      if (s.rowc (cidOf iss.wave) (bw b 0)).named then none else some (s.setRowc (cidOf iss.wave) (bw b 0) { val := 0, owner := some 0, named := false }, 0)) = true ∧
    tAnswered 7 2 0 [3, 7] (fun s iss _ b =>
      let r := s.rowc (cidOf iss.wave) (bw b 0)
      if bw b 1 ≤ r.val.toNat ∨ r.named = false then some (s.dropClean (cidOf iss.wave), r.val) else none) = true ∧
    tAnswered 15 1 8 [0xFFFFFFF8] (fun s iss w b =>
      let st := s.ticketState w.ctx (cidOf iss.wave) 8 (b.getD 0 0)
      if st = 2 ∨ st = 4 ∨ st = 5 then some (s.dropClean (cidOf iss.wave), BitVec.ofNat 32 st) else none) = true ∧
    tAnswered 19 1 11 [11] (fun s iss w b => some (s, BitVec.ofNat 32 (s.ticketState w.ctx (cidOf iss.wave) 11 (b.getD 0 0)))) = true := by decide +kernel

/-- A command at the head of queue qi of context 0 with sequence number 0. -/
def tEntry (sub qi state : Nat) (block : List Word) (held : List Nat) : QEntry :=
  { seq := 0, sub := sub, state := state, prio := 0, wave := 0, uid := 0, who := 0, lid := 0, block := block, progress := [0, 0, 0, 0],
    held := held, waits := [], finished := false, group := 0, tickets := [(qi, 0)] }

/-- That queue, its engine at work on it or idle, the CCE registers of cluster 0, and bytes of memory. -/
def tEngine (qi : Nat) (e : QEntry) (busy : Bool) (c : Cce) (cells : List (Nat × List Byte)) : State :=
  { tRam (tAt [] []) cells with
    ctxs := [(0, { placedCtx with queues := [(qi, ⟨1, 1, [e], []⟩)], cce := [(0, c)] })]
    engines := if busy then [(engineOf qi, ⟨some (0, qi), 0, 0⟩)] else [] }

def tGather : QEntry := tEntry 2 0 1 [0x20000, 0, 0x21000, 0, 0x22000, 0, 16, 2, 0] []
def tTopk : QEntry := tEntry 8 256 1 [0x20000, 0, 16, 2, 4 + 0x2000 * 2, 0, 0, 0x21000, 0] []

/-- A command that waits, one of CPGATH and one of GTOPK under way, a finished one, a QFENCE whose turn has come, and an unfinished one. -/
theorem witness_EngineServesItsQueues :
    (let s := tEngine 0 (tEntry 0 0 0 [] []) false Cce.fresh [];
      s.head 0 0 = some (tEntry 0 0 0 [] []) ∧ (s.bestCommands 0).find? (fun x => x.1 == 0 && x.2.1 == 0) = some (0, 0, tEntry 0 0 0 [] []) ∧ s.engineFree 0 0 = true ∧
      (s.bestCommands 0).find? (fun x => x.1 == 0 && x.2.1 == 1) = none ∧ s.inService 0 0 = none) ∧
    (let s := tEngine 0 tGather true Cce.fresh [(0x21000, [3, 0, 0, 0])];
      s.inService 0 0 = some tGather ∧ tGather.waits = [] ∧ (s.withSources 0 0 tGather).2.isSome = true ∧ ({ tGather with sources := some [] } : QEntry).sources = some [] ∧ ((s.countRows 0 0).copyIndex 0 tGather 0).2 = .ok 3 ∧
      (((s.countRows 0 0).copyIndex 0 tGather 0).1.engineRead 0 tGather 0 0x20030 16).2 = .ok (List.replicate 16 0) ∧
      (s.engineWrite 0 0 tGather 0x22000 (List.replicate 16 0)).2 = .ok ()) ∧
    (let s := tEngine 256 tTopk true Cce.fresh [];
      s.inService 0 256 = some tTopk ∧ (s.engineRead 0 tTopk 0 0x20000 16).2 = .ok (List.replicate 16 0) ∧
      (s.engineWrite 0 256 tTopk 0x21000 (List.replicate 32 0)).2 = .ok ()) ∧
    (let s := tEngine 0 { tGather with finished := true } true Cce.fresh [];
      s.head 0 0 = some { tGather with finished := true } ∧ s.ctxs.find? 0 = some { placedCtx with queues := [(0, ⟨1, 1, [{ tGather with finished := true }], []⟩)], cce := [(0, Cce.fresh)] }) ∧
    (tEngine 0 (tEntry 18 0 0 [1] []) false Cce.fresh []).fenceReady 0 (tEntry 18 0 0 [1] []) = true ∧ tGather.finished = false ∧ (tEngine 0 tGather true Cce.fresh []).invalidating = false := by decide +kernel

/-- A CXFORK whose header has been read: one step in F32 of a chain of two cores, batch 1. -/
def tFork : QEntry := tEntry 14 260 1 [0x20000, 0, 0] [1, 1, 2, 1, 0, 0]
/-- Registers of modes 2 and bonds 1, with a given boundary; the program is at 0x20000. -/
def tRegsOf (b : Boundary) : Cce :=
  { Cce.fresh with modei := [(0, 2), (1, 2)], modej := [(0, 2), (1, 2)], prog := 0x20000, batchn := 1, bbcap := 65536, bnd := b }
def tChain : Boundary := { Boundary.absent with kind := .chain, batch := 1, remaining := [(0, 2), (1, 2)], bond := 1, data := [1, 2, 3, 4] }
def tMatrix : Boundary := { Boundary.absent with kind := .matrix, batch := 1, cols := 2, width := 1, data := [1, 2] }
def tImage : Boundary := { Boundary.absent with kind := .image, batch := 1, cols := 1, width := 1, data := [1] }
/-- A core's descriptor of bonds 1 and modes 2 in a format. -/
def tCore (fmt : Nat) : List Byte := bytesOf 8 0x22000 ++ bytesOf 16 0 ++ bytesOf 2 1 ++ bytesOf 2 1 ++ bytesOf 2 2 ++ bytesOf 2 2 ++ bytesOf 1 fmt ++ bytesOf 31 0

/-- The bytes of a step: code, k, controls, tolerance, n, address. -/
def tStep (code k ctl n addr : Nat) : List Byte := bytesOf 1 code ++ bytesOf 1 k ++ bytesOf 1 ctl ++ [0] ++ bytesOf 4 n ++ bytesOf 8 addr

/-- Each step with a boundary and descriptors that pass its checks. -/
def tSteps : List (Nat × Boundary × List Byte × List (Nat × List Byte)) :=
  [(1, Boundary.absent, tStep 1 0 0x10 (2 ^ 24 + 2) 0x21000, []),
   (2, tChain, tStep 2 0 0 0 0x21000, [(0x21000, tCore 2)]),
   (3, tMatrix, tStep 3 0 0 0 0x21000, [(0x21000, bytesOf 8 0 ++ bytesOf 8 0x22000 ++ bytesOf 24 0 ++ bytesOf 4 1 ++ bytesOf 4 3 ++ bytesOf 4 2 ++ bytesOf 8 0 ++ [0, 2, 0, 0])]),
   (4, tImage, tStep 4 0 0 (2 * 2 ^ 24 + 256) 0x22000, []),
   (5, tImage, tStep 5 1 0 0 0, []),
   (6, tMatrix, tStep 6 5 0 0 0, []),
   (7, tMatrix, tStep 7 0 0 3 0x21000, []),
   (8, tMatrix, tStep 8 0 8 (2 ^ 24) 0x21000, []),
   (11, tChain, tStep 11 0 0 0 0x21000, [(0x21000, bytesOf 8 0x23000 ++ bytesOf 8 0x21040 ++ bytesOf 16 1), (0x21040, tCore 1)])]

/-- Every hypothesis of `StepDue`. -/
def tDue (code : Nat) (c : Cce) (bs : List Byte) (cells : List (Nat × List Byte)) : Bool :=
  let s := tEngine 260 tFork true c ((0x20040 + 16 * c.step, bs) :: cells)
  s.cceCommand 0 0 == some (260, tFork) && !s.engineSpoiled 0 0 && !c.busy && decide (c.step < tFork.nsteps) &&
    (match (s.engineRead 0 tFork 31 (0x20040 + 16 * c.step) 16).2 with
      | .ok x => x == bs
      | .error _ => false) && stepOk bs && (stepOf bs).code == code

/-- The plan of a step succeeds and fits. -/
def tPlanned (x : Nat × Boundary × List Byte × List (Nat × List Byte)) : Bool :=
  let c := tRegsOf x.2.1
  let s := tEngine 260 tFork true c ((0x20040, x.2.2.1) :: x.2.2.2)
  tDue x.1 c x.2.2.1 x.2.2.2 && (match (planStep s 0 tFork c (stepOf x.2.2.1)).2 with
    | .ok p => p.size.all (fun n => !c.overflows tFork.bfmt n (x.1 == 11))
    | .error _ => false)

theorem witness_ProgramStepsBegin : tSteps.map tPlanned = List.replicate 9 true ∧
    tDue 9 (tRegsOf tMatrix) (tStep 9 0 0 65536 0) [] = true ∧ (tRegsOf tMatrix).splitStep = none ∧
    tDue 10 { tRegsOf tMatrix with splitStep := some 0, partSize := 1 } (tStep 10 0 0 0 0) [] = true ∧
    tDue 15 (tRegsOf tMatrix) (tStep 15 0 0 0 0) [] = true := by decide +kernel

/-- A CONTRACT under way, whose one tile is computed; the same with every MAC tile but one retired. -/
theorem witness_MacRunComputesATile :
    let j : Job := ⟨tStep 2 0 0 0 0x21000 ++ tCore 2, false, tMatrix, 2, 2, []⟩
    let c := { tRegsOf tChain with job := some j }
    let s := tEngine 260 tFork true c []
    s.cceCommand 0 0 = some (260, tFork) ∧ tFork.sub ≠ 17 ∧ (s.cceOf 0 0).job = some j ∧ macStep (stepOf j.bytes).code = true ∧ s.engineSpoiled 0 0 = false ∧
      s.noTiles 0 = false ∧ (s.engineState 72).retiredTiles.getLsbD 23 = false ∧ (s.cceOf 0 0).allDone j = false ∧
      (s.tileOnce 0 260 0 tFork (s.cceOf 0 0) j).2.isOk = true ∧ State.reset.cceCommand 0 0 = none := by decide +kernel

/-! ### Rays, items and launches -/

/-- A ray with the given words that lane 0's fibre may hold. -/
def tRay (words : List Word) : Ray := newRay 0 0 (words.mapIdx (fun i v => (i, v)))
/-- A root ray that a TRACE accepts: SBTOFF 0, flags 0; and one at depth 8. -/
def tRoot : Ray := tRay [0, 0, 0, 0, 0x3F800000, 0, 0, 0x42C80000, 0x42C80000, 0xFFFFFFFF, 0xFFFFFFFF, 0, 0, 0, 0, 0xFFFFF000, 0]
def tDeep : Ray := tRay [0, 0, 0, 0, 0x3F800000, 0, 0, 0x42C80000, 0x42C80000, 0xFFFFFFFF, 0xFFFFFFFF, 0, 0, 0, 0, 0x800, 0]
/-- A launch with a shader for items and one for hits. -/
def tShaded : Launch := { placedLaunch with shaders := [⟨0x10000, 64, 64, 1, 0⟩, ⟨0x12000, 64, 64, 4, 0⟩] }

/-- A wave whose lane 0 is in an episode of a kind, bound as given, with F32 in v8 to v15. -/
def tEpisode (kind : Nat) (b : Bound) : Wave :=
  let w := tAt [0x12000, 0, 7] []
  { w.setFib 0 { w.fib 0 with bound := b, kind := kind } with
    regs := (List.range 16).map (fun n => (cellAt n 0, ⟨if n = 0 then 0x12000 else 0, if n < 8 then 0 else 1, false⟩)) }

def tRays (w : Wave) (rays : SMap Ray) (cells : List (Nat × List Byte)) : State := { tRam w cells with rays := rays, launches := [(0, tShaded)] }

theorem tEpisodeIssues {w : Wave} {rays : SMap Ray} {cells : List (Nat × List Byte)} {g : Option Nat} {ops : List Opnd}
    (hg : g = none ∨ g = some 0) (hf : tFit w ops = true) : Issues (tRays w rays cells) tIssue w g ops false 1 := by
  have h := tIssues (tile := false) (reach := fun _ => []) hg hf
  exact ⟨h.issue, h.wave, h.passes, h.someLane, h.legal, h.present, h.idle, h.sound⟩

theorem tRamIssues {w : Wave} {cells : List (Nat × List Byte)} {g : Option Nat} {ops : List Opnd}
    (hg : g = none ∨ g = some 0) (hf : tFit w ops = true) : Issues (tRam w cells) tIssue w g ops false 1 := by
  have h := tIssues (tile := false) (reach := fun _ => []) hg hf
  exact ⟨h.issue, h.wave, h.passes, h.someLane, h.legal, h.present, h.idle, rfl⟩

theorem witness_RayRecords :
    Issues (tRays (tEpisode 1 (.ray 0)) [(0, tRoot)] []) tIssue (tEpisode 1 (.ray 0)) (some 0) [.vec 8 1 1] false 1 ∧
    ((tRays (tEpisode 1 (.ray 0)) [(0, tRoot)] []).rayAt (tEpisode 1 (.ray 0)) 0).isSome = true ∧
    (∃ t p, rayReads 8 2 28 (tRays (tEpisode 2 (.ray 0)) [(0, tRoot)] []) tIssue 1 (tEpisode 2 (.ray 0)) = some (t, p)) ∧
    (∃ t p, rayReads 8 2 12 (tRays (tEpisode 4 (.item 0)) [(0, { tRoot with item := true })] []) tIssue 1 (tEpisode 4 (.item 0)) = some (t, p)) ∧
    (∃ t p, rayWrites 8 0 17 (tRays (tEpisode 2 (.ray 0)) [(0, tRoot)] []) tIssue 1 (tEpisode 2 (.ray 0)) = some (t, p)) ∧
    (∃ t p, rayWrites 8 2 4 (tRays (tEpisode 1 (.ray 0)) [(0, tRoot)] []) tIssue 1 (tEpisode 1 (.ray 0)) = some (t, p)) ∧
    ((tRays (tEpisode 4 (.item 0)) [(0, { tRoot with item := true })] []).slotAt (tEpisode 4 (.item 0)) 0).isSome = true ∧
    ((tRays (tEpisode 1 (.ray 0)) [(0, tRoot)] []).launches.find? tRoot.lid).isSome = true ∧
    (f32 0x7FC00000 = .nan ∧ f32 0xFF800000 = .inf true ∧ (f32 0x41200000).isFinite = true ∧ binCell 0x41200000 0x3F800000 0x40000000 = 4 ∧
      binCell 0xC1200000 0x3F800000 0x40000000 = 0 ∧ binCell 0x7F7FFFFF 0x3F800000 0x40000000 = 63) :=
  ⟨tEpisodeIssues (.inr rfl) (by decide), by decide, tSome (by decide +kernel), tSome (by decide +kernel), tSome (by decide +kernel), tSome (by decide +kernel), by decide, by decide +kernel, by decide +kernel⟩

/-- TRACE needs another kind of episode than a decision does. -/
theorem witness_RayTraversalInstructions :
    Issues (tRays (tEpisode 3 (.ray 0)) [(0, tRoot)] []) tIssue (tEpisode 3 (.ray 0)) (some 0) [] false 1 ∧
    (((tEpisode 3 (.ray 0)).fib 0).kind ≠ 2 ∧
      ((tRays (tEpisode 3 (.ray 0)) [(0, tRoot)] []).rayAt (tEpisode 3 (.ray 0)) 0).any ((tRays (tEpisode 3 (.ray 0)) [(0, tRoot)] []).traceOk (tEpisode 3 (.ray 0))) = true) ∧
    (((tEpisode 2 (.ray 0)).fib 0).kind = 2 ∧ ((tRays (tEpisode 2 (.ray 0)) [(0, tRoot)] []).rayAt (tEpisode 2 (.ray 0)) 0).isSome = true) ∧
    (tRays (tEpisode 2 (.ray 0)) [(0, tRoot)] []).rays.find? 0 = some tRoot :=
  ⟨tEpisodeIssues (.inr rfl) (by decide), by decide +kernel, by decide, rfl⟩

/-- GENRAY in a fibre bound to nothing; SPAWN below and at depth 8, and with 64 descendants. -/
theorem witness_RaysBegin :
    Issues (tRays (tEpisode 0 .none) [] []) tIssue (tEpisode 0 .none) (some 0) [.vec 0 1 1, .vec 8 8 8] false 1 ∧
    ((tEpisode 0 .none).doneLanes = 0 ∧ ((tEpisode 0 .none).fib 0).bound = .none ∧ ((tEpisode 0 .none).fib 0).kind = 0) ∧ groupTagged 8 8 1 (tEpisode 0 .none) 1 ∧
    (∃ t w1, (tRays (tEpisode 0 .none) [] []).genLanes tIssue 0 8 (tEpisode 0 .none) [0] (tEpisode 0 .none) = (t, w1, true)) ∧
    (∃ s1 id, (tRays (tEpisode 0 .none) [] []).poolSlot 0 0 = (s1, some id)) ∧
    ((tRays (tEpisode 1 (.ray 0)) [(0, tRoot)] []).rayAt (tEpisode 1 (.ray 0)) 0).any ((tRays (tEpisode 1 (.ray 0)) [(0, tRoot)] []).traceOk (tEpisode 1 (.ray 0))) = true ∧
    tRoot.depth < 8 ∧ 8 ≤ tDeep.depth ∧ (∃ s1, (tRays (tEpisode 1 (.ray 0)) ((List.range 64).map (fun i => (i, tRoot))) []).poolSlot 0 0 = (s1, none)) ∧
    64 ≤ ({ tRoot with descendants := 64 } : Ray).descendants ∧
    (let s := tRays (tEpisode 1 (.ray 0)) [(0, tRoot)] []; s.rays.find? 0 = some tRoot ∧ tRoot.root.getD 0 = 0 ∧ tRoot.children < 255 ∧
      s.poolSlot 0 0 = (s, some 1)) :=
  ⟨tEpisodeIssues (.inr rfl) (by decide), by decide, tGroup (by decide), tTriple (by decide +kernel), tPair (by decide +kernel), by decide +kernel, by decide, by decide,
    ⟨((tRays (tEpisode 1 (.ray 0)) ((List.range 64).map (fun i => (i, tRoot))) []).poolSlot 0 0).1, Prod.ext rfl (by decide +kernel)⟩, by decide, by decide +kernel⟩

/-- A launch record of one group of one wave, no shaders. -/
def tRecord : List Byte :=
  bytesOf 8 0x10000 ++ bytesOf 8 0 ++ bytesOf 4 1 ++ bytesOf 4 1 ++ bytesOf 4 1 ++ bytesOf 4 (1 + 2 ^ 14) ++ bytesOf 96 0

/-- A wave at depth 9, and at depth 10, with a launch record at its address. -/
def tLauncher (depth : Nat) : Wave := { tAt [0x20000, 0] [] with depth := depth }

theorem witness_ItemsAndChildLaunches :
    (Issues (tRays (tEpisode 1 .none) [] []) tIssue (tEpisode 1 .none) (some 0) [.vec 0 8 4] false 1 ∧ (5 : BitVec 5).toNat < 17 ∧
      ((tRays (tEpisode 1 .none) [] []).itemShader 0 ((tEpisode 1 .none).pair 0 0)).isSome = true ∧
      ∃ t w1, (tRays (tEpisode 1 .none) [] []).itemLanes tIssue 5 0 [0] (tEpisode 1 .none) = (t, w1, true)) ∧
    (Issues (tRam (tLauncher 9) [(0x20000, tRecord)]) tIssue (tLauncher 9) (some 0) [.vec 4 1 1, .vec 0 2 2] false 1 ∧ (tLauncher 9).depth < 10 ∧
      (∃ s1 got, (tRam (tLauncher 9) [(0x20000, tRecord)]).checkLanes 0 (tLauncher 9) Access.record (launchHalves (tLauncher 9) 0) [0] [] = (s1, .ok got) ∧
        (s1.boundary 0 (tLauncher 9) 2).2 = true ∧ ∃ t w1, (s1.boundary 0 (tLauncher 9) 2).1.launchLanes tIssue 4 0 (tLauncher 9) got (tLauncher 9) = (t, w1, true)) ∧
      (tRam (tLauncher 9) [(0x20000, tRecord)]).launchesFull = false) ∧
    10 ≤ (tLauncher 10).depth := by
  refine ⟨⟨tEpisodeIssues (.inr rfl) (by decide), by decide, by decide +kernel, tTriple (by decide +kernel)⟩, ⟨?_, by decide, ?_, by decide +kernel⟩, by decide⟩
  · exact tRamIssues (.inr rfl) (by decide)
  · exact ⟨((tRam (tLauncher 9) [(0x20000, tRecord)]).checkLanes 0 (tLauncher 9) Access.record (launchHalves (tLauncher 9) 0) [0] []).1,
      [(0, [⟨.mem 0x20000 false, none, none⟩, ⟨.mem 0x20040 false, none, none⟩])], by decide +kernel, by decide +kernel, tTriple (by decide +kernel)⟩

/-! ### Waves, regions and launches -/

/-- An operation whose data lands in v4 of lanes 0 and 31; a tile instruction; a store. -/
def tOp (kind : OpKind) : Op :=
  { uid := 9, iss := tIssue, kind := kind, done := false, writes := [⟨cellAt 4 0, 7, 0⟩, ⟨cellAt 4 31, 8, 1⟩], waits := [], adds := [], busy := [] }
def tBusy : Wave := { tAt [] [] with ld := [tOp .load], st := [tOp .store], tx := [tOp .tile], wait := some (.parkc tIssue (some 0)) }

theorem witness_OperationsComplete : (tPut tBusy).waves.find? 0 = some tBusy ∧ tBusy.ld[0]? = some (tOp .load) ∧ (tOp .load).done = false ∧
    (tOp .load).waits = [] ∧ (tOp .load).bad = none ∧ tBusy.st[0]? = some (tOp .store) ∧ (tOp .store).adds = [] ∧ (tOp .store).busy = [] ∧
    tBusy.tx.find? (fun o => o.kind == .tile && !o.done) = some (tOp .tile) ∧ tBusy.wait = some (.parkc tIssue (some 0)) ∧
    (∀ x ∈ (tOp .load).writes, (tBusy.fib (x.cell % 32)).live = true ∧ ∀ y ∈ (tOp .load).writes, y.cell = x.cell → y = x) ∧
    tBusy.ops .ld = [tOp .load] ∧ (∀ p ∈ ([] : List Op), p.uid ≠ (tOp .load).uid) := by decide

/-- A tile with a join to answer, one with a read, one whose read has its drains; a drain of each kind; listed monitors. -/
def tHome (joins : List Join) (reads : List TileRead) : HomeTile := ⟨0x3F800000, [⟨0, 1, 1⟩], reads, joins, none⟩
def tRead (drains : Option (List Nat)) : TileRead := ⟨0, 0, 9, 5, cellAt 4 0, 0, 0x20000, 4, false, 0x20000, 31, drains, none⟩
def tRegional (t : HomeTile) (drains : List Drain) : State := { tPut (tAt [] []) with tiles := [(0x200, t)], drains := drains }
def tDrain (single combined : Bool) : Drain := ⟨3, 0x200, [0], 1, false, [(0, 0x3F800000)], single, combined, false⟩
def tJoin : Join := { cid := 7, ctx := 0, coded := false }
def tMon : Mon := ⟨0, 0, 0, none, 0x20000, false, 5, 0⟩

/-- A line of core 0 with a Dirty byte, whose tile is in the core's delta. -/
def tHolding : State :=
  { tPut (tAt [] []) with cores := [(0, { Core.fresh with l1 := { L1.none with dirty := [(0x20001, ⟨7, [0], [0], false, 0, false⟩)] } })] }

theorem witness_RegionAndMonitorEvents :
    ((tRegional (tHome [] []) [tDrain false false]).drains[0]? = some (tDrain false false) ∧ (tDrain false false).combined = false ∧
      (tDrain false false).bad = false ∧ ({ tDrain false false with bad := true } : Drain).bad = true) ∧
    ((tPut (tAt [] [])).marks = [] ∧ ∀ x ∈ (tPut (tAt [] [])).slices, x.2.entries = []) ∧
    ((tRegional (tHome [] []) [tDrain true true]).drains[0]? = some (tDrain true true) ∧ (tDrain true true).combined = true ∧ (tDrain true true).single = true) ∧
    ((tRegional (tHome [tJoin] []) []).tiles.find? 0x200 = some (tHome [tJoin] []) ∧ (tHome [tJoin] []).halving = none ∧
      (tRegional (tHome [tJoin] []) []).holder 7 0x200 = none ∧ 1 ≤ (tHome [tJoin] []).remainder ∧ (tRegional (tHome [tJoin] []) []).waitingAdds 7 0x200 = []) ∧
    (({ tHome [tJoin] [] with shares := [⟨0, 1, 0⟩] } : HomeTile).remainder = 0 ∧ ({ tHome [tJoin] [] with shares := [⟨0, 1, 0⟩] } : HomeTile).byShare = [⟨0, 1, 0⟩]) ∧
    ((tHome [] [tRead none]).reads = tRead none :: [] ∧ (tRead none).drains = none) ∧
    ((tRead (some [3])).drains = some [3] ∧ ∀ d ∈ (tRegional (tHome [] [tRead (some [3])]) [tDrain false true]).drains, d.id ∈ [3] → d.combined = true) ∧
    (tHolding.OnlyDirty ∧ (tHolding.l1 0).dirty.rising = true ∧ tHolding.isLocal (128 * 0x400) = true ∧
      (∀ p ∈ (tHolding.l1 0).dirty, lineOf p.1 = 0x400 → p.2.coded = false ∧ p.2.bad = false)) ∧
    ((tPut (tAt [] [])).slice 0).relist = [] ∧ (({ tPut (tAt [] []) with slices := [(0, ⟨[], [tMon], 0⟩)] } : State).slice 0).relist = [tMon] ∧
    (tMon.coded = false ∧ tMon.peer = none) ∧
    (({ tJoin with peer := some ⟨1, 5, 0, 0x20000⟩ } : Join).peer = some ⟨1, 5, 0, 0x20000⟩ ∧ (tRead none).peer = none ∧ (tPut (tAt [] [])).txns = []) ∧
    (∃ s1 id, ({ tPut (tAt [] []) with ports := [(0, { Port.fresh with en := true, expect := 1, up := true, peer := 1 })] } : State).sendTo 1 (regionTx 16 0 (tileOf (physKey 1 0x20000)) [7, 0x3F800000])
      (.join ⟨tileOf (physKey 1 0x20000), 0, 0, 0, 0x3F800000, false, 0⟩ 7 0) = some (s1, id)) :=
  ⟨by decide, by decide, by decide, by decide, by decide, by decide, by decide, ⟨⟨by decide, by decide, by decide, by decide⟩, by decide, by decide, by decide⟩,
    by decide, by decide, by decide, by decide, tSome (by decide +kernel)⟩

/-- Waves of partition 0 of core 0 by their slots. -/
def tWaves (ws : SMap Wave) : State := { tPut (tAt [] []) with waves := ws }
def tEnded : Wave := { tAt [] [] with fibres := [] }
def tAsking (need : Nat) : Wave := { tAt [] [] with wait := some (.regreq need) }
def tWatching : Wave := { tAt [] [] with wait := some (.monw ⟨tIssue, 0, 0x20000, 0x20000, false, 5, 0, 0⟩) }
def tOther (n : Nat) : Wave := { tAt [] [] with need := n, wait := some (.bar 1), age := 5, uid := 3 }

/-- A wave that is away to make room; a launch that waits for core 0, where another group holds part of the scratchpad, and one for which
the other cores are reserved. -/
def tSpilled (w : Wave) : Wave := { w with resident := false }
def tCrowded : State :=
  let l := { placedLaunch with placed := 0, live := 0, record := { placedRecord 0x10000 with dimx := 2, scratch := 524288 } }
  { tWaves [(0, tWatching)] with cycle := 65536, launches := [(0, l), (1, { l with prio := 3, record := { l.record with prio := 3 }, reserved := (List.range 63).map (· + 1) })] }

theorem witness_WaveScheduling :
    (tEnded.liveMask = 0 ∧ tEnded.ld = [] ∧ tEnded.tx = [] ∧ ∀ x ∈ ((tWaves [(0, tEnded)]).l1 0).dirty, x.2.owners.contains tEnded.uid = true → (tWaves [(0, tEnded)]).isLocal x.1 = true) ∧
    (tAt [] []).liveMask ≠ 0 ∧
    (bestBy older (((tWaves [(0, tAsking 72)]).partWaves 0).filter (fun x => x.2.asks.isSome)) = some (0, tAsking 72) ∧
      (tAsking 72).asks = some 72 ∧ (tAsking 72).resident = true) ∧
    (let s := tWaves [(0, tAsking 256), (1, tOther 3000)];
      s.firstAsk 0 = some (0, tAsking 256) ∧
      (∀ x ∈ s.partWaves 0, x.2.resident = true → x.2.parked = true) ∧ s.freeRegs 0 < ((tAsking 256).asks.getD 0) - (tAsking 256).need ∧
      s.unitWaits 0 7 = false ∧ (s.writeSpill 1 (tOther 8)).2 = true) ∧
    (let s := tWaves [(1, tSpilled (tOther 8))];
      List.find? (fun (p : Nat × Wave) => p.1 == 1 && s.isIn p.2.ctx) s.away = none ∧
      s.nextReturn 0 = some (1, tSpilled (tOther 8)) ∧ (tSpilled (tOther 8)).asks.getD (tSpilled (tOther 8)).need ≤ s.freeRegs 0 ∧
      (s.readSpill 1 (tSpilled (tOther 8))).2.isSome = true) ∧
    (tWatching.resident = true ∧ tWatching.spillable = true ∧ 65536 ≤ tCrowded.cycle - 0 ∧ tCrowded.candidates.any (tCrowded.waitedFor (cidOf 0)) = true) ∧
    (let s := tWaves [(0, tAt [] []), (1, { tAt [] [] with prio := 1, active := false })];
      bestBy before ((s.partWaves 0).filter (fun x => !x.2.active && x.2.ready)) = some (1, { tAt [] [] with prio := 1, active := false }) ∧
      bestBy leavesFirst (((s.partWaves 0).filter (fun x => x.2.active)).filter (fun x => x.2.prio < 1)) = some (0, tAt [] []) ∧ (s.core 0).exchange.find? 0 = none) ∧
    (let s := { tWaves [(0, { tAt [] [] with wait := some .retry, tried := 18 }), (1, { tAt [] [] with active := false })] with cycle := 17 };
      bestBy before ((s.partWaves 0).filter (fun x => !x.2.active && x.2.ready)) = some (1, { tAt [] [] with active := false }) ∧
      bestBy leavesFirst (((s.partWaves 0).filter (fun x => x.2.active)).filter (fun x => x.2.prio < 0)) = none ∧
      bestBy leavesFirst (((s.partWaves 0).filter (fun x => x.2.active)).filter (fun x =>
        x.2.wait.isSome && (x.2.wait != some .retry || decide (s.cycle < x.2.tried)) && decide (17 ≤ s.cycle - x.2.stallSince))) =
        some (0, { tAt [] [] with wait := some .retry, tried := 18 })) ∧
    ((tAt [] []).ready = true ∧ 4096 < 4097 - max (tAt [] []).lastIssue (tAt [] []).readySince) := by decide +kernel

/-- A launch queue whose ring at 0x20000 holds the given record at 0x21000. -/
def tQueue (ring : Nat) (tail : Nat) : State :=
  { tRam (tAt [] []) [(0x20000, bytesOf 8 0x21000 ++ bytesOf 4 1 ++ bytesOf 4 0 ++ bytesOf 4 0 ++ bytesOf 4 tail ++ bytesOf 8 0), (0x21000, tRecord)] with
    queues := [(3, { ring := BitVec.ofNat 64 ring, ctxReg := 0x80000000, tail := 1, stopped := false, last := none })], lastQueue := 3, zephyr := { State.reset.zephyr with booted := true } }
/-- A launch of two groups of which none is placed; one that is complete. -/
def tOpen : Launch := { placedLaunch with placed := 0, live := 0, waitingSince := some 0, record := { placedRecord 0x10000 with dimx := 2, evq := 0x20000 } }
def tComplete : Launch := { tOpen with placed := 2, completed := some 5 }
def tLaunches (l : Launch) (cells : List (Nat × List Byte)) : State := { tRam (tAt [] []) cells with launches := [(0, l)], cycle := 65536 }

theorem witness_LaunchesRun :
    (let s := tQueue 0x20000 1;
      s.zephyr.booted = true ∧ (s.lqueue 3).bell = false ∧ (s.lqueue 3).ring.toNat % 32 = 0 ∧
      (s.readVirtual deviceTlb 0 0x20000 32).2 = .ok (bytesOf 8 0x21000 ++ bytesOf 4 1 ++ bytesOf 4 0 ++ bytesOf 4 0 ++ bytesOf 4 1 ++ bytesOf 8 0) ∧
      (parseRing 16 (bytesOf 8 0x21000 ++ bytesOf 4 1 ++ bytesOf 4 0 ++ bytesOf 4 0 ++ bytesOf 4 1 ++ bytesOf 8 0)) = some ⟨0x21000, 1, 0, 1⟩ ∧
      s.zephyr.halted = false ∧ s.launchesFull = false ∧ s.nextQueue = some 3 ∧ (s.checkQueue 3).2 = some (some ⟨0x21000, 1, 0, 1⟩) ∧ (⟨0x21000, 1, 0, 1⟩ : Ring).used ≠ 0 ∧ halfOf (.ok (tRecord.take 64)) = some (.ok (tRecord.take 64)) ∧ halfOf (.ok (tRecord.drop 64)) = some (.ok (tRecord.drop 64)) ∧
      (s.readVirtual deviceTlb 0 0x21000 64).2 = .ok (tRecord.take 64) ∧ (s.readVirtual deviceTlb 0 0x21040 64).2 = .ok (tRecord.drop 64) ∧
      (s.checkLaunch 0 false (.ok (tRecord.take 64)) (.ok (tRecord.drop 64))).2.isSome = true ∧
      (s.writeVirtual deviceTlb 0 0x20010 (bytesOf 4 1)).2 = .ok []) ∧
    ((tQueue 0x20010 1).lqueue 3).ring.toNat % 32 ≠ 0 ∧
    (let s := tLaunches tOpen [];
      s.candidates = [⟨0, true, 0, 0⟩] ∧ s.launches.find? 0 = some tOpen ∧ (s.chooseCores 0 0 tOpen.record).isSome = true ∧ tOpen.placed = 0 ∧ (s.startLaunch tOpen).2 = some tOpen ∧
      tOpen.waitingSince = some 0 ∧ tOpen.reserved = [] ∧ s.placeable tOpen = true ∧ tOpen.completed = none ∧ s.launchDone 0 tOpen = false) ∧
    (tLaunches tComplete []).candidates = [] ∧
    (let l := { tOpen with placed := 2 }; let s := { tLaunches l [] with txns := [⟨0, 1, 0, .invalidate 0⟩] };
      l.completed = none ∧ s.launchDone 0 l = true ∧ ((s.flushContext l.ctx).oweSent 0 l.ctx s).invalidating = true) ∧
    (let s := tLaunches tComplete [(0x20000, bytesOf 8 0x21000 ++ bytesOf 4 4 ++ bytesOf 20 0)];
      tComplete.completed = some 5 ∧ tComplete.told = none ∧ s.unitWaits tComplete.ctx 6 = false ∧ s.earlierRecord tComplete 5 = false ∧ tComplete.silent = none ∧ tComplete.record.evq.toNat % 32 = 0 ∧
      (s.readVirtual deviceTlb 0 0x20000 32).2 = .ok (bytesOf 8 0x21000 ++ bytesOf 4 4 ++ bytesOf 20 0) ∧
      (s.writeVirtual deviceTlb 0 0x21000 (tComplete.completion 0)).2 = .ok [] ∧ (s.writeVirtual deviceTlb 0 0x20014 (bytesOf 4 1)).2 = .ok []) := by decide +kernel

/-- A queued ray with a direction and an empty scene's root node; a ray whose direction is zero; a bin that has waited; a ring entry. -/
def tGoing : Ray := { tRay [0, 0, 0, 0, 0x3F800000, 0, 0, 0x42C80000, 0x42C80000, 0xFFFFFFFF, 0xFFFFFFFF, 0, 0, 0, 0, 0, 0xFFFFF000, 0] with place := .queued }
def tStill : Ray := { tRay [] with place := .queued, words := (List.range 32).map (fun i => (i, 0)) }
def tBin : Bin := ⟨0, 0, false, 0, 3, 0, 0x10000, 0, [0], 0⟩
def tRinged : Ctx := { placedCtx with ringsize := 4, ringbase := 0x30000, ringTail := [(0, 1)], state := 1, ringHeld := [(0, some tRoot)] }

theorem witness_RaysTravel :
    (let s := { tRays (tAt [] []) [(0, tStill)] [] with cycle := 5 };
      s.rays.find? 0 = some tStill ∧ s.launches.find? 0 = some tShaded ∧ tStill.place = .queued ∧ (tStill.place = .traversing ∨ tStill.place = .queued ∧ s.isIn 0 = true) ∧ tStill.item = false ∧ s.isIn 0 = true ∧ .pool 0 ∉ s.spoiled ∧
      tStill.untested = true ∧ ({ tStill with ended := true } : Ray).ended = true) ∧
    (tGoing.untested = false ∧ tGoing.ended = false ∧
      tGoing.walk = none ∧ (Walk.run tShaded.shaders (2 ^ 27) { s := tRays (tAt [] []) [(0, tGoing)] [], cl := 0, ray := tGoing, nodes := 0, flags := 0 }
        [.node 0 ⟨0, [0, 0, 0], [0x3F800000, 0, 0], none⟩]).2.1 = .over) ∧ (tRoot.place ≠ .queued ∧ tRoot.place ≠ .traversing ∧ { tStill with place := .traversing }.place = RayPlace.traversing) ∧
    (({ tRays (tAt [] []) [] [] with bins := [(0, tBin)], cycle := 5 } : State).bins.find? 0 = some tBin ∧ tShaded.record.flush < 5 - tBin.opened ∧ State.reset.bins.find? 0 = none) ∧
    (placedCtx.ringUsed 0 = 0) ∧
    (let s := { tRays (tAt [] []) [] [(0x30000, bytesOf 255 0 ++ [0])] with ctxs := [(0, tRinged)] };
      s.ctxs.find? 0 = some tRinged ∧ tRinged.ringUsed 0 ≠ 0 ∧ s.poolUse 0 0 + 32 ≤ tRinged.poolcap ∧ s.poolUse 0 0 < tRinged.minNow ∧ 0 < s.poolFree 0 ∧ s.fairSlot 0 0 = (s, some 0) ∧ entryClean (List.replicate 256 0) = true ∧
      (tRinged.ringHeld.find? (fun h => h.1 == 0)).bind Prod.snd = some tRoot ∧ (({ tRinged with ringHeld := [] } : Ctx).ringHeld.find? (fun h => h.1 == 0)).bind Prod.snd = none ∧ (s.readVirtual deviceTlb 0 0x30000 256).2 = .ok (List.replicate 256 0) ∧
      (rayOfEntry 0 0 (List.replicate 256 0) tRoot 0).item = false ∧ (s.launches.find? (rayOfEntry 0 0 (List.replicate 256 0) tRoot 0).lid) = some tShaded ∧
      ofBytes (((List.replicate 256 (0 : Byte)).drop 128).take 4) % 2 = 0) := by decide +kernel

/-! ### Control cores, links and security -/

/-- A booted device with a context whose record 4 of a source waits for an answer, no operation under way, and CTXADDR at an image. -/
def tServed (source : Nat) (cells : List (Nat × List Byte)) : State :=
  { tRam (tAt [] []) cells with
    ctxs := [(0, { placedCtx with pending := [⟨4, .software, source, 0, 0, 0, 0, 0, 0, 0, none⟩] })]
    zephyr := { State.reset.zephyr with booted := true, provisioned := true, hostreg := true, policy := [0, 1, 2] }
    regs := { State.reset.regs with ctxaddr := 0x1000000 } }
/-- A group whose waves have all stopped, and one that has a wave stopped at an instruction. -/
def tHalted : Group := { placedGroup with halted := true, recorded := false }
def tFaulted : Wave := { tAt [] [] with run := .faulted 4 tIssue 0x80000000 }

theorem witness_AnswersAndReturns :
    (tServed 0 []).zephyr.booted = true ∧ ((tServed 0 []).answered 0 4 1).isSome = true ∧ ((tServed 0 []).answered 0 4 2).isSome = true ∧
    ((tServed 1 []).answered 0 4 3).isSome = true ∧ ((tServed 4 []).answered 0 4 4).isSome = true ∧ (tServed 0 []).isIn 0 = true ∧
    (tServed 0 []).answered 0 4 3 = none ∧ (tServed 0 []).answered 0 5 1 = none ∧ (tServed 0 []).answered 0 0 15 = none ∧
    ((tServed 0 []).ctxs.find? 0).isSome = true ∧ placedCtx.state = 1 ∧ (tHalted.halted = true ∧ tHalted.recorded = false) ∧
    tFaulted.wait = none ∧ ({ tFaulted with wait := some (.bar 0xC0000000) } : Wave).wait = some (.bar 0xC0000000) ∧
    (0xC0000000 : Word) &&& ~~~((tIssue.batch ||| 0x80000000) &&& ({ tFaulted with wait := some (.bar 0xC0000000) } : Wave).liveMask) ≠ 0 ∧
    (∀ p ∈ (tPut { tAt [] [] with run := .stopped }).waves, p.2.group = 0 → p.2.isQuiet = true) ∧ tFaulted.run = .faulted 4 tIssue 0x80000000 ∧
    ((tIssue.batch ||| 0x80000000).getLsbD 31 = true ∧ (tFaulted.fib 31).live = true) := by decide +kernel

/-- The header of an image of context 7 that was never switched in. -/
def tImageHeader : List Byte :=
  bytesOf 4 7 ++ bytesOf 4 0 ++ bytesOf 8 0x400000 ++ bytesOf 40 0 ++ bytesOf 2 64 ++ bytesOf 2 64 ++ bytesOf 20 0
def tOld : Ctx := (tServed 0 []).readHeader 0x1000000 Ctx.fresh
/-- An operation is under way on context 0, with the result that it will have; one of whose waves has not stopped. -/
def tOperating (op : Nat) (outcome : Option Nat) (g : Group) : State :=
  { tServed 0 [] with groups := [(0, g)], regs := { (tServed 0 []).regs with busy := true, ctxctl := BitVec.ofNat 32 (4096 * op), outcome := outcome } }

theorem witness_OperationsEnd :
    ((tOperating 3 (some 0) placedGroup).regs.busy = true ∧ (tOperating 3 (some 0) placedGroup).regs.outcome = some 0 ∧
      ((tOperating 3 (some 0) placedGroup).ctxs.find? ((tOperating 3 (some 0) placedGroup).regs.ctxctl.toNat % 4096)).map Ctx.state = some 1 ∧
      (tOperating 3 (some 0) placedGroup).regs.ctxctl.toNat / 4096 ≠ 5) ∧
    ((tOperating 5 (some 0) placedGroup).regs.ctxctl.toNat / 4096 = 5 ∧ (tOperating 5 (some 0) placedGroup).haltedStopped 0 = true ∧
      (tOperating 5 (some 0) tHalted).haltedStopped 0 = false) ∧
    ((tOperating 1 none placedGroup).regs.outcome = none ∧ (tOperating 1 none placedGroup).regs.ctxctl.toNat / 4096 = 1) ∧
    (({ tOperating 3 none placedGroup with ctxs := [] } : State).ctxs.find? 0 = none ∧ (tServed 0 []).regs.busy = false) ∧
    (let s : State := { tServed 0 [] with waves := [(0, tSpilled (tAt [] []))] }; ∃ s1, s.spillAll (List.filter (fun (p : Nat × Wave) => p.2.ctx == 0) s.waves) = (s1, true)) ∧
    (let c := { placedCtx with rtbase := 0x20000 }
      let s0 := ((tServed 0 []).setCtx 0 { c with state := 2, csbase := placedCtx.csbase, cssize := placedCtx.cssize }).dropTlb 0
      (s0.readVirtual deviceTlb 0 c.rtbase.toNat 1024).2.isOk = true) :=
  ⟨by decide +kernel, by decide +kernel, by decide +kernel, by decide +kernel, ⟨_, rfl⟩, by decide +kernel⟩

theorem witness_ContextOperations :
    ({ (tServed 0 []).regs with busy := true } : Regs).busy = true ∧ (tServed 0 []).regs.busy = false ∧
    (({ tServed 0 [] with regs := { (tServed 0 []).regs with ctxaddr := 0x1000800 } } : State).imageOk 0x1000800 = false) ∧
    (let s := tServed 0 [(0x1000000, tImageHeader)];
      let c := s.readHeader 0x1000000 Ctx.fresh;
      s.imageOk 0x1000000 = true ∧ s.ctxs.find? 7 = none ∧ Ctx.fresh.state ≠ 1 ∧ Ctx.fresh.state ≠ 3 ∧ s.imageField 0x1000000 4 4 = 0 ∧ s.headerOk 7 0x1000000 c = true ∧
      c.poolmin + ((s.ctxs.filter (fun (x : Nat × Ctx) => x.1 != 7 && (x.2.state == 1 || x.2.state == 3))).map (fun x => x.2.poolmin)).sum ≤ 32768 ∧
      ((List.range 8).map (fun cl => s.readCce 0x1000000 cl true (c.cce.get Cce.fresh cl))).all Cce.ok = true ∧
      (∀ x ∈ s.ctxs, x.1 ≠ 7 → (x.2.state = 1 ∨ x.2.state = 3) → ∀ cl, cl < 8 →
        (((List.range 8).map (fun cl => s.readCce 0x1000000 cl true (c.cce.get Cce.fresh cl))).getD cl Cce.fresh).apart (x.2.cce.get Cce.fresh cl) = true)) ∧
    ((tServed 0 []).beginOp 0 2).saveOk 0 ((tServed 0 []).ctxs.get placedCtx 0) = true ∧ (tServed 0 []).isIn 0 = true ∧
    (({ tServed 0 [] with regs := { (tServed 0 []).regs with ctxaddr := 0 } } : State).launches.find? 0 = some placedLaunch ∧ placedLaunch.ctx = 0) ∧
    (({ placedCtx with state := 3 } : Ctx).state = 3 ∧ (0x2000 : Word).toNat / 4096 ≠ 5) := by decide +kernel

/-- An invalidation is under way; another device has not answered a write. -/
def tInvalidating (txns : List Txn) : State := { tServed 0 [] with regs := { (tServed 0 []).regs with inval := some ⟨0, 0, 4096⟩ }, txns := txns }

theorem witness_DeviceRegisters : (tServed 0 []).zephyr.booted = true ∧ (tServed 0 []).regs.inval = none ∧ (tInvalidating []).regs.inval = some ⟨0, 0, 4096⟩ ∧
    (((tInvalidating []).flushContext 0).leaveTiles 0).accessing 0 = false ∧
    (((tInvalidating [⟨0, 1, 0, .other⟩]).flushContext 0).leaveTiles 0).accessing 0 = true ∧
    ((tServed 0 []).regs.domainSet = false ∧ ({ tServed 0 [] with ctxs := [] } : State).ctxs = [] ∧ (tServed 0 []).ctxs ≠ [] ∧
      (0x0807 : Word).getLsbD (8 + (0x0807 : Word).toNat % 8) = false ∧ (0x8007 : Word).getLsbD (8 + (0x8007 : Word).toNat % 8) = true) ∧
    ((tServed 0 []).port 7).en = false ∧ ((tServed 0 []).port 0).up = false ∧ (1 : Word).getLsbD 0 = true ∧
    (({ placedCtx with state := 2 } : Ctx).state ≠ 1 ∧ ({ placedCtx with state := 2 } : Ctx).state ≠ 3) := by decide +kernel

/-- Port 0 up with device 1, whose 64 places are free; a flit of traffic with one unit, and an idle one. -/
def tPort : Port := { Port.fresh with en := true, expect := 1, up := true, peer := 1 }
def tLinked (p : Port) : State := { tServed 0 [] with ports := [(0, p)], regs := { (tServed 0 []).regs with domain := 0x300 } }
def tFlit (kind : Nat) : List Byte := flitBytes 0 0 kind 3 1 ([1, 0, 5, 0, 0, 0, 0, 0] ++ bytesOf 8 0x20000)

/-- A flit of an undefined kind. -/
theorem tBadFlit : flitGood (List.replicate 256 3) = false := by
  have h : (decide (flitField (List.replicate 256 3) 4 1 ≤ 2)) = false := by decide
  simp only [flitGood, h, Bool.and_false, Bool.false_and]

theorem witness_LinksCarryFlits :
    (let p := { tPort with up := false }; (p.en = true ∧ p.up = false ∧ p.down = false ∧ 9 % 8 = p.expect ∧ (tLinked p).member (9 % 8) = true ∧ 2 % 8 ≠ p.expect)) ∧
    tPort.up = true ∧ flitGood (List.replicate 256 3) = false ∧ tPort.refusals < 15 ∧ flitGood (tFlit 0) = true ∧ flitField (tFlit 0) 4 1 = 0 ∧
    flitGood (tFlit 1) = true ∧ ( flitField (tFlit 1) 4 1 = 1 ∧ flitField (tFlit 1) 0 2 = (tPort.acked 0).rxSeq ∧ (tPort.acked 0).inbox.length < 64 ∧
      (parseUnits 15 (((tFlit 1).drop 8).take 240) [] 0).1.length = 1) ∧
    ((tPort.replay 0).pumpAll 0).refused < 16 ∧
    ((tLinked { tPort with up := false, peer := 0 }).portTo 1 = none ∧ (∀ p ∈ (tLinked { tPort with up := false, peer := 0 }).ports, p.2.peer ≠ 1) ∧
      (tLinked { tPort with up := false }).portTo 1 = none ∧ ((tLinked { tPort with up := false }).port 0).peer = 1) ∧
    ((tLinked tPort).portTo 1).isSome = true :=
  ⟨by decide +kernel, by decide, tBadFlit, by decide, flitGood_flitBytes _ _ _ _ _ _ (by decide) (by decide) (by decide), by decide +kernel, flitGood_flitBytes _ _ _ _ _ _ (by decide) (by decide) (by decide),
    by decide +kernel, by decide +kernel, by decide +kernel, by decide +kernel⟩

/-- A transaction at the head of its class, each operation with an address and data that its clause asks for. -/
def tTx (op scope addr : Nat) (data : List Byte) : LinkTx := ⟨op, 5, 2, scope, addr, data, none⟩
def tInbox (t : LinkTx) : State := tLinked { tPort with inbox := [t] }

theorem witness_LinkTransactionsAreServed :
    ((tInbox (tTx 1 0 0x20000 [])).port 0).next 1 = some (tTx 1 0 0x20000 []) ∧
    (State.exactRead 2 (tInbox (tTx 1 0 0x20000 [])) (physKey 0 0x20000) 128 []).2 = .ok (List.replicate 128 0) ∧ inDevice (2 ^ 47) 128 = false ∧
    (let s := tInbox (tTx 2 0 0x20000 [1, 2]); (s.port 0).next 2 = some (tTx 2 0 0x20000 [1, 2]) ∧ inDevice 0x20000 2 = true ∧
      (s.clearHome ((tTx 2 0 0x20000 [1, 2]).cells 0)).2 = true) ∧
    (let t := tTx 3 (16 + 10) 0x20004 (bytesOf 16 1); let s := tInbox t; (s.port 0).next 3 = some t ∧ inDevice t.addr 4 = true ∧ t.addr % 4 = 0 ∧ t.scope % 16 ≤ 10 ∧
      (s.clearHome [(0x20004, 0)]).2 = true ∧ (State.exactRead 2 s 0x20004 4 []).2 = .ok [0, 0, 0, 0]) ∧
    (let t := tTx 4 0 0x20000 (bytesOf 4 7 ++ bytesOf 4 1 ++ bytesOf 8 0x20080 ++ bytesOf 8 0x20080); ((tInbox t).remoteQueue true t).2.map Prod.fst = some 0) ∧
    (let t := tTx 5 0 0x20000 (bytesOf 4 7 ++ bytesOf 4 1 ++ bytesOf 8 0x20080 ++ bytesOf 8 0x20080); ((tInbox t).remoteQueue false t).2.map Prod.fst = some 0) ∧
    (let t := tTx 6 9 0x20000 (bytesOf 16 7); ((tInbox t).port 0).next 6 = some t ∧ t.scope < 10 ∧
      (State.exactRead 2 (tInbox t) 0x20000 4 []).2 = .ok [0, 0, 0, 0]) ∧
    ((tInbox (tTx 7 0 0x20000 [])).port 0).next 7 = some (tTx 7 0 0x20000 []) ∧
    (let t := tTx 8 9 0x20000 (bytesOf 128 0); ((tInbox t).port 0).next 8 = some t ∧ 8 < t.scope ∧ t.scope < 16) ∧
    (let t := tTx 8 16 0x20000 (bytesOf 4 7 ++ bytesOf 4 0x3F800000); ((tInbox t).port 0).next 8 = some t ∧ t.scope = 16 ∧ inDevice t.addr 256 = true ∧ t.addr % 256 = 0) ∧
    (let t := tTx 8 8 0x20000 (bytesOf 128 0); ((tInbox t).port 0).next 8 = some t ∧ t.scope ≤ 8 ∧
      (State.exactRead 10 (tInbox t) 0x20000 128 []).2 = .ok (List.replicate 128 0)) ∧
    (let t := tTx 9 0 0x20000 []; let s := { tInbox t with txns := [⟨5, 1, 0x20000, .other⟩] }; (s.port 0).next 9 = some t ∧
      (s.takeTx 0 t).txnOf ((s.takeTx 0 t).port 0).peer t.tag = some ⟨5, 1, 0x20000, .other⟩ ∧ (tTx 9 1 0x20000 []).scope ≠ 0) ∧
    (let t := tTx 10 0 0x20000 []; let s := { tInbox t with txns := [⟨5, 1, 0x20000, .monw 0 tIssue 0 0x20000⟩] }; (s.port 0).next 10 = some t ∧
      (s.takeTx 0 t).txnOf ((s.takeTx 0 t).port 0).peer t.tag = some ⟨5, 1, 0x20000, .monw 0 tIssue 0 0x20000⟩ ∧ s.waves.find? tIssue.wave = some (tAt [] []) ∧
      (tAt [] []).uid = 0 ∧ s.waveOf 0 tIssue = some (tAt [] []) ∧ (tAt [] []).isStopped = false ∧ s.inOrder 0 tIssue.wave = true) ∧
    ((tInbox (tTx 8 8 0x20000 (bytesOf 128 0))).view 0x20000 4 ((tInbox (tTx 8 8 0x20000 (bytesOf 128 0))).codedAt 0x20000) = some [0, 0, 0, 0]) := by decide +kernel

theorem witness_HostAndControlCoreAccess : (tServed 0 []).zephyr.booted = true ∧ inDevice 0x20000 256 = true ∧ inDevice (2 ^ 48) 1 = false ∧
    State.reset.zephyr.hostreg = false ∧ (tServed 0 []).zephyr.hostreg = true ∧ (tServed 0 []).regValue .mdbase = (8, some 0) ∧
    State.reset.zephyr.booted = false ∧ (tServed 0 []).regs.inval = none := by decide +kernel

/-- An image that a fused key signs, whichever keys the signature scheme accepts; alarm sources with each response. -/
theorem witness_SecurityAndPower (image key sig : List Byte) (h : Config.slhVerify key sig (Config.shake256 64 image) = true)
    (hl : Config.shake256 (Config.shake256 32 key).length key = Config.shake256 32 key) (hn : (Config.shake256 32 key).isEmpty = false) :
    ({ State.reset.zephyr with digests := [Config.shake256 32 key], rollback := 3 } : Zephyr).imageOk image key sig 0 3 = true ∧
    (tServed 0 []).zephyr.booted = true ∧ (tServed 0 []).zephyr.provisioned = true ∧ (List.replicate 32 (0 : Byte)).length = 32 ∧ ({ State.reset.zephyr with provisioned := false } : Zephyr).provisioned = false ∧
    (tServed 0 []).zephyr.strongest (alarmSources 1) = 0 ∧ (tServed 0 []).zephyr.strongest (alarmSources 3) ≠ 0 ∧
    ((({ tServed 0 [] with l2 := [(0x400, [])] } : State).l2.find? 0x400).isSome = true) ∧ (tServed 0 []).isLocal 0x20000 = true ∧ lineOf 0x20000 ∉ (tServed 0 []).poison ∧
    .register 0 (cellAt 63 31) ∉ (tServed 0 []).spoiled := by
  refine ⟨?_, rfl, rfl, rfl, rfl, by decide, by decide, by decide, by decide, by decide, by decide⟩
  simp [Zephyr.imageOk, Zephyr.keyOk, h, hl, hn]

/-! ### Words, traps and steps -/

theorem witness_WordsThatAreNoInstruction : (tPut (tAt [] [])).cur = some tIssue ∧ (tPut (tAt [] [])).waves.find? 0 = some (tAt [] []) ∧ tIssue.batch ≠ 0 ∧
    (decodeWord 0x2C0C20B0 0 = none ∧ illegalOp 0x2C0C20B0 = true) ∧
    (decodeWord 0x3D0A360B 0 = none ∧ illegalOp 0x3D0A360B = false ∧ guardOf 0x3D0A360B = none) ∧
    (decodeWord 0x721F32E3 0 = none ∧ illegalOp 0x721F32E3 = false ∧ guardOf 0x721F32E3 = some 0 ∧ (tAt [] []).guarded tIssue.batch 0 ≠ 0) ∧
    (∃ s1 c a, (tPut (tAt [] [])).fetchWord 0 0 0x300000 = (s1, .fault c a)) :=
  ⟨rfl, rfl, by decide, by decide, by decide, by decide,
    ((tPut (tAt [] [])).fetchWord 0 0 0x300000).1, .xlateNotPresent, 0x300000, by decide +kernel⟩

/-- Two waves of one group, of which the second goes on. -/
theorem witness_TrapsHaltTheGroup :
    let s : State := tWaves [(0, tAt [] []), (1, tAt [] [])]
    s.waves.find? tIssue.wave = some (tAt [] []) ∧ s.group 0 = some placedGroup ∧ placedGroup.halted = false ∧ s.ctxs.find? 0 = some placedCtx ∧
      1 ≠ tIssue.wave ∧ s.waves.find? 1 = some (tAt [] []) ∧ (tAt [] []).run = .running ∧ (tAt [] []).wait = none ∧ (tAt [] []).batch.isSome = true := by decide +kernel

/-- A guard no lane passes; v63 of a wave with 64 registers and v64; an EMPTY register; a tag that does not fit; a counter at 63. -/
theorem witness_IssuesThatDoNotExecute : (tAt [] []).guarded 1 1 = 0 ∧ (tAt [] []).guarded 1 0 ≠ 0 ∧ (Opnd.vec 64 1 1).bad (tAt [] []) = true ∧
    (∀ o ∈ ([.vec 63 1 1, .src 1, .src 2] : List Opnd), o.bad (tAt [] []) = false) ∧
    ({ tAt [] [] with regs := [(cellAt 1 0, ⟨0, 0, true⟩)] } : Wave).emptyIn [.vec 63 1 1, .src 1, .src 2] 1 = true ∧
    (tagFixed 1 (({ tAt [] [] with regs := [(cellAt 1 0, ⟨0, 2, false⟩), (cellAt 2 0, ⟨0, 0, false⟩)] } : Wave).src 1 0) = false ∧ (0 : Nat) < 32 ∧ (1 : Word).getLsbD 0 = true) ∧
    2 ≤ (2 : BitVec 2).toNat ∧ ({ tAt [] [] with ld := List.replicate 63 (tOp .load) } : Wave).ld.length = 63 ∧
    ({ tAt [] [] with st := List.replicate 63 (tOp .store) } : Wave).st.length = 63 ∧ (tAt [] []).run = .running := by decide +kernel

theorem witness_LoadsAndStoresOfMemory : (tRam (tAt [0x20000, 0] []) []).Undisturbed ∧
    (∃ t p, loadsBytes 4 false 4 0 0 (tRam (tAt [0x20000, 0] []) []) tIssue 1 (tAt [0x20000, 0] []) = some (t, p)) ∧
    (∃ t p, storesBytes 4 4 0 0 (tRam (tAt [0x20000, 0] []) []) tIssue 1 (tAt [0x20000, 0] []) = some (t, p)) ∧
    ((tRam (tAt [0x20000, 0] []) []).checkLanes 0 (tAt [0x20000, 0] []) (Access.store 4) (fun l => [fbAddress 4 0 0 tIssue (tAt [0x20000, 0] []) l]) [0] []).2 =
      .ok [(0, [⟨.mem 0x20000 false, none, none⟩])] ∧
    ((tRam (tAt [] []) []).group 0).isSome = true ∧ (tRam (tAt [] []) []).isLocal 0x20003 = true :=
  ⟨tUndisturbed .., tSome (by decide +kernel), tSome (by decide +kernel), by decide +kernel, by decide, by decide⟩

/-- A placed program of one word and of two: the wave may issue, the words are fetched, and they decode. -/
def tProgram (bs : List Byte) : State := State.reset.loadProgram bs
theorem witness_StepRunsTheInstruction :
    (let s := { tProgram (bytesOf 4 0x02143070) with agenda := [.issue 0] };
      s.agenda = .issue 0 :: [] ∧ (s.waves.find? 0).map Wave.mayTry = some true ∧ (s.waves.find? 0).bind Wave.batch = some (0x10000, 0xFFFFFFFF) ∧
      (({ s with agenda := [] } : State).fetchWord 0 0 0x10000).2 = .word 0x02143070 ∧ decode (bytesOf 4 0x02143070) = .ok (.iadd 5 6 7 0 0, [])) ∧
    (let s := tProgram (bytesOf 4 0xFE000000 ++ bytesOf 4 0xE4080005);
      (({ s with agenda := [] } : State).fetchWord 0 0 0x10000).2 = .word 0xFE000000 ∧
      ((({ s with agenda := [] } : State).fetchWord 0 0 0x10000).1.fetchWord 0 0 0x10004).2 = .word 0xE4080005 ∧
      decode (bytesOf 4 0xFE000000 ++ bytesOf 4 0xE4080005) = .ok (.imx 0 0xE4080005, [])) ∧
    (let s := { tProgram (bytesOf 4 0x02143070) with agenda := [] };
      s.issuedNow 0 = [] ∧ s.late 0 = false ∧ s.best 0 = some 0 ∧ firstChange s (dueEvents s) = none ∧ s.partitions.findSome? s.best = some 0 ∧
      s.mayIssue 0 (issueClass 0x02143070) = true) ∧
    (let s := tWaves [(0, tAt [] []), (1, { tAt [] [] with uid := 1, age := 1, prio := 1 })];
      s.best 0 = some 1 ∧ ((s.noteIssue 0 0).noteIssue 1 0).issuedNow 0 = [(0, 0), (1, 0)] ∧
      ({ s with ctxs := [(0, { placedCtx with raised := some (0, 5) })] } : State).late 1 = true) ∧
    isEvent (.loadLands 0 0) = true ∧ firstChange State.reset (dueEvents State.reset) = none ∧ State.reset.partitions.findSome? State.reset.best = none ∧
    (firstChange (tWaves [(0, tEnded)]) (dueEvents (tWaves [(0, tEnded)]))).isSome = true := by decide +kernel

theorem witness_EncodeDecode : (Instr.iadd 127 127 127 3 3).isWord = true ∧ (Instr.iadd 127 127 127 3 3).wf = true := by decide
theorem witness_WordsHaveOneMeaning : bitsAt 25 7 (0x02143070 : Word) ≠ 0x7F ∧ decodeWord 0x02143070 0 = some (.iadd 5 6 7 0 0) := by decide
/-- One step of a placed program keeps the form. -/
theorem witness_MemoryStaysCanonical : memoryWf (tProgram (bytesOf 4 0x02143070)).mem = true ∧ (match step (tProgram (bytesOf 4 0x02143070)) with
    | .next t => memoryWf t.mem
    | .fault _ => false
    | .refused _ => false) = true := by decide +kernel

/-! ### An ill-formed term for each check of WellFormed -/

/-- A hold field that its row leaves reserved (03 R85, R97). -/
theorem test_wf_refuses_hold : ∀ i ∈ ([.mov 1 2 0 2, .lnot 1 2 0 2, .neg 1 2 0 2, .iabs 1 2 0 2, .popc 1 2 0 2, .clz 1 2 0 2, .ctz 1 2 0 2, .brev 1 2 0 2,
    .bswap 1 2 0 2, .laneid 1 0 1, .laneid 1 0 2, .fibid 1 0 1, .fibid 1 0 2, .xbar 1 4 0 0 1, .xbar 1 4 0 0 2, .settag 1 2 0 0 2, .gettag 1 2 0 2] : List Instr),
    i.wf = false := by decide +kernel

/-- The same of the floating and conversion rows (05 R144 to R147, R153 to R158). -/
theorem test_wf_refuses_float_hold : ∀ i ∈ ([.fmov 1 2 0 2, .fneg 1 2 0 2, .fabs 1 2 0 2, .frcp 1 2 0 2, .frsq 1 2 0 2, .fsqrt 1 2 0 2, .fexp2 1 2 0 2,
    .flog2 1 2 0 2, .fsin 1 2 0 2, .fcos 1 2 0 2, .ffloor 1 2 0 2, .fceil 1 2 0 2, .ftrunc 1 2 0 2, .frint 1 2 0 2, .ffract 1 2 0 2, .fsign 1 2 0 2,
    .cvt 1 2 0 2 0 2, .pack 1 2 0 2 0 1, .pack 1 2 0 2 0 2, .unpackWiden 2 1 0 0 2, .unpackWiden 2 1 0 0 3] : List Instr), i.wf = false := by decide +kernel

/-- A condition, operation or mode past the last one defined (04 R122 to R127). -/
theorem test_wf_refuses_conditions : ∀ i ∈ ([.icmp 6 0 1 2 0, .ucmp 15 0 1 2 0, .fcmp 13 0 1 2 0, .hcmp 14 0 1 2 0, .icmpi 6 0 1 0, .plog 0 0 0 3 0 0 0,
    .pmov 8 0 0 0, .pmov 0 16 0 0, .pmov 1 1 1 0, .pmov 1 1 2 0, .pmov 0 0 3 0, .vote 8 0 0 0 0, .vote 8 0 0 1 0, .vote 8 0 0 3 0] : List Instr), i.wf = false := by decide +kernel

/-- Conversions whose target or flag is reserved, and reserved counts (05 R153 to R157, R170). -/
theorem test_wf_refuses_targets : ∀ i ∈ ([.cvt 1 2 0 4 0 0, .cvt 1 2 0 63 0 0, .cvt 1 2 1 0 0 0, .cvt 1 2 1 50 0 0, .cvt 1 2 1 51 0 0, .pack 1 2 0 0 0 0,
    .pack 1 2 0 1 0 0, .pack 1 2 0 4 0 0, .pack 1 2 0 63 0 0, .pack 1 2 1 50 0 0, .pack 1 2 1 51 0 0, .unpackWiden 4 1 3 0 0, .tcvt 0 8 0 1 0] : List Instr),
    i.wf = false := by decide +kernel

/-- A tile instruction's lane mode, function or operation (05 R164 to R172; 06 R190). -/
theorem test_wf_refuses_tile_modes : ∀ i ∈ ([.tmma 0 8 12 2, .tmmat 0 8 12 3, .tzero 0 2, .ttrnFragment 0 8 2, .ttrnAccumulator 0 8 2, .tact 0 8 6 0, .tact 0 8 0 2,
    .tcvt 0 8 0 2 2, .tred 0 8 3 0, .tred 0 8 0 2, .tbias 0 8 16 2, .tld 0 8 1 2, .tst 0 8 1 3] : List Instr), i.wf = false := by decide +kernel

/-- A monitor's condition, an engine's queue, a record's size and an item's words (03 R95; 06 R197; 07 R230, R234). -/
theorem test_wf_refuses_queues : ∀ i ∈ ([.monw 10 2 1 0, .cplin 0 4 4, .cp2d 0 4 15, .cpgath 0 4 4, .cpscat 0 4 4, .cpexp 0 4 4, .cpcmp 0 4 4, .rcarm 0 4 4, .rcwait 0 4 4,
    .gtopk 0 4 3, .gbuck 0 4 8, .gmerge 0 4 3, .ghist 0 4 8, .gscan 0 4 3, .gperm 0 4 8, .cxfork 0 4 7, .cxrdv 0 4 12, .cxbond 0 4 7, .cxdense 0 4 12,
    .qfence 0 4 12, .qstat 0 4 12, .rayld 4 3 0 0, .rayst 4 3 0 0, .item 17 4 0] : List Instr), i.wf = false := by decide +kernel

/-- IMX before a word that does not accept it, before F-C bits [17:11] and before an undefined condition (03 R90, R91). -/
theorem test_wf_imx (v : BitVec 25) (w : Word) : (Instr.imx v w).wf = imxAccepts w := rfl
theorem test_wf_refuses_followers : imxAccepts 0x02143070 = false ∧ imxAccepts 0xE4080805 = false ∧ imxAccepts 0x48C00000 = false := by decide +kernel

/-- The same with fields in range. -/
theorem test_wf_accepts : ∀ i ∈ ([.mov 1 2 0 3, .laneid 1 0 3, .icmp 5 7 1 2 0, .fcmp 12 0 1 2 0, .pmov 7 15 0 0, .pmov 1 0 1 0, .pmov 0 1 2 0, .vote 127 0 0 2 0,
    .cvt 1 2 1 2 0 0, .pack 1 2 0 51 0 3] : List Instr), i.wf = true := by decide +kernel
theorem test_wf_accepts_units : ∀ i ∈ ([.unpackWiden 4 1 2 0 1, .tact 0 8 5 1, .tred 0 8 2 1, .monw 9 2 1 0, .cplin 0 4 3, .gperm 0 4 7, .cxfork 0 4 8, .qstat 0 4 11,
    .rayld 4 2 31 0, .item 16 4 0] : List Instr), i.wf = true := by decide +kernel
theorem test_wf_accepts_imx : (Instr.imx 0 0xE4080005).wf = true := test_wf_imx _ _ ▸ (by decide +kernel : imxAccepts 0xE4080005 = true)

/-! ### Words written from the encoding table of 03 (opcode, fields at the places its formats give) decode to their instructions -/

/-- IADD to SHR (R114, R115, R116). -/
theorem test_decode_iadd_to_shr : ∀ p ∈ ([
    (0x02144927, .iadd 5 9 18 1 3), (0x04144927, .iadds 5 9 18 1 3), (0x06144927, .isub 5 9 18 1 3), (0x08144927, .isubs 5 9 18 1 3),
    (0x0A144927, .imul 5 9 18 1 3), (0x0C144927, .imulh 5 9 18 1 3), (0x0E144927, .imulhu 5 9 18 1 3), (0x10144927, .imad 5 9 18 1 3),
    (0x12144927, .land 5 9 18 1 3), (0x14144927, .lor 5 9 18 1 3), (0x16144927, .lxor 5 9 18 1 3), (0x18144927, .andn 5 9 18 1 3),
    (0x1A144927, .shl 5 9 18 1 3), (0x1C144927, .shr 5 9 18 1 3)] : List (Word × Instr)), decodeWord p.1 0 = some p.2 := by decide

/-- SAR to CTZ (R114, R115, R117, R118). -/
theorem test_decode_sar_to_ctz : ∀ p ∈ ([
    (0x1E144927, .sar 5 9 18 1 3), (0x20144927, .imin 5 9 18 1 3), (0x22144927, .imax 5 9 18 1 3), (0x24144927, .umin 5 9 18 1 3),
    (0x26144927, .umax 5 9 18 1 3), (0x28144924, .lea2 5 9 18 1), (0x2A144924, .lea3 5 9 18 1), (0x2C144807, .mov 5 9 1 3),
    (0x2C144817, .lnot 5 9 1 3), (0x2C144827, .neg 5 9 1 3), (0x2C144837, .iabs 5 9 1 3), (0x2C144847, .popc 5 9 1 3),
    (0x2C144857, .clz 5 9 1 3), (0x2C144867, .ctz 5 9 1 3)] : List (Word × Instr)), decodeWord p.1 0 = some p.2 := by decide

/-- BREV to ICMP (R118, R120, R121, R122). -/
theorem test_decode_brev_to_icmp : ∀ p ∈ ([
    (0x2C144877, .brev 5 9 1 3), (0x2C144887, .bswap 5 9 1 3), (0x2C140097, .laneid 5 1 3), (0x2C1400A7, .fibid 5 1 3),
    (0x2E1402A5, .smovi 5 677), (0x30144AA5, .iaddi 5 9 677), (0x32144AA5, .imuli 5 9 677), (0x34144AA5, .andi 5 9 677),
    (0x36144AA5, .ori 5 9 677), (0x38144AA5, .xori 5 9 677), (0x3A144806, .shli 5 9 6), (0x3C144806, .shri 5 9 6),
    (0x3E144806, .sari 5 9 6), (0x40744924, .icmp 3 5 9 18 1)] : List (Word × Instr)), decodeWord p.1 0 = some p.2 := by decide

/-- UCMP to FCLAMP (R122, R124, R125, R126, R127, R144, R145). -/
theorem test_decode_ucmp_to_fclamp : ∀ p ∈ ([
    (0x42744924, .ucmp 3 5 9 18 1), (0x44744924, .fcmp 3 5 9 18 1), (0x46744924, .hcmp 3 5 9 18 1), (0x48744AA5, .icmpi 3 5 9 677),
    (0x4A140924, .plog 5 0 1 1 0 2 1), (0x4C144824, .pmov 5 9 2 1), (0x4E140824, .vote 5 0 1 2 1), (0x50144927, .fadd 5 9 18 1 3),
    (0x52144927, .fsub 5 9 18 1 3), (0x54144927, .fmul 5 9 18 1 3), (0x56144927, .ffma 5 9 18 1 3), (0x58144927, .fmin 5 9 18 1 3),
    (0x5A144927, .fmax 5 9 18 1 3), (0x5C144927, .fclamp 5 9 18 1 3)] : List (Word × Instr)), decodeWord p.1 0 = some p.2 := by decide

/-- FMOV to FRINT (R146). -/
theorem test_decode_fmov_to_frint : ∀ p ∈ ([
    (0x5E144807, .fmov 5 9 1 3), (0x5E144817, .fneg 5 9 1 3), (0x5E144827, .fabs 5 9 1 3), (0x5E144837, .frcp 5 9 1 3),
    (0x5E144847, .frsq 5 9 1 3), (0x5E144857, .fsqrt 5 9 1 3), (0x5E144867, .fexp2 5 9 1 3), (0x5E144877, .flog2 5 9 1 3),
    (0x5E144887, .fsin 5 9 1 3), (0x5E144897, .fcos 5 9 1 3), (0x5E1448A7, .ffloor 5 9 1 3), (0x5E1448B7, .fceil 5 9 1 3),
    (0x5E1448C7, .ftrunc 5 9 1 3), (0x5E1448D7, .frint 5 9 1 3)] : List (Word × Instr)), decodeWord p.1 0 = some p.2 := by decide

/-- FFRACT to CFMA (R79, R146, R148, R149, R150, R152). -/
theorem test_decode_ffract_to_cfma : ∀ p ∈ ([
    (0x5E1448E7, .ffract 5 9 1 3), (0x5E1448F7, .fsign 5 9 1 3), (0x60144927, .hadd2 5 9 18 1 3), (0x62144927, .hsub2 5 9 18 1 3),
    (0x64144927, .hmul2 5 9 18 1 3), (0x66144927, .hfma2 5 9 18 1 3), (0x68144927, .hmin2 5 9 18 1 3), (0x6A144927, .hmax2 5 9 18 1 3),
    (0x6C144927, .dot2h 5 9 18 1 3), (0x6E144927, .dot4q 5 9 18 1 3), (0x70144924, .cadd 5 9 18 1), (0x72144924, .csub 5 9 18 1),
    (0x74144924, .cmul 5 9 18 1), (0x76144924, .cfma 5 9 18 1)] : List (Word × Instr)), decodeWord p.1 0 = some p.2 := by decide

/-- CCMUL to TMMA (R79, R152, R154, R155, R156, R157, R158, R159, R161, R163, R166). -/
theorem test_decode_ccmul_to_tmma : ∀ p ∈ ([
    (0x78144924, .ccmul 5 9 18 1), (0x7A144804, .cmag2 5 9 1), (0x7C144804, .cexpi 5 9 1), (0x7E144924, .cscale 5 9 18 1),
    (0x80144C27, .cvt 5 9 1 2 1 3), (0x82144C27, .pack 5 9 1 2 1 3), (0x84144817, .unpackWiden 5 9 1 1 3), (0x84144C04, .unpackBlock 5 9 1),
    (0x86144827, .settag 5 9 2 1 3), (0x88144807, .gettag 5 9 1 3), (0x8A144927, .shfl 5 9 18 1 3), (0x8C144867, .xbar 5 9 6 1 3),
    (0x8E184804, .xptl 6 9 1), (0x90144928, .tmma 5 9 18 2)] : List (Word × Instr)), decodeWord p.1 0 = some p.2 := by decide

/-- TMMAT to STB (R166, R167, R168, R169, R170, R171, R172, R184). -/
theorem test_decode_tmmat_to_stb : ∀ p ∈ ([
    (0x92144928, .tmmat 5 9 18 2), (0x94140008, .tzero 5 2), (0x96144808, .ttrnFragment 5 9 2), (0x96144818, .ttrnAccumulator 5 9 2),
    (0x98144838, .tact 5 9 3 2), (0x9A144C28, .tcvt 5 9 1 2 2), (0x9C144818, .tred 5 9 1 2), (0x9E144928, .tbias 5 9 18 2),
    (0xA0144AA5, .ldb 5 9 677), (0xA2144AA5, .ldh 5 9 677), (0xA4144AA5, .ldw 5 9 677), (0xA6144AA5, .ldd 5 9 677),
    (0xA8144AA5, .ldq 5 9 677), (0xAA144AA5, .stb 5 9 677)] : List (Word × Instr)), decodeWord p.1 0 = some p.2 := by decide

/-- STH to AFADDNR (R184, R185, R186, R187, R190, R191, R192, R194). -/
theorem test_decode_sth_to_afaddNr : ∀ p ∈ ([
    (0xAC144AA5, .sth 5 9 677), (0xAE144AA5, .stw 5 9 677), (0xB0144AA5, .std 5 9 677), (0xB2144AA5, .stq 5 9 677),
    (0xB4144AA5, .ldv 5 9 677), (0xB6144824, .ldf 5 9 2 1), (0xB8144824, .lde 5 9 2 1), (0xBA144AA5, .accb 5 9 677),
    (0xBC144928, .tld 5 9 18 2), (0xBE144928, .tst 5 9 18 2), (0xC014492C, .aadd 5 9 18 3), (0xC000492D, .aaddNr 9 18 3),
    (0xC214492C, .afadd 5 9 18 3), (0xC200492D, .afaddNr 9 18 3)] : List (Word × Instr)), decodeWord p.1 0 = some p.2 := by decide

/-- AMIN to AXORNR (R192, R194). -/
theorem test_decode_amin_to_axorNr : ∀ p ∈ ([
    (0xC414492C, .amin 5 9 18 3), (0xC400492D, .aminNr 9 18 3), (0xC614492C, .amax 5 9 18 3), (0xC600492D, .amaxNr 9 18 3),
    (0xC814492C, .aumin 5 9 18 3), (0xC800492D, .auminNr 9 18 3), (0xCA14492C, .aumax 5 9 18 3), (0xCA00492D, .aumaxNr 9 18 3),
    (0xCC14492C, .aand 5 9 18 3), (0xCC00492D, .aandNr 9 18 3), (0xCE14492C, .aor 5 9 18 3), (0xCE00492D, .aorNr 9 18 3),
    (0xD014492C, .axor 5 9 18 3), (0xD000492D, .axorNr 9 18 3)] : List (Word × Instr)), decodeWord p.1 0 = some p.2 := by decide

/-- AXCHG to FORK (R131, R133, R134, R135, R192, R194, R196, R197, R198, R199). -/
theorem test_decode_axchg_to_fork : ∀ p ∈ ([
    (0xD214492C, .axchg 5 9 18 3), (0xD200492D, .axchgNr 9 18 3), (0xD414492C, .acas 5 9 18 3), (0xD400492D, .acasNr 9 18 3),
    (0xD614492C, .enq 5 9 18 3), (0xD814492C, .deq 5 9 18 3), (0xDA04492C, .monw 1 9 18 3), (0xDC00000C, .phase 3), (0xDE000004, .bar 1),
    (0xE1500155, .br 5 0 2 341), (0xE2004804, .brx 9 1), (0xE41402A5, .call 5 677), (0xE6004804, .ret 9 1), (0xE81402A5, .fork 5 677)] : List (Word × Instr)), decodeWord p.1 0 = some p.2 := by decide

/-- FEND to SMIN (R128, R137, R138, R139). -/
theorem test_decode_fend_to_smin : ∀ p ∈ ([
    (0xEA000004, .fend 1), (0xEC000006, .join 6), (0xEE002354, .waitc 2 3 5 4), (0xF0144920, .sadd 5 9 18), (0xF0144921, .ssub 5 9 18),
    (0xF0144922, .smul 5 9 18), (0xF0144923, .smulh 5 9 18), (0xF0144924, .sand 5 9 18), (0xF0144925, .sor 5 9 18),
    (0xF0144926, .sxor 5 9 18), (0xF0144927, .sshl 5 9 18), (0xF0144928, .sshr 5 9 18), (0xF0144929, .ssar 5 9 18),
    (0xF014492A, .smin 5 9 18)] : List (Word × Instr)), decodeWord p.1 0 = some p.2 := by decide

/-- SMAX to SFSQRT (R128, R151). -/
theorem test_decode_smax_to_sfsqrt : ∀ p ∈ ([
    (0xF014492B, .smax 5 9 18), (0xF014492C, .sumin 5 9 18), (0xF014492D, .sumax 5 9 18), (0xF014480E, .smov 5 9),
    (0xF014492F, .sslt 5 9 18), (0xF2144920, .sfadd 5 9 18), (0xF2144921, .sfsub 5 9 18), (0xF2144922, .sfmul 5 9 18),
    (0xF2144923, .sffma 5 9 18), (0xF2144924, .sfmin 5 9 18), (0xF2144925, .sfmax 5 9 18), (0xF2144806, .sfrcp 5 9),
    (0xF2144807, .sfrsq 5 9), (0xF2144808, .sfsqrt 5 9)] : List (Word × Instr)), decodeWord p.1 0 = some p.2 := by decide

/-- SCVTFI to GTOPK (R121, R129, R151, R209, R211, R212, R214). -/
theorem test_decode_scvtfi_to_gtopk : ∀ p ∈ ([
    (0xF2144809, .scvtfi 5 9), (0xF214480A, .scvtif 5 9), (0xF214492B, .sfcmplt 5 9 18), (0xF4144AA5, .saddi 5 9 677),
    (0xF61402A5, .vmovi 5 677), (0xF8144802, .cplin 5 9 2), (0xF8144812, .cp2d 5 9 2), (0xF8144822, .cpgath 5 9 2),
    (0xF8144832, .cpscat 5 9 2), (0xF8144842, .cpexp 5 9 2), (0xF8144852, .cpcmp 5 9 2), (0xF8144862, .rcarm 5 9 2),
    (0xF8144872, .rcwait 5 9 2), (0xF8144882, .gtopk 5 9 2)] : List (Word × Instr)), decodeWord p.1 0 = some p.2 := by decide

/-- GBUCK to ACCEPT (R215, R216, R217, R218, R219, R220, R221, R225, R227, R228). -/
theorem test_decode_gbuck_to_accept : ∀ p ∈ ([
    (0xF8144892, .gbuck 5 9 2), (0xF81448A2, .gmerge 5 9 2), (0xF81448B2, .ghist 5 9 2), (0xF81448C2, .gscan 5 9 2),
    (0xF81448D2, .gperm 5 9 2), (0xF81448E2, .cxfork 5 9 2), (0xF81448F2, .cxrdv 5 9 2), (0xF8144902, .cxbond 5 9 2),
    (0xF8144912, .cxdense 5 9 2), (0xF8144922, .qfence 5 9 2), (0xF8144932, .qstat 5 9 2), (0xFA144801, .genray 5 9 1),
    (0xFA000011, .trace 1), (0xFA000021, .accept 1)] : List (Word × Instr)), decodeWord p.1 0 = some p.2 := by decide

/-- IGNORE to GETSR (R42, R228, R229, R230, R231, R232, R233, R234, R235, R237). -/
theorem test_decode_ignore_to_getsr : ∀ p ∈ ([
    (0xFA000031, .ignore 1), (0xFA000041, .termray 1), (0xFA144851, .spawn 5 9 1), (0xFA171861, .rayld 5 3 3 1),
    (0xFA171871, .rayst 5 3 3 1), (0xFA000081, .raydone 1), (0xFA140091, .binkey 5 1), (0xFA1400A1, .childq 5 1), (0xFA0C48B1, .item 3 9 1),
    (0xFA1448C1, .launch 5 9 1), (0xFC000000, .nop), (0xFC003011, .trap 6 1), (0xFC003021, .bkpt 6 1), (0xFC142035, .getsr 5 4 1 1)] : List (Word × Instr)), decodeWord p.1 0 = some p.2 := by decide

/-- SETSR to PARKC (R18, R33, R46, R49, R237, R238). -/
theorem test_decode_setsr_to_parkc : ∀ p ∈ ([
    (0xFC104841, .setsr 4 9 1), (0xFC140051, .rdcyc 5 1), (0xFC000060, .yield), (0xFC000070, .region), (0xFC003080, .winb 6),
    (0xFC000090, .swinb 0), (0xFC0030A0, .regreq 6), (0xFC0030B0, .regrel 6), (0xFC1448C5, .rdlane 5 9 1), (0xFC1448D1, .wrlane 5 9 1),
    (0xFC1448E5, .bcast 5 9 1 1), (0xFC0048F1, .prefh 9 1), (0xFC003100, .parkc 6)] : List (Word × Instr)), decodeWord p.1 0 = some p.2 := by decide

/-! ### The manual's own words and results -/

/-- 04, Further encodings and kernel divcount; 05 R163, TMMA; 03 R91. -/
theorem test_manual_words : ∀ p ∈ ([(0x2A2860E0, .lea3 10 12 14 0), (0x300817FF, .iaddi 2 2 0x7FF), (0x3A102803, .shli 4 5 3), (0x48AC0004, .icmpi 5 3 0 4),
    (0xEA00000C, .fend 3), (0x2E280000, .smovi 10 0), (0x48440002, .icmpi 2 1 0 2), (0x4E140820, .vote 5 0 1 2 0), (0xE0600003, .br 1 1 0 3), (0xF4285001, .saddi 10 10 1),
    (0xEC000000, .join 0), (0x2C182840, .popc 6 5 0 0), (0x8C0C4050, .xbar 3 8 5 0 0), (0x8A0C2050, .shfl 3 4 5 0 0), (0x8E143000, .xptl 5 6 0)] : List (Word × Instr)),
    decodeWord p.1 0 = some p.2 := by decide

/-- 05, one propagation term and packing; TMMA with and without .mz; 07, a gather; 15, the ray instructions. -/
theorem test_manual_words_of_units : ∀ p ∈ ([(0x782C2060, .ccmul 11 4 6 0), (0x7A304000, .cmag2 12 8 0), (0x7E3840D0, .cscale 14 8 13 0), (0x82508530, .pack 20 16 1 0x13 0 0),
    (0x8460A010, .unpackWiden 24 20 1 0 0), (0x904040C0, .tmma 16 8 12 0), (0x904040C4, .tmma 16 8 12 1), (0xF828A060, .rcarm 10 20 0), (0xF82CC020, .cpgath 11 24 0),
    (0xF8314070, .rcwait 12 40 0), (0xEE00F0FF, .waitc 15 0 15 15), (0xFA319070, .rayst 12 1 18 0), (0xFA428060, .rayld 16 2 16 0), (0xFA120070, .rayst 4 2 0 0),
    (0xFA000081, .raydone 1)] : List (Word × Instr)), decodeWord p.1 0 = some p.2 := by decide

/-- The word a step leaves in register n of lane 0, its tag and whether it is EMPTY. -/
def tAfter (s : State) (i : Instr) (n : Nat) : Option (Word × BitVec 6) :=
  match exec i s with
  | .next t => (t.waves.find? 0).map (fun w => ((w.cell (cellAt n 0)).val, (w.cell (cellAt n 0)).tag))
  | .fault _ => none
  | .refused _ => none
/-- FSR after a step. -/
def tFsr (s : State) (i : Instr) : Option Word :=
  match exec i s with
  | .next t => (t.waves.find? 0).map (fun w => w.fsr)
  | .fault _ => none
  | .refused _ => none
/-- A wave whose lane 0 holds values in one format. -/
def tHolds (tag : BitVec 6) (vals : List Word) : State := tPut { tAt [] [] with regs := vals.mapIdx (fun n v => (cellAt n 0, ⟨v, tag, false⟩)) }

/-- 05, one propagation term: x = 3 + 4i in v4, y = 1 - 2i in v6, 0.5 + 0.25i in v8. -/
def tTerm : State := tHolds 4 [0, 0, 0, 0, 0x40400000, 0x40800000, 0x3F800000, 0xC0000000, 0x3F000000, 0x3E800000]
theorem test_cfma : tAfter tTerm (.cfma 8 4 6 0) 8 = some (0x41380000, 4) ∧ tAfter tTerm (.cfma 8 4 6 0) 9 = some (0xBFE00000, 4) := by decide +kernel
theorem test_ccmul : tAfter tTerm (.ccmul 10 4 6 0) 10 = some (0xC0A00000, 4) ∧ tAfter tTerm (.ccmul 10 4 6 0) 11 = some (0xC1200000, 4) := by decide +kernel
theorem test_cmag2 : tAfter (tHolds 4 [0x41380000, 0xBFE00000]) (.cmag2 12 0 0) 12 = some (0x43075000, 1) := by decide +kernel
theorem test_cscale : tAfter (tPut { tAt [] [] with regs := [(cellAt 8 0, ⟨0x41380000, 4, false⟩), (cellAt 9 0, ⟨0xBFE00000, 4, false⟩), (cellAt 13 0, ⟨0x3F000000, 1, false⟩)] })
    (.cscale 14 8 13 0) 15 = some (0xBF600000, 4) := by decide +kernel

/-- 05, packing to binary8: 100, 230, -1 and 235 saturate to sb8p4i, and widen again; inexact and overflow are raised. -/
def tPacked : State := tHolds 1 [0x42C80000, 0x43660000, 0xBF800000, 0x436B0000]
theorem test_pack : tAfter tPacked (.pack 20 0 1 0x13 0 0) 20 = some (0x7EC07E74, 0x13) ∧ tFsr tPacked (.pack 20 0 1 0x13 0 0) = some 0x14 := by decide +kernel
theorem test_unpack : tAfter (tHolds 0x13 [0x7EC07E74]) (.unpackWiden 24 0 1 0 0) 25 = some (0x43600000, 1) ∧
    tAfter (tHolds 0x13 [0x7EC07E74]) (.unpackWiden 24 0 1 0 0) 26 = some (0xBF800000, 1) := by decide +kernel

/-- 04, kernel divcount: the ballot, and the branch that two of four lanes take. -/
def tFour : Wave :=
  { tAt [] [] with
    regs := [(cellAt 0 0, ⟨0, 0, false⟩), (cellAt 0 1, ⟨1, 0, false⟩), (cellAt 0 2, ⟨2, 0, false⟩), (cellAt 0 3, ⟨3, 0, false⟩)]
    fibres := (List.range 4).map (fun l => (l, { Fibre.dead with live := true, pc := 0x10000, region := 0x10000, preds := if l < 2 then 3 else 1 })) }
def tFourth : State := { tPut tFour with cur := some ⟨0, 15, 0x10000, 4, 0, none⟩ }
theorem test_vote_ballot : tAfter tFourth (.vote 5 0 1 2 0) 5 = some (3, 0) := by decide +kernel
theorem test_br_per_fibre : (match exec (.br 1 1 0 3) tFourth with
    | .next t => (t.waves.find? 0).map (fun w => [(w.fib 0).pc, (w.fib 1).pc, (w.fib 2).pc, (w.fib 3).pc])
    | .fault _ => none
    | .refused _ => none) = some [0x10004, 0x10004, 0x1000C, 0x1000C] := by decide +kernel

/-- Integer corners: a wrap, both clamps, the high half of a signed product, the least number, counts of 0 (04 R114, R115, R118). -/
theorem test_iadd_wraps : tAfter (tHolds 0 [0xFFFFFFFF, 2]) (.iadd 3 0 1 0 0) 3 = some (1, 0) := by decide +kernel
theorem test_iadds_clamps : tAfter (tHolds 0 [0x7FFFFFFF, 1]) (.iadds 3 0 1 0 0) 3 = some (0x7FFFFFFF, 0) ∧
    tAfter (tHolds 0 [0x80000000, 1]) (.isubs 3 0 1 0 0) 3 = some (0x80000000, 0) := by decide +kernel
theorem test_imulh : tAfter (tHolds 0 [0x80000000, 0x80000000]) (.imulh 3 0 1 0 0) 3 = some (0x40000000, 0) ∧
    tAfter (tHolds 0 [0xFFFFFFFF, 1]) (.imulh 3 0 1 0 0) 3 = some (0xFFFFFFFF, 0) := by decide +kernel
theorem test_shl_by_32 : tAfter (tHolds 0 [0xFFFFFFFF, 32]) (.shl 3 0 1 0 0) 3 = some (0, 0) ∧
    tAfter (tHolds 0 [0x80000000, 40]) (.sar 3 0 1 0 0) 3 = some (0xFFFFFFFF, 0) := by decide +kernel
theorem test_counts : tAfter (tHolds 0 [0]) (.clz 3 0 0 0) 3 = some (32, 0) ∧ tAfter (tHolds 0 [8]) (.ctz 3 0 0 0) 3 = some (3, 0) ∧
    tAfter (tHolds 0 [0x12345678]) (.bswap 3 0 0 0) 3 = some (0x78563412, 0) := by decide +kernel

/-- Floating corners: 1 + 2 = 3; 2^24 + 1 is a tie to even and inexact; a signalling NaN is quieted to the one NaN; 1 / 0 (02 R57, R68 to R73). -/
theorem test_fadd : tAfter (tHolds 1 [0x3F800000, 0x40000000]) (.fadd 3 0 1 0 0) 3 = some (0x40400000, 1) := by decide +kernel
theorem test_fadd_tie : tAfter (tHolds 1 [0x4B800000, 0x3F800000]) (.fadd 3 0 1 0 0) 3 = some (0x4B800000, 1) ∧
    tFsr (tHolds 1 [0x4B800000, 0x3F800000]) (.fadd 3 0 1 0 0) = some 0x10 := by decide +kernel
theorem test_fsqrt : tAfter (tHolds 1 [0x41100000]) (.fsqrt 3 0 0 0) 3 = some (0x40400000, 1) := by decide +kernel

/-- 02: code 0x74 of sb8p4i is 96 and code 0xC0 is -1; a sum of 40 terms loses its ones or not by their group. -/
theorem test_binary8 : (roundF32 .rne (elementValue 0x13 [0x74] 0)).1 = 0x42C00000 ∧ (roundF32 .rne (elementValue 0x13 [0xC0] 0)).1 = 0xBF800000 := by decide +kernel
def tTerms (one : Nat) : List (XR × Bool) := (List.range 40).map (fun k => (if k = 0 then f32 0x4B800000 else if k = 3 ∨ k = one then f32 0x3F800000 else f32 0, false))
theorem test_chain_groups : (chainSum (tTerms 35)).1 = 0x4B800000 ∧ (chainSum (tTerms 31)).1 = 0x4B800001 := by decide +kernel

/-- 09: the home of PA 0x1_2345_6700 is slice 146; a block of four repeated words takes 28 coded bytes in mode 2 of width 3. -/
theorem test_home_slice : sliceOf 0x123456700 = 146 ∧ sliceOf 0x123456780 = 146 := by decide
theorem test_codec : encodeBlock ((List.range 64).flatMap (fun i => bytesOf 4 (0x40000000 + i % 4))) =
    (0x83, [0, 0, 0, 0x40] ++ (List.replicate 8 [0xD1, 0x10, 0x0D]).flatten) := by decide +kernel

/-- 12, ties and a short list in GTOPK: both records. -/
def tTies : QEntry := tEntry 8 256 1 [0x20000, 0, 32, 2, 6 + 0x2000 * 3 + 2 ^ 25, 0x22000, 0, 0x21000, 0] []
def tTiesRow (row : Nat) : List Word :=
  match exec (.gseRow 0 256) (tEngine 256 { tTies with progress := [row, 0, 0, 0] } true Cce.fresh
    [(0x20000, [0x40000000, 0x40A00000, 0x7FC00000, 0x40A00000, 0x80000000, 0].flatMap (bytesOf 4)),
     (0x20020, [0x7FC00000, 0x3F800000, 0x7FC00000, 0x7FC00000, 0x7FC00000, 0x7FC00000].flatMap (bytesOf 4)), (0x22000, bytesOf 4 0x1F ++ bytesOf 4 0x3F)]) with
  | .next t => (List.range 10).map (fun i => BitVec.ofNat 32 (t.load (0x21000 + 48 * row + 4 * i) 4))
  | .fault _ => []
  | .refused _ => []
theorem test_gtopk : tTiesRow 0 = [4, 0x41400000, 0x80000000, 0, 1, 3, 0, 0x40A00000, 0x40A00000, 0x40000000] ∧
    tTiesRow 1 = [1, 0x3F800000, 0, 0, 1, 0xFFFFFFFF, 0xFFFFFFFF, 0x3F800000, 0x7FC00000, 0x7FC00000] := by decide +kernel

/-- Memory: a store lands in the L1 and the load that follows sees it, little-endian; a misaligned word traps with cause MISALIGNED. -/
theorem test_store_byte_order : (match exec (.stw 4 0 0) (tPut (tAt [0x20000, 0, 0, 0, 0x11223344] [])) with
    | .next t => [t.seenByte 0 0 (.mem 0x20000 false), t.seenByte 0 0 (.mem 0x20003 false), t.seenByte 0 0 (.mem 0x20004 false)]
    | .fault _ => []
    | .refused _ => []) = [0x44, 0x11, 0] := by decide +kernel
theorem test_misaligned_load : (match exec (.ldw 4 0 0) (tPut (tAt [0x20002, 0] [])) with
    | .next t => ((t.ctxs.find? 0).map (fun c => c.pending.map Pending.cause)).getD []
    | .fault _ => []
    | .refused _ => []) = [.misaligned] := by decide +kernel

end Sys2Proof.Machine
end

/-! The machine after reset, the scheduling events and the completion of operations (01 R24, R25, R33, R34, R37, R44, R49; 04 R140; 05 R173;
07 R237; 10 R312 to R315; 14 R398). -/

namespace Sys2Proof.Machine

/-! ### Events -/

/-- An event gives the state its function says. -/
theorem event_of_eq {f : State → State} {s t : State} (h : f s = t) : event f s = .next t := congrArg Host.Outcome.next h

/-! ### Reset (01 R49; 14 R398) -/

/-- Until the control cores run, an operation of theirs has no effect (14 R398). -/
theorem controlEvent_of_not_booted {s : State} (f : State → State) (h : s.zephyr.booted = false) : controlEvent f s = .next s := by
  simp [controlEvent, h]

theorem reset_not_booted : State.reset.zephyr.booted = false := rfl

/-- Settles O56: the fields by their values at reset, the operations because the control cores do not run. -/
theorem resetState : Obligations.ResetState := by
  unfold Obligations.ResetState
  have quiet (f : State → State) : controlEvent f State.reset = .next State.reset := controlEvent_of_not_booted f reset_not_booted
  exact ⟨rfl, rfl, rfl, rfl, rfl, rfl, rfl, reset_not_booted, fun _ => rfl, reset_memoryOk, fun _ => rfl,
    fun r v => quiet (evRegisterWrite r v), fun ctx => quiet (evSwitchIn ctx), fun n data => quiet (evExtend n data),
    fun addr data => quiet (evControlCoreWrite addr data)⟩

/-! ### Retirement and register requests (01 R24, R25, R33) -/

/-- A flush that selects no Dirty byte changes nothing. -/
theorem flushDirty_of_none {s : State} {cid : Nat} {p : Nat → DByte → Bool} (h : ∀ x ∈ (s.l1 cid).dirty, p x.1 x.2 = false) :
    s.flushDirty cid p = s := by
  have none : (s.l1 cid).dirty.filter (fun d => p d.1 d.2) = [] := List.filter_eq_nil_iff.2 (fun x hx => by simp [h x hx])
  simp [State.flushDirty, none]

/-- The condition of retirement: no live fibre, LD and TX zero (01 R25). -/
def Wave.spent (w : Wave) : Prop := w.liveMask = 0 ∧ w.ld = [] ∧ w.tx = []

theorem evWaveRetire_of_not_spent {s : State} {k : Nat} {w : Wave} (hw : s.waves.find? k = some w) (h : ¬ w.spent) : evWaveRetire k s = s := by
  unfold evWaveRetire
  rw [hw]
  exact if_neg (fun c => h (by simpa [Wave.spent, and_assoc] using c))

/-- Retirement of a wave that holds no Dirty byte of another device: what its stores wait for is kept, the wave is taken away (01 R24, R25). -/
theorem evWaveRetire_of_spent {s : State} {k : Nat} {w : Wave} (hw : s.waves.find? k = some w) (h : w.spent)
    (hd : ∀ x ∈ (s.l1 (cidOf k)).dirty, x.2.owners.contains w.uid = true → s.isLocal x.1 = true) :
    evWaveRetire k s = ({ s with owing := s.owing ++ w.st.filterMap (fun o => o.late w (cidOf k)) } : State).removeWave k w := by
  obtain ⟨live, ld, tx⟩ := h
  have still : s.flushDirty (cidOf k) (fun i d => d.owners.contains w.uid && !s.isLocal i) = s :=
    flushDirty_of_none (fun x hx => by simpa using hd x hx)
  simp only [evWaveRetire, hw, live, ld, tx, still, List.isEmpty_nil, decide_true, Bool.and_self, if_true]

theorem late_eq (o : Op) (w : Wave) (cid : Nat) :
    o.late w cid = if o.waits = [] ∧ o.adds = [] then none else some ⟨w.lid, w.ctx, cid, o⟩ := by
  simp [Op.late]

/-- A resident wave's request, the oldest of its partition, is granted when it fits (01 R33). -/
theorem evRegreqGrant_of_firstAsk {s : State} {cid part k n : Nat} {w : Wave} (hf : s.firstAsk (cid * 6 + part) = some (k, w))
    (ha : w.asks = some n) (hr : w.resident = true) :
    evRegreqGrant cid part s =
      if n - w.need ≤ s.freeRegs (cid * 6 + part) then s.modWave k (fun w => { w with need := n, wait := none }) else s := by
  simp [evRegreqGrant, hf, ha, hr]

/-! ### Spilling and return (01 R34; 10 R315) -/

theorem spillFirst_cons_of_written {s s1 : State} {j : Nat} {v : Wave} (rest : List (Nat × Wave)) (hu : s.unitWaits v.ctx 7 = false)
    (hw : s.writeSpill j v = (s1, true)) : s.spillFirst ((j, v) :: rest) = (s1.setWave j v.spilled).fillActive 8 (j / 48) := by
  simp [State.spillFirst, hu, hw]

/-- Room is made for the oldest request when every resident wave is parked and it does not fit (01 R34). -/
theorem evSpillWave_of_stuck {s : State} {cid part k : Nat} {w : Wave} (hf : s.firstAsk (cid * 6 + part) = some (k, w))
    (hp : ∀ x ∈ s.partWaves (cid * 6 + part), x.2.resident = true → x.2.parked = true)
    (hn : s.freeRegs (cid * 6 + part) < (w.asks.getD 0) - (if w.resident = true then w.need else 0)) :
    evSpillWave cid part s = s.spillFirst (sortBy (fun x y => !older x y)
      (((s.partWaves (cid * 6 + part)).filter (fun x => x.2.resident)).filter (fun x => x.1 != k && x.2.spillable))) := by
  have parked : ((s.partWaves (cid * 6 + part)).filter (fun x => x.2.resident)).all (fun x => x.2.parked) = true :=
    List.all_eq_true.2 (fun x hx => hp x (List.mem_filter.1 hx).1 (List.mem_filter.1 hx).2)
  simp only [evSpillWave, hf, parked, hn, decide_true, Bool.and_self, if_true]

/-- The spilled wave whose turn it is comes back when it fits and its area can be read, its request granted (01 R34). -/
theorem returnSpilled_of_fits {s s1 : State} {k : Nat} {w w1 : Wave} (hn : s.nextReturn (k / 48) = some (k, w))
    (hf : w.asks.getD w.need ≤ s.freeRegs (k / 48)) (hr : s.readSpill k w = (s1, some w1)) :
    s.returnSpilled k = (s1.setWave k { w1 with
      need := w.asks.getD w.need, wait := if w.asks.isSome then none else w.wait, resident := true, longParked := false }).fillActive 8 (k / 48) := by
  simp [State.returnSpilled, hn, Nat.not_lt.2 hf, hr]

/-- A wave long parked on MONW makes room for what waits for placement (10 R315). -/
theorem evMonwSpill_of_long {s : State} {k : Nat} {w : Wave} {p : Parked} (hw : s.waves.find? k = some w) (hp : w.wait = some (.monw p))
    (hr : w.resident = true) (hs : w.spillable = true) (ht : 65536 ≤ s.cycle - p.since)
    (hc : s.candidates.any (s.waitedFor (cidOf k)) = true) : evMonwSpill k s = s.spillFirst [(k, { w with longParked := true })] := by
  simp only [evMonwSpill, hw, hp, hr, hs, ht, hc, decide_true, Bool.and_self, if_true]

/-! ### Exchanges and age (10 R313, R314) -/

theorem retrying_eq (w : Wave) : w.retrying = (w.wait == some .retry) := by
  unfold Wave.retrying
  cases h : w.wait with
  | none => rfl
  | some x => cases x <;> simp

theorem stalled_eq (w : Wave) (cycle : Nat) : w.stalled cycle = (w.wait.isSome && (w.wait != some .retry || decide (cycle < w.tried))) := by
  rw [Wave.stalled, retrying_eq]
  rfl

/-- The active waves of a partition of lower priority than w. -/
def State.lowerThan (s : State) (part : Nat) (w : Wave) : List (Nat × Wave) :=
  ((s.partWaves part).filter (fun x => x.2.active)).filter (fun x => x.2.prio < w.prio)

/-- The active waves of a partition that have not been able to issue for 16 cycles (10 R313). -/
def State.longStalled (s : State) (part : Nat) : List (Nat × Wave) :=
  ((s.partWaves part).filter (fun x => x.2.active)).filter (fun x => x.2.stalled s.cycle && decide (17 ≤ s.cycle - x.2.stallSince))

/-- The ready pending wave j takes the place of the active wave that R313 names, unless an exchange is under way. -/
theorem evWaveExchange_of_place {s : State} {cid part j k : Nat} {w v : Wave}
    (hj : bestBy before ((s.partWaves (cid * 6 + part)).filter (fun x => !x.2.active && x.2.ready)) = some (j, w))
    (hk : bestBy leavesFirst (s.lowerThan (cid * 6 + part) w) = some (k, v) ∨
      (bestBy leavesFirst (s.lowerThan (cid * 6 + part) w) = none ∧ bestBy leavesFirst (s.longStalled (cid * 6 + part)) = some (k, v)))
    (hx : (s.core cid).exchange.find? part = none) :
    evWaveExchange cid part s = ((s.setCore cid { s.core cid with exchange := (s.core cid).exchange.put part s.cycle }).modWave k
      (fun w => { w with active := false })).modWave j (fun w => { w with active := true, tried := s.cycle + 3 }) := by
  unfold State.lowerThan State.longStalled at hk
  unfold evWaveExchange
  rcases hk with lower | ⟨noLower, stalled⟩
  · simp only [hj, hx, lower, Option.isSome_some, if_true, Bool.false_eq_true, if_false]
  · simp only [hj, hx, noLower, stalled, Option.isSome_none, Bool.false_eq_true, if_false]

/-- Settles O41, event by event. -/
theorem waveScheduling : Obligations.WaveScheduling := by
  unfold Obligations.WaveScheduling
  intro s
  refine ⟨?retires, ?stays, late_eq, ?granted, ?spills, ?written, ?returns, ?monw, ?exchanged, ?boosted⟩
  case retires =>
    intro k w hw live ld tx hd
    rw [exec_waveRetire]
    exact event_of_eq (evWaveRetire_of_spent hw ⟨live, ld, tx⟩ hd)
  case stays =>
    intro k w hw h
    rw [exec_waveRetire]
    refine event_of_eq (evWaveRetire_of_not_spent hw ?_)
    rintro ⟨live, ld, tx⟩
    rcases h with h | h | h
    · exact h live
    · exact h ld
    · exact h tx
  case granted =>
    intro cid part k w n hf ha hr
    rw [exec_regreqGrant]
    exact event_of_eq (evRegreqGrant_of_firstAsk hf ha hr)
  case spills =>
    intro cid part k w hf hp hn
    rw [exec_spillWave]
    exact event_of_eq (evSpillWave_of_stuck hf hp hn)
  case written =>
    intro j v rest s1 hu hw
    exact spillFirst_cons_of_written rest hu hw
  case returns =>
    intro k w s1 w1 ha hn hf hr
    have home : evSpillReturn k s = s.returnSpilled k := by rw [evSpillReturn, ha]
    rw [exec_spillReturn]
    exact event_of_eq (home.trans (returnSpilled_of_fits hn hf hr))
  case monw =>
    intro k w p hw hp hr hs ht hc
    rw [exec_monwSpill]
    exact event_of_eq (evMonwSpill_of_long hw hp hr hs ht hc)
  case exchanged =>
    intro cid part j w k v hj hk hx
    simp only [← stalled_eq] at hk
    rw [exec_waveExchange]
    exact event_of_eq (evWaveExchange_of_place hj hk hx)
  case boosted =>
    intro k w _ hr ht
    rw [exec_waveAgeBoost]
    exact ⟨_, rfl, by simp [hr, ht]⟩

/-! ### Operations and their counters (01 R44; 04 R140; 07 R237) -/

/-- The oldest operation leaves its counter once its event has occurred, with those after it that are done (04 R140). -/
theorem dropDone_markDone_cons (o : Op) (os : List Op) (h : ∀ p ∈ os, p.uid ≠ o.uid) :
    dropDone ((o :: os).map (fun p => if p.uid = o.uid then { p with done := true } else p)) = dropDone os := by
  have rest : os.map (fun p => if p.uid = o.uid then { p with done := true } else p) = os :=
    (List.map_congr_left (fun p hp => if_neg (h p hp))).trans (List.map_id' os)
  simp [rest, dropDone]

@[simp] theorem setOps_ops_same (w : Wave) (c : Ctr) (os : List Op) : (w.setOps c os).ops c = os := by
  cases c <;> rfl

theorem setOps_ops_ne (w : Wave) {c c' : Ctr} (os : List Op) (h : c' ≠ c) : (w.setOps c os).ops c' = w.ops c' := by
  cases c <;> cases c' <;> simp [Wave.setOps, Wave.ops] at h ⊢

@[simp] theorem setOps_regs (w : Wave) (c : Ctr) (os : List Op) : (w.setOps c os).regs = w.regs := by
  cases c <;> rfl

/-- Yielding changes fibres only. -/
theorem yieldFrom_eq (w : Wave) (batch : Word) : ∃ fs, w.yieldFrom batch = { w with fibres := fs } := mapFibs_eq _ _ _

/-- The end of a PARKC changes fibres, the latch and the wait only (07 R237). -/
theorem endPark_eq (w : Wave) : ∃ la fs wt, w.endPark = { w with latch := la, fibres := fs, wait := wt } := by
  unfold Wave.endPark
  split
  next iss _ _ =>
    obtain ⟨fs, hf⟩ := finish_eq w iss
    obtain ⟨fs', hy⟩ := yieldFrom_eq (w.finish iss) iss.batch
    exact ⟨w.ageLatch.latch, fs', none, by rw [hy, hf]; rfl⟩
  all_goals exact ⟨w.latch, w.fibres, w.wait, rfl⟩

@[simp] theorem endPark_ops (w : Wave) (c : Ctr) : w.endPark.ops c = w.ops c := by
  obtain ⟨la, fs, wt, h⟩ := endPark_eq w
  rw [h]
  cases c <;> rfl

@[simp] theorem endPark_regs (w : Wave) : w.endPark.regs = w.regs := by
  obtain ⟨la, fs, wt, h⟩ := endPark_eq w
  rw [h]

/-- A wave parked on PARKC moves its batch on and yields (07 R237). -/
theorem endPark_of_parkc {w : Wave} {iss : Issue} {due : Option Nat} (h : w.wait = some (.parkc iss due)) :
    w.endPark = (w.finish iss).yieldFrom iss.batch := by
  unfold Wave.endPark
  rw [h]

/-- The wave once an operation is marked and its counter has fallen as far as R140 allows. -/
def Wave.afterFall (w : Wave) (c : Ctr) (uid : Nat) : Wave :=
  w.setOps c (dropDone ((w.ops c).map (fun o => if o.uid = uid then { o with done := true } else o)))

/-- An operation's completion is the fall of its counter, which may end a PARKC (07 R237). -/
theorem opDone_cases (w : Wave) (c : Ctr) (uid : Nat) :
    w.opDone c uid = w.afterFall c uid ∨ w.opDone c uid = (w.afterFall c uid).endPark :=
  (ite_eq_or_eq _ _ _).symm

theorem opDone_ops_same (w : Wave) (c : Ctr) (uid : Nat) :
    (w.opDone c uid).ops c = dropDone ((w.ops c).map (fun o => if o.uid = uid then { o with done := true } else o)) := by
  rcases opDone_cases w c uid with h | h <;> simp [h, Wave.afterFall]

/-- The other counters stay. -/
theorem opDone_ops_ne (w : Wave) {c c' : Ctr} (uid : Nat) (h : c' ≠ c) : (w.opDone c uid).ops c' = w.ops c' := by
  rcases opDone_cases w c uid with e | e <;> simp [e, Wave.afterFall, setOps_ops_ne _ _ h]

@[simp] theorem opDone_regs (w : Wave) (c : Ctr) (uid : Nat) : (w.opDone c uid).regs = w.regs := by
  rcases opDone_cases w c uid with h | h <;> simp [h, Wave.afterFall]

/-- An operation at the head of its counter leaves with those after it that are done (04 R140). -/
theorem opDone_ops_head {w : Wave} {c : Ctr} {o : Op} {os : List Op} (h : w.ops c = o :: os) (hu : ∀ p ∈ os, p.uid ≠ o.uid) :
    (w.opDone c o.uid).ops c = dropDone os := by
  rw [opDone_ops_same, h, dropDone_markDone_cons o os hu]

/-! ### Landing data (01 R37, R44) -/

/-- One cell of a load's data: written when its lane is live (01 R37). -/
def Wave.landCell (w : Wave) (x : LWrite) : Wave := if (w.fib (x.cell % 32)).live then w.setCell x.cell ⟨x.val, x.tag, false⟩ else w

/-- All the data of a load. -/
def Wave.landCells (w : Wave) (xs : List LWrite) : Wave := xs.foldl Wave.landCell w

/-- The cells a load is on its way to that its data left EMPTY: the lanes that had none. -/
def Wave.lateCells (w : Wave) (o : Op) : List Nat := o.busy.filter (fun i => ((w.landCells o.writes).cell i).empty)

/-- Landing: the data, then the cells that got none, then the counter. -/
theorem landOp_eq (w : Wave) (o : Op) : w.landOp o = ((w.landCells o.writes).dropList (w.lateCells o)).opDone .ld o.uid := rfl

theorem landCell_eq (w : Wave) (x : LWrite) : ∃ rs, w.landCell x = { w with regs := rs } := by
  unfold Wave.landCell
  split
  · exact ⟨_, rfl⟩
  · exact ⟨w.regs, rfl⟩

/-- Landing data changes register cells only. -/
theorem landCells_eq (w : Wave) (xs : List LWrite) : ∃ rs, w.landCells xs = { w with regs := rs } := by
  induction xs generalizing w with
  | nil => exact ⟨w.regs, rfl⟩
  | cons x xs ih =>
    obtain ⟨rs, h⟩ := landCell_eq w x
    obtain ⟨rs', h'⟩ := ih (w.landCell x)
    exact ⟨rs', by rw [h] at h'; simpa [Wave.landCells, h] using h'⟩

/-- A cell that no data is for is as before. -/
theorem landCells_find?_of_not_mem {w : Wave} {xs : List LWrite} {c : Nat} (h : ∀ x ∈ xs, x.cell ≠ c) :
    (w.landCells xs).regs.find? c = w.regs.find? c := by
  induction xs generalizing w with
  | nil => rfl
  | cons x xs ih =>
    have first : (w.landCell x).regs.find? c = w.regs.find? c := by
      unfold Wave.landCell
      split
      · exact SMap.find?_put_ne _ _ (Ne.symm (h x (List.mem_cons_self ..)))
      · rfl
    exact (ih (fun y hy => h y (List.mem_cons_of_mem _ hy))).trans first

/-- A cell of a live lane that one piece of data is for holds it, EMPTY clear (01 R37). -/
theorem landCells_find?_of_mem {w : Wave} {xs : List LWrite} {x : LWrite} (hx : x ∈ xs) (hl : (w.fib (x.cell % 32)).live = true)
    (hu : ∀ y ∈ xs, y.cell = x.cell → y = x) : (w.landCells xs).regs.find? x.cell = some ⟨x.val, x.tag, false⟩ := by
  induction xs generalizing w with
  | nil => cases hx
  | cons y ys ih =>
    by_cases later : x ∈ ys
    · obtain ⟨rs, h⟩ := landCell_eq w y
      exact ih later (by rw [h]; exact hl) (fun z hz => hu z (List.mem_cons_of_mem _ hz))
    · have hy : y = x := ((List.mem_cons.1 hx).resolve_right later).symm
      subst hy
      have none : ∀ z ∈ ys, z.cell ≠ y.cell := by
        intro z hz e
        have same : z = y := hu z (List.mem_cons_of_mem _ hz) e
        exact later (same ▸ hz)
      refine (landCells_find?_of_not_mem none).trans ?_
      rw [Wave.landCell, if_pos hl]
      exact SMap.find?_put_self _ _ _

theorem SMap_find?_filter {α : Type} (m : SMap α) (p : Nat → Bool) {j : Nat} (h : p j = true) :
    SMap.find? (m.filter (fun c => p c.1)) j = m.find? j := by
  induction m with
  | nil => rfl
  | cons q m ih =>
    obtain ⟨k, v⟩ := q
    rw [SMap.find?_cons, ← ih]
    by_cases hk : p k = true
    · rw [List.filter_cons_of_pos (by exact hk), SMap.find?_cons]
    · have other : k ≠ j := by
        rintro rfl
        exact hk h
      rw [List.filter_cons_of_neg (by exact hk), if_neg other]

/-- Making cells undefined leaves the others alone (02 R52). -/
theorem dropList_find? (w : Wave) {cells : List Nat} {c : Nat} (h : c ∉ cells) : (w.dropList cells).regs.find? c = w.regs.find? c := by
  unfold Wave.dropList
  split
  · rfl
  · exact SMap_find?_filter w.regs (fun i => !cells.contains i) (by simpa using h)

/-- What landing leaves in a cell that is not among the late ones. -/
theorem landOp_find? (w : Wave) (o : Op) {c : Nat} (h : c ∉ w.lateCells o) :
    (w.landOp o).regs.find? c = (w.landCells o.writes).regs.find? c := by
  rw [landOp_eq, opDone_regs, dropList_find? _ h]

/-- The data of a load reaches the cells of live lanes, EMPTY clear (01 R37). -/
theorem landOp_cell_written {w : Wave} {o : Op} {x : LWrite} (hx : x ∈ o.writes) (hl : (w.fib (x.cell % 32)).live = true)
    (hu : ∀ y ∈ o.writes, y.cell = x.cell → y = x) : (w.landOp o).cell x.cell = ⟨x.val, x.tag, false⟩ := by
  have landed := landCells_find?_of_mem hx hl hu
  have full : x.cell ∉ w.lateCells o := by
    intro late
    have empty := (List.mem_filter.1 late).2
    rw [Wave.cell, SMap.get, landed] at empty
    cases empty
  rw [Wave.cell, SMap.get, landOp_find? w o full, landed]
  rfl

/-- Every other cell that the load is not on its way to is as before (01 R37). -/
theorem landOp_find?_of_not_mem {w : Wave} {o : Op} {c : Nat} (hw : ∀ x ∈ o.writes, x.cell ≠ c) (hb : c ∉ o.busy) :
    (w.landOp o).regs.find? c = w.regs.find? c :=
  (landOp_find? w o (fun h => hb (List.mem_filter.1 h).1)).trans (landCells_find?_of_not_mem hw)

@[simp] theorem dropList_ops (w : Wave) (cells : List Nat) (c : Ctr) : (w.dropList cells).ops c = w.ops c := by
  unfold Wave.dropList
  split
  · rfl
  · cases c <;> rfl

@[simp] theorem landCells_ops (w : Wave) (xs : List LWrite) (c : Ctr) : (w.landCells xs).ops c = w.ops c := by
  obtain ⟨rs, h⟩ := landCells_eq w xs
  rw [h]
  cases c <;> rfl

/-- LD falls in issue order (01 R44; 04 R140). -/
theorem landOp_ld_head {w : Wave} {o : Op} {os : List Op} (h : w.ld = o :: os) (hu : ∀ p ∈ os, p.uid ≠ o.uid) :
    (w.landOp o).ld = dropDone os := by
  have head : ((w.landCells o.writes).dropList (w.lateCells o)).ops .ld = o :: os := by
    rw [dropList_ops, landCells_ops]
    exact h
  exact opDone_ops_head head hu

/-- The other counters stay. -/
theorem landOp_ops_ne (w : Wave) (o : Op) {c : Ctr} (h : c ≠ .ld) : (w.landOp o).ops c = w.ops c := by
  rw [landOp_eq, opDone_ops_ne _ _ h, dropList_ops, landCells_ops]

/-! ### The events -/

/-- A load that is due to land is put back by a write of its wave's slot (01 R37). -/
theorem exec_loadLands_of_due {s : State} {k i : Nat} {w : Wave} {o : Op} (hw : s.waves.find? k = some w) (ho : w.ld[i]? = some o)
    (hd : o.done = false) (hwt : o.waits = []) (hb : o.bad = none) : exec (.loadLands k i) s = .next (s.setWave k (w.landOp o)) := by
  rw [exec_loadLands]
  simp [execLoadLands, event, evLoadLands, hw, ho, hd, hwt, hb]

/-- A listed value stands in the list. -/
theorem SMap_mem_of_find? {α : Type} {m : SMap α} {j : Nat} {u : α} (h : m.find? j = some u) : (j, u) ∈ m := by
  induction m with
  | nil => cases h
  | cons p m ih =>
    obtain ⟨k, t⟩ := p
    rw [SMap.find?_cons] at h
    split at h
    next e =>
      cases h
      rw [e]
      exact List.mem_cons_self ..
    next => exact List.mem_cons_of_mem _ (ih h)

/-- Where the keys rise, writing a key that is listed changes the value listed there. -/
theorem SMap_put_eq_modify {α : Type} {m : SMap α} {j : Nat} {u : α} (hr : m.rising = true) (hf : m.find? j = some u) (v : α) :
    m.put j v = m.modify j (fun _ => v) := by
  induction m with
  | nil => cases hf
  | cons p m ih =>
    obtain ⟨k, t⟩ := p
    obtain ⟨above, rising⟩ := (SMap.rising_cons k t m).1 hr
    rw [SMap.find?_cons] at hf
    by_cases hk : k = j
    · subst hk
      have others : SMap.modify m k (fun _ => v) = m :=
        (List.map_congr_left (fun q hq => if_neg (Nat.ne_of_gt (above q hq)))).trans (List.map_id' m)
      simpa [SMap.put, SMap.modify] using others.symm
    · rw [if_neg hk] at hf
      have hkj : k < j := above (j, u) (SMap_mem_of_find? hf)
      have rest := ih rising hf
      simp only [SMap.put, SMap.modify, List.map_cons, if_neg (Nat.not_lt.2 hkj.le), if_neg hk] at rest ⊢
      rw [rest]

/-- Landing, where the wave map is in its canonical form: the wave of the slot changes in its place. -/
theorem exec_loadLands_of_rising {s : State} {k i : Nat} {w : Wave} {o : Op} (hs : s.waves.rising = true) (hw : s.waves.find? k = some w)
    (ho : w.ld[i]? = some o) (hd : o.done = false) (hwt : o.waits = []) (hb : o.bad = none) :
    exec (.loadLands k i) s = .next (s.modWave k (fun _ => w.landOp o)) := by
  rw [exec_loadLands_of_due hw ho hd hwt hb, State.setWave, SMap_put_eq_modify hs hw]
  rfl

/-- A store that waits for nothing and has no bytes left to perform lets ST fall (01 R44). -/
theorem exec_storePerformed_of_done {s : State} {k i : Nat} {w : Wave} {o : Op} (hw : s.waves.find? k = some w) (ho : w.st[i]? = some o)
    (hd : o.done = false) (hwt : o.waits = []) (ha : o.adds = []) (hb : o.busy = []) :
    exec (.storePerformed k i) s = .next (s.modWave k (fun w => w.opDone .st o.uid)) := by
  rw [exec_storePerformed]
  simp [execStorePerformed, event, evStorePerformed, hw, ho, hd, hwt, ha, hb]

/-- The oldest unfinished tile instruction finishes and lets TX fall (05 R173). -/
theorem exec_tileOpComplete_of_oldest {s : State} {k : Nat} {w : Wave} {o : Op}
    (ho : w.tx.find? (fun o => o.kind == .tile && !o.done) = some o) :
    ∃ f, exec (.tileOpComplete k) s = .next (s.modWave k f) ∧ f w = w.opDone .tx o.uid := by
  rw [exec_tileOpComplete]
  exact ⟨_, rfl, by rw [ho]⟩

/-- A PARKC whose time is over ends (07 R237). -/
theorem exec_parkcTimeout_of_parkc {s : State} {k due : Nat} {w : Wave} {iss : Issue} (hp : w.wait = some (.parkc iss (some due))) :
    ∃ f, exec (.parkcTimeout k) s = .next (s.modWave k f) ∧ f w = if due ≤ s.cycle then (w.finish iss).yieldFrom iss.batch else w := by
  rw [exec_parkcTimeout]
  exact ⟨_, rfl, by simp only [hp, endPark_of_parkc hp]⟩

/-! ### The whole of O39 -/

/-- What O39 says, of the states whose wave map is in its canonical form. -/
theorem operationsComplete_of_rising (s : State) (k : Nat) (hs : s.waves.rising = true) :
    (∀ w o i, s.waves.find? k = some w → w.ld[i]? = some o → o.done = false → o.waits = [] → o.bad = none →
      ∃ f, exec (.loadLands k i) s = .next (s.modWave k f) ∧ (f w).st = w.st ∧
        (∀ x ∈ o.writes, (w.fib (x.cell % 32)).live = true → (∀ y ∈ o.writes, y.cell = x.cell → y = x) →
          (f w).cell x.cell = ⟨x.val, x.tag, false⟩) ∧
        (∀ c, (∀ x ∈ o.writes, x.cell ≠ c) → c ∉ o.busy → (f w).regs.find? c = w.regs.find? c) ∧
        (∀ os, w.ld = o :: os → i = 0 → (∀ p ∈ os, p.uid ≠ o.uid) → (f w).ld = dropDone os)) ∧
    (∀ w o i, s.waves.find? k = some w → w.st[i]? = some o → o.done = false → o.waits = [] → o.adds = [] → o.busy = [] →
      exec (.storePerformed k i) s = .next (s.modWave k (fun w => w.opDone .st o.uid))) ∧
    (∀ w o, s.waves.find? k = some w → w.tx.find? (fun o => o.kind == .tile && !o.done) = some o →
      ∃ f, exec (.tileOpComplete k) s = .next (s.modWave k f) ∧ f w = w.opDone .tx o.uid) ∧
    (∀ w iss due, s.waves.find? k = some w → w.wait = some (.parkc iss (some due)) →
      ∃ f, exec (.parkcTimeout k) s = .next (s.modWave k f) ∧ f w = (if due ≤ s.cycle then (w.finish iss).yieldFrom iss.batch else w)) ∧
    (∀ (w : Wave) (c c' : Ctr) (o : Op) (os : List Op), w.ops c = o :: os → (∀ p ∈ os, p.uid ≠ o.uid) →
      (w.opDone c o.uid).ops c = dropDone os ∧ (c' ≠ c → (w.opDone c o.uid).ops c' = w.ops c') ∧ (w.opDone c o.uid).regs = w.regs) := by
  refine ⟨?lands, fun w o i => exec_storePerformed_of_done, fun w o _ => exec_tileOpComplete_of_oldest,
    fun w iss due _ => exec_parkcTimeout_of_parkc,
    fun w c c' o os h hu => ⟨opDone_ops_head h hu, opDone_ops_ne w o.uid, opDone_regs w c o.uid⟩⟩
  case lands =>
    intro w o i hw ho hd hwt hb
    refine ⟨_, exec_loadLands_of_rising hs hw ho hd hwt hb, landOp_ops_ne w o (c := .st) (by decide), ?_, ?_, ?_⟩
    · exact fun x => landOp_cell_written
    · exact fun c => landOp_find?_of_not_mem
    · exact fun os h _ => landOp_ld_head h

/-- A load of one cell that is due to land, the first operation of its wave's LD. -/
def landingLoad : Op :=
  { uid := 0, kind := .load, iss := ⟨0, 1, 0x10000, 4, 0, none⟩, writes := [⟨cellAt 4 0, 7, 0⟩], busy := [cellAt 4 0], waits := [], adds := [],
    done := false }

def landingWave : Wave := { placedBirth.wave 0 0 with ld := [landingLoad] }

/-- A state outside the canonical form: the keys of its wave map do not rise. -/
def unorderedWaves : State := { State.reset with waves := [(1, landingWave), (0, landingWave)] }

/-- Refutes O39: its first clause asks that landing data changes the wave of slot k in its place in the wave map, of every state and not only
of those whose wave map is in its canonical form. LOAD_LANDS writes the slot, and where slot 1 is listed before slot 0 the written wave
is a third entry. `operationsComplete_of_rising` has every clause for a wave map whose keys rise. -/
theorem not_operationsComplete : ¬ Obligations.OperationsComplete := by
  unfold Obligations.OperationsComplete
  intro h
  obtain ⟨f, landed, -⟩ := (h unorderedWaves 0).1 landingWave landingLoad 0 rfl rfl rfl rfl rfl
  rw [exec_loadLands_of_due rfl rfl rfl rfl rfl] at landed
  have entries : (unorderedWaves.setWave 0 (landingWave.landOp landingLoad)).waves.length = (unorderedWaves.waves.modify 0 f).length :=
    congrArg (fun t => t.waves.length) (Host.Outcome.next.inj landed)
  rw [SMap.modify, List.length_map] at entries
  exact absurd entries (by decide)

end Sys2Proof.Machine

/-! Decoding what is encoded, and encoding what is decoded (03 R83 to R97). -/

namespace Sys2Proof.Laws

/-- Decoding an instruction's bytes gives the instruction and the bytes after it, one lemma of `Laws.Encoding` per row of the table; an event
has no words. -/
theorem roundTrip (i : Instr) : RoundTrip i := by
  cases i with
  | iadd d a b g h => exact Encoding.iadd d a b g h
  | iadds d a b g h => exact Encoding.iadds d a b g h
  | isub d a b g h => exact Encoding.isub d a b g h
  | isubs d a b g h => exact Encoding.isubs d a b g h
  | imul d a b g h => exact Encoding.imul d a b g h
  | imulh d a b g h => exact Encoding.imulh d a b g h
  | imulhu d a b g h => exact Encoding.imulhu d a b g h
  | imad d a b g h => exact Encoding.imad d a b g h
  | land d a b g h => exact Encoding.land d a b g h
  | lor d a b g h => exact Encoding.lor d a b g h
  | lxor d a b g h => exact Encoding.lxor d a b g h
  | andn d a b g h => exact Encoding.andn d a b g h
  | shl d a b g h => exact Encoding.shl d a b g h
  | shr d a b g h => exact Encoding.shr d a b g h
  | sar d a b g h => exact Encoding.sar d a b g h
  | imin d a b g h => exact Encoding.imin d a b g h
  | imax d a b g h => exact Encoding.imax d a b g h
  | umin d a b g h => exact Encoding.umin d a b g h
  | umax d a b g h => exact Encoding.umax d a b g h
  | lea2 d a b g => exact Encoding.lea2 d a b g
  | lea3 d a b g => exact Encoding.lea3 d a b g
  | mov d a g h => exact Encoding.mov d a g h
  | lnot d a g h => exact Encoding.lnot d a g h
  | neg d a g h => exact Encoding.neg d a g h
  | iabs d a g h => exact Encoding.iabs d a g h
  | popc d a g h => exact Encoding.popc d a g h
  | clz d a g h => exact Encoding.clz d a g h
  | ctz d a g h => exact Encoding.ctz d a g h
  | brev d a g h => exact Encoding.brev d a g h
  | bswap d a g h => exact Encoding.bswap d a g h
  | laneid d g h => exact Encoding.laneid d g h
  | fibid d g h => exact Encoding.fibid d g h
  | smovi d i => exact Encoding.smovi d i
  | iaddi d a i => exact Encoding.iaddi d a i
  | imuli d a i => exact Encoding.imuli d a i
  | andi d a i => exact Encoding.andi d a i
  | ori d a i => exact Encoding.ori d a i
  | xori d a i => exact Encoding.xori d a i
  | shli d a n => exact Encoding.shli d a n
  | shri d a n => exact Encoding.shri d a n
  | sari d a n => exact Encoding.sari d a n
  | icmp c p a b g => exact Encoding.icmp c p a b g
  | ucmp c p a b g => exact Encoding.ucmp c p a b g
  | fcmp c p a b g => exact Encoding.fcmp c p a b g
  | hcmp c p a b g => exact Encoding.hcmp c p a b g
  | icmpi c p a i => exact Encoding.icmpi c p a i
  | plog d n a o m b g => exact Encoding.plog d n a o m b g
  | pmov d a m g => exact Encoding.pmov d a m g
  | vote d n a m g => exact Encoding.vote d n a m g
  | fadd d a b g h => exact Encoding.fadd d a b g h
  | fsub d a b g h => exact Encoding.fsub d a b g h
  | fmul d a b g h => exact Encoding.fmul d a b g h
  | ffma d a b g h => exact Encoding.ffma d a b g h
  | fmin d a b g h => exact Encoding.fmin d a b g h
  | fmax d a b g h => exact Encoding.fmax d a b g h
  | fclamp d a b g h => exact Encoding.fclamp d a b g h
  | fmov d a g h => exact Encoding.fmov d a g h
  | fneg d a g h => exact Encoding.fneg d a g h
  | fabs d a g h => exact Encoding.fabs d a g h
  | frcp d a g h => exact Encoding.frcp d a g h
  | frsq d a g h => exact Encoding.frsq d a g h
  | fsqrt d a g h => exact Encoding.fsqrt d a g h
  | fexp2 d a g h => exact Encoding.fexp2 d a g h
  | flog2 d a g h => exact Encoding.flog2 d a g h
  | fsin d a g h => exact Encoding.fsin d a g h
  | fcos d a g h => exact Encoding.fcos d a g h
  | ffloor d a g h => exact Encoding.ffloor d a g h
  | fceil d a g h => exact Encoding.fceil d a g h
  | ftrunc d a g h => exact Encoding.ftrunc d a g h
  | frint d a g h => exact Encoding.frint d a g h
  | ffract d a g h => exact Encoding.ffract d a g h
  | fsign d a g h => exact Encoding.fsign d a g h
  | hadd2 d a b g h => exact Encoding.hadd2 d a b g h
  | hsub2 d a b g h => exact Encoding.hsub2 d a b g h
  | hmul2 d a b g h => exact Encoding.hmul2 d a b g h
  | hfma2 d a b g h => exact Encoding.hfma2 d a b g h
  | hmin2 d a b g h => exact Encoding.hmin2 d a b g h
  | hmax2 d a b g h => exact Encoding.hmax2 d a b g h
  | dot2h d a b g h => exact Encoding.dot2h d a b g h
  | dot4q d a b g h => exact Encoding.dot4q d a b g h
  | cadd d a b g => exact Encoding.cadd d a b g
  | csub d a b g => exact Encoding.csub d a b g
  | cmul d a b g => exact Encoding.cmul d a b g
  | cfma d a b g => exact Encoding.cfma d a b g
  | ccmul d a b g => exact Encoding.ccmul d a b g
  | cmag2 d a g => exact Encoding.cmag2 d a g
  | cexpi d a g => exact Encoding.cexpi d a g
  | cscale d a b g => exact Encoding.cscale d a b g
  | cvt d a s t g h => exact Encoding.cvt d a s t g h
  | pack d a s t g h => exact Encoding.pack d a s t g h
  | unpackWiden d a k g h => exact Encoding.unpackWiden d a k g h
  | unpackBlock d a g => exact Encoding.unpackBlock d a g
  | settag d a t g h => exact Encoding.settag d a t g h
  | gettag d a g h => exact Encoding.gettag d a g h
  | shfl d a b g h => exact Encoding.shfl d a b g h
  | xbar d a n g h => exact Encoding.xbar d a n g h
  | xptl n a g => exact Encoding.xptl n a g
  | tmma d a b m => exact Encoding.tmma d a b m
  | tmmat d a b m => exact Encoding.tmmat d a b m
  | tzero d m => exact Encoding.tzero d m
  | ttrnFragment d a m => exact Encoding.ttrnFragment d a m
  | ttrnAccumulator d a m => exact Encoding.ttrnAccumulator d a m
  | tact d a f m => exact Encoding.tact d a f m
  | tcvt d a s t m => exact Encoding.tcvt d a s t m
  | tred d a o m => exact Encoding.tred d a o m
  | tbias d a b m => exact Encoding.tbias d a b m
  | ldb d a i => exact Encoding.ldb d a i
  | ldh d a i => exact Encoding.ldh d a i
  | ldw d a i => exact Encoding.ldw d a i
  | ldd d a i => exact Encoding.ldd d a i
  | ldq d a i => exact Encoding.ldq d a i
  | stb d a i => exact Encoding.stb d a i
  | sth d a i => exact Encoding.sth d a i
  | stw d a i => exact Encoding.stw d a i
  | std d a i => exact Encoding.std d a i
  | stq d a i => exact Encoding.stq d a i
  | ldv d a i => exact Encoding.ldv d a i
  | ldf d a t g => exact Encoding.ldf d a t g
  | lde d a t g => exact Encoding.lde d a t g
  | accb d a i => exact Encoding.accb d a i
  | tld d a b m => exact Encoding.tld d a b m
  | tst d a b m => exact Encoding.tst d a b m
  | aadd d a b c => exact Encoding.aadd d a b c
  | aaddNr a b c => exact Encoding.aaddNr a b c
  | afadd d a b c => exact Encoding.afadd d a b c
  | afaddNr a b c => exact Encoding.afaddNr a b c
  | amin d a b c => exact Encoding.amin d a b c
  | aminNr a b c => exact Encoding.aminNr a b c
  | amax d a b c => exact Encoding.amax d a b c
  | amaxNr a b c => exact Encoding.amaxNr a b c
  | aumin d a b c => exact Encoding.aumin d a b c
  | auminNr a b c => exact Encoding.auminNr a b c
  | aumax d a b c => exact Encoding.aumax d a b c
  | aumaxNr a b c => exact Encoding.aumaxNr a b c
  | aand d a b c => exact Encoding.aand d a b c
  | aandNr a b c => exact Encoding.aandNr a b c
  | aor d a b c => exact Encoding.aor d a b c
  | aorNr a b c => exact Encoding.aorNr a b c
  | axor d a b c => exact Encoding.axor d a b c
  | axorNr a b c => exact Encoding.axorNr a b c
  | axchg d a b c => exact Encoding.axchg d a b c
  | axchgNr a b c => exact Encoding.axchgNr a b c
  | acas d a b c => exact Encoding.acas d a b c
  | acasNr a b c => exact Encoding.acasNr a b c
  | enq d a b c => exact Encoding.enq d a b c
  | deq d a b c => exact Encoding.deq d a b c
  | monw k a b c => exact Encoding.monw k a b c
  | phase c => exact Encoding.phase c
  | bar c => exact Encoding.bar c
  | br p n m s => exact Encoding.br p n m s
  | brx a g => exact Encoding.brx a g
  | call d i => exact Encoding.call d i
  | ret a g => exact Encoding.ret a g
  | fork d i => exact Encoding.fork d i
  | fend g => exact Encoding.fend g
  | join n => exact Encoding.join n
  | waitc x c s l => exact Encoding.waitc x c s l
  | sadd d a b => exact Encoding.sadd d a b
  | ssub d a b => exact Encoding.ssub d a b
  | smul d a b => exact Encoding.smul d a b
  | smulh d a b => exact Encoding.smulh d a b
  | sand d a b => exact Encoding.sand d a b
  | sor d a b => exact Encoding.sor d a b
  | sxor d a b => exact Encoding.sxor d a b
  | sshl d a b => exact Encoding.sshl d a b
  | sshr d a b => exact Encoding.sshr d a b
  | ssar d a b => exact Encoding.ssar d a b
  | smin d a b => exact Encoding.smin d a b
  | smax d a b => exact Encoding.smax d a b
  | sumin d a b => exact Encoding.sumin d a b
  | sumax d a b => exact Encoding.sumax d a b
  | smov d a => exact Encoding.smov d a
  | sslt d a b => exact Encoding.sslt d a b
  | sfadd d a b => exact Encoding.sfadd d a b
  | sfsub d a b => exact Encoding.sfsub d a b
  | sfmul d a b => exact Encoding.sfmul d a b
  | sffma d a b => exact Encoding.sffma d a b
  | sfmin d a b => exact Encoding.sfmin d a b
  | sfmax d a b => exact Encoding.sfmax d a b
  | sfrcp d a => exact Encoding.sfrcp d a
  | sfrsq d a => exact Encoding.sfrsq d a
  | sfsqrt d a => exact Encoding.sfsqrt d a
  | scvtfi d a => exact Encoding.scvtfi d a
  | scvtif d a => exact Encoding.scvtif d a
  | sfcmplt d a b => exact Encoding.sfcmplt d a b
  | saddi d a i => exact Encoding.saddi d a i
  | vmovi d i => exact Encoding.vmovi d i
  | imx v next => exact Encoding.imx v next
  | cplin d a q => exact Encoding.cplin d a q
  | cp2d d a q => exact Encoding.cp2d d a q
  | cpgath d a q => exact Encoding.cpgath d a q
  | cpscat d a q => exact Encoding.cpscat d a q
  | cpexp d a q => exact Encoding.cpexp d a q
  | cpcmp d a q => exact Encoding.cpcmp d a q
  | rcarm d a q => exact Encoding.rcarm d a q
  | rcwait d a q => exact Encoding.rcwait d a q
  | gtopk d a q => exact Encoding.gtopk d a q
  | gbuck d a q => exact Encoding.gbuck d a q
  | gmerge d a q => exact Encoding.gmerge d a q
  | ghist d a q => exact Encoding.ghist d a q
  | gscan d a q => exact Encoding.gscan d a q
  | gperm d a q => exact Encoding.gperm d a q
  | cxfork d a q => exact Encoding.cxfork d a q
  | cxrdv d a q => exact Encoding.cxrdv d a q
  | cxbond d a q => exact Encoding.cxbond d a q
  | cxdense d a q => exact Encoding.cxdense d a q
  | qfence d a q => exact Encoding.qfence d a q
  | qstat d a q => exact Encoding.qstat d a q
  | genray d a g => exact Encoding.genray d a g
  | trace g => exact Encoding.trace g
  | accept g => exact Encoding.accept g
  | ignore g => exact Encoding.ignore g
  | termray g => exact Encoding.termray g
  | spawn d a g => exact Encoding.spawn d a g
  | rayld d c w g => exact Encoding.rayld d c w g
  | rayst d c w g => exact Encoding.rayst d c w g
  | raydone g => exact Encoding.raydone g
  | binkey d g => exact Encoding.binkey d g
  | childq d g => exact Encoding.childq d g
  | item c a g => exact Encoding.item c a g
  | launch d a g => exact Encoding.launch d a g
  | nop => exact Encoding.nop
  | trap n g => exact Encoding.trap n g
  | bkpt n g => exact Encoding.bkpt n g
  | getsr d e s g => exact Encoding.getsr d e s g
  | setsr e a g => exact Encoding.setsr e a g
  | rdcyc d g => exact Encoding.rdcyc d g
  | yield => exact Encoding.yield
  | region => exact Encoding.region
  | winb n => exact Encoding.winb n
  | swinb n => exact Encoding.swinb n
  | regreq n => exact Encoding.regreq n
  | regrel n => exact Encoding.regrel n
  | rdlane d a g => exact Encoding.rdlane d a g
  | wrlane d a g => exact Encoding.wrlane d a g
  | bcast d a s g => exact Encoding.bcast d a s g
  | prefh a g => exact Encoding.prefh a g
  | parkc n => exact Encoding.parkc n
  | _ => exact roundTrip_event rfl

/-- No instruction has more than the two words of an IMX (03 R92). -/
theorem encode_length_le (i : Instr) : (encode i).length ≤ 2 := by
  cases i <;> exact Nat.le_of_ble_eq_true rfl

theorem encodeBytes_length_le (i : Instr) : (encodeBytes i).length ≤ 8 := by
  have hw := encode_length_le i
  have hb : (encodeBytes i).length = 4 * (encode i).length := by
    simp [encodeBytes, List.length_flatMap, Nat.mul_comm]
  omega

theorem ofBytes_lt (bs : List Byte) : ofBytes bs < 2 ^ (8 * bs.length) := by
  induction bs with
  | nil => decide
  | cons b bs ih =>
    have hb := b.isLt
    have hp : 2 ^ (8 * (b :: bs).length) = 256 * 2 ^ (8 * bs.length) := by
      rw [List.length_cons, Nat.mul_succ, Nat.pow_add, Nat.mul_comm]
    rw [ofBytes, hp]
    omega

theorem bytesOf_zero_eq_replicate (k : Nat) : bytesOf k 0 = List.replicate k 0 := by
  simp [bytesOf, List.map_const']

/-- The bytes of the number that a byte string spells are that string, filled up with zero bytes. -/
theorem bytesOf_ofBytes (bs : List Byte) (k : Nat) : bytesOf (bs.length + k) (ofBytes bs) = bs ++ List.replicate k 0 := by
  induction bs with
  | nil => rw [List.length_nil, Nat.zero_add]; exact bytesOf_zero_eq_replicate k
  | cons b bs ih =>
    have hb := b.isLt
    have hlow : BitVec.ofNat 8 (b.toNat + 256 * ofBytes bs) = b := by
      apply BitVec.eq_of_toNat_eq
      rw [BitVec.toNat_ofNat]
      omega
    have hhigh : (b.toNat + 256 * ofBytes bs) / 256 = ofBytes bs := by omega
    rw [List.length_cons, Nat.succ_add, Machine.bytesOf_succ, ofBytes, hlow, hhigh, ih, List.cons_append]

/-- The table decoder reads an instruction's bytes with zero bytes after them. -/
theorem decodeTableWord_of_decode {i : Instr} (h : ∀ rest, decode (encodeBytes i ++ rest) = .ok (i, rest)) :
    decodeTableWord (8 * (encodeBytes i).length) (ofBytes (encodeBytes i)) = some i := by
  obtain ⟨k, hk⟩ := Nat.exists_eq_add_of_le (encodeBytes_length_le i)
  rw [decodeTableWord, Nat.mod_eq_of_lt (ofBytes_lt _), hk, bytesOf_ofBytes, h]

end Sys2Proof.Laws

namespace Sys2Proof.Machine

/-- Settles O58: the decoder reads every instruction back, and the table decoder reads the same bytes with zero bytes after them. -/
theorem encodeDecode : Obligations.EncodeDecode := by
  unfold Obligations.EncodeDecode
  exact ⟨Laws.roundTrip, fun i _ hw => Laws.decodeTableWord_of_decode (Laws.roundTrip i hw)⟩

end Sys2Proof.Machine

namespace Sys2Proof.Laws

/-! ### One word for each meaning -/

/-- The low n bits of a word are these placed fields. -/
def Laid (w : Word) (n : Nat) (fs : List Nat) : Prop := w.toNat % 2 ^ n = fs.sum

theorem bitsAt_toNat (lo n : Nat) (w : Word) : (bitsAt lo n w).toNat = w.toNat / 2 ^ lo % 2 ^ n := by
  simp only [bitsAt, BitVec.extractLsb', BitVec.toNat_ofNat, Nat.shiftRight_eq_div_pow]

theorem Laid.nil {w : Word} : Laid w 0 [] := Nat.mod_one _

/-- Above the fields laid so far stands a field of the instruction. -/
theorem Laid.field (lo n : Nat) {w : Word} {fs : List Nat} (h : Laid w lo fs) : Laid w (lo + n) (fld (bitsAt lo n w) lo :: fs) := by
  unfold Laid at h ⊢
  rw [List.sum_cons, ← h, fld, bitsAt_toNat, Nat.pow_add, Nat.mod_mul, Nat.add_comm, Nat.mul_comm]

/-- Above them stands a fixed code. -/
theorem Laid.code {lo n c : Nat} {w : Word} {fs : List Nat} (hc : bitsAt lo n w = BitVec.ofNat n c) (h : Laid w lo fs)
    (lt : c < 2 ^ n := by decide) : Laid w (lo + n) (lit c lo :: fs) := by
  have := h.field lo n
  rwa [hc, fld, BitVec.toNat_ofNat, Nat.mod_eq_of_lt lt] at this

/-- Above them stand bits that must be zero. -/
theorem Laid.zero {lo n : Nat} {w : Word} {fs : List Nat} (hz : bitsAt lo n w = 0#n) (h : Laid w lo fs) : Laid w (lo + n) fs := by
  have := h.field lo n
  unfold Laid at this ⊢
  rwa [hz, List.sum_cons, fld, BitVec.toNat_zero, Nat.zero_mul, Nat.zero_add] at this

/-- A word is its opcode above its 25 other bits (03 R83). -/
theorem wordOf_of_laid {w : Word} {op : Nat} {fs : List Nat} (e : (bitsAt 25 7 w).toNat = op) (h : Laid w 25 fs) : wordOf op fs = w := by
  have top := h.field 25 7
  unfold Laid at top
  rw [Nat.mod_eq_of_lt w.isLt, List.sum_cons, fld, e] at top
  rw [wordOf, ← top, BitVec.ofNat_toNat, BitVec.setWidth_eq]

/-- F-A with its hold field (03 R83). -/
theorem Laid.formatA {w : Word} : Laid w 25 [fld (bitsAt 18 7 w) 18, fld (bitsAt 11 7 w) 11, fld (bitsAt 4 7 w) 4, fld (bitsAt 2 2 w) 2,
    fld (bitsAt 0 2 w) 0] :=
  .field 18 7 <| .field 11 7 <| .field 4 7 <| .field 2 2 <| .field 0 2 .nil

/-- F-A, F-G and F-T with H or X zero. -/
theorem Laid.formatA0 {w : Word} (h : bitsAt 0 2 w = 0) : Laid w 25 [fld (bitsAt 18 7 w) 18, fld (bitsAt 11 7 w) 11,
    fld (bitsAt 4 7 w) 4, fld (bitsAt 2 2 w) 2] :=
  .field 18 7 <| .field 11 7 <| .field 4 7 <| .field 2 2 <| .zero h .nil

/-- F-A with an operation code for B (03 R93). -/
theorem Laid.formatAUnary {w : Word} {c : Nat} (h : bitsAt 4 7 w = BitVec.ofNat 7 c) (lt : c < 2 ^ 7 := by decide) :
    Laid w 25 [fld (bitsAt 18 7 w) 18,
    fld (bitsAt 11 7 w) 11, lit c 4, fld (bitsAt 2 2 w) 2, fld (bitsAt 0 2 w) 0] :=
  .field 18 7 <| .field 11 7 <| .code h (.field 2 2 <| .field 0 2 .nil) lt

theorem Laid.formatB {w : Word} : Laid w 25 [fld (bitsAt 18 7 w) 18, fld (bitsAt 11 7 w) 11, fld (bitsAt 0 11 w) 0] :=
  .field 18 7 <| .field 11 7 <| .field 0 11 .nil

theorem Laid.formatC {w : Word} : Laid w 25 [fld (bitsAt 18 7 w) 18, fld (bitsAt 0 18 w) 0] := .field 18 7 <| .field 0 18 .nil

theorem Laid.formatE {w : Word} {c : Nat} (h : bitsAt 0 4 w = BitVec.ofNat 4 c) (lt : c < 2 ^ 4 := by decide) :
    Laid w 25 [fld (bitsAt 18 7 w) 18, fld (bitsAt 11 7 w) 11, fld (bitsAt 4 7 w) 4, lit c 0] :=
  .field 18 7 <| .field 11 7 <| .field 4 7 <| .code h .nil lt

/-- F-E with B zero. -/
theorem Laid.formatEUnary {w : Word} {c : Nat} (h : bitsAt 0 11 w = BitVec.ofNat 11 c) (lt : c < 2 ^ 11 := by decide) :
    Laid w 25 [fld (bitsAt 18 7 w) 18, fld (bitsAt 11 7 w) 11, lit c 0] :=
  .field 18 7 <| .field 11 7 <| .code h .nil lt

theorem Laid.formatF {w : Word} {c : Nat} (h : bitsAt 4 7 w = BitVec.ofNat 7 c) (lt : c < 2 ^ 7 := by decide) :
    Laid w 25 [fld (bitsAt 18 7 w) 18, fld (bitsAt 11 7 w) 11, lit c 4, fld (bitsAt 0 4 w) 0] :=
  .field 18 7 <| .field 11 7 <| .code h (.field 0 4 .nil) lt

/-- F-F with a guard in Q (03 R89). -/
theorem Laid.formatFGuard {w : Word} {c : Nat} (h : bitsAt 2 9 w = BitVec.ofNat 9 c) (lt : c < 2 ^ 9 := by decide) :
    Laid w 25 [fld (bitsAt 18 7 w) 18, fld (bitsAt 11 7 w) 11, lit c 2, fld (bitsAt 0 2 w) 0] :=
  .field 18 7 <| .field 11 7 <| .code h (.field 0 2 .nil) lt

/-- What a decoder of a word reads, if anything, is an instruction whose one word is that word. -/
def Meant (w : Word) (o : Option Instr) : Prop := ∀ i, o = some i → i.isWord = true ∧ encode i = [w]

theorem Meant.none {w : Word} : Meant w .none := fun _ h => nomatch h

/-- A row of the table whose fields are laid in the word as the encoder places them. -/
theorem Meant.row {w : Word} {i : Instr} {op : Nat} {fs : List Nat} (e : (bitsAt 25 7 w).toNat = op) (hw : i.isWord = true)
    (he : encode i = [wordOf op fs]) (h : Laid w 25 fs) : Meant w (some i) := by
  rintro _ ⟨⟩
  exact ⟨hw, by rw [he, wordOf_of_laid e h]⟩

theorem Meant.ite {w : Word} {c : Prop} [Decidable c] {a b : Option Instr} (ha : c → Meant w a) (hb : Meant w b) :
    Meant w (if c then a else b) := by
  split
  · exact ha ‹c›
  · exact hb

/-! The opcodes with more than one row (03 R93, R94). -/

theorem meant_decodeOp16 {w : Word} (e : (bitsAt 25 7 w).toNat = 0x16) : Meant w (decodeOp16 w) :=
  .ite (fun h => .row e rfl rfl (.field 18 7 <| .field 11 7 <| .zero h <| .field 2 2 <| .field 0 2 <| .nil)) <|
  .ite (fun h => .row e rfl rfl (.formatAUnary h)) <|
  .ite (fun h => .row e rfl rfl (.formatAUnary h)) <|
  .ite (fun h => .row e rfl rfl (.formatAUnary h)) <|
  .ite (fun h => .row e rfl rfl (.formatAUnary h)) <|
  .ite (fun h => .row e rfl rfl (.formatAUnary h)) <|
  .ite (fun h => .row e rfl rfl (.formatAUnary h)) <|
  .ite (fun h => .row e rfl rfl (.formatAUnary h)) <|
  .ite (fun h => .row e rfl rfl (.formatAUnary h)) <|
  .ite (fun h => .row e rfl rfl (.field 18 7 <| .code h <| .field 2 2 <| .field 0 2 <| .nil)) <|
  .ite (fun h => .row e rfl rfl (.field 18 7 <| .code h <| .field 2 2 <| .field 0 2 <| .nil)) <|
  .none

theorem meant_decodeOp2F {w : Word} (e : (bitsAt 25 7 w).toNat = 0x2F) : Meant w (decodeOp2F w) :=
  .ite (fun h => .row e rfl rfl (.field 18 7 <| .field 11 7 <| .zero h <| .field 2 2 <| .field 0 2 <| .nil)) <|
  .ite (fun h => .row e rfl rfl (.formatAUnary h)) <|
  .ite (fun h => .row e rfl rfl (.formatAUnary h)) <|
  .ite (fun h => .row e rfl rfl (.formatAUnary h)) <|
  .ite (fun h => .row e rfl rfl (.formatAUnary h)) <|
  .ite (fun h => .row e rfl rfl (.formatAUnary h)) <|
  .ite (fun h => .row e rfl rfl (.formatAUnary h)) <|
  .ite (fun h => .row e rfl rfl (.formatAUnary h)) <|
  .ite (fun h => .row e rfl rfl (.formatAUnary h)) <|
  .ite (fun h => .row e rfl rfl (.formatAUnary h)) <|
  .ite (fun h => .row e rfl rfl (.formatAUnary h)) <|
  .ite (fun h => .row e rfl rfl (.formatAUnary h)) <|
  .ite (fun h => .row e rfl rfl (.formatAUnary h)) <|
  .ite (fun h => .row e rfl rfl (.formatAUnary h)) <|
  .ite (fun h => .row e rfl rfl (.formatAUnary h)) <|
  .ite (fun h => .row e rfl rfl (.formatAUnary h)) <|
  .none

theorem meant_decodeOp42 {w : Word} (e : (bitsAt 25 7 w).toNat = 0x42) : Meant w (decodeOp42 w) :=
  .ite (fun h => .row e rfl rfl (.field 18 7 <| .field 11 7 <| .zero h <| .field 4 2 <| .field 2 2 <| .field 0 2 <| .nil)) <|
  .ite (fun ⟨h, k⟩ => .row e rfl rfl (.field 18 7 <| .field 11 7 <| .code k <| .field 2 2 <| .zero h <| .nil)) <|
  .none

theorem meant_decodeOp4B {w : Word} (e : (bitsAt 25 7 w).toNat = 0x4B) : Meant w (decodeOp4B w) :=
  .ite (fun ⟨h, k⟩ => .row e rfl rfl (.field 18 7 <| .field 11 7 <| .zero k <| .field 2 2 <| .zero h <| .nil)) <|
  .ite (fun ⟨h, k⟩ => .row e rfl rfl (.field 18 7 <| .field 11 7 <| .code k <| .field 2 2 <| .zero h <| .nil)) <|
  .none

theorem meant_decodeOp60 {w : Word} (e : (bitsAt 25 7 w).toNat = 0x60) : Meant w (decodeOp60 w) :=
  .ite (fun h => .row e rfl rfl (.formatA0 h)) <|
  .ite (fun ⟨h, k⟩ => .row e rfl rfl (.zero k <| .field 11 7 <| .field 4 7 <| .field 2 2 <| .code h <| .nil)) <|
  .none

theorem meant_decodeOp61 {w : Word} (e : (bitsAt 25 7 w).toNat = 0x61) : Meant w (decodeOp61 w) :=
  .ite (fun h => .row e rfl rfl (.formatA0 h)) <|
  .ite (fun ⟨h, k⟩ => .row e rfl rfl (.zero k <| .field 11 7 <| .field 4 7 <| .field 2 2 <| .code h <| .nil)) <|
  .none

theorem meant_decodeOp62 {w : Word} (e : (bitsAt 25 7 w).toNat = 0x62) : Meant w (decodeOp62 w) :=
  .ite (fun h => .row e rfl rfl (.formatA0 h)) <|
  .ite (fun ⟨h, k⟩ => .row e rfl rfl (.zero k <| .field 11 7 <| .field 4 7 <| .field 2 2 <| .code h <| .nil)) <|
  .none

theorem meant_decodeOp63 {w : Word} (e : (bitsAt 25 7 w).toNat = 0x63) : Meant w (decodeOp63 w) :=
  .ite (fun h => .row e rfl rfl (.formatA0 h)) <|
  .ite (fun ⟨h, k⟩ => .row e rfl rfl (.zero k <| .field 11 7 <| .field 4 7 <| .field 2 2 <| .code h <| .nil)) <|
  .none

theorem meant_decodeOp64 {w : Word} (e : (bitsAt 25 7 w).toNat = 0x64) : Meant w (decodeOp64 w) :=
  .ite (fun h => .row e rfl rfl (.formatA0 h)) <|
  .ite (fun ⟨h, k⟩ => .row e rfl rfl (.zero k <| .field 11 7 <| .field 4 7 <| .field 2 2 <| .code h <| .nil)) <|
  .none

theorem meant_decodeOp65 {w : Word} (e : (bitsAt 25 7 w).toNat = 0x65) : Meant w (decodeOp65 w) :=
  .ite (fun h => .row e rfl rfl (.formatA0 h)) <|
  .ite (fun ⟨h, k⟩ => .row e rfl rfl (.zero k <| .field 11 7 <| .field 4 7 <| .field 2 2 <| .code h <| .nil)) <|
  .none

theorem meant_decodeOp66 {w : Word} (e : (bitsAt 25 7 w).toNat = 0x66) : Meant w (decodeOp66 w) :=
  .ite (fun h => .row e rfl rfl (.formatA0 h)) <|
  .ite (fun ⟨h, k⟩ => .row e rfl rfl (.zero k <| .field 11 7 <| .field 4 7 <| .field 2 2 <| .code h <| .nil)) <|
  .none

theorem meant_decodeOp67 {w : Word} (e : (bitsAt 25 7 w).toNat = 0x67) : Meant w (decodeOp67 w) :=
  .ite (fun h => .row e rfl rfl (.formatA0 h)) <|
  .ite (fun ⟨h, k⟩ => .row e rfl rfl (.zero k <| .field 11 7 <| .field 4 7 <| .field 2 2 <| .code h <| .nil)) <|
  .none

theorem meant_decodeOp68 {w : Word} (e : (bitsAt 25 7 w).toNat = 0x68) : Meant w (decodeOp68 w) :=
  .ite (fun h => .row e rfl rfl (.formatA0 h)) <|
  .ite (fun ⟨h, k⟩ => .row e rfl rfl (.zero k <| .field 11 7 <| .field 4 7 <| .field 2 2 <| .code h <| .nil)) <|
  .none

theorem meant_decodeOp69 {w : Word} (e : (bitsAt 25 7 w).toNat = 0x69) : Meant w (decodeOp69 w) :=
  .ite (fun h => .row e rfl rfl (.formatA0 h)) <|
  .ite (fun ⟨h, k⟩ => .row e rfl rfl (.zero k <| .field 11 7 <| .field 4 7 <| .field 2 2 <| .code h <| .nil)) <|
  .none

theorem meant_decodeOp6A {w : Word} (e : (bitsAt 25 7 w).toNat = 0x6A) : Meant w (decodeOp6A w) :=
  .ite (fun h => .row e rfl rfl (.formatA0 h)) <|
  .ite (fun ⟨h, k⟩ => .row e rfl rfl (.zero k <| .field 11 7 <| .field 4 7 <| .field 2 2 <| .code h <| .nil)) <|
  .none

theorem meant_decodeOp78 {w : Word} (e : (bitsAt 25 7 w).toNat = 0x78) : Meant w (decodeOp78 w) :=
  .ite (fun h => .row e rfl rfl (.field 18 7 <| .field 11 7 <| .field 4 7 <| .zero h <| .nil)) <|
  .ite (fun h => .row e rfl rfl (.formatE h)) <|
  .ite (fun h => .row e rfl rfl (.formatE h)) <|
  .ite (fun h => .row e rfl rfl (.formatE h)) <|
  .ite (fun h => .row e rfl rfl (.formatE h)) <|
  .ite (fun h => .row e rfl rfl (.formatE h)) <|
  .ite (fun h => .row e rfl rfl (.formatE h)) <|
  .ite (fun h => .row e rfl rfl (.formatE h)) <|
  .ite (fun h => .row e rfl rfl (.formatE h)) <|
  .ite (fun h => .row e rfl rfl (.formatE h)) <|
  .ite (fun h => .row e rfl rfl (.formatE h)) <|
  .ite (fun h => .row e rfl rfl (.formatE h)) <|
  .ite (fun h => .row e rfl rfl (.formatE h)) <|
  .ite (fun h => .row e rfl rfl (.formatE h)) <|
  .ite (fun h => .row e rfl rfl (.formatEUnary h)) <|
  .ite (fun h => .row e rfl rfl (.formatE h)) <|
  .none

theorem meant_decodeOp79 {w : Word} (e : (bitsAt 25 7 w).toNat = 0x79) : Meant w (decodeOp79 w) :=
  .ite (fun h => .row e rfl rfl (.field 18 7 <| .field 11 7 <| .field 4 7 <| .zero h <| .nil)) <|
  .ite (fun h => .row e rfl rfl (.formatE h)) <|
  .ite (fun h => .row e rfl rfl (.formatE h)) <|
  .ite (fun h => .row e rfl rfl (.formatE h)) <|
  .ite (fun h => .row e rfl rfl (.formatE h)) <|
  .ite (fun h => .row e rfl rfl (.formatE h)) <|
  .ite (fun h => .row e rfl rfl (.formatEUnary h)) <|
  .ite (fun h => .row e rfl rfl (.formatEUnary h)) <|
  .ite (fun h => .row e rfl rfl (.formatEUnary h)) <|
  .ite (fun h => .row e rfl rfl (.formatEUnary h)) <|
  .ite (fun h => .row e rfl rfl (.formatEUnary h)) <|
  .ite (fun h => .row e rfl rfl (.formatE h)) <|
  .none

theorem meant_decodeOp7C {w : Word} (e : (bitsAt 25 7 w).toNat = 0x7C) : Meant w (decodeOp7C w) :=
  .ite (fun h => .row e rfl rfl (.field 18 7 <| .field 11 7 <| .zero h <| .field 0 4 <| .nil)) <|
  .ite (fun h => .row e rfl rfl (.formatF h)) <|
  .ite (fun h => .row e rfl rfl (.formatF h)) <|
  .ite (fun h => .row e rfl rfl (.formatF h)) <|
  .ite (fun h => .row e rfl rfl (.formatF h)) <|
  .ite (fun h => .row e rfl rfl (.formatF h)) <|
  .ite (fun h => .row e rfl rfl (.formatF h)) <|
  .ite (fun h => .row e rfl rfl (.formatF h)) <|
  .ite (fun h => .row e rfl rfl (.formatF h)) <|
  .ite (fun h => .row e rfl rfl (.formatF h)) <|
  .ite (fun h => .row e rfl rfl (.formatF h)) <|
  .ite (fun h => .row e rfl rfl (.formatF h)) <|
  .ite (fun h => .row e rfl rfl (.formatF h)) <|
  .ite (fun h => .row e rfl rfl (.formatF h)) <|
  .ite (fun h => .row e rfl rfl (.formatF h)) <|
  .ite (fun h => .row e rfl rfl (.formatF h)) <|
  .ite (fun h => .row e rfl rfl (.formatF h)) <|
  .ite (fun h => .row e rfl rfl (.formatF h)) <|
  .ite (fun h => .row e rfl rfl (.formatF h)) <|
  .ite (fun h => .row e rfl rfl (.formatF h)) <|
  .none

theorem meant_decodeOp7D {w : Word} (e : (bitsAt 25 7 w).toNat = 0x7D) : Meant w (decodeOp7D w) :=
  .ite (fun h => .row e rfl rfl (.field 18 7 <| .field 11 7 <| .zero h <| .field 0 2 <| .nil)) <|
  .ite (fun h => .row e rfl rfl (.code h <| .field 0 2 <| .nil)) <|
  .ite (fun h => .row e rfl rfl (.code h <| .field 0 2 <| .nil)) <|
  .ite (fun h => .row e rfl rfl (.code h <| .field 0 2 <| .nil)) <|
  .ite (fun h => .row e rfl rfl (.code h <| .field 0 2 <| .nil)) <|
  .ite (fun h => .row e rfl rfl (.formatFGuard h)) <|
  .ite (fun h => .row e rfl rfl (.field 18 7 <| .field 16 2 <| .field 11 5 <| .code h <| .field 0 2 <| .nil)) <|
  .ite (fun h => .row e rfl rfl (.field 18 7 <| .field 16 2 <| .field 11 5 <| .code h <| .field 0 2 <| .nil)) <|
  .ite (fun h => .row e rfl rfl (.code h <| .field 0 2 <| .nil)) <|
  .ite (fun h => .row e rfl rfl (.field 18 7 <| .code h <| .field 0 2 <| .nil)) <|
  .ite (fun h => .row e rfl rfl (.field 18 7 <| .code h <| .field 0 2 <| .nil)) <|
  .ite (fun ⟨h, k⟩ => .row e rfl rfl (.zero k <| .field 18 5 <| .field 11 7 <| .code h <| .field 0 2 <| .nil)) <|
  .ite (fun h => .row e rfl rfl (.formatFGuard h)) <|
  .none

theorem meant_decodeOp7E {w : Word} (e : (bitsAt 25 7 w).toNat = 0x7E) : Meant w (decodeOp7E w) :=
  .ite (fun h => .row e rfl rfl (.zero h <| .nil)) <|
  .ite (fun ⟨h, k⟩ => .row e rfl rfl (.zero k <| .field 11 7 <| .code h <| .field 0 2 <| .nil)) <|
  .ite (fun ⟨h, k⟩ => .row e rfl rfl (.zero k <| .field 11 7 <| .code h <| .field 0 2 <| .nil)) <|
  .ite (fun h => .row e rfl rfl (.field 18 7 <| .field 11 7 <| .code h <| .field 2 1 <| .field 0 2 <| .nil)) <|
  .ite (fun h => .row e rfl rfl (.formatFGuard h)) <|
  .ite (fun h => .row e rfl rfl (.field 18 7 <| .code h <| .field 0 2 <| .nil)) <|
  .ite (fun h => .row e rfl rfl (.code h <| .nil)) <|
  .ite (fun h => .row e rfl rfl (.code h <| .nil)) <|
  .ite (fun ⟨h, k⟩ => .row e rfl rfl (.zero k <| .field 11 5 <| .code h <| .nil)) <|
  .ite (fun ⟨h, k⟩ => .row e rfl rfl (.zero k <| .field 11 1 <| .code h <| .nil)) <|
  .ite (fun ⟨h, k⟩ => .row e rfl rfl (.zero k <| .field 11 7 <| .code h <| .nil)) <|
  .ite (fun ⟨h, k⟩ => .row e rfl rfl (.zero k <| .field 11 7 <| .code h <| .nil)) <|
  .ite (fun h => .row e rfl rfl (.formatFGuard h)) <|
  .ite (fun h => .row e rfl rfl (.formatFGuard h)) <|
  .ite (fun h => .row e rfl rfl (.field 18 7 <| .field 11 7 <| .code h <| .field 2 1 <| .field 0 2 <| .nil)) <|
  .ite (fun ⟨h, k⟩ => .row e rfl rfl (.zero k <| .field 11 7 <| .code h <| .field 0 2 <| .nil)) <|
  .ite (fun ⟨h, k⟩ => .row e rfl rfl (.zero k <| .field 11 7 <| .code h <| .nil)) <|
  .none

/-- Every word that is no IMX: the rows of its opcode are laid in it as the encoder lays them. -/
theorem meant_decodeWord {w : Word} (h7 : bitsAt 25 7 w ≠ 0x7F) : Meant w (decodeWord w 0) := by
  unfold decodeWord
  split
  next e => exact .row e rfl rfl .formatA
  next e => exact .row e rfl rfl .formatA
  next e => exact .row e rfl rfl .formatA
  next e => exact .row e rfl rfl .formatA
  next e => exact .row e rfl rfl .formatA
  next e => exact .row e rfl rfl .formatA
  next e => exact .row e rfl rfl .formatA
  next e => exact .row e rfl rfl .formatA
  next e => exact .row e rfl rfl .formatA
  next e => exact .row e rfl rfl .formatA
  next e => exact .row e rfl rfl .formatA
  next e => exact .row e rfl rfl .formatA
  next e => exact .row e rfl rfl .formatA
  next e => exact .row e rfl rfl .formatA
  next e => exact .row e rfl rfl .formatA
  next e => exact .row e rfl rfl .formatA
  next e => exact .row e rfl rfl .formatA
  next e => exact .row e rfl rfl .formatA
  next e => exact .row e rfl rfl .formatA
  next e => exact .ite (fun h => .row e rfl rfl (.formatA0 h)) .none
  next e => exact .ite (fun h => .row e rfl rfl (.formatA0 h)) .none
  next e => exact meant_decodeOp16 e
  next e => exact .row e rfl rfl .formatC
  next e => exact .row e rfl rfl .formatB
  next e => exact .row e rfl rfl .formatB
  next e => exact .row e rfl rfl .formatB
  next e => exact .row e rfl rfl .formatB
  next e => exact .row e rfl rfl .formatB
  next e => exact .ite (fun h => .row e rfl rfl (.field 18 7 <| .field 11 7 <| .zero h <| .field 0 5 <| .nil)) .none
  next e => exact .ite (fun h => .row e rfl rfl (.field 18 7 <| .field 11 7 <| .zero h <| .field 0 5 <| .nil)) .none
  next e => exact .ite (fun h => .row e rfl rfl (.field 18 7 <| .field 11 7 <| .zero h <| .field 0 5 <| .nil)) .none
  next e => exact .ite (fun h => .row e rfl rfl (.field 21 4 <| .field 18 3 <| .field 11 7 <| .field 4 7 <| .field 2 2 <| .zero h <| .nil)) .none
  next e => exact .ite (fun h => .row e rfl rfl (.field 21 4 <| .field 18 3 <| .field 11 7 <| .field 4 7 <| .field 2 2 <| .zero h <| .nil)) .none
  next e => exact .ite (fun h => .row e rfl rfl (.field 21 4 <| .field 18 3 <| .field 11 7 <| .field 4 7 <| .field 2 2 <| .zero h <| .nil)) .none
  next e => exact .ite (fun h => .row e rfl rfl (.field 21 4 <| .field 18 3 <| .field 11 7 <| .field 4 7 <| .field 2 2 <| .zero h <| .nil)) .none
  next e => exact .row e rfl rfl (.field 21 4 <| .field 18 3 <| .field 11 7 <| .field 0 11 <| .nil)
  next e => exact .ite (fun ⟨h, k, m, n⟩ => .row e rfl rfl
    (.zero n <| .field 18 3 <| .zero m <| .field 14 1 <| .field 11 3 <| .zero k <| .field 8 2 <| .field 7 1 <| .field 4 3 <| .field 2 2 <| .zero h <| .nil)) .none
  next e => exact .ite (fun ⟨h, k⟩ => .row e rfl rfl (.field 18 7 <| .field 11 7 <| .zero k <| .field 4 2 <| .field 2 2 <| .zero h <| .nil)) .none
  next e => exact .ite (fun ⟨h, k, m⟩ => .row e rfl rfl
    (.field 18 7 <| .zero m <| .field 14 1 <| .field 11 3 <| .zero k <| .field 4 2 <| .field 2 2 <| .zero h <| .nil)) .none
  next e => exact .row e rfl rfl .formatA
  next e => exact .row e rfl rfl .formatA
  next e => exact .row e rfl rfl .formatA
  next e => exact .row e rfl rfl .formatA
  next e => exact .row e rfl rfl .formatA
  next e => exact .row e rfl rfl .formatA
  next e => exact .row e rfl rfl .formatA
  next e => exact meant_decodeOp2F e
  next e => exact .row e rfl rfl .formatA
  next e => exact .row e rfl rfl .formatA
  next e => exact .row e rfl rfl .formatA
  next e => exact .row e rfl rfl .formatA
  next e => exact .row e rfl rfl .formatA
  next e => exact .row e rfl rfl .formatA
  next e => exact .row e rfl rfl .formatA
  next e => exact .row e rfl rfl .formatA
  next e => exact .ite (fun h => .row e rfl rfl (.formatA0 h)) .none
  next e => exact .ite (fun h => .row e rfl rfl (.formatA0 h)) .none
  next e => exact .ite (fun h => .row e rfl rfl (.formatA0 h)) .none
  next e => exact .ite (fun h => .row e rfl rfl (.formatA0 h)) .none
  next e => exact .ite (fun h => .row e rfl rfl (.formatA0 h)) .none
  next e => exact .ite (fun ⟨h, k⟩ => .row e rfl rfl (.field 18 7 <| .field 11 7 <| .zero k <| .field 2 2 <| .zero h <| .nil)) .none
  next e => exact .ite (fun ⟨h, k⟩ => .row e rfl rfl (.field 18 7 <| .field 11 7 <| .zero k <| .field 2 2 <| .zero h <| .nil)) .none
  next e => exact .ite (fun h => .row e rfl rfl (.formatA0 h)) .none
  next e => exact .row e rfl rfl (.field 18 7 <| .field 11 7 <| .field 10 1 <| .field 4 6 <| .field 2 2 <| .field 0 2 <| .nil)
  next e => exact .row e rfl rfl (.field 18 7 <| .field 11 7 <| .field 10 1 <| .field 4 6 <| .field 2 2 <| .field 0 2 <| .nil)
  next e => exact meant_decodeOp42 e
  next e => exact .ite (fun h => .row e rfl rfl (.field 18 7 <| .field 11 7 <| .zero h <| .field 4 6 <| .field 2 2 <| .field 0 2 <| .nil)) .none
  next e => exact .ite (fun h => .row e rfl rfl (.field 18 7 <| .field 11 7 <| .zero h <| .field 2 2 <| .field 0 2 <| .nil)) .none
  next e => exact .row e rfl rfl .formatA
  next e => exact .ite (fun h => .row e rfl rfl (.field 18 7 <| .field 11 7 <| .zero h <| .field 4 4 <| .field 2 2 <| .field 0 2 <| .nil)) .none
  next e => exact .ite (fun ⟨h, k, m⟩ => .row e rfl rfl (.zero m <| .field 18 4 <| .field 11 7 <| .zero k <| .field 2 2 <| .zero h <| .nil)) .none
  next e => exact .ite (fun h => .row e rfl rfl (.formatA0 h)) .none
  next e => exact .ite (fun h => .row e rfl rfl (.formatA0 h)) .none
  next e => exact .ite (fun ⟨h, k⟩ => .row e rfl rfl (.field 18 7 <| .zero k <| .field 2 2 <| .zero h <| .nil)) .none
  next e => exact meant_decodeOp4B e
  next e => exact .ite (fun ⟨h, k⟩ => .row e rfl rfl (.field 18 7 <| .field 11 7 <| .zero k <| .field 4 3 <| .field 2 2 <| .zero h <| .nil)) .none
  next e => exact .ite (fun h => .row e rfl rfl (.field 18 7 <| .field 11 7 <| .field 10 1 <| .field 4 6 <| .field 2 2 <| .zero h <| .nil)) .none
  next e => exact .ite (fun ⟨h, k⟩ => .row e rfl rfl (.field 18 7 <| .field 11 7 <| .zero k <| .field 4 2 <| .field 2 2 <| .zero h <| .nil)) .none
  next e => exact .ite (fun h => .row e rfl rfl (.formatA0 h)) .none
  next e => exact .row e rfl rfl .formatB
  next e => exact .row e rfl rfl .formatB
  next e => exact .row e rfl rfl .formatB
  next e => exact .row e rfl rfl .formatB
  next e => exact .row e rfl rfl .formatB
  next e => exact .row e rfl rfl .formatB
  next e => exact .row e rfl rfl .formatB
  next e => exact .row e rfl rfl .formatB
  next e => exact .row e rfl rfl .formatB
  next e => exact .row e rfl rfl .formatB
  next e => exact .row e rfl rfl .formatB
  next e => exact .ite (fun ⟨h, k⟩ => .row e rfl rfl (.field 18 7 <| .field 11 7 <| .zero k <| .field 4 6 <| .field 2 2 <| .zero h <| .nil)) .none
  next e => exact .ite (fun ⟨h, k⟩ => .row e rfl rfl (.field 18 7 <| .field 11 7 <| .zero k <| .field 4 5 <| .field 2 2 <| .zero h <| .nil)) .none
  next e => exact .row e rfl rfl .formatB
  next e => exact .ite (fun h => .row e rfl rfl (.formatA0 h)) .none
  next e => exact .ite (fun h => .row e rfl rfl (.formatA0 h)) .none
  next e => exact meant_decodeOp60 e
  next e => exact meant_decodeOp61 e
  next e => exact meant_decodeOp62 e
  next e => exact meant_decodeOp63 e
  next e => exact meant_decodeOp64 e
  next e => exact meant_decodeOp65 e
  next e => exact meant_decodeOp66 e
  next e => exact meant_decodeOp67 e
  next e => exact meant_decodeOp68 e
  next e => exact meant_decodeOp69 e
  next e => exact meant_decodeOp6A e
  next e => exact .ite (fun h => .row e rfl rfl (.formatA0 h)) .none
  next e => exact .ite (fun h => .row e rfl rfl (.formatA0 h)) .none
  next e => exact .ite (fun ⟨h, k⟩ => .row e rfl rfl (.zero k <| .field 18 4 <| .field 11 7 <| .field 4 7 <| .field 2 2 <| .zero h <| .nil)) .none
  next e => exact .ite (fun ⟨h, k⟩ => .row e rfl rfl (.zero k <| .field 2 2 <| .zero h <| .nil)) .none
  next e => exact .ite (fun ⟨h, k⟩ => .row e rfl rfl (.zero k <| .field 2 1 <| .zero h <| .nil)) .none
  next e => exact .row e rfl rfl (.field 22 3 <| .field 21 1 <| .field 19 2 <| .field 0 19 <| .nil)
  next e => exact .ite (fun ⟨h, k, m⟩ => .row e rfl rfl (.zero m <| .field 11 7 <| .zero k <| .field 2 2 <| .zero h <| .nil)) .none
  next e => exact .row e rfl rfl .formatC
  next e => exact .ite (fun ⟨h, k, m⟩ => .row e rfl rfl (.zero m <| .field 11 7 <| .zero k <| .field 2 2 <| .zero h <| .nil)) .none
  next e => exact .row e rfl rfl .formatC
  next e => exact .ite (fun ⟨h, k⟩ => .row e rfl rfl (.zero k <| .field 2 2 <| .zero h <| .nil)) .none
  next e => exact .ite (fun h => .row e rfl rfl (.zero h <| .field 0 8 <| .nil)) .none
  next e => exact .ite (fun h => .row e rfl rfl (.zero h <| .field 12 4 <| .field 8 4 <| .field 4 4 <| .field 0 4 <| .nil)) .none
  next e => exact meant_decodeOp78 e
  next e => exact meant_decodeOp79 e
  next e => exact .row e rfl rfl .formatB
  next e => exact .row e rfl rfl .formatC
  next e => exact meant_decodeOp7C e
  next e => exact meant_decodeOp7D e
  next e => exact meant_decodeOp7E e
  next e => exact absurd (BitVec.eq_of_toNat_eq e) h7
  next => exact .none

end Sys2Proof.Laws

namespace Sys2Proof.Machine

/-- Settles O59: each row the decoder reads is laid in the word as the encoder lays it. -/
theorem wordsHaveOneMeaning : Obligations.WordsHaveOneMeaning := by
  unfold Obligations.WordsHaveOneMeaning
  exact fun w i h7 h => Laws.meant_decodeWord h7 i h

end Sys2Proof.Machine

/-! Issues that do not execute, words that are no instruction, and fetches that fail (01 R16, R37, R45; 02 R53; 03 R97 to R99; 04 R132;
05 R173). -/

namespace Sys2Proof.Machine

/-! ### The checks of an issue (03 R98, R99) -/

/-- The lanes of a batch that pass a guard; all of them where there is none (03 R85). -/
def Wave.passing (w : Wave) (guard : Option Nat) (batch : Word) : Word := guard.elim batch (w.guarded batch)

/-- The counter of an instruction stands at its limit (01 R44, R45). -/
def Wave.counterFull (w : Wave) (c : Option Ctr) : Bool := c.any (fun c => decide (63 ≤ w.counter c))

/-- A register of the operands is EMPTY in the batch, or a tile instruction has not finished writing it (01 R37; 05 R173). -/
def Wave.operandsWait (w : Wave) (ops : List Opnd) (batch : Word) : Prop :=
  w.emptyIn ops batch = true ∨ ∃ o ∈ ops, ∃ n ∈ o.regs w, n ∈ w.tileBusy

theorem enter_eq (w : Wave) (p : Pre) (batch : Word) : w.enter p batch =
    if w.passing p.guard batch = 0 then (if w.counterFull p.counter then .wait else .skip)
    else if p.reserved then .trap .reservedField (lowest batch)
    else if p.ops.any (Opnd.bad w) || p.badOperand w then .trap .illegalOperand (lowest batch)
    else if w.counterFull p.counter then .wait
    else if w.emptyIn p.ops batch then .wait
    else if !p.tile && p.ops.any (fun o => (o.regs w).any w.tileBusy.contains) then .wait
    else ((p.tags w (w.passing p.guard batch)).elim (.run (w.passing p.guard batch)) (.trap .formatMismatch)) := by
  unfold Wave.enter Wave.passing Wave.counterFull
  rcases p.guard with _ | g <;> dsimp only [Option.elim]
  · cases p.counter <;> cases p.tags w batch <;> rfl
  · cases p.counter <;> cases p.tags w (w.guarded batch g) <;> rfl

section
variable {w : Wave} {p : Pre} {batch : Word}

theorem enter_of_none_passing (hl : w.passing p.guard batch = 0) (hc : p.counter = none) : w.enter p batch = .skip := by
  rw [enter_eq, if_pos hl, hc]
  rfl

theorem enter_of_reserved (hl : w.passing p.guard batch ≠ 0) (hr : p.reserved = true) :
    w.enter p batch = .trap .reservedField (lowest batch) := by
  rw [enter_eq, if_neg hl, if_pos hr]

theorem enter_of_bad (hl : w.passing p.guard batch ≠ 0) (hr : p.reserved = false) (hb : ∃ o ∈ p.ops, o.bad w = true) :
    w.enter p batch = .trap .illegalOperand (lowest batch) := by
  rw [enter_eq, if_neg hl, hr, List.any_eq_true.2 hb]
  rfl

theorem any_bad_eq_false {ops : List Opnd} (hb : ∀ o ∈ ops, o.bad w = false) : ops.any (Opnd.bad w) = false :=
  List.any_eq_false.2 fun o ho => by rw [hb o ho]; exact Bool.false_ne_true

theorem enter_of_full (hl : w.passing p.guard batch ≠ 0) (hr : p.reserved = false) (hb : ∀ o ∈ p.ops, o.bad w = false)
    (hx : p.badOperand w = false) (hf : w.counterFull p.counter = true) : w.enter p batch = .wait := by
  rw [enter_eq, if_neg hl, hr, any_bad_eq_false hb, hx, hf]
  rfl

theorem enter_of_operandsWait (hl : w.passing p.guard batch ≠ 0) (hr : p.reserved = false) (hb : ∀ o ∈ p.ops, o.bad w = false)
    (hx : p.badOperand w = false) (ht : p.tile = false) (hw : w.operandsWait p.ops batch) : w.enter p batch = .wait := by
  have hbusy : w.emptyIn p.ops batch = false → (!p.tile && p.ops.any (fun o => (o.regs w).any w.tileBusy.contains)) = true := by
    intro he
    obtain ⟨o, ho, n, hn, hm⟩ := hw.resolve_left (by rw [he]; exact Bool.false_ne_true)
    rw [ht, Bool.not_false, Bool.true_and]
    exact List.any_eq_true.2 ⟨o, ho, List.any_eq_true.2 ⟨n, hn, List.contains_iff_mem.2 hm⟩⟩
  rw [enter_eq, if_neg hl, hr, any_bad_eq_false hb, hx]
  cases he : w.emptyIn p.ops batch with
  | true => exact ite_self _
  | false => rw [hbusy he]; exact ite_self _

theorem enter_of_mismatch {l : Nat} (hl : w.passing p.guard batch ≠ 0) (hr : p.reserved = false) (hb : ∀ o ∈ p.ops, o.bad w = false)
    (hx : p.badOperand w = false) (hc : p.counter = none) (he : w.emptyIn p.ops batch = false)
    (ht : ∀ o ∈ p.ops, ∀ n ∈ o.regs w, n ∉ w.tileBusy) (hm : p.tags w (w.passing p.guard batch) = some l) :
    w.enter p batch = .trap .formatMismatch l := by
  have hbusy : p.ops.any (fun o => (o.regs w).any w.tileBusy.contains) = false :=
    List.any_eq_false.2 fun o ho => by
      rw [Bool.not_eq_true]
      exact List.any_eq_false.2 fun n hn => by simpa using ht o ho n hn
  rw [enter_eq, if_neg hl, hr, any_bad_eq_false hb, hx, hc, he, hbusy, Bool.and_false, hm]
  rfl

end

/-! ### What instructions ask of their issue -/

/-- Instruction i asks what p says before anything else: its issue is performed with these checks. -/
def Asks (i : Instr) (p : Pre) : Prop :=
  ∀ s iss w, s.cur = some iss → s.waves.find? iss.wave = some w → ∃ body, exec i s = .next (s.perform p iss w body)

theorem Asks.runHold {i : Instr} {p : Pre} {hold : Wave → Wave → Option (Nat → LCell)} {effect : Issue → Word → Wave → Wave}
    (hx : exec i = Sys2Proof.Machine.runHold p hold effect) : Asks i p := fun _ _ _ hc hw =>
  ⟨_, by rw [hx, Sys2Proof.Machine.runHold, withIssue_eq hc hw]⟩

theorem Asks.runState {i : Instr} {p : Pre} {body : State → Issue → Word → Wave → Out}
    (hx : exec i = Sys2Proof.Machine.runState p body) : Asks i p := fun _ _ _ hc hw =>
  ⟨_, by rw [hx, Sys2Proof.Machine.runState, withIssue_eq hc hw]⟩

section
variable {i : Instr} {p : Pre} {s : State} {iss : Issue} {w : Wave} (ha : Asks i p) (hc : s.cur = some iss)
  (hw : s.waves.find? iss.wave = some w)
include ha hc hw

theorem Asks.exec_of_trap {c : Cause} {l : Nat} (he : w.enter p iss.batch = .trap c l) : exec i s = .next (s.takeTrap iss c 0 l) := by
  obtain ⟨body, hx⟩ := ha s iss w hc hw
  rw [hx, State.perform, he]

theorem Asks.exec_of_wait (he : w.enter p iss.batch = .wait) : exec i s = .next (s.waitIssue iss) := by
  obtain ⟨body, hx⟩ := ha s iss w hc hw
  rw [hx, State.perform, he]

/-- An issue that no fibre passes ages the latch and moves the batch on, and nothing else (03 R99). -/
theorem Asks.exec_of_skip (hl : w.passing p.guard iss.batch = 0) (hn : p.counter = none) :
    ∃ w', exec i s = .next (s.setWave iss.wave w') ∧ SameWave w w' ∧ SameCounters w w' ∧ Does {} iss 0 w w' := by
  obtain ⟨body, hx⟩ := ha s iss w hc hw
  obtain ⟨fs, hf⟩ := finish_eq w iss
  obtain ⟨w', hr, same, counters, does⟩ :=
    (does_finish iss 0 w).retire ⟨w.regs, w.scalars, w.fsr, fs, w.ageLatch.latch, w.lp, none, hf⟩ (fun _ _ => rfl) s
  refine ⟨w', ?_, same, counters, does⟩
  rw [hx, State.perform, enter_of_none_passing hl hn, ← hr]
  simp only [State.skipIssue, hn]

end

/-! ### Words that are no instruction (03 R97, R99) -/

section
variable {s : State} {iss : Issue} {w : Wave} (hc : s.cur = some iss) (hw : s.waves.find? iss.wave = some w)
include hc hw

theorem exec_illegalEncoding_of_illegalOp {word : Word} (hd : decodeWord word 0 = none) (hi : illegalOp word = true) :
    exec (.illegalEncoding word) s = .next (s.takeTrap { iss with word := word } .illegalOp 0 (lowest iss.batch)) := by
  rw [exec_illegalEncoding, execIllegalEncoding, withIssue_eq hc hw, hd, hi]
  rfl

theorem exec_illegalEncoding_of_reserved {word : Word} (hd : decodeWord word 0 = none) (hi : illegalOp word = false)
    (hl : w.passing (guardOf word) iss.batch ≠ 0) :
    exec (.illegalEncoding word) s = .next (s.takeTrap { iss with word := word } .reservedField 0 (lowest iss.batch)) := by
  rw [exec_illegalEncoding, execIllegalEncoding, withIssue_eq hc hw, hd, hi]
  simp only [Option.isSome_none, Bool.false_eq_true, if_false, State.perform,
    enter_of_reserved (p := { guard := guardOf word, reserved := true, counter := guardedCounter word }) hl rfl]

theorem exec_fetchFault_of_fault {va : Addr} {s1 : State} {c : Cause} {a : Nat}
    (hf : s.fetchWord (cidOf iss.wave) w.ctx va.toNat (w.prio % 4) = (s1, .fault c a)) :
    exec (.fetchFault va) s =
      .next (s1.takeTrap { iss with word := 0, len := if va = iss.pc then 4 else 8 } c va (lowest iss.batch)) := by
  rw [exec_fetchFault, execFetchFault, withIssue_eq hc hw, hf]

end

/-- Settles O51, by what the word or its fetch is. -/
theorem wordsThatAreNoInstruction : Obligations.WordsThatAreNoInstruction := by
  unfold Obligations.WordsThatAreNoInstruction
  intro s iss w hc hw hb
  refine ⟨fun word => exec_illegalEncoding_of_illegalOp hc hw, fun word hd hi hg => ?_, fun word g hd hi hg hl => ?_,
    fun va s1 c a => exec_fetchFault_of_fault hc hw⟩
  · exact exec_illegalEncoding_of_reserved hc hw hd hi (by rw [hg]; exact hb)
  · exact exec_illegalEncoding_of_reserved hc hw hd hi (by rw [hg]; exact hl)

/-! ### Tag checks that fail (02 R53) -/

theorem firstLane_eq_some_iff {m : Word} {p : Nat → Bool} {l : Nat} : firstLane m p = some l ↔
    (l < 32 ∧ m.getLsbD l = true ∧ p l = true) ∧ ∀ k, k < l → m.getLsbD k = true → p k = false := by
  simp only [firstLane, lanesOf, laneNums, List.find?_filter, List.find?_range_eq_some, decide_eq_true_eq, List.mem_range]
  constructor
  · rintro ⟨⟨hm, hp⟩, h32, hb⟩
    exact ⟨⟨h32, hm, hp⟩, fun k hk h => by simpa [h] using hb k hk⟩
  · rintro ⟨⟨h32, hm, hp⟩, hb⟩
    exact ⟨⟨hm, hp⟩, h32, fun k hk => by simpa [imp_iff_not_or] using hb k hk⟩

/-- The lowest lane that fails one of two checks is the lowest lane of both together. -/
theorem allChecks_pair_eq_some {p q : Wave → Nat → Bool} {w : Wave} {m : Word} {l : Nat} (hl : l < 32) (hm : m.getLsbD l = true)
    (hf : p w l = true ∨ q w l = true) (hb : ∀ k, k < l → m.getLsbD k = true → p w k = false ∧ q w k = false) :
    allChecks [fun w m => firstLane m (p w), fun w m => firstLane m (q w)] w m = some l := by
  have notBelow {r : Nat → Bool} {k : Nat} (hr : ∀ k, k < l → m.getLsbD k = true → r k = false) (h : firstLane m r = some k) : l ≤ k := by
    obtain ⟨⟨_, hk, hrk⟩, _⟩ := firstLane_eq_some_iff.1 h
    by_contra hlt
    rw [hr k (by omega) hk] at hrk
    cases hrk
  have at_l {r : Nat → Bool} (h : r l = true) (hr : ∀ k, k < l → m.getLsbD k = true → r k = false) : firstLane m r = some l :=
    firstLane_eq_some_iff.2 ⟨⟨hl, hm, h⟩, hr⟩
  have hbp := fun k hk h => (hb k hk h).1
  have hbq := fun k hk h => (hb k hk h).2
  unfold allChecks
  simp only [List.foldl_cons, List.foldl_nil]
  rcases hf with h | h <;> rw [at_l h (by assumption)]
  · cases hq : firstLane m (q w) with
    | none => rfl
    | some k => exact congrArg some (Nat.min_eq_left (notBelow hbq hq))
  · cases hp : firstLane m (p w) with
    | none => rfl
    | some k => exact congrArg some (Nat.min_eq_right (notBelow hbp hp))

/-! ### The instructions of O54 -/

section
variable (d a b : BitVec 7) (g h m : BitVec 2) (j : BitVec 11)

/-- What an instruction of two sources and a destination asks, beside its tag check. -/
def asksABD (tags : Wave → Word → Option Nat) : Pre := { preABD d a b g with tags := tags }

theorem asks_vec2 {i : Instr} {f : Word → Word → Word} (hx : exec i = vec2 f d a b g h) : Asks i (asksABD d a b g fun _ _ => none) :=
  .runHold hx

theorem asks_fp2 {i : Instr} {f : RM → Word → Word → Word × Flags} (hx : exec i = fp2 1 f d a b g h) :
    Asks i (asksABD d a b g (allChecks [checkSrc a 1, checkSrc b 1])) :=
  .runHold hx

def integersABD : List Instr :=
  [.iadd d a b g h, .iadds d a b g h, .isub d a b g h, .isubs d a b g h, .imul d a b g h, .imulh d a b g h, .imulhu d a b g h,
    .land d a b g h, .lor d a b g h, .lxor d a b g h, .andn d a b g h, .shl d a b g h, .shr d a b g h, .sar d a b g h,
    .imin d a b g h, .imax d a b g h, .umin d a b g h, .umax d a b g h]

def floatsABD : List Instr := [.fadd d a b g h, .fsub d a b g h, .fmul d a b g h, .fmin d a b g h, .fmax d a b g h]

theorem asks_of_mem_floats : ∀ i ∈ floatsABD d a b g h,
    Asks i (asksABD d a b g (allChecks [checkSrc a 1, checkSrc b 1])) := by
  simp only [floatsABD, List.forall_mem_cons, List.not_mem_nil, false_imp_iff, implies_true, and_true]
  exact ⟨asks_fp2 d a b g h (exec_fadd ..), asks_fp2 d a b g h (exec_fsub ..), asks_fp2 d a b g h (exec_fmul ..),
    asks_fp2 d a b g h (exec_fmin ..), asks_fp2 d a b g h (exec_fmax ..)⟩

theorem asks_of_mem_integers : ∀ i ∈ integersABD d a b g h,
    Asks i (asksABD d a b g fun _ _ => none) := by
  simp only [integersABD, List.forall_mem_cons, List.not_mem_nil, false_imp_iff, implies_true, and_true]
  exact ⟨asks_vec2 d a b g h (exec_iadd ..), asks_vec2 d a b g h (exec_iadds ..), asks_vec2 d a b g h (exec_isub ..),
    asks_vec2 d a b g h (exec_isubs ..), asks_vec2 d a b g h (exec_imul ..), asks_vec2 d a b g h (exec_imulh ..),
    asks_vec2 d a b g h (exec_imulhu ..), asks_vec2 d a b g h (exec_land ..), asks_vec2 d a b g h (exec_lor ..),
    asks_vec2 d a b g h (exec_lxor ..), asks_vec2 d a b g h (exec_andn ..), asks_vec2 d a b g h (exec_shl ..),
    asks_vec2 d a b g h (exec_shr ..), asks_vec2 d a b g h (exec_sar ..), asks_vec2 d a b g h (exec_imin ..),
    asks_vec2 d a b g h (exec_imax ..), asks_vec2 d a b g h (exec_umin ..), asks_vec2 d a b g h (exec_umax ..)⟩

theorem asks_of_mem_unary : ∀ i ∈ ([.mov d a g h, .lnot d a g h, .neg d a g h, .popc d a g h] : List Instr),
    Asks i (preAD d a g (h == 2)) := by
  simp only [List.forall_mem_cons, List.not_mem_nil, false_imp_iff, implies_true, and_true]
  exact ⟨.runHold (exec_mov ..), .runHold (exec_lnot ..), .runHold (exec_neg ..), .runHold (exec_popc ..)⟩

theorem asks_tld : Asks (.tld d a b m) (preFrag d a b m .ld) := .runState (exec_tld ..)

theorem asks_tst : Asks (.tst d a b m) (preFrag d a b m .st) := .runState (exec_tst ..)

/-- What a plain load or store of at most a word asks (06 R184). -/
def asksWord (c : Ctr) : Pre := { guard := none, ops := [.vec d 1 1, .vec a 2 2], counter := some c }

theorem asks_of_mem_loads : ∀ i ∈ ([.ldb d a j, .ldh d a j, .ldw d a j, .ldv d a j] : List Instr), Asks i (asksWord d a .ld) := by
  simp only [List.forall_mem_cons, List.not_mem_nil, false_imp_iff, implies_true, and_true]
  exact ⟨.runState (exec_ldb ..), .runState (exec_ldh ..), .runState (exec_ldw ..), .runState (exec_ldv ..)⟩

theorem asks_of_mem_stores : ∀ i ∈ ([.stb d a j, .sth d a j, .stw d a j] : List Instr), Asks i (asksWord d a .st) := by
  simp only [List.forall_mem_cons, List.not_mem_nil, false_imp_iff, implies_true, and_true]
  exact ⟨.runState (exec_stb ..), .runState (exec_sth ..), .runState (exec_stw ..)⟩

end

/-- A wait of a running wave changes nothing but its wait and the cycle from which it is tried again (01 R16). -/
theorem waitIssue_of_running {s : State} {iss : Issue} {w : Wave} (hw : s.waves.find? iss.wave = some w) (hr : w.run = .running) :
    ∃ ws, s.waitIssue iss = { s with waves := ws } ∧ ws.find? iss.wave = some { w with wait := some .retry, tried := s.cycle + 1 } ∧
      ∀ k, k ≠ iss.wave → ws.find? k = s.waves.find? k := by
  refine ⟨_, rfl, ?_, fun k hk => by rw [SMap.find?_modify, if_neg hk]⟩
  rw [SMap.find?_modify, if_pos rfl, hw, Option.map_some, Wave.stopCheck, hr]

/-- Settles O54: each instruction asks its checks first, and the first of them that fails says what the issue does. -/
theorem issuesThatDoNotExecute : Obligations.IssuesThatDoNotExecute := by
  unfold Obligations.IssuesThatDoNotExecute
  intro d a b g h m j s iss w hc hw
  refine ⟨fun i hi => ?_, fun i hi l hl hm hb he ht hf hbelow => ?_, fun hl i hi => ?_, fun hb hm i hi => ?_,
    fun hb hf hd ha i hi => ?_, fun hb hf hd ha i hi => ?_, waitIssue_of_running hw⟩
  · obtain ⟨tags, asks⟩ : ∃ tags, Asks i (asksABD d a b g tags) := by
      rcases List.mem_append.1 (show i ∈ integersABD d a b g h ++ floatsABD d a b g h from hi) with hi | hi
      · exact ⟨_, asks_of_mem_integers d a b g h i hi⟩
      · exact ⟨_, asks_of_mem_floats d a b g h i hi⟩
    exact ⟨fun hl => asks.exec_of_skip hc hw hl rfl, fun hl hbad => asks.exec_of_trap hc hw (enter_of_bad hl rfl hbad),
      fun hl hb hwait => asks.exec_of_wait hc hw (enter_of_operandsWait hl rfl hb rfl rfl hwait)⟩
  · have some_lane : w.guarded iss.batch g.toNat ≠ 0 := fun h0 => by rw [h0] at hm; simp at hm
    have mismatch : allChecks [checkSrc a 1, checkSrc b 1] w (w.guarded iss.batch g.toNat) = some l :=
      allChecks_pair_eq_some (p := fun w l => !tagFixed 1 (w.src a l)) (q := fun w l => !tagFixed 1 (w.src b l)) hl hm
        (by simpa using hf) (by simpa using hbelow)
    exact (asks_of_mem_floats d a b g h i hi).exec_of_trap hc hw (enter_of_mismatch some_lane rfl hb rfl rfl he ht mismatch)
  · exact (asks_of_mem_unary d a g 2 i hi).exec_of_trap hc hw (enter_of_reserved hl rfl)
  · simp only [List.mem_cons, List.not_mem_nil, or_false] at hi
    rcases hi with rfl | rfl
    · exact (asks_tld d a b m).exec_of_trap hc hw (enter_of_reserved hb (decide_eq_true hm))
    · exact (asks_tst d a b m).exec_of_trap hc hw (enter_of_reserved hb (decide_eq_true hm))
  · exact (asks_of_mem_loads d a j i hi).exec_of_wait hc hw
      (enter_of_full hb rfl (by simp [asksWord, hd, ha]) rfl (decide_eq_true hf.ge))
  · exact (asks_of_mem_stores d a j i hi).exec_of_wait hc hw
      (enter_of_full hb rfl (by simp [asksWord, hd, ha]) rfl (decide_eq_true hf.ge))

end Sys2Proof.Machine

/-! Branches, calls and JOIN (03 R87; 04 R131 to R134, R138; 01 R15 to R18). -/

namespace Sys2Proof.Machine

/-! ### Instructions that set PCs themselves -/

/-- A wave whose issue has completed, with registers and fibres changed as an effect says. -/
theorem does_of_finish {e : Effect} {iss : Issue} {lanes : Word} {w w2 : Wave}
    (only : ∃ rs fs, w2 = { w.finish iss with regs := rs, fibres := fs })
    (cells : ∀ n l, l < 32 → w2.cell (cellAt n l) =
      if n ∈ e.regs w ∧ lanes.getLsbD l then ⟨(e.val iss lanes w n l).val, (e.val iss lanes w n l).tag, e.empty⟩ else w.cell (cellAt n l))
    (fibres : ∀ l, l < 32 → w2.fib l = e.after iss lanes w l (if iss.batch.getLsbD l then
      { (if lanes.getLsbD l then e.fibre iss lanes w l (w.fib l) else w.fib l) with pc := iss.next, owed := 0 } else w.fib l))
    (hs : e.scalars iss lanes w = []) (hf : ∀ l, e.flags lanes w l = 0) (hk : ∀ w w', e.keep w w' = none) : Does e iss lanes w w2 := by
  obtain ⟨fs0, hfin⟩ := finish_eq w iss
  obtain ⟨rs, fs, h2⟩ := only
  have entry (k : Nat) : w2.entry k = (w.finish iss).entry k := by rw [h2]; rfl
  refine ⟨cells, fun n => ?_, fun b => ?_, fibres, ?_⟩
  · rw [hs, h2, hfin]; rfl
  · rw [h2, hfin]; simp [hf]; rfl
  · rw [hk]
    refine ⟨by rw [h2, hfin]; rfl, fun k => ?_⟩
    rw [entry, finish_entry]
    exact ⟨rfl, rfl⟩

/-- What is left of a wave that `does_of_finish` speaks of, for `Does.retire`. -/
theorem only_of_finish {iss : Issue} {w w2 : Wave} (only : ∃ rs fs, w2 = { w.finish iss with regs := rs, fibres := fs }) :
    ∃ rs ss fr fs la lp wt, w2 = { w with regs := rs, scalars := ss, fsr := fr, fibres := fs, latch := la, lp := lp, wait := wt } := by
  obtain ⟨fs0, hfin⟩ := finish_eq w iss
  obtain ⟨rs, fs, h2⟩ := only
  exact ⟨rs, w.scalars, w.fsr, fs, w.ageLatch.latch, w.lp, none, by rw [h2, hfin]; rfl⟩

/-- An instruction of one wave that sets PCs itself completes as an effect says, when its own part does. -/
theorem completes_runPc {i : Instr} {e : Effect} {p : Pre} {effect : Issue → Word → Wave → Wave}
    (hx : exec i = Sys2Proof.Machine.runPc p effect) (hg : p.guard = e.guard) (ho : p.ops = e.ops) (hl : p.tile = false)
    (hr : p.reserved = false) (hb : ∀ w, p.badOperand w = false) (hc : p.counter = none)
    (ht : ∀ w lanes, e.tags w lanes → p.tags w lanes = none) (hrc : p.reach = e.reach) (hk : ∀ w w', e.keep w w' = none)
    (only : ∀ iss lanes (w : Wave), ∃ rs fs, effect iss lanes (w.finish iss) = { w.finish iss with regs := rs, fibres := fs })
    (hd : ∀ s iss lanes w, Issues s iss w e.guard e.ops false lanes e.reach → Does e iss lanes w (effect iss lanes (w.finish iss))) :
    Completes i e := by
  intro s iss w lanes h htag
  have D := hd s iss lanes w h
  rw [← hg, ← ho, ← hl, ← hrc] at h
  obtain ⟨w', hret, same, counters, does⟩ := D.retire (only_of_finish (only iss lanes w)) hk s
  refine ⟨w', ?_, same, counters, does⟩
  rw [hx, h.runPc hr (hb w) (by rw [hc]; intro c hc'; cases hc') (ht w lanes htag), hret]

/-- Two waves that differ in their fibres alone. -/
def OnlyFibres (w w2 : Wave) : Prop := ∃ fs, w2 = { w with fibres := fs }

theorem OnlyFibres.refl (w : Wave) : OnlyFibres w w := ⟨w.fibres, rfl⟩

theorem OnlyFibres.trans {w w1 w2 : Wave} (h1 : OnlyFibres w w1) (h2 : OnlyFibres w1 w2) : OnlyFibres w w2 := by
  obtain ⟨fs, rfl⟩ := h1
  obtain ⟨fs', rfl⟩ := h2
  exact ⟨fs', rfl⟩

theorem OnlyFibres.mapFibs (w : Wave) (m : Word) (g : Nat → Fibre → Fibre) : OnlyFibres w (w.mapFibs m g) := mapFibs_eq w m g

theorem OnlyFibres.withRegs {w w2 : Wave} (h : OnlyFibres w w2) : ∃ rs fs, w2 = { w with regs := rs, fibres := fs } := by
  obtain ⟨fs, rfl⟩ := h
  exact ⟨w.regs, fs, rfl⟩

theorem OnlyFibres.cell {w w2 : Wave} (h : OnlyFibres w w2) (k : Nat) : w2.cell k = w.cell k := by
  obtain ⟨fs, rfl⟩ := h
  rfl

theorem finish_cell (w : Wave) (iss : Issue) (k : Nat) : (w.finish iss).cell k = w.cell k := by
  obtain ⟨fs, h⟩ := finish_eq w iss
  rw [h]
  rfl

theorem finish_wb (w : Wave) (iss : Issue) : (w.finish iss).wb = w.wb := by
  obtain ⟨fs, h⟩ := finish_eq w iss
  rw [h]
  rfl

/-- Completing an issue leaves each fibre's predicates. -/
theorem finish_fib_pred (w : Wave) (iss : Issue) {l : Nat} (hl : l < 32) (p : Nat) : ((w.finish iss).fib l).pred p = (w.fib l).pred p := by
  rw [finish_fib w iss l hl]
  split <;> rfl

theorem finish_fib_live (w : Wave) (iss : Issue) {l : Nat} (hl : l < 32) : ((w.finish iss).fib l).live = (w.fib l).live := by
  rw [finish_fib w iss l hl]
  split <;> rfl

theorem finish_fib_join (w : Wave) (iss : Issue) {l : Nat} (hl : l < 32) : ((w.finish iss).fib l).join = (w.fib l).join := by
  rw [finish_fib w iss l hl]
  split <;> rfl

/-! ### Branches (03 R87; 04 R131, R133) -/

theorem jump_fib (w : Wave) (m : Word) (pc : Nat → Addr) {l : Nat} (hl : l < 32) :
    (w.jump m pc).fib l = if m.getLsbD l then { w.fib l with pc := pc l } else w.fib l := mapFibs_fib w m _ l hl

theorem liveMask_getLsbD (w : Wave) {l : Nat} (hl : l < 32) : w.liveMask.getLsbD l = (w.fib l).live := by
  unfold Wave.liveMask Wave.lanesWhere
  rw [getLsbD_foldMask (fun l => (w.fib l).live) laneNums (fun l h => List.mem_range.1 h)]
  simp [laneNums, hl]

/-- A yield marks every other live fibre that is not parked as owed to the batch (01 R18). -/
theorem yieldFrom_fib (w : Wave) (iss : Issue) (lanes : Word) (v : Wave) {l : Nat} (hl : l < 32) :
    (w.yieldFrom iss.batch).fib l = yields iss lanes v l (w.fib l) := by
  unfold Wave.yieldFrom yields
  rw [mapFibs_fib _ _ _ _ hl, BitVec.getLsbD_and, BitVec.getLsbD_not, liveMask_getLsbD w hl, decide_eq_true hl, Bool.true_and]
  cases (w.fib l).live <;> cases iss.batch.getLsbD l <;> cases (w.fib l).join <;> rfl

/-- The condition of a branch in a lane. -/
def Wave.condition (w : Wave) (p : BitVec 3) (n : BitVec 1) (l : Nat) : Bool := (w.fib l).pred p.toNat != (n == 1)

theorem finish_condition (w : Wave) (iss : Issue) (p : BitVec 3) (n : BitVec 1) {l : Nat} (hl : l < 32) :
    (w.finish iss).condition p n l = w.condition p n l := by
  unfold Wave.condition
  rw [finish_fib_pred w iss hl]

/-- The lanes of a batch in which the condition holds. -/
def Wave.holding (w : Wave) (batch : Word) (p : BitVec 3) (n : BitVec 1) : Word :=
  (lanesOf batch).foldl (fun t l => if w.condition p n l then t ||| laneBit l else t) 0

theorem holding_getLsbD (w : Wave) (batch : Word) (p : BitVec 3) (n : BitVec 1) {l : Nat} (hl : l < 32) :
    (w.holding batch p n).getLsbD l = (batch.getLsbD l && w.condition p n l) := by
  unfold Wave.holding
  rw [getLsbD_foldMask (w.condition p n) _ (fun l h => (mem_lanesOf.1 h).1)]
  simp [mem_lanesOf, hl]

theorem holding_eq_batch_iff (w : Wave) (batch : Word) (p : BitVec 3) (n : BitVec 1) :
    w.holding batch p n = batch ↔ (List.range 32).all (fun k => !batch.getLsbD k || w.condition p n k) = true := by
  simp only [BitVec.eq_of_getLsbD_eq_iff, List.all_eq_true, List.mem_range]
  refine forall₂_congr fun k hk => ?_
  rw [holding_getLsbD w batch p n hk]
  cases batch.getLsbD k <;> simp

theorem holding_eq_zero_iff (w : Wave) (batch : Word) (p : BitVec 3) (n : BitVec 1) :
    w.holding batch p n = 0 ↔ (List.range 32).any (fun k => batch.getLsbD k && w.condition p n k) = false := by
  simp only [BitVec.eq_of_getLsbD_eq_iff, List.any_eq_false, List.mem_range]
  refine forall₂_congr fun k hk => ?_
  rw [holding_getLsbD w batch p n hk]
  simp

/-- The lanes that take a branch are those that R87 names. -/
theorem takenLanes_getLsbD (w : Wave) (iss : Issue) (p : BitVec 3) (n : BitVec 1) (m : BitVec 2) {l : Nat} (hl : l < 32) :
    (w.takenLanes iss.batch p n m).getLsbD l = branches p n m iss w l := by
  show (if m = 0 then w.holding iss.batch p n else if m = 2 then (if w.holding iss.batch p n = iss.batch then iss.batch else 0)
    else if w.holding iss.batch p n = 0 then 0 else iss.batch).getLsbD l = (iss.batch.getLsbD l && if m = 0 then w.condition p n l
    else if m = 2 then (List.range 32).all (fun k => !iss.batch.getLsbD k || w.condition p n k)
    else (List.range 32).any (fun k => iss.batch.getLsbD k && w.condition p n k))
  split
  · exact holding_getLsbD w iss.batch p n hl
  · split
    · simp only [holding_eq_batch_iff]
      generalize (List.range 32).all _ = all
      cases all <;> simp
    · simp only [holding_eq_zero_iff]
      generalize (List.range 32).any _ = any
      cases any <;> simp

/-- The lanes that take a branch do not change when the issue completes. -/
theorem takenLanes_finish_getLsbD (w : Wave) (iss : Issue) (p : BitVec 3) (n : BitVec 1) (m : BitVec 2) {l : Nat} (hl : l < 32) :
    ((w.finish iss).takenLanes iss.batch p n m).getLsbD l = branches p n m iss w l := by
  have cond : ∀ k, k < 32 → (((w.finish iss).fib k).pred p.toNat != (n == 1)) = ((w.fib k).pred p.toNat != (n == 1)) :=
    fun k hk => finish_condition w iss p n hk
  rw [takenLanes_getLsbD _ iss p n m hl]
  unfold branches
  simp only [cond l hl]
  congr 2
  congr 1
  · rw [Bool.eq_iff_iff]
    simp only [List.all_eq_true, List.mem_range]
    exact forall₂_congr fun k hk => by rw [cond k hk]
  · rw [Bool.eq_iff_iff]
    simp only [List.any_eq_true, List.mem_range]
    exact exists_congr fun k => and_congr_right fun hk => by rw [cond k hk]

theorem takenLanes_finish_ne_zero (w : Wave) (iss : Issue) (p : BitVec 3) (n : BitVec 1) (m : BitVec 2) :
    (w.finish iss).takenLanes iss.batch p n m ≠ 0 ↔ (List.range 32).any (branches p n m iss w) = true := by
  rw [← not_iff_not, not_not, Bool.not_eq_true, BitVec.eq_of_getLsbD_eq_iff, List.any_eq_false]
  simp only [List.mem_range]
  refine forall₂_congr fun k hk => ?_
  rw [takenLanes_finish_getLsbD w iss p n m hk]
  simp

/-- A wave whose issue has completed, with its fibres changed as an effect says that writes nothing. -/
theorem does_of_onlyFibres {e : Effect} {iss : Issue} {lanes : Word} {w w2 : Wave} (only : OnlyFibres (w.finish iss) w2)
    (fibres : ∀ l, l < 32 → w2.fib l = e.after iss lanes w l (if iss.batch.getLsbD l then
      { (if lanes.getLsbD l then e.fibre iss lanes w l (w.fib l) else w.fib l) with pc := iss.next, owed := 0 } else w.fib l))
    (hr : e.regs w = []) (hs : e.scalars iss lanes w = []) (hf : ∀ l, e.flags lanes w l = 0) (hk : ∀ w w', e.keep w w' = none) :
    Does e iss lanes w w2 :=
  does_of_finish only.withRegs (fun n l _ => by rw [only.cell, finish_cell, hr]; simp) fibres hs hf hk

/-- BR (03 R87; 04 R131). -/
theorem completes_br (p : BitVec 3) (n : BitVec 1) (m : BitVec 2) (d : BitVec 19) : Completes (.br p n m d) (branchOf p n m d) := by
  have only (iss : Issue) (lanes : Word) (w : Wave) : OnlyFibres w
      (let w1 := w.jump (w.takenLanes lanes p n m) fun _ => iss.target (d.signExtend 64)
      if m = 3 ∧ w.takenLanes lanes p n m ≠ 0 then w1.yieldFrom iss.batch else w1) := by
    have jumped := OnlyFibres.mapFibs w (w.takenLanes lanes p n m) fun _ f => { f with pc := iss.target (d.signExtend 64) }
    dsimp only
    split
    · exact jumped.trans (.mapFibs _ _ _)
    · exact jumped
  refine completes_runPc (exec_br ..) rfl rfl rfl rfl (fun _ => rfl) rfl (fun _ _ _ => rfl) rfl (fun _ _ => rfl)
    (fun iss lanes w => (only iss lanes _).withRegs) fun s iss lanes w h => ?_
  obtain rfl : lanes = iss.batch := h.passes
  refine does_of_onlyFibres (only iss _ _) (fun l hl => ?_) rfl rfl (fun _ => rfl) (fun _ _ => rfl)
  have jumped : ((w.finish iss).jump ((w.finish iss).takenLanes iss.batch p n m) fun _ => iss.target (d.signExtend 64)).fib l =
      if branches p n m iss w l then { (w.finish iss).fib l with pc := iss.pc + d.signExtend 64 * 4 } else (w.finish iss).fib l := by
    rw [jump_fib _ _ _ hl, takenLanes_finish_getLsbD w iss p n m hl]
    rfl
  simp only [takenLanes_finish_ne_zero, branchOf, ite_self, ← finish_fib w iss l hl, ← jumped]
  split
  · exact yieldFrom_fib _ iss _ w hl
  · rfl

/-- A branch to a pair (04 R133). -/
theorem completes_branchPair {i : Instr} {a : BitVec 7} {g : BitVec 2} (hx : exec i = branchPair a g) : Completes i (branchTo a g) := by
  intro s iss w lanes h aligned
  have none_misaligned : firstLane lanes (fun l => (w.pair a l).toNat % 4 != 0) = none :=
    firstLane_none fun l hl hm => by rw [aligned l hl hm]; rfl
  have only : OnlyFibres (w.finish iss) ((w.finish iss).jump lanes (w.pair a)) := .mapFibs _ _ _
  have D : Does (branchTo a g) iss lanes w ((w.finish iss).jump lanes (w.pair a)) :=
    does_of_onlyFibres only (fun l hl => by simp only [jump_fib _ _ _ hl, finish_fib w iss l hl, branchTo, ite_self]) rfl rfl
      (fun _ => rfl) (fun _ _ => rfl)
  obtain ⟨w', hret, same, counters, does⟩ := D.retire (only_of_finish only.withRegs) (fun _ _ => rfl) s
  refine ⟨w', ?_, same, counters, does⟩
  rw [hx, branchPair, Issues.runState (p := { guard := some g.toNat, ops := [.vec a 2 2] }) h rfl rfl (fun _ h => nomatch h) rfl]
  simp only [none_misaligned, hret]

/-! ### CALL (04 R134) -/

theorem writePair_eq (w : Wave) (d : BitVec 7) (m : Word) (tag : BitVec 6) (f : Nat → Addr) :
    ∃ rs, w.writePair d m tag f = { w with regs := rs } := by
  obtain ⟨rs, low⟩ := writeReg_eq w (w.wb + d.toNat) m fun l => ⟨(f l).setWidth 32, tag⟩
  unfold Wave.writePair
  rw [low]
  exact writeReg_eq _ _ _ _

theorem completes_call (d : BitVec 7) (i : BitVec 18) : Completes (.call d i) (callOf d i) := by
  have only (iss : Issue) (lanes : Word) (w : Wave) : ∃ rs fs,
      (w.writePair d lanes 0 fun _ => iss.next).jump lanes (fun _ => iss.target (iss.immC i)) = { w with regs := rs, fibres := fs } := by
    obtain ⟨rs, hrs⟩ := writePair_eq w d lanes 0 fun _ => iss.next
    obtain ⟨fs, hfs⟩ := OnlyFibres.mapFibs { w with regs := rs } lanes fun _ f => { f with pc := iss.target (iss.immC i) }
    exact ⟨rs, fs, by rw [hrs]; exact hfs⟩
  refine completes_runPc (exec_call ..) rfl rfl rfl rfl (fun _ => rfl) rfl (fun _ _ _ => rfl) rfl (fun _ _ => rfl)
    (fun iss lanes w => only iss lanes _) fun s iss lanes w h => ?_
  obtain rfl : lanes = iss.batch := h.passes
  have wrote : Acts (callOf d i) iss iss.batch (w.finish iss) ((w.finish iss).writePair d iss.batch 0 fun _ => iss.next) :=
    acts_writePair d 0 _ rfl (fun l _ _ => by simp [callOf]) (fun l _ _ => by simp [callOf]) rfl (fun _ => rfl) (fun _ _ => rfl)
  obtain ⟨rs, hrs⟩ := writePair_eq (w.finish iss) d iss.batch 0 fun _ => iss.next
  have jumped := OnlyFibres.mapFibs ((w.finish iss).writePair d iss.batch 0 fun _ => iss.next) iss.batch
    fun _ f => { f with pc := iss.target (iss.immC i) }
  refine does_of_finish (only iss _ _) (fun n l hl => ?_) (fun l hl => ?_) rfl (fun _ => rfl) (fun _ _ => rfl)
  · rw [Wave.jump, jumped.cell, wrote.cells n l hl]
    simp only [callOf, finish_wb, finish_cell]
    rfl
  · have before : ((w.finish iss).writePair d iss.batch 0 fun _ => iss.next).fib l = (w.finish iss).fib l := by rw [hrs]; rfl
    rw [jump_fib _ _ _ hl, before, finish_fib w iss l hl]
    simp only [callOf, ite_self, Issue.target]

/-! ### JOIN (01 R17; 04 R138) -/

/-- The live lane slots of a wave. -/
def Wave.liveLanes (w : Wave) : List Nat := laneNums.filter (fun l => (w.fib l).live)

theorem mem_liveLanes {w : Wave} {l : Nat} : l ∈ w.liveLanes ↔ l < 32 ∧ (w.fib l).live = true := by
  simp [Wave.liveLanes, laneNums]

/-- The largest number at which a live fibre is parked. -/
def Wave.topJoin (w : Wave) : Nat := w.liveLanes.foldl (fun n l => max n ((w.fib l).join.getD 0)) 0

/-- A fibre that JOIN releases: its region entry is its PC. -/
def Fibre.released (f : Fibre) : Fibre := { f with join := none, region := f.pc, fresh := false }

theorem releaseJoin_eq (w : Wave) : w.releaseJoin =
    if w.liveLanes.isEmpty || w.liveLanes.any (fun l => (w.fib l).join.isNone) then w
    else w.liveLanes.foldl (fun v l => if (v.fib l).join = some w.topJoin then v.setFib l (v.fib l).released else v) w := rfl

/-- Releasing in a list of lanes changes those of them that are parked at n. -/
theorem foldReleased_spec (n : Nat) (ls : List Nat) (w : Wave) :
    let w2 := ls.foldl (fun v l => if (v.fib l).join = some n then v.setFib l (v.fib l).released else v) w
    OnlyFibres w w2 ∧ ∀ l, w2.fib l = if l ∈ ls ∧ (w.fib l).join = some n then (w.fib l).released else w.fib l := by
  induction ls generalizing w with
  | nil => exact ⟨.refl w, fun l => by simp⟩
  | cons k ls ih =>
    by_cases hk : (w.fib k).join = some n
    · obtain ⟨only, fibs⟩ := ih (w.setFib k (w.fib k).released)
      simp only [List.foldl_cons, if_pos hk]
      refine ⟨.trans ⟨_, rfl⟩ only, fun l => ?_⟩
      rw [fibs, setFib_fib]
      by_cases hl : l = k
      · subst hl
        simp [hk, Fibre.released]
      · simp [hl]
    · obtain ⟨only, fibs⟩ := ih w
      simp only [List.foldl_cons, if_neg hk]
      refine ⟨only, fun l => ?_⟩
      rw [fibs]
      by_cases hl : l = k
      · subst hl
        simp [hk]
      · simp [hl]

theorem releaseJoin_onlyFibres (w : Wave) : OnlyFibres w w.releaseJoin := by
  rw [releaseJoin_eq]
  split
  · exact .refl w
  · exact (foldReleased_spec w.topJoin w.liveLanes w).1

/-- JOIN releases the live fibres at the largest number once every live fibre is parked. -/
theorem releaseJoin_fib (w : Wave) {l : Nat} (hl : l < 32) : w.releaseJoin.fib l =
    if w.liveLanes.all (fun k => (w.fib k).join.isSome) ∧ (w.fib l).live = true ∧ (w.fib l).join = some w.topJoin
    then (w.fib l).released else w.fib l := by
  have live_iff : l ∈ w.liveLanes ↔ (w.fib l).live = true := by rw [mem_liveLanes]; exact and_iff_right hl
  by_cases parked : w.liveLanes.all (fun k => (w.fib k).join.isSome) = true
  · have none_unparked : w.liveLanes.any (fun k => (w.fib k).join.isNone) = false := by
      rw [← Bool.not_eq_true', List.not_any_eq_all_not]
      simpa using parked
    rw [releaseJoin_eq, none_unparked, Bool.or_false]
    by_cases empty : w.liveLanes.isEmpty = true
    · rw [if_pos empty, if_neg]
      rintro ⟨-, live, -⟩
      rw [List.isEmpty_iff.1 empty] at live_iff
      exact List.not_mem_nil (live_iff.2 live)
    · rw [if_neg empty, (foldReleased_spec w.topJoin w.liveLanes w).2 l]
      simp only [live_iff, parked, true_and]
  · have unparked : w.liveLanes.any (fun k => (w.fib k).join.isNone) = true := by
      rw [List.all_eq_true] at parked
      push Not at parked
      obtain ⟨k, hk, hj⟩ := parked
      exact List.any_eq_true.2 ⟨k, hk, by simpa using hj⟩
    rw [releaseJoin_eq, unparked, Bool.or_true, if_pos rfl, if_neg fun h => parked h.1]

/-- The wave whose batch has moved past a JOIN of n and is parked there. -/
def Wave.joinParked (w : Wave) (iss : Issue) (n : Nat) : Wave := (w.finish iss).mapFibs iss.batch fun _ f => { f with join := some n }

section
variable (w : Wave) (iss : Issue) (n : Nat)

theorem joinParked_fib {l : Nat} (hl : l < 32) : (w.joinParked iss n).fib l =
    if iss.batch.getLsbD l then { w.fib l with join := some n, pc := iss.next, owed := 0 } else w.fib l := by
  unfold Wave.joinParked
  rw [mapFibs_fib _ _ _ _ hl, finish_fib w iss l hl]
  split <;> rfl

theorem joinParked_fib_live {l : Nat} (hl : l < 32) : ((w.joinParked iss n).fib l).live = (w.fib l).live := by
  rw [joinParked_fib w iss n hl]
  split <;> rfl

theorem joinParked_fib_join {l : Nat} (hl : l < 32) : ((w.joinParked iss n).fib l).join = parkedAt n iss w l := by
  rw [joinParked_fib w iss n hl, parkedAt]
  split <;> rfl

theorem joinParked_liveLanes : (w.joinParked iss n).liveLanes = w.liveLanes :=
  List.filter_congr fun _ hl => joinParked_fib_live w iss n (List.mem_range.1 hl)

theorem joinParked_topJoin : (w.joinParked iss n).topJoin = (w.liveLanes.map fun k => (parkedAt n iss w k).getD 0).foldl max 0 := by
  have joins : (w.liveLanes.map fun k => (parkedAt n iss w k).getD 0) = w.liveLanes.map fun k => ((w.joinParked iss n).fib k).join.getD 0 :=
    List.map_congr_left fun k hk => by rw [joinParked_fib_join w iss n (mem_liveLanes.1 hk).1]
  rw [joins, List.foldl_map, ← joinParked_liveLanes w iss n]
  rfl

theorem joinParked_all_isSome : (w.joinParked iss n).liveLanes.all (fun k => ((w.joinParked iss n).fib k).join.isSome) =
    w.liveLanes.all (fun k => (parkedAt n iss w k).isSome) := by
  rw [joinParked_liveLanes, Bool.eq_iff_iff, List.all_eq_true, List.all_eq_true]
  exact forall₂_congr fun k hk => by rw [joinParked_fib_join w iss n (mem_liveLanes.1 hk).1]

end

theorem completes_join (k : BitVec 8) : Completes (.join k) (joinOf k.toNat) := by
  have only (lanes : Word) (w : Wave) :
      OnlyFibres w (w.mapFibs lanes fun _ f => { f with join := some k.toNat }).releaseJoin :=
    (OnlyFibres.mapFibs _ _ _).trans (releaseJoin_onlyFibres _)
  refine completes_runPc (exec_join ..) rfl rfl rfl rfl (fun _ => rfl) rfl (fun _ _ _ => rfl) rfl (fun _ _ => rfl)
    (fun iss lanes w => (only lanes _).withRegs) fun s iss lanes w h => ?_
  obtain rfl : lanes = iss.batch := h.passes
  refine does_of_onlyFibres (only _ _) (fun l hl => ?_) rfl rfl (fun _ => rfl) (fun _ _ => rfl)
  have moved : (if iss.batch.getLsbD l then { (if iss.batch.getLsbD l then { w.fib l with join := some k.toNat } else w.fib l) with
      pc := iss.next, owed := 0 } else w.fib l) = (w.joinParked iss k.toNat).fib l := by
    rw [joinParked_fib w iss _ hl]
    split <;> rfl
  show (w.joinParked iss k.toNat).releaseJoin.fib l = (joinOf k.toNat).after iss iss.batch w l (if iss.batch.getLsbD l then
    { (if iss.batch.getLsbD l then { w.fib l with join := some k.toNat } else w.fib l) with pc := iss.next, owed := 0 } else w.fib l)
  rw [moved, releaseJoin_fib _ hl, joinParked_all_isSome, joinParked_topJoin]
  rfl

/-- Settles O18, one instruction at a time. -/
theorem controlTransfers : Obligations.ControlTransfers := by
  unfold Obligations.ControlTransfers
  exact fun p n m s a g i k => ⟨completes_br p n m s, completes_branchPair (exec_brx a g), completes_branchPair (exec_ret a g),
    completes_call a i, completes_join k⟩

end Sys2Proof.Machine

/-! Whose turn a step performs, and what the bytes at the PC decode to (01 R15; 03 R83, R92; 10 R312). -/

namespace Sys2Proof.Machine

/-! ### What the bytes at the PC decode to (03 R83, R92) -/

/-- A word that is no IMX and matches no row has no meaning, whatever follows. -/
theorem decode_of_noRow {w : Word} (rest : List Byte) (hop : bitsAt 25 7 w ≠ 0x7F) (h : decodeWord w 0 = none) :
    decode (bytesOf 4 w.toNat ++ rest) = .error (.noRow w) := by
  have e := Laws.wordOfBytes_bytes w
  show decode (_ :: _ :: _ :: _ :: rest) = _
  unfold decode
  simp only [e, h, if_neg hop]

/-- An IMX needs the word after it. -/
theorem decode_imx_alone {w : Word} (hop : bitsAt 25 7 w = 0x7F) : decode (bytesOf 4 w.toNat) = .error .short := by
  have e := Laws.wordOfBytes_bytes w
  show decode [_, _, _, _] = _
  unfold decode
  simp only [e, if_pos hop]

/-- Four bytes that decode are a word, no IMX, that decodes. -/
theorem decodeWord_of_decode_bytes {w : Word} {i : Instr} (h : decode (bytesOf 4 w.toNat) = .ok (i, [])) :
    bitsAt 25 7 w ≠ 0x7F ∧ decodeWord w 0 = some i := by
  by_cases hop : bitsAt 25 7 w = 0x7F
  · rw [decode_imx_alone hop] at h
    cases h
  · rw [← List.append_nil (bytesOf 4 w.toNat)] at h
    cases hw : decodeWord w 0 with
    | none => rw [decode_of_noRow _ hop hw] at h; cases h
    | some j => rw [Laws.decode_one _ hop hw] at h; cases h; exact ⟨hop, rfl⟩

/-- Eight bytes that decode to an IMX are an IMX and the word after it. -/
theorem imx_of_decode_bytes {w n next : Word} {v : BitVec 25}
    (h : decode (bytesOf 4 w.toNat ++ bytesOf 4 n.toNat) = .ok (.imx v next, [])) :
    bitsAt 25 7 w = 0x7F ∧ bitsAt 0 25 w = v ∧ n = next := by
  by_cases hop : bitsAt 25 7 w = 0x7F
  · have two := Laws.decode_two (w := w) (n := n) [] hop
    rw [List.append_nil, h] at two
    cases two
    exact ⟨hop, rfl, rfl⟩
  · cases hw : decodeWord w 0 with
    | none => rw [decode_of_noRow _ hop hw] at h; cases h
    | some i => rw [Laws.decode_one _ hop hw] at h; cases h

/-- An IMX takes the word after it along. -/
theorem encode_imx_ne_singleton (v : BitVec 25) (n w : Word) : encode (.imx v n) ≠ [w] := by
  intro h
  have two_eq_one : 2 = 1 := congrArg List.length h
  cases two_eq_one

/-- Of what decodes, an IMX alone counts in the class of another word (03 R92). -/
theorem turnClass_of_decodeWord {w : Word} {i : Instr} (hop : bitsAt 25 7 w ≠ 0x7F) (h : decodeWord w 0 = some i) (x : Word) :
    turnClass i x = issueClass x := by
  cases i with
  | imx v n =>
    obtain ⟨-, he⟩ := wordsHaveOneMeaning w _ hop h
    exact absurd he (encode_imx_ne_singleton v n w)
  | _ => rfl

/-! ### Fetch (01 R15) -/

section
variable {s s1 s2 : State} {cid ctx cls : Nat} {pc : Addr} {word next : Word}

theorem fetchInstr_of_word {i : Instr} (hf : s.fetchWord cid ctx pc.toNat cls = (s1, .word word)) (hop : bitsAt 25 7 word ≠ 0x7F)
    (hi : decodeWord word 0 = some i) : s.fetchInstr cid ctx cls pc = (s1, some (i, word)) := by
  simp only [State.fetchInstr, hf, if_neg hop, hi, Option.getD_some]

theorem fetchInstr_of_imx (hf : s.fetchWord cid ctx pc.toNat cls = (s1, .word word))
    (hn : s1.fetchWord cid ctx (pc + 4).toNat cls = (s2, .word next)) (hop : bitsAt 25 7 word = 0x7F) :
    s.fetchInstr cid ctx cls pc = (s2, some (.imx (bitsAt 0 25 word) next, word)) := by
  simp only [State.fetchInstr, hf, if_pos hop, hn]

/-! ### The issue of a wave that may try (10 R312) -/

variable {k : Nat} {w : Wave} {batch : BitVec 32} {i : Instr}

/-- The issue under way that a wave's fetched word becomes. -/
def State.presented (s : State) (k : Nat) (batch : BitVec 32) (pc : Addr) (word : Word) : State :=
  { s with cur := some ⟨k, batch, pc, 4, word, none⟩ }

theorem present_of_fetchInstr (hb : w.batch = some (pc, batch))
    (hf : s.fetchInstr (cidOf k) w.ctx (w.prio % 4) pc = (s1, some (i, word))) :
    s.present k w = (s1.presented k batch pc word, some i) := by
  simp only [State.present, hb, hf, State.presented]

section
variable (hw : s.waves.find? k = some w) (ht : w.mayTry = true) (hb : w.batch = some (pc, batch))
  (hf : s.fetchInstr (cidOf k) w.ctx (w.prio % 4) pc = (s1, some (i, word)))
include hw ht hb hf

theorem issueTurn_of_mayIssue (hm : s1.mayIssue k (turnClass i word) = true) :
    s.issueTurn k = (s1.presented k batch pc word, some i) := by
  have hm' : (s1.presented k batch pc word).mayIssue k (turnClass i word) = true := hm
  simp [State.issueTurn, hw, ht, present_of_fetchInstr hb hf, State.presented] at hm' ⊢
  simp [hm']

theorem issueTurn_of_not_mayIssue (hm : s1.mayIssue k (turnClass i word) = false) :
    s.issueTurn k = (((s1.presented k batch pc word).waitsOn k i).getD
      (({ s1.presented k batch pc word with cur := none } : State).heldBack k), none) := by
  have hm' : (s1.presented k batch pc word).mayIssue k (turnClass i word) = false := hm
  simp [State.issueTurn, hw, ht, present_of_fetchInstr hb hf, State.presented] at hm' ⊢
  simp [hm']

end
end

/-! ### The step, by its turn -/

theorem step_of_turn_none {s t : State} (h : s.turn = (t, none)) : step s = .next t := by
  simp only [step, h]

theorem step_of_turn_some {s u t : State} {i : Instr} (h : s.turn = (u, some i)) (he : exec i u = .next t) :
    step s = .next { t.charge i with cur := none } := by
  simp only [step, h, he, finishStep]

theorem charge_of_cur_none {t : State} (i : Instr) (h : t.cur = none) : t.charge i = t := by
  simp only [State.charge, h]

theorem charge_of_cur {t : State} {iss : Issue} (i : Instr) (h : t.cur = some iss) :
    t.charge i = if t.waiting iss.wave = true then t else t.noteIssue iss.wave (turnClass i iss.word) := by
  simp only [State.charge, h]

/-- The state in which a chosen issue is tried: a cycle has passed where the partition has issued twice or the record would be out of order. -/
def State.readied (s : State) (k : Nat) : State :=
  if 2 ≤ (s.issuedNow k).length ∨ s.late k = true then s.advance 1 else s

theorem chosenIssue_eq (s : State) (k : Nat) :
    s.chosenIssue k = if (s.readied k).best (k / 48) = some k then (s.readied k).issueTurn k else (s.readied k, none) := by
  have hr : (if (decide (2 ≤ (s.issuedNow k).length) || s.late k) = true then s.advance 1 else s) = s.readied k :=
    if_congr (by simp) rfl rfl
  simp only [State.chosenIssue, hr]

theorem turn_of_issue {s : State} {k : Nat} {rest : List Turn} (h : s.agenda = .issue k :: rest) :
    s.turn = State.chosenIssue { s with agenda := rest } k := by
  simp only [State.turn, h]

/-! ### The wave that tries next (10 R312) -/

/-- The best of a list is one of it. -/
theorem mem_of_bestBy {α : Type} (lt : α → α → Bool) {xs : List α} {x : α} (h : bestBy lt xs = some x) : x ∈ xs := by
  unfold bestBy at h
  revert h
  refine List.foldlRecOn xs _ (motive := fun b => b = some x → x ∈ xs) (by simp) ?_
  intro b ih y hy hx
  cases b with
  | none => cases hx; exact hy
  | some z =>
    dsimp only at hx
    split at hx
    · cases hx; exact hy
    · exact ih hx

theorem best_partition {s : State} {p k : Nat} (h : s.best p = some k) : k / 48 = p := by
  obtain ⟨⟨j, w⟩, hb, rfl⟩ := Option.map_eq_some_iff.mp h
  have hm := List.mem_of_mem_filter (mem_of_bestBy _ hb)
  simpa using List.of_mem_filter hm

theorem best_of_findSome {s : State} {ps : List Nat} {k : Nat} (h : ps.findSome? s.best = some k) : s.best (k / 48) = some k := by
  obtain ⟨p, -, hp⟩ := List.exists_of_findSome?_eq_some h
  rw [best_partition hp, hp]

theorem defaultTurn_of_best {s : State} {k : Nat} (he : firstChange s (dueEvents s) = none)
    (hk : s.partitions.findSome? s.best = some k) :
    s.defaultTurn = if s.late k then (s.passOver k, none) else s.issueTurn k := by
  simp only [State.defaultTurn, he, hk]

/-- With nothing due, the best wave's turn is that of the agenda that names it. -/
theorem turn_of_best {s : State} {k : Nat} (ha : s.agenda = []) (he : firstChange s (dueEvents s) = none)
    (hk : s.partitions.findSome? s.best = some k) (hl : s.late k = false) (hn : (s.issuedNow k).length < 2) :
    s.turn = ({ s with agenda := [.issue k] } : State).turn := by
  have hr : State.readied s k = s := if_neg (by simp [hl, hn])
  have hs : ({ ({ s with agenda := [.issue k] } : State) with agenda := [] } : State) = s := by cases s; cases ha; rfl
  rw [turn_of_issue (s := { s with agenda := [.issue k] }) rfl, hs, chosenIssue_eq, hr, if_pos (best_of_findSome hk)]
  simp only [State.turn, ha, defaultTurn_of_best he hk, hl, Bool.false_eq_true, if_false]

/-- Words of the manual: the operation and the fields its examples give. -/
theorem decode_manual_words :
    decode (bytesOf 4 0x02143070) = .ok (.iadd 5 6 7 0 0, []) ∧
    decode (bytesOf 4 0x10204FDB) = .ok (.imad 8 9 125 2 3, []) ∧
    decode (bytesOf 4 0x2C040090) = .ok (.laneid 1 0 0, []) ∧
    decode (bytesOf 4 0xF0102090) = .ok (.sadd 4 4 9, []) ∧
    decode (bytesOf 4 0x76202060) = .ok (.cfma 8 4 6 0, []) ∧
    decode (bytesOf 4 0xF2102860) = .ok (.sfadd 4 5 6, []) ∧
    decode (bytesOf 4 0xE2003000) = .ok (.brx 6 0, []) ∧
    decode (bytesOf 4 0xE40BFFFB) = .ok (.call 2 0x3FFFB, []) ∧
    decode (bytesOf 4 0xE827FFF4) = .ok (.fork 9 0x3FFF4, []) ∧
    decode (bytesOf 4 0xEE00F2F0) = .ok (.waitc 15 2 15 0, []) := by
  decide +kernel

/-- The turn of a chosen issue whose wave is the one its partition tries next. -/
theorem turn_of_issue_best {s : State} {k : Nat} {rest : List Turn} (h : s.agenda = .issue k :: rest)
    (hb : (State.readied { s with agenda := rest } k).best (k / 48) = some k) :
    s.turn = (State.readied { s with agenda := rest } k).issueTurn k := by
  rw [turn_of_issue h, chosenIssue_eq, if_pos hb]

/-- Settles O57: each kind of turn gives its step, and the instruction of an issue is what the bytes at its PC decode to. -/
theorem stepRunsTheInstruction : Obligations.StepRunsTheInstruction := by
  refine ⟨fun s k rest h => ⟨fun hb => ?_, fun w pc batch hb hw ht hbat => ⟨?_, ?_⟩⟩, fun t iss i h => charge_of_cur i h,
    ?_, ?_, ?_, ?_, ?_, ?_, decode_manual_words⟩
  · exact step_of_turn_none (by rw [turn_of_issue h, chosenIssue_eq]; exact if_neg hb)
  · intro s1 word i hf hd
    obtain ⟨hop, hi⟩ := decodeWord_of_decode_bytes hd
    have hfi := fetchInstr_of_word hf hop hi
    have ht' := turn_of_issue_best h hb
    refine ⟨fun hm t he => ?_, fun hm => ?_⟩
    · rw [← turnClass_of_decodeWord hop hi] at hm
      exact step_of_turn_some (ht'.trans (issueTurn_of_mayIssue hw ht hbat hfi hm)) he
    · rw [← turnClass_of_decodeWord hop hi] at hm
      exact step_of_turn_none (ht'.trans (issueTurn_of_not_mayIssue hw ht hbat hfi hm))
  · intro s1 s2 word next v hf hn hd hm t he
    obtain ⟨hop, rfl, -⟩ := imx_of_decode_bytes hd
    exact step_of_turn_some
      ((turn_of_issue_best h hb).trans (issueTurn_of_mayIssue hw ht hbat (fetchInstr_of_imx hf hn hop) hm)) he
  · intro s i rest t h hev he hc
    have := step_of_turn_some (s := s) (i := i) (by simp only [State.turn, h, hev, if_true]) he
    rw [this, charge_of_cur_none i hc]
    cases t; cases hc; rfl
  · intro s t ha he
    exact step_of_turn_none (by simp only [State.turn, ha, State.defaultTurn, he])
  · intro s k ha he hk
    refine ⟨fun hl => step_of_turn_none ?_, fun hl hn => ?_⟩
    · simp only [State.turn, ha, defaultTurn_of_best he hk, hl, if_true]
    · simp only [step, turn_of_best ha he hk hl hn]
  · intro s ha he hk
    exact step_of_turn_none (by simp only [State.turn, ha, State.defaultTurn, he, hk])
  · intro s n rest h
    exact step_of_turn_none (by simp only [State.turn, h])
  · intro s rest h
    exact step_of_turn_none (by simp only [State.turn, h, State.provision])

end Sys2Proof.Machine

/-! Plain loads, plain stores and ACCB, where every check passes (06 R183 to R185, R188, R191; 01 R37, R44, R46). -/

namespace Sys2Proof.Machine

/-! ### Loads (06 R184, R185) -/

section
variable {acc : Access} {inv : Bool} {tol : Nat} {s t : State} {iss : Issue} {lanes : Word} {w : Wave} {known : Op → Prop}

/-- What a load that acts outside its wave has read and asked for. -/
theorem loads_eq_some {addrs : Issue → Word → Wave → Nat → List Addr}
    {asks : Issue → Word → Wave → List (Nat × List Place) → List Ask}
    (h : loads acc inv tol addrs asks s iss lanes w = some (t, known)) :
    ∃ s1 got s2 ws, s.checkLanes iss.wave w acc (addrs iss lanes w) (lanesOf lanes) [] = (s1, .ok got) ∧
      (asks iss lanes w got).any (fun a => s1.mustWait w a.place a.size false) = false ∧
      s1.gather w (cidOf iss.wave) inv (asks iss lanes w got) [] = (s2, .ok ws) ∧
      (s2.tick1.askTiles iss.wave w s2.fresh tol (asks iss lanes w got)).1 = t ∧
      (fun o : Op => o.kind = .load ∧ o.done = false ∧ o.writes = ws ∧
        o.waits = (s2.tick1.askTiles iss.wave w s2.fresh tol (asks iss lanes w got)).2) = known := by
  unfold loads at h
  split at h
  case h_1 s1 got hgot =>
    split at h
    case isTrue => cases h
    case isFalse hwait =>
      split at h
      case h_1 s2 ws hws =>
        cases h
        exact ⟨s1, got, s2, ws, hgot, by simpa using hwait, hws, rfl, rfl⟩
      case h_2 => cases h
  case h_2 => cases h

end

theorem issueLoad_of_gather {s s2 : State} {iss : Issue} {w : Wave} {inv : Bool} {tol : Nat} {asks : List Ask} {ws : List LWrite}
    (hwait : asks.any (fun a => s.mustWait w a.place a.size false) = false) (hws : s.gather w (cidOf iss.wave) inv asks [] = (s2, .ok ws)) :
    ∃ o : Op, (o.kind = .load ∧ o.done = false ∧ o.writes = ws ∧ o.waits = (s2.tick1.askTiles iss.wave w s2.fresh tol asks).2) ∧
      s.issueLoad iss w inv tol asks = .done ((s2.tick1.askTiles iss.wave w s2.fresh tol asks).1.retire iss
        (((w.setEmpty (asks.map Ask.cell)).count .ld o).finish iss)) := by
  unfold State.issueLoad
  rw [hwait, hws]
  refine ⟨_, ?_, rfl⟩
  exact ⟨rfl, rfl, rfl, rfl⟩

/-- The cells a load of words marks EMPTY are those of its registers in its lanes. -/
theorem mem_wordAsks_cell {n : Nat} {d : BitVec 7} {addr : Issue → Wave → Nat → Addr} {iss : Issue} {lanes : Word} {w : Wave}
    {got : List (Nat × List Place)} (hg : got.map Prod.fst = lanesOf lanes) (hp : ∀ g ∈ got, g.2.length = 1) {r l : Nat} (hl : l < 32) :
    cellAt r l ∈ (wordAsks n d addr iss lanes w got).map Ask.cell ↔
      r ∈ (List.range (max 1 (n / 4))).map (fun j => w.wb + d.toNat + j) ∧ lanes.getLsbD l = true := by
  have lane (g) (h : g ∈ got) : g.1 < 32 ∧ lanes.getLsbD g.1 = true := mem_lanesOf.1 (hg ▸ List.mem_map_of_mem h)
  simp only [wordAsks, List.mem_map, List.mem_flatMap]
  constructor
  · rintro ⟨_, ⟨g, hgot, p, -, j, hj, rfl⟩, hc⟩
    obtain ⟨rfl, rfl⟩ := (cellAt_inj (lane g hgot).1 hl).1 hc
    exact ⟨⟨j, hj, rfl⟩, (lane g hgot).2⟩
  · rintro ⟨⟨j, hj, rfl⟩, hm⟩
    obtain ⟨g, hgot, rfl⟩ : ∃ g ∈ got, g.1 = l := by
      rw [← List.mem_map, hg]
      exact mem_lanesOf.2 ⟨hl, hm⟩
    obtain ⟨p, hone⟩ := List.length_eq_one_iff.1 (hp g hgot)
    exact ⟨_, ⟨g, hgot, p, by rw [hone]; exact List.mem_singleton_self p, j, hj, rfl⟩, rfl⟩

/-- Marking its registers EMPTY is all a load does to its wave's registers until the data lands. -/
theorem acts_load {d : BitVec 7} {k : Nat} {guard : Option Nat} {ops : List Opnd} {iss : Issue} {lanes : Word} {w : Wave} {cells : List Nat}
    (hm : ∀ n l, l < 32 → (cellAt n l ∈ cells ↔ n ∈ (List.range k).map (fun j => w.wb + d.toNat + j) ∧ lanes.getLsbD l = true)) :
    Acts (loadEffect d k guard ops) iss lanes w (w.setEmpty cells) := by
  obtain ⟨rs, hempty⟩ := setEmpty_eq cells w
  have acts := acts_setEmpty (e := loadEffect d k guard ops) (iss := iss) cells rfl (fun _ _ => rfl) hm rfl (fun _ => rfl) w.fibres
    (fun l _ => (ite_self _).symm)
  rwa [show ({ w.setEmpty cells with fibres := w.fibres } : Wave) = w.setEmpty cells by rw [hempty]] at acts

theorem completesIn_fbLoad {i : Instr} {n : Nat} {inv : Bool} {d a : BitVec 7} {j : BitVec 11} (hx : exec i = fbLoad n inv d a j) {k : Nat}
    (hk : max 1 (n / 4) = k) : CompletesIn i (some .ld) (loadEffect d k none [.vec d k k, .vec a 2 2]) (loadsBytes n inv d a j) := by
  subst hk
  refine completesIn_counted hx rfl (fun _ => id) rfl rfl (fun _ _ _ _ _ _ => rfl) rfl (fun _ _ _ => rfl) (fun _ _ => rfl) ?_
  intro s iss lanes w t known _ _ hout
  obtain ⟨s1, got, s2, ws, hgot, hwait, hws, rfl, rfl⟩ := loads_eq_some hout
  obtain ⟨_, rfl, hlanes, hone⟩ := checkLanes_shape _ _ _ _ _ _ _ _ _ hgot
  have cells {r l : Nat} (hl : l < 32) := mem_wordAsks_cell (n := n) (d := d) (addr := fbAddress n a j) (iss := iss) (w := w) (r := r)
    hlanes hone hl
  obtain ⟨o, ho, hdone⟩ := issueLoad_of_gather hwait hws
  refine ⟨o, _, acts_load fun _ _ hl => cells hl, ho, ?_⟩
  change s.checkLanes iss.wave w (Access.load n) (fun l => [w.fbAddr iss a j n l]) (lanesOf lanes) [] = _ at hgot
  rw [hgot]
  exact hdone

/-! ### Instructions that count on ST -/

/-- What an instruction that counts an operation on ST leaves of its wave: only its fibres, its latch and the bytes written have changed. -/
def Stored (o : Op) (w w2 : Wave) : Prop :=
  ∃ fs la lp pr, w2 = { w with fibres := fs, latch := la, lp := lp, wait := none, priv := pr, st := w.st ++ [o] }

/-- Putting back a wave that counts an operation on ST and is as an effect says. -/
theorem Does.retireStored {e : Effect} {iss : Issue} {lanes : Word} {w w2 : Wave} {o : Op} (D : Does e iss lanes w w2) (only : Stored o w w2)
    (hk : ∀ w w', e.keep w w' = none) (t : State) :
    ∃ w', t.retire iss w2 = t.setWave iss.wave w' ∧ SameWave w w' ∧ Counts .st o w w' ∧ Does e iss lanes w w' := by
  obtain ⟨fs, la, lp, pr, rfl⟩ := only
  obtain ⟨r, sk, cp, tx, wt, hret, hrun⟩ := retire_cases t iss
    { w with fibres := fs, latch := la, lp := lp, wait := none, priv := pr, st := w.st ++ [o] }
  obtain ⟨cells, scalars, flags, fibres, keeps⟩ := D
  refine ⟨_, hret, ⟨rfl, rfl, rfl, rfl, rfl, rfl, rfl, rfl, rfl, rfl, rfl, rfl, rfl, fun h => (hrun h).1⟩,
    ⟨nofun, fun _ => rfl, fun _ => rfl, fun h => absurd rfl h, fun h => ⟨(hrun h).2.1, (hrun h).2.2.1⟩⟩, cells, scalars, flags, fibres, ?_⟩
  rw [hk] at keeps ⊢
  exact keeps

/-- An instruction that counts on ST and whose own part, where it completes, leaves its wave as an effect says. -/
theorem completesIn_stored {i : Instr} {e : Effect} {out : Outside} {p : Pre} {body : State → Issue → Word → Wave → Out}
    (hx : exec i = Sys2Proof.Machine.runState p body) (hg : p.guard = e.guard) (ho : p.ops = e.ops) (hl : p.tile = false)
    (hr : p.reserved = false) (hb : ∀ w, p.badOperand w = false) (hc : p.counter = some .st)
    (ht : ∀ w lanes, e.tags w lanes → p.tags w lanes = none) (hrc : p.reach = e.reach) (hk : ∀ w w', e.keep w w' = none)
    (hbody : ∀ s iss lanes w t known, Issues s iss w e.guard e.ops false lanes e.reach → out s iss lanes w = some (t, known) →
      ∃ o w2, body s iss lanes w = .done (t.retire iss w2) ∧ known o ∧ Stored o w w2 ∧ Does e iss lanes w w2) :
    CompletesIn i (some .st) e out := by
  intro s iss w lanes t known h hcount htag hout
  obtain ⟨o, w2, hdone, ho', only, D⟩ := hbody s iss lanes w t known h hout
  obtain ⟨w', hret, same, counts, does⟩ := D.retireStored only hk t
  rw [← hg, ← ho, ← hl, ← hrc] at h
  refine ⟨w', ?_, same, does, o, counts, ho'⟩
  rw [hx, h.runState hr (hb w) (by rw [hc]; rintro _ ⟨⟩; exact hcount _ rfl) (ht w lanes htag), hdone]
  exact congrArg Host.Outcome.next hret

theorem stored_finish (w : Wave) (iss : Issue) (o : Op) (pr : SMap Bool) :
    Stored o w (({ w with priv := pr, st := w.st ++ [o] } : Wave).finish iss) := by
  obtain ⟨fs, hf⟩ := finish_eq { w with priv := pr, st := w.st ++ [o] } iss
  exact ⟨fs, _, _, pr, hf⟩

/-! ### Stores (06 R184) -/

/-- A wave that has issued a store: the bytes of its windows that it wrote are noted, and the operation is counted (06 R176). -/
def Wave.afterStore (w : Wave) (iss : Issue) (puts : List Put) (o : Op) : Wave := ((w.notePriv puts).count .st o).finish iss

theorem issueStore_of_clear {s : State} {iss : Issue} {w : Wave} {puts : List Put}
    (hwait : puts.any (fun p => s.mustWait w p.place p.bytes.length true) = false)
    (hclear : (s.clearAfar (puts.flatMap (fun p => p.place.tileKeys))).2 = true) :
    let r := puts.foldl (fun (r : State × List Nat) p =>
      ((r.1.putElem (cidOf iss.wave) w p).1, r.2 ++ (r.1.putElem (cidOf iss.wave) w p).2))
      ((s.clearAfar (puts.flatMap (fun p => p.place.tileKeys))).1, [])
    ∃ o : Op, (o.kind = .store ∧ o.done = false ∧ o.waits = r.2) ∧
      s.issueStore iss w puts = .done (r.1.tick1.retire iss (w.afterStore iss puts o)) := by
  obtain ⟨s1, hs1⟩ : ∃ s1, s.clearAfar (puts.flatMap (fun p => p.place.tileKeys)) = (s1, true) := ⟨_, Prod.ext rfl hclear⟩
  unfold State.issueStore
  simp only [hwait, hs1]
  refine ⟨_, ?_, rfl⟩
  exact ⟨rfl, rfl, rfl⟩

theorem stored_afterStore (w : Wave) (iss : Issue) (puts : List Put) (o : Op) : Stored o w (w.afterStore iss puts o) :=
  stored_finish w iss o (w.notePriv puts).priv

/-- What a store that acts outside its wave has done, in the terms of its issue. -/
theorem stores_eq_some {acc : Access} {addrs : Issue → Word → Wave → Nat → List Addr}
    {puts : Issue → Wave → List (Nat × List Place) → List Put}
    {s t : State} {iss : Issue} {lanes : Word} {w : Wave} {known : Op → Prop} (h : stores acc addrs puts s iss lanes w = some (t, known)) :
    ∃ s1 got o, s.checkLanes iss.wave w acc (addrs iss lanes w) (lanesOf lanes) [] = (s1, .ok got) ∧ known o ∧
      s1.issueStore iss w (puts iss w got) = .done (t.retire iss (w.afterStore iss (puts iss w got) o)) := by
  unfold stores at h
  split at h
  case h_1 s1 got hgot =>
    dsimp only at h
    split at h
    case isTrue => cases h
    case isFalse hfree =>
      rw [Bool.not_eq_true, Bool.or_eq_false_iff, Bool.not_eq_false'] at hfree
      obtain ⟨hwait, hclear⟩ := hfree
      obtain ⟨o, ho, hdone⟩ := issueStore_of_clear (iss := iss) hwait hclear
      cases h
      exact ⟨s1, got, o, hgot, ho, hdone⟩
  case h_2 => cases h

theorem completesIn_fbStore {i : Instr} {n : Nat} {d a : BitVec 7} {j : BitVec 11} (hx : exec i = fbStore n d a j) {k : Nat}
    (hk : max 1 (n / 4) = k) : CompletesIn i (some .st) { ops := [.vec d k k, .vec a 2 2] } (storesBytes n d a j) := by
  subst hk
  refine completesIn_stored hx rfl rfl rfl rfl (fun _ => rfl) rfl (fun _ _ _ => rfl) rfl (fun _ _ => rfl) ?_
  intro s iss lanes w t known _ hout
  obtain ⟨s1, got, o, hgot, ho, hdone⟩ := stores_eq_some hout
  refine ⟨o, _, ?_, ho, stored_afterStore w iss _ o, does_finish iss lanes ((w.notePriv (wordPuts n d iss w got)).count .st o)⟩
  change s.checkLanes iss.wave w (Access.store n) (fun l => [w.fbAddr iss a j n l]) (lanesOf lanes) [] = _ at hgot
  rw [hgot]
  exact hdone

/-! ### ACCB (06 R191) -/

/-- The batch's region ends as its issue completes (01 R46). -/
theorem does_endRegion {e : Effect} {iss : Issue} (w : Wave) (hf : e.fibre = regionEnds) (ha : e.after = fun _ _ _ _ f => f)
    (hr : e.regs w = []) (hs : e.scalars iss iss.batch w = []) (hl : ∀ l, e.flags iss.batch w l = 0) (hk : ∀ w w', e.keep w w' = none) :
    Does e iss iss.batch w ((w.finish iss).endRegion iss) := by
  refine does_of_onlyFibres (OnlyFibres.mapFibs _ _ _) (fun l hl => ?_) hr hs hl hk
  rw [Wave.endRegion, mapFibs_fib _ _ _ _ hl, finish_fib w iss l hl, hf, ha]
  split <;> rfl

/-- The operation ACCB counts: its additions that wait for a tile, and what it waits for. -/
def AccRun.counted (r : AccRun) (iss : Issue) : Op :=
  { uid := r.s.fresh, kind := .accb, iss := iss, writes := [], busy := [], waits := r.waits, adds := r.adds, done := false }

theorem stored_endRegion (w : Wave) (iss : Issue) (o : Op) : Stored o w (((w.count .st o).finish iss).endRegion iss) := by
  obtain ⟨fs, la, lp, pr, hw2⟩ := stored_finish w iss o w.priv
  obtain ⟨fs', hr⟩ := mapFibs_eq ((w.count .st o).finish iss) iss.batch (fun _ f => { f with region := iss.next, fresh := false })
  exact ⟨fs', la, lp, pr, hr.trans (congrArg (fun v : Wave => { v with fibres := fs' }) hw2)⟩

/-- What ACCB has done, once nothing keeps it back. -/
theorem accumulates_eq_some {d a : BitVec 7} {j : BitVec 11} {s t : State} {iss : Issue} {lanes : Word} {w : Wave} {known : Op → Prop}
    (h : accumulates d a j s iss lanes w = some (t, known)) :
    ∃ s1 got amos r,
      s.checkLanes iss.wave w ⟨4, 4, false, true, .rw, true⟩ (fun l => [fbAddress 4 a j iss w l]) (lanesOf lanes) [] = (s1, .ok got) ∧
      amosOf (fun iss w l => fbAddress 4 a j iss w l) (fun w l => (w.grp d 0 l).val) (fun _ _ => 0) (fun _ _ => none) iss w got = amos ∧
      amos.any (s1.accbWaits w) = false ∧ amos.find? (fun x => x.place.limit.isNone && s1.unreadable w.group (cidOf iss.wave) x) = none ∧
      amos.foldl (AccRun.step iss w) { s := s1, adds := [], waits := [] } = r ∧ r.s.tick1 = t ∧
      (fun o : Op => o.kind = .accb ∧ o.done = false ∧ o.adds = r.adds ∧ o.waits = r.waits) = known := by
  unfold accumulates at h
  split at h
  case h_1 s1 got hgot =>
    dsimp only at h
    split at h
    case isTrue => cases h
    case isFalse hfree =>
      rw [Bool.not_eq_true, Bool.or_eq_false_iff] at hfree
      obtain ⟨hread, hwait⟩ := hfree
      cases h
      exact ⟨s1, got, _, _, hgot, rfl, hwait, by simpa using hread, rfl, rfl, rfl⟩
  case h_2 => cases h

theorem completesIn_accb (d a : BitVec 7) (j : BitVec 11) : CompletesIn (.accb d a j) (some .st)
    { ops := [.vec d 1 1, .vec a 2 2], fibre := regionEnds, tags := groupTagged d 1 1 } (accumulates d a j) := by
  refine completesIn_stored (exec_accb d a j) rfl rfl rfl rfl (fun _ => rfl) rfl (fun _ _ => checkGrp_none) rfl (fun _ _ => rfl) ?_
  intro s iss lanes w t known h hout
  obtain rfl : lanes = iss.batch := h.passes
  obtain ⟨s1, got, amos, r, hgot, hamos, hwait, hread, hr, rfl, rfl⟩ := accumulates_eq_some hout
  change s.checkLanes iss.wave w ⟨4, 4, false, true, .rw, true⟩ (fun l => [w.fbAddr iss a j 4 l]) (lanesOf iss.batch) [] = _ at hgot
  change (got.flatMap fun g => g.2.map fun p =>
    ({ place := p, addr := w.fbAddr iss a j 4 g.1, lane := g.1, b := (w.grp d 0 g.1).val, c := 0, cell := none } : Amo)) = amos at hamos
  simp only [hgot, hamos, hwait, hread, hr]
  exact ⟨r.counted iss, _, rfl, ⟨rfl, rfl, rfl, rfl⟩, stored_endRegion w iss _,
    does_endRegion (e := { ops := [.vec d 1 1, .vec a 2 2], fibre := regionEnds, tags := groupTagged d 1 1 }) (w.count .st _)
      rfl rfl rfl rfl (fun _ => rfl) (fun _ _ => rfl)⟩

end Sys2Proof.Machine

/-! IMX and the word it precedes, one instruction of 8 bytes (03 R90 to R92). -/

namespace Sys2Proof.Machine

/-! ### Words that IMX may precede (03 R91) -/

theorem opcode_of_bitsAt {w : Word} {op : Nat} (h : bitsAt 25 7 w = BitVec.ofNat 7 op) (ho : op < 128) : w.toNat / 2 ^ 25 = op := by
  have hn := congrArg BitVec.toNat h
  rw [Laws.bitsAt_toNat, BitVec.toNat_ofNat] at hn
  have := w.isLt
  omega

/-- A word that decodes to an instruction of one word has that instruction's opcode. -/
theorem opcode_of_decodeWord {w : Word} {i : Instr} {op : Nat} {fs : List Nat} (hd : decodeWord w 0 = some i) (he : encode i = [wordOf op fs])
    (hs : bitsAt 25 7 (wordOf op fs) = BitVec.ofNat 7 op) (ho : op < 128) : w.toNat / 2 ^ 25 = op := by
  have no_imx : bitsAt 25 7 w ≠ 0x7F := by
    intro h7
    have himx : decodeWord w 0 = some (.imx (bitsAt 0 25 w) 0) := by
      unfold decodeWord
      rw [h7]
      rfl
    cases himx.symm.trans hd
    exact encode_imx_ne_singleton _ _ _ he
  obtain ⟨-, hw⟩ := wordsHaveOneMeaning w i no_imx hd
  cases he.symm.trans hw
  exact opcode_of_bitsAt hs ho

/-- The word accepts IMX, and after it means what instruction i does. -/
structure Accepted (next : Word) (i : Instr) : Prop where
  accepts : imxOpcodes.contains (next.toNat / 2 ^ 25) = true
  meaning : follower next = some (exec i)

/-- What a word means after an IMX is what it means alone. -/
theorem eq_exec_of_follower {next : Word} {i : Instr} {f : State → Host.Outcome State Fault Refusal} (hd : decodeWord next 0 = some i)
    (hf : follower next = some f) : f = exec i := by
  unfold follower at hf
  rw [hd] at hf
  split at hf
  case h_24 => cases hf
  all_goals
    rename_i h
    cases h
    cases hf
    rfl

theorem accepted_of_follower {next : Word} {i : Instr} (ho : imxOpcodes.contains (next.toNat / 2 ^ 25) = true)
    (hd : decodeWord next 0 = some i) (hf : (follower next).isSome = true) : Accepted next i := by
  obtain ⟨f, hf⟩ := Option.isSome_iff_exists.1 hf
  exact ⟨ho, by rw [hf, eq_exec_of_follower hd hf]⟩

section
variable {next : Word} {i : Instr} {op : Nat} (hd : decodeWord next 0 = some i)
include hd

/-- A word of F-B that accepts IMX. -/
theorem Accepted.formB {d a : BitVec 7} {j : BitVec 11} (he : encode i = [wordOf op [fld d 18, fld a 11, fld j 0]])
    (ho : op ∈ imxOpcodes := by decide) (h7 : op < 128 := by decide)
    (hf : follower next = some (exec i) := by rw [follower, ‹decodeWord _ 0 = _›]; rfl) : Accepted next i := by
  obtain ⟨hop, -⟩ := Laws.shape6 op d a j h7
  exact ⟨by rw [opcode_of_decodeWord hd he hop h7]; exact List.contains_iff_mem.2 ho, hf⟩

/-- A word of F-C that accepts IMX. -/
theorem Accepted.formC {d : BitVec 7} {j : BitVec 18} (he : encode i = [wordOf op [fld d 18, fld j 0]])
    (ho : op ∈ imxOpcodes := by decide) (h7 : op < 128 := by decide)
    (hf : follower next = some (exec i) := by rw [follower, ‹decodeWord _ 0 = _›]; rfl) : Accepted next i := by
  obtain ⟨hop, -⟩ := Laws.shape5 op d j h7
  exact ⟨by rw [opcode_of_decodeWord hd he hop h7]; exact List.contains_iff_mem.2 ho, hf⟩

end

/-- An ICMPI has no F-C immediate. -/
theorem opcode_of_icmpi {next : Word} {c : BitVec 4} {p : BitVec 3} {a : BitVec 7} {j : BitVec 11}
    (hd : decodeWord next 0 = some (.icmpi c p a j)) : next.toNat / 2 ^ 25 = 0x24 := by
  obtain ⟨hop, -⟩ := Laws.shape9 0x24 c p a j (by decide)
  exact opcode_of_decodeWord hd rfl hop (by decide)

theorem Accepted.icmpi {next : Word} {c : BitVec 4} {p : BitVec 3} {a : BitVec 7} {j : BitVec 11}
    (hd : decodeWord next 0 = some (.icmpi c p a j)) : Accepted next (.icmpi c p a j) :=
  ⟨by rw [opcode_of_icmpi hd]; decide, by unfold follower; rw [hd]; rfl⟩

theorem immediateC_of_icmpi {next : Word} {c : BitVec 4} {p : BitVec 3} {a : BitVec 7} {j : BitVec 11}
    (hd : decodeWord next 0 = some (.icmpi c p a j)) : immediateC next = false := by
  rw [immediateC, opcode_of_icmpi hd]
  decide

/-! ### The instruction of 8 bytes (03 R92) -/

section
variable {v : BitVec 25} {next : Word} {i : Instr} {e : Effect}

theorem exec_imx_of_accepted {s : State} {iss : Issue} (ha : Accepted next i) (hc : s.cur = some iss)
    (hf : immediateC next = true → next.toNat / 2 ^ 11 % 128 = 0) :
    exec (.imx v next) s = exec i { s with cur := some (iss.extended v next) } := by
  have field : (immediateC next && next.toNat / 2 ^ 11 % 128 != 0) = false := by
    cases h : immediateC next with
    | false => rfl
    | true => simpa using hf h
  rw [exec_imx, execImx, hc]
  simp only [ha.accepts, field, ha.meaning, Bool.not_true, Bool.false_eq_true, if_false, Issue.extended]

theorem exec_imx_of_not_accepts {s : State} {iss : Issue} {w : Wave} (hc : s.cur = some iss) (hw : s.waves.find? iss.wave = some w)
    (ho : imxOpcodes.contains (next.toNat / 2 ^ 25) = false) :
    exec (.imx v next) s = .next (s.takeTrap { iss with pc := iss.pc + 4, len := 4, word := next } .imxSequence 0 (lowest iss.batch)) := by
  rw [exec_imx, execImx, hc]
  simp only [ho, Bool.not_false, if_true]
  rw [withIssue_eq hc hw]

theorem Completes.imx (h : Completes i e) (ha : Accepted next i) : ImxCompletes v next e := by
  intro s iss w lanes hx
  obtain ⟨w', hexec, rest⟩ := h _ _ _ _ hx.runs hx.tagged
  exact ⟨w', (exec_imx_of_accepted ha hx.issue hx.field).trans hexec, rest⟩

theorem CompletesIn.imx {c : Ctr} {out : Outside} (h : CompletesIn i (some c) e out) (ha : Accepted next i) : ImxCompletesIn v next c e out := by
  intro s iss w lanes t known hx hcount hout
  obtain ⟨w', hexec, same, does, o, counts, ho⟩ := h _ _ _ _ t known hx.runs (by rintro _ ⟨⟩; exact hcount) hx.tagged hout
  exact ⟨w', o, (exec_imx_of_accepted ha hx.issue hx.field).trans hexec, same, does, counts, ho⟩

end

/-! ### The instructions that IMX may precede -/

section
variable (d a : BitVec 7) (j : BitVec 11) (k : BitVec 18)

theorem completes_vmovi : Completes (.vmovi d k) (immD d (fun iss => (iss.immC k).setWidth 32)) :=
  completes_runWave (exec_vmovi ..) rfl rfl rfl rfl (fun _ => rfl) rfl (fun _ _ _ => rfl)
    (fun _ _ _ _ => acts_writeField d _ rfl (fun _ _ _ => rfl) rfl (fun _ => rfl) (fun _ _ => rfl)) (fun _ _ => rfl)

theorem completes_smovi : Completes (.smovi d k) (scalarABD d [] (fun iss _ => (iss.immC k).setWidth 32) (fun _ => 0)) :=
  completes_runWave (exec_smovi ..) rfl rfl rfl rfl (fun _ => rfl) rfl (fun _ _ _ => rfl)
    (fun _ _ _ _ => acts_sset d.toNat _ rfl rfl (fun _ => rfl) (fun _ _ => rfl)) (fun _ _ => rfl)

theorem completes_saddi :
    Completes (.saddi d a j) (scalarABD d [a] (fun iss w => w.sget a.toNat + (iss.immB j).setWidth 32) (fun _ => 0)) :=
  completes_runWave (exec_saddi ..) rfl rfl rfl rfl (fun _ => rfl) rfl (fun _ _ _ => rfl)
    (fun _ _ _ _ => acts_sset d.toNat _ rfl rfl (fun _ => rfl) (fun _ _ => rfl)) (fun _ _ => rfl)

/-- The integer conditions as the table of R123 gives them. -/
theorem condHolds_eq {c : Nat} (hc : c < 6) (o : Ordering) : condHolds c (some o) = conditionHolds c (some o) := by
  interval_cases c <;> rfl

theorem completes_icmpi {c : BitVec 4} (hc : c.toNat < 6) (p : BitVec 3) : Completes (.icmpi c p a j) (compareAI c p a j) := by
  refine completes_runWave (exec_icmpi ..) rfl rfl rfl (decide_eq_false (by omega)) (fun _ => rfl) rfl (fun _ _ _ => rfl)
    (fun iss lanes w _ => acts_mapFibs _ rfl rfl (fun _ => rfl) fun l f _ => ?_) (fun _ _ => rfl)
  exact congrArg (f.setPred p.toNat) (condHolds_eq hc _).symm

/-- An ICMPI whose condition R123 does not define traps before it executes. -/
theorem exec_icmpi_of_reserved {c : BitVec 4} (hc : 6 ≤ c.toNat) (p : BitVec 3) {s : State} {iss : Issue} {w : Wave} (hcur : s.cur = some iss)
    (hw : s.waves.find? iss.wave = some w) (hb : iss.batch ≠ 0) :
    exec (.icmpi c p a j) s = .next (s.takeTrap iss .reservedField 0 (lowest iss.batch)) := by
  have asks : Asks (.icmpi c p a j) { guard := none, reserved := 6 ≤ c.toNat, ops := [.vec a 1 1] } :=
    .runHold ((exec_icmpi ..).trans (runWave_eq_runHold ..))
  exact asks.exec_of_trap hcur hw (enter_of_reserved hb (decide_eq_true hc))

end

/-- Settles O23: what each follower does alone, and the issue of 8 bytes that IMX gives it. -/
theorem imxExtends : Obligations.ImxExtends := by
  unfold Obligations.ImxExtends
  refine ⟨fun v next i f s iss hc ho hfield hd hf => ?_, fun v next i e s iss w lanes ho hd hf hcomp hx => ?_,
    fun v next d a i hd => (completes_vecImm (exec_iaddi ..) _ fun _ _ _ => rfl).imx (.formB hd rfl),
    fun v next d a i hd => (completes_vecImm (exec_imuli ..) _ fun _ _ _ => rfl).imx (.formB hd rfl),
    fun v next d a i hd => (completes_vecImm (exec_andi ..) _ fun _ _ _ => rfl).imx (.formB hd rfl),
    fun v next d a i hd => (completes_vecImm (exec_ori ..) _ fun _ _ _ => rfl).imx (.formB hd rfl),
    fun v next d a i hd => (completes_vecImm (exec_xori ..) _ fun _ _ _ => rfl).imx (.formB hd rfl),
    fun v next c p a i hd hc => (completes_icmpi a i hc p).imx (.icmpi hd),
    fun v next c p a i s iss w hd hc hcur hw hb => ?_,
    fun v next d j hd => (completes_vmovi d j).imx (.formC hd rfl),
    fun v next d j hd => (completes_smovi d j).imx (.formC hd rfl),
    fun v next d a i hd => (completes_saddi d a i).imx (.formB hd rfl),
    fun v next d i hd => (completes_call d i).imx (.formC hd rfl),
    fun v next d a i hd => (completesIn_fbLoad (exec_ldb ..) rfl).imx (.formB hd rfl),
    fun v next d a i hd => (completesIn_fbLoad (exec_ldh ..) rfl).imx (.formB hd rfl),
    fun v next d a i hd => (completesIn_fbLoad (exec_ldw ..) rfl).imx (.formB hd rfl),
    fun v next d a i hd => (completesIn_fbLoad (exec_ldd ..) rfl).imx (.formB hd rfl),
    fun v next d a i hd => (completesIn_fbLoad (exec_ldq ..) rfl).imx (.formB hd rfl),
    fun v next d a i hd => (completesIn_fbLoad (exec_ldv ..) rfl).imx (.formB hd rfl),
    fun v next d a i hd => (completesIn_fbStore (exec_stb ..) rfl).imx (.formB hd rfl),
    fun v next d a i hd => (completesIn_fbStore (exec_sth ..) rfl).imx (.formB hd rfl),
    fun v next d a i hd => (completesIn_fbStore (exec_stw ..) rfl).imx (.formB hd rfl),
    fun v next d a i hd => (completesIn_fbStore (exec_std ..) rfl).imx (.formB hd rfl),
    fun v next d a i hd => (completesIn_fbStore (exec_stq ..) rfl).imx (.formB hd rfl),
    fun v next d a i hd => (completesIn_accb d a i).imx (.formB hd rfl),
    fun v next s iss w hc hw ho => exec_imx_of_not_accepts hc hw ho⟩
  · exact exec_imx_of_accepted (accepted_of_follower ho hd (Option.isSome_of_eq_some hf)) hc hfield
  · obtain ⟨w', hexec, -, -, does⟩ := hcomp.imx (accepted_of_follower ho hd hf) s iss w lanes hx
    exact ⟨w', hexec, does⟩
  · rw [exec_imx_of_accepted (.icmpi hd) hcur (fun h => nomatch (immediateC_of_icmpi hd).symm.trans h)]
    exact exec_icmpi_of_reserved a i hc p rfl hw hb

end Sys2Proof.Machine

/-! Integer, shift, immediate, address and scalar operations, once per lane or once per issue (04 R112 to R121, R128 to R130). -/

namespace Sys2Proof.Machine

/-! ### Shifts by the full count (04 R115) -/

theorem shlWord_eq_shiftLeft (a b : Word) : shlWord a b = shiftLeft a b := by
  unfold shlWord shiftLeft
  split
  · exact BitVec.eq_of_toNat_eq (by rw [BitVec.toNat_shiftLeft, Nat.shiftLeft_eq, BitVec.toNat_ofNat])
  · rfl

theorem shrWord_eq_shiftRight (a b : Word) : shrWord a b = shiftRight a b := by
  unfold shrWord shiftRight
  split
  · refine BitVec.eq_of_toNat_eq ?_
    rw [BitVec.toNat_ushiftRight, Nat.shiftRight_eq_div_pow, BitVec.toNat_ofNat,
      Nat.mod_eq_of_lt (Nat.lt_of_le_of_lt (Nat.div_le_self _ _) a.isLt)]
  · rfl

theorem sarWord_eq_shiftSigned (a b : Word) : sarWord a b = shiftSigned a b := by
  unfold sarWord shiftSigned
  split
  · rw [BitVec.sshiftRight, Int.shiftRight_eq_div_pow]
    rfl
  · rfl

/-! ### Minimum, maximum and order (04 R114, R128) -/

theorem iminWord_eq (a b : Word) : iminWord a b = if a.toInt ≤ b.toInt then a else b := by
  simp only [iminWord, BitVec.slt_iff_toInt_lt, ← Int.not_le, ite_not]

theorem uminWord_eq (a b : Word) : uminWord a b = if a.toNat ≤ b.toNat then a else b := by
  simp only [uminWord, BitVec.ult_iff_toNat_lt, ← Nat.not_le, ite_not]

/-- The larger of two numbers is the same whichever way equals are taken. -/
theorem imaxWord_eq (a b : Word) : imaxWord a b = if a.toInt ≤ b.toInt then b else a := by
  simp only [imaxWord, BitVec.slt_iff_toInt_lt]
  by_cases h : a.toInt = b.toInt
  · rw [BitVec.toInt_inj.1 h, ite_self, ite_self]
  · exact if_congr (by omega) rfl rfl

theorem umaxWord_eq (a b : Word) : umaxWord a b = if a.toNat ≤ b.toNat then b else a := by
  simp only [umaxWord, BitVec.ult_iff_toNat_lt]
  by_cases h : a.toNat = b.toNat
  · rw [BitVec.toNat_inj.1 h, ite_self, ite_self]
  · exact if_congr (by omega) rfl rfl

theorem sslt_eq (a b : Word) : (if a.slt b then (1 : Word) else 0) = if a.toInt < b.toInt then 1 else 0 := by
  simp only [BitVec.slt_iff_toInt_lt]

/-! ### Counts and reversals (04 R118) -/

theorem popcount_eq (a : Word) (n : Nat) : popcount n a = ((List.range n).filter a.getLsbD).length := by
  induction n with
  | zero => rfl
  | succ n ih =>
    rw [popcount, ih, List.range_succ, List.filter_append, List.length_append, Nat.add_comm]
    cases h : a.getLsbD n <;> simp [h]

theorem leadingZeros_eq (a : Word) (n : Nat) :
    leadingZeros n a = ((List.range n).takeWhile (fun i => !a.getLsbD (n - 1 - i))).length := by
  induction n with
  | zero => rfl
  | succ n ih =>
    have rest : List.takeWhile ((fun i => !a.getLsbD (n - i)) ∘ Nat.succ) (List.range n) =
        List.takeWhile (fun i => !a.getLsbD (n - 1 - i)) (List.range n) := by
      congr 1; funext i; simp [Nat.sub_sub, Nat.add_comm]
    rw [leadingZeros, ih, List.range_succ_eq_map, List.takeWhile_cons, Nat.add_sub_cancel, List.takeWhile_map, Nat.sub_zero]
    cases h : a.getLsbD n
    · simp [rest, Nat.add_comm]
    · rfl

theorem trailingZeros_eq (a : Word) (n : Nat) (hn : n ≤ 32) :
    trailingZeros n a = ((List.range' (32 - n) n).takeWhile (fun i => !a.getLsbD i)).length := by
  induction n with
  | zero => rfl
  | succ n ih =>
    have next : 32 - (n + 1) + 1 = 32 - n := by omega
    rw [trailingZeros, ih (by omega), List.range'_succ, List.takeWhile_cons, next, show 31 - n = 32 - (n + 1) by omega]
    cases h : a.getLsbD (32 - (n + 1))
    · simp [Nat.add_comm]
    · rfl

theorem popcount_eq_bitCount (a : Word) : popcount 32 a = bitCount a := popcount_eq a 32

theorem leadingZeros_eq_zerosAbove (a : Word) : leadingZeros 32 a = zerosAbove a := leadingZeros_eq a 32

theorem trailingZeros_eq_zerosBelow (a : Word) : trailingZeros 32 a = zerosBelow a := by
  rw [trailingZeros_eq a 32 le_rfl, zerosBelow, List.range_eq_range']

theorem iabs_eq (a : Word) : (if a.getLsbD 31 then -a else a) = BitVec.ofNat 32 a.toInt.natAbs := by
  have hlt := a.isLt
  have sign : a.getLsbD 31 = decide (2 ^ 31 ≤ a.toNat) := BitVec.msb_eq_decide a
  refine BitVec.eq_of_toNat_eq ?_
  rw [sign, BitVec.toInt_eq_toNat_cond, BitVec.toNat_ofNat]
  by_cases h : 2 ^ 31 ≤ a.toNat
  · rw [if_pos (decide_eq_true h), if_neg (by omega), BitVec.toNat_neg]
    omega
  · rw [if_neg (by simpa using h), if_pos (by omega)]
    omega

theorem bitReverse_getLsbD (a : Word) {i : Nat} (hi : i < 32) : (bitReverse a).getLsbD i = a.getLsbD (31 - i) := by
  have mirrored : bitReverse a =
      (laneNums.map (31 - ·)).foldl (fun m k => if a.getLsbD (31 - k) then m ||| laneBit k else m) 0 := rfl
  have listed : i ∈ laneNums.map (31 - ·) := List.mem_map.2 ⟨31 - i, List.mem_range.2 (by omega), by omega⟩
  rw [mirrored, getLsbD_foldMask (fun k => a.getLsbD (31 - k)) _ (fun l hl => ?_), List.contains_iff_mem.2 listed]
  · simp
  · obtain ⟨k, -, rfl⟩ := List.mem_map.1 hl
    omega

/-- Bit i of the number that bytes spell is bit i mod 8 of byte i / 8. -/
theorem ofBytes_testBit (bs : List Byte) (i : Nat) : (ofBytes bs).testBit i = (bs.getD (i / 8) 0).getLsbD (i % 8) := by
  induction bs generalizing i with
  | nil => simp [ofBytes]
  | cons b bs ih =>
    rw [ofBytes, Nat.add_comm, show 256 = 2 ^ 8 from rfl, Nat.testBit_two_pow_mul_add _ b.isLt]
    by_cases h : i < 8
    · rw [if_pos h, Nat.div_eq_of_lt h, Nat.mod_eq_of_lt h]
      rfl
    · obtain ⟨k, rfl⟩ := Nat.exists_eq_add_of_le' (Nat.le_of_not_lt h)
      rw [if_neg h, ih, Nat.add_sub_cancel, Nat.add_div_right k (by decide), Nat.add_mod_right]
      rfl

theorem byteSwap_getLsbD (a : Word) {i : Nat} (hi : i < 32) :
    (byteSwap a).getLsbD i = a.getLsbD (8 * (3 - i / 8) + i % 8) := by
  have byte {k : Nat} (hk : k < 4) : ((bytesOf 4 a.toNat).reverse.getD k 0) = BitVec.ofNat 8 (a.toNat / 256 ^ (3 - k)) := by
    interval_cases k <;> rfl
  have scale (k : Nat) : 256 ^ k = 2 ^ (8 * k) := by rw [Nat.pow_mul]
  have low : i % 8 < 8 := Nat.mod_lt _ (by decide)
  rw [byteSwap, BitVec.getLsbD_ofNat, ofBytes_testBit, byte (by omega), BitVec.getLsbD_ofNat, scale, Nat.testBit_div_two_pow]
  simp [hi, low, BitVec.getLsbD, Nat.add_comm]

/-! ### One lane's result (04 R114, R116, R118) -/

theorem completes_imad (d a b : BitVec 7) (g h : BitVec 2) : Completes (.imad d a b g h)
    (vecABD d a b g h (fun w l => ⟨(w.src a l).val * (w.src b l).val + (w.grp d 0 l).val, 0⟩)) :=
  completes_runHold (exec_imad ..) rfl rfl rfl rfl (fun _ => rfl) rfl (fun _ _ _ => rfl)
    (fun _ _ _ _ => acts_writeField d _ rfl (fun _ _ _ => rfl) rfl (fun _ => rfl) (fun _ _ => rfl))
    (fun w w1 w' => keepOf_abd h d a b w w1 w')

/-- Settles O1: each instruction writes its word of the two sources, in the model's or the manual's form. -/
theorem vectorIntegerResults : Obligations.VectorIntegerResults := by
  unfold Obligations.VectorIntegerResults
  intro d a b g h
  exact ⟨completes_vec2 (exec_iadd ..) _ fun _ _ => rfl, completes_vec2 (exec_iadds ..) _ fun _ _ => rfl,
    completes_vec2 (exec_isub ..) _ fun _ _ => rfl, completes_vec2 (exec_isubs ..) _ fun _ _ => rfl,
    completes_vec2 (exec_imul ..) _ fun _ _ => rfl, completes_vec2 (exec_imulh ..) _ fun _ _ => rfl,
    completes_vec2 (exec_imulhu ..) _ fun _ _ => rfl, completes_imad d a b g h,
    completes_vec2 (exec_land ..) _ fun _ _ => rfl, completes_vec2 (exec_lor ..) _ fun _ _ => rfl,
    completes_vec2 (exec_lxor ..) _ fun _ _ => rfl, completes_vec2 (exec_andn ..) _ fun _ _ => rfl,
    completes_vec2 (exec_imin ..) _ fun _ _ => congrArg (LCell.mk · 0) (iminWord_eq _ _),
    completes_vec2 (exec_imax ..) _ fun _ _ => congrArg (LCell.mk · 0) (imaxWord_eq _ _),
    completes_vec2 (exec_umin ..) _ fun _ _ => congrArg (LCell.mk · 0) (uminWord_eq _ _),
    completes_vec2 (exec_umax ..) _ fun _ _ => congrArg (LCell.mk · 0) (umaxWord_eq _ _)⟩

/-- Settles O2: the model's shifts are those of R115, in a lane and in a scalar. -/
theorem registerShifts : Obligations.RegisterShifts := by
  unfold Obligations.RegisterShifts
  intro d a b g h
  exact ⟨completes_vec2 (exec_shl ..) _ fun _ _ => congrArg (LCell.mk · 0) (shlWord_eq_shiftLeft _ _),
    completes_vec2 (exec_shr ..) _ fun _ _ => congrArg (LCell.mk · 0) (shrWord_eq_shiftRight _ _),
    completes_vec2 (exec_sar ..) _ fun _ _ => congrArg (LCell.mk · 0) (sarWord_eq_shiftSigned _ _),
    completes_scl2 (exec_sshl ..) _ fun _ _ => shlWord_eq_shiftLeft _ _,
    completes_scl2 (exec_sshr ..) _ fun _ _ => shrWord_eq_shiftRight _ _,
    completes_scl2 (exec_ssar ..) _ fun _ _ => sarWord_eq_shiftSigned _ _⟩

/-- Settles O3: the counts by recursion on the number of bits, the reversals bit by bit. -/
theorem unaryIntegerResults : Obligations.UnaryIntegerResults := by
  unfold Obligations.UnaryIntegerResults
  intro d a g h
  refine ⟨fun hh => ⟨completes_vec1 (exec_mov ..) hh _ fun _ _ => rfl, completes_vec1 (exec_lnot ..) hh _ fun _ _ => rfl,
    completes_vec1 (exec_neg ..) hh _ fun _ _ => congrArg (LCell.mk · 0) (BitVec.zero_sub _).symm,
    completes_vec1 (exec_iabs ..) hh _ fun _ _ => congrArg (LCell.mk · 0) (iabs_eq _),
    completes_vec1 (exec_popc ..) hh _ fun _ _ => congrArg (fun n => LCell.mk (BitVec.ofNat 32 n) 0) (popcount_eq_bitCount _),
    completes_vec1 (exec_clz ..) hh _ fun _ _ => congrArg (fun n => LCell.mk (BitVec.ofNat 32 n) 0) (leadingZeros_eq_zerosAbove _),
    completes_vec1 (exec_ctz ..) hh _ fun _ _ => congrArg (fun n => LCell.mk (BitVec.ofNat 32 n) 0) (trailingZeros_eq_zerosBelow _),
    ⟨bitReverse, fun x i => bitReverse_getLsbD x, completes_vec1 (exec_brev ..) hh _ fun _ _ => rfl⟩,
    ⟨byteSwap, fun x i => byteSwap_getLsbD x, completes_vec1 (exec_bswap ..) hh _ fun _ _ => rfl⟩⟩, fun hh => ?_⟩
  exact ⟨completes_vec0 (exec_laneid ..) hh _ fun _ _ => rfl, completes_vec0 (exec_fibid ..) hh _ fun _ _ => rfl⟩

/-- Settles O4: the immediate forms, and what R90 makes of the field. -/
theorem immediateResults : Obligations.ImmediateResults := by
  unfold Obligations.ImmediateResults
  refine ⟨fun d a i n j => ?_, fun iss i j v => ?_⟩
  · exact ⟨completes_vecImm (exec_iaddi ..) _ fun _ _ _ => rfl, completes_vecImm (exec_imuli ..) _ fun _ _ _ => rfl,
      completes_vecImm (exec_andi ..) _ fun _ _ _ => rfl, completes_vecImm (exec_ori ..) _ fun _ _ _ => rfl,
      completes_vecImm (exec_xori ..) _ fun _ _ _ => rfl,
      completes_vecImm (exec_shli ..) _ fun _ _ _ => shlWord_eq_shiftLeft _ _,
      completes_vecImm (exec_shri ..) _ fun _ _ _ => shrWord_eq_shiftRight _ _,
      completes_vecImm (exec_sari ..) _ fun _ _ _ => sarWord_eq_shiftSigned _ _,
      completes_vmovi d j, completes_smovi d j, completes_saddi d a i⟩
  · unfold Issue.immB Issue.immC
    exact ⟨fun h => by rw [h]; exact ⟨rfl, rfl⟩, fun h => by rw [h]; exact ⟨rfl, rfl⟩⟩

theorem completes_lea {i : Instr} {d a b : BitVec 7} {g : BitVec 2} {s : Nat} (hx : exec i = leaBy s d a b g) :
    Completes i (leaOf d a b g s) :=
  completes_runWave hx rfl rfl rfl rfl (fun _ => rfl) rfl (fun _ _ _ => rfl)
    (fun iss lanes w _ => acts_writePair d 0 _ rfl (fun l _ _ => by simp [leaOf]) (fun l _ _ => by simp [leaOf]) rfl (fun _ => rfl)
      (fun _ _ => rfl)) (fun _ _ => rfl)

/-- Settles O5. -/
theorem addressArithmetic : Obligations.AddressArithmetic := by
  unfold Obligations.AddressArithmetic
  exact fun d a b g => ⟨completes_lea (exec_lea2 d a b g), completes_lea (exec_lea3 d a b g)⟩

theorem completes_smov (d a : BitVec 7) : Completes (.smov d a) (scalarABD d [a] (fun _ w => w.sget a.toNat) (fun _ => 0)) :=
  completes_runWave (exec_smov ..) rfl rfl rfl rfl (fun _ => rfl) rfl (fun _ _ _ => rfl)
    (fun _ _ _ _ => acts_sset d.toNat _ rfl rfl (fun _ => rfl) (fun _ _ => rfl)) (fun _ _ => rfl)

/-- Settles O6. -/
theorem scalarIntegerResults : Obligations.ScalarIntegerResults := by
  unfold Obligations.ScalarIntegerResults
  intro d a b
  exact ⟨completes_scl2 (exec_sadd ..) _ fun _ _ => rfl, completes_scl2 (exec_ssub ..) _ fun _ _ => rfl,
    completes_scl2 (exec_smul ..) _ fun _ _ => rfl, completes_scl2 (exec_smulh ..) _ fun _ _ => rfl,
    completes_scl2 (exec_sand ..) _ fun _ _ => rfl, completes_scl2 (exec_sor ..) _ fun _ _ => rfl,
    completes_scl2 (exec_sxor ..) _ fun _ _ => rfl, completes_scl2 (exec_smin ..) _ fun _ _ => iminWord_eq _ _,
    completes_scl2 (exec_smax ..) _ fun _ _ => imaxWord_eq _ _, completes_scl2 (exec_sumin ..) _ fun _ _ => uminWord_eq _ _,
    completes_scl2 (exec_sumax ..) _ fun _ _ => umaxWord_eq _ _, completes_scl2 (exec_sslt ..) _ fun _ _ => sslt_eq _ _,
    completes_smov d a⟩

/-! ### SADDI and its immediate (03 R90; 04 R129) -/

/-- The low word of a value sign-extended to 64 bits is its sign extension to a word. -/
theorem setWidth_signExtend {n : Nat} (x : BitVec n) : (x.signExtend 64).setWidth 32 = x.signExtend 32 := by
  ext k hk
  have inside : k < 64 := by omega
  rw [BitVec.getElem_setWidth, BitVec.getLsbD_signExtend, BitVec.getElem_signExtend, decide_eq_true inside, Bool.true_and]
  by_cases h : k < n
  · rw [if_pos h, dif_pos h, BitVec.getLsbD_eq_getElem]
  · rw [if_neg h, dif_neg h]

theorem immB_setWidth_of_none {iss : Issue} (h : iss.ext = none) (i : BitVec 11) : (iss.immB i).setWidth 32 = i.signExtend 32 := by
  rw [Issue.immB, h]
  exact setWidth_signExtend i

theorem immB_setWidth_of_some {iss : Issue} {v : BitVec 25} (h : iss.ext = some v) (i : BitVec 11) :
    (iss.immB i).setWidth 32 = (v ++ i : BitVec 36).setWidth 32 := by
  rw [Issue.immB, h]
  exact (setWidth_signExtend _).trans (BitVec.signExtend_eq_setWidth_of_le _ (by decide))

theorem eq_of_setWave_eq {s : State} {k : Nat} {w v : Wave} (h : s.setWave k w = s.setWave k v) : w = v := by
  have same := congrArg (fun t => t.waves.find? k) h
  simpa using same

/-- Completing an issue leaves registers and flags as the instruction's own part left them. -/
theorem retire_finish_keeps (s : State) (iss : Issue) (w : Wave) :
    ∃ w', s.retire iss (w.finish iss) = s.setWave iss.wave w' ∧ w'.regs = w.regs ∧ w'.fsr = w.fsr := by
  obtain ⟨r, sk, cp, tx, wt, hret, -⟩ := retire_cases s iss (w.finish iss)
  obtain ⟨fs, hf⟩ := finish_eq w iss
  exact ⟨_, hret, by rw [hf]; rfl, by rw [hf]; rfl⟩

/-- The checks of SADDI (01 R32). -/
theorem asks_saddi (d a : BitVec 7) (i : BitVec 11) : Asks (.saddi d a i) { guard := none, ops := [.scl d 1, .scl a 1] } :=
  .runHold ((exec_saddi ..).trans (runWave_eq_runHold ..))

/-- Settles O52: the effect of `completes_saddi`, and the first check that a scalar outside the window fails. -/
theorem scalarAddImmediate : Obligations.ScalarAddImmediate := by
  unfold Obligations.ScalarAddImmediate
  refine fun d a i s iss w => ⟨fun lanes h => ?_, fun hc hw hb hn => ?_⟩
  · obtain ⟨w', hexec, same, counters, -, scalars, -, fibres, -⟩ := completes_saddi d a i s iss w lanes h trivial
    obtain ⟨w'', hret, hregs, hfsr⟩ := retire_finish_keeps s iss (w.sset d.toNat (w.sget a.toNat + immWord i iss))
    have ran := h.runWave (p := { guard := none, ops := [.scl d 1, .scl a 1] }) rfl rfl nofun rfl
      (fun iss _ w => w.sset d.toNat (w.sget a.toNat + immWord i iss))
    obtain rfl : w'' = w' := eq_of_setWave_eq (Host.Outcome.next.inj ((congrArg _ hret).symm.trans (ran.symm.trans hexec)))
    refine ⟨w'', hexec, ?_, fun n hn => ?_, hregs, hfsr, same, counters, fun l hl => ?_⟩
    · have sum : w''.scalar (w.sb + d.toNat) = w.scalar (w.sb + a.toNat) + (iss.immB i).setWidth 32 := by
        rw [scalars]
        simp [scalarABD, SMap.find?_cons, Wave.sget]
      rw [sum]
      cases hext : iss.ext with
      | none => rw [immB_setWidth_of_none hext]
      | some v => rw [immB_setWidth_of_some hext]
    · rw [scalars]
      simp [scalarABD, SMap.find?_cons, Ne.symm hn]
    · rw [fibres l hl]
      simp [scalarABD]
  · refine (asks_saddi d a i).exec_of_trap hc hw (enter_of_bad hb rfl ?_)
    simpa [Opnd.bad] using hn

end Sys2Proof.Machine

/-! Compares, predicate logic, predicate moves and votes (04 R122 to R127). -/

namespace Sys2Proof.Machine

/-! ### Compares (04 R122 to R124) -/

/-- The conditions of every accepted code as the table of R123 gives them. -/
theorem condHolds_eq_conditionHolds {c : Nat} (hc : c < 13) (o : Option Ordering) : condHolds c o = conditionHolds c o := by
  cases o <;> interval_cases c <;> rfl

/-- Two numbers are unordered when one is NaN. -/
theorem cmp_isNone (x y : XR) : (x.cmp y).isNone = (x.isNan || y.isNan) := by
  cases x <;> cases y <;> rfl

/-- LT to GE raise invalid where some pair has a NaN (04 R123). -/
theorem when_condInvalid (c : Nat) (vs : List (XR × XR)) :
    Flags.when ((vs.map (fun v => v.1.cmp v.2)).any (condInvalid c)) Flags.invalid =
      if 2 ≤ c ∧ c ≤ 5 ∧ vs.any (fun v => v.1.isNan || v.2.isNan) then Flags.invalid else 0 := by
  refine if_congr ?_ rfl rfl
  simp only [List.any_map, List.any_eq_true, Function.comp_apply, condInvalid, cmp_isNone, Bool.and_eq_true, decide_eq_true_eq]
  exact ⟨fun ⟨v, hv, ⟨hn, h2⟩, h5⟩ => ⟨h2, h5, v, hv, hn⟩, fun ⟨h2, h5, v, hv, hn⟩ => ⟨v, hv, ⟨hn, h2⟩, h5⟩⟩

theorem completes_cmp2 {i : Instr} {f : Word → Word → Ordering} {c : BitVec 4} {p : BitVec 3} {a b : BitVec 7} {g : BitVec 2}
    (hx : exec i = cmp2 f c p a b g) (hc : c.toNat < 6) : Completes i (compareAB c p a b g f) :=
  completes_runWave hx rfl rfl rfl (decide_eq_false (Nat.not_le.2 hc)) (fun _ => rfl) rfl (fun _ _ _ => rfl)
    (fun _ _ _ _ => acts_mapFibs _ rfl rfl (fun _ => rfl) fun _ x _ => congrArg (x.setPred p.toNat) (condHolds_eq hc _).symm)
    (fun _ _ => rfl)

theorem completes_fcmp2 {i : Instr} {t : BitVec 6} {vals : Word → Word → List (XR × XR)} {c : BitVec 4} {p : BitVec 3} {a b : BitVec 7}
    {g : BitVec 2} (hx : exec i = fcmp2 t vals c p a b g) (hc : c.toNat < 13) : Completes i (compareFloat t c p a b g vals) := by
  refine completes_runWave hx rfl rfl rfl (decide_eq_false (Nat.not_le.2 hc)) (fun _ => rfl) rfl
    (fun w lanes ht => both_none (checkSrc_none ht.1) (checkSrc_none ht.2)) (fun iss lanes w _ => ?_) (fun _ _ => rfl)
  refine Acts.raise (fl := (compareFloat t c p a b g vals).flags) _ ?_ rfl fun k => ?_
  · refine acts_mapFibs _ rfl rfl (fun _ => rfl) fun l x _ => congrArg (x.setPred p.toNat) ?_
    simp only [List.all_map, Function.comp_def, condHolds_eq_conditionHolds hc]
  · simp only [flagsOver_getLsbD, when_condInvalid]
    rfl

/-- The two F16 elements of a register (02 R56). -/
theorem elemCode_halves (x : Word) : elemCode 16 0 x = x.toNat % 65536 ∧ elemCode 16 1 x = x.toNat / 65536 := by
  have := x.isLt
  exact ⟨by simp [elemCode], by simp only [elemCode]; omega⟩

theorem hcmp_pairs (x y : Word) : (List.range 2).map (fun e => (f16 (elemCode 16 e x), f16 (elemCode 16 e y))) =
    [(f16 (x.toNat % 65536), f16 (y.toNat % 65536)), (f16 (x.toNat / 65536), f16 (y.toNat / 65536))] := by
  obtain ⟨x0, x1⟩ := elemCode_halves x
  obtain ⟨y0, y1⟩ := elemCode_halves y
  rw [← x0, ← x1, ← y0, ← y1]
  rfl

theorem exec_hcmp_eq_fcmp2 (c : BitVec 4) (p : BitVec 3) (a b : BitVec 7) (g : BitVec 2) : exec (.hcmp c p a b g) = fcmp2 2 (fun x y =>
    [(f16 (x.toNat % 65536), f16 (y.toNat % 65536)), (f16 (x.toNat / 65536), f16 (y.toNat / 65536))]) c p a b g := by
  rw [exec_hcmp, execHcmp, funext₂ hcmp_pairs]

/-- Settles O12: the integer and the floating compares, and ICMPI. -/
theorem compareResults : Obligations.CompareResults := by
  unfold Obligations.CompareResults
  exact fun c p a b g i => ⟨fun hc => ⟨completes_cmp2 (exec_icmp ..) hc, completes_cmp2 (exec_ucmp ..) hc, completes_icmpi a i hc p⟩,
    fun hc => ⟨completes_fcmp2 (exec_fcmp ..) hc, completes_fcmp2 (exec_hcmp_eq_fcmp2 ..) hc⟩⟩

/-! ### Predicate logic and moves (04 R125, R126) -/

theorem completes_plog (d : BitVec 3) (n : BitVec 1) (a : BitVec 3) {o : BitVec 2} (ho : o ≠ 3) (m : BitVec 1) (b : BitVec 3) (g : BitVec 2) :
    Completes (.plog d n a o m b g) (predEffect g (fun _ _ w l f =>
      f.setPred d.toNat (logicOf o ((w.fib l).pred a.toNat != (n == 1)) ((w.fib l).pred b.toNat != (m == 1))))) :=
  completes_runWave (exec_plog ..) rfl rfl rfl (beq_false_of_ne ho) (fun _ => rfl) rfl (fun _ _ _ => rfl)
    (fun _ _ _ _ => acts_mapFibs _ rfl rfl (fun _ => rfl) fun _ _ _ => rfl) (fun _ _ => rfl)

/-- Bit 3 of a field below 16: PMOV inverts the predicate it moves (04 R126). -/
theorem getLsbD_three_of_lt {a : BitVec 7} (ha : a.toNat < 16) : a.getLsbD 3 = decide (8 ≤ a.toNat) := by
  rw [BitVec.getLsbD, Nat.testBit_eq_decide_div_mod_eq]
  exact decide_eq_decide.2 (by omega)

theorem completes_pmov_pred {d a : BitVec 7} (hd : d.toNat < 8) (ha : a.toNat < 16) (g : BitVec 2) :
    Completes (.pmov d a 0 g) (predEffect g (fun _ _ w l f =>
      f.setPred d.toNat ((w.fib l).pred (a.toNat % 8) != decide (8 ≤ a.toNat)))) :=
  completes_runWave (exec_pmov ..) rfl rfl rfl (by simp [pmovOk, hd, ha]) (fun _ => rfl) rfl (fun _ _ _ => rfl)
    (fun iss lanes w _ => acts_mapFibs (fun l f => f.setPred d.toNat ((w.fib l).pred (a.toNat % 8) != a.getLsbD 3)) rfl rfl
      (fun _ => rfl) fun l f _ => by rw [getLsbD_three_of_lt ha]; rfl) (fun _ _ => rfl)

theorem completes_pmov_word (d : BitVec 7) (g : BitVec 2) :
    Completes (.pmov d 0 1 g) (laneResult d g [] (fun _ _ w l => ⟨((w.fib l).preds ||| 1).setWidth 32, 0⟩)) :=
  completes_runWave (exec_pmov ..) rfl rfl rfl rfl (fun _ => rfl) rfl (fun _ _ _ => rfl)
    (fun _ _ w _ => acts_writeField d (fun l => ⟨((w.fib l).preds ||| 1).setWidth 32, 0⟩) rfl (fun _ _ _ => rfl) rfl (fun _ => rfl)
      (fun _ _ => rfl)) (fun _ _ => rfl)

theorem completes_pmov_from (a : BitVec 7) (g : BitVec 2) : Completes (.pmov 0 a 2 g)
    (readsEffect g [.src a] (fun w l f => { f with preds := ((w.src a l).val.setWidth 8 &&& 0xFE) ||| 1 })) :=
  completes_runWave (exec_pmov ..) rfl rfl rfl rfl (fun _ => rfl) rfl (fun _ _ _ => rfl)
    (fun _ _ w _ => acts_mapFibs (fun l f => { f with preds := ((w.src a l).val.setWidth 8 &&& 0xFE) ||| 1 }) rfl rfl (fun _ => rfl)
      fun _ _ _ => rfl) (fun _ _ => rfl)

/-! ### Votes (04 R127) -/

theorem any_lanesOf (m : Word) (x : Nat → Bool) : (lanesOf m).any x = (List.range 32).any (fun l => m.getLsbD l && x l) := by
  rw [lanesOf, List.any_filter, laneNums]

theorem all_lanesOf (m : Word) (x : Nat → Bool) : (lanesOf m).all x = (List.range 32).all (fun l => !m.getLsbD l || x l) := by
  rw [lanesOf, List.all_filter, laneNums]

/-- The number with a 1 at each selected place below n. -/
theorem sum_two_pow_spec (p : Nat → Bool) (n : Nat) :
    let s := ((List.range n).map (fun l => if p l then 2 ^ l else 0)).sum
    s < 2 ^ n ∧ ∀ i, s.testBit i = (decide (i < n) && p i) := by
  induction n with
  | zero => simp
  | succ n ih =>
    obtain ⟨below, bits⟩ := ih
    simp only [List.range_succ, List.map_append, List.map_cons, List.map_nil, List.sum_append, List.sum_singleton]
    generalize ((List.range n).map (fun l => if p l then 2 ^ l else 0)).sum = s at below bits
    have top : (if p n then 2 ^ n else 0) = 2 ^ n * (p n).toNat := by cases p n <;> simp
    rw [Nat.add_comm, top]
    refine ⟨?_, fun i => ?_⟩
    · have one : (p n).toNat ≤ 1 := Bool.toNat_le _
      have scaled := Nat.mul_le_mul_left (2 ^ n) one
      omega
    · rw [Nat.testBit_two_pow_mul_add _ below, bits, Nat.testBit_bool_toNat]
      by_cases h : i < n
      · simp [h, Nat.lt_succ_of_lt h]
      · by_cases he : i = n
        · simp [he]
        · have above : ¬ i < n + 1 := by omega
          simp [h, above]
          omega

theorem foldl_laneBit_eq_ballotOf (lanes : Word) (x : Nat → Bool) :
    (lanesOf lanes).foldl (fun b l => if x l then b ||| laneBit l else b) 0 = ballotOf lanes x := by
  refine BitVec.eq_of_getLsbD_eq fun l hl => ?_
  obtain ⟨-, bits⟩ := sum_two_pow_spec (fun l => lanes.getLsbD l && x l) 32
  rw [getLsbD_foldMask x _ (fun l h => (mem_lanesOf.1 h).1), ballotOf, BitVec.getLsbD_ofNat, bits]
  simp [mem_lanesOf, hl]

/-- VOTE's mode as the model writes it. -/
theorem voteOf_eq (k : BitVec 2) (lanes : Word) (x : Nat → Bool) : voteOf k lanes x =
    if k = 0 then (lanesOf lanes).any x else if k = 1 then (lanesOf lanes).all x else (lanesOf lanes).all x || !(lanesOf lanes).any x := by
  rw [any_lanesOf, all_lanesOf]
  rfl

theorem completes_vote {k : BitVec 2} (hk : k ≠ 2) {d : BitVec 7} (hd : d.toNat < 8) (n : BitVec 1) (q : BitVec 3) (g : BitVec 2) :
    Completes (.vote d n q k g) (predEffect g (fun _ lanes w _ f =>
      f.setPred d.toNat (voteOf k lanes (fun j => (w.fib j).pred q.toNat != (n == 1))))) := by
  refine completes_runWave (exec_vote ..) rfl (if_neg hk) rfl (by simp [Nat.not_le.2 hd]) (fun _ => rfl) rfl (fun _ _ _ => rfl)
    (fun iss lanes w _ => ?_) (fun _ _ => rfl)
  simp only [if_neg hk, ← voteOf_eq]
  exact acts_mapFibs _ rfl rfl (fun _ => rfl) fun _ _ _ => rfl

theorem completes_ballot (d : BitVec 7) (n : BitVec 1) (q : BitVec 3) (g : BitVec 2) : Completes (.vote d n q 2 g)
    (laneResult d g [] (fun _ lanes w _ => ⟨ballotOf lanes (fun j => (w.fib j).pred q.toNat != (n == 1)), 0⟩)) := by
  refine completes_runWave (exec_vote ..) rfl rfl rfl rfl (fun _ => rfl) rfl (fun _ _ _ => rfl) (fun iss lanes w _ => ?_) (fun _ _ => rfl)
  simp only [if_true, foldl_laneBit_eq_ballotOf]
  exact acts_writeField d _ rfl (fun _ _ _ => rfl) rfl (fun _ => rfl) (fun _ _ => rfl)

/-- Settles O13, one instruction and mode at a time. -/
theorem predicateResults : Obligations.PredicateResults := by
  unfold Obligations.PredicateResults
  exact fun e n q o m r g d a => ⟨fun ho => completes_plog e n q ho m r g, fun hd ha => completes_pmov_pred hd ha g,
    completes_pmov_word d g, completes_pmov_from a g, fun _ hk hd => completes_vote hk hd n q g, completes_ballot d n q g⟩

end Sys2Proof.Machine

/-! FORK and FEND (04 R135 to R137; 01 R8 to R10, R13). -/

namespace Sys2Proof.Machine

/-! ### What FORK changes of its wave (04 R135) -/

/-- Two waves that differ in what FORK changes: registers, fibres, the bytes of lanes' own windows and the latch. -/
def OnlyForked (w w2 : Wave) : Prop := ∃ rs fs pr la, w2 = { w with regs := rs, fibres := fs, priv := pr, latch := la }

theorem OnlyForked.refl (w : Wave) : OnlyForked w w := ⟨w.regs, w.fibres, w.priv, w.latch, rfl⟩

theorem OnlyForked.trans {w w1 w2 : Wave} (h1 : OnlyForked w w1) (h2 : OnlyForked w1 w2) : OnlyForked w w2 := by
  obtain ⟨rs, fs, pr, la, rfl⟩ := h1
  obtain ⟨rs', fs', pr', la', rfl⟩ := h2
  exact ⟨rs', fs', pr', la', rfl⟩

theorem OnlyForked.wb {w w2 : Wave} (h : OnlyForked w w2) : w2.wb = w.wb := by
  obtain ⟨rs, fs, pr, la, rfl⟩ := h
  rfl

theorem OnlyForked.need {w w2 : Wave} (h : OnlyForked w w2) : w2.need = w.need := by
  obtain ⟨rs, fs, pr, la, rfl⟩ := h
  rfl

theorem OnlyForked.setCell (w : Wave) (i : Nat) (x : VCell) : OnlyForked w (w.setCell i x) := ⟨_, w.fibres, w.priv, w.latch, rfl⟩

/-- A lane whose fibre and cells are as before. -/
structure LaneKept (w w2 : Wave) (k : Nat) : Prop where
  fib : w2.fib k = w.fib k
  cell : ∀ n, w2.cell (cellAt n k) = w.cell (cellAt n k)

theorem LaneKept.trans {w w1 w2 : Wave} {k : Nat} (h1 : LaneKept w w1 k) (h2 : LaneKept w1 w2 k) : LaneKept w w2 k :=
  ⟨h2.fib.trans h1.fib, fun n => (h2.cell n).trans (h1.cell n)⟩

/-! ### The fibre that one lane starts -/

/-- The fibre that lane l starts in lane c (04 R135; log entry 20). -/
def Wave.child (w : Wave) (target : Addr) (l c : Nat) : Fibre :=
  ⟨true, target, target, (w.fib l).preds, (w.fib c).gen + 1, none, 0, .none, 0, true, false⟩

/-- Lane c has got the fibre that lane l starts, its registers and both identifiers. -/
structure Forks (w w2 : Wave) (d : BitVec 7) (target : Addr) (l c : Nat) : Prop where
  fib : w2.fib c = w.child target l c
  childId : w2.cell (cellAt (w.wb + d.toNat) l) = ⟨BitVec.ofNat 32 (c + 32 * ((w.fib c).gen + 1).toNat), 0, false⟩
  parentId : w2.cell (cellAt (w.wb + d.toNat) c) = ⟨BitVec.ofNat 32 (l + 32 * (w.fib l).gen.toNat), 0, false⟩
  copies : ∀ n, n < w.need → n ≠ w.wb + d.toNat → w2.cell (cellAt n c) = w.cell (cellAt n l)

theorem Forks.after {w w1 w2 : Wave} {d : BitVec 7} {target : Addr} {l c : Nat} (h : Forks w1 w2 d target l c) (only : OnlyForked w w1)
    (hl : LaneKept w w1 l) (hc : LaneKept w w1 c) : Forks w w2 d target l c := by
  obtain ⟨fib, childId, parentId, copies⟩ := h
  rw [only.wb] at childId parentId copies
  rw [only.need] at copies
  rw [hc.fib] at childId
  rw [hl.fib] at parentId
  refine ⟨?_, childId, parentId, fun n hn hd => (copies n hn hd).trans (hl.cell n)⟩
  rw [fib, Wave.child, hl.fib, hc.fib]
  rfl

theorem Forks.before {w w1 w2 : Wave} {d : BitVec 7} {target : Addr} {l c : Nat} (h : Forks w w1 d target l c)
    (hl : LaneKept w1 w2 l) (hc : LaneKept w1 w2 c) : Forks w w2 d target l c :=
  ⟨hc.fib.trans h.fib, (hl.cell _).trans h.childId, (hc.cell _).trans h.parentId, fun n hn hd => (hc.cell n).trans (h.copies n hn hd)⟩

/-- The first m registers of lane l copied to lane c. -/
def Wave.copyLane (w : Wave) (l c m : Nat) : Wave :=
  (List.range m).foldl (fun w n => w.setCell (cellAt n c) (w.cell (cellAt n l))) w

theorem copyLane_succ (w : Wave) (l c m : Nat) :
    w.copyLane l c (m + 1) = (w.copyLane l c m).setCell (cellAt m c) ((w.copyLane l c m).cell (cellAt m l)) := by
  simp [Wave.copyLane, List.range_succ]

theorem copyLane_eq (w : Wave) (l c m : Nat) : ∃ rs, w.copyLane l c m = { w with regs := rs } := by
  induction m with
  | zero => exact ⟨w.regs, rfl⟩
  | succ m ih =>
    obtain ⟨rs, h⟩ := ih
    exact ⟨_, by rw [copyLane_succ, h]; rfl⟩

theorem copyLane_cell (w : Wave) {l c : Nat} (hl : l < 32) (hc : c < 32) (hlc : l ≠ c) (m n : Nat) {k : Nat} (hk : k < 32) :
    (w.copyLane l c m).cell (cellAt n k) = if k = c ∧ n < m then w.cell (cellAt n l) else w.cell (cellAt n k) := by
  induction m generalizing n k with
  | zero => simp [Wave.copyLane]
  | succ m ih =>
    rw [copyLane_succ, setCell_cell, ih m hl, ih n hk]
    simp only [cellAt_inj hk hc, hlc, false_and, if_false]
    by_cases hkc : k = c
    · rcases Nat.lt_trichotomy n m with h | h | h
      · simp [hkc, h, Nat.ne_of_lt h, Nat.lt_succ_of_lt h]
      · simp [h, hkc]
      · simp [hkc, Nat.ne_of_gt h, Nat.not_lt.2 h.le, Nat.not_lt.2 (Nat.succ_le_of_lt h)]
    · simp [hkc]

/-- The wave in which lane c has the new fibre and its copies, but no identifier yet. -/
def Wave.started (w : Wave) (target : Addr) (l c : Nat) : Wave :=
  { (w.copyLane l c w.need).setFib c (w.child target l c) with
    priv := w.priv.filter (fun (x : Nat × Bool) => x.1 / 65536 != c)
    latch := w.latch.map (fun (e : Nat × LatchEntry) => (e.1, { e.2 with lanes := e.2.lanes.del c })) }

theorem started_fib (w : Wave) (target : Addr) (l c k : Nat) :
    (w.started target l c).fib k = if k = c then w.child target l c else w.fib k := by
  obtain ⟨rs, h⟩ := copyLane_eq w l c w.need
  unfold Wave.started
  rw [h]
  exact setFib_fib { w with regs := rs } c k (w.child target l c)

theorem started_cell (w : Wave) (target : Addr) (l c i : Nat) : (w.started target l c).cell i = (w.copyLane l c w.need).cell i := rfl

section
variable (w : Wave) (d : BitVec 7) (target : Addr) (l c : Nat)

theorem forkOne_eq : w.forkOne d target l c =
    ((w.started target l c).setCell (cellAt (w.wb + d.toNat) c) ⟨(w.started target l c).fibId l, 0, false⟩).setCell
      (cellAt (w.wb + d.toNat) l) ⟨(w.started target l c).fibId c, 0, false⟩ := by
  obtain ⟨rs, h⟩ := copyLane_eq w l c w.need
  unfold Wave.started
  unfold Wave.copyLane at h ⊢
  rw [h]
  unfold Wave.forkOne
  dsimp only
  rw [h]
  rfl

theorem forkOne_onlyForked : OnlyForked w (w.forkOne d target l c) := by
  obtain ⟨rs, h⟩ := copyLane_eq w l c w.need
  rw [forkOne_eq]
  refine .trans ?_ ((OnlyForked.setCell _ _ _).trans (.setCell _ _ _))
  exact ⟨rs, _, _, _, by unfold Wave.started; rw [h]; rfl⟩

theorem forkOne_fib (k : Nat) : (w.forkOne d target l c).fib k = if k = c then w.child target l c else w.fib k := by
  rw [forkOne_eq]
  exact started_fib w target l c k

variable {l c} (hl : l < 32) (hc : c < 32) (hlc : l ≠ c)
include hl hc hlc

theorem forkOne_cell (n : Nat) {k : Nat} (hk : k < 32) : (w.forkOne d target l c).cell (cellAt n k) =
    if n = w.wb + d.toNat ∧ k = l then ⟨(w.started target l c).fibId c, 0, false⟩
    else if n = w.wb + d.toNat ∧ k = c then ⟨(w.started target l c).fibId l, 0, false⟩
    else if k = c ∧ n < w.need then w.cell (cellAt n l) else w.cell (cellAt n k) := by
  rw [forkOne_eq, setCell_cell, setCell_cell, started_cell, copyLane_cell w hl hc hlc w.need n hk]
  simp only [cellAt_inj hk hl, cellAt_inj hk hc]

theorem forkOne_kept {k : Nat} (hk : k < 32) (hkl : k ≠ l) (hkc : k ≠ c) : LaneKept w (w.forkOne d target l c) k :=
  ⟨by rw [forkOne_fib, if_neg hkc], fun n => by rw [forkOne_cell w d target hl hc hlc n hk]; simp [hkl, hkc]⟩

theorem forkOne_forks : Forks w (w.forkOne d target l c) d target l c := by
  have cell := forkOne_cell w d target hl hc hlc
  refine ⟨by rw [forkOne_fib, if_pos rfl], ?_, ?_, fun n hn hd => ?_⟩
  · rw [cell _ hl, if_pos ⟨rfl, rfl⟩, Wave.fibId, started_fib, if_pos rfl]
    rfl
  · rw [cell _ hc, if_neg fun h => hlc h.2.symm, if_pos ⟨rfl, rfl⟩, Wave.fibId, started_fib, if_neg hlc]
  · rw [cell _ hc, if_neg fun h => hd h.1, if_neg fun h => hd h.1, if_pos ⟨rfl, hn⟩]

end

/-! ### The lanes of the batch in order -/

/-- The register of a lane that gets no lane slot. -/
def Wave.noSlot (w : Wave) (d : BitVec 7) (l : Nat) : Wave := w.setCell (cellAt (w.wb + d.toNat) l) ⟨0xFFFFFFFF, 0, false⟩

theorem noSlot_kept (w : Wave) (d : BitVec 7) {l k : Nat} (hl : l < 32) (hk : k < 32) (hkl : k ≠ l) : LaneKept w (w.noSlot d l) k :=
  ⟨rfl, fun n => by rw [Wave.noSlot, setCell_cell, if_neg fun h => hkl ((cellAt_inj hk hl).1 h).2]⟩

section
variable (d : BitVec 7) (target : Addr)

theorem forkAll_onlyForked (w : Wave) (ls cs : List Nat) : OnlyForked w (w.forkAll d target ls cs) := by
  induction ls generalizing w cs with
  | nil => cases cs <;> exact .refl w
  | cons l ls ih =>
    cases cs with
    | nil => exact .trans (.setCell _ _ _) (ih (w.noSlot d l) [])
    | cons c cs => exact .trans (forkOne_onlyForked w d target l c) (ih _ cs)

theorem forkAll_fib (w : Wave) (ls cs : List Nat) {k : Nat} (hk : k ∉ cs) : (w.forkAll d target ls cs).fib k = w.fib k := by
  induction ls generalizing w cs with
  | nil => cases cs <;> rfl
  | cons l ls ih =>
    cases cs with
    | nil => exact ih (w.noSlot d l) [] hk
    | cons c cs =>
      obtain ⟨hkc, hks⟩ := not_or.1 (mt List.mem_cons.2 hk)
      exact (ih _ cs hks).trans (by rw [forkOne_fib, if_neg hkc])

/-- The forking lanes and the lane slots they may get are lanes, each named once. -/
structure ForkLanes (ls cs : List Nat) : Prop where
  lanes : ∀ l ∈ ls, l < 32
  slots : ∀ c ∈ cs, c < 32
  lanesOnce : ls.Nodup
  slotsOnce : cs.Nodup
  apart : ∀ l ∈ ls, l ∉ cs

theorem ForkLanes.tailLanes {l : Nat} {ls cs : List Nat} (h : ForkLanes (l :: ls) cs) : ForkLanes ls cs where
  lanes := fun k hk => h.lanes k (List.mem_cons_of_mem _ hk)
  slots := h.slots
  lanesOnce := (List.nodup_cons.1 h.lanesOnce).2
  slotsOnce := h.slotsOnce
  apart := fun k hk => h.apart k (List.mem_cons_of_mem _ hk)

theorem ForkLanes.tailSlots {c : Nat} {ls cs : List Nat} (h : ForkLanes ls (c :: cs)) : ForkLanes ls cs where
  lanes := h.lanes
  slots := fun k hk => h.slots k (List.mem_cons_of_mem _ hk)
  lanesOnce := h.lanesOnce
  slotsOnce := (List.nodup_cons.1 h.slotsOnce).2
  apart := fun k hk hc => h.apart k hk (List.mem_cons_of_mem _ hc)

variable {w : Wave} {ls cs : List Nat} (h : ForkLanes ls cs)
include h

/-- A lane that neither forks nor is a slot to take is left alone. -/
theorem forkAll_kept {k : Nat} (hk : k < 32) (hls : k ∉ ls) (hcs : k ∉ cs) : LaneKept w (w.forkAll d target ls cs) k := by
  induction ls generalizing w cs with
  | nil => cases cs <;> exact ⟨rfl, fun _ => rfl⟩
  | cons l ls ih =>
    have hl : l < 32 := h.lanes l (List.mem_cons_self ..)
    obtain ⟨hkl, hkls⟩ := not_or.1 (mt List.mem_cons.2 hls)
    cases cs with
    | nil => exact (noSlot_kept w d hl hk hkl).trans (ih h.tailLanes hkls hcs)
    | cons c cs =>
      obtain ⟨hkc, hkcs⟩ := not_or.1 (mt List.mem_cons.2 hcs)
      have hlc : l ≠ c := fun e => h.apart l (List.mem_cons_self ..) (e ▸ List.mem_cons_self ..)
      exact (forkOne_kept w d target hl (h.slots c (List.mem_cons_self ..)) hlc hk hkl hkc).trans (ih h.tailLanes.tailSlots hkls hkcs)

/-- The j-th forking lane starts a fibre in the j-th slot. -/
theorem forkAll_forks {j l c : Nat} (hj : ls[j]? = some l) (hc : cs[j]? = some c) : Forks w (w.forkAll d target ls cs) d target l c := by
  induction ls generalizing w cs j with
  | nil => cases hj
  | cons x ls ih =>
    cases cs with
    | nil => cases hc
    | cons y cs =>
      have hx : x < 32 := h.lanes x (List.mem_cons_self ..)
      have hy : y < 32 := h.slots y (List.mem_cons_self ..)
      have x_apart := h.apart x (List.mem_cons_self ..)
      have y_apart : y ∉ ls := fun hm => h.apart y (List.mem_cons_of_mem _ hm) (List.mem_cons_self ..)
      have hxy : x ≠ y := fun e => x_apart (e ▸ List.mem_cons_self ..)
      have rest := h.tailLanes.tailSlots
      obtain ⟨x_once, -⟩ := List.nodup_cons.1 h.lanesOnce
      obtain ⟨y_once, -⟩ := List.nodup_cons.1 h.slotsOnce
      cases j with
      | zero =>
        cases hj
        cases hc
        exact (forkOne_forks w d target hx hy hxy).before
          (forkAll_kept d target rest hx x_once fun hm => x_apart (List.mem_cons_of_mem _ hm)) (forkAll_kept d target rest hy y_apart y_once)
      | succ j =>
        have hl : l ∈ ls := List.mem_of_getElem? hj
        have hcm : c ∈ cs := List.mem_of_getElem? hc
        have kept {k : Nat} := forkOne_kept w d target hx hy hxy (k := k)
        refine (ih rest hj hc).after (forkOne_onlyForked w d target x y) (kept (rest.lanes l hl) ?_ ?_) (kept (rest.slots c hcm) ?_ ?_)
        · exact fun e => x_once (e ▸ hl)
        · exact fun e => y_apart (e ▸ hl)
        · exact fun e => x_apart (List.mem_cons_of_mem _ (e ▸ hcm))
        · exact fun e => y_once (e ▸ hcm)

/-- A forking lane for which no slot is left gets 0xFFFF_FFFF. -/
theorem forkAll_noSlot {j l : Nat} (hj : ls[j]? = some l) (hc : cs[j]? = none) :
    (w.forkAll d target ls cs).cell (cellAt (w.wb + d.toNat) l) = ⟨0xFFFFFFFF, 0, false⟩ := by
  induction ls generalizing w cs j with
  | nil => cases hj
  | cons x ls ih =>
    cases cs with
    | nil =>
      cases j with
      | zero =>
        cases hj
        have hl : l < 32 := h.lanes l (List.mem_cons_self ..)
        have rest := forkAll_kept d target (w := w.noSlot d l) h.tailLanes hl (List.nodup_cons.1 h.lanesOnce).1 List.not_mem_nil
        exact (rest.cell _).trans (by rw [Wave.noSlot, setCell_cell, if_pos rfl])
      | succ j => exact ih (w := w.noSlot d x) h.tailLanes hj rfl
    | cons y cs =>
      cases j with
      | zero => cases hc
      | succ j =>
        have later := ih (w := w.forkOne d target x y) h.tailLanes.tailSlots hj hc
        rwa [(forkOne_onlyForked w d target x y).wb] at later

end

/-! ### The issue of FORK (04 R135, R136) -/

theorem mem_freeLanes {w : Wave} {c : Nat} : c ∈ w.freeLanes ↔ c < 32 ∧ (w.fib c).live = false := by
  simp [Wave.freeLanes, laneNums]

theorem forkLanes_of_live {w : Wave} {lanes : Word} (h : ∀ l, l < 32 → lanes.getLsbD l = true → (w.fib l).live = true) :
    ForkLanes (lanesOf lanes) w.freeLanes where
  lanes := fun _ hl => (mem_lanesOf.1 hl).1
  slots := fun _ hc => (mem_freeLanes.1 hc).1
  lanesOnce := lanesOf_nodup lanes
  slotsOnce := List.Nodup.filter _ List.nodup_range
  apart := fun l hl hc => by
    obtain ⟨hlt, hm⟩ := mem_lanesOf.1 hl
    exact Bool.false_ne_true ((mem_freeLanes.1 hc).2.symm.trans (h l hlt hm))

/-- Completing the issue of a wave that FORK has changed. -/
theorem OnlyForked.retire {w w1 : Wave} (h : OnlyForked w w1) (s : State) (iss : Issue) :
    ∃ w', s.retire iss (w1.finish iss) = s.setWave iss.wave w' ∧ SameWave w w' ∧ SameCounters w w' ∧ w'.scalars = w.scalars ∧
      w'.fsr = w.fsr ∧ (∀ l, w'.fib l = (w1.finish iss).fib l) ∧ ∀ k, w'.cell k = w1.cell k := by
  obtain ⟨rs, fs, pr, la, rfl⟩ := h
  obtain ⟨fs', hf⟩ := finish_eq { w with regs := rs, fibres := fs, priv := pr, latch := la } iss
  obtain ⟨r, sk, cp, tx, wt, hret, hrun⟩ :=
    retire_cases s iss (({ w with regs := rs, fibres := fs, priv := pr, latch := la } : Wave).finish iss)
  rw [hf] at hret hrun ⊢
  exact ⟨_, hret, ⟨rfl, rfl, rfl, rfl, rfl, rfl, rfl, rfl, rfl, rfl, rfl, rfl, rfl, fun hw => (hrun hw).1⟩,
    ⟨rfl, rfl, fun hw => ⟨(hrun hw).2.1, (hrun hw).2.2.1⟩⟩, rfl, rfl, fun _ => rfl, fun _ => rfl⟩

theorem exec_fork_of_issues {d : BitVec 7} {i : BitVec 18} {s : State} {iss : Issue} {w : Wave} {lanes : Word}
    (h : Issues s iss w none [.vec d 1 1] false lanes) (hw : w.forkWaits lanes = false) : exec (.fork d i) s =
      .next (s.retire iss ((w.forkAll d (iss.target (iss.immC i)) (lanesOf lanes) w.freeLanes).finish iss)) := by
  rw [exec_fork, execFork, Issues.runState (p := { guard := none, ops := [.vec d 1 1] }) h rfl rfl nofun rfl]
  simp only [hw, Bool.false_eq_true, if_false]

/-- Settles O19: lane by lane of the batch, by the slot it gets. -/
theorem forkStarts : Obligations.ForkStarts := by
  unfold Obligations.ForkStarts
  intro d i s iss w lanes h hw live
  obtain rfl : lanes = iss.batch := h.passes
  have apart := forkLanes_of_live live
  obtain ⟨w', hret, same, counters, scalars, flags, fib, cell⟩ :=
    (forkAll_onlyForked d (iss.target (iss.immC i)) w (lanesOf iss.batch) w.freeLanes).retire s iss
  refine ⟨w', (exec_fork_of_issues h hw).trans (congrArg _ hret), same, counters, scalars, flags, fun j l hj => ⟨?_, ?_⟩⟩
  · have hl := List.mem_of_getElem? hj
    obtain ⟨hlt, hm⟩ := mem_lanesOf.1 hl
    rw [fib, finish_fib _ _ _ hlt, if_pos hm, forkAll_fib _ _ _ _ _ (apart.apart l hl)]
  · split
    next c hc =>
      obtain ⟨child, childId, parentId, copies⟩ := forkAll_forks d (iss.target (iss.immC i)) (w := w) apart hj hc
      have hcm := List.mem_of_getElem? hc
      have idle : ¬ iss.batch.getLsbD c = true := fun hm => apart.apart c (mem_lanesOf.2 ⟨apart.slots c hcm, hm⟩) hcm
      refine ⟨?_, by rw [cell, childId], by rw [cell, parentId], fun n hn hd => by rw [cell, copies n hn hd]⟩
      rw [fib, finish_fib _ _ _ (apart.slots c hcm), if_neg idle, child]
      rfl
    next hc => rw [cell, forkAll_noSlot d _ apart hj hc]

/-! ### The end of fibres (01 R10) -/

/-- JOIN's release leaves each fibre or marks it released. -/
theorem releaseJoin_fib_cases (w : Wave) {l : Nat} (hl : l < 32) :
    w.releaseJoin.fib l = w.fib l ∨ w.releaseJoin.fib l = (w.fib l).released := by
  rw [releaseJoin_fib w hl]
  exact (ite_eq_or_eq _ _ _).symm

/-- A fibre that ends. -/
def Fibre.ended (f : Fibre) : Fibre := { f with live := false, join := none, owed := 0, bound := .none }

/-- An operation whose batch an ended fibre has left (01 R48). -/
def Op.leftBy (m : Word) (o : Op) : Op := { o with iss := { o.iss with batch := o.iss.batch &&& ~~~m } }

/-- What a register cell is after the fibres of a mask end: undefined in their lanes, unlisted unless EMPTY (01 R37; 02 R52). -/
def Wave.cellLeft (w : Wave) (m : Word) (x : Nat × VCell) : Option (Nat × VCell) :=
  if m.getLsbD (x.1 % 32) then (if x.2.empty then some (x.1, { w.undefined x.1 with empty := true }) else none) else some x

/-- The wave whose fibres of a mask have ended, before any parked fibre goes on. -/
def Wave.afterEnd (w : Wave) (m : Word) : Wave :=
  let w1 := w.mapFibs m (fun _ f => f.ended)
  { w1 with
    epoch := w1.epoch + 1
    ld := w1.ld.map (Op.leftBy m)
    regs := w1.regs.filterMap (({ w1 with epoch := w1.epoch + 1 } : Wave).cellLeft m) }

theorem endFibres_eq (w : Wave) (m : Word) : w.endFibres m = (w.afterEnd m).releaseJoin := rfl

/-- Entries that a change of the list keeps can be read as before, where it renames no key. -/
theorem SMap_find?_filterMap {α : Type} (xs : SMap α) {f : Nat × α → Option (Nat × α)} {j : Nat} (keeps : ∀ v, f (j, v) = some (j, v))
    (keys : ∀ x y, f x = some y → y.1 = x.1) : SMap.find? (xs.filterMap f) j = xs.find? j := by
  induction xs with
  | nil => rfl
  | cons x xs ih =>
    obtain ⟨k, v⟩ := x
    by_cases hk : k = j
    · subst hk
      rw [List.filterMap_cons_some (keeps v), SMap.find?_cons, SMap.find?_cons, if_pos rfl, if_pos rfl]
    · rw [SMap.find?_cons, if_neg hk, ← ih]
      cases hx : f (k, v) with
      | none => rw [List.filterMap_cons_none hx]
      | some y =>
        obtain ⟨k', v'⟩ := y
        have same : k' = k := keys _ _ hx
        rw [List.filterMap_cons_some hx, SMap.find?_cons, if_neg (same ▸ hk)]

section
variable (w : Wave) (m : Word)

/-- The end of fibres changes fibres, registers, the numbering of undefined values and the batches of loads. -/
theorem endFibres_only : ∃ fs rs, w.endFibres m =
    { w with fibres := fs, regs := rs, epoch := w.epoch + 1, ld := w.ld.map (Op.leftBy m) } := by
  obtain ⟨fs, hf⟩ := mapFibs_eq w m (fun _ f => f.ended)
  obtain ⟨fs', hj⟩ := releaseJoin_onlyFibres (w.afterEnd m)
  exact ⟨fs', _, by rw [endFibres_eq, hj, Wave.afterEnd, hf]⟩

theorem afterEnd_fib {l : Nat} (hl : l < 32) : (w.afterEnd m).fib l = if m.getLsbD l then (w.fib l).ended else w.fib l :=
  mapFibs_fib w m _ l hl

theorem endFibres_fib_live {l : Nat} (hl : l < 32) : ((w.endFibres m).fib l).live = ((w.fib l).live && !m.getLsbD l) := by
  have ends : ((w.afterEnd m).fib l).live = ((w.fib l).live && !m.getLsbD l) := by
    rw [afterEnd_fib w m hl]
    cases m.getLsbD l <;> simp [Fibre.ended]
  rw [endFibres_eq, ← ends]
  rcases releaseJoin_fib_cases (w.afterEnd m) hl with h | h <;> rw [h]
  rfl

theorem endFibres_fib_bound_of_mem {l : Nat} (hl : l < 32) (hm : m.getLsbD l = true) : ((w.endFibres m).fib l).bound = .none := by
  have ends : ((w.afterEnd m).fib l).bound = .none := by rw [afterEnd_fib w m hl, if_pos hm]; rfl
  rw [endFibres_eq, ← ends]
  rcases releaseJoin_fib_cases (w.afterEnd m) hl with h | h <;> rw [h]
  rfl

/-- A fibre that goes on keeps binding, predicates and PC. -/
theorem endFibres_fib_of_not_mem {l : Nat} (hl : l < 32) (hm : m.getLsbD l = false) : ((w.endFibres m).fib l).bound = (w.fib l).bound ∧
    ((w.endFibres m).fib l).preds = (w.fib l).preds ∧ ((w.endFibres m).fib l).pc = (w.fib l).pc := by
  have stays : (w.afterEnd m).fib l = w.fib l := by rw [afterEnd_fib w m hl, hm]; rfl
  rw [endFibres_eq, ← stays]
  rcases releaseJoin_fib_cases (w.afterEnd m) hl with h | h <;> rw [h]
  · exact ⟨rfl, rfl, rfl⟩
  · exact ⟨rfl, rfl, rfl⟩

theorem cellLeft_key {x y : Nat × VCell} (h : w.cellLeft m x = some y) : y.1 = x.1 := by
  unfold Wave.cellLeft at h
  split at h
  · split at h
    · cases h; rfl
    · cases h
  · cases h; rfl

theorem endFibres_find?_of_not_mem {l : Nat} (hl : l < 32) (hm : m.getLsbD l = false) (n : Nat) :
    (w.endFibres m).regs.find? (cellAt n l) = w.regs.find? (cellAt n l) := by
  obtain ⟨fs, hf⟩ := mapFibs_eq w m (fun _ f => f.ended)
  obtain ⟨fs', hj⟩ := releaseJoin_onlyFibres (w.afterEnd m)
  have lane : cellAt n l % 32 = l := by unfold cellAt; omega
  rw [endFibres_eq, hj, Wave.afterEnd, hf]
  exact SMap_find?_filterMap w.regs (fun v => by simp [Wave.cellLeft, lane, hm]) (fun x y => cellLeft_key _ m)

end

/-! ### Releasing what the ended fibres were bound to (01 R13) -/

theorem freeUp_mem (fuel : Nat) (s : State) (r : Ray) : (State.freeUp fuel s r).mem = s.mem := by
  induction fuel generalizing s r with
  | zero => rfl
  | succ fuel ih =>
    have counted (s : State) (root : Option Nat) (f : Ray → Ray) :
        (match root with | some q => s.modRay q f | none => s).mem = s.mem := by cases root <;> rfl
    unfold State.freeUp
    split
    · rfl
    · dsimp only
      split
      · split
        · rw [ih]
          exact counted s r.root _
        · exact counted s r.root _
      · exact counted s r.root _

theorem release_mem (s : State) (b : Bound) : (s.release b).mem = s.mem := by
  cases b with
  | none => rfl
  | item id => rfl
  | ray id =>
    show (s.retireRay id).mem = s.mem
    unfold State.retireRay State.freeRay
    split
    · rfl
    · split
      · rfl
      · split
        · rfl
        · exact freeUp_mem _ _ _

/-! ### The issue of FEND (04 R137) -/

theorem exec_fend_of_issues {g : BitVec 2} {s : State} {iss : Issue} {w : Wave} {lanes : Word}
    (h : Issues s iss w (some g.toNat) [] false lanes) : exec (.fend g) s =
      .next ((lanesOf lanes).foldl (fun u l => u.release (w.fib l).bound) (s.retire iss ((w.finish iss).endFibres lanes))) := by
  rw [exec_fend, execFend, Issues.runState (p := { guard := some g.toNat }) h rfl rfl nofun rfl]
  rfl

/-- A load whose batch has none of the fibres that end goes on as it was. -/
theorem leftBy_eq_self {m : Word} {o : Op} (h : o.iss.batch &&& m = 0) : o.leftBy m = o := by
  have apart : o.iss.batch &&& ~~~m = o.iss.batch := by
    refine BitVec.eq_of_getLsbD_eq fun i hi => ?_
    have bit := congrArg (·.getLsbD i) h
    simp only [BitVec.getLsbD_and, BitVec.getLsbD_not] at bit ⊢
    cases hm : m.getLsbD i <;> simp_all
  rw [Op.leftBy, apart]

/-- A completed issue whose guarded fibres end: loads lose them from their batches, and where no load had one all is as R137 says. -/
theorem retire_endFibres (s : State) (iss : Issue) (w : Wave) (lanes : Word) :
    ∃ w', s.retire iss ((w.finish iss).endFibres lanes) = s.setWave iss.wave w' ∧ w'.ld = w.ld.map (Op.leftBy lanes) ∧
      ((∀ o ∈ w.ld, o.iss.batch &&& lanes = 0) → EndsFibres iss lanes w w') := by
  obtain ⟨r, sk, cp, tx, wt, hret, hrun⟩ := retire_cases s iss ((w.finish iss).endFibres lanes)
  obtain ⟨fs, rs, hend⟩ := endFibres_only (w.finish iss) lanes
  obtain ⟨fs', hfin⟩ := finish_eq w iss
  have ld : ((w.finish iss).endFibres lanes).ld = w.ld.map (Op.leftBy lanes) := by rw [hend, hfin]; rfl
  have pc {l : Nat} (hl : l < 32) : ((w.finish iss).fib l).pc = if iss.batch.getLsbD l then iss.next else (w.fib l).pc := by
    rw [finish_fib w iss l hl]
    split <;> rfl
  refine ⟨_, hret, ld, fun apart => ⟨⟨?_, ?_, ?_⟩, ?_, ?_, fun l hl => ?_, fun l hl hm => ?_, fun l hl hm => ?_⟩⟩
  · exact ld.trans ((List.map_congr_left fun o ho => leftBy_eq_self (apart o ho)).trans (List.map_id' _))
  · rw [hend, hfin]; rfl
  · rw [hend, hfin] at hrun
    exact fun hw => ⟨(hrun hw).2.1, (hrun hw).2.2.1⟩
  · rw [hend, hfin]; rfl
  · rw [hend, hfin]; rfl
  · exact (endFibres_fib_live _ _ hl).trans (by rw [finish_fib_live w iss hl])
  · exact endFibres_fib_bound_of_mem _ _ hl hm
  · obtain ⟨bound, preds, moved⟩ := endFibres_fib_of_not_mem (w.finish iss) lanes hl hm
    refine ⟨bound.trans ?_, preds.trans ?_, moved.trans (pc hl), fun n => ?_⟩
    · rw [finish_fib w iss l hl]; split <;> rfl
    · rw [finish_fib w iss l hl]; split <;> rfl
    · exact (endFibres_find?_of_not_mem _ _ hl hm n).trans (by rw [hfin]; rfl)

/-- What O20 says, of the waves none of whose loads in flight has an ending fibre in its batch. -/
theorem fibreEnds_of_loads_apart {g : BitVec 2} {s : State} {iss : Issue} {w : Wave} {lanes : Word}
    (h : Issues s iss w (some g.toNat) [] false lanes) (apart : ∀ o ∈ w.ld, o.iss.batch &&& lanes = 0) :
    ∃ w' t, exec (.fend g) s = .next t ∧
      t = (lanesOf lanes).foldl (fun u l => u.release (w.fib l).bound) (s.setWave iss.wave w') ∧
      (∀ key, t.byte key = s.byte key) ∧ EndsFibres iss lanes w w' := by
  obtain ⟨w', hret, -, ends⟩ := retire_endFibres s iss w lanes
  refine ⟨w', _, by rw [exec_fend_of_issues h, hret], rfl, fun key => ?_, ends apart⟩
  rw [State.byte, State.foldl_mem (fun u l => release_mem u (w.fib l).bound)]
  rfl

/-- A wave with a load of lane 0 in flight, whose lane 0 is about to issue. -/
def endingState : State := { (State.reset.setWave 0 landingWave) with cur := some landingLoad.iss }

theorem endingState_issues : Issues endingState landingLoad.iss landingWave (some (0 : BitVec 2).toNat) [] false 1 :=
  ⟨rfl, rfl, by decide, by decide, nofun, rfl, nofun, rfl⟩

/-- Refutes O20: it asks that the operations counted by LD are as before, but the fibre of lane 0 that FEND ends leaves the batch of the load
in flight (01 R48). `fibreEnds_of_loads_apart` has every clause where no load's batch has an ending fibre. -/
theorem not_fibreEnds : ¬ Obligations.FibreEnds := by
  unfold Obligations.FibreEnds
  intro h
  obtain ⟨w', t, hexec, ht, -, -, -, counters, -⟩ := h 0 _ _ _ _ endingState_issues
  obtain ⟨w'', hret, left, -⟩ := retire_endFibres endingState landingLoad.iss landingWave 1
  have nothing_bound (u : State) : (lanesOf 1).foldl (fun u l => u.release (landingWave.fib l).bound) u = u := rfl
  have ran := exec_fend_of_issues endingState_issues
  rw [hret, nothing_bound] at ran
  rw [nothing_bound] at ht
  obtain rfl : w' = w'' := eq_of_setWave_eq (ht.symm.trans (Host.Outcome.next.inj (hexec.symm.trans ran)))
  have kept : landingWave.ld = landingWave.ld.map (Op.leftBy 1) := counters.ld.symm.trans left
  exact absurd kept (by decide)

end Sys2Proof.Machine

/-! Floating-point, packed, complex and scalar arithmetic (05 R142 to R152). -/

namespace Sys2Proof.Machine

/-! ### Effects that raise flags lane by lane (01 R43; 05 R142) -/

/-- Raising the flags of the guarded lanes after an effect that raises none. -/
theorem Acts.raiseOver {e : Effect} {iss : Issue} {lanes : Word} {w w1 : Wave} {f : Nat → Flags}
    (h : Acts { e with flags := fun _ _ _ => 0 } iss lanes w w1)
    (hf : ∀ l, l < 32 → lanes.getLsbD l = true → e.flags lanes w l = f l) : Acts e iss lanes w (w1.raise (flagsOver lanes f)) := by
  refine h.raise (fl := e.flags) _ rfl fun b => (flagsOver_getLsbD lanes f b).trans (exists_congr fun l => ?_)
  exact and_congr_right fun hl => and_congr_right fun hm => by rw [hf l hl hm]

/-- Writing one register field and raising the flags of its lanes. -/
theorem acts_writeFieldRaise {e : Effect} {iss : Issue} {lanes : Word} {w : Wave} (d : BitVec 7) (v : Nat → LCell) (f : Nat → Flags)
    (hr : e.regs w = [w.wb + d.toNat]) (hv : ∀ l, l < 32 → lanes.getLsbD l = true → e.val iss lanes w (w.wb + d.toNat) l = v l)
    (hf : ∀ l, l < 32 → lanes.getLsbD l = true → e.flags lanes w l = f l) (hs : e.scalars iss lanes w = [])
    (hb : ∀ l x, e.fibre iss lanes w l x = x) (he : e.empty = false := by rfl) :
    Acts e iss lanes w ((w.writeField d lanes v).raise (flagsOver lanes f)) :=
  Acts.raiseOver (acts_writeField d v hr hv hs (fun _ => rfl) hb he) hf

/-- Writing a group of registers and raising the flags of its lanes. -/
theorem acts_writeRegsRaise {e : Effect} {iss : Issue} {lanes : Word} {w : Wave} (d : BitVec 7) (k : Nat) (v : Nat → Nat → LCell)
    (f : Nat → Flags) (hr : e.regs w = (List.range k).map (fun j => w.wb + d.toNat + j))
    (hv : ∀ j l, l < 32 → j < k → lanes.getLsbD l = true → e.val iss lanes w (w.wb + d.toNat + j) l = v j l)
    (hf : ∀ l, l < 32 → lanes.getLsbD l = true → e.flags lanes w l = f l) (hs : e.scalars iss lanes w = [])
    (hb : ∀ l x, e.fibre iss lanes w l x = x) (he : e.empty = false := by rfl) :
    Acts e iss lanes w (((List.range k).foldl (fun w' j => w'.writeReg (w.wb + d.toNat + j) lanes (v j)) w).raise (flagsOver lanes f)) :=
  Acts.raiseOver (acts_writeRegs d k v hr hv hs (fun _ => rfl) hb he) hf

/-! ### FP32 arithmetic and the unary group (05 R144 to R147) -/

/-- Settles O7. -/
theorem floatArithmeticResults : Obligations.FloatArithmeticResults := by
  unfold Obligations.FloatArithmeticResults
  intro d a b g h
  exact ⟨completes_fp2 (exec_fadd ..) _ fun _ _ _ => rfl, completes_fp2 (exec_fsub ..) _ fun _ _ _ => rfl,
    completes_fp2 (exec_fmul ..) _ fun _ _ _ => rfl, completes_fp3 (exec_ffma ..) _ fun _ _ _ _ => rfl,
    completes_fp2 (exec_fmin ..) _ fun _ _ _ => rfl, completes_fp2 (exec_fmax ..) _ fun _ _ _ => rfl,
    completes_fp3 (exec_fclamp ..) _ fun _ _ _ _ => rfl⟩

/-- Settles O8. -/
theorem floatUnaryResults : Obligations.FloatUnaryResults := by
  unfold Obligations.FloatUnaryResults
  intro d a g h hh
  exact ⟨completes_fp1 (exec_fmov ..) hh _ fun _ _ => rfl, completes_fp1 (exec_fneg ..) hh _ fun _ _ => rfl,
    completes_fp1 (exec_fabs ..) hh _ fun _ _ => rfl, completes_fp1 (exec_frcp ..) hh _ fun _ _ => rfl,
    completes_fp1 (exec_frsq ..) hh _ fun _ _ => rfl, completes_fp1 (exec_fsqrt ..) hh _ fun _ _ => rfl,
    completes_fp1 (exec_fexp2 ..) hh _ fun _ _ => rfl, completes_fp1 (exec_flog2 ..) hh _ fun _ _ => rfl,
    completes_fp1 (exec_fsin ..) hh _ fun _ _ => rfl, completes_fp1 (exec_fcos ..) hh _ fun _ _ => rfl,
    completes_fp1 (exec_ffloor ..) hh _ fun _ _ => rfl, completes_fp1 (exec_fceil ..) hh _ fun _ _ => rfl,
    completes_fp1 (exec_ftrunc ..) hh _ fun _ _ => rfl, completes_fp1 (exec_frint ..) hh _ fun _ _ => rfl,
    completes_fp1 (exec_ffract ..) hh _ fun _ _ => rfl, completes_fp1 (exec_fsign ..) hh _ fun _ _ => rfl⟩

/-! ### Packed F16 and dots (05 R148 to R150) -/

theorem packCodes_halves (x y : Nat) : packCodes 16 [x, y] = x % 65536 + 65536 * (y % 65536) := by
  simp [packCodes]

/-- The model's pair of elements is the manual's (02 R56). -/
theorem map2x16_eq_halves (f : Nat → Nat → Nat → Nat × Flags) (x y z : Word) : map2x16 f x y z = halves f x y z := by
  obtain ⟨x0, x1⟩ := elemCode_halves x
  obtain ⟨y0, y1⟩ := elemCode_halves y
  obtain ⟨z0, z1⟩ := elemCode_halves z
  simp only [map2x16, halves, packCodes_halves, x0, x1, y0, y1, z0, z1]

theorem int8_eq_byteInt (c : LCell) (e : Nat) : int8 c e = byteInt c e :=
  if_congr (by rw [Bool.and_eq_true, beq_iff_eq, decide_eq_true_eq]; rfl) rfl rfl

/-- DOT4Q of any sources it takes, by the form their tags select (05 R150). -/
def dot4Of (d a b : BitVec 7) (g h : BitVec 2) : Effect :=
  let r (w : Wave) (l : Nat) := dot4q w.rm (w.src a l) (w.src b l) (w.grp d 0 l).val
  { vecABD d a b g h (fun w l => ⟨(r w l).1, (r w l).2.2⟩) with
    tags := fun w m => ∀ l, l < 32 → m.getLsbD l = true → dot4qOk (w.src a l) (w.src b l) (w.grp d 0 l) = true
    flags := fun _ w l => (r w l).2.1 }

theorem completes_dot4q (d a b : BitVec 7) (g h : BitVec 2) : Completes (.dot4q d a b g h) (dot4Of d a b g h) :=
  completes_runHold (exec_dot4q ..) rfl rfl rfl rfl (fun _ => rfl) rfl
    (fun _ _ ht => firstLane_none fun l hl hm => by rw [ht l hl hm]; rfl)
    (fun _ _ _ _ => acts_writeFieldRaise d _ _ rfl (fun _ _ _ => rfl) (fun _ _ _ => rfl) rfl (fun _ _ => rfl))
    (fun w w1 w' => keepOf_abd h d a b w w1 w')

/-- An effect may be said anew for stricter tags: only what it gives in lanes that meet them counts. -/
theorem Completes.restrict {i : Instr} {e : Effect} (h : Completes i e) {tags : Wave → Word → Prop}
    {val : Issue → Word → Wave → Nat → Nat → LCell} {flags : Word → Wave → Nat → Flags} (ht : ∀ w m, tags w m → e.tags w m)
    (hv : ∀ iss w m n l, tags w m → l < 32 → m.getLsbD l = true → e.val iss m w n l = val iss m w n l)
    (hf : ∀ w m l, tags w m → l < 32 → m.getLsbD l = true → e.flags m w l = flags m w l) :
    Completes i { e with tags := tags, val := val, flags := flags } := by
  intro s iss w lanes hi htag
  obtain ⟨w', hexec, same, counters, cells, scalars, raised, fibres, keeps⟩ := h s iss w lanes hi (ht w lanes htag)
  refine ⟨w', hexec, same, counters, fun n l hl => ?_, scalars,
    fun b => (raised b).trans (or_congr_right (exists_congr fun l => ?_)), fibres, keeps⟩
  · rw [cells n l hl]
    refine if_ctx_congr Iff.rfl (fun hc => ?_) fun _ => rfl
    rw [hv iss w lanes n l htag hl hc.2]
  · exact and_congr_right fun hl => and_congr_right fun hm => by rw [hf w lanes l htag hl hm]

/-- A binary8 tag is no integer tag. -/
theorem isInt8_of_isB8 {t : BitVec 6} (h : isB8 t = true) : isInt8 t = false := by
  revert t
  decide

theorem isInt8_iff {t : BitVec 6} : isInt8 t = true ↔ t = 48 ∨ t = 49 := by
  simp [isInt8]

theorem dot4q_of_isB8 {rm : RM} {a b : LCell} {c : Word} (h : isB8 a.tag = true) : dot4q rm a b c =
    ((dotF32 rm ((List.range 4).map (fun e => (elem8 a e, elem8 b e))) [f32 c]).1,
      (dotF32 rm ((List.range 4).map (fun e => (elem8 a e, elem8 b e))) [f32 c]).2, 1) := by
  rw [dot4q, isInt8_of_isB8 h]
  rfl

theorem dot4q_of_isInt8 {rm : RM} {a b : LCell} {c : Word} (h : isInt8 a.tag = true) : dot4q rm a b c =
    (clampS32 (c.toInt + byteInt a 0 * byteInt b 0 + byteInt a 1 * byteInt b 1 + byteInt a 2 * byteInt b 2 + byteInt a 3 * byteInt b 3), 0, 0) := by
  rw [dot4q, h]
  simp only [int8_eq_byteInt]
  rfl

theorem completes_dot4Float (d a b : BitVec 7) (g h : BitVec 2) : Completes (.dot4q d a b g h) (dot4Float d a b g h) := by
  refine (completes_dot4q d a b g h).restrict (fun w m ht l hl hm => ?_) (fun iss w m n l ht hl hm => ?_) (fun w m l ht hl hm => ?_)
  · obtain ⟨ha, hb⟩ := ht.2 l hl hm
    have hc : tagFixed 1 (w.grp d 0 l) = true := by
      rcases ht.1 l 0 hl hm (by decide) with h | h <;> simp [tagFixed, h]
    rw [dot4qOk, ha, hb, hc]
    rfl
  · simp only [dot4Of, vecABD, dot4q_of_isB8 (ht.2 l hl hm).1]
  · simp only [dot4Of, vecABD, dot4q_of_isB8 (ht.2 l hl hm).1]

theorem completes_dot4Int (d a b : BitVec 7) (g h : BitVec 2) : Completes (.dot4q d a b g h) (dot4Int d a b g h) := by
  refine (completes_dot4q d a b g h).restrict (fun w m ht l hl hm => ?_) (fun iss w m n l ht hl hm => ?_) (fun w m l ht hl hm => ?_)
  · obtain ⟨ha, hb⟩ := ht l hl hm
    simp [dot4qOk, isInt8_iff.2 ha, isInt8_iff.2 hb]
  · simp only [dot4Of, vecABD, dot4q_of_isInt8 (isInt8_iff.2 (ht l hl hm).1)]
  · simp only [dot4Of, vecABD, dot4q_of_isInt8 (isInt8_iff.2 (ht l hl hm).1)]

/-- Settles O9: packed results by halves, dots by their products, DOT4Q once for each kind of tag. -/
theorem packedAndDotResults : Obligations.PackedAndDotResults := by
  unfold Obligations.PackedAndDotResults
  intro d a b g h
  exact ⟨completes_fp2 (exec_hadd2 ..) _ fun _ _ _ => map2x16_eq_halves .., completes_fp2 (exec_hsub2 ..) _ fun _ _ _ => map2x16_eq_halves ..,
    completes_fp2 (exec_hmul2 ..) _ fun _ _ _ => map2x16_eq_halves .., completes_fp2 (exec_hmin2 ..) _ fun _ _ _ => map2x16_eq_halves ..,
    completes_fp2 (exec_hmax2 ..) _ fun _ _ _ => map2x16_eq_halves .., completes_fp3 (exec_hfma2 ..) _ fun _ _ _ _ => map2x16_eq_halves ..,
    completes_fp3 (exec_dot2h ..) _ fun w x y c => congrArg (dotF32 w.rm · [f32 c]) (hcmp_pairs x y),
    completes_dot4Float d a b g h, completes_dot4Int d a b g h⟩

/-! ### Complex pairs (02 R79; 05 R152) -/

/-- The high word of a pair is its second register's (00 R3). -/
theorem high_of_append (x y : Word) : ((x ++ y : Addr) >>> 32).setWidth 32 = x := by
  ext i hi
  rw [BitVec.getElem_setWidth, BitVec.getLsbD_ushiftRight, BitVec.getLsbD_append, if_neg (by omega), Nat.add_sub_cancel_left,
    BitVec.getLsbD_eq_getElem]

/-- Writing a complex pair and raising the flags of its components. -/
theorem acts_writeCx {e : Effect} {iss : Issue} {lanes : Word} {w : Wave} (d : BitVec 7) (r : Nat → (Word × Flags) × (Word × Flags))
    (hr : e.regs w = [w.wb + d.toNat, w.wb + d.toNat + 1])
    (hv : ∀ n l, e.val iss lanes w n l = ⟨if n = w.wb + d.toNat then (r l).1.1 else (r l).2.1, 4⟩)
    (hf : ∀ l, e.flags lanes w l = (r l).1.2 ||| (r l).2.2) (hs : e.scalars iss lanes w = [])
    (hb : ∀ l x, e.fibre iss lanes w l x = x) (he : e.empty = false := by rfl) : Acts e iss lanes w (w.writeCx d lanes r) := by
  refine Acts.raiseOver (acts_writePair d 4 _ hr (fun l _ _ => ?_) (fun l _ _ => ?_) hs (fun _ => rfl) hb he) fun l _ _ => hf l
  · rw [hv, if_pos rfl, BitVec.setWidth_append_eq_right]
  · rw [hv, if_neg (by omega), high_of_append]

theorem completes_cx2 {i : Instr} {useD : Bool} {f : RM → Cx → Cx → Cx → (Word × Flags) × (Word × Flags)} {d a b : BitVec 7} {g : BitVec 2}
    (hx : exec i = cx2 useD f d a b g) : Completes i (complexABD useD d a b g f) := by
  refine completes_runWave hx rfl rfl rfl rfl (fun _ => rfl) rfl (fun w lanes ht => allChecks_none fun c hc => ?_)
    (fun _ _ _ _ => acts_writeCx d _ rfl (fun _ _ => rfl) (fun _ => rfl) rfl (fun _ _ => rfl)) (fun _ _ => rfl)
  obtain ⟨ha, hb, hd⟩ := ht
  rcases List.mem_append.1 hc with hc | hc
  · rcases List.mem_pair.1 hc with rfl | rfl
    · exact checkGrp_none ha
    · exact checkGrp_none hb
  · cases useD with
    | false => cases hc
    | true =>
      obtain rfl := List.mem_singleton.1 hc
      exact checkGrp_none (hd rfl)

theorem completes_cmag2 (d a : BitVec 7) (g : BitVec 2) : Completes (.cmag2 d a g) (complexAD d a g) :=
  completes_runWave (exec_cmag2 ..) rfl rfl rfl rfl (fun _ => rfl) rfl (fun _ _ ht => checkGrp_none ht)
    (fun _ _ _ _ => acts_writeFieldRaise d _ _ rfl (fun _ _ _ => rfl) (fun _ _ _ => rfl) rfl (fun _ _ => rfl)) (fun _ _ => rfl)

theorem completes_cexpi (d a : BitVec 7) (g : BitVec 2) : Completes (.cexpi d a g) (complexOf d a g) :=
  completes_runWave (exec_cexpi ..) rfl rfl rfl rfl (fun _ => rfl) rfl (fun _ _ ht => checkSrc_none ht)
    (fun _ _ w _ => acts_writeCx d (fun l => (fcos (w.src a l).val, fsin (w.src a l).val)) rfl (fun _ _ => rfl) (fun _ => rfl) rfl
      (fun _ _ => rfl)) (fun _ _ => rfl)

theorem completes_cscale (d a b : BitVec 7) (g : BitVec 2) : Completes (.cscale d a b g) (complexScale d a b g) :=
  completes_runWave (exec_cscale ..) rfl rfl rfl rfl (fun _ => rfl) rfl (fun _ _ ht => both_none (checkGrp_none ht.1) (checkSrc_none ht.2))
    (fun _ _ _ _ => acts_writeCx d _ rfl (fun _ _ => rfl) (fun _ => rfl) rfl (fun _ _ => rfl)) (fun _ _ => rfl)

/-- Settles O10. -/
theorem complexResults : Obligations.ComplexResults := by
  unfold Obligations.ComplexResults
  exact fun d a b g => ⟨completes_cx2 (exec_cadd ..), completes_cx2 (exec_csub ..), completes_cx2 (exec_cmul ..), completes_cx2 (exec_cfma ..),
    completes_cx2 (exec_ccmul ..), completes_cmag2 d a g, completes_cexpi d a g, completes_cscale d a b g⟩

/-! ### Scalar floating point (05 R151) -/

theorem completes_sffma (d a b : BitVec 7) :
    Completes (.sffma d a b) (scalarFloat d [a, b] (fun w => ffma w.rm (w.sget a.toNat) (w.sget b.toNat) (w.sget d.toNat))) :=
  completes_runWave (exec_sffma ..) rfl rfl rfl rfl (fun _ => rfl) rfl (fun _ _ _ => rfl)
    (fun _ _ _ hl => Acts.raiseOnce (fl := fun w => (ffma w.rm (w.sget a.toNat) (w.sget b.toNat) (w.sget d.toNat)).2) hl
      (acts_sset d.toNat _ rfl rfl (fun _ => rfl) (fun _ _ => rfl)) rfl) (fun _ _ => rfl)

/-- SFCMPLT: the order of the sources gives the result, and there is none where one is NaN. -/
theorem completes_sfcmplt (d a b : BitVec 7) : Completes (.sfcmplt d a b) (scalarFloat d [a, b] (fun w =>
    (if (f32 (w.sget a.toNat)).cmp (f32 (w.sget b.toNat)) = some .lt then 1 else 0,
      if (f32 (w.sget a.toNat)).isNan || (f32 (w.sget b.toNat)).isNan then Flags.invalid else 0))) := by
  refine completes_sfp2 (exec_sfcmplt ..) _ fun w => ?_
  rw [← cmp_isNone]
  cases (f32 (w.sget a.toNat)).cmp (f32 (w.sget b.toNat)) with
  | none => rfl
  | some o => cases o <;> rfl

/-- Settles O11. -/
theorem scalarFloatResults : Obligations.ScalarFloatResults := by
  unfold Obligations.ScalarFloatResults
  intro d a b
  exact ⟨completes_sfp2 (exec_sfadd ..) _ fun _ => rfl, completes_sfp2 (exec_sfsub ..) _ fun _ => rfl,
    completes_sfp2 (exec_sfmul ..) _ fun _ => rfl, completes_sfp2 (exec_sfmin ..) _ fun _ => rfl,
    completes_sfp2 (exec_sfmax ..) _ fun _ => rfl, completes_sfcmplt d a b, completes_sffma d a b,
    completes_sfp1 (exec_sfrcp ..) _ fun _ => rfl, completes_sfp1 (exec_sfrsq ..) _ fun _ => rfl,
    completes_sfp1 (exec_sfsqrt ..) _ fun _ => rfl, completes_sfp1 (exec_scvtfi ..) _ fun _ => rfl,
    completes_sfp1 (exec_scvtif ..) _ fun _ => rfl⟩

end Sys2Proof.Machine

/-! Conversions, packing, expansion, tags and moves between lanes (05 R153 to R163). -/

namespace Sys2Proof.Machine

/-! ### Conversions and tags (05 R153 to R156, R158, R159) -/

theorem completes_cvt {s : BitVec 1} {t : BitVec 6} {h : BitVec 2} (hs : cvtOk s t = true) (ht : tagDefined t = true) (hh : h ≠ 2)
    (d a : BitVec 7) (g : BitVec 2) : Completes (.cvt d a s t g h) (convertOf d a s t g h) := by
  refine completes_runHold (exec_cvt ..) rfl rfl rfl (by rw [hs, beq_false_of_ne hh]; rfl) (fun _ => by rw [ht]; rfl) rfl
    (fun w lanes htag => firstLane_none fun l hl hm => ?_)
    (fun iss lanes w _ => acts_writeFieldRaise d _ _ rfl (fun l _ _ => ?_) (fun l _ _ => ?_) rfl (fun _ _ => rfl))
    (fun w w1 w' => keepOf_abd h d a a w w1 w')
  · rw [Option.isNone_eq_false_iff, htag l hl hm]
  · simp only [convertOf, vecAD]
    cases cvtOf (w.src a l).tag t s <;> rfl
  · simp only [convertOf, vecAD]
    cases cvtOf (w.src a l).tag t s <;> rfl

theorem completes_pack {s : BitVec 1} {t : BitVec 6} {h : BitVec 2} (hs : packOk s t = true) (ht : tagDefined t = true) (hh : h = 0 ∨ h = 3)
    (d a : BitVec 7) (g : BitVec 2) : Completes (.pack d a s t g h) (packOf d a s t g h) :=
  completes_runHold (exec_pack ..) rfl rfl rfl (by rw [hs]; rcases hh with rfl | rfl <;> rfl) (fun _ => by rw [ht]; rfl) rfl
    (fun _ _ htag => checkGrp_none htag)
    (fun _ _ _ _ => acts_writeFieldRaise d _ _ rfl (fun _ _ _ => rfl) (fun _ _ _ => rfl) rfl (fun _ _ => rfl))
    (fun w w1 w' => keepOf_d h d w w1 w' hh)

theorem completes_unpackWiden {k h : BitVec 2} (hk : k ≠ 3) (hh : h = 0 ∨ h = 1) (d a : BitVec 7) (g : BitVec 2) :
    Completes (.unpackWiden d a k g h) (widenOf d a k g h) := by
  refine completes_runHold (exec_unpackWiden ..) rfl rfl rfl (by rw [beq_false_of_ne hk]; rcases hh with rfl | rfl <;> rfl) (fun _ => rfl) rfl
    (fun w lanes htag => firstLane_none fun l hl hm => by rw [htag l hl hm, bne_self_eq_false])
    (fun iss lanes w _ => acts_writeRegs d (widenCount k) _ rfl (fun j l _ _ _ => ?_) rfl (fun _ => rfl) (fun _ _ => rfl))
    (fun w w1 w' _ _ _ _ => by rcases hh with rfl | rfl <;> rfl)
  simp only [widenOf, Nat.add_sub_cancel_left]

theorem completes_settag {t : BitVec 6} {h : BitVec 2} (ht : tagDefined t = true) (hh : h ≠ 2) (d a : BitVec 7) (g : BitVec 2) :
    Completes (.settag d a t g h) (vecAD d a g h (fun w l => ⟨(w.src a l).val, t⟩)) :=
  completes_runHold (exec_settag ..) rfl rfl rfl (beq_false_of_ne hh) (fun _ => by rw [ht]; rfl) rfl (fun _ _ _ => rfl)
    (fun _ _ _ _ => acts_writeField d _ rfl (fun _ _ _ => rfl) rfl (fun _ => rfl) (fun _ _ => rfl))
    (fun w w1 w' => keepOf_abd h d a a w w1 w')

theorem completes_gettag {h : BitVec 2} (hh : h ≠ 2) (d a : BitVec 7) (g : BitVec 2) :
    Completes (.gettag d a g h) (vecAD d a g h (fun w l => ⟨(w.src a l).tag.setWidth 32, 0⟩)) :=
  completes_runHold (exec_gettag ..) rfl rfl rfl (beq_false_of_ne hh) (fun _ => rfl) rfl (fun _ _ _ => rfl)
    (fun _ _ _ _ => acts_writeField d _ rfl (fun _ _ _ => rfl) rfl (fun _ => rfl) (fun _ _ => rfl))
    (fun w w1 w' => keepOf_abd h d a a w w1 w')

theorem completes_shfl (d a b : BitVec 7) (g h : BitVec 2) : Completes (.shfl d a b g h) (shuffleOf d a b g h) :=
  completes_runHold (exec_shfl ..) rfl rfl rfl rfl (fun _ => rfl) rfl (fun _ _ _ => rfl)
    (fun _ _ _ _ => acts_writeField d _ rfl (fun _ _ _ => rfl) rfl (fun _ => rfl) (fun _ _ => rfl))
    (fun w w1 w' => keepOf_abd h d a b w w1 w')

/-! ### Instructions that complete in a state of their own -/

/-- What an instruction's own part leaves, once the latch has aged and the batch has moved on. -/
theorem Acts.finishKeep {e : Effect} {iss : Issue} {lanes : Word} {w w1 : Wave} (A : Acts e iss lanes w w1)
    {kept : Option (Nat → LCell)} (hle : ∀ l, lanes.getLsbD l = true → iss.batch.getLsbD l = true) (haf : e.after = fun _ _ _ _ f => f)
    (hk : ∀ w' : Wave, w'.regs = w1.regs → w'.wb = w1.wb → w'.uid = w1.uid → w'.epoch = w1.epoch → kept = e.keep w w') :
    Does e iss lanes w (w1.finishKeep iss kept) := by
  obtain ⟨⟨rs, ss, fr, fs, h1⟩, cells, scalars, flags, fibres⟩ := A
  obtain ⟨fs', la, lp, hf⟩ := finishKeep_eq w1 iss kept
  have keeps := finishKeep_keeps w1 iss kept
  have entry (k : Nat) : w1.entry k = w.entry k := by rw [h1]; rfl
  refine ⟨fun n l hl => ?_, fun n => ?_, fun b => ?_, fun l hl => ?_, ?_⟩
  · rw [← cells n l hl, hf]
    rfl
  · rw [← scalars n, hf]
    rfl
  · rw [← flags b, hf]
  · rw [finishKeep_fib w1 iss kept l hl, fibres l hl, haf]
    by_cases hb : iss.batch.getLsbD l = true
    · rw [if_pos hb, if_pos hb]
    · rw [if_neg hb, if_neg hb, if_neg fun hl => hb (hle l hl)]
  · rw [← hk _ (by rw [hf]) (by rw [hf]) (by rw [hf]) (by rw [hf])]
    have lp1 : w1.lp = w.lp := by rw [h1]
    simpa only [Keeps, entry, lp1] using keeps

/-- Putting back a wave that is already as an effect says, where what H keeps depends on the registers alone. -/
theorem Does.retireKeep {e : Effect} {iss : Issue} {lanes : Word} {w w2 : Wave} (D : Does e iss lanes w w2)
    (only : ∃ rs ss fr fs la lp wt, w2 = { w with regs := rs, scalars := ss, fsr := fr, fibres := fs, latch := la, lp := lp, wait := wt })
    (hk : ∀ w' : Wave, w'.regs = w2.regs → w'.wb = w2.wb → w'.uid = w2.uid → w'.epoch = w2.epoch → e.keep w w' = e.keep w w2) (t : State) :
    ∃ w', t.retire iss w2 = t.setWave iss.wave w' ∧ SameWave w w' ∧ SameCounters w w' ∧ Does e iss lanes w w' := by
  obtain ⟨rs, ss, fr, fs, la, lp, wt, h2⟩ := only
  obtain ⟨r, sk, cp, tx, wt', hret, running⟩ := retire_cases t iss w2
  obtain ⟨cells, scalars, flags, fibres, keeps⟩ := D
  refine ⟨_, hret, ?_, ?_, cells, scalars, flags, fibres, ?_⟩
  · rw [h2] at running ⊢
    exact ⟨rfl, rfl, rfl, rfl, rfl, rfl, rfl, rfl, rfl, rfl, rfl, rfl, rfl, fun h => (running h).1⟩
  · rw [h2] at running ⊢
    exact ⟨rfl, rfl, fun h => ⟨(running h).2.1, (running h).2.2.1⟩⟩
  · rw [hk]
    · exact keeps
    all_goals rfl

/-- An instruction of the whole state whose own part completes in t, with the issue's wave made w0 and then changed as an effect says. -/
theorem finishes_runState {i : Instr} {e : Effect} {p : Pre} {body : State → Issue → Word → Wave → Out} {s t : State} {iss : Issue}
    {lanes : Word} {w w0 w1 : Wave} {kept : Option (Nat → LCell)} (hx : exec i = Sys2Proof.Machine.runState p body)
    (h : Issues s iss w p.guard p.ops p.tile lanes p.reach) (hr : p.reserved = false) (hb : p.badOperand w = false) (hc : p.counter = none)
    (ht : p.tags w lanes = none) (hbody : body s iss lanes w = .done (t.retire iss (w1.finishKeep iss kept))) (A : Acts e iss lanes w0 w1)
    (hk : ∀ w' : Wave, w'.regs = w1.regs → w'.wb = w1.wb → w'.uid = w1.uid → w'.epoch = w1.epoch → kept = e.keep w0 w')
    (haf : e.after = (fun _ _ _ _ f => f) := by rfl) : Finishes i s t iss lanes w0 e := by
  obtain ⟨rs, ss, fr, fs, h1⟩ := A.only
  obtain ⟨fs', la, lp, hf⟩ := finishKeep_eq w1 iss kept
  obtain ⟨w', hret, rest⟩ := (A.finishKeep h.lanes_le haf hk).retireKeep ⟨rs, ss, fr, fs', la, lp, none, by rw [hf, h1]⟩
    (fun w' h1 h2 h3 h4 => by
      rw [hf] at h1 h2 h3 h4
      rw [← hk w' h1 h2 h3 h4, ← hk (w1.finishKeep iss kept)] <;> rw [hf]) t
  exact ⟨w', by rw [hx, h.runState hr hb (by rw [hc]; nofun) ht, hbody, ← hret], rest⟩

/-! ### Block expansion (05 R157) -/

theorem completes_unpackBlock (d a : BitVec 7) (g : BitVec 2) : Completes (.unpackBlock d a g) (expandOf d a g) := by
  intro s iss w lanes h ⟨x32, coded⟩
  obtain ⟨block, hblock⟩ := Option.isSome_iff_exists.1 coded
  refine finishes_runState (kept := none) (exec_unpackBlock ..) h rfl rfl rfl (firstLane_none fun l hl hm => ?_) (by simp only [hblock]; rfl)
    (acts_writePair d 0 _ rfl (fun l _ _ => ?_) (fun l _ _ => ?_) rfl (fun _ => rfl) (fun _ _ => rfl)) (fun _ _ _ _ _ => rfl)
  · have tag (j : Nat) (hj : j < 2) : (w.grp a j l).tag = 0 := (x32 l j hl hm hj).elim id id
    rw [tag 0 (by decide), tag 1 (by decide)]
    rfl
  · simp only [expandOf, hblock, BitVec.setWidth_append_eq_right]
    simp
  · simp only [expandOf, hblock, high_of_append]
    simp

/-- Settles O14. -/
theorem conversionResults : Obligations.ConversionResults := by
  unfold Obligations.ConversionResults
  exact fun d a b s t k g h => ⟨fun hs ht hh => completes_cvt hs ht hh d a g, fun hs ht hh => completes_pack hs ht hh d a g,
    fun hk hh => completes_unpackWiden hk hh d a g, completes_unpackBlock d a g, fun hh ht => completes_settag ht hh d a g,
    fun hh => completes_gettag hh d a g, completes_shfl d a b g h⟩

/-! ### Pattern tables (05 R160 to R163) -/

/-- Where H keeps nothing or the result, the operands it names do not matter (01 R39). -/
theorem holdValue_of_result {h : BitVec 2} (hh : h = 0 ∨ h = 3) (a b d : Wave → Nat → LCell) (old new : Wave) :
    holdValue h a b d old new = holdValue h d d d old new := by
  rcases hh with rfl | rfl <;> rfl

/-- Settles O24: XBAR where its table can be read, XPTL where no entry has an upper bit set. -/
theorem patternMoves : Obligations.PatternMoves := by
  unfold Obligations.PatternMoves
  refine fun d a n g h => ⟨fun s iss w s1 tbl lanes hi hh hn hbound hsound => ?_, fun s iss w s1 bs lanes hi hread hentries => ?_⟩
  · have reserved : (h == 1 || h == 2) = false := by rcases hh with rfl | rfl <;> rfl
    refine finishes_runState (exec_xbar ..) hi reserved (by rw [Option.isNone_eq_false_iff]; exact hn) rfl rfl
      (by simp only [hbound, hsound, Bool.false_eq_true, if_false]; rfl)
      (acts_writeField d _ rfl (fun _ _ _ => rfl) rfl (fun _ => rfl) (fun _ _ => rfl))
      (fun w' hr hb hu he => (holdValue_of_result hh ..).trans (keepOf_d h d w _ w' hh hr hb hu he))
  · have legal : (List.range 128).any (fun i => tableEntry bs i / 2 ^ 10 != 0) = false :=
      List.any_eq_false.2 fun i hi => by simp [Nat.div_eq_of_lt (hentries i (List.mem_range.1 hi))]
    exact finishes_runState (kept := none) (exec_xptl ..) hi rfl rfl rfl rfl
      (by simp only [hread, legal, Bool.false_eq_true, if_false]; rfl)
      (acts_nothing rfl rfl (fun _ => rfl) (fun _ _ => rfl)) (fun _ _ _ _ _ => rfl)

end Sys2Proof.Machine

/-! Tile instructions on matrix fragments (05 R164 to R173). -/

namespace Sys2Proof.Machine

/-! ### Issues with fewer operands -/

theorem emptyIn_of_subset {w : Wave} {ops ops' : List Opnd} {m : Word} (ho : ∀ o ∈ ops', o ∈ ops) (h : w.emptyIn ops m = false) :
    w.emptyIn ops' m = false :=
  List.any_eq_false.2 fun o hmem => List.any_eq_false.1 h o (ho o hmem)

theorem spoiledLane_of_subset {s : State} {p q : Pre} {w : Wave} {m : Word} (ho : ∀ o ∈ q.ops, o ∈ p.ops)
    (hr : ∀ x ∈ q.reach w, x ∈ p.reach w) (h : s.spoiledLane p w m = none) : s.spoiledLane q w m = none := by
  unfold State.spoiledLane at h ⊢
  by_cases empty : s.spoiled.isEmpty = true
  · rw [if_pos empty]
  · rw [if_neg empty] at h ⊢
    split at h
    · cases h
    next reached =>
      have unreached := List.any_eq_false.1 ((Bool.not_eq_true _).mp reached)
      rw [if_neg ((Bool.not_eq_true _).mpr (List.any_eq_false.2 fun x hx => unreached x (hr x hx)))]
      refine firstLane_none fun l hl hm => List.any_eq_false.2 fun o hmem => ?_
      have clean := List.find?_eq_none.1 h l (mem_lanesOf.2 ⟨hl, hm⟩)
      exact List.any_eq_false.1 ((Bool.not_eq_true _).mp clean) o (ho o hmem)

/-- What executes with some operands and storage read executes with fewer. -/
theorem Issues.mono {s : State} {iss : Issue} {w : Wave} {g : Option Nat} {ops ops' : List Opnd} {t : Bool} {lanes : Word}
    {reach reach' : Wave → List Site} (h : Issues s iss w g ops t lanes reach) (ho : ∀ o ∈ ops', o ∈ ops)
    (hr : ∀ x ∈ reach' w, x ∈ reach w) : Issues s iss w g ops' t lanes reach' :=
  ⟨h.issue, h.wave, h.passes, h.someLane, fun o hmem => h.legal o (ho o hmem), emptyIn_of_subset ho h.present,
    fun ht o hmem => h.idle ht o (ho o hmem), spoiledLane_of_subset ho hr h.sound⟩

theorem allSlots_subset {ops ops' : List Opnd} (ho : ∀ o ∈ ops', o ∈ ops) (m : BitVec 2) (w : Wave) :
    ∀ x ∈ allSlots m ops' w, x ∈ allSlots m ops w := by
  unfold allSlots
  split
  · intro x hx
    obtain ⟨o, hmem, hx⟩ := List.mem_flatMap.1 hx
    exact List.mem_flatMap.2 ⟨o, ho o hmem, hx⟩
  · exact fun _ => id

/-! ### Accumulators and the operations counted on TX (05 R164, R165, R173) -/

theorem tileLanes_ne_zero {m : BitVec 2} {lanes : Word} (h : lanes ≠ 0) : tileLanes m lanes ≠ 0 := by
  unfold tileLanes
  split
  · decide
  · exact h

theorem lowest_mem {m : Word} (h : m ≠ 0) : lowest m < 32 ∧ m.getLsbD (lowest m) = true := by
  obtain ⟨l, hl, hm⟩ := exists_lane h
  have some_lane : lanesOf m ≠ [] := List.ne_nil_of_mem (mem_lanesOf.2 ⟨hl, hm⟩)
  rw [lowest, List.head?_eq_some_head some_lane]
  exact mem_lanesOf.1 (List.head_mem some_lane)

/-- Writing an accumulator, element by element where R165 places it. -/
theorem acts_writeAcc {e : Effect} {iss : Issue} {lanes : Word} {w : Wave} (d : BitVec 7) (f : Nat → Nat → Word × Flags)
    (hr : e.regs w = (List.range 8).map (fun j => w.wb + d.toNat + j))
    (hv : ∀ n l, e.val iss lanes w n l = ⟨(f (l % 16) (8 * (l / 16) + (n - (w.wb + d.toNat)))).1, 1⟩)
    (hf : ∀ l, e.flags lanes w l = flagsUpTo 8 (fun j => (f (l % 16) (8 * (l / 16) + j)).2)) (hs : e.scalars iss lanes w = [])
    (hb : ∀ l x, e.fibre iss lanes w l x = x) (he : e.empty = false := by rfl) : Acts e iss lanes w (w.writeAcc d lanes f) :=
  acts_writeRegsRaise d 8 _ _ hr (fun j l _ _ _ => by rw [hv, Nat.add_sub_cancel_left]) (fun l _ _ => hf l) hs hb he

/-- A tile instruction whose own part ends by counting its operation, as an effect says of the wave before. -/
theorem tileFinishes {i : Instr} {e : Effect} {p : Pre} {body : State → Issue → Word → Wave → Out} {s : State} {iss : Issue} {lanes : Word}
    {w w1 : Wave} {d : BitVec 7} {n : Nat} (hx : exec i = Sys2Proof.Machine.runState p body)
    (h : Issues s iss w p.guard p.ops p.tile lanes p.reach) (hr : p.reserved = false) (hb : p.badOperand w = false)
    (hc : p.counter = some .tx) (hn : w.tx.length < 63) (ht : p.tags w lanes = none)
    (hbody : body s iss lanes w = .done (s.issueTile iss w1 d n)) (A : Acts e iss lanes w w1) (hk : ∀ w w', e.keep w w' = none)
    (haf : e.after = (fun _ _ _ _ f => f) := by rfl) :
    ∃ w' o, exec i s = .next (s.tick1.setWave iss.wave w') ∧ SameWave w w' ∧ Counts .tx o w w' ∧ Does e iss lanes w w' ∧
      o.kind = .tile ∧ o.done = false ∧ o.busy = (List.range n).map (fun j => w.wb + d.toNat + j) := by
  obtain ⟨rs, ss, fr, fs, h1⟩ := A.only
  obtain ⟨w', hret, same, counts, does⟩ := A.retireCounted h.lanes_le hk .tx
    { Op.nothing s.fresh .tile iss with busy := (List.range n).map (fun j => w1.wb + d.toNat + j), done := false } s.tick1 haf
  refine ⟨w', _, ?_, same, counts, does, rfl, rfl, by rw [h1]⟩
  rw [hx, h.runState hr hb (by rw [hc]; rintro c ⟨⟩; exact hn) ht, hbody, ← hret]
  rfl

/-- M 00 and 01 are not reserved (05 R164). -/
theorem decide_two_le {m : BitVec 2} (hm : m.toNat < 2) : decide (2 ≤ m.toNat) = false := decide_eq_false (Nat.not_le.2 hm)

/-! ### Products (05 R166) -/

section

variable {transposed : Bool} {d a b : BitVec 7} {m : BitVec 2} {k : Nat} {w : Wave} {lanes : Word}

/-- The sources of a product of class k: two fragments, and the scales of classes 32 and 64. -/
def mmaReads (a b : BitVec 7) (k : Nat) : List Opnd := [.vec a 4 4, .vec b 4 4] ++ (if k = 16 then [] else [.vec (a + 4) 1 1])

/-- Every register that a product of class k reads has that class. -/
def OfClass (a b : BitVec 7) (k : Nat) (w : Wave) (src : Word) : Prop :=
  ∀ l j, l < 32 → src.getLsbD l = true → j < 4 → classOf (w.grp a j l).tag = k ∧ classOf (w.grp b j l).tag = k

theorem mmaClass_eq {src : Word} (hs : src ≠ 0) (h : OfClass a b k w src) : w.mmaClass a src = k := by
  obtain ⟨hl, hm⟩ := lowest_mem hs
  exact (h (lowest src) 0 hl hm (by decide)).1

theorem mmaTags_none (hk : k ≠ 0) (hl : lanes ≠ 0) (h : OfClass a b k w (tileLanes m lanes)) (hd : groupTagged d 8 1 w lanes) :
    mmaTags d a b m w lanes = none := by
  simp only [mmaTags, mmaClass_eq (tileLanes_ne_zero hl) h]
  refine both_none (firstLane_none fun l hl hm => ?_) (checkGrp_none hd)
  rw [beq_false_of_ne hk, Bool.false_or, List.any_eq_false]
  intro j hj
  obtain ⟨ha, hb⟩ := h l j hl hm (List.mem_range.1 hj)
  simp [ha, hb]

/-- The scale register is the one behind the fragment a, whose number is a multiple of 4. -/
theorem scale_toNat (h : (Opnd.vec a 4 4).bad w = false) : (a + 4).toNat = a.toNat + 4 := by
  simp only [Opnd.bad, Bool.or_eq_false_iff, decide_eq_false_iff_not] at h
  rw [BitVec.toNat_add]
  exact Nat.mod_eq_of_lt (by simp; omega)

/-- Products of classes 32 and 64 find their scale register in the window, full and sound. -/
theorem scale_readable {s : State} {iss : Issue}
    (h : Issues s iss w none (.vec d 8 8 :: mmaReads a b k) true lanes (allSlots m (mmaReads a b k))) (hk : k ≠ 16) :
    w.wb + a.toNat + 4 < w.need ∧ w.emptyIn [.vec (a + 4) 1 1] lanes = false ∧
      s.spoiledLane { ops := [.vec (a + 4) 1 1], reach := allSlots m [.vec (a + 4) 1 1] } w lanes = none := by
  have scale : ∀ o ∈ [Opnd.vec (a + 4) 1 1], o ∈ mmaReads a b k := by simp [mmaReads, hk]
  have h1 : Issues s iss w none [.vec (a + 4) 1 1] true lanes (allSlots m [.vec (a + 4) 1 1]) :=
    h.mono (fun o ho => List.mem_cons_of_mem _ (scale o ho)) (allSlots_subset scale m w)
  have legal := h1.legal _ List.mem_cons_self
  have next := scale_toNat (h.legal (.vec a 4 4) (by simp [mmaReads]))
  simp only [Opnd.bad, next, Bool.or_eq_false_iff, decide_eq_false_iff_not] at legal
  have passes : iss.batch = lanes := h.passes.symm
  exact ⟨by omega, passes ▸ h1.present, h1.sound⟩

theorem completes_mma {i : Instr} (hx : exec i = runMma transposed d a b m) (hm : m.toNat < 2) (hk : k ≠ 0) :
    TileCompletes i d 8 (multiplyOf transposed k d a b m) := by
  intro s iss w lanes (h : Issues s iss w none (.vec d 8 8 :: mmaReads a b k) true lanes (allSlots m (mmaReads a b k))) hn
    ⟨ofClass, acc, scaled⟩
  have fragments : ∀ o ∈ [Opnd.vec a 4 4, .vec b 4 4], o ∈ mmaReads a b k := fun o ho => List.mem_append_left _ ho
  have h0 : Issues s iss w none [.vec d 8 8, .vec a 4 4, .vec b 4 4] true lanes (allSlots m [.vec a 4 4, .vec b 4 4]) :=
    h.mono (List.cons_subset_cons _ fragments) (allSlots_subset fragments m w)
  have inWindow : (k != 16 && decide (w.need ≤ w.wb + a.toNat + 4)) = false :=
    Bool.and_eq_false_imp.2 fun h16 => decide_eq_false (Nat.not_le.2 (scale_readable h (bne_iff_ne.1 h16)).1)
  have full : (k != 16 && w.emptyIn [.vec (a + 4) 1 1] lanes) = false :=
    Bool.and_eq_false_imp.2 fun h16 => (scale_readable h (bne_iff_ne.1 h16)).2.1
  have isF32 : (if k = 16 then none else checkGrp (a + 4) 1 1 w (scaleLanes (tileLanes m lanes))) = none :=
    ite_eq_left_iff.2 fun h16 => checkGrp_none (scaled h16)
  have sound : (if k = 16 then none else
      s.spoiledLane { ops := [.vec (a + 4) 1 1], reach := allSlots m [.vec (a + 4) 1 1] } w lanes) = none :=
    ite_eq_left_iff.2 fun h16 => (scale_readable h h16).2.2
  refine tileFinishes hx h0 (decide_two_le hm) rfl rfl hn (mmaTags_none hk h.someLane ofClass acc)
    (w1 := w.writeAcc d lanes (fun r c =>
      if transposed then w.mmaElem a b k (tileLanes m lanes) c r (w.accWord d r c) else w.mmaElem a b k (tileLanes m lanes) r c (w.accWord d r c)))
    ?_ (acts_writeAcc d _ rfl (fun _ _ => rfl) (fun _ => rfl) rfl (fun _ _ => rfl)) (fun _ _ => rfl)
  simp only [mmaClass_eq (tileLanes_ne_zero h.someLane) ofClass, inWindow, full, isF32, sound, Bool.false_eq_true, if_false]

end

/-! ### The other tile instructions (05 R167 to R172) -/

theorem completes_tzero {m : BitVec 2} (hm : m.toNat < 2) (d : BitVec 7) :
    TileCompletes (.tzero d m) d 8 (accOf d [] (fun _ _ => True) (fun _ _ _ _ => (0, 0))) :=
  tileCompletes (exec_tzero ..) rfl rfl rfl rfl (decide_two_le hm) (fun _ => rfl) rfl (fun _ _ _ => rfl)
    (fun _ _ _ _ => acts_writeAcc d _ rfl (fun _ _ => rfl) (fun _ => rfl) rfl (fun _ _ => rfl)) (fun _ _ => rfl)

/-- A half of a register that is read, or the 0 that stands for one that is not, is a code of 16 bits. -/
theorem readHalf_lt (read : Bool) (e : Nat) (v : Word) : (if read then elemCode 16 e v else 0) < 65536 := by
  cases read
  · exact Nat.zero_lt_succ _
  · exact Nat.mod_lt _ (by decide)

theorem completes_ttrnFragment {m : BitVec 2} (hm : m.toNat < 2) (d a : BitVec 7) :
    TileCompletes (.ttrnFragment d a m) d 4 (transposeHalves d a m) := by
  refine tileCompletes (exec_ttrnFragment ..) rfl rfl rfl rfl (decide_two_le hm) (fun _ => rfl) rfl
    (fun w lanes htag => firstLane_none fun l hl hr => ?_)
    (fun iss lanes w _ => acts_writeRegs d 4 _ rfl (fun j l hl hj _ => ?_) rfl (fun _ => rfl) (fun _ _ => rfl)) (fun _ _ => rfl)
  · obtain ⟨half, same⟩ := htag
    rw [half, Bool.not_true, Bool.false_or, List.any_eq_false]
    intro j hj
    rw [same l j hl hr (List.mem_range.1 hj)]
    simp
  · simp only [transposeHalves, Nat.add_sub_cancel_left, packCodes_halves]
    rw [Nat.mod_eq_of_lt (readHalf_lt ..), Nat.mod_eq_of_lt (readHalf_lt ..)]

theorem completes_ttrnAccumulator {m : BitVec 2} (hm : m.toNat < 2) (d a : BitVec 7) :
    TileCompletes (.ttrnAccumulator d a m) d 8 { accOf d [.vec a 8 8] (fun w src => groupTagged a 8 1 w (tileLanes m src))
      (fun w lanes r c => (if (tileLanes m lanes).getLsbD (accPlace c r).1 then w.accWord a c r else 0, 0)) with
        reach := allSlots m [.vec a 8 8] } :=
  tileCompletes (exec_ttrnAccumulator ..) rfl rfl rfl rfl (decide_two_le hm) (fun _ => rfl) rfl (fun _ _ htag => checkGrp_none htag)
    (fun _ _ _ _ => acts_writeAcc d _ rfl (fun _ _ => rfl) (fun _ => rfl) rfl (fun _ _ => rfl)) (fun _ _ => rfl)

theorem completes_tact {f : BitVec 3} {m : BitVec 2} (hm : m.toNat < 2) (hf : f.toNat < 6) (d a : BitVec 7) :
    TileCompletes (.tact d a f m) d 8 (accOf d [.vec a 8 8] (groupTagged a 8 1) (fun w _ r c => actFn f.toNat (w.accWord a r c))) :=
  tileCompletes (exec_tact ..) rfl rfl rfl rfl (by simp [hm, hf]) (fun _ => rfl) rfl (fun _ _ htag => checkGrp_none htag)
    (fun _ _ _ _ => acts_writeAcc d _ rfl (fun _ _ => rfl) (fun _ => rfl) rfl (fun _ _ => rfl)) (fun _ _ => rfl)

theorem completes_tcvt {t : BitVec 6} {m : BitVec 2} (hm : m.toNat < 2) (hc : tcvtOk t = true) (ht : tagDefined t = true) (d a : BitVec 7)
    (s : BitVec 1) : TileCompletes (.tcvt d a s t m) d 4 (convertTile d a s t) :=
  tileCompletes (exec_tcvt ..) rfl rfl rfl rfl (by simp [hm, hc]) (fun _ => by rw [ht]; rfl) rfl (fun _ _ htag => checkGrp_none htag)
    (fun _ _ _ _ => acts_writeRegsRaise d 4 _ _ rfl (fun j l _ _ _ => by simp only [convertTile, Nat.add_sub_cancel_left]) (fun _ _ _ => rfl) rfl
      (fun _ _ => rfl)) (fun _ _ => rfl)

theorem completes_tred {o m : BitVec 2} (hm : m.toNat < 2) (ho : o ≠ 3) (d a : BitVec 7) :
    TileCompletes (.tred d a o m) d 1 (reduceOf d a o m) :=
  tileCompletes (exec_tred ..) rfl rfl rfl rfl (by rw [decide_two_le hm, beq_false_of_ne ho]; rfl) (fun _ => rfl) rfl
    (fun _ _ htag => checkGrp_none htag)
    (fun _ _ _ _ => acts_writeFieldRaise d _ _ rfl (fun _ _ _ => rfl) (fun _ _ _ => rfl) rfl (fun _ _ => rfl)) (fun _ _ => rfl)

theorem completes_tbias {m : BitVec 2} (hm : m.toNat < 2) (d a b : BitVec 7) :
    TileCompletes (.tbias d a b m) d 8 { accOf d [.vec a 8 8, .vec b 1 1]
      (fun w src => groupTagged a 8 1 w (tileLanes m src) ∧ groupTagged b 1 1 w (tileLanes m src &&& 0xFFFF))
      (fun w lanes r c => sumF32 .rne false [f32 (w.accWord a r c),
        f32 (if (tileLanes m lanes &&& 0xFFFF).getLsbD c then (w.grp b 0 c).val else 0)]) with
        reach := fun w => allSlots m [.vec a 8 8] w ++
          (if m = 0 then (List.range 16).map (fun l => Site.register w.uid (cellAt (w.wb + b.toNat) l)) else []) } :=
  tileCompletes (exec_tbias ..) rfl rfl rfl rfl (decide_two_le hm) (fun _ => rfl) rfl
    (fun _ _ htag => both_none (p := fun w batch => checkGrp a 8 1 w (tileLanes m batch))
      (q := fun w batch => checkGrp b 1 1 w (tileLanes m batch &&& 0xFFFF)) (checkGrp_none htag.1) (checkGrp_none htag.2))
    (fun _ _ _ _ => acts_writeAcc d _ rfl (fun _ _ => rfl) (fun _ => rfl) rfl (fun _ _ => rfl)) (fun _ _ => rfl)

/-- Settles O15: products class by class, the rest instruction by instruction. -/
theorem tileResults : Obligations.TileResults := by
  unfold Obligations.TileResults
  intro d a b s t f o m
  have tmma {k : Nat} (hm : m.toNat < 2) (hk : k ≠ 0) : TileCompletes (.tmma d a b m) d 8 (multiplyOf false k d a b m) :=
    completes_mma (exec_tmma ..) hm hk
  have tmmat {k : Nat} (hm : m.toNat < 2) (hk : k ≠ 0) : TileCompletes (.tmmat d a b m) d 8 (multiplyOf true k d a b m) :=
    completes_mma (exec_tmmat ..) hm hk
  exact ⟨fun hm => ⟨tmma hm (by decide), tmma hm (by decide), tmma hm (by decide)⟩,
    fun hm => ⟨tmmat hm (by decide), tmmat hm (by decide), tmmat hm (by decide)⟩, fun hm => completes_tzero hm d,
    fun hm => completes_ttrnFragment hm d a, fun hm => completes_ttrnAccumulator hm d a, fun hm hf => completes_tact hm hf d a,
    fun hm hc ht => completes_tcvt hm hc ht d a s, fun hm ho => completes_tred hm ho d a, fun hm => completes_tbias hm d a b⟩

end Sys2Proof.Machine

/-! Loads and stores of separate words and of fragments (06 R186, R187, R189, R190; 01 R37, R44). -/

namespace Sys2Proof.Machine

/-! ### Loads of separate words (06 R186, R187, R190) -/

/-- The cells that a load of k separate words a lane marks EMPTY are those of its registers in its lanes. -/
theorem mem_elementAsks_cell {d : BitVec 7} {tag : Wave → BitVec 6} {addrs : Issue → Word → Wave → Nat → List Addr} {iss : Issue}
    {lanes : Word} {w : Wave} {got : List (Nat × List Place)} {k : Nat} (hg : got.map Prod.fst = lanesOf lanes)
    (hk : ∀ g ∈ got, g.2.length = k) {r l : Nat} (hl : l < 32) :
    cellAt r l ∈ (elementAsks d tag addrs iss lanes w got).map Ask.cell ↔
      r ∈ (List.range k).map (fun j => w.wb + d.toNat + j) ∧ lanes.getLsbD l = true := by
  have lane (g) (h : g ∈ got) : g.1 < 32 ∧ lanes.getLsbD g.1 = true := mem_lanesOf.1 (hg ▸ List.mem_map_of_mem h)
  simp only [elementAsks, List.mem_map, List.mem_flatMap, List.mem_mapIdx, List.mem_range]
  constructor
  · rintro ⟨_, ⟨g, hgot, j, hj, rfl⟩, hc⟩
    obtain ⟨rfl, rfl⟩ := (cellAt_inj (lane g hgot).1 hl).1 hc
    exact ⟨⟨j, hk g hgot ▸ hj, rfl⟩, (lane g hgot).2⟩
  · rintro ⟨⟨j, hj, rfl⟩, hm⟩
    obtain ⟨g, hgot, rfl⟩ : ∃ g ∈ got, g.1 = l := by
      rw [← List.mem_map, hg]
      exact mem_lanesOf.2 ⟨hl, hm⟩
    exact ⟨_, ⟨g, hgot, j, (hk g hgot).symm ▸ hj, rfl⟩, rfl⟩

/-- Where a load of separate words finds its bytes or their tiles' homes, it marks its registers EMPTY and is counted. -/
theorem runLoad_of_loads {acc : Access} {inv : Bool} {tol k : Nat} {addrs : Issue → Word → Wave → Nat → List Addr} {d : BitVec 7}
    {t : BitVec 6} {guard : Option Nat} {ops : List Opnd} {s u : State} {iss : Issue} {lanes : Word} {w : Wave} {known : Op → Prop}
    (hk : ∀ l, (addrs iss lanes w l).length = k) (hsize : min acc.size 4 = 4)
    (h : loads acc inv tol addrs (elementAsks d (fun _ => t) addrs) s iss lanes w = some (u, known)) :
    ∃ o w1, Acts (loadEffect d k guard ops) iss lanes w w1 ∧ known o ∧
      s.runLoad iss w lanes d acc inv tol t (addrs iss lanes w) = .done (u.retire iss ((w1.count .ld o).finish iss)) := by
  obtain ⟨s1, got, s2, ws, hgot, hwait, hws, rfl, rfl⟩ := loads_eq_some h
  obtain ⟨_, rfl, hlanes, hlength⟩ := checkLanes_shape _ _ _ _ _ _ _ _ _ hgot
  obtain ⟨o, ho, hdone⟩ := issueLoad_of_gather hwait hws
  refine ⟨o, _, acts_load fun _ _ hl => mem_elementAsks_cell (addrs := addrs) (iss := iss) (tag := fun _ => t) hlanes (fun g hg => (hlength g hg).trans (hk _)) hl, ho, ?_⟩
  unfold State.runLoad
  simp only [hgot, hsize]
  exact hdone

theorem completesIn_ldf (d a : BitVec 7) {t : BitVec 6} (g : BitVec 2) (ht : tagDefined t = true) :
    CompletesIn (.ldf d a t g) (some .ld) (loadEffect d 1 (some g.toNat) [.vec d 1 1, .vec a 2 2])
      (loads (Access.load 4) false 31 (fun _ _ w l => [w.pair a l]) (elementAsks d (fun _ => t) (fun _ _ w l => [w.pair a l]))) :=
  completesIn_counted (exec_ldf ..) rfl (fun _ => id) rfl rfl (fun _ _ _ _ _ _ => by simp [ht]) rfl (fun _ _ _ => rfl) (fun _ _ => rfl)
    fun _ _ _ _ _ _ _ _ hout => runLoad_of_loads (fun _ => rfl) rfl hout

theorem completesIn_lde (d a : BitVec 7) (e : BitVec 5) (g : BitVec 2) :
    CompletesIn (.lde d a e g) (some .ld) (loadEffect d 1 (some g.toNat) [.vec d 1 1, .vec a 2 2])
      (loads { Access.load 4 with bounded := true } false e.toNat (fun _ _ w l => [w.pair a l])
        (elementAsks d (fun _ => 0) (fun _ _ w l => [w.pair a l]))) :=
  completesIn_counted (exec_lde ..) rfl (fun _ => id) rfl rfl (fun _ _ _ _ _ _ => rfl) rfl (fun _ _ _ => rfl) (fun _ _ => rfl)
    fun _ _ _ _ _ _ _ _ hout => runLoad_of_loads (fun _ => rfl) rfl hout

/-! ### Fragments (06 R189, R190) -/

/-- The D group that a fragment's stride word asks for. -/
theorem fragBad_of_strideOf {d b : BitVec 7} {w : Wave} {r : Stride} (hr : strideOf (w.sget b.toNat) = some r) :
    fragBad d b w = (Opnd.vec d r.regs r.regs).bad w := by
  unfold fragBad
  rw [hr]

/-- Nothing is on its way to a group whose registers are named by the operands of an issue of the whole batch that executes. -/
theorem Issues.not_fragWaits {s : State} {iss : Issue} {w : Wave} {ops : List Opnd} {lanes : Word} {reach : Wave → List Site}
    (h : Issues s iss w none ops false lanes reach) {d : BitVec 7} {n : Nat} (hd : .vec d n n ∈ ops) : w.fragWaits d n lanes = false := by
  obtain rfl : lanes = iss.batch := h.passes
  have one := h.mono (ops' := [.vec d n n]) (by simpa using hd) fun _ => id
  unfold Wave.fragWaits
  rw [one.present, Bool.false_or, List.any_eq_false]
  exact fun m hm => by simpa using one.idle rfl _ (List.mem_singleton_self _) m hm

theorem fragAddrs_eq (r : Stride) (a : BitVec 7) (iss : Issue) (lanes : Word) (w : Wave) :
    fragAddrs r a iss lanes w = r.addrs (w.pair a (lowest lanes)) := rfl

theorem fragAddrs_length (r : Stride) (a : BitVec 7) (iss : Issue) (lanes : Word) (w : Wave) (l : Nat) :
    (fragAddrs r a iss lanes w l).length = r.regs := by simp [fragAddrs]

theorem completesIn_tld (d a b : BitVec 7) {m : BitVec 2} (hm : m.toNat < 2) (r : Stride) : CompletesIn (.tld d a b m) (some .ld)
    { loadEffect d r.regs none [.vec a 2 2, .scl b 1, .vec d r.regs r.regs] with
      tags := fun w lanes => strideOf (w.sget b.toNat) = some r ∧ (w.pair a (lowest lanes)).toNat % 32 = 0 }
    (loads (Access.load 4) false 31 (fragAddrs r a) (elementAsks d (fun _ => r.tag) (fragAddrs r a))) := by
  refine completesIn_counted (exec_tld ..) rfl (fun o ho => ?_) rfl (decide_eq_false (by omega)) (fun s iss w lanes h htag => ?_) rfl
    (fun _ _ _ => rfl) (fun _ _ => rfl) fun s iss lanes w t known h htag hout => ?_
  · simp only [preFrag, List.mem_cons] at ho
    simp only [loadEffect, List.mem_cons]
    tauto
  · exact (fragBad_of_strideOf htag.1).trans (h.legal _ (by simp [loadEffect]))
  · obtain ⟨hr, aligned⟩ := htag
    obtain ⟨o, w1, acts, ho, hdone⟩ := runLoad_of_loads (guard := none) (ops := [.vec a 2 2, .scl b 1, .vec d r.regs r.regs])
      (fragAddrs_length r a iss lanes w) rfl hout
    refine ⟨o, w1, ⟨acts.only, acts.cells, acts.scalars, acts.flags, acts.fibres⟩, ho, ?_⟩
    rw [fragAddrs_eq] at hdone
    simp only [hr, h.not_fragWaits (d := d) (n := r.regs) (by simp [loadEffect]), aligned]
    exact hdone

/-- Settles O16: a wide load asks for its words, LDF, LDE and TLD for separate words, and each marks its registers EMPTY. -/
theorem loadsComplete : Obligations.LoadsComplete := by
  unfold Obligations.LoadsComplete
  exact fun d a b i t e g m => ⟨completesIn_fbLoad (exec_ldb ..) rfl, completesIn_fbLoad (exec_ldh ..) rfl,
    completesIn_fbLoad (exec_ldw ..) rfl, completesIn_fbLoad (exec_ldd ..) rfl, completesIn_fbLoad (exec_ldq ..) rfl,
    completesIn_fbLoad (exec_ldv ..) rfl, completesIn_ldf d a g, completesIn_lde d a e g, fun r hm => completesIn_tld d a b hm r⟩

/-! ### Stores of a fragment (06 R190) -/

/-- The elements that TST writes: register j of a lane at the lane's address j. -/
def fragPuts (d : BitVec 7) (_ : Issue) (w : Wave) (got : List (Nat × List Place)) : List Put :=
  got.flatMap (fun x => x.2.mapIdx (fun j p => { place := p, bytes := bytesOf 4 (w.grp d j x.1).val.toNat }))

theorem completesIn_tst (d a b : BitVec 7) {m : BitVec 2} (hm : m.toNat < 2) (r : Stride) : CompletesIn (.tst d a b m) (some .st)
    { guard := none, ops := [.vec a 2 2, .scl b 1, .vec d r.regs r.regs],
      tags := fun w lanes => strideOf (w.sget b.toNat) = some r ∧ (w.pair a (lowest lanes)).toNat % 32 = 0 }
    (stores (Access.store 4) (fragAddrs r a) (fragPuts d)) := by
  intro s iss w lanes t known h hcount ⟨hr, aligned⟩ hout
  obtain ⟨s1, got, o, hgot, ho, hdone⟩ := stores_eq_some hout
  obtain ⟨w', hret, same, counts, does⟩ := Does.retireStored (e := {}) (w := w)
    (does_finish iss lanes ((w.notePriv (fragPuts d iss w got)).count .st o)) (stored_afterStore w iss _ o) (fun _ _ => rfl) t
  refine ⟨w', ?_, same, does, o, counts, ho⟩
  have issues : Issues s iss w none (preFrag d a b m .st).ops false lanes := h.mono (by simp [preFrag]) fun _ => id
  have legal : fragBad d b w = false := (fragBad_of_strideOf hr).trans (h.legal _ (by simp))
  rw [exec_tst, execTst, Issues.runState (p := preFrag d a b m .st) issues (decide_two_le hm) legal
    (by rintro _ ⟨⟩; exact hcount _ rfl) rfl]
  rw [fragAddrs_eq] at hgot
  change s1.issueStore iss w (got.flatMap fun x => x.2.mapIdx fun j p => { place := p, bytes := bytesOf 4 (w.grp d j x.1).val.toNat }) = _ at hdone
  simp only [hr, h.not_fragWaits (d := d) (n := r.regs) (by simp), aligned, hgot, hdone, Bool.false_eq_true, if_false, ne_eq, not_true]
  exact congrArg Host.Outcome.next hret

/-- Settles O17: a wide store performs the low bytes of its registers, TST one word a register. -/
theorem storesComplete : Obligations.StoresComplete := by
  unfold Obligations.StoresComplete
  exact fun d a b i m => ⟨completesIn_fbStore (exec_stb ..) rfl, completesIn_fbStore (exec_sth ..) rfl, completesIn_fbStore (exec_stw ..) rfl,
    completesIn_fbStore (exec_std ..) rfl, completesIn_fbStore (exec_stq ..) rfl, fun r hm => completesIn_tst d a b hm r⟩

end Sys2Proof.Machine

/-! Phase boundaries, barriers and MONW (06 R197 to R200; 08 R252). -/

namespace Sys2Proof.Machine

/-! ### Waves that yield or wait as their issue completes (01 R16, R18) -/

/-- Yielding before its issue has completed is marked in the fibres alone. -/
theorem does_yieldFrom {e : Effect} {iss : Issue} {w w1 : Wave} (only : OnlyFibres (w.finish iss) w1)
    (fibres : ∀ l, l < 32 → w1.fib l = if iss.batch.getLsbD l then
      { e.fibre iss iss.batch w l (w.fib l) with pc := iss.next, owed := 0 } else w.fib l)
    (ha : e.after = yields) (hr : e.regs w = []) (hs : e.scalars iss iss.batch w = []) (hf : ∀ l, e.flags iss.batch w l = 0)
    (hk : ∀ w w', e.keep w w' = none) : Does e iss iss.batch w (w1.yieldFrom iss.batch) := by
  refine does_of_onlyFibres (only.trans (.mapFibs _ _ _)) (fun l hl => ?_) hr hs hf hk
  rw [yieldFrom_fib w1 iss iss.batch w hl, fibres l hl, ha]
  split <;> rfl

/-- A batch that yields as its issue completes. -/
theorem does_finish_yieldFrom (iss : Issue) (w : Wave) : Does { after := yields } iss iss.batch w ((w.finish iss).yieldFrom iss.batch) :=
  does_yieldFrom (.refl _) (fun l hl => finish_fib w iss l hl) rfl rfl rfl (fun _ => rfl) (fun _ _ => rfl)

/-- A batch whose region ends and that yields as its issue completes (06 R197). -/
theorem does_endRegion_yieldFrom (iss : Issue) (w : Wave) :
    Does { fibre := regionEnds, after := yields } iss iss.batch w (((w.finish iss).endRegion iss).yieldFrom iss.batch) := by
  refine does_yieldFrom (.mapFibs _ _ _) (fun l hl => ?_) rfl rfl rfl (fun _ => rfl) (fun _ _ => rfl)
  rw [Wave.endRegion, mapFibs_fib _ _ _ _ hl, finish_fib w iss l hl]
  split <;> rfl

/-- A running wave that is put back to wait still waits for that. -/
theorem retire_waiting {e : Effect} {iss : Issue} {lanes : Word} {w w2 : Wave} {why : Wait} (D : Does e iss lanes w w2)
    (only : OnlyFibres (w.finish iss) w2) (running : w.run = .running) (hk : ∀ w w', e.keep w w' = none) (t : State) :
    ∃ w', t.retire iss { w2 with wait := some why } = t.setWave iss.wave w' ∧ SameWave w w' ∧ Does e iss lanes w w' ∧ w'.wait = some why := by
  obtain ⟨fs, hfin⟩ := finish_eq w iss
  obtain ⟨fs', h2⟩ := only
  rw [hfin] at h2
  obtain ⟨r, sk, cp, tx, wt, hret, kept⟩ := retire_cases t iss { w2 with wait := some why }
  obtain ⟨cells, scalars, flags, fibres, keeps⟩ := D
  have waiting : wt = some why := (kept (by rw [h2]; exact running)).2.2.2
  refine ⟨_, hret, ?_, ⟨cells, scalars, flags, fibres, ?_⟩, waiting⟩
  · rw [h2] at kept ⊢
    exact ⟨rfl, rfl, rfl, rfl, rfl, rfl, rfl, rfl, rfl, rfl, rfl, rfl, rfl, fun h => (kept h).1⟩
  · rw [hk] at keeps ⊢
    exact keeps

/-! ### PHASE (06 R198) -/

theorem finishes_phase {c : BitVec 2} {s : State} {iss : Issue} {w : Wave} {lanes : Word} (h : Issues s iss w none [] false lanes)
    (passed : (s.boundary (cidOf iss.wave) w c.toNat).2 = true) :
    Finishes (.phase c) s (s.boundary (cidOf iss.wave) w c.toNat).1 iss lanes w {} :=
  finishes_runState (kept := none) (p := { guard := none }) (exec_phase c) h rfl rfl rfl rfl
    (by rw [show s.boundary (cidOf iss.wave) w c.toNat = (_, true) from Prod.ext rfl passed]; rfl)
    (acts_nothing rfl rfl (fun _ => rfl) (fun _ _ => rfl)) (fun _ _ _ _ _ => rfl)

theorem exec_phase_of_held {c : BitVec 2} {s : State} {iss : Issue} {w : Wave} {lanes : Word} (h : Issues s iss w none [] false lanes)
    (held : (s.boundary (cidOf iss.wave) w c.toNat).2 = false) :
    exec (.phase c) s = .next ((s.boundary (cidOf iss.wave) w c.toNat).1.waitIssue iss) := by
  rw [exec_phase, execPhase, Issues.runState (p := { guard := none }) h rfl rfl (fun _ h => nomatch h) rfl,
    show s.boundary (cidOf iss.wave) w c.toNat = (_, false) from Prod.ext rfl held]

/-! ### BAR (06 R199) -/

/-- The group a wave has arrived at (06 R199). -/
def Group.arrive (g : Group) (wid : Nat) : Group := { g with arrived := g.arrived ++ [wid] }

/-- BAR past its boundary: the wave waits, its group has its arrival, and the barrier is released if that was the last. -/
theorem exec_bar_of_passed {b : BitVec 1} {s : State} {iss : Issue} {w : Wave} {lanes : Word} (h : Issues s iss w none [] false lanes)
    (passed : (s.boundary (cidOf iss.wave) w b.toNat).2 = true) (running : w.run = .running) :
    ∃ w', SameWave w w' ∧ Does { after := yields } iss lanes w w' ∧ w'.wait = some (.bar iss.batch) ∧
      exec (.bar b) s = .next ((((s.boundary (cidOf iss.wave) w b.toNat).1.modGroup w.group (·.arrive w.wid)).setWave
        iss.wave w').releaseBarrier w.group) := by
  obtain rfl : lanes = iss.batch := h.passes
  obtain ⟨w', hret, same, does, waiting⟩ := retire_waiting (why := .bar iss.batch) (does_finish_yieldFrom iss w) (.mapFibs _ _ _)
    running (fun _ _ => rfl) ((s.boundary (cidOf iss.wave) w b.toNat).1.modGroup w.group (·.arrive w.wid))
  refine ⟨w', same, does, waiting, ?_⟩
  rw [exec_bar, execBar, Issues.runState (p := { guard := none }) h rfl rfl (fun _ h => nomatch h) rfl,
    show s.boundary (cidOf iss.wave) w b.toNat = (_, true) from Prod.ext rfl passed]
  exact congrArg (fun t => Host.Outcome.next (State.releaseBarrier t w.group)) hret

/-- Where the keys rise, changing the value listed under a key puts there what becomes of it. -/
theorem SMap_modify_eq_put {α : Type} {m : SMap α} {j : Nat} {u : α} (hr : m.rising = true) (hf : m.find? j = some u) (f : α → α) :
    m.modify j f = m.put j (f u) := by
  have distinct : (m.map Prod.fst).Nodup := List.pairwise_map.2 (((SMap.rising_iff m).1 hr).imp Nat.ne_of_lt)
  rw [SMap_put_eq_modify hr hf]
  refine List.map_congr_left fun p hp => ?_
  by_cases hj : p.1 = j
  · rw [if_pos hj, if_pos hj, List.inj_on_of_nodup_map distinct hp (SMap_mem_of_find? hf) hj]
  · rw [if_neg hj, if_neg hj]

/-- What O28 says of BAR, where the group map is in its canonical form. -/
theorem exec_bar_of_rising {b : BitVec 1} {s : State} {iss : Issue} {w : Wave} {lanes : Word} {g : Group}
    (h : Issues s iss w none [] false lanes) (passed : (s.boundary (cidOf iss.wave) w b.toNat).2 = true) (running : w.run = .running)
    (hg : (s.boundary (cidOf iss.wave) w b.toNat).1.group w.group = some g)
    (rising : (s.boundary (cidOf iss.wave) w b.toNat).1.groups.rising = true) :
    ∃ w', SameWave w w' ∧ Does { after := yields } iss lanes w w' ∧ w'.wait = some (.bar iss.batch) ∧
      exec (.bar b) s = .next ((((s.boundary (cidOf iss.wave) w b.toNat).1.setGroup w.group (g.arrive w.wid)).setWave
        iss.wave w').releaseBarrier w.group) := by
  obtain ⟨w', same, does, waiting, ran⟩ := exec_bar_of_passed h passed running
  rw [State.modGroup, SMap_modify_eq_put rising hg] at ran
  exact ⟨w', same, does, waiting, ran⟩

/-- A barrier that some wave has not reached releases nobody. -/
theorem releaseBarrier_of_missing {s : State} {gk : Nat} {g : Group} (hg : s.group gk = some g)
    (missing : ∃ i, i < g.waves ∧ i ∉ g.retired ∧ i ∉ g.arrived) : s.releaseBarrier gk = s := by
  obtain ⟨i, hi, hr, ha⟩ := missing
  have waits : ((List.range g.waves).filter (fun i => !g.retired.contains i)).all g.arrived.contains = false :=
    List.all_eq_false.2 ⟨i, by simp [hi, hr], by simp [ha]⟩
  unfold State.releaseBarrier
  simp only [hg, waits, Bool.and_false, Bool.false_eq_true, if_false]

/-- A wave whose barrier is released: its batch's region starts at its PC (01 R46; 06 R199). -/
def Wave.passBarrier (w : Wave) : Wave :=
  match w.wait with
  | some (.bar batch) => { w.mapFibs batch (fun _ f => { f with region := f.pc, fresh := false }) with wait := none }
  | _ => w

theorem foldl_dropClean_waves (cores : List Nat) (s : State) : (cores.foldl State.dropClean s).waves = s.waves := by
  induction cores generalizing s with
  | nil => rfl
  | cons c cs ih => exact ih (s.dropClean c)

/-- Each wave of a group all of whose waves have arrived passes the barrier. -/
theorem releaseBarrier_find? {s : State} {gk k : Nat} {g : Group} {w : Wave} (hg : s.group gk = some g) (some_arrived : g.arrived ≠ [])
    (all : ∀ i, i < g.waves → i ∉ g.retired → i ∈ g.arrived) (hw : s.waves.find? k = some w) (hgk : w.group = gk) :
    (s.releaseBarrier gk).waves.find? k = some w.passBarrier := by
  have arrived : ((List.range g.waves).filter (fun i => !g.retired.contains i)).all g.arrived.contains = true := by
    simpa [or_iff_not_imp_left] using all
  unfold State.releaseBarrier
  simp only [hg, arrived, Bool.and_true, Bool.not_eq_true', List.isEmpty_eq_false_iff.2 some_arrived, if_true]
  rw [State.modGroup, foldl_dropClean_waves]
  refine (SMap_find?_map s.waves (fun v => if v.group = gk then v.passBarrier else v) k).trans ?_
  rw [hw, Option.map_some, if_pos hgk]

theorem passBarrier_of_bar {w : Wave} {m : Word} (hw : w.wait = some (.bar m)) :
    w.passBarrier.wait = none ∧ w.passBarrier.regs = w.regs ∧ ∀ l, l < 32 →
      (w.passBarrier.fib l).pc = (w.fib l).pc ∧ (w.passBarrier.fib l).region = if m.getLsbD l then (w.fib l).pc else (w.fib l).region := by
  obtain ⟨fs, hfs⟩ := mapFibs_eq w m (fun _ f => { f with region := f.pc, fresh := false })
  have passed : w.passBarrier = { w.mapFibs m (fun _ f => { f with region := f.pc, fresh := false }) with wait := none } := by
    unfold Wave.passBarrier
    rw [hw]
  rw [passed]
  refine ⟨rfl, by rw [hfs], fun l hl => ?_⟩
  change ((w.mapFibs m _).fib l).pc = _ ∧ ((w.mapFibs m _).fib l).region = _
  rw [mapFibs_fib _ _ _ _ hl]
  split <;> exact ⟨rfl, rfl⟩

/-! ### MONW (06 R197; 08 R252) -/

section

variable {k : BitVec 4} {a b : BitVec 7} {c : BitVec 2} {s s1 s3 : State} {iss : Issue} {w : Wave} {lanes : Word} {key : Nat}
  {coded : Bool} {limit : Option Word} {p : Option Nat} {bs : List Byte}

/-- The checks MONW makes of its word. -/
def monwAccess : Access := ⟨4, 4, false, false, .r, false⟩

/-- MONW of a local word that passes its checks and can be read. -/
theorem exec_monw_of_read (hk : k.toNat < 10) (h : Issues s iss w none [.vec a 2 2, .src b] false lanes)
    (hgot : s.checkLanes iss.wave w monwAccess (fun l => [w.pair a l]) [lowest lanes] [] =
      (s1, .ok [(lowest lanes, [⟨.mem key coded, limit, p⟩])]))
    (hown : s1.ownFirst w key 4 false = false) (hlocal : (s1.yieldLine (cidOf iss.wave) (lineOf key)).isLocal key = true)
    (hread : (s1.yieldLine (cidOf iss.wave) (lineOf key)).tileReadAs 0 31 key 4 coded = (s3, .ok bs)) :
    exec (.monw k a b c) s = .next (if monHolds k.toNat (BitVec.ofNat 32 (ofBytes bs)) (w.src b (lowest lanes)).val then
        s3.retire iss (((w.finish iss).endRegion iss).yieldFrom iss.batch)
      else (s3.addMonitor ⟨w.ctx, iss.wave, w.uid, none, key, coded, (w.src b (lowest lanes)).val, k.toNat⟩).retire iss
        { (w.finish iss).yieldFrom iss.batch with
          wait := some (.monw ⟨iss, lowest lanes, w.pair a (lowest lanes), key, coded, (w.src b (lowest lanes)).val, k.toNat, s.cycle⟩) }) := by
  unfold monwAccess at hgot
  rw [exec_monw, execMonw, Issues.runState (p := { guard := none, reserved := 10 ≤ k.toNat, ops := [.vec a 2 2, .src b] }) h
    (decide_eq_false (Nat.not_le.2 hk)) rfl (fun _ h => nomatch h) rfl]
  simp only [hgot, List.flatMap_cons, List.flatMap_nil, List.append_nil, List.head?_cons, hown, hlocal, hread, Bool.false_eq_true,
    if_false, if_true]
  cases monHolds k.toNat (BitVec.ofNat 32 (ofBytes bs)) (w.src b (lowest lanes)).val <;> rfl

theorem finishes_monw (hk : k.toNat < 10) (h : Issues s iss w none [.vec a 2 2, .src b] false lanes)
    (hgot : s.checkLanes iss.wave w monwAccess (fun l => [w.pair a l]) [lowest lanes] [] =
      (s1, .ok [(lowest lanes, [⟨.mem key coded, limit, p⟩])]))
    (hown : s1.ownFirst w key 4 false = false) (hlocal : (s1.yieldLine (cidOf iss.wave) (lineOf key)).isLocal key = true)
    (hread : (s1.yieldLine (cidOf iss.wave) (lineOf key)).tileReadAs 0 31 key 4 coded = (s3, .ok bs))
    (holds : monHolds k.toNat (BitVec.ofNat 32 (ofBytes bs)) (w.src b (lowest lanes)).val = true) :
    Finishes (.monw k a b c) s s3 iss lanes w { fibre := regionEnds, after := yields } := by
  obtain rfl : lanes = iss.batch := h.passes
  have only : OnlyFibres (w.finish iss) (((w.finish iss).endRegion iss).yieldFrom iss.batch) :=
    (OnlyFibres.mapFibs _ _ _).trans (.mapFibs _ _ _)
  obtain ⟨w', hret, rest⟩ := (does_endRegion_yieldFrom iss w).retire (only_of_finish only.withRegs) (fun _ _ => rfl) s3
  exact ⟨w', by rw [exec_monw_of_read hk h hgot hown hlocal hread, if_pos holds, hret], rest⟩

theorem exec_monw_parks (hk : k.toNat < 10) (h : Issues s iss w none [.vec a 2 2, .src b] false lanes)
    (hgot : s.checkLanes iss.wave w monwAccess (fun l => [w.pair a l]) [lowest lanes] [] =
      (s1, .ok [(lowest lanes, [⟨.mem key coded, limit, p⟩])]))
    (hown : s1.ownFirst w key 4 false = false) (hlocal : (s1.yieldLine (cidOf iss.wave) (lineOf key)).isLocal key = true)
    (hread : (s1.yieldLine (cidOf iss.wave) (lineOf key)).tileReadAs 0 31 key 4 coded = (s3, .ok bs))
    (fails : monHolds k.toNat (BitVec.ofNat 32 (ofBytes bs)) (w.src b (lowest lanes)).val = false) (running : w.run = .running) :
    ∃ w', exec (.monw k a b c) s =
        .next ((s3.addMonitor ⟨w.ctx, iss.wave, w.uid, none, key, coded, (w.src b (lowest lanes)).val, k.toNat⟩).setWave iss.wave w') ∧
      SameWave w w' ∧ Does { after := yields } iss lanes w w' ∧
      w'.wait = some (.monw ⟨iss, lowest lanes, w.pair a (lowest lanes), key, coded, (w.src b (lowest lanes)).val, k.toNat, s.cycle⟩) := by
  obtain rfl : lanes = iss.batch := h.passes
  obtain ⟨w', hret, rest⟩ := retire_waiting (does_finish_yieldFrom iss w) (.mapFibs _ _ _) running (fun _ _ => rfl) _
  exact ⟨w', by rw [exec_monw_of_read hk h hgot hown hlocal hread, if_neg (by rw [fails]; decide), hret], rest⟩

end

/-! ### The whole of O28 -/

/-- A state outside the canonical form: the keys of its group map do not rise. Its group 0 waits for a second wave. -/
def unorderedGroups : State := { tPut (tAt [] []) with groups := [(1, tTwo []), (0, tTwo [])] }

theorem unorderedGroups_issues : Issues unorderedGroups tIssue (tAt [] []) none [] false 1 :=
  ⟨rfl, rfl, rfl, by decide, nofun, rfl, nofun, rfl⟩

/-- Refutes O28: its third clause asks that BAR puts the arrival into the group map under the group's key, of every state and not only of
those whose group map is in its canonical form. BAR changes the group in its place; where group 1 is listed before group 0, the group
put is a third entry. `exec_bar_of_rising` has that clause for a group map whose keys rise; the other clauses hold of every state:
`finishes_phase`, `exec_phase_of_held`, `releaseBarrier_of_missing`, `releaseBarrier_find?` with `passBarrier_of_bar`, `finishes_monw`,
`exec_monw_parks`. -/
theorem not_boundariesAndBarriers : ¬ Obligations.BoundariesAndBarriers := by
  unfold Obligations.BoundariesAndBarriers
  intro h
  obtain ⟨-, -, bar, -⟩ := h.1 0 0
  obtain ⟨w', -, -, -, asked⟩ := bar unorderedGroups tIssue (tAt [] []) 1 (tTwo []) unorderedGroups_issues rfl rfl rfl
  obtain ⟨w'', -, -, -, done⟩ := exec_bar_of_passed (b := 0) unorderedGroups_issues rfl rfl
  rw [releaseBarrier_of_missing (g := (tTwo []).arrive 0) rfl ⟨1, by decide⟩] at asked done
  have entries : (unorderedGroups.groups.modify 0 (·.arrive 0)).length = (unorderedGroups.groups.put 0 ((tTwo []).arrive 0)).length :=
    congrArg (fun t => t.groups.length) (Host.Outcome.next.inj (done.symm.trans asked))
  exact absurd entries (by decide)

end Sys2Proof.Machine

/-! Instructions whose lanes return values, and ENQ and DEQ among them (06 R192 to R196; 01 R37, R44, R46). -/

namespace Sys2Proof.Machine

/-! ### Counting the values returned on LD (01 R37, R44, R46) -/

/-- The operation that counts the values of these lanes. -/
def State.returnOp (s : State) (iss : Issue) (rs : List Reply) : Op :=
  { uid := s.fresh, kind := .ret, iss := iss, writes := rs.map (fun r => ⟨r.cell, r.value.getD 0, 0⟩), busy := rs.map Reply.cell, waits := [],
    adds := [], done := false }

/-- A wave whose lanes have all returned a value: their registers are EMPTY, the operation is counted and the region ends. -/
def Wave.returned (w : Wave) (iss : Issue) (cells : List Nat) (o : Op) : Wave := (((w.setEmpty cells).count .ld o).finish iss).endRegion iss

/-- Once every lane has its value, the instruction completes. -/
theorem finishLanes_of_answered {s : State} {iss : Issue} {w : Wave} {r : AmoRun} (asked : w.asked = []) (h : r.answered = true) :
    s.finishLanes iss w r.replies = .done (s.tick1.retire iss (w.returned iss (r.replies.map Reply.cell) (s.returnOp iss r.replies))) := by
  have answered (x) (hx : x ∈ r.replies) : x.value.isSome = true ∧ x.failed = false := by
    simpa using List.all_eq_true.1 h x hx
  have none_open : r.replies.any (fun x => x.value.isNone && !x.failed) = false :=
    List.any_eq_false.2 fun x hx => by simp [Option.isSome_iff_ne_none.1 (answered x hx).1]
  have none_failed : r.replies.find? Reply.failed = none := List.find?_eq_none.2 fun x hx => by simp [(answered x hx).2]
  have same : ({ w with asked := [] } : Wave) = w := by rw [← asked]
  unfold State.finishLanes
  simp only [none_open, none_failed, same, Bool.false_eq_true, if_false]
  rfl

/-- An instruction that returns a value in each lane of the batch does to its wave what a load does, and ends the region. -/
theorem does_returned {d : BitVec 7} {ops : List Opnd} {tags : Wave → Word → Prop} {iss : Issue} (w : Wave) {cells : List Nat} (o : Op)
    (hcells : ∀ n l, l < 32 → (cellAt n l ∈ cells ↔ n = w.wb + d.toNat ∧ iss.batch.getLsbD l = true)) :
    (∃ rs fs, w.returned iss cells o = { w with regs := rs, ld := w.ld ++ [o], fibres := fs, latch := w.ageLatch.latch, wait := none }) ∧
      Does { loadEffect d 1 none ops with fibre := regionEnds, tags := tags } iss iss.batch w (w.returned iss cells o) := by
  obtain ⟨rs, hempty⟩ := setEmpty_eq cells w
  obtain ⟨fs, hfin⟩ := finish_eq ((w.setEmpty cells).count .ld o) iss
  obtain ⟨fs', hend⟩ := OnlyFibres.mapFibs (((w.setEmpty cells).count .ld o).finish iss) iss.batch (fun _ f => { f with region := iss.next, fresh := false })
  have hw2 : w.returned iss cells o = { w with regs := rs, ld := w.ld ++ [o], fibres := fs', latch := w.ageLatch.latch, wait := none } := by
    refine hend.trans ?_
    rw [hfin, hempty]
    rfl
  have cell (k : Nat) : (w.returned iss cells o).cell k = (w.setEmpty cells).cell k := by rw [hw2, hempty]; rfl
  refine ⟨⟨rs, fs', hw2⟩, fun n l hl => ?_, fun n => ?_, fun b => ?_, fun l hl => ?_, ?_, fun k => ?_⟩
  · rw [cell, setEmpty_cell]
    simp only [hcells n l hl, loadEffect, List.range_one, List.map_cons, List.map_nil, Nat.add_zero, List.mem_singleton]
  · rw [hw2]; rfl
  · rw [hw2]; simp [loadEffect]
  · have before : ((w.setEmpty cells).count .ld o).fib l = w.fib l := by rw [hempty]; rfl
    rw [Wave.returned, Wave.endRegion, mapFibs_fib _ _ _ _ hl, finish_fib _ iss l hl, before]
    simp only [loadEffect, regionEnds]
    split <;> rfl
  · rw [hw2]
  · have aged : (w.returned iss cells o).entry k = w.ageLatch.entry k := by rw [hw2]; rfl
    rw [aged, ageLatch_entry]
    exact ⟨rfl, rfl⟩

/-- Putting back a wave that has counted an operation on LD and is as an effect says. -/
theorem Does.retireReturned {e : Effect} {iss : Issue} {lanes : Word} {w w2 : Wave} {o : Op} (D : Does e iss lanes w w2)
    (only : ∃ rs fs, w2 = { w with regs := rs, ld := w.ld ++ [o], fibres := fs, latch := w.ageLatch.latch, wait := none })
    (hk : ∀ w w', e.keep w w' = none) (t : State) :
    ∃ w', t.retire iss w2 = t.setWave iss.wave w' ∧ SameWave w w' ∧ Counts .ld o w w' ∧ Does e iss lanes w w' := by
  obtain ⟨rs, fs, rfl⟩ := only
  obtain ⟨r, sk, cp, tx, wt, hret, hrun⟩ := retire_cases t iss
    { w with regs := rs, ld := w.ld ++ [o], fibres := fs, latch := w.ageLatch.latch, wait := none }
  obtain ⟨cells, scalars, flags, fibres, keeps⟩ := D
  refine ⟨_, hret, ⟨rfl, rfl, rfl, rfl, rfl, rfl, rfl, rfl, rfl, rfl, rfl, rfl, rfl, fun h => (hrun h).1⟩,
    ⟨fun _ => rfl, nofun, fun h => absurd rfl h, fun _ => rfl, fun h => ⟨(hrun h).2.1, (hrun h).2.2.1⟩⟩, cells, scalars, flags, fibres, ?_⟩
  rw [hk] at keeps ⊢
  exact keeps

/-- An instruction of the whole batch whose own part, where it completes, ends with a value in each lane. -/
theorem completesIn_returning {i : Instr} {d : BitVec 7} {ops : List Opnd} {tags : Wave → Word → Prop} {out : Outside} {p : Pre}
    {body : State → Issue → Word → Wave → Out} (hx : exec i = Sys2Proof.Machine.runState p body) (hg : p.guard = none) (ho : p.ops = ops)
    (hl : p.tile = false) (hr : p.reserved = false) (hb : ∀ w, p.badOperand w = false) (hc : p.counter = some .ld)
    (ht : ∀ w lanes, tags w lanes → p.tags w lanes = none) (hrc : p.reach = fun _ => [])
    (hbody : ∀ s iss lanes w t known, lanes ≠ 0 → out s iss lanes w = some (t, known) → ∃ (r : AmoRun) (u : State), w.asked = [] ∧
      r.answered = true ∧ r.replies.map Reply.cell = (lanesOf lanes).map (cellAt (w.wb + d.toNat)) ∧ u.tick1 = t ∧ r.returned = known ∧
      body s iss lanes w = u.finishLanes iss w r.replies) :
    CompletesIn i (some .ld) { loadEffect d 1 none ops with fibre := regionEnds, tags := tags } out := by
  intro s iss w lanes t known h hcount htag hout
  obtain ⟨r, u, asked, answered, hcells, rfl, rfl, hdone⟩ := hbody s iss lanes w t known h.someLane hout
  obtain rfl : lanes = iss.batch := h.passes
  have cells (n l : Nat) (hl : l < 32) : cellAt n l ∈ r.replies.map Reply.cell ↔ n = w.wb + d.toNat ∧ iss.batch.getLsbD l = true := by
    rw [hcells, List.mem_map]
    constructor
    · rintro ⟨m, hm, hcell⟩
      obtain ⟨hm32, hset⟩ := mem_lanesOf.1 hm
      obtain ⟨rfl, rfl⟩ := (cellAt_inj hm32 hl).1 hcell
      exact ⟨rfl, hset⟩
    · rintro ⟨rfl, hset⟩
      exact ⟨l, mem_lanesOf.2 ⟨hl, hset⟩, rfl⟩
  obtain ⟨only, D⟩ := does_returned (ops := ops) (tags := tags) w (u.returnOp iss r.replies) cells
  obtain ⟨w', hret, same, counts, does⟩ := D.retireReturned only (fun _ _ => rfl) u.tick1
  refine ⟨w', ?_, same, does, _, counts, rfl, rfl, rfl, rfl, rfl⟩
  change Issues s iss w none ops false iss.batch (fun _ => []) at h
  rw [← hg, ← ho, ← hl, ← hrc] at h
  rw [hx, h.runState hr (hb w) (by rw [hc]; rintro _ ⟨⟩; exact hcount _ rfl) (ht w _ htag), hdone, finishLanes_of_answered asked answered]
  exact congrArg Host.Outcome.next hret

/-! ### The checks of ENQ and DEQ (06 R196) -/

/-- The lanes whose blocks pass their checks are those checked, in order. -/
theorem checkRings_lanes (k : Nat) (w : Wave) (addr : Nat → Addr) (ls : List Nat) (s s1 : State) (got rs : List RingLane)
    (h : s.checkRings k w addr ls got = (s1, .ok rs)) : rs.map RingLane.lane = got.map RingLane.lane ++ ls := by
  induction ls generalizing s got with
  | nil =>
    unfold State.checkRings at h
    cases h
    rw [List.append_nil]
  | cons l ls ih =>
    unfold State.checkRings at h
    split at h
    · cases h
    split at h
    · split at h
      · cases h
      split at h
      · cases h
      · cases h
      split at h
      · cases h
      next r _ => rw [ih _ _ h, List.map_append, List.append_assoc]; rfl
    · cases h

/-- The lanes whose entries pass their checks are those checked, in order. -/
theorem checkEntries_lanes (tlb ctx : Nat) (rs : List RingLane) (s s1 : State) (got out : List RingLane)
    (h : s.checkEntries tlb ctx rs got = (s1, .ok out)) : out.map RingLane.lane = got.map RingLane.lane ++ rs.map RingLane.lane := by
  induction rs generalizing s got with
  | nil =>
    unfold State.checkEntries at h
    cases h
    rw [List.map_nil, List.append_nil]
  | cons r rs ih =>
    unfold State.checkEntries at h
    split at h
    · cases h
    · rw [ih _ _ h, List.map_append, List.append_assoc]; rfl

/-! ### The lanes of ENQ and DEQ, one after another -/

/-- A lane of ENQ or DEQ adds one reply, for its own register cell. -/
theorem ring_cells (iss : Issue) (enq : Bool) (sc : Nat) (r : AmoRun) (x : RingLane) (b : Word) (cell : Nat) :
    (r.ring iss enq sc x b cell).replies.map Reply.cell = r.replies.map Reply.cell ++ [cell] := by
  unfold AmoRun.ring
  dsimp only
  split <;> simp [AmoRun.land]

theorem foldl_ring_cells (iss : Issue) (enq : Bool) (sc : Nat) (b : Nat → Word) (cell : Nat → Nat) (rs : List RingLane) (r : AmoRun) :
    (rs.foldl (fun r x => r.ring iss enq sc x (b x.lane) (cell x.lane)) r).replies.map Reply.cell =
      r.replies.map Reply.cell ++ (rs.map RingLane.lane).map cell := by
  induction rs generalizing r with
  | nil => simp
  | cons x rs ih => rw [List.foldl_cons, ih, ring_cells, List.append_assoc]; rfl

/-- Nothing is asked of another device once every lane has its value. -/
theorem askRings_of_answered (s : State) (uid : Nat) (iss : Issue) (cls : Nat) (rs : List Reply) (h : ∀ r ∈ rs, r.value.isSome = true) :
    s.askRings uid iss cls rs = (s, rs) := by
  induction rs with
  | nil => rfl
  | cons r rs ih =>
    unfold State.askRings
    simp only [h r (List.mem_cons_self ..), Bool.true_or, if_true, ih fun x hx => h x (List.mem_cons_of_mem _ hx)]

theorem completesIn_ring {i : Instr} {enq : Bool} {d a b : BitVec 7} {c : BitVec 2} (hx : exec i = ringInstr enq d a b c) :
    CompletesIn i (some .ld) { loadEffect d 1 none [.vec d 1 1, .vec a 2 2, .src b] with fibre := regionEnds } (rings enq c d a b) := by
  refine completesIn_returning hx rfl rfl rfl rfl (fun _ => rfl) rfl (fun _ _ _ => rfl) rfl fun s iss lanes w t known _ hout => ?_
  unfold rings at hout
  split at hout
  case h_2 => cases hout
  next s2 rs2 hrings =>
  split at hout
  case h_2 => cases hout
  next s3 rs hentries =>
  obtain ⟨s4, cleared⟩ : ∃ x, s3.clearAfar (rs.flatMap fun r => r.key :: r.reach enq rs.length) = x := ⟨_, rfl⟩
  simp only [cleared] at hout
  split at hout
  case h_2 => cases hout
  next s5 _ htaken =>
  split at hout
  case isFalse => cases hout
  next conds =>
  simp only [Bool.and_eq_true, Bool.not_eq_true', List.isEmpty_iff] at conds
  obtain ⟨⟨⟨asked, free⟩, clear⟩, answered⟩ := conds
  cases hout
  obtain ⟨s4, ok⟩ := s4
  obtain rfl : ok = true := clear
  refine ⟨_, _, asked, answered, ?_, rfl, rfl, ?_⟩
  · rw [foldl_ring_cells _ _ _ (fun l => (w.src b l).val) (fun l => cellAt (w.wb + d.toNat) l), checkEntries_lanes _ _ _ _ _ _ _ hentries,
      checkRings_lanes _ _ _ _ _ _ _ _ hrings]
    rfl
  · have values := fun x hx => (Bool.and_eq_true _ _ ▸ List.all_eq_true.1 answered x hx).1
    dsimp only
    simp only [asked, List.isEmpty_nil, Bool.not_true, Bool.false_eq_true, if_false, hrings, hentries, free, cleared]
    rw [htaken]
    simp only [askRings_of_answered _ _ _ _ _ values]

end Sys2Proof.Machine

/-! Memory that nothing in the device holds or watches: what checks, recalls and writes at the home change there (06 R181, R188, R193;
08 R241 to R253). -/

namespace Sys2Proof.Machine

/-! ### The L1s of a state -/

/-- No core holds an Update-only copy or a delta tile. -/
def State.quiet (s : State) : Prop := ∀ c ∈ s.cores, c.2.l1.upd = [] ∧ c.2.l1.hold = []

/-- What holds of every listed core's L1, and of an empty one, holds of the L1 of each number. -/
theorem l1_of_mem {P : L1 → Prop} {s : State} (h : ∀ c ∈ s.cores, P c.2.l1) (empty : P L1.none) (cid : Nat) : P (s.l1 cid) := by
  unfold State.l1 State.core SMap.get
  cases found : s.cores.find? cid with
  | none => exact empty
  | some c => exact h _ (SMap_mem_of_find? found)

theorem State.quiet.upd {s : State} (h : s.quiet) (cid : Nat) : (s.l1 cid).upd = [] :=
  l1_of_mem (P := fun l => l.upd = []) (fun c hc => (h c hc).1) rfl cid

theorem State.quiet.hold {s : State} (h : s.quiet) (cid : Nat) : (s.l1 cid).hold = [] :=
  l1_of_mem (P := fun l => l.hold = []) (fun c hc => (h c hc).2) rfl cid

theorem State.Undisturbed.quiet {s : State} (h : s.Undisturbed) : s.quiet := fun c hc =>
  ⟨(h.l1 c hc).2.2.1, (h.l1 c hc).2.2.2⟩

theorem State.Undisturbed.dirty {s : State} (h : s.Undisturbed) (cid : Nat) : (s.l1 cid).dirty = [] :=
  l1_of_mem (P := fun l => l.dirty = []) (fun c hc => (h.l1 c hc).1) rfl cid

theorem State.Undisturbed.onlyDirty {s : State} (h : s.Undisturbed) : s.OnlyDirty := ⟨h.quiet, h.drains, h.marks, h.monitors⟩

theorem setCore_l1 (s : State) (cid i : Nat) (c : Core) : (s.setCore cid c).l1 i = if i = cid then c.l1 else s.l1 i := by
  unfold State.l1 State.core State.setCore
  rw [SMap.get_put]
  split <;> rfl

/-! ### Changes of caches alone -/

/-- Two states that differ in free choices, translations kept and copies of lines alone: Dirty bytes are the same. -/
structure CachesOnly (s t : State) : Prop where
  rest : ∃ choices cores tlb2 walks, t = { s with choices := choices, cores := cores, tlb2 := tlb2, walks := walks }
  dirty : ∀ cid, (t.l1 cid).dirty = (s.l1 cid).dirty
  quiet : s.quiet → t.quiet

theorem CachesOnly.refl (s : State) : CachesOnly s s := ⟨⟨_, _, _, _, rfl⟩, fun _ => rfl, id⟩

theorem CachesOnly.trans {s t u : State} (h : CachesOnly s t) (g : CachesOnly t u) : CachesOnly s u := by
  obtain ⟨_, _, _, _, e⟩ := h.rest
  obtain ⟨_, _, _, _, e'⟩ := g.rest
  exact ⟨⟨_, _, _, _, by rw [e', e]⟩, fun cid => (g.dirty cid).trans (h.dirty cid), fun q => g.quiet (h.quiet q)⟩

/-- Such a change leaves whatever is no part of what it changes. -/
theorem CachesOnly.same {α : Type} {s t : State} (h : CachesOnly s t) (f : State → α)
    (hf : ∀ choices cores tlb2 walks, f { s with choices := choices, cores := cores, tlb2 := tlb2, walks := walks } = f s := by
      intros; rfl) : f t = f s := by
  obtain ⟨_, _, _, _, rfl⟩ := h.rest
  exact hf ..

theorem CachesOnly.onlyDirty {s t : State} (h : CachesOnly s t) (ho : s.OnlyDirty) : t.OnlyDirty :=
  ⟨h.quiet ho.l1, (h.same State.drains).trans ho.drains, (h.same State.marks).trans ho.marks, h.same State.slices ▸ ho.monitors⟩

/-- Free choices, translations and walks are no part of any L1. -/
theorem CachesOnly.of_cores {s t : State} {ch : List Nat} {tlb2 : SMap (List TlbEntry)} {walks : SMap (List WalkEntry)}
    (h : t = { s with choices := ch, tlb2 := tlb2, walks := walks }) : CachesOnly s t := by
  subst h
  exact ⟨⟨_, _, _, _, rfl⟩, fun _ => rfl, id⟩

theorem cachesOnly_pick (s : State) (n : Nat) : CachesOnly s (s.pick n).1 := by
  unfold State.pick
  split
  · exact .refl s
  · exact .of_cores (tlb2 := s.tlb2) (walks := s.walks) rfl

/-- Putting back a core whose L1 has the same Dirty bytes, Update-only copies and delta tiles. -/
theorem cachesOnly_setCore {s : State} {cid : Nat} {c : Core} (hd : c.l1.dirty = (s.l1 cid).dirty) (hu : c.l1.upd = (s.l1 cid).upd)
    (hh : c.l1.hold = (s.l1 cid).hold) : CachesOnly s (s.setCore cid c) := by
  refine ⟨⟨s.choices, _, s.tlb2, s.walks, rfl⟩, fun i => ?_, fun q x hx => ?_⟩
  · rw [setCore_l1]
    split
    next e => rw [hd, e]
    next => rfl
  · rcases SMap.mem_put hx with rfl | hx
    · exact ⟨hu.trans (q.upd cid), hh.trans (q.hold cid)⟩
    · exact q x hx

theorem cachesOnly_setL1 {s : State} {cid : Nat} {l : L1} (hd : l.dirty = (s.l1 cid).dirty) (hu : l.upd = (s.l1 cid).upd)
    (hh : l.hold = (s.l1 cid).hold) : CachesOnly s (s.setL1 cid l) := cachesOnly_setCore hd hu hh

/-- A fold over steps that change caches alone. -/
theorem CachesOnly.foldl {α : Type} {f : State → α → State} (hf : ∀ s x, s.quiet → CachesOnly s (f s x)) (xs : List α) {s : State}
    (q : s.quiet) : CachesOnly s (xs.foldl f s) := by
  induction xs generalizing s with
  | nil => exact .refl s
  | cons x xs ih => exact (hf s x q).trans (ih ((hf s x q).quiet q))

/-! ### Translation and the checks of an access (06 R178; 09 R290 to R295) -/

theorem cachesOnly_level0 (s : State) (table va : Nat) : CachesOnly s (s.level0 table va).1 := by
  unfold State.level0
  dsimp only
  split
  · split <;> exact cachesOnly_pick s 17
  · exact .refl s

theorem cachesOnly_walk (ctx va n : Nat) (s : State) (table : Nat) : CachesOnly s (State.walk ctx va n s table).1 := by
  induction n generalizing table with
  | zero => exact cachesOnly_level0 s table va
  | succ n ih =>
    unfold State.walk
    dsimp only
    split
    · exact .refl s
    · split
      · exact .refl s
      · exact ih _

theorem cachesOnly_keepWalk (s : State) (tlb ctx va : Nat) (l : Leaf) (seen : List WalkEntry) :
    CachesOnly s (s.keepWalk tlb ctx va l seen) :=
  (cachesOnly_setCore (s := s) (cid := tlb) (c := { s.core tlb with tlb := tlbPut (s.core tlb).tlb ctx (va / 4096) l }) rfl rfl rfl).trans
    (.of_cores (ch := s.choices) rfl)

theorem cachesOnly_translate (s : State) (tlb ctx va : Nat) : CachesOnly s (s.translate tlb ctx va).1 := by
  unfold State.translate
  split
  · exact .refl s
  next c _ =>
    have chosen : CachesOnly s (if (s.ways tlb ctx va c.ptbase).length = 1 then (s, 0) else s.pick (s.ways tlb ctx va c.ptbase).length).1 := by
      split
      · exact .refl s
      · exact cachesOnly_pick _ _
    dsimp only
    generalize (if (s.ways tlb ctx va c.ptbase).length = 1 then (s, 0) else s.pick (s.ways tlb ctx va c.ptbase).length) = way at chosen ⊢
    split
    · exact chosen
    next level table _ =>
      have walked := chosen.trans (cachesOnly_walk ctx va level way.1 table)
      generalize State.walk _ _ _ _ _ = r at walked ⊢
      obtain ⟨s2, _ | l, seen⟩ := r
      · exact walked
      · exact walked.trans (cachesOnly_keepWalk ..)
    · exact chosen

theorem cachesOnly_virtual (s : State) (tlb ctx va : Nat) (p : Perm) : CachesOnly s (s.virtual tlb ctx va p).1 := by
  have translated := cachesOnly_translate s tlb ctx va
  unfold State.virtual
  generalize s.translate _ _ _ = r at translated ⊢
  obtain ⟨s1, _ | l⟩ := r
  · exact translated
  · dsimp only
    split <;> exact translated

theorem cachesOnly_classify (s : State) (tlb ctx : Nat) (g : Group) (lane wave a n : Nat) (lp scratch : Bool) (p : Perm) :
    CachesOnly s (s.classify tlb ctx g lane wave a n lp scratch p).1 := by
  unfold State.classify
  split
  · exact cachesOnly_virtual ..
  · split
    · exact .refl s
    · exact .refl s
    · exact .refl s
    · split
      · exact cachesOnly_virtual ..
      · exact .refl s
    · exact .refl s

theorem cachesOnly_checkElem (s : State) (k : Nat) (w : Wave) (lane : Nat) (acc : Access) (a : Addr) :
    CachesOnly s (s.checkElem k w lane acc a).1 := by
  have classified := cachesOnly_classify s (cidOf k) w.ctx (s.groupOf w) lane k a.toNat acc.size acc.lanePrivate acc.scratch acc.perm
  unfold State.checkElem
  split
  · exact .refl s
  · generalize s.classify _ _ _ _ _ _ _ _ _ _ = r at classified ⊢
    obtain ⟨s1, c | loc⟩ := r
    · exact classified
    · dsimp only
      split
      · exact classified
      · split
        · exact classified
        · split
          · exact classified
          · split <;> exact classified

/-- One element more of a lane's checks. -/
theorem checkElems_append (s : State) (k : Nat) (w : Wave) (lane : Nat) (acc : Access) (as : List Addr) (a : Addr) :
    (s.checkElems k w lane acc (as ++ [a])).1 = ((s.checkElems k w lane acc as).1.checkElem k w lane acc a).1 := by
  unfold State.checkElems
  rw [List.foldl_append, List.foldl_cons, List.foldl_nil]
  split <;> next e _ => rw [e]

theorem cachesOnly_checkElems (s : State) (k : Nat) (w : Wave) (lane : Nat) (acc : Access) (as : List Addr) :
    CachesOnly s (s.checkElems k w lane acc as).1 := by
  induction as using List.reverseRecOn with
  | nil => exact .refl s
  | append_singleton as a ih =>
    rw [checkElems_append]
    exact ih.trans (cachesOnly_checkElem ..)

theorem cachesOnly_checkLanes (s : State) (k : Nat) (w : Wave) (acc : Access) (addrs : Nat → List Addr) (ls : List Nat)
    (got : List (Nat × List Place)) : CachesOnly s (s.checkLanes k w acc addrs ls got).1 := by
  induction ls generalizing s got with
  | nil => exact .refl s
  | cons l ls ih =>
    have lane := cachesOnly_checkElems s k w l acc (addrs l)
    unfold State.checkLanes
    generalize s.checkElems _ _ _ _ _ = r at lane ⊢
    obtain ⟨s1, b | ps⟩ := r
    · exact lane
    · exact lane.trans (ih s1 _)

/-! ### Recalls where nothing is held -/

/-- Recalling a line of which no core holds an Update-only copy takes back Exclusive grants alone (08 R246). -/
theorem cachesOnly_recallLine {s : State} (line : Nat) (q : s.quiet) : CachesOnly s (s.recallLine line) := by
  refine CachesOnly.foldl (fun s cid q => ?_) _ q
  have no_copy : (s.core cid).l1.upd.any (fun u => u.line == line) = false := by
    rw [show (s.core cid).l1.upd = [] from q.upd cid]
    rfl
  simp only [no_copy, Bool.false_eq_true, if_false]
  split
  · exact cachesOnly_setL1 rfl rfl rfl
  · exact .refl s

theorem recallTile_of_onlyDirty {s : State} (tile : Nat) (h : s.OnlyDirty) : s.recallTile tile = s := by
  have no_holder : s.holders tile = [] := List.flatMap_eq_nil_iff.2 fun c hc => by rw [(h.l1 c hc).2]; rfl
  unfold State.recallTile
  simp only [h.drains, no_holder, List.filter_nil, List.isEmpty_nil, Bool.and_self, if_true]

theorem cachesOnly_recall {s : State} (key : Nat) (h : s.OnlyDirty) : CachesOnly s (s.recall key) := by
  unfold State.recall
  rw [recallTile_of_onlyDirty _ h]
  exact cachesOnly_recallLine _ h.l1

theorem cachesOnly_recallCells {s : State} (cs : List (Nat × Byte)) (h : s.OnlyDirty) : CachesOnly s (s.recallCells cs) := by
  unfold State.recallCells
  generalize (cs.map (fun c => lineOf c.1)).dedup = lines
  induction lines generalizing s with
  | nil => exact .refl s
  | cons l ls ih =>
    have recalled := cachesOnly_recall (128 * l) h
    exact recalled.trans (ih (recalled.onlyDirty h))

/-- A core without Dirty bytes yields its Clean copy of a line alone (06 R181). -/
theorem cachesOnly_yieldLine {s : State} {cid : Nat} (line : Nat) (hd : (s.l1 cid).dirty = []) : CachesOnly s (s.yieldLine cid line) := by
  unfold State.yieldLine State.flushLine
  rw [flushDirty_of_none (by rw [hd]; exact nofun)]
  exact cachesOnly_setL1 rfl rfl rfl

theorem cachesOnly_mayHold (s : State) (cid line sc : Nat) : CachesOnly s (s.mayHold cid line sc) := by
  have picked := cachesOnly_pick s 2
  unfold State.mayHold
  split
  · dsimp only
    split
    · exact picked.trans (cachesOnly_setL1 rfl rfl rfl)
    · exact picked
  · exact .refl s

/-! ### Writes at the home -/

theorem putCells_eq (s : State) (cs : List (Nat × Byte)) : ∃ m, s.putCells cs = { s with mem := m } := by
  unfold State.putCells
  induction cs generalizing s with
  | nil => exact ⟨s.mem, rfl⟩
  | cons c cs ih =>
    obtain ⟨m, h⟩ := ih (s.setByte c.1 c.2)
    exact ⟨m, h⟩

theorem notify_of_unwatched {s : State} (key : Nat) (h : ∀ x ∈ s.slices, x.2.entries = []) : s.notify key = s := by
  have unwatched (n : Nat) : (s.slice n).entries = [] := by
    unfold State.slice SMap.get
    cases found : s.slices.find? n with
    | none => rfl
    | some x => exact h _ (SMap_mem_of_find? found)
  unfold State.notify
  simp only [unwatched, List.any_nil, Bool.false_eq_true, if_false]

theorem invalidateMarks_of_unmarked {s : State} (line : Nat) (h : s.marks = []) : s.invalidateMarks line = s := by
  unfold State.invalidateMarks
  rw [h]
  rfl

/-- A fold over steps that each leave a state as it is leaves it so. -/
theorem foldl_eq_self {α : Type} {f : State → α → State} {s : State} (h : ∀ x, f s x = s) (xs : List α) : xs.foldl f s = s := by
  induction xs with
  | nil => rfl
  | cons x xs ih => rw [List.foldl_cons, h, ih]

/-- Nothing watches the bytes: performing cells at their home writes them (08 R249, R253). -/
theorem homePut_of_onlyDirty {s : State} (cs : List (Nat × Byte)) (h : s.OnlyDirty) : s.homePut cs false = s.putCells cs := by
  obtain ⟨m, hm⟩ := putCells_eq s cs
  have marks : (s.putCells cs).marks = [] := by rw [hm]; exact h.marks
  have monitors : ∀ x ∈ (s.putCells cs).slices, x.2.entries = [] := by rw [hm]; exact h.monitors
  unfold State.homePut State.putView
  simp only [Bool.false_eq_true, if_false]
  rw [foldl_eq_self (fun line => invalidateMarks_of_unmarked line marks), foldl_eq_self (fun key => notify_of_unwatched key monitors)]

/-- The bytes after cells of different keys have been written. -/
theorem byte_putCells {cs : List (Nat × Byte)} (hd : cs.Pairwise (fun p q => p.1 < q.1)) (s : State) (k : Nat) :
    (s.putCells cs).byte k = ((SMap.find? cs k).getD (s.byte k)) := by
  unfold State.putCells
  induction cs generalizing s with
  | nil => rfl
  | cons c cs ih =>
    obtain ⟨above, rest⟩ := List.pairwise_cons.1 hd
    have written : (s.setByte c.1 c.2).byte k = if k = c.1 then c.2 else s.byte k := SMap.get_set s.mem 0 k c.1 c.2
    rw [List.foldl_cons, ih rest, SMap.find?_cons, written]
    by_cases hk : c.1 = k
    · subst hk
      have unlisted : SMap.find? cs c.1 = none := by
        cases found : SMap.find? cs c.1 with
        | none => rfl
        | some b => exact absurd (above _ (SMap_mem_of_find? found)) (lt_irrefl _)
      simp [unlisted]
    · rw [if_neg hk, if_neg (Ne.symm hk)]

theorem SMap_find?_append {α : Type} (xs ys : SMap α) (j : Nat) : SMap.find? (xs ++ ys) j = (xs.find? j).or (ys.find? j) := by
  induction xs with
  | nil => rfl
  | cons p xs ih =>
    obtain ⟨k, v⟩ := p
    rw [List.cons_append, SMap.find?_cons, SMap.find?_cons, ih]
    split <;> rfl

/-- The bytes of a range of cells. -/
theorem find?_cellsAt (key : Nat) (bs : List Byte) (k : Nat) :
    SMap.find? (cellsAt key bs) k = if key ≤ k ∧ k < key + bs.length then some (bs.getD (k - key) 0) else none := by
  unfold cellsAt
  induction bs.length with
  | zero => rw [if_neg (by omega)]; rfl
  | succ n ih =>
    rw [List.range_succ, List.map_append, SMap_find?_append, ih, List.map_cons, List.map_nil, SMap.find?_cons, SMap.find?_nil]
    by_cases hk : key + n = k
    · subst hk
      rw [if_neg (by omega), if_pos rfl, if_pos (by omega), Nat.add_sub_cancel_left, Option.none_or]
    · rw [if_neg hk, Option.or_none]
      congr 1
      rw [eq_iff_iff]
      omega

/-- The bytes after a range of bytes has been written. -/
theorem byte_putCells_cellsAt (s : State) (key : Nat) (bs : List Byte) (k : Nat) :
    (s.putCells (cellsAt key bs)).byte k = if key ≤ k ∧ k < key + bs.length then bs.getD (k - key) 0 else s.byte k := by
  rw [byte_putCells (cellsAt_pairwise key bs), find?_cellsAt]
  split <;> rfl

/-- A number written little-endian reads back, cut to its bytes (00 R3). -/
theorem load_of_bytes {s : State} {key n v : Nat} (h : ∀ i, i < n → s.byte (key + i) = (bytesOf n v).getD i 0) : s.load key n = v % 256 ^ n := by
  have same : s.bytes key n = bytesOf n v := by
    refine List.ext_getElem (by simp [State.bytes]) fun i hi hi' => ?_
    have hin : i < n := by simpa [State.bytes] using hi
    simp [State.bytes, h i hin, List.getD_eq_getElem?_getD, hin]
  rw [State.load, same, ofBytes_bytesOf]

/-- Two states that agree in what accesses of waves find beside memory: Dirty bytes, scratchpads and the device's own index. -/
structure SameHeld (s t : State) : Prop where
  groups : t.groups = s.groups
  chip : t.chip = s.chip
  grants : t.grants = s.grants
  regs : t.regs = s.regs
  dirty : ∀ cid, (t.l1 cid).dirty = (s.l1 cid).dirty
  quiet : s.quiet → t.quiet

theorem SameHeld.trans {s t u : State} (h : SameHeld s t) (g : SameHeld t u) : SameHeld s u :=
  ⟨g.groups.trans h.groups, g.chip.trans h.chip, g.grants.trans h.grants, g.regs.trans h.regs,
    fun cid => (g.dirty cid).trans (h.dirty cid), fun q => g.quiet (h.quiet q)⟩

/-- The same cores, scratchpads and registers are enough. -/
theorem SameHeld.of_cores {s t : State} (cores : t.cores = s.cores) (groups : t.groups = s.groups) (chip : t.chip = s.chip)
    (grants : t.grants = s.grants) (regs : t.regs = s.regs) : SameHeld s t :=
  ⟨groups, chip, grants, regs, fun cid => by unfold State.l1 State.core; rw [cores], fun q => by unfold State.quiet; rwa [cores]⟩

theorem SameHeld.isLocal {s t : State} (h : SameHeld s t) (key : Nat) : t.isLocal key = s.isLocal key := by
  unfold State.isLocal State.did
  rw [h.regs]

theorem CachesOnly.sameHeld {s t : State} (h : CachesOnly s t) : SameHeld s t :=
  ⟨h.same State.groups, h.same State.chip, h.same State.grants, h.same State.regs, h.dirty, h.quiet⟩

/-- Two states that differ in what the links carry alone, and in the own L2's copies of other devices' lines. -/
def LinksOnly (s t : State) : Prop := ∃ fresh ports l2 txns, t = { s with fresh := fresh, ports := ports, l2 := l2, txns := txns }

theorem LinksOnly.refl (s : State) : LinksOnly s s := ⟨_, _, _, _, rfl⟩

theorem LinksOnly.trans {s t u : State} (h : LinksOnly s t) (g : LinksOnly t u) : LinksOnly s u := by
  obtain ⟨_, _, _, _, rfl⟩ := h
  obtain ⟨_, _, _, _, rfl⟩ := g
  exact ⟨_, _, _, _, rfl⟩

theorem LinksOnly.mem {s t : State} (h : LinksOnly s t) : t.mem = s.mem := by
  obtain ⟨_, _, _, _, rfl⟩ := h
  rfl

theorem LinksOnly.sameHeld {s t : State} (h : LinksOnly s t) : SameHeld s t := by
  obtain ⟨_, _, _, _, rfl⟩ := h
  exact .of_cores rfl rfl rfl rfl rfl

theorem LinksOnly.onlyDirty {s t : State} (h : LinksOnly s t) (ho : s.OnlyDirty) : t.OnlyDirty := by
  obtain ⟨_, _, _, _, rfl⟩ := h
  exact ⟨ho.l1, ho.drains, ho.marks, ho.monitors⟩

theorem linksOnly_sendTo {s t : State} {peer token : Nat} {x : LinkTx} {p : Purpose} (e : s.sendTo peer x p = some (t, token)) :
    LinksOnly s t := by
  unfold State.sendTo at e
  split at e
  · cases e
  next n _ =>
    have sent (u : State) (y : Port) : LinksOnly u (u.tick1.setPort n y) := ⟨u.fresh + 1, u.ports.put n y, u.l2, u.txns, rfl⟩
    have noted (u v : State) (h : LinksOnly u v) (ts : List Txn) : LinksOnly u { v with txns := ts } :=
      h.trans ⟨v.fresh, v.ports, v.l2, ts, rfl⟩
    cases e
    refine noted _ _ ?_ _
    split
    · exact (sent ..).trans ⟨_, _, _, _, rfl⟩
    · exact sent ..

theorem linksOnly_countLost (s : State) (peer : Nat) : LinksOnly s (s.countLost peer) := by
  unfold State.countLost
  split
  · exact ⟨_, _, _, _, rfl⟩
  · exact .refl s

theorem linksOnly_remoteLine (s : State) (cls line : Nat) (cs : List (Nat × Byte)) (p : Purpose) :
    LinksOnly s (s.remoteLine cls line cs p).1 := by
  unfold State.remoteLine
  dsimp only
  split
  next e => exact linksOnly_sendTo e
  · exact linksOnly_countLost s _

/-- A write of uncoded cells: those that lie here are written at their home, nothing watching them; the others are sent. -/
theorem write_of_onlyDirty {s : State} (cs : List (Nat × Byte)) (p : Purpose) (h : s.OnlyDirty) :
    ∃ r, CachesOnly s r ∧ LinksOnly ((r.clearPoison (cs.filter fun c => s.isLocal c.1)).putCells (cs.filter fun c => s.isLocal c.1))
      (s.write cs false p).1 := by
  have sent (lines : List Nat) (r : State × List Nat) : LinksOnly r.1 (lines.foldl (fun (r : State × List Nat) l =>
      ((r.1.remoteLine 0 l ((cs.filter fun c => !s.isLocal c.1).filter fun c => lineOf c.1 == l) p).1,
        r.2 ++ (r.1.remoteLine 0 l ((cs.filter fun c => !s.isLocal c.1).filter fun c => lineOf c.1 == l) p).2)) r).1 := by
    induction lines generalizing r with
    | nil => exact .refl _
    | cons l ls ih => exact (linksOnly_remoteLine ..).trans (ih _)
  unfold State.write State.writeAs
  by_cases here : (cs.filter fun c => s.isLocal c.1) = []
  · refine ⟨s, .refl s, ?_⟩
    have all_kept : s.clearPoison [] = s := by simp [State.clearPoison]
    simp only [here, List.isEmpty_nil, if_true, all_kept]
    exact sent _ _
  · have recalled := cachesOnly_recallCells (cs.filter fun c => s.isLocal c.1) h
    refine ⟨_, recalled, ?_⟩
    have unwatched : (s.recallCells (cs.filter fun c => s.isLocal c.1)).homeWrite (cs.filter fun c => s.isLocal c.1) false =
        ((s.recallCells (cs.filter fun c => s.isLocal c.1)).clearPoison (cs.filter fun c => s.isLocal c.1)).putCells
          (cs.filter fun c => s.isLocal c.1) := by
      have ho := recalled.onlyDirty h
      exact homePut_of_onlyDirty _ ⟨ho.l1, ho.drains, ho.marks, ho.monitors⟩
    simp only [List.isEmpty_eq_false_iff.2 here, Bool.false_eq_true, if_false, unwatched]
    exact sent _ _

/-- Bytes written at their home, lines wholly written losing their poison, change nothing that is held beside memory. -/
theorem sameHeld_putCells (s : State) (cs : List (Nat × Byte)) : SameHeld s ((s.clearPoison cs).putCells cs) := by
  obtain ⟨m, hm⟩ := putCells_eq (s.clearPoison cs) cs
  rw [hm]
  exact .of_cores rfl rfl rfl rfl rfl

theorem onlyDirty_putCells {s : State} (cs : List (Nat × Byte)) (h : s.OnlyDirty) : ((s.clearPoison cs).putCells cs).OnlyDirty := by
  obtain ⟨m, hm⟩ := putCells_eq (s.clearPoison cs) cs
  rw [hm]
  exact ⟨h.l1, h.drains, h.marks, h.monitors⟩

/-- What a write of uncoded cells leaves: all that is held, and nothing that holds or watches memory. -/
theorem write_sameHeld {s : State} (cs : List (Nat × Byte)) (p : Purpose) (h : s.OnlyDirty) :
    SameHeld s (s.write cs false p).1 ∧ (s.write cs false p).1.OnlyDirty := by
  obtain ⟨r, caches, links⟩ := write_of_onlyDirty cs p h
  exact ⟨caches.sameHeld.trans ((sameHeld_putCells r _).trans links.sameHeld), links.onlyDirty (onlyDirty_putCells _ (caches.onlyDirty h))⟩

/-- The bytes after a write of a range of uncoded bytes: those of the range that lie here are written. -/
theorem write_byte {s : State} (key : Nat) (bs : List Byte) (p : Purpose) (h : s.OnlyDirty) (k : Nat) :
    (s.write (cellsAt key bs) false p).1.byte k =
      if (key ≤ k ∧ k < key + bs.length) ∧ s.isLocal k = true then bs.getD (k - key) 0 else s.byte k := by
  obtain ⟨r, caches, links⟩ := write_of_onlyDirty (cellsAt key bs) p h
  have before : (r.clearPoison ((cellsAt key bs).filter fun c => s.isLocal c.1)).byte k = s.byte k := by
    unfold State.byte
    rw [← caches.same State.mem]
    rfl
  have written := byte_putCells ((cellsAt_pairwise key bs).filter fun c => s.isLocal c.1)
    (r.clearPoison ((cellsAt key bs).filter fun c => s.isLocal c.1)) k
  unfold State.byte at written before ⊢
  rw [links.mem, written, before]
  cases here : s.isLocal k
  · have unlisted : SMap.find? ((cellsAt key bs).filter fun c => s.isLocal c.1) k = none := by
      cases found : SMap.find? ((cellsAt key bs).filter fun c => s.isLocal c.1) k with
      | none => rfl
      | some b => 
        have := (List.mem_filter.1 (SMap_mem_of_find? found)).2
        simp [here] at this
    simp [unlisted]
  · rw [SMap_find?_filter (cellsAt key bs) (fun i => s.isLocal i) here, find?_cellsAt]
    simp only [and_true]
    split <;> rfl

end Sys2Proof.Machine

/-! One lane's atomic at its home, as a read and a write of its word (06 R192, R193; 00 R3). -/

namespace Sys2Proof.Machine

/-! ### The operations (06 R192) -/

/-- Which of two values is chosen where they are equal does not matter. -/
theorem ite_lt_eq_ite_le {α β : Type} [LinearOrder α] {x y : α} {p q : β} (h : x = y → p = q) :
    (if x < y then p else q) = if x ≤ y then p else q := by
  rcases lt_trichotomy x y with lt | eq | gt
  · rw [if_pos lt, if_pos lt.le]
  · rw [h eq, ite_self, ite_self]
  · rw [if_neg gt.not_gt, if_neg gt.not_ge]

/-- The smaller and the larger of two words, by either order. -/
theorem atomicFn_min_max (m b c : Word) :
    atomicFn 2 m b c = (if m.toInt ≤ b.toInt then m else b) ∧ atomicFn 3 m b c = (if m.toInt ≤ b.toInt then b else m) ∧
    atomicFn 4 m b c = (if m.toNat ≤ b.toNat then m else b) ∧ atomicFn 5 m b c = (if m.toNat ≤ b.toNat then b else m) := by
  have signed (x y : Word) : (x.slt y = true) ↔ x.toInt < y.toInt := decide_eq_true_iff
  have unsigned (x y : Word) : (x.ult y = true) ↔ x.toNat < y.toNat := decide_eq_true_iff
  refine ⟨?_, ?_, ?_, ?_⟩
  · change (if b.slt m then b else m) = _
    simp only [signed, ← not_le, ite_not]
  · change (if m.slt b then b else m) = _
    simp only [signed]
    exact ite_lt_eq_ite_le fun e => (BitVec.eq_of_toInt_eq e).symm
  · change (if b.ult m then b else m) = _
    simp only [unsigned, ← not_le, ite_not]
  · change (if m.ult b then b else m) = _
    simp only [unsigned]
    exact ite_lt_eq_ite_le fun e => (BitVec.eq_of_toNat_eq e).symm

/-! ### A lane of a returning atomic at its home -/

/-- A word of an uncoded page, its old value and the bytes around it, once an atomic that nothing else watches has been performed. -/
theorem homeAtomic_of_undisturbed {s : State} (cid kind key : Nat) (b c : Word) (h : s.Undisturbed) :
    (s.homeAtomic cid kind key false b c).2 = BitVec.ofNat 32 (s.load key 4) ∧
      ∀ k, (s.homeAtomic cid kind key false b c).1.byte k = if key ≤ k ∧ k < key + 4 then
        (bytesOf 4 (atomicFn kind (BitVec.ofNat 32 (s.load key 4)) b c).toNat).getD (k - key) 0 else s.byte k := by
  have yielded := cachesOnly_yieldLine (cid := cid) (lineOf key) (h.dirty cid)
  have recalled := yielded.trans (cachesOnly_recall key (yielded.onlyDirty h.onlyDirty))
  have ho := recalled.onlyDirty h.onlyDirty
  unfold State.homeAtomic
  generalize (s.yieldLine cid (lineOf key)).recall key = r at recalled ho ⊢
  have old : BitVec.ofNat 32 (ofBytes ((r.view key 4 false).getD [])) = BitVec.ofNat 32 (s.load key 4) :=
    recalled.same fun u => BitVec.ofNat 32 (u.load key 4)
  refine ⟨old, fun k => ?_⟩
  have cleared : (r.clearPoison (cellsAt key (bytesOf 4 (atomicFn kind (BitVec.ofNat 32 (s.load key 4)) b c).toNat))).OnlyDirty :=
    ⟨ho.l1, ho.drains, ho.marks, ho.monitors⟩
  have before : (r.clearPoison (cellsAt key (bytesOf 4 (atomicFn kind (BitVec.ofNat 32 (s.load key 4)) b c).toNat))).byte k = s.byte k :=
    recalled.same fun u => u.byte k
  dsimp only
  rw [old, State.homeWrite, homePut_of_onlyDirty _ cleared, byte_putCells_cellsAt, before, bytesOf_length]

/-- Settles O26: each operation by its table row, the read-modify-write from the home's write of one word, after which taking the line
Exclusive changes no byte. -/
theorem atomicReadModifyWrite : Obligations.AtomicReadModifyWrite := by
  unfold Obligations.AtomicReadModifyWrite
  refine ⟨fun m b c => ?_, fun s iss w kind sc a key cell limit p h hplace hcell _ here => ?_⟩
  · obtain ⟨smin, smax, umin, umax⟩ := atomicFn_min_max m b c
    exact ⟨rfl, rfl, smin, smax, umin, umax, rfl, rfl, rfl, rfl, rfl⟩
  · obtain ⟨old, bytes⟩ := homeAtomic_of_undisturbed (cidOf iss.wave) kind key a.b a.c h
    have held (k : Nat) := (cachesOnly_mayHold (s.homeAtomic (cidOf iss.wave) kind key false a.b a.c).1 (cidOf iss.wave) (lineOf key) sc).same
      fun u => u.byte k
    have ran : AmoRun.step iss w kind sc ⟨s, [], []⟩ a =
        ⟨(s.homeAtomic (cidOf iss.wave) kind key false a.b a.c).1.mayHold (cidOf iss.wave) (lineOf key) sc,
          [⟨a.lane, a.addr, cell, 0, some (BitVec.ofNat 32 (s.load key 4)), false, none⟩], []⟩ := by
      rw [← old]
      unfold AmoRun.step AmoRun.land
      simp [hplace, hcell, here]
    rw [ran]
    refine ⟨rfl, rfl, ?_, fun k hk => ?_⟩
    · refine (load_of_bytes (v := (atomicFn kind (BitVec.ofNat 32 (s.load key 4)) a.b a.c).toNat) fun i hi => ?_).trans
        (Nat.mod_eq_of_lt (BitVec.isLt _))
      rw [held, bytes, if_pos (by omega), Nat.add_sub_cancel_left]
    · rw [held, bytes, if_neg (by omega)]

end Sys2Proof.Machine

/-! ENQ and DEQ of one lane at the home of its block (06 R195, R196). -/

namespace Sys2Proof.Machine

/-- The bytes of a naturally aligned range lie on one device. -/
theorem isLocal_of_aligned {s : State} {key x : Nat} {n : Nat} (hn : n ∣ 2 ^ 48) (aligned : key % n = 0) (h1 : key ≤ x) (h2 : x < key + n)
    (here : s.isLocal key = true) : s.isLocal x = true := by
  have same : x / 2 ^ 48 = key / 2 ^ 48 := by
    obtain ⟨m, hm⟩ := hn
    obtain ⟨j, rfl⟩ := Nat.dvd_of_mod_eq_zero aligned
    have pos : 0 < n := by omega
    have inside : x / n = j := Nat.div_eq_of_lt_le (by rw [Nat.mul_comm]; exact h1) (by rw [Nat.succ_mul, Nat.mul_comm]; exact h2)
    rw [hm, ← Nat.div_div_eq_div_mul, ← Nat.div_div_eq_div_mul, inside, Nat.mul_div_cancel_left j pos]
  unfold State.isLocal targetOf at here ⊢
  rw [same]
  exact here

/-- A local range of bytes after it has been written. -/
theorem load_write {s : State} {key v : Nat} (p : Purpose) (h : s.OnlyDirty) (here : ∀ x, key ≤ x → x < key + 4 → s.isLocal x = true) :
    (s.write (cellsAt key (bytesOf 4 v)) false p).1.load key 4 = v % 2 ^ 32 := by
  refine load_of_bytes fun i hi => ?_
  rw [write_byte _ _ _ h, if_pos ⟨by simp; omega, here _ (by omega) (by omega)⟩, Nat.add_sub_cancel_left]

/-- Loads of states with the same bytes. -/
theorem load_congr {s t : State} {key n : Nat} (h : ∀ x, key ≤ x → x < key + n → t.byte x = s.byte x) : t.load key n = s.load key n := by
  have same : t.bytes key n = s.bytes key n :=
    List.map_congr_left fun i hi => h _ (by omega) (by have := List.mem_range.1 hi; omega)
  rw [State.load, same, State.load]

/-! ### One lane whose block is here and has not changed -/

section

variable {s : State} {r : RingLane} {b : Word} {q : Ring} {k : Nat}

/-- The block a lane finds at its home is the one its checks found. -/
def RingLane.finds (r : RingLane) (s : State) (q : Ring) : Prop :=
  r.coded = false ∧ parseRing 24 (s.bytes r.key 32) = some q ∧ q.base = r.ring.base ∧ q.log2cap = r.ring.log2cap

/-- The block as an atomic step at its home finds it, its copies recalled. -/
theorem view_recall (h : s.Undisturbed) (key : Nat) : ((s.recall key).view key 32 false).getD [] = s.bytes key 32 :=
  (cachesOnly_recall key h.onlyDirty).same fun u => u.bytes key 32

theorem ringStep_enq (h : s.Undisturbed) (hf : r.finds s q) :
    s.ringStep true r b = if q.used = q.cap then (s.recall r.key, 1)
      else ((((s.recall r.key).write (cellsAt (r.entry q.tail).1 (bytesOf 4 b.toNat)) (r.entry q.tail).2 .other).1.write
        (cellsAt (r.key + 20) (bytesOf 4 ((q.tail + 1) % 2 ^ 32))) false .other).1, 0) := by
  obtain ⟨coded, parsed, base, log2cap⟩ := hf
  unfold State.ringStep State.ringAct
  simp only [coded, view_recall h, parsed, base, log2cap, ne_eq, not_true, or_self, if_false, if_true]
  by_cases full : q.used = q.cap
  · rw [if_pos full, if_pos full]
  · rw [if_neg full, if_neg full]

theorem ringStep_deq {s2 : State} {bs : List Byte} (h : s.Undisturbed) (hf : r.finds s q)
    (hread : q.tail ≠ q.head → (s.recall r.key).tileReadAs 0 31 (r.entry q.head).1 4 (r.entry q.head).2 = (s2, .ok bs)) :
    s.ringStep false r b = if q.tail = q.head then (s.recall r.key, b)
      else ((s2.write (cellsAt (r.key + 16) (bytesOf 4 ((q.head + 1) % 2 ^ 32))) false .other).1, BitVec.ofNat 32 (ofBytes bs)) := by
  obtain ⟨coded, parsed, base, log2cap⟩ := hf
  unfold State.ringStep State.ringAct
  simp only [coded, view_recall h, parsed, base, log2cap, ne_eq, not_true, or_self, Bool.false_eq_true, if_false]
  by_cases empty : q.tail = q.head
  · rw [if_pos empty, if_pos empty]
  · rw [if_neg empty, if_neg empty, hread empty]

/-- ENQ of a full ring gives 1. -/
theorem ringStep_enq_full (h : s.Undisturbed) (hf : r.finds s q) (full : q.used = q.cap) :
    (s.ringStep true r b).2 = 1 ∧ ∀ x, (s.ringStep true r b).1.byte x = s.byte x := by
  rw [ringStep_enq h hf, if_pos full]
  exact ⟨rfl, fun x => (cachesOnly_recall r.key h.onlyDirty).same fun u => u.byte x⟩

/-- DEQ of an empty ring gives b. -/
theorem ringStep_deq_empty (h : s.Undisturbed) (hf : r.finds s q) (empty : q.tail = q.head) :
    (s.ringStep false r b).2 = b ∧ ∀ x, (s.ringStep false r b).1.byte x = s.byte x := by
  rw [ringStep_deq (s2 := s) (bs := []) h hf (absurd empty), if_pos empty]
  exact ⟨rfl, fun x => (cachesOnly_recall r.key h.onlyDirty).same fun u => u.byte x⟩

/-- ENQ of a ring with room stores b at entry TAIL and adds 1 to TAIL. -/
theorem ringStep_enq_room (h : s.Undisturbed) (hf : r.finds s q) (aligned : r.key % 32 = 0) (here : s.isLocal r.key = true)
    (room : q.used ≠ q.cap) (entry : r.entry q.tail = (k, false)) (hk : k % 4 = 0) (near : s.isLocal k = true)
    (apart : k + 4 ≤ r.key ∨ r.key + 32 ≤ k) :
    (s.ringStep true r b).2 = 0 ∧ (s.ringStep true r b).1.load k 4 = b.toNat ∧
      (s.ringStep true r b).1.load (r.key + 20) 4 = (q.tail + 1) % 2 ^ 32 ∧
      ∀ x, (x < k ∨ k + 4 ≤ x) → (x < r.key + 20 ∨ r.key + 24 ≤ x) → (s.ringStep true r b).1.byte x = s.byte x := by
  have recalled := cachesOnly_recall r.key h.onlyDirty
  have quiet := recalled.onlyDirty h.onlyDirty
  have local1 (x : Nat) : (s.recall r.key).isLocal x = s.isLocal x := recalled.sameHeld.isLocal x
  obtain ⟨held, quiet2⟩ := write_sameHeld (cellsAt k (bytesOf 4 b.toNat)) .other quiet
  have bytes1 := write_byte k (bytesOf 4 b.toNat) .other quiet
  have load1 := load_write (v := b.toNat) .other quiet fun x h1 h2 => (local1 x).trans (isLocal_of_aligned ⟨2 ^ 46, rfl⟩ hk h1 h2 near)
  have ran : s.ringStep true r b = ((((s.recall r.key).write (cellsAt k (bytesOf 4 b.toNat)) false .other).1.write
      (cellsAt (r.key + 20) (bytesOf 4 ((q.tail + 1) % 2 ^ 32))) false .other).1, 0) := by
    rw [ringStep_enq h hf, if_neg room, entry]
  rw [ran]
  generalize ((s.recall r.key).write (cellsAt k (bytesOf 4 b.toNat)) false .other).1 = s2 at held quiet2 bytes1 load1 ⊢
  have local2 (x : Nat) : s2.isLocal x = s.isLocal x := (held.isLocal x).trans (local1 x)
  have bytes2 := write_byte (r.key + 20) (bytesOf 4 ((q.tail + 1) % 2 ^ 32)) .other quiet2
  simp only [bytesOf_length] at bytes1 bytes2
  refine ⟨rfl, ?_, ?_, fun x h1 h2 => ?_⟩
  · refine (load_congr fun x h1 h2 => ?_).trans (load1.trans (Nat.mod_eq_of_lt b.isLt))
    rw [bytes2, if_neg (by omega)]
  · refine (load_write .other quiet2 fun x h1 h2 => ?_).trans (Nat.mod_mod _ _)
    rw [local2]
    exact isLocal_of_aligned ⟨2 ^ 43, rfl⟩ aligned (by omega) (by omega) here
  · rw [bytes2, if_neg (by omega), bytes1, if_neg (by omega)]
    exact recalled.same fun u => u.byte x

/-- An entry of a tile-free device that is not poisoned is read as it stands (09 R273). -/
theorem tileReadAs_of_clean {u : State} (hu : u.quiet) (tiles : u.tiles = []) (near : u.isLocal k = true) (clean : lineOf k ∉ u.poison) :
    ∃ v, CachesOnly u v ∧ u.tileReadAs 0 31 k 4 false = (v, .ok (u.bytes k 4)) := by
  have recalled := cachesOnly_recallLine (lineOf k) hu
  have no_tile (t : Nat) : u.tiles.find? t = none := by rw [tiles]; rfl
  have settled : u.settleTile k 31 = u := by
    unfold State.settleTile
    rw [no_tile]
  have near' : (u.recallLine (lineOf k)).isLocal k = true := (recalled.sameHeld.isLocal k).trans near
  have read : (u.recallLine (lineOf k)).homeBytes k 4 false = u.homeBytes k 4 false := recalled.same fun v => v.homeBytes k 4 false
  have unspoiled : u.poisoned k false = false := by
    unfold State.poisoned State.linesRead
    simp [clean]
  refine ⟨_, recalled, ?_⟩
  rw [State.tileReadAs_near (fun _ => by unfold State.drainsAfar; rw [no_tile]), settled, State.homeReadAs]
  simp only [near', if_true, read]
  unfold State.homeBytes
  rw [unspoiled]
  rfl

/-- DEQ of a ring with an entry gives entry HEAD and adds 1 to HEAD. -/
theorem ringStep_deq_entry (h : s.Undisturbed) (hf : r.finds s q) (aligned : r.key % 32 = 0) (here : s.isLocal r.key = true)
    (some_entry : q.tail ≠ q.head) (entry : r.entry q.head = (k, false)) (near : s.isLocal k = true) (clean : lineOf k ∉ s.poison) :
    (s.ringStep false r b).2 = BitVec.ofNat 32 (s.load k 4) ∧
      (s.ringStep false r b).1.load (r.key + 16) 4 = (q.head + 1) % 2 ^ 32 ∧
      ∀ x, (x < r.key + 16 ∨ r.key + 20 ≤ x) → (s.ringStep false r b).1.byte x = s.byte x := by
  have recalled := cachesOnly_recall r.key h.onlyDirty
  have quiet := recalled.onlyDirty h.onlyDirty
  obtain ⟨s2, read, hread⟩ := tileReadAs_of_clean quiet.l1 ((recalled.same State.tiles).trans h.tiles)
    ((recalled.sameHeld.isLocal k).trans near) (recalled.same State.poison ▸ clean)
  have both := recalled.trans read
  have quiet2 := both.onlyDirty h.onlyDirty
  have word : (s.recall r.key).bytes k 4 = s.bytes k 4 := recalled.same fun u => u.bytes k 4
  have ran : s.ringStep false r b = ((s2.write (cellsAt (r.key + 16) (bytesOf 4 ((q.head + 1) % 2 ^ 32))) false .other).1,
      BitVec.ofNat 32 (s.load k 4)) := by
    rw [ringStep_deq h hf (fun _ => by rw [entry]; exact hread), if_neg some_entry, word]
    rfl
  rw [ran]
  refine ⟨rfl, ?_, fun x hx => ?_⟩
  · refine (load_write .other quiet2 fun x h1 h2 => ?_).trans (Nat.mod_mod _ _)
    exact (both.sameHeld.isLocal x).trans (isLocal_of_aligned ⟨2 ^ 43, rfl⟩ aligned (by omega) (by omega) here)
  · rw [write_byte _ _ _ quiet2, bytesOf_length, if_neg (by omega)]
    exact both.same fun u => u.byte x

end

/-- Settles O27: the lanes are those checked, in ascending order, and a step at a ring writes the entry and TAIL, HEAD, or nothing. -/
theorem ringsComplete : Obligations.RingsComplete := by
  unfold Obligations.RingsComplete
  refine ⟨fun d a b c => ⟨completesIn_ring (exec_enq ..), completesIn_ring (exec_deq ..)⟩,
    fun s r b q k h coded aligned here parsed base log2cap => ?_⟩
  have hf : r.finds s q := ⟨coded, parsed, base, log2cap⟩
  exact ⟨fun room entry hk near apart => ringStep_enq_room h hf aligned here room entry hk near apart, ringStep_enq_full h hf,
    fun some_entry entry _ near clean => ringStep_deq_entry h hf aligned here some_entry entry near clean, ringStep_deq_empty h hf⟩

end Sys2Proof.Machine

/-! Loads leave every byte of memory and of the scratchpads as it was (06 R181, R184, R185, R188). -/

namespace Sys2Proof.Machine

/-- Two states in which accesses of waves find the same bytes. -/
structure SameBytes (s t : State) : Prop where
  held : SameHeld s t
  mem : t.mem = s.mem

theorem CachesOnly.sameBytes {s t : State} (h : CachesOnly s t) : SameBytes s t := ⟨h.sameHeld, h.same State.mem⟩

theorem LinksOnly.sameBytes {s t : State} (h : LinksOnly s t) : SameBytes s t := ⟨h.sameHeld, h.mem⟩

theorem SameBytes.refl (s : State) : SameBytes s s := (CachesOnly.refl s).sameBytes

theorem SameBytes.trans {s t u : State} (h : SameBytes s t) (g : SameBytes t u) : SameBytes s u := ⟨h.held.trans g.held, g.mem.trans h.mem⟩

/-- The byte at a location, where all that is held is the same, and memory there. -/
theorem seenByte_of_sameHeld {s t : State} (h : SameHeld s t) {x : Loc} (hm : ∀ key c, x = .mem key c → t.byte key = s.byte key)
    (cid gk : Nat) : t.seenByte cid gk x = s.seenByte cid gk x := by
  have group : t.group gk = s.group gk := congrArg (SMap.find? · gk) h.groups
  cases x with
  | mem key c => simp only [State.seenByte, h.dirty cid, hm key c rfl]
  | core o => simp only [State.seenByte, State.scratchByte, group]
  | cluster o => simp only [State.seenByte, State.scratchByte, group]
  | chip o => simp only [State.seenByte, State.scratchByte, State.grantEpoch, h.chip, h.grants]

theorem SameBytes.seenByte {s t : State} (h : SameBytes s t) (cid gk : Nat) (x : Loc) : t.seenByte cid gk x = s.seenByte cid gk x :=
  seenByte_of_sameHeld h.held (fun key _ _ => by unfold State.byte; rw [h.mem]) cid gk

theorem sameBytes_requestFill (s : State) (line cls : Nat) : SameBytes s (s.requestFill line cls).1 := by
  unfold State.requestFill
  split
  · exact .refl s
  · split
    next e => exact (linksOnly_sendTo e).sameBytes
    · exact .refl s

theorem sameBytes_homeRead {s : State} (key n : Nat) (coded : Bool) (q : s.quiet) : SameBytes s (s.homeRead key n coded).1 := by
  have recalled := (cachesOnly_recallLine (lineOf key) q).sameBytes
  unfold State.homeRead State.homeReadAs
  dsimp only
  split
  · exact recalled
  · split
    · exact recalled.trans ⟨.of_cores rfl rfl rfl rfl rfl, rfl⟩
    · split
      · exact recalled
      · exact recalled.trans (sameBytes_requestFill ..)

theorem sameBytes_cleanLine {s : State} (cid line : Nat) (coded : Bool) (q : s.quiet) : SameBytes s (s.cleanLine cid line coded).1 := by
  have read := sameBytes_homeRead (128 * line) 128 coded q
  unfold State.cleanLine
  split
  · exact .refl s
  · generalize s.homeRead _ _ _ = r at read ⊢
    obtain ⟨s1, bs | _ | _⟩ := r
    · refine read.trans (CachesOnly.sameBytes ?_)
      exact cachesOnly_setL1 rfl rfl rfl
    · exact read
    · exact read

/-- No own Update-only copy goes home before an access (08 R247). -/
theorem no_upd {s : State} (q : s.quiet) (cid line : Nat) : (s.l1 cid).upd.any (fun u => u.line == line) = false := by
  rw [q.upd cid]
  rfl

theorem sameBytes_plainLoad {s : State} (cid key n : Nat) (coded : Bool) (q : s.quiet) : SameBytes s (s.plainLoad cid key n coded).1 := by
  have read := sameBytes_cleanLine cid (lineOf key) coded q
  unfold State.plainLoad
  simp only [no_upd q, Bool.false_eq_true, if_false]
  split
  · exact .refl s
  · split
    · exact .refl s
    · generalize s.cleanLine _ _ _ = r at read ⊢
      obtain ⟨s1, bs | _ | _⟩ := r <;> exact read

theorem sameBytes_mark (s : State) (line d : Nat) : SameBytes s (s.mark line d) := by
  unfold State.mark
  dsimp only
  split
  · exact .refl s
  · exact ⟨.of_cores rfl rfl rfl rfl rfl, rfl⟩

theorem sameBytes_invariantLoad {s : State} (cid ctx key n : Nat) (coded : Bool) (q : s.quiet) :
    SameBytes s (s.invariantLoad cid ctx key n coded).1 := by
  have read := sameBytes_homeRead (128 * lineOf key) 128 coded q
  unfold State.invariantLoad
  simp only [no_upd q, Bool.false_eq_true, if_false]
  split
  · exact .refl s
  · generalize s.homeRead _ _ _ = r at read ⊢
    obtain ⟨s1, bs | _ | _⟩ := r
    · have marked : SameBytes s1 (if s1.isLocal key then s1.mark (lineOf key) s1.did else s1) := by
        split
        · exact sameBytes_mark ..
        · exact .refl s1
      refine (read.trans marked).trans (CachesOnly.sameBytes ?_)
      exact cachesOnly_setL1 rfl rfl rfl
    · exact read
    · exact read

theorem sameBytes_readLoc {s : State} (cid gk ctx : Nat) (inv : Bool) (loc : Loc) (n : Nat) (q : s.quiet) :
    SameBytes s (s.readLoc cid gk ctx inv loc n).1 := by
  cases loc with
  | mem key coded =>
    unfold State.readLoc
    dsimp only
    split
    · exact sameBytes_invariantLoad _ _ _ _ _ q
    · exact sameBytes_plainLoad _ _ _ _ q
  | core o => exact .refl s
  | cluster o => exact .refl s
  | chip o => exact .refl s

theorem sameBytes_gather (w : Wave) (cid : Nat) (inv : Bool) (asks : List Ask) {s : State} (got : List LWrite) (q : s.quiet) :
    SameBytes s (s.gather w cid inv asks got).1 := by
  induction asks generalizing s got with
  | nil => exact .refl s
  | cons a asks ih =>
    have read := sameBytes_readLoc cid w.group w.ctx inv a.place.loc a.size q
    unfold State.gather
    split
    · exact .refl s
    · split
      · exact ih got q
      · generalize s.readLoc _ _ _ _ _ _ = r at read ⊢
        obtain ⟨s1, bs | _ | _⟩ := r
        · exact read.trans (ih _ (read.held.quiet q))
        · exact read
        · exact read

theorem sameBytes_askTile (s : State) (rd : TileRead) (limit : Word) (cls : Nat) : SameBytes s (s.askTile rd limit cls).1 := by
  unfold State.askTile
  dsimp only
  split
  · exact ⟨.of_cores rfl rfl rfl rfl rfl, rfl⟩
  · split
    next e => exact (linksOnly_sendTo e).sameBytes
    · exact .refl s

theorem sameBytes_askTiles (s : State) (k : Nat) (w : Wave) (uid tol : Nat) (asks : List Ask) : SameBytes s (s.askTiles k w uid tol asks).1 := by
  unfold State.askTiles
  generalize asks.filter Ask.byTile = byTile
  generalize ([] : List Nat) = tokens
  induction byTile generalizing s tokens with
  | nil => exact .refl s
  | cons a as ih =>
    rw [List.foldl_cons]
    split
    · exact (sameBytes_askTile ..).trans (ih _ _)
    · exact ih _ _
    · exact ih _ _
    · exact ih _ _

theorem sameBytes_tick1 (s : State) : SameBytes s s.tick1 := ⟨.of_cores rfl rfl rfl rfl rfl, rfl⟩

/-- What a load does outside its wave leaves every byte. -/
theorem sameBytes_of_loads {acc : Access} {inv : Bool} {tol : Nat} {addrs : Issue → Word → Wave → Nat → List Addr}
    {asks : Issue → Word → Wave → List (Nat × List Place) → List Ask} {s t : State} {iss : Issue} {lanes : Word} {w : Wave} {known : Op → Prop}
    (q : s.quiet) (h : loads acc inv tol addrs asks s iss lanes w = some (t, known)) : SameBytes s t := by
  obtain ⟨s1, got, s2, ws, hgot, -, hws, rfl, -⟩ := loads_eq_some h
  have checked := (cachesOnly_checkLanes s iss.wave w acc (addrs iss lanes w) (lanesOf lanes) []).sameBytes
  rw [hgot] at checked
  have gathered := sameBytes_gather w (cidOf iss.wave) inv (asks iss lanes w got) [] (checked.held.quiet q)
  rw [hws] at gathered
  exact ((checked.trans gathered).trans (sameBytes_tick1 s2)).trans (sameBytes_askTiles ..)

end Sys2Proof.Machine

/-! Stores change the bytes of their elements alone, to the bytes stored (06 R176, R181, R183, R188, R190; 09 R272). -/

namespace Sys2Proof.Machine

/-! ### Stores: Dirty bytes of the own core (06 R181; 09 R272) -/

/-- Entering cells of different keys in a map, g reading back of an entry what its cell says. -/
theorem find?_foldl_put {α : Type} {g : α → Byte} {f : SMap α → Nat × Byte → α} (hf : ∀ m c, g (f m c) = c.2) {cs : List (Nat × Byte)}
    (hd : cs.Pairwise (fun p q => p.1 < q.1)) (m : SMap α) (k : Nat) :
    ((cs.foldl (fun m c => m.put c.1 (f m c)) m).find? k).map g = (SMap.find? cs k).or ((m.find? k).map g) := by
  induction cs generalizing m with
  | nil => rfl
  | cons c cs ih =>
    obtain ⟨above, rest⟩ := List.pairwise_cons.1 hd
    rw [List.foldl_cons, ih rest, SMap.find?_cons, SMap.find?_put]
    by_cases hk : c.1 = k
    · subst hk
      have unlisted : SMap.find? cs c.1 = none := by
        cases found : SMap.find? cs c.1 with
        | none => rfl
        | some b => exact absurd (above _ (SMap_mem_of_find? found)) (lt_irrefl _)
      simp [unlisted, hf]
    · rw [if_neg hk, if_neg (Ne.symm hk)]

/-- A store of the core's L1: its bytes are Dirty there, and nothing else changes. -/
theorem storeDirty_of_quiet {s : State} (cid ctx uid prio key : Nat) (bs : List Byte) (coded : Bool) (q : s.quiet) :
    ∃ l : L1, s.storeDirty cid ctx uid prio key bs coded = s.setL1 cid l ∧ l.upd = [] ∧ l.hold = [] ∧
      ∀ a, (l.dirty.find? a).map DByte.val =
        if key ≤ a ∧ a < key + bs.length then some (bs.getD (a - key) 0) else ((s.l1 cid).dirty.find? a).map DByte.val := by
  unfold State.storeDirty
  simp only [no_upd q, Bool.false_eq_true, if_false]
  refine ⟨_, rfl, q.upd cid, q.hold cid, fun a => ?_⟩
  refine (find?_foldl_put (g := DByte.val) (fun _ _ => rfl) (cellsAt_pairwise key bs) _ a).trans ?_
  rw [find?_cellsAt]
  split <;> rfl

theorem onlyDirty_setL1 {s : State} {cid : Nat} {l : L1} (h : s.OnlyDirty) (hu : l.upd = []) (hh : l.hold = []) :
    (s.setL1 cid l).OnlyDirty := by
  refine ⟨fun c hc => ?_, h.drains, h.marks, h.monitors⟩
  rcases SMap.mem_put hc with rfl | hc
  · exact ⟨hu, hh⟩
  · exact h.l1 c hc

/-- The bytes seen after a plain store. -/
theorem seenByte_storeDirty {s : State} (cid ctx uid prio key : Nat) (bs : List Byte) (coded : Bool) (q : s.quiet) (i gk : Nat) (x : Loc) :
    (s.storeDirty cid ctx uid prio key bs coded).seenByte i gk x = match x with
      | .mem a c => if i = cid ∧ key ≤ a ∧ a < key + bs.length then bs.getD (a - key) 0 else s.seenByte i gk (.mem a c)
      | loc => s.seenByte i gk loc := by
  obtain ⟨l, hl, -, -, dirty⟩ := storeDirty_of_quiet cid ctx uid prio key bs coded q
  rw [hl]
  cases x with
  | core _ => rfl
  | cluster _ => rfl
  | chip _ => rfl
  | mem a c =>
    have own : (s.setL1 cid l).l1 i = if i = cid then l else s.l1 i := setCore_l1 ..
    have memory : (s.setL1 cid l).byte a = s.byte a := rfl
    simp only [State.seenByte, own, memory]
    by_cases hi : i = cid
    · subst hi
      rw [if_pos rfl, dirty]
      by_cases inside : key ≤ a ∧ a < key + bs.length
      · rw [if_pos inside, if_pos ⟨rfl, inside⟩]; rfl
      · rw [if_neg inside, if_neg (fun c => inside c.2)]
    · rw [if_neg hi, if_neg (fun c => hi c.1)]

/-! ### Stores: scratchpads (06 R176) -/

/-- A group after one group has been changed: as before, or what becomes of it. -/
theorem modGroup_group (s : State) (gk i : Nat) (f : Group → Group) :
    (s.modGroup gk f).group i = s.group i ∨ i = gk ∧ ∃ g, s.group i = some g ∧ (s.modGroup gk f).group i = some (f g) := by
  have found : (s.modGroup gk f).group i = if i = gk then (s.group i).map f else s.group i := SMap.find?_modify s.groups i gk f
  by_cases hi : i = gk
  · rw [if_pos hi] at found
    cases hg : s.group i with
    | none => exact .inl (by rw [found, hg]; rfl)
    | some g => exact .inr ⟨hi, g, rfl, by rw [found, hg]; rfl⟩
  · exact .inl (found.trans (if_neg hi))

/-- Writing bytes of a scratchpad. -/
theorem find?_foldl_cellsAt (o : Nat) (bs : List Byte) (m : SMap Byte) (k : Nat) :
    SMap.find? ((cellsAt o bs).foldl (fun m c => m.put c.1 c.2) m) k =
      if o ≤ k ∧ k < o + bs.length then some (bs.getD (k - o) 0) else m.find? k := by
  have put := find?_foldl_put (g := id) (f := fun _ c => c.2) (fun _ _ => rfl) (cellsAt_pairwise o bs) m k
  simp only [Option.map_id, id] at put
  rw [put, find?_cellsAt]
  split <;> rfl

/-- The bytes of a scratchpad that a write does not cover are as before, whoever reads them. -/
theorem seenByte_putBytesIn_of_not_covers (s : State) (gk cid : Nat) {loc x : Loc} (bs : List Byte) (h : ¬ loc.covers bs.length x) (i j : Nat) :
    (s.putBytesIn gk cid loc bs).seenByte i j x = s.seenByte i j x := by
  cases loc with
  | mem _ _ => rfl
  | core o =>
    cases x with
    | mem _ _ => rfl
    | chip _ => rfl
    | cluster a =>
      simp only [State.seenByte, State.scratchByte, State.putBytesIn]
      obtain e | ⟨-, g, e, e'⟩ := modGroup_group s gk j _
      · rw [e]
      · rw [e', e]
    | core a =>
      have outside : ¬ (o ≤ a + 0 ∧ a + 0 < o + bs.length) := h
      simp only [State.seenByte, State.scratchByte, State.putBytesIn]
      obtain e | ⟨-, g, e, e'⟩ := modGroup_group s gk j _
      · rw [e]
      · rw [e', e]
        simp only [SMap.get_put]
        by_cases hi : i = cid
        · rw [if_pos hi, find?_foldl_cellsAt, if_neg outside, hi]
        · rw [if_neg hi]
  | cluster o =>
    cases x with
    | mem _ _ => rfl
    | chip _ => rfl
    | core a =>
      simp only [State.seenByte, State.scratchByte, State.putBytesIn]
      obtain e | ⟨-, g, e, e'⟩ := modGroup_group s gk j _
      · rw [e]
      · rw [e', e]
    | cluster a =>
      have outside : ¬ (o ≤ a + 0 ∧ a + 0 < o + bs.length) := h
      simp only [State.seenByte, State.scratchByte, State.putBytesIn]
      obtain e | ⟨-, g, e, e'⟩ := modGroup_group s gk j _
      · rw [e]
      · rw [e', e]
        simp only [find?_foldl_cellsAt, if_neg outside]
  | chip o =>
    cases x with
    | mem _ _ => rfl
    | core _ => rfl
    | cluster _ => rfl
    | chip a =>
      have outside : ¬ (o ≤ a + 0 ∧ a + 0 < o + bs.length) := h
      simp only [State.seenByte, State.scratchByte, State.putBytesIn, find?_foldl_cellsAt, if_neg outside]
      rfl

/-- The bytes that a write of a scratchpad covers are those written, as its core and group read them. -/
theorem seenByte_putBytesIn_of_lt (s : State) {gk : Nat} (cid : Nat) {loc : Loc} {bs : List Byte} {i : Nat} (hg : (s.group gk).isSome = true)
    (hl : ∀ k c, loc ≠ .mem k c) (hi : i < bs.length) : (s.putBytesIn gk cid loc bs).seenByte cid gk (loc.plus i) = bs.getD i 0 := by
  obtain ⟨g, hg⟩ := Option.isSome_iff_exists.1 hg
  have changed (f : Group → Group) : (s.modGroup gk f).group gk = some (f g) := by
    refine (SMap.find?_modify s.groups gk gk f).trans ?_
    rw [if_pos rfl, show s.groups.find? gk = some g from hg]
    rfl
  cases loc with
  | mem k c => exact absurd rfl (hl k c)
  | core o =>
    simp only [Loc.plus, State.seenByte, State.scratchByte, State.putBytesIn, changed, SMap.get_put, if_true, find?_foldl_cellsAt]
    rw [if_pos (by omega), Nat.add_zero, Nat.add_sub_cancel_left]
    rfl
  | cluster o =>
    simp only [Loc.plus, State.seenByte, State.scratchByte, State.putBytesIn, changed, find?_foldl_cellsAt]
    rw [if_pos (by omega), Nat.add_zero, Nat.add_sub_cancel_left]
    rfl
  | chip o =>
    simp only [Loc.plus, State.seenByte, State.scratchByte, State.putBytesIn, find?_foldl_cellsAt]
    rw [if_pos (by omega), Nat.add_zero, Nat.add_sub_cancel_left]
    rfl

theorem seenByte_putScratch (s : State) (gk cid : Nat) (loc : Loc) (bs : List Byte) (i j : Nat) (x : Loc) :
    (s.putScratch gk cid loc bs).seenByte i j x = (s.putBytesIn gk cid loc bs).seenByte i j x := by
  refine SameBytes.seenByte ?_ i j x
  unfold State.putScratch State.clearSpoiled
  split
  · exact .refl _
  · exact ⟨.of_cores rfl rfl rfl rfl rfl, rfl⟩

theorem onlyDirty_putScratch {s : State} (gk cid : Nat) (loc : Loc) (bs : List Byte) (h : s.OnlyDirty) :
    (s.putScratch gk cid loc bs).OnlyDirty := by
  have put : (s.putBytesIn gk cid loc bs).OnlyDirty := by
    cases loc <;> exact ⟨h.l1, h.drains, h.marks, h.monitors⟩
  unfold State.putScratch State.clearSpoiled
  split
  · exact put
  · exact ⟨put.l1, put.drains, put.marks, put.monitors⟩

/-! ### The elements of a store, one after another -/

/-- An element of an uncoded page or a scratchpad. -/
def Put.uncoded (p : Put) : Prop := ∀ k, p.place.loc ≠ .mem k true

/-- An element in a region tile, in the L1, or in a scratchpad. -/
theorem putElem_cases (s : State) (cid : Nat) (w : Wave) {p : Put} (hp : p.uncoded) :
    (∃ key limit, p.place.loc = .mem key false ∧ p.place.limit = some limit ∧
      s.putElem cid w p = s.write (cellsAt key p.bytes) false .other) ∨
    (∃ key, p.place.loc = .mem key false ∧ p.place.limit = none ∧
      (s.putElem cid w p).1 = s.storeDirty cid w.ctx w.uid w.prio key p.bytes false) ∨
    ((∀ k c, p.place.loc ≠ .mem k c) ∧ (s.putElem cid w p).1 = s.putScratch w.group cid p.place.loc p.bytes) := by
  obtain ⟨⟨loc, limit, priv⟩, bytes⟩ := p
  cases loc with
  | mem key coded =>
    obtain rfl : coded = false := by
      cases coded with
      | false => rfl
      | true => exact absurd rfl (hp key)
    cases limit with
    | some l => exact .inl ⟨key, l, rfl, rfl, rfl⟩
    | none => exact .inr (.inl ⟨key, rfl, rfl, rfl⟩)
  | core o => exact .inr (.inr ⟨nofun, rfl⟩)
  | cluster o => exact .inr (.inr ⟨nofun, rfl⟩)
  | chip o => exact .inr (.inr ⟨nofun, rfl⟩)

/-- An element that is stored keeps every byte that it does not cover. -/
theorem putElem_keeps {s : State} (cid : Nat) (w : Wave) {p : Put} (hp : p.uncoded) (h : s.OnlyDirty) :
    (s.putElem cid w p).1.OnlyDirty ∧ ∀ x, ¬ p.place.loc.covers p.bytes.length x → ∀ i j, (s.putElem cid w p).1.seenByte i j x = s.seenByte i j x := by
  obtain ⟨key, limit, hloc, -, ran⟩ | ⟨key, hloc, -, ran⟩ | ⟨-, ran⟩ := putElem_cases s cid w hp
  · obtain ⟨held, only⟩ := write_sameHeld (cellsAt key p.bytes) .other h
    rw [ran, hloc]
    refine ⟨only, fun x hx i j => seenByte_of_sameHeld held (fun a c ha => ?_) i j⟩
    subst ha
    rw [write_byte _ _ _ h, if_neg (fun inside => hx inside.1)]
  · rw [ran, hloc]
    refine ⟨?_, fun x hx i j => ?_⟩
    · obtain ⟨l, hl, hu, hh, -⟩ := storeDirty_of_quiet cid w.ctx w.uid w.prio key p.bytes false h.l1
      rw [hl]
      exact onlyDirty_setL1 h hu hh
    · rw [seenByte_storeDirty _ _ _ _ _ _ _ h.l1]
      cases x with
      | mem a c => exact if_neg fun inside => hx inside.2
      | core _ => rfl
      | cluster _ => rfl
      | chip _ => rfl
  · rw [ran]
    exact ⟨onlyDirty_putScratch _ _ _ _ h, fun x hx i j => by
      rw [seenByte_putScratch, seenByte_putBytesIn_of_not_covers _ _ _ _ hx]⟩

/-- A sequence of elements keeps every byte that none of them covers. -/
theorem putElems_keep (cid : Nat) (w : Wave) {puts : List Put} (hp : ∀ p ∈ puts, p.uncoded) {x : Loc}
    (hx : ∀ p ∈ puts, ¬ p.place.loc.covers p.bytes.length x) (r : State × List Nat) (h : r.1.OnlyDirty) (i j : Nat) :
    (puts.foldl (fun (r : State × List Nat) p => ((r.1.putElem cid w p).1, r.2 ++ (r.1.putElem cid w p).2)) r).1.seenByte i j x =
      r.1.seenByte i j x := by
  induction puts generalizing r with
  | nil => rfl
  | cons p ps ih =>
    obtain ⟨only, keeps⟩ := putElem_keeps cid w (hp p (List.mem_cons_self ..)) h
    rw [List.foldl_cons]
    refine (ih (fun q hq => hp q (List.mem_cons_of_mem _ hq)) (fun q hq => hx q (List.mem_cons_of_mem _ hq)) _ ?_).trans ?_
    · exact only
    · exact keeps x (hx p (List.mem_cons_self ..)) i j

/-- A store whose tiles no other device can hold performs its elements after its checks. -/
theorem stores_eq_elements {acc : Access} {addrs : Issue → Word → Wave → Nat → List Addr} {puts : Issue → Wave → List (Nat × List Place) → List Put}
    {s s1 t : State} {iss : Issue} {lanes : Word} {w : Wave} {known : Op → Prop} {got : List (Nat × List Place)} (tiles : s1.tiles = [])
    (h : stores acc addrs puts s iss lanes w = some (t, known))
    (hgot : s.checkLanes iss.wave w acc (addrs iss lanes w) (lanesOf lanes) [] = (s1, .ok got)) :
    ((puts iss w got).foldl (fun (r : State × List Nat) p =>
      ((r.1.putElem (cidOf iss.wave) w p).1, r.2 ++ (r.1.putElem (cidOf iss.wave) w p).2)) (s1, [])).1.tick1 = t := by
  have clear (keys : List Nat) : s1.clearAfar keys = (s1, true) :=
    State.clearAfar_free fun k _ _ => by unfold State.heldAfar; rw [tiles]; rfl
  unfold stores at h
  simp only [hgot, clear] at h
  split at h
  · cases h
  · cases h
    rfl

/-- An element that is stored reads back in the own core and scratchpads. -/
theorem putElem_seenByte {s : State} (cid : Nat) {w : Wave} {p : Put} (hp : p.uncoded) (q : s.quiet) (hg : (s.group w.group).isSome = true)
    (hlimit : p.place.limit = none) {i : Nat} (hi : i < p.bytes.length) :
    (s.putElem cid w p).1.seenByte cid w.group (p.place.loc.plus i) = p.bytes.getD i 0 := by
  obtain ⟨key, limit, -, hl, -⟩ | ⟨key, hloc, -, ran⟩ | ⟨hloc, ran⟩ := putElem_cases s cid w hp
  · exact absurd hlimit (by rw [hl]; exact Option.some_ne_none _)
  · rw [ran, hloc, seenByte_storeDirty _ _ _ _ _ _ _ q]
    simp only [Loc.plus]
    rw [if_pos ⟨trivial, by omega, by omega⟩, Nat.add_sub_cancel_left]
  · rw [ran, seenByte_putScratch, seenByte_putBytesIn_of_lt s cid hg hloc hi]

/-- Settles O55: a load changes caches and counters only; a store's elements change the bytes they cover and no others, one after
another. -/
theorem loadsAndStoresOfMemory : Obligations.LoadsAndStoresOfMemory := by
  unfold Obligations.LoadsAndStoresOfMemory
  refine ⟨fun acc inv tol addrs asks s iss lanes w t known h ran cid gk x => (sameBytes_of_loads h.quiet ran).seenByte cid gk x, ?stores,
    fun s cid w p i h hg hlimit hp hi => putElem_seenByte cid hp h.quiet hg hlimit hi, ?tile⟩
  case stores =>
    intro acc addrs puts s iss lanes w t known s1 got h ran hgot hp x hx cid gk
    have checked := cachesOnly_checkLanes s iss.wave w acc (addrs iss lanes w) (lanesOf lanes) []
    rw [hgot] at checked
    rw [← stores_eq_elements ((checked.same State.tiles).trans h.tiles) ran hgot, (sameBytes_tick1 _).seenByte,
      putElems_keep (cidOf iss.wave) w hp hx (s1, []) (checked.onlyDirty h.onlyDirty) cid gk, checked.sameBytes.seenByte]
  case tile =>
    intro s cid w p key limit pr i h hplace here hi
    have ran : s.putElem cid w p = s.write (cellsAt key p.bytes) false .other := by
      unfold State.putElem
      rw [hplace]
    rw [ran, write_byte _ _ _ h.onlyDirty, if_pos ⟨by omega, here i hi⟩, Nat.add_sub_cancel_left]

end Sys2Proof.Machine

/-! Accesses leave the links and the device's own index as they are: who answers for a byte does not change within an instruction
(14 R388, R391, R392). -/

namespace Sys2Proof.Machine

/-- Two states in which the same ports are up, to the same peers, and the device has the same index. -/
structure SameLinks (s t : State) : Prop where
  regs : t.regs = s.regs
  port : ∀ n, (t.port n).up = (s.port n).up ∧ (t.port n).peer = (s.port n).peer

theorem SameLinks.refl (s : State) : SameLinks s s := ⟨rfl, fun _ => ⟨rfl, rfl⟩⟩

theorem SameLinks.trans {s t u : State} (h : SameLinks s t) (g : SameLinks t u) : SameLinks s u :=
  ⟨g.regs.trans h.regs, fun n => ⟨(g.port n).1.trans (h.port n).1, (g.port n).2.trans (h.port n).2⟩⟩

/-- Whatever changes neither the ports nor the registers of the device. -/
theorem SameLinks.of_ports {s t : State} (ports : t.ports = s.ports) (regs : t.regs = s.regs) : SameLinks s t :=
  ⟨regs, fun n => by unfold State.port; rw [ports]; exact ⟨rfl, rfl⟩⟩

/-- A change that keeps the links, once something else has been changed. -/
theorem SameLinks.after {s t u : State} (g : SameLinks t u) (ports : t.ports = s.ports := by rfl) (regs : t.regs = s.regs := by rfl) :
    SameLinks s u := (SameLinks.of_ports ports regs).trans g

theorem SameLinks.portTo {s t : State} (h : SameLinks s t) (peer : Nat) : t.portTo peer = s.portTo peer := by
  have same : (fun n => (t.port n).up && (t.port n).peer == peer) = fun n => (s.port n).up && (s.port n).peer == peer :=
    funext fun n => by rw [(h.port n).1, (h.port n).2]
  unfold State.portTo
  rw [same]

theorem SameLinks.isLocal {s t : State} (h : SameLinks s t) (key : Nat) : t.isLocal key = s.isLocal key := by
  unfold State.isLocal State.did
  rw [h.regs]

/-- A sequence of steps that each keep the links. -/
theorem SameLinks.foldl {α : Type} {f : State → α → State} (hf : ∀ s x, SameLinks s (f s x)) (xs : List α) (s : State) :
    SameLinks s (xs.foldl f s) := by
  induction xs generalizing s with
  | nil => exact .refl s
  | cons x xs ih => exact (hf s x).trans (ih _)

/-- The same of steps that carry something else along. -/
theorem SameLinks.foldl_fst {α β : Type} {f : State × β → α → State × β} (hf : ∀ r x, SameLinks r.1 (f r x).1) (xs : List α)
    (r : State × β) : SameLinks r.1 (xs.foldl f r).1 := by
  induction xs generalizing r with
  | nil => exact .refl _
  | cons x xs ih => exact (hf r x).trans (ih _)

/-- One of two states. -/
theorem SameLinks.ite {c : Prop} [Decidable c] {s t u : State} (ht : SameLinks s t) (hu : SameLinks s u) :
    SameLinks s (if c then t else u) := by
  split
  · exact ht
  · exact hu

/-! ### Sending (14 R391, R392) -/

theorem pump_link (did fuel : Nat) (p : Port) : (p.pump did fuel).up = p.up ∧ (p.pump did fuel).peer = p.peer := by
  induction fuel generalizing p with
  | zero => exact ⟨rfl, rfl⟩
  | succ fuel ih =>
    unfold Port.pump
    split
    · exact ⟨rfl, rfl⟩
    · dsimp only
      split
      · exact ⟨rfl, rfl⟩
      · exact ih _

theorem sameLinks_setPort {s : State} {n : Nat} {p : Port} (up : p.up = (s.port n).up) (peer : p.peer = (s.port n).peer) :
    SameLinks s (s.setPort n p) := by
  refine ⟨rfl, fun m => ?_⟩
  have found : (s.setPort n p).port m = if m = n then p else s.port m := SMap.get_put ..
  rw [found]
  split
  next e => rw [e]; exact ⟨up, peer⟩
  next => exact ⟨rfl, rfl⟩

theorem sameLinks_send (s : State) (n did : Nat) (t : LinkTx) : SameLinks s (s.setPort n ((s.port n).send did t)) :=
  sameLinks_setPort (pump_link ..).1 (pump_link ..).2

theorem sameLinks_sendTo {s t : State} {peer token : Nat} {x : LinkTx} {p : Purpose} (e : s.sendTo peer x p = some (t, token)) :
    SameLinks s t := by
  unfold State.sendTo at e
  split at e
  · cases e
  next n _ =>
    cases e
    have sent : SameLinks s (s.tick1.setPort n ((s.port n).send s.did { x with tag := s.fresh % 65536, cls := s.requestClass x.cls })) :=
      .after (sameLinks_send s.tick1 ..)
    have noted (u : State) (h : SameLinks s u) (ts : List Txn) : SameLinks s { u with txns := ts } := h.trans (.of_ports rfl rfl)
    refine noted _ ?_ _
    split
    · exact sent.trans (.of_ports rfl rfl)
    · exact sent

theorem sameLinks_countLost (s : State) (peer : Nat) : SameLinks s (s.countLost peer) := by
  unfold State.countLost
  split
  · exact sameLinks_setPort rfl rfl
  · exact .refl s

theorem sameLinks_answerPeer (s : State) (a : Asker) (status : Nat) (data : List Byte) : SameLinks s (s.answerPeer a status data) := by
  unfold State.answerPeer
  split
  · exact sameLinks_send ..
  · exact .refl s

/-! ### Writes at the home, their monitors and invalidations (08 R249, R253) -/

theorem sameLinks_setWakeBit (s : State) (ctx k : Nat) : SameLinks s (s.setWakeBit ctx k) := by
  unfold State.setWakeBit
  split
  · exact .refl s
  · exact .of_ports rfl rfl

theorem sameLinks_wake (s : State) (m : Mon) : SameLinks s (s.wake m) := by
  unfold State.wake
  split
  · split
    · exact sameLinks_send ..
    · exact .refl s
  · exact .ite (sameLinks_setWakeBit ..) (.of_ports rfl rfl)

theorem sameLinks_notify (s : State) (key : Nat) : SameLinks s (s.notify key) := by
  unfold State.notify
  dsimp only
  split
  · exact .after (.foldl sameLinks_wake _ _)
  · exact .refl s

theorem sameLinks_invalidateMarks (s : State) (line : Nat) : SameLinks s (s.invalidateMarks line) := by
  unfold State.invalidateMarks
  split
  · exact .refl s
  · refine .after (.foldl (fun u d => ?_) _ _)
    split
    next e => exact sameLinks_sendTo e
    · exact .refl u

theorem sameLinks_putCells (s : State) (cs : List (Nat × Byte)) : SameLinks s (s.putCells cs) := by
  obtain ⟨m, hm⟩ := putCells_eq s cs
  rw [hm]
  exact .of_ports rfl rfl

theorem sameLinks_putCoded (s : State) (base : Nat) (cs : List (Nat × Byte)) : SameLinks s (s.putCoded base cs) := by
  unfold State.putCoded State.putBytes
  dsimp only
  split
  · exact sameLinks_putCells ..
  · split
    · exact sameLinks_putCells ..
    · split
      · exact (sameLinks_putCells ..).trans (sameLinks_putCells ..)
      · exact sameLinks_putCells ..

theorem sameLinks_putView (s : State) (cs : List (Nat × Byte)) (coded : Bool) : SameLinks s (s.putView cs coded) :=
  .ite (.foldl (fun _ _ => sameLinks_putCoded ..) _ _) (sameLinks_putCells ..)

theorem sameLinks_homePut (s : State) (cs : List (Nat × Byte)) (coded : Bool) : SameLinks s (s.homePut cs coded) :=
  ((sameLinks_putView s cs coded).trans (.foldl sameLinks_invalidateMarks _ _)).trans (.foldl sameLinks_notify _ _)

theorem sameLinks_homeWrite (s : State) (cs : List (Nat × Byte)) (coded : Bool) : SameLinks s (s.homeWrite cs coded) :=
  .after (sameLinks_homePut (s.clearPoison cs) ..)

theorem sameLinks_spoilLine (s : State) (line : Nat) : SameLinks s (s.spoilLine line) :=
  .ite (sameLinks_countLost ..) (.ite (.refl s) (.of_ports rfl rfl))

/-! ### Update-only copies (08 R247, R248) -/

theorem sameLinks_combineUpd (s : State) (u : Upd) : SameLinks s (s.combineUpd u) := by
  unfold State.combineUpd
  split
  · exact sameLinks_spoilLine ..
  · split
    · exact sameLinks_homePut ..
    · dsimp only
      split
      next e => exact sameLinks_sendTo e
      · exact sameLinks_countLost ..

theorem sameLinks_sendUpd (s : State) (cid : Nat) (p : Upd → Bool) : SameLinks s (s.sendUpd cid p) :=
  .after (.foldl sameLinks_combineUpd _ _)

theorem sameLinks_recallLine (s : State) (line : Nat) : SameLinks s (s.recallLine line) := by
  refine .foldl (fun u cid => ?_) _ s
  have sent : SameLinks u (if (u.core cid).l1.upd.any (fun x => x.line == line) then u.sendUpd cid (fun x => x.line == line) else u) :=
    .ite (sameLinks_sendUpd ..) (.refl u)
  exact .ite (sent.trans (.of_ports rfl rfl)) sent

/-! ### Region tiles (08 R260 to R264) -/

theorem sameLinks_combineDrain (s : State) (d : Drain) : SameLinks s (s.combineDrain d) := by
  have combined : SameLinks s (s.combineDelta d.tile d.delta d.coded) := by
    unfold State.combineDelta
    split
    · exact .refl s
    · exact sameLinks_homePut ..
  have spoilt := (sameLinks_spoilLine s (2 * d.tile)).trans (sameLinks_spoilLine _ (2 * d.tile + 1))
  exact .ite (.refl s) ((SameLinks.ite (c := d.bad = true) spoilt combined).trans (.of_ports rfl rfl))

theorem sameLinks_loseTile (s : State) (cid tile : Nat) : SameLinks s (s.loseTile cid tile) := by
  have erased (u : State) (x : Nat × Add) : SameLinks u
      ((u.countLost (targetOf (256 * tile))).modOp x.1 fun o => { o with adds := o.adds.erase x.2 }) :=
    (sameLinks_countLost u _).trans (.of_ports rfl rfl)
  unfold State.loseTile
  refine SameLinks.trans ?_ (.foldl erased _ _)
  split
  · exact .refl s
  · have lost : SameLinks s ((s.dropHolder cid tile).countLost (targetOf (256 * tile))) :=
      .after (sameLinks_countLost ..)
    dsimp only
    split
    · exact lost.trans (.of_ports rfl rfl)
    · exact lost

theorem sameLinks_sendDelta (s : State) (cid : Nat) (h : Holder) (leaving : Bool) : SameLinks s (s.sendDelta cid h leaving).1 := by
  unfold State.sendDelta
  dsimp only
  split
  · exact sameLinks_loseTile ..
  next e =>
    obtain ⟨r, first, second⟩ := Option.bind_eq_some_iff.1 e
    have sent := (sameLinks_sendTo first).trans (sameLinks_sendTo second)
    exact (SameLinks.ite (sent.trans (sameLinks_countLost ..)) sent).trans (.of_ports rfl rfl)

theorem sameLinks_startDrain (s : State) (cid : Nat) (h : Holder) (leaving : Bool) : SameLinks s (s.startDrain cid h leaving).1 := by
  unfold State.startDrain
  split
  · exact .of_ports rfl rfl
  · exact sameLinks_sendDelta ..

theorem sameLinks_tryAdd {s t : State} {cid : Nat} {a : Add} {ids : List Nat} (e : s.tryAdd cid a = some (t, ids)) : SameLinks s t := by
  unfold State.tryAdd at e
  split at e
  · cases e
  next h _ =>
    have entered : SameLinks s (s.setHolder cid ((h.serve a).enter a.elem a.val)) := .of_ports rfl rfl
    split at e
    · cases e
    · dsimp only at e
      split at e
      · obtain rfl : _ = t := congrArg Prod.fst (Option.some.inj e)
        exact entered.trans (sameLinks_startDrain ..)
      · cases e
        exact entered

theorem sameLinks_requestJoin (s : State) (cid : Nat) (a : Add) : SameLinks s (s.requestJoin cid a) := by
  unfold State.requestJoin
  split
  · exact .ite (.refl s) (.of_ports rfl rfl)
  · split
    · exact .refl s
    · split
      next e => exact sameLinks_sendTo e
      · exact sameLinks_loseTile ..

theorem sameLinks_pushAdds (s : State) (cid tile : Nat) : SameLinks s (s.pushAdds cid tile) := by
  have pushed : SameLinks s ((s.waitingAdds cid tile).foldl (fun (r : State × Bool) x =>
      if r.2 then
        match r.1.tryAdd cid x.2 with
        | none => (r.1, false)
        | some (s1, ids) => (s1.modOp x.1 (fun o => { o with adds := o.adds.erase x.2, waits := o.waits ++ ids }), true)
      else r) (s, true)).1 := by
    refine SameLinks.foldl_fst (fun r x => ?_) _ (s, true)
    split
    · split
      · exact .refl _
      next e => exact (sameLinks_tryAdd e).trans (.of_ports rfl rfl)
    · exact .refl _
  unfold State.pushAdds
  dsimp only
  split
  · exact pushed.trans (sameLinks_requestJoin ..)
  · exact pushed

theorem sameLinks_grantShare (s : State) (j : Join) (tile k : Nat) : SameLinks s (s.grantShare j tile k) := by
  unfold State.grantShare State.holdTile
  split
  · exact .refl s
  · dsimp only
    split
    · exact .after (sameLinks_pushAdds ..)
    · exact .after (sameLinks_answerPeer ..)

theorem sameLinks_endHalving (s : State) (tile id : Nat) : SameLinks s (s.endHalving tile id) := by
  unfold State.endHalving
  split
  · exact .ite (sameLinks_grantShare ..) (.refl s)
  · exact .refl s

theorem sameLinks_ackDrain (s : State) (d : Drain) : SameLinks s (s.ackDrain d) := by
  unfold State.ackDrain
  dsimp only
  split
  · exact .of_ports rfl rfl
  · refine SameLinks.trans ?_ ((sameLinks_endHalving ..).trans (sameLinks_pushAdds ..))
    split
    · exact .of_ports rfl rfl
    · exact .ite (.of_ports rfl rfl) (.of_ports rfl rfl)

theorem sameLinks_finishDrain (s : State) (id : Nat) : SameLinks s (s.finishDrain id) := by
  unfold State.finishDrain
  split
  · exact .refl s
  · exact (sameLinks_combineDrain ..).trans (sameLinks_ackDrain ..)

theorem sameLinks_leaveTile (s : State) (cid tile : Nat) : SameLinks s (s.leaveTile cid tile) := by
  unfold State.leaveTile
  split
  · exact .refl s
  · split
    · exact .after (sameLinks_finishDrain ..)
    · exact (sameLinks_startDrain ..).trans (.foldl sameLinks_finishDrain _ _)

theorem sameLinks_recallTile (s : State) (tile : Nat) : SameLinks s (s.recallTile tile) :=
  .ite (.refl s) ((SameLinks.foldl sameLinks_combineDrain _ _).trans (.foldl (fun _ _ => sameLinks_leaveTile ..) _ _))

/-! ### Writes (06 R188, R194; 14 R391) -/

theorem sameLinks_recall (s : State) (key : Nat) : SameLinks s (s.recall key) := (sameLinks_recallTile ..).trans (sameLinks_recallLine ..)

theorem sameLinks_recallCells (s : State) (cs : List (Nat × Byte)) : SameLinks s (s.recallCells cs) :=
  .foldl (fun _ _ => sameLinks_recall ..) _ s

theorem sameLinks_remoteLine (s : State) (cls line : Nat) (cs : List (Nat × Byte)) (p : Purpose) :
    SameLinks s (s.remoteLine cls line cs p).1 := by
  unfold State.remoteLine
  dsimp only
  split
  next e => exact sameLinks_sendTo e
  · exact sameLinks_countLost ..

theorem sameLinks_writeAs (s : State) (cls : Nat) (cs : List (Nat × Byte)) (coded : Bool) (p : Purpose) :
    SameLinks s (s.writeAs cls cs coded p).1 := by
  have here : SameLinks s (if (cs.filter fun c => s.isLocal c.1).isEmpty then s
      else (s.recallCells (cs.filter fun c => s.isLocal c.1)).homeWrite (cs.filter fun c => s.isLocal c.1) coded) :=
    .ite (.refl s) ((sameLinks_recallCells ..).trans (sameLinks_homeWrite ..))
  refine SameLinks.trans here (SameLinks.foldl_fst (fun r l => ?_) _ (_, _))
  exact sameLinks_remoteLine ..

/-! ### What an atomic does (06 R181, R192, R193; 08 R246, R249, R262) -/

theorem sameLinks_attach (s : State) (keys tokens : List Nat) : SameLinks s (s.attach keys tokens) :=
  .ite (.refl s) (.of_ports rfl rfl)

theorem sameLinks_flushDirty (s : State) (cid : Nat) (p : Nat → DByte → Bool) : SameLinks s (s.flushDirty cid p) := by
  unfold State.flushDirty
  dsimp only
  split
  · exact .refl s
  · refine SameLinks.trans ?_ ((SameLinks.foldl sameLinks_spoilLine _ _).trans (sameLinks_attach ..))
    exact .after ((sameLinks_writeAs ..).trans (sameLinks_writeAs ..))

theorem sameLinks_yieldLine (s : State) (cid line : Nat) : SameLinks s (s.yieldLine cid line) :=
  (sameLinks_flushDirty ..).trans (.of_ports rfl rfl)

theorem sameLinks_homeAtomic (s : State) (cid kind key : Nat) (coded : Bool) (b c : Word) :
    SameLinks s (s.homeAtomic cid kind key coded b c).1 :=
  ((sameLinks_yieldLine ..).trans (sameLinks_recall ..)).trans (sameLinks_homeWrite ..)

theorem CachesOnly.sameLinks {s t : State} (h : CachesOnly s t) : SameLinks s t := .of_ports (h.same State.ports) (h.same State.regs)

theorem sameLinks_putScratch (s : State) (gk cid : Nat) (loc : Loc) (bs : List Byte) : SameLinks s (s.putScratch gk cid loc bs) := by
  have put : SameLinks s (s.putBytesIn gk cid loc bs) := by
    cases loc <;> exact .of_ports rfl rfl
  exact put.trans (.ite (.refl _) (.of_ports rfl rfl))

theorem sameLinks_askLeave (s : State) (tile : Nat) : SameLinks s (s.askLeave tile) := by
  refine .foldl (fun u x => ?_) _ s
  dsimp only
  split
  · exact .refl u
  · split
    next e => exact sameLinks_sendTo e
    · exact .refl u

theorem sameLinks_clearFor (s : State) (sc : Nat) (amos : List Amo) : SameLinks s (s.clearFor sc amos).1 := by
  have cleared : SameLinks s (s.clearAfar (amos.flatMap fun a => a.place.tileKeys)).1 := .foldl sameLinks_askLeave _ s
  unfold State.clearFor
  generalize s.clearAfar (amos.flatMap fun a => a.place.tileKeys) = r at cleared ⊢
  obtain ⟨s1, _ | _⟩ := r
  · exact cleared
  · dsimp only
    split
    · exact cleared
    · exact cleared.trans (.foldl sameLinks_invalidateMarks _ _)

end Sys2Proof.Machine

/-! Atomics: every lane in ascending order, and one value a lane where they return one (06 R179, R181, R191 to R194; 01 R37, R44, R46). -/

namespace Sys2Proof.Machine

/-! ### One lane of a returning atomic -/

theorem sendTo_of_portTo {s : State} {peer : Nat} (h : (s.portTo peer).isSome = true) (x : LinkTx) (p : Purpose) :
    ∃ t token, s.sendTo peer x p = some (t, token) := by
  obtain ⟨n, hn⟩ := Option.isSome_iff_exists.1 h
  unfold State.sendTo
  rw [hn]
  exact ⟨_, _, rfl⟩

/-- The word is on this device or a link reaches its home (14 R394). -/
def State.Reaches (s : State) (a : Amo) : Prop :=
  ∀ key coded, a.place.loc = .mem key coded → s.isLocal key = false → (s.portTo (targetOf key)).isSome = true

theorem reaches_of_readable {s : State} {gk cid cell : Nat} {a : Amo} (hcell : a.cell = some cell) (h : s.unreadable gk cid a = false) :
    s.Reaches a := by
  intro key coded hloc away
  unfold State.unreadable at h
  simp only [hloc, away, hcell, Option.isSome_some, Bool.true_and, Bool.false_eq_true, if_false] at h
  rw [Option.isSome_iff_ne_none]
  exact fun e => by simp [e] at h

theorem SameLinks.reaches {s t : State} (h : SameLinks s t) {a : Amo} (ha : s.Reaches a) : t.Reaches a := by
  intro key coded hloc away
  rw [h.portTo]
  exact ha key coded hloc ((h.isLocal key).symm.trans away)

/-- A lane whose home can be reached adds one reply, for its register cell, and keeps the links. -/
theorem step_of_reaches (iss : Issue) (w : Wave) (kind sc : Nat) {r : AmoRun} {a : Amo} {cell : Nat} (hcell : a.cell = some cell)
    (reached : r.s.Reaches a) : SameLinks r.s (AmoRun.step iss w kind sc r a).s ∧
      (AmoRun.step iss w kind sc r a).replies.map Reply.cell = r.replies.map Reply.cell ++ [cell] := by
  have scratch (loc : Loc) (bs : List Byte) (old : Word) :
      SameLinks r.s (r.land a.lane a.addr a.cell (r.s.putScratch w.group (cidOf iss.wave) loc bs) old).s ∧
        (r.land a.lane a.addr a.cell (r.s.putScratch w.group (cidOf iss.wave) loc bs) old).replies.map Reply.cell =
          r.replies.map Reply.cell ++ [cell] := by
    rw [hcell]
    exact ⟨sameLinks_putScratch .., by simp [AmoRun.land]⟩
  unfold AmoRun.step
  cases hloc : a.place.loc with
  | mem key coded =>
    dsimp only
    cases here : r.s.isLocal key with
    | true =>
      simp only [hcell, Option.isNone_some, Bool.false_and, Bool.false_eq_true, if_false, if_true]
      exact ⟨(sameLinks_homeAtomic ..).trans (cachesOnly_mayHold ..).sameLinks, by simp [AmoRun.land]⟩
    | false =>
      have kept := sameLinks_yieldLine r.s (cidOf iss.wave) (lineOf key)
      have port := reached key coded hloc here
      rw [← kept.portTo] at port
      simp only [hcell, Option.isSome_some, Bool.false_eq_true, if_false, if_true]
      obtain ⟨t, token, sent⟩ := sendTo_of_portTo port
        (LinkTx.of 3 0 kind (paOf key) (if kind = 10 then bytesOf 4 a.b.toNat ++ bytesOf 4 a.c.toNat else bytesOf 4 a.b.toNat) none)
        (.ret w.uid iss a.lane a.addr)
      rw [sent]
      exact ⟨kept.trans (sameLinks_sendTo sent), by simp [AmoRun.send]⟩
  | core off => exact scratch ..
  | cluster off => exact scratch ..
  | chip off => exact scratch ..

/-- Lanes whose homes can be reached add one reply each, in order. -/
theorem foldl_step_cells (iss : Issue) (w : Wave) (kind sc : Nat) {cells : List Nat} {xs : List Amo} (r : AmoRun)
    (hcells : xs.map Amo.cell = cells.map some) (reached : ∀ a ∈ xs, r.s.Reaches a) :
    (xs.foldl (AmoRun.step iss w kind sc) r).replies.map Reply.cell = r.replies.map Reply.cell ++ cells := by
  induction xs generalizing r cells with
  | nil =>
    obtain rfl : cells = [] := List.map_eq_nil_iff.1 hcells.symm
    exact (List.append_nil _).symm
  | cons a xs ih =>
    obtain ⟨cell, cells, rfl, hcell, hrest⟩ := List.map_eq_cons_iff.1 hcells.symm
    obtain ⟨links, added⟩ := step_of_reaches iss w kind sc hcell.symm (reached a (List.mem_cons_self ..))
    rw [List.foldl_cons, ih _ hrest.symm fun x hx => links.reaches (reached x (List.mem_cons_of_mem _ hx)), added, List.append_assoc]
    rfl

/-! ### The lanes of an atomic -/

/-- One place a lane gives one operation a lane. -/
theorem amosOf_cells {addr : Issue → Wave → Nat → Addr} {b c : Wave → Nat → Word} {cell : Wave → Nat → Option Nat} {iss : Issue} {w : Wave}
    {got : List (Nat × List Place)} (hone : ∀ g ∈ got, g.2.length = 1) :
    (amosOf addr b c cell iss w got).map Amo.cell = (got.map Prod.fst).map (cell w) := by
  unfold amosOf
  induction got with
  | nil => rfl
  | cons g got ih =>
    obtain ⟨p, hp⟩ := List.length_eq_one_iff.1 (hone g (List.mem_cons_self ..))
    rw [List.flatMap_cons, List.map_append, ih fun x hx => hone x (List.mem_cons_of_mem _ hx), hp]
    rfl

/-- An atomic whose words are checked, readable and held back by nothing performs its lanes one after another from a cleared state. -/
structure Performs (kind sc : Nat) (addr : Nat → Addr) (s s1 s2 : State) (iss : Issue) (lanes : Word) (w : Wave)
    (got : List (Nat × List Place)) (xs : List Amo) (r : AmoRun) : Prop where
  checked : s.checkLanes iss.wave w Access.atomic (fun l => [addr l]) (lanesOf lanes) [] = (s1, .ok got)
  asked : w.asked = []
  free : xs.any (fun a => s1.mustWait w a.place 4 true) = false
  readable : xs.any (s1.unreadable w.group (cidOf iss.wave)) = false
  cleared : s1.clearFor sc xs = (s2, true)
  ran : xs.foldl (AmoRun.step iss w kind sc) { s := s2, replies := [], waits := [] } = r

/-- The operation that a no-return atomic counts: what it waits for (06 R194). -/
def AmoRun.silentOp (r : AmoRun) (iss : Issue) : Op :=
  { uid := r.s.fresh, kind := .store, iss := iss, writes := [], busy := [], waits := r.waits, adds := [], done := false }

/-- What an atomic has done outside its wave, once nothing keeps it back. -/
theorem atomics_eq_some {kind sc : Nat} {amos : Issue → Wave → List (Nat × List Place) → List Amo} {addr : Wave → Nat → Addr} {s t : State}
    {iss : Issue} {lanes : Word} {w : Wave} {known : Op → Prop} (h : atomics kind sc amos addr s iss lanes w = some (t, known)) :
    ∃ s1 s2 got r, Performs kind sc (addr w) s s1 s2 iss lanes w got (amos iss w got) r ∧ r.s.tick1 = t ∧
      if (amos iss w got).any (fun a => a.cell.isSome) then r.answered = true ∧ r.returned = known else known (r.silentOp iss) := by
  unfold atomics at h
  split at h
  case h_2 => cases h
  next s1 got hgot =>
  dsimp only at h
  split at h
  case isTrue => cases h
  next not_kept =>
  rw [Bool.not_eq_true, Bool.or_eq_false_iff, Bool.or_eq_false_iff, Bool.or_eq_false_iff, Bool.not_eq_false', Bool.not_eq_false',
    List.isEmpty_iff] at not_kept
  obtain ⟨⟨⟨clear, asked⟩, free⟩, readable⟩ := not_kept
  refine ⟨s1, _, got, _, ⟨hgot, asked, free, readable, Prod.ext rfl clear, rfl⟩, ?_⟩
  split at h
  next some_cell =>
    split at h
    case isFalse => cases h
    next answered =>
    cases h
    exact ⟨rfl, by rw [if_pos some_cell]; exact ⟨answered, rfl⟩⟩
  next no_cell =>
    cases h
    exact ⟨rfl, by rw [if_neg no_cell]; exact ⟨rfl, rfl, rfl, rfl, rfl⟩⟩

section

variable {kind sc : Nat} {addr : Wave → Nat → Addr} {b c : Wave → Nat → Word} {cell : Wave → Nat → Option Nat} {s s1 s2 : State} {iss : Issue}
  {lanes : Word} {w : Wave} {got : List (Nat × List Place)} {r : AmoRun}

theorem Performs.issueAtomic (h : Performs kind sc (addr w) s s1 s2 iss lanes w got (amosOf (fun _ => addr) b c cell iss w got) r) :
    s.issueAtomic iss w lanes kind sc (addr w) (b w) (c w) (cell w) Access.atomic =
      if (amosOf (fun _ => addr) b c cell iss w got).any (fun a => a.cell.isSome) then r.s.finishLanes iss w r.replies
      else .done (r.s.tick1.retire iss (((w.count .st (r.silentOp iss)).finish iss).endRegion iss)) := by
  obtain ⟨checked, asked, free, readable, cleared, rfl⟩ := h
  have none_bad := List.find?_eq_none.2 (List.any_eq_false.1 readable)
  unfold amosOf at free none_bad cleared ⊢
  unfold State.issueAtomic
  simp only [asked, List.isEmpty_nil, Bool.not_true, Bool.false_eq_true, if_false, checked, free, none_bad, cleared]
  rfl

/-- The lanes of the issue, in ascending order, are the lanes that operate. -/
theorem Performs.cells (h : Performs kind sc (addr w) s s1 s2 iss lanes w got (amosOf (fun _ => addr) b c cell iss w got) r) :
    (amosOf (fun _ => addr) b c cell iss w got).map Amo.cell = (lanesOf lanes).map (cell w) := by
  obtain ⟨_, rfl, hlanes, hone⟩ := checkLanes_shape _ _ _ _ _ _ _ _ _ h.checked
  rw [amosOf_cells hone, hlanes]

/-- An atomic returns values if one of its lanes has a register cell for its own. -/
theorem Performs.any_cell (h : Performs kind sc (addr w) s s1 s2 iss lanes w got (amosOf (fun _ => addr) b c cell iss w got) r) :
    (amosOf (fun _ => addr) b c cell iss w got).any (fun a => a.cell.isSome) = (lanesOf lanes).any (fun l => (cell w l).isSome) := by
  have cells := congrArg (List.any · Option.isSome) h.cells
  simpa only [List.any_map, Function.comp_def] using cells

end

/-- Where every lane returns a value, each gives one reply, in order. -/
theorem Performs.reply_cells {kind sc : Nat} {addr : Nat → Addr} {s s1 s2 : State} {iss : Issue} {lanes : Word} {w : Wave}
    {got : List (Nat × List Place)} {xs : List Amo} {r : AmoRun} (h : Performs kind sc addr s s1 s2 iss lanes w got xs r)
    {cells : List Nat} (hcells : xs.map Amo.cell = cells.map some) : r.replies.map Reply.cell = cells := by
  have links := sameLinks_clearFor s1 sc xs
  rw [h.cleared] at links
  have reached : ∀ a ∈ xs, s2.Reaches a := by
    intro a ha
    obtain ⟨_, -, hcell⟩ := List.mem_map.1 (hcells ▸ List.mem_map_of_mem (f := Amo.cell) ha)
    exact links.reaches (reaches_of_readable hcell.symm (Bool.not_eq_true _ ▸ List.any_eq_false.1 h.readable a ha))
  rw [← h.ran]
  exact foldl_step_cells iss w kind sc _ hcells reached

/-! ### Atomics complete -/

theorem tags_of_tagged {t : Option (BitVec 6)} {b : BitVec 7} {w : Wave} {lanes : Word} (h : ∀ f, t = some f → tagged b f w lanes) :
    (match t with
      | some t => checkSrc b t
      | none => fun _ _ => none) w lanes = none := by
  cases t with
  | none => rfl
  | some f => exact checkSrc_none (h f rfl)

theorem completesIn_amo {i : Instr} {kind : Nat} {pair : Bool} {d a b : BitVec 7} {c : BitVec 2} {t : Option (BitVec 6)}
    (hx : exec i = amo kind pair d a b c t) :
    CompletesIn i (some .ld) (returningEffect pair t d a b) (returns kind pair d a b c) := by
  refine completesIn_returning hx rfl rfl rfl rfl (fun _ => rfl) rfl (fun _ _ => tags_of_tagged) rfl
    fun s iss lanes w t known some_lane hout => ?_
  obtain ⟨s1, s2, got, r, performs, rfl, out⟩ := atomics_eq_some hout
  have issued := performs.issueAtomic (addr := fun w l => w.pair a l)
  have cells := performs.cells (addr := fun w l => w.pair a l)
  obtain ⟨l, hl, hm⟩ := exists_lane some_lane
  have some_cell := (performs.any_cell (addr := fun w l => w.pair a l)).trans
    (List.any_eq_true.2 ⟨l, mem_lanesOf.2 ⟨hl, hm⟩, rfl⟩)
  rw [if_pos some_cell] at out issued
  obtain ⟨answered, rfl⟩ := out
  exact ⟨r, r.s, performs.asked, answered, performs.reply_cells (by rw [cells, List.map_map]; rfl), rfl, rfl, issued⟩

theorem completesIn_amoNr {i : Instr} {kind : Nat} {pair : Bool} {a b : BitVec 7} {c : BitVec 2} {t : Option (BitVec 6)}
    (hx : exec i = amoNr kind pair a b c t) :
    CompletesIn i (some .st) (silentEffect pair t a b) (silent kind pair a b c) := by
  refine completesIn_stored hx rfl rfl rfl rfl (fun _ => rfl) rfl (fun _ _ => tags_of_tagged) rfl (fun _ _ => rfl)
    fun s iss lanes w t known h hout => ?_
  obtain rfl : lanes = iss.batch := h.passes
  obtain ⟨s1, s2, got, r, performs, rfl, out⟩ := atomics_eq_some hout
  have issued := performs.issueAtomic (addr := fun w l => w.pair a l)
  have no_cell := (performs.any_cell (addr := fun w l => w.pair a l)).trans (List.any_eq_false.2 fun _ _ => Bool.false_ne_true)
  rw [← Bool.not_eq_true] at no_cell
  rw [if_neg no_cell] at out issued
  exact ⟨_, _, issued, out, stored_endRegion w iss _,
    does_endRegion (e := silentEffect pair t a b) (w.count .st _) rfl rfl rfl rfl (fun _ => rfl) (fun _ _ => rfl)⟩

/-- Settles O25: an atomic's lanes are those checked, in ascending order, and each whose home can be reached gives its value; the links
that reach the homes stay up from one lane to the next. -/
theorem atomicsComplete : Obligations.AtomicsComplete := by
  intro d a b c i
  exact ⟨completesIn_amo (exec_aadd ..), completesIn_amoNr (exec_aaddNr ..), completesIn_amo (exec_afadd ..),
    completesIn_amoNr (exec_afaddNr ..), completesIn_amo (exec_amin ..), completesIn_amoNr (exec_aminNr ..),
    completesIn_amo (exec_amax ..), completesIn_amoNr (exec_amaxNr ..), completesIn_amo (exec_aumin ..),
    completesIn_amoNr (exec_auminNr ..), completesIn_amo (exec_aumax ..), completesIn_amoNr (exec_aumaxNr ..),
    completesIn_amo (exec_aand ..), completesIn_amoNr (exec_aandNr ..), completesIn_amo (exec_aor ..), completesIn_amoNr (exec_aorNr ..),
    completesIn_amo (exec_axor ..), completesIn_amoNr (exec_axorNr ..), completesIn_amo (exec_axchg ..),
    completesIn_amoNr (exec_axchgNr ..), completesIn_amo (exec_acas ..), completesIn_amoNr (exec_acasNr ..), completesIn_accb d a i⟩

end Sys2Proof.Machine

/-! System instructions: special registers, windows, allocations, waits and traps (01 R16, R31 to R33, R42, R49; 04 R139; 07 R237). -/

namespace Sys2Proof.Machine

/-! ### Instructions that change their wave otherwise than an effect says -/

/-- An issue that leaves its wave as w0, before the latch and the PCs. -/
theorem finishes_of_retire_finish {i : Instr} {s t : State} {iss : Issue} {lanes : Word} {w0 : Wave}
    (h : exec i s = .next (t.retire iss (w0.finish iss))) : Finishes i s t iss lanes w0 {} := by
  obtain ⟨w', hret, rest⟩ := (does_finish iss lanes w0).retire (only_of_finish (OnlyFibres.refl _).withRegs) (fun _ _ => rfl) t
  exact ⟨w', by rw [h, hret], rest⟩

/-- An instruction of one wave whose own part changes fields that an effect does not tell of. -/
theorem completesOn_runWave {i : Instr} {guard : Option Nat} {ops : List Opnd} {ok : State → Issue → Word → Wave → Prop} {p : Pre}
    {f : Word → Wave → Wave} (hx : exec i = Sys2Proof.Machine.runWave p (fun _ => f)) (hg : p.guard = guard) (ho : p.ops = ops)
    (hl : p.tile = false) (hr : p.reserved = false) (hb : ∀ s iss lanes w, ok s iss lanes w → p.badOperand w = false)
    (hc : p.counter = none) (ht : ∀ w lanes, p.tags w lanes = none) (hrc : p.reach = fun _ => []) : CompletesOn i guard ops ok f := by
  intro s iss w lanes h hok
  rw [← hg, ← ho, ← hl, ← hrc] at h
  exact finishes_of_retire_finish (by rw [hx, h.runWave hr (hb s iss lanes w hok) (by rw [hc]; nofun) (ht w lanes)])

/-! ### Instructions that act on the batch's fibres (01 R18, R46) -/

theorem completes_nop : Completes .nop {} :=
  completes_runWave exec_nop rfl rfl rfl rfl (fun _ => rfl) rfl (fun _ _ _ => rfl)
    (fun _ _ _ _ => acts_nothing rfl rfl (fun _ => rfl) (fun _ _ => rfl)) (fun _ _ => rfl)

theorem completes_yield : Completes .yield { after := yields } := by
  refine completes_runPc exec_yield rfl rfl rfl rfl (fun _ => rfl) rfl (fun _ _ _ => rfl) rfl (fun _ _ => rfl)
    (fun _ _ _ => (OnlyFibres.mapFibs _ _ _).withRegs) fun s iss lanes w h => ?_
  obtain rfl : lanes = iss.batch := h.passes
  exact does_finish_yieldFrom iss w

theorem completes_region : Completes .region { fibre := regionEnds } := by
  refine completes_runPc exec_region rfl rfl rfl rfl (fun _ => rfl) rfl (fun _ _ _ => rfl) rfl (fun _ _ => rfl)
    (fun _ _ _ => (OnlyFibres.mapFibs _ _ _).withRegs) fun s iss lanes w h => ?_
  obtain rfl : lanes = iss.batch := h.passes
  exact does_endRegion w rfl rfl rfl rfl (fun _ => rfl) (fun _ _ => rfl)

/-! ### Special registers (01 R42, R49) -/

/-- GETSR writes a pair for REGION alone. -/
theorem exec_getsr_vector (d e : BitVec 7) (g : BitVec 2) : exec (.getsr d e 0 g) =
    runState { guard := some g.toNat, ops := [if e = 3 then .vec d 2 2 else .vec d 1 1], badOperand := fun _ => !selectorOk e }
      (fun s iss lanes w => .done (s.retire iss ((if e = 3 then w.writePair d lanes 0 fun _ => s.special iss w e.toNat
        else w.writeField d lanes fun _ => ⟨(s.special iss w e.toNat).setWidth 32, 0⟩).finish iss))) := by
  simp [exec_getsr, execGetsr]

theorem exec_getsr_scalar (d e : BitVec 7) (g : BitVec 2) : exec (.getsr d e 1 g) =
    runState { guard := some g.toNat, ops := [.scl d (if e = 3 then 2 else 1)], badOperand := fun _ => !selectorOk e }
      (fun s iss _ w => .done (s.retire iss ((if e = 3 then
        (w.sset d.toNat ((s.special iss w e.toNat).setWidth 32)).sset (d.toNat + 1) ((s.special iss w e.toNat >>> 32).setWidth 32)
        else w.sset d.toNat ((s.special iss w e.toNat).setWidth 32)).finish iss))) := by
  simp [exec_getsr, execGetsr]

/-- Writing a pair of scalar registers. -/
theorem acts_ssetPair {e : Effect} {iss : Issue} {lanes : Word} {w : Wave} (d : Nat) (lo hi : Word) (hr : e.regs w = [])
    (hs : e.scalars iss lanes w = [(w.sb + d, lo), (w.sb + d + 1, hi)]) (hf : ∀ l, e.flags lanes w l = 0)
    (hb : ∀ l x, e.fibre iss lanes w l x = x) : Acts e iss lanes w ((w.sset d lo).sset (d + 1) hi) := by
  refine ⟨⟨w.regs, _, w.fsr, w.fibres, rfl⟩, fun n l _ => ?_, fun n => ?_, fun b => ?_, fun l _ => ?_⟩
  · rw [hr]
    simp
    rfl
  · change SMap.get ((w.scalars.put (w.sb + d) lo).put (w.sb + d + 1) hi) _ n = _
    rw [hs, SMap.get_put, SMap.get_put, SMap.find?_cons, SMap.find?_cons, SMap.find?_nil]
    by_cases low : n = w.sb + d
    · subst low
      simp
    · simp only [low, Ne.symm low, if_false, eq_comm (a := n) (b := w.sb + d + 1)]
      split <;> rfl
  · simp [hf]
    rfl
  · rw [hb, ite_self]
    rfl

section
variable {d e : BitVec 7} {g : BitVec 2} {s : State} {iss : Issue} {w : Wave} {lanes : Word}

theorem finishes_getsr_vector (he : selectorOk e = true)
    (h : Issues s iss w (some g.toNat) [if e = 3 then .vec d 2 2 else .vec d 1 1] false lanes) :
    Finishes (.getsr d e 0 g) s s iss lanes w (specialVector e d g (s.special iss w e.toNat)) := by
  refine finishes_runState (kept := none) (exec_getsr_vector d e g) h rfl (by rw [he]; rfl) rfl rfl rfl ?_ (fun _ _ _ _ _ => rfl)
  split
  case isTrue wide =>
    exact acts_writePair d 0 _ (if_pos wide) (fun _ _ _ => by simp [specialVector]) (fun _ _ _ => by simp [specialVector]) rfl
      (fun _ => rfl) (fun _ _ => rfl)
  case isFalse narrow =>
    exact acts_writeField d _ (if_neg narrow) (fun _ _ _ => by simp [specialVector]) rfl (fun _ => rfl) (fun _ _ => rfl)

theorem finishes_getsr_scalar (he : selectorOk e = true) (h : Issues s iss w (some g.toNat) [.scl d (if e = 3 then 2 else 1)] false lanes) :
    Finishes (.getsr d e 1 g) s s iss lanes w (specialScalar e d (s.special iss w e.toNat)) := by
  refine finishes_runState (kept := none) (exec_getsr_scalar d e g) h rfl (by rw [he]; rfl) rfl rfl rfl ?_ (fun _ _ _ _ _ => rfl)
  split
  case isTrue wide => exact acts_ssetPair d.toNat _ _ rfl (if_pos wide) (fun _ => rfl) (fun _ _ => rfl)
  case isFalse narrow => exact acts_sset d.toNat _ rfl (if_neg narrow) (fun _ => rfl) (fun _ _ => rfl)

theorem finishes_rdcyc (h : Issues s iss w (some g.toNat) [.vec d 2 2] false lanes) :
    Finishes (.rdcyc d g) s s iss lanes w (cycleOf d g (BitVec.ofNat 64 s.cycle)) :=
  finishes_runState (kept := none) (p := { guard := some g.toNat, ops := [.vec d 2 2] }) (exec_rdcyc d g) h rfl rfl rfl rfl rfl
    (acts_writePair d 0 _ rfl (fun _ _ _ => by simp [cycleOf]) (fun _ _ _ => by simp [cycleOf]) rfl (fun _ => rfl) (fun _ _ => rfl))
    (fun _ _ _ _ _ => rfl)

end

/-- ALLOC holds the blocks of both allocations (01 R42). -/
theorem special_alloc (s : State) (iss : Issue) {w : Wave} (hv : w.need ≤ 256) : (s.special iss w 2).toNat % 2 ^ 10 = w.need ∧
    (w.sneed ≤ 192 → (s.special iss w 2).toNat / 2 ^ 10 = w.sneed / 64) := by
  have alloc : (s.special iss w 2).toNat = (w.need + w.sneed / 64 * 2 ^ 10) % 2 ^ 64 := BitVec.toNat_ofNat ..
  have narrow : w.need < 2 ^ 10 := hv.trans_lt (by decide)
  rw [alloc]
  refine ⟨?_, fun hs => ?_⟩
  · rw [Nat.mod_mod_of_dvd _ (by decide), Nat.add_mul_mod_self_right, Nat.mod_eq_of_lt narrow]
  · have bound := Nat.add_le_add hv (Nat.mul_le_mul_right (2 ^ 10) (Nat.div_le_div_right (c := 64) hs))
    rw [Nat.mod_eq_of_lt (bound.trans_lt (by decide)), Nat.add_mul_div_right _ _ (by decide), Nat.div_eq_of_lt narrow, Nat.zero_add]

/-- Selectors 16 to 31 name the row counters (01 R42). -/
theorem special_rowCounter (s : State) (iss : Issue) (w : Wave) (n : Nat) :
    s.special iss w (16 + n) = (s.rowc (cidOf iss.wave) n).val.setWidth 64 := by
  rw [Nat.add_comm]
  rfl

theorem selectorOk_eq (x : BitVec 7) : selectorOk x = decide (x.toNat < 15 ∨ 16 ≤ x.toNat ∧ x.toNat < 32) := by
  revert x
  decide

theorem completesOn_setsr (a : BitVec 7) (g : BitVec 2) : CompletesOn (.setsr 4 a g) (some g.toNat) [.src a] (fun _ _ _ _ => True)
    (fun lanes w => { w with fsr := (w.src a (lowest lanes)).val &&& 0x31F }) :=
  completesOn_runWave (exec_setsr ..) rfl rfl rfl rfl (fun _ _ _ _ _ => rfl) rfl (fun _ _ => rfl) rfl

/-! ### Windows and moves between lanes (01 R31, R32; 07 R237) -/

theorem completesOn_winb (n : BitVec 5) : CompletesOn (.winb n) none [] (fun _ _ _ w => 8 * n.toNat + 8 ≤ w.need)
    (fun _ w => { w with wb := 8 * n.toNat }) :=
  completesOn_runWave (exec_winb ..) rfl rfl rfl rfl (fun _ _ _ _ h => decide_eq_false (Nat.not_lt.2 h)) rfl (fun _ _ => rfl) rfl

theorem completesOn_swinb (b : BitVec 1) : CompletesOn (.swinb b) none [] (fun _ _ _ w => 64 * b.toNat + 64 ≤ w.sneed)
    (fun _ w => { w with sb := 64 * b.toNat }) :=
  completesOn_runWave (exec_swinb ..) rfl rfl rfl rfl (fun _ _ _ _ h => decide_eq_false (Nat.not_lt.2 h)) rfl (fun _ _ => rfl) rfl

theorem completes_bcast (d a : BitVec 7) (b : BitVec 1) (g : BitVec 2) : Completes (.bcast d a b g) (broadcastOf d a b g) := by
  unfold broadcastOf
  split
  case isTrue scalar =>
    refine completes_runWave (exec_bcast ..) rfl ?_ rfl rfl (fun _ => rfl) rfl (fun _ _ _ => rfl) (fun iss lanes w _ => ?_) (fun _ _ => rfl)
    · simp only [scalar, if_true]
    · simp only [scalar, if_true]
      exact acts_sset d.toNat _ rfl rfl (fun _ => rfl) (fun _ _ => rfl)
  case isFalse vector =>
    refine completes_runWave (exec_bcast ..) rfl ?_ rfl rfl (fun _ => rfl) rfl (fun _ _ _ => rfl) (fun iss lanes w _ => ?_) (fun _ _ => rfl)
    · simp only [vector, if_false]
      rfl
    · simp only [vector, if_false]
      exact acts_writeField d _ rfl (fun _ _ _ => rfl) rfl (fun _ => rfl) (fun _ _ => rfl)

theorem completes_rdlane (d a : BitVec 7) (g : BitVec 2) : Completes (.rdlane d a g)
    { guard := some g.toNat, ops := [.scl d 1, .src a], reach := fun w => [w.siteOf a ((w.sget d.toNat).toNat % 32)],
      scalars := fun _ _ w => [(w.sb + d.toNat, (w.srcAny a ((w.sget d.toNat).toNat % 32)).val)] } :=
  completes_runWave (exec_rdlane ..) rfl rfl rfl rfl (fun _ => rfl) rfl (fun _ _ _ => rfl)
    (fun _ _ _ _ => acts_sset d.toNat _ rfl rfl (fun _ => rfl) (fun _ _ => rfl)) (fun _ _ => rfl)

theorem completesOn_wrlane (d a : BitVec 7) (g : BitVec 2) : CompletesOn (.wrlane d a g) (some g.toNat) [.vec d 1 1, .scl a 2]
    (fun _ _ _ w => (w.cell (cellAt (w.wb + d.toNat) ((w.sget (a.toNat + 1)).toNat % 32))).empty = false)
    (fun _ w => w.setCell (cellAt (w.wb + d.toNat) ((w.sget (a.toNat + 1)).toNat % 32)) ⟨w.sget a.toNat, 0, false⟩) := by
  intro s iss w lanes h full
  refine finishes_of_retire_finish ?_
  rw [exec_wrlane, execWrlane, Issues.runState (p := { guard := some g.toNat, ops := [.vec d 1 1, .scl a 2] }) h rfl rfl nofun rfl]
  simp only [full, Bool.false_eq_true, if_false]

/-! ### Allocations (01 R33) -/

/-- REGREQ of a larger need: granted where enough registers are free and no older wave asks, else the wave parks. -/
theorem exec_regreq_of_issues {q : BitVec 7} {s : State} {iss : Issue} {w : Wave} {lanes : Word} (h : Issues s iss w none [] false lanes)
    (larger : w.need + 8 ≤ 8 * q.toNat) (most : 8 * q.toNat ≤ 256) : exec (.regreq q) s =
      .next (if 8 * q.toNat - w.need ≤ s.freeRegs (iss.wave / 48) ∧ s.asksFirst iss.wave w = true
        then s.retire iss ({ w with need := 8 * q.toNat }.finish iss)
        else s.retire iss { w.finish iss with wait := some (.regreq (8 * q.toNat)) }) := by
  rw [exec_regreq, execRegreq, Issues.runState (p := { guard := none, badOperand := fun w => 8 * q.toNat < w.need + 8 || 256 < 8 * q.toNat })
    h rfl (by simpa using ⟨larger, most⟩) nofun rfl]
  by_cases granted : 8 * q.toNat - w.need ≤ s.freeRegs (iss.wave / 48) ∧ s.asksFirst iss.wave w = true
  · simp only [granted, if_true, decide_true, Bool.and_self, and_self]
  · rw [if_neg granted, if_neg (by simpa using granted)]

theorem completesOn_regreq (q : BitVec 7) : CompletesOn (.regreq q) none [] (fun s iss _ w => w.need + 8 ≤ 8 * q.toNat ∧
      8 * q.toNat ≤ 256 ∧ 8 * q.toNat - w.need ≤ s.freeRegs (iss.wave / 48) ∧ s.asksFirst iss.wave w = true)
    (fun _ w => { w with need := 8 * q.toNat }) := fun _ _ _ _ h ⟨larger, most, granted⟩ =>
  finishes_of_retire_finish (by rw [exec_regreq_of_issues h larger most, if_pos granted])

theorem completesOn_regrel (q : BitVec 7) : CompletesOn (.regrel q) none []
    (fun _ _ _ w => 8 ≤ 8 * q.toNat ∧ 8 * q.toNat < w.need ∧ w.wb < 8 * q.toNat)
    (fun _ w => { w with need := 8 * q.toNat, epoch := w.epoch + 1, regs := w.regs.filter (fun c => decide (c.1 / 32 < 8 * q.toNat)) }) := by
  refine completesOn_runWave (exec_regrel q |>.trans ?_) rfl rfl rfl rfl (fun _ _ _ w ⟨least, less, window⟩ => ?_) rfl (fun _ _ => rfl) rfl
    (p := { guard := none, badOperand := fun w => 8 * q.toNat < 8 || w.need ≤ 8 * q.toNat || 8 * q.toNat ≤ w.wb })
  · simp only [execRegrel, Wave.dropCells, ← decide_not, Nat.not_le]
  · simp only [Bool.or_eq_false_iff, decide_eq_false_iff_not, Nat.not_lt, Nat.not_le]
    exact ⟨⟨least, less⟩, window⟩

/-- Settles O21, one instruction at a time. -/
theorem systemResults : Obligations.SystemResults := by
  unfold Obligations.SystemResults
  exact fun d a e g n b q => ⟨completes_nop, completes_yield, completes_region, fun he _ _ _ _ => finishes_getsr_vector he,
    fun he _ _ _ _ => finishes_getsr_scalar he,
    fun s iss w => ⟨rfl, rfl, special_alloc s iss, rfl, rfl, rfl, rfl, rfl, rfl, rfl, rfl, rfl, rfl, rfl, rfl, fun n _ => special_rowCounter s iss w n⟩,
    selectorOk_eq, completesOn_setsr a g, fun _ _ _ _ => finishes_rdcyc, completesOn_winb n, completesOn_swinb b, completes_bcast d a b g,
    completes_rdlane d a g, completesOn_wrlane d a g, completesOn_regreq q, completesOn_regrel q⟩

/-! ### Waits and traps (01 R16, R33; 04 R139, R140; 07 R237; 13 R369) -/

/-- Completing an issue leaves allocation, registers and halt as they were. -/
theorem finish_kept (w : Wave) (iss : Issue) :
    (w.finish iss).need = w.need ∧ (w.finish iss).regs = w.regs ∧ (w.finish iss).run = w.run := by
  obtain ⟨fs, hfin⟩ := finish_eq w iss
  rw [hfin]
  exact ⟨rfl, rfl, rfl⟩

/-- REGREQ that cannot be granted: the wave waits with the registers it has. -/
theorem exec_regreq_parks {q : BitVec 7} {s : State} {iss : Issue} {w : Wave} {lanes : Word} (h : Issues s iss w none [] false lanes)
    (most : 8 * q.toNat ≤ 256) (larger : w.need + 8 ≤ 8 * q.toNat)
    (refused : s.freeRegs (iss.wave / 48) < 8 * q.toNat - w.need ∨ s.asksFirst iss.wave w = false) :
    ∃ w', exec (.regreq q) s = .next (s.setWave iss.wave w') ∧ w'.need = w.need ∧ w'.regs = w.regs ∧
      (w.run = .running → w'.wait = some (.regreq (8 * q.toNat))) := by
  obtain ⟨need, regs, run⟩ := finish_kept w iss
  obtain ⟨r, sk, cp, tx, wt, hret, kept⟩ := retire_cases s iss { w.finish iss with wait := some (.regreq (8 * q.toNat)) }
  rw [exec_regreq_of_issues h larger most, if_neg (by rw [not_and_or, Nat.not_le, Bool.not_eq_true]; exact refused)]
  exact ⟨_, congrArg _ hret, need, regs, fun running => (kept (run.trans running)).2.2.2⟩

section
variable {q : BitVec 7} {s : State} {iss : Issue} {w : Wave} {lanes : Word}

theorem exec_parkc_of_issues (h : Issues s iss w none [] false lanes) : exec (.parkc q) s =
    .next (if w.ld = [] ∧ w.st = [] ∧ w.cp = [] ∧ w.tx = [] then s.retire iss ((w.finish iss).yieldFrom iss.batch)
      else s.setWave iss.wave { w with wait := some (.parkc iss (if q = 0 then none else some (s.cycle + 256 * q.toNat))) }.stopCheck) := by
  rw [exec_parkc, execParkc, Issues.runState (p := { guard := none }) h rfl rfl nofun rfl]
  by_cases idle : w.ld = [] ∧ w.st = [] ∧ w.cp = [] ∧ w.tx = []
  · rw [if_pos idle, if_pos (by simpa [and_assoc] using idle)]
  · rw [if_neg idle, if_neg (by simpa [and_assoc] using idle)]

theorem exec_parkc_parks (h : Issues s iss w none [] false lanes) (counted : w.ld ≠ [] ∨ w.st ≠ [] ∨ w.cp ≠ [] ∨ w.tx ≠ [])
    (running : w.run = .running) : exec (.parkc q) s =
      .next (s.setWave iss.wave { w with wait := some (.parkc iss (if q = 0 then none else some (s.cycle + 256 * q.toNat))) }) := by
  rw [exec_parkc_of_issues h, if_neg (by tauto), Wave.stopCheck, running]

theorem finishes_parkc (h : Issues s iss w none [] false lanes) (hld : w.ld = []) (hst : w.st = []) (hcp : w.cp = []) (htx : w.tx = []) :
    Finishes (.parkc q) s s iss lanes w { after := yields } := by
  obtain rfl : lanes = iss.batch := h.passes
  obtain ⟨w', hret, rest⟩ := (does_finish_yieldFrom iss w).retire (only_of_finish (OnlyFibres.mapFibs _ _ _).withRegs) (fun _ _ => rfl) s
  exact ⟨w', by rw [exec_parkc_of_issues h, if_pos ⟨hld, hst, hcp, htx⟩, hret], rest⟩

theorem exec_trap_of_issues {g : BitVec 2} (h : Issues s iss w (some g.toNat) [] false lanes) :
    exec (.trap q g) s = .next (s.takeTrap iss .software 0 (lowest lanes)) := by
  rw [exec_trap, execTrap, Issues.runState (p := { guard := some g.toNat }) h rfl rfl nofun rfl]

theorem exec_bkpt_of_issues {g : BitVec 2} (h : Issues s iss w (some g.toNat) [] false lanes) :
    exec (.bkpt q g) s = .next (s.takeTrap iss .breakpoint 0 (lowest lanes)) := by
  rw [exec_bkpt, execBkpt, Issues.runState (p := { guard := some g.toNat }) h rfl rfl nofun rfl]

end

theorem completesIn_prefh (a : BitVec 7) (g : BitVec 2) : CompletesIn (.prefh a g) none { guard := some g.toNat, ops := [.vec a 2 2] }
    (fun s iss lanes w => some ((lanesOf lanes).foldl (fun s l => s.prefetch iss.wave w l (w.pair a l)) s, fun _ => True)) := by
  rintro s iss w lanes t known h - - hout
  cases hout
  obtain ⟨w', ran, same, counters, does⟩ := finishes_runState (kept := none) (e := { guard := some g.toNat, ops := [.vec a 2 2] })
    (p := { guard := some g.toNat, ops := [.vec a 2 2] }) (exec_prefh a g) h rfl rfl rfl rfl rfl
    (acts_nothing rfl rfl (fun _ => rfl) (fun _ _ => rfl)) (fun _ _ _ _ _ => rfl)
  exact ⟨w', ran, same, does, counters⟩

/-- Every counter that WAITC names is at or below its limit; 15 names none (04 R139). -/
abbrev Wave.withinLimits (w : Wave) (x y u v : BitVec 4) : Prop :=
  (v = 15 ∨ w.counter .ld ≤ v.toNat) ∧ (u = 15 ∨ w.counter .st ≤ u.toNat) ∧ (y = 15 ∨ w.counter .cp ≤ y.toNat) ∧
    (x = 15 ∨ w.counter .tx ≤ x.toNat)

section
variable {s : State} {iss : Issue} {w : Wave} {lanes : Word}

theorem exec_waitc_of_issues (x y u v : BitVec 4) (h : Issues s iss w none [] false lanes) : exec (.waitc x y u v) s =
    .next (if w.withinLimits x y u v then (if y = 15 ∧ x = 15 then s else s.dropClean (cidOf iss.wave)).retire iss (w.finish iss)
      else s.waitIssue iss) := by
  have met : ∀ (f : BitVec 4) (k : Ctr), (f == 15 || decide (w.counter k ≤ f.toNat)) = true ↔ f = 15 ∨ (w.counter k) ≤ f.toNat := by simp
  rw [exec_waitc, execWaitc, Issues.runState (p := { guard := none }) h rfl rfl nofun rfl]
  simp only [Bool.and_eq_true, met, and_assoc]
  by_cases within : w.withinLimits x y u v
  · rw [if_pos within, if_pos within]
  · rw [if_neg within, if_neg within]

/-- A batch that has lanes issues an instruction that has no guard and no operands. -/
theorem issues_of_no_operands (hc : s.cur = some iss) (hw : s.waves.find? iss.wave = some w) (hb : iss.batch ≠ 0) :
    Issues s iss w none [] false iss.batch where
  issue := hc
  wave := hw
  passes := rfl
  someLane := hb
  legal := nofun
  present := by simp [Wave.emptyIn]
  idle := nofun
  sound := by simp [State.spoiledLane, firstLane]

theorem exec_waitc_waits {x y u v : BitVec 4} (hc : s.cur = some iss) (hw : s.waves.find? iss.wave = some w) (hb : iss.batch ≠ 0)
    (beyond : ¬ w.withinLimits x y u v) : exec (.waitc x y u v) s = .next (s.waitIssue iss) := by
  rw [exec_waitc_of_issues x y u v (issues_of_no_operands hc hw hb), if_neg beyond]

end

theorem completesIn_waitc (x y u v : BitVec 4) : CompletesIn (.waitc x y u v) none {} (fun s iss _ w =>
    if w.withinLimits x y u v then some (if y = 15 ∧ x = 15 then s else s.dropClean (cidOf iss.wave), fun _ => True) else none) := by
  rintro s iss w lanes t known h - - hout
  obtain ⟨within, rfl⟩ : w.withinLimits x y u v ∧ (if y = 15 ∧ x = 15 then s else s.dropClean (cidOf iss.wave)) = t := by
    by_cases within : w.withinLimits x y u v
    · exact ⟨within, congrArg Prod.fst (Option.some.inj ((if_pos within).symm.trans hout))⟩
    · exact nomatch (if_neg within).symm.trans hout
  obtain ⟨w', ran, same, counters, does⟩ := finishes_of_retire_finish (i := .waitc x y u v) (lanes := lanes)
    ((exec_waitc_of_issues x y u v h).trans (by rw [if_pos within]))
  exact ⟨w', ran, same, does, counters⟩

/-- Settles O22, one instruction at a time. -/
theorem waitsAndTraps : Obligations.WaitsAndTraps := by
  unfold Obligations.WaitsAndTraps
  exact fun a q g x y u v => ⟨fun _ _ _ _ => exec_regreq_parks, fun _ _ _ _ => exec_parkc_parks, fun _ _ _ _ => finishes_parkc,
    fun _ _ _ _ h => ⟨exec_trap_of_issues h, exec_bkpt_of_issues h⟩, completesIn_prefh a g, completesIn_waitc x y u v,
    fun _ _ _ hc hw _ hb beyond => exec_waitc_waits hc hw hb beyond⟩

end Sys2Proof.Machine

/-! Engine commands at issue: queued and immediate commands, and the queues they enter (07 R202 to R205, R211, R212, R219 to R223). -/

namespace Sys2Proof.Machine

/-! ### The wave of a command that has issued (01 R44, R46; 07 R202) -/

theorem sset_setOps (w : Wave) (n : Nat) (v : Word) (c : Ctr) (os : List Op) : (w.setOps c os).sset n v = (w.sset n v).setOps c os := by
  cases c <;> rfl

theorem setOps_setOps (w : Wave) (c : Ctr) (os os' : List Op) : (w.setOps c os).setOps c os' = w.setOps c os' := by
  cases c <;> rfl

theorem setOps_ctx (w : Wave) (c : Ctr) (os : List Op) : (w.setOps c os).ctx = w.ctx := by
  cases c <;> rfl

theorem setOps_wait (w : Wave) (c : Ctr) (os : List Op) : (w.setOps c os).wait = w.wait := by
  cases c <;> rfl

/-- A wave whose command gives v to sd and ends the region. -/
def Wave.commanded (w : Wave) (iss : Issue) (d : BitVec 7) (v : Word) : Wave := ((w.sset d.toNat v).finish iss).endRegion iss

theorem commanded_eq (w : Wave) (iss : Issue) (d : BitVec 7) (v : Word) : ∃ fs, w.commanded iss d v =
    { w.sset d.toNat v with fibres := fs, latch := w.ageLatch.latch, wait := none } := by
  obtain ⟨fs, hfin⟩ := finish_eq (w.sset d.toNat v) iss
  obtain ⟨fs', hend⟩ := mapFibs_eq ((w.sset d.toNat v).finish iss) iss.batch (fun _ f => { f with region := iss.next, fresh := false })
  exact ⟨fs', hend.trans (by rw [hfin]; rfl)⟩

theorem does_commanded (w : Wave) (iss : Issue) (d : BitVec 7) (v : Word) :
    Does { scalars := fun _ _ w => [(w.sb + d.toNat, v)], fibre := regionEnds } iss iss.batch w (w.commanded iss d v) := by
  have wrote := acts_sset (e := { scalars := fun _ _ w => [(w.sb + d.toNat, v)] }) (iss := iss) (lanes := iss.batch) (w := w) d.toNat v rfl rfl
    (fun _ => rfl) (fun _ _ => rfl)
  have fibres (l : Nat) (hl : l < 32) : (w.commanded iss d v).fib l =
      if iss.batch.getLsbD l then { w.fib l with pc := iss.next, owed := 0, region := iss.next, fresh := false } else w.fib l := by
    rw [Wave.commanded, Wave.endRegion, mapFibs_fib _ _ _ _ hl, finish_fib _ iss l hl]
    split <;> rfl
  obtain ⟨fs, hw⟩ := commanded_eq w iss d v
  refine ⟨fun n l hl => ?_, fun n => ?_, fun b => ?_, fun l hl => (fibres l hl).trans ?_, ?_, fun k => ?_⟩
  · exact (congrArg (fun u : Wave => u.cell (cellAt n l)) hw).trans (wrote.cells n l hl)
  · exact (congrArg (fun u : Wave => u.scalar n) hw).trans (wrote.scalars n)
  · exact (congrArg (fun u : Wave => u.fsr.getLsbD b = true) hw) ▸ wrote.flags b
  · simp only [regionEnds]
    split <;> rfl
  · exact (congrArg Wave.lp hw).trans rfl
  · have aged : (w.commanded iss d v).entry k = w.ageLatch.entry k := (congrArg (fun u : Wave => u.entry k) hw).trans rfl
    rw [aged, ageLatch_entry]
    exact ⟨rfl, rfl⟩

/-- Putting back the wave of a command that leaves the operations os on a counter. -/
theorem retire_commanded (t : State) (w : Wave) (iss : Issue) (d : BitVec 7) (v : Word) (c : Ctr) (os : List Op) :
    ∃ w', t.retire iss ((w.setOps c os).commanded iss d v) = t.setWave iss.wave w' ∧ SameWave w w' ∧ SameCounters (w.setOps c os) w' ∧
      Does { scalars := fun _ _ w => [(w.sb + d.toNat, v)], fibre := regionEnds } iss iss.batch w w' := by
  obtain ⟨fs, hw⟩ := commanded_eq (w.setOps c os) iss d v
  obtain ⟨w', hret, same, counters, does⟩ := (does_commanded (w.setOps c os) iss d v).retire
    ⟨_, _, _, fs, _, _, none, hw⟩ (fun _ _ => rfl) t
  refine ⟨w', hret, ?_, counters, ?_⟩
  · cases c <;> exact ⟨same.uid, same.epoch, same.ctx, same.lid, same.group, same.wid, same.depth, same.coords, same.need, same.sneed,
      same.wb, same.sb, same.patterns, same.running⟩
  · cases c <;> exact does

theorem SameCounters.of_setOps_same {w w' : Wave} {c : Ctr} (h : SameCounters (w.setOps c (w.ops c)) w') : SameCounters w w' := by
  cases c <;> exact h

/-- One more operation on a counter and nothing else on the others. -/
theorem SameCounters.counts {w w' : Wave} {c : Ctr} {o : Op} (h : SameCounters (w.setOps c (w.ops c ++ [o])) w') : Counts c o w w' := by
  obtain ⟨ld, st, run⟩ := h
  cases c with
  | ld => exact ⟨fun _ => ld, nofun, fun h => absurd rfl h, fun _ => st, run⟩
  | st => exact ⟨nofun, fun _ => st, fun _ => ld, fun h => absurd rfl h, run⟩
  | cp => exact ⟨nofun, nofun, fun _ => ld, fun _ => st, run⟩
  | tx => exact ⟨nofun, nofun, fun _ => ld, fun _ => st, run⟩

/-! ### Queued commands (07 R202 to R205) -/

/-- The operation a queued command counts: finished when its command completes. -/
def queuedOp (s : State) (iss : Issue) (q seq : Nat) : Op :=
  { Op.nothing s.fresh (.command (queueIndex (cidOf iss.wave) q) seq) iss with done := false }

/-- A queued command whose checks pass, whose stores are performed and whose queues have a free entry. -/
theorem issueCommand_of_clear {s : State} {iss : Issue} {w : Wave} {sub q n : Nat} {d a : BitVec 7}
    (sound : s.blockFault iss w sub q (w.block a n) = none) (performed : (s.boundary (cidOf iss.wave) w 2).2 = true)
    (room : (s.boundary (cidOf iss.wave) w 2).1.queueRoom w.ctx (cidOf iss.wave) sub q (w.block a n) = true) :
    let r := (s.boundary (cidOf iss.wave) w 2).1.enqueueCommand iss w sub q (w.block a n)
    s.issueCommand iss w sub q d a n = .done (r.1.tick1.retire iss ((w.setOps (queueCounter q) (w.ops (queueCounter q) ++ [queuedOp r.1 iss q r.2])).commanded
      iss d (BitVec.ofNat 32 (q + 16 * r.2)))) := by
  obtain ⟨s1, hs1⟩ : ∃ s1, s.boundary (cidOf iss.wave) w 2 = (s1, true) := ⟨_, Prod.ext rfl performed⟩
  rw [hs1] at room ⊢
  have counted (n : Nat) (v : Word) (c : Ctr) (o : Op) : (w.sset n v).count c o = (w.setOps c (w.ops c ++ [o])).sset n v := by
    cases c <;> rfl
  simp only [State.issueCommand, sound, hs1, room, counted, Bool.not_true, Bool.false_eq_true, if_false]
  rfl

theorem enqueues_of_exec {i : Instr} {sub m : Nat} {n : Wave → Nat} {d a : BitVec 7} {q : BitVec 4} {p : Pre}
    (hx : exec i = runState p (fun s iss _ w => s.issueCommand iss w sub q.toNat d a (n w))) (hg : p.guard = none)
    (ho : p.ops = [.scl d 1, .scl a m]) (hl : p.tile = false) (hr : p.reserved = !queueAccepted sub q.toNat)
    (hb : ∀ w, (Opnd.scl a (n w)).bad w = false → p.badOperand w = false) (hc : p.counter = some (queueCounter q.toNat))
    (ht : ∀ w lanes, p.tags w lanes = none) (hrc : p.reach = fun _ => []) : Enqueues i sub m n d a q := by
  intro s iss w lanes h accepted legal less sound performed room r
  obtain rfl : lanes = iss.batch := h.passes
  obtain ⟨w', hret, same, counters, does⟩ := retire_commanded r.1.tick1 w iss d (BitVec.ofNat 32 (q.toNat + 16 * r.2))
    (queueCounter q.toNat) (w.ops (queueCounter q.toNat) ++ [queuedOp r.1 iss q.toNat r.2])
  rw [← hg, ← ho, ← hl, ← hrc] at h
  refine ⟨w', _, ?_, same, counters.counts, does, rfl, rfl⟩
  rw [hx, h.runState (by rw [hr, accepted]; rfl) (hb w legal) (by rw [hc]; rintro _ ⟨⟩; exact less) (ht w _),
    issueCommand_of_clear sound performed room]
  exact congrArg Host.Outcome.next hret

theorem enqueues_queued {i : Instr} {sub n : Nat} {d a : BitVec 7} {q : BitVec 4} (hx : exec i = queued sub n d a q) :
    Enqueues i sub n (fun _ => n) d a q :=
  enqueues_of_exec (hx.trans rfl) rfl rfl rfl rfl (fun _ _ => rfl) rfl (fun _ _ => rfl) rfl

theorem enqueues_cxbond (d a : BitVec 7) (q : BitVec 4) :
    Enqueues (.cxbond d a q) 16 1 (fun w => bondWords (w.sget a.toNat).toNat) d a q :=
  enqueues_of_exec (exec_cxbond d a q |>.trans rfl) rfl rfl rfl rfl (fun _ legal => legal) rfl (fun _ _ => rfl) rfl

/-- Settles O29: CXBOND's block is as long as its first word says, those of the others as long as their sub-operation says. -/
theorem engineCommandsAreQueued : Obligations.EngineCommandsAreQueued := by
  unfold Obligations.EngineCommandsAreQueued
  exact fun d a q => ⟨enqueues_queued (exec_cplin ..), enqueues_queued (exec_cp2d ..), enqueues_queued (exec_cpgath ..),
    enqueues_queued (exec_cpscat ..), enqueues_queued (exec_cpexp ..), enqueues_queued (exec_cpcmp ..), enqueues_queued (exec_gtopk ..),
    enqueues_queued (exec_gbuck ..), enqueues_queued (exec_gmerge ..), enqueues_queued (exec_ghist ..), enqueues_queued (exec_gscan ..),
    enqueues_queued (exec_gperm ..), enqueues_queued (exec_cxfork ..), enqueues_cxbond d a q, enqueues_queued (exec_cxdense ..),
    enqueues_queued (exec_qfence ..)⟩

/-! ### Immediate commands (07 R202, R211, R212, R219, R221) -/

/-- A wave that is not parked on PARKC stays as it is when a counter falls. -/
theorem endPark_of_not_parkc {w : Wave} (h : ∀ j x, w.wait ≠ some (.parkc j x)) : w.endPark = w := by
  unfold Wave.endPark
  split
  case h_1 j x parked => exact absurd parked (h j x)
  all_goals rfl

/-- An operation that ends where it was counted: its counter holds the earlier ones and then it, less those that are done at the head. -/
theorem opDone_of_counted {w : Wave} {c : Ctr} {o : Op} {uid : Nat} (hu : o.uid = uid) (fresh : ∀ p ∈ w.ops c, p.uid ≠ uid)
    (parked : ∀ j x, w.wait ≠ some (.parkc j x)) :
    (w.setOps c (w.ops c ++ [o])).opDone c uid = w.setOps c (dropDone (w.ops c ++ [{ o with done := true }])) := by
  have marked : (w.ops c ++ [o]).map (fun p => if p.uid = uid then { p with done := true } else p) = w.ops c ++ [{ o with done := true }] := by
    rw [List.map_append, (List.map_congr_left fun p hp => if_neg (fresh p hp)).trans (List.map_id' _)]
    simp [hu]
  have fallen : (w.setOps c (w.ops c ++ [o])).afterFall c uid = w.setOps c (dropDone (w.ops c ++ [{ o with done := true }])) := by
    rw [Wave.afterFall, setOps_ops_same, marked, setOps_setOps]
  rcases opDone_cases (w.setOps c (w.ops c ++ [o])) c uid with e | e
  · rw [e, fallen]
  · rw [e, fallen]
    exact endPark_of_not_parkc (by rwa [setOps_wait])

/-- The operation an immediate command counts at issue. -/
def immediateOp (s : State) (iss : Issue) : Op := { Op.nothing s.fresh .immediate iss with done := false }

/-- An immediate command that has its value as it is counted. -/
theorem answers_immediate {i : Instr} {sub n : Nat} {d a : BitVec 7} {q : BitVec 4}
    {value : State → Issue → Wave → List Word → Option (State × Word)} {body : State → Issue → Wave → Nat → List Word → Option (State × Word)}
    (hx : exec i = immediate sub n body d a q) (hv : ∀ s iss w o b t v, value s iss w b = some (t, v) →
      body s.tick1 iss (w.count (queueCounter q.toNat) o) q.toNat b = some (t.tick1, v)) : Answers i sub n d a q value := by
  intro s iss w lanes t v h accepted less none_open fresh parked sound there
  obtain rfl : lanes = iss.batch := h.passes
  obtain ⟨os, left⟩ : ∃ os, dropDone (w.ops (queueCounter q.toNat) ++ [{ immediateOp s iss with done := true }]) = os := ⟨_, rfl⟩
  obtain ⟨w', hret, same, counters, does⟩ := retire_commanded t.tick1 w iss d v (queueCounter q.toNat) os
  have ends : (((w.count (queueCounter q.toNat) (immediateOp s iss)).sset d.toNat v).opDone (queueCounter q.toNat) s.fresh) =
      (w.setOps (queueCounter q.toNat) os).sset d.toNat v := by
    rw [Wave.count, sset_setOps, sset_setOps, ← left]
    exact opDone_of_counted (w := w.sset d.toNat v) rfl fresh parked
  refine ⟨w', ?_, same, does, fun empty => ?_, fun p ps hops hd => ⟨{ immediateOp s iss with done := true }, rfl, ?_⟩⟩
  · rw [hx, immediate, Issues.runState (p := preEng sub n d a q) h (by rw [preEng, accepted]; rfl) rfl nofun rfl]
    simp only [none_open, sound, Nat.not_le.2 less, if_false, hv s iss w _ _ t v there]
    exact congrArg Host.Outcome.next ((congrArg (fun x : Wave => t.tick1.retire iss ((x.finish iss).endRegion iss)) ends).trans hret)
  · refine SameCounters.of_setOps_same (c := queueCounter q.toNat) ?_
    rw [empty] at left ⊢
    rwa [← left] at counters
  · rw [hops, List.cons_append, dropDone, hd] at left
    rw [← left] at counters
    rw [if_neg Bool.false_ne_true, ← List.cons_append, ← hops] at counters
    exact counters.counts

theorem answers_rcarm (d a : BitVec 7) (q : BitVec 4) : Answers (.rcarm d a q) 6 1 d a q (fun s iss w b =>
    if (s.rowc (cidOf iss.wave) (bw b 0)).named then none
    else some (s.setRowc (cidOf iss.wave) (bw b 0) { val := 0, owner := some w.ctx, named := false }, 0)) := by
  refine answers_immediate (exec_rcarm ..) fun s iss w o b t v there => ?_
  by_cases named : (s.rowc (cidOf iss.wave) (bw b 0)).named = true
  · exact nomatch (if_pos named).symm.trans there
  · obtain ⟨rfl, rfl⟩ := Prod.mk.inj (Option.some.inj ((if_neg named).symm.trans there))
    refine (if_neg named).trans ?_
    rw [Wave.count, setOps_ctx]
    rfl

theorem answers_rcwait (d a : BitVec 7) (q : BitVec 4) : Answers (.rcwait d a q) 7 2 d a q (fun s iss w b =>
    let r := s.rowc (cidOf iss.wave) (bw b 0)
    if bw b 1 ≤ r.val.toNat ∨ r.named = false ∨ r.owner ≠ some w.ctx then some (s.dropClean (cidOf iss.wave), r.val) else none) := by
  refine answers_immediate (exec_rcwait ..) fun s iss w o b t v there => ?_
  let r := s.rowc (cidOf iss.wave) (bw b 0)
  by_cases reached : bw b 1 ≤ r.val.toNat ∨ r.named = false ∨ r.owner ≠ some w.ctx
  · obtain ⟨rfl, rfl⟩ := Prod.mk.inj (Option.some.inj ((if_pos reached).symm.trans there))
    refine (if_pos ?_).trans rfl
    rw [Wave.count, setOps_ctx]
    change (decide (bw b 1 ≤ r.val.toNat) || !r.named || r.owner != some w.ctx) = true
    simpa [or_assoc] using reached
  · exact nomatch (if_neg reached).symm.trans there

theorem answers_cxrdv (d a : BitVec 7) (q : BitVec 4) : Answers (.cxrdv d a q) 15 1 d a q (fun s iss w b =>
    let st := s.ticketState w.ctx (cidOf iss.wave) q.toNat (b.getD 0 0)
    if st = 2 ∨ st = 4 ∨ st = 5 then some (s.dropClean (cidOf iss.wave), BitVec.ofNat 32 st) else none) := by
  refine answers_immediate (exec_cxrdv ..) fun s iss w o b t v there => ?_
  let st := s.ticketState w.ctx (cidOf iss.wave) q.toNat (b.getD 0 0)
  rw [Wave.count, setOps_ctx]
  by_cases ended : st = 2 ∨ st = 4 ∨ st = 5
  · obtain ⟨rfl, rfl⟩ := Prod.mk.inj (Option.some.inj ((if_pos ended).symm.trans there))
    exact (if_pos ended).trans rfl
  · exact nomatch (if_neg ended).symm.trans there

theorem answers_qstat (d a : BitVec 7) (q : BitVec 4) : Answers (.qstat d a q) 19 1 d a q (fun s iss w b =>
    some (s, BitVec.ofNat 32 (s.ticketState w.ctx (cidOf iss.wave) q.toNat (b.getD 0 0)))) := by
  refine answers_immediate (exec_qstat ..) fun s iss w o b t v there => ?_
  cases there
  rw [Wave.count, setOps_ctx]
  rfl

/-- Settles O31, one command at a time. -/
theorem immediateCommands : Obligations.ImmediateCommands := by
  unfold Obligations.ImmediateCommands
  exact fun d a q => ⟨answers_rcarm d a q, answers_rcwait d a q, answers_cxrdv d a q, answers_qstat d a q⟩

/-! ### The queues a command enters (07 R203, R204, R220, R222) -/

/-- Each queue that a command enters, with the sequence number it gives. -/
def State.commandTickets (s : State) (iss : Issue) (w : Wave) (sub q : Nat) (b : List Word) : List (Nat × Nat) :=
  (enteredQueues sub q b).map fun i => (queueIndex (cidOf iss.wave) i, (s.queueOf w.ctx (queueIndex (cidOf iss.wave) i)).count)

/-- The entry that a command makes in each queue it enters. -/
def State.commandEntry (s : State) (iss : Issue) (w : Wave) (sub q : Nat) (b : List Word) (seq : Nat) : QEntry :=
  { seq := seq, sub := sub, state := 0, prio := w.prio, wave := iss.wave, uid := w.uid, who := packWave iss.wave 0 w.wid, lid := w.lid,
    block := b, progress := [0, 0, 0, 0], held := [], waits := [], finished := false, group := w.group,
    tickets := s.commandTickets iss w sub q b }

/-- A queue with one more entry. -/
def Queue.enter (qu : Queue) (e : QEntry) : Queue :=
  { qu with count := (qu.count + 1) % 2 ^ 28, used := qu.used + 1, entries := qu.entries ++ [e] }

/-- The entries alone, before a row counter is named. -/
def State.enterQueues (s : State) (ctx : Nat) (entry : Nat → QEntry) (tickets : List (Nat × Nat)) : State :=
  tickets.foldl (fun s t => s.modQueue ctx t.1 fun qu => qu.enter (entry t.2)) s

theorem queueOf_modQueue (s : State) (ctx qi : Nat) (f : Queue → Queue) (ctx' qi' : Nat) : (s.modQueue ctx qi f).queueOf ctx' qi' =
    if (ctx' = ctx ∧ qi' = qi) ∧ (s.ctxs.find? ctx).isSome = true then f (s.queueOf ctx qi) else s.queueOf ctx' qi' := by
  unfold State.queueOf State.modQueue
  rw [State.modCtx_ctxs, SMap.find?_modify]
  by_cases hctx : ctx' = ctx
  · subst hctx
    rw [if_pos rfl]
    cases s.ctxs.find? ctx' with
    | none => simp
    | some c => simpa [Ctx.queue, Ctx.setQueue] using SMap.get_put c.queues Queue.fresh qi' qi (f (c.queues.get Queue.fresh qi))
  · rw [if_neg hctx, if_neg (fun h => hctx h.1.1)]

/-- A queue that a command does not enter, or of another context, stays as it is. -/
theorem queueOf_enterQueues (s : State) (ctx : Nat) (entry : Nat → QEntry) (tickets : List (Nat × Nat)) {ctx' qi : Nat}
    (h : ctx' = ctx → qi ∉ tickets.map Prod.fst) : (s.enterQueues ctx entry tickets).queueOf ctx' qi = s.queueOf ctx' qi := by
  induction tickets generalizing s with
  | nil => rfl
  | cons t ts ih =>
    have rest := ih (s.modQueue ctx t.1 fun qu => qu.enter (entry t.2)) fun same => fun hm => h same (List.mem_cons_of_mem _ hm)
    refine rest.trans ?_
    rw [queueOf_modQueue, if_neg]
    rintro ⟨⟨same, rfl⟩, -⟩
    exact h same List.mem_cons_self

/-- Entering queues leaves memory and waves alone. -/
theorem enterQueues_mem_waves (s : State) (ctx : Nat) (entry : Nat → QEntry) (tickets : List (Nat × Nat)) :
    (s.enterQueues ctx entry tickets).mem = s.mem ∧ (s.enterQueues ctx entry tickets).waves = s.waves := by
  induction tickets generalizing s with
  | nil => exact ⟨rfl, rfl⟩
  | cons t ts ih => exact ih (s.modQueue ctx t.1 fun qu => qu.enter (entry t.2))

/-- Naming a row counter touches no context, no memory and no wave. -/
theorem enqueueCommand_eq (s : State) (iss : Issue) (w : Wave) (sub q : Nat) (b : List Word) :
    let entered := s.enterQueues w.ctx (s.commandEntry iss w sub q b) (s.commandTickets iss w sub q b)
    (s.enqueueCommand iss w sub q b).2 = ((s.commandTickets iss w sub q b).head?.map Prod.snd).getD 0 ∧
    (s.enqueueCommand iss w sub q b).1.ctxs = entered.ctxs ∧ (s.enqueueCommand iss w sub q b).1.mem = entered.mem ∧
    (s.enqueueCommand iss w sub q b).1.waves = entered.waves := by
  unfold State.enqueueCommand
  dsimp only
  cases copyCounter sub b <;> exact ⟨rfl, rfl, rfl, rfl⟩

theorem enqueueCommand_queueOf (s : State) (iss : Issue) (w : Wave) (sub q : Nat) (b : List Word) (ctx qi : Nat) :
    (s.enqueueCommand iss w sub q b).1.queueOf ctx qi =
      (s.enterQueues w.ctx (s.commandEntry iss w sub q b) (s.commandTickets iss w sub q b)).queueOf ctx qi := by
  obtain ⟨-, hctxs, -⟩ := enqueueCommand_eq s iss w sub q b
  unfold State.queueOf
  rw [hctxs]

theorem commandTickets_queues (s : State) (iss : Issue) (w : Wave) (sub q : Nat) (b : List Word) :
    (s.commandTickets iss w sub q b).map Prod.fst = (enteredQueues sub q b).map (queueIndex (cidOf iss.wave)) := by
  rw [State.commandTickets, List.map_map]
  rfl

/-- Every command but QFENCE enters one queue. -/
theorem commandTickets_of_ne_qfence (s : State) (iss : Issue) (w : Wave) {sub q : Nat} (b : List Word) (h : sub ≠ 18) :
    s.commandTickets iss w sub q b = [(queueIndex (cidOf iss.wave) q, (s.queueOf w.ctx (queueIndex (cidOf iss.wave) q)).count)] := by
  rw [State.commandTickets, enteredQueues, if_neg h]
  rfl

/-- Settles O30. -/
theorem commandEntersItsQueue : Obligations.CommandEntersItsQueue := by
  unfold Obligations.CommandEntersItsQueue
  intro s iss w sub q b known c
  obtain ⟨hseq, -, hmem, hwaves⟩ := enqueueCommand_eq s iss w sub q b
  obtain ⟨kept_mem, kept_waves⟩ := enterQueues_mem_waves s w.ctx (s.commandEntry iss w sub q b) (s.commandTickets iss w sub q b)
  refine ⟨fun one => ⟨s.commandEntry iss w sub q b c.count, ?_, ?_, rfl, rfl, rfl, rfl, rfl, rfl, rfl, rfl⟩, fun qi other => ?_,
    fun ctx qi other => ?_, hmem.trans kept_mem, hwaves.trans kept_waves⟩
  · rw [hseq, commandTickets_of_ne_qfence s iss w b one]
    rfl
  · rw [enqueueCommand_queueOf, commandTickets_of_ne_qfence s iss w b one]
    exact (queueOf_modQueue s w.ctx _ (fun qu => qu.enter (s.commandEntry iss w sub q b c.count)) w.ctx _).trans (if_pos ⟨⟨rfl, rfl⟩, known⟩)
  · rw [enqueueCommand_queueOf]
    exact queueOf_enterQueues _ _ _ _ fun _ => by rwa [commandTickets_queues]
  · rw [enqueueCommand_queueOf]
    exact queueOf_enterQueues _ _ _ _ fun same => absurd same other

end Sys2Proof.Machine

/-! Engines at their queues: a command taken up, a row copied, a row of GTOPK, a command completed (07 R206, R209, R210, R213, R214, R220; 10 R316). -/

namespace Sys2Proof.Machine

/-! ### Beginning a command (07 R206; 10 R316) -/

theorem head_modHead {s : State} {ctx qi : Nat} {e : QEntry} (f : QEntry → QEntry) (h : s.head ctx qi = some e) :
    (s.modHead ctx qi f).head ctx qi = some (f e) := by
  have known : (s.ctxs.find? ctx).isSome = true := by
    cases hc : s.ctxs.find? ctx with
    | some c => rfl
    | none => simp [State.head, State.queueOf, hc, Queue.fresh] at h
  unfold State.head State.modHead at *
  rw [queueOf_modQueue, if_pos ⟨⟨rfl, rfl⟩, known⟩]
  cases hq : (s.queueOf ctx qi).entries with
  | nil => simp [hq] at h
  | cons e' es =>
    rw [hq] at h
    cases h
    rfl

/-- Copies and the Gate and Select commands need nothing made ready as they begin. -/
theorem beginCommand_of_lt {e : QEntry} (s : State) (ctx qi : Nat) (h : e.sub < 14) : s.beginCommand ctx qi e = some s := by
  have other (n : Nat) (hn : 14 ≤ n) : e.sub ≠ n := (h.trans_le hn).ne
  unfold State.beginCommand
  rw [if_neg (other 16 (by decide)), if_neg fun fork => other 14 (by decide) fork.1, if_neg fun dense => other 17 (by decide) dense.1]

theorem exec_queuedCommandStart_of_best {s : State} {ctx qi : Nat} {e : QEntry} (index : qi < 320) (engine : engineOf qi < 72)
    (small : e.sub < 14) (first : s.head ctx qi = some e)
    (best : (s.bestCommands (engineOf qi)).find? (fun x => x.1 == ctx && x.2.1 == qi) = some (ctx, qi, e))
    (free : s.engineFree (engineOf qi) e.prio = true) : exec (.queuedCommandStart ctx qi) s =
      .next (((s.modHead ctx qi (fun e => { e with state := 1 })).setEngine (engineOf qi)
        { s.engineState (engineOf qi) with serving := some (ctx, qi), lastCtx := ctx }).forgetLines (fun _ => true)) := by
  have taken : ((s.modHead ctx qi (fun e => { e with state := 1 })).setEngine (engineOf qi)
      { s.engineState (engineOf qi) with serving := some (ctx, qi), lastCtx := ctx }).head ctx qi = some { e with state := 1 } :=
    head_modHead (fun e => { e with state := 1 }) first
  rw [exec_queuedCommandStart]
  unfold execQueuedCommandStart event evQueuedCommandStart
  simp only [best, index, free, and_self, if_true, engine, taken, beginCommand_of_lt (e := { e with state := 1 }) _ ctx qi small]

theorem exec_queuedCommandStart_of_none {s : State} {ctx qi : Nat}
    (none_ready : (s.bestCommands (engineOf qi)).find? (fun x => x.1 == ctx && x.2.1 == qi) = none) :
    exec (.queuedCommandStart ctx qi) s = .next s := by
  rw [exec_queuedCommandStart]
  unfold execQueuedCommandStart event evQueuedCommandStart
  simp only [none_ready]

/-! ### One unit (07 R209, R210, R213, R214) -/

theorem withSources_of_known {s : State} {ctx qi : Nat} {e : QEntry} {rs : List (Nat × Nat)} (h : e.sources = some rs) :
    s.withSources ctx qi e = (s, some e) := by
  rw [State.withSources, h]

/-- COPY_UNIT of a copy by rows, once its sources are known and its writes are performed. -/
theorem exec_copyUnit_of_rows {s : State} {ctx qi : Nat} {e : QEntry} {rs : List (Nat × Nat)} (service : s.inService ctx qi = some e)
    (rows : e.sub = 1 ∨ e.sub = 2 ∨ e.sub = 3) (performed : e.waits = []) (known : e.sources = some rs) :
    exec (.copyUnit ctx qi) s = .next ((s.countRows ctx qi).rowUnit ctx qi e) := by
  have not_linear : e.sub ≠ 0 := by omega
  rw [exec_copyUnit]
  unfold execCopyUnit event evCopyUnit
  simp only [service, withSources_of_known known, not_linear, rows, performed, if_true, if_false, List.isEmpty_nil]

/-- A row that is found, read and written is recorded; the last one finishes the copy. -/
theorem rowUnit_of_ok {s s1 s2 s3 : State} {ctx qi x : Nat} {e : QEntry} {bs : List Byte}
    (found : s.copyIndex ctx e (e.progress.getD 0 0) = (s1, .ok x))
    (read : s1.engineRead ctx e (copyTol e) (copyEnds e (e.progress.getD 0 0) x).1 (copyRow e) = (s2, .ok bs))
    (written : s2.engineWrite ctx qi e (copyEnds e (e.progress.getD 0 0) x).2 bs = (s3, .ok ())) :
    let u := s3.spoilOverlap ctx e [((copyEnds e (e.progress.getD 0 0) x).2, copyRow e)]
    let t := (u.setProgress ctx qi [e.progress.getD 0 0 + 1, 0, 0, 0]).countRows ctx qi
    s.rowUnit ctx qi e = if copyCount e ≤ e.progress.getD 0 0 + 1 then t.setFinished ctx qi else t := by
  unfold State.rowUnit
  simp only [found, read, written]

theorem exec_gseRow_of_topk {s : State} {ctx qi : Nat} {e : QEntry} (service : s.inService ctx qi = some e) (topk : e.sub = 8) :
    exec (.gseRow ctx qi) s = .next (s.topkRow ctx qi e) := by
  rw [exec_gseRow]
  unfold execGseRow event evGseRow
  simp only [service, topk, if_true]

/-- A row of GTOPK without a mask that is read and whose record is written. -/
theorem topkRow_of_ok {s s1 s2 : State} {ctx qi : Nat} {e : QEntry} {raw : List Byte} (unmasked : nbits 25 1 (bw e.block 4) = 0)
    (read : s.engineRead ctx e (nbits 20 5 (bw e.block 4)) (ba e.block 0 + e.progress.getD 0 0 * bw e.block 2)
      (4 * nbits 0 13 (bw e.block 4)) = (s1, .ok raw)) :
    let k := nbits 13 7 (bw e.block 4)
    let r := e.progress.getD 0 0
    let ordered := sortBy firstOf (validOf (wordsOf (nbits 0 13 (bw e.block 4)) raw) none)
    let sum := sumValues ((ordered.take k).map Prod.snd)
    let rest := sumValues ((ordered.drop k).map Prod.snd)
    s1.engineWrite ctx qi e (ba e.block 7 + r * recordSize k) (gateRecord k ordered.length sum.1 rest.1 0 (ordered.take k)) = (s2, .ok ()) →
    let t := (s2.setProgress ctx qi [r + 1, 0, 0, 0]).raiseGse ctx (engineCluster (engineOf qi)) (sum.2 ||| rest.2)
    s.topkRow ctx qi e = if bw e.block 3 ≤ r + 1 then t.setFinished ctx qi else t := by
  intro k r ordered sum rest written
  unfold State.topkRow
  simp only [read, unmasked, if_true]
  exact congrArg (fun x : Step Unit => match x with
    | (s3, .error x) => s3.afterStop ctx qi x
    | (s3, .ok _) =>
      let s4 := (s3.setProgress ctx qi [r + 1, 0, 0, 0]).raiseGse ctx (engineCluster (engineOf qi)) (sum.2 ||| rest.2)
      if bw e.block 3 ≤ r + 1 then s4.setFinished ctx qi else s4) written

theorem exec_units_of_idle {s : State} {ctx qi : Nat} (idle : s.inService ctx qi = none) :
    exec (.copyUnit ctx qi) s = .next s ∧ exec (.gseRow ctx qi) s = .next s := by
  rw [exec_copyUnit, exec_gseRow]
  unfold execCopyUnit execGseRow event evCopyUnit evGseRow
  rw [idle]
  exact ⟨rfl, rfl⟩

/-! ### Completion (07 R206, R220) -/

section
variable {s : State} {ctx qi : Nat} {e : QEntry}

/-- What QUEUED_COMMAND_COMPLETE does to the head of a queue whose context is in. -/
theorem exec_queuedCommandComplete_of_head {c : Ctx} (first : s.head ctx qi = some e) (known : s.ctxs.find? ctx = some c) (here : c.state = 1) :
    exec (.queuedCommandComplete ctx qi) s = .next
      (if e.sub = 18 then (if s.fenceReady ctx e then s.leaveQueues ctx e 2 else s)
      else if e.finished ∧ e.waits = [] ∧ s.invalidating = false then (s.countRows ctx qi).leaveQueues ctx e 2
      else s) := by
  rw [exec_queuedCommandComplete]
  unfold execQueuedCommandComplete event evQueuedCommandComplete
  simp only [first, known, here, BEq.rfl, Bool.true_eq_false, if_false]

theorem exec_queuedCommandComplete_of_unfinished (first : s.head ctx qi = some e) (command : e.sub ≠ 18)
    (open_work : e.finished = false ∨ e.waits ≠ [] ∨ s.invalidating = true) : exec (.queuedCommandComplete ctx qi) s = .next s := by
  have undone : ¬ (e.finished = true ∧ e.waits = [] ∧ s.invalidating = false) := by
    rintro ⟨finished, performed, settled⟩
    rcases open_work with h | h | h
    · exact absurd (finished.symm.trans h) (by decide)
    · exact h performed
    · exact absurd (settled.symm.trans h) (by decide)
  rw [exec_queuedCommandComplete]
  unfold execQueuedCommandComplete event evQueuedCommandComplete
  simp only [first, command, undone, if_false, ite_self]

end

/-- Settles O32, one event at a time. -/
theorem engineServesItsQueues : Obligations.EngineServesItsQueues := by
  unfold Obligations.EngineServesItsQueues
  refine fun s => ⟨fun ctx qi e c index engine small first best free _ => exec_queuedCommandStart_of_best index engine small first best free,
    fun ctx qi => exec_queuedCommandStart_of_none, fun ctx qi e s1 s2 s3 x bs rs service rows performed known found read written => ?_,
    fun ctx qi e s1 s2 raw service topk unmasked read written => ?_, fun ctx qi => exec_units_of_idle,
    fun ctx qi e c first known here command finished performed settled => ?_, fun ctx qi e c first known here fence ready => ?_,
    fun ctx qi e => exec_queuedCommandComplete_of_unfinished⟩
  · exact (exec_copyUnit_of_rows service rows performed known).trans (congrArg _ (rowUnit_of_ok found read written))
  · exact (exec_gseRow_of_topk service topk).trans (congrArg _ (topkRow_of_ok unmasked read written))
  · rw [exec_queuedCommandComplete_of_head first known here, if_neg command, if_pos ⟨finished, performed, settled⟩]
  · rw [exec_queuedCommandComplete_of_head first known here, if_pos fence, if_pos ready]

end Sys2Proof.Machine

/-! Rays and items: the fibres that RAYDONE and the decisions of any-hit episodes end (07 R224, R228, R232). -/

namespace Sys2Proof.Machine

/-! ### Ray instructions at issue (07 R224; 14 R401) -/

/-- No record that a guarded lane is bound to has been struck by an uncorrectable error (14 R401). -/
def State.unstruck (s : State) (w : Wave) (lanes : Word) : Prop := ∀ l, l < 32 → lanes.getLsbD l = true → s.struck w l = false

/-- No guarded lane, done or not, keeps a ray instruction from executing. -/
theorem firstLane_unfit {s : State} {w : Wave} {lanes : Word} {ok : State → Wave → Nat → Bool} {reads : Bool}
    (fit : ∀ l, l < 32 → lanes.getLsbD l = true → ok s w l = true) (sound : reads = true → s.unstruck w lanes) :
    firstLane (lanes &&& ~~~w.doneLanes) (fun l => !ok s w l || (reads && s.struck w l)) = none := by
  refine firstLane_none fun l hl hm => ?_
  have guarded : lanes.getLsbD l = true := by
    rw [BitVec.getLsbD_and, Bool.and_eq_true] at hm
    exact hm.1
  cases reads with
  | false => simp [fit l hl guarded]
  | true => simp [fit l hl guarded, sound rfl l hl guarded]

/-- A ray instruction whose every guarded lane is as it asks comes to its own part. -/
theorem rayInstr_of_fit {s : State} {iss : Issue} {w : Wave} {lanes : Word} {p : Pre} {ok : State → Wave → Nat → Bool} {reads : Bool}
    (h : Issues s iss w p.guard p.ops p.tile lanes p.reach) (hr : p.reserved = false) (hb : p.badOperand w = false)
    (hc : ∀ c, p.counter = some c → w.counter c < 63) (ht : p.tags w lanes = none)
    (fit : ∀ l, l < 32 → lanes.getLsbD l = true → ok s w l = true) (sound : reads = true → s.unstruck w lanes)
    (body : State → Issue → Word → Wave → Out) : rayInstr p ok body reads s = .next (match body s iss lanes w with
      | .done s' => s'
      | .wait s' => s'.waitIssue iss
      | .trap s' c a l => s'.takeTrap iss c a l) := by
  refine (h.runState hr hb hc ht _).trans ?_
  simp only [firstLane_unfit fit sound] <;> rfl

/-! ### Fibres that end (01 R10, R17; 07 R224) -/

/-- RAYDONE, every guarded lane of which is bound. -/
theorem exec_raydone_of_issues {g : BitVec 2} {s : State} {iss : Issue} {w : Wave} {lanes : Word}
    (h : Issues s iss w (some g.toNat) [] false lanes) (bound : ∀ l, l < 32 → lanes.getLsbD l = true → (s.slotAt w l).isSome = true) :
    exec (.raydone g) s =
      .next ((lanesOf lanes).foldl (fun u l => u.release (w.fib l).bound) (s.retire iss ((w.finish iss).endFibres lanes))) := by
  rw [exec_raydone, execRaydone, rayInstr_of_fit (p := { guard := some g.toNat }) h rfl rfl nofun rfl bound (reads := false) nofun]
  rfl

/-- What O35 says of RAYDONE, of the waves none of whose loads in flight has an ending fibre in its batch. -/
theorem raydone_of_loads_apart {g : BitVec 2} {s : State} {iss : Issue} {w : Wave} {lanes : Word}
    (h : Issues s iss w (some g.toNat) [] false lanes) (bound : ∀ l, l < 32 → lanes.getLsbD l = true → (s.slotAt w l).isSome = true)
    (apart : ∀ o ∈ w.ld, o.iss.batch &&& lanes = 0) : ∃ w', EndsFibres iss lanes w w' ∧
      exec (.raydone g) s = .next ((lanesOf lanes).foldl (fun u l => u.release (w.fib l).bound) (s.setWave iss.wave w')) := by
  obtain ⟨w', hret, -, ends⟩ := retire_endFibres s iss w lanes
  exact ⟨w', ends apart, by rw [exec_raydone_of_issues h bound, hret]⟩

/-- A decision of an any-hit episode, every guarded lane of which is in one and none of whose records is struck. -/
theorem exec_decide3_of_issues {i : Instr} {g : BitVec 2} {f : Ray → Ray} (hx : exec i = decide3 g f) {s : State} {iss : Issue} {w : Wave}
    {lanes : Word} (h : Issues s iss w (some g.toNat) [] false lanes)
    (episode : ∀ l, l < 32 → lanes.getLsbD l = true → (w.fib l).kind = 2 ∧ (s.rayAt w l).isSome = true) (sound : s.unstruck w lanes) :
    exec i s = .next ((s.retire iss ((w.finish iss).endFibres lanes)).forRays w lanes (fun s id =>
      s.tick1.modRay id (fun r => { f r with place := .queued, entered := s.fresh }))) := by
  have deciding (l : Nat) (hl : l < 32) (hm : lanes.getLsbD l = true) : anyHit s w l = true := by
    obtain ⟨kind, ray⟩ := episode l hl hm
    rw [anyHit, ray, kind]
    rfl
  rw [hx, decide3, rayInstr_of_fit (p := { guard := some g.toNat }) h rfl rfl nofun rfl deciding fun _ => sound]

/-- What O36 says of a decision, where no load in flight has an ending fibre in its batch and no record is struck. -/
theorem decides_of_loads_apart {i : Instr} {g : BitVec 2} {f : Ray → Ray} (hx : exec i = decide3 g f) {s : State} {iss : Issue} {w : Wave}
    {lanes : Word} (h : Issues s iss w (some g.toNat) [] false lanes)
    (episode : ∀ l, l < 32 → lanes.getLsbD l = true → (w.fib l).kind = 2 ∧ (s.rayAt w l).isSome = true) (sound : s.unstruck w lanes)
    (apart : ∀ o ∈ w.ld, o.iss.batch &&& lanes = 0) :
    ∃ w', EndsFibres iss lanes w w' ∧ exec i s = .next ((s.setWave iss.wave w').forRays w lanes (fun s id =>
      s.tick1.modRay id (fun r => { f r with place := .queued, entered := s.fresh }))) := by
  obtain ⟨w', hret, -, ends⟩ := retire_endFibres s iss w lanes
  exact ⟨w', ends apart, by rw [exec_decide3_of_issues hx h episode sound, hret]⟩

/-! ### Counterexamples: a load of an ending fibre is in flight (01 R48) -/

/-- A wave whose lane 0 is about to issue in an episode of a kind, bound as given, with a load of that lane in flight. -/
def loadingWave (kind : Nat) (b : Bound) : Wave := (tEpisode kind b).setOps .ld [landingLoad]

theorem loadingWave_issues {kind : Nat} {b : Bound} {rays : SMap Ray} (hf : tFit (loadingWave kind b) [] = true) :
    Issues (tRays (loadingWave kind b) rays []) tIssue (loadingWave kind b) (some (0 : BitVec 2).toNat) [] false 1 :=
  tEpisodeIssues (.inr rfl) hf

/-- The batch of a load in flight that loses a fibre is not as before. -/
theorem loadingWave_ld_ne (kind : Nat) (b : Bound) : (loadingWave kind b).ld ≠ (loadingWave kind b).ld.map (Op.leftBy 1) := by
  change [landingLoad] ≠ [landingLoad].map (Op.leftBy 1)
  decide

theorem lane_zero_of_one {l : Nat} (h : (1 : Word).getLsbD l = true) : l = 0 := by
  have bit : (BitVec.ofNat 32 1).getLsbD l = true := h
  rw [BitVec.getLsbD_ofNat, Bool.and_eq_true, Nat.testBit_one_eq_true_iff_self_eq_zero] at bit
  exact bit.2

/-- Refutes O35: its last clause asks that the operations counted by LD are as before, but the fibre of lane 0 that RAYDONE ends leaves the
batch of the load in flight (01 R48). `raydone_of_loads_apart` has the clause where no load's batch has an ending fibre. -/
theorem not_rayRecords : ¬ Obligations.RayRecords := by
  unfold Obligations.RayRecords
  intro h
  obtain ⟨-, -, -, -, -, raydone⟩ := h 0 0 0 0
  have issues := loadingWave_issues (kind := 4) (b := .item 0) (rays := [(0, tRoot)]) (by decide)
  have bound (l : Nat) (_ : l < 32) (hm : (1 : Word).getLsbD l = true) :
      ((tRays (loadingWave 4 (.item 0)) [(0, tRoot)] []).slotAt (loadingWave 4 (.item 0)) l).isSome = true := by
    rw [lane_zero_of_one hm]
    rfl
  obtain ⟨w', ends, claimed⟩ := raydone _ _ _ _ issues bound
  obtain ⟨w'', hret, left, -⟩ := retire_endFibres _ tIssue (loadingWave 4 (.item 0)) 1
  have ran := exec_raydone_of_issues issues bound
  rw [hret] at ran
  have same := congrArg (fun u : State => u.waves.find? 0) (Host.Outcome.next.inj (claimed.symm.trans ran))
  obtain rfl : w' = w'' := Option.some.inj same
  exact loadingWave_ld_ne 4 (.item 0) (ends.counters.ld.symm.trans left)

/-- Refutes O36: it asks of a decision that the operations counted by LD are as before, but the fibre of lane 0 that TERMRAY ends leaves the
batch of the load in flight (01 R48). `decides_of_loads_apart` has what is asked of a decision where no load's batch has an ending fibre and
no record has an uncorrectable error (14 R401). -/
theorem not_rayTraversalInstructions : ¬ Obligations.RayTraversalInstructions := by
  unfold Obligations.RayTraversalInstructions
  intro h
  obtain ⟨-, -, -, termray, -⟩ := h 0
  have issues := loadingWave_issues (kind := 2) (b := .ray 0) (rays := [(0, tRoot)]) (by decide)
  have episode (l : Nat) (_ : l < 32) (hm : (1 : Word).getLsbD l = true) : ((loadingWave 2 (.ray 0)).fib l).kind = 2 ∧
      ((tRays (loadingWave 2 (.ray 0)) [(0, tRoot)] []).rayAt (loadingWave 2 (.ray 0)) l).isSome = true := by
    rw [lane_zero_of_one hm]
    exact ⟨rfl, rfl⟩
  obtain ⟨w', ends, claimed⟩ := termray _ _ _ _ issues episode
  obtain ⟨w'', hret, left, -⟩ := retire_endFibres _ tIssue (loadingWave 2 (.ray 0)) 1
  have ran := exec_decide3_of_issues (exec_termray 0) issues episode (fun _ _ _ => rfl)
  rw [hret] at ran
  have same := congrArg (fun u : State => u.waves.find? 0) (Host.Outcome.next.inj (claimed.symm.trans ran))
  obtain rfl : w' = w'' := Option.some.inj same
  exact loadingWave_ld_ne 2 (.ray 0) (ends.counters.ld.symm.trans left)

end Sys2Proof.Machine

/-! What keeps the canonical form of memory, operation by operation in the order of the model (08 R241; 09 R272, R284): the rules for results
that carry something along, and the operations on waves, cores and region tiles. -/

namespace Sys2Proof.Machine

/-! ### Results that carry something along -/

/-- The state of a result whose parts are known. -/
theorem State.memoryOk_of_fst {β : Type} {r : State × β} {t : State} {b : β} (e : r = (t, b)) (h : r.1.memoryOk) : t.memoryOk := by
  subst e
  exact h

theorem State.memoryOk_ite {p : Prop} [Decidable p] {s t : State} (hs : s.memoryOk) (ht : t.memoryOk) : (if p then s else t).memoryOk := by
  split
  · exact hs
  · exact ht

/-- A transaction is sent or it is not. -/
theorem State.memoryOk_sendTo {s t : State} {peer token : Nat} {x : LinkTx} {p : Purpose} (e : s.sendTo peer x p = some (t, token))
    (h : s.memoryOk) : t.memoryOk := memoryOk_of_mem h (sendTo_mem e)

/-! ### Shares of region tiles (08 R260 to R263) -/

theorem State.memoryOk_answerPeer {s : State} {a : Asker} {status : Nat} {data : List Byte} (h : s.memoryOk) :
    (s.answerPeer a status data).memoryOk := memoryOk_of_mem h (answerPeer_mem ..)

theorem State.memoryOk_pushAdds {s : State} {cid tile : Nat} (h : s.memoryOk) : (s.pushAdds cid tile).memoryOk :=
  memoryOk_of_mem h (pushAdds_mem ..)

theorem State.memoryOk_startDrain {s : State} {cid : Nat} {x : Holder} {leaving : Bool} (h : s.memoryOk) :
    (s.startDrain cid x leaving).1.memoryOk := memoryOk_of_mem h (startDrain_mem ..)

theorem State.memoryOk_grantShare {s : State} {j : Join} {tile k : Nat} (h : s.memoryOk) : (s.grantShare j tile k).memoryOk :=
  memoryOk_of_mem h (grantShare_mem ..)

theorem State.memoryOk_singleDrain {s : State} {cid : Nat} {a : Add} (h : s.memoryOk) : (s.singleDrain cid a).1.memoryOk := by
  unfold State.singleDrain
  split
  · exact h
  · dsimp only
    split
    · exact memoryOk_sendTo ‹_› h
    · exact memoryOk_countLost _ h

theorem State.memoryOk_sendOldest {s : State} {cid tile : Nat} (h : s.memoryOk) : (s.sendOldest cid tile).memoryOk := by
  unfold State.sendOldest
  split
  · exact h
  · exact memoryOk_foldl_fst (f := fun (r : State × List Nat) a => ((r.1.singleDrain cid a).1, r.2 ++ (r.1.singleDrain cid a).2))
      (fun _ _ => memoryOk_singleDrain) _ h

theorem State.memoryOk_holdTile {s : State} {cid ctx tile share : Nat} {coded : Bool} {limit : Word} (h : s.memoryOk) :
    (s.holdTile cid ctx tile share coded limit).memoryOk := memoryOk_pushAdds h

theorem State.memoryOk_halve {s : State} {t : HomeTile} {tile : Nat} {j : Join} {b : Share} (h : s.memoryOk) :
    (s.halve t tile j b).memoryOk := by
  unfold State.halve
  dsimp only
  split
  · split
    · rename_i e
      have sent := memoryOk_sendTo e h
      exact sent
    · exact h
  · split
    · exact memoryOk_grantShare h
    · split
      · split
        · exact h
        · refine memoryOk_foldl (fun u _ hu => ?_) _ (memoryOk_startDrain ?_)
          · exact hu
          · exact h
      · exact memoryOk_grantShare h

theorem State.memoryOk_refuseJoin {s : State} {t : HomeTile} {tile : Nat} {j : Join} (h : s.memoryOk) :
    (s.refuseJoin t tile j).memoryOk := by
  unfold State.refuseJoin
  dsimp only
  split
  · exact memoryOk_answerPeer h
  · exact memoryOk_sendOldest h

theorem State.memoryOk_answerJoin {s : State} {tile : Nat} (h : s.memoryOk) : (s.answerJoin tile).memoryOk := by
  unfold State.answerJoin
  split
  · exact h
  · split
    · exact h
    · split
      · exact h
      · split
        · exact memoryOk_pushAdds h
        · split
          · exact memoryOk_grantShare h
          · split
            · exact h
            · exact memoryOk_ite (memoryOk_halve h) (memoryOk_refuseJoin h)

theorem State.memoryOk_joined {s : State} {a : Add} {cid least k : Nat} (h : s.memoryOk) : (s.joined a cid least k).memoryOk := by
  unfold State.joined
  dsimp only
  split
  · exact memoryOk_ite (memoryOk_leaveTile _ _ (memoryOk_holdTile h)) (memoryOk_holdTile h)
  · exact memoryOk_pushAdds (memoryOk_sendOldest h)

theorem State.memoryOk_deltaDone {s : State} {tile cid : Nat} {leave : Bool} (h : s.memoryOk) : (s.deltaDone tile cid leave).memoryOk := by
  unfold State.deltaDone
  split
  · exact h
  · split
    · exact h
    · rename_i x _
      have h1 : (match x.draining with
          | some id => s.clearToken id
          | none => s).memoryOk := by split <;> exact h
      exact memoryOk_pushAdds (memoryOk_foldl (fun _ _ => memoryOk_answerPeer) _
        (memoryOk_ite h1 (memoryOk_ite (memoryOk_startDrain h1) h1)))

theorem State.memoryOk_askedDrain {s : State} {a : Asker} {tile cid : Nat} {leave : Bool} (h : s.memoryOk) :
    (s.askedDrain a tile cid leave).memoryOk := by
  unfold State.askedDrain
  split
  · exact memoryOk_answerPeer h
  · exact memoryOk_ite h (memoryOk_startDrain h)

theorem State.memoryOk_askedHalf {s : State} {a : Asker} {tile cid k : Nat} (h : s.memoryOk) : (s.askedHalf a tile cid k).memoryOk := by
  unfold State.askedHalf
  split
  · exact memoryOk_answerPeer h
  · exact memoryOk_ite (memoryOk_answerPeer h) (memoryOk_ite h (memoryOk_startDrain h))

/-! ### L1 and scratchpads (06 R176, R198; 08 R240 to R249) -/

theorem State.memoryOk_flushLine {s : State} {cid line : Nat} (h : s.memoryOk) : (s.flushLine cid line).memoryOk := memoryOk_flushDirty _ _ h

theorem State.memoryOk_settleMarks {s : State} {lines : List Nat} (h : s.memoryOk) : (s.settleMarks lines).1.memoryOk :=
  memoryOk_foldl (fun _ => memoryOk_invalidateMarks) _ h

theorem State.memoryOk_clearAfar {s : State} {keys : List Nat} (h : s.memoryOk) : (s.clearAfar keys).1.memoryOk :=
  memoryOk_of_mem h (clearAfar_mem ..)

theorem State.memoryOk_evict {s : State} {cid line : Nat} (h : s.memoryOk) : (s.evict cid line).memoryOk := by
  have h1 : ((s.flushLine cid line).sendUpd cid (fun u => u.line == line)).memoryOk := memoryOk_sendUpd _ _ (memoryOk_flushLine h)
  unfold State.evict
  dsimp only
  split
  · exact memoryOk_ite h1 (memoryOk_startDrain h1)
  · exact h1

theorem State.memoryOk_yieldLine {s : State} {cid line : Nat} (h : s.memoryOk) : (s.yieldLine cid line).memoryOk := memoryOk_flushLine h

theorem State.memoryOk_anew {s : State} {k : Nat} {ps : List Place} (h : s.memoryOk) : (s.anew k ps).memoryOk := by
  unfold State.anew
  exact memoryOk_ite h h

/-! ### Loads and stores (06 R183 to R190) -/

theorem State.memoryOk_readPlace {s : State} {cid : Nat} {w : Wave} {p : Place} {n : Nat} (h : s.memoryOk) :
    (s.readPlace cid w p n).1.memoryOk := by
  unfold State.readPlace
  split
  · exact memoryOk_tileReadAs _ _ _ _ _ h
  · exact memoryOk_readLoc _ _ _ _ _ _ h

theorem State.memoryOk_gather {s : State} {w : Wave} {cid : Nat} {inv : Bool} {asks : List Ask} {got : List LWrite} (h : s.memoryOk) :
    (s.gather w cid inv asks got).1.memoryOk := by
  induction asks generalizing s got with
  | nil => exact h
  | cons a as ih =>
    have h1 := memoryOk_readLoc cid w.group w.ctx inv a.place.loc a.size h
    unfold State.gather
    split
    · exact h
    · split
      · exact ih h
      · split
        · exact ih (memoryOk_of_fst ‹_› h1)
        · exact memoryOk_of_fst ‹_› h1
        · exact memoryOk_of_fst ‹_› h1

theorem State.memoryOk_askTile {s : State} {rd : TileRead} {limit : Word} {cls : Nat} (h : s.memoryOk) :
    (s.askTile rd limit cls).1.memoryOk := by
  unfold State.askTile
  dsimp only
  split
  · exact h
  · split
    · exact memoryOk_sendTo ‹_› h
    · exact h

theorem State.memoryOk_askTiles {s : State} {k : Nat} {w : Wave} {uid tol : Nat} {asks : List Ask} (h : s.memoryOk) :
    (s.askTiles k w uid tol asks).1.memoryOk := by
  refine memoryOk_foldl_fst (fun r a hr => ?_) _ h
  split
  · exact memoryOk_askTile hr
  · exact hr
  · exact hr
  · exact hr

theorem State.memoryOk_issueLoad {s : State} {iss : Issue} {w : Wave} {inv : Bool} {tol : Nat} {asks : List Ask} (h : s.memoryOk) :
    (s.issueLoad iss w inv tol asks).memoryOk := by
  have h1 : (s.gather w (cidOf iss.wave) inv asks []).1.memoryOk := memoryOk_gather h
  unfold State.issueLoad
  split
  · exact h
  · split
    · exact memoryOk_of_fst ‹_› h1
    · exact memoryOk_of_fst ‹_› h1
    · rename_i s1 _ e
      have h2 := memoryOk_of_fst e h1
      exact memoryOk_retire _ _ (memoryOk_askTiles (s := s1.tick1) h2)

theorem State.memoryOk_checkLanes {s : State} {k : Nat} {w : Wave} {acc : Access} {addrs : Nat → List Addr} {ls : List Nat}
    {got : List (Nat × List Place)} (h : s.memoryOk) : (s.checkLanes k w acc addrs ls got).1.memoryOk :=
  memoryOk_of_mem h (checkLanes_mem ..)

theorem State.memoryOk_runLoad {s : State} {iss : Issue} {w : Wave} {lanes : Word} {d : BitVec 7} {acc : Access} {inv : Bool} {tol : Nat}
    {tag : BitVec 6} {addrs : Nat → List Addr} (h : s.memoryOk) : (s.runLoad iss w lanes d acc inv tol tag addrs).memoryOk := by
  have h1 : (s.checkLanes iss.wave w acc addrs (lanesOf lanes) []).1.memoryOk := memoryOk_checkLanes h
  unfold State.runLoad
  split
  · exact memoryOk_of_fst ‹_› h1
  · exact memoryOk_issueLoad (memoryOk_of_fst ‹_› h1)

theorem keepsMemory_fbLoad {s : State} {n : Nat} {inv : Bool} {d a : BitVec 7} {i : BitVec 11} (h : s.memoryOk) :
    KeepsMemory (fbLoad n inv d a i s) := by
  unfold fbLoad
  refine keepsMemory_runState _ _ h (fun iss lanes w => ?_)
  have h1 := State.memoryOk_checkLanes (k := iss.wave) (w := w) (acc := Access.load n) (addrs := fun l => [w.fbAddr iss a i n l])
    (ls := lanesOf lanes) (got := []) h
  split
  · exact State.memoryOk_of_fst ‹_› h1
  · exact State.memoryOk_issueLoad (State.memoryOk_of_fst ‹_› h1)

theorem State.memoryOk_issueStore {s : State} {iss : Issue} {w : Wave} {puts : List Put} (h : s.memoryOk) :
    (s.issueStore iss w puts).memoryOk := by
  have h1 : (s.clearAfar (puts.flatMap (fun p => p.place.tileKeys))).1.memoryOk := memoryOk_clearAfar h
  unfold State.issueStore
  split
  · exact h
  · split
    · exact memoryOk_of_fst ‹_› h1
    · rename_i s1 e
      exact memoryOk_retire (s := State.tick1 _) _ _ (memoryOk_foldl_fst
        (f := fun (r : State × List Nat) p => ((r.1.putElem (cidOf iss.wave) w p).1, r.2 ++ (r.1.putElem (cidOf iss.wave) w p).2))
        (fun _ _ => memoryOk_putElem _ _ _) _ (memoryOk_of_fst e h1))

theorem keepsMemory_fbStore {s : State} {n : Nat} {d a : BitVec 7} {i : BitVec 11} (h : s.memoryOk) :
    KeepsMemory (fbStore n d a i s) := by
  unfold fbStore
  refine keepsMemory_runState _ _ h (fun iss lanes w => ?_)
  have h1 := State.memoryOk_checkLanes (k := iss.wave) (w := w) (acc := Access.store n) (addrs := fun l => [w.fbAddr iss a i n l])
    (ls := lanesOf lanes) (got := []) h
  split
  · exact State.memoryOk_of_fst ‹_› h1
  · exact State.memoryOk_issueStore (State.memoryOk_of_fst ‹_› h1)

theorem keepsMemory_execTld {s : State} {d a b : BitVec 7} {m : BitVec 2} (h : s.memoryOk) : KeepsMemory (execTld d a b m s) := by
  refine keepsMemory_runState _ _ h (fun iss lanes w => ?_)
  split
  · exact h
  · dsimp only
    split
    · exact h
    · split
      · exact h
      · exact State.memoryOk_runLoad h

theorem keepsMemory_execTst {s : State} {d a b : BitVec 7} {m : BitVec 2} (h : s.memoryOk) : KeepsMemory (execTst d a b m s) := by
  refine keepsMemory_runState _ _ h (fun iss lanes w => ?_)
  split
  · exact h
  · rename_i r _
    have h1 := State.memoryOk_checkLanes (k := iss.wave) (w := w) (acc := Access.store 4) (addrs := r.addrs (w.pair a (lowest lanes)))
      (ls := lanesOf lanes) (got := []) h
    dsimp only
    split
    · exact h
    · split
      · exact h
      · split
        · exact State.memoryOk_of_fst ‹_› h1
        · exact State.memoryOk_issueStore (State.memoryOk_of_fst ‹_› h1)

end Sys2Proof.Machine

/-! Atomics, rings, monitors and boundaries keep the canonical form of memory (06 R191 to R200; 08 R246 to R253). -/

namespace Sys2Proof.Machine

/-! ### Atomics (06 R192 to R194) -/

theorem AmoRun.send_s (r : AmoRun) (lane : Nat) (va : Addr) (cell : Option Nat) (s : State) (token : Nat) :
    (r.send lane va cell s token).s = s := by
  cases cell <;> rfl

theorem State.memoryOk_pick {s : State} {n : Nat} (h : s.memoryOk) : (s.pick n).1.memoryOk := memoryOk_of_mem h (pick_mem ..)

/-- A choice is made only where there is one. -/
theorem State.memoryOk_pickIf {s : State} {p : Prop} [Decidable p] {n m : Nat} (h : s.memoryOk) :
    (if p then s.pick n else (s, m)).1.memoryOk := by
  split
  · exact memoryOk_pick h
  · exact h

theorem State.memoryOk_gatherUpd {s : State} {cid ctx kind prio key : Nat} {b : Word} (h : s.memoryOk) :
    (s.gatherUpd cid ctx kind prio key b).memoryOk := by
  have h1 : ((s.yieldLine cid (lineOf key)).sendUpd cid (fun u => u.line == lineOf key && u.kind != kind)).memoryOk :=
    memoryOk_sendUpd _ _ (memoryOk_yieldLine h)
  unfold State.gatherUpd
  exact memoryOk_ite h1 h1

theorem State.memoryOk_homeAtomic {s : State} {cid kind key : Nat} {coded : Bool} {b c : Word} (h : s.memoryOk) :
    (s.homeAtomic cid kind key coded b c).1.memoryOk := memoryOk_homeWrite _ _ (memoryOk_recall _ (memoryOk_yieldLine h))

theorem State.memoryOk_mayHold {s : State} {cid line sc : Nat} (h : s.memoryOk) : (s.mayHold cid line sc).memoryOk := by
  unfold State.mayHold
  exact memoryOk_ite (memoryOk_ite (memoryOk_pick h) (memoryOk_pick h)) h

theorem AmoRun.memoryOk_ite {p : Prop} [Decidable p] {r q : AmoRun} (hr : r.s.memoryOk) (hq : q.s.memoryOk) :
    (if p then r else q).s.memoryOk := by
  split
  · exact hr
  · exact hq

theorem AmoRun.memoryOk_step {iss : Issue} {w : Wave} {kind sc : Nat} {r : AmoRun} {a : Amo} (h : r.s.memoryOk) :
    (AmoRun.step iss w kind sc r a).s.memoryOk := by
  unfold AmoRun.step
  dsimp only
  split
  · rename_i key _ _
    split
    · exact memoryOk_ite (State.memoryOk_gatherUpd (State.memoryOk_pickIf h))
        (State.memoryOk_mayHold (State.memoryOk_homeAtomic (State.memoryOk_pickIf h)))
    · have yielded := State.memoryOk_yieldLine (cid := cidOf iss.wave) (line := lineOf key) h
      split
      · rw [send_s]
        exact State.memoryOk_sendTo ‹_› yielded
      · exact State.memoryOk_countLost _ yielded
  · exact State.memoryOk_putScratch _ _ _ _ h

theorem AmoRun.memoryOk_foldl {α : Type} {f : AmoRun → α → AmoRun} (hf : ∀ r x, r.s.memoryOk → (f r x).s.memoryOk) {r : AmoRun}
    (xs : List α) (h : r.s.memoryOk) : (xs.foldl f r).s.memoryOk := by
  induction xs generalizing r with
  | nil => exact h
  | cons x xs ih => exact ih (hf r x h)

theorem State.memoryOk_finishLanes {s : State} {iss : Issue} {w : Wave} {rs : List Reply} (h : s.memoryOk) :
    (s.finishLanes iss w rs).memoryOk := by
  unfold State.finishLanes
  split
  · exact h
  · split
    · exact h
    · exact memoryOk_retire _ _ h

theorem State.memoryOk_clearFor {s : State} {sc : Nat} {amos : List Amo} (h : s.memoryOk) : (s.clearFor sc amos).1.memoryOk := by
  have h1 : (s.clearAfar (amos.flatMap (fun a => a.place.tileKeys))).1.memoryOk := memoryOk_clearAfar h
  unfold State.clearFor
  split
  · exact memoryOk_of_fst ‹_› h1
  · have h2 := memoryOk_of_fst ‹_› h1
    split
    · exact h2
    · exact memoryOk_settleMarks h2

theorem State.memoryOk_issueAtomic {s : State} {iss : Issue} {w : Wave} {lanes : Word} {kind sc : Nat} {addr : Nat → Addr}
    {b c : Nat → Word} {cell : Nat → Option Nat} {acc : Access} (h : s.memoryOk) :
    (s.issueAtomic iss w lanes kind sc addr b c cell acc).memoryOk := by
  have h1 : (s.checkLanes iss.wave w acc (fun l => [addr l]) (lanesOf lanes) []).1.memoryOk := memoryOk_checkLanes h
  unfold State.issueAtomic
  split
  · exact memoryOk_finishLanes h
  · split
    · exact memoryOk_of_fst ‹_› h1
    · rename_i s1 got e
      have h2 := memoryOk_of_fst e h1
      dsimp only
      generalize (got.flatMap _ : List Amo) = amos
      have h3 : (s1.clearFor sc amos).1.memoryOk := memoryOk_clearFor h2
      split
      · exact h2
      · split
        · exact h2
        · split
          · exact memoryOk_of_fst ‹_› h3
          · have h4 := memoryOk_of_fst ‹_› h3
            have h5 := AmoRun.memoryOk_foldl (f := AmoRun.step iss w kind sc) (r := ⟨_, [], []⟩) (fun _ _ => AmoRun.memoryOk_step) amos h4
            split
            · exact memoryOk_finishLanes h5
            · exact memoryOk_retire _ _ h5

theorem keepsMemory_amo {s : State} {kind : Nat} {pair : Bool} {d a b : BitVec 7} {sc : BitVec 2} {t : Option (BitVec 6)}
    (h : s.memoryOk) : KeepsMemory (amo kind pair d a b sc t s) :=
  keepsMemory_runState _ _ h (fun _ _ _ => State.memoryOk_issueAtomic h)

theorem keepsMemory_amoNr {s : State} {kind : Nat} {pair : Bool} {a b : BitVec 7} {sc : BitVec 2} {t : Option (BitVec 6)}
    (h : s.memoryOk) : KeepsMemory (amoNr kind pair a b sc t s) :=
  keepsMemory_runState _ _ h (fun _ _ _ => State.memoryOk_issueAtomic h)

/-! ### ACCB (06 R191) -/

theorem State.memoryOk_requestJoin {s : State} {cid : Nat} {a : Add} (h : s.memoryOk) : (s.requestJoin cid a).memoryOk :=
  memoryOk_of_mem h (requestJoin_mem ..)

theorem State.memoryOk_accbLane {s : State} {cid : Nat} {a : Add} {busy : Bool} (h : s.memoryOk) : (s.accbLane cid a busy).1.memoryOk := by
  have h1 := memoryOk_yieldLine (cid := cid) (line := 2 * a.tile + a.elem / 32) h
  unfold State.accbLane
  dsimp only
  split
  · exact memoryOk_countLost _ h1
  · split
    · rename_i e
      cases busy with
      | true => cases e
      | false => exact memoryOk_of_mem h1 (tryAdd_mem e)
    · exact memoryOk_ite (memoryOk_requestJoin h1) h1

theorem AccRun.memoryOk_step {iss : Issue} {w : Wave} {r : AccRun} {x : Amo} (h : r.s.memoryOk) : (AccRun.step iss w r x).s.memoryOk := by
  unfold AccRun.step
  dsimp only
  split
  · exact State.memoryOk_accbLane h
  · exact AmoRun.memoryOk_step h

theorem AccRun.memoryOk_foldl {iss : Issue} {w : Wave} {r : AccRun} (xs : List Amo) (h : r.s.memoryOk) :
    (xs.foldl (AccRun.step iss w) r).s.memoryOk := by
  induction xs generalizing r with
  | nil => exact h
  | cons x xs ih => exact ih (memoryOk_step h)

theorem keepsMemory_execAccb {s : State} {d a : BitVec 7} {i : BitVec 11} (h : s.memoryOk) : KeepsMemory (execAccb d a i s) := by
  refine keepsMemory_runState _ _ h (fun iss lanes w => ?_)
  have h1 := State.memoryOk_checkLanes (k := iss.wave) (w := w) (acc := ⟨4, 4, false, true, .rw, true⟩)
    (addrs := fun l => [w.fbAddr iss a i 4 l]) (ls := lanesOf lanes) (got := []) h
  dsimp only
  split
  · exact State.memoryOk_of_fst ‹_› h1
  · have h2 := State.memoryOk_of_fst ‹_› h1
    split
    · exact h2
    · split
      · exact h2
      · exact State.memoryOk_retire _ _ (AccRun.memoryOk_foldl (r := ⟨_, [], []⟩) _ h2)

/-! ### Rings (06 R195, R196) -/

theorem State.memoryOk_readBlock {s : State} {cid key : Nat} {coded : Bool} (h : s.memoryOk) : (s.readBlock cid key coded).1.memoryOk := by
  have h1 := memoryOk_yieldLine (cid := cid) (line := lineOf key) h
  unfold State.readBlock
  dsimp only
  split
  · exact h1
  · exact memoryOk_tileReadAs _ _ _ _ _ h1

theorem State.memoryOk_checkElems {s : State} {k : Nat} {w : Wave} {lane : Nat} {acc : Access} {as : List Addr} (h : s.memoryOk) :
    (s.checkElems k w lane acc as).1.memoryOk := memoryOk_of_mem h (checkElems_mem ..)

theorem State.memoryOk_checkRings {s : State} {k : Nat} {w : Wave} {addr : Nat → Addr} {ls : List Nat} {got : List RingLane}
    (h : s.memoryOk) : (s.checkRings k w addr ls got).1.memoryOk := by
  induction ls generalizing s got with
  | nil => exact h
  | cons l ls ih =>
    have h1 := memoryOk_checkElems (k := k) (w := w) (lane := l) (acc := Access.ring) (as := [addr l]) h
    unfold State.checkRings
    split
    · exact memoryOk_of_fst ‹_› h1
    · have h2 := memoryOk_of_fst ‹_› h1
      split
      · rename_i key coded _ _ _ _
        have h3 := memoryOk_readBlock (cid := cidOf k) (key := key) (coded := coded) h2
        split
        · exact h2
        · split
          · exact memoryOk_of_fst ‹_› h3
          · exact memoryOk_of_fst ‹_› h3
          · have h4 := memoryOk_of_fst ‹_› h3
            split
            · exact h4
            · exact ih h4
      · exact h2

theorem State.memoryOk_entryPages {s : State} {tlb ctx fuel va last : Nat} {got : List (Nat × Bool)} (h : s.memoryOk) :
    (s.entryPages tlb ctx fuel va last got).1.memoryOk := by
  induction fuel generalizing s va got with
  | zero => exact h
  | succ fuel ih =>
    have h1 := memoryOk_virtual tlb ctx va .rw h
    unfold State.entryPages
    split
    · exact h
    · split
      · exact h
      · split
        · exact ih (memoryOk_of_fst ‹_› h1)
        · exact memoryOk_of_fst ‹_› h1
        · exact memoryOk_of_fst ‹_› h1

theorem State.memoryOk_checkEntries {s : State} {tlb ctx : Nat} {rs got : List RingLane} (h : s.memoryOk) :
    (s.checkEntries tlb ctx rs got).1.memoryOk := by
  induction rs generalizing s got with
  | nil => exact h
  | cons r rs ih =>
    have h1 : (s.entryPages tlb ctx (r.ring.cap / 1024 + 2) r.ring.base (r.ring.base + 4 * r.ring.cap - 1) []).1.memoryOk :=
      memoryOk_entryPages h
    unfold State.checkEntries
    split
    · exact memoryOk_of_fst ‹_› h1
    · exact ih (memoryOk_of_fst ‹_› h1)

theorem State.memoryOk_checkTaken {s : State} {es : List (Nat × Addr × Nat × Bool)} (h : s.memoryOk) : (s.checkTaken es).1.memoryOk := by
  induction es generalizing s with
  | nil => exact h
  | cons e es ih =>
    obtain ⟨l, va, key, coded⟩ := e
    have h1 := memoryOk_tileReadAs 0 31 key 4 coded h
    unfold State.checkTaken
    split
    · exact ih (memoryOk_of_fst ‹_› h1)
    · exact memoryOk_of_fst ‹_› h1
    · exact memoryOk_of_fst ‹_› h1

theorem State.memoryOk_ringAct {s : State} {enq : Bool} {key : Nat} {coded : Bool} {base log2cap : Nat}
    {entry : Nat → Option (Nat × Bool)} {b : Word} (h : s.memoryOk) : (s.ringAct enq key coded base log2cap entry b).1.memoryOk := by
  have h1 := memoryOk_recall key h
  unfold State.ringAct
  dsimp only
  split
  · exact h1
  · split
    · exact h1
    · split
      · split
        · exact h1
        · split
          · exact h1
          · exact memoryOk_write _ _ _ (memoryOk_write _ _ _ h1)
      · split
        · exact h1
        · split
          · exact h1
          · rename_i k c _
            have h2 := memoryOk_tileReadAs 0 31 k 4 c h1
            split
            · exact memoryOk_of_fst ‹_› h2
            · exact memoryOk_of_fst ‹_› h2
            · exact memoryOk_write _ _ _ (memoryOk_of_fst ‹_› h2)

theorem State.memoryOk_ringStep {s : State} {enq : Bool} {r : RingLane} {b : Word} (h : s.memoryOk) : (s.ringStep enq r b).1.memoryOk := by
  have h1 : (s.ringAct enq r.key r.coded r.ring.base r.ring.log2cap (fun i => some (r.entry i)) b).1.memoryOk := memoryOk_ringAct h
  unfold State.ringStep
  split <;> exact memoryOk_of_fst ‹_› h1

theorem State.memoryOk_askRings {s : State} {uid : Nat} {iss : Issue} {cls : Nat} {rs : List Reply} (h : s.memoryOk) :
    (s.askRings uid iss cls rs).1.memoryOk := by
  induction rs with
  | nil => exact h
  | cons r rs ih =>
    unfold State.askRings
    split
    · exact ih
    · split
      · exact h
      · split
        · exact h
        · split
          · exact memoryOk_sendTo ‹_› h
          · exact h

theorem AmoRun.memoryOk_ring {iss : Issue} {enq : Bool} {scope : Nat} {r : AmoRun} {x : RingLane} {b : Word} {cell : Nat}
    (h : r.s.memoryOk) : (r.ring iss enq scope x b cell).s.memoryOk := by
  have h1 := State.memoryOk_yieldLine (cid := cidOf iss.wave) (line := lineOf x.key) h
  unfold AmoRun.ring
  dsimp only
  split
  · exact State.memoryOk_ringStep h1
  · exact h1

theorem State.memoryOk_dropRingLines {s : State} {rs : List RingLane} (h : s.memoryOk) : (s.dropRingLines rs).memoryOk := by
  refine memoryOk_foldl (fun u _ hu => ?_) _ h
  exact hu

theorem keepsMemory_ringInstr {s : State} {enq : Bool} {d a b : BitVec 7} {sc : BitVec 2} (h : s.memoryOk) :
    KeepsMemory (ringInstr enq d a b sc s) := by
  refine keepsMemory_runState _ _ h (fun iss lanes w => ?_)
  have h1 : (s.checkRings iss.wave w (w.pair a) (lanesOf lanes) []).1.memoryOk := State.memoryOk_checkRings h
  split
  · exact State.memoryOk_finishLanes h
  · split
    · exact State.memoryOk_of_fst ‹_› h1
    · exact State.memoryOk_of_fst ‹_› h1
    · rename_i s2 rs e
      have h2 : (s2.checkEntries (cidOf iss.wave) w.ctx rs []).1.memoryOk := State.memoryOk_checkEntries (State.memoryOk_of_fst e h1)
      split
      · exact State.memoryOk_of_fst ‹_› h2
      · exact State.memoryOk_of_fst ‹_› h2
      · rename_i s3 rs e
        have h3 := State.memoryOk_of_fst e h2
        have h4 : (s3.clearAfar (rs.flatMap (fun r => r.key :: r.reach enq rs.length))).1.memoryOk := State.memoryOk_clearAfar h3
        split
        · exact h3
        · split
          · exact State.memoryOk_of_fst ‹_› h4
          · rename_i s4 e
            have h5 : (s4.checkTaken (if enq then [] else s4.takenEntries rs)).1.memoryOk :=
              State.memoryOk_checkTaken (State.memoryOk_of_fst e h4)
            split
            · exact State.memoryOk_of_fst ‹_› h5
            · exact State.memoryOk_of_fst ‹_› h5
            · exact State.memoryOk_finishLanes (State.memoryOk_askRings (State.memoryOk_dropRingLines
                (AmoRun.memoryOk_foldl (r := ⟨_, [], []⟩) (fun _ _ => AmoRun.memoryOk_ring) _ (State.memoryOk_of_fst ‹_› h5))))

/-! ### Monitors, boundaries, completion (06 R197 to R200; 01 R37, R44) -/

theorem State.memoryOk_addMonitor {s : State} {m : Mon} (h : s.memoryOk) : (s.addMonitor m).memoryOk := by
  unfold State.addMonitor
  dsimp only
  split
  · exact h
  · split <;> exact h

theorem keepsMemory_execMonw {s : State} {k : BitVec 4} {a b : BitVec 7} {c : BitVec 2} (h : s.memoryOk) :
    KeepsMemory (execMonw k a b c s) := by
  refine keepsMemory_runState _ _ h (fun iss lanes w => ?_)
  have h1 := State.memoryOk_checkLanes (k := iss.wave) (w := w) (acc := ⟨4, 4, false, false, .r, false⟩)
    (addrs := fun l => [w.pair a l]) (ls := [lowest lanes]) (got := []) h
  dsimp only
  split
  · exact State.memoryOk_of_fst ‹_› h1
  · have h2 := State.memoryOk_of_fst ‹_› h1
    split
    · rename_i key coded _ _ _
      have h3 := State.memoryOk_yieldLine (cid := cidOf iss.wave) (line := lineOf key) h2
      have h4 := State.memoryOk_tileReadAs 0 31 key 4 coded h3
      split
      · exact h2
      · split
        · split
          · exact State.memoryOk_of_fst ‹_› h4
          · exact State.memoryOk_of_fst ‹_› h4
          · have h5 := State.memoryOk_of_fst ‹_› h4
            split
            · exact State.memoryOk_retire _ _ h5
            · exact State.memoryOk_retire _ _ (State.memoryOk_addMonitor h5)
        · split
          · exact State.memoryOk_retire _ _ (State.memoryOk_sendTo ‹_› h3)
          · exact h3
    · exact h2

theorem State.memoryOk_askLeave {s : State} {tile : Nat} (h : s.memoryOk) : (s.askLeave tile).memoryOk := memoryOk_of_mem h (askLeave_mem ..)

theorem memoryOk_evMonwRecheck {s : State} {n : Nat} (h : s.memoryOk) : (evMonwRecheck n s).memoryOk := by
  refine State.memoryOk_foldl (fun s m hs => ?_) _ h
  have h1 := State.memoryOk_recallLine (lineOf m.key) (State.memoryOk_settleTile m.key 31 hs)
  exact State.memoryOk_ite (State.memoryOk_askLeave hs) (State.memoryOk_ite (State.memoryOk_wake _ h1) h1)

theorem keepsMemory_execPhase {s : State} {c : BitVec 2} (h : s.memoryOk) : KeepsMemory (execPhase c s) := by
  refine keepsMemory_runState _ _ h (fun iss _ w => ?_)
  have h1 := State.memoryOk_boundary (cidOf iss.wave) w c.toNat h
  split
  · exact State.memoryOk_retire _ _ (State.memoryOk_of_fst ‹_› h1)
  · exact State.memoryOk_of_fst ‹_› h1

theorem State.memoryOk_dropClean {s : State} {cid : Nat} (h : s.memoryOk) : (s.dropClean cid).memoryOk := h

theorem State.memoryOk_releaseBarrier {s : State} {gk : Nat} (h : s.memoryOk) : (s.releaseBarrier gk).memoryOk := by
  unfold State.releaseBarrier
  split
  · exact h
  · dsimp only
    split
    · exact memoryOk_foldl (fun _ _ => memoryOk_dropClean) _ h
    · exact h

theorem keepsMemory_execBar {s : State} {c : BitVec 1} (h : s.memoryOk) : KeepsMemory (execBar c s) := by
  refine keepsMemory_runState _ _ h (fun iss _ w => ?_)
  have h1 := State.memoryOk_boundary (cidOf iss.wave) w c.toNat h
  split
  · have h2 := State.memoryOk_of_fst ‹_› h1
    exact State.memoryOk_releaseBarrier h2
  · exact State.memoryOk_of_fst ‹_› h1

theorem memoryOk_evLoadLands {s : State} {k i : Nat} (h : s.memoryOk) : (evLoadLands k i s).memoryOk := by
  unfold evLoadLands
  split
  · exact h
  · split
    · exact h
    · split
      · exact State.memoryOk_ite (State.memoryOk_takeTrap _ _ _ _ h) h
      · exact h

theorem memoryOk_evStorePerformed {s : State} {k i : Nat} (h : s.memoryOk) : (evStorePerformed k i s).memoryOk := by
  unfold evStorePerformed
  split
  · exact h
  · dsimp only
    split
    · exact h
    · split
      · exact State.memoryOk_flushDirty _ _ h
      · exact State.memoryOk_ite (State.memoryOk_flushDirty _ _ (State.memoryOk_pickIf h)) (State.memoryOk_pickIf h)

end Sys2Proof.Machine

/-! The ray pool and the Launch Unit keep the canonical form of memory (07 R225 to R234; 10 R296 to R305; 11 R318 to R344). -/

namespace Sys2Proof.Machine

/-! ### Writes of a context's memory in a traffic class (14 R393) -/

theorem State.memoryOk_writeVirtualAs {s : State} {tlb ctx va : Nat} {bs : List Byte} {cls : Nat} (h : s.memoryOk) :
    (s.writeVirtual tlb ctx va bs cls).1.memoryOk := by
  have h1 := memoryOk_range tlb ctx .w (bs.length / 128 + 2) va bs.length [] h
  unfold State.writeVirtual
  split
  · exact memoryOk_of_fst ‹_› h1
  · rename_i s1 ps e
    have written (ps : List (Nat × Nat × Bool)) (r : (State × List Nat) × Nat) (hr : r.1.1.memoryOk) :
        (ps.foldl (fun (r : (State × List Nat) × Nat) p =>
          let (s', ts) := r.1.1.writeAs cls (cellsAt p.1 ((bs.drop r.2).take p.2.1)) p.2.2 .other
          ((s', r.1.2 ++ ts), r.2 + p.2.1)) r).1.1.memoryOk := by
      induction ps generalizing r with
      | nil => exact hr
      | cons p ps ih => exact ih _ (memoryOk_writeAs _ _ _ _ hr)
    exact written ps ((s1, []), 0) (memoryOk_of_fst e h1)

/-! ### Records of the pool (11 R321 to R326) -/

theorem State.memoryOk_release {s : State} {b : Bound} (h : s.memoryOk) : (s.release b).memoryOk := memoryOk_of_mem h (release_mem ..)

theorem State.memoryOk_freeRay {s : State} {id : Nat} (h : s.memoryOk) : (s.freeRay id).memoryOk := by
  unfold State.freeRay
  split
  · exact h
  · exact memoryOk_of_mem h (freeUp_mem ..)

theorem State.memoryOk_unitFaultFst {s : State} {ctx : Nat} {cause : Cause} {source : Nat} {fill : TrapRec → TrapRec}
    {pend : Pending → Pending} (h : s.memoryOk) : (s.unitFault ctx cause source fill pend).1.memoryOk := memoryOk_unitFault _ _ _ _ _ h

theorem State.memoryOk_quotaFault {s : State} {cl ctx va : Nat} (h : s.memoryOk) : (s.quotaFault cl ctx va).memoryOk := by
  unfold State.quotaFault
  split
  · exact h
  · exact memoryOk_ite h (memoryOk_unitFaultFst h)

theorem State.memoryOk_spoilRange {s : State} {ctx va n : Nat} (h : s.memoryOk) : (s.spoilRange ctx va n).memoryOk := by
  have h1 := memoryOk_range deviceTlb ctx .w (n / 128 + 2) va n [] h
  unfold State.spoilRange
  split
  · exact memoryOk_foldl (fun _ => memoryOk_spoilLine) _ (memoryOk_of_fst ‹_› h1)
  · exact memoryOk_of_fst ‹_› h1

theorem State.memoryOk_spillRay {s : State} {cl ctx : Nat} {reclaim : Bool} (h : s.memoryOk) : (s.spillRay cl ctx reclaim).1.memoryOk := by
  unfold State.spillRay
  split
  · rename_i c id r _ _
    dsimp only
    generalize c.ringbase.toNat + 256 * (c.ringsize * cl + (if c.ringsize = 0 then 0 else c.ringTail.get 0 cl % c.ringsize)) = va
    have h1 : (s.writeVirtual deviceTlb ctx va (ringEntry r) (s.prioOf r.lid)).1.memoryOk := memoryOk_writeVirtualAs h
    split
    · exact memoryOk_ite (memoryOk_quotaFault h) h
    · split
      · exact memoryOk_of_fst ‹_› h1
      · exact memoryOk_quotaFault (memoryOk_of_fst ‹_› h1)
      · have h2 := memoryOk_of_fst ‹_› h1
        exact memoryOk_modCtx _ _ (memoryOk_ite (memoryOk_spoilRange h2) h2)
  · exact h

theorem State.memoryOk_fairSlot {s : State} {cl ctx : Nat} (h : s.memoryOk) : (s.fairSlot cl ctx).1.memoryOk := by
  unfold State.fairSlot
  split
  · exact h
  · dsimp only
    split
    · split
      · exact h
      · split
        · exact h
        · rename_i v _
          have h1 : (s.spillRay cl v true).1.memoryOk := memoryOk_spillRay h
          split <;> exact memoryOk_of_fst ‹_› h1
    · exact h

theorem State.memoryOk_poolSlot {s : State} {cl ctx : Nat} (h : s.memoryOk) : (s.poolSlot cl ctx).1.memoryOk := by
  have h1 : (s.spillRay cl ctx false).1.memoryOk := memoryOk_spillRay h
  unfold State.poolSlot
  split
  · exact h
  · split
    · split
      · exact memoryOk_fairSlot (memoryOk_of_fst ‹_› h1)
      · exact memoryOk_of_fst ‹_› h1
    · exact memoryOk_fairSlot h

/-! ### Invariant reads of the units (11 R343, R344) -/

theorem State.memoryOk_fetchInvariant {s : State} {unit ctx cls line va : Nat} {coded : Bool} (h : s.memoryOk) :
    (s.fetchInvariant unit ctx cls line va coded).1.memoryOk := by
  have h1 := memoryOk_tileReadAs cls 31 (128 * line) 128 coded h
  unfold State.fetchInvariant
  split
  · exact memoryOk_of_fst ‹_› h1
  · exact memoryOk_of_fst ‹_› h1
  · have h2 := memoryOk_of_fst ‹_› h1
    exact memoryOk_ite (memoryOk_mark _ _ h2) h2

theorem State.memoryOk_invariantLine {s : State} {unit ctx cls line va : Nat} {coded : Bool} (h : s.memoryOk) :
    (s.invariantLine unit ctx cls line va coded).1.memoryOk := by
  unfold State.invariantLine
  split
  · exact memoryOk_fetchInvariant h
  · have h1 : (s.pick 2).1.memoryOk := memoryOk_pick h
    dsimp only
    split
    · exact memoryOk_fetchInvariant h1
    · split <;> exact h1

theorem State.memoryOk_invariantPieces {s : State} {unit ctx cls va : Nat} {ps : List (Nat × Nat × Bool)} {got : List Byte}
    (h : s.memoryOk) : (s.invariantPieces unit ctx cls va ps got).1.memoryOk := by
  induction ps generalizing s va got with
  | nil => exact h
  | cons p ps ih =>
    obtain ⟨key, n, coded⟩ := p
    have h1 : (s.invariantLine unit ctx cls (lineOf key) va coded).1.memoryOk := memoryOk_invariantLine h
    unfold State.invariantPieces
    split
    · exact memoryOk_of_fst ‹_› h1
    · exact ih (memoryOk_of_fst ‹_› h1)

theorem State.memoryOk_invariantRead {s : State} {unit ctx cls va n : Nat} (h : s.memoryOk) :
    (s.invariantRead unit ctx cls va n).1.memoryOk := by
  have h1 := memoryOk_range deviceTlb ctx .r (n / 128 + 2) va n [] h
  unfold State.invariantRead
  split
  · exact memoryOk_of_fst ‹_› h1
  · exact memoryOk_invariantPieces (memoryOk_of_fst ‹_› h1)

/-! ### Bins (11 R339 to R341) -/

theorem State.memoryOk_modRay {s : State} {id : Nat} {f : Ray → Ray} (h : s.memoryOk) : (s.modRay id f).memoryOk := h

theorem State.memoryOk_formWave {s : State} {bin : Nat} (h : s.memoryOk) : (s.formWave bin).memoryOk := by
  unfold State.formWave
  split
  · exact h
  · exact memoryOk_foldl (fun _ _ => memoryOk_modRay) _ h

theorem State.memoryOk_enterBin {s : State} {id : Nat} (h : s.memoryOk) : (s.enterBin id).memoryOk := by
  unfold State.enterBin
  split
  · exact h
  · dsimp only
    split
    · exact memoryOk_ite (memoryOk_formWave h) h
    · split
      · split
        · exact memoryOk_formWave h
        · exact h
      · exact h

theorem State.memoryOk_pressBins {s : State} {cl ctx : Nat} (h : s.memoryOk) : (s.pressBins cl ctx).memoryOk := by
  unfold State.pressBins
  split
  · exact h
  · split
    · exact memoryOk_formWave h
    · exact h

theorem memoryOk_evBinAgeFlush {s : State} {bin : Nat} (h : s.memoryOk) : (evBinAgeFlush bin s).memoryOk := by
  unfold evBinAgeFlush
  split
  · exact h
  · exact State.memoryOk_ite (State.memoryOk_formWave h) h

theorem memoryOk_evRayRefill {s : State} {cl ctx : Nat} (h : s.memoryOk) : (evRayRefill cl ctx s).memoryOk := by
  have h1 : (s.fairSlot cl ctx).1.memoryOk := State.memoryOk_fairSlot h
  unfold evRayRefill
  split
  · exact h
  · rename_i c _
    split
    · exact h
    · split
      · exact h
      · rename_i held _
        dsimp only
        split
        · exact State.memoryOk_of_fst ‹_› h1
        · rename_i s0 _ e
          have h2 := State.memoryOk_readVirtual deviceTlb ctx (c.ringbase.toNat + 256 * (c.ringsize * cl + c.ringHead.get 0 cl % c.ringsize)) 256
            (s.prioOf held.lid) (State.memoryOk_of_fst e h1)
          split
          · exact State.memoryOk_of_fst ‹_› h2
          · exact State.memoryOk_quotaFault (State.memoryOk_of_fst ‹_› h2)
          · have h3 := State.memoryOk_of_fst ‹_› h2
            exact State.memoryOk_ite (State.memoryOk_quotaFault h3) (State.memoryOk_ite (State.memoryOk_enterBin h3) h3)

/-! ### Launches (08 R251, R258; 10 R296 to R305) -/

theorem State.memoryOk_readShaders {s : State} {ctx cls : Nat} {r : LaunchRecord} {count : Nat} (h : s.memoryOk) :
    (s.readShaders ctx cls r count).1.memoryOk := by
  have h1 : (s.invariantRead 8 ctx cls (r.shtab.toNat - 64) (64 + 16 * count)).1.memoryOk := memoryOk_invariantRead h
  unfold State.readShaders
  split
  · exact h
  · split
    · exact h
    · split
      · exact memoryOk_of_fst ‹_› h1
      · exact memoryOk_of_fst ‹_› h1
      · have h2 := memoryOk_of_fst ‹_› h1
        dsimp only
        split <;> exact h2

theorem State.memoryOk_checkLaunch {s : State} {ctx : Nat} {child : Bool} {lo hi : Except Addr (List Byte)} (h : s.memoryOk) :
    (s.checkLaunch ctx child lo hi).1.memoryOk := by
  unfold State.checkLaunch
  dsimp only
  split
  · exact h
  · exact h
  · exact h
  · rename_i a b
    have h1 : (s.readShaders ctx (if child then 0 else (parseLaunch (a ++ b)).prio) (parseLaunch (a ++ b)) (fieldAt (a ++ b) 48 4)).1.memoryOk :=
      memoryOk_readShaders h
    split
    · exact h
    · split
      · exact h
      · split <;> exact memoryOk_of_fst ‹_› h1

theorem State.memoryOk_setRegions {s : State} {ctx : Nat} {r : Except Bad (List Byte)} (h : s.memoryOk) : (s.setRegions ctx r).1.memoryOk := by
  unfold State.setRegions
  split
  · exact h
  · exact h
  · rename_i bs
    have h1 : (if (s.ctxs.find? ctx).map Ctx.regions = some (parseRegions bs) then s else s.leaveTiles ctx).memoryOk :=
      memoryOk_ite h (memoryOk_leaveTiles _ h)
    dsimp only
    generalize (if (s.ctxs.find? ctx).map Ctx.regions = some (parseRegions bs) then s else s.leaveTiles ctx) = s1 at h1
    split <;> exact h1

theorem State.memoryOk_loadRegions {s : State} {ctx cls : Nat} (h : s.memoryOk) : (s.loadRegions ctx cls).1.memoryOk := by
  unfold State.loadRegions
  split
  · exact h
  · exact memoryOk_setRegions (memoryOk_readVirtual _ _ _ _ _ h)

theorem State.memoryOk_startLaunch {s : State} {l : Launch} (h : s.memoryOk) : (s.startLaunch l).1.memoryOk := by
  have h1 : (s.loadRegions l.ctx l.prio).1.memoryOk := memoryOk_loadRegions h
  unfold State.startLaunch
  split
  · exact memoryOk_of_fst ‹_› h1
  · rename_i s1 e
    have h2 : (s1.readShaders l.ctx l.prio l.record l.shaders.length).1.memoryOk := memoryOk_readShaders (memoryOk_of_fst e h1)
    split <;> exact memoryOk_of_fst ‹_› h2

theorem State.memoryOk_acceptLaunch {s : State} {ctx : Nat} {parent : Option Nat} {depth cap : Nat} {queue previous : Option Nat}
    {c : Checked} (h : s.memoryOk) : (s.acceptLaunch ctx parent depth cap queue previous c).1.memoryOk := h

theorem State.memoryOk_launchFault {s : State} {ctx : Nat} {lid : Word} {a : Addr} (h : s.memoryOk) : (s.launchFault ctx lid a).1.memoryOk :=
  memoryOk_unitFaultFst h

theorem State.memoryOk_checkQueue {s : State} {n : Nat} (h : s.memoryOk) : (s.checkQueue n).1.memoryOk := by
  have h1 := memoryOk_readVirtual deviceTlb (s.lqueue n).ctx (s.lqueue n).ring.toNat 32 0 h
  unfold State.checkQueue
  dsimp only
  split
  · exact memoryOk_launchFault h
  · split
    · have h2 := memoryOk_of_fst ‹_› h1
      exact h2
    · have h2 := memoryOk_of_fst ‹_› h1
      exact memoryOk_launchFault h2
    · have h2 := memoryOk_of_fst ‹_› h1
      split
      · exact memoryOk_launchFault h2
      · exact h2

theorem memoryOk_evLqbell {s : State} {n : Nat} (h : s.memoryOk) : (evLqbell n s).memoryOk := by
  unfold evLqbell
  exact State.memoryOk_ite (State.memoryOk_checkQueue h) h

theorem memoryOk_evLaunchAccept {s : State} {n : Nat} (h : s.memoryOk) : (evLaunchAccept n s).memoryOk := by
  have h1 : (s.checkQueue n).1.memoryOk := State.memoryOk_checkQueue h
  unfold evLaunchAccept
  split
  · exact h
  · split
    · exact h1
    · split
      · exact h
      · split
        · rename_i s1 ring e
          have h2 := State.memoryOk_of_fst e h1
          split
          · exact h2
          · dsimp only
            have h3 := State.memoryOk_readVirtual deviceTlb (s1.lqueue n).ctx (ring.base + 128 * (ring.head % ring.cap) + 64) 64 0
              (State.memoryOk_readVirtual deviceTlb (s1.lqueue n).ctx (ring.base + 128 * (ring.head % ring.cap)) 64 0 h2)
            split
            · rename_i lo hi _ _
              have h4 := State.memoryOk_checkLaunch (ctx := (s1.lqueue n).ctx) (child := false) (lo := lo) (hi := hi) h3
              split
              · exact State.memoryOk_of_fst ‹_› h4
              · rename_i s4 c e
                have h5 : (s4.writeVirtual deviceTlb (s1.lqueue n).ctx ((s1.lqueue n).ring.toNat + 16)
                    (bytesOf 4 ((ring.head + 1) % 2 ^ 32))).1.memoryOk := State.memoryOk_writeVirtualAs (State.memoryOk_of_fst e h4)
                split
                · have h6 := State.memoryOk_of_fst ‹_› h5
                  exact State.memoryOk_launchFault h6
                · have h6 := State.memoryOk_of_fst ‹_› h5
                  exact h6
            · exact h3
        · exact State.memoryOk_of_fst ‹_› h1

theorem State.memoryOk_flushContext {s : State} {ctx : Nat} (h : s.memoryOk) : (s.flushContext ctx).memoryOk :=
  memoryOk_foldl (fun _ _ hs => memoryOk_sendUpd _ _ (memoryOk_flushDirty _ _ hs)) _ h

theorem State.memoryOk_oweSent {s old : State} {lid ctx : Nat} (h : s.memoryOk) : (s.oweSent lid ctx old).memoryOk := by
  unfold State.oweSent
  exact memoryOk_ite h h

theorem State.memoryOk_failLaunch {s : State} {lid : Nat} {l : Launch} {a : Addr} (h : s.memoryOk) : (s.failLaunch lid l a).memoryOk := by
  have h1 := memoryOk_launchFault (ctx := l.ctx) (lid := BitVec.ofNat 32 lid) (a := a) h
  unfold State.failLaunch
  exact memoryOk_ite h1 h1

theorem State.memoryOk_reportLaunch {s : State} {lid : Nat} {l : Launch} (h : s.memoryOk) : (s.reportLaunch lid l).memoryOk := by
  have h1 := memoryOk_readVirtual deviceTlb l.ctx l.record.evq.toNat 32 l.prio h
  unfold State.reportLaunch
  split
  · exact memoryOk_ite h h
  · exact memoryOk_failLaunch h
  · dsimp only
    split
    · exact memoryOk_of_fst ‹_› h1
    · exact memoryOk_failLaunch (memoryOk_of_fst ‹_› h1)
    · rename_i s1 bs e
      have h2 := memoryOk_of_fst e h1
      split
      · exact memoryOk_failLaunch h2
      · rename_i ring _
        split
        · exact h2
        · have h3 : (s1.writeVirtual deviceTlb l.ctx (ring.base + 32 * (ring.tail % ring.cap)) (l.completion lid) l.prio).1.memoryOk :=
            memoryOk_writeVirtualAs h2
          split
          · exact memoryOk_failLaunch (memoryOk_of_fst ‹_› h3)
          · rename_i s2 _ e
            have h4 : (s2.writeVirtual deviceTlb l.ctx (l.record.evq.toNat + 20) (bytesOf 4 ((ring.tail + 1) % 2 ^ 32)) l.prio).1.memoryOk :=
              memoryOk_writeVirtualAs (memoryOk_of_fst e h3)
            split
            · exact memoryOk_failLaunch (memoryOk_of_fst ‹_› h4)
            · have h5 := memoryOk_of_fst ‹_› h4
              split
              · exact memoryOk_oweSent h5
              · exact h5

theorem memoryOk_evLaunchComplete {s : State} {lid : Nat} (h : s.memoryOk) : (evLaunchComplete lid s).memoryOk := by
  unfold evLaunchComplete
  split
  · exact h
  · rename_i l _
    have h1 : ((s.flushContext l.ctx).oweSent lid l.ctx s).memoryOk := State.memoryOk_oweSent (State.memoryOk_flushContext h)
    dsimp only
    split
    · exact State.memoryOk_ite h (State.memoryOk_reportLaunch h)
    · split
      · exact State.memoryOk_ite h1 (State.memoryOk_ite h1 (State.memoryOk_reportLaunch h1))
      · exact h

end Sys2Proof.Machine

/-! Tables, prefetch, placement and retirement keep the canonical form of memory (05 R161 to R163; 10 R306 to R313; 01 R25). -/

namespace Sys2Proof.Machine

/-! ### Pattern tables and prefetch (05 R161 to R163; 07 R237) -/

theorem State.memoryOk_checkElem {s : State} {k : Nat} {w : Wave} {lane : Nat} {acc : Access} {a : Addr} (h : s.memoryOk) :
    (s.checkElem k w lane acc a).1.memoryOk := memoryOk_of_mem h (checkElem_mem ..)

theorem State.memoryOk_readTable {s : State} {k : Nat} {w : Wave} {l : Nat} {a : Addr} (h : s.memoryOk) : (s.readTable k w l a).1.memoryOk := by
  have h1 : (s.checkElem k w l Access.table a).1.memoryOk := memoryOk_checkElem h
  unfold State.readTable
  split
  · exact memoryOk_of_fst ‹_› h1
  · rename_i s1 p e
    have h2 : ((s1.anew k [p]).readPlace (cidOf k) w p 128).1.memoryOk := memoryOk_readPlace (memoryOk_anew (memoryOk_of_fst e h1))
    split
    · rename_i s3 _ e
      have h3 : (s3.readPlace (cidOf k) w (p.plus 128) 128).1.memoryOk := memoryOk_readPlace (memoryOk_of_fst e h2)
      split <;> exact memoryOk_of_fst ‹_› h3
    · exact memoryOk_of_fst ‹_› h2
    · exact memoryOk_of_fst ‹_› h2

theorem State.memoryOk_cacheTable {s : State} {cid ctx : Nat} {a : Addr} {bs : List Byte} (h : s.memoryOk) :
    (s.cacheTable cid ctx a bs).memoryOk := h

theorem keepsMemory_execXptl {s : State} {n : BitVec 4} {a : BitVec 7} {g : BitVec 2} (h : s.memoryOk) : KeepsMemory (execXptl n a g s) := by
  refine keepsMemory_runState _ _ h (fun iss lanes w => ?_)
  have h1 : (s.readTable iss.wave w (lowest lanes) (w.pair a (lowest lanes))).1.memoryOk := State.memoryOk_readTable h
  dsimp only
  split
  · exact State.memoryOk_of_fst ‹_› h1
  · exact State.memoryOk_of_fst ‹_› h1
  · exact State.memoryOk_of_fst ‹_› h1
  · have h2 := State.memoryOk_of_fst ‹_› h1
    split
    · exact h2
    · exact State.memoryOk_retire _ _ (State.memoryOk_cacheTable h2)

theorem State.memoryOk_boundTable {s : State} {k : Nat} {w : Wave} {l : Nat} {a : Addr} (h : s.memoryOk) :
    (s.boundTable k w l a).1.memoryOk := by
  unfold State.boundTable
  dsimp only
  split
  · split
    · exact memoryOk_pick h
    · exact h
  · split
    all_goals
      rename_i e
      have read := memoryOk_of_fst e (memoryOk_readTable (by split; exacts [memoryOk_pick h, h]))
      exact read

theorem keepsMemory_execXbar {s : State} {d a : BitVec 7} {n : BitVec 4} {g hold : BitVec 2} (h : s.memoryOk) :
    KeepsMemory (execXbar d a n g hold s) := by
  refine keepsMemory_runState _ _ h (fun iss lanes w => ?_)
  have h1 : (s.boundTable iss.wave w (lowest lanes) (w.patterns.get 0 n.toNat)).1.memoryOk := State.memoryOk_boundTable h
  split
  · exact State.memoryOk_of_fst ‹_› h1
  · have h2 := State.memoryOk_of_fst ‹_› h1
    split
    · exact h2
    · exact State.memoryOk_retire _ _ h2

theorem State.memoryOk_prefetch {s : State} {k : Nat} {w : Wave} {l : Nat} {a : Addr} (h : s.memoryOk) : (s.prefetch k w l a).memoryOk := by
  have h1 : (s.checkElem k w l ⟨1, 1, true, true, .r, false⟩ a).1.memoryOk := memoryOk_checkElem h
  unfold State.prefetch
  split
  · exact memoryOk_cleanLine _ _ _ (memoryOk_of_fst ‹_› h1)
  · exact memoryOk_of_fst ‹_› h1
  · exact memoryOk_of_fst ‹_› h1

/-! ### Instructions of control and system state (04 R131 to R141; 07 R237) -/

theorem keepsMemory_branchPair {s : State} {a : BitVec 7} {g : BitVec 2} (h : s.memoryOk) : KeepsMemory (branchPair a g s) := by
  refine keepsMemory_runState _ _ h (fun iss lanes w => ?_)
  split
  · exact h
  · exact State.memoryOk_retire _ _ h

theorem keepsMemory_execFork {s : State} {d : BitVec 7} {i : BitVec 18} (h : s.memoryOk) : KeepsMemory (execFork d i s) := by
  refine keepsMemory_runState _ _ h (fun iss lanes w => ?_)
  split
  · exact h
  · exact State.memoryOk_retire _ _ h

theorem State.memoryOk_endLanes {s : State} {iss : Issue} {w : Wave} {m : Word} (h : s.memoryOk) : (s.endLanes iss w m).memoryOk :=
  memoryOk_foldl (fun _ _ => memoryOk_release) _ (memoryOk_retire _ _ h)

theorem keepsMemory_execWaitc {s : State} {x c t l : BitVec 4} (h : s.memoryOk) : KeepsMemory (execWaitc x c t l s) := by
  refine keepsMemory_runState _ _ h (fun iss lanes w => ?_)
  dsimp only
  split
  · exact State.memoryOk_retire _ _ (State.memoryOk_ite h h)
  · exact h

theorem keepsMemory_execGetsr {s : State} {d e : BitVec 7} {f : BitVec 1} {g : BitVec 2} (h : s.memoryOk) :
    KeepsMemory (execGetsr d e f g s) := by
  unfold execGetsr
  exact keepsMemory_runState _ _ h (fun _ _ _ => State.memoryOk_retire _ _ h)

theorem keepsMemory_execRegreq {s : State} {n : BitVec 7} (h : s.memoryOk) : KeepsMemory (execRegreq n s) := by
  unfold execRegreq
  refine keepsMemory_runState _ _ h (fun iss lanes w => ?_)
  split
  · exact State.memoryOk_retire _ _ h
  · exact State.memoryOk_retire _ _ h

theorem keepsMemory_execWrlane {s : State} {d a : BitVec 7} {g : BitVec 2} (h : s.memoryOk) : KeepsMemory (execWrlane d a g s) := by
  refine keepsMemory_runState _ _ h (fun iss lanes w => ?_)
  dsimp only
  split
  · exact h
  · exact State.memoryOk_retire _ _ h

theorem keepsMemory_execPrefh {s : State} {a : BitVec 7} {g : BitVec 2} (h : s.memoryOk) : KeepsMemory (execPrefh a g s) :=
  keepsMemory_runState _ _ h (fun _ _ _ => State.memoryOk_retire _ _ (State.memoryOk_foldl (fun _ _ => State.memoryOk_prefetch) _ h))

theorem keepsMemory_execParkc {s : State} {n : BitVec 7} (h : s.memoryOk) : KeepsMemory (execParkc n s) := by
  refine keepsMemory_runState _ _ h (fun iss lanes w => ?_)
  split
  · exact State.memoryOk_retire _ _ h
  · exact h

/-! ### Placement (10 R306 to R313) -/

theorem State.memoryOk_fillActive {fuel : Nat} {s : State} {part : Nat} (h : s.memoryOk) : (State.fillActive fuel s part).memoryOk := by
  induction fuel generalizing s with
  | zero => exact h
  | succ fuel ih =>
    unfold State.fillActive
    split
    · exact h
    · split
      · exact h
      · exact ih h

theorem State.memoryOk_changeSplit {s : State} {cid split : Nat} (h : s.memoryOk) : (s.changeSplit cid split).memoryOk := by
  have h1 : ((s.flushDirty cid (fun _ _ => true)).sendUpd cid (fun _ => true)).memoryOk := memoryOk_sendUpd _ _ (memoryOk_flushDirty _ _ h)
  unfold State.changeSplit
  split
  · exact h
  · dsimp only
    have left := memoryOk_foldl (f := fun (u : State) (x : Holder) => u.leaveTile cid x.tile) (fun _ _ => memoryOk_leaveTile _ _)
      (((s.flushDirty cid (fun _ _ => true)).sendUpd cid (fun _ => true)).l1 cid).hold h1
    generalize (List.foldl (fun (u : State) (x : Holder) => u.leaveTile cid x.tile) _ _) = u at left ⊢
    exact left

theorem State.memoryOk_birth {s : State} {k : Nat} {b : Birth} (h : s.memoryOk) : (s.birth k b).memoryOk := by
  unfold State.birth
  exact memoryOk_ite h h

theorem State.memoryOk_placeGroup {s : State} {lid : Nat} {l : Launch} {cores : List (Nat × List Nat)} (h : s.memoryOk) :
    (s.placeGroup lid l cores).memoryOk := by
  unfold State.placeGroup
  refine memoryOk_foldl (fun _ _ => memoryOk_birth) _ ?_
  exact memoryOk_foldl (fun _ _ => memoryOk_changeSplit) _ h

theorem State.memoryOk_placeFormed {s : State} {f : Formed} {l : Launch} {sh : Shader} {cid k : Nat} (h : s.memoryOk) :
    (s.placeFormed f l sh cid k).memoryOk := by
  unfold State.placeFormed
  refine memoryOk_birth (memoryOk_foldl (fun _ _ => memoryOk_modRay) _ ?_)
  exact memoryOk_changeSplit (split := l.record.split) h

theorem State.memoryOk_placeFirst {s : State} {cs : List Cand} (h : s.memoryOk) : (s.placeFirst cs).memoryOk := by
  induction cs generalizing s with
  | nil => exact h
  | cons c cs ih =>
    unfold State.placeFirst
    split
    · split
      · exact ih h
      · rename_i l _
        split
        · split
          · have h1 : (s.startLaunch l).1.memoryOk := memoryOk_startLaunch h
            split
            · exact memoryOk_placeGroup (memoryOk_of_fst ‹_› h1)
            · exact memoryOk_of_fst ‹_› h1
          · exact memoryOk_placeGroup h
        · exact ih h
    · split
      · exact ih h
      · split
        · exact ih h
        · split
          · exact ih h
          · split
            · exact memoryOk_placeFormed h
            · exact ih h

theorem memoryOk_evPlacementReserve {s : State} {lid : Nat} (h : s.memoryOk) : (evPlacementReserve lid s).memoryOk := by
  unfold evPlacementReserve
  split
  · exact h
  · split
    · exact State.memoryOk_ite h h
    · exact h

/-! ### Waves that retire (01 R25) -/

theorem State.memoryOk_retireGroup {s : State} {gk : Nat} (h : s.memoryOk) : (s.retireGroup gk).memoryOk := by
  unfold State.retireGroup
  split
  · exact h
  · exact memoryOk_ite h (memoryOk_completeHalt _ (memoryOk_releaseBarrier h))

theorem State.memoryOk_removeWave {s : State} {k : Nat} {w : Wave} (h : s.memoryOk) : (s.removeWave k w).memoryOk :=
  memoryOk_fillActive (memoryOk_retireGroup h)

theorem memoryOk_evWaveRetire {s : State} {k : Nat} (h : s.memoryOk) : (evWaveRetire k s).memoryOk := by
  unfold evWaveRetire
  split
  · exact h
  · rename_i w _
    split
    · have h1 := State.memoryOk_flushDirty (cidOf k) (fun i d => d.owners.contains w.uid && !s.isLocal i) h
      dsimp only
      split
      · exact h1
      · exact State.memoryOk_removeWave h1
    · exact h

end Sys2Proof.Machine

/-! The Copy Engine and the Gate and Select Engine keep the canonical form of memory (07 R202 to R215; 09 R285; 12 R363, R364). -/

namespace Sys2Proof.Machine

/-! ### Commands at issue (07 R202 to R205, R211, R212, R219 to R221) -/

theorem State.memoryOk_enqueueCommand {s : State} {iss : Issue} {w : Wave} {sub q : Nat} {b : List Word} (h : s.memoryOk) :
    (s.enqueueCommand iss w sub q b).1.memoryOk := by
  unfold State.enqueueCommand
  dsimp only
  split <;> exact memoryOk_foldl (fun _ _ => memoryOk_modCtx _ _) _ h

theorem State.memoryOk_issueCommand {s : State} {iss : Issue} {w : Wave} {sub q : Nat} {d a : BitVec 7} {n : Nat} (h : s.memoryOk) :
    (s.issueCommand iss w sub q d a n).memoryOk := by
  have h1 := memoryOk_boundary (cidOf iss.wave) w 2 h
  unfold State.issueCommand
  dsimp only
  split
  · exact h
  · split
    · exact memoryOk_of_fst ‹_› h1
    · have h2 := memoryOk_of_fst ‹_› h1
      split
      · exact h2
      · exact memoryOk_retire (s := State.tick1 _) _ _ (memoryOk_enqueueCommand h2)

theorem keepsMemory_queued {s : State} {sub n : Nat} {d a : BitVec 7} {q : BitVec 4} (h : s.memoryOk) : KeepsMemory (queued sub n d a q s) :=
  keepsMemory_runState _ _ h (fun _ _ _ => State.memoryOk_issueCommand h)

theorem keepsMemory_execCxbond {s : State} {d a : BitVec 7} {q : BitVec 4} (h : s.memoryOk) : KeepsMemory (execCxbond d a q s) :=
  keepsMemory_runState _ _ h (fun _ _ _ => State.memoryOk_issueCommand h)

/-- An immediate command keeps the form if the value it takes does. -/
theorem keepsMemory_immediate {s : State} {sub n : Nat} {value : State → Issue → Wave → Nat → List Word → Option (State × Word)}
    {d a : BitVec 7} {q : BitVec 4} (h : s.memoryOk)
    (hv : ∀ u iss w q b t v, u.memoryOk → value u iss w q b = some (t, v) → t.memoryOk) : KeepsMemory (immediate sub n value d a q s) := by
  refine keepsMemory_runState _ _ h (fun iss lanes w => ?_)
  dsimp only
  split
  · split
    · exact h
    · exact State.memoryOk_retire _ _ (hv _ _ _ _ _ _ _ h ‹_›)
  · split
    · exact h
    · split
      · exact h
      · split
        · exact h
        · exact State.memoryOk_retire _ _ (hv s.tick1 _ _ _ _ _ _ h ‹_›)

theorem keepsMemory_execRcarm {s : State} {d a : BitVec 7} {q : BitVec 4} (h : s.memoryOk) : KeepsMemory (execRcarm d a q s) := by
  refine keepsMemory_immediate h (fun u iss w q b t v hu e => ?_)
  dsimp only at e
  split at e
  · cases e
  · cases e
    exact hu

theorem keepsMemory_execRcwait {s : State} {d a : BitVec 7} {q : BitVec 4} (h : s.memoryOk) : KeepsMemory (execRcwait d a q s) := by
  refine keepsMemory_immediate h (fun u iss w q b t v hu e => ?_)
  dsimp only at e
  split at e
  · cases e
    exact hu
  · cases e

theorem keepsMemory_execCxrdv {s : State} {d a : BitVec 7} {q : BitVec 4} (h : s.memoryOk) : KeepsMemory (execCxrdv d a q s) := by
  refine keepsMemory_immediate h (fun u iss w q b t v hu e => ?_)
  dsimp only at e
  split at e
  · cases e
    exact hu
  · cases e

theorem keepsMemory_execQstat {s : State} {d a : BitVec 7} {q : BitVec 4} (h : s.memoryOk) : KeepsMemory (execQstat d a q s) := by
  refine keepsMemory_immediate h (fun u iss w q b t v hu e => ?_)
  cases e
  exact hu

/-! ### Reads and writes of an engine (07 R205 to R210) -/

theorem State.memoryOk_engineLoc {s : State} {ctx : Nat} {e : QEntry} {p : Perm} {a n : Nat} (h : s.memoryOk) :
    (s.engineLoc ctx e p a n).1.memoryOk := memoryOk_of_mem h (engineLoc_mem ..)

theorem State.memoryOk_enginePiece {s : State} {e : QEntry} {tol a n : Nat} {loc : Loc} (h : s.memoryOk) :
    (s.enginePiece e tol a n loc).1.memoryOk := by
  unfold State.enginePiece
  split
  · rename_i key coded
    have h1 := memoryOk_tileReadAs (e.prio % 4) tol key n coded h
    split
    · exact h
    · split <;> exact memoryOk_of_fst ‹_› h1
  · split <;> exact h

theorem State.memoryOk_readPieces {s : State} {ctx : Nat} {e : QEntry} {tol : Nat} {ps : List (Nat × Nat)} {got : List Byte}
    (h : s.memoryOk) : (s.readPieces ctx e tol ps got).1.memoryOk := by
  induction ps generalizing s got with
  | nil => exact h
  | cons p ps ih =>
    obtain ⟨a, n⟩ := p
    have h1 : (s.engineLoc ctx e .r a n).1.memoryOk := memoryOk_engineLoc h
    unfold State.readPieces
    split
    · exact memoryOk_of_fst ‹_› h1
    · rename_i s1 loc x
      have h2 : (s1.enginePiece e tol a n loc).1.memoryOk := memoryOk_enginePiece (memoryOk_of_fst x h1)
      split
      · exact memoryOk_of_fst ‹_› h2
      · exact ih (memoryOk_of_fst ‹_› h2)

theorem State.memoryOk_engineRead {s : State} {ctx : Nat} {e : QEntry} {tol a n : Nat} (h : s.memoryOk) :
    (s.engineRead ctx e tol a n).1.memoryOk := memoryOk_readPieces h

theorem State.memoryOk_engineFault {s : State} {ctx qi : Nat} {cause : Cause} {a : Nat} (h : s.memoryOk) :
    (s.engineFault ctx qi cause a).memoryOk := by
  unfold State.engineFault
  split
  · exact h
  · exact memoryOk_unitFaultFst h

theorem State.memoryOk_afterStop {s : State} {ctx qi : Nat} {x : Stop} (h : s.memoryOk) : (s.afterStop ctx qi x).memoryOk := by
  cases x with
  | miss => exact h
  | fault c a => exact memoryOk_engineFault h

theorem State.memoryOk_spoil {s : State} {ctx : Nat} {e : QEntry} {a n : Nat} (h : s.memoryOk) : (s.spoil ctx e a n).memoryOk := by
  refine memoryOk_foldl (fun u p hu => ?_) _ h
  have h1 : (u.engineLoc ctx e .w p.1 p.2).1.memoryOk := memoryOk_engineLoc hu
  split
  · exact memoryOk_of_fst ‹_› h1
  · have h2 := memoryOk_of_fst ‹_› h1
    exact memoryOk_putPieces (s := (State.freeBytes _ _).1) _ _ _ _ h2

theorem State.memoryOk_spoilAll {s : State} {ctx : Nat} {e : QEntry} {rs : List (Nat × Nat)} (h : s.memoryOk) :
    (s.spoilAll ctx e rs).memoryOk := memoryOk_foldl (fun _ _ => memoryOk_spoil) _ h

theorem State.memoryOk_setProgress {s : State} {ctx qi : Nat} {ws : List Nat} (h : s.memoryOk) : (s.setProgress ctx qi ws).memoryOk := h

theorem State.memoryOk_setFinished {s : State} {ctx qi : Nat} (h : s.memoryOk) : (s.setFinished ctx qi).memoryOk := h

theorem State.memoryOk_modHead {s : State} {ctx qi : Nat} {f : QEntry → QEntry} (h : s.memoryOk) : (s.modHead ctx qi f).memoryOk := h

/-! ### The Copy Engine (07 R208 to R212; 09 R285) -/

theorem State.memoryOk_copyIndex {s : State} {ctx : Nat} {e : QEntry} {i : Nat} (h : s.memoryOk) : (s.copyIndex ctx e i).1.memoryOk := by
  have h1 : (s.engineRead ctx e (copyTol e) (ba e.block 2 + 4 * i) 4).1.memoryOk := memoryOk_engineRead h
  unfold State.copyIndex
  split
  · exact h
  · split <;> exact memoryOk_of_fst ‹_› h1

theorem State.memoryOk_copyRows {s : State} {ctx : Nat} {e : QEntry} {i : Nat} (h : s.memoryOk) : (s.copyRows ctx e i).1.memoryOk := by
  refine memoryOk_foldl_fst (fun r j hr => ?_) _ h
  have h1 : (r.1.copyIndex ctx e j).1.memoryOk := memoryOk_copyIndex hr
  split
  · exact hr
  · split <;> exact memoryOk_of_fst ‹_› h1

theorem State.memoryOk_codedBlock {s : State} {ctx : Nat} {e : QEntry} {p : Perm} {a : Nat} (h : s.memoryOk) :
    (s.codedBlock ctx e p a).1.memoryOk := by
  have h1 : (s.engineLoc ctx e p a 256).1.memoryOk := memoryOk_engineLoc h
  unfold State.codedBlock
  split <;> exact memoryOk_of_fst ‹_› h1

theorem State.memoryOk_codedRange {s : State} {ctx : Nat} {e : QEntry} {p : Perm} {a n : Nat} (h : s.memoryOk) :
    (s.codedRange ctx e p a n).1.memoryOk := by
  refine memoryOk_foldl_fst (fun r i hr => ?_) _ h
  have h1 : (r.1.codedBlock ctx e p (max a (a / 4096 * 4096 + 4096 * i))).1.memoryOk := memoryOk_codedBlock hr
  split
  · exact hr
  · split <;> exact memoryOk_of_fst ‹_› h1

theorem State.memoryOk_bufferHeader {s : State} {ctx : Nat} {e : QEntry} {p : Perm} {a : Nat} (h : s.memoryOk) :
    (s.bufferHeader ctx e p a).1.memoryOk := by
  have h1 : (s.engineRead ctx e (copyTol e) a 32).1.memoryOk := memoryOk_engineRead h
  unfold State.bufferHeader
  split
  · exact memoryOk_of_fst ‹_› h1
  · have h2 := memoryOk_of_fst ‹_› h1
    split
    · exact h2
    · rename_i data _ _
      have h3 := memoryOk_codedRange (ctx := ctx) (e := e) (p := p) (a := data) (n := 256 * copyCount e) h2
      split <;> exact memoryOk_of_fst ‹_› h3

theorem State.memoryOk_copySources {s : State} {ctx : Nat} {e : QEntry} (h : s.memoryOk) : (s.copySources ctx e).1.memoryOk := by
  have h1 : (s.copyRows ctx e 0).1.memoryOk := memoryOk_copyRows h
  have h2 : (s.bufferHeader ctx e .r (ba e.block 0)).1.memoryOk := memoryOk_bufferHeader h
  unfold State.copySources
  split
  · exact h
  · split
    · split <;> exact memoryOk_of_fst ‹_› h1
    · split
      · split <;> exact memoryOk_of_fst ‹_› h2
      · exact h

theorem State.memoryOk_withSources {s : State} {ctx qi : Nat} {e : QEntry} (h : s.memoryOk) : (s.withSources ctx qi e).1.memoryOk := by
  have h1 : (s.copySources ctx e).1.memoryOk := memoryOk_copySources h
  unfold State.withSources
  split
  · exact h
  · split
    · have h2 := memoryOk_of_fst ‹_› h1
      exact h2
    · exact memoryOk_afterStop (memoryOk_of_fst ‹_› h1)

theorem State.memoryOk_spoilOverlap {s : State} {ctx : Nat} {e : QEntry} {dst : List (Nat × Nat)} (h : s.memoryOk) :
    (s.spoilOverlap ctx e dst).memoryOk := memoryOk_spoilAll h

theorem State.memoryOk_copyLinear {fuel : Nat} {s : State} {ctx qi : Nat} {e : QEntry} {done stop : Nat} (h : s.memoryOk) :
    (State.copyLinear fuel s ctx qi e done stop).1.memoryOk := by
  induction fuel generalizing s done with
  | zero => exact h
  | succ fuel ih =>
    unfold State.copyLinear
    split
    · exact h
    · dsimp only
      generalize min (stop - done) (min (128 - (ba e.block 0 + done) % 128) (128 - (ba e.block 2 + done) % 128)) = m
      have h1 : (s.engineRead ctx e (copyTol e) (ba e.block 0 + done) m).1.memoryOk := memoryOk_engineRead h
      split
      · exact memoryOk_of_fst ‹_› h1
      · rename_i s1 bs x
        have h2 := memoryOk_engineWrite ctx qi e (ba e.block 2 + done) bs (memoryOk_of_fst x h1)
        split
        · exact memoryOk_of_fst ‹_› h2
        · exact ih (memoryOk_setProgress (memoryOk_spoilOverlap (memoryOk_of_fst ‹_› h2)))

theorem State.memoryOk_linUnit {s : State} {ctx qi : Nat} {e : QEntry} (h : s.memoryOk) : (s.linUnit ctx qi e).memoryOk := by
  have h1 : (s.copyLinear 600 ctx qi e (linDone e) (min (bw e.block 4) (linDone e / 4096 * 4096 + 4096))).1.memoryOk := memoryOk_copyLinear h
  unfold State.linUnit
  dsimp only
  split
  · exact memoryOk_afterStop (memoryOk_of_fst ‹_› h1)
  · have h2 := memoryOk_of_fst ‹_› h1
    exact memoryOk_ite (memoryOk_setFinished h2) h2

theorem State.memoryOk_countRows {s : State} {ctx qi : Nat} (h : s.memoryOk) : (s.countRows ctx qi).memoryOk := by
  unfold State.countRows
  split
  · exact h
  · split
    · exact h
    · exact memoryOk_ite h h

theorem State.memoryOk_copyRest {s : State} {ctx : Nat} {e : QEntry} (h : s.memoryOk) : (s.copyRest ctx e).1.memoryOk := by
  have h1 : (s.copyRows ctx e (e.progress.getD 0 0)).1.memoryOk := memoryOk_copyRows h
  have h2 : (s.bufferHeader ctx e .w (ba e.block 2)).1.memoryOk := memoryOk_bufferHeader h
  unfold State.copyRest
  dsimp only
  split
  · exact h
  · split
    · split <;> exact memoryOk_of_fst ‹_› h1
    · split
      · exact h
      · split
        · split <;> exact memoryOk_of_fst ‹_› h2
        · exact h

theorem State.memoryOk_copyStop {s : State} {ctx qi : Nat} {e : QEntry} {x : Stop} (h : s.memoryOk) : (s.copyStop ctx qi e x).memoryOk := by
  cases x with
  | miss => exact h
  | fault c a => exact memoryOk_engineFault (memoryOk_spoilAll (memoryOk_copyRest h))

theorem State.memoryOk_rowUnit {s : State} {ctx qi : Nat} {e : QEntry} (h : s.memoryOk) : (s.rowUnit ctx qi e).memoryOk := by
  have h1 : (s.copyIndex ctx e (e.progress.getD 0 0)).1.memoryOk := memoryOk_copyIndex h
  unfold State.rowUnit
  dsimp only
  split
  · exact memoryOk_copyStop (memoryOk_of_fst ‹_› h1)
  · rename_i s1 x y
    generalize copyEnds e (e.progress.getD 0 0) x = ends
    have h2 : (s1.engineRead ctx e (copyTol e) ends.1 (copyRow e)).1.memoryOk := memoryOk_engineRead (memoryOk_of_fst y h1)
    split
    · exact memoryOk_copyStop (memoryOk_of_fst ‹_› h2)
    · rename_i s2 bs y
      have h3 := memoryOk_engineWrite ctx qi e ends.2 bs (memoryOk_of_fst y h2)
      split
      · exact memoryOk_copyStop (memoryOk_of_fst ‹_› h3)
      · have h4 := memoryOk_countRows (ctx := ctx) (qi := qi) (memoryOk_setProgress (ctx := ctx) (qi := qi)
          (ws := [e.progress.getD 0 0 + 1, 0, 0, 0]) (memoryOk_spoilOverlap (ctx := ctx) (e := e) (dst := [(ends.2, copyRow e)])
          (memoryOk_of_fst ‹_› h3)))
        exact memoryOk_ite (memoryOk_setFinished h4) h4

theorem State.memoryOk_engineBlock {s : State} {ctx qi : Nat} {e : QEntry} {a : Nat} {bs : List Byte} (h : s.memoryOk) :
    (s.engineBlock ctx qi e a bs).1.memoryOk := by
  have h1 := memoryOk_engineWrite ctx qi e a bs h
  unfold State.engineBlock
  split <;> exact memoryOk_of_fst ‹_› h1

theorem State.memoryOk_expandBlock {s : State} {ctx qi : Nat} {e : QEntry} {i : Nat} (h : s.memoryOk) :
    (s.expandBlock ctx qi e i).1.memoryOk := by
  have h1 : (s.bufferHeader ctx e .r (ba e.block 0)).1.memoryOk := memoryOk_bufferHeader h
  unfold State.expandBlock
  split
  · exact memoryOk_of_fst ‹_› h1
  · rename_i s1 data _ x
    have h2 : (s1.codedBlock ctx e .r (data + 256 * i)).1.memoryOk := memoryOk_codedBlock (memoryOk_of_fst x h1)
    dsimp only
    split
    · exact memoryOk_of_fst ‹_› h2
    · rename_i s2 key x
      have h3 := memoryOk_of_fst x h2
      split
      · split
        · exact memoryOk_askLeave h3
        · have h4 := memoryOk_recallLine (lineOf key + 1) (memoryOk_recallLine (lineOf key) (memoryOk_settleTile key (copyTol e) h3))
          split
          · exact h4
          · split
            · exact h4
            · exact memoryOk_engineBlock h4
      · have h4 : (s2.engineRead ctx e (copyTol e) (data + 256 * i) 256).1.memoryOk := memoryOk_engineRead h3
        split
        · exact memoryOk_of_fst ‹_› h4
        · exact memoryOk_engineBlock (memoryOk_of_fst ‹_› h4)

theorem State.memoryOk_putSlot {s : State} {ctx qi : Nat} {e : QEntry} {key a : Nat} {raw : List Byte} {entry : Nat} {coded : List Byte}
    (h : s.memoryOk) : (s.putSlot ctx qi e key a raw entry coded).1.memoryOk := by
  have h1 : (s.clearAfar [key]).1.memoryOk := memoryOk_clearAfar h
  unfold State.putSlot
  split
  · split
    · exact memoryOk_of_fst ‹_› h1
    · have h2 := memoryOk_recallCells (cellsAt key coded) (memoryOk_of_fst ‹_› h1)
      dsimp only
      refine memoryOk_homeWrite _ _ ?_
      split
      · exact memoryOk_putBytes _ _ h2
      · exact h2
  · exact memoryOk_engineWrite _ _ _ _ _ h

theorem State.memoryOk_codeBlock {s : State} {ctx qi : Nat} {e : QEntry} {i : Nat} (h : s.memoryOk) : (s.codeBlock ctx qi e i).1.memoryOk := by
  have h1 : (s.bufferHeader ctx e .w (ba e.block 2)).1.memoryOk := memoryOk_bufferHeader h
  -- The coder is named, so that the kernel does not evaluate it where it reduces the matches below.
  obtain ⟨coder, named⟩ : ∃ coder, encodeBlock = coder := ⟨_, rfl⟩
  unfold State.codeBlock
  rw [named]
  split
  · exact memoryOk_of_fst ‹_› h1
  · rename_i s1 data fmt x
    have h2 : (s1.engineRead ctx e (copyTol e) (ba e.block 0 + 256 * i) 256).1.memoryOk := memoryOk_engineRead (memoryOk_of_fst x h1)
    split
    · exact memoryOk_of_fst ‹_› h2
    · rename_i s2 bs x
      have h3 : (s2.codedBlock ctx e .w (data + 256 * i)).1.memoryOk := memoryOk_codedBlock (memoryOk_of_fst x h2)
      dsimp only
      split
      · exact memoryOk_of_fst ‹_› h3
      · rename_i s3 key x
        have h4 := memoryOk_engineWrite ctx qi e (fmt + i) (bytesOf 1 (coder bs).1) (memoryOk_of_fst x h3)
        split
        · exact memoryOk_of_fst ‹_› h4
        · rename_i s4 _ x
          have h5 : (s4.putSlot ctx qi e key (data + 256 * i) bs (nbits 10 2 (bw e.block 5) * 256 + (coder bs).1) (coder bs).2).1.memoryOk :=
            memoryOk_putSlot (memoryOk_of_fst x h4)
          split
          · exact memoryOk_of_fst ‹_› h5
          · rename_i s5 _ x
            have h6 := memoryOk_of_fst x h5
            have h7 := memoryOk_engineWrite ctx qi e (ba e.block 2 + 16) (bytesOf 4 (copyCount e) ++ bytesOf 1 (nbits 10 2 (bw e.block 5))) h6
            split
            · split <;> exact memoryOk_of_fst ‹_› h7
            · exact h6

theorem State.memoryOk_blockUnit {s : State} {ctx qi : Nat} {e : QEntry} (h : s.memoryOk) : (s.blockUnit ctx qi e).memoryOk := by
  have h1 : (if e.sub = 4 then s.expandBlock ctx qi e (e.progress.getD 0 0) else s.codeBlock ctx qi e (e.progress.getD 0 0)).1.memoryOk := by
    split
    · exact memoryOk_expandBlock h
    · exact memoryOk_codeBlock h
  unfold State.blockUnit
  dsimp only
  generalize (if e.sub = 4 then s.expandBlock ctx qi e (e.progress.getD 0 0) else s.codeBlock ctx qi e (e.progress.getD 0 0)) = r at h1 ⊢
  split
  · exact memoryOk_copyStop h1
  · rename_i dst
    have h2 := memoryOk_setProgress (ctx := ctx) (qi := qi) (ws := [e.progress.getD 0 0 + 1, 0, 0, 0])
      (memoryOk_spoilOverlap (ctx := ctx) (e := e) (dst := dst) h1)
    exact memoryOk_ite (memoryOk_setFinished h2) h2

theorem memoryOk_evCopyUnit {s : State} {ctx qi : Nat} (h : s.memoryOk) : (evCopyUnit ctx qi s).memoryOk := by
  unfold evCopyUnit
  split
  · exact h
  · rename_i e0 _
    have h1 : (s.withSources ctx qi e0).1.memoryOk := State.memoryOk_withSources h
    split
    · exact State.memoryOk_of_fst ‹_› h1
    · have h2 := State.memoryOk_of_fst ‹_› h1
      exact State.memoryOk_ite (State.memoryOk_linUnit h2) (State.memoryOk_ite (State.memoryOk_ite
        (State.memoryOk_rowUnit (State.memoryOk_countRows h2)) h2) (State.memoryOk_ite (State.memoryOk_blockUnit h2) h2))

end Sys2Proof.Machine

/-! The Gate and Select Engine keeps the canonical form of memory (07 R211 to R215). -/

namespace Sys2Proof.Machine

theorem State.memoryOk_raiseGse {s : State} {ctx cl : Nat} {f : Flags} (h : s.memoryOk) : (s.raiseGse ctx cl f).memoryOk :=
  memoryOk_modCtx _ _ h

theorem State.memoryOk_topkRow {s : State} {ctx qi : Nat} {e : QEntry} (h : s.memoryOk) : (s.topkRow ctx qi e).memoryOk := by
  -- The sums are named, so that the kernel does not evaluate them where it reduces the matches below.
  obtain ⟨sums, named⟩ : ∃ sums, sumValues = sums := ⟨_, rfl⟩
  unfold State.topkRow
  rw [named]
  dsimp only
  split
  · exact memoryOk_afterStop (memoryOk_of_fst ‹_› (memoryOk_engineRead h))
  · rename_i s1 raw x
    have h1 := memoryOk_of_fst x (memoryOk_engineRead h)
    generalize mask : ite (nbits 25 1 (bw e.block 4) = 0) _ _ = r
    have h2 : r.1.memoryOk := by
      rw [← mask]
      split
      · exact h1
      · split <;> exact memoryOk_of_fst ‹_› (memoryOk_engineRead h1)
    split
    · exact memoryOk_afterStop h2
    · split
      · exact memoryOk_afterStop (memoryOk_of_fst ‹_› (memoryOk_engineWrite _ _ _ _ _ h2))
      · rename_i s3 _ x
        have h3 : s3.memoryOk := memoryOk_of_fst x (memoryOk_engineWrite _ _ _ _ _ h2)
        exact memoryOk_ite (memoryOk_setFinished (memoryOk_raiseGse (memoryOk_setProgress h3)))
          (memoryOk_raiseGse (memoryOk_setProgress h3))

theorem State.memoryOk_candidates32 {s : State} {ctx : Nat} {e : QEntry} {i : Nat} (h : s.memoryOk) : (s.candidates32 ctx e i).1.memoryOk := by
  unfold State.candidates32
  dsimp only
  split <;> exact memoryOk_of_fst ‹_› (memoryOk_engineRead h)

theorem State.memoryOk_bucketSummary {s : State} {bound : Option (Nat × Nat)} {n lo hi : Nat} (h : s.memoryOk) :
    (s.bucketSummary bound n lo hi).1.memoryOk := by
  unfold State.bucketSummary
  split
  · exact h
  · exact h

theorem State.memoryOk_bucketRow {s : State} {ctx qi : Nat} {e : QEntry} (h : s.memoryOk) : (s.bucketRow ctx qi e).memoryOk := by
  unfold State.bucketRow
  dsimp only
  split
  · split
    · exact memoryOk_afterStop (memoryOk_of_fst ‹_› (memoryOk_candidates32 h))
    · rename_i s1 xs x
      have h1 := memoryOk_of_fst x (memoryOk_candidates32 h)
      exact memoryOk_ite (memoryOk_ite (memoryOk_modHead (memoryOk_setProgress h1)) (memoryOk_modHead (memoryOk_setProgress h1)))
        (memoryOk_modHead (memoryOk_setProgress h1))
  · have h1 := fun bound n lo hi => memoryOk_bucketSummary (bound := bound) (n := n) (lo := lo) (hi := hi) h
    split
    · exact memoryOk_afterStop (memoryOk_of_fst ‹_› (memoryOk_engineWrites _ _ _ _ (h1 _ _ _ _)))
    · exact memoryOk_setFinished (memoryOk_of_fst ‹_› (memoryOk_engineWrites _ _ _ _ (h1 _ _ _ _)))

theorem State.memoryOk_mergeInputs {s : State} {ctx : Nat} {e : QEntry} {k : Nat} {is : List Nat} {got : List (List Nat)} (h : s.memoryOk) :
    (s.mergeInputs ctx e k is got).1.memoryOk := by
  induction is generalizing s got with
  | nil => exact h
  | cons i is ih =>
    unfold State.mergeInputs
    split
    · exact memoryOk_of_fst ‹_› (memoryOk_engineRead h)
    · exact ih (memoryOk_of_fst ‹_› (memoryOk_engineRead h))

theorem State.memoryOk_mergeRow {s : State} {ctx qi : Nat} {e : QEntry} (h : s.memoryOk) : (s.mergeRow ctx qi e).memoryOk := by
  obtain ⟨sums, named⟩ : ∃ sums, sumValues = sums := ⟨_, rfl⟩
  obtain ⟨merged, named'⟩ : ∃ merged, mergeEntries = merged := ⟨_, rfl⟩
  unfold State.mergeRow
  rw [named, named']
  dsimp only
  split
  · exact memoryOk_afterStop (memoryOk_of_fst ‹_› (memoryOk_mergeInputs h))
  · have h1 := memoryOk_of_fst ‹_› (memoryOk_mergeInputs h)
    split
    · exact memoryOk_afterStop (memoryOk_of_fst ‹_› (memoryOk_engineWrite _ _ _ _ _ h1))
    · exact memoryOk_setFinished (memoryOk_raiseGse (memoryOk_of_fst ‹_› (memoryOk_engineWrite _ _ _ _ _ h1)))

theorem State.memoryOk_selectedSlots {s : State} {ctx : Nat} {e : QEntry} {r : Nat} (h : s.memoryOk) : (s.selectedSlots ctx e r).1.memoryOk := by
  unfold State.selectedSlots
  dsimp only
  split
  · exact memoryOk_of_fst ‹_› (memoryOk_engineRead h)
  · have h1 := memoryOk_of_fst ‹_› (memoryOk_engineRead h)
    split <;> exact h1

theorem State.memoryOk_histRow {s : State} {ctx qi : Nat} {e : QEntry} (h : s.memoryOk) : (s.histRow ctx qi e).memoryOk := by
  unfold State.histRow
  dsimp only
  split
  · split
    · exact memoryOk_afterStop (memoryOk_of_fst ‹_› (memoryOk_selectedSlots h))
    · exact memoryOk_modHead (memoryOk_setProgress (memoryOk_of_fst ‹_› (memoryOk_selectedSlots h)))
  · split
    · exact memoryOk_afterStop (memoryOk_of_fst ‹_› (memoryOk_engineWrite _ _ _ _ _ h))
    · exact memoryOk_setFinished (memoryOk_of_fst ‹_› (memoryOk_engineWrite _ _ _ _ _ h))

theorem State.memoryOk_permRow {s : State} {ctx qi : Nat} {e : QEntry} (h : s.memoryOk) : (s.permRow ctx qi e).memoryOk := by
  unfold State.permRow
  dsimp only
  split
  · split
    · exact memoryOk_afterStop (memoryOk_of_fst ‹_› (memoryOk_selectedSlots h))
    · have h1 := memoryOk_of_fst ‹_› (memoryOk_selectedSlots h)
      split
      · exact memoryOk_modHead (memoryOk_setProgress h1)
      · split
        · exact memoryOk_afterStop (memoryOk_of_fst ‹_› (memoryOk_engineWrites _ _ _ _ h1))
        · exact memoryOk_modHead (memoryOk_setProgress (memoryOk_of_fst ‹_› (memoryOk_engineWrites _ _ _ _ h1)))
  · split
    · split
      · exact memoryOk_afterStop (memoryOk_of_fst ‹_› (memoryOk_engineRead h))
      · have h1 := memoryOk_of_fst ‹_› (memoryOk_engineRead h)
        exact memoryOk_ite (memoryOk_modHead (memoryOk_setProgress h1)) (memoryOk_engineFault h1)
    · exact memoryOk_setFinished h

theorem State.memoryOk_scanRow {s : State} {ctx qi : Nat} {e : QEntry} (h : s.memoryOk) : (s.scanRow ctx qi e).memoryOk := by
  unfold State.scanRow
  dsimp only
  split
  · exact memoryOk_afterStop (memoryOk_of_fst ‹_› (memoryOk_engineRead h))
  · have h1 := memoryOk_of_fst ‹_› (memoryOk_engineRead h)
    split
    · exact memoryOk_afterStop (memoryOk_of_fst ‹_› (memoryOk_engineWrite _ _ _ _ _ h1))
    · have h2 := memoryOk_of_fst ‹_› (memoryOk_engineWrite _ _ _ _ _ h1)
      exact memoryOk_ite (memoryOk_setFinished (memoryOk_setProgress h2)) (memoryOk_setProgress h2)

theorem memoryOk_evGseRow {s : State} {ctx qi : Nat} (h : s.memoryOk) : (evGseRow ctx qi s).memoryOk := by
  unfold evGseRow
  split
  · exact h
  · exact State.memoryOk_ite (State.memoryOk_topkRow h) (State.memoryOk_ite (State.memoryOk_bucketRow h)
      (State.memoryOk_ite (State.memoryOk_mergeRow h) (State.memoryOk_ite (State.memoryOk_histRow h)
      (State.memoryOk_ite (State.memoryOk_scanRow h) (State.memoryOk_ite (State.memoryOk_permRow h) h)))))

end Sys2Proof.Machine

/-! The Contract engine keeps the canonical form of memory (07 R222, R223; 12 R363, R364). -/

namespace Sys2Proof.Machine

/-! ### Its registers and its reads -/

theorem State.memoryOk_modCce {s : State} {ctx cl : Nat} {f : Cce → Cce} (h : s.memoryOk) : (s.modCce ctx cl f).memoryOk :=
  memoryOk_modCtx _ _ h

theorem State.memoryOk_raiseCce {s : State} {ctx cl : Nat} {f : Flags} (h : s.memoryOk) : (s.raiseCce ctx cl f).memoryOk :=
  memoryOk_modCce h

theorem State.memoryOk_cceFault {s : State} {ctx qi cl : Nat} {cause : Cause} {a : Nat} (h : s.memoryOk) :
    (s.cceFault ctx qi cl cause a).memoryOk :=
  memoryOk_engineFault (memoryOk_modCce (memoryOk_setProgress h))

theorem State.memoryOk_cceStop {s : State} {ctx qi cl : Nat} {x : Stop} (h : s.memoryOk) : (s.cceStop ctx qi cl x).memoryOk := by
  cases x with
  | miss => exact h
  | fault c a => exact memoryOk_cceFault h

theorem State.memoryOk_readOptional {s : State} {ctx : Nat} {e : QEntry} {tol a n : Nat} (h : s.memoryOk) :
    (s.readOptional ctx e tol a n).1.memoryOk := by
  unfold State.readOptional
  split
  · exact h
  · split <;> exact memoryOk_of_fst ‹_› (memoryOk_engineRead h)

theorem State.memoryOk_readWeights {s : State} {ctx : Nat} {e : QEntry} {tol fmt data bytes scales cols zmap zbits : Nat} {useMap : Bool}
    (h : s.memoryOk) : (s.readWeights ctx e tol fmt data bytes scales cols zmap zbits useMap).1.memoryOk := by
  unfold State.readWeights
  split
  · exact memoryOk_of_fst ‹_› (memoryOk_engineRead h)
  · have h1 := memoryOk_of_fst ‹_› (memoryOk_engineRead h)
    split
    · exact memoryOk_of_fst ‹_› (memoryOk_readOptional h1)
    · have h2 := memoryOk_of_fst ‹_› (memoryOk_readOptional h1)
      split <;> exact memoryOk_of_fst ‹_› (memoryOk_readOptional h2)

theorem State.memoryOk_expandsLate {s : State} {ctx : Nat} {e : QEntry} {p : Perm} {ps : List (Nat × Nat)} (h : s.memoryOk) :
    (s.expandsLate ctx e p ps).1.memoryOk := by
  induction ps generalizing s with
  | nil => exact h
  | cons q ps ih =>
    unfold State.expandsLate
    split
    · have h1 := memoryOk_of_fst ‹_› (memoryOk_engineLoc h)
      split
      · exact h1
      · exact ih h1
    · exact ih (memoryOk_of_fst ‹_› (memoryOk_engineLoc h))

theorem State.memoryOk_coreFrom {s : State} {ctx : Nat} {e : QEntry} {gradient : Bool} {bs : List Byte} (h : s.memoryOk) :
    (s.coreFrom ctx e gradient bs).1.memoryOk := by
  unfold State.coreFrom
  split
  · exact h
  · split <;> exact memoryOk_of_fst ‹_› (memoryOk_expandsLate h)

theorem State.memoryOk_readB {s : State} {ctx : Nat} {e : QEntry} {d : DenseDesc} (h : s.memoryOk) : (s.readB ctx e d).1.memoryOk :=
  memoryOk_readWeights h

/-! ### Sequencing of a step's accesses -/

/-- What goes on from a finished access keeps the form when the access and each continuation do. -/
theorem Step.memoryOk_andThen {α β : Type} {x : Step α} {f : State → α → Step β} (hx : x.1.memoryOk)
    (hf : ∀ s a, State.memoryOk s → (f s a).1.memoryOk) : (x.andThen f).1.memoryOk := by
  obtain ⟨s, _ | a⟩ := x
  · exact hx
  · exact hf s a hx

theorem State.memoryOk_readRuns {s : State} {ctx : Nat} {e : QEntry} {tol fmt : Nat} {rs : List (Nat × Nat)} {got : List XR} (h : s.memoryOk) :
    (s.readRuns ctx e tol fmt rs got).1.memoryOk := by
  induction rs generalizing s got with
  | nil => exact h
  | cons r rs ih => exact Step.memoryOk_andThen (memoryOk_engineRead h) (fun _ _ h1 => ih h1)

theorem State.memoryOk_engineWriteAll {s : State} {ctx qi : Nat} {e : QEntry} {rs : List (Nat × List Byte)} (h : s.memoryOk) :
    (s.engineWriteAll ctx qi e rs).1.memoryOk := by
  refine Step.memoryOk_andThen (memoryOk_of_mem h (checkPieces_mem ..)) (fun s1 ps h1 => ?_)
  have h2 := memoryOk_putPieces e ps (rs.flatMap Prod.snd) [] h1
  exact memoryOk_ite h2 (memoryOk_modHead h2)

/-! ### What a tile leaves behind -/

theorem State.memoryOk_commitTile {s : State} {ctx cl : Nat} {vals : List (Nat × Word × Flags)} (h : s.memoryOk) :
    (s.commitTile ctx cl vals).memoryOk :=
  memoryOk_modCce (memoryOk_raiseCce h)

theorem State.memoryOk_commitMemory {s : State} {ctx cl : Nat} {f : Flags} (h : s.memoryOk) : (s.commitMemory ctx cl f).memoryOk :=
  memoryOk_modCce (memoryOk_raiseCce h)

theorem State.memoryOk_storeRuns {s : State} {ctx qi cl : Nat} {e : QEntry} {fmt : Nat} {acc sat : Bool}
    {runs : List (Nat × List (Word × Flags))} (h : s.memoryOk) : (s.storeRuns ctx qi cl e fmt acc sat runs).1.memoryOk := by
  unfold State.storeRuns
  refine Step.memoryOk_andThen ?_ (fun s1 prior h1 => ?_)
  · split
    · exact memoryOk_readRuns h
    · exact h
  · exact Step.memoryOk_andThen (memoryOk_engineWriteAll h1) (fun _ _ h2 => memoryOk_commitMemory h2)

/-! ### Plans of the steps that have tiles -/

theorem State.memoryOk_readDesc {s : State} {ctx : Nat} {e : QEntry} {tol a n : Nat} (h : s.memoryOk) : (s.readDesc ctx e tol a n).1.memoryOk := by
  unfold State.readDesc
  split
  · exact h
  · exact memoryOk_engineRead h

theorem memoryOk_planLoadb {s : State} {e : QEntry} {c : Cce} {st : PStep} (h : s.memoryOk) : (planLoadb s e c st).1.memoryOk := by
  unfold planLoadb
  dsimp only
  split
  · exact h
  · split
    · exact h
    · split
      · split <;> exact h
      · split
        · split <;> exact h
        · exact h

theorem memoryOk_planContract {s : State} {ctx : Nat} {e : QEntry} {c : Cce} {st : PStep} (h : s.memoryOk) :
    (planContract s ctx e c st).1.memoryOk := by
  unfold planContract
  split
  · exact h
  · refine Step.memoryOk_andThen (State.memoryOk_readDesc h) (fun s1 bs h1 => ?_)
    refine Step.memoryOk_andThen (State.memoryOk_coreFrom h1) (fun s2 d h2 => ?_)
    split <;> exact h2

theorem memoryOk_planDense {s : State} {ctx : Nat} {e : QEntry} {c : Cce} {st : PStep} (h : s.memoryOk) :
    (planDense s ctx e c st).1.memoryOk := by
  unfold planDense
  split
  · exact h
  · refine Step.memoryOk_andThen (State.memoryOk_readDesc h) (fun s1 bs h1 => ?_)
    split
    · exact h1
    · split <;> exact h1

theorem memoryOk_planConv3 {s : State} {e : QEntry} {c : Cce} {st : PStep} (h : s.memoryOk) : (planConv3 s e c st).1.memoryOk := by
  unfold planConv3
  dsimp only
  split <;> exact h

theorem memoryOk_planUps2 {s : State} {e : QEntry} {c : Cce} {st : PStep} (h : s.memoryOk) : (planUps2 s e c st).1.memoryOk := by
  unfold planUps2
  split <;> exact h

theorem memoryOk_planAct {s : State} {c : Cce} {st : PStep} (h : s.memoryOk) : (planAct s c st).1.memoryOk := by
  unfold planAct
  split <;> exact h

theorem memoryOk_planPerm {s : State} {ctx : Nat} {e : QEntry} {c : Cce} {st : PStep} (h : s.memoryOk) :
    (planPerm s ctx e c st).1.memoryOk := by
  unfold planPerm
  dsimp only
  split
  · refine Step.memoryOk_andThen (State.memoryOk_engineRead h) (fun s1 bs h1 => ?_)
    split <;> exact h1
  · exact h

theorem memoryOk_planStoreb {s : State} {c : Cce} {st : PStep} (h : s.memoryOk) : (planStoreb s c st).1.memoryOk := by
  unfold planStoreb
  split <;> exact h

theorem memoryOk_planEnv {s : State} {ctx : Nat} {e : QEntry} {c : Cce} {st : PStep} (h : s.memoryOk) : (planEnv s ctx e c st).1.memoryOk := by
  unfold planEnv
  split
  · exact h
  · refine Step.memoryOk_andThen (State.memoryOk_readDesc h) (fun s1 bs h1 => ?_)
    split
    · exact h1
    · refine Step.memoryOk_andThen (State.memoryOk_readDesc h1) (fun s2 gs h2 => ?_)
      refine Step.memoryOk_andThen (State.memoryOk_coreFrom h2) (fun s3 d h3 => ?_)
      dsimp only
      split <;> exact h3

theorem memoryOk_planStep {s : State} {ctx : Nat} {e : QEntry} {c : Cce} {st : PStep} (h : s.memoryOk) : (planStep s ctx e c st).1.memoryOk := by
  unfold planStep
  repeat' split
  · exact memoryOk_planLoadb h
  · exact memoryOk_planContract h
  · exact memoryOk_planDense h
  · exact memoryOk_planConv3 h
  · exact memoryOk_planUps2 h
  · exact memoryOk_planAct h
  · exact memoryOk_planPerm h
  · exact memoryOk_planStoreb h
  · exact memoryOk_planEnv h

/-! ### One tile of each step -/

theorem memoryOk_tileLoadb {s : State} {ctx cl : Nat} {e : QEntry} {c : Cce} {j : Job} {st : PStep} (h : s.memoryOk) :
    (tileLoadb s ctx cl e c j st).1.memoryOk :=
  Step.memoryOk_andThen (State.memoryOk_readRuns h) (fun _ _ h1 => State.memoryOk_commitTile h1)

theorem memoryOk_tileContract {s : State} {ctx cl : Nat} {e : QEntry} {c : Cce} {j : Job} {st : PStep} (h : s.memoryOk) :
    (tileContract s ctx cl e c j st).1.memoryOk := by
  unfold tileContract
  split
  · exact h
  · exact Step.memoryOk_andThen (State.memoryOk_readWeights h) (fun _ _ h1 => State.memoryOk_commitTile h1)

theorem memoryOk_tileDense {s : State} {ctx cl : Nat} {e : QEntry} {c : Cce} {j : Job} (h : s.memoryOk) :
    (tileDense s ctx cl e c j).1.memoryOk := by
  unfold tileDense
  split
  · exact h
  · exact Step.memoryOk_andThen (State.memoryOk_readB h) (fun _ _ h1 => State.memoryOk_commitTile h1)

theorem memoryOk_tileConv3 {s : State} {ctx cl : Nat} {e : QEntry} {c : Cce} {j : Job} {st : PStep} (h : s.memoryOk) :
    (tileConv3 s ctx cl e c j st).1.memoryOk :=
  Step.memoryOk_andThen (State.memoryOk_engineRead h) (fun _ _ h1 => State.memoryOk_commitTile h1)

theorem memoryOk_tileStoreb {s : State} {ctx qi cl : Nat} {e : QEntry} {c : Cce} {j : Job} {st : PStep} (h : s.memoryOk) :
    (tileStoreb s ctx qi cl e c j st).1.memoryOk :=
  State.memoryOk_storeRuns h

theorem State.memoryOk_readEnv {s : State} {ctx : Nat} {e : QEntry} {c : Cce} {st : PStep} {d : CoreDesc} {er tag : Nat} {cols : List Nat}
    {got : List (List XR)} (h : s.memoryOk) : (s.readEnv ctx e c st d er tag cols got).1.memoryOk := by
  induction cols generalizing s got with
  | nil => exact h
  | cons col cols ih => exact Step.memoryOk_andThen (memoryOk_readRuns h) (fun _ _ h1 => ih h1)

theorem memoryOk_tileEnv {s : State} {ctx qi cl : Nat} {e : QEntry} {c : Cce} {j : Job} {st : PStep} (h : s.memoryOk) :
    (tileEnv s ctx qi cl e c j st).1.memoryOk := by
  unfold tileEnv
  split
  · exact Step.memoryOk_andThen (State.memoryOk_readEnv h) (fun _ _ h1 => State.memoryOk_storeRuns h1)
  · exact h

theorem memoryOk_tileCxdense {s : State} {ctx qi cl : Nat} {e : QEntry} {c : Cce} {j : Job} (h : s.memoryOk) :
    (tileCxdense s ctx qi cl e c j).1.memoryOk := by
  unfold tileCxdense
  split
  · exact h
  · refine Step.memoryOk_andThen (State.memoryOk_readB h) (fun s1 b h1 => ?_)
    exact Step.memoryOk_andThen (State.memoryOk_readRuns h1) (fun _ _ h2 => State.memoryOk_storeRuns h2)

theorem State.memoryOk_tileOnce {s : State} {ctx qi cl : Nat} {e : QEntry} {c : Cce} {j : Job} (h : s.memoryOk) :
    (s.tileOnce ctx qi cl e c j).1.memoryOk := by
  unfold State.tileOnce
  dsimp only
  repeat' split
  · exact memoryOk_tileCxdense h
  · exact memoryOk_tileLoadb h
  · exact memoryOk_tileContract h
  · exact memoryOk_tileDense h
  · exact memoryOk_tileConv3 h
  · exact memoryOk_commitTile h
  · exact memoryOk_commitTile h
  · exact memoryOk_commitTile h
  · exact memoryOk_tileStoreb h
  · exact memoryOk_tileEnv h

/-! ### Running a step -/

theorem State.memoryOk_finishJob {s : State} {ctx qi cl : Nat} {e : QEntry} {j : Job} (h : s.memoryOk) :
    (s.finishJob ctx qi cl e j).memoryOk := by
  unfold State.finishJob
  exact memoryOk_ite (memoryOk_setFinished (memoryOk_modCce h)) (memoryOk_modCce h)

theorem State.memoryOk_runTiles {n : Nat} {s : State} {ctx qi cl : Nat} {e : QEntry} (h : s.memoryOk) :
    (s.runTiles n ctx qi cl e).memoryOk := by
  induction n generalizing s with
  | zero => exact h
  | succ n ih =>
    unfold State.runTiles
    dsimp only
    split
    · exact h
    · refine memoryOk_ite h (memoryOk_ite (memoryOk_finishJob h) (memoryOk_ite (memoryOk_cceFault h) ?_))
      split
      · exact memoryOk_cceStop (memoryOk_of_fst ‹_› (memoryOk_tileOnce h))
      · have h1 := memoryOk_of_fst ‹_› (memoryOk_tileOnce h)
        split
        · exact h1
        · exact memoryOk_ite (memoryOk_finishJob h1) (ih h1)

theorem State.memoryOk_beginStep {s : State} {ctx qi cl : Nat} {c : Cce} {e : QEntry} {st : PStep} {bs : List Byte} (h : s.memoryOk) :
    (s.beginStep ctx qi cl c e st bs).memoryOk := by
  unfold State.beginStep
  split
  · exact memoryOk_cceStop (memoryOk_of_fst ‹_› (memoryOk_planStep h))
  · have h1 := memoryOk_of_fst ‹_› (memoryOk_planStep h)
    dsimp only
    refine memoryOk_ite (memoryOk_cceFault (memoryOk_modCce h1)) (memoryOk_ite ?_ (memoryOk_runTiles (memoryOk_modCce h1)))
    split
    · exact memoryOk_ite (memoryOk_finishJob (memoryOk_modCce h1)) (memoryOk_modCce h1)
    · exact memoryOk_modCce h1

theorem State.memoryOk_splitBegin {s : State} {ctx qi cl : Nat} {st : PStep} (h : s.memoryOk) : (s.splitBegin ctx qi cl st).memoryOk :=
  memoryOk_ite (memoryOk_cceFault h) (memoryOk_modCce h)

theorem State.memoryOk_splitNext {s : State} {ctx qi cl : Nat} (h : s.memoryOk) : (s.splitNext ctx qi cl).memoryOk := by
  unfold State.splitNext
  dsimp only
  split
  · exact memoryOk_cceFault h
  · exact memoryOk_modCce h

theorem State.memoryOk_stepEvent {s : State} {ctx cl code : Nat} (h : s.memoryOk) : (s.stepEvent ctx cl code).memoryOk := by
  unfold State.stepEvent
  split
  · exact h
  · dsimp only
    refine memoryOk_ite h (memoryOk_ite (memoryOk_cceFault h) ?_)
    split
    · exact memoryOk_ite (memoryOk_runTiles h) h
    · refine memoryOk_ite (memoryOk_cceFault h) ?_
      split
      · exact memoryOk_cceStop (memoryOk_of_fst ‹_› (memoryOk_engineRead h))
      · have h1 := memoryOk_of_fst ‹_› (memoryOk_engineRead h)
        refine memoryOk_ite (memoryOk_cceFault h1) (memoryOk_ite h (memoryOk_ite (memoryOk_splitBegin h1)
          (memoryOk_ite (memoryOk_splitNext h1) (memoryOk_ite (memoryOk_setFinished (memoryOk_modCce h1)) (memoryOk_beginStep h1)))))

theorem State.memoryOk_beginDense {s : State} {ctx qi cl : Nat} {e : QEntry} (h : s.memoryOk) : (s.beginDense ctx qi cl e).memoryOk := by
  unfold State.beginDense
  split
  · exact memoryOk_cceStop (memoryOk_of_fst ‹_› (memoryOk_engineRead h))
  · have h1 := memoryOk_of_fst ‹_› (memoryOk_engineRead h)
    split
    · exact memoryOk_cceFault h1
    · exact memoryOk_modCce h1

theorem memoryOk_evMacRun {s : State} {ctx cl mism tile : Nat} (h : s.memoryOk) : (evMacRun ctx cl mism tile s).memoryOk := by
  unfold evMacRun
  split
  · exact h
  · rename_i qi e _
    have h1 : (if e.sub = 17 ∧ (s.cceOf ctx cl).busy = false then s.beginDense ctx qi cl e else s).memoryOk :=
      State.memoryOk_ite (State.memoryOk_beginDense h) h
    dsimp only
    generalize (if e.sub = 17 ∧ (s.cceOf ctx cl).busy = false then s.beginDense ctx qi cl e else s) = s1 at h1 ⊢
    split
    · exact h1
    · exact State.memoryOk_ite h1 (State.memoryOk_ite (State.memoryOk_cceFault h1) (State.memoryOk_ite (State.memoryOk_cceFault h1)
        (State.memoryOk_ite h1 (State.memoryOk_ite (State.memoryOk_cceFault h1) (State.memoryOk_runTiles h1)))))

end Sys2Proof.Machine

/-! Engine service, launch and context kills, answers and wave scheduling keep the canonical form of memory
(07 R202 to R204, R218; 10 R307 to R310; 12 R367, R373 to R375). -/

namespace Sys2Proof.Machine

/-! ### Engine service (07 R202 to R204, R218) -/

theorem State.memoryOk_denseBegin {s : State} {ctx qi cl : Nat} (h : s.memoryOk) : (s.denseBegin ctx qi cl).memoryOk :=
  memoryOk_ite (memoryOk_cceFault (memoryOk_modCce h)) (memoryOk_modHead (memoryOk_modCce h))

theorem State.memoryOk_of_ite_some {p : Prop} [Decidable p] {a b t : State} (e : (if p then some a else some b) = some t) (ha : a.memoryOk)
    (hb : b.memoryOk) : t.memoryOk := by
  split at e
  · exact Option.some.inj e ▸ ha
  · exact Option.some.inj e ▸ hb

theorem State.memoryOk_forkBegin {s t : State} {ctx qi cl : Nat} {e : QEntry} (h : s.memoryOk) (started : s.forkBegin ctx qi cl e = some t) :
    t.memoryOk := by
  have h1 : (s.engineRead ctx e 31 (ba e.block 0) 64).1.memoryOk := memoryOk_engineRead h
  unfold State.forkBegin at started
  dsimp only at started
  split at started
  · exact absurd started (by simp)
  · rename_i s1 r _ x
    have h2 := memoryOk_of_fst x h1
    split at started
    · exact Option.some.inj started ▸ memoryOk_cceStop (memoryOk_modCce h2)
    · split at started
      · exact Option.some.inj started ▸ memoryOk_cceFault (memoryOk_modCce h2)
      · exact memoryOk_of_ite_some started (memoryOk_cceFault (memoryOk_modCce h2))
          (memoryOk_modHead (memoryOk_ite (memoryOk_modCce h2) (memoryOk_modCce (memoryOk_modCce h2))))

theorem State.memoryOk_clearEngineError {s : State} {ctx cl : Nat} (h : s.memoryOk) : (s.clearEngineError ctx cl).memoryOk := h

theorem State.memoryOk_beginCommand {s t : State} {ctx qi : Nat} {e : QEntry} (h : s.memoryOk) (started : s.beginCommand ctx qi e = some t) :
    t.memoryOk := by
  unfold State.beginCommand at started
  dsimp only at started
  split at started
  · exact Option.some.inj started ▸ memoryOk_setFinished (memoryOk_modCce h)
  · split at started
    · exact memoryOk_forkBegin (memoryOk_clearEngineError h) started
    · split at started
      · exact Option.some.inj started ▸ memoryOk_denseBegin (memoryOk_clearEngineError h)
      · exact Option.some.inj started ▸ h

theorem State.memoryOk_forgetLines {s : State} {p : Nat → Bool} (h : s.memoryOk) : (s.forgetLines p).memoryOk := h

theorem memoryOk_evQueuedCommandStart {s : State} {ctx qi : Nat} (h : s.memoryOk) : (evQueuedCommandStart ctx qi s).memoryOk := by
  unfold evQueuedCommandStart
  dsimp only
  split
  · exact h
  · split
    · split
      · exact h
      · split
        · rename_i started
          refine State.memoryOk_forgetLines (State.memoryOk_beginCommand ?_ started)
          exact State.memoryOk_ite h (State.memoryOk_modCce h)
        · exact State.memoryOk_engineRead h
    · exact h

theorem State.memoryOk_unnameCounter {s : State} {ctx cid n : Nat} (h : s.memoryOk) : (s.unnameCounter ctx cid n).memoryOk := by
  have h1 : (if (s.rowc cid n).owner = some ctx then s.setRowc cid n { s.rowc cid n with named := false } else s).memoryOk :=
    memoryOk_ite h h
  unfold State.unnameCounter
  dsimp only
  split
  · exact memoryOk_ite (memoryOk_setByte _ _ h1) h1
  · exact h1

theorem State.memoryOk_leaveQueues {s : State} {ctx : Nat} {e : QEntry} {code : Nat} (h : s.memoryOk) :
    (s.leaveQueues ctx e code).memoryOk := by
  have h1 := memoryOk_foldl (f := fun s (t : Nat × Nat) => s.modQueue ctx t.1 (fun q =>
    { q with entries := q.entries.filter (fun x => x.seq != t.2) }.remember t.2 code)) (fun _ _ => memoryOk_modCtx _ _) e.tickets h
  unfold State.leaveQueues
  dsimp only
  split
  · exact memoryOk_ite (memoryOk_unnameCounter h1) (memoryOk_unnameCounter h1)
  · exact memoryOk_ite h1 h1

theorem memoryOk_evQueuedCommandComplete {s : State} {ctx qi : Nat} (h : s.memoryOk) : (evQueuedCommandComplete ctx qi s).memoryOk := by
  unfold evQueuedCommandComplete
  dsimp only
  split
  · exact h
  · exact State.memoryOk_ite h (State.memoryOk_ite (State.memoryOk_ite (State.memoryOk_leaveQueues h) h)
      (State.memoryOk_ite (State.memoryOk_leaveQueues (State.memoryOk_countRows h)) h))

theorem State.memoryOk_cancelCommand {s : State} {ctx qi : Nat} {e : QEntry} (h : s.memoryOk) : (s.cancelCommand ctx qi e).memoryOk := by
  unfold State.cancelCommand
  dsimp only
  refine memoryOk_leaveQueues ?_
  have h1 : ∀ {t : State}, t.memoryOk → ∀ {p : Prop} [Decidable p] {f : Cce → Cce}, (if p then t.modCce ctx (engineOf qi - 72) f else t).memoryOk :=
    fun ht => memoryOk_ite (memoryOk_modCce ht) ht
  refine h1 (memoryOk_ite h (memoryOk_ite (memoryOk_spoilAll (memoryOk_copyRest h)) (memoryOk_ite (memoryOk_spoilAll h)
    (memoryOk_ite ?_ h))))
  split
  · exact memoryOk_spoilAll h
  · exact h

/-! ### Kills (12 R374, R375) -/

theorem State.memoryOk_endWaves {s : State} {lid : Nat} (h : s.memoryOk) : (s.endWaves lid).memoryOk :=
  memoryOk_foldl (fun _ _ => memoryOk_fillActive) _ h

theorem State.memoryOk_cancelCommands {s : State} {ctx lid : Nat} (h : s.memoryOk) : (s.cancelCommands ctx lid).memoryOk :=
  memoryOk_foldl (fun _ _ => memoryOk_cancelCommand) _ h

theorem State.memoryOk_freeUp {fuel : Nat} {s : State} {r : Ray} (h : s.memoryOk) : (State.freeUp fuel s r).memoryOk :=
  memoryOk_of_mem h (freeUp_mem ..)

theorem State.memoryOk_retireRay {s : State} {id : Nat} (h : s.memoryOk) : (s.retireRay id).memoryOk := by
  unfold State.retireRay
  split
  · exact h
  · exact memoryOk_ite h (memoryOk_freeRay h)

theorem State.memoryOk_endHeld {s : State} {lid : Nat} (h : s.memoryOk) : (s.endHeld lid).memoryOk :=
  memoryOk_foldl (fun _ _ hs => memoryOk_ite hs (memoryOk_freeUp hs)) _ h

theorem State.memoryOk_endRays {s : State} {lid : Nat} (h : s.memoryOk) : (s.endRays lid).memoryOk := by
  refine memoryOk_foldl (fun u x hu => ?_) _ h
  refine memoryOk_ite ?_ (memoryOk_retireRay hu)
  exact hu

theorem State.memoryOk_modGroup {s : State} {g : Nat} {f : Group → Group} (h : s.memoryOk) : (s.modGroup g f).memoryOk := h

theorem State.memoryOk_writeWaiting {s : State} {lid : Nat} (h : s.memoryOk) : (s.writeWaiting lid).memoryOk :=
  memoryOk_foldl (fun _ _ hs => memoryOk_foldl (fun _ _ => memoryOk_putRecord _ _) _ (memoryOk_modGroup hs)) _ h

theorem State.memoryOk_setLaunches {s : State} {ls : SMap Launch} (h : s.memoryOk) : ({ s with launches := ls } : State).memoryOk := h

theorem State.memoryOk_killOne {s : State} {lid : Nat} (h : s.memoryOk) : (s.killOne lid).memoryOk := by
  unfold State.killOne
  split
  · exact h
  · rename_i l _
    have h1 := memoryOk_endRays (lid := lid) (memoryOk_endHeld (lid := lid) (memoryOk_cancelCommands (ctx := l.ctx) (lid := lid)
      (memoryOk_endWaves (lid := lid) (memoryOk_writeWaiting (lid := lid) h))))
    exact memoryOk_ite h (memoryOk_setLaunches (memoryOk_modCtx l.ctx (fun c => c.dropRecords lid) h1))

theorem State.memoryOk_killLaunch {fuel : Nat} {s : State} {lid : Nat} (h : s.memoryOk) : (State.killLaunch fuel s lid).memoryOk := by
  induction fuel generalizing s lid with
  | zero => exact memoryOk_killOne h
  | succ fuel ih => exact memoryOk_killOne (memoryOk_foldl (fun _ _ hs => ih hs) _ h)

theorem State.memoryOk_discardTile {s : State} {cid tile : Nat} (h : s.memoryOk) : (s.discardTile cid tile).memoryOk := by
  unfold State.discardTile
  refine memoryOk_ite h ?_
  split
  · exact h
  · exact memoryOk_leaveTile _ _ h

theorem State.memoryOk_clearToken {s : State} {token : Nat} (h : s.memoryOk) : (s.clearToken token).memoryOk := h

theorem State.memoryOk_endHalving {s : State} {tile id : Nat} (h : s.memoryOk) : (s.endHalving tile id).memoryOk := by
  unfold State.endHalving
  split
  · exact memoryOk_ite (memoryOk_grantShare h) h
  · exact h

theorem State.memoryOk_discardCopies {s : State} {ctx : Nat} (h : s.memoryOk) : (s.discardCopies ctx).memoryOk :=
  memoryOk_foldl (fun _ _ => memoryOk_pushAdds) _ (memoryOk_foldl (fun _ _ hs => memoryOk_endHalving (memoryOk_clearToken hs)) _
    (memoryOk_foldl (fun _ _ => memoryOk_discardTile) _ h))

theorem State.memoryOk_clearWake {s : State} {image : Addr} (h : s.memoryOk) : (s.clearWake image).memoryOk := memoryOk_putBytes _ _ h

theorem State.memoryOk_putImageState {s : State} {image v : Nat} (h : s.memoryOk) : (s.putImageState image v).memoryOk :=
  memoryOk_putBytes _ _ h

theorem State.memoryOk_killContext {s : State} {ctx : Nat} (h : s.memoryOk) : (s.killContext ctx).memoryOk := by
  unfold State.killContext
  split
  · exact memoryOk_putImageState h
  · rename_i c _
    dsimp only
    have kills := fun (l : List Nat) => memoryOk_discardCopies (ctx := ctx) (memoryOk_foldl (f := fun s l => s.killLaunch 10 l)
      (fun _ _ => memoryOk_killLaunch) l (show (s.setCtx ctx { c with state := 2, backlog := [] }).memoryOk from h))
    exact memoryOk_putImageState (memoryOk_ite (memoryOk_clearWake (memoryOk_modCtx _ _ (kills _))) (memoryOk_modCtx _ _ (kills _)))

/-! ### Answers (12 R367, R373, R374) -/

theorem State.memoryOk_dropRay {s : State} {id : Nat} (h : s.memoryOk) : (s.dropRay id).memoryOk := by
  unfold State.dropRay
  split
  · exact h
  · exact memoryOk_retireRay (memoryOk_modCtx _ _ h)

theorem State.memoryOk_releaseFresh {s : State} {w : Wave} {m : Word} (h : s.memoryOk) : (s.releaseFresh w m).memoryOk := by
  refine memoryOk_foldl (fun u l hu => ?_) _ h
  dsimp only
  refine memoryOk_ite ?_ hu
  split
  · exact memoryOk_retireRay hu
  · exact hu
  · exact hu

theorem State.memoryOk_rereadMonw {s : State} {k : Nat} {w : Wave} (h : s.memoryOk) : (s.rereadMonw k w).memoryOk := by
  unfold State.rereadMonw
  split
  · rename_i p _
    split
    · dsimp only
      have h1 : (if s.drainsAfar (tileOf p.key) 31 = true then s.askLeave (tileOf p.key)
          else (s.settleTile p.key 31).recallLine (lineOf p.key)).memoryOk :=
        memoryOk_ite (memoryOk_askLeave h) (memoryOk_recallLine _ (memoryOk_settleTile _ _ h))
      exact memoryOk_ite (memoryOk_wake _ h1) (memoryOk_ite h1 (memoryOk_addMonitor h1))
    · split
      · exact memoryOk_sendTo (s := { s with txns := s.txns.filter (fun t => !t.parks (· == w.uid)) }) ‹_› h
      · exact h
  · exact h

theorem State.memoryOk_unpark {s : State} {old new : Wave} (h : s.memoryOk) : (s.unpark old new).memoryOk := by
  unfold State.unpark
  split <;> exact h

theorem State.memoryOk_setWave {s : State} {k : Nat} {w : Wave} (h : s.memoryOk) : (s.setWave k w).memoryOk := h

theorem State.memoryOk_wakeFaulted {s : State} {k : Nat} {old new : Wave} (h : s.memoryOk) : (s.wakeFaulted k old new).memoryOk :=
  memoryOk_rereadMonw (memoryOk_setWave (memoryOk_unpark h))

theorem State.memoryOk_wakeWave {s : State} {answers : List Pending} {k : Nat} (h : s.memoryOk) : (s.wakeWave answers k).memoryOk := by
  unfold State.wakeWave
  split
  · exact h
  · split
    · exact h
    · exact h
    · exact memoryOk_rereadMonw (memoryOk_setWave h)
    · exact memoryOk_ite (memoryOk_wakeFaulted h) (memoryOk_wakeFaulted (memoryOk_releaseFresh h))

theorem State.memoryOk_tryResume {s : State} {g : Nat} (h : s.memoryOk) : (s.tryResume g).memoryOk := by
  unfold State.tryResume
  split
  · exact h
  · split
    · exact h
    · exact memoryOk_ite (memoryOk_modCtx _ _ (memoryOk_modGroup (memoryOk_foldl (fun _ _ => memoryOk_wakeWave) _ h))) h

theorem memoryOk_evGroupHaltComplete {s : State} {g : Nat} (h : s.memoryOk) : (evGroupHaltComplete g s).memoryOk :=
  State.memoryOk_completeHalt _ h

theorem State.memoryOk_badReply {s : State} {ctx : Nat} (h : s.memoryOk) : (s.badReply ctx).memoryOk := memoryOk_ite h h

theorem State.memoryOk_forget {s : State} {ctx seq : Nat} (h : s.memoryOk) : (s.forget ctx seq).memoryOk := memoryOk_modCtx _ _ h

theorem State.memoryOk_applyAnswer {s : State} {ctx : Nat} {p : Pending} {code : Nat} (h : s.memoryOk) :
    (s.applyAnswer ctx p code).memoryOk := by
  have h1 := memoryOk_forget (ctx := ctx) (seq := p.seq) h
  unfold State.applyAnswer
  refine memoryOk_ite (memoryOk_forget (memoryOk_killLaunch h)) (memoryOk_ite (memoryOk_tryResume (memoryOk_modGroup h))
    (memoryOk_ite ?_ (memoryOk_ite (memoryOk_ite (memoryOk_dropRay h1) h1) h1)))
  dsimp only
  split
  · exact h1
  · exact memoryOk_ite h1 (memoryOk_ite (memoryOk_cancelCommand h1) (memoryOk_modHead h1))

theorem State.memoryOk_answer {s : State} {ctx seq code : Nat} (h : s.memoryOk) : (s.answer ctx seq code).memoryOk := by
  unfold State.answer
  split
  · exact memoryOk_badReply h
  · exact memoryOk_ite (memoryOk_applyAnswer (memoryOk_modCtx _ _ h)) (memoryOk_modCtx _ _ h)

theorem State.memoryOk_trapReply {s : State} {value : Addr} (h : s.memoryOk) : (s.trapReply value).memoryOk := memoryOk_answer h

theorem memoryOk_evTrapreplyInvalid {s : State} {value : Addr} (h : s.memoryOk) : (evTrapreplyInvalid value s).memoryOk :=
  State.memoryOk_ite h (State.memoryOk_badReply h)

theorem memoryOk_evEngineStatusClear {s : State} {reg : Reg} {value : Word} (h : s.memoryOk) : (evEngineStatusClear reg value s).memoryOk := by
  unfold evEngineStatusClear
  split
  · exact State.memoryOk_ite (State.memoryOk_modCce h) h
  · exact State.memoryOk_ite (State.memoryOk_modCtx _ _ h) h
  · exact State.memoryOk_ite (State.memoryOk_modCtx _ _ h) h
  · exact h

/-! ### Registers, spills and exchanges of waves (10 R307 to R310) -/

theorem memoryOk_evRegreqGrant {s : State} {cid part : Nat} (h : s.memoryOk) : (evRegreqGrant cid part s).memoryOk := by
  unfold evRegreqGrant
  dsimp only
  split
  · exact h
  · split
    · exact h
    · exact State.memoryOk_ite h h

theorem State.memoryOk_writeSpill {s : State} {k : Nat} {w : Wave} (h : s.memoryOk) : (s.writeSpill k w).1.memoryOk := by
  unfold State.writeSpill
  split
  · exact h
  · rename_i c _
    have h1 := memoryOk_range deviceTlb w.ctx .w 400 (c.spillArea k) (0x3100 + 128 * w.need) [] h
    dsimp only
    split
    · have h2 := memoryOk_of_fst ‹_› h1
      split
      · exact h2
      · dsimp only
        exact memoryOk_unitFaultFst h2
    · exact memoryOk_of_fst ‹_› h1
    · have h2 := memoryOk_foldl (f := fun s (p : Nat × List Byte) => (s.writeVirtual deviceTlb w.ctx (c.spillArea k + p.1) p.2 (w.prio % 4)).1)
        (fun _ _ => memoryOk_writeVirtualAs) w.spillPieces (memoryOk_of_fst ‹_› h1)
      dsimp only
      exact h2

theorem State.memoryOk_readSpill {s : State} {k : Nat} {w : Wave} (h : s.memoryOk) : (s.readSpill k w).1.memoryOk := by
  unfold State.readSpill
  split
  · exact h
  · split <;> exact memoryOk_of_fst ‹_› (memoryOk_readVirtual _ _ _ _ _ h)

theorem State.memoryOk_spillFirst {s : State} {ws : List (Nat × Wave)} (h : s.memoryOk) : (s.spillFirst ws).memoryOk := by
  induction ws generalizing s with
  | nil => exact h
  | cons p ws ih =>
    unfold State.spillFirst
    refine memoryOk_ite h ?_
    split
    · exact memoryOk_fillActive (memoryOk_setWave (memoryOk_of_fst ‹_› (memoryOk_writeSpill h)))
    · exact ih (memoryOk_of_fst ‹_› (memoryOk_writeSpill h))

theorem memoryOk_evSpillWave {s : State} {cid part : Nat} (h : s.memoryOk) : (evSpillWave cid part s).memoryOk := by
  unfold evSpillWave
  dsimp only
  split
  · exact h
  · exact State.memoryOk_ite (State.memoryOk_spillFirst h) h

theorem State.memoryOk_returnSpilled {s : State} {k : Nat} (h : s.memoryOk) : (s.returnSpilled k).memoryOk := by
  unfold State.returnSpilled
  split
  · exact h
  · dsimp only
    refine memoryOk_ite h (memoryOk_ite h ?_)
    split
    · exact memoryOk_of_fst ‹_› (memoryOk_readSpill h)
    · exact memoryOk_fillActive (memoryOk_setWave (memoryOk_of_fst ‹_› (memoryOk_readSpill h)))

theorem memoryOk_evMonwSpill {s : State} {k : Nat} (h : s.memoryOk) : (evMonwSpill k s).memoryOk := by
  unfold evMonwSpill
  split
  · exact h
  · split
    · exact State.memoryOk_ite (State.memoryOk_spillFirst h) h
    · exact h

theorem memoryOk_evWaveExchange {s : State} {cid part : Nat} (h : s.memoryOk) : (evWaveExchange cid part s).memoryOk := by
  unfold evWaveExchange
  dsimp only
  split
  · exact h
  · split
    · exact h
    · exact State.memoryOk_ite h h

theorem memoryOk_evWaveAgeBoost {s : State} {k : Nat} (h : s.memoryOk) : (evWaveAgeBoost k s).memoryOk := h

end Sys2Proof.Machine

/-! Context operations keep the canonical form of memory (12 R363, R364, R367, R375). -/

namespace Sys2Proof.Machine

/-! ### The image of a switched-out context -/

theorem State.memoryOk_writeImage {s : State} {ctx : Nat} {c : Ctx} {image : Nat} (h : s.memoryOk) : (s.writeImage ctx c image).memoryOk :=
  memoryOk_foldl (fun _ _ => memoryOk_putRange _ _) _ (memoryOk_zeroRange _ _ h)

theorem State.memoryOk_startOp {s : State} {ctx op : Nat} {f : State → State} (hf : ∀ u : State, u.memoryOk → (f u).memoryOk)
    (h : s.memoryOk) : (s.startOp ctx op f).memoryOk :=
  memoryOk_ite h (hf _ h)

theorem State.memoryOk_setResult {s : State} {r : Nat} (h : s.memoryOk) : (s.setResult r).memoryOk := h

theorem State.memoryOk_endOp {s : State} (h : s.memoryOk) : s.endOp.memoryOk := h

theorem memoryOk_evSwitchOut {s : State} {ctx : Nat} (h : s.memoryOk) : (evSwitchOut ctx s).memoryOk := by
  refine State.memoryOk_startOp (fun u hu => ?_) h
  dsimp only
  split
  · exact State.memoryOk_setResult hu
  · exact State.memoryOk_ite (State.memoryOk_setResult hu) (State.memoryOk_ite (State.memoryOk_setResult hu)
      (State.memoryOk_setResult (State.memoryOk_foldl (fun _ _ => State.memoryOk_haltGroup _) _ (State.memoryOk_modCtx _ _ hu))))

theorem State.memoryOk_spillAll {s : State} {ws : List (Nat × Wave)} (h : s.memoryOk) : (s.spillAll ws).1.memoryOk := by
  induction ws generalizing s with
  | nil => exact h
  | cons p ws ih =>
    unfold State.spillAll
    split
    · exact ih h
    · split
      · exact ih (memoryOk_setWave (memoryOk_of_fst ‹_› (memoryOk_writeSpill h)))
      · exact memoryOk_of_fst ‹_› (memoryOk_writeSpill h)

theorem State.memoryOk_saveArea {s : State} {ctx cl : Nat} {x : Cce} (h : s.memoryOk) : (s.saveArea ctx cl x).memoryOk :=
  memoryOk_modCce (memoryOk_writeVirtual _ _ _ _ (show (s.freeBytes (2 * x.bbcap)).1.memoryOk from h))

theorem State.memoryOk_saveEngines {s : State} {ctx : Nat} {c : Ctx} (h : s.memoryOk) : (s.saveEngines ctx c).memoryOk :=
  memoryOk_foldl (fun _ _ => memoryOk_saveArea) _ h

theorem State.memoryOk_drainContext {s : State} {ctx : Nat} (h : s.memoryOk) : (s.drainContext ctx).memoryOk :=
  memoryOk_leaveTiles _ (memoryOk_flushContext h)

theorem State.memoryOk_setCores {s : State} {cs : SMap Core} (h : s.memoryOk) : ({ s with cores := cs } : State).memoryOk := h

theorem State.memoryOk_setWaves {s : State} {ws aw : SMap Wave} (h : s.memoryOk) : ({ s with waves := ws, away := aw } : State).memoryOk := h

theorem State.memoryOk_finishSwitchOut {s : State} {ctx : Nat} {c : Ctx} (h : s.memoryOk) : (s.finishSwitchOut ctx c).memoryOk := by
  unfold State.finishSwitchOut
  extract_lets mine image free killed
  split
  · exact memoryOk_of_fst ‹_› (memoryOk_spillAll h)
  · rename_i s1 x
    have h1 := memoryOk_of_fst x (memoryOk_spillAll h)
    extract_lets s2 s3 moved s4 s5 s6 s7
    have h2 : s2.memoryOk := memoryOk_drainContext (memoryOk_saveEngines h1)
    have h3 : s3.memoryOk := by
      unfold s3
      split
      · exact memoryOk_writeImage h2
      · exact h2
    have h6 : s6.memoryOk := memoryOk_putImageState (memoryOk_modCtx _ _ (memoryOk_setCores (memoryOk_setWaves h3)))
    exact memoryOk_endOp (memoryOk_setResult (memoryOk_foldl (fun _ _ => memoryOk_fillActive) _ (memoryOk_foldl
      (fun _ _ => memoryOk_killLaunch) _ h6)))

/-! ### Taking a context in -/

theorem State.memoryOk_setFresh {s : State} {n : Nat} (h : s.memoryOk) : ({ s with fresh := n } : State).memoryOk := h

theorem State.memoryOk_restoreAreas {s : State} {ctx : Nat} {cs got : List Cce} (h : s.memoryOk) : (s.restoreAreas ctx cs got).1.memoryOk := by
  induction cs generalizing s got with
  | nil => exact h
  | cons c cs ih =>
    unfold State.restoreAreas
    have h1 := memoryOk_readVirtual deviceTlb ctx c.cxsave.toNat (2 * c.bbcap) 0 h
    split
    · exact memoryOk_of_fst ‹_› h1
    · exact ih (memoryOk_setFresh (memoryOk_of_fst ‹_› h1))
    · exact ih (memoryOk_setFresh (memoryOk_of_fst ‹_› h1))

theorem State.memoryOk_setRowc {s : State} {cid n : Nat} {r : RowCounter} (h : s.memoryOk) : (s.setRowc cid n r).memoryOk := h

theorem State.memoryOk_readRows {s : State} {ctx image : Nat} (h : s.memoryOk) : (s.readRows ctx image).memoryOk := by
  unfold State.readRows
  generalize List.range 1024 = entries
  refine memoryOk_foldl (fun u i hu => ?_) _ h
  dsimp only
  exact memoryOk_ite (memoryOk_setRowc hu) hu

theorem State.memoryOk_applyWake {s : State} {ctx image : Nat} (h : s.memoryOk) : (s.applyWake ctx image).memoryOk :=
  memoryOk_clearWake (memoryOk_foldl (fun _ _ => memoryOk_rereadMonw) _ h)

theorem State.memoryOk_reserveReturns {s : State} {ctx : Nat} (h : s.memoryOk) : (s.reserveReturns ctx).memoryOk := by
  refine memoryOk_foldl (fun u p hu => ?_) _ h
  split
  · exact memoryOk_ite hu (memoryOk_setLaunches hu)
  · exact hu

theorem State.memoryOk_grant {s : State} {ctx : Nat} {new : Bool} {base size : Nat} (h : s.memoryOk) : (s.grant ctx new base size).memoryOk := by
  unfold State.grant
  exact memoryOk_ite h (memoryOk_ite h h)

theorem State.memoryOk_loadContext {s : State} {ctx image : Nat} {new : Bool} {c : Ctx} {cces : List Cce} {regions : Except Bad (List Byte)}
    (h : s.memoryOk) : (s.loadContext ctx image new c cces regions).memoryOk := by
  have h1 : ∀ c1, ((s.tick1.setCtx ctx c1).grant ctx new c.csbase c.cssize).memoryOk := fun c1 =>
    memoryOk_grant (show (s.tick1.setCtx ctx c1).memoryOk from h)
  unfold State.loadContext
  dsimp only
  refine memoryOk_foldl (fun _ _ => memoryOk_tryResume) _ (memoryOk_foldl (fun u p hu => ?_) _ (memoryOk_flushBacklog _ _
    (memoryOk_setRegions (memoryOk_putImageState (memoryOk_reserveReturns (memoryOk_applyWake
      (memoryOk_ite (h1 _) (memoryOk_readRows (h1 _)))))))))
  split
  · exact memoryOk_applyAnswer hu
  · exact hu

theorem State.memoryOk_readContext {s : State} {ctx image : Nat} {new : Bool} {old c : Ctx} {cces : List Cce} (h : s.memoryOk) :
    (s.readContext ctx image new old c cces).memoryOk := by
  have h1 : ∀ w, (((s.setCtx ctx w).dropTlb ctx).readVirtual deviceTlb ctx c.rtbase.toNat 1024).1.memoryOk := fun w =>
    memoryOk_readVirtual _ _ _ _ _ (show ((s.setCtx ctx w).dropTlb ctx).memoryOk from h)
  unfold State.readContext
  dsimp only
  split
  · exact memoryOk_of_fst ‹_› (h1 _)
  · rename_i s1 r _ x
    have h2 : s1.memoryOk := memoryOk_of_fst x (h1 _)
    have h3 : (if new = true then (s1, some cces) else s1.restoreAreas ctx cces []).1.memoryOk := by
      split
      · exact h2
      · exact memoryOk_restoreAreas h2
    split
    · exact memoryOk_of_fst ‹_› h3
    · exact memoryOk_setResult (memoryOk_loadContext (memoryOk_of_fst ‹_› h3))

theorem State.memoryOk_switchIn {s : State} {ctx image : Nat} (h : s.memoryOk) : (s.switchIn ctx image).memoryOk := by
  have h1 : ∀ r, (s.setResult r).memoryOk := fun _ => h
  unfold State.switchIn
  dsimp only
  exact memoryOk_ite (h1 _) (memoryOk_ite (h1 _) (memoryOk_ite (h1 _) (memoryOk_ite (h1 _) (memoryOk_ite (h1 _) (memoryOk_readContext h)))))

theorem memoryOk_evSwitchIn {s : State} {ctx : Nat} (h : s.memoryOk) : (evSwitchIn ctx s).memoryOk :=
  State.memoryOk_startOp (fun _ => State.memoryOk_switchIn) h

theorem State.memoryOk_returnAway {s : State} {k : Nat} {w : Wave} (h : s.memoryOk) : (s.returnAway k w).memoryOk := by
  unfold State.returnAway
  dsimp only
  refine memoryOk_ite h ?_
  have h1 := memoryOk_readSpill (k := k) (w := w) (memoryOk_changeSplit (cid := cidOf k)
    (split := (s.splitOf w.lid).getD (s.core (cidOf k)).split) h)
  split
  · exact memoryOk_of_fst ‹_› h1
  · have h2 := memoryOk_of_fst ‹_› h1
    exact memoryOk_tryResume (memoryOk_fillActive (memoryOk_dropClean (memoryOk_of_mem h2 rfl)))

theorem memoryOk_evSpillReturn {s : State} {k : Nat} (h : s.memoryOk) : (evSpillReturn k s).memoryOk := by
  unfold evSpillReturn
  split
  · exact State.memoryOk_returnAway h
  · exact State.memoryOk_returnSpilled h

/-! ### The other operations -/

theorem memoryOk_evCtxNone {s : State} {ctx : Nat} (h : s.memoryOk) : (evCtxNone ctx s).memoryOk :=
  State.memoryOk_startOp (fun _ hu => State.memoryOk_endOp (State.memoryOk_setResult hu)) h

theorem memoryOk_evCtxReservedOp {s : State} {ctx op : Nat} (h : s.memoryOk) : (evCtxReservedOp ctx op s).memoryOk :=
  State.memoryOk_ite (State.memoryOk_startOp (fun _ hu => State.memoryOk_endOp (State.memoryOk_setResult hu)) h) h

theorem memoryOk_evKillContext {s : State} {ctx : Nat} (h : s.memoryOk) : (evKillContext ctx s).memoryOk :=
  State.memoryOk_startOp (fun _ hu => State.memoryOk_ite (State.memoryOk_setResult hu) (State.memoryOk_ite (State.memoryOk_setResult hu)
    (State.memoryOk_setResult (State.memoryOk_killContext hu)))) h

theorem memoryOk_evKillLaunch {s : State} {ctx : Nat} (h : s.memoryOk) : (evKillLaunch ctx s).memoryOk :=
  State.memoryOk_startOp (fun _ hu => State.memoryOk_ite (State.memoryOk_setResult (State.memoryOk_killLaunch hu))
    (State.memoryOk_setResult hu)) h

theorem memoryOk_evHaltContext {s : State} {ctx : Nat} (h : s.memoryOk) : (evHaltContext ctx s).memoryOk :=
  State.memoryOk_startOp (fun _ hu => State.memoryOk_ite (State.memoryOk_setResult (State.memoryOk_modCtx _ _
    (State.memoryOk_foldl (fun _ _ => State.memoryOk_haltGroup _) _ hu))) (State.memoryOk_setResult hu)) h

theorem memoryOk_evContextOpComplete {s : State} (h : s.memoryOk) : (evContextOpComplete s).memoryOk := by
  unfold evContextOpComplete
  dsimp only
  refine State.memoryOk_ite h ?_
  split
  · exact State.memoryOk_endOp h
  · have h1 := State.memoryOk_drainContext (ctx := s.regs.ctxctl.toNat % 4096) h
    exact State.memoryOk_ite (State.memoryOk_ite (State.memoryOk_ite (State.memoryOk_finishSwitchOut h1) h1) h)
      (State.memoryOk_ite (State.memoryOk_switchIn h) (State.memoryOk_ite h (State.memoryOk_endOp h)))

end Sys2Proof.Machine

/-! The traversal unit keeps the canonical form of memory (11 R327 to R339). -/

namespace Sys2Proof.Machine

theorem Walk.memoryOk_read {w : Walk} {a n : Nat} (h : w.s.memoryOk) : (w.read a n).1.s.memoryOk := by
  unfold Walk.read
  split <;> exact State.memoryOk_of_fst ‹_› (State.memoryOk_invariantRead h)

/-- What a read of geometry leaves, named by its result. -/
theorem Walk.memoryOk_of_read {w w1 : Walk} {a n : Nat} {r : Except WalkEnd (List Byte)} (e : w.read a n = (w1, r)) (h : w.s.memoryOk) :
    w1.s.memoryOk := by
  have h1 := memoryOk_read (a := a) (n := n) h
  rwa [e] at h1

theorem Walk.memoryOk_node {w : Walk} {a : Nat} {sp : Space} (h : w.s.memoryOk) : (w.node a sp).1.s.memoryOk := by
  unfold Walk.node
  split
  · exact h
  · split
    · exact memoryOk_of_read ‹_› h
    · have h1 := memoryOk_of_read ‹_› h
      dsimp only
      split
      · exact h1
      · split
        · exact h1
        · refine State.memoryOk_foldl_fst (fun r i hr => ?_) _ (State.memoryOk_pick h1)
          split
          · exact hr
          · split
            · exact hr
            · exact State.memoryOk_pick hr

theorem Walk.memoryOk_inst {w : Walk} {a : Nat} (h : w.s.memoryOk) : (w.inst a).1.s.memoryOk := by
  unfold Walk.inst
  split
  · exact memoryOk_of_read ‹_› h
  · have h1 := memoryOk_of_read ‹_› h
    dsimp only
    split
    · exact h1
    · split <;> exact h1

theorem Walk.memoryOk_ite {β : Type} {p : Prop} [Decidable p] {x y : Walk × β} (hx : x.1.s.memoryOk) (hy : y.1.s.memoryOk) :
    (if p then x else y).1.s.memoryOk := by
  split
  · exact hx
  · exact hy

theorem Walk.memoryOk_leaf {shaders : List Shader} {w : Walk} {a : Nat} {sp : Space} (h : w.s.memoryOk) :
    (Walk.leaf shaders w a sp).1.s.memoryOk := by
  -- The rounding is named, so that the kernel does not evaluate it where it reduces the matches below.
  obtain ⟨rounding, named⟩ : ∃ rounding, roundF32 = rounding := ⟨_, rfl⟩
  unfold Walk.leaf
  rw [named]
  split
  · exact memoryOk_of_read ‹_› h
  · have h1 := memoryOk_of_read ‹_› h
    dsimp only
    refine memoryOk_ite h1 (memoryOk_ite h1 ?_)
    split
    · exact h1
    · exact memoryOk_ite h1 (memoryOk_ite h1 (memoryOk_ite h1 h1))

theorem Walk.memoryOk_run {shaders : List Shader} {fuel : Nat} {w : Walk} {vs : List Visit} (h : w.s.memoryOk) :
    (Walk.run shaders fuel w vs).1.s.memoryOk := by
  induction fuel generalizing w vs with
  | zero => exact h
  | succ fuel ih =>
    cases vs with
    | nil => exact h
    | cons v vs =>
      unfold Walk.run
      split
      · exact h
      · extract_lets r
        have h1 : r.1.s.memoryOk := by
          cases v with
          | node a sp => exact memoryOk_node h
          | inst a sp => exact memoryOk_inst h
          | leaf a sp => exact memoryOk_leaf h
        clear_value r
        obtain ⟨w1, e | more⟩ := r
        · cases e <;> exact h1
        · exact ih h1

theorem State.memoryOk_setRay {s : State} {id : Nat} {r : Ray} (h : s.memoryOk) : (s.setRay id r).memoryOk := h

theorem State.memoryOk_rayEvent {s : State} {id : Nat} {r : Ray} {kind index : Nat} (h : s.memoryOk) : (s.rayEvent id r kind index).memoryOk :=
  memoryOk_ite (memoryOk_enterBin (memoryOk_setRay h)) (memoryOk_dropRay (memoryOk_setRay h))

theorem State.memoryOk_rayEnds {s : State} {id : Nat} {r : Ray} (h : s.memoryOk) : (s.rayEnds id r).memoryOk := by
  unfold State.rayEnds
  split <;> exact memoryOk_rayEvent h

theorem State.memoryOk_rayFault {s : State} {id : Nat} {r : Ray} {c : Cause} {a : Nat} (h : s.memoryOk) : (s.rayFault id r c a).memoryOk := by
  unfold State.rayFault
  dsimp only
  exact memoryOk_setRay (memoryOk_unitFaultFst h)

theorem State.memoryOk_addTrstat {s : State} {ctx cl : Nat} {f : Flags} (h : s.memoryOk) : (s.addTrstat ctx cl f).memoryOk :=
  memoryOk_modCtx _ _ h

theorem memoryOk_evRayTraverse {s : State} {id : Nat} (h : s.memoryOk) : (evRayTraverse id s).memoryOk := by
  -- The walk is named, so that the kernel does not evaluate it where it reduces the matches below.
  obtain ⟨walk, named⟩ : ∃ walk, Walk.run = walk := ⟨_, rfl⟩
  have walked : ∀ shaders fuel w vs, w.s.memoryOk → (walk shaders fuel w vs).1.s.memoryOk := by
    rw [← named]
    exact fun _ _ _ _ hw => Walk.memoryOk_run hw
  unfold evRayTraverse
  rw [named]
  split
  · exact h
  · split
    · exact h
    · refine State.memoryOk_ite h (State.memoryOk_ite (State.memoryOk_rayFault h) (State.memoryOk_ite (State.memoryOk_rayEnds h) ?_))
      rename_i r _ _ _ _
      dsimp only
      generalize reached : walk _ _ _ _ = x
      have h1 : x.1.s.memoryOk := reached ▸ walked _ _ _ _ h
      have h2 := State.memoryOk_addTrstat (ctx := r.ctx) (cl := rayCluster id) (f := x.1.flags) h1
      split
      · exact State.memoryOk_rayEnds h2
      · exact State.memoryOk_rayEvent h2
      · exact State.memoryOk_rayFault h2
      · exact State.memoryOk_setRay h2

end Sys2Proof.Machine

/-! Velile Links, DOMAIN, LINKCTL and invalidation keep the canonical form of memory (09 R295; 14 R387 to R394). -/

namespace Sys2Proof.Machine

/-! ### Invalidation (09 R295) -/

theorem memoryOk_evInvalidationRequest {s : State} {ctx lo hi : Nat} (h : s.memoryOk) : (evInvalidationRequest ctx lo hi s).memoryOk := by
  unfold evInvalidationRequest
  split <;> exact h

theorem State.memoryOk_dropRange {s : State} {i : Invalidation} (h : s.memoryOk) : (s.dropRange i).memoryOk := h

theorem State.memoryOk_setRegs {s : State} {r : Regs} (h : s.memoryOk) : (s.setRegs r).memoryOk := h

theorem memoryOk_evInvalidationComplete {s : State} (h : s.memoryOk) : (evInvalidationComplete s).memoryOk := by
  unfold evInvalidationComplete
  split
  · exact h
  · rename_i i _
    have h1 := State.memoryOk_leaveTiles i.ctx (State.memoryOk_flushContext (ctx := i.ctx) h)
    exact State.memoryOk_ite h1 (State.memoryOk_setRegs (State.memoryOk_dropRange h1))

/-! ### Transactions that end (14 R390) -/

theorem State.memoryOk_modWave {s : State} {k : Nat} {f : Wave → Wave} (h : s.memoryOk) : (s.modWave k f).memoryOk := h

theorem State.memoryOk_answerLane {s : State} {uid : Nat} {iss : Issue} {token : Nat} {data : Option (List Byte)} (h : s.memoryOk) :
    (s.answerLane uid iss token data).memoryOk := by
  unfold State.answerLane
  dsimp only
  split
  · exact h
  · exact memoryOk_modWave (memoryOk_askRings h)

theorem State.memoryOk_engineLost {s : State} {token : Nat} {va : Addr} (h : s.memoryOk) : (s.engineLost token va).memoryOk := by
  unfold State.engineLost
  dsimp only
  split
  · exact h
  · exact memoryOk_engineFault (memoryOk_clearToken h)

theorem State.memoryOk_loseTile {s : State} {cid tile : Nat} (h : s.memoryOk) : (s.loseTile cid tile).memoryOk :=
  memoryOk_of_mem h (loseTile_mem ..)

theorem State.memoryOk_landRead {s : State} {r : TileRead} {g : Got} (h : s.memoryOk) : (s.landRead r g).memoryOk :=
  memoryOk_of_mem h (landRead_mem ..)

theorem State.memoryOk_dropTxn {s : State} {token : Nat} (h : s.memoryOk) : (s.dropTxn token).memoryOk := h

theorem State.memoryOk_failTxn {s : State} {t : Txn} (h : s.memoryOk) : (s.failTxn t).memoryOk := by
  have h1 := memoryOk_dropTxn (token := t.token) h
  unfold State.failTxn
  dsimp only
  split
  · exact h
  · exact memoryOk_answerLane h1
  · exact memoryOk_engineLost h1
  · exact h1
  · exact h1
  · exact h1
  · exact memoryOk_clearToken (memoryOk_countLost _ h1)
  · exact memoryOk_loseTile h1
  · exact memoryOk_loseTile h1
  · exact h1
  · exact memoryOk_endHalving h1
  · exact memoryOk_landRead h1

theorem State.memoryOk_finishTxn {s : State} {t : Txn} {data : List Byte} (h : s.memoryOk) : (s.finishTxn t data).memoryOk := by
  have h1 := memoryOk_dropTxn (token := t.token) h
  unfold State.finishTxn
  dsimp only
  split
  · exact h
  · exact memoryOk_answerLane h1
  · exact memoryOk_clearToken h1
  · exact h1
  · exact h1
  · exact h1
  · exact memoryOk_clearToken h1
  · exact memoryOk_joined h1
  · exact memoryOk_deltaDone h1
  · exact h1
  · exact memoryOk_endHalving h1
  · exact memoryOk_landRead h1

theorem State.memoryOk_dropInvariant {s : State} {p : Nat → Bool} (h : s.memoryOk) : (s.dropInvariant p).memoryOk := h

theorem State.memoryOk_loseTiles {s : State} {peer : Nat} (h : s.memoryOk) : (s.loseTiles peer).memoryOk :=
  memoryOk_foldl (fun _ _ => memoryOk_loseTile) _ h

theorem State.memoryOk_setSlices {s : State} {xs : SMap Slice} (h : s.memoryOk) : ({ s with slices := xs } : State).memoryOk := h

theorem State.memoryOk_losePeer {s : State} {peer : Nat} (h : s.memoryOk) : (s.losePeer peer).memoryOk :=
  memoryOk_dropInvariant (memoryOk_forgetLines (memoryOk_setSlices (memoryOk_loseTiles (memoryOk_foldl (fun _ _ => memoryOk_failTxn) _ h))))

/-! ### DOMAIN and the ports (14 R387 to R389) -/

theorem memoryOk_evDomainWrite {s : State} {value : Word} (h : s.memoryOk) : (evDomainWrite value s).memoryOk := by
  unfold evDomainWrite
  dsimp only
  split
  · exact h
  · exact memoryWf_rekey (Nat.mod_lt _ (by decide)) h

theorem State.memoryOk_setPort {s : State} {n : Nat} {p : Port} (h : s.memoryOk) : (s.setPort n p).memoryOk := h

theorem State.memoryOk_interrupt {s : State} {n : Nat} (h : s.memoryOk) : (s.interrupt n).memoryOk := h

theorem State.memoryOk_portOff {s : State} {n : Nat} {failed : Bool} (h : s.memoryOk) : (s.portOff n failed).memoryOk := by
  unfold State.portOff
  dsimp only
  split
  · split
    · exact memoryOk_losePeer h
    · exact memoryOk_setPort (memoryOk_setPort (memoryOk_interrupt (memoryOk_setPort h)))
  · exact memoryOk_setPort h

theorem State.memoryOk_expectPeer {s : State} {n expect : Nat} (h : s.memoryOk) : (s.expectPeer n expect).memoryOk :=
  memoryOk_setPort (memoryOk_ite (memoryOk_portOff h) h)

theorem memoryOk_evLinkctlWrite {s : State} {n : Nat} {value : Word} (h : s.memoryOk) : (evLinkctlWrite n value s).memoryOk :=
  State.memoryOk_ite h (State.memoryOk_ite (State.memoryOk_setPort (State.memoryOk_portOff h))
    (State.memoryOk_ite (State.memoryOk_expectPeer h) (State.memoryOk_setPort h)))

theorem memoryOk_evLinkUp {s : State} {n did : Nat} (h : s.memoryOk) : (evLinkUp n did s).memoryOk :=
  State.memoryOk_ite h (State.memoryOk_ite h (State.memoryOk_ite h h))

theorem memoryOk_evNakReceive {s : State} {n ack : Nat} (h : s.memoryOk) : (evNakReceive n ack s).memoryOk :=
  State.memoryOk_ite h (State.memoryOk_ite (State.memoryOk_portOff (State.memoryOk_setPort h)) h)

theorem State.memoryOk_refuseFlit {s : State} {n : Nat} {follows : Bool} (h : s.memoryOk) : (s.refuseFlit n follows).memoryOk :=
  memoryOk_ite h (memoryOk_ite (memoryOk_portOff (memoryOk_setPort h)) h)

theorem memoryOk_evFlitReceive {s : State} {n : Nat} {flit : List Byte} (h : s.memoryOk) : (evFlitReceive n flit s).memoryOk := by
  unfold evFlitReceive
  dsimp only
  have h1 : ∀ q, (s.setPort n q).memoryOk := fun _ => h
  refine State.memoryOk_ite h (State.memoryOk_ite (State.memoryOk_refuseFlit h) (State.memoryOk_ite (memoryOk_evNakReceive h)
    (State.memoryOk_ite (h1 _) (State.memoryOk_ite (State.memoryOk_refuseFlit (h1 _)) (State.memoryOk_ite (State.memoryOk_refuseFlit (h1 _))
      (State.memoryOk_setPort (h1 _)))))))

/-! ### Transactions of other devices (14 R390 to R393) -/

theorem State.memoryOk_takeTx {s : State} {n : Nat} {t : LinkTx} (h : s.memoryOk) : (s.takeTx n t).memoryOk := h

theorem State.memoryOk_respond {s : State} {n : Nat} {t : LinkTx} {status : Nat} {data : List Byte} (h : s.memoryOk) :
    (s.respond n t status data).memoryOk := memoryOk_ite h h

theorem State.memoryOk_serveTx {s : State} {n op : Nat} {f : State → LinkTx → State × Option (Nat × List Byte)}
    (hf : ∀ u t, State.memoryOk u → (f u t).1.memoryOk) (h : s.memoryOk) : (s.serveTx n op f).memoryOk := by
  unfold State.serveTx
  split
  · exact h
  · split
    · exact memoryOk_of_fst ‹_› (hf _ _ h)
    · exact memoryOk_respond (memoryOk_takeTx (memoryOk_of_fst ‹_› (hf _ _ h)))

theorem State.memoryOk_remoteElement {s : State} {n : Nat} {t : LinkTx} (h : s.memoryOk) : (s.remoteElement n t).memoryOk :=
  memoryOk_ite (memoryOk_respond (memoryOk_takeTx h)) h

theorem memoryOk_evLinkRead {s : State} {n : Nat} (h : s.memoryOk) : (evLinkRead n s).memoryOk := by
  unfold evLinkRead
  split
  · exact h
  · refine State.memoryOk_ite (State.memoryOk_remoteElement h) (State.memoryOk_serveTx (fun u t hu => ?_) h)
    dsimp only
    split
    · exact hu
    · have h1 := State.memoryOk_exactRead 2 (physKey u.did (t.addr / 128 * 128)) 128 [] hu
      split
      · exact State.memoryOk_mark _ _ (State.memoryOk_of_fst ‹_› h1)
      · exact State.memoryOk_of_fst ‹_› h1
      · exact State.memoryOk_of_fst ‹_› h1

theorem State.memoryOk_clearHome {s : State} {cs : List (Nat × Byte)} (h : s.memoryOk) : (s.clearHome cs).1.memoryOk := by
  unfold State.clearHome
  split
  · exact memoryOk_of_fst ‹_› (memoryOk_clearAfar h)
  · exact memoryOk_settleMarks (memoryOk_of_fst ‹_› (memoryOk_clearAfar h))

theorem memoryOk_evLinkWrite {s : State} {n : Nat} (h : s.memoryOk) : (evLinkWrite n s).memoryOk := by
  refine State.memoryOk_serveTx (fun u t hu => ?_) h
  split
  · exact hu
  · dsimp only
    split
    · exact State.memoryOk_of_fst ‹_› (State.memoryOk_clearHome hu)
    · exact State.memoryOk_physWrite _ (State.memoryOk_of_fst ‹_› (State.memoryOk_clearHome hu))

theorem memoryOk_evLinkAtomic {s : State} {n : Nat} (h : s.memoryOk) : (evLinkAtomic n s).memoryOk := by
  -- The read is named, so that the kernel does not evaluate it where it reduces the matches below.
  obtain ⟨read, named⟩ : ∃ read, State.exactRead = read := ⟨_, rfl⟩
  have reads : ∀ u key n, State.memoryOk u → (read 2 u key n []).1.memoryOk := by
    rw [← named]
    exact fun _ _ _ hu => State.memoryOk_exactRead _ _ _ _ hu
  unfold evLinkAtomic
  rw [named]
  refine State.memoryOk_serveTx (fun u t hu => ?_) h
  extract_lets key kind word
  split
  · exact hu
  · split
    · exact State.memoryOk_of_fst ‹_› (State.memoryOk_clearHome hu)
    · have h1 := State.memoryOk_of_fst ‹_› (State.memoryOk_clearHome hu)
      have h2 := reads _ key 4 h1
      split
      · exact State.memoryOk_of_fst ‹_› h2
      · exact State.memoryOk_of_fst ‹_› h2
      · exact State.memoryOk_physWrite _ (State.memoryOk_of_fst ‹_› h2)

theorem State.memoryOk_remoteQueue {s : State} {enq : Bool} {t : LinkTx} (h : s.memoryOk) : (s.remoteQueue enq t).1.memoryOk := by
  -- The ring's step is named, so that the kernel does not evaluate it where it reduces the matches below.
  obtain ⟨act, named⟩ : ∃ act, State.ringAct = act := ⟨_, rfl⟩
  have acts : ∀ u key coded base cap entry b, State.memoryOk u → (act u enq key coded base cap entry b).1.memoryOk := by
    rw [← named]
    exact fun _ _ _ _ _ _ _ hu => memoryOk_ringAct hu
  unfold State.remoteQueue
  rw [named]
  extract_lets f key coded
  split
  · exact h
  · split
    · exact memoryOk_of_fst ‹_› (memoryOk_clearHome h)
    · have h1 := memoryOk_of_fst ‹_› (memoryOk_clearHome h)
      extract_lets entry q s2
      have hq : q.1.memoryOk := acts _ _ _ _ _ _ _ h1
      have h2 : s2.memoryOk := memoryOk_ite hq (memoryOk_forgetLines hq)
      clear_value s2
      split
      · exact h2
      · exact hq
      · exact h2
      · exact hq

theorem memoryOk_evLinkEnq {s : State} {n : Nat} (h : s.memoryOk) : (evLinkEnq n s).memoryOk :=
  State.memoryOk_serveTx (fun _ _ => State.memoryOk_remoteQueue) h

theorem memoryOk_evLinkDeq {s : State} {n : Nat} (h : s.memoryOk) : (evLinkDeq n s).memoryOk :=
  State.memoryOk_serveTx (fun _ _ => State.memoryOk_remoteQueue) h

theorem memoryOk_evLinkMonw {s : State} {n : Nat} (h : s.memoryOk) : (evLinkMonw n s).memoryOk := by
  -- The read is named, so that the kernel does not evaluate it where it reduces the matches below.
  obtain ⟨read, named⟩ : ∃ read, State.exactRead = read := ⟨_, rfl⟩
  have reads : ∀ u key n, State.memoryOk u → (read 2 u key n []).1.memoryOk := by
    rw [← named]
    exact fun _ _ _ hu => State.memoryOk_exactRead _ _ _ _ hu
  unfold evLinkMonw
  rw [named]
  split
  · exact h
  · rename_i t _
    have h1 := reads _ (physKey s.did t.addr) 4 h
    dsimp only
    refine State.memoryOk_ite (State.memoryOk_respond (State.memoryOk_takeTx h)) ?_
    split
    · exact State.memoryOk_of_fst ‹_› h1
    · exact State.memoryOk_respond (State.memoryOk_takeTx (State.memoryOk_of_fst ‹_› h1))
    · have h2 := State.memoryOk_takeTx (n := n) (t := t) (State.memoryOk_of_fst ‹_› h1)
      exact State.memoryOk_ite (State.memoryOk_wake _ h2) (State.memoryOk_addMonitor h2)

theorem memoryOk_evLinkInvalidate {s : State} {n : Nat} (h : s.memoryOk) : (evLinkInvalidate n s).memoryOk :=
  State.memoryOk_serveTx (fun _ _ hu => State.memoryOk_dropInvariant (State.memoryOk_forgetLines hu)) h

theorem State.memoryOk_regionMessage {s : State} {n : Nat} {t : LinkTx} (h : s.memoryOk) : (s.regionMessage n t).memoryOk := by
  unfold State.regionMessage
  dsimp only
  exact memoryOk_ite (memoryOk_ite (memoryOk_answerPeer h) h) (memoryOk_ite (memoryOk_askedDrain h)
    (memoryOk_ite (memoryOk_askedHalf h) (memoryOk_answerPeer h)))

theorem State.memoryOk_freeShare {s : State} {did cid tile : Nat} (h : s.memoryOk) : (s.freeShare did cid tile).memoryOk := h

theorem State.memoryOk_performDrain {s : State} {peer : Nat} {t : LinkTx} (h : s.memoryOk) : (s.performDrain peer t).1.memoryOk := by
  unfold State.performDrain
  split
  · exact h
  · have h1 := memoryOk_settleMarks (lines := linesOf (t.cells s.did)) h
    split
    · exact memoryOk_of_fst ‹_› h1
    · have h2 : ∀ cs : List (Nat × Byte), ∀ bs : List Nat, _ := fun cs bs =>
        memoryOk_foldl (f := fun s b => s.homePut (cs.filter (fun c => c.1 / 256 == b)) (s.codedFor (256 * b)))
          (fun _ _ => memoryOk_homePut _ _) bs (memoryOk_of_fst ‹_› h1)
      exact memoryOk_ite (memoryOk_freeShare (h2 _ _)) (h2 _ _)

theorem memoryOk_evLinkDrain {s : State} {n : Nat} (h : s.memoryOk) : (evLinkDrain n s).memoryOk := by
  unfold evLinkDrain
  split
  · exact h
  · exact State.memoryOk_ite (State.memoryOk_regionMessage (State.memoryOk_takeTx h))
      (State.memoryOk_serveTx (fun _ _ => State.memoryOk_performDrain) h)

theorem State.memoryOk_poisonWave {s : State} {r : LinkTx} {n : Nat} {t : Txn} {uid : Nat} {iss : Issue} {lane : Nat} {va : Addr}
    (h : s.memoryOk) : (s.poisonWave r n t uid iss lane va).memoryOk := by
  have h1 := memoryOk_dropTxn (token := t.token) (memoryOk_takeTx (n := n) (t := r) h)
  unfold State.poisonWave
  dsimp only
  split
  · exact memoryOk_ite h1 (memoryOk_ite (memoryOk_takeTrap _ _ _ _ h1) h)
  · split
    · rename_i s2 found
      obtain ⟨x, _, reread⟩ := Option.map_eq_some_iff.1 found
      exact reread ▸ memoryOk_rereadMonw h1
    · exact h1

theorem memoryOk_evLinkResponse {s : State} {n : Nat} (h : s.memoryOk) : (evLinkResponse n s).memoryOk := by
  unfold evLinkResponse
  split
  · exact h
  · split
    · exact h
    · refine State.memoryOk_ite (State.memoryOk_finishTxn (State.memoryOk_takeTx h)) ?_
      split
      · exact State.memoryOk_poisonWave h
      · exact State.memoryOk_failTxn (State.memoryOk_takeTx h)

theorem memoryOk_evLinkWake {s : State} {n : Nat} (h : s.memoryOk) : (evLinkWake n s).memoryOk := by
  unfold evLinkWake
  split
  · exact h
  · rename_i r _
    have h0 := State.memoryOk_takeTx (n := n) (t := r) h
    dsimp only
    split
    · exact h0
    · split
      · split
        · exact State.memoryOk_wake _ (State.memoryOk_dropTxn h0)
        · exact State.memoryOk_dropTxn h0
      · exact h0

theorem memoryOk_evLinkLost {s : State} {peer : Nat} (h : s.memoryOk) : (evLinkLost peer s).memoryOk :=
  State.memoryOk_ite h (State.memoryOk_losePeer h)

end Sys2Proof.Machine

/-! Ray instructions, registers, tiles, the control core and faults of the hardware keep the canonical form of memory
(07 R226 to R236; 08 R260 to R264; 10 R316; 12 R376; 13 R377; 14 R395 to R403). -/

namespace Sys2Proof.Machine

/-! ### Region events (08 R260 to R264; 09 R272) -/

theorem memoryOk_evDrainCombine {s : State} {i : Nat} (h : s.memoryOk) : (evDrainCombine i s).memoryOk := by
  unfold evDrainCombine
  split
  · exact State.memoryOk_combineDrain _ h
  · exact h

theorem State.memoryOk_ackDrain {s : State} {d : Drain} (h : s.memoryOk) : (s.ackDrain d).memoryOk := memoryOk_of_mem h (ackDrain_mem ..)

theorem memoryOk_evDrainAck {s : State} {i : Nat} (h : s.memoryOk) : (evDrainAck i s).memoryOk := by
  unfold evDrainAck
  split
  · exact State.memoryOk_ite (State.memoryOk_ackDrain h) h
  · exact h

theorem memoryOk_evGroupPlace {s : State} (h : s.memoryOk) : (evGroupPlace s).memoryOk := State.memoryOk_placeFirst h

/-! ### Ray instructions (07 R226 to R236) -/

theorem keepsMemory_rayInstr {s : State} {p : Pre} {ok : State → Wave → Nat → Bool} {body : State → Issue → Word → Wave → Out} {reads : Bool}
    (h : s.memoryOk) (hb : ∀ iss lanes w, (body s iss lanes w).memoryOk) : KeepsMemory (rayInstr p ok body reads s) := by
  refine keepsMemory_runState _ _ h (fun iss lanes w => ?_)
  split
  · split <;> exact h
  · exact hb iss lanes w

theorem State.memoryOk_pressIfFull {s : State} {cl ctx : Nat} (h : s.memoryOk) : (s.pressIfFull cl ctx).memoryOk := by
  unfold State.pressIfFull
  split
  · exact h
  · exact memoryOk_ite (memoryOk_pressBins h) h

theorem State.memoryOk_addRay {s : State} {id : Nat} {r : Ray} (h : s.memoryOk) : (s.addRay id r).memoryOk := h

theorem State.memoryOk_genLanes {s : State} {iss : Issue} {d a : BitVec 7} {w0 w : Wave} {ls : List Nat} (h : s.memoryOk) :
    (s.genLanes iss d a w0 ls w).1.memoryOk := by
  induction ls generalizing s w with
  | nil => exact h
  | cons l ls ih =>
    unfold State.genLanes
    dsimp only
    split
    · exact memoryOk_pressIfFull (memoryOk_of_fst ‹_› (memoryOk_poolSlot h))
    · exact ih (memoryOk_addRay (memoryOk_of_fst ‹_› (memoryOk_poolSlot h)))

theorem keepsMemory_execGenray {s : State} {d a : BitVec 7} {g : BitVec 2} (h : s.memoryOk) : KeepsMemory (execGenray d a g s) := by
  refine keepsMemory_rayInstr h (fun iss lanes w => ?_)
  dsimp only
  split
  · exact State.memoryOk_retire _ _ (State.memoryOk_of_fst ‹_› (State.memoryOk_genLanes h))
  · exact State.memoryOk_setWave (State.memoryOk_of_fst ‹_› (State.memoryOk_genLanes h))

theorem State.memoryOk_tick1 {s : State} (h : s.memoryOk) : s.tick1.memoryOk := h

theorem State.memoryOk_startTrace {s : State} {id : Nat} (h : s.memoryOk) : (s.startTrace id).memoryOk := h

theorem State.memoryOk_forRays {s : State} {w : Wave} {m : Word} {f : State → Nat → State} (hf : ∀ u i, State.memoryOk u → (f u i).memoryOk)
    (h : s.memoryOk) : (s.forRays w m f).memoryOk := by
  refine memoryOk_foldl (fun u l hu => ?_) _ h
  split
  · exact hf _ _ hu
  · exact hu

theorem keepsMemory_execTrace {s : State} {g : BitVec 2} (h : s.memoryOk) : KeepsMemory (execTrace g s) :=
  keepsMemory_rayInstr h (fun _ _ _ => State.memoryOk_forRays (fun _ _ => State.memoryOk_startTrace) (State.memoryOk_retire _ _ h))

theorem keepsMemory_decide3 {s : State} {g : BitVec 2} {f : Ray → Ray} (h : s.memoryOk) : KeepsMemory (decide3 g f s) :=
  keepsMemory_rayInstr h (fun _ _ _ => State.memoryOk_forRays (fun _ _ hu => hu) (State.memoryOk_retire _ _ h))

theorem State.memoryOk_spawnOne {s : State} {id : Nat} {octet : List Word} (h : s.memoryOk) : (s.spawnOne id octet).1.memoryOk := by
  unfold State.spawnOne
  split
  · exact h
  · dsimp only
    split
    · exact h
    · split
      · exact memoryOk_of_fst ‹_› (memoryOk_poolSlot h)
      · exact memoryOk_modRay (memoryOk_modRay (memoryOk_addRay (memoryOk_tick1 (memoryOk_of_fst ‹_› (memoryOk_poolSlot h)))))

theorem keepsMemory_execSpawn {s : State} {d a : BitVec 7} {g : BitVec 2} (h : s.memoryOk) : KeepsMemory (execSpawn d a g s) := by
  refine keepsMemory_rayInstr h (fun iss lanes w => ?_)
  refine State.memoryOk_retire _ _ (State.memoryOk_foldl_fst (fun r l hr => ?_) _ h)
  split
  · exact hr
  · exact State.memoryOk_spawnOne hr

theorem keepsMemory_execRayld {s : State} {d : BitVec 7} {c : BitVec 2} {n : BitVec 5} {g : BitVec 2} (h : s.memoryOk) :
    KeepsMemory (execRayld d c n g s) :=
  keepsMemory_rayInstr h (fun _ _ _ => State.memoryOk_retire _ _ h)

theorem keepsMemory_execRayst {s : State} {d : BitVec 7} {c : BitVec 2} {n : BitVec 5} {g : BitVec 2} (h : s.memoryOk) :
    KeepsMemory (execRayst d c n g s) := by
  refine keepsMemory_rayInstr h (fun iss lanes w => ?_)
  refine State.memoryOk_retire (s := State.tick1 _) _ _ (State.memoryOk_foldl (fun u l hu => ?_) _ h)
  split
  · exact hu
  · exact hu

theorem keepsMemory_execRaydone {s : State} {g : BitVec 2} (h : s.memoryOk) : KeepsMemory (execRaydone g s) :=
  keepsMemory_rayInstr h (fun _ _ _ => State.memoryOk_endLanes h)

theorem keepsMemory_rayValue {s : State} {d : BitVec 7} {g : BitVec 2} {f : State → Ray → Word} (h : s.memoryOk) :
    KeepsMemory (rayValue d g f s) :=
  keepsMemory_rayInstr h (fun _ _ _ => State.memoryOk_retire _ _ h)

theorem State.memoryOk_itemLanes {s : State} {iss : Issue} {c : Nat} {a : BitVec 7} {ls : List Nat} {w : Wave} (h : s.memoryOk) :
    (s.itemLanes iss c a ls w).1.memoryOk := by
  induction ls generalizing s w with
  | nil => exact h
  | cons l ls ih =>
    unfold State.itemLanes
    dsimp only
    split
    · exact memoryOk_pressIfFull (memoryOk_of_fst ‹_› (memoryOk_poolSlot h))
    · exact ih (memoryOk_enterBin (memoryOk_addRay (memoryOk_of_fst ‹_› (memoryOk_poolSlot h))))

theorem keepsMemory_execItem {s : State} {c : BitVec 5} {a : BitVec 7} {g : BitVec 2} (h : s.memoryOk) : KeepsMemory (execItem c a g s) := by
  refine keepsMemory_rayInstr h (fun iss lanes w => ?_)
  dsimp only
  split
  · exact State.memoryOk_retire _ _ (State.memoryOk_of_fst ‹_› (State.memoryOk_itemLanes h))
  · exact State.memoryOk_setWave (State.memoryOk_of_fst ‹_› (State.memoryOk_itemLanes h))

theorem State.memoryOk_readHalf {s : State} {k : Nat} {w : Wave} {p : Place} {a : Addr} (h : s.memoryOk) : (s.readHalf k w p a).1.memoryOk := by
  unfold State.readHalf
  split <;> exact memoryOk_of_fst ‹_› (memoryOk_readPlace h)

theorem State.memoryOk_launchLanes {s : State} {iss : Issue} {d a : BitVec 7} {w0 w : Wave} {got : List (Nat × List Place)} (h : s.memoryOk) :
    (s.launchLanes iss d a w0 got w).1.memoryOk := by
  induction got generalizing s w with
  | nil => exact h
  | cons p rest ih =>
    obtain ⟨l, ps⟩ := p
    unfold State.launchLanes
    split
    · split
      · exact h
      · rename_i lo hi _ _
        have h1 := memoryOk_readHalf (k := iss.wave) (w := w0) (p := lo) (a := w0.pair a l) h
        have h2 := memoryOk_readHalf (k := iss.wave) (w := w0) (p := hi) (a := w0.pair a l + 64) h1
        dsimp only
        split
        · split
          · exact memoryOk_of_fst ‹_› (memoryOk_checkLaunch h2)
          · exact ih (memoryOk_acceptLaunch (memoryOk_of_fst ‹_› (memoryOk_checkLaunch h2)))
        · exact h2
    · exact ih h

theorem keepsMemory_execLaunch {s : State} {d a : BitVec 7} {g : BitVec 2} (h : s.memoryOk) : KeepsMemory (execLaunch d a g s) := by
  refine keepsMemory_rayInstr h (fun iss lanes w => ?_)
  dsimp only
  split
  · exact h
  · split
    · exact State.memoryOk_of_fst ‹_› (State.memoryOk_checkLanes h)
    · rename_i s1 got x
      have h1 : s1.memoryOk := State.memoryOk_of_fst x (State.memoryOk_checkLanes h)
      have h2 : (if w.doneLanes = 0 then s1.boundary (cidOf iss.wave) w 2 else (s1, true)).1.memoryOk := by
        split
        · exact State.memoryOk_boundary _ _ _ h1
        · exact h1
      split
      · exact State.memoryOk_of_fst ‹_› h2
      · have h3 := State.memoryOk_of_fst ‹_› h2
        split
        · exact State.memoryOk_retire _ _ (State.memoryOk_of_fst ‹_› (State.memoryOk_launchLanes (State.memoryOk_anew h3)))
        · exact State.memoryOk_setWave (State.memoryOk_of_fst ‹_› (State.memoryOk_launchLanes (State.memoryOk_anew h3)))

/-! ### The host and the control core (12 R376; 14 R395, R396) -/

theorem State.memoryOk_flushAll {s : State} (h : s.memoryOk) : s.flushAll.memoryOk :=
  memoryOk_foldl (fun _ _ => memoryOk_flushBacklog _ _) _ h

theorem State.memoryOk_agentRead {s : State} {addr len : Nat} (h : s.memoryOk) : (s.agentRead addr len).memoryOk := by
  unfold State.agentRead
  split
  · split <;> exact (memoryOk_of_fst ‹_› (memoryOk_exactRead _ _ _ _ h) :)
  · exact h

theorem State.memoryOk_agentWrite {s : State} {addr : Nat} {data : List Byte} (h : s.memoryOk) : (s.agentWrite addr data).memoryOk := by
  unfold State.agentWrite
  dsimp only
  split
  · split
    · exact memoryOk_of_fst ‹_› (memoryOk_clearHome h)
    · exact memoryOk_flushAll (memoryOk_physWrite _ (memoryOk_of_fst ‹_› (memoryOk_clearHome h)))
  · exact h

theorem State.memoryOk_writeHeader {s : State} {ctx off : Nat} {value : Addr} (h : s.memoryOk) : (s.writeHeader ctx off value).memoryOk := by
  unfold State.writeHeader
  split
  · exact memoryOk_ite h (memoryOk_physWrite _ h)
  · exact h

theorem State.memoryOk_setLqueue {s : State} {n : Nat} {q : LaunchQueue} (h : s.memoryOk) : (s.setLqueue n q).memoryOk := h

theorem memoryOk_evRegisterWrite {s : State} {reg : Reg} {value : Addr} (h : s.memoryOk) : (evRegisterWrite reg value s).memoryOk := by
  cases reg with
  | lqring n => exact State.memoryOk_ite (State.memoryOk_setLqueue h) h
  | lqctx n => exact State.memoryOk_ite (State.memoryOk_setLqueue h) h
  | introute n => exact State.memoryOk_ite (State.memoryOk_setRegs h) h
  | ctxHeader ctx off => exact State.memoryOk_writeHeader h
  | mdbase => exact h
  | mdspan => exact h
  | ctxaddr => exact h
  | _ => exact h

theorem State.memoryOk_writeCtxctl {s : State} {v : Nat} (h : s.memoryOk) : (s.writeCtxctl v).memoryOk :=
  memoryOk_ite (memoryOk_evCtxNone h) (memoryOk_ite (memoryOk_evSwitchIn h) (memoryOk_ite (memoryOk_evSwitchOut h)
    (memoryOk_ite (memoryOk_evKillContext h) (memoryOk_ite (memoryOk_evKillLaunch h) (memoryOk_ite (memoryOk_evHaltContext h)
      (memoryOk_evCtxReservedOp h))))))

theorem State.memoryOk_writeReg {s : State} {reg : Reg} {value : Addr} (h : s.memoryOk) : (s.writeReg reg value).memoryOk := by
  cases reg with
  | lqring n => exact memoryOk_evRegisterWrite h
  | lqctx n => exact memoryOk_evRegisterWrite h
  | mdbase => exact memoryOk_evRegisterWrite h
  | mdspan => exact memoryOk_evRegisterWrite h
  | ctxaddr => exact memoryOk_evRegisterWrite h
  | introute n => exact memoryOk_evRegisterWrite h
  | ctxHeader ctx off => exact memoryOk_evRegisterWrite h
  | lqbell n => exact memoryOk_evLqbell h
  | trapreply => exact memoryOk_trapReply h
  | ctxctl => exact memoryOk_writeCtxctl h
  | domain => exact memoryOk_evDomainWrite h
  | linkctl n => exact memoryOk_evLinkctlWrite h
  | ccestat ctx cl => exact memoryOk_evEngineStatusClear h
  | gsestat ctx cl => exact memoryOk_evEngineStatusClear h
  | trstat ctx cl => exact memoryOk_evEngineStatusClear h
  | inval => exact memoryOk_evInvalidationRequest h
  | _ => exact h

theorem State.memoryOk_readReg {s : State} {reg : Reg} (h : s.memoryOk) : (s.readReg reg).memoryOk := by
  unfold State.readReg
  split <;> exact h

theorem memoryOk_evHostRead {s : State} {reg : Option Reg} {addr len : Nat} (h : s.memoryOk) : (evHostRead reg addr len s).memoryOk := by
  unfold evHostRead
  split
  · exact State.memoryOk_ite (State.memoryOk_readReg h) h
  · exact State.memoryOk_agentRead h

theorem memoryOk_evHostWrite {s : State} {reg : Option Reg} {value : Addr} {addr : Nat} {data : List Byte} (h : s.memoryOk) :
    (evHostWrite reg value addr data s).memoryOk := by
  unfold evHostWrite
  split
  · exact State.memoryOk_ite (State.memoryOk_writeReg h) h
  · exact State.memoryOk_agentWrite h

/-! ### Tiles of a wave (06 R161 to R165) -/

theorem State.memoryOk_issueTile {s : State} {iss : Issue} {w : Wave} {d : BitVec 7} {n : Nat} (h : s.memoryOk) :
    (s.issueTile iss w d n).memoryOk := h

theorem keepsMemory_runMma {s : State} {transposed : Bool} {d a b : BitVec 7} {m : BitVec 2} (h : s.memoryOk) :
    KeepsMemory (runMma transposed d a b m s) := by
  refine keepsMemory_runState _ _ h (fun iss lanes w => ?_)
  dsimp only
  split
  · exact h
  · split
    · exact h
    · split
      · exact h
      · exact h
      · exact State.memoryOk_issueTile h

theorem keepsMemory_runTile {s : State} {p : Pre} {d : BitVec 7} {n : Nat} {f : Word → Wave → Wave} (h : s.memoryOk) :
    KeepsMemory (runTile p d n f s) :=
  keepsMemory_runState _ _ h (fun _ _ _ => State.memoryOk_issueTile h)

theorem keepsMemory_execUnpackBlock {s : State} {d a : BitVec 7} {g : BitVec 2} (h : s.memoryOk) : KeepsMemory (execUnpackBlock d a g s) := by
  refine keepsMemory_runState _ _ h (fun iss lanes w => ?_)
  dsimp only
  split
  · exact h
  · exact State.memoryOk_retire _ _ h

/-! ### Faults of the hardware, reset and alarms (14 R398 to R403) -/

theorem State.memoryOk_logAlarm {s : State} {source : Nat} (h : s.memoryOk) : (s.logAlarm source).memoryOk := h

theorem memoryOk_evDeviceReset {s : State} {image key sig : List Byte} {keyidx version : Nat} (h : s.memoryOk) :
    (evDeviceReset image key sig keyidx version s).memoryOk := by
  have h1 : memoryWf (rekey s.did 0 s.mem) = true := memoryWf_rekey (by decide) h
  unfold evDeviceReset
  dsimp only
  split
  · split
    · exact h1
    · exact h1
  · split
    · exact h1
    · exact h1

theorem memoryOk_evExtend {s : State} {pcm : Nat} {data : List Byte} (h : s.memoryOk) : (evExtend pcm data s).memoryOk :=
  State.memoryOk_ite h h

theorem memoryOk_evQuote {s : State} {nonce : List Byte} (h : s.memoryOk) : (evQuote nonce s).memoryOk := State.memoryOk_ite h h

theorem State.memoryOk_alarmContext {s : State} {ctx : Nat} (h : s.memoryOk) : (s.alarmContext ctx).memoryOk := by
  unfold State.alarmContext
  dsimp only
  exact memoryOk_foldl (fun _ _ => memoryOk_modGroup) _ (memoryOk_unitFaultFst (memoryOk_modCtx _ _
    (memoryOk_foldl (fun _ _ => memoryOk_haltGroup _) _ h)))

theorem State.memoryOk_setZephyr {s : State} {z : Zephyr} (h : s.memoryOk) : ({ s with zephyr := z } : State).memoryOk := h

theorem memoryOk_evAlarm {s : State} {sources : BitVec 6} (h : s.memoryOk) : (evAlarm sources s).memoryOk := by
  have h1 : ((alarmSources sources).foldl State.logAlarm s).memoryOk := State.memoryOk_foldl (fun _ _ => State.memoryOk_logAlarm) _ h
  exact State.memoryOk_ite h1 (State.memoryOk_foldl (fun _ _ => State.memoryOk_alarmContext) _ (State.memoryOk_setZephyr h1))

theorem State.memoryOk_provision {s : State} (h : s.memoryOk) : s.provision.memoryOk := h

theorem memoryOk_evClockStepDown {s : State} (h : s.memoryOk) : (evClockStepDown s).memoryOk := State.memoryOk_ite h h

theorem memoryOk_evClockStepUp {s : State} (h : s.memoryOk) : (evClockStepUp s).memoryOk := State.memoryOk_ite h h

theorem State.memoryOk_poisonLine {s : State} {line : Nat} (h : s.memoryOk) : (s.poisonLine line).memoryOk := memoryOk_ite h h

theorem memoryOk_evSoftError {s : State} {site : Site} {correctable : Bool} (h : s.memoryOk) : (evSoftError site correctable s).memoryOk := by
  unfold evSoftError
  refine State.memoryOk_ite h ?_
  split
  · exact h
  · exact State.memoryOk_poisonLine h
  · exact h
  · exact State.memoryOk_ite h (State.memoryOk_poisonLine h)
  · exact h
  · exact State.memoryOk_ite h h

end Sys2Proof.Machine

/-! What every instruction and every step of the machine leaves of the canonical form of memory (O60). -/

namespace Sys2Proof.Machine

/-! ### Instructions -/

theorem keepsMemory_execFetchFault {s : State} {va : Addr} (h : s.memoryOk) : KeepsMemory (execFetchFault va s) := by
  refine keepsMemory_withIssue (fun iss w => ?_)
  have h1 := State.memoryOk_fetchWord (cidOf iss.wave) w.ctx va.toNat (w.prio % 4) h
  split
  · exact State.memoryOk_takeTrap _ _ _ _ (State.memoryOk_of_fst ‹_› h1)
  · exact h
  · exact State.memoryOk_of_fst ‹_› h1

theorem keepsMemory_execIllegalEncoding {s : State} {word : Word} (h : s.memoryOk) : KeepsMemory (execIllegalEncoding word s) := by
  refine keepsMemory_withIssue (fun iss w => ?_)
  exact State.memoryOk_ite h (State.memoryOk_ite (State.memoryOk_takeTrap _ _ _ _ h) (State.memoryOk_perform _ _ _ _ h (fun _ => h)))

theorem keepsMemory_execLdf {s : State} {d a : BitVec 7} {t : BitVec 6} {g : BitVec 2} (h : s.memoryOk) : KeepsMemory (execLdf d a t g s) := by
  refine keepsMemory_runState _ _ h (fun iss lanes w => ?_)
  exact State.memoryOk_runLoad h

theorem keepsMemory_execLde {s : State} {d a : BitVec 7} {t : BitVec 5} {g : BitVec 2} (h : s.memoryOk) : KeepsMemory (execLde d a t g s) := by
  refine keepsMemory_runState _ _ h (fun iss lanes w => ?_)
  exact State.memoryOk_runLoad h

theorem keepsMemory_execFend {s : State} {g : BitVec 2} (h : s.memoryOk) : KeepsMemory (execFend g s) := by
  refine keepsMemory_runState _ _ h (fun iss lanes w => ?_)
  exact State.memoryOk_endLanes h

theorem keepsMemory_execTrap {s : State} {n : BitVec 7} {g : BitVec 2} (h : s.memoryOk) : KeepsMemory (execTrap n g s) := by
  refine keepsMemory_runState _ _ h (fun iss lanes w => ?_)
  exact h

theorem keepsMemory_execBkpt {s : State} {n : BitVec 7} {g : BitVec 2} (h : s.memoryOk) : KeepsMemory (execBkpt n g s) := by
  refine keepsMemory_runState _ _ h (fun iss lanes w => ?_)
  exact h

theorem keepsMemory_execRdcyc {s : State} {d : BitVec 7} {g : BitVec 2} (h : s.memoryOk) : KeepsMemory (execRdcyc d g s) := by
  refine keepsMemory_runState _ _ h (fun iss lanes w => ?_)
  exact State.memoryOk_retire _ _ h

/-- Every instruction but IMX keeps the form. -/
theorem keepsMemory_exec_of_ne_imx {i : Instr} (other : ∀ v next, i ≠ .imx v next) {s : State} (h : s.memoryOk) : KeepsMemory (exec i s) := by
  cases i with
  | iadd | iadds | isub | isubs | imul | imulh | imulhu | imad | land | lor | lxor | andn | shl | shr | sar
  | imin | imax | umin | umax | mov | lnot | neg | iabs | popc | clz | ctz | brev | bswap | laneid | fibid
  | fadd | fsub | fmul | ffma | fmin | fmax | fclamp | fmov | fneg | fabs | frcp | frsq | fsqrt | fexp2 | flog2
  | fsin | fcos | ffloor | fceil | ftrunc | frint | ffract | fsign | hadd2 | hsub2 | hmul2 | hfma2 | hmin2
  | hmax2 | dot2h | dot4q | cvt | pack | unpackWiden | settag | gettag | shfl => exact keepsMemory_runHold _ _ _ h
  | lea2 | lea3 | smovi | iaddi | imuli | andi | ori | xori | shli | shri | sari | icmp | ucmp | fcmp | hcmp
  | icmpi | plog | pmov | vote | cadd | csub | cmul | cfma | ccmul | cmag2 | cexpi | cscale | sadd | ssub | smul
  | smulh | sand | sor | sxor | sshl | sshr | ssar | smin | smax | sumin | sumax | smov | sslt | sfadd | sfsub
  | sfmul | sffma | sfmin | sfmax | sfrcp | sfrsq | sfsqrt | scvtfi | scvtif | sfcmplt | saddi | vmovi | nop
  | setsr | winb | swinb | regrel | rdlane | bcast => exact keepsMemory_runWave _ _ h
  | unpackBlock => exact keepsMemory_execUnpackBlock h
  | xbar => exact keepsMemory_execXbar h
  | xptl => exact keepsMemory_execXptl h
  | tmma | tmmat =>
    dsimp only [exec]
    exact keepsMemory_runMma h
  | tzero | ttrnFragment | ttrnAccumulator | tact | tcvt | tred | tbias =>
    dsimp only [exec]
    exact keepsMemory_runTile h
  | ldb | ldh | ldw | ldd | ldq | ldv =>
    dsimp only [exec]
    exact keepsMemory_fbLoad h
  | stb | sth | stw | std | stq =>
    dsimp only [exec]
    exact keepsMemory_fbStore h
  | ldf => exact keepsMemory_execLdf h
  | lde => exact keepsMemory_execLde h
  | accb => exact keepsMemory_execAccb h
  | tld => exact keepsMemory_execTld h
  | tst => exact keepsMemory_execTst h
  | aadd | afadd | amin | amax | aumin | aumax | aand | aor | axor | axchg | acas =>
    dsimp only [exec]
    exact keepsMemory_amo h
  | aaddNr | afaddNr | aminNr | amaxNr | auminNr | aumaxNr | aandNr | aorNr | axorNr | axchgNr | acasNr =>
    dsimp only [exec]
    exact keepsMemory_amoNr h
  | enq | deq =>
    dsimp only [exec]
    exact keepsMemory_ringInstr h
  | monw k a b c => exact keepsMemory_execMonw (c := c) h
  | phase => exact keepsMemory_execPhase h
  | bar => exact keepsMemory_execBar h
  | br | call | join | yield | region =>
    dsimp only [exec]
    exact keepsMemory_runPc _ _ h
  | brx | ret =>
    dsimp only [exec]
    exact keepsMemory_branchPair h
  | fork => exact keepsMemory_execFork h
  | fend => exact keepsMemory_execFend h
  | waitc => exact keepsMemory_execWaitc h
  | imx => exact absurd rfl (other _ _)
  | cplin | cp2d | cpgath | cpscat | cpexp | cpcmp | gtopk | gbuck | gmerge | ghist | gscan | gperm | cxfork
  | cxdense | qfence =>
    dsimp only [exec]
    exact keepsMemory_queued h
  | rcarm => exact keepsMemory_execRcarm h
  | rcwait => exact keepsMemory_execRcwait h
  | cxrdv => exact keepsMemory_execCxrdv h
  | cxbond => exact keepsMemory_execCxbond h
  | qstat => exact keepsMemory_execQstat h
  | genray => exact keepsMemory_execGenray h
  | trace => exact keepsMemory_execTrace h
  | accept | ignore | termray =>
    dsimp only [exec]
    exact keepsMemory_decide3 h
  | spawn => exact keepsMemory_execSpawn h
  | rayld => exact keepsMemory_execRayld h
  | rayst => exact keepsMemory_execRayst h
  | raydone => exact keepsMemory_execRaydone h
  | binkey | childq =>
    dsimp only [exec]
    exact keepsMemory_rayValue h
  | item => exact keepsMemory_execItem h
  | launch => exact keepsMemory_execLaunch h
  | trap n g => exact keepsMemory_execTrap (n := n) h
  | bkpt n g => exact keepsMemory_execBkpt (n := n) h
  | getsr => exact keepsMemory_execGetsr h
  | rdcyc => exact keepsMemory_execRdcyc h
  | regreq => exact keepsMemory_execRegreq h
  | wrlane => exact keepsMemory_execWrlane h
  | prefh => exact keepsMemory_execPrefh h
  | parkc => exact keepsMemory_execParkc h
  | illegalEncoding => exact keepsMemory_execIllegalEncoding h
  | fetchFault => exact keepsMemory_execFetchFault h
  | tileOpComplete | parkcTimeout => exact keepsMemory_event h
  | queuedCommandStart => exact keepsMemory_event (memoryOk_evQueuedCommandStart h)
  | copyUnit => exact keepsMemory_event (memoryOk_evCopyUnit h)
  | gseRow => exact keepsMemory_event (memoryOk_evGseRow h)
  | macRun => exact keepsMemory_event (memoryOk_evMacRun h)
  | queuedCommandComplete => exact keepsMemory_event (memoryOk_evQueuedCommandComplete h)
  | loadb | contract | dense | conv3 | ups2 | act | perm | storeb | splitParts | endSplit | env | endProg => exact keepsMemory_event (State.memoryOk_stepEvent h)
  | loadLands => exact keepsMemory_event (memoryOk_evLoadLands h)
  | storePerformed => exact keepsMemory_event (memoryOk_evStorePerformed h)
  | monwRecheck => exact keepsMemory_event (memoryOk_evMonwRecheck h)
  | regionJoin => exact keepsMemory_event (State.memoryOk_answerJoin h)
  | drainCombine => exact keepsMemory_event (memoryOk_evDrainCombine h)
  | drainAck => exact keepsMemory_event (memoryOk_evDrainAck h)
  | regionRead => exact keepsMemory_event (State.memoryOk_answerRead _ h)
  | l1Evict => exact keepsMemory_event (State.memoryOk_evict h)
  | waveRetire => exact keepsMemory_event (memoryOk_evWaveRetire h)
  | regreqGrant => exact keepsMemory_event (memoryOk_evRegreqGrant h)
  | spillWave => exact keepsMemory_event (memoryOk_evSpillWave h)
  | spillReturn => exact keepsMemory_event (memoryOk_evSpillReturn h)
  | monwSpill => exact keepsMemory_event (memoryOk_evMonwSpill h)
  | waveExchange => exact keepsMemory_event (memoryOk_evWaveExchange h)
  | waveAgeBoost => exact keepsMemory_event (memoryOk_evWaveAgeBoost h)
  | lqbell => exact keepsMemory_controlEvent h (memoryOk_evLqbell h)
  | launchAccept => exact keepsMemory_event (memoryOk_evLaunchAccept h)
  | groupPlace => exact keepsMemory_event (memoryOk_evGroupPlace h)
  | placementReserve => exact keepsMemory_event (memoryOk_evPlacementReserve h)
  | launchComplete => exact keepsMemory_event (memoryOk_evLaunchComplete h)
  | rayTraverse => exact keepsMemory_event (memoryOk_evRayTraverse h)
  | binAgeFlush => exact keepsMemory_event (memoryOk_evBinAgeFlush h)
  | rayRefill => exact keepsMemory_event (memoryOk_evRayRefill h)
  | groupHaltComplete => exact keepsMemory_event (memoryOk_evGroupHaltComplete h)
  | resume | skip | cancel | kill => exact keepsMemory_controlEvent h (State.memoryOk_answer h)
  | trapreplyInvalid => exact keepsMemory_controlEvent h (memoryOk_evTrapreplyInvalid h)
  | tqerrClear => exact keepsMemory_controlEvent h h
  | engineStatusClear => exact keepsMemory_controlEvent h (memoryOk_evEngineStatusClear h)
  | ctxNone => exact keepsMemory_controlEvent h (memoryOk_evCtxNone h)
  | switchIn => exact keepsMemory_controlEvent h (memoryOk_evSwitchIn h)
  | switchOut => exact keepsMemory_controlEvent h (memoryOk_evSwitchOut h)
  | killContext => exact keepsMemory_controlEvent h (memoryOk_evKillContext h)
  | killLaunch => exact keepsMemory_controlEvent h (memoryOk_evKillLaunch h)
  | haltContext => exact keepsMemory_controlEvent h (memoryOk_evHaltContext h)
  | ctxReservedOp => exact keepsMemory_controlEvent h (memoryOk_evCtxReservedOp h)
  | contextOpComplete => exact keepsMemory_event (memoryOk_evContextOpComplete h)
  | invalidationRequest => exact keepsMemory_controlEvent h (memoryOk_evInvalidationRequest h)
  | invalidationComplete => exact keepsMemory_event (memoryOk_evInvalidationComplete h)
  | domainWrite => exact keepsMemory_controlEvent h (memoryOk_evDomainWrite h)
  | linkctlWrite => exact keepsMemory_controlEvent h (memoryOk_evLinkctlWrite h)
  | registerWrite => exact keepsMemory_controlEvent h (memoryOk_evRegisterWrite h)
  | linkUp => exact keepsMemory_event (memoryOk_evLinkUp h)
  | flitReceive => exact keepsMemory_event (memoryOk_evFlitReceive h)
  | nakReceive => exact keepsMemory_event (memoryOk_evNakReceive h)
  | linkRead => exact keepsMemory_event (memoryOk_evLinkRead h)
  | linkWrite => exact keepsMemory_event (memoryOk_evLinkWrite h)
  | linkAtomic => exact keepsMemory_event (memoryOk_evLinkAtomic h)
  | linkEnq => exact keepsMemory_event (memoryOk_evLinkEnq h)
  | linkDeq => exact keepsMemory_event (memoryOk_evLinkDeq h)
  | linkMonw => exact keepsMemory_event (memoryOk_evLinkMonw h)
  | linkInvalidate => exact keepsMemory_event (memoryOk_evLinkInvalidate h)
  | linkDrain => exact keepsMemory_event (memoryOk_evLinkDrain h)
  | linkResponse => exact keepsMemory_event (memoryOk_evLinkResponse h)
  | linkWake => exact keepsMemory_event (memoryOk_evLinkWake h)
  | linkLost => exact keepsMemory_event (memoryOk_evLinkLost h)
  | hostRead => exact keepsMemory_event (memoryOk_evHostRead h)
  | hostWrite => exact keepsMemory_event (memoryOk_evHostWrite h)
  | deviceReset => exact keepsMemory_event (memoryOk_evDeviceReset h)
  | extend => exact keepsMemory_controlEvent h (memoryOk_evExtend h)
  | quote => exact keepsMemory_controlEvent h (memoryOk_evQuote h)
  | alarm => exact keepsMemory_event (memoryOk_evAlarm h)
  | clockStepDown => exact keepsMemory_event (memoryOk_evClockStepDown h)
  | clockStepUp => exact keepsMemory_event (memoryOk_evClockStepUp h)
  | controlCoreRead => exact keepsMemory_controlEvent h (State.memoryOk_agentRead h)
  | controlCoreWrite => exact keepsMemory_controlEvent h (State.memoryOk_agentWrite h)
  | softError => exact keepsMemory_event (memoryOk_evSoftError h)

/-- After an IMX runs an instruction that is none. -/
theorem exists_exec_of_follower {next : Word} {f : State → Host.Outcome State Fault Refusal} (hf : follower next = some f) :
    ∃ i, (∀ v n, i ≠ .imx v n) ∧ f = exec i := by
  cases hd : decodeWord next 0 with
  | none =>
    rw [follower, hd] at hf
    cases hf
  | some i =>
    refine ⟨i, fun v n e => ?_, eq_exec_of_follower hd hf⟩
    rw [follower, hd, e] at hf
    cases hf

theorem keepsMemory_execImx {s : State} {v : BitVec 25} {next : Word} (h : s.memoryOk) : KeepsMemory (execImx v next s) := by
  unfold execImx
  split
  · exact fun _ e => nomatch e
  · rename_i iss _
    have traps : ∀ (i : Issue) (c : Cause), (s.takeTrap i c 0 (lowest iss.batch)).memoryOk := fun i c => State.memoryOk_takeTrap _ _ _ _ h
    dsimp only
    split
    · exact keepsMemory_withIssue (fun _ _ => State.memoryOk_takeTrap _ _ _ _ h)
    · split
      · exact keepsMemory_withIssue (fun _ _ => traps _ _)
      · split
        · rename_i hf
          obtain ⟨i, other, rfl⟩ := exists_exec_of_follower hf
          exact keepsMemory_exec_of_ne_imx other h
        · exact keepsMemory_withIssue (fun _ _ => traps _ _)

/-- Every instruction and every event keeps the form. -/
theorem keepsMemory_exec {i : Instr} {s : State} (h : s.memoryOk) : KeepsMemory (exec i s) := by
  by_cases imx : ∃ v next, i = .imx v next
  · obtain ⟨v, next, rfl⟩ := imx
    exact keepsMemory_execImx h
  · exact keepsMemory_exec_of_ne_imx (fun v next e => imx ⟨v, next, e⟩) h

/-! ### Issue -/

theorem State.memoryOk_charge {s : State} {i : Instr} (h : s.memoryOk) : (s.charge i).memoryOk := by
  unfold State.charge
  split
  · exact h
  · exact memoryOk_ite h h

theorem State.memoryOk_fetchInstr {s : State} {cid ctx cls : Nat} {pc : Addr} (h : s.memoryOk) : (s.fetchInstr cid ctx cls pc).1.memoryOk := by
  unfold State.fetchInstr
  split
  · exact memoryOk_of_fst ‹_› (memoryOk_fetchWord _ _ _ _ h)
  · exact memoryOk_of_fst ‹_› (memoryOk_fetchWord _ _ _ _ h)
  · have h1 := memoryOk_of_fst ‹_› (memoryOk_fetchWord _ _ _ _ h)
    split
    · split <;> exact memoryOk_of_fst ‹_› (memoryOk_fetchWord _ _ _ _ h1)
    · exact h1

theorem State.memoryOk_present {s : State} {k : Nat} {w : Wave} (h : s.memoryOk) : (s.present k w).1.memoryOk := by
  unfold State.present
  split
  · exact h
  · split
    · exact memoryOk_of_fst ‹_› (memoryOk_fetchInstr h)
    · have h1 := memoryOk_of_fst ‹_› (memoryOk_fetchInstr h)
      exact h1

theorem State.memoryOk_waitsOn {s t : State} {k : Nat} {i : Instr} (h : s.memoryOk) (waits : s.waitsOn k i = some t) : t.memoryOk := by
  unfold State.waitsOn at waits
  split at waits
  · have h1 := keepsMemory_exec h _ ‹_›
    split at waits
    · exact Option.some.inj waits ▸ h1
    · cases waits
  · cases waits
  · cases waits

theorem State.memoryOk_passOver {s : State} {k : Nat} (h : s.memoryOk) : (s.passOver k).memoryOk := h

theorem State.memoryOk_issueTurn {s : State} {k : Nat} (h : s.memoryOk) : (s.issueTurn k).1.memoryOk := by
  unfold State.issueTurn
  split
  · exact h
  · split
    · exact h
    · split
      · exact memoryOk_passOver (memoryOk_of_fst ‹_› (memoryOk_present h))
      · rename_i s1 i x
        have h1 : s1.memoryOk := memoryOk_of_fst x (memoryOk_present h)
        dsimp only
        split
        · exact h1
        · cases waits : s1.waitsOn k i with
          | none => exact h1
          | some t => exact memoryOk_waitsOn h1 waits

/-! ### The passing of cycles -/

theorem State.memoryOk_retest {s : State} {again : Bool} {k : Nat} (h : s.memoryOk) : (s.retest again k).memoryOk := by
  unfold State.retest
  split
  · exact h
  · refine memoryOk_ite h ?_
    split
    · exact h
    · have h1 := memoryOk_of_fst ‹_› (memoryOk_present h)
      split
      · exact h
      · exact memoryOk_ite h (memoryOk_ite (memoryOk_waitsOn h1 ‹_›) h)

theorem State.memoryOk_advance {s : State} {n : Nat} (h : s.memoryOk) : (s.advance n).memoryOk :=
  memoryOk_ite h (memoryOk_flushAll (memoryOk_foldl (fun _ _ => memoryOk_fillActive) _ (memoryOk_foldl (fun _ _ => memoryOk_retest) _ h)))

theorem State.memoryOk_chosenIssue {s : State} {k : Nat} (h : s.memoryOk) : (s.chosenIssue k).1.memoryOk := by
  unfold State.chosenIssue
  generalize advanced : (if decide (2 ≤ (s.issuedNow k).length) || s.late k then s.advance 1 else s) = s1
  have h1 : s1.memoryOk := advanced ▸ memoryOk_ite (memoryOk_advance h) h
  dsimp only
  split
  · exact memoryOk_issueTurn h1
  · exact h1

/-! ### Events that are due -/

/-- A part of the machine keeps the canonical form of memory. -/
def KeepsForm (f : State → State) : Prop := ∀ s : State, s.memoryOk → (f s).memoryOk

theorem keepsForm_of_mem_waveEvents {k : Nat} {w : Wave} : ∀ f ∈ waveEvents k w, KeepsForm f := by
  simp only [waveEvents, List.forall_mem_append, List.forall_mem_map, List.forall_mem_cons]
  exact ⟨⟨fun _ _ _ => memoryOk_evLoadLands, fun _ _ _ => memoryOk_evStorePerformed⟩, fun _ h => h, fun _ h => h,
    fun _ => memoryOk_evWaveRetire, fun _ => memoryOk_evMonwSpill, fun _ => memoryOk_evWaveAgeBoost, by simp⟩

theorem keepsForm_of_mem_partEvents {p : Nat} : ∀ f ∈ partEvents p, KeepsForm f := by
  simp only [partEvents, List.forall_mem_cons]
  exact ⟨fun _ => memoryOk_evRegreqGrant, fun _ => memoryOk_evSpillWave, fun _ => memoryOk_evWaveExchange, by simp⟩

theorem keepsForm_of_mem_engineEvents {u : State} {ctx : Nat} {c : Ctx} : ∀ f ∈ engineEvents u ctx c, KeepsForm f := by
  simp only [engineEvents, List.forall_mem_append, List.forall_mem_flatMap, List.forall_mem_cons, List.forall_mem_map]
  exact ⟨fun _ _ => ⟨fun _ => memoryOk_evQueuedCommandComplete, fun _ => memoryOk_evQueuedCommandStart, fun _ => memoryOk_evCopyUnit,
    fun _ => memoryOk_evGseRow, by simp⟩, fun _ _ => ⟨fun _ _ _ => State.memoryOk_stepEvent, fun _ => memoryOk_evMacRun, by simp⟩⟩

theorem keepsForm_of_mem_linkEvents {u : State} : ∀ f ∈ linkEvents u, KeepsForm f := by
  simp only [linkEvents, List.forall_mem_append, List.forall_mem_flatMap, List.forall_mem_map]
  refine ⟨fun n _ => ?_, fun _ _ _ => memoryOk_evLinkLost⟩
  split
  · simp
  · simp only [List.forall_mem_cons]
    exact ⟨fun _ => memoryOk_evLinkRead, fun _ => memoryOk_evLinkWrite, fun _ => memoryOk_evLinkAtomic, fun _ => memoryOk_evLinkEnq,
      fun _ => memoryOk_evLinkDeq, fun _ => memoryOk_evLinkMonw, fun _ => memoryOk_evLinkInvalidate, fun _ => memoryOk_evLinkDrain,
      fun _ => memoryOk_evLinkResponse, fun _ => memoryOk_evLinkWake, by simp⟩

theorem keepsForm_of_mem_dueEvents {u : State} : ∀ f ∈ dueEvents u, KeepsForm f := by
  simp only [dueEvents, List.forall_mem_append, List.forall_mem_flatMap, List.forall_mem_map, List.forall_mem_cons]
  refine ⟨⟨⟨⟨⟨⟨⟨⟨⟨⟨⟨⟨⟨⟨⟨?waves, ?tiles⟩, ?drains⟩, ?links⟩, ?halts⟩, ?ops⟩, ?parts⟩, ?lists⟩, ?spilled⟩, ?away⟩, ?contexts⟩, ?rays⟩, ?bins⟩,
    ?launches⟩, ?accepts⟩, ?place⟩
  case waves => exact fun _ _ => ⟨keepsForm_of_mem_waveEvents, fun _ => State.memoryOk_retest, by simp⟩
  case tiles => exact fun _ _ => ⟨fun _ => State.memoryOk_answerJoin, fun _ => State.memoryOk_answerRead _, by simp⟩
  case drains => exact fun _ _ => ⟨fun _ => memoryOk_evDrainCombine, fun _ => memoryOk_evDrainAck, by simp⟩
  case links => exact keepsForm_of_mem_linkEvents
  case halts => exact fun _ _ _ => memoryOk_evGroupHaltComplete
  case ops => exact ⟨fun _ => memoryOk_evContextOpComplete, fun _ => memoryOk_evInvalidationComplete, by simp⟩
  case parts => exact fun _ _ => keepsForm_of_mem_partEvents
  case lists => exact fun _ _ _ => memoryOk_evMonwRecheck
  case spilled => exact fun _ _ _ => memoryOk_evSpillReturn
  case away => exact fun _ _ _ => memoryOk_evSpillReturn
  case contexts => exact fun _ _ => ⟨keepsForm_of_mem_engineEvents, fun _ _ _ => memoryOk_evRayRefill⟩
  case rays => exact fun _ _ _ => memoryOk_evRayTraverse
  case bins => exact fun _ _ _ => memoryOk_evBinAgeFlush
  case launches => exact fun _ _ => ⟨fun _ => memoryOk_evLaunchComplete, fun _ => memoryOk_evPlacementReserve, by simp⟩
  case accepts => exact fun _ _ _ => memoryOk_evLaunchAccept
  case place => exact ⟨fun _ => memoryOk_evGroupPlace, by simp⟩

theorem memoryOk_of_firstChange {s t : State} {fs : List (State → State)} (hf : ∀ f ∈ fs, KeepsForm f) (h : s.memoryOk)
    (e : firstChange s fs = some t) : t.memoryOk := by
  induction fs with
  | nil => cases e
  | cons f fs ih =>
    obtain ⟨hf1, hfs⟩ := List.forall_mem_cons.1 hf
    unfold firstChange at e
    split at e
    · exact ih hfs e
    · exact Option.some.inj e ▸ hf1 s h

/-! ### One step -/

theorem State.memoryOk_defaultTurn {s : State} (h : s.memoryOk) : s.defaultTurn.1.memoryOk := by
  unfold State.defaultTurn
  split
  · exact memoryOk_of_firstChange keepsForm_of_mem_dueEvents h ‹_›
  · split
    · split
      · exact h
      · exact memoryOk_issueTurn h
    · exact memoryOk_advance h

theorem State.memoryOk_turn {s : State} (h : s.memoryOk) : s.turn.1.memoryOk := by
  unfold State.turn
  split
  · exact memoryOk_defaultTurn h
  · exact memoryOk_chosenIssue h
  · split <;> exact h
  · exact memoryOk_advance h
  · exact memoryOk_provision h

/-- Settles O60: memory changes only where an instruction or an event writes bytes, clears or fills a range, or moves the device's own
bytes to another domain, and each of these keeps the form. -/
theorem memoryStaysCanonical : Obligations.MemoryStaysCanonical := by
  unfold Obligations.MemoryStaysCanonical
  intro s t h stepped
  have h1 := State.memoryOk_turn h
  unfold step at stepped
  split at stepped
  · cases stepped
    exact State.memoryOk_of_fst ‹_› h1
  · rename_i s1 i x
    have kept : KeepsMemory (exec i s1) := keepsMemory_exec (State.memoryOk_of_fst x h1)
    unfold finishStep at stepped
    split at stepped
    · cases stepped
      exact State.memoryOk_charge (kept _ ‹_›)
    · cases stepped
    · cases stepped

end Sys2Proof.Machine

/-! What the home does with a line takes copies out of the L1s and puts none in: their Dirty bytes and Clean lines stay as they are, their
other copies are the same or fewer (08 R241, R246, R248, R249, R260 to R264). -/

namespace Sys2Proof.Machine

/-- An L1 with the Dirty bytes and Clean lines of another, and no copy or grant that the other has not; its delta tiles may differ. -/
structure L1.Within (l m : L1) : Prop where
  dirty : l.dirty = m.dirty
  clean : l.clean = m.clean
  inv : l.inv ⊆ m.inv
  excl : l.excl ⊆ m.excl
  upd : l.upd ⊆ m.upd

theorem L1.Within.refl (l : L1) : l.Within l := ⟨rfl, rfl, List.Subset.refl _, List.Subset.refl _, List.Subset.refl _⟩

theorem L1.Within.trans {l m n : L1} (h : l.Within m) (g : m.Within n) : l.Within n :=
  ⟨h.dirty.trans g.dirty, h.clean.trans g.clean, List.Subset.trans h.inv g.inv, List.Subset.trans h.excl g.excl, List.Subset.trans h.upd g.upd⟩

/-- Between two states the L1s have gained nothing but delta tiles, and lost no Dirty byte and no Clean line. -/
structure Sheds (s t : State) : Prop where
  l1 : ∀ cid, (t.l1 cid).Within (s.l1 cid)

theorem Sheds.refl (s : State) : Sheds s s := ⟨fun _ => .refl _⟩

theorem Sheds.trans {s t u : State} (h : Sheds s t) (g : Sheds t u) : Sheds s u := ⟨fun cid => (g.l1 cid).trans (h.l1 cid)⟩

/-- Whatever leaves the cores alone. -/
theorem Sheds.of_cores {s t : State} (h : t.cores = s.cores) : Sheds s t := by
  refine ⟨fun cid => ?_⟩
  unfold State.l1 State.core
  rw [h]
  exact .refl _

/-- A change that sheds copies, once something else than the cores has been changed. -/
theorem Sheds.after {s t u : State} (g : Sheds t u) (cores : t.cores = s.cores := by rfl) : Sheds s u := (Sheds.of_cores cores).trans g

/-- A sequence of steps that each shed copies. -/
theorem Sheds.foldl {α : Type} {f : State → α → State} (hf : ∀ s x, Sheds s (f s x)) (xs : List α) (s : State) :
    Sheds s (xs.foldl f s) := by
  induction xs generalizing s with
  | nil => exact .refl s
  | cons x xs ih => exact (hf s x).trans (ih _)

/-- The same of steps that carry something else along. -/
theorem Sheds.foldl_fst {α β : Type} {f : State × β → α → State × β} (hf : ∀ r x, Sheds r.1 (f r x).1) (xs : List α) (r : State × β) :
    Sheds r.1 (xs.foldl f r).1 := by
  induction xs generalizing r with
  | nil => exact .refl _
  | cons x xs ih => exact (hf r x).trans (ih _)

/-- One of two states. -/
theorem Sheds.ite {c : Prop} [Decidable c] {s t u : State} (ht : Sheds s t) (hu : Sheds s u) : Sheds s (if c then t else u) := by
  split
  · exact ht
  · exact hu

theorem setL1_l1 (s : State) (cid i : Nat) (l : L1) : (s.setL1 cid l).l1 i = if i = cid then l else s.l1 i := setCore_l1 ..

@[simp] theorem setL1_l1_same (s : State) (cid : Nat) (l : L1) : (s.setL1 cid l).l1 cid = l := (setL1_l1 ..).trans (if_pos rfl)

theorem sheds_setL1 {s : State} {cid : Nat} {l : L1} (h : l.Within (s.l1 cid)) : Sheds s (s.setL1 cid l) := by
  refine ⟨fun i => ?_⟩
  rw [setL1_l1]
  split
  next e => rw [e]; exact h
  next => exact .refl _

/-- Delta tiles of a core are no copies of lines. -/
theorem sheds_hold (s : State) (cid : Nat) (hold : List Holder) : Sheds s (s.setL1 cid { s.l1 cid with hold := hold }) :=
  sheds_setL1 ⟨rfl, rfl, List.Subset.refl _, List.Subset.refl _, List.Subset.refl _⟩

theorem sheds_setHolder (s : State) (cid : Nat) (h : Holder) : Sheds s (s.setHolder cid h) := sheds_hold ..

theorem sheds_dropHolder (s : State) (cid tile : Nat) : Sheds s (s.dropHolder cid tile) := sheds_hold ..

/-! ### Sending (14 R391, R392) -/

theorem LinksOnly.sheds {s t : State} (h : LinksOnly s t) : Sheds s t := by
  obtain ⟨_, _, _, _, rfl⟩ := h
  exact .of_cores rfl

theorem sheds_sendTo {s t : State} {peer token : Nat} {x : LinkTx} {p : Purpose} (e : s.sendTo peer x p = some (t, token)) : Sheds s t :=
  (linksOnly_sendTo e).sheds

theorem sheds_countLost (s : State) (peer : Nat) : Sheds s (s.countLost peer) := (linksOnly_countLost s peer).sheds

theorem sheds_answerPeer (s : State) (a : Asker) (status : Nat) (data : List Byte) : Sheds s (s.answerPeer a status data) := by
  unfold State.answerPeer
  split <;> exact .of_cores rfl

/-! ### Writes at the home, their monitors and invalidations (08 R249, R253) -/

theorem sheds_wake (s : State) (m : Mon) : Sheds s (s.wake m) := by
  have bit : Sheds s (s.setWakeBit m.ctx m.wave) := by
    unfold State.setWakeBit
    split <;> exact .of_cores rfl
  unfold State.wake
  split
  · split <;> exact .of_cores rfl
  · exact .ite bit (.of_cores rfl)

theorem sheds_notify (s : State) (key : Nat) : Sheds s (s.notify key) := by
  unfold State.notify
  dsimp only
  split
  · exact .after (.foldl sheds_wake _ _)
  · exact .refl s

/-- Invariant copies that every core drops. -/
theorem sheds_dropInv (s : State) (p : Inv → Bool) :
    Sheds s { s with cores := s.cores.map (fun c => (c.1, { c.2 with l1 := { c.2.l1 with inv := c.2.l1.inv.filter p } })) } := by
  refine ⟨fun cid => ?_⟩
  have found := SMap_find?_map s.cores (fun c => { c with l1 := { c.l1 with inv := c.l1.inv.filter p } }) cid
  unfold State.l1 State.core SMap.get
  rw [found]
  cases s.cores.find? cid with
  | none => exact .refl _
  | some c => exact ⟨rfl, rfl, List.filter_subset_self _, List.Subset.refl _, List.Subset.refl _⟩

theorem sheds_invalidateMarks (s : State) (line : Nat) : Sheds s (s.invalidateMarks line) := by
  unfold State.invalidateMarks
  split
  · exact .refl s
  · refine (sheds_dropInv s _).trans (.after (.foldl (fun u d => ?_) _ _))
    split
    next e => exact sheds_sendTo e
    · exact .refl u

theorem sheds_putCells (s : State) (cs : List (Nat × Byte)) : Sheds s (s.putCells cs) := by
  obtain ⟨m, hm⟩ := putCells_eq s cs
  rw [hm]
  exact .of_cores rfl

theorem sheds_putCoded (s : State) (base : Nat) (cs : List (Nat × Byte)) : Sheds s (s.putCoded base cs) := by
  unfold State.putCoded State.putBytes
  dsimp only
  split
  · exact sheds_putCells ..
  · split
    · exact sheds_putCells ..
    · split
      · exact (sheds_putCells ..).trans (sheds_putCells ..)
      · exact sheds_putCells ..

theorem sheds_putView (s : State) (cs : List (Nat × Byte)) (coded : Bool) : Sheds s (s.putView cs coded) :=
  .ite (.foldl (fun _ _ => sheds_putCoded ..) _ _) (sheds_putCells ..)

theorem sheds_homePut (s : State) (cs : List (Nat × Byte)) (coded : Bool) : Sheds s (s.homePut cs coded) :=
  ((sheds_putView s cs coded).trans (.foldl sheds_invalidateMarks _ _)).trans (.foldl sheds_notify _ _)

theorem sheds_homeWrite (s : State) (cs : List (Nat × Byte)) (coded : Bool) : Sheds s (s.homeWrite cs coded) :=
  .after (sheds_homePut (s.clearPoison cs) ..)

theorem sheds_spoilLine (s : State) (line : Nat) : Sheds s (s.spoilLine line) :=
  .ite (sheds_countLost ..) (.ite (.refl s) (.of_cores rfl))

/-! ### Update-only copies (08 R247, R248) -/

theorem sheds_combineUpd (s : State) (u : Upd) : Sheds s (s.combineUpd u) := by
  unfold State.combineUpd
  split
  · exact sheds_spoilLine ..
  · split
    · exact sheds_homePut ..
    · dsimp only
      split
      next e => exact sheds_sendTo e
      · exact sheds_countLost ..

theorem sheds_sendUpd (s : State) (cid : Nat) (p : Upd → Bool) : Sheds s (s.sendUpd cid p) :=
  (sheds_setL1 (l := { s.l1 cid with upd := (s.l1 cid).upd.filter fun u => !p u })
    ⟨rfl, rfl, List.Subset.refl _, List.Subset.refl _, List.filter_subset_self _⟩).trans (.foldl sheds_combineUpd _ _)

/-- The core keeps no copy that is sent (08 R248). -/
theorem upd_sendUpd {s : State} {cid : Nat} {p : Upd → Bool} {u : Upd} (h : u ∈ ((s.sendUpd cid p).l1 cid).upd) : p u = false := by
  have kept := ((Sheds.foldl sheds_combineUpd ((s.l1 cid).upd.filter p)
    (s.setL1 cid { s.l1 cid with upd := (s.l1 cid).upd.filter fun u => !p u })).l1 cid).upd h
  rw [setL1_l1_same] at kept
  simpa using (List.mem_filter.1 kept).2

theorem sheds_recallLine (s : State) (line : Nat) : Sheds s (s.recallLine line) := by
  refine .foldl (fun u cid => ?_) _ s
  have sent : Sheds u (if (u.core cid).l1.upd.any (fun x => x.line == line) then u.sendUpd cid (fun x => x.line == line) else u) :=
    .ite (sheds_sendUpd ..) (.refl u)
  exact .ite (sent.trans (sheds_setL1 ⟨rfl, rfl, List.Subset.refl _, List.filter_subset_self _, List.Subset.refl _⟩)) sent

/-! ### Region tiles (08 R260 to R264) -/

theorem sheds_combineDrain (s : State) (d : Drain) : Sheds s (s.combineDrain d) := by
  have combined : Sheds s (s.combineDelta d.tile d.delta d.coded) := by
    unfold State.combineDelta
    split
    · exact .refl s
    · exact sheds_homePut ..
  have spoilt := (sheds_spoilLine s (2 * d.tile)).trans (sheds_spoilLine _ (2 * d.tile + 1))
  exact .ite (.refl s) ((Sheds.ite (c := d.bad = true) spoilt combined).trans (.of_cores rfl))

theorem sheds_loseTile (s : State) (cid tile : Nat) : Sheds s (s.loseTile cid tile) := by
  have erased (u : State) (x : Nat × Add) : Sheds u
      ((u.countLost (targetOf (256 * tile))).modOp x.1 fun o => { o with adds := o.adds.erase x.2 }) :=
    (sheds_countLost u _).trans (.of_cores rfl)
  unfold State.loseTile
  refine Sheds.trans ?_ (.foldl erased _ _)
  split
  · exact .refl s
  · have lost : Sheds s ((s.dropHolder cid tile).countLost (targetOf (256 * tile))) :=
      (sheds_dropHolder ..).trans (sheds_countLost ..)
    dsimp only
    split
    · exact lost.trans (.of_cores rfl)
    · exact lost

theorem sheds_sendDelta (s : State) (cid : Nat) (h : Holder) (leaving : Bool) : Sheds s (s.sendDelta cid h leaving).1 := by
  unfold State.sendDelta
  dsimp only
  split
  · exact sheds_loseTile ..
  next e =>
    obtain ⟨r, first, second⟩ := Option.bind_eq_some_iff.1 e
    have sent := (sheds_sendTo first).trans (sheds_sendTo second)
    exact (Sheds.ite (sent.trans (sheds_countLost ..)) sent).trans (sheds_setHolder ..)

theorem sheds_startDrain (s : State) (cid : Nat) (h : Holder) (leaving : Bool) : Sheds s (s.startDrain cid h leaving).1 := by
  unfold State.startDrain
  split
  · exact .after (sheds_setHolder ..)
  · exact sheds_sendDelta ..

theorem sheds_tryAdd {s t : State} {cid : Nat} {a : Add} {ids : List Nat} (e : s.tryAdd cid a = some (t, ids)) : Sheds s t := by
  unfold State.tryAdd at e
  split at e
  · cases e
  next h _ =>
    have entered := sheds_setHolder s cid ((h.serve a).enter a.elem a.val)
    split at e
    · cases e
    · dsimp only at e
      split at e
      · obtain rfl : _ = t := congrArg Prod.fst (Option.some.inj e)
        exact entered.trans (sheds_startDrain ..)
      · cases e
        exact entered

theorem sheds_requestJoin (s : State) (cid : Nat) (a : Add) : Sheds s (s.requestJoin cid a) := by
  unfold State.requestJoin
  split
  · exact .ite (.refl s) (.of_cores rfl)
  · split
    · exact .refl s
    · split
      next e => exact sheds_sendTo e
      · exact sheds_loseTile ..

theorem sheds_pushAdds (s : State) (cid tile : Nat) : Sheds s (s.pushAdds cid tile) := by
  have pushed : Sheds s ((s.waitingAdds cid tile).foldl (fun (r : State × Bool) x =>
      if r.2 then
        match r.1.tryAdd cid x.2 with
        | none => (r.1, false)
        | some (s1, ids) => (s1.modOp x.1 (fun o => { o with adds := o.adds.erase x.2, waits := o.waits ++ ids }), true)
      else r) (s, true)).1 := by
    refine Sheds.foldl_fst (fun r x => ?_) _ (s, true)
    split
    · split
      · exact .refl _
      next e => exact (sheds_tryAdd e).trans (.of_cores rfl)
    · exact .refl _
  unfold State.pushAdds
  dsimp only
  split
  · exact pushed.trans (sheds_requestJoin ..)
  · exact pushed

theorem sheds_grantShare (s : State) (j : Join) (tile k : Nat) : Sheds s (s.grantShare j tile k) := by
  unfold State.grantShare State.holdTile
  split
  · exact .refl s
  · dsimp only
    split
    · exact .after ((sheds_hold ..).trans (sheds_pushAdds ..))
    · exact .after (sheds_answerPeer ..)

theorem sheds_endHalving (s : State) (tile id : Nat) : Sheds s (s.endHalving tile id) := by
  unfold State.endHalving
  split
  · exact .ite (sheds_grantShare ..) (.refl s)
  · exact .refl s

theorem sheds_ackDrain (s : State) (d : Drain) : Sheds s (s.ackDrain d) := by
  unfold State.ackDrain
  dsimp only
  split
  · exact .of_cores rfl
  · refine Sheds.trans ?_ ((sheds_endHalving ..).trans (sheds_pushAdds ..))
    split
    · exact .of_cores rfl
    · exact .ite (.after ((sheds_dropHolder ..).trans (.of_cores rfl))) (.after (sheds_setHolder ..))

theorem sheds_finishDrain (s : State) (id : Nat) : Sheds s (s.finishDrain id) := by
  unfold State.finishDrain
  split
  · exact .refl s
  · exact (sheds_combineDrain ..).trans (sheds_ackDrain ..)

theorem sheds_leaveTile (s : State) (cid tile : Nat) : Sheds s (s.leaveTile cid tile) := by
  unfold State.leaveTile
  split
  · exact .refl s
  · split
    · exact (sheds_setHolder ..).trans (sheds_finishDrain ..)
    · exact (sheds_startDrain ..).trans (.foldl sheds_finishDrain _ _)

theorem sheds_recallTile (s : State) (tile : Nat) : Sheds s (s.recallTile tile) :=
  .ite (.refl s) ((Sheds.foldl sheds_combineDrain _ _).trans (.foldl (fun _ _ => sheds_leaveTile ..) _ _))

/-! ### Writes (06 R188, R194; 14 R391) -/

theorem sheds_recallCells (s : State) (cs : List (Nat × Byte)) : Sheds s (s.recallCells cs) :=
  .foldl (fun _ _ => (sheds_recallTile ..).trans (sheds_recallLine ..)) _ s

theorem sheds_writeAs (s : State) (cls : Nat) (cs : List (Nat × Byte)) (coded : Bool) (p : Purpose) :
    Sheds s (s.writeAs cls cs coded p).1 := by
  have here : Sheds s (if (cs.filter fun c => s.isLocal c.1).isEmpty then s
      else (s.recallCells (cs.filter fun c => s.isLocal c.1)).homeWrite (cs.filter fun c => s.isLocal c.1) coded) :=
    .ite (.refl s) ((sheds_recallCells ..).trans (sheds_homeWrite ..))
  refine Sheds.trans here (Sheds.foldl_fst (fun r l => ?_) _ (_, _))
  exact (linksOnly_remoteLine ..).sheds

theorem sheds_attach (s : State) (keys tokens : List Nat) : Sheds s (s.attach keys tokens) := .ite (.refl s) (.of_cores rfl)

/-! ### Dirty bytes (08 R241) -/

/-- A flush performs the bytes it selects: what stays Dirty in the core it does not select. -/
theorem dirty_flushDirty {s : State} {cid : Nat} {p : Nat → DByte → Bool} {d : Nat × DByte}
    (h : d ∈ ((s.flushDirty cid p).l1 cid).dirty) : p d.1 d.2 = false := by
  unfold State.flushDirty at h
  dsimp only at h
  split at h
  next none_selected =>
    rw [List.isEmpty_iff, List.filter_eq_nil_iff] at none_selected
    simpa using none_selected d h
  · rw [((((sheds_writeAs ..).trans (sheds_writeAs ..)).trans ((Sheds.foldl sheds_spoilLine _ _).trans (sheds_attach ..))).l1 cid).dirty,
      setL1_l1_same] at h
    simpa using (List.mem_filter.1 h).2

end Sys2Proof.Machine

/-! A line that leaves an L1: no copy of it stays in the core, and the core's holder of its tile leaves (08 R241, R248, R262; 09 R272). -/

namespace Sys2Proof.Machine

/-! ### A core's hold on a tile (08 R261, R262) -/

theorem holder_of_cores {s t : State} (h : t.cores = s.cores) (cid tile : Nat) : t.holder cid tile = s.holder cid tile := by
  unfold State.holder State.core
  rw [h]

theorem LinksOnly.cores {s t : State} (h : LinksOnly s t) : t.cores = s.cores := by
  obtain ⟨_, _, _, _, rfl⟩ := h
  rfl

theorem holder_setL1 (s : State) (cid tile : Nat) (l : L1) : (s.setL1 cid l).holder cid tile = l.hold.find? (fun h => h.tile == tile) :=
  congrArg (fun l : L1 => l.hold.find? (fun h : Holder => h.tile == tile)) (setL1_l1_same s cid l)

/-- After a holder has been changed the core has no other on its tile. -/
theorem eq_of_holder_setHolder {s : State} {cid : Nat} {h g : Holder} (found : (s.setHolder cid h).holder cid h.tile = some g) : g = h := by
  unfold State.setHolder at found
  rw [holder_setL1] at found
  obtain ⟨x, -, changed⟩ := List.mem_map.1 (List.mem_of_find?_eq_some found)
  have on_tile : g.tile = h.tile := by simpa using List.find?_some found
  split at changed
  · exact changed.symm
  next other => exact absurd (changed ▸ on_tile) other

theorem holder_dropHolder (s : State) (cid tile : Nat) : (s.dropHolder cid tile).holder cid tile = none := by
  unfold State.dropHolder
  rw [holder_setL1, List.find?_eq_none]
  intro x hx
  simpa using (List.mem_filter.1 hx).2

/-- A tile whose home no link reaches is held no more (14 R394). -/
theorem holder_loseTile (s : State) (cid tile : Nat) : (s.loseTile cid tile).holder cid tile = none := by
  have erased (xs : List (Nat × Add)) (u : State) : (xs.foldl (fun s x =>
      (s.countLost (targetOf (256 * tile))).modOp x.1 (fun o => { o with adds := o.adds.erase x.2 })) u).cores = u.cores := by
    induction xs generalizing u with
    | nil => rfl
    | cons x xs ih => exact (ih _).trans (linksOnly_countLost u _).cores
  unfold State.loseTile
  refine (holder_of_cores (erased _ _) cid tile).trans ?_
  cases held : s.holder cid tile with
  | none => exact held
  | some h =>
    have lost : ((s.dropHolder cid tile).countLost (targetOf (256 * tile))).holder cid tile = none :=
      (holder_of_cores (linksOnly_countLost ..).cores cid tile).trans (holder_dropHolder ..)
    dsimp only
    split <;> exact lost

/-- A holder that drains to leave, where it still holds its tile (R262). -/
theorem leaving_of_startDrain {s : State} {cid : Nat} {h g : Holder} (found : (s.startDrain cid h true).1.holder cid h.tile = some g) :
    g.leaving = true ∧ g.draining.isSome = true := by
  unfold State.startDrain State.sendDelta at found
  dsimp only at found
  split at found
  · rw [eq_of_holder_setHolder (h := { h with draining := some s.fresh, leaving := true }) found]
    exact ⟨rfl, rfl⟩
  · split at found
    · rw [holder_loseTile] at found
      cases found
    next id _ =>
      rw [eq_of_holder_setHolder (h := { h with draining := some id, leaving := true }) found]
      exact ⟨rfl, rfl⟩

/-! ### Eviction (08 R241, R248, R262; 09 R272) -/

/-- The line's Dirty bytes are performed, its Update-only copy is sent, its other copies and grants are dropped. -/
def State.dropLine (s : State) (cid line : Nat) : State :=
  let s1 := (s.flushLine cid line).sendUpd cid (fun u => u.line == line)
  s1.setL1 cid { s1.l1 cid with
    clean := (s1.l1 cid).clean.del line
    inv := (s1.l1 cid).inv.filter (fun i => i.line != line)
    excl := (s1.l1 cid).excl.filter (· != line) }

/-- A core's holder of a tile, if any, is to leave. -/
def State.toLeave (s : State) (cid tile : Nat) : State :=
  match s.holder cid tile with
  | some h => if h.draining.isSome then s.setHolder cid { h with leaving := true } else (s.startDrain cid h true).1
  | none => s

theorem evict_eq (s : State) (cid line : Nat) : s.evict cid line = (s.dropLine cid line).toLeave cid (line / 2) := rfl

theorem sheds_toLeave (s : State) (cid tile : Nat) : Sheds s (s.toLeave cid tile) := by
  unfold State.toLeave
  split
  · exact .ite (sheds_setHolder ..) (sheds_startDrain ..)
  · exact .refl s

theorem leaving_of_toLeave {s : State} {cid tile : Nat} {g : Holder} (found : (s.toLeave cid tile).holder cid tile = some g) :
    g.leaving = true ∧ g.draining.isSome = true := by
  unfold State.toLeave at found
  split at found
  next h held =>
    obtain rfl : h.tile = tile := by simpa using List.find?_some held
    split at found
    next draining =>
      rw [eq_of_holder_setHolder (h := { h with leaving := true }) found]
      exact ⟨rfl, draining⟩
    · exact leaving_of_startDrain found
  next unheld =>
    rw [unheld] at found
    cases found

/-- Of a line that has been evicted the core holds no Dirty byte, no copy and no grant. -/
theorem l1_evict (s : State) (cid line : Nat) :
    (∀ i ∈ ((s.evict cid line).l1 cid).inv, i.line ≠ line) ∧ line ∉ ((s.evict cid line).l1 cid).excl ∧
      ((s.evict cid line).l1 cid).clean.find? line = none ∧ (∀ p ∈ ((s.evict cid line).l1 cid).dirty, lineOf p.1 ≠ line) ∧
      ∀ u ∈ ((s.evict cid line).l1 cid).upd, u.line ≠ line := by
  have shed := (sheds_toLeave (s.dropLine cid line) cid (line / 2)).l1 cid
  have sent := (sheds_sendUpd (s.flushLine cid line) cid (fun u => u.line == line)).l1 cid
  rw [evict_eq]
  generalize (s.dropLine cid line).toLeave cid (line / 2) = t at shed ⊢
  unfold State.dropLine at shed
  rw [setL1_l1_same] at shed
  refine ⟨fun i hi => ?_, fun he => ?_, ?_, fun p hp => ?_, fun u hu => ?_⟩
  · simpa using (List.mem_filter.1 (shed.inv hi)).2
  · simpa using (List.mem_filter.1 (shed.excl he)).2
  · rw [shed.clean, SMap.find?_del, if_pos rfl]
  · rw [shed.dirty] at hp
    exact beq_eq_false_iff_ne.1 (dirty_flushDirty (sent.dirty ▸ hp))
  · exact beq_eq_false_iff_ne.1 (upd_sendUpd (shed.upd hu))

end Sys2Proof.Machine

/-! Eviction where nothing but Dirty bytes is about: they are performed at their home, and every other byte is as before (08 R241; 09 R272). -/

namespace Sys2Proof.Machine

/-- A write of uncoded cells that all lie here, nothing else than Dirty bytes being about: their bytes are written, nothing is sent. -/
theorem writeAs_of_local {s : State} {cs : List (Nat × Byte)} (cls : Nat) (p : Purpose) (h : s.OnlyDirty)
    (here : ∀ c ∈ cs, s.isLocal c.1 = true) :
    ∃ r, CachesOnly s r ∧ s.writeAs cls cs false p = ((r.clearPoison cs).putCells cs, []) := by
  have all_here : cs.filter (fun c => s.isLocal c.1) = cs := List.filter_eq_self.2 here
  have none_away : cs.filter (fun c => !s.isLocal c.1) = [] := List.filter_eq_nil_iff.2 fun c hc => by simp [here c hc]
  unfold State.writeAs
  simp only [all_here, none_away, List.map_nil, List.dedup_nil, List.foldl_nil]
  cases cs with
  | nil =>
    refine ⟨s, .refl s, ?_⟩
    have all_kept : s.clearPoison [] = s := by simp [State.clearPoison]
    rw [all_kept]
    rfl
  | cons c cs =>
    have recalled := cachesOnly_recallCells (c :: cs) h
    have ho := recalled.onlyDirty h
    refine ⟨_, recalled, congrArg (·, []) ?_⟩
    exact homePut_of_onlyDirty _ ⟨ho.l1, ho.drains, ho.marks, ho.monitors⟩

/-- A write of no bytes changes nothing. -/
theorem writeAs_nil (s : State) (cls : Nat) (coded : Bool) (p : Purpose) : s.writeAs cls [] coded p = (s, []) := rfl


/-- The cells of a line's Dirty bytes in a core's L1. -/
def State.lineCells (s : State) (cid line : Nat) : List (Nat × Byte) :=
  ((s.l1 cid).dirty.filter (fun d => lineOf d.1 == line)).map (fun d => (d.1, d.2.val))

theorem find?_lineCells (s : State) (cid line k : Nat) :
    SMap.find? (s.lineCells cid line) k = if lineOf k = line then ((s.l1 cid).dirty.find? k).map DByte.val else none := by
  refine (SMap_find?_map _ DByte.val k).trans ?_
  split
  next on_line => rw [SMap_find?_filter (s.l1 cid).dirty (fun i => lineOf i == line) (by simpa using on_line)]
  next other =>
    cases found : SMap.find? ((s.l1 cid).dirty.filter (fun d => lineOf d.1 == line)) k with
    | none => rfl
    | some d => exact absurd (by simpa using (List.mem_filter.1 (SMap_mem_of_find? found)).2) other

theorem lineCells_pairwise {s : State} {cid : Nat} (line : Nat) (rising : (s.l1 cid).dirty.rising = true) :
    (s.lineCells cid line).Pairwise (fun p q => p.1 < q.1) :=
  List.pairwise_map.2 ((SMap.rising_iff _).1 (SMap.rising_filter _ _ rising))

theorem isLocal_of_mem_lineCells {s : State} {cid line : Nat} (here : s.isLocal (128 * line) = true) {c : Nat × Byte}
    (h : c ∈ s.lineCells cid line) : s.isLocal c.1 = true := by
  obtain ⟨d, hd, rfl⟩ := List.mem_map.1 h
  have on_line : d.1 / 128 = line := by simpa [lineOf] using (List.mem_filter.1 hd).2
  exact isLocal_of_aligned (n := 128) (by decide) (Nat.mul_mod_right 128 line) (by omega) (by omega) here

theorem attach_nil (s : State) (keys : List Nat) : s.attach keys [] = s := rfl

/-! ### What follows the flush -/

/-- A core without Update-only copies sends none. -/
theorem sendUpd_of_onlyDirty {s : State} (cid : Nat) (p : Upd → Bool) (h : s.OnlyDirty) :
    s.sendUpd cid p = s.setL1 cid { s.l1 cid with upd := [] } := by
  have none : (s.core cid).l1.upd = [] := State.quiet.upd h.l1 cid
  unfold State.sendUpd
  simp only [none, List.filter_nil, List.foldl_nil]
  rfl

theorem byte_dropLine {s : State} {cid line : Nat} (h : (s.flushLine cid line).OnlyDirty) (k : Nat) :
    (s.dropLine cid line).byte k = (s.flushLine cid line).byte k := by
  unfold State.dropLine
  rw [sendUpd_of_onlyDirty _ _ h]
  rfl

theorem onlyDirty_dropLine {s : State} {cid line : Nat} (h : (s.flushLine cid line).OnlyDirty) : (s.dropLine cid line).OnlyDirty := by
  have sent : ((s.flushLine cid line).sendUpd cid (fun u => u.line == line)).OnlyDirty := by
    rw [sendUpd_of_onlyDirty _ _ h]
    exact onlyDirty_setL1 h rfl (State.quiet.hold h.l1 cid)
  exact onlyDirty_setL1 sent (State.quiet.upd sent.l1 cid) (State.quiet.hold sent.l1 cid)

/-- A core that holds no tile leaves none. -/
theorem toLeave_of_onlyDirty {s : State} {cid tile : Nat} (h : s.OnlyDirty) : s.toLeave cid tile = s := by
  have none : s.holder cid tile = none := by
    unfold State.holder
    rw [show (s.core cid).l1.hold = [] from State.quiet.hold h.l1 cid]
    rfl
  unfold State.toLeave
  rw [none]

section

variable {s : State} {cid line : Nat} (only : s.OnlyDirty) (here : s.isLocal (128 * line) = true)
  (plain : ∀ p ∈ (s.l1 cid).dirty, lineOf p.1 = line → p.2.coded = false ∧ p.2.bad = false)

include only here plain

/-- Such bytes of a line are written at their home, nothing else changes memory. -/
theorem flushLine_of_onlyDirty : ∃ r : State, r.OnlyDirty ∧ r.mem = s.mem ∧ s.flushLine cid line = r.putCells (s.lineCells cid line) := by
  have plain_bytes : ∀ d ∈ (s.l1 cid).dirty.filter (fun d => lineOf d.1 == line), d.2.coded = false ∧ d.2.bad = false := fun d hd => by
    obtain ⟨listed, on_line⟩ := List.mem_filter.1 hd
    exact plain d listed (by simpa using on_line)
  have uncoded : ((s.l1 cid).dirty.filter (fun d => lineOf d.1 == line)).filter (fun d => d.2.coded == false && !d.2.bad) =
      (s.l1 cid).dirty.filter (fun d => lineOf d.1 == line) := List.filter_eq_self.2 fun d hd => by simp [plain_bytes d hd]
  have coded : ((s.l1 cid).dirty.filter (fun d => lineOf d.1 == line)).filter (fun d => d.2.coded == true && !d.2.bad) = [] :=
    List.filter_eq_nil_iff.2 fun d hd => by simp [plain_bytes d hd]
  have struck : ((s.l1 cid).dirty.filter (fun d => lineOf d.1 == line)).filter (fun d => d.2.bad) = [] :=
    List.filter_eq_nil_iff.2 fun d hd => by simp [plain_bytes d hd]
  unfold State.flushLine State.flushDirty
  dsimp only
  split
  next none_dirty =>
    refine ⟨s, only, rfl, ?_⟩
    rw [State.lineCells, List.isEmpty_iff.1 none_dirty]
    rfl
  · have quiet : s.quiet := only.l1
    generalize hl : ({ s.l1 cid with dirty := _, clean := _ } : L1) = l
    have emptied : (s.setL1 cid l).OnlyDirty := onlyDirty_setL1 only (hl ▸ quiet.upd cid) (hl ▸ quiet.hold cid)
    obtain ⟨r, caches, written⟩ := writeAs_of_local
      ((((s.l1 cid).dirty.filter fun d => lineOf d.1 == line).map fun d => d.2.cls).foldl max 0) .other emptied
      fun c hc => isLocal_of_mem_lineCells (cid := cid) here hc
    obtain ⟨l1, drains, marks, monitors⟩ := caches.onlyDirty emptied
    refine ⟨r.clearPoison (s.lineCells cid line), ⟨l1, drains, marks, monitors⟩, caches.same State.mem, ?_⟩
    rw [State.lineCells] at written
    simp only [uncoded, coded, struck, List.map_nil, writeAs_nil, List.dedup_nil, List.foldl_nil, List.append_nil, written, attach_nil]
    rfl

/-- The bytes after the eviction of such a line. -/
theorem byte_evict (rising : (s.l1 cid).dirty.rising = true) (k : Nat) :
    (s.evict cid line).byte k = if lineOf k = line then (((s.l1 cid).dirty.find? k).map DByte.val).getD (s.byte k) else s.byte k := by
  obtain ⟨r, kept, same_mem, flushed⟩ := flushLine_of_onlyDirty only here plain
  have written : (s.flushLine cid line).byte k =
      if lineOf k = line then (((s.l1 cid).dirty.find? k).map DByte.val).getD (s.byte k) else s.byte k := by
    have before : r.byte k = s.byte k := by rw [State.byte, State.byte, same_mem]
    rw [flushed, byte_putCells (lineCells_pairwise line rising), find?_lineCells, before]
    split <;> rfl
  have flushed_kept : (s.flushLine cid line).OnlyDirty := by
    obtain ⟨m, hm⟩ := putCells_eq r (s.lineCells cid line)
    rw [flushed, hm]
    exact ⟨kept.l1, kept.drains, kept.marks, kept.monitors⟩
  rw [evict_eq, toLeave_of_onlyDirty (onlyDirty_dropLine flushed_kept), byte_dropLine flushed_kept, written]

end

end Sys2Proof.Machine

/-! Drains combine, joins get shares, reads of a tile drain and answer, listed words are re-read (08 R252, R260 to R264). -/

namespace Sys2Proof.Machine

/-! ### Combination at the home (08 R264) -/

/-- Where no line is marked and no word monitored, performing cells at their home writes them (08 R249, R253). -/
theorem homePut_of_unwatched {s : State} (cs : List (Nat × Byte)) (hm : s.marks = []) (hs : ∀ x ∈ s.slices, x.2.entries = []) :
    s.homePut cs false = s.putCells cs := by
  obtain ⟨m, written⟩ := putCells_eq s cs
  have marks : (s.putCells cs).marks = [] := by rw [written]; exact hm
  have monitors : ∀ x ∈ (s.putCells cs).slices, x.2.entries = [] := by rw [written]; exact hs
  unfold State.homePut State.putView
  simp only [Bool.false_eq_true, if_false]
  rw [foldl_eq_self (fun line => invalidateMarks_of_unmarked line marks), foldl_eq_self (fun key => notify_of_unwatched key monitors)]

/-- The bytes of a word in the bytes of a list of words. -/
theorem getD_flatMap_bytesOf {ws : List Word} {i j : Nat} (hi : i < ws.length) (hj : j < 4) :
    (ws.flatMap (fun w => bytesOf 4 w.toNat)).getD (4 * i + j) 0 = (bytesOf 4 ws[i].toNat).getD j 0 := by
  induction ws generalizing i with
  | nil => cases hi
  | cons w ws ih =>
    rw [List.flatMap_cons]
    cases i with
    | zero =>
      rw [Nat.mul_zero, Nat.zero_add]
      exact List.getD_append _ _ _ _ (by simpa using hj)
    | succ i =>
      rw [List.getD_append_right _ _ _ _ (by simp; omega), bytesOf_length,
        show 4 * (i + 1) + j - 4 = 4 * i + j by omega, ih (by simpa using hi), List.getElem_cons_succ]

/-- A part of a range of bytes. -/
theorem take_drop_bytes (s : State) (key : Nat) {n i m : Nat} (h : i + m ≤ n) : ((s.bytes key n).drop i).take m = s.bytes (key + i) m := by
  refine List.ext_getElem (by simp [State.bytes]; omega) fun j _ _ => ?_
  simp [State.bytes, Nat.add_assoc]

/-- The elements of a tile of an uncoded page. -/
theorem tileWords_uncoded (s : State) (tile : Nat) :
    s.tileWords tile false = some ((List.range 64).map (fun i => BitVec.ofNat 32 (s.load (256 * tile + 4 * i) 4))) := by
  refine congrArg some (List.map_congr_left fun i hi => ?_)
  rw [take_drop_bytes _ _ (by have := List.mem_range.1 hi; omega), State.load]

/-- An element of an uncoded tile after its delta tile has been combined, where nothing watches the tile's lines. -/
theorem load_combineDelta {s : State} (tile : Nat) (delta : SMap Word) {i : Nat} (hm : s.marks = []) (hs : ∀ x ∈ s.slices, x.2.entries = [])
    (hi : i < 64) : (s.combineDelta tile delta false).load (256 * tile + 4 * i) 4 =
      ((fadd .rne (BitVec.ofNat 32 (s.load (256 * tile + 4 * i) 4)) (delta.get negZero i)).1).toNat := by
  unfold State.combineDelta
  rw [tileWords_uncoded]
  dsimp only
  rw [homePut_of_unwatched _ hm hs]
  refine (load_of_bytes fun j hj => ?_).trans (Nat.mod_eq_of_lt (BitVec.isLt _))
  rw [byte_putCells_cellsAt]
  have len : (List.mapIdx (fun i w => (fadd .rne w (delta.get negZero i)).1)
      ((List.range 64).map (fun i => BitVec.ofNat 32 (s.load (256 * tile + 4 * i) 4)))).length = 64 := by simp
  rw [if_pos, show 256 * tile + 4 * i + j - 256 * tile = 4 * i + j by omega, getD_flatMap_bytesOf (by omega) hj]
  · simp
  · simp
    omega

/-! ### DRAIN_COMBINE and DRAIN_ACK (08 R261, R264; 14 R401) -/

theorem combineDrain_of_combined {s : State} {d : Drain} (h : d.combined = true) : s.combineDrain d = s := if_pos h

theorem combineDrain_of_sound {s : State} {d : Drain} (h : d.combined = false) (hb : d.bad = false) :
    s.combineDrain d = { s.combineDelta d.tile d.delta d.coded with
      drains := (s.combineDelta d.tile d.delta d.coded).drains.map (fun x => if x.id = d.id then { x with combined := true } else x) } := by
  simp only [State.combineDrain, h, hb, Bool.false_eq_true, if_false]

theorem combineDrain_of_struck {s : State} {d : Drain} (h : d.combined = false) (hb : d.bad = true) :
    s.combineDrain d = { (s.spoilLine (2 * d.tile)).spoilLine (2 * d.tile + 1) with
      drains := ((s.spoilLine (2 * d.tile)).spoilLine (2 * d.tile + 1)).drains.map
        (fun x => if x.id = d.id then { x with combined := true } else x) } := by
  simp only [State.combineDrain, h, hb, Bool.false_eq_true, if_false, if_true]

theorem evDrainCombine_of_listed {s : State} {i : Nat} {d : Drain} (h : s.drains[i]? = some d) : evDrainCombine i s = s.combineDrain d := by
  unfold evDrainCombine
  rw [h]

theorem evDrainCombine_of_none {s : State} {i : Nat} (h : s.drains[i]? = none) : evDrainCombine i s = s := by
  unfold evDrainCombine
  rw [h]

theorem evDrainAck_of_listed {s : State} {i : Nat} {d : Drain} (h : s.drains[i]? = some d) :
    evDrainAck i s = if d.combined = true then s.ackDrain d else s := by
  unfold evDrainAck
  rw [h]

theorem evDrainAck_of_none {s : State} {i : Nat} (h : s.drains[i]? = none) : evDrainAck i s = s := by
  unfold evDrainAck
  rw [h]

theorem ackDrain_of_single {s : State} {d : Drain} (h : d.single = true) :
    s.ackDrain d = ({ s with drains := s.drains.filter (fun x => x.id != d.id) }).clearToken d.id := if_pos h

/-! ### REGION_JOIN (08 R260) -/

section

variable {s : State} {tile : Nat} {t : HomeTile} {j : Join} {rest : List Join} (ht : s.tiles.find? tile = some t) (hj : t.joins = j :: rest)
  (reads : t.reads = []) (halving : t.halving = none) (anew : j.peer = none → s.holder j.cid tile = none)

include anew in
/-- The joiner is no core that holds the tile here already. -/
theorem joins_anew : (j.peer.isNone && (s.holder j.cid tile).isSome) = false := by
  cases own : j.peer with
  | none => rw [anew own]; rfl
  | some _ => rfl

include ht hj reads halving anew

/-- The first joiner of a tile, nothing else being answered there, gets the largest power of two of the remainder. -/
theorem answerJoin_of_remainder (left : 1 ≤ t.remainder) : s.answerJoin tile = s.grantShare j tile (16 - Nat.log2 t.remainder) := by
  unfold State.answerJoin
  simp only [ht, hj, reads, halving, joins_anew anew, left, List.isEmpty_nil, Option.isSome_none, Bool.not_true, Bool.or_self,
    Bool.false_eq_true, if_false, if_true]

/-- Without a remainder the largest share is halved, or the joiner refused. -/
theorem answerJoin_of_no_remainder (none_left : t.remainder = 0) {b : Share} {bs : List Share} (largest : t.byShare = b :: bs) :
    s.answerJoin tile = if b.share ≤ 15 then s.halve t tile j b else s.refuseJoin t tile j := by
  unfold State.answerJoin
  simp only [ht, hj, reads, halving, joins_anew anew, none_left, largest, List.isEmpty_nil, Option.isSome_none, Bool.not_true,
    Bool.or_self, Bool.false_eq_true, if_false, show ¬ 1 ≤ 0 by decide, List.head?_cons]

end

/-- No addition waits: nothing is entered. -/
theorem pushAdds_of_none {s : State} {cid tile : Nat} (h : s.waitingAdds cid tile = []) : s.pushAdds cid tile = s := by
  unfold State.pushAdds
  simp [h]

/-- A core that did not hold the tile holds it now, with nothing in its delta tile. -/
theorem holder_holdTile {s : State} {cid tile : Nat} (ctx share : Nat) (coded : Bool) (limit : Word) (anew : s.holder cid tile = none)
    (idle : s.waitingAdds cid tile = []) : (s.holdTile cid ctx tile share coded limit).holder cid tile = some
      { tile := tile, ctxs := [ctx], coded := coded, limit := limit, delta := [], m := 0, share := share, draining := none,
        leaving := false } := by
  have unheld : (s.core cid).l1.hold.find? (fun h => h.tile == tile) = none := anew
  unfold State.holdTile
  dsimp only
  rw [pushAdds_of_none (by exact idle), holder_setL1, List.find?_append, unheld, Option.none_or]
  simp

/-- A core of this device is the tile's new holder. -/
theorem holder_grantShare {s : State} {tile : Nat} (k : Nat) {t : HomeTile} {j : Join} (ht : s.tiles.find? tile = some t)
    (own : j.peer = none) (anew : s.holder j.cid tile = none) (idle : s.waitingAdds j.cid tile = []) :
    (s.grantShare j tile k).holder j.cid tile = some
      { tile := tile, ctxs := [j.ctx], coded := j.coded, limit := t.limit, delta := [], m := 0, share := k, draining := none,
        leaving := false } := by
  unfold State.grantShare
  simp only [ht, own]
  exact holder_holdTile j.ctx k j.coded t.limit (by exact anew) (by exact idle)

/-- A core of another device is told its share, which the tile lists. -/
theorem grantShare_of_peer {s : State} {tile : Nat} (k : Nat) {t : HomeTile} {j : Join} {p : Asker} (ht : s.tiles.find? tile = some t)
    (afar : j.peer = some p) : ∃ u : State, s.grantShare j tile k = u.answerPeer p 0 (bytesOf 4 k) ∧
      u.mem = s.mem ∧ ∃ t', u.tiles.find? tile = some t' ∧
        t'.shares = t.shares.filter (fun x => !(x.did == p.did && x.cid == j.cid)) ++ [⟨p.did, j.cid, k⟩] := by
  have did : s.joinDid j = p.did := by unfold State.joinDid; rw [afar]; rfl
  unfold State.grantShare
  simp only [ht, afar, did]
  exact ⟨_, rfl, rfl, _, SMap.find?_put_self .., rfl⟩

/-- A core's join of a tile of another device is a message, unless one is on its way. -/
theorem requestJoin_of_sent {s s1 : State} {cid id : Nat} {a : Add} (away : s.isLocal (256 * a.tile) = false)
    (once : s.txns.any (fun t => t.joins cid a.tile) = false)
    (sent : s.sendTo (targetOf (256 * a.tile)) (regionTx 16 a.cls a.tile [cid, a.limit.toNat]) (.join a cid 0) = some (s1, id)) :
    s.requestJoin cid a = s1 := by
  unfold State.requestJoin
  simp only [away, once, sent, Bool.false_eq_true, if_false]

/-! ### REGION_READ (08 R263) -/

/-- The oldest read of a tile asks for its drains. -/
theorem answerRead_of_unasked {s : State} {tile : Nat} {t : HomeTile} {r : TileRead} {rest : List TileRead} (ht : s.tiles.find? tile = some t)
    (hr : t.reads = r :: rest) (unasked : r.drains = none) :
    s.answerRead tile =
      let q := s.requestDrains tile (s.readClass r) (drainsFor r.tol t.byShare t.total)
      { q.1 with tiles := q.1.tiles.modify tile (fun t => { t with reads := { r with drains := some q.2 } :: rest }) } := by
  unfold State.answerRead
  simp only [ht, hr, unasked]

/-- All its drains combined, a read of this device gets the home's bytes. -/
theorem answerRead_of_drained {s : State} {tile : Nat} {t : HomeTile} {r : TileRead} {rest : List TileRead} {ids : List Nat}
    (ht : s.tiles.find? tile = some t) (hr : t.reads = r :: rest) (own : r.peer = none) (asked : r.drains = some ids)
    (combined : ∀ d ∈ s.drains, d.id ∈ ids → d.combined = true) (answered : ∀ x ∈ s.txns, x.token ∉ ids) :
    s.answerRead tile =
      let u := s.recallLine (lineOf r.key)
      (({ u with tiles := u.tiles.modify tile (fun t => { t with reads := rest }) } : State).modOp r.op
        (fun o => o.answered r (u.homeBytes r.key r.size r.coded))).clearToken r.token := by
  have drained : s.undrained ids = false := by
    unfold State.undrained
    simp only [Bool.or_eq_false_iff, List.any_eq_false, List.contains_iff_mem, Bool.and_eq_true, Bool.not_eq_true', not_and]
    exact ⟨fun d hd hid => by simp [combined d hd hid], answered⟩
  unfold State.answerRead
  simp only [ht, hr, asked, drained, own, Bool.false_eq_true, if_false, Option.isSome_none]
  unfold State.landRead
  simp only [own]

/-! ### MONW_RECHECK (08 R252) -/

theorem monMet_uncoded {s : State} {m : Mon} (own : m.peer = none) (uncoded : m.coded = false) :
    s.monMet m = monHolds m.cond (BitVec.ofNat 32 (s.load m.key 4)) m.val := by
  unfold State.monMet
  simp only [own, uncoded, Option.isSome_none, Bool.false_eq_true, if_false]
  rfl

/-- Settles O40: each event by the equations of what it answers; an evicted line leaves no copy because whatever its home does with it only
takes copies away. -/
theorem regionAndMonitorEvents : Obligations.RegionAndMonitorEvents := by
  unfold Obligations.RegionAndMonitorEvents
  intro s
  refine ⟨fun i d hd new sound => ?_, fun i d hd new struck => ?_, fun i nothing => ?_,
    fun tile delta i hm hs hi => load_combineDelta tile delta hm hs hi,
    fun i d hd => event_of_eq (evDrainAck_of_listed hd), fun i none => event_of_eq (evDrainAck_of_none none),
    fun d single => ackDrain_of_single single,
    fun tile t j rest ht hj reads halving anew =>
      ⟨fun left => event_of_eq (answerJoin_of_remainder ht hj reads halving anew left),
        fun none_left b bs largest => event_of_eq (answerJoin_of_no_remainder ht hj reads halving anew none_left largest)⟩,
    fun tile t j k ht own anew idle => holder_grantShare k ht own anew idle,
    fun tile t j k p ht afar => grantShare_of_peer k ht afar,
    fun cid a away once s1 id sent => requestJoin_of_sent away once sent,
    fun tile t r rest ht hr unasked => event_of_eq (answerRead_of_unasked ht hr unasked),
    fun tile t r rest ids ht hr own asked combined answered => event_of_eq (answerRead_of_drained ht hr own asked combined answered),
    fun o r bs => rfl, fun cid line => ?_, fun n => rfl, fun m own uncoded => monMet_uncoded own uncoded⟩
  · exact event_of_eq ((evDrainCombine_of_listed hd).trans (combineDrain_of_sound new sound))
  · exact event_of_eq ((evDrainCombine_of_listed hd).trans (combineDrain_of_struck new struck))
  · rcases nothing with none | ⟨d, hd, combined⟩
    · exact event_of_eq (evDrainCombine_of_none none)
    · exact event_of_eq ((evDrainCombine_of_listed hd).trans (combineDrain_of_combined combined))
  · obtain ⟨inv, excl, clean, dirty, upd⟩ := l1_evict s cid line
    exact ⟨s.evict cid line, rfl, inv, excl, clean, dirty, upd, fun h found => leaving_of_toLeave found,
      fun only rising here plain k => byte_evict only here plain rising k⟩

end Sys2Proof.Machine

/-! Invalidations and the registers that the control cores write: what each event gives in each of its cases (09 R282, R295; 10 R296;
13 R375, R382; 14 R388, R396). -/

namespace Sys2Proof.Machine

/-- Once the control cores run, an operation of theirs gives the state its function says (14 R398). -/
theorem controlEvent_of_booted {f : State → State} {s t : State} (booted : s.zephyr.booted = true) (h : f s = t) : controlEvent f s = .next t := by
  simp [controlEvent, booted, h]

/-! ### Invalidation (09 R295) -/

theorem evInvalidationRequest_eq (s : State) (ctx lo hi : Nat) :
    evInvalidationRequest ctx lo hi s = if s.regs.inval = none then { s with regs := { s.regs with inval := some ⟨ctx, lo, hi⟩ } } else s := by
  unfold evInvalidationRequest
  split
  · rename_i under_way
    simp [under_way]
  · rename_i idle
    rw [if_pos idle]

theorem evInvalidationComplete_of_idle {s : State} (idle : s.regs.inval = none) : evInvalidationComplete s = s := by
  simp only [evInvalidationComplete, idle]

theorem evInvalidationComplete_of_under_way {s : State} {i : Invalidation} (under_way : s.regs.inval = some i) :
    evInvalidationComplete s =
      let u := (s.flushContext i.ctx).leaveTiles i.ctx
      if u.accessing i.ctx then u else { u.dropRange i with regs := { (u.dropRange i).regs with inval := none } } := by
  simp only [evInvalidationComplete, under_way]

/-- A filter that drops what satisfies `p` leaves nothing that does. -/
theorem eq_false_of_mem_filter_not {α : Type} {p : α → Bool} {xs : List α} {x : α} (h : x ∈ xs.filter (fun e => !p e)) : p x = false := by
  simpa using (List.mem_filter.1 h).2

/-- A map whose lists have all been filtered so has no such entry in any of them. -/
theorem eq_false_of_mem_map_filter_not {α : Type} {p : α → Bool} {m : List (Nat × List α)} {x : Nat × List α}
    (hx : x ∈ m.map (fun y => (y.1, y.2.filter (fun e => !p e)))) {e : α} (he : e ∈ x.2) : p e = false := by
  obtain ⟨y, _, rfl⟩ := List.mem_map.1 hx
  exact eq_false_of_mem_filter_not he

theorem dropRange_tlb {s : State} {i : Invalidation} {c : Nat × Core} (hc : c ∈ (s.dropRange i).cores) {e : TlbEntry} (he : e ∈ c.2.tlb) :
    i.covers e = false := by
  obtain ⟨c0, _, rfl⟩ := List.mem_map.1 hc
  exact eq_false_of_mem_filter_not he

theorem dropRange_tlb2 {s : State} {i : Invalidation} {x : Nat × List TlbEntry} (hx : x ∈ (s.dropRange i).tlb2) {e : TlbEntry} (he : e ∈ x.2) :
    i.covers e = false := eq_false_of_mem_map_filter_not hx he

theorem dropRange_walks {s : State} {i : Invalidation} {x : Nat × List WalkEntry} (hx : x ∈ (s.dropRange i).walks) {e : WalkEntry} (he : e ∈ x.2) :
    i.meets e = false := eq_false_of_mem_map_filter_not hx he

/-! ### DOMAIN (14 R388) -/

/-- A bit of a word, as DOMAIN_WRITE reads it from the word's number. -/
theorem toNat_div_two_pow_mod_two (v : Word) (i : Nat) : v.toNat / 2 ^ i % 2 = (v.getLsbD i).toNat := by
  rw [BitVec.getLsbD, Nat.toNat_testBit]

theorem evDomainWrite_of_ignored {s : State} {v : Word} (h : s.regs.domainSet = true ∨ s.ctxs ≠ [] ∨ v.getLsbD (8 + v.toNat % 8) = false) :
    evDomainWrite v s = s := by
  unfold evDomainWrite
  dsimp only
  rw [toNat_div_two_pow_mod_two, if_pos]
  rcases h with set | held | clear
  · simp [set]
  · simp [held]
  · simp [clear]

theorem evDomainWrite_of_taken {s : State} {v : Word} (unset : s.regs.domainSet = false) (unheld : s.ctxs = [])
    (own : v.getLsbD (8 + v.toNat % 8) = true) :
    evDomainWrite v s = { s with
      mem := rekey s.did (v.toNat % 8) s.mem
      poison := s.rekeyLines (v.toNat % 8)
      regs := { s.regs with domain := BitVec.ofNat 32 (v.toNat % 8 + v.toNat / 256 % 256 * 256), domainSet := true } } := by
  unfold evDomainWrite
  dsimp only
  rw [toNat_div_two_pow_mod_two, if_neg]
  simp [unset, unheld, own]

/-- The DID that DOMAIN holds is the one that was written. -/
theorem toNat_domain_mod (d mask : Nat) (h : d < 8) : (BitVec.ofNat 32 (d + mask % 256 * 256)).toNat % 8 = d := by
  rw [BitVec.toNat_ofNat]
  omega

/-! ### LINKCTL (14 R388, R389) -/

@[simp] theorem State.port_setPort (s : State) (n : Nat) (p : Port) : (s.setPort n p).port n = p := by
  simp [State.port, SMap.get_put]

theorem portOff_of_not_up {s : State} {n : Nat} (off : (s.port n).up = false) : s.portOff n false = s.setPort n (s.port n) := by
  simp only [State.portOff, off, Bool.or_false, Bool.false_eq_true, if_false]
  rw [← off]

theorem evLinkctlWrite_of_enabled {s : State} {n : Nat} {v : Word} (hn : n < 8) (set : v.getLsbD 0 = true) (disabled : (s.port n).en = false) :
    evLinkctlWrite n v s = s.setPort n { s.port n with
      en := true, expect := v.toNat / 2 % 8, lost := 0, replays := 0, down := false, mismatch := false } := by
  simp only [evLinkctlWrite, Nat.not_le.2 hn, set, disabled, Bool.not_true, Bool.false_eq_true, if_false]

/-- Clearing EN of a port that is not up disables it and names the peer that it is to expect. -/
theorem evLinkctlWrite_of_disabled {s : State} {n : Nat} {v : Word} (hn : n < 8) (clear : v.getLsbD 0 = false) (off : (s.port n).up = false) :
    evLinkctlWrite n v s = (s.setPort n (s.port n)).setPort n { s.port n with en := false, expect := v.toNat / 2 % 8 } := by
  simp only [evLinkctlWrite, Nat.not_le.2 hn, clear, portOff_of_not_up off, State.port_setPort, Bool.not_false, if_false, if_true]

/-! ### Registers with no behaviour of their own (09 R282; 10 R296; 13 R375, R382; 14 R396) -/

/-- A header field of a context that is neither switched in nor being switched out goes to its image (13 R382). -/
theorem writeHeader_of_switched_out {s : State} {ctx off n : Nat} {c : Ctx} {v : Addr} (hc : s.ctxs.find? ctx = some c) (hn : headerWidth off = some n)
    (out : c.state ≠ 1) (idle : c.state ≠ 3) : s.writeHeader ctx off v = s.physWrite (cellsAt (s.imageKey c.image.toNat off) (bytesOf n v.toNat)) := by
  simp [State.writeHeader, hc, hn, out, idle]

/-- PTBASE has 8 bytes (13 R382). -/
theorem headerWidth_8 : headerWidth 8 = some 8 := by decide

/-- Settles O46: each write by the equation of its event in the case at hand; what an invalidation leaves by the filters of `dropRange`. -/
theorem deviceRegisters : Obligations.DeviceRegisters := by
  unfold Obligations.DeviceRegisters
  intro s
  refine ⟨fun ctx lo hi booted => controlEvent_of_booted booted (evInvalidationRequest_eq s ctx lo hi), fun i under_way => ⟨fun busy => ?_, fun quiet => ?_⟩,
    fun i => ⟨fun _ hc _ he => dropRange_tlb hc he, fun _ hx _ he => dropRange_tlb2 hx he, fun _ hx _ he => dropRange_walks hx he, rfl, rfl⟩,
    fun idle => event_of_eq (evInvalidationComplete_of_idle idle), fun v booted unset unheld own => ?_,
    fun v booted ignored => controlEvent_of_booted booted (evDomainWrite_of_ignored ignored),
    fun n v booted hn set disabled => controlEvent_of_booted booted (evLinkctlWrite_of_enabled hn set disabled), fun n v booted hn clear off => ?_,
    fun v booted => ?_, fun v c ctx booted hc out idle => controlEvent_of_booted booted (writeHeader_of_switched_out hc headerWidth_8 out idle)⟩
  · exact event_of_eq ((evInvalidationComplete_of_under_way under_way).trans (if_pos busy))
  · exact event_of_eq ((evInvalidationComplete_of_under_way under_way).trans (if_neg (by simp [quiet])))
  · exact ⟨_, controlEvent_of_booted booted (evDomainWrite_of_taken unset unheld own), toNat_domain_mod _ _ (Nat.mod_lt _ (by decide)),
      rfl, rfl, rfl, rfl, rfl⟩
  · exact ⟨_, controlEvent_of_booted booted (evLinkctlWrite_of_disabled hn clear off), by simp, by simp [off], by simp, rfl, rfl⟩
  · have write {r : Reg} {t : State} (h : evRegisterWrite r v s = t) : exec (.registerWrite r v) s = .next t := controlEvent_of_booted booted h
    exact ⟨write rfl, write rfl, write rfl, fun n hn => ⟨write (if_pos hn), write (if_pos hn)⟩, fun n hn => write (if_pos hn), fun n => write rfl, write rfl⟩

end Sys2Proof.Machine

/-! Launch queues, placement, reservation and completion: what each event of the Launch Unit gives in each of its cases (10 R296, R297, R300, R302, R306,
R307, R309). -/

namespace Sys2Proof.Machine

/-! ### Launch queues (10 R296, R297, R300) -/

section
variable {s : State} {n : Nat}

/-- A queue whose ring block can be read and is sound takes its TAIL and HEAD and runs. -/
theorem checkQueue_of_sound {s1 : State} {bs : List Byte} {r : Ring} (aligned : (s.lqueue n).ring.toNat % 32 = 0)
    (read : s.readVirtual deviceTlb (s.lqueue n).ctx (s.lqueue n).ring.toNat 32 = (s1, .ok bs)) (sound : parseRing 16 bs = some r) :
    s.checkQueue n = (s1.setLqueue n
      { s.lqueue n with tail := BitVec.ofNat 32 r.tail, head := BitVec.ofNat 32 r.head, stopped := false, bell := false }, some (some r)) := by
  simp only [State.checkQueue, aligned, read, sound, ne_eq, not_true, if_false]

/-- A queue whose ring block is not aligned stops with its record. -/
theorem checkQueue_of_misaligned (misaligned : (s.lqueue n).ring.toNat % 32 ≠ 0) :
    s.checkQueue n =
      (((s.setLqueue n { s.lqueue n with stopped := true, bell := false }).launchFault (s.lqueue n).ctx 0xFFFFFFFF (s.lqueue n).ring).1, some none) :=
  if_pos misaligned

theorem evLqbell_of_checkQueue {t : State} {r : Option (Option Ring)} (hn : n < 16) (checked : s.checkQueue n = (t, r)) : evLqbell n s = t := by
  simp only [evLqbell, hn, checked, if_true]

/-- It is the turn of a queue that no doorbell waits for, and there is room for one more launch (10 R297). -/
def State.servesQueue (s : State) (n : Nat) : Prop :=
  s.zephyr.halted = false ∧ (s.lqueue n).bell = false ∧ s.launchesFull = false ∧ s.nextQueue = some n

/-- The queue whose turn it is gives up the record at HEAD: both halves are read and checked, HEAD advances, the launch is accepted. -/
theorem evLaunchAccept_of_record {s1 s2 s3 s4 s5 : State} {ring : Ring} {lo hi : Except Bad (List Byte)} {x y : Except Addr (List Byte)} {c : Checked}
    {ts : List Nat} (turn : s.servesQueue n) (checked : s.checkQueue n = (s1, some (some ring))) (holds : ring.used ≠ 0)
    (readLo : s1.readVirtual deviceTlb (s1.lqueue n).ctx (ring.base + 128 * (ring.head % ring.cap)) 64 = (s2, lo)) (hx : halfOf lo = some x)
    (readHi : s2.readVirtual deviceTlb (s1.lqueue n).ctx (ring.base + 128 * (ring.head % ring.cap) + 64) 64 = (s3, hi)) (hy : halfOf hi = some y)
    (accepted : s3.checkLaunch (s1.lqueue n).ctx false x y = (s4, some c))
    (advanced : s4.writeVirtual deviceTlb (s1.lqueue n).ctx ((s1.lqueue n).ring.toNat + 16) (bytesOf 4 ((ring.head + 1) % 2 ^ 32)) = (s5, .ok ts)) :
    evLaunchAccept n s =
      let r := s5.acceptLaunch (s1.lqueue n).ctx none 0 3 (some n) (s1.lqueue n).last c
      { r.1.setLqueue n { r.1.lqueue n with last := some r.2, head := BitVec.ofNat 32 (ring.head + 1) } with lastQueue := n } := by
  obtain ⟨running, quiet, room, turn⟩ := turn
  have served : ¬ (s.launchesFull || s.nextQueue != some n) = true := by simp [room, turn]
  simp only [evLaunchAccept, running, quiet, checked, readLo, readHi, hx, hy, accepted, advanced, if_neg served, if_neg holds, Bool.false_eq_true, if_false]

end

/-- An accepted launch is complete at once exactly when its checks rejected it (10 R300). -/
theorem acceptLaunch_spec (s : State) (ctx : Nat) (parent : Option Nat) (depth cap : Nat) (queue previous : Option Nat) (c : Checked) :
    ∃ l, (s.acceptLaunch ctx parent depth cap queue previous c).1 =
        { s.tick1 with launches := s.launches.put s.nextLid l, nextLid := (s.nextLid + 1) % 2 ^ 32 } ∧
      l.ctx = ctx ∧ l.parent = parent ∧ l.depth = depth ∧ l.prio = min c.record.prio cap ∧ l.record = c.record ∧ l.status = c.status ∧
      l.placed = 0 ∧ l.live = 0 ∧ l.retired = 0 ∧ (l.completed = none ↔ c.status = 0) :=
  ⟨_, rfl, rfl, rfl, rfl, rfl, rfl, rfl, rfl, rfl, rfl, by simp⟩

/-! ### Placement and reservation (10 R306, R307, R309) -/

section
variable {s : State} {c : Cand} {cs : List Cand} {l : Launch} {cores : List (Nat × List Nat)}

/-- The next group of a launch that has started is placed where the launch fits, when it comes first. -/
theorem evGroupPlace_of_started (first : s.candidates = c :: cs) (group : c.group = true) (hl : s.launches.find? c.ref = some l)
    (fits : s.chooseCores c.ref l.prio l.record = some cores) (started : l.placed ≠ 0) :
    evGroupPlace s = s.placeGroup c.ref l cores := by
  simp only [evGroupPlace, first, State.placeFirst, group, hl, fits, if_true, if_neg started]

/-- The first group of a launch is placed with the tables that the launch reads at its start. -/
theorem evGroupPlace_of_starting {s1 : State} {l1 : Launch} (first : s.candidates = c :: cs) (group : c.group = true)
    (hl : s.launches.find? c.ref = some l) (fits : s.chooseCores c.ref l.prio l.record = some cores) (fresh : l.placed = 0)
    (started : s.startLaunch l = (s1, some l1)) : evGroupPlace s = s1.placeGroup c.ref l1 cores := by
  simp only [evGroupPlace, first, State.placeFirst, group, hl, fits, fresh, started, if_true]

theorem evGroupPlace_of_no_candidate (none : s.candidates = []) : evGroupPlace s = s := by
  simp only [evGroupPlace, none, State.placeFirst]

end

/-- A launch that has fitted nowhere for 65,536 cycles and holds no reservation reserves cores. -/
theorem evPlacementReserve_of_due {s : State} {lid t : Nat} {l : Launch} (hl : s.launches.find? lid = some l) (waits : l.waitingSince = some t)
    (unreserved : l.reserved = []) (placeable : s.placeable l = true) (due : 65536 ≤ s.cycle - t) :
    evPlacementReserve lid s = { s with launches := s.launches.put lid { l with reserved := s.reserveFor l } } := by
  simp only [evPlacementReserve, hl, waits, unreserved, placeable, due, List.isEmpty_nil, decide_true, Bool.and_self, if_true]

/-! ### Completion (08 R251; 10 R302) -/

section
variable {s : State} {lid : Nat} {l : Launch}

/-- The record of a complete launch is written in its turn, unless a record of the Launch Unit waits for room. -/
theorem evLaunchComplete_of_completed {k : Nat} (hl : s.launches.find? lid = some l) (completed : l.completed = some k)
    (free : s.unitWaits l.ctx 6 = false ∨ l.told.isSome = true) (first : s.earlierRecord l k = false) :
    evLaunchComplete lid s = s.reportLaunch lid l := by
  have goes : ¬ (s.unitWaits l.ctx 6 && l.told.isNone || s.earlierRecord l k) = true := by
    rcases free with room | told
    · simp [first, room]
    · simp [first, Option.isSome_iff_ne_none.1 told]
  simp only [evLaunchComplete, hl, completed, if_neg goes]

theorem evLaunchComplete_of_not_done (hl : s.launches.find? lid = some l) (incomplete : l.completed = none) (busy : s.launchDone lid l = false) :
    evLaunchComplete lid s = s := by
  simp only [evLaunchComplete, hl, incomplete, busy, Bool.false_eq_true, if_false]

/-- A launch that has nothing left waits for its stores on their way to other devices and for an invalidation, once its stores are performed. -/
theorem evLaunchComplete_of_owing (hl : s.launches.find? lid = some l) (incomplete : l.completed = none) (done : s.launchDone lid l = true)
    (owes : let u := (s.flushContext l.ctx).oweSent lid l.ctx s
      u.owing.any (fun o => o.lid == lid) = true ∨ u.invalidating = true) :
    evLaunchComplete lid s = (s.flushContext l.ctx).oweSent lid l.ctx s := by
  simp only [evLaunchComplete, hl, incomplete, done, if_true]
  exact if_pos (Bool.or_eq_true_iff.2 owes)

/-- A record written to an event queue that has room: the launch is forgotten, and its parent waits for what the record still has to reach. -/
theorem reportLaunch_of_room {s1 s2 s3 : State} {bs : List Byte} {ring : Ring} {ts us : List Nat} (untold : l.told = none) (heard : l.silent = none)
    (aligned : l.record.evq.toNat % 32 = 0) (read : s.readVirtual deviceTlb l.ctx l.record.evq.toNat 32 l.prio = (s1, .ok bs))
    (sound : parseRing 24 bs = some ring) (room : ring.used ≠ ring.cap)
    (written : s1.writeVirtual deviceTlb l.ctx (ring.base + 32 * (ring.tail % ring.cap)) (l.completion lid) l.prio = (s2, .ok ts))
    (advanced : s2.writeVirtual deviceTlb l.ctx (l.record.evq.toNat + 20) (bytesOf 4 ((ring.tail + 1) % 2 ^ 32)) l.prio = (s3, .ok us)) :
    s.reportLaunch lid l = (l.parent.elim s3 (fun p => s3.oweSent p l.ctx s1)).endLaunch lid := by
  simp only [State.reportLaunch, untold, heard, read, aligned, sound, written, advanced, if_neg room, if_true]
  cases l.parent <;> rfl

end

/-- Settles O42: each event by its equation in the case at hand. -/
theorem launchesRun : Obligations.LaunchesRun := by
  unfold Obligations.LaunchesRun
  intro s
  exact ⟨fun n s1 bs r booted hn aligned read sound =>
      controlEvent_of_booted booted (evLqbell_of_checkQueue hn (checkQueue_of_sound aligned read sound)),
    fun n booted hn misaligned => controlEvent_of_booted booted (evLqbell_of_checkQueue hn (checkQueue_of_misaligned misaligned)),
    fun n s1 s2 s3 s4 s5 ring lo hi x y c ts running quiet room turn checked holds readLo hx readHi hy accepted advanced =>
      event_of_eq (evLaunchAccept_of_record ⟨running, quiet, room, turn⟩ checked holds readLo hx readHi hy accepted advanced),
    fun ctx parent depth cap queue previous c => ⟨rfl, acceptLaunch_spec s ctx parent depth cap queue previous c⟩,
    fun c cs l cores first group hl fits =>
      ⟨fun started => event_of_eq (evGroupPlace_of_started first group hl fits started),
        fun s1 l1 fresh started => event_of_eq (evGroupPlace_of_starting first group hl fits fresh started)⟩,
    fun none => event_of_eq (evGroupPlace_of_no_candidate none),
    fun lid l t hl waits unreserved placeable due => event_of_eq (evPlacementReserve_of_due hl waits unreserved placeable due),
    fun lid l k hl completed free first => event_of_eq (evLaunchComplete_of_completed hl completed free first),
    fun lid l hl incomplete busy => event_of_eq (evLaunchComplete_of_not_done hl incomplete busy),
    fun lid l hl incomplete done owes => event_of_eq (evLaunchComplete_of_owing hl incomplete done owes),
    fun lid l s1 s2 s3 bs ring ts us untold heard aligned read sound room written advanced =>
      (reportLaunch_of_room untold heard aligned read sound room written advanced).trans (by cases l.parent <;> rfl)⟩

end Sys2Proof.Machine

/-! Accesses to memory leave the launch table as it is: a record's priority is the same before and after the pool has made room for it (06 R188; 08 R249,
R260 to R264; 11 R324, R325; 14 R393). -/

namespace Sys2Proof.Machine

/-- A sequence of steps that each leave the launches as they are. -/
theorem foldl_launches {α : Type} {f : State → α → State} (hf : ∀ s x, (f s x).launches = s.launches) (xs : List α) (s : State) :
    (xs.foldl f s).launches = s.launches := by
  induction xs generalizing s with
  | nil => rfl
  | cons x xs ih => exact (ih _).trans (hf s x)

/-- The same of steps that carry something else along. -/
theorem foldl_fst_launches {α β : Type} {f : State × β → α → State × β} (hf : ∀ r x, (f r x).1.launches = r.1.launches) (xs : List α)
    (r : State × β) : (xs.foldl f r).1.launches = r.1.launches := by
  induction xs generalizing r with
  | nil => rfl
  | cons x xs ih => exact (ih _).trans (hf r x)

/-- One of two states. -/
theorem ite_launches {c : Prop} [Decidable c] {s t u : State} (ht : t.launches = s.launches) (hu : u.launches = s.launches) :
    (if c then t else u).launches = s.launches := by
  split
  · exact ht
  · exact hu

/-! ### Sending (14 R391, R392) -/

theorem LinksOnly.launches {s t : State} (h : LinksOnly s t) : t.launches = s.launches := by
  obtain ⟨_, _, _, _, rfl⟩ := h
  rfl

theorem sendTo_launches {s t : State} {peer token : Nat} {x : LinkTx} {p : Purpose} (e : s.sendTo peer x p = some (t, token)) :
    t.launches = s.launches := (linksOnly_sendTo e).launches

section
variable (s : State)

theorem countLost_launches (peer : Nat) : (s.countLost peer).launches = s.launches := (linksOnly_countLost s peer).launches

theorem remoteLine_launches (cls line : Nat) (cs : List (Nat × Byte)) (p : Purpose) : (s.remoteLine cls line cs p).1.launches = s.launches :=
  (linksOnly_remoteLine ..).launches

theorem answerPeer_launches (a : Asker) (status : Nat) (data : List Byte) : (s.answerPeer a status data).launches = s.launches := by
  unfold State.answerPeer
  split <;> rfl

/-! ### Writes at the home, their monitors and invalidations (08 R249, R253) -/

theorem wake_launches (m : Mon) : (s.wake m).launches = s.launches := by
  have bit : (s.setWakeBit m.ctx m.wave).launches = s.launches := by
    unfold State.setWakeBit
    split <;> rfl
  unfold State.wake
  split
  · split <;> rfl
  · exact ite_launches bit rfl

theorem notify_launches (key : Nat) : (s.notify key).launches = s.launches := by
  unfold State.notify
  exact ite_launches (foldl_launches wake_launches ..) rfl

theorem invalidateMarks_launches (line : Nat) : (s.invalidateMarks line).launches = s.launches := by
  unfold State.invalidateMarks
  split
  · rfl
  · refine foldl_launches (fun u d => ?_) _ _
    split
    next e => exact sendTo_launches e
    · rfl

theorem putCells_launches (cs : List (Nat × Byte)) : (s.putCells cs).launches = s.launches := by
  obtain ⟨_, put⟩ := putCells_eq s cs
  rw [put]

theorem putCoded_launches (base : Nat) (cs : List (Nat × Byte)) : (s.putCoded base cs).launches = s.launches := by
  unfold State.putCoded State.putBytes
  refine ite_launches (putCells_launches ..) ?_
  split
  · exact putCells_launches ..
  · dsimp only
    split
    · exact (putCells_launches ..).trans (putCells_launches ..)
    · exact putCells_launches ..

theorem homePut_launches (cs : List (Nat × Byte)) (coded : Bool) : (s.homePut cs coded).launches = s.launches :=
  calc (s.homePut cs coded).launches
    _ = (((cs.map fun c => lineOf c.1).dedup).foldl State.invalidateMarks (s.putView cs coded)).launches := foldl_launches notify_launches ..
    _ = (s.putView cs coded).launches := foldl_launches invalidateMarks_launches ..
    _ = s.launches := ite_launches (foldl_launches (fun _ _ => putCoded_launches ..) ..) (putCells_launches ..)

theorem homeWrite_launches (cs : List (Nat × Byte)) (coded : Bool) : (s.homeWrite cs coded).launches = s.launches :=
  homePut_launches (s.clearPoison cs) cs coded

theorem spoilLine_launches (line : Nat) : (s.spoilLine line).launches = s.launches := ite_launches (countLost_launches ..) (ite_launches rfl rfl)

/-! ### Update-only copies (08 R247, R248) -/

theorem combineUpd_launches (u : Upd) : (s.combineUpd u).launches = s.launches := by
  unfold State.combineUpd
  refine ite_launches (spoilLine_launches ..) (ite_launches (homePut_launches ..) ?_)
  dsimp only
  split
  next e => exact sendTo_launches e
  · exact countLost_launches ..

theorem recallLine_launches (line : Nat) : (s.recallLine line).launches = s.launches := by
  refine foldl_launches (fun u cid => ?_) _ s
  have sent : (if (u.core cid).l1.upd.any (fun x => x.line == line) then u.sendUpd cid (fun x => x.line == line) else u).launches = u.launches :=
    ite_launches (foldl_launches combineUpd_launches ..) rfl
  exact ite_launches sent sent

/-! ### Region tiles (08 R260 to R264) -/

theorem combineDrain_launches (d : Drain) : (s.combineDrain d).launches = s.launches := by
  have combined : (s.combineDelta d.tile d.delta d.coded).launches = s.launches := by
    unfold State.combineDelta
    split
    · rfl
    · exact homePut_launches ..
  have spoilt := (spoilLine_launches (s.spoilLine (2 * d.tile)) (2 * d.tile + 1)).trans (spoilLine_launches ..)
  exact ite_launches rfl (ite_launches (c := d.bad = true) spoilt combined)

theorem loseTile_launches (cid tile : Nat) : (s.loseTile cid tile).launches = s.launches := by
  have erased (u : State) (x : Nat × Add) :
      ((u.countLost (targetOf (256 * tile))).modOp x.1 fun o => { o with adds := o.adds.erase x.2 }).launches = u.launches := countLost_launches ..
  unfold State.loseTile
  refine (foldl_launches erased _ _).trans ?_
  split
  · rfl
  · have lost : ((s.dropHolder cid tile).countLost (targetOf (256 * tile))).launches = s.launches := countLost_launches ..
    dsimp only
    split <;> exact lost

theorem startDrain_launches (cid : Nat) (h : Holder) (leaving : Bool) : (s.startDrain cid h leaving).1.launches = s.launches := by
  unfold State.startDrain
  split
  · rfl
  · unfold State.sendDelta
    dsimp only
    split
    · exact loseTile_launches ..
    next e =>
      obtain ⟨r, first, second⟩ := Option.bind_eq_some_iff.1 e
      have sent := (sendTo_launches second).trans (sendTo_launches first)
      exact ite_launches (c := h.bad = true) ((countLost_launches ..).trans sent) sent

end

theorem tryAdd_launches {s t : State} {cid : Nat} {a : Add} {ids : List Nat} (e : s.tryAdd cid a = some (t, ids)) : t.launches = s.launches := by
  unfold State.tryAdd at e
  split at e
  · cases e
  · split at e
    · cases e
    · dsimp only at e
      split at e
      · obtain rfl : _ = t := congrArg Prod.fst (Option.some.inj e)
        exact startDrain_launches ..
      · cases e
        rfl

section
variable (s : State)

theorem requestJoin_launches (cid : Nat) (a : Add) : (s.requestJoin cid a).launches = s.launches := by
  unfold State.requestJoin
  refine ite_launches (ite_launches rfl rfl) (ite_launches rfl ?_)
  split
  next e => exact sendTo_launches e
  · exact loseTile_launches ..

theorem pushAdds_launches (cid tile : Nat) : (s.pushAdds cid tile).launches = s.launches := by
  have pushed : ((s.waitingAdds cid tile).foldl (fun (r : State × Bool) x =>
      if r.2 then
        match r.1.tryAdd cid x.2 with
        | none => (r.1, false)
        | some (s1, ids) => (s1.modOp x.1 (fun o => { o with adds := o.adds.erase x.2, waits := o.waits ++ ids }), true)
      else r) (s, true)).1.launches = s.launches := by
    refine foldl_fst_launches (fun r x => ?_) _ (s, true)
    split
    · split
      · rfl
      next e =>
        have added := tryAdd_launches e
        exact added
    · rfl
  unfold State.pushAdds
  dsimp only
  split
  · exact (requestJoin_launches ..).trans pushed
  · exact pushed

theorem endHalving_launches (tile id : Nat) : (s.endHalving tile id).launches = s.launches := by
  have granted (j : Join) (k : Nat) : (s.grantShare j tile k).launches = s.launches := by
    unfold State.grantShare State.holdTile
    split
    · rfl
    · dsimp only
      split
      · exact pushAdds_launches ..
      · exact answerPeer_launches ..
  unfold State.endHalving
  split
  · exact ite_launches (granted ..) rfl
  · rfl

theorem ackDrain_launches (d : Drain) : (s.ackDrain d).launches = s.launches := by
  unfold State.ackDrain
  refine ite_launches rfl ((pushAdds_launches ..).trans ((endHalving_launches ..).trans ?_))
  split
  · rfl
  · exact ite_launches rfl rfl

theorem finishDrain_launches (id : Nat) : (s.finishDrain id).launches = s.launches := by
  unfold State.finishDrain
  split
  · rfl
  · exact (ackDrain_launches ..).trans (combineDrain_launches ..)

theorem leaveTile_launches (cid tile : Nat) : (s.leaveTile cid tile).launches = s.launches := by
  unfold State.leaveTile
  split
  · rfl
  · split
    · exact finishDrain_launches ..
    · exact (foldl_launches finishDrain_launches ..).trans (startDrain_launches ..)

theorem recallTile_launches (tile : Nat) : (s.recallTile tile).launches = s.launches :=
  ite_launches rfl ((foldl_launches (fun _ _ => leaveTile_launches ..) ..).trans (foldl_launches combineDrain_launches ..))

/-! ### Writes and the pool (06 R188, R194; 11 R324, R325; 14 R391) -/

theorem writeAs_launches (cls : Nat) (cs : List (Nat × Byte)) (coded : Bool) (p : Purpose) : (s.writeAs cls cs coded p).1.launches = s.launches := by
  have recalled (cs : List (Nat × Byte)) : (s.recallCells cs).launches = s.launches :=
    foldl_launches (fun _ _ => (recallLine_launches ..).trans (recallTile_launches ..)) _ s
  refine Eq.trans (foldl_fst_launches (fun r l => ?_) _ (_, _)) (ite_launches rfl ((homeWrite_launches ..).trans (recalled _)))
  exact remoteLine_launches ..

theorem range_launches (tlb ctx : Nat) (p : Perm) (fuel va n : Nat) (acc : List (Nat × Nat × Bool)) :
    (s.range tlb ctx p fuel va n acc).1.launches = s.launches := by
  induction fuel generalizing s va n acc with
  | zero => rfl
  | succ fuel ih =>
    have translated := (cachesOnly_virtual s tlb ctx va p).same State.launches
    unfold State.range
    split
    · rfl
    · split
      · rfl
      · dsimp only
        generalize s.virtual tlb ctx va p = r at translated ⊢
        split
        · exact (ih ..).trans translated
        · exact translated
        · exact translated

theorem writeVirtual_launches (tlb ctx va : Nat) (bs : List Byte) (cls : Nat) : (s.writeVirtual tlb ctx va bs cls).1.launches = s.launches := by
  have reached := range_launches s tlb ctx .w (bs.length / 128 + 2) va bs.length []
  unfold State.writeVirtual
  generalize s.range _ _ _ _ _ _ _ = r at reached ⊢
  obtain ⟨s1, _ | ps⟩ := r
  · exact reached
  · have written (ps : List (Nat × Nat × Bool)) (r : (State × List Nat) × Nat) :
        (ps.foldl (fun (r : (State × List Nat) × Nat) p =>
          let (s', ts) := r.1.1.writeAs cls (cellsAt p.1 ((bs.drop r.2).take p.2.1)) p.2.2 .other
          ((s', r.1.2 ++ ts), r.2 + p.2.1)) r).1.1.launches = r.1.1.launches := by
      induction ps generalizing r with
      | nil => rfl
      | cons p ps ih => exact (ih _).trans (writeAs_launches ..)
    exact (written ps _).trans reached

theorem spoilRange_launches (ctx va n : Nat) : (s.spoilRange ctx va n).launches = s.launches := by
  have reached := range_launches s deviceTlb ctx .w (n / 128 + 2) va n []
  unfold State.spoilRange
  generalize s.range _ _ _ _ _ _ _ = r at reached ⊢
  obtain ⟨s1, _ | ps⟩ := r
  · exact reached
  · exact (foldl_launches spoilLine_launches ..).trans reached

end

/-- A record that is spilled leaves the launches as they are. -/
theorem spillRay_launches {s t : State} {cl ctx : Nat} {reclaim : Bool} (e : s.spillRay cl ctx reclaim = (t, true)) : t.launches = s.launches := by
  unfold State.spillRay at e
  split at e
  next c id r _ _ =>
    dsimp only at e
    split at e
    · cases e
    · split at e
      · cases e
      · cases e
      next s1 ts written =>
        cases e
        have stored : s1.launches = s.launches := (congrArg (·.1.launches) written).symm.trans (writeVirtual_launches ..)
        exact ite_launches ((spoilRange_launches ..).trans stored) stored
  · cases e

/-- Room that the pool makes by R324 leaves the launches, and so the priority of each, as they are. -/
theorem fairSlot_launches {s t : State} {cl ctx id : Nat} (e : s.fairSlot cl ctx = (t, some id)) : t.launches = s.launches := by
  unfold State.fairSlot at e
  split at e
  · cases e
  · dsimp only at e
    split at e
    · split at e
      · cases e; rfl
      · split at e
        · cases e
        · split at e
          next spilled => cases e; exact spillRay_launches spilled
          · cases e
    · exact congrArg State.launches (congrArg Prod.fst e).symm

theorem prioOf_of_launches {s t : State} (h : t.launches = s.launches) (lid : Nat) : t.prioOf lid = s.prioOf lid := by
  unfold State.prioOf
  rw [h]

end Sys2Proof.Machine

/-! The ray subsystem: what RAY_TRAVERSE, BIN_AGE_FLUSH and RAY_REFILL give in each of their cases (11 R318, R324, R325, R330, R331, R340; 07 R227). -/

namespace Sys2Proof.Machine

/-! ### Traversal (11 R330, R331) -/

section
variable {s : State} {id : Nat} {r : Ray} {l : Launch}

theorem traverses_eq_true_iff : s.traverses r = true ↔ r.item = false ∧ (r.place = .traversing ∨ r.place = .queued ∧ s.isIn r.ctx = true) := by
  simp [State.traverses]

/-- The traversal unit may take the ray up: it is in the pool, sound, of a known launch, and in traversal or in a traversal bin. -/
structure TakesUp (s : State) (id : Nat) (r : Ray) (l : Launch) : Prop where
  ray : s.rays.find? id = some r
  launch : s.launches.find? r.lid = some l
  traverses : s.traverses r = true
  sound : .pool id ∉ s.spoiled

/-- Where the walk of a ray goes on: where it stopped, or at its root. -/
def Ray.visits (r : Ray) (l : Launch) : List Visit × Nat :=
  r.walk.getD ([.node l.root.toNat ⟨l.root.toNat, [r.word 0, r.word 1, r.word 2], [r.word 4, r.word 5, r.word 6], none⟩], 0)

/-- A ray that has ended, or that TRACE could not test, is reported without a walk. -/
theorem evRayTraverse_of_ended (h : TakesUp s id r l) (ends : r.ended = true ∨ r.untested = true) : evRayTraverse id s = s.rayEnds id r := by
  obtain ⟨ray, launch, traverses, sound⟩ := h
  have unwalked : (r.ended || r.untested) = true := Bool.or_eq_true_iff.2 ends
  simp [evRayTraverse, ray, launch, traverses, sound, unwalked]

/-- A ray whose walk of the geometry ends is reported, with its flags in TRSTAT. -/
theorem evRayTraverse_of_over {w : Walk} {rest : List Visit} (h : TakesUp s id r l) (going : r.ended = false) (tested : r.untested = false)
    (ends : Walk.run l.shaders (2 ^ 27) { s := s, cl := rayCluster id, ray := r, nodes := (r.visits l).2, flags := 0 } (r.visits l).1 =
      (w, .over, rest)) :
    evRayTraverse id s = (w.s.addTrstat r.ctx (rayCluster id) w.flags).rayEnds id { w.ray with walk := some (rest, w.nodes) } := by
  obtain ⟨ray, launch, traverses, sound⟩ := h
  have walks : ¬ (r.ended || r.untested) = true := by simp [going, tested]
  unfold Ray.visits at ends
  unfold evRayTraverse
  -- The walk is named, so that no step of the proof evaluates it.
  generalize Walk.run = walk at ends ⊢
  simp only [ray, launch, traverses, List.contains_eq_mem, sound, if_neg walks, ends, decide_false, Bool.not_true, Bool.false_eq_true, if_false]

theorem evRayTraverse_of_not_traverses (ray : s.rays.find? id = some r) (stays : s.traverses r = false) : evRayTraverse id s = s := by
  cases launch : s.launches.find? r.lid with
  | none => simp only [evRayTraverse, ray, launch]
  | some l => simp only [evRayTraverse, ray, launch, stays, Bool.not_false, if_true]

end

/-! ### Bins (11 R340) -/

theorem evBinAgeFlush_of_old {s : State} {bin : Nat} {b : Bin} {l : Launch} (hb : s.bins.find? bin = some b) (hl : s.launches.find? b.lid = some l)
    (old : l.record.flush < s.cycle - b.opened) : evBinAgeFlush bin s = s.formWave bin := by
  simp [evBinAgeFlush, hb, hl, old]

theorem evBinAgeFlush_of_closed {s : State} {bin : Nat} (closed : s.bins.find? bin = none) : evBinAgeFlush bin s = s := by
  simp only [evBinAgeFlush, closed]

/-! ### Refill from the spill rings (11 R324, R325) -/

section
variable {s : State} {cl ctx : Nat} {c : Ctx}

theorem evRayRefill_of_no_room (hc : s.ctxs.find? ctx = some c) (stays : c.ringUsed cl = 0 ∨ c.poolcap < s.poolUse cl ctx + 32 ∨ c.state ≠ 1) :
    evRayRefill cl ctx s = s := by
  simp only [evRayRefill, hc, if_pos stays]

/-- A context that is switched in takes entries back: its ring is not empty, and its use leaves room for 32 records below its cap. -/
structure Refills (s : State) (cl ctx : Nat) (c : Ctx) : Prop where
  found : s.ctxs.find? ctx = some c
  used : c.ringUsed cl ≠ 0
  room : s.poolUse cl ctx + 32 ≤ c.poolcap
  here : c.state = 1

theorem Refills.goes (h : Refills s cl ctx c) : ¬ (c.ringUsed cl = 0 ∨ c.poolcap < s.poolUse cl ctx + 32 ∨ c.state ≠ 1) := by
  obtain ⟨_, used, room, here⟩ := h
  simp [used, here, Nat.not_lt.2 room]

/-- The entry of a ray that has retired with its launch is passed over. -/
theorem evRayRefill_of_retired (h : Refills s cl ctx c) (retired : (c.ringHeld.find? (fun h => h.1 == cl)).bind Prod.snd = none) :
    evRayRefill cl ctx s = s.modCtx ctx (fun c => c.popRing cl) := by
  simp only [evRayRefill, h.found, if_neg h.goes, retired]

/-- The oldest entry of a ray that goes back to traversal takes the slot that R324 gives it. -/
theorem evRayRefill_of_ray {s0 s1 : State} {id : Nat} {bs : List Byte} {held : Ray} (h : Refills s cl ctx c)
    (oldest : (c.ringHeld.find? (fun h => h.1 == cl)).bind Prod.snd = some held) (slot : s.fairSlot cl ctx = (s0, some id))
    (read : s0.readVirtual deviceTlb ctx (c.ringbase.toNat + 256 * (c.ringsize * cl + c.ringHead.get 0 cl % c.ringsize)) 256 (s0.prioOf held.lid) =
      (s1, .ok bs))
    (ray : (rayOfEntry ctx id bs held s1.fresh).item = false) (clean : entryClean bs = true) (traversal : ofBytes ((bs.drop 128).take 4) % 2 = 0) :
    evRayRefill cl ctx s = (s1.tick1.addRay id (rayOfEntry ctx id bs held s1.fresh)).modCtx ctx (fun c => c.popRing cl) := by
  have binless : ¬ ofBytes ((bs.drop 128).take 4) % 2 = 1 := by omega
  rw [prioOf_of_launches (fairSlot_launches slot)] at read
  simp only [evRayRefill, h.found, if_neg h.goes, oldest, slot, read, clean, ray, if_neg binless, Bool.not_true, Bool.false_eq_true, if_false]

theorem fairSlot_of_guaranteed (hc : s.ctxs.find? ctx = some c) (below : s.poolUse cl ctx < c.minNow) (free : 0 < s.poolFree cl) :
    s.fairSlot cl ctx = (s, some (s.freeSlot cl)) := by
  simp only [State.fairSlot, hc, if_pos below, if_pos free]

/-- Past its guarantee a context has a slot exactly while it is below its cap and the pool holds more than other guarantees lack. -/
theorem fairSlot_of_past_guarantee (hc : s.ctxs.find? ctx = some c) (past : c.minNow ≤ s.poolUse cl ctx) :
    s.fairSlot cl ctx =
      (s, if s.poolUse cl ctx < c.poolcap ∧ s.poolShort cl ctx < s.poolFree cl then some (s.freeSlot cl) else none) := by
  simp only [State.fairSlot, hc, if_neg (Nat.not_lt.2 past)]

end

/-- Settles O43: each event by its equation in the case at hand; the priority of a refill's read is the same after the pool has made room. -/
theorem raysTravel : Obligations.RaysTravel := by
  unfold Obligations.RaysTravel
  intro s
  refine ⟨fun id r l hr hl ray place sound ends => event_of_eq (evRayTraverse_of_ended ⟨hr, hl, traverses_eq_true_iff.2 ⟨ray, place⟩, sound⟩ ends),
    fun id r l w rest hr hl ray place sound going tested ends =>
      event_of_eq (evRayTraverse_of_over ⟨hr, hl, traverses_eq_true_iff.2 ⟨ray, place⟩, sound⟩ going tested ends),
    fun id r h hit => ?_, fun id r miss => ?_, fun id r hr idle away => event_of_eq (evRayTraverse_of_not_traverses hr ?_),
    fun bin b l hb hl old => event_of_eq (evBinAgeFlush_of_old hb hl old), fun bin closed => event_of_eq (evBinAgeFlush_of_closed closed),
    fun cl ctx c hc stays => event_of_eq (evRayRefill_of_no_room hc stays),
    fun cl ctx c hc used room here retired => event_of_eq (evRayRefill_of_retired ⟨hc, used, room, here⟩ retired),
    fun cl ctx c s0 id s1 bs held hc used room here oldest slot read ray clean traversal =>
      event_of_eq (evRayRefill_of_ray ⟨hc, used, room, here⟩ oldest slot read ray clean traversal),
    fun cl ctx c hc => ⟨fairSlot_of_guaranteed hc, fun past below spare => ?_, fun past full => ?_⟩⟩
  · simp only [State.rayEnds, hit]
  · simp only [State.rayEnds, miss]
  · rw [← Bool.not_eq_true, traverses_eq_true_iff]
    rintro ⟨_, on | ⟨queued, here⟩⟩
    · exact idle on
    · exact away.elim (· queued) (by simp [here])
  · rw [fairSlot_of_past_guarantee hc past, if_pos ⟨below, spare⟩]
  · rw [fairSlot_of_past_guarantee hc past, if_neg (by omega)]

end Sys2Proof.Machine

/-! The Chain Contraction Engine: the steps of a program as they begin, and the tiles that MAC_RUN computes (12 R350, R352, R354, R356, R359,
R360, R362, R363). -/

namespace Sys2Proof.Machine

/-! ### The engine's registers (12 R345) -/

/-- The registers of a known context's engine after a change are those it had, changed. -/
theorem cceOf_modCce {s : State} {ctx : Nat} {k : Ctx} (cl : Nat) (f : Cce → Cce) (known : s.ctxs.find? ctx = some k) :
    (s.modCce ctx cl f).cceOf ctx cl = f (s.cceOf ctx cl) := by
  simp only [State.cceOf, State.modCce, State.modCtx_ctxs, SMap.find?_modify, known, if_true, Option.map_some, Option.getD_some, SMap.get_put]

theorem find?_ctxs_modCce {s : State} {ctx : Nat} {k : Ctx} (cl : Nat) (f : Cce → Cce) (known : s.ctxs.find? ctx = some k) :
    ∃ k', (s.modCce ctx cl f).ctxs.find? ctx = some k' := by
  simp only [State.modCce, State.modCtx_ctxs, SMap.find?_modify, known, if_true, Option.map_some]
  exact ⟨_, rfl⟩

/-- Where no step is under way, the engine holds none or one that has stopped. -/
theorem Cce.stopped_of_not_busy {c : Cce} {j : Job} (idle : c.busy = false) (hj : c.job = some j) : j.stopped = true := by
  simpa only [Cce.busy, hj, Bool.not_eq_eq_eq_not, Bool.not_false] using idle

/-! ### Committing a tile (12 R359, R363) -/

/-- The tile after one is the next in its row, or the first of the next row. -/
theorem Cce.nextTile_place (c : Cce) (j : Job) : ((c.nextTile j).tilei, (c.nextTile j).tilej) =
    if c.tilej + 1 < (j.cols + 127) / 128 then (c.tilei, c.tilej + 1) else (c.tilei + 1, 0) := by
  unfold Cce.nextTile
  split <;> rfl

@[simp] theorem Cce.nextTile_stat (c : Cce) (j : Job) : (c.nextTile j).stat = c.stat := by
  unfold Cce.nextTile
  split <;> rfl

/-- The engine's registers after a tile is committed: the flags of its elements, its elements in Accumulator Memory, and the next tile. -/
theorem cceOf_commitTile {s : State} {ctx cl : Nat} {k : Ctx} {j : Job} (vals : List (Nat × Word × Flags))
    (known : s.ctxs.find? ctx = some k) (hj : (s.cceOf ctx cl).job = some j) :
    let j1 := { j with acc := vals.foldl (fun m v => SMap.put m v.1 v.2.1) j.acc }
    let flags : Flags := vals.foldl (fun f v => f ||| v.2.2) 0
    (s.commitTile ctx cl vals).cceOf ctx cl =
      { ({ s.cceOf ctx cl with stat := (s.cceOf ctx cl).stat ||| flags.setWidth 32 } : Cce).nextTile j1 with job := some j1 } := by
  intro j1 flags
  obtain ⟨k', known'⟩ := find?_ctxs_modCce cl (fun c => { c with stat := c.stat ||| flags.setWidth 32 }) known
  unfold State.commitTile State.raiseCce
  rw [cceOf_modCce cl _ known', cceOf_modCce cl _ known]
  simp only [hj]
  rfl

/-! ### MAC_RUN (12 R359, R360, R362) -/

section
variable {s : State} {ctx cl qi mism tile : Nat} {e : QEntry} {j : Job}

/-- One run of the MAC tiles commits a tile; with the last one the step is complete. -/
theorem runTiles_one_of_ok {s1 : State} (hj : (s.cceOf ctx cl).job = some j) (going : j.stopped = false)
    (more : (s.cceOf ctx cl).allDone j = false) (tiles : s.noTiles cl = false)
    (computed : s.tileOnce ctx qi cl e (s.cceOf ctx cl) j = (s1, .ok ())) :
    s.runTiles 1 ctx qi cl e = match (s1.cceOf ctx cl).job with
      | none => s1
      | some j1 => if (s1.cceOf ctx cl).allDone j1 then s1.finishJob ctx qi cl e j1 else s1 := by
  simp only [State.runTiles, hj, going, more, tiles, computed, Bool.false_eq_true, if_false] <;> rfl

theorem runTiles_one_of_error {s1 : State} {x : Stop} (hj : (s.cceOf ctx cl).job = some j) (going : j.stopped = false)
    (more : (s.cceOf ctx cl).allDone j = false) (tiles : s.noTiles cl = false)
    (stops : s.tileOnce ctx qi cl e (s.cceOf ctx cl) j = (s1, .error x)) : s.runTiles 1 ctx qi cl e = s1.cceStop ctx qi cl x := by
  simp only [State.runTiles, hj, going, more, tiles, stops, Bool.false_eq_true, if_false]

/-- A MAC tile in service runs on a step of a program under way, or is retired where its checksums disagree twice. -/
theorem evMacRun_of_step (command : s.cceCommand ctx cl = some (qi, e)) (program : e.sub ≠ 17) (hj : (s.cceOf ctx cl).job = some j)
    (going : j.stopped = false) (mac : macStep (stepOf j.bytes).code = true) (sound : s.engineSpoiled ctx cl = false)
    (tiles : s.noTiles cl = false) (tile_exists : tile < 24) (in_service : (s.engineState (72 + cl)).retiredTiles.getLsbD tile = false) :
    evMacRun ctx cl mism tile s =
      if 2 ≤ mism then
        (s.setEngine (72 + cl) { s.engineState (72 + cl) with
          retiredTiles := (s.engineState (72 + cl)).retiredTiles ||| BitVec.ofNat 32 (2 ^ tile) }).cceFault ctx qi cl .computeCheck 0
      else s.runTiles 1 ctx qi cl e := by
  simp only [evMacRun, command, program, hj, going, mac, sound, tiles, in_service, Nat.not_le.2 tile_exists, false_and, and_false, or_self,
    Bool.false_eq_true, Bool.true_eq_false, if_false]

theorem evMacRun_of_no_command (idle : s.cceCommand ctx cl = none) : evMacRun ctx cl mism tile s = s := by
  simp only [evMacRun, idle]

end

/-- Settles O34: the run of one tile by what computing the tile gives, and what committing it leaves in the engine's registers. -/
theorem macRunComputesATile : Obligations.MacRunComputesATile := by
  unfold Obligations.MacRunComputesATile
  refine fun s ctx cl qi mism tile => ⟨fun e j command program hj going mac sound tiles tile_exists in_service more => ?_,
    fun idle => event_of_eq (evMacRun_of_no_command idle), fun c vals j known hj => ?_⟩
  · have run : evMacRun ctx cl mism tile s = _ := evMacRun_of_step command program hj going mac sound tiles tile_exists in_service
    refine ⟨fun s1 agree computed => event_of_eq (run.trans ?_), fun s1 x agree stops => event_of_eq (run.trans ?_),
      fun disagree => event_of_eq (run.trans (if_pos disagree))⟩
    · rw [if_neg (Nat.not_le.2 agree)]
      exact runTiles_one_of_ok hj going more tiles computed
    · rw [if_neg (Nat.not_le.2 agree)]
      exact runTiles_one_of_error hj going more tiles stops
  · rw [cceOf_commitTile vals known hj]
    exact ⟨Cce.nextTile_stat _ _, Cce.nextTile_place _ _, rfl⟩

/-! ### The steps of a program (12 R350, R352, R354) -/

section
variable {s s1 : State} {ctx cl code qi : Nat} {e : QEntry} {bs : List Byte}

/-- A step that is due is performed by its code. -/
theorem stepEvent_of_due (due : s.StepDue ctx cl code qi e bs s1) :
    s.stepEvent ctx cl code =
      if code = 9 then s1.splitBegin ctx qi cl (stepOf bs)
      else if code = 10 then s1.splitNext ctx qi cl
      else if code = 15 then (s1.modCce ctx cl (fun c => { c with tilei := 0, tilej := 0 })).setFinished ctx qi
      else s1.beginStep ctx qi cl (s.cceOf ctx cl) e (stepOf bs) bs := by
  obtain ⟨command, fork, begun, sound, idle, more, read, formed, hcode⟩ := due
  cases hj : (s.cceOf ctx cl).job with
  | none =>
    simp only [State.stepEvent, command, fork, begun, sound, hj, Nat.not_le.2 more, read, formed, hcode, ne_eq, not_true, or_self,
      Bool.not_true, Bool.false_eq_true, if_false]
  | some j =>
    simp only [State.stepEvent, command, fork, begun, sound, hj, Cce.stopped_of_not_busy idle hj, Nat.not_le.2 more, read, formed, hcode,
      ne_eq, not_true, or_self, Bool.not_true, Bool.false_eq_true, if_false, if_true]

/-- A step whose plan succeeds and fits is under way with the plan's shape; one without MAC tiles goes on at once. -/
theorem beginStep_of_fits {s2 : State} {c : Cce} {st : PStep} {p : Plan} (planned : planStep s ctx e c st = (s2, .ok p))
    (fits : ∀ n, p.size = some n → c.overflows e.bfmt n (st.code == 11) = false) :
    let t := s2.modCce ctx cl (fun c => c.beginJob (bs ++ p.desc) p.result p.rows p.cols)
    s.beginStep ctx qi cl c e st bs =
      if macStep st.code then
        (match (t.cceOf ctx cl).job with
          | some j => if (t.cceOf ctx cl).allDone j then t.finishJob ctx qi cl e j else t
          | none => t)
      else t.runTiles (p.rows * p.cols + 1) ctx qi cl e := by
  intro t
  unfold State.beginStep
  cases size : p.size with
  | none => simp only [planned, size, Bool.false_eq_true, if_false] <;> rfl
  | some n => simp only [planned, size, fits n size, Bool.false_eq_true, if_false] <;> rfl

/-- The event of a step code with tiles begins its step. -/
theorem beginsStep_of_exec {i : Instr} (event_of : exec i = event (fun s => s.stepEvent ctx cl code))
    (tiled : code ≠ 9 ∧ code ≠ 10 ∧ code ≠ 15) : BeginsStep i ctx cl code := by
  intro s qi e bs s1 s2 p due planned fits t
  obtain ⟨split, endSplit, endProg⟩ := tiled
  rw [event_of]
  refine event_of_eq ((stepEvent_of_due due).trans ?_)
  rw [if_neg split, if_neg endSplit, if_neg endProg, ← due.code]
  exact beginStep_of_fits planned (due.code ▸ fits)

end

/-! ### Parts of the batch (12 R356) -/

section
variable {s : State} {ctx qi cl : Nat}

/-- A SPLIT outside another keeps the boundary as the parent and takes the rows of part 0 of it. -/
theorem splitBegin_of_outside {st : PStep} (outside : (s.cceOf ctx cl).splitStep = none) (low : 1 ≤ st.n) (high : st.n ≤ 65536) :
    s.splitBegin ctx qi cl st = s.modCce ctx cl (fun c => { c with
      part := 0, splitStep := some c.step, partSize := st.n, step := c.step + 1, tilei := 0, tilej := 0,
      parent := if c.bnd.kind = .none then none else some c.bnd,
      bnd := if c.bnd.kind = .none then Boundary.absent else c.bnd.slice 0 (min st.n c.batchn) }) := by
  have allowed : ¬ ((s.cceOf ctx cl).splitStep.isSome ∨ st.n = 0 ∨ 65536 < st.n) := by
    rw [outside]
    simp only [Option.isSome_none, Bool.false_eq_true, false_or]
    omega
  unfold State.splitBegin
  rw [if_neg allowed]
  refine congrArg (s.modCce ctx cl) (funext fun c => ?_)
  by_cases absent : c.bnd.kind = .none
  · simp only [if_pos absent, Option.map_none, Option.getD_none]
  · simp only [if_neg absent, Option.map_some, Option.getD_some]

/-- An ENDSPLIT of a SPLIT at step k goes back to the step after it for the next part, or on after the last. -/
theorem splitNext_of_inside {k : Nat} (inside : (s.cceOf ctx cl).splitStep = some k) :
    s.splitNext ctx qi cl = s.modCce ctx cl (fun c =>
      let next : Cce := { c with part := c.part + 1, step := k + 1, tilei := 0, tilej := 0 }
      if (c.part + 1) * c.partSize < c.batchn then
        { next with bnd := (c.parent.map (fun p => p.slice ((c.part + 1) * c.partSize) next.extent.2)).getD Boundary.absent }
      else { c with part := 0, splitStep := none, partSize := 0, step := c.step + 1, tilei := 0, tilej := 0, parent := none,
                    bnd := Boundary.absent }) := by
  unfold State.splitNext
  simp only [inside]

end

/-- Settles O33: the event of each step code by `stepEvent_of_due`. -/
theorem programStepsBegin : Obligations.ProgramStepsBegin := by
  unfold Obligations.ProgramStepsBegin
  refine fun ctx cl => ⟨beginsStep_of_exec (exec_loadb ctx cl) (by decide),
    beginsStep_of_exec (exec_contract ctx cl) (by decide),
    beginsStep_of_exec (exec_dense ctx cl) (by decide),
    beginsStep_of_exec (exec_conv3 ctx cl) (by decide),
    beginsStep_of_exec (exec_ups2 ctx cl) (by decide),
    beginsStep_of_exec (exec_act ctx cl) (by decide),
    beginsStep_of_exec (exec_perm ctx cl) (by decide),
    beginsStep_of_exec (exec_storeb ctx cl) (by decide),
    beginsStep_of_exec (exec_env ctx cl) (by decide),
    fun s qi e bs s1 due outside low high => event_of_eq ((stepEvent_of_due due).trans (splitBegin_of_outside outside low high)),
    fun s qi e bs s1 k due inside => event_of_eq ((stepEvent_of_due due).trans (splitNext_of_inside inside)),
    fun s qi e bs s1 due => event_of_eq (stepEvent_of_due due)⟩

end Sys2Proof.Machine

/-! Taking an exception: the faulting wave, its siblings, its group and its context (01 R48; 13 R365, R368, R370 to R373). -/

namespace Sys2Proof.Machine

/-! ### The wave that faults (01 R48; 13 R371) -/

/-- Discarding loads changes registers, the epoch and the loads only. -/
theorem discardLoads_eq (w : Wave) : ∃ rs e, w.discardLoads.1 = { w with
    ld := dropDone (w.ld.filter (fun (o : Op) => !(o.kind == OpKind.load && !o.done))), regs := rs, epoch := e } := by
  unfold Wave.discardLoads Wave.dropList
  dsimp only
  split
  · exact ⟨_, _, rfl⟩
  · exact ⟨_, _, rfl⟩

theorem mem_of_mem_dropDone {o : Op} {os : List Op} (h : o ∈ dropDone os) : o ∈ os := by
  induction os with
  | nil => exact h
  | cons p os ih =>
    unfold dropDone at h
    split at h
    · exact List.mem_cons_of_mem _ (ih h)
    · exact h

/-- What is left on LD was there, and no load among it is unfinished. -/
theorem mem_discardLoads_ld {w : Wave} {o : Op} (h : o ∈ w.discardLoads.1.ld) : o ∈ w.ld ∧ (o.kind = .load → o.done = true) := by
  obtain ⟨rs, e, eq⟩ := discardLoads_eq w
  rw [eq] at h
  obtain ⟨was, kept⟩ := List.mem_filter.1 (mem_of_mem_dropDone h)
  exact ⟨was, fun load => by simpa [load] using kept⟩

/-- Registers that no operation on LD was to write are as before (02 R52). -/
theorem discardLoads_find? {w : Wave} {i : Nat} (h : ∀ o ∈ w.ld, i ∉ o.busy) : w.discardLoads.1.regs.find? i = w.regs.find? i := by
  refine dropList_find? _ fun lost => ?_
  obtain ⟨o, ho, hi⟩ := List.mem_flatMap.1 lost
  exact h o (List.mem_filter.1 ho).1 hi

/-- The wave that has raised record `seq` at an issue. -/
def Wave.faultedAt (w : Wave) (seq : Nat) (iss : Issue) : Wave :=
  { w.discardLoads.1 with
    run := .faulted seq iss (w.discardLoads.2 &&& ~~~iss.batch), wait := w.discardLoads.1.staysParked 0, asked := [] }

/-- Beside its halt, its wait and the answers it waits for, a wave that faults changes only in what its loads were to write. -/
theorem faultedAt_eq (w : Wave) (seq : Nat) (iss : Issue) : ∃ others rs e, w.faultedAt seq iss = { w with
    ld := w.discardLoads.1.ld, regs := rs, epoch := e, run := .faulted seq iss others, wait := w.staysParked 0, asked := [] } := by
  obtain ⟨rs, e, eq⟩ := discardLoads_eq w
  refine ⟨w.discardLoads.2 &&& ~~~iss.batch, rs, e, ?_⟩
  unfold Wave.faultedAt
  rw [eq]
  rfl

/-! ### The waves and the record of a halt (13 R370, R371, R373) -/

theorem halt_faultedAt (w : Wave) (seq : Nat) (iss : Issue) : (w.faultedAt seq iss).halt = w.faultedAt seq iss := rfl

theorem stopCheck_of_eligible {w : Wave} {left : Nat} (skids : w.run = .skid left) (more : left ≠ 0) (free : w.wait = none)
    (eligible : w.batch.isSome = true) : w.stopCheck = w := by
  have batch : w.batch.isNone = false := Option.isNone_eq_false_iff.2 eligible
  simp [Wave.stopCheck, skids, more, free, batch]

/-- A sibling with something to issue may issue four more instructions (R370). -/
theorem halt_of_issuing {w : Wave} (running : w.run = .running) (free : w.wait = none) (eligible : w.batch.isSome = true) :
    w.halt = { w with run := .skid 4, skid := 0 } := by
  simp only [Wave.halt, running]
  exact stopCheck_of_eligible rfl (by decide) free eligible

theorem find?_waves_haltGroup (s : State) (g k : Nat) :
    (s.haltGroup g).waves.find? k = (s.waves.find? k).map (fun w => if w.group = g then w.halt else w) :=
  SMap_find?_map s.waves (fun w => if w.group = g then w.halt else w) k

theorem group_modGroup (s : State) (g : Nat) (f : Group → Group) : (s.modGroup g f).group g = (s.group g).map f :=
  (SMap.find?_modify s.groups g g f).trans (if_pos rfl)

theorem group_haltGroup (s : State) (g : Nat) : (s.haltGroup g).group g =
    (s.group g).map (fun x => if x.halted then x else { x with halted := true, recorded := false, skidGone := 0 }) :=
  group_modGroup _ g _

/-- While a wave of the group still runs, or has loads or tile instructions on the way, its halt is not complete (R373). -/
theorem completeHalt_of_not_quiet {s : State} {g k : Nat} {w : Wave} (hw : s.waves.find? k = some w) (hg : w.group = g) (runs : w.isQuiet = false) :
    s.completeHalt g = s := by
  have waits : s.waves.all (fun p => p.2.group != g || p.2.isQuiet) = false :=
    List.all_eq_false.2 ⟨(k, w), SMap_mem_of_find? hw, by simp [hg, runs]⟩
  unfold State.completeHalt
  split
  · rfl
  · simp only [waits, Bool.and_false, Bool.false_eq_true, if_false]

/-! ### Numbering and taking it (13 R365, R368) -/

/-- A context whose next record has been numbered, by a source of a place in a cycle (R365). -/
def Ctx.numbered (c : Ctx) (cycle place : Nat) : Ctx := { c with trapseq := c.trapseq + 1, raised := some (cycle, place) }

theorem nextSeq_of_switched_in {s : State} {ctx : Nat} {c : Ctx} (place : Nat) (hc : s.ctxs.find? ctx = some c) (inside : c.state ≠ 0) :
    s.nextSeq ctx place = (s.modCtx ctx (fun c => c.numbered s.cycle place), c.trapseq.toNat) := by
  simp only [State.nextSeq, hc, if_neg inside]
  rfl

/-- The record of a wave's exception that halts its group (R368). -/
def Wave.haltRecord (w : Wave) (seq : Nat) (iss : Issue) (c : Cause) (faddr : Addr) (lane : Nat) (index : Word) : TrapRec :=
  { ctx := w.ctx, seq := seq, cause := c, source := 0, groupHalt := true, instr := iss.word, pc := iss.pc,
    region := (w.fib (lowest iss.batch)).region, faddr := faddr, lid := BitVec.ofNat 32 w.lid, group := index,
    who := packWave iss.wave lane w.wid, progress := [] }

/-- What a wave's exception leaves to be answered (R374). -/
def Wave.pendingAt (w : Wave) (seq : Nat) (iss : Issue) (c : Cause) : Pending :=
  { seq := seq, cause := c, source := 0, wave := iss.wave, uid := w.uid, group := w.group, lid := w.lid,
    queue := 0, cmd := 0, ray := 0, answer := none }

/-- A group takes the record that halts it. -/
def Group.raise (x : Group) (r : TrapRec) : Group :=
  { x with records := x.records ++ [r], unanswered := x.unanswered ++ [r.seq], recorded := false, haltSeq := some r.seq }

/-- An exception before the halt has reached the wave's group: the wave, the group's record, what is to be answered. -/
def State.raiseFirst (s : State) (iss : Issue) (w : Wave) (seq : Nat) (r : TrapRec) : State :=
  (((s.modCtx w.ctx (fun c => c.numbered s.cycle iss.wave)).setWave iss.wave (w.faultedAt seq iss)).modGroup w.group (fun x => x.raise r)).addPending
    w.ctx (w.pendingAt seq iss r.cause)

section
variable {s : State} {iss : Issue} {w : Wave} {x : Group} {cx : Ctx} (c : Cause) (faddr : Addr) (lane : Nat)

/-- The first exception of a group halts it. -/
theorem takeTrap_of_first (hw : s.waves.find? iss.wave = some w) (hx : s.group w.group = some x) (first : x.halted = false)
    (hc : s.ctxs.find? w.ctx = some cx) (inside : cx.state ≠ 0) :
    s.takeTrap iss c faddr lane =
      ((s.raiseFirst iss w cx.trapseq.toNat (w.haltRecord cx.trapseq.toNat iss c faddr lane x.index)).haltGroup w.group).completeHalt w.group := by
  have group (f : Ctx → Ctx) : (s.modCtx w.ctx f).group w.group = some x := hx
  simp only [State.takeTrap, hw, nextSeq_of_switched_in iss.wave hc inside, group, first]
  rfl

end

/-- Settles O53: the group's halt is not complete, since the sibling that may issue four more instructions is not quiet; each part of the state is
then read off from what the exception raised. -/
theorem trapsHaltTheGroup : Obligations.TrapsHaltTheGroup := by
  unfold Obligations.TrapsHaltTheGroup
  intro s iss c faddr lane w x cx k2 w2 hw hx first hc inside other hw2 same running free eligible
  dsimp only
  have taken := takeTrap_of_first c faddr lane hw hx first hc inside
  generalize hr : w.haltRecord cx.trapseq.toNat iss c faddr lane x.index = r at taken
  generalize hu : s.raiseFirst iss w cx.trapseq.toNat r = u at taken
  have waves : u.waves = s.waves.put iss.wave (w.faultedAt cx.trapseq.toNat iss) := by rw [← hu]; rfl
  have group : u.group w.group = some (x.raise r) := by
    have groups : u.groups = s.groups.modify w.group (fun x => x.raise r) := by rw [← hu]; rfl
    rw [State.group, groups, SMap.find?_modify, if_pos rfl]
    exact congrArg _ hx
  have sibling : (u.haltGroup w.group).waves.find? k2 = some { w2 with run := .skid 4, skid := 0 } := by
    rw [find?_waves_haltGroup, waves, SMap.find?_put_ne _ _ other, hw2, Option.map_some, if_pos same, halt_of_issuing running free eligible]
  rw [completeHalt_of_not_quiet sibling same rfl] at taken
  obtain ⟨others, rs, e, faulted⟩ := faultedAt_eq w cx.trapseq.toNat iss
  have itsGroup : (w.faultedAt cx.trapseq.toNat iss).group = w.group := by rw [faulted]
  rw [taken]
  refine ⟨w.faultedAt cx.trapseq.toNat iss, { x.raise r with halted := true, recorded := false, skidGone := 0 },
    { cx.numbered s.cycle iss.wave with pending := cx.pending ++ [w.pendingAt cx.trapseq.toNat iss r.cause] }, ?_, ?_, ?_, ⟨others, by rw [faulted]⟩,
    by rw [faulted], fun l => by rw [faulted]; rfl, by rw [faulted], by rw [faulted], by rw [faulted], by rw [faulted], by rw [faulted], by rw [faulted],
    by rw [faulted], fun o ho => mem_discardLoads_ld ho, fun i hi => discardLoads_find? hi, rfl, rfl, by rw [← hr]; rfl, by rw [← hr]; rfl,
    by rw [← hr]; rfl, rfl, ⟨_, rfl, rfl, by rw [← hr]; rfl, rfl, rfl, rfl, rfl⟩, sibling, fun k3 w3 hw3 apart => ?_, fun key => ?_, ?_⟩
  · rw [find?_waves_haltGroup, waves, SMap.find?_put_self, Option.map_some, if_pos itsGroup, halt_faultedAt]
  · have halted : (x.raise r).halted = false := first
    rw [group_haltGroup, group, Option.map_some, if_neg (by simp [halted])]
  · have ctxs : (u.haltGroup w.group).ctxs = u.ctxs := rfl
    rw [ctxs, ← hu]
    simp only [State.raiseFirst, State.addPending, State.modCtx_ctxs, State.modGroup_ctxs, State.setWave_ctxs, SMap.find?_modify, hc, if_true,
      Option.map_some]
    rfl
  · have away : k3 ≠ iss.wave := by
      rintro rfl
      exact apart (congrArg Wave.group (Option.some.inj (hw3.symm.trans hw)))
    rw [find?_waves_haltGroup, waves, SMap.find?_put_ne _ _ away, hw3, Option.map_some, if_neg apart]
  · rw [← hu]; rfl
  · rw [← hu]; rfl

end Sys2Proof.Machine

/-! The end of a halt, answers to trap records, what returns from an exception, and the flags that a write of ones clears (01 R40, R46, R48;
12 R363; 13 R365, R367, R371, R373, R374). -/

namespace Sys2Proof.Machine

/-! ### Answers (13 R367, R374) -/

section
variable {s : State} {ctx seq code : Nat}

theorem isIn_of_state {c : Ctx} (hc : s.ctxs.find? ctx = some c) (inside : c.state = 1) : s.isIn ctx = true := by
  simp [State.isIn, hc, inside]

theorem answer_of_unmatched (unmatched : s.answered ctx seq code = none) : s.answer ctx seq code = s.badReply ctx := by
  simp only [State.answer, unmatched]

/-- While its context is switched in, an answer that names a record is noted and takes effect at once. -/
theorem answer_of_matched {p : Pending} (matched : s.answered ctx seq code = some p) (inside : s.isIn ctx = true) :
    s.answer ctx seq code = (s.noteAnswer ctx seq code).applyAnswer ctx p code := by
  have state : (s.ctxs.find? ctx).map Ctx.state = some 1 := eq_of_beq inside
  simp only [State.answer, matched, state, if_true]
  rfl

end

/-! ### TQERR (13 R367) -/

/-- TQERR after a write of ones to its flags. -/
def clearedTqerr (old value : Word) : Word :=
  let v1 := old &&& ~~~(value &&& 0xE0000000)
  let v2 := if v1.getLsbD 31 then v1 else v1 &&& 0xFFFFF000
  if v2.getLsbD 30 then v2 else v2 &&& 0xF000FFFF

theorem evTqerrClear_eq (v : Word) (s : State) : evTqerrClear v s = { s with regs := { s.regs with tqerr := clearedTqerr s.regs.tqerr v } } := rfl

theorem getLsbD_flagMask : ∀ b < 32, (0xE0000000 : Word).getLsbD b = decide (29 ≤ b) := by decide
theorem getLsbD_qctxMask : ∀ b < 32, (0xFFFFF000 : Word).getLsbD b = decide (12 ≤ b) := by decide
theorem getLsbD_rctxMask : ∀ b < 32, (0xF000FFFF : Word).getLsbD b = decide (b < 16 ∨ 28 ≤ b) := by decide

theorem getLsbD_maskUnless (c : Bool) (x m : Word) (b : Nat) : (if c then x else x &&& m).getLsbD b = (x.getLsbD b && (c || m.getLsbD b)) := by
  cases c <;> simp

/-- A bit of TQERR stays unless it is a flag that is cleared, or of QCTX or RCTX while the flag above it is clear. -/
theorem getLsbD_clearedTqerr (old v : Word) {b : Nat} (hb : b < 32) : (clearedTqerr old v).getLsbD b =
    let flag (n : Nat) : Bool := old.getLsbD n && !v.getLsbD n
    (old.getLsbD b && !(v.getLsbD b && decide (29 ≤ b)) && (flag 31 || decide (12 ≤ b)) && (flag 30 || decide (b < 16 ∨ 28 ≤ b))) := by
  unfold clearedTqerr
  dsimp only
  simp only [getLsbD_maskUnless, BitVec.getLsbD_and, BitVec.getLsbD_not, getLsbD_flagMask b hb, getLsbD_qctxMask b hb, getLsbD_rctxMask b hb,
    getLsbD_flagMask 31 (by decide), getLsbD_flagMask 30 (by decide), getLsbD_qctxMask 30 (by decide), hb]
  simp

/-! ### The end of a halt (13 R365, R371, R373) -/

theorem stopCheck_of_isStopped {w : Wave} (h : w.isStopped = true) : w.stopCheck = w := by
  unfold Wave.isStopped at h
  unfold Wave.stopCheck
  split at h
  case h_1 | h_2 => cases h
  case h_3 run | h_4 run => simp only [run]

/-- Once every wave of a halted group is quiet its group record is written, then the records of the halt. -/
theorem completeHalt_of_quiet {s : State} {g : Nat} {x : Group} (hx : s.group g = some x) (halted : x.halted = true) (unrecorded : x.recorded = false)
    (quiet : ∀ p ∈ s.waves, p.2.group = g → p.2.isQuiet = true) :
    s.completeHalt g = x.records.foldl (fun t r => t.putRecord r (s.skidMax g))
      ((s.writeGroupRecord x).modGroup g (fun x => { x with recorded := true, records := [] })) := by
  have all : s.waves.all (fun p => p.2.group != g || p.2.isQuiet) = true := by
    refine List.all_eq_true.2 fun p hp => ?_
    by_cases same : p.2.group = g
    · simp [quiet p hp same]
    · simp [same]
  simp only [State.completeHalt, hx, halted, unrecorded, all, Bool.not_false, Bool.and_self, if_true]

/-- Waves that are quiet have stopped already. -/
theorem evGroupHaltComplete_of_quiet {s : State} {g : Nat} (quiet : ∀ p ∈ s.waves, p.2.group = g → p.2.isQuiet = true) :
    evGroupHaltComplete g s = s.completeHalt g := by
  have stopped : s.waves.map (fun (p : Nat × Wave) => (p.1, if p.2.group = g then p.2.stopCheck else p.2)) = s.waves := by
    refine (List.map_congr_left fun p hp => ?_).trans (List.map_id' s.waves)
    by_cases same : p.2.group = g
    · have stops := quiet p hp same
      simp only [Wave.isQuiet, Bool.and_eq_true] at stops
      rw [if_pos same, stopCheck_of_isStopped stops.1.1]
    · rw [if_neg same]
  unfold evGroupHaltComplete
  rw [stopped]

/-! ### Going on (01 R40, R48; 07 R226; 13 R371, R374) -/

/-- Changing the live fibres of a mask. -/
theorem mapFibs_liveMask_fib (w : Wave) (m : Word) (g : Nat → Fibre → Fibre) {l : Nat} (hl : l < 32) :
    (w.mapFibs (m &&& w.liveMask) g).fib l = if m.getLsbD l = true ∧ (w.fib l).live = true then g l (w.fib l) else w.fib l := by
  rw [mapFibs_fib _ _ _ _ hl, BitVec.getLsbD_and, liveMask_getLsbD w hl]
  simp only [Bool.and_eq_true]

/-- The fibres that return go to their region entries; the others are as before. -/
theorem resumeTrap_fib (w : Wave) (iss : Issue) (others : Word) {l : Nat} (hl : l < 32) : (w.resumeTrap iss others).fib l =
    if (iss.batch ||| others).getLsbD l = true ∧ (w.fib l).live = true then
      { w.fib l with
        pc := (w.fib l).region, join := none, owed := 0, bound := if (w.fib l).fresh then .none else (w.fib l).bound, fresh := false }
    else w.fib l :=
  mapFibs_liveMask_fib w (iss.batch ||| others) _ hl

theorem clearLatch_entry (w : Wave) (k : Nat) : (w.clearLatch.entry k).count = 0 := by
  have cleared : w.clearLatch.latch.find? k = (w.latch.find? k).map (fun (e : LatchEntry) => ⟨e.lanes, 0⟩) :=
    SMap_find?_map w.latch (fun (e : LatchEntry) => (⟨e.lanes, 0⟩ : LatchEntry)) k
  unfold Wave.entry SMap.get
  rw [cleared]
  cases w.latch.find? k <;> rfl

theorem resumeTrap_entry (w : Wave) (iss : Issue) (others : Word) (k : Nat) : ((w.resumeTrap iss others).entry k).count = 0 :=
  clearLatch_entry (w.mapFibs ((iss.batch ||| others) &&& w.liveMask) _) k

theorem resumeTrap_regs (w : Wave) (iss : Issue) (others : Word) : (w.resumeTrap iss others).regs = w.regs := by
  obtain ⟨fs, h⟩ := mapFibs_eq w ((iss.batch ||| others) &&& w.liveMask) (fun _ f =>
    { f with pc := f.region, join := none, owed := 0, bound := if f.fresh then .none else f.bound, fresh := false })
  unfold Wave.resumeTrap
  dsimp only
  rw [h]
  rfl

theorem staysParked_of_none {w : Wave} (free : w.wait = none) (m : Word) : w.staysParked m = none := by
  simp only [Wave.staysParked, free]

theorem staysParked_of_bar {w : Wave} {b m : Word} (parked : w.wait = some (.bar b)) (left : b &&& ~~~m ≠ 0) :
    w.staysParked m = some (.bar (b &&& ~~~m)) := by
  simp only [Wave.staysParked, parked, if_neg left]

/-- With SKIP the live fibres of the batch are at the next instruction, every other PC is as before. -/
theorem skipTrap_fib_pc (w : Wave) (iss : Issue) {l : Nat} (hl : l < 32) :
    ((w.skipTrap iss).fib l).pc = if iss.batch.getLsbD l = true ∧ (w.fib l).live = true then iss.next else (w.fib l).pc := by
  refine (congrArg Fibre.pc (mapFibs_liveMask_fib w iss.batch _ hl)).trans ?_
  split <;> rfl

theorem skipTrap_frame (w : Wave) (iss : Issue) : (w.skipTrap iss).regs = w.regs ∧ (w.skipTrap iss).latch = w.latch := by
  obtain ⟨fs, h⟩ := mapFibs_eq w (iss.batch &&& w.liveMask) (fun _ f => { f with pc := iss.next, owed := 0 })
  unfold Wave.skipTrap
  dsimp only
  rw [h]
  exact ⟨rfl, rfl⟩

theorem wakeWave_of_faulted {s : State} {k seq : Nat} {w : Wave} {iss : Issue} {others : Word} (answers : List Pending)
    (hw : s.waves.find? k = some w) (faulted : w.run = .faulted seq iss others) :
    s.wakeWave answers k = if answers.any (fun p => p.seq == seq && p.answer == some 2) = true then s.wakeFaulted k w (w.skipTrap iss)
      else (s.releaseFresh w (iss.batch ||| others)).wakeFaulted k w (w.resumeTrap iss others) := by
  simp only [State.wakeWave, hw, faulted]

/-- A wave that neither was nor stays parked only takes its new state. -/
theorem wakeFaulted_of_unparked (s : State) (k : Nat) {w v : Wave} (free : v.wait = none) (unparked : w.wait = none ∨ w.wait = some .retry) :
    s.wakeFaulted k w v = s.setWave k v := by
  have same : s.unpark w v = s := by
    rcases unparked with h | h <;> simp only [State.unpark, free, h]
  rw [State.wakeFaulted, same]
  simp only [State.rereadMonw, free]

/-- Settles O44: answers by whether they name a record, TQERR bit by bit, the waves by the fibres of their masks. -/
theorem answersAndReturns : Obligations.AnswersAndReturns := by
  unfold Obligations.AnswersAndReturns
  refine ⟨fun s => ⟨?resume, ?skip, ?cancel, ?kill, ?unmatched, ?invalid, ?tqerr, ?status, ?halt⟩, fun w => ⟨?returned, ?resumed, ?skipped, ?woken, ?freed⟩⟩
  case resume => exact fun ctx seq p booted matched inside => controlEvent_of_booted booted (answer_of_matched matched inside)
  case skip => exact fun ctx seq p booted matched inside => controlEvent_of_booted booted (answer_of_matched matched inside)
  case cancel => exact fun ctx seq p booted matched inside => controlEvent_of_booted booted (answer_of_matched matched inside)
  case kill => exact fun ctx seq p booted matched inside => controlEvent_of_booted booted (answer_of_matched matched inside)
  case unmatched =>
    intro ctx seq code booted _ _ unmatched
    have bad := answer_of_unmatched unmatched
    refine ⟨?_, ?_, ?_, ?_⟩ <;> (rintro rfl; exact controlEvent_of_booted booted bad)
  case invalid =>
    intro v booted unmatched
    refine controlEvent_of_booted booted (if_neg ?_)
    rw [unmatched]
    exact Bool.false_ne_true
  case tqerr =>
    intro v booted
    refine ⟨_, controlEvent_of_booted booted (evTqerrClear_eq v s), fun b low high => ?_, fun b high => ?_, fun b low high => ?_⟩
    · rw [getLsbD_clearedTqerr _ _ high]
      simp [low, show 12 ≤ b by omega, show 28 ≤ b by omega]
    · rw [getLsbD_clearedTqerr _ _ (by omega), getLsbD_clearedTqerr _ _ (by decide)]
      simp [show ¬ 29 ≤ b by omega, show ¬ 12 ≤ b by omega, show b < 16 by omega]
    · rw [getLsbD_clearedTqerr _ _ (by omega), getLsbD_clearedTqerr _ _ (by decide)]
      simp [show ¬ 29 ≤ b by omega, show 12 ≤ b by omega, show ¬ b < 16 by omega, show ¬ 28 ≤ b by omega]
  case status =>
    intro ctx cl c v booted hc state
    have inside := isIn_of_state hc state
    exact ⟨controlEvent_of_booted booted (if_pos inside), controlEvent_of_booted booted (if_pos inside), controlEvent_of_booted booted (if_pos inside)⟩
  case halt =>
    intro g x c hx _ halted unrecorded quiet
    exact event_of_eq ((evGroupHaltComplete_of_quiet quiet).trans (completeHalt_of_quiet hx halted unrecorded quiet))
  case returned =>
    intro iss others l hl
    dsimp only
    rw [resumeTrap_fib w iss others hl]
    by_cases returns : (iss.batch ||| others).getLsbD l = true ∧ (w.fib l).live = true
    · rw [if_pos returns, if_pos returns]
      exact ⟨rfl, rfl, rfl, returns.2, rfl, rfl⟩
    · rw [if_neg returns, if_neg returns]
  case resumed =>
    exact fun iss others => ⟨rfl, resumeTrap_regs w iss others, resumeTrap_entry w iss others, fun free => staysParked_of_none free _,
      fun b parked left => staysParked_of_bar parked left⟩
  case skipped => exact fun iss => ⟨rfl, (skipTrap_frame w iss).1, (skipTrap_frame w iss).2, fun l hl => skipTrap_fib_pc w iss hl⟩
  case woken => exact fun s k seq iss others answers hw faulted => wakeWave_of_faulted answers hw faulted
  case freed => exact fun s k v free unparked => wakeFaulted_of_unparked s k free unparked

end Sys2Proof.Machine

/-! The operations of CTXCTL: when each begins, what it answers, and how it ends (13 R375, R376, R379, R380, R385, R386). -/

namespace Sys2Proof.Machine

/-! ### Beginning and ending an operation (13 R375) -/

section
variable {s : State} {ctx op : Nat} {f : State → State}

theorem startOp_of_busy (busy : s.regs.busy = true) : s.startOp ctx op f = s := if_pos busy

theorem startOp_of_idle (idle : s.regs.busy = false) : s.startOp ctx op f = f (s.beginOp ctx op) := if_neg (by simp [idle])

@[simp] theorem beginOp_ctxs : (s.beginOp ctx op).ctxs = s.ctxs := rfl
@[simp] theorem beginOp_launches : (s.beginOp ctx op).launches = s.launches := rfl
@[simp] theorem beginOp_ctxaddr : (s.beginOp ctx op).regs.ctxaddr = s.regs.ctxaddr := rfl
@[simp] theorem beginOp_isIn (k : Nat) : (s.beginOp ctx op).isIn k = s.isIn k := rfl
@[simp] theorem beginOp_imageOk (image : Nat) : (s.beginOp ctx op).imageOk image = s.imageOk image := rfl
@[simp] theorem beginOp_groupsOf (k : Nat) : (s.beginOp ctx op).groupsOf k = s.groupsOf k := rfl

/-- An operation that ends with a result writes it, clears busy and raises interrupt 2. -/
theorem endOp_of_outcome {n : Nat} (h : s.regs.outcome = some n) :
    s.endOp = ({ s with regs := { s.regs with busy := false, result := n, outcome := none } } : State).interrupt 2 := by
  simp only [State.endOp, h, Option.getD_some]

/-- Operation 0 ends with result 0. -/
theorem evCtxNone_of_idle (idle : s.regs.busy = false) : evCtxNone ctx s = ((s.beginOp ctx 0).setResult 0).endOp := by
  unfold evCtxNone
  rw [startOp_of_idle idle]

/-- A reserved operation ends with result 5. -/
theorem evCtxReservedOp_of_idle (idle : s.regs.busy = false) (low : 6 ≤ op) (high : op ≤ 15) :
    evCtxReservedOp ctx op s = ((s.beginOp ctx op).setResult 5).endOp := (if_pos ⟨low, high⟩).trans (startOp_of_idle idle)

theorem evCtxReservedOp_of_busy (busy : s.regs.busy = true) : evCtxReservedOp ctx op s = s := by
  unfold evCtxReservedOp
  split
  · exact startOp_of_busy busy
  · rfl

end

/-! ### SWITCH_IN (13 R375, R379) -/

/-- The other contexts that are switched in or being switched out. -/
def State.otherCtxs (s : State) (ctx : Nat) : List (Nat × Ctx) :=
  s.ctxs.filter (fun (x : Nat × Ctx) => x.1 != ctx && (x.2.state == 1 || x.2.state == 3))

/-- An allotment is not one, or meets another context's. -/
def State.allotmentsMeet (s : State) (ctx : Nat) (cces : List Cce) : Bool :=
  cces.any (fun x => !x.ok) || (s.otherCtxs ctx).any (fun x => (List.range 8).any (fun cl =>
    !(cces.getD cl Cce.fresh).apart (x.2.cce.get Cce.fresh cl)))

section
variable {s : State} {ctx image : Nat}

theorem evSwitchIn_of_idle (idle : s.regs.busy = false) : evSwitchIn ctx s = (s.beginOp ctx 1).switchIn ctx s.regs.ctxaddr.toNat := by
  unfold evSwitchIn
  rw [startOp_of_idle idle, beginOp_ctxaddr]

theorem switchIn_of_bad_image (bad : s.imageOk image = false) : s.switchIn ctx image = s.setResult 4 := if_pos (by simp [bad])

/-- The checks of a switch-in whose image can be read, in their order. -/
theorem switchIn_of_image {old c : Ctx} {new : Bool} {cces : List Cce} (ok : s.imageOk image = true) (hold : old = (s.ctxs.find? ctx).getD Ctx.fresh)
    (hnew : new = ((s.ctxs.find? ctx).isNone || old.state == 2)) (hc : c = s.readHeader image (if new then Ctx.fresh else old))
    (hcces : cces = (List.range 8).map (fun cl => s.readCce image cl new (c.cce.get Cce.fresh cl))) :
    s.switchIn ctx image =
      if (old.state = 1 ∨ old.state = 3) ∨ s.imageField image 4 4 ≠ 0 then s.setResult 5
      else if !s.headerOk ctx image c then s.setResult 1
      else if 32768 < c.poolmin + ((s.otherCtxs ctx).map (fun x => x.2.poolmin)).sum then s.setResult 2
      else if s.allotmentsMeet ctx cces then s.setResult 3
      else s.readContext ctx image new old c cces := by
  subst hcces hc hnew hold
  exact if_neg (by simp [ok])

theorem allotmentsMeet_of_bad {cces : List Cce} (bad : ∃ x ∈ cces, x.ok = false) : s.allotmentsMeet ctx cces = true := by
  obtain ⟨x, hx, none⟩ := bad
  have any : cces.any (fun x => !x.ok) = true := List.any_eq_true.2 ⟨x, hx, by simp [none]⟩
  rw [State.allotmentsMeet, any, Bool.true_or]

theorem allotmentsMeet_of_apart {cces : List Cce} (ok : cces.all Cce.ok = true) (apart : ∀ x ∈ s.ctxs, x.1 ≠ ctx → (x.2.state = 1 ∨ x.2.state = 3) →
    ∀ cl, cl < 8 → (cces.getD cl Cce.fresh).apart (x.2.cce.get Cce.fresh cl) = true) : s.allotmentsMeet ctx cces = false := by
  refine Bool.or_eq_false_iff.2 ⟨List.any_eq_false.2 fun x hx => by simp [List.all_eq_true.1 ok x hx], List.any_eq_false.2 fun x hx => ?_⟩
  obtain ⟨known, other⟩ := List.mem_filter.1 hx
  simp only [Bool.and_eq_true, Bool.or_eq_true, bne_iff_ne, beq_iff_eq] at other
  simp only [Bool.not_eq_true, List.any_eq_false, List.mem_range]
  exact fun cl hcl => by rw [apart x known other.1 other.2 cl hcl]; rfl

/-- A new context is loaded once its region table has been read. -/
theorem readContext_of_read {old c : Ctx} {cces : List Cce} {s1 : State} {bs : List Byte}
    (read : ((s.setCtx ctx { c with state := 2, csbase := old.csbase, cssize := old.cssize }).dropTlb ctx).readVirtual deviceTlb ctx c.rtbase.toNat 1024 =
      (s1, .ok bs)) : s.readContext ctx image true old c cces = (s1.loadContext ctx image true c cces (.ok bs)).setResult 0 := by
  simp only [State.readContext, if_true, read]

/-- While a line of the region table is on its way the operation goes on waiting. -/
theorem readContext_of_miss {old c : Ctx} {cces : List Cce} {s1 : State}
    (read : ((s.setCtx ctx { c with state := 2, csbase := old.csbase, cssize := old.cssize }).dropTlb ctx).readVirtual deviceTlb ctx c.rtbase.toNat 1024 =
      (s1, .error .miss)) : s.readContext ctx image true old c cces = s1 := by
  simp only [State.readContext, if_true, read]

end

/-! ### SWITCH_OUT, the kills and HALT_CONTEXT (13 R375, R376, R385, R386) -/

section
variable {s : State} {ctx : Nat} (idle : s.regs.busy = false)
include idle

/-- A switch-out halts every group of a switched-in context whose save areas and image can be written. -/
theorem evSwitchOut_of_in {c : Ctx} (hc : s.ctxs.find? ctx = some c) (inside : c.state = 1) (image : s.imageOk s.regs.ctxaddr.toNat = true)
    (save : (s.beginOp ctx 2).saveOk ctx c = true) :
    evSwitchOut ctx s =
      let t := (s.beginOp ctx 2).modCtx ctx (fun c => { c with state := 3, image := BitVec.ofNat 64 s.regs.ctxaddr.toNat })
      ((t.groupsOf ctx).foldl State.haltGroup t).setResult 0 := by
  unfold evSwitchOut
  rw [startOp_of_idle idle]
  simp only [beginOp_ctxs, beginOp_ctxaddr, beginOp_imageOk, hc, inside, image, save, ne_eq, not_true, if_false, Bool.not_true, Bool.or_self,
    Bool.false_eq_true]

theorem evSwitchOut_of_unknown (unknown : s.ctxs.find? ctx = none) : evSwitchOut ctx s = (s.beginOp ctx 2).setResult 5 := by
  unfold evSwitchOut
  rw [startOp_of_idle idle]
  simp only [beginOp_ctxs, unknown]

theorem evKillContext_of_in (inside : s.isIn ctx = true) : evKillContext ctx s = ((s.beginOp ctx 3).killContext ctx).setResult 0 := by
  have state : (s.ctxs.find? ctx).map Ctx.state ≠ some 2 := fun killed => by
    rw [State.isIn, killed] at inside
    exact absurd inside (by decide)
  unfold evKillContext
  rw [startOp_of_idle idle]
  simp only [beginOp_ctxs, beginOp_isIn, if_neg state, inside, Bool.not_true, Bool.and_false, Bool.false_eq_true, if_false]

theorem evKillLaunch_of_launch {l : Launch} (hl : s.launches.find? (s.regs.ctxaddr.toNat % 2 ^ 32) = some l) (own : l.ctx = ctx) :
    evKillLaunch ctx s = ((s.beginOp ctx 4).killLaunch 10 (s.regs.ctxaddr.toNat % 2 ^ 32)).setResult 0 := by
  unfold evKillLaunch
  rw [startOp_of_idle idle]
  simp only [beginOp_launches, beginOp_ctxaddr, hl, Option.map_some, own, if_true]

theorem evHaltContext_of_in (inside : s.isIn ctx = true) : evHaltContext ctx s =
    (((s.groupsOf ctx).foldl State.haltGroup (s.beginOp ctx 5)).modCtx ctx (fun c => { c with frozen := true })).setResult 0 := by
  unfold evHaltContext
  rw [startOp_of_idle idle]
  simp only [beginOp_isIn, beginOp_groupsOf, inside, if_true]

theorem evHaltContext_of_out (outside : s.isIn ctx = false) : evHaltContext ctx s = (s.beginOp ctx 5).setResult 5 := by
  unfold evHaltContext
  rw [startOp_of_idle idle]
  simp only [beginOp_isIn, outside, Bool.false_eq_true, if_false]

end

/-! ### CONTEXT_OP_COMPLETE (13 R375, R376, R379, R380) -/

section
variable {s : State}

theorem evContextOpComplete_of_idle (idle : s.regs.busy = false) : evContextOpComplete s = s := if_pos (by simp [idle])

variable (busy : s.regs.busy = true)
include busy

theorem evContextOpComplete_of_unknown (unknown : s.ctxs.find? (s.regs.ctxctl.toNat % 4096) = none) : evContextOpComplete s = s.endOp := by
  simp only [evContextOpComplete, busy, unknown, Bool.not_true, Bool.false_eq_true, if_false]

variable {c : Ctx} (hc : s.ctxs.find? (s.regs.ctxctl.toNat % 4096) = some c)
include hc

/-- A switch-out ends once all has stopped, its records are written, and its caches are empty. -/
theorem evContextOpComplete_of_switching_out (out : c.state = 3) :
    let ctx := s.regs.ctxctl.toNat % 4096
    evContextOpComplete s = if s.allStopped ctx = true ∧ s.raysCarried ctx = true ∧ s.addsDone ctx = true ∧ c.recordsOut = true
      then (if (s.drainContext ctx).drainsOut ctx = true then (s.drainContext ctx).finishSwitchOut ctx c else s.drainContext ctx) else s := by
  simp only [evContextOpComplete, busy, hc, out, Bool.not_true, Bool.false_eq_true, if_false, if_true, Bool.and_eq_true, and_assoc]

variable (other : c.state ≠ 3)
include other

/-- An operation that is not a switch-out: a switch-in whose tables are not read goes on, a halt waits for its waves, the others end. -/
theorem evContextOpComplete_of_other : evContextOpComplete s =
    if s.regs.ctxctl.toNat / 4096 = 1 ∧ s.regs.outcome.isNone = true then s.switchIn (s.regs.ctxctl.toNat % 4096) c.image.toNat
    else if s.regs.ctxctl.toNat / 4096 = 5 ∧ s.regs.outcome = some 0 ∧ s.haltedStopped (s.regs.ctxctl.toNat % 4096) = false then s
    else s.endOp := by
  simp only [evContextOpComplete, busy, hc, if_neg other, Bool.not_true, Bool.false_eq_true, if_false]

theorem evContextOpComplete_of_outcome {n : Nat} (outcome : s.regs.outcome = some n)
    (halted : s.regs.ctxctl.toNat / 4096 = 5 → n = 0 → s.haltedStopped (s.regs.ctxctl.toNat % 4096) = true) : evContextOpComplete s = s.endOp := by
  rw [evContextOpComplete_of_other busy hc other, if_neg (by simp [outcome]), if_neg]
  rintro ⟨halt, ok, running⟩
  rw [halted halt (Option.some.inj (outcome.symm.trans ok))] at running
  cases running

end

/-- Settles O45: each operation by its equation where it begins, CONTEXT_OP_COMPLETE by what is under way. -/
theorem contextOperations : Obligations.ContextOperations := by
  unfold Obligations.ContextOperations
  intro s ctx op
  refine ⟨?busy, fun booted idle => controlEvent_of_booted booted (evCtxNone_of_idle idle),
    fun booted idle low high => controlEvent_of_booted booted (evCtxReservedOp_of_idle idle low high),
    fun booted idle => controlEvent_of_booted booted (evSwitchIn_of_idle idle), fun image bad => switchIn_of_bad_image bad, ?checks,
    fun image old c cces => ⟨fun s1 bs read => readContext_of_read read, fun s1 read => readContext_of_miss read⟩,
    fun c booted idle hc inside image save => controlEvent_of_booted booted (evSwitchOut_of_in idle hc inside image save),
    fun booted idle unknown => controlEvent_of_booted booted (evSwitchOut_of_unknown idle unknown),
    fun booted idle inside => controlEvent_of_booted booted (evKillContext_of_in idle inside),
    fun l booted idle hl own => controlEvent_of_booted booted (evKillLaunch_of_launch idle hl own),
    fun booted idle inside => controlEvent_of_booted booted (evHaltContext_of_in idle inside),
    fun booted idle outside => controlEvent_of_booted booted (evHaltContext_of_out idle outside),
    fun n => ⟨rfl, rfl⟩, fun n => ⟨rfl, rfl, rfl⟩, fun idle => event_of_eq (evContextOpComplete_of_idle idle),
    fun busy unknown => event_of_eq (evContextOpComplete_of_unknown busy unknown),
    fun c n busy hc other outcome halted =>
      ⟨_, event_of_eq (evContextOpComplete_of_outcome busy hc other outcome halted), endOp_of_outcome outcome⟩,
    ?halting, ?waiting, fun c busy hc out => event_of_eq (evContextOpComplete_of_switching_out busy hc out), ?finished⟩
  case busy =>
    intro booted busy
    exact ⟨controlEvent_of_booted booted (startOp_of_busy busy), controlEvent_of_booted booted (startOp_of_busy busy),
      controlEvent_of_booted booted (startOp_of_busy busy), controlEvent_of_booted booted (startOp_of_busy busy),
      controlEvent_of_booted booted (startOp_of_busy busy), controlEvent_of_booted booted (startOp_of_busy busy),
      controlEvent_of_booted booted (evCtxReservedOp_of_busy busy)⟩
  case checks =>
    intro image old new c cces ok hold hnew hc hcces
    rw [switchIn_of_image ok hold hnew hc hcces]
    refine ⟨fun taken => if_pos (or_assoc.2 taken), fun outside idle free => ?_⟩
    have free : ¬ ((old.state = 1 ∨ old.state = 3) ∨ s.imageField image 4 4 ≠ 0) := by
      rintro ((h | h) | h)
      exacts [outside h, idle h, h free]
    rw [if_neg free]
    refine ⟨fun bad => if_pos (by simp [bad]), fun header => ?_⟩
    dsimp only
    rw [if_neg (by simp [header])]
    refine ⟨fun many => if_pos many, fun least bad => ?_, fun least fit apart => ?_⟩
    · exact (if_neg (Nat.not_lt.2 least)).trans (if_pos (allotmentsMeet_of_bad bad))
    · exact (if_neg (Nat.not_lt.2 least)).trans (if_neg (ne_true_of_eq_false (allotmentsMeet_of_apart fit apart)))
  case halting =>
    intro c busy hc other outcome halt running
    refine event_of_eq ((evContextOpComplete_of_other busy hc other).trans ((if_neg ?_).trans (if_pos ⟨halt, outcome, running⟩)))
    simp [halt]
  case waiting =>
    intro c busy hc other outcome enters
    exact event_of_eq ((evContextOpComplete_of_other busy hc other).trans (if_pos ⟨enters, by simp [outcome]⟩))
  case finished =>
    rintro c ⟨s1, spilled⟩
    unfold State.finishSwitchOut
    dsimp only
    rw [spilled]
    exact ⟨_, rfl⟩

end Sys2Proof.Machine

/-! Link ports: coming up, flits and their acknowledgements, replays, and the loss of a peer (14 R388, R389, R390, R392, R394). -/

namespace Sys2Proof.Machine

/-! ### LINK_UP (14 R389) -/

section
variable {s : State} {n did : Nat} (hn : n < 8) (en : (s.port n).en = true) (off : (s.port n).up = false) (sound : (s.port n).down = false)
include hn en off sound

theorem evLinkUp_of_expected (expected : did % 8 = (s.port n).expect) (member : s.member (did % 8) = true) :
    evLinkUp n did s = (s.setPort n { s.port n with
      up := true, peer := did % 8, mismatch := false, txSeq := 0, rxSeq := 0, sent := [], refusals := 0, refused := 0 }).interrupt 3 := by
  have member : s.member (s.port n).expect = true := expected ▸ member
  simp [evLinkUp, Nat.not_le.2 hn, en, off, sound, expected, member]

theorem evLinkUp_of_mismatch (unexpected : did % 8 ≠ (s.port n).expect) :
    evLinkUp n did s = s.setPort n { s.port n with peer := did % 8, mismatch := true } := by
  simp [evLinkUp, Nat.not_le.2 hn, en, off, sound, unexpected]

end

/-! ### Flits (14 R390, R392) -/

/-- A port after what a flit acknowledges, with what it can send then. -/
def State.takeAck (s : State) (n : Nat) (f : List Byte) : State := s.setPort n (((s.port n).acked (flitField f 2 2)).pumpAll s.did)

theorem refuseFlit_of_few {s : State} {n : Nat} (few : (s.port n).refusals < 15) :
    s.refuseFlit n false = s.setPort n { s.port n with
      refusals := (s.port n).refusals + 1, wire := (s.port n).wire ++ [flitBytes (s.port n).txSeq (s.port n).rxSeq 2 0 s.did []] } := by
  simp only [State.refuseFlit, Bool.false_and, Bool.false_eq_true, if_false]
  exact if_neg (by omega)

section
variable {s : State} {n : Nat} {f : List Byte} (hn : n < 8) (up : (s.port n).up = true)
include hn up

theorem evFlitReceive_of_bad (bad : flitGood f = false) : evFlitReceive n f s = s.refuseFlit n false := by
  simp [evFlitReceive, Nat.not_le.2 hn, up, bad]

theorem evFlitReceive_of_idle (good : flitGood f = true) (kind : flitField f 4 1 = 0) : evFlitReceive n f s = s.takeAck n f := by
  simp [evFlitReceive, Nat.not_le.2 hn, up, good, kind, State.takeAck]

/-- Traffic in order puts its transactions in the inbox and is acknowledged by an idle flit. -/
theorem evFlitReceive_of_traffic (good : flitGood f = true) (kind : flitField f 4 1 = 1)
    (inOrder : flitField f 0 2 = ((s.takeAck n f).port n).rxSeq) (room : ((s.takeAck n f).port n).inbox.length < 64) :
    evFlitReceive n f s =
      let u := s.takeAck n f
      let r := parseUnits 15 ((f.drop 8).take 240) [] 0
      u.setPort n { (u.port n).addReplays r.2 with
        rxSeq := ((u.port n).rxSeq + 1) % 65536, refusals := 0
        inbox := (u.port n).inbox ++ r.1.map (fun t => { t with cls := flitField f 5 1 % 4 })
        wire := (u.port n).wire ++ [flitBytes (u.port n).txSeq (((u.port n).rxSeq + 1) % 65536) 0 0 s.did []] } := by
  simp only [State.takeAck, State.port_setPort] at inOrder room
  simp [evFlitReceive, Nat.not_le.2 hn, up, good, kind, State.takeAck, inOrder, Nat.not_le.2 room]

theorem evNakReceive_of_few {ack : Nat} (few : (((s.port n).replay ack).pumpAll s.did).refused < 16) :
    evNakReceive n ack s = s.setPort n (((s.port n).replay ack).pumpAll s.did) := by
  simp [evNakReceive, Nat.not_le.2 hn, up, Nat.not_le.2 few]

end

theorem evNakReceive_of_off {s : State} {n ack : Nat} (off : (s.port n).up = false) : evNakReceive n ack s = s := if_pos (by simp [off])

/-! ### A lost peer (14 R394) -/

section
variable {s : State} {peer : Nat}

theorem evLinkLost_of_linked (linked : (s.portTo peer).isSome = true) : evLinkLost peer s = s := if_pos (.inl linked)

theorem evLinkLost_of_lost (other : peer ≠ s.did) (lost : s.portTo peer = none) : evLinkLost peer s = s.losePeer peer :=
  if_neg (by simp [other, lost])

end

/-- What ports to a peer have queued, and what the homes here owe it, is gone. -/
def State.forgetPeer (s : State) (peer : Nat) : State := { s with
  ports := s.ports.map (fun p => (p.1, if p.2.peer = peer ∧ p.2.up = false then { p.2 with inbox := [], out := [], sent := [] } else p.2))
  tiles := s.tiles.map (fun t => (t.1, t.2.losePeer peer)) }

/-- No slice watches a word for a peer's waves. -/
def State.unwatchPeer (s : State) (peer : Nat) : State :=
  let here (m : Mon) : Bool := (m.peer.map Prod.fst) != some peer
  { s with slices := s.slices.map (fun (x : Nat × Slice) =>
    (x.1, { x.2 with entries := x.2.entries.filter here, relist := x.2.relist.filter here })) }

theorem losePeer_eq (s : State) (peer : Nat) :
    let theirs (line : Nat) : Bool := targetOf (128 * line) == peer
    s.losePeer peer =
      (((((s.txns.filter (fun (t : Txn) => t.peer == peer)).foldl State.failTxn (s.forgetPeer peer)).loseTiles peer).unwatchPeer peer).forgetLines
        theirs).dropInvariant theirs := by
  simp only [State.losePeer, Bool.and_eq_true, beq_iff_eq, Bool.not_eq_true']
  rfl

theorem unwatchPeer_slices {s : State} {peer : Nat} {x : Nat × Slice} (hx : x ∈ (s.unwatchPeer peer).slices) :
    (∀ m ∈ x.2.entries, m.peer.map Prod.fst ≠ some peer) ∧ ∀ m ∈ x.2.relist, m.peer.map Prod.fst ≠ some peer := by
  obtain ⟨y, _, rfl⟩ := List.mem_map.1 hx
  exact ⟨fun m hm => bne_iff_ne.1 (List.mem_filter.1 hm).2, fun m hm => bne_iff_ne.1 (List.mem_filter.1 hm).2⟩

theorem mem_losePeer_shares (t : HomeTile) (peer : Nat) (x : Share) : x ∈ (t.losePeer peer).shares ↔ x ∈ t.shares ∧ x.did ≠ peer :=
  List.mem_filter.trans (and_congr_right fun _ => bne_iff_ne)

/-- An asker that is not the peer's, where it is another device's. -/
theorem did_ne_of_not_theirs {o : Option Asker} {peer : Nat} (h : (!(o.map Asker.did == some peer)) = true) {a : Asker} (ha : o = some a) :
    a.did ≠ peer := by
  rintro rfl
  simp [ha] at h

theorem losePeer_joins {t : HomeTile} {peer : Nat} {j : Join} (hj : j ∈ (t.losePeer peer).joins) {a : Asker} (ha : j.peer = some a) : a.did ≠ peer :=
  did_ne_of_not_theirs (List.mem_filter.1 hj).2 ha

theorem losePeer_reads {t : HomeTile} {peer : Nat} {r : TileRead} (hr : r ∈ (t.losePeer peer).reads) {a : Asker} (ha : r.peer = some a) :
    a.did ≠ peer := did_ne_of_not_theirs (List.mem_filter.1 hr).2 ha

/-- A line whose read fails is poisoned. -/
theorem failTxn_of_fill {s : State} {x : Txn} {line : Nat} (fill : x.purpose = .fill line) (clean : line ∉ s.poison) :
    s.failTxn x = { s.dropTxn x.token with poison := s.poison ++ [line] } := by
  have clean : (s.dropTxn x.token).poison.contains line = false := by simpa [State.dropTxn] using clean
  simp only [State.failTxn, fill, clean, Bool.false_eq_true, if_false]
  rfl

theorem failTxn_of_ret {s : State} {x : Txn} {uid lane : Nat} {iss : Issue} {va : Addr} (ret : x.purpose = .ret uid iss lane va) :
    s.failTxn x = (s.dropTxn x.token).answerLane uid iss x.token none := by
  simp only [State.failTxn, ret]

/-- Settles O47: each flit by its kind, a lost peer by what `losePeer` leaves of it. -/
theorem linksCarryFlits : Obligations.LinksCarryFlits := by
  unfold Obligations.LinksCarryFlits
  intro s n
  refine ⟨fun did hn en off sound expected member => event_of_eq (evLinkUp_of_expected hn en off sound expected member),
    fun did hn en off sound unexpected => event_of_eq (evLinkUp_of_mismatch hn en off sound unexpected),
    fun f hn up bad few => event_of_eq ((evFlitReceive_of_bad hn up bad).trans (refuseFlit_of_few few)),
    fun f hn up good kind => event_of_eq (evFlitReceive_of_idle hn up good kind),
    fun f hn up good kind inOrder room => event_of_eq (evFlitReceive_of_traffic hn up good kind inOrder room),
    fun ack hn up few => event_of_eq (evNakReceive_of_few hn up few), fun ack off => event_of_eq (evNakReceive_of_off off),
    fun peer other lost => ?_,
    fun t peer => ⟨mem_losePeer_shares t peer, fun j hj a ha => losePeer_joins hj ha, fun r hr a ha => losePeer_reads hr ha⟩,
    fun x => ⟨fun line fill clean => failTxn_of_fill fill clean, fun uid iss lane va ret => failTxn_of_ret ret⟩,
    fun peer linked => event_of_eq (evLinkLost_of_linked linked)⟩
  exact ⟨_, event_of_eq ((evLinkLost_of_lost other lost).trans (losePeer_eq s peer)), fun x hx => unwatchPeer_slices hx, _, rfl⟩

end Sys2Proof.Machine

/-! Transactions performed at the home for other devices, and their answers here (08 R249, R252, R264; 14 R391, R393, R394). -/

namespace Sys2Proof.Machine

/-! ### Transactions that are answered at once (14 R391) -/

section
variable {s : State} {n op : Nat} {t : LinkTx} (hn : n < 8) (next : (s.port n).next op = some t)
include hn next

theorem serveTx_of_answer {f : State → LinkTx → State × Option (Nat × List Byte)} {s1 : State} {status : Nat} {data : List Byte}
    (h : f s t = (s1, some (status, data))) : s.serveTx n op f = (s1.takeTx n t).respond n t status data := by
  simp only [State.serveTx, if_pos hn, next, h]

end

section
variable {s : State} {n : Nat} {t : LinkTx} (hn : n < 8)
include hn

/-- READ returns the line and marks it for the peer (08 R249). -/
theorem evLinkRead_of_line {s1 : State} {bs : List Byte} (next : (s.port n).next 1 = some t) (inside : inDevice (t.addr / 128 * 128) 128 = true)
    (read : State.exactRead 2 s (physKey s.did (t.addr / 128 * 128)) 128 [] = (s1, .ok bs)) (plain : t.scope < 32) :
    evLinkRead n s = ((s1.mark (lineOf (physKey s.did (t.addr / 128 * 128))) (s.port n).peer).takeTx n t).respond n t 0 bs := by
  simp only [evLinkRead, if_pos hn, next, if_neg (Nat.not_le.2 plain)]
  exact serveTx_of_answer hn next (by simp only [inside, read, Bool.not_true, Bool.false_eq_true, if_false])

theorem evLinkRead_of_outside (next : (s.port n).next 1 = some t) (plain : t.scope < 32) (outside : inDevice (t.addr / 128 * 128) 128 = false) :
    evLinkRead n s = (s.takeTx n t).respond n t 1 [] := by
  simp only [evLinkRead, if_pos hn, next, if_neg (Nat.not_le.2 plain)]
  exact serveTx_of_answer hn next (if_pos (by simp [outside]))

theorem evLinkWrite_of_clear {s1 : State} (next : (s.port n).next 2 = some t) (inside : inDevice t.addr t.data.length = true)
    (clear : s.clearHome (t.cells s.did) = (s1, true)) : evLinkWrite n s = ((s1.physWrite (t.cells s.did)).takeTx n t).respond n t 0 [] := by
  unfold evLinkWrite
  exact serveTx_of_answer hn next (by simp only [inside, clear, Bool.not_true, Bool.false_eq_true, if_false])

/-- ATOMIC leaves its operation in the word and returns the old one, unless it returns nothing (06 R192). -/
theorem evLinkAtomic_of_clear {s1 s2 : State} {bs : List Byte} (next : (s.port n).next 3 = some t) (inside : inDevice t.addr 4 = true)
    (aligned : t.addr % 4 = 0) (kind : t.scope % 16 ≤ 10) (clear : s.clearHome [(physKey s.did t.addr, 0)] = (s1, true))
    (read : State.exactRead 2 s1 (physKey s.did t.addr) 4 [] = (s2, .ok bs)) :
    let word (o : Nat) : Word := BitVec.ofNat 32 (ofBytes ((t.data.drop o).take 4))
    evLinkAtomic n s = (((s2.physWrite (cellsAt (physKey s.did t.addr)
      (bytesOf 4 (atomicFn (t.scope % 16) (BitVec.ofNat 32 (ofBytes bs)) (word 0) (word 4)).toNat))).takeTx n t).respond n t 0
      (if t.scope < 16 then bs else [])) := by
  have accepted : ¬ ((!inDevice t.addr 4) = true ∨ t.addr % 4 ≠ 0 ∨ 10 < t.scope % 16) := by simp [inside, aligned, Nat.not_lt.2 kind]
  -- The read is named, so that the kernel does not evaluate it where it reduces the matches.
  obtain ⟨exactRead, named⟩ : ∃ exactRead, State.exactRead = exactRead := ⟨_, rfl⟩
  unfold evLinkAtomic
  rw [named] at read ⊢
  exact serveTx_of_answer hn next (by simp only [if_neg accepted, clear, read])

/-- MONW wakes at once where the word meets its condition, else the home slice keeps it (08 R252). -/
theorem evLinkMonw_of_read {s0 : State} {bs : List Byte} (next : (s.port n).next 6 = some t) (inside : inDevice t.addr 4 = true)
    (aligned : t.addr % 4 = 0) (cond : t.scope < 10) (read : State.exactRead 2 s (physKey s.did t.addr) 4 [] = (s0, .ok bs)) :
    let s1 := s0.takeTx n t
    let v : Word := BitVec.ofNat 32 (ofBytes (t.data.take 4))
    let m : Mon := ⟨0, 0, 0, some ((s.port n).peer, t.tag, t.cls), physKey s.did t.addr, s.codedAt (physKey s.did t.addr), v, t.scope⟩
    evLinkMonw n s = if monHolds t.scope (BitVec.ofNat 32 (ofBytes bs)) v = true then s1.wake m else s1.addMonitor m := by
  simp only [evLinkMonw, if_pos hn, next, read]
  exact if_neg (by simp [inside, aligned, cond])

theorem evLinkInvalidate_of_next (next : (s.port n).next 7 = some t) :
    let line := lineOf (physKey (s.port n).peer t.addr)
    evLinkInvalidate n s = (((s.forgetLines (fun l => l == line)).dropInvariant (fun l => l == line)).takeTx n t).respond n t 0 [] :=
  serveTx_of_answer hn next rfl

/-! ### DRAIN (08 R248, R264) -/

theorem evLinkDrain_of_bad (next : (s.port n).next 8 = some t) (bad : inDevice t.addr t.data.length = false ∨ t.addr % 4 ≠ 0 ∨ 8 < t.scope)
    (drain : t.scope < 16) : evLinkDrain n s = (s.takeTx n t).respond n t 1 [] := by
  have refused : (!inDevice t.addr t.data.length) = true ∨ t.addr % 4 ≠ 0 ∨ (8 < t.scope ∧ t.scope < 64) := by
    rcases bad with h | h | h
    · exact .inl (by simp [h])
    · exact .inr (.inl h)
    · exact .inr (.inr ⟨h, by omega⟩)
  simp only [evLinkDrain, if_pos hn, next]
  exact (if_neg (by omega)).trans (serveTx_of_answer hn next (if_pos refused))

theorem evLinkDrain_of_settled {s1 : State} (next : (s.port n).next 8 = some t) (inside : inDevice t.addr t.data.length = true)
    (aligned : t.addr % 4 = 0) (kind : t.scope ≤ 8) (settled : s.settleMarks (linesOf (t.cells s.did)) = (s1, true)) :
    let cs := (s1.combinedTx t).cells s1.did
    evLinkDrain n s = ((((cs.map (fun c => c.1 / 256)).dedup).foldl (fun s b =>
      s.homePut (cs.filter (fun c => c.1 / 256 == b)) (s.codedFor (256 * b))) s1).takeTx n t).respond n t 0 [] := by
  have accepted : ¬ ((!inDevice t.addr t.data.length) = true ∨ t.addr % 4 ≠ 0 ∨ (8 < t.scope ∧ t.scope < 64)) := by
    simp [inside, aligned, Nat.not_lt.2 kind]
  simp only [evLinkDrain, if_pos hn, next]
  refine (if_neg (by omega)).trans (serveTx_of_answer hn next ((if_neg accepted).trans ?_))
  simp only [settled]
  rw [if_neg (by omega)]

/-- A join of a tile here waits at its home (08 R260). -/
theorem evLinkDrain_of_join (next : (s.port n).next 8 = some t) (join : t.scope = 16) (inside : inDevice t.addr 256 = true)
    (aligned : t.addr % 256 = 0) :
    let tile := tileOf (physKey s.did t.addr)
    let home := s.home tile (BitVec.ofNat 32 (ofBytes ((t.data.drop 4).take 4)))
    evLinkDrain n s = { s.takeTx n t with tiles := s.tiles.put tile { home with joins := home.joins ++
      [{ cid := ofBytes (t.data.take 4), ctx := 0, coded := false, cls := t.cls, peer := some (t.asker (s.port n).peer) }] } } := by
  have peer : ((s.takeTx n t).port n).peer = (s.port n).peer := by rw [State.takeTx, State.port_setPort]
  simp only [evLinkDrain, if_pos hn, next, join, Nat.le_refl, true_and, if_pos (show (16 : Nat) < 64 by decide), State.regionMessage, if_true, peer]
  exact if_neg (by simp [inside, aligned])

end

theorem take_drop_flatMap {α β : Type} {k : Nat} {f : α → List β} (len : ∀ x, (f x).length = k) {xs : List α} {i : Nat} (hi : i < xs.length) :
    ((xs.flatMap f).drop (k * i)).take k = f xs[i] := by
  induction xs generalizing i with
  | nil => cases hi
  | cons x xs ih =>
    rw [List.flatMap_cons]
    cases i with
    | zero => exact List.take_left' (len x)
    | succ i =>
      rw [Nat.mul_succ, Nat.add_comm, ← List.drop_drop, List.drop_left' (len x), ih (Nat.lt_of_succ_lt_succ hi), List.getElem_cons_succ]

/-- A word of a drain combined with the home's. -/
theorem combinedTx_word {s : State} {t : LinkTx} {i : Nat} {bs : List Byte} (hi : i < t.data.length / 4)
    (read : s.view (physKey s.did t.addr + 4 * i) 4 (s.codedAt (physKey s.did t.addr + 4 * i)) = some bs) :
    ((s.combinedTx t).data.drop (4 * i)).take 4 = bytesOf 4 (atomicFn (if 64 ≤ t.scope then 1 else t.scope)
      (BitVec.ofNat 32 (ofBytes bs)) (BitVec.ofNat 32 (ofBytes ((t.data.drop (4 * i)).take 4))) 0).toNat := by
  unfold State.combinedTx
  dsimp only
  rw [take_drop_flatMap (fun j => ?_) (by simpa using hi), List.getElem_range]
  · simp only [read]
    rfl
  · split
    · exact bytesOf_length _ _
    · simp [State.bytes]

/-! ### Copies of a line (08 R249) -/

theorem forgetLines_l2 (s : State) {p : Nat → Bool} {l : Nat} (forgotten : p l = true) : (s.forgetLines p).l2.find? l = none := by
  cases held : (s.forgetLines p).l2.find? l with
  | none => rfl
  | some bs =>
    have kept : p l = false := eq_false_of_mem_filter_not (p := fun x : Nat × List Byte => p x.1) (SMap_mem_of_find? held)
    rw [forgotten] at kept
    cases kept

theorem dropInvariant_l1 {s : State} {p : Nat → Bool} {c : Nat × Core} (hc : c ∈ (s.dropInvariant p).cores) {i : Inv} (hi : i ∈ c.2.l1.inv) :
    p i.line = false := by
  obtain ⟨c0, _, rfl⟩ := List.mem_map.1 hc
  exact eq_false_of_mem_filter_not (p := fun i : Inv => p i.line) hi

theorem dropInvariant_treelets {s : State} {p : Nat → Bool} {x : Nat × List Inv} (hx : x ∈ (s.dropInvariant p).treelets) {i : Inv} (hi : i ∈ x.2) :
    p i.line = false := eq_false_of_mem_map_filter_not (p := fun i : Inv => p i.line) hx hi

/-! ### Responses and wakes (14 R391, R394) -/

section
variable {s : State} {n : Nat} {t : LinkTx} {x : Txn} (hn : n < 8)
include hn

theorem evLinkResponse_of_done (next : (s.port n).next 9 = some t) (ok : t.scope = 0) (known : s.txnOf (s.port n).peer t.tag = some x) :
    evLinkResponse n s = (s.takeTx n t).finishTxn x t.data := by
  simp only [evLinkResponse, if_pos hn, next, known, if_pos ok]

theorem evLinkResponse_of_failed (next : (s.port n).next 9 = some t) (failed : t.scope ≠ 0) (known : s.txnOf (s.port n).peer t.tag = some x)
    (other : ∀ a b c d, x.purpose ≠ .monw a b c d) : evLinkResponse n s = (s.takeTx n t).failTxn x := by
  simp only [evLinkResponse, if_pos hn, next, known, if_neg failed]

variable {uid lane : Nat} {iss : Issue} {va : Addr} {w : Wave} (monw : x.purpose = .monw uid iss lane va)
include monw

/-- A wave whose MONW could not be read consumes poison. -/
theorem evLinkResponse_of_unread_word (next : (s.port n).next 9 = some t) (failed : t.scope ≠ 0) (known : s.txnOf (s.port n).peer t.tag = some x)
    (hw : s.waveOf uid iss = some w) (runs : w.isStopped = false) (inOrder : s.inOrder w.ctx iss.wave = true) :
    evLinkResponse n s = ((s.takeTx n t).dropTxn x.token).takeTrap iss .eccUncorrectable va lane := by
  simp only [evLinkResponse, if_pos hn, next, known, if_neg failed, monw, State.poisonWave, hw, runs, inOrder, Bool.false_eq_true, if_false, if_true]

theorem evLinkWake_of_parked (next : (s.port n).next 10 = some t) (known : (s.takeTx n t).txnOf ((s.takeTx n t).port n).peer t.tag = some x)
    (hw : s.waves.find? iss.wave = some w) (own : w.uid = uid) :
    evLinkWake n s = ((s.takeTx n t).dropTxn x.token).wake ⟨w.ctx, iss.wave, uid, none, 0, false, 0, 0⟩ := by
  have here : (s.takeTx n t).waveOf uid iss = some w := by
    have found : (s.takeTx n t).waves.find? iss.wave = some w := hw
    simp [State.waveOf, found, own]
  simp only [evLinkWake, if_pos hn, next, known, monw, here]
  rfl

end

/-- Settles O48: each transaction by its event's equation in the case at hand. -/
theorem linkTransactionsAreServed : Obligations.LinkTransactionsAreServed := by
  unfold Obligations.LinkTransactionsAreServed
  intro s n t hn
  exact ⟨fun next inside s1 bs read plain => event_of_eq (evLinkRead_of_line hn next inside read plain),
    fun next plain outside => event_of_eq (evLinkRead_of_outside hn next plain outside),
    fun next inside s1 clear => event_of_eq (evLinkWrite_of_clear hn next inside clear),
    fun next inside aligned kind s1 s2 bs clear read => event_of_eq (evLinkAtomic_of_clear hn next inside aligned kind clear read),
    fun next s1 v done => event_of_eq (serveTx_of_answer hn next done), fun next s1 v done => event_of_eq (serveTx_of_answer hn next done),
    fun next inside aligned cond s0 bs read => event_of_eq (evLinkMonw_of_read hn next inside aligned cond read),
    fun next => event_of_eq (evLinkInvalidate_of_next hn next),
    fun p => ⟨fun l forgotten => forgetLines_l2 s forgotten, fun c hc i hi => dropInvariant_l1 hc hi, fun x hx i hi => dropInvariant_treelets hx hi⟩,
    fun next bad drain => event_of_eq (evLinkDrain_of_bad hn next bad drain),
    fun next inside aligned kind s1 settled => event_of_eq (evLinkDrain_of_settled hn next inside aligned kind settled),
    fun next join inside aligned => event_of_eq (evLinkDrain_of_join hn next join inside aligned),
    fun i bs hi read => combinedTx_word hi read,
    fun next ok x known => event_of_eq (evLinkResponse_of_done hn next ok known),
    fun next failed x known other => event_of_eq (evLinkResponse_of_failed hn next failed known other),
    fun next failed x uid iss lane va w known monw hw runs inOrder =>
      event_of_eq (evLinkResponse_of_unread_word hn monw next failed known hw runs inOrder),
    fun next x uid iss lane va w known monw hw own => event_of_eq (evLinkWake_of_parked hn monw next known hw own)⟩

end Sys2Proof.Machine

/-! Memory and registers as control cores and the host see them (08 R251; 09 R277, R284, R295; 14 R395, R396, R398). -/

namespace Sys2Proof.Machine

/-! ### Own memory by physical address (08 R251; 09 R277) -/

/-- What a read of an agent outside the cores leaves in the reply: its bytes, nothing after an error; none comes while it waits. -/
def State.replied (s : State) : Got → State
  | .ok bs => { s with reply := some bs }
  | .poison => { s with reply := none }
  | .miss => s

section
variable {s s1 : State} {addr len : Nat} {data : List Byte}

theorem agentRead_of_inside {r : Got} (inside : inDevice addr len = true)
    (read : State.exactRead (len / 128 + 2) s (physKey s.did addr) len [] = (s1, r)) : s.agentRead addr len = s1.replied r := by
  simp only [State.agentRead, inside, read, if_true]
  cases r <;> rfl

theorem agentRead_of_outside (outside : inDevice addr len = false) : s.agentRead addr len = { s with reply := none } :=
  if_neg (ne_true_of_eq_false outside)

theorem agentWrite_of_clear (inside : inDevice addr data.length = true) (clear : s.clearHome (cellsAt (physKey s.did addr) data) = (s1, true)) :
    s.agentWrite addr data = (s1.physWrite (cellsAt (physKey s.did addr) data)).flushAll := by
  simp only [State.agentWrite, inside, clear, if_true]

theorem agentWrite_of_outside (outside : inDevice addr data.length = false) : s.agentWrite addr data = s :=
  if_neg (ne_true_of_eq_false outside)

end

/-! ### Registers by way of the host (14 R395, R396) -/

section
variable {s : State} {r : Reg} {v : Addr} {addr len : Nat} {data : List Byte}

theorem evHostWrite_of_closed (closed : s.zephyr.hostreg = false ∨ s.zephyr.booted = false) : evHostWrite (some r) v addr data s = s :=
  if_neg (by rcases closed with h | h <;> simp [h])

theorem evHostWrite_of_open (hostreg : s.zephyr.hostreg = true) (booted : s.zephyr.booted = true) :
    evHostWrite (some r) v addr data s = s.writeReg r v := if_pos (by simp [hostreg, booted])

theorem evHostRead_of_closed (closed : s.zephyr.hostreg = false) :
    evHostRead (some r) addr len s = { s with reply := some (bytesOf (s.regValue r).1 0) } := if_neg (ne_true_of_eq_false closed)

theorem readReg_of_value {n val : Nat} (h : s.regValue r = (n, some val)) : s.readReg r = { s with reply := some (bytesOf n val) } := by
  simp only [State.readReg, h]

theorem evHostRead_of_open {n val : Nat} (hostreg : s.zephyr.hostreg = true) (h : s.regValue r = (n, some val)) :
    evHostRead (some r) addr len s = { s with reply := some (bytesOf n val) } := (if_pos hostreg).trans (readReg_of_value h)

end

/-- A write to the invalidation register starts an invalidation of whole pages. -/
theorem writeReg_inval_of_idle {s : State} (v : Addr) (idle : s.regs.inval = none) :
    ∃ i : Invalidation, s.writeReg .inval v = { s with regs := { s.regs with inval := some i } } ∧ i.ctx = v.toNat % 4096 ∧
      i.lo = v.toNat / 2 ^ 12 % 2 ^ 36 * 4096 ∧ i.hi + 1 = i.lo + 2 ^ (12 + v.toNat / 2 ^ 48 % 64) :=
  ⟨_, (evInvalidationRequest_eq s _ _ _).trans (if_pos idle), rfl, rfl, Nat.sub_add_cancel (Nat.le_add_left_of_le Nat.one_le_two_pow)⟩

/-- Settles O49: memory by `agentRead` and `agentWrite`, registers by HOSTREG and by whether the control cores run. -/
theorem hostAndControlCoreAccess : Obligations.HostAndControlCoreAccess := by
  unfold Obligations.HostAndControlCoreAccess
  intro s
  refine ⟨fun addr len booted inside s1 r read => ?_, fun addr data booted inside s1 clear => ?_, fun addr data len v outside outside' => ?_,
    fun r v addr len data closed => ⟨event_of_eq (evHostWrite_of_closed (.inl closed)), event_of_eq (evHostRead_of_closed closed)⟩,
    fun r v addr data hostreg booted => event_of_eq (evHostWrite_of_open hostreg booted),
    fun r v addr data off => event_of_eq (evHostWrite_of_closed (.inr off)),
    fun v idle => writeReg_inval_of_idle v idle,
    fun r n v addr len hostreg value => event_of_eq (evHostRead_of_open hostreg value), rfl, rfl, rfl, rfl, rfl⟩
  · have reads := agentRead_of_inside inside read
    cases r with
    | ok bs => exact ⟨controlEvent_of_booted booted reads, event_of_eq reads⟩
    | poison => exact ⟨controlEvent_of_booted booted reads, event_of_eq reads⟩
    | miss => exact ⟨controlEvent_of_booted booted reads, event_of_eq reads⟩
  · have writes := agentWrite_of_clear inside clear
    exact ⟨controlEvent_of_booted booted writes, fun v => event_of_eq writes⟩
  · exact ⟨event_of_eq (agentRead_of_outside outside), event_of_eq (agentWrite_of_outside outside')⟩

end Sys2Proof.Machine

/-! Reset and boot, measurement, quotes, alarms, clock steps and soft errors (01 R49; 09 R267, R277; 14 R398 to R403). -/

namespace Sys2Proof.Machine

/-! ### Reset and boot (01 R49; 14 R398) -/

/-- The device as after reset, with what a reset keeps. -/
def State.afterReset (s : State) : State := { State.reset with
  mem := rekey s.did 0 s.mem, poison := s.rekeyLines 0
  zephyr := { s.zephyr with booted := false, pcm := [], quotes := [], halted := false }
  agenda := s.agenda, choices := s.choices, fresh := s.fresh }

/-- The image is measured and the control cores run. -/
def State.bootWith (s : State) (image : List Byte) : State :=
  { s with zephyr := { s.zephyr.extend 0 (Config.shake256 64 image) with booted := true } }

theorem extend_pcmAt (z : Zephyr) (n k : Nat) (data : List Byte) :
    (z.extend n data).pcmAt k = if k = n then Config.shake256 64 (z.pcmAt n ++ data) else z.pcmAt k := SMap.get_put _ _ _ _ _

section
variable {s : State} {image key sig : List Byte} {keyidx version : Nat}

theorem evDeviceReset_of_verified (ok : s.zephyr.imageOk image key sig keyidx version = true) :
    evDeviceReset image key sig keyidx version s = s.afterReset.bootWith image := by
  have verified : s.afterReset.zephyr.imageOk image key sig keyidx version = true := ok
  unfold State.afterReset at verified
  dsimp only at verified
  simp only [evDeviceReset, verified, Bool.true_or, if_true]
  rfl

theorem evDeviceReset_of_tolerated (bad : s.zephyr.imageOk image key sig keyidx version = false) (tolerated : s.zephyr.response 0 = 0) :
    evDeviceReset image key sig keyidx version s = (s.afterReset.logAlarm 0).bootWith image := by
  have refused : s.afterReset.zephyr.imageOk image key sig keyidx version = false := bad
  have response : s.afterReset.zephyr.response 0 = 0 := tolerated
  unfold State.afterReset at refused response
  dsimp only at refused response
  simp only [evDeviceReset, refused, response, Bool.false_or, Bool.false_eq_true, if_false, beq_self_eq_true, if_true]
  rfl

theorem evDeviceReset_of_kept (bad : s.zephyr.imageOk image key sig keyidx version = false) (response : s.zephyr.response 0 ≠ 0) :
    evDeviceReset image key sig keyidx version s = s.afterReset.logAlarm 0 := by
  have refused : s.afterReset.zephyr.imageOk image key sig keyidx version = false := bad
  have halts : (s.afterReset.zephyr.response 0 == 0) = false := beq_eq_false_iff_ne.2 response
  unfold State.afterReset at refused halts
  dsimp only at refused halts
  simp only [evDeviceReset, refused, halts, Bool.or_self, Bool.false_eq_true, if_false]
  rfl

end

/-! ### Measurement and quotes (14 R398 to R400) -/

section
variable {s : State}

theorem evExtend_of_register {n : Nat} (data : List Byte) (low : 1 ≤ n) (high : n ≤ 7) :
    evExtend n data s = { s with zephyr := s.zephyr.extend n data } := if_pos ⟨low, high⟩

theorem evQuote_of_provisioned {nonce : List Byte} (provisioned : s.zephyr.provisioned = true) (length : nonce.length = 32) :
    evQuote nonce s = { s with zephyr := { s.zephyr with quotes := s.zephyr.quotes ++
      [Config.slhSign (Config.shake256 64 (s.zephyr.quoteBytes nonce))] } } := if_pos ⟨provisioned, length⟩

theorem evQuote_of_unprovisioned (nonce : List Byte) (unprovisioned : s.zephyr.provisioned = false) : evQuote nonce s = s :=
  if_neg (by simp [unprovisioned])

/-- An operation of the control cores that has no effect has none before they run either. -/
theorem controlEvent_of_same {f : State → State} (h : f s = s) : controlEvent f s = .next s := by
  rw [controlEvent, h, ite_self]

end

/-! ### Alarms (14 R400) -/

/-- Logging alarms changes the log and the interrupts only. -/
theorem logAlarms_eq (ns : List Nat) (s : State) :
    ∃ regs, ns.foldl State.logAlarm s = { s with zephyr := { s.zephyr with log := s.zephyr.log ++ ns }, regs := regs } := by
  induction ns generalizing s with
  | nil => exact ⟨s.regs, by rw [List.append_nil]; rfl⟩
  | cons n ns ih =>
    obtain ⟨regs, h⟩ := ih (s.logAlarm n)
    refine ⟨regs, h.trans ?_⟩
    rw [List.append_cons]
    rfl

theorem evAlarm_of_logged {s : State} {a : BitVec 6} (logged : s.zephyr.strongest (alarmSources a) = 0 ∨ s.zephyr.booted = false) :
    evAlarm a s = (alarmSources a).foldl State.logAlarm s := if_pos logged

/-- While the control cores run the strongest response halts what is switched in. -/
theorem evAlarm_of_response {s : State} {a : BitVec 6} (strong : s.zephyr.strongest (alarmSources a) ≠ 0) (booted : s.zephyr.booted = true) :
    let u := (alarmSources a).foldl State.logAlarm s
    let t : State := { u with zephyr := { u.zephyr with
      halted := true, provisioned := s.zephyr.provisioned && s.zephyr.strongest (alarmSources a) == 1 } }
    evAlarm a s = ((s.ctxs.filter (fun (c : Nat × Ctx) => c.2.state == 1)).map Prod.fst).foldl State.alarmContext t := by
  obtain ⟨regs, logged⟩ := logAlarms_eq (alarmSources a) s
  have responds : ¬ (s.zephyr.strongest (alarmSources a) = 0 ∨ s.zephyr.booted = false) := by simp [strong, booted]
  simp only [evAlarm, if_neg responds, logged]

/-- The strongest response is 0 or one of those asked for, and none of these is stronger. -/
theorem strongest_isMax (z : Zephyr) (ns : List Nat) :
    z.strongest ns ∈ 0 :: ns.map z.response ∧ ∀ r ∈ 0 :: ns.map z.response, r ≤ z.strongest ns :=
  List.max?_eq_some_iff.1 List.max?_cons'

theorem response_le_strongest (z : Zephyr) {ns : List Nat} {k : Nat} (hk : k ∈ ns) : z.response k ≤ z.strongest ns :=
  (strongest_isMax z ns).2 _ (List.mem_cons_of_mem _ (List.mem_map_of_mem hk))

theorem strongest_eq_response (z : Zephyr) (ns : List Nat) : z.strongest ns = 0 ∨ ∃ k ∈ ns, z.strongest ns = z.response k := by
  refine (List.mem_cons.1 (strongest_isMax z ns).1).imp_right fun asked => ?_
  obtain ⟨k, hk, eq⟩ := List.mem_map.1 asked
  exact ⟨k, hk, eq.symm⟩

/-! ### Soft errors (09 R272, R277; 14 R401) -/

theorem targetOf_lineOf (key : Nat) : targetOf (128 * lineOf key) = targetOf key := by
  unfold targetOf lineOf
  omega

theorem isLocal_lineOf (s : State) (key : Nat) : s.isLocal (128 * lineOf key) = s.isLocal key := by
  rw [State.isLocal, targetOf_lineOf, State.isLocal]

/-- Changing every entry of a map as its key says. -/
theorem find?_map_of_keys {α : Type} (m : SMap α) {f : Nat × α → Nat × α} {g : Nat → α → α} (h : ∀ k v, f (k, v) = (k, g k v)) (j : Nat) :
    SMap.find? (m.map f) j = (m.find? j).map (g j) := by
  induction m with
  | nil => rfl
  | cons p m ih =>
    obtain ⟨k, v⟩ := p
    rw [List.map_cons, h, SMap.find?_cons, SMap.find?_cons, ih]
    by_cases same : k = j
    · rw [if_pos same, if_pos same, same]
      rfl
    · rw [if_neg same, if_neg same]

theorem strike_dirty_find? (l : L1) (line d : Nat) :
    (l.strike line).dirty.find? d = (l.dirty.find? d).map (fun b => if lineOf d = line then { b with bad := true } else b) :=
  find?_map_of_keys l.dirty (g := fun k b => if lineOf k = line then { b with bad := true } else b) (fun k v => by dsimp only; split <;> rfl) d

theorem strike_clean_find? (l : L1) (line c : Nat) :
    (l.strike line).clean.find? c = (l.clean.find? c).map (fun b => if c = line then [] else b) :=
  find?_map_of_keys l.clean (g := fun k b => if k = line then [] else b) (fun k v => by dsimp only; split <;> rfl) c

section
variable {s : State}

/-- An uncorrectable error in memory poisons its line. -/
theorem evSoftError_memory {key : Nat} (own : s.isLocal key = true) (clean : lineOf key ∉ s.poison) :
    evSoftError (.memory key) false s = { s with poison := s.poison ++ [lineOf key] } := by
  have strikes : evSoftError (.memory key) false s = s.poisonLine (lineOf key) := rfl
  rw [strikes]
  exact if_neg (by simp [isLocal_lineOf, own, clean])

/-- One in a register waits there for its consumer. -/
theorem evSoftError_register {k c : Nat} {w : Wave} (hw : s.waves.find? k = some w) (sound : .register w.uid c ∉ s.spoiled) :
    evSoftError (.register k c) false s = { s with spoiled := s.spoiled ++ [.register w.uid c] } := by
  have unlisted : s.spoiled.contains (.register w.uid c) = false := by simpa using sound
  simp only [evSoftError, State.siteOf, hw, Option.map_some, unlisted, Bool.false_eq_true, if_false]

theorem evSoftError_l2 {line : Nat} (held : (s.l2.find? line).isSome = true) :
    evSoftError (.l2 line) false s = { s with l2 := s.l2.put line [] } := if_pos held

end

/-- Settles O50: a reset by the verdict on the image, alarms by the strongest response, errors by the storage they strike. -/
theorem securityAndPower : Obligations.SecurityAndPower := by
  unfold Obligations.SecurityAndPower
  intro s
  refine ⟨?reset, ?extend, fun nonce booted provisioned length => controlEvent_of_booted booted (evQuote_of_provisioned provisioned length),
    fun nonce unprovisioned => controlEvent_of_same (evQuote_of_unprovisioned nonce unprovisioned),
    fun a logged => event_of_eq (evAlarm_of_logged logged), fun a strong booted => event_of_eq (evAlarm_of_response strong booted), ?sources,
    rfl, rfl, fun site => rfl, fun key own clean => event_of_eq (evSoftError_memory own clean),
    fun k c w hw sound => event_of_eq (evSoftError_register hw sound),
    fun cid line => ⟨rfl, strike_dirty_find? (s.l1 cid) line, strike_clean_find? (s.l1 cid) line⟩, fun line held => event_of_eq (evSoftError_l2 held)⟩
  case reset =>
    intro image key sig keyidx version
    cases ok : s.zephyr.imageOk image key sig keyidx version with
    | true =>
      exact ⟨_, event_of_eq (evDeviceReset_of_verified ok), rfl, rfl, rfl, rfl, rfl, rfl, rfl, rfl, rfl, rfl, rfl,
        fun _ => extend_pcmAt _ 0 0 _, fun n other => (extend_pcmAt _ 0 n _).trans (if_neg other)⟩
    | false =>
      by_cases tolerated : s.zephyr.response 0 = 0
      · exact ⟨_, event_of_eq (evDeviceReset_of_tolerated ok tolerated), rfl, rfl, rfl, rfl, rfl, rfl, rfl, rfl, rfl, rfl, by rw [tolerated]; rfl,
          fun _ => extend_pcmAt _ 0 0 _, fun n other => (extend_pcmAt _ 0 n _).trans (if_neg other)⟩
      · exact ⟨_, event_of_eq (evDeviceReset_of_kept ok tolerated), rfl, rfl, rfl, rfl, rfl, rfl, rfl, rfl, rfl, rfl,
          by rw [beq_eq_false_iff_ne.2 tolerated]; rfl, fun verified => (nomatch verified), fun n other => rfl⟩
  case extend =>
    intro n data booted low high
    exact ⟨_, controlEvent_of_booted booted (evExtend_of_register data low high), (extend_pcmAt _ n n data).trans (if_pos rfl),
      fun k other => (extend_pcmAt _ n k data).trans (if_neg other), booted, rfl⟩
  case sources =>
    intro a
    obtain ⟨regs, logged⟩ := logAlarms_eq (alarmSources a) s
    exact ⟨rfl, fun k hk => response_le_strongest s.zephyr hk, strongest_eq_response s.zephyr (alarmSources a), by rw [logged]⟩

end Sys2Proof.Machine
